-- ==== Sys2Proof/Word.lean ====
section
/-! DEFINITION. The span word (R37), a field of a slot, and the plainest arithmetic on them. -/

namespace Sys2Proof

/-- The 72-bit native word (R37). -/
abbrev Word := BitVec 72

/-- One octet of a message, a flash device or a host structure. -/
abbrev Octet := BitVec 8

/-- A field of a state-map slot: the slot's address, the field's lowest bit and its width. -/
structure RF where
  addr : Nat
  lo : Nat
  wid : Nat
deriving DecidableEq, Repr

/-- Bits [lo+wid-1 : lo] of `x`, unsigned. -/
def bitsOf (x lo wid : Nat) : Nat := (x / 2 ^ lo) % 2 ^ wid

/-- `x` with bits [lo+wid-1 : lo] replaced by the low bits of `v`. -/
def withBits (x lo wid v : Nat) : Nat :=
  x - bitsOf x lo wid * 2 ^ lo + v % 2 ^ wid * 2 ^ lo

/-- Bits [lo+wid-1 : lo] of a span word, unsigned. -/
def Word.bits (w : Word) (lo wid : Nat) : Nat := bitsOf w.toNat lo wid

/-- A span word with bits [lo+wid-1 : lo] replaced. -/
def Word.upd (w : Word) (lo wid v : Nat) : Word := BitVec.ofNat 72 (withBits w.toNat lo wid v)

/-- The two's complement reading of an unsigned field of `wid` bits. -/
def signed (wid x : Nat) : Int :=
  if x % 2 ^ wid < 2 ^ (wid - 1) then ((x % 2 ^ wid : Nat) : Int) else ((x % 2 ^ wid : Nat) : Int) - (2 ^ wid : Nat)

/-- The two's complement encoding of `x` in `wid` bits, as an unsigned number. -/
def unsigned (wid : Nat) (x : Int) : Nat := (x % ((2 ^ wid : Nat) : Int)).toNat

/-- Bit `i` of a number. -/
def bit (x i : Nat) : Bool := x / 2 ^ i % 2 == 1

/-- 1 for true. -/
def b2n (b : Bool) : Nat := if b then 1 else 0

/-- `x` with bit `i` set to `b`. -/
def withBit (x i : Nat) (b : Bool) : Nat := withBits x i 1 (b2n b)

/-- The indices below `w` whose bits are set in `x`, ascending. -/
def setBitsOf (x w : Nat) : List Nat := (List.range w).filter (bit x)

/-- The rounding-up quotient. -/
def ceilDiv (a b : Nat) : Nat := (a + b - 1) / b

/-- Clamp into [lo, hi]. -/
def clampInt (lo hi x : Int) : Int := if x < lo then lo else if hi < x then hi else x

/-- The number whose little-endian octets are given. -/
def ofOctets : List Nat → Nat
  | [] => 0
  | b :: r => b % 256 + 256 * ofOctets r

/-- The `n` low octets of a number, least significant first. -/
def toOctets : Nat → Nat → List Nat
  | 0, _ => []
  | n + 1, x => x % 256 :: toOctets n (x / 256)

/-- The nine octets of a span word, octet j holding bits [8j+7:8j] (R52). -/
def Word.octets (w : Word) : List Nat := toOctets 9 w.toNat

/-- Span words as they lie in 16-byte slots: nine octets each, then seven of zero (R49). -/
def slotOctets (ws : List Word) : List Nat := ws.flatMap fun w => w.octets ++ List.replicate 7 0

/-- Octets packed 9 to a span word (R367), in `n` words; unused octets 0. -/
def packOctets : Nat → List Nat → List Word
  | 0, _ => []
  | n + 1, l => BitVec.ofNat 72 (ofOctets (l.take 9)) :: packOctets n (l.drop 9)

end Sys2Proof
end

