-- ==== Sys2Proof/Syntax.lean ====
section
/-! DEFINITION. The commands the block takes: one constructor per row of the opcode table, with the operands its rule
names. A command is an event of the device's outside (a pin, a received character group, a packet, a host access), the end
of a timed activity, one instruction slot of an F-core, or the execution of a registrar command at its grain. -/

namespace Sys2Proof

/-- What a registrar command carries to its completion: source index (R452, CMD_SRC), TAG, opcode, sequence number,
effective grain and its command-ledger entry. -/
structure CmdHdr where
  src : Nat
  tag : Nat
  opcode : Nat
  seq : Nat
  grain : Nat
  log : Nat
deriving DecidableEq, Repr

/-- What a read of host memory returns: `data` octets from byte address `addr` through host port `port`. A read that no
entry covers is a host-read error. -/
structure HRead where
  port : Nat
  addr : Nat
  data : List Nat
deriving DecidableEq, Repr

/-- A command record as read from a ring or packet (R456, R457): the 64 octets and the extension's octets. -/
structure CmdRec where
  octs : List Nat
  ext : List Nat
deriving DecidableEq, Repr

/-- A character of the 8b/10b code (R59, R197): an octet, and whether it is a control character. -/
structure Chr where
  ctl : Bool
  oct : Nat
deriving DecidableEq, Repr

/-- A Griwano or package-fabric packet (R209); the payload's length gives LEN_M1. -/
structure Pkt where
  typ : Nat
  vc : Nat
  dst : Nat
  src : Nat
  dstDie : Nat
  sub : Nat
  hops : Nat
  seq : Nat
  payload : List Word
deriving DecidableEq, Repr

/-- A link-control block (R212). -/
structure Lcb where
  ackSeq : Nat
  nak : Bool
  creditReq : Bool
  pair : Nat
  init : Bool
  creditLo : Nat
  creditHi : Nat
  fresh : Bool
  holdAwake : Bool
deriving DecidableEq, Repr

/-- Received characters as one stream (R198): the receiver's running disparity on each logical lane before the first, and the
ten-bit groups in stream order. -/
structure RxLine where
  rd : List Bool
  groups : List Nat
deriving DecidableEq, Repr

/-- A training ordered set (R203): the fields of characters 1 to 11. -/
structure Tos where
  ln : Nat
  req : Nat
  stat : Nat
  rate : Nat
  dev : Nat
  chain : Nat
  rseq : Nat
  echo : Nat
  eyeH : Nat
  eyeW : Nat
deriving DecidableEq, Repr

/-- An alignment ordered set on one physical lane (R199, R201): its eight ten-bit groups, whether the COM of the lane was received
inverted, and its arrival in characters after the earliest lane's. -/
structure AosLane where
  groups : List Nat
  inv : Bool
  skew : Nat
deriving DecidableEq, Repr

/-- A delay polynomial (R90): T0 and the four coefficients, as the raw fields POLY_SET and the image carry. -/
structure Poly where
  t0 : Nat
  c0 : Nat
  c1 : Nat
  c2 : Nat
  c3 : Nat
deriving DecidableEq, Repr

/-- What one lane received in ILAS (R73, R74): the lane, its 14 configuration octets and its arrival in octets after the
earliest lane. -/
structure IlasLane where
  lane : Nat
  octs : List Nat
  skew : Nat
deriving DecidableEq, Repr

/-- A unit named by the fault rules: die code, unit kind and index (R540). -/
structure UnitId where
  die : Nat
  kind : Nat
  idx : Nat
deriving DecidableEq, Repr

/-- What one DIMM answers at training (R411): its channel, whether its SPD is accepted, its serial number, the
binary logarithm of its capacity in GiB, whether it supports DRFM, whether fast and full training complete (full training
within three attempts), and the time it took. -/
structure DimmEnv where
  die : Nat
  chan : Nat
  spdOk : Bool
  serial : Nat
  sizeLog2 : Nat
  drfm : Bool
  fastOk : Bool
  fullOk : Bool
  ms : Nat
deriving DecidableEq, Repr

/-- The ageing baseline measured on a die at commissioning (R568): readings R0 by monitor and stage, eye heights by lane and
DRAM margins by subchannel. -/
structure Baseline where
  die : Nat
  mons : List (Nat × Nat × Nat)
  eyes : List (Nat × Nat)
  dram : List (Nat × Nat)
deriving DecidableEq, Repr

/-- A firmware bundle whose signature verifies: the SHA-256 of the key it verifies under and the bundle's measurement (R478). -/
structure FwBundle where
  keyHash : List Nat
  meas : List Nat
deriving DecidableEq, Repr

/-- What a flash device answers (R470): whether its SFDP is accepted and its reads complete, its JEDEC identification and its
capacity in MiB. -/
structure FlashEnv where
  good : Bool
  jedec : Nat
  mib : Nat
deriving DecidableEq, Repr

/-- What a start meets outside the registrar (R486): units whose BIST fails, what each flash device gives, the DIMMs, the
TRNG, and which stores of DRAM read poisoned. -/
structure MusterEnv where
  bistFail : List UnitId
  flashA : FlashEnv
  flashB : FlashEnv
  fwA : Option FwBundle
  fwB : Option FwBundle
  trngStart : Bool
  trngKey : Bool
  dimms : List DimmEnv
  ckptBad : Bool
  hdrBad : Bool
  badProg : List Nat
  ms : Nat
deriving DecidableEq, Repr

/-- What the commands of a grain meet outside (R461): host memory as they read it, a start that one of them begins, the baseline
of a commissioning, and the units whose BIST fails at their reinstatement. -/
structure GrainEnv where
  mem : List HRead
  start : MusterEnv
  base : List Baseline
  bistFail : List UnitId
deriving DecidableEq, Repr


/-- The commands, in the order of the opcode table. -/
inductive Instr where
  /-- NOP (R461). Command that does nothing and completes DONE. -/
  | nop (c : CmdHdr)
  /-- ATTEST (R508). Command that queues an attestation report with the given nonce and returns the PAN of its ATT product. -/
  | attest (c : CmdHdr) (nonce : List Nat)
  /-- CTR_SNAP (R581). Command that reads the named counters of the named dies at its grain within bounded skew and clears their OVF bits. -/
  | ctrSnap (c : CmdHdr) (dies ctrs : Nat)
  /-- PROG_START (R461). Command that schedules a programme switch at the first consignment boundary at or after its grain. -/
  | progStart (c : CmdHdr) (prog : Nat)
  /-- PROG_STOP (R118). Command that suspends the running programme at a consignment boundary, after which no records or consignments are formed. -/
  | progStop (c : CmdHdr)
  /-- DUMP (R306). Command that closes a dump set's interval at the last short integration ended by its grain and dumps it. -/
  | dump (c : CmdHdr) (dies dset : Nat)
  /-- VITRINE (R139). Command that opens or merges a vitrine around a given time over given package inputs. -/
  | vitrine (c : CmdHdr) (t pre post first count : Nat)
  /-- FADE (R108). Command that queues a coefficient cross-fade of one input. -/
  | fade (c : CmdHdr) (d i l : Nat)
  /-- COEF_LOAD (R461). Command that loads an input's shadow coefficient bank from a set of the image. -/
  | coefLoad (c : CmdHdr) (d i set : Nat)
  /-- POLY_SET (R95). Command that writes an input's pending delay polynomial set with its effective grain. -/
  | polySet (c : CmdHdr) (d i : Nat) (p : Poly)
  /-- BEAM_SET (R318). Command that writes a pending beam descriptor. -/
  | beamSet (c : CmdHdr) (d b : Nat) (ws : List Word)
  /-- REF_FORCE (R380). Command that makes the reference selector choose a named candidate. -/
  | refForce (c : CmdHdr) (r : Nat)
  /-- SYSREF_BURST (R404). Command that sends a SYSREF burst on the named outputs. -/
  | sysrefBurst (c : CmdHdr) (mask : Nat)
  /-- LAND_REG (R447). Command that registers a host landing ring for a product ring on a port and resends from ACKED + 1. -/
  | landReg (c : CmdHdr) (ring k vec base cons prod : Nat) (mem : List HRead)
  /-- LAND_DROP (R461). Command that stops writes to a landing ring at a product boundary while the target stays bound. -/
  | landDrop (c : CmdHdr) (ring : Nat)
  /-- RETAIN (R519). Command that starts entry into RETAIN: writes its completion, refuses unended intervals and seals every ring. -/
  | retain (c : CmdHdr)
  /-- SET_TIME (R391). Command that sets device time to given seconds at a named PPS edge or at its grain. -/
  | setTime (c : CmdHdr) (sec pps : Nat)
  /-- ASYM_CAL (R401). Command that starts a one-way asymmetry calibration of a chain with N exchanges. -/
  | asymCal (c : CmdHdr) (chain n : Nat)
  /-- REINSTATE (R541). Command that reinstates a deaccessioned unit, appending a fault record and clearing its buckets. -/
  | reinstate (c : CmdHdr) (u : UnitId) (bistOk : Bool)
  /-- WARM_RESET (R461). Command that writes its completion and then warm-resets the device. -/
  | warmReset (c : CmdHdr) (env : MusterEnv)
  /-- DORMANT (R521). Command that writes its completion and moves the device to DORMANT. -/
  | dormant (c : CmdHdr)
  /-- EPOCH_RESET (R130). Command that continues a start stopped for epoch exhaustion or STORE_LOST by resetting the stored epoch and counters. -/
  | epochReset (c : CmdHdr) (scc floor : Nat) (env : MusterEnv)
  /-- IMAGE_UPDATE (R490). Command that writes an image from host memory into a flash device and checks it with pass 1. -/
  | imageUpdate (c : CmdHdr) (dev addr len : Nat) (mem : List HRead)
  /-- OWNER_TRANSFER (R499). Command that records or cancels a pending owner key hash. -/
  | ownerTransfer (c : CmdHdr) (hash : List Nat) (base : List Baseline)
  /-- DEBUG_UNLOCK (R513). Command that verifies a challenge response and unlocks JTAG scopes for a duration. -/
  | debugUnlock (c : CmdHdr) (resp : List Nat)
  /-- COMMAND_DOORBELL (R455). Host write of the command doorbell that makes the registrar read and check new command records. -/
  | commandDoorbell (port tail cplHead : Nat) (mem : List HRead)
  /-- GRIWANO_COMMAND (R459). A command packet from a Griwano source is taken as a command record. -/
  | griwanoCommand (p : Pkt)
  /-- STATE_READ (R459). A Griwano state-read packet is answered with the named slots, zero where denied. -/
  | stateRead (p : Pkt)
  /-- STATE_WRITE (R460). A Griwano state-write packet writes the named whole slots under the source's rights. -/
  | stateWrite (p : Pkt)
  /-- GRAIN_START (R465). At the start of a grain the registrar executes that grain's pending commands in rank and arrival order. -/
  | grainStart (g : Nat) (ge : GrainEnv)
  /-- ACK_DOORBELL (R450). Host acknowledgement doorbell that applies a PAN to a ring target and reads the consumer record. -/
  | ackDoorbell (port ring data : Nat) (cons : Option (Nat × Nat))
  /-- REGISTER_WRITE (R445). A whole-slot state-map write to a register without a row of its own, applied or ignored under the source's rights, W1C bits cleared. -/
  | registerWrite (port addr data : Nat)
  /-- PARTIAL_WRITE (R51). A write narrower than a 16-byte slot has no effect and sets PARTIAL_WR. -/
  | partialWrite (port addr : Nat)
  /-- DENIED_READ (R444). A read refused for lack of right returns zero and sets DENIED. -/
  | deniedRead (port addr : Nat) (len : Nat := 16)
  /-- DMA_DOORBELL (R428). A write of 1 to a DMA channel doorbell makes the channel ready when its HEAD descriptor is owned. -/
  | dmaDoorbell (d e c : Nat) (bad : Bool)
  /-- PORT_UP (R439). A host port's PCIe tunnel is established and its targets resend. -/
  | portUp (port link : Nat)
  /-- PORT_DOWN (R439). A host port's link retrains or tunnel is lost, charging its bucket and possibly deaccessioning it. -/
  | portDown (port : Nat) (lost testFail : Bool)
  /-- MSIX_HOLDOFF (R443). Expiry of a vector's holdoff after which merged events signal the vector again. -/
  | msixHoldoff (port vec : Nat)
  /-- CDR_LOCK (R70). An ingest lane achieves CDR lock and moves from ACQ to HUNT. -/
  | cdrLock (d n : Nat) (pll : Bool)
  /-- CGS_ACHIEVED (R70). Four consecutive /K/ received without error put an ingest lane in CGS. -/
  | cgsAchieved (d n : Nat)
  /-- CGS_LOSS (R66). Loss of CDR lock or code-group synchronisation re-initialises the link and charges the lane's REALIGN bucket. -/
  | cgsLoss (d n : Nat) (cdr : Bool)
  /-- CHARACTER_ERROR (R67). A code, disparity or unexpected-control error flags frames f-1 and f of the link and charges the CHAR bucket. -/
  | characterError (d n ch g : Nat) (pos : Bool := false)
  /-- MISPLACED_ALIGNMENT (R66). A misplaced /A/ or /F/ is counted and re-initialises the link on a repeat at the same wrong position. -/
  | misplacedAlignment (d n : Nat) (isA : Bool) (pos : Nat) (since : Bool)
  /-- ILAS_START (R72). A link whose lanes are in CGS with SYNC~ held long enough deasserts SYNC~ and enters ILAS. -/
  | ilasStart (d j : Nat)
  /-- ILAS_COMPLETE (R73). Four ILAS multiframes received on every lane are checked and the link enters DATA or ILAS_FAIL. -/
  | ilasComplete (d j : Nat) (lanes : List IlasLane) (firsts : List Nat) (t : Nat)
  /-- ILAS_RETRY (R71). Expiry of ILAS_RETRY_MS returns a failed link to SYNC. -/
  | ilasRetry (d j : Nat)
  /-- FRAME_RELEASE (R76). A multiframe is released from the elastic buffers to the DFU with its release time and clean report. -/
  | frameRelease (d j : Nat) (q0 q1 q2 q3 : List (List Nat))
  /-- LINK_WAIT (R84). Expiry of the wait limit of an enabled link out of DATA deaccessions the link. -/
  | linkWait (d j : Nat)
  /-- UPDATE_POINT (R91). At an update point the DFU evaluates each input's delay polynomial, taking any pending set into effect. -/
  | updatePoint (d n : Nat)
  /-- DFU_OUTPUT (R102). The DFU forms and requantises one output sample of an input for a grid time. -/
  | dfuOutput (d i m : Nat)
  /-- FADE_START (R108). A queued fade request starts once its fade units are free. -/
  | fadeStart (d : Nat)
  /-- FADE_END (R104). The last output of a fade makes the shadow bank live and frees its units. -/
  | fadeEnd (d i : Nat)
  /-- DFU_CHANGE (R106). A change of D, R2C, MODE or parts takes effect at a consignment boundary and discards history. -/
  | dfuChange (d i cfg : Nat) (cplx : Nat := 0) (c : Option CmdHdr := none)
  /-- INTERVAL_START (R118). At the first grid time of a folio interval the ACU opens the consignment and writes its record. -/
  | intervalStart (k : Nat)
  /-- SETTLING (R122). When every ACU has the interval's last output sample the consignment becomes SETTLING. -/
  | settling (k : Nat)
  /-- FOLIO_READ_BACK (R120). The read-back of a folio's last burst completes and the folio passes or fails its checks. -/
  | folioReadBack (d i k : Nat) (pair : Bool) (outc : Nat) (data : List Word)
  /-- CAN_NUMBERING (R128). The registrar numbers a passed consignment with the next CAN and writes it into every directory. -/
  | canNumbering
  /-- ACC_WINDOW_EXPIRY (R122). Expiry of ACC_WINDOW without every read-back refuses the consignment LATE. -/
  | accWindowExpiry (k : Nat)
  /-- VITRINE_HANDOVER (R143). A settled vitrine record is handed to the packer and its pin released once written. -/
  | vitrineHandover (d v : Nat)
  /-- MNOP (R186). M-slot no-operation. -/
  | mnop (d c : Nat) (ecc : Nat := 0)
  /-- CMUL (R186). Complex multiply of pairs with 17 fractional bits. -/
  | cmul (d c : Nat) (ecc : Nat := 0)
  /-- CMULJ (R186). Complex multiply by the conjugate. -/
  | cmulj (d c : Nat) (ecc : Nat := 0)
  /-- CMULW (R186). Complex multiply by twiddles with 16 fractional bits. -/
  | cmulw (d c : Nat) (ecc : Nat := 0)
  /-- RMUL (R186). Real-coefficient multiply of a quad of samples. -/
  | rmul (d c : Nat) (ecc : Nat := 0)
  /-- FTAP (R186). Filter tap with move: weighted quad plus the partial sums eight registers above. -/
  | ftap (d c : Nat) (ecc : Nat := 0)
  /-- CROT (R186). Complex rotate with recursive phasor advance. -/
  | crot (d c : Nat) (ecc : Nat := 0)
  /-- CMAC (R186). Complex multiply-accumulate into an accumulator. -/
  | cmac (d c : Nat) (ecc : Nat := 0)
  /-- CMACJ (R186). Complex multiply-accumulate with the conjugate. -/
  | cmacj (d c : Nat) (ecc : Nat := 0)
  /-- ACCRD (R186). Reads two accumulators shifted and clamped into a register. -/
  | accrd (d c : Nat) (ecc : Nat := 0)
  /-- ACCCLR (R186). Clears an accumulator. -/
  | accclr (d c : Nat) (ecc : Nat := 0)
  /-- ANOP (R187). A-slot no-operation. -/
  | anop (d c : Nat)
  /-- ADD (R187). Adds or subtracts pairs with a shift. -/
  | add (d c : Nat)
  /-- BF2 (R187). Radix-2 butterfly with stage shift. -/
  | bf2 (d c : Nat)
  /-- BF4 (R187). Radix-4 butterfly with stage shift, writing at a stride of four registers. -/
  | bf4 (d c : Nat)
  /-- MOV (R187). Copies, swaps lanes, conjugates or negates a register group. -/
  | mov (d c : Nat)
  /-- LOGIC (R187). Bitwise logic on registers. -/
  | logic (d c : Nat)
  /-- SHL (R187). Shifts parts left by a constant or by BEX. -/
  | shl (d c : Nat)
  /-- RQ4 (R47). Requantises a quad to one C4 word with flags from predicates. -/
  | rq4 (d c : Nat)
  /-- RQ8 (R47). Requantises a pair to one C8 word with flags from predicates. -/
  | rq8 (d c : Nat)
  /-- PRED (R187). Predicate logic operation. -/
  | pred (d c : Nat)
  /-- BEXP (R163). Block-exponent step setting BSH, raising BEX and resetting BG. -/
  | bexp (d c : Nat)
  /-- BCLR (R187). Clears BEX, BSH and BG. -/
  | bclr (d c : Nat)
  /-- LD (R188). Loads registers from XM or YM and post-modifies the address. -/
  | ld (d c ecc : Nat)
  /-- LDU (R188). Loads and unpacks one input word to C18 with predicates. -/
  | ldu (d c ecc : Nat)
  /-- ST (R188). Stores registers to XM or YM. -/
  | st (d c ecc : Nat)
  /-- DXLYS (R188). Dual access: XM load and YM store. -/
  | dxlys (d c ecc : Nat)
  /-- DXSYL (R188). Dual access: XM store and YM load. -/
  | dxsyl (d c ecc : Nat)
  /-- DXLYL (R188). Dual access: loads from both memories. -/
  | dxlyl (d c ecc : Nat)
  /-- AADD (R188). Adds an immediate to an address register. -/
  | aadd (d c : Nat)
  /-- ALI (R188). Loads an address register with an immediate. -/
  | ali (d c : Nat)
  /-- MVTS (R188). Moves a register to a special register. -/
  | mvts (d c : Nat)
  /-- MVFS (R188). Moves a special register to a register, counting as the DBMSG read. -/
  | mvfs (d c : Nat)
  /-- BR (R188). Guarded branch with two delay slots. -/
  | br (d c : Nat)
  /-- CALL (R188). Guarded call saving the return address in A15. -/
  | call (d c : Nat)
  /-- MISC_NOP (R189). C-slot no-operation. -/
  | miscNop (d c : Nat)
  /-- HALT (R189). Stops the core until the registrar restarts it. -/
  | halt (d c : Nat)
  /-- ATOM (R189). Opens an ATOMIC block of the next n + 1 bundles. -/
  | atom (d c : Nat)
  /-- IWAIT (R189). Stalls until the next input buffer is complete and loads its address. -/
  | iwait (d c : Nat)
  /-- IREL (R189). Returns the oldest input buffer to the feeder. -/
  | irel (d c : Nat)
  /-- OPUT (R189). Marks the output frame complete with its tag and waits for a free frame. -/
  | oput (d c : Nat)
  /-- EI (R189). Sets interrupt enables. -/
  | ei (d c : Nat)
  /-- DI (R189). Clears interrupt enables. -/
  | di (d c : Nat)
  /-- SOFT (R189). Raises the SOFT interrupt source. -/
  | soft (d c : Nat)
  /-- RET (R189). Returns to A15 after two delay slots. -/
  | ret (d c : Nat)
  /-- RTI (R189). Returns from interrupt restoring the shadow registers. -/
  | rti (d c : Nat)
  /-- LOOP (R192). Starts a hardware loop of up to 1,024 bundles, staged or not. -/
  | loop (d c : Nat)
  /-- REP (R192). Starts a repeat of up to 32 bundles through the repeat cache. -/
  | rep (d c : Nat)
  /-- ITERATION_END (R192). At a loop's iteration end its counter is decremented, WIN and SIT advance and the loop closes or ends. -/
  | iterationEnd (d c : Nat)
  /-- INTERRUPT_TAKE (R158). A core takes a pending interrupt at a take point, saving shadow state and entering the handler. -/
  | interruptTake (d c : Nat)
  /-- INPUT_BUFFER_COMPLETE (R168). The feeder completes a YM input buffer of an accepted or refused record, raising IN_READY. -/
  | inputBufferComplete (d c : Nat)
  /-- OUTPUT_FRAME_FREED (R169). The CTE frees an output frame, raising OUT_SPACE and releasing a stalled OPUT. -/
  | outputFrameFreed (d c : Nat)
  /-- DOORBELL_MESSAGE (R162). The registrar posts a message word into DBMSG and raises DOORBELL. -/
  | doorbellMessage (d c code arg : Nat)
  /-- CORE_TIMER (R157). The core timer reaches its grain and raises TIMER. -/
  | coreTimer (d c : Nat)
  /-- CORE_WATCHDOG (R543). A core's watchdog expires and the core faults with cause WATCHDOG. -/
  | coreWatchdog (d c : Nat)
  /-- CKPT_SAVE (R173). A core serves CKPT at its next take point, saving its whole state to DRAM. -/
  | ckptSave (d c us : Nat)
  /-- FC_RETEST (R175). Retest timer of a core that gave up its work runs BIST and counts consecutive passes. -/
  | fcRetest (d c : Nat) (pass : Bool)
  /-- SEND_FOLIO (R235). Once every core has completed a folio's frames and the window allows, the CTE sends its chunks and marker on each stream. -/
  | sendFolio (d folio : Nat)
  /-- IDLE_MARKER_TIMER (R235). After IDLE_MARK_US without a marker the source sends an IDLE marker. -/
  | idleMarkerTimer (d : Nat)
  /-- DATA_PACKET (R236). A stream data packet is appended to the pending store unless the stream is quiet. -/
  | dataPacket (d : Nat) (p : Pkt)
  /-- MARKER (R236). A stream marker is checked and its folios committed to the stint buffer, or a REWIND sent. -/
  | marker (d : Nat) (p : Pkt)
  /-- REWIND_RECEIVED (R245). A source receiving REWIND restores its F-cores and CTE from the checkpoint and prepares replay. -/
  | rewindReceived (d : Nat) (p : Pkt)
  /-- QUIET_EXPIRY (R245). After QUIET_US the rewinding source sends SYNC on every stream and replays. -/
  | quietExpiry (d : Nat)
  /-- COMMIT_REPORT_TIMER (R243). Every CM_PERIOD_US a receiving die sends COMMIT reports to its sources. -/
  | commitReportTimer (d : Nat)
  /-- REPORT_RECEIVED (R242). A COMMIT report updates the destination's committed folio and released short integration at the source. -/
  | reportReceived (d : Nat) (p : Pkt)
  /-- STREAM_LOST (R247). A stream that delivers no marker for LOST_MS becomes LOST. -/
  | streamLost (d e : Nat)
  /-- DEST_LOST (R247). A destination that sends no report for LOST_MS becomes LOST to its sources. -/
  | destLost (d dev die : Nat)
  /-- STINT_SLOT_RELEASE (R241). A stint slot is released once the ledger, beam engine and packer have taken its short integration. -/
  | stintSlotRelease (d n : Nat)
  /-- WORK_ORDER_ISSUE (R266). The gallery scheduler issues a work order to a logical tile's queue. -/
  | workOrderIssue (d lt : Nat)
  /-- WORK_ORDER_START (R269). A queued work order starts once its bank is FREE, zeroing its cells. -/
  | workOrderStart (d t : Nat)
  /-- TILE_CYCLE (R258). In an active cycle every cell and checksum cell accumulates its product of valid samples. -/
  | tileCycle (d t : Nat) (err : Option (Nat × Int))
  /-- SEAL (R273). A bank that has covered its short integration is checked against its checksum row and column. -/
  | sealBank (d t b : Nat)
  /-- TILE_BIST_DONE (R276). End of a tile's BIST decides a transient rerun or a give-up and loan. -/
  | tileBistDone (d t : Nat) (pass : Bool)
  /-- DRAIN_ACK (R268). The ledger adder acknowledges a bank's drain records and the bank becomes FREE. -/
  | drainAck (d t b : Nat)
  /-- TILE_WATCHDOG (R277). An order without progress for WD_US makes the tile give up its work. -/
  | tileWatchdog (d t : Nat) (off : Bool := false)
  /-- TILE_RETEST (R279). Retest timer of a tile that gave up runs BIST and counts passes. -/
  | tileRetest (d t : Nat) (pass : Bool)
  /-- SHORT_INTEGRATION_BOUNDARY (R281). At a boundary of short integrations tiles return, entries move or retire, and detected records and saves are made. -/
  | shortIntegrationBoundary (d n : Nat)
  /-- DRAIN_RECORD (R293). A complete drain or beam record is applied, skipped or held against its block header. -/
  | drainRecord (d t b : Nat) (badHdr : Bool) (bad : List Nat)
  /-- GAP_TIMEOUT (R294). A gap record held beyond GAP_US is discarded and its order returned for rerun. -/
  | gapTimeout (d t b : Nat)
  /-- HEADER_WRITE (R296). After all group writes are acknowledged the block header is written with the new LAST_SI. -/
  | headerWrite (d : Nat)
  /-- DUMP_UNIT (R303). A block reaching LAST_SI n is read and handed to the packer as a dump unit. -/
  | dumpUnit (d dset : Nat) (badHdr : Bool) (bad : List Nat)
  /-- LEDGER_CLEAR (R304). Once a dump unit is committed, a CLEAR block's header is rewritten with ZERO set. -/
  | ledgerClear (d blk : Nat)
  /-- UPDATE_INTERVAL (R320). At each update interval the beam engine computes every delay at the midpoint. -/
  | updateInterval (d k : Nat)
  /-- BEAM_PASS (R322). The beam engine forms the weighted sums of a segment's channel and time for a pass. -/
  | beamPass (d p : Nat) (bad : Bool)
  /-- TRIGGER_SAMPLE (R331). A detector forms a trigger sample and updates its mean and variance. -/
  | triggerSample (d m : Nat)
  /-- UNIT_ENTRY (R352). The packer writes a product into its ring or reserve store, hashes it and commits its control record. -/
  | unitEntry (ring : Nat)
  /-- SEAL_TIMER (R366). SEAL_S seconds since the last SEAL trigger a SEAL on a ring with uncovered products. -/
  | sealTimer (ring : Nat)
  /-- SEAL_SIGN (R368). The SEC signs a queued SEAL with the epoch's seal key and it is committed. -/
  | sealSign
  /-- TARGET_SEND (R356). A target sends the next committed product to its host landing ring or collector. -/
  | targetSend (ring tgt : Nat) (bad : List Nat)
  /-- COLLECTOR_ACK (R357). A collector's acknowledgement packet advances a target's ACKED. -/
  | collectorAck (p : Pkt)
  /-- ACK_TIMEOUT (R359). ACKED not advancing for ACK_TO_MS makes a target resend. -/
  | ackTimeout (ring tgt : Nat)
  /-- TELEMETRY_TIMER (R584). Every TEL_PERIOD_S the keeper enters a TEL product. -/
  | telemetryTimer (temps : List (Nat × List Int)) (vddAo total : Nat) (watts : List Nat)
  /-- SNAPSHOT_COMPLETE (R582). When every die has delivered its counter reads the CTR product is entered. -/
  | snapshotComplete
  /-- COUNTER_WRAP (R576). A counter passes 2^48 - 1, sets OVF and may interrupt a core. -/
  | counterWrap (d k n : Nat)
  /-- REF_ACTIVITY_FAIL (R374). A reference's activity monitor fails and the reference leaves QUALIFIED. -/
  | refActivityFail (r : Nat)
  /-- FREQUENCY_GATE (R375). A gate ends and the reference's offset is measured against the accept and reject limits. -/
  | frequencyGate (r : Nat) (ppb : Int)
  /-- QUALIFICATION_COMPLETE (R376). A reference within limits for QUAL_S becomes QUALIFIED. -/
  | qualificationComplete (r : Nat)
  /-- LO_LOSS (R377). LO_IN activity fails, stopping qualification counts. -/
  | loLoss
  /-- LO_WARM_TIMER (R377). LO_IN becomes warm after LO_WARM_S of unbroken activity. -/
  | loWarmTimer
  /-- SWITCH_END (R382). A reference switch ends and the DPLL takes the new phase in one step. -/
  | switchEnd (phase : Int) (ge : GrainEnv)
  /-- DPLL_LOCK (R378). Phase within 2 ns for 1 s puts the DPLL in LOCKED. -/
  | dpllLock
  /-- LADDER_DWELL (R384). A ladder step's dwell expires and the DPLL bandwidth moves to the next step. -/
  | ladderDwell
  /-- HISTORY_SECOND (R385). Each device second the RSC records the mean control value in its history. -/
  | historySecond (sec : Nat) (c : Int)
  /-- HOLDOVER_EXPIRY (R387). Holdover age passes HO_MAX_S and stops counting as qualified. -/
  | holdoverExpiry
  /-- SYNC_MESSAGE (R398). An accepted Sync is forwarded downstream or drives the follower's servo. -/
  | syncMessage (k : Nat) (p : Pkt) (tin : Nat) (touts : List (Nat × Nat)) (ge : GrainEnv)
  /-- DELAY_REQ (R394). A Delay_Req is forwarded upstream with its arrival recorded, or answered at the lead. -/
  | delayReq (k : Nat) (p : Pkt) (tin tout : Nat)
  /-- DELAY_RESP (R397). A Delay_Resp is routed back or used by the follower to update its path delay. -/
  | delayResp (k : Nat) (p : Pkt)
  /-- SYNC_ORIGINATE (R394). The lead originates Sync on its downstream chains at the Sync interval. -/
  | syncOriginate (touts : List (Nat × Nat))
  /-- DELAY_REQ_ORIGINATE (R396). A follower originates a Delay_Req at the Delay_Req interval. -/
  | delayReqOriginate (touts : List (Nat × Nat))
  /-- SYNC_TIMEOUT (R399). No Sync accepted for SYNC_TO_S puts the servo in TIME_HOLD. -/
  | syncTimeout
  /-- PPS_EDGE (R391). A PPS rising edge named by a pending SET_TIME sets device time. -/
  | ppsEdge (r : Nat) (ge : GrainEnv)
  /-- CAL_DONE (R401). An asymmetry calibration's exchanges finish and the measured asymmetry is set. -/
  | calDone (k : Nat) (sumOut : Int) (nOut : Nat)
  /-- CRYSTAL_DISCIPLINE (R527). Every 64 s the AOI measures the 32.768 kHz crystal against the DPLL clock. -/
  | crystalDiscipline (ppb : Int)
  /-- SIGNAL_DETECT (R202). Signal and symbol lock on all receive lanes move a chain from DETECT to TRAIN. -/
  | signalDetect (k : Nat)
  /-- TOS_RECEIVED (R203). A training ordered set is received and its request applied to the transmitter. -/
  | tosReceived (k lane : Nat) (groups : List Nat) (pos inv : Bool := false)
  /-- EYE_MEASURE (R205). After settling, the receiver measures the eye and issues its next training request or finishes. -/
  | eyeMeasure (k lane h w : Nat)
  /-- TRAIN_RETRY (R202). Expiry of the 10 ms wait after a failed training returns the chain to DETECT. -/
  | trainRetry (k : Nat)
  /-- AOS_SEND (R199). Every 4,096 characters each lane sends an alignment ordered set. -/
  | aosSend (k : Nat)
  /-- AOS_RECEIVED (R201). A received AOS deskews the lanes and rechecks ALIGN conditions. -/
  | aosReceived (k : Nat) (lanes : List AosLane)
  /-- SYMBOL_LOCK_LOSS (R202). A lane loses symbol lock and the chain retrains. -/
  | symbolLockLoss (k lane : Nat)
  /-- PACKET_RECEIVED (R211). A Griwano packet is accepted and delivered or forwarded, or discarded with a NAK. -/
  | packetReceived (k start : Nat) (x : RxLine) (begun : Bool)
  /-- LCB_RECEIVED (R212). A link-control block updates acknowledgements, credits and INIT state. -/
  | lcbReceived (k start : Nat) (x : RxLine)
  /-- TRANSMIT_CHOICE (R217). At a packet boundary the transmitter sends a due LCB, a retransmission or the next VC's packet. -/
  | transmitChoice (k : Nat)
  /-- LCB_SEND_TIMER (R213). An LCB is sent after 1 us or LC_REFRESH_US with changed values. -/
  | lcbSendTimer (k : Nat)
  /-- REPLAY_TIMEOUT (R215). ACK_SEQ not advancing for REPLAY_TO_US retransmits from the oldest and may retrain. -/
  | replayTimeout (k : Nat)
  /-- CREDIT_TIMEOUT (R216). A VC waiting for credit beyond CREDIT_TO_US requests credit and sets CREDIT_STALL. -/
  | creditTimeout (k vc : Nat)
  /-- SLEEP_IDLE (R222). After SLEEP_IDLE_US idle a transmit direction sends SLP and goes to electrical idle. -/
  | sleepIdle (k : Nat)
  /-- SLEEP_RECEIVED (R222). A receiver receiving SLP freezes or powers down its front end. -/
  | sleepReceived (k level : Nat)
  /-- DIRECTION_WAKE (R223). A sleeping direction with something to send wakes with a COM preamble and AOS. -/
  | directionWake (k ns : Nat)
  /-- PKF_PACKET (R21). A PKF hop forwards a packet, retrying on a failed check. -/
  | pkfPacket (hop : Nat) (p : Pkt) (toDie : Nat) (good : Bool)
  /-- DRAM_READ (R56). A controller read is decoded, corrected or marked poisoned. -/
  | dramRead (d burst store : Nat) (errs : List (Nat × Nat))
  /-- DRAM_WRITE (R414). A write is acknowledged once in the write queue. -/
  | dramWrite (d burst : Nat) (ws : List Word)
  /-- UNIT_WRITE (R415). A unit write of 2 or 3 bursts is taken and acknowledged as one. -/
  | unitWrite (d room : Nat) (bursts : List (Nat × List Word))
  /-- REFRESH_INTERVAL (R417). Expiry of tREFI issues a REFab. -/
  | refreshInterval (d c u : Nat)
  /-- SCRUB_PASS (R419). The scrubber reads and writes back bursts within each SCRUB_H period. -/
  | scrubPass (d c : Nat) (hits : List (Nat × Nat × Nat))
  /-- RETRAIN_STEP (R413). The conservator runs a background centring retrain step on a subchannel. -/
  | retrainStep (d c u : Nat) (force moved : Bool)
  /-- DRAM_TRAINING (R411). Channel training completes and the record is stored, or fails. -/
  | dramTraining (e : DimmEnv)
  /-- JOURNAL_WRITE (R420). The journal port takes DFU output into its buffer and drains it to DRAM. -/
  | journalWrite (d : Nat)
  /-- FABRIC_REQUEST (R423). A fabric target arbitrates and grants a waiting master at a burst boundary. -/
  | fabricRequest (d t cyc : Nat) (reqs : List (Nat × Nat × Bool))
  /-- PRIO_PARITY_ERROR (R424). A PRIO parity error switches to fixed-index arbitration until the table is rewritten. -/
  | prioParityError (d m t : Nat)
  /-- DESCRIPTOR_COMPLETE (R432). A DMA descriptor finishes with read-back, status and OWN writes, and the next ready channel runs. -/
  | descriptorComplete (d e : Nat) (mem : List HRead) (bad : Option Nat) (hostErr nextBad : Bool)
  /-- PACED_REQUEST (R433). A peripheral raises its request and a paced burst of 8 beats runs. -/
  | pacedRequest (d e : Nat) (data : List Word)
  /-- PACED_WITHDRAW (R433). A peripheral withdraws its request during a burst, which runs out with dummy beats. -/
  | pacedWithdraw (d e n : Nat) (data : List Word)
  /-- PACE_TIMEOUT (R433). A paced wait beyond PACE_TO_US completes the descriptor TIMEOUT. -/
  | paceTimeout (d e : Nat)
  /-- POWER_APPLIED (R516). First application of power starts the device from DORMANT into MUSTER. -/
  | powerApplied (env : MusterEnv) (fail : Option Nat)
  /-- MUSTER_END (R486). MUSTER completes and the device enters ALIGN. -/
  | musterEnd
  /-- ALIGN_EXIT (R487). Chains and alignment conditions met, or limits passed, move the device to OBSERVE. -/
  | alignExit (base : List Baseline)
  /-- CALENDAR_ENTRY (R484). A calendar entry's grain executes a PROG_START of rank 16. -/
  | calendarEntry (n g : Nat)
  /-- PROGRAMME_SWITCH (R483). At a consignment boundary the running programme is saved and the new one loaded from the programme store. -/
  | programmeSwitch (badDies : List Nat)
  /-- PORST_N_FALL (R517). PORST_N going low puts DRAM in self-refresh and holds every unit but the AOI in reset. -/
  | porstNFall
  /-- PORST_N_RELEASE (R516). Release of PORST_N starts MUSTER, bringing rails up when from RETAIN or DORMANT. -/
  | porstNRelease (env : MusterEnv) (fail : Option Nat)
  /-- PWRDN_N_LOW (R526). PWRDN_N low for 1 ms moves the device to DORMANT. -/
  | pwrdnNLow
  /-- PWRDN_N_RISE (R526). A rising edge of PWRDN_N wakes the device. -/
  | pwrdnNRise
  /-- WAKE_PIN (R526). A rising edge on WAKE wakes the device from DORMANT or RETAIN. -/
  | wakePin
  /-- SIDEBAND_WAKE (R526). A USB4 sideband wake on HPA or HPB wakes the device. -/
  | sidebandWake (port : Nat)
  /-- ACTIVITY_WAKE (R526). Resumed activity on a PPS or REF input wakes the device when so configured. -/
  | activityWake (k : Nat)
  /-- UV_TRIP (R526). VDD_AO undervoltage removes every switched rail at once. -/
  | uvTrip
  /-- TEMP_TRIP (R526). Junction above TRIP_C moves the device to DORMANT and blocks wakes. -/
  | tempTrip (junction : Int)
  /-- RAIL_POWER_GOOD (R529). A rail's power-good arrives and the wake proceeds to the next rail. -/
  | railPowerGood (rail ms : Nat)
  /-- RAIL_TIMEOUT (R530). A rail's power-good or LO_IN activity not arriving in time fails the wake attempt. -/
  | railTimeout
  /-- LO_IN_ACTIVITY (R529). LO_IN activity arrives and the wake starts MUSTER or ALIGN. -/
  | loInActivity (env : MusterEnv)
  /-- WAKE_RETRY (R530). 100 ms after a failed attempt the next wake attempt starts. -/
  | wakeRetry
  /-- RETAIN_QUIESCE (R519). After the SEALs commit, units stop, DRAM enters self-refresh and clocks stop. -/
  | retainQuiesce
  /-- THERMAL_THROTTLE (R525). Junction above THROTTLE_C lowers every regulated island by one point. -/
  | thermalThrottle (t : Nat)
  /-- THROTTLE_TIMER (R525). Each 10 s above or below the threshold lowers or restores one point. -/
  | throttleTimer (t : Nat)
  /-- SEQUENCER_REQUEST (R524). The sequencer starts a voltage and frequency change of one island in the safe order. -/
  | sequencerRequest (reorder : Bool)
  /-- SEQUENCER_DONE (R524). An island's slew and frequency switch complete. -/
  | sequencerDone
  /-- REGISTRAR_WATCHDOG (R516). Registrar watchdog expiry warm-resets the device. -/
  | registrarWatchdog (env : MusterEnv)
  /-- CHECKPOINT (R27). Every 250 ms the registrar checkpoints DFU, F-core, CTE, journal and ring state. -/
  | checkpoint
  /-- REG_FAILOVER (R544). A failed registrar comparison or diagnosis hands control to the other registrar. -/
  | regFailover (cause : Nat)
  /-- REGISTRAR_SELF_TEST (R544). Every 60 s a registrar out of control runs self-test. -/
  | registrarSelfTest (pass : Bool)
  /-- TRNG_FAIL (R510). A TRNG health test fails and requests wait for a passing reseed. -/
  | trngFail
  /-- DRBG_RESEED (R510). The DRBG is reseeded after 2^16 requests. -/
  | drbgReseed (pass : Bool)
  /-- DEBUG_EXPIRY (R511). Unlock time runs out and JTAG returns to LOCKED. -/
  | debugExpiry
  /-- BUCKET_LEAK (R537). A leaky bucket loses 1 at the end of its leak period. -/
  | bucketLeak (u : UnitId) (bucket : Nat)
  /-- GIVEUP_TIMEOUT (R542). A unit that has not returned within RETURN_MAX_H is deaccessioned and its loan made permanent. -/
  | giveupTimeout (u : UnitId)
  /-- DIE_FAILURE (R138). A span die is lost and its partner completes its accepted work or the device curtails. -/
  | dieFailure (d : Nat)
  /-- CALIBRATION_DUE (R560). An item's interval or temperature trigger starts its calibration. -/
  | calibrationDue (d n temp : Nat)
  /-- CALIBRATION_RESULT (R562). A calibration result is judged for plausibility and accepted or rejected. -/
  | calibrationResult (d n v temp : Nat) (eye : Option Nat)
  /-- TRIM_IN_FORCE (R559). An accepted trim is put into force at the item's safe point. -/
  | trimInForce (d n : Nat)
  /-- AGEING_MEASUREMENT (R565). Every AGE_PERIOD_S each monitor's slowdown is measured and trim or cap raised. -/
  | ageingMeasurement (d : Nat) (mons : List (Nat × Nat × Nat)) (eyes dram : List (Nat × Nat))
  /-- DAILY_RECORD (R571). A daily conservator record is written with projections. -/
  | dailyRecord (d fail : Nat)
  /-- REVERT_HOLDOFF (R380). One second after a switch ends, a revertive choice is made when a lower-rank candidate already exists. -/
  | revertHoldoff
  /-- TEMP_TRIP_CLEAR (R526). The junction falls below TRIP_C minus HYST_C, which ends the TEMP block and runs any wake held in the pending mask. -/
  | tempTripClear
  /-- CALIBRATION_TIMEOUT (R560). A calibration that runs past 2 ms counts as a rejected result. -/
  | calibrationTimeout (d n : Nat)
  /-- UPDATE_DONE (R490). Writing an image into flash ends and pass 1 runs on the written copy, completing IMAGE_UPDATE as DONE, BAD_SIG or BAD_ARG. -/
  | updateDone (ioOk : Bool)
  /-- ATTESTATION_SIGN (R508). The SEC finishes signing a queued attestation report and the ATT product is entered into ATT_RING. -/
  | attestationSign
deriving DecidableEq, Repr

end Sys2Proof
end

