-- ==== Sys2Proof/Machine/Crypto.lean ====
section
/-! DEFINITION. SHA-256, HMAC-SHA-256, ECDSA P-256 with the nonce of RFC 6979 (R365, R367, R457, R477, R506), and the
CRC-32 and CRC-16 that records and packets carry. Octet strings are lists of numbers below 256. -/

namespace Sys2Proof.Machine

/-! ### SHA-256 -/

/-- The `n` 32-bit words of a number, the most significant first. -/
def words32 : Nat → Nat → List Nat
  | 0, _ => []
  | n + 1, x => x / 2 ^ (32 * n) % 2 ^ 32 :: words32 n x

/-- The constants of the 64 rounds, eight to a number. -/
def shaRounds : List Nat :=
  [0x428a2f9871374491b5c0fbcfe9b5dba53956c25b59f111f1923f82a4ab1c5ed5,
   0xd807aa9812835b01243185be550c7dc372be5d7480deb1fe9bdc06a7c19bf174,
   0xe49b69c1efbe47860fc19dc6240ca1cc2de92c6f4a7484aa5cb0a9dc76f988da,
   0x983e5152a831c66db00327c8bf597fc7c6e00bf3d5a7914706ca635114292967,
   0x27b70a852e1b21384d2c6dfc53380d13650a7354766a0abb81c2c92e92722c85,
   0xa2bfe8a1a81a664bc24b8b70c76c51a3d192e819d6990624f40e3585106aa070,
   0x19a4c1161e376c082748774c34b0bcb5391c0cb34ed8aa4a5b9cca4f682e6ff3,
   0x748f82ee78a5636f84c878148cc7020890befffaa4506cebbef9a3f7c67178f2].flatMap (words32 8)

/-- The exclusive or of a word's rotations right by the listed distances. -/
def rots (x : Nat) (ns : List Nat) : Nat := ns.foldl (fun m n => m ^^^ (x / 2 ^ n + x * 2 ^ (32 - n)) % 2 ^ 32) 0

/-- A block's words extended by `n` more; the list holds them newest first. -/
def shaExtend : Nat → List Nat → List Nat
  | 0, l => l
  | n + 1, l =>
    let near := rots (l.getD 1 0) [17, 19] ^^^ (l.getD 1 0 / 1024)
    let far := rots (l.getD 14 0) [7, 18] ^^^ (l.getD 14 0 / 8)
    shaExtend n ((near + l.getD 6 0 + far + l.getD 15 0) % 2 ^ 32 :: l)

/-- The chaining value: two windows of four words each, the newest word of each first. A round puts one word into each. -/
abbrev ShaWin := List Nat × List Nat

/-- A round with the sum `kw` of its constant and message word: what enters the second window is added to the first's oldest word. -/
def shaStep (v : ShaWin) (kw : Nat) : ShaWin :=
  let x := fun i => v.1.getD i 0
  let y := fun i => v.2.getD i 0
  let pick := y 2 ^^^ (y 0 &&& (y 1 ^^^ y 2))
  let most := (x 0 &&& x 1) ||| (x 2 &&& (x 0 ||| x 1))
  let t := y 3 + rots (y 0) [6, 11, 25] + pick + kw
  ((rots (x 0) [2, 13, 22] + most + t) % 2 ^ 32 :: v.1.take 3, (x 3 + t) % 2 ^ 32 :: v.2.take 3)

/-- Two windows added word by word. -/
def addWin (a b : List Nat) : List Nat := List.zipWith (fun p q => (p + q) % 2 ^ 32) a b

/-- The chaining value over `n` blocks of 64 octets. -/
def shaOver : Nat → ShaWin → List Nat → ShaWin
  | 0, v, _ => v
  | n + 1, v, l =>
    let m := (words32 16 (ofOctets (l.take 64).reverse)).reverse
    let r := (List.zipWith (· + ·) shaRounds (shaExtend 48 m).reverse).foldl shaStep v
    shaOver n (addWin v.1 r.1, addWin v.2 r.2) (l.drop 64)

/-- The `n` octets of a number, most significant first. -/
def beOctets (n x : Nat) : List Nat := (toOctets n x).reverse

/-- The number whose octets are given most significant first. -/
def ofBe (l : List Nat) : Nat := ofOctets l.reverse

/-- SHA-256 of an octet string, 32 octets. -/
def sha256 (m : List Nat) : List Nat :=
  let pad := (119 - m.length % 64) % 64
  let p := m ++ [0x80] ++ List.replicate pad 0 ++ beOctets 8 (8 * m.length)
  let v := shaOver (p.length / 64)
    (words32 4 0x6a09e667bb67ae853c6ef372a54ff53a, words32 4 0x510e527f9b05688c1f83d9ab5be0cd19) p
  (v.1 ++ v.2).flatMap (beOctets 4)

/-- HMAC with SHA-256. -/
def hmac (key m : List Nat) : List Nat :=
  let k0 := if 64 < key.length then sha256 key else key
  let k := k0 ++ List.replicate (64 - k0.length) 0
  sha256 (k.map (· ^^^ 0x5c) ++ sha256 (k.map (· ^^^ 0x36) ++ m))

/-! ### ECDSA P-256 -/

/-- The field prime of P-256. -/
def p256p : Nat := 0xffffffff00000001000000000000000000000000ffffffffffffffffffffffff
/-- The group order of P-256. -/
def p256n : Nat := 0xffffffff00000000ffffffffffffffffbce6faada7179e84f3b9cac2fc632551
/-- The curve coefficient b. -/
def p256b : Nat := 0x5ac635d8aa3a93e7b3ebbd55769886bc651d06b0cc53b0f63bce3c3e27d2604b
/-- The base point. -/
def p256g : Nat × Nat :=
  (0x6b17d1f2e12c4247f8bce6e563a440f277037d812deb33a0f4a13945d898c296,
   0x4fe342e2fe1a7f9b8ee7eb4a7c0f9e162bce33576b315ececbb6406837bf51f5)

/-- x^e mod m, over `fuel` bits of e. -/
def powMod (m : Nat) : Nat → Nat → Nat → Nat
  | 0, _, _ => 1 % m
  | fuel + 1, x, e =>
    let h := powMod m fuel (x * x % m) (e / 2)
    if e % 2 = 1 then x * h % m else h

/-- The inverse modulo a prime. -/
def invMod (m x : Nat) : Nat := powMod m 256 (x % m) (m - 2)

/-- Addition of points; none is the point at infinity. -/
def ecAdd (P Q : Option (Nat × Nat)) : Option (Nat × Nat) :=
  match P, Q with
  | none, q => q
  | p, none => p
  | some (x1, y1), some (x2, y2) =>
    if x1 = x2 ∧ (y1 + y2) % p256p = 0 then none
    else
      let l :=
        if x1 = x2 then (3 * x1 * x1 + (p256p - 3)) * invMod p256p (2 * y1) % p256p
        else (y2 + p256p - y1) * invMod p256p (x2 + p256p - x1) % p256p
      let x3 := (l * l + 2 * p256p - x1 - x2) % p256p
      some (x3, (l * (x1 + p256p - x3) + p256p - y1) % p256p)

/-- Scalar multiplication over `fuel` bits. -/
def ecMul : Nat → Nat → Option (Nat × Nat) → Option (Nat × Nat)
  | 0, _, _ => none
  | fuel + 1, k, P =>
    let h := ecMul fuel (k / 2) (ecAdd P P)
    if k % 2 = 1 then ecAdd P h else h

/-- A point of the curve other than infinity. -/
def onCurve (q : Nat × Nat) : Bool :=
  decide (q.1 < p256p) && decide (q.2 < p256p) &&
  decide (q.2 * q.2 % p256p = (q.1 * q.1 * q.1 + (p256p - 3) * q.1 + p256b) % p256p)

/-- ECDSA verification of (r, s) over a digest by public key `q`. -/
def ecVerify (q : Nat × Nat) (digest : List Nat) (r s : Nat) : Bool :=
  if r = 0 ∨ p256n ≤ r ∨ s = 0 ∨ p256n ≤ s ∨ onCurve q = false then false
  else
    let w := invMod p256n s
    let u1 := ofBe digest * w % p256n
    let u2 := r * w % p256n
    match ecAdd (ecMul 256 u1 (some p256g)) (ecMul 256 u2 (some q)) with
    | none => false
    | some (x, _) => decide (x % p256n = r)

/-- The candidates of RFC 6979, tried until one gives a nonzero r and s (at most `fuel`). -/
def ecSignLoop (d z : Nat) : Nat → List Nat → List Nat → Nat × Nat
  | 0, _, _ => (0, 0)
  | fuel + 1, K, V =>
    let V1 := hmac K V
    let k := ofBe V1
    let again :=
      let K2 := hmac K (V1 ++ [0])
      ecSignLoop d z fuel K2 (hmac K2 V1)
    if k = 0 ∨ p256n ≤ k then again
    else
      match ecMul 256 k (some p256g) with
      | none => again
      | some (x, _) =>
        let r := x % p256n
        let s := invMod p256n k * (z + r * d) % p256n
        if r = 0 ∨ s = 0 then again else (r, s)

/-- ECDSA signature (r, s) over a digest with the deterministic nonce of RFC 6979 (R506). -/
def ecSign (d : Nat) (digest : List Nat) : Nat × Nat :=
  let z := ofBe digest
  let x := beOctets 32 d
  let h := beOctets 32 (z % p256n)
  let V0 := List.replicate 32 1
  let K1 := hmac (List.replicate 32 0) (V0 ++ [0] ++ x ++ h)
  let V1 := hmac K1 V0
  let K2 := hmac K1 (V1 ++ [1] ++ x ++ h)
  ecSignLoop d z 64 K2 (hmac K2 V1)

/-- The public key of a private scalar, uncompressed, 65 octets. -/
def ecPublic (d : Nat) : List Nat :=
  match ecMul 256 d (some p256g) with
  | none => List.replicate 65 0
  | some (x, y) => 4 :: (beOctets 32 x ++ beOctets 32 y)

/-- The point of an uncompressed 65-octet key. -/
def keyPoint (k : List Nat) : Nat × Nat := (ofBe ((k.drop 1).take 32), ofBe ((k.drop 33).take 32))

/-! ### Cyclic redundancy checks -/

/-- One bit of a reflected CRC with polynomial `poly`. -/
def crcBit (poly c : Nat) : Nat := if c % 2 = 1 then (c / 2) ^^^ poly else c / 2

/-- Eight bits. -/
def crcOctet (poly c b : Nat) : Nat := Nat.iterate (crcBit poly) 8 (c ^^^ b)

/-- The CRC-32 of R210 (polynomial 0x04C1_1DB7 reflected, initial value and final complement all ones). -/
def crc32 (m : List Nat) : Nat := m.foldl (crcOctet 0xEDB88320) 0xFFFFFFFF ^^^ 0xFFFFFFFF

/-- One bit of the CRC of R212. -/
def crc16Bit (c : Nat) : Nat := if 0x8000 ≤ c then (2 * c) % 0x10000 ^^^ 0x1021 else 2 * c

/-- The CRC-16 of R212 (polynomial 0x1021, initial value 0xFFFF). -/
def crc16 (m : List Nat) : Nat := m.foldl (fun c b => Nat.iterate crc16Bit 8 (c ^^^ (b * 256))) 0xFFFF

end Sys2Proof.Machine
end

