-- ==== Sys2Proof/Config.lean ====
section
/-! DEFINITION. What a part or an individual device fixes, and the values the spec leaves open. The constants without a
body are open: nothing can be proved about the value they take (log entries 2 and 3). -/

namespace Sys2Proof

/-- The three parts (R1). -/
inductive Part where
  | zn202
  | zn204
  | zn208
deriving DecidableEq, Repr

/-- Span dies of a part (R1, R3). -/
def Part.dies : Part → Nat
  | .zn202 => 2
  | .zn204 => 4
  | .zn208 => 8

/-- The PCIe device ID of a part (R3, R440). -/
def Part.pcieId : Part → Nat
  | .zn202 => 0x2202
  | .zn204 => 0x2204
  | .zn208 => 0x2208

/-- The n-th free value: a value that the spec leaves open where the machine goes on. The state counts how many have been
drawn; each use takes the low bits it needs. -/
opaque Config.freeValue : Nat → Nat

/-- Factory data of a state-map slot (R226 LN_LAT, R496 CERT, conservator items and monitor baselines). -/
opaque Config.factoryWord : Nat → Word

/-- The interpolator table of R98, by word (its values are not in the spec). -/
opaque Config.interpWord : Nat → Word

/-- The span words of a coefficient set of the DFU section: programme, die, set number and word (the spec does not say how
a set lies in the section). -/
opaque Config.coefSetWord : Nat → Nat → Nat → Nat → Word

/-- log2 of the address span of a block (CAT_ENTRY.SIZE_LOG2; the spec gives no value). -/
opaque Config.catSizeLog2 : Nat → Nat

/-- The device number that the writes of an IDENT section to the identity block give, below 2^16 (R249; the spec lays no register
of that block out). -/
opaque Config.identNumber : List (Nat × Word) → Nat

/-- The private scalar of the identity key, held in fuses (R495). -/
opaque Config.identityScalar : Nat

/-- The device certificate in DER, at most 1,024 octets (R496). -/
opaque Config.deviceCert : List Nat

/-- STOMOND_HASH: the SHA-256 of Stomond's firmware key, fused at the factory (R478, R497). -/
opaque Config.stomondHash : List Nat

/-- Whether the parity stored with a PRIO entry is odd (PRIO.PAR; the spec gives no sense). -/
opaque Config.prioOdd : Bool

/-- The bundle address at which an F-core enters its handler for an interrupt source (R158; the spec names no address). -/
opaque Config.handlerEntry : Nat → Nat

/-- The configured utilisation u of a logical core (R172): programme, die, logical core (held in the image; no register
shows it). -/
opaque Config.coreLoad : Nat → Nat → Nat → Nat

/-- Places of a handshake FIFO beyond its first (R17, R18): the spec gives no depth. -/
opaque Config.fifoExtra : Nat

/-- The requantiser's rounded part at shift 0, of which R47 states no result. -/
opaque Config.requantZero : Int → Int

/-- Where a near-field distance of R320 falls between the bounds of its relative error, by the squared distance: the spec
gives the bound and not the value. -/
opaque Config.distPick : Nat → Nat

end Sys2Proof
end

