-- ==== Sys2Proof/Machine/Regs.lean ====
section
/-! DEFINITION. The state map's registers: where each slot lies (R12), which bits each field takes, the reset value of
each slot and which bits a whole-slot write may change (R9, R10), as the register tables of spec/ give them, chapter by chapter. -/

namespace Sys2Proof.Machine

/-- The slot address of offset `o` in block `b` of span die `d` (R12). -/
def spanSlot (d b o : Nat) : Nat := d * 2 ^ 44 + b * 2 ^ 36 + o

/-- The slot address of offset `o` in keeper block `b` (R12: die code 0xF). -/
def keepSlot (b o : Nat) : Nat := 15 * 2 ^ 44 + b * 2 ^ 36 + o

namespace Reg

/-! ### Block 0x00 CAT (16_host.md) -/

/-- CAT_HDR, 16_host.md, register table. -/
def CAT_HDR : Nat := keepSlot 0x00 (0x0)
def CAT_HDR_MAGIC : RF := ⟨CAT_HDR, 0, 32⟩
def CAT_HDR_PART : RF := ⟨CAT_HDR, 32, 4⟩
def CAT_HDR_ENTRIES : RF := ⟨CAT_HDR, 36, 12⟩
def CAT_HDR_DIES : RF := ⟨CAT_HDR, 48, 8⟩

/-- CAT_ENTRY, 16_host.md, register table. -/
def CAT_ENTRY (n : Nat) : Nat := keepSlot 0x00 (0x10 + 0x10 * n)
def CAT_ENTRY_DIE (n : Nat) : RF := ⟨CAT_ENTRY n, 0, 4⟩
def CAT_ENTRY_BLOCK (n : Nat) : RF := ⟨CAT_ENTRY n, 4, 8⟩
def CAT_ENTRY_VERSION (n : Nat) : RF := ⟨CAT_ENTRY n, 12, 8⟩
def CAT_ENTRY_SIZE_LOG2 (n : Nat) : RF := ⟨CAT_ENTRY n, 20, 6⟩

/-! ### Block 0x02 PWR (19_power.md) -/

/-- PWR_INFO, 19_power.md, register table. -/
def PWR_INFO : Nat := keepSlot 0x02 (0x0)
def PWR_INFO_VERSION : RF := ⟨PWR_INFO, 0, 8⟩
def PWR_INFO_RAILS : RF := ⟨PWR_INFO, 8, 4⟩
def PWR_INFO_OPS : RF := ⟨PWR_INFO, 12, 4⟩
def PWR_INFO_CMPS : RF := ⟨PWR_INFO, 16, 4⟩

/-- PWR_MODE, 19_power.md, register table. -/
def PWR_MODE : Nat := keepSlot 0x02 (0x10)
def PWR_MODE_MODE : RF := ⟨PWR_MODE, 0, 3⟩
def PWR_MODE_PREV : RF := ⟨PWR_MODE, 3, 3⟩
def PWR_MODE_DORMANT_CAUSE : RF := ⟨PWR_MODE, 6, 3⟩
def PWR_MODE_ALERT : RF := ⟨PWR_MODE, 9, 1⟩
def PWR_MODE_THROTTLED : RF := ⟨PWR_MODE, 10, 1⟩
def PWR_MODE_SINCE_S : RF := ⟨PWR_MODE, 11, 48⟩

/-- PWR_EVENTS, 19_power.md, register table. -/
def PWR_EVENTS : Nat := keepSlot 0x02 (0x20)
def PWR_EVENTS_MODE_CHANGE : RF := ⟨PWR_EVENTS, 0, 1⟩
def PWR_EVENTS_WAKE_FAIL : RF := ⟨PWR_EVENTS, 1, 1⟩
def PWR_EVENTS_THROTTLE : RF := ⟨PWR_EVENTS, 2, 1⟩
def PWR_EVENTS_REORDER : RF := ⟨PWR_EVENTS, 3, 1⟩
def PWR_EVENTS_TEMP_TRIP : RF := ⟨PWR_EVENTS, 4, 1⟩

/-- PWR_CFG, 19_power.md, register table. -/
def PWR_CFG : Nat := keepSlot 0x02 (0x30)
def PWR_CFG_THROTTLE_C : RF := ⟨PWR_CFG, 0, 8⟩
def PWR_CFG_TRIP_C : RF := ⟨PWR_CFG, 8, 8⟩
def PWR_CFG_HYST_C : RF := ⟨PWR_CFG, 16, 4⟩
def PWR_CFG_RETAIN_SET_S : RF := ⟨PWR_CFG, 20, 16⟩

/-- SEQ_STATUS, 19_power.md, register table. -/
def SEQ_STATUS : Nat := keepSlot 0x02 (0x40)
def SEQ_STATUS_BUSY : RF := ⟨SEQ_STATUS, 0, 1⟩
def SEQ_STATUS_ISLAND : RF := ⟨SEQ_STATUS, 1, 8⟩
def SEQ_STATUS_QUEUED : RF := ⟨SEQ_STATUS, 9, 8⟩
def SEQ_STATUS_REORDERED : RF := ⟨SEQ_STATUS, 17, 24⟩

/-- ISL, 19_power.md, register table. -/
def ISL (i : Nat) : Nat := keepSlot 0x02 (0x1000 + 0x10 * i)
def ISL_OP_CFG (i : Nat) : RF := ⟨ISL i, 0, 2⟩
def ISL_OP_USED (i : Nat) : RF := ⟨ISL i, 2, 2⟩
def ISL_V_TRIM_MV (i : Nat) : RF := ⟨ISL i, 4, 6⟩
def ISL_V_NOW_MV (i : Nat) : RF := ⟨ISL i, 10, 10⟩
def ISL_F_NOW_MHZ (i : Nat) : RF := ⟨ISL i, 20, 12⟩

/-- RAIL, 19_power.md, register table. -/
def RAIL (x : Nat) : Nat := keepSlot 0x02 (0x2000 + 0x10 * x)
def RAIL_EN (x : Nat) : RF := ⟨RAIL x, 0, 1⟩
def RAIL_PG (x : Nat) : RF := ⟨RAIL x, 1, 1⟩
def RAIL_SET_MV (x : Nat) : RF := ⟨RAIL x, 2, 10⟩
def RAIL_POWER_W (x : Nat) : RF := ⟨RAIL x, 12, 12⟩
def RAIL_PG_MS (x : Nat) : RF := ⟨RAIL x, 24, 8⟩

/-! ### Block 0x03 AOI (19_power.md) -/

/-- AOI_STATUS, 19_power.md, register table. -/
def AOI_STATUS : Nat := keepSlot 0x03 (0x0)
def AOI_STATUS_LEVEL : RF := ⟨AOI_STATUS, 0, 8⟩
def AOI_STATUS_DISC_PPB : RF := ⟨AOI_STATUS, 8, 32⟩

/-- AOI_CMP, 19_power.md, register table. -/
def AOI_CMP (k : Nat) : Nat := keepSlot 0x03 (0x100 + 0x10 * k)
def AOI_CMP_ACTION (k : Nat) : RF := ⟨AOI_CMP k, 0, 2⟩

/-- LAST_WAKE0, 19_power.md, register table. -/
def LAST_WAKE0 : Nat := keepSlot 0x03 (0x200)
def LAST_WAKE0_SOURCE : RF := ⟨LAST_WAKE0, 0, 4⟩
def LAST_WAKE0_FROM : RF := ⟨LAST_WAKE0, 4, 3⟩
def LAST_WAKE0_WAKE_FAIL : RF := ⟨LAST_WAKE0, 7, 1⟩
def LAST_WAKE0_ATTEMPTS : RF := ⟨LAST_WAKE0, 8, 3⟩
def LAST_WAKE0_FAIL_ITEM : RF := ⟨LAST_WAKE0, 11, 4⟩
def LAST_WAKE0_PENDING : RF := ⟨LAST_WAKE0, 15, 8⟩

/-- LAST_WAKE1, 19_power.md, register table. -/
def LAST_WAKE1 : Nat := keepSlot 0x03 (0x210)
def LAST_WAKE1_TIME_LO : RF := ⟨LAST_WAKE1, 0, 72⟩

/-- LAST_WAKE2, 19_power.md, register table. -/
def LAST_WAKE2 : Nat := keepSlot 0x03 (0x220)
def LAST_WAKE2_TIME_HI : RF := ⟨LAST_WAKE2, 0, 24⟩

/-- LAST_DORMANT, 19_power.md, register table. -/
def LAST_DORMANT : Nat := keepSlot 0x03 (0x300)
def LAST_DORMANT_CAUSE : RF := ⟨LAST_DORMANT, 0, 3⟩
def LAST_DORMANT_EPOCH : RF := ⟨LAST_DORMANT, 3, 16⟩
def LAST_DORMANT_VALID : RF := ⟨LAST_DORMANT, 19, 1⟩
def LAST_DORMANT_REPORTED : RF := ⟨LAST_DORMANT, 20, 1⟩

/-! ### Block 0x04 SEC (18_security.md) -/

/-- SEC_INFO, 18_security.md, register table. -/
def SEC_INFO : Nat := keepSlot 0x04 (0x0)
def SEC_INFO_VERSION : RF := ⟨SEC_INFO, 0, 8⟩
def SEC_INFO_SLOTS : RF := ⟨SEC_INFO, 8, 4⟩
def SEC_INFO_SVN_FUSES : RF := ⟨SEC_INFO, 12, 7⟩

/-- SEC_STATUS, 18_security.md, register table. -/
def SEC_STATUS : Nat := keepSlot 0x04 (0x10)
def SEC_STATUS_COMMISSIONED : RF := ⟨SEC_STATUS, 0, 1⟩
def SEC_STATUS_PENDING : RF := ⟨SEC_STATUS, 1, 1⟩
def SEC_STATUS_SLOTS_USED : RF := ⟨SEC_STATUS, 2, 4⟩
def SEC_STATUS_DEBUG : RF := ⟨SEC_STATUS, 6, 2⟩
def SEC_STATUS_SCOPE : RF := ⟨SEC_STATUS, 8, 3⟩
def SEC_STATUS_DBG_SINCE_START : RF := ⟨SEC_STATUS, 11, 1⟩
def SEC_STATUS_SEAL_KEY : RF := ⟨SEC_STATUS, 12, 1⟩
def SEC_STATUS_TRNG_OK : RF := ⟨SEC_STATUS, 13, 1⟩
def SEC_STATUS_ATT_WAIT : RF := ⟨SEC_STATUS, 14, 5⟩

/-- SEC_EVENTS, 18_security.md, register table. -/
def SEC_EVENTS : Nat := keepSlot 0x04 (0x20)
def SEC_EVENTS_OWNER_PENDING : RF := ⟨SEC_EVENTS, 0, 1⟩
def SEC_EVENTS_OWNER_BURNED : RF := ⟨SEC_EVENTS, 1, 1⟩
def SEC_EVENTS_DEBUG_UNLOCK : RF := ⟨SEC_EVENTS, 2, 1⟩
def SEC_EVENTS_UNLOCK_FAIL : RF := ⟨SEC_EVENTS, 3, 1⟩
def SEC_EVENTS_TRNG_FAIL : RF := ⟨SEC_EVENTS, 4, 1⟩
def SEC_EVENTS_SEAL_KEY_NEW : RF := ⟨SEC_EVENTS, 5, 1⟩
def SEC_EVENTS_SIG_FAIL : RF := ⟨SEC_EVENTS, 6, 1⟩

/-- SEC_DEBUG, 18_security.md, register table. -/
def SEC_DEBUG : Nat := keepSlot 0x04 (0x30)
def SEC_DEBUG_LEFT_S : RF := ⟨SEC_DEBUG, 0, 32⟩
def SEC_DEBUG_UNLOCKS : RF := ⟨SEC_DEBUG, 32, 24⟩

/-- SEC_COUNT, 18_security.md, register table. -/
def SEC_COUNT : Nat := keepSlot 0x04 (0x40)
def SEC_COUNT_SIGS : RF := ⟨SEC_COUNT, 0, 24⟩
def SEC_COUNT_VERIFY_FAIL : RF := ⟨SEC_COUNT, 24, 24⟩
def SEC_COUNT_TRNG_FAILS : RF := ⟨SEC_COUNT, 48, 24⟩

/-- ID_HASH, 18_security.md, register table. -/
def ID_HASH (j : Nat) : Nat := keepSlot 0x04 (0x100 + 0x10 * j)
def ID_HASH_OCTETS (j : Nat) : RF := ⟨ID_HASH j, 0, 72⟩

/-- OWNER_HASH, 18_security.md, register table. -/
def OWNER_HASH (j : Nat) : Nat := keepSlot 0x04 (0x140 + 0x10 * j)
def OWNER_HASH_OCTETS (j : Nat) : RF := ⟨OWNER_HASH j, 0, 72⟩

/-- PEND_HASH, 18_security.md, register table. -/
def PEND_HASH (j : Nat) : Nat := keepSlot 0x04 (0x180 + 0x10 * j)
def PEND_HASH_OCTETS (j : Nat) : RF := ⟨PEND_HASH j, 0, 72⟩

/-- SEAL_KEY_ID, 18_security.md, register table. -/
def SEAL_KEY_ID (j : Nat) : Nat := keepSlot 0x04 (0x1C0 + 0x10 * j)
def SEAL_KEY_ID_OCTETS (j : Nat) : RF := ⟨SEAL_KEY_ID j, 0, 72⟩

/-- MEAS_FW, 18_security.md, register table. -/
def MEAS_FW (j : Nat) : Nat := keepSlot 0x04 (0x200 + 0x10 * j)
def MEAS_FW_OCTETS (j : Nat) : RF := ⟨MEAS_FW j, 0, 72⟩

/-- SEC_CHAL, 18_security.md, register table. -/
def SEC_CHAL (j : Nat) : Nat := keepSlot 0x04 (0x240 + 0x10 * j)
def SEC_CHAL_OCTETS (j : Nat) : RF := ⟨SEC_CHAL j, 0, 72⟩

/-- CERT, 18_security.md, register table. -/
def CERT (w : Nat) : Nat := keepSlot 0x04 (0x1000 + 0x10 * w)
def CERT_OCTETS (w : Nat) : RF := ⟨CERT w, 0, 72⟩

/-! ### Block 0x05 TE (14_time.md) -/

/-- TE_INFO, 14_time.md, register table. -/
def TE_INFO : Nat := keepSlot 0x05 (0x0)
def TE_INFO_VERSION : RF := ⟨TE_INFO, 0, 8⟩
def TE_INFO_CLKOUT : RF := ⟨TE_INFO, 8, 4⟩
def TE_INFO_SYSREF : RF := ⟨TE_INFO, 12, 4⟩
def TE_INFO_TS_RES_PS : RF := ⟨TE_INFO, 16, 8⟩

/-- TE_STATUS, 14_time.md, register table. -/
def TE_STATUS : Nat := keepSlot 0x05 (0x10)
def TE_STATUS_QUALIFIED : RF := ⟨TE_STATUS, 0, 1⟩
def TE_STATUS_HOLD : RF := ⟨TE_STATUS, 1, 1⟩
def TE_STATUS_TIME_SET : RF := ⟨TE_STATUS, 2, 1⟩
def TE_STATUS_SERVO : RF := ⟨TE_STATUS, 3, 2⟩
def TE_STATUS_ALIGNED : RF := ⟨TE_STATUS, 5, 1⟩
def TE_STATUS_UPSTREAM : RF := ⟨TE_STATUS, 6, 4⟩

/-- TE_EVENTS, 14_time.md, register table. -/
def TE_EVENTS : Nat := keepSlot 0x05 (0x20)
def TE_EVENTS_TQ_LOST : RF := ⟨TE_EVENTS, 0, 1⟩
def TE_EVENTS_TQ_GAINED : RF := ⟨TE_EVENTS, 1, 1⟩
def TE_EVENTS_TIME_STEP : RF := ⟨TE_EVENTS, 2, 1⟩
def TE_EVENTS_SERVO_LOCK : RF := ⟨TE_EVENTS, 3, 1⟩
def TE_EVENTS_SERVO_UNLOCK : RF := ⟨TE_EVENTS, 4, 1⟩
def TE_EVENTS_SYNC_LOSS : RF := ⟨TE_EVENTS, 5, 1⟩
def TE_EVENTS_UPSTREAM_ALT : RF := ⟨TE_EVENTS, 6, 1⟩
def TE_EVENTS_CAL_DONE : RF := ⟨TE_EVENTS, 7, 1⟩

/-- TE_CFG, 14_time.md, register table. -/
def TE_CFG : Nat := keepSlot 0x05 (0x30)
def TE_CFG_ROLE : RF := ⟨TE_CFG, 0, 2⟩
def TE_CFG_LEAD_DEV : RF := ⟨TE_CFG, 2, 16⟩
def TE_CFG_DOMAIN : RF := ⟨TE_CFG, 18, 8⟩
def TE_CFG_SYNC_LOG2 : RF := ⟨TE_CFG, 26, 4⟩
def TE_CFG_DREQ_LOG2 : RF := ⟨TE_CFG, 30, 4⟩
def TE_CFG_SYNC_TO_S : RF := ⟨TE_CFG, 34, 8⟩
def TE_CFG_PPS_GATE : RF := ⟨TE_CFG, 42, 1⟩

/-- TE_TREE, 14_time.md, register table. -/
def TE_TREE : Nat := keepSlot 0x05 (0x40)
def TE_TREE_UP_PRI : RF := ⟨TE_TREE, 0, 4⟩
def TE_TREE_UP_ALT : RF := ⟨TE_TREE, 4, 4⟩
def TE_TREE_ALT_V : RF := ⟨TE_TREE, 8, 1⟩
def TE_TREE_DOWN : RF := ⟨TE_TREE, 9, 16⟩

/-- TE_SERVO, 14_time.md, register table. -/
def TE_SERVO : Nat := keepSlot 0x05 (0x50)
def TE_SERVO_KP : RF := ⟨TE_SERVO, 0, 24⟩
def TE_SERVO_KI : RF := ⟨TE_SERVO, 24, 24⟩
def TE_SERVO_YMAX_PPB : RF := ⟨TE_SERVO, 48, 16⟩

/-- TE_LIMITS, 14_time.md, register table. -/
def TE_LIMITS : Nat := keepSlot 0x05 (0x60)
def TE_LIMITS_STEP_NS : RF := ⟨TE_LIMITS, 0, 24⟩
def TE_LIMITS_LOCK_PS : RF := ⟨TE_LIMITS, 24, 16⟩
def TE_LIMITS_UNLOCK_PS : RF := ⟨TE_LIMITS, 40, 16⟩

/-- TE_NOW0, 14_time.md, register table. -/
def TE_NOW0 : Nat := keepSlot 0x05 (0x70)
def TE_NOW0_TIME_LO : RF := ⟨TE_NOW0, 0, 72⟩

/-- TE_NOW1, 14_time.md, register table. -/
def TE_NOW1 : Nat := keepSlot 0x05 (0x80)
def TE_NOW1_SEC : RF := ⟨TE_NOW1, 0, 48⟩

/-- TE_OFFSET, 14_time.md, register table. -/
def TE_OFFSET : Nat := keepSlot 0x05 (0x90)
def TE_OFFSET_THETA_PS : RF := ⟨TE_OFFSET, 0, 36⟩
def TE_OFFSET_MPD_PS : RF := ⟨TE_OFFSET, 36, 36⟩

/-- TE_RATE, 14_time.md, register table. -/
def TE_RATE : Nat := keepSlot 0x05 (0xA0)
def TE_RATE_Y : RF := ⟨TE_RATE, 0, 48⟩

/-- TE_SYNTH, 14_time.md, register table. -/
def TE_SYNTH : Nat := keepSlot 0x05 (0xB0)
def TE_SYNTH_FVCO_HZ : RF := ⟨TE_SYNTH, 0, 36⟩
def TE_SYNTH_ALIGN_S : RF := ⟨TE_SYNTH, 36, 36⟩

/-- TE_COUNT, 14_time.md, register table. -/
def TE_COUNT : Nat := keepSlot 0x05 (0xC0)
def TE_COUNT_SYNC_RX : RF := ⟨TE_COUNT, 0, 24⟩
def TE_COUNT_DROPPED : RF := ⟨TE_COUNT, 24, 24⟩
def TE_COUNT_STEPS : RF := ⟨TE_COUNT, 48, 24⟩

/-- TE_ASYM_MEAS, 14_time.md, register table. -/
def TE_ASYM_MEAS (c : Nat) : Nat := keepSlot 0x05 (0x1000 + 0x10 * c)
def TE_ASYM_MEAS_ASYM_PS (c : Nat) : RF := ⟨TE_ASYM_MEAS c, 0, 32⟩
def TE_ASYM_MEAS_N (c : Nat) : RF := ⟨TE_ASYM_MEAS c, 32, 24⟩
def TE_ASYM_MEAS_VALID (c : Nat) : RF := ⟨TE_ASYM_MEAS c, 56, 1⟩

/-- CLK_CFG, 14_time.md, register table. -/
def CLK_CFG (k : Nat) : Nat := keepSlot 0x05 (0x2000 + 0x20 * k)
def CLK_CFG_EN (k : Nat) : RF := ⟨CLK_CFG k, 0, 1⟩
def CLK_CFG_DIV (k : Nat) : RF := ⟨CLK_CFG k, 1, 16⟩

/-- SYSREF_CFG, 14_time.md, register table. -/
def SYSREF_CFG (k : Nat) : Nat := keepSlot 0x05 (0x2010 + 0x20 * k)
def SYSREF_CFG_MODE (k : Nat) : RF := ⟨SYSREF_CFG k, 0, 2⟩
def SYSREF_CFG_PERIOD (k : Nat) : RF := ⟨SYSREF_CFG k, 2, 24⟩
def SYSREF_CFG_BURST_N (k : Nat) : RF := ⟨SYSREF_CFG k, 26, 4⟩
def SYSREF_CFG_GRAIN (k : Nat) : RF := ⟨SYSREF_CFG k, 30, 42⟩

/-- LINK_ANCHOR, 14_time.md, register table. -/
def LINK_ANCHOR (l : Nat) : Nat := keepSlot 0x05 (0x3000 + 0x10 * l)
def LINK_ANCHOR_SYSREF (l : Nat) : RF := ⟨LINK_ANCHOR l, 0, 3⟩
def LINK_ANCHOR_OFS (l : Nat) : RF := ⟨LINK_ANCHOR l, 3, 32⟩

/-! ### Block 0x06 RSC (14_time.md) -/

/-- RSC_INFO, 14_time.md, register table. -/
def RSC_INFO : Nat := keepSlot 0x06 (0x0)
def RSC_INFO_VERSION : RF := ⟨RSC_INFO, 0, 8⟩
def RSC_INFO_REFS : RF := ⟨RSC_INFO, 8, 5⟩
def RSC_INFO_HIST_S : RF := ⟨RSC_INFO, 13, 12⟩

/-- RSC_STATUS, 14_time.md, register table. -/
def RSC_STATUS : Nat := keepSlot 0x06 (0x10)
def RSC_STATUS_STATE : RF := ⟨RSC_STATUS, 0, 2⟩
def RSC_STATUS_SEL : RF := ⟨RSC_STATUS, 2, 5⟩
def RSC_STATUS_LADDER : RF := ⟨RSC_STATUS, 7, 2⟩
def RSC_STATUS_SWITCHING : RF := ⟨RSC_STATUS, 9, 1⟩
def RSC_STATUS_LO_WARM : RF := ⟨RSC_STATUS, 10, 1⟩
def RSC_STATUS_HO_QUAL : RF := ⟨RSC_STATUS, 11, 1⟩
def RSC_STATUS_DISAGREE : RF := ⟨RSC_STATUS, 12, 1⟩
def RSC_STATUS_HO_AGE_S : RF := ⟨RSC_STATUS, 13, 32⟩

/-- RSC_EVENTS, 14_time.md, register table. -/
def RSC_EVENTS : Nat := keepSlot 0x06 (0x20)
def RSC_EVENTS_SWITCH : RF := ⟨RSC_EVENTS, 0, 1⟩
def RSC_EVENTS_LOSS : RF := ⟨RSC_EVENTS, 1, 1⟩
def RSC_EVENTS_HO_ENTER : RF := ⟨RSC_EVENTS, 2, 1⟩
def RSC_EVENTS_HO_EXIT : RF := ⟨RSC_EVENTS, 3, 1⟩
def RSC_EVENTS_DISAGREE : RF := ⟨RSC_EVENTS, 4, 1⟩
def RSC_EVENTS_QUAL : RF := ⟨RSC_EVENTS, 5, 1⟩
def RSC_EVENTS_HO_UNQUAL : RF := ⟨RSC_EVENTS, 6, 1⟩
def RSC_EVENTS_LO_LOSS : RF := ⟨RSC_EVENTS, 7, 1⟩

/-- RSC_CFG, 14_time.md, register table. -/
def RSC_CFG : Nat := keepSlot 0x06 (0x30)
def RSC_CFG_ACCEPT_PPB : RF := ⟨RSC_CFG, 0, 12⟩
def RSC_CFG_REJECT_PPB : RF := ⟨RSC_CFG, 12, 12⟩
def RSC_CFG_MUTUAL_PPB : RF := ⟨RSC_CFG, 24, 12⟩
def RSC_CFG_QUAL_S : RF := ⟨RSC_CFG, 36, 12⟩
def RSC_CFG_REVERT : RF := ⟨RSC_CFG, 48, 1⟩
def RSC_CFG_LO_WARM_S : RF := ⟨RSC_CFG, 49, 15⟩

/-- RSC_LO, 14_time.md, register table. -/
def RSC_LO : Nat := keepSlot 0x06 (0x40)
def RSC_LO_LO_CFG : RF := ⟨RSC_LO, 0, 27⟩
def RSC_LO_LO_ACTIVE : RF := ⟨RSC_LO, 27, 1⟩

/-- RSC_LADDER0, 14_time.md, register table. -/
def RSC_LADDER0 : Nat := keepSlot 0x06 (0x50)
def RSC_LADDER0_BW0_MHZ : RF := ⟨RSC_LADDER0, 0, 16⟩
def RSC_LADDER0_DWELL0_S : RF := ⟨RSC_LADDER0, 16, 12⟩
def RSC_LADDER0_BW1_MHZ : RF := ⟨RSC_LADDER0, 28, 16⟩
def RSC_LADDER0_DWELL1_S : RF := ⟨RSC_LADDER0, 44, 12⟩

/-- RSC_LADDER1, 14_time.md, register table. -/
def RSC_LADDER1 : Nat := keepSlot 0x06 (0x60)
def RSC_LADDER1_BW2_MHZ : RF := ⟨RSC_LADDER1, 0, 16⟩
def RSC_LADDER1_DWELL2_S : RF := ⟨RSC_LADDER1, 16, 12⟩
def RSC_LADDER1_BW3_MHZ : RF := ⟨RSC_LADDER1, 28, 16⟩
def RSC_LADDER1_DWELL3_S : RF := ⟨RSC_LADDER1, 44, 12⟩
def RSC_LADDER1_NSTEPS : RF := ⟨RSC_LADDER1, 56, 4⟩

/-- RSC_HOLD, 14_time.md, register table. -/
def RSC_HOLD : Nat := keepSlot 0x06 (0x70)
def RSC_HOLD_WIN_S : RF := ⟨RSC_HOLD, 0, 16⟩
def RSC_HOLD_OFS_S : RF := ⟨RSC_HOLD, 16, 16⟩
def RSC_HOLD_HO_MIN_S : RF := ⟨RSC_HOLD, 32, 16⟩
def RSC_HOLD_HO_MAX_S : RF := ⟨RSC_HOLD, 48, 24⟩

/-- RSC_CTRL, 14_time.md, register table. -/
def RSC_CTRL : Nat := keepSlot 0x06 (0x80)
def RSC_CTRL_VALUE : RF := ⟨RSC_CTRL, 0, 48⟩
def RSC_CTRL_HO_N : RF := ⟨RSC_CTRL, 48, 12⟩

/-- RSC_STEP, 14_time.md, register table. -/
def RSC_STEP : Nat := keepSlot 0x06 (0x90)
def RSC_STEP_DELTA_PS : RF := ⟨RSC_STEP, 0, 40⟩
def RSC_STEP_FROM : RF := ⟨RSC_STEP, 40, 5⟩
def RSC_STEP_TO : RF := ⟨RSC_STEP, 45, 5⟩

/-- REF_CFG, 14_time.md, register table. -/
def REF_CFG (r : Nat) : Nat := keepSlot 0x06 (0x1000 + 0x100 * r)
def REF_CFG_EN (r : Nat) : RF := ⟨REF_CFG r, 0, 1⟩
def REF_CFG_RANK (r : Nat) : RF := ⟨REF_CFG r, 1, 4⟩
def REF_CFG_NOM_HZ (r : Nat) : RF := ⟨REF_CFG r, 5, 31⟩

/-- REF_STATUS, 14_time.md, register table. -/
def REF_STATUS (r : Nat) : Nat := keepSlot 0x06 (0x1010 + 0x100 * r)
def REF_STATUS_STATE (r : Nat) : RF := ⟨REF_STATUS r, 0, 2⟩
def REF_STATUS_ACTIVE (r : Nat) : RF := ⟨REF_STATUS r, 2, 1⟩
def REF_STATUS_OFFSET_PPB (r : Nat) : RF := ⟨REF_STATUS r, 3, 24⟩
def REF_STATUS_QUAL_LEFT_S (r : Nat) : RF := ⟨REF_STATUS r, 27, 12⟩

/-! ### Block 0x07 HP (16_host.md) -/

/-- HP_INFO, 16_host.md, register table. -/
def HP_INFO (p : Nat) : Nat := keepSlot (7 + p) (0x0)
def HP_INFO_VERSION (p : Nat) : RF := ⟨HP_INFO p, 0, 8⟩
def HP_INFO_GEN (p : Nat) : RF := ⟨HP_INFO p, 8, 4⟩
def HP_INFO_VECTORS (p : Nat) : RF := ⟨HP_INFO p, 12, 7⟩
def HP_INFO_RINGS (p : Nat) : RF := ⟨HP_INFO p, 19, 14⟩

/-- HP_STATUS, 16_host.md, register table. -/
def HP_STATUS (p : Nat) : Nat := keepSlot (7 + p) (0x10)
def HP_STATUS_LINK (p : Nat) : RF := ⟨HP_STATUS p, 0, 2⟩
def HP_STATUS_STATE (p : Nat) : RF := ⟨HP_STATUS p, 2, 2⟩
def HP_STATUS_PARTIAL_WR (p : Nat) : RF := ⟨HP_STATUS p, 4, 1⟩
def HP_STATUS_WR_IGNORED (p : Nat) : RF := ⟨HP_STATUS p, 5, 1⟩
def HP_STATUS_DENIED (p : Nat) : RF := ⟨HP_STATUS p, 6, 1⟩
def HP_STATUS_ACK_IGNORED (p : Nat) : RF := ⟨HP_STATUS p, 7, 1⟩
def HP_STATUS_BUCKET (p : Nat) : RF := ⟨HP_STATUS p, 8, 16⟩

/-- HP_CFG, 16_host.md, register table. -/
def HP_CFG (p : Nat) : Nat := keepSlot (7 + p) (0x20)
def HP_CFG_IRQ_HOLDOFF_US (p : Nat) : RF := ⟨HP_CFG p, 0, 16⟩
def HP_CFG_ERR_THRESH (p : Nat) : RF := ⟨HP_CFG p, 16, 16⟩
def HP_CFG_ERR_LEAK_S (p : Nat) : RF := ⟨HP_CFG p, 32, 16⟩

/-- HP_WIN, 16_host.md, register table. -/
def HP_WIN (p w : Nat) : Nat := keepSlot (7 + p) (0x100 + 0x10 * w)
def HP_WIN_BASE (p w : Nat) : RF := ⟨HP_WIN p w, 0, 24⟩

/-- HP_CMD_BASE, 16_host.md, register table. -/
def HP_CMD_BASE (p : Nat) : Nat := keepSlot (7 + p) (0x200)
def HP_CMD_BASE_ADDR (p : Nat) : RF := ⟨HP_CMD_BASE p, 6, 58⟩

/-- HP_CPL_BASE, 16_host.md, register table. -/
def HP_CPL_BASE (p : Nat) : Nat := keepSlot (7 + p) (0x210)
def HP_CPL_BASE_ADDR (p : Nat) : RF := ⟨HP_CPL_BASE p, 6, 58⟩

/-- HP_RINGCFG, 16_host.md, register table. -/
def HP_RINGCFG (p : Nat) : Nat := keepSlot (7 + p) (0x220)
def HP_RINGCFG_EN (p : Nat) : RF := ⟨HP_RINGCFG p, 0, 1⟩
def HP_RINGCFG_CMD_LOG2 (p : Nat) : RF := ⟨HP_RINGCFG p, 1, 4⟩
def HP_RINGCFG_CPL_LOG2 (p : Nat) : RF := ⟨HP_RINGCFG p, 5, 4⟩

/-- HP_PTR, 16_host.md, register table. -/
def HP_PTR (p : Nat) : Nat := keepSlot (7 + p) (0x230)
def HP_PTR_CMD_READ (p : Nat) : RF := ⟨HP_PTR p, 0, 32⟩
def HP_PTR_CPL_WRITTEN (p : Nat) : RF := ⟨HP_PTR p, 32, 32⟩

/-- HP_COUNT, 16_host.md, register table. -/
def HP_COUNT (p : Nat) : Nat := keepSlot (7 + p) (0x240)
def HP_COUNT_CMDS (p : Nat) : RF := ⟨HP_COUNT p, 0, 24⟩
def HP_COUNT_NO_RIGHT (p : Nat) : RF := ⟨HP_COUNT p, 24, 24⟩
def HP_COUNT_DOORBELL_BAD (p : Nat) : RF := ⟨HP_COUNT p, 48, 24⟩

/-- LAND_ADDR, 16_host.md, register table. -/
def LAND_ADDR (p r a : Nat) : Nat := keepSlot (7 + p) (0x10000 + 0x40 * r + 0x10 * a)
def LAND_ADDR_ADDR (p r a : Nat) : RF := ⟨LAND_ADDR p r a, 0, 64⟩

/-- LAND_STATE, 16_host.md, register table. -/
def LAND_STATE (p r : Nat) : Nat := keepSlot (7 + p) (0x10030 + 0x40 * r)
def LAND_STATE_EN (p r : Nat) : RF := ⟨LAND_STATE p r, 0, 1⟩
def LAND_STATE_SLOTS_LOG2 (p r : Nat) : RF := ⟨LAND_STATE p r, 1, 5⟩
def LAND_STATE_VECTOR (p r : Nat) : RF := ⟨LAND_STATE p r, 6, 6⟩
def LAND_STATE_FREE (p r : Nat) : RF := ⟨LAND_STATE p r, 12, 48⟩

/-! ### Block 0x09 NVM (17_image_startup.md) -/

/-- NVM_INFO, 17_image_startup.md, register table. -/
def NVM_INFO : Nat := keepSlot 0x09 (0x0)
def NVM_INFO_VERSION : RF := ⟨NVM_INFO, 0, 8⟩
def NVM_INFO_PORTS : RF := ⟨NVM_INFO, 8, 4⟩
def NVM_INFO_CLK_MHZ : RF := ⟨NVM_INFO, 12, 8⟩

/-- NVM_STATUS, 17_image_startup.md, register table. -/
def NVM_STATUS : Nat := keepSlot 0x09 (0x10)
def NVM_STATUS_SOURCE : RF := ⟨NVM_STATUS, 0, 2⟩
def NVM_STATUS_FAIL_A : RF := ⟨NVM_STATUS, 2, 4⟩
def NVM_STATUS_FAIL_B : RF := ⟨NVM_STATUS, 6, 4⟩
def NVM_STATUS_FW_SOURCE : RF := ⟨NVM_STATUS, 10, 2⟩
def NVM_STATUS_OTHER_OK : RF := ⟨NVM_STATUS, 12, 1⟩
def NVM_STATUS_UPDATING : RF := ⟨NVM_STATUS, 13, 1⟩
def NVM_STATUS_START : RF := ⟨NVM_STATUS, 14, 2⟩

/-- NVM_EVENTS, 17_image_startup.md, register table. -/
def NVM_EVENTS : Nat := keepSlot 0x09 (0x20)
def NVM_EVENTS_FALLBACK : RF := ⟨NVM_EVENTS, 0, 1⟩
def NVM_EVENTS_UPDATE_DONE : RF := ⟨NVM_EVENTS, 1, 1⟩
def NVM_EVENTS_UPDATE_FAIL : RF := ⟨NVM_EVENTS, 2, 1⟩
def NVM_EVENTS_STORE_BAD : RF := ⟨NVM_EVENTS, 3, 1⟩
def NVM_EVENTS_ARB_RAISED : RF := ⟨NVM_EVENTS, 4, 1⟩

/-- NVM_DEV, 17_image_startup.md, register table. -/
def NVM_DEV (a : Nat) : Nat := keepSlot 0x09 (0x100 + 0x10 * a)
def NVM_DEV_JEDEC_ID (a : Nat) : RF := ⟨NVM_DEV a, 0, 24⟩
def NVM_DEV_SIZE_MIB (a : Nat) : RF := ⟨NVM_DEV a, 24, 16⟩
def NVM_DEV_SFDP_OK (a : Nat) : RF := ⟨NVM_DEV a, 40, 1⟩

/-- IMG_HDR, 17_image_startup.md, register table. -/
def IMG_HDR : Nat := keepSlot 0x09 (0x200)
def IMG_HDR_ARB : RF := ⟨IMG_HDR, 0, 32⟩
def IMG_HDR_SVN : RF := ⟨IMG_HDR, 32, 6⟩
def IMG_HDR_BOOT_PROG : RF := ⟨IMG_HDR, 38, 4⟩
def IMG_HDR_PROGS : RF := ⟨IMG_HDR, 42, 16⟩

/-- IMG_HASH, 17_image_startup.md, register table. -/
def IMG_HASH (j : Nat) : Nat := keepSlot 0x09 (0x210 + 0x10 * j)
def IMG_HASH_OCTETS (j : Nat) : RF := ⟨IMG_HASH j, 0, 72⟩

/-- ARB_STATE, 17_image_startup.md, register table. -/
def ARB_STATE : Nat := keepSlot 0x09 (0x300)
def ARB_STATE_FLOOR : RF := ⟨ARB_STATE, 0, 32⟩
def ARB_STATE_SVN_FUSED : RF := ⟨ARB_STATE, 32, 7⟩
def ARB_STATE_GEN : RF := ⟨ARB_STATE, 39, 32⟩
def ARB_STATE_STORE_INIT : RF := ⟨ARB_STATE, 71, 1⟩

/-- PROG_STATE, 17_image_startup.md, register table. -/
def PROG_STATE : Nat := keepSlot 0x09 (0x400)
def PROG_STATE_RUNNING : RF := ⟨PROG_STATE, 0, 4⟩
def PROG_STATE_SUSPENDED : RF := ⟨PROG_STATE, 4, 16⟩
def PROG_STATE_MUSTER_MS : RF := ⟨PROG_STATE, 20, 16⟩
def PROG_STATE_ALIGN_S : RF := ⟨PROG_STATE, 36, 16⟩

/-- ALIGN_CFG, 17_image_startup.md, register table. -/
def ALIGN_CFG : Nat := keepSlot 0x09 (0x410)
def ALIGN_CFG_ALIGN_CHAIN_S : RF := ⟨ALIGN_CFG, 0, 16⟩
def ALIGN_CFG_ALIGN_MAX_S : RF := ⟨ALIGN_CFG, 16, 16⟩

/-- CAL0, 17_image_startup.md, register table. -/
def CAL0 (n : Nat) : Nat := keepSlot 0x09 (0x1000 + 0x20 * n)
def CAL0_GRAIN (n : Nat) : RF := ⟨CAL0 n, 0, 64⟩

/-- CAL1, 17_image_startup.md, register table. -/
def CAL1 (n : Nat) : Nat := keepSlot 0x09 (0x1010 + 0x20 * n)
def CAL1_EN (n : Nat) : RF := ⟨CAL1 n, 0, 1⟩
def CAL1_PROG (n : Nat) : RF := ⟨CAL1 n, 1, 4⟩
def CAL1_PERIOD_S (n : Nat) : RF := ⟨CAL1 n, 5, 32⟩

/-! ### Block 0x0A RG (16_host.md, 18_security.md, 20_faults.md) -/

/-- RG_STATUS, 16_host.md, register table. -/
def RG_STATUS : Nat := keepSlot 0x0A (0x0)
def RG_STATUS_ACTIVE : RF := ⟨RG_STATUS, 0, 1⟩
def RG_STATUS_PENDING : RF := ⟨RG_STATUS, 1, 11⟩
def RG_STATUS_SCC : RF := ⟨RG_STATUS, 12, 48⟩
def RG_STATUS_LOG_NEXT : RF := ⟨RG_STATUS, 60, 12⟩

/-- RG_CFG, 16_host.md, register table. -/
def RG_CFG : Nat := keepSlot 0x0A (0x10)
def RG_CFG_SIGN_OP : RF := ⟨RG_CFG, 0, 1⟩

/-- CMD_SRC, 16_host.md, register table. -/
def CMD_SRC (s : Nat) : Nat := keepSlot 0x0A (0x1000 + 0x10 * s)
def CMD_SRC_VALID (s : Nat) : RF := ⟨CMD_SRC s, 0, 1⟩
def CMD_SRC_DEV (s : Nat) : RF := ⟨CMD_SRC s, 1, 16⟩
def CMD_SRC_LEVEL (s : Nat) : RF := ⟨CMD_SRC s, 17, 2⟩
def CMD_SRC_COUNTERS (s : Nat) : RF := ⟨CMD_SRC s, 19, 1⟩
def CMD_SRC_RANK (s : Nat) : RF := ⟨CMD_SRC s, 20, 4⟩
def CMD_SRC_PENDING (s : Nat) : RF := ⟨CMD_SRC s, 24, 9⟩

/-- CLOG0, 16_host.md, register table. -/
def CLOG0 (n : Nat) : Nat := keepSlot 0x0A (0x10000 + 0x20 * n)
def CLOG0_SRC (n : Nat) : RF := ⟨CLOG0 n, 0, 7⟩
def CLOG0_OPCODE (n : Nat) : RF := ⟨CLOG0 n, 7, 16⟩
def CLOG0_CODE (n : Nat) : RF := ⟨CLOG0 n, 23, 4⟩
def CLOG0_SEQ (n : Nat) : RF := ⟨CLOG0 n, 27, 32⟩
def CLOG0_SIGNED (n : Nat) : RF := ⟨CLOG0 n, 59, 1⟩

/-- CLOG1, 16_host.md, register table. -/
def CLOG1 (n : Nat) : Nat := keepSlot 0x0A (0x10010 + 0x20 * n)
def CLOG1_GRAIN (n : Nat) : RF := ⟨CLOG1 n, 0, 64⟩

/-- OPKEY, 18_security.md, register table. -/
def OPKEY (k w : Nat) : Nat := keepSlot 0x0A (0x40000 + 0x100 * k + 0x10 * w)
def OPKEY_OCTETS (k w : Nat) : RF := ⟨OPKEY k w, 0, 72⟩

/-- REPL_STATUS, 20_faults.md, register table. -/
def REPL_STATUS : Nat := keepSlot 0x0A (0x20)
def REPL_STATUS_LEVEL : RF := ⟨REPL_STATUS, 0, 2⟩
def REPL_STATUS_DIE_REQ : RF := ⟨REPL_STATUS, 2, 8⟩
def REPL_STATUS_DIE_ADV : RF := ⟨REPL_STATUS, 10, 8⟩
def REPL_STATUS_KEEPER_ADV : RF := ⟨REPL_STATUS, 18, 1⟩
def REPL_STATUS_REPLACE : RF := ⟨REPL_STATUS, 19, 1⟩
def REPL_STATUS_HOP_FAILED : RF := ⟨REPL_STATUS, 20, 9⟩

/-- REG_FAULT, 20_faults.md, register table. -/
def REG_FAULT : Nat := keepSlot 0x0A (0x30)
def REG_FAULT_A_STATE : RF := ⟨REG_FAULT, 0, 2⟩
def REG_FAULT_B_STATE : RF := ⟨REG_FAULT, 2, 2⟩
def REG_FAULT_A_BKT : RF := ⟨REG_FAULT, 4, 8⟩
def REG_FAULT_B_BKT : RF := ⟨REG_FAULT, 12, 8⟩
def REG_FAULT_FAILOVERS : RF := ⟨REG_FAULT, 20, 16⟩

/-! ### Block 0x0B PKC (13_products.md, 22_counters.md) -/

/-- PKC_RINGS, 13_products.md, register table. -/
def PKC_RINGS : Nat := keepSlot 0x0B (0x0)
def PKC_RINGS_TEL_RING : RF := ⟨PKC_RINGS, 0, 13⟩
def PKC_RINGS_EVT_RING : RF := ⟨PKC_RINGS, 13, 13⟩
def PKC_RINGS_ATT_RING : RF := ⟨PKC_RINGS, 26, 13⟩
def PKC_RINGS_CTR_RING : RF := ⟨PKC_RINGS, 39, 13⟩

/-- PKC_DROP, 13_products.md, register table. -/
def PKC_DROP : Nat := keepSlot 0x0B (0x10)
def PKC_DROP_EVT_DROPPED : RF := ⟨PKC_DROP, 0, 24⟩
def PKC_DROP_TEL_SKIPPED : RF := ⟨PKC_DROP, 24, 24⟩
def PKC_DROP_CTR_SKIPPED : RF := ⟨PKC_DROP, 48, 24⟩

/-- TEL_CFG, 22_counters.md, register table. -/
def TEL_CFG : Nat := keepSlot 0x0B (0x20)
def TEL_CFG_TEL_PERIOD_S : RF := ⟨TEL_CFG, 0, 16⟩

/-! ### Block 0x10 ING (03_ingest_lanes.md) -/

/-- ING_INFO, 03_ingest_lanes.md, register table. -/
def ING_INFO (d : Nat) : Nat := spanSlot d 0x10 (0x0)
def ING_INFO_VERSION (d : Nat) : RF := ⟨ING_INFO d, 0, 8⟩
def ING_INFO_LANES (d : Nat) : RF := ⟨ING_INFO d, 8, 8⟩
def ING_INFO_LINKS (d : Nat) : RF := ⟨ING_INFO d, 16, 4⟩
def ING_INFO_STREAMS (d : Nat) : RF := ⟨ING_INFO d, 20, 8⟩

/-- ING_STATUS, 03_ingest_lanes.md, register table. -/
def ING_STATUS (d : Nat) : Nat := spanSlot d 0x10 (0x10)
def ING_STATUS_LANE_CGS (d : Nat) : RF := ⟨ING_STATUS d, 0, 16⟩
def ING_STATUS_LINK_DATA (d : Nat) : RF := ⟨ING_STATUS d, 16, 8⟩
def ING_STATUS_LINK_DEACC (d : Nat) : RF := ⟨ING_STATUS d, 24, 8⟩
def ING_STATUS_LANE_DEACC (d : Nat) : RF := ⟨ING_STATUS d, 32, 16⟩

/-- ING_EVENTS, 03_ingest_lanes.md, register table. -/
def ING_EVENTS (d : Nat) : Nat := spanSlot d 0x10 (0x20)
def ING_EVENTS_CHAR_ERR (d : Nat) : RF := ⟨ING_EVENTS d, 0, 1⟩
def ING_EVENTS_REINIT (d : Nat) : RF := ⟨ING_EVENTS d, 1, 1⟩
def ING_EVENTS_ILAS_FAIL (d : Nat) : RF := ⟨ING_EVENTS d, 2, 1⟩
def ING_EVENTS_DEACC (d : Nat) : RF := ⟨ING_EVENTS d, 3, 1⟩
def ING_EVENTS_LINK_WAIT (d : Nat) : RF := ⟨ING_EVENTS d, 4, 1⟩
def ING_EVENTS_EYE_LOW (d : Nat) : RF := ⟨ING_EVENTS d, 5, 1⟩

/-- ING_BUCKET_CFG, 03_ingest_lanes.md, register table. -/
def ING_BUCKET_CFG (d : Nat) : Nat := spanSlot d 0x10 (0x30)
def ING_BUCKET_CFG_CHAR_THRESH (d : Nat) : RF := ⟨ING_BUCKET_CFG d, 0, 16⟩
def ING_BUCKET_CFG_CHAR_LEAK_US (d : Nat) : RF := ⟨ING_BUCKET_CFG d, 16, 16⟩
def ING_BUCKET_CFG_REAL_THRESH (d : Nat) : RF := ⟨ING_BUCKET_CFG d, 32, 8⟩
def ING_BUCKET_CFG_REAL_LEAK_S (d : Nat) : RF := ⟨ING_BUCKET_CFG d, 40, 16⟩

/-- ING_TIMERS, 03_ingest_lanes.md, register table. -/
def ING_TIMERS (d : Nat) : Nat := spanSlot d 0x10 (0x40)
def ING_TIMERS_LINK_WAIT_S (d : Nat) : RF := ⟨ING_TIMERS d, 0, 16⟩
def ING_TIMERS_ILAS_RETRY_MS (d : Nat) : RF := ⟨ING_TIMERS d, 16, 16⟩
def ING_TIMERS_SYNC_MIN_MF (d : Nat) : RF := ⟨ING_TIMERS d, 32, 4⟩

/-- QUAD_CFG, 03_ingest_lanes.md, register table. -/
def QUAD_CFG (d q : Nat) : Nat := spanSlot d 0x10 (0x100 + 0x10 * q)
def QUAD_CFG_RATE_KBD (d q : Nat) : RF := ⟨QUAD_CFG d q, 0, 24⟩
def QUAD_CFG_LOCK (d q : Nat) : RF := ⟨QUAD_CFG d q, 24, 1⟩

/-- LANE_CFG, 03_ingest_lanes.md, register table. -/
def LANE_CFG (d n : Nat) : Nat := spanSlot d 0x10 (0x1000 + 0x100 * n)
def LANE_CFG_EN (d n : Nat) : RF := ⟨LANE_CFG d n, 0, 1⟩
def LANE_CFG_INV (d n : Nat) : RF := ⟨LANE_CFG d n, 1, 1⟩
def LANE_CFG_CTLE_MODE (d n : Nat) : RF := ⟨LANE_CFG d n, 2, 1⟩
def LANE_CFG_CTLE_PEAK (d n : Nat) : RF := ⟨LANE_CFG d n, 3, 4⟩
def LANE_CFG_LINK (d n : Nat) : RF := ⟨LANE_CFG d n, 7, 3⟩
def LANE_CFG_LID (d n : Nat) : RF := ⟨LANE_CFG d n, 10, 5⟩
def LANE_CFG_LOGICAL (d n : Nat) : RF := ⟨LANE_CFG d n, 15, 3⟩

/-- LANE_STATUS, 03_ingest_lanes.md, register table. -/
def LANE_STATUS (d n : Nat) : Nat := spanSlot d 0x10 (0x1010 + 0x100 * n)
def LANE_STATUS_STATE (d n : Nat) : RF := ⟨LANE_STATUS d n, 0, 3⟩
def LANE_STATUS_CDR_LOCK (d n : Nat) : RF := ⟨LANE_STATUS d n, 3, 1⟩
def LANE_STATUS_PEAK_USED (d n : Nat) : RF := ⟨LANE_STATUS d n, 4, 4⟩
def LANE_STATUS_SKEW (d n : Nat) : RF := ⟨LANE_STATUS d n, 8, 8⟩
def LANE_STATUS_RX_LID (d n : Nat) : RF := ⟨LANE_STATUS d n, 16, 5⟩

/-- LANE_ERRCNT, 03_ingest_lanes.md, register table. -/
def LANE_ERRCNT (d n : Nat) : Nat := spanSlot d 0x10 (0x1020 + 0x100 * n)
def LANE_ERRCNT_CODE (d n : Nat) : RF := ⟨LANE_ERRCNT d n, 0, 24⟩
def LANE_ERRCNT_DISP (d n : Nat) : RF := ⟨LANE_ERRCNT d n, 24, 24⟩
def LANE_ERRCNT_CTRL (d n : Nat) : RF := ⟨LANE_ERRCNT d n, 48, 24⟩

/-- LANE_ALIGNCNT, 03_ingest_lanes.md, register table. -/
def LANE_ALIGNCNT (d n : Nat) : Nat := spanSlot d 0x10 (0x1030 + 0x100 * n)
def LANE_ALIGNCNT_A_ERR (d n : Nat) : RF := ⟨LANE_ALIGNCNT d n, 0, 16⟩
def LANE_ALIGNCNT_F_ERR (d n : Nat) : RF := ⟨LANE_ALIGNCNT d n, 16, 16⟩
def LANE_ALIGNCNT_CGS_LOSS (d n : Nat) : RF := ⟨LANE_ALIGNCNT d n, 32, 16⟩
def LANE_ALIGNCNT_CHAR_BKT (d n : Nat) : RF := ⟨LANE_ALIGNCNT d n, 48, 16⟩
def LANE_ALIGNCNT_REAL_BKT (d n : Nat) : RF := ⟨LANE_ALIGNCNT d n, 64, 8⟩

/-- LANE_EYE, 03_ingest_lanes.md, register table. -/
def LANE_EYE (d n : Nat) : Nat := spanSlot d 0x10 (0x1040 + 0x100 * n)
def LANE_EYE_HEIGHT_MV (d n : Nat) : RF := ⟨LANE_EYE d n, 0, 8⟩
def LANE_EYE_WIDTH (d n : Nat) : RF := ⟨LANE_EYE d n, 8, 8⟩
def LANE_EYE_AGE_S (d n : Nat) : RF := ⟨LANE_EYE d n, 16, 16⟩
def LANE_EYE_STALE (d n : Nat) : RF := ⟨LANE_EYE d n, 32, 1⟩

/-- LANE_ILAS0, 03_ingest_lanes.md, register table. -/
def LANE_ILAS0 (d n : Nat) : Nat := spanSlot d 0x10 (0x1050 + 0x100 * n)
def LANE_ILAS0_OCT0_8 (d n : Nat) : RF := ⟨LANE_ILAS0 d n, 0, 72⟩

/-- LANE_ILAS1, 03_ingest_lanes.md, register table. -/
def LANE_ILAS1 (d n : Nat) : Nat := spanSlot d 0x10 (0x1060 + 0x100 * n)
def LANE_ILAS1_OCT9_13 (d n : Nat) : RF := ⟨LANE_ILAS1 d n, 0, 40⟩

/-- LINK_CFG, 03_ingest_lanes.md, register table. -/
def LINK_CFG (d j : Nat) : Nat := spanSlot d 0x10 (0x2000 + 0x100 * j)
def LINK_CFG_EN (d j : Nat) : RF := ⟨LINK_CFG d j, 0, 1⟩
def LINK_CFG_L (d j : Nat) : RF := ⟨LINK_CFG d j, 1, 2⟩
def LINK_CFG_M_M1 (d j : Nat) : RF := ⟨LINK_CFG d j, 3, 4⟩
def LINK_CFG_F_M1 (d j : Nat) : RF := ⟨LINK_CFG d j, 7, 3⟩
def LINK_CFG_K_M1 (d j : Nat) : RF := ⟨LINK_CFG d j, 10, 5⟩
def LINK_CFG_N_M1 (d j : Nat) : RF := ⟨LINK_CFG d j, 15, 4⟩
def LINK_CFG_NP (d j : Nat) : RF := ⟨LINK_CFG d j, 19, 1⟩
def LINK_CFG_S_M1 (d j : Nat) : RF := ⟨LINK_CFG d j, 20, 5⟩
def LINK_CFG_HD (d j : Nat) : RF := ⟨LINK_CFG d j, 25, 1⟩
def LINK_CFG_SCR (d j : Nat) : RF := ⟨LINK_CFG d j, 26, 1⟩
def LINK_CFG_SUBCLASS (d j : Nat) : RF := ⟨LINK_CFG d j, 27, 1⟩
def LINK_CFG_DID (d j : Nat) : RF := ⟨LINK_CFG d j, 28, 8⟩
def LINK_CFG_BID (d j : Nat) : RF := ⟨LINK_CFG d j, 36, 4⟩
def LINK_CFG_RBD (d j : Nat) : RF := ⟨LINK_CFG d j, 40, 5⟩

/-- LINK_CHECK, 03_ingest_lanes.md, register table. -/
def LINK_CHECK (d j : Nat) : Nat := spanSlot d 0x10 (0x2010 + 0x100 * j)
def LINK_CHECK_MASK (d j : Nat) : RF := ⟨LINK_CHECK d j, 0, 17⟩

/-- LINK_STATUS, 03_ingest_lanes.md, register table. -/
def LINK_STATUS (d j : Nat) : Nat := spanSlot d 0x10 (0x2020 + 0x100 * j)
def LINK_STATUS_STATE (d j : Nat) : RF := ⟨LINK_STATUS d j, 0, 3⟩
def LINK_STATUS_SYNC_ASSERTED (d j : Nat) : RF := ⟨LINK_STATUS d j, 3, 1⟩
def LINK_STATUS_FAIL_FIELD (d j : Nat) : RF := ⟨LINK_STATUS d j, 4, 5⟩
def LINK_STATUS_DESKEW_SPAN (d j : Nat) : RF := ⟨LINK_STATUS d j, 9, 8⟩
def LINK_STATUS_DATA_SINCE_S (d j : Nat) : RF := ⟨LINK_STATUS d j, 17, 48⟩

/-- LINK_LAT, 03_ingest_lanes.md, register table. -/
def LINK_LAT (d j : Nat) : Nat := spanSlot d 0x10 (0x2030 + 0x100 * j)
def LINK_LAT_ARRIVAL (d j : Nat) : RF := ⟨LINK_LAT d j, 0, 16⟩
def LINK_LAT_BUF_FILL (d j : Nat) : RF := ⟨LINK_LAT d j, 16, 16⟩

/-- LINK_COUNT, 03_ingest_lanes.md, register table. -/
def LINK_COUNT (d j : Nat) : Nat := spanSlot d 0x10 (0x2040 + 0x100 * j)
def LINK_COUNT_REINIT (d j : Nat) : RF := ⟨LINK_COUNT d j, 0, 24⟩
def LINK_COUNT_ILAS_FAILS (d j : Nat) : RF := ⟨LINK_COUNT d j, 24, 24⟩
def LINK_COUNT_FLAGGED (d j : Nat) : RF := ⟨LINK_COUNT d j, 48, 24⟩

/-- INPUT_MAP, 03_ingest_lanes.md, register table. -/
def INPUT_MAP (d i : Nat) : Nat := spanSlot d 0x10 (0x3000 + 0x10 * i)
def INPUT_MAP_EN (d i : Nat) : RF := ⟨INPUT_MAP d i, 0, 1⟩
def INPUT_MAP_CPLX (d i : Nat) : RF := ⟨INPUT_MAP d i, 1, 1⟩
def INPUT_MAP_LINK (d i : Nat) : RF := ⟨INPUT_MAP d i, 2, 3⟩
def INPUT_MAP_I_CONV (d i : Nat) : RF := ⟨INPUT_MAP d i, 5, 4⟩
def INPUT_MAP_Q_CONV (d i : Nat) : RF := ⟨INPUT_MAP d i, 9, 4⟩
def INPUT_MAP_DEACC (d i : Nat) : RF := ⟨INPUT_MAP d i, 13, 1⟩

/-! ### Block 0x11 DFU (04_delay_filter.md) -/

/-- DFU_INFO, 04_delay_filter.md, register table. -/
def DFU_INFO (d : Nat) : Nat := spanSlot d 0x11 (0x0)
def DFU_INFO_VERSION (d : Nat) : RF := ⟨DFU_INFO d, 0, 8⟩
def DFU_INFO_MULT (d : Nat) : RF := ⟨DFU_INFO d, 12, 12⟩
def DFU_INFO_FADE_UNITS (d : Nat) : RF := ⟨DFU_INFO d, 24, 8⟩
def DFU_INFO_INTERP_TAPS (d : Nat) : RF := ⟨DFU_INFO d, 32, 8⟩
def DFU_INFO_LAT_INTERP (d : Nat) : RF := ⟨DFU_INFO d, 40, 8⟩

/-- DFU_STATUS, 04_delay_filter.md, register table. -/
def DFU_STATUS (d : Nat) : Nat := spanSlot d 0x11 (0x10)
def DFU_STATUS_UNITS_USED (d : Nat) : RF := ⟨DFU_STATUS d, 0, 5⟩
def DFU_STATUS_QUEUED (d : Nat) : RF := ⟨DFU_STATUS d, 5, 8⟩
def DFU_STATUS_HEAD_INPUT (d : Nat) : RF := ⟨DFU_STATUS d, 13, 7⟩

/-- DFU_EVENTS, 04_delay_filter.md, register table. -/
def DFU_EVENTS (d : Nat) : Nat := spanSlot d 0x11 (0x20)
def DFU_EVENTS_DELAY_CLAMP (d : Nat) : RF := ⟨DFU_EVENTS d, 0, 1⟩
def DFU_EVENTS_FADE_DONE (d : Nat) : RF := ⟨DFU_EVENTS d, 1, 1⟩
def DFU_EVENTS_FADE_ABANDONED (d : Nat) : RF := ⟨DFU_EVENTS d, 2, 1⟩
def DFU_EVENTS_HIST_DISCARD (d : Nat) : RF := ⟨DFU_EVENTS d, 3, 1⟩
def DFU_EVENTS_REQ_SAT (d : Nat) : RF := ⟨DFU_EVENTS d, 4, 1⟩
def DFU_EVENTS_COEF_PARITY (d : Nat) : RF := ⟨DFU_EVENTS d, 5, 1⟩

/-- IN_CFG, 04_delay_filter.md, register table. -/
def IN_CFG (d i : Nat) : Nat := spanSlot d 0x11 (0x10000 + 0x100 * i)
def IN_CFG_MODE (d i : Nat) : RF := ⟨IN_CFG d i, 0, 2⟩
def IN_CFG_R2C (d i : Nat) : RF := ⟨IN_CFG d i, 2, 1⟩
def IN_CFG_D_M1 (d i : Nat) : RF := ⟨IN_CFG d i, 3, 6⟩
def IN_CFG_TAPS_A_M1 (d i : Nat) : RF := ⟨IN_CFG d i, 9, 9⟩
def IN_CFG_TAPS_B_M1 (d i : Nat) : RF := ⟨IN_CFG d i, 18, 9⟩
def IN_CFG_LIVE (d i : Nat) : RF := ⟨IN_CFG d i, 27, 1⟩
def IN_CFG_FMT (d i : Nat) : RF := ⟨IN_CFG d i, 28, 1⟩
def IN_CFG_OUT_SHIFT (d i : Nat) : RF := ⟨IN_CFG d i, 29, 5⟩
def IN_CFG_GAIN (d i : Nat) : RF := ⟨IN_CFG d i, 34, 18⟩

/-- IN_STATUS, 04_delay_filter.md, register table. -/
def IN_STATUS (d i : Nat) : Nat := spanSlot d 0x11 (0x10010 + 0x100 * i)
def IN_STATUS_FADING (d i : Nat) : RF := ⟨IN_STATUS d i, 0, 1⟩
def IN_STATUS_QUEUED (d i : Nat) : RF := ⟨IN_STATUS d i, 1, 1⟩
def IN_STATUS_FADE_POS (d i : Nat) : RF := ⟨IN_STATUS d i, 2, 16⟩
def IN_STATUS_DLY_COARSE (d i : Nat) : RF := ⟨IN_STATUS d i, 18, 16⟩
def IN_STATUS_DLY_PHASE (d i : Nat) : RF := ⟨IN_STATUS d i, 34, 10⟩
def IN_STATUS_CLAMPED (d i : Nat) : RF := ⟨IN_STATUS d i, 44, 1⟩
def IN_STATUS_HIST_FLAG (d i : Nat) : RF := ⟨IN_STATUS d i, 45, 9⟩

/-- IN_COUNT, 04_delay_filter.md, register table. -/
def IN_COUNT (d i : Nat) : Nat := spanSlot d 0x11 (0x10020 + 0x100 * i)
def IN_COUNT_FLAGGED (d i : Nat) : RF := ⟨IN_COUNT d i, 0, 24⟩
def IN_COUNT_SAT_CNT (d i : Nat) : RF := ⟨IN_COUNT d i, 24, 24⟩
def IN_COUNT_CLAMP_CNT (d i : Nat) : RF := ⟨IN_COUNT d i, 48, 24⟩

/-- FADE_REQ, 04_delay_filter.md, register table. -/
def FADE_REQ (d i : Nat) : Nat := spanSlot d 0x11 (0x10030 + 0x100 * i)
def FADE_REQ_LEN_M1 (d i : Nat) : RF := ⟨FADE_REQ d i, 0, 16⟩
def FADE_REQ_GRAIN (d i : Nat) : RF := ⟨FADE_REQ d i, 16, 48⟩

/-- POLY_T0, 04_delay_filter.md, register table. -/
def POLY_T0 (d i : Nat) : Nat := spanSlot d 0x11 (0x10040 + 0x100 * i)
def POLY_T0_SEC (d i : Nat) : RF := ⟨POLY_T0 d i, 0, 40⟩
def POLY_T0_NS (d i : Nat) : RF := ⟨POLY_T0 d i, 40, 30⟩

/-- POLY_C, 04_delay_filter.md, register table. -/
def POLY_C (d i j : Nat) : Nat := spanSlot d 0x11 (0x10050 + 0x100 * i + 0x10 * j)
def POLY_C_COEF (d i j : Nat) : RF := ⟨POLY_C d i j, 0, 64⟩

/-- PEND_T0, 04_delay_filter.md, register table. -/
def PEND_T0 (d i : Nat) : Nat := spanSlot d 0x11 (0x10090 + 0x100 * i)
def PEND_T0_SEC (d i : Nat) : RF := ⟨PEND_T0 d i, 0, 40⟩
def PEND_T0_NS (d i : Nat) : RF := ⟨PEND_T0 d i, 40, 30⟩

/-- PEND_C, 04_delay_filter.md, register table. -/
def PEND_C (d i j : Nat) : Nat := spanSlot d 0x11 (0x100A0 + 0x100 * i + 0x10 * j)
def PEND_C_COEF (d i j : Nat) : RF := ⟨PEND_C d i j, 0, 64⟩

/-- POLY_CTRL, 04_delay_filter.md, register table. -/
def POLY_CTRL (d i : Nat) : Nat := spanSlot d 0x11 (0x100E0 + 0x100 * i)
def POLY_CTRL_PENDING (d i : Nat) : RF := ⟨POLY_CTRL d i, 0, 1⟩
def POLY_CTRL_EFF_GRAIN (d i : Nat) : RF := ⟨POLY_CTRL d i, 1, 48⟩

/-- COEF, 04_delay_filter.md, register table. -/
def COEF (d i b w : Nat) : Nat := spanSlot d 0x11 (0x100000000 + 0x2000 * i + 0x1000 * b + 0x10 * w)
def COEF_TAPS (d i b w : Nat) : RF := ⟨COEF d i b w, 0, 72⟩

/-- INTERP, 04_delay_filter.md, register table. -/
def INTERP (d w : Nat) : Nat := spanSlot d 0x11 (0x200000000 + 0x10 * w)
def INTERP_H (d w : Nat) : RF := ⟨INTERP d w, 0, 72⟩

/-- DELAY_LINE, 04_delay_filter.md, register table. -/
def DELAY_LINE (d n w : Nat) : Nat := spanSlot d 0x11 (0x400000000 + 0x40000 * n + 0x10 * w)
def DELAY_LINE_SAMPLES (d n w : Nat) : RF := ⟨DELAY_LINE d n w, 0, 72⟩

/-! ### Block 0x12 ACU (05_acceptance.md) -/

/-- ACU_INFO, 05_acceptance.md, register table. -/
def ACU_INFO (d : Nat) : Nat := spanSlot d 0x12 (0x0)
def ACU_INFO_VERSION (d : Nat) : RF := ⟨ACU_INFO d, 0, 8⟩
def ACU_INFO_FOLIO_LOG2 (d : Nat) : RF := ⟨ACU_INFO d, 8, 8⟩
def ACU_INFO_MAX_VIT (d : Nat) : RF := ⟨ACU_INFO d, 16, 8⟩

/-- ACU_STATUS, 05_acceptance.md, register table. -/
def ACU_STATUS (d : Nat) : Nat := spanSlot d 0x12 (0x10)
def ACU_STATUS_STATE (d : Nat) : RF := ⟨ACU_STATUS d, 0, 2⟩
def ACU_STATUS_OPEN_VIT (d : Nat) : RF := ⟨ACU_STATUS d, 2, 5⟩
def ACU_STATUS_VIT_PINNED (d : Nat) : RF := ⟨ACU_STATUS d, 7, 24⟩
def ACU_STATUS_UNSETTLED (d : Nat) : RF := ⟨ACU_STATUS d, 31, 8⟩
def ACU_STATUS_PAIR_ACTIVE (d : Nat) : RF := ⟨ACU_STATUS d, 39, 1⟩

/-- ACU_EVENTS, 05_acceptance.md, register table. -/
def ACU_EVENTS (d : Nat) : Nat := spanSlot d 0x12 (0x20)
def ACU_EVENTS_REFUSED (d : Nat) : RF := ⟨ACU_EVENTS d, 0, 1⟩
def ACU_EVENTS_RB_FAIL (d : Nat) : RF := ⟨ACU_EVENTS d, 1, 1⟩
def ACU_EVENTS_PINNED (d : Nat) : RF := ⟨ACU_EVENTS d, 2, 1⟩
def ACU_EVENTS_VIT_REFUSED (d : Nat) : RF := ⟨ACU_EVENTS d, 3, 1⟩
def ACU_EVENTS_VIT_TRUNC (d : Nat) : RF := ⟨ACU_EVENTS d, 4, 1⟩
def ACU_EVENTS_CAN_EXHAUSTED (d : Nat) : RF := ⟨ACU_EVENTS d, 5, 1⟩

/-- ACU_CFG, 05_acceptance.md, register table. -/
def ACU_CFG (d : Nat) : Nat := spanSlot d 0x12 (0x30)
def ACU_CFG_ACC_WINDOW (d : Nat) : RF := ⟨ACU_CFG d, 0, 8⟩
def ACU_CFG_VIT_PIN_MAX (d : Nat) : RF := ⟨ACU_CFG d, 8, 24⟩
def ACU_CFG_PAIR_EN (d : Nat) : RF := ⟨ACU_CFG d, 32, 1⟩

/-- GRID_RATE, 05_acceptance.md, register table. -/
def GRID_RATE (d : Nat) : Nat := spanSlot d 0x12 (0x40)
def GRID_RATE_FS_NUM (d : Nat) : RF := ⟨GRID_RATE d, 0, 40⟩
def GRID_RATE_FS_DEN (d : Nat) : RF := ⟨GRID_RATE d, 40, 24⟩

/-- GRID_T0, 05_acceptance.md, register table. -/
def GRID_T0 (d : Nat) : Nat := spanSlot d 0x12 (0x50)
def GRID_T0_SEC (d : Nat) : RF := ⟨GRID_T0 d, 0, 40⟩
def GRID_T0_NS (d : Nat) : RF := ⟨GRID_T0 d, 40, 30⟩

/-- JNL_REGION, 05_acceptance.md, register table. -/
def JNL_REGION (d : Nat) : Nat := spanSlot d 0x12 (0x60)
def JNL_REGION_BASE (d : Nat) : RF := ⟨JNL_REGION d, 0, 36⟩
def JNL_REGION_SLOTS (d : Nat) : RF := ⟨JNL_REGION d, 36, 24⟩

/-- JNL_REC, 05_acceptance.md, register table. -/
def JNL_REC (d : Nat) : Nat := spanSlot d 0x12 (0x70)
def JNL_REC_REC_WORDS (d : Nat) : RF := ⟨JNL_REC d, 0, 24⟩
def JNL_REC_INPUTS (d : Nat) : RF := ⟨JNL_REC d, 24, 8⟩
def JNL_REC_DIR_BASE (d : Nat) : RF := ⟨JNL_REC d, 32, 36⟩

/-- JNL_PTR, 05_acceptance.md, register table. -/
def JNL_PTR (d : Nat) : Nat := spanSlot d 0x12 (0x80)
def JNL_PTR_HEAD (d : Nat) : RF := ⟨JNL_PTR d, 0, 24⟩
def JNL_PTR_TAIL (d : Nat) : RF := ⟨JNL_PTR d, 24, 24⟩
def JNL_PTR_REPLAY (d : Nat) : RF := ⟨JNL_PTR d, 48, 24⟩

/-- ACU_LAST, 05_acceptance.md, register table. -/
def ACU_LAST (d : Nat) : Nat := spanSlot d 0x12 (0x90)
def ACU_LAST_FOLIO_IDX (d : Nat) : RF := ⟨ACU_LAST d, 0, 48⟩
def ACU_LAST_STATE (d : Nat) : RF := ⟨ACU_LAST d, 48, 2⟩
def ACU_LAST_REASON (d : Nat) : RF := ⟨ACU_LAST d, 50, 4⟩

/-- ACU_CAN, 05_acceptance.md, register table. -/
def ACU_CAN (d : Nat) : Nat := spanSlot d 0x12 (0xA0)
def ACU_CAN_CAN_SEQ (d : Nat) : RF := ⟨ACU_CAN d, 0, 48⟩
def ACU_CAN_EPOCH (d : Nat) : RF := ⟨ACU_CAN d, 48, 16⟩

/-- ACU_COUNT, 05_acceptance.md, register table. -/
def ACU_COUNT (d : Nat) : Nat := spanSlot d 0x12 (0xB0)
def ACU_COUNT_ACCEPTED (d : Nat) : RF := ⟨ACU_COUNT d, 0, 36⟩
def ACU_COUNT_REFUSED (d : Nat) : RF := ⟨ACU_COUNT d, 36, 36⟩

/-- ACU_RB, 05_acceptance.md, register table. -/
def ACU_RB (d : Nat) : Nat := spanSlot d 0x12 (0xF0)
def ACU_RB_CORRECTED (d : Nat) : RF := ⟨ACU_RB d, 0, 24⟩
def ACU_RB_UNCORR (d : Nat) : RF := ⟨ACU_RB d, 24, 24⟩
def ACU_RB_MISMATCH (d : Nat) : RF := ⟨ACU_RB d, 48, 24⟩

/-- VIT_MASK0, 05_acceptance.md, register table. -/
def VIT_MASK0 (d v : Nat) : Nat := spanSlot d 0x12 (0x1000 + 0x100 * v)
def VIT_MASK0_INPUTS (d v : Nat) : RF := ⟨VIT_MASK0 d v, 0, 64⟩

/-- VIT_MASK1, 05_acceptance.md, register table. -/
def VIT_MASK1 (d v : Nat) : Nat := spanSlot d 0x12 (0x1010 + 0x100 * v)
def VIT_MASK1_INPUTS (d v : Nat) : RF := ⟨VIT_MASK1 d v, 0, 64⟩

/-- VIT_FIRST, 05_acceptance.md, register table. -/
def VIT_FIRST (d v : Nat) : Nat := spanSlot d 0x12 (0x1020 + 0x100 * v)
def VIT_FIRST_FOLIO (d v : Nat) : RF := ⟨VIT_FIRST d v, 0, 48⟩

/-- VIT_LAST, 05_acceptance.md, register table. -/
def VIT_LAST (d v : Nat) : Nat := spanSlot d 0x12 (0x1030 + 0x100 * v)
def VIT_LAST_FOLIO (d v : Nat) : RF := ⟨VIT_LAST d v, 0, 48⟩
def VIT_LAST_MERGED (d v : Nat) : RF := ⟨VIT_LAST d v, 48, 16⟩

/-- VIT_STATE, 05_acceptance.md, register table. -/
def VIT_STATE (d v : Nat) : Nat := spanSlot d 0x12 (0x1040 + 0x100 * v)
def VIT_STATE_STATE (d v : Nat) : RF := ⟨VIT_STATE d v, 0, 2⟩
def VIT_STATE_SOURCE (d v : Nat) : RF := ⟨VIT_STATE d v, 2, 1⟩
def VIT_STATE_TRUNC_PRE (d v : Nat) : RF := ⟨VIT_STATE d v, 3, 1⟩
def VIT_STATE_TRUNC_POST (d v : Nat) : RF := ⟨VIT_STATE d v, 4, 1⟩
def VIT_STATE_NUMBER (d v : Nat) : RF := ⟨VIT_STATE d v, 5, 32⟩
def VIT_STATE_DONE (d v : Nat) : RF := ⟨VIT_STATE d v, 37, 24⟩

/-- DIR0, 05_acceptance.md, register table. -/
def DIR0 (d n : Nat) : Nat := spanSlot d 0x12 (0x100000000 + 0x20 * n)
def DIR0_ENTRY (d n : Nat) : RF := ⟨DIR0 d n, 0, 72⟩

/-- DIR1, 05_acceptance.md, register table. -/
def DIR1 (d n : Nat) : Nat := spanSlot d 0x12 (0x100000010 + 0x20 * n)
def DIR1_ENTRY (d n : Nat) : RF := ⟨DIR1 d n, 0, 72⟩

/-- ACU_REFUSE0, 05_acceptance.md, register table. -/
def ACU_REFUSE0 (d : Nat) : Nat := spanSlot d 0x12 (0xC0)
def ACU_REFUSE0_CNT_A (d : Nat) : RF := ⟨ACU_REFUSE0 d, 0, 24⟩
def ACU_REFUSE0_CNT_B (d : Nat) : RF := ⟨ACU_REFUSE0 d, 24, 24⟩
def ACU_REFUSE0_CNT_C (d : Nat) : RF := ⟨ACU_REFUSE0 d, 48, 24⟩

/-- ACU_REFUSE1, 05_acceptance.md, register table. -/
def ACU_REFUSE1 (d : Nat) : Nat := spanSlot d 0x12 (0xD0)
def ACU_REFUSE1_CNT_A (d : Nat) : RF := ⟨ACU_REFUSE1 d, 0, 24⟩
def ACU_REFUSE1_CNT_B (d : Nat) : RF := ⟨ACU_REFUSE1 d, 24, 24⟩
def ACU_REFUSE1_CNT_C (d : Nat) : RF := ⟨ACU_REFUSE1 d, 48, 24⟩

/-- ACU_REFUSE2, 05_acceptance.md, register table. -/
def ACU_REFUSE2 (d : Nat) : Nat := spanSlot d 0x12 (0xE0)
def ACU_REFUSE2_CNT_A (d : Nat) : RF := ⟨ACU_REFUSE2 d, 0, 24⟩
def ACU_REFUSE2_CNT_B (d : Nat) : RF := ⟨ACU_REFUSE2 d, 24, 24⟩
def ACU_REFUSE2_CNT_C (d : Nat) : RF := ⟨ACU_REFUSE2 d, 48, 24⟩

/-! ### Block 0x13 FC (06_fcore_arch.md) -/

/-- FC_INFO, 06_fcore_arch.md, register table. -/
def FC_INFO (d : Nat) : Nat := spanSlot d 0x13 (0x0)
def FC_INFO_VERSION (d : Nat) : RF := ⟨FC_INFO d, 0, 8⟩
def FC_INFO_CORES (d : Nat) : RF := ⟨FC_INFO d, 8, 5⟩
def FC_INFO_ACTIVE (d : Nat) : RF := ⟨FC_INFO d, 13, 5⟩
def FC_INFO_PM_LOG2 (d : Nat) : RF := ⟨FC_INFO d, 18, 4⟩
def FC_INFO_XM_LOG2 (d : Nat) : RF := ⟨FC_INFO d, 22, 4⟩
def FC_INFO_YM_LOG2 (d : Nat) : RF := ⟨FC_INFO d, 26, 4⟩
def FC_INFO_RC_BUNDLES (d : Nat) : RF := ⟨FC_INFO d, 30, 6⟩

/-- FC_STATUS, 06_fcore_arch.md, register table. -/
def FC_STATUS (d : Nat) : Nat := spanSlot d 0x13 (0x10)
def FC_STATUS_LOAN16 (d : Nat) : RF := ⟨FC_STATUS d, 0, 5⟩
def FC_STATUS_LOAN17 (d : Nat) : RF := ⟨FC_STATUS d, 5, 5⟩
def FC_STATUS_DEACC (d : Nat) : RF := ⟨FC_STATUS d, 10, 18⟩

/-- FC_EVENTS, 06_fcore_arch.md, register table. -/
def FC_EVENTS (d : Nat) : Nat := spanSlot d 0x13 (0x20)
def FC_EVENTS_FAULT (d : Nat) : RF := ⟨FC_EVENTS d, 0, 1⟩
def FC_EVENTS_LOAN (d : Nat) : RF := ⟨FC_EVENTS d, 1, 1⟩
def FC_EVENTS_RETURN (d : Nat) : RF := ⟨FC_EVENTS d, 2, 1⟩
def FC_EVENTS_SAVE_LATE (d : Nat) : RF := ⟨FC_EVENTS d, 3, 1⟩
def FC_EVENTS_ECC_CORR (d : Nat) : RF := ⟨FC_EVENTS d, 4, 1⟩
def FC_EVENTS_SATA (d : Nat) : RF := ⟨FC_EVENTS d, 5, 1⟩

/-- CORE_CFG, 06_fcore_arch.md, register table. -/
def CORE_CFG (d c : Nat) : Nat := spanSlot d 0x13 (0x10000 + 0x1000 * c)
def CORE_CFG_EN (d c : Nat) : RF := ⟨CORE_CFG d c, 0, 1⟩
def CORE_CFG_LOGICAL (d c : Nat) : RF := ⟨CORE_CFG d c, 1, 4⟩
def CORE_CFG_IN_BUFS (d c : Nat) : RF := ⟨CORE_CFG d c, 5, 4⟩
def CORE_CFG_OUT_BUFS (d c : Nat) : RF := ⟨CORE_CFG d c, 9, 4⟩
def CORE_CFG_IN_BASE (d c : Nat) : RF := ⟨CORE_CFG d c, 13, 14⟩
def CORE_CFG_OUT_BASE (d c : Nat) : RF := ⟨CORE_CFG d c, 27, 14⟩
def CORE_CFG_OUT_WORDS (d c : Nat) : RF := ⟨CORE_CFG d c, 41, 14⟩
def CORE_CFG_INPUTS (d c : Nat) : RF := ⟨CORE_CFG d c, 55, 4⟩
def CORE_CFG_CTR_ACC (d c : Nat) : RF := ⟨CORE_CFG d c, 59, 1⟩
def CORE_CFG_IN_FMT (d c : Nat) : RF := ⟨CORE_CFG d c, 60, 1⟩

/-- CORE_STATUS, 06_fcore_arch.md, register table. -/
def CORE_STATUS (d c : Nat) : Nat := spanSlot d 0x13 (0x10010 + 0x1000 * c)
def CORE_STATUS_STATE (d c : Nat) : RF := ⟨CORE_STATUS d c, 0, 3⟩
def CORE_STATUS_PC (d c : Nat) : RF := ⟨CORE_STATUS d c, 3, 13⟩
def CORE_STATUS_WIN (d c : Nat) : RF := ⟨CORE_STATUS d c, 16, 5⟩
def CORE_STATUS_HELD (d c : Nat) : RF := ⟨CORE_STATUS d c, 21, 1⟩
def CORE_STATUS_BEX (d c : Nat) : RF := ⟨CORE_STATUS d c, 22, 8⟩
def CORE_STATUS_PENDING (d c : Nat) : RF := ⟨CORE_STATUS d c, 30, 8⟩
def CORE_STATUS_ENABLE (d c : Nat) : RF := ⟨CORE_STATUS d c, 38, 8⟩
def CORE_STATUS_SATA (d c : Nat) : RF := ⟨CORE_STATUS d c, 46, 1⟩

/-- CORE_POS, 06_fcore_arch.md, register table. -/
def CORE_POS (d c : Nat) : Nat := spanSlot d 0x13 (0x10020 + 0x1000 * c)
def CORE_POS_IN_FOLIO (d c : Nat) : RF := ⟨CORE_POS d c, 0, 48⟩
def CORE_POS_IN_READY (d c : Nat) : RF := ⟨CORE_POS d c, 48, 4⟩
def CORE_POS_OUT_FREE (d c : Nat) : RF := ⟨CORE_POS d c, 52, 4⟩

/-- CORE_FAULT, 06_fcore_arch.md, register table. -/
def CORE_FAULT (d c : Nat) : Nat := spanSlot d 0x13 (0x10030 + 0x1000 * c)
def CORE_FAULT_CAUSE (d c : Nat) : RF := ⟨CORE_FAULT d c, 0, 4⟩
def CORE_FAULT_PC (d c : Nat) : RF := ⟨CORE_FAULT d c, 4, 13⟩
def CORE_FAULT_FOLIO (d c : Nat) : RF := ⟨CORE_FAULT d c, 17, 48⟩
def CORE_FAULT_ECC_CORR (d c : Nat) : RF := ⟨CORE_FAULT d c, 65, 7⟩

/-! ### Block 0x14 CTE (09_corner_turn.md) -/

/-- CTE_INFO, 09_corner_turn.md, register table. -/
def CTE_INFO (d : Nat) : Nat := spanSlot d 0x14 (0x0)
def CTE_INFO_VERSION (d : Nat) : RF := ⟨CTE_INFO d, 0, 8⟩
def CTE_INFO_GROUPS (d : Nat) : RF := ⟨CTE_INFO d, 8, 13⟩
def CTE_INFO_STREAMS (d : Nat) : RF := ⟨CTE_INFO d, 21, 13⟩
def CTE_INFO_ASM_K (d : Nat) : RF := ⟨CTE_INFO d, 34, 11⟩

/-- CTE_STATUS, 09_corner_turn.md, register table. -/
def CTE_STATUS (d : Nat) : Nat := spanSlot d 0x14 (0x10)
def CTE_STATUS_STATE (d : Nat) : RF := ⟨CTE_STATUS d, 0, 2⟩
def CTE_STATUS_EVICTING (d : Nat) : RF := ⟨CTE_STATUS d, 2, 1⟩
def CTE_STATUS_LOST_SRC (d : Nat) : RF := ⟨CTE_STATUS d, 3, 13⟩
def CTE_STATUS_LOST_DEST (d : Nat) : RF := ⟨CTE_STATUS d, 16, 13⟩
def CTE_STATUS_HELD_DEST (d : Nat) : RF := ⟨CTE_STATUS d, 29, 13⟩

/-- CTE_EVENTS, 09_corner_turn.md, register table. -/
def CTE_EVENTS (d : Nat) : Nat := spanSlot d 0x14 (0x20)
def CTE_EVENTS_CHECK_FAIL (d : Nat) : RF := ⟨CTE_EVENTS d, 0, 1⟩
def CTE_EVENTS_REWIND_SENT (d : Nat) : RF := ⟨CTE_EVENTS d, 1, 1⟩
def CTE_EVENTS_REWIND_RUN (d : Nat) : RF := ⟨CTE_EVENTS d, 2, 1⟩
def CTE_EVENTS_EVICT (d : Nat) : RF := ⟨CTE_EVENTS d, 3, 1⟩
def CTE_EVENTS_SRC_LOST (d : Nat) : RF := ⟨CTE_EVENTS d, 4, 1⟩
def CTE_EVENTS_DEST_LOST (d : Nat) : RF := ⟨CTE_EVENTS d, 5, 1⟩
def CTE_EVENTS_UNREACHABLE (d : Nat) : RF := ⟨CTE_EVENTS d, 6, 1⟩
def CTE_EVENTS_ROUTE_ALT (d : Nat) : RF := ⟨CTE_EVENTS d, 7, 1⟩
def CTE_EVENTS_CT_GAP (d : Nat) : RF := ⟨CTE_EVENTS d, 8, 1⟩

/-- CTE_CFG, 09_corner_turn.md, register table. -/
def CTE_CFG (d : Nat) : Nat := spanSlot d 0x14 (0x30)
def CTE_CFG_OWN_DEV (d : Nat) : RF := ⟨CTE_CFG d, 0, 16⟩
def CTE_CFG_NCH_LOG2 (d : Nat) : RF := ⟨CTE_CFG d, 16, 4⟩
def CTE_CFG_G_M1 (d : Nat) : RF := ⟨CTE_CFG d, 20, 8⟩
def CTE_CFG_FMT (d : Nat) : RF := ⟨CTE_CFG d, 28, 1⟩
def CTE_CFG_NSI (d : Nat) : RF := ⟨CTE_CFG d, 29, 28⟩

/-- CTE_TIMERS, 09_corner_turn.md, register table. -/
def CTE_TIMERS (d : Nat) : Nat := spanSlot d 0x14 (0x40)
def CTE_TIMERS_LOST_MS (d : Nat) : RF := ⟨CTE_TIMERS d, 0, 16⟩
def CTE_TIMERS_QUIET_US (d : Nat) : RF := ⟨CTE_TIMERS d, 16, 16⟩
def CTE_TIMERS_IDLE_MARK_US (d : Nat) : RF := ⟨CTE_TIMERS d, 32, 16⟩
def CTE_TIMERS_CM_PERIOD_US (d : Nat) : RF := ⟨CTE_TIMERS d, 48, 16⟩

/-- STINT_REGION, 09_corner_turn.md, register table. -/
def STINT_REGION (d : Nat) : Nat := spanSlot d 0x14 (0x50)
def STINT_REGION_BASE (d : Nat) : RF := ⟨STINT_REGION d, 0, 36⟩
def STINT_REGION_SLOT_WORDS (d : Nat) : RF := ⟨STINT_REGION d, 36, 36⟩

/-- STINT_STATE, 09_corner_turn.md, register table. -/
def STINT_STATE (d : Nat) : Nat := spanSlot d 0x14 (0x60)
def STINT_STATE_SI_LOW (d : Nat) : RF := ⟨STINT_STATE d, 0, 48⟩
def STINT_STATE_VALID (d : Nat) : RF := ⟨STINT_STATE d, 48, 2⟩

/-- ASM_STATUS, 09_corner_turn.md, register table. -/
def ASM_STATUS (d : Nat) : Nat := spanSlot d 0x14 (0x70)
def ASM_STATUS_USED_K (d : Nat) : RF := ⟨ASM_STATUS d, 0, 11⟩
def ASM_STATUS_PEND_K (d : Nat) : RF := ⟨ASM_STATUS d, 11, 11⟩
def ASM_STATUS_RESIDENT (d : Nat) : RF := ⟨ASM_STATUS d, 22, 10⟩
def ASM_STATUS_EVICTED (d : Nat) : RF := ⟨ASM_STATUS d, 32, 24⟩

/-- CTE_COUNT0, 09_corner_turn.md, register table. -/
def CTE_COUNT0 (d : Nat) : Nat := spanSlot d 0x14 (0x80)
def CTE_COUNT0_TX_WORDS (d : Nat) : RF := ⟨CTE_COUNT0 d, 0, 36⟩
def CTE_COUNT0_RX_WORDS (d : Nat) : RF := ⟨CTE_COUNT0 d, 36, 36⟩

/-- CTE_COUNT1, 09_corner_turn.md, register table. -/
def CTE_COUNT1 (d : Nat) : Nat := spanSlot d 0x14 (0x90)
def CTE_COUNT1_CHECK_FAIL (d : Nat) : RF := ⟨CTE_COUNT1 d, 0, 24⟩
def CTE_COUNT1_DUP (d : Nat) : RF := ⟨CTE_COUNT1 d, 24, 24⟩
def CTE_COUNT1_REWINDS (d : Nat) : RF := ⟨CTE_COUNT1 d, 48, 24⟩

/-- GROUP, 09_corner_turn.md, register table. -/
def GROUP (d g : Nat) : Nat := spanSlot d 0x14 (0x10000 + 0x10 * g)
def GROUP_DEV (d g : Nat) : RF := ⟨GROUP d g, 0, 16⟩
def GROUP_DIE (d g : Nat) : RF := ⟨GROUP d g, 16, 3⟩
def GROUP_VALID (d g : Nat) : RF := ⟨GROUP d g, 19, 1⟩
def GROUP_REL_SI (d g : Nat) : RF := ⟨GROUP d g, 20, 48⟩
def GROUP_LOST (d g : Nat) : RF := ⟨GROUP d g, 68, 1⟩

/-- CTE_SRC, 09_corner_turn.md, register table. -/
def CTE_SRC (d s : Nat) : Nat := spanSlot d 0x14 (0x20000 + 0x10 * s)
def CTE_SRC_DEV (d s : Nat) : RF := ⟨CTE_SRC d s, 0, 16⟩
def CTE_SRC_DIE (d s : Nat) : RF := ⟨CTE_SRC d s, 16, 3⟩
def CTE_SRC_VALID (d s : Nat) : RF := ⟨CTE_SRC d s, 19, 1⟩
def CTE_SRC_HIGH (d s : Nat) : RF := ⟨CTE_SRC d s, 20, 48⟩
def CTE_SRC_LOST (d s : Nat) : RF := ⟨CTE_SRC d s, 68, 1⟩
def CTE_SRC_QUIET (d s : Nat) : RF := ⟨CTE_SRC d s, 69, 1⟩

/-- SRC_IN, 09_corner_turn.md, register table. -/
def SRC_IN (d s : Nat) : Nat := spanSlot d 0x14 (0x30000 + 0x10 * s)
def SRC_IN_IN_BASE (d s : Nat) : RF := ⟨SRC_IN d s, 0, 18⟩
def SRC_IN_IN_CNT (d s : Nat) : RF := ⟨SRC_IN d s, 18, 8⟩

/-- ROUTE, 09_corner_turn.md, register table. -/
def ROUTE (d e : Nat) : Nat := spanSlot d 0x14 (0x100000000 + 0x10 * e)
def ROUTE_PRIMARY (d e : Nat) : RF := ⟨ROUTE d e, 0, 4⟩
def ROUTE_ALTERNATE (d e : Nat) : RF := ⟨ROUTE d e, 4, 4⟩
def ROUTE_PRI_V (d e : Nat) : RF := ⟨ROUTE d e, 8, 1⟩
def ROUTE_ALT_V (d e : Nat) : RF := ⟨ROUTE d e, 9, 1⟩
def ROUTE_USING_ALT (d e : Nat) : RF := ⟨ROUTE d e, 10, 1⟩

/-! ### Block 0x15 GWL (08_griwano_link.md) -/

/-- GWL_INFO, 08_griwano_link.md, register table. -/
def GWL_INFO (d : Nat) : Nat := spanSlot d 0x15 (0x0)
def GWL_INFO_VERSION (d : Nat) : RF := ⟨GWL_INFO d, 0, 8⟩
def GWL_INFO_CHAINS (d : Nat) : RF := ⟨GWL_INFO d, 8, 4⟩
def GWL_INFO_LANES (d : Nat) : RF := ⟨GWL_INFO d, 12, 4⟩
def GWL_INFO_REPLAY_PKTS (d : Nat) : RF := ⟨GWL_INFO d, 16, 16⟩
def GWL_INFO_RXBUF_K (d : Nat) : RF := ⟨GWL_INFO d, 32, 16⟩

/-- GWL_STATUS, 08_griwano_link.md, register table. -/
def GWL_STATUS (d : Nat) : Nat := spanSlot d 0x15 (0x10)
def GWL_STATUS_CH_ACTIVE (d : Nat) : RF := ⟨GWL_STATUS d, 0, 2⟩
def GWL_STATUS_CH_DEACC (d : Nat) : RF := ⟨GWL_STATUS d, 2, 2⟩
def GWL_STATUS_LANE_TRAINED (d : Nat) : RF := ⟨GWL_STATUS d, 4, 8⟩
def GWL_STATUS_TX_ASLEEP (d : Nat) : RF := ⟨GWL_STATUS d, 12, 2⟩
def GWL_STATUS_RX_ASLEEP (d : Nat) : RF := ⟨GWL_STATUS d, 14, 2⟩

/-- GWL_EVENTS, 08_griwano_link.md, register table. -/
def GWL_EVENTS (d : Nat) : Nat := spanSlot d 0x15 (0x20)
def GWL_EVENTS_CRC_ERR (d : Nat) : RF := ⟨GWL_EVENTS d, 0, 1⟩
def GWL_EVENTS_REPLAY (d : Nat) : RF := ⟨GWL_EVENTS d, 1, 1⟩
def GWL_EVENTS_RETRAIN (d : Nat) : RF := ⟨GWL_EVENTS d, 2, 1⟩
def GWL_EVENTS_DEACC (d : Nat) : RF := ⟨GWL_EVENTS d, 3, 1⟩
def GWL_EVENTS_MARGINAL (d : Nat) : RF := ⟨GWL_EVENTS d, 4, 1⟩
def GWL_EVENTS_PEER_MISMATCH (d : Nat) : RF := ⟨GWL_EVENTS d, 5, 1⟩
def GWL_EVENTS_HOP_DROP (d : Nat) : RF := ⟨GWL_EVENTS d, 6, 1⟩
def GWL_EVENTS_CREDIT_STALL (d : Nat) : RF := ⟨GWL_EVENTS d, 7, 1⟩
def GWL_EVENTS_PROTO (d : Nat) : RF := ⟨GWL_EVENTS d, 8, 1⟩

/-- GWL_BUCKET_CFG, 08_griwano_link.md, register table. -/
def GWL_BUCKET_CFG (d : Nat) : Nat := spanSlot d 0x15 (0x30)
def GWL_BUCKET_CFG_CRC_THRESH (d : Nat) : RF := ⟨GWL_BUCKET_CFG d, 0, 16⟩
def GWL_BUCKET_CFG_CRC_LEAK_MS (d : Nat) : RF := ⟨GWL_BUCKET_CFG d, 16, 16⟩
def GWL_BUCKET_CFG_RT_THRESH (d : Nat) : RF := ⟨GWL_BUCKET_CFG d, 32, 8⟩
def GWL_BUCKET_CFG_RT_LEAK_S (d : Nat) : RF := ⟨GWL_BUCKET_CFG d, 40, 16⟩

/-- GWL_TIMERS, 08_griwano_link.md, register table. -/
def GWL_TIMERS (d : Nat) : Nat := spanSlot d 0x15 (0x40)
def GWL_TIMERS_REPLAY_TO_US (d : Nat) : RF := ⟨GWL_TIMERS d, 0, 16⟩
def GWL_TIMERS_REPLAY_NUM (d : Nat) : RF := ⟨GWL_TIMERS d, 16, 4⟩
def GWL_TIMERS_CREDIT_TO_US (d : Nat) : RF := ⟨GWL_TIMERS d, 20, 12⟩
def GWL_TIMERS_LC_REFRESH_US (d : Nat) : RF := ⟨GWL_TIMERS d, 32, 8⟩
def GWL_TIMERS_TRAIN_TRIES (d : Nat) : RF := ⟨GWL_TIMERS d, 40, 4⟩

/-- GWL_CH_CFG, 08_griwano_link.md, register table. -/
def GWL_CH_CFG (d c : Nat) : Nat := spanSlot d 0x15 (0x1000 + 0x400 * c)
def GWL_CH_CFG_EN (d c : Nat) : RF := ⟨GWL_CH_CFG d c, 0, 1⟩
def GWL_CH_CFG_RATE (d c : Nat) : RF := ⟨GWL_CH_CFG d c, 1, 2⟩
def GWL_CH_CFG_EGRESS (d c : Nat) : RF := ⟨GWL_CH_CFG d c, 3, 1⟩
def GWL_CH_CFG_SLEEP_TX (d c : Nat) : RF := ⟨GWL_CH_CFG d c, 4, 2⟩
def GWL_CH_CFG_SLEEP_IDLE_US (d c : Nat) : RF := ⟨GWL_CH_CFG d c, 6, 8⟩
def GWL_CH_CFG_W_VC0 (d c : Nat) : RF := ⟨GWL_CH_CFG d c, 14, 4⟩
def GWL_CH_CFG_W_VC3 (d c : Nat) : RF := ⟨GWL_CH_CFG d c, 18, 4⟩
def GWL_CH_CFG_HOPS_INIT (d c : Nat) : RF := ⟨GWL_CH_CFG d c, 22, 6⟩
def GWL_CH_CFG_BCAST_OUT (d c : Nat) : RF := ⟨GWL_CH_CFG d c, 28, 16⟩
def GWL_CH_CFG_LINE_REF (d c : Nat) : RF := ⟨GWL_CH_CFG d c, 44, 1⟩

/-- CH_PEER, 08_griwano_link.md, register table. -/
def CH_PEER (d c : Nat) : Nat := spanSlot d 0x15 (0x1010 + 0x400 * c)
def CH_PEER_PEER_DEV (d c : Nat) : RF := ⟨CH_PEER d c, 0, 16⟩
def CH_PEER_PEER_CHAIN (d c : Nat) : RF := ⟨CH_PEER d c, 16, 4⟩
def CH_PEER_RX_DEV (d c : Nat) : RF := ⟨CH_PEER d c, 20, 16⟩
def CH_PEER_RX_CHAIN (d c : Nat) : RF := ⟨CH_PEER d c, 36, 4⟩
def CH_PEER_LANE_MAP (d c : Nat) : RF := ⟨CH_PEER d c, 40, 8⟩
def CH_PEER_POL_INV (d c : Nat) : RF := ⟨CH_PEER d c, 48, 4⟩

/-- GWL_CH_STATUS, 08_griwano_link.md, register table. -/
def GWL_CH_STATUS (d c : Nat) : Nat := spanSlot d 0x15 (0x1020 + 0x400 * c)
def GWL_CH_STATUS_STATE (d c : Nat) : RF := ⟨GWL_CH_STATUS d c, 0, 3⟩
def GWL_CH_STATUS_TX_SLEEP (d c : Nat) : RF := ⟨GWL_CH_STATUS d c, 3, 2⟩
def GWL_CH_STATUS_RX_SLEEP (d c : Nat) : RF := ⟨GWL_CH_STATUS d c, 5, 2⟩
def GWL_CH_STATUS_FRESH_SEEN (d c : Nat) : RF := ⟨GWL_CH_STATUS d c, 7, 1⟩
def GWL_CH_STATUS_REPLAYS (d c : Nat) : RF := ⟨GWL_CH_STATUS d c, 8, 4⟩
def GWL_CH_STATUS_CRC_BKT (d c : Nat) : RF := ⟨GWL_CH_STATUS d c, 12, 16⟩
def GWL_CH_STATUS_RT_BKT (d c : Nat) : RF := ⟨GWL_CH_STATUS d c, 28, 8⟩
def GWL_CH_STATUS_ACTIVE_SINCE_S (d c : Nat) : RF := ⟨GWL_CH_STATUS d c, 36, 36⟩

/-- CH_SEQ, 08_griwano_link.md, register table. -/
def CH_SEQ (d c : Nat) : Nat := spanSlot d 0x15 (0x1030 + 0x400 * c)
def CH_SEQ_TX_NEXT (d c : Nat) : RF := ⟨CH_SEQ d c, 0, 16⟩
def CH_SEQ_TX_ACKED (d c : Nat) : RF := ⟨CH_SEQ d c, 16, 16⟩
def CH_SEQ_RX_EXPECT (d c : Nat) : RF := ⟨CH_SEQ d c, 32, 16⟩
def CH_SEQ_OUTSTANDING (d c : Nat) : RF := ⟨CH_SEQ d c, 48, 13⟩

/-- CH_VCBUF, 08_griwano_link.md, register table. -/
def CH_VCBUF (d c : Nat) : Nat := spanSlot d 0x15 (0x1040 + 0x400 * c)
def CH_VCBUF_VC0 (d c : Nat) : RF := ⟨CH_VCBUF d c, 0, 12⟩
def CH_VCBUF_VC1 (d c : Nat) : RF := ⟨CH_VCBUF d c, 12, 12⟩
def CH_VCBUF_VC2 (d c : Nat) : RF := ⟨CH_VCBUF d c, 24, 12⟩
def CH_VCBUF_VC3 (d c : Nat) : RF := ⟨CH_VCBUF d c, 36, 12⟩

/-- CH_CREDIT0, 08_griwano_link.md, register table. -/
def CH_CREDIT0 (d c : Nat) : Nat := spanSlot d 0x15 (0x1050 + 0x400 * c)
def CH_CREDIT0_AVAIL_LO (d c : Nat) : RF := ⟨CH_CREDIT0 d c, 0, 24⟩
def CH_CREDIT0_AVAIL_HI (d c : Nat) : RF := ⟨CH_CREDIT0 d c, 24, 24⟩
def CH_CREDIT0_STALLED (d c : Nat) : RF := ⟨CH_CREDIT0 d c, 48, 2⟩

/-- CH_CREDIT1, 08_griwano_link.md, register table. -/
def CH_CREDIT1 (d c : Nat) : Nat := spanSlot d 0x15 (0x1060 + 0x400 * c)
def CH_CREDIT1_AVAIL_LO (d c : Nat) : RF := ⟨CH_CREDIT1 d c, 0, 24⟩
def CH_CREDIT1_AVAIL_HI (d c : Nat) : RF := ⟨CH_CREDIT1 d c, 24, 24⟩
def CH_CREDIT1_STALLED (d c : Nat) : RF := ⟨CH_CREDIT1 d c, 48, 2⟩

/-- CH_SLEEP, 08_griwano_link.md, register table. -/
def CH_SLEEP (d c : Nat) : Nat := spanSlot d 0x15 (0x1070 + 0x400 * c)
def CH_SLEEP_ENTRIES (d c : Nat) : RF := ⟨CH_SLEEP d c, 0, 24⟩
def CH_SLEEP_WAKE_MAX_NS (d c : Nat) : RF := ⟨CH_SLEEP d c, 24, 16⟩
def CH_SLEEP_ASLEEP_MS (d c : Nat) : RF := ⟨CH_SLEEP d c, 40, 32⟩

/-- CH_COUNT0, 08_griwano_link.md, register table. -/
def CH_COUNT0 (d c : Nat) : Nat := spanSlot d 0x15 (0x1080 + 0x400 * c)
def CH_COUNT0_TX_PKTS (d c : Nat) : RF := ⟨CH_COUNT0 d c, 0, 36⟩
def CH_COUNT0_RX_PKTS (d c : Nat) : RF := ⟨CH_COUNT0 d c, 36, 36⟩

/-- CH_COUNT1, 08_griwano_link.md, register table. -/
def CH_COUNT1 (d c : Nat) : Nat := spanSlot d 0x15 (0x1090 + 0x400 * c)
def CH_COUNT1_CRC_ERR (d c : Nat) : RF := ⟨CH_COUNT1 d c, 0, 24⟩
def CH_COUNT1_REPLAYS (d c : Nat) : RF := ⟨CH_COUNT1 d c, 24, 24⟩
def CH_COUNT1_RETRAINS (d c : Nat) : RF := ⟨CH_COUNT1 d c, 48, 24⟩

/-- CH_ASYM, 08_griwano_link.md, register table. -/
def CH_ASYM (d c : Nat) : Nat := spanSlot d 0x15 (0x10A0 + 0x400 * c)
def CH_ASYM_ASYM_PS (d c : Nat) : RF := ⟨CH_ASYM d c, 0, 32⟩

/-- LN_STATUS, 08_griwano_link.md, register table. -/
def LN_STATUS (d n : Nat) : Nat := spanSlot d 0x15 (0x2000 + 0x100 * n)
def LN_STATUS_STATE (d n : Nat) : RF := ⟨LN_STATUS d n, 0, 3⟩
def LN_STATUS_LOGICAL (d n : Nat) : RF := ⟨LN_STATUS d n, 3, 2⟩
def LN_STATUS_POL_INV (d n : Nat) : RF := ⟨LN_STATUS d n, 5, 1⟩
def LN_STATUS_SYMLOCK (d n : Nat) : RF := ⟨LN_STATUS d n, 6, 1⟩
def LN_STATUS_MARGINAL (d n : Nat) : RF := ⟨LN_STATUS d n, 7, 1⟩
def LN_STATUS_DESKEW (d n : Nat) : RF := ⟨LN_STATUS d n, 8, 8⟩
def LN_STATUS_REQS (d n : Nat) : RF := ⟨LN_STATUS d n, 16, 8⟩

/-- LN_TAPS, 08_griwano_link.md, register table. -/
def LN_TAPS (d n : Nat) : Nat := spanSlot d 0x15 (0x2010 + 0x100 * n)
def LN_TAPS_PRE (d n : Nat) : RF := ⟨LN_TAPS d n, 0, 4⟩
def LN_TAPS_MAIN (d n : Nat) : RF := ⟨LN_TAPS d n, 4, 6⟩
def LN_TAPS_POST (d n : Nat) : RF := ⟨LN_TAPS d n, 10, 5⟩

/-- LN_EYE, 08_griwano_link.md, register table. -/
def LN_EYE (d n : Nat) : Nat := spanSlot d 0x15 (0x2020 + 0x100 * n)
def LN_EYE_HEIGHT_MV (d n : Nat) : RF := ⟨LN_EYE d n, 0, 8⟩
def LN_EYE_WIDTH (d n : Nat) : RF := ⟨LN_EYE d n, 8, 8⟩
def LN_EYE_AGE_S (d n : Nat) : RF := ⟨LN_EYE d n, 16, 16⟩
def LN_EYE_STALE (d n : Nat) : RF := ⟨LN_EYE d n, 32, 1⟩

/-- LN_ERRCNT, 08_griwano_link.md, register table. -/
def LN_ERRCNT (d n : Nat) : Nat := spanSlot d 0x15 (0x2030 + 0x100 * n)
def LN_ERRCNT_CODE (d n : Nat) : RF := ⟨LN_ERRCNT d n, 0, 24⟩
def LN_ERRCNT_DISP (d n : Nat) : RF := ⟨LN_ERRCNT d n, 24, 24⟩
def LN_ERRCNT_AOS_ERR (d n : Nat) : RF := ⟨LN_ERRCNT d n, 48, 24⟩

/-- LN_LAT, 08_griwano_link.md, register table. -/
def LN_LAT (d n : Nat) : Nat := spanSlot d 0x15 (0x2040 + 0x100 * n)
def LN_LAT_TX_LAT_PS (d n : Nat) : RF := ⟨LN_LAT d n, 0, 24⟩
def LN_LAT_RX_LAT_PS (d n : Nat) : RF := ⟨LN_LAT d n, 24, 24⟩

/-! ### Block 0x16 GAL (10_gallery.md) -/

/-- GAL_INFO, 10_gallery.md, register table. -/
def GAL_INFO (d : Nat) : Nat := spanSlot d 0x16 (0x0)
def GAL_INFO_VERSION (d : Nat) : RF := ⟨GAL_INFO d, 0, 8⟩
def GAL_INFO_TILES (d : Nat) : RF := ⟨GAL_INFO d, 8, 5⟩
def GAL_INFO_ACTIVE (d : Nat) : RF := ⟨GAL_INFO d, 13, 5⟩
def GAL_INFO_CELLS_LOG2 (d : Nat) : RF := ⟨GAL_INFO d, 18, 4⟩
def GAL_INFO_MAX_NC (d : Nat) : RF := ⟨GAL_INFO d, 22, 5⟩
def GAL_INFO_QUEUE (d : Nat) : RF := ⟨GAL_INFO d, 27, 3⟩

/-- GAL_STATUS, 10_gallery.md, register table. -/
def GAL_STATUS (d : Nat) : Nat := spanSlot d 0x16 (0x10)
def GAL_STATUS_LOAN (d : Nat) : RF := ⟨GAL_STATUS d, 0, 5⟩
def GAL_STATUS_DEACC (d : Nat) : RF := ⟨GAL_STATUS d, 5, 17⟩
def GAL_STATUS_MOVED (d : Nat) : RF := ⟨GAL_STATUS d, 22, 1⟩
def GAL_STATUS_STALLED (d : Nat) : RF := ⟨GAL_STATUS d, 23, 17⟩

/-- GAL_EVENTS, 10_gallery.md, register table. -/
def GAL_EVENTS (d : Nat) : Nat := spanSlot d 0x16 (0x20)
def GAL_EVENTS_MISMATCH (d : Nat) : RF := ⟨GAL_EVENTS d, 0, 1⟩
def GAL_EVENTS_RERUN (d : Nat) : RF := ⟨GAL_EVENTS d, 1, 1⟩
def GAL_EVENTS_LOAN (d : Nat) : RF := ⟨GAL_EVENTS d, 2, 1⟩
def GAL_EVENTS_RETURN (d : Nat) : RF := ⟨GAL_EVENTS d, 3, 1⟩
def GAL_EVENTS_MOVE (d : Nat) : RF := ⟨GAL_EVENTS d, 4, 1⟩
def GAL_EVENTS_STALL (d : Nat) : RF := ⟨GAL_EVENTS d, 5, 1⟩
def GAL_EVENTS_WATCHDOG (d : Nat) : RF := ⟨GAL_EVENTS d, 6, 1⟩
def GAL_EVENTS_BIST_FAIL (d : Nat) : RF := ⟨GAL_EVENTS d, 7, 1⟩

/-- GAL_CFG, 10_gallery.md, register table. -/
def GAL_CFG (d : Nat) : Nat := spanSlot d 0x16 (0x30)
def GAL_CFG_RETEST_S (d : Nat) : RF := ⟨GAL_CFG d, 0, 16⟩
def GAL_CFG_WINDOW_H (d : Nat) : RF := ⟨GAL_CFG d, 16, 8⟩
def GAL_CFG_RETURN_PASSES (d : Nat) : RF := ⟨GAL_CFG d, 24, 5⟩
def GAL_CFG_WD_US (d : Nat) : RF := ⟨GAL_CFG d, 29, 15⟩

/-- GAL_GEOM, 10_gallery.md, register table. -/
def GAL_GEOM (d : Nat) : Nat := spanSlot d 0x16 (0x40)
def GAL_GEOM_NTOT (d : Nat) : RF := ⟨GAL_GEOM d, 0, 19⟩
def GAL_GEOM_NBLK (d : Nat) : RF := ⟨GAL_GEOM d, 19, 14⟩
def GAL_GEOM_WT_LEN (d : Nat) : RF := ⟨GAL_GEOM d, 33, 17⟩

/-- GAL_PROGRESS, 10_gallery.md, register table. -/
def GAL_PROGRESS (d : Nat) : Nat := spanSlot d 0x16 (0x50)
def GAL_PROGRESS_SI_DONE (d : Nat) : RF := ⟨GAL_PROGRESS d, 0, 48⟩

/-- GAL_COUNT, 10_gallery.md, register table. -/
def GAL_COUNT (d : Nat) : Nat := spanSlot d 0x16 (0x60)
def GAL_COUNT_MISMATCHES (d : Nat) : RF := ⟨GAL_COUNT d, 0, 24⟩
def GAL_COUNT_RERUNS (d : Nat) : RF := ⟨GAL_COUNT d, 24, 24⟩
def GAL_COUNT_LOANS (d : Nat) : RF := ⟨GAL_COUNT d, 48, 24⟩

/-- TILE_CFG, 10_gallery.md, register table. -/
def TILE_CFG (d t : Nat) : Nat := spanSlot d 0x16 (0x10000 + 0x100 * t)
def TILE_CFG_EN (d t : Nat) : RF := ⟨TILE_CFG d t, 0, 1⟩
def TILE_CFG_LOGICAL (d t : Nat) : RF := ⟨TILE_CFG d t, 1, 4⟩
def TILE_CFG_SPARE (d t : Nat) : RF := ⟨TILE_CFG d t, 5, 1⟩

/-- TILE_STATUS, 10_gallery.md, register table. -/
def TILE_STATUS (d t : Nat) : Nat := spanSlot d 0x16 (0x10010 + 0x100 * t)
def TILE_STATUS_STATE (d t : Nat) : RF := ⟨TILE_STATUS d t, 0, 3⟩
def TILE_STATUS_BANK0 (d t : Nat) : RF := ⟨TILE_STATUS d t, 3, 3⟩
def TILE_STATUS_BANK1 (d t : Nat) : RF := ⟨TILE_STATUS d t, 6, 3⟩
def TILE_STATUS_QUEUED (d t : Nat) : RF := ⟨TILE_STATUS d t, 9, 3⟩

/-- TILE_WO0, 10_gallery.md, register table. -/
def TILE_WO0 (d t b : Nat) : Nat := spanSlot d 0x16 (0x10020 + 0x30 * b + 0x100 * t)
def TILE_WO0_ENTRY (d t b : Nat) : RF := ⟨TILE_WO0 d t b, 0, 47⟩
def TILE_WO0_KIND (d t b : Nat) : RF := ⟨TILE_WO0 d t b, 47, 2⟩

/-- TILE_WO1, 10_gallery.md, register table. -/
def TILE_WO1 (d t b : Nat) : Nat := spanSlot d 0x16 (0x10030 + 0x30 * b + 0x100 * t)
def TILE_WO1_SI (d t b : Nat) : RF := ⟨TILE_WO1 d t b, 0, 48⟩

/-- TILE_POS, 10_gallery.md, register table. -/
def TILE_POS (d t b : Nat) : Nat := spanSlot d 0x16 (0x10040 + 0x30 * b + 0x100 * t)
def TILE_POS_FOLIO (d t b : Nat) : RF := ⟨TILE_POS d t b, 0, 48⟩

/-- TILE_FAULT, 10_gallery.md, register table. -/
def TILE_FAULT (d t : Nat) : Nat := spanSlot d 0x16 (0x10080 + 0x100 * t)
def TILE_FAULT_MISMATCHES (d t : Nat) : RF := ⟨TILE_FAULT d t, 0, 24⟩
def TILE_FAULT_LAST_CH (d t : Nat) : RF := ⟨TILE_FAULT d t, 24, 12⟩
def TILE_FAULT_LAST_ROW (d t : Nat) : RF := ⟨TILE_FAULT d t, 36, 6⟩
def TILE_FAULT_LAST_COL (d t : Nat) : RF := ⟨TILE_FAULT d t, 42, 6⟩
def TILE_FAULT_PASSES (d t : Nat) : RF := ⟨TILE_FAULT d t, 48, 5⟩
def TILE_FAULT_LAST_BIST (d t : Nat) : RF := ⟨TILE_FAULT d t, 53, 1⟩
def TILE_FAULT_AGE_H (d t : Nat) : RF := ⟨TILE_FAULT d t, 54, 18⟩

/-- TILE_COUNT, 10_gallery.md, register table. -/
def TILE_COUNT (d t : Nat) : Nat := spanSlot d 0x16 (0x10090 + 0x100 * t)
def TILE_COUNT_ORDERS (d t : Nat) : RF := ⟨TILE_COUNT d t, 0, 36⟩
def TILE_COUNT_BUSY (d t : Nat) : RF := ⟨TILE_COUNT d t, 36, 36⟩

/-- WT, 10_gallery.md, register table. -/
def WT (d w : Nat) : Nat := spanSlot d 0x16 (0x10000000 + 0x10 * w)
def WT_ENTRY (d w : Nat) : RF := ⟨WT d w, 0, 47⟩

/-- CELL, 10_gallery.md, register table. -/
def CELL (d t b k w : Nat) : Nat := spanSlot d 0x16 (0x100000000 + 0x200000 * t + 0x100000 * b + 0x20 * k + 0x10 * w)
def CELL_WORD (d t b k w : Nat) : RF := ⟨CELL d t b k w, 0, 72⟩

/-! ### Block 0x17 LED (11_ledger.md) -/

/-- LED_INFO, 11_ledger.md, register table. -/
def LED_INFO (d : Nat) : Nat := spanSlot d 0x17 (0x0)
def LED_INFO_VERSION (d : Nat) : RF := ⟨LED_INFO d, 0, 8⟩
def LED_INFO_GROUP_LOG2 (d : Nat) : RF := ⟨LED_INFO d, 8, 8⟩
def LED_INFO_BLOCK_LOG2 (d : Nat) : RF := ⟨LED_INFO d, 16, 8⟩
def LED_INFO_DSETS (d : Nat) : RF := ⟨LED_INFO d, 24, 8⟩

/-- LED_STATUS, 11_ledger.md, register table. -/
def LED_STATUS (d : Nat) : Nat := spanSlot d 0x17 (0x10)
def LED_STATUS_STATE (d : Nat) : RF := ⟨LED_STATUS d, 0, 2⟩
def LED_STATUS_DUMPING (d : Nat) : RF := ⟨LED_STATUS d, 2, 16⟩
def LED_STATUS_SAT_PRESENT (d : Nat) : RF := ⟨LED_STATUS d, 18, 1⟩
def LED_STATUS_FULL_PRESENT (d : Nat) : RF := ⟨LED_STATUS d, 19, 1⟩

/-- LED_EVENTS, 11_ledger.md, register table. -/
def LED_EVENTS (d : Nat) : Nat := spanSlot d 0x17 (0x20)
def LED_EVENTS_SKIP (d : Nat) : RF := ⟨LED_EVENTS d, 0, 1⟩
def LED_EVENTS_TORN (d : Nat) : RF := ⟨LED_EVENTS d, 1, 1⟩
def LED_EVENTS_GAP (d : Nat) : RF := ⟨LED_EVENTS d, 2, 1⟩
def LED_EVENTS_POISON (d : Nat) : RF := ⟨LED_EVENTS d, 3, 1⟩
def LED_EVENTS_SAT (d : Nat) : RF := ⟨LED_EVENTS d, 4, 1⟩
def LED_EVENTS_FULL (d : Nat) : RF := ⟨LED_EVENTS d, 5, 1⟩
def LED_EVENTS_WSAT (d : Nat) : RF := ⟨LED_EVENTS d, 6, 1⟩
def LED_EVENTS_DUMP_DONE (d : Nat) : RF := ⟨LED_EVENTS d, 7, 1⟩
def LED_EVENTS_DUMP_HELD (d : Nat) : RF := ⟨LED_EVENTS d, 8, 1⟩

/-- LED_CFG, 11_ledger.md, register table. -/
def LED_CFG (d : Nat) : Nat := spanSlot d 0x17 (0x30)
def LED_CFG_GAP_US (d : Nat) : RF := ⟨LED_CFG d, 0, 16⟩
def LED_CFG_DUMP_ON_SWITCH (d : Nat) : RF := ⟨LED_CFG d, 16, 1⟩

/-- LED_REGION, 11_ledger.md, register table. -/
def LED_REGION (d : Nat) : Nat := spanSlot d 0x17 (0x40)
def LED_REGION_BASE (d : Nat) : RF := ⟨LED_REGION d, 0, 36⟩
def LED_REGION_HDR_BASE (d : Nat) : RF := ⟨LED_REGION d, 36, 36⟩

/-- LED_GEOM, 11_ledger.md, register table. -/
def LED_GEOM (d : Nat) : Nat := spanSlot d 0x17 (0x50)
def LED_GEOM_VIS_BLOCKS (d : Nat) : RF := ⟨LED_GEOM d, 0, 24⟩
def LED_GEOM_BEAM_BLOCKS (d : Nat) : RF := ⟨LED_GEOM d, 24, 24⟩
def LED_GEOM_NLOC (d : Nat) : RF := ⟨LED_GEOM d, 48, 13⟩

/-- LED_FLOOR, 11_ledger.md, register table. -/
def LED_FLOOR (d : Nat) : Nat := spanSlot d 0x17 (0x60)
def LED_FLOOR_SI_FLOOR (d : Nat) : RF := ⟨LED_FLOOR d, 0, 48⟩

/-- LED_PROGRESS, 11_ledger.md, register table. -/
def LED_PROGRESS (d : Nat) : Nat := spanSlot d 0x17 (0x70)
def LED_PROGRESS_SI_APPLIED (d : Nat) : RF := ⟨LED_PROGRESS d, 0, 48⟩

/-- LED_RATE, 11_ledger.md, register table. -/
def LED_RATE (d : Nat) : Nat := spanSlot d 0x17 (0x80)
def LED_RATE_UPD_PER_S (d : Nat) : RF := ⟨LED_RATE d, 0, 32⟩

/-- LED_COUNT0, 11_ledger.md, register table. -/
def LED_COUNT0 (d : Nat) : Nat := spanSlot d 0x17 (0x90)
def LED_COUNT0_APPLIED (d : Nat) : RF := ⟨LED_COUNT0 d, 0, 36⟩
def LED_COUNT0_SKIPPED (d : Nat) : RF := ⟨LED_COUNT0 d, 36, 36⟩

/-- LED_COUNT1, 11_ledger.md, register table. -/
def LED_COUNT1 (d : Nat) : Nat := spanSlot d 0x17 (0xA0)
def LED_COUNT1_GAPS (d : Nat) : RF := ⟨LED_COUNT1 d, 0, 24⟩
def LED_COUNT1_POISONED (d : Nat) : RF := ⟨LED_COUNT1 d, 24, 24⟩
def LED_COUNT1_TORN (d : Nat) : RF := ⟨LED_COUNT1 d, 48, 24⟩

/-- LED_WIN, 11_ledger.md, register table. -/
def LED_WIN (d : Nat) : Nat := spanSlot d 0x17 (0xB0)
def LED_WIN_BASE_BLK (d : Nat) : RF := ⟨LED_WIN d, 0, 24⟩

/-- DSET_CFG, 11_ledger.md, register table. -/
def DSET_CFG (d s : Nat) : Nat := spanSlot d 0x17 (0x1000 + 0x100 * s)
def DSET_CFG_EN (d s : Nat) : RF := ⟨DSET_CFG d s, 0, 1⟩
def DSET_CFG_CLEAR (d s : Nat) : RF := ⟨DSET_CFG d s, 1, 1⟩
def DSET_CFG_FIRST_BLK (d s : Nat) : RF := ⟨DSET_CFG d s, 2, 24⟩
def DSET_CFG_NBLK (d s : Nat) : RF := ⟨DSET_CFG d s, 26, 24⟩
def DSET_CFG_RING (d s : Nat) : RF := ⟨DSET_CFG d s, 50, 13⟩

/-- DSET_INT, 11_ledger.md, register table. -/
def DSET_INT (d s : Nat) : Nat := spanSlot d 0x17 (0x1010 + 0x100 * s)
def DSET_INT_INTERVAL_SI (d s : Nat) : RF := ⟨DSET_INT d s, 0, 24⟩

/-- DSET_STATE, 11_ledger.md, register table. -/
def DSET_STATE (d s : Nat) : Nat := spanSlot d 0x17 (0x1020 + 0x100 * s)
def DSET_STATE_FIRST_SI (d s : Nat) : RF := ⟨DSET_STATE d s, 0, 48⟩
def DSET_STATE_DONE_BLK (d s : Nat) : RF := ⟨DSET_STATE d s, 48, 24⟩

/-- DSET_LAST, 11_ledger.md, register table. -/
def DSET_LAST (d s : Nat) : Nat := spanSlot d 0x17 (0x1030 + 0x100 * s)
def DSET_LAST_LAST_SI (d s : Nat) : RF := ⟨DSET_LAST d s, 0, 48⟩
def DSET_LAST_BUSY (d s : Nat) : RF := ⟨DSET_LAST d s, 48, 1⟩

/-- CHMAP, 11_ledger.md, register table. -/
def CHMAP (d c : Nat) : Nat := spanSlot d 0x17 (0x10000 + 0x10 * c)
def CHMAP_LCH (d c : Nat) : RF := ⟨CHMAP d c, 0, 12⟩
def CHMAP_OWNED (d c : Nat) : RF := ⟨CHMAP d c, 12, 1⟩

/-- HDR, 11_ledger.md, register table. -/
def HDR (d b : Nat) : Nat := spanSlot d 0x17 (0x100000000 + 0x10 * b)
def HDR_HEADER (d b : Nat) : RF := ⟨HDR d b, 0, 72⟩

/-- ENTRY, 11_ledger.md, register table. -/
def ENTRY (d k w : Nat) : Nat := spanSlot d 0x17 (0x200000000 + 0xC000 * k + 0x10 * w)
def ENTRY_WORD (d k w : Nat) : RF := ⟨ENTRY d k w, 0, 72⟩

/-! ### Block 0x18 BE (12_beam_engine.md) -/

/-- BE_INFO, 12_beam_engine.md, register table. -/
def BE_INFO (d : Nat) : Nat := spanSlot d 0x18 (0x0)
def BE_INFO_VERSION (d : Nat) : RF := ⟨BE_INFO d, 0, 8⟩
def BE_INFO_DESCS (d : Nat) : RF := ⟨BE_INFO d, 8, 11⟩
def BE_INFO_MAC_LOG2 (d : Nat) : RF := ⟨BE_INFO d, 19, 4⟩
def BE_INFO_DETS (d : Nat) : RF := ⟨BE_INFO d, 23, 7⟩
def BE_INFO_GROUPS (d : Nat) : RF := ⟨BE_INFO d, 30, 5⟩
def BE_INFO_SETS (d : Nat) : RF := ⟨BE_INFO d, 35, 7⟩

/-- BE_STATUS, 12_beam_engine.md, register table. -/
def BE_STATUS (d : Nat) : Nat := spanSlot d 0x18 (0x10)
def BE_STATUS_STATE (d : Nat) : RF := ⟨BE_STATUS d, 0, 2⟩
def BE_STATUS_SI_DONE (d : Nat) : RF := ⟨BE_STATUS d, 2, 48⟩

/-- BE_EVENTS, 12_beam_engine.md, register table. -/
def BE_EVENTS (d : Nat) : Nat := spanSlot d 0x18 (0x20)
def BE_EVENTS_MISMATCH (d : Nat) : RF := ⟨BE_EVENTS d, 0, 1⟩
def BE_EVENTS_RERUN (d : Nat) : RF := ⟨BE_EVENTS d, 1, 1⟩
def BE_EVENTS_DEACC (d : Nat) : RF := ⟨BE_EVENTS d, 2, 1⟩
def BE_EVENTS_FIRE (d : Nat) : RF := ⟨BE_EVENTS d, 3, 1⟩
def BE_EVENTS_SET_EMPTY (d : Nat) : RF := ⟨BE_EVENTS d, 4, 1⟩
def BE_EVENTS_REQ_SAT (d : Nat) : RF := ⟨BE_EVENTS d, 5, 1⟩

/-- BE_CFG, 12_beam_engine.md, register table. -/
def BE_CFG (d : Nat) : Nat := spanSlot d 0x18 (0x30)
def BE_CFG_UPD_FOLIOS (d : Nat) : RF := ⟨BE_CFG d, 0, 16⟩

/-- BE_FREQ, 12_beam_engine.md, register table. -/
def BE_FREQ (d : Nat) : Nat := spanSlot d 0x18 (0x40)
def BE_FREQ_FREQ0 (d : Nat) : RF := ⟨BE_FREQ d, 0, 64⟩

/-- BE_DET, 12_beam_engine.md, register table. -/
def BE_DET (d : Nat) : Nat := spanSlot d 0x18 (0x50)
def BE_DET_CH_FIRST (d : Nat) : RF := ⟨BE_DET d, 0, 12⟩
def BE_DET_CH_CNT_M1 (d : Nat) : RF := ⟨BE_DET d, 12, 12⟩
def BE_DET_CHAV_LOG2 (d : Nat) : RF := ⟨BE_DET d, 24, 4⟩
def BE_DET_NSLOT (d : Nat) : RF := ⟨BE_DET d, 28, 10⟩

/-- BE_LOAD, 12_beam_engine.md, register table. -/
def BE_LOAD (d : Nat) : Nat := spanSlot d 0x18 (0x60)
def BE_LOAD_BUSY (d : Nat) : RF := ⟨BE_LOAD d, 0, 16⟩
def BE_LOAD_DELAYS (d : Nat) : RF := ⟨BE_LOAD d, 16, 32⟩

/-- BE_COUNT, 12_beam_engine.md, register table. -/
def BE_COUNT (d : Nat) : Nat := spanSlot d 0x18 (0x70)
def BE_COUNT_MISMATCH (d : Nat) : RF := ⟨BE_COUNT d, 0, 24⟩
def BE_COUNT_RERUNS (d : Nat) : RF := ⟨BE_COUNT d, 24, 24⟩
def BE_COUNT_FIRES (d : Nat) : RF := ⟨BE_COUNT d, 48, 24⟩

/-- SET, 12_beam_engine.md, register table. -/
def SET (d s w : Nat) : Nat := spanSlot d 0x18 (0x10000 + 0x40 * s + 0x10 * w)
def SET_FIRST_A (d s w : Nat) : RF := ⟨SET d s w, 0, 18⟩
def SET_CNT_A (d s w : Nat) : RF := ⟨SET d s w, 18, 18⟩
def SET_FIRST_B (d s w : Nat) : RF := ⟨SET d s w, 36, 18⟩
def SET_CNT_B (d s w : Nat) : RF := ⟨SET d s w, 54, 18⟩

/-- DESC, 12_beam_engine.md, register table. -/
def DESC (d b w : Nat) : Nat := spanSlot d 0x18 (0x100000 + 0x100 * b + 0x10 * w)
def DESC_WORD (d b w : Nat) : RF := ⟨DESC d b w, 0, 72⟩

/-- PEND, 12_beam_engine.md, register table. -/
def PEND (d b w : Nat) : Nat := spanSlot d 0x18 (0x200000 + 0x100 * b + 0x10 * w)
def PEND_WORD (d b w : Nat) : RF := ⟨PEND d b w, 0, 72⟩

/-- PEND_CTRL, 12_beam_engine.md, register table. -/
def PEND_CTRL (d b : Nat) : Nat := spanSlot d 0x18 (0x300000 + 0x10 * b)
def PEND_CTRL_PENDING (d b : Nat) : RF := ⟨PEND_CTRL d b, 0, 1⟩
def PEND_CTRL_EFF_GRAIN (d b : Nat) : RF := ⟨PEND_CTRL d b, 1, 48⟩

/-- DET_CFG0, 12_beam_engine.md, register table. -/
def DET_CFG0 (d m : Nat) : Nat := spanSlot d 0x18 (0x400000 + 0x40 * m)
def DET_CFG0_EN (d m : Nat) : RF := ⟨DET_CFG0 d m, 0, 1⟩
def DET_CFG0_DESC (d m : Nat) : RF := ⟨DET_CFG0 d m, 1, 10⟩
def DET_CFG0_DCH_FIRST (d m : Nat) : RF := ⟨DET_CFG0 d m, 11, 12⟩
def DET_CFG0_DCH_CNT_M1 (d m : Nat) : RF := ⟨DET_CFG0 d m, 23, 12⟩
def DET_CFG0_TAVG_M1 (d m : Nat) : RF := ⟨DET_CFG0 d m, 35, 16⟩
def DET_CFG0_ALPHA_LOG2 (d m : Nat) : RF := ⟨DET_CFG0 d m, 51, 5⟩
def DET_CFG0_K16 (d m : Nat) : RF := ⟨DET_CFG0 d m, 56, 12⟩

/-- DET_CFG1, 12_beam_engine.md, register table. -/
def DET_CFG1 (d m : Nat) : Nat := spanSlot d 0x18 (0x400010 + 0x40 * m)
def DET_CFG1_HOLDOFF (d m : Nat) : RF := ⟨DET_CFG1 d m, 0, 16⟩
def DET_CFG1_FREEZE_MAX (d m : Nat) : RF := ⟨DET_CFG1 d m, 16, 16⟩
def DET_CFG1_GROUP (d m : Nat) : RF := ⟨DET_CFG1 d m, 32, 4⟩

/-- DET_STAT0, 12_beam_engine.md, register table. -/
def DET_STAT0 (d m : Nat) : Nat := spanSlot d 0x18 (0x400020 + 0x40 * m)
def DET_STAT0_MEAN (d m : Nat) : RF := ⟨DET_STAT0 d m, 0, 40⟩
def DET_STAT0_ARMED (d m : Nat) : RF := ⟨DET_STAT0 d m, 40, 1⟩
def DET_STAT0_ABOVE (d m : Nat) : RF := ⟨DET_STAT0 d m, 41, 1⟩
def DET_STAT0_CROSSINGS (d m : Nat) : RF := ⟨DET_STAT0 d m, 42, 24⟩

/-- DET_STAT1, 12_beam_engine.md, register table. -/
def DET_STAT1 (d m : Nat) : Nat := spanSlot d 0x18 (0x400030 + 0x40 * m)
def DET_STAT1_VAR (d m : Nat) : RF := ⟨DET_STAT1 d m, 0, 64⟩

/-- GRP_CFG, 12_beam_engine.md, register table. -/
def GRP_CFG (d g : Nat) : Nat := spanSlot d 0x18 (0x500000 + 0x40 * g)
def GRP_CFG_EN (d g : Nat) : RF := ⟨GRP_CFG d g, 0, 1⟩
def GRP_CFG_MIN_M1 (d g : Nat) : RF := ⟨GRP_CFG d g, 1, 6⟩
def GRP_CFG_WIN_US (d g : Nat) : RF := ⟨GRP_CFG d g, 7, 24⟩
def GRP_CFG_VIT_EN (d g : Nat) : RF := ⟨GRP_CFG d g, 31, 1⟩
def GRP_CFG_VIT_FIRST (d g : Nat) : RF := ⟨GRP_CFG d g, 32, 10⟩
def GRP_CFG_VIT_CNT (d g : Nat) : RF := ⟨GRP_CFG d g, 42, 11⟩

/-- GRP_VIT, 12_beam_engine.md, register table. -/
def GRP_VIT (d g : Nat) : Nat := spanSlot d 0x18 (0x500010 + 0x40 * g)
def GRP_VIT_PRE_US (d g : Nat) : RF := ⟨GRP_VIT d g, 0, 32⟩
def GRP_VIT_POST_US (d g : Nat) : RF := ⟨GRP_VIT d g, 32, 32⟩

/-- GRP_STATE, 12_beam_engine.md, register table. -/
def GRP_STATE (d g : Nat) : Nat := spanSlot d 0x18 (0x500020 + 0x40 * g)
def GRP_STATE_FIRES (d g : Nat) : RF := ⟨GRP_STATE d g, 0, 24⟩
def GRP_STATE_LAST_VIT (d g : Nat) : RF := ⟨GRP_STATE d g, 24, 32⟩

/-- GEOM0, 12_beam_engine.md, register table. -/
def GEOM0 (d i : Nat) : Nat := spanSlot d 0x18 (0x100000000 + 0x30 * i)
def GEOM0_X (d i : Nat) : RF := ⟨GEOM0 d i, 0, 32⟩
def GEOM0_Y (d i : Nat) : RF := ⟨GEOM0 d i, 32, 32⟩

/-- GEOM1, 12_beam_engine.md, register table. -/
def GEOM1 (d i : Nat) : Nat := spanSlot d 0x18 (0x100000010 + 0x30 * i)
def GEOM1_Z (d i : Nat) : RF := ⟨GEOM1 d i, 0, 32⟩
def GEOM1_INST (d i : Nat) : RF := ⟨GEOM1 d i, 32, 32⟩

/-- GAIN, 12_beam_engine.md, register table. -/
def GAIN (d i : Nat) : Nat := spanSlot d 0x18 (0x100000020 + 0x30 * i)
def GAIN_GRE (d i : Nat) : RF := ⟨GAIN d i, 0, 32⟩

/-! ### Block 0x19 DRC (15_memory_fabric.md) -/

/-- DRC_INFO, 15_memory_fabric.md, register table. -/
def DRC_INFO (d : Nat) : Nat := spanSlot d 0x19 (0x0)
def DRC_INFO_VERSION (d : Nat) : RF := ⟨DRC_INFO d, 0, 8⟩
def DRC_INFO_CHANNELS (d : Nat) : RF := ⟨DRC_INFO d, 8, 4⟩
def DRC_INFO_MAX_MTS (d : Nat) : RF := ⟨DRC_INFO d, 12, 16⟩
def DRC_INFO_JBUF_K (d : Nat) : RF := ⟨DRC_INFO d, 28, 12⟩

/-- DRC_STATUS, 15_memory_fabric.md, register table. -/
def DRC_STATUS (d : Nat) : Nat := spanSlot d 0x19 (0x10)
def DRC_STATUS_PANIC (d : Nat) : RF := ⟨DRC_STATUS d, 0, 1⟩
def DRC_STATUS_JBUF_FILL (d : Nat) : RF := ⟨DRC_STATUS d, 1, 17⟩
def DRC_STATUS_RETRAIN (d : Nat) : RF := ⟨DRC_STATUS d, 18, 2⟩

/-- DRC_EVENTS, 15_memory_fabric.md, register table. -/
def DRC_EVENTS (d : Nat) : Nat := spanSlot d 0x19 (0x20)
def DRC_EVENTS_PANIC (d : Nat) : RF := ⟨DRC_EVENTS d, 0, 1⟩
def DRC_EVENTS_JNL_OVERRUN (d : Nat) : RF := ⟨DRC_EVENTS d, 1, 1⟩
def DRC_EVENTS_CORR (d : Nat) : RF := ⟨DRC_EVENTS d, 2, 1⟩
def DRC_EVENTS_UNCORR (d : Nat) : RF := ⟨DRC_EVENTS d, 3, 1⟩
def DRC_EVENTS_TRAIN_FAIL (d : Nat) : RF := ⟨DRC_EVENTS d, 4, 1⟩
def DRC_EVENTS_RETRAIN (d : Nat) : RF := ⟨DRC_EVENTS d, 5, 1⟩
def DRC_EVENTS_REF_POSTPONED (d : Nat) : RF := ⟨DRC_EVENTS d, 6, 1⟩

/-- DRC_QOS, 15_memory_fabric.md, register table. -/
def DRC_QOS (d : Nat) : Nat := spanSlot d 0x19 (0x30)
def DRC_QOS_PANIC_ON (d : Nat) : RF := ⟨DRC_QOS d, 0, 7⟩
def DRC_QOS_PANIC_OFF (d : Nat) : RF := ⟨DRC_QOS d, 7, 7⟩
def DRC_QOS_REF_POST_MAX (d : Nat) : RF := ⟨DRC_QOS d, 14, 3⟩

/-- DRC_MAINT, 15_memory_fabric.md, register table. -/
def DRC_MAINT (d : Nat) : Nat := spanSlot d 0x19 (0x40)
def DRC_MAINT_K (d : Nat) : RF := ⟨DRC_MAINT d, 0, 5⟩
def DRC_MAINT_MODE (d : Nat) : RF := ⟨DRC_MAINT d, 5, 2⟩
def DRC_MAINT_SCRUB_H (d : Nat) : RF := ⟨DRC_MAINT d, 7, 8⟩
def DRC_MAINT_RETRAIN_MIN (d : Nat) : RF := ⟨DRC_MAINT d, 15, 16⟩

/-- DRC_COUNT, 15_memory_fabric.md, register table. -/
def DRC_COUNT (d : Nat) : Nat := spanSlot d 0x19 (0x50)
def DRC_COUNT_PANICS (d : Nat) : RF := ⟨DRC_COUNT d, 0, 24⟩
def DRC_COUNT_OVERRUNS (d : Nat) : RF := ⟨DRC_COUNT d, 24, 24⟩
def DRC_COUNT_REF_POSTPONED (d : Nat) : RF := ⟨DRC_COUNT d, 48, 24⟩

/-- DRC_CH_CFG, 15_memory_fabric.md, register table. -/
def DRC_CH_CFG (d c : Nat) : Nat := spanSlot d 0x19 (0x10000 + 0x1000 * c)
def DRC_CH_CFG_EN (d c : Nat) : RF := ⟨DRC_CH_CFG d c, 0, 1⟩
def DRC_CH_CFG_RATE_MTS (d c : Nat) : RF := ⟨DRC_CH_CFG d c, 1, 16⟩
def DRC_CH_CFG_CAP_GIB (d c : Nat) : RF := ⟨DRC_CH_CFG d c, 17, 6⟩
def DRC_CH_CFG_DRFM_CAP (d c : Nat) : RF := ⟨DRC_CH_CFG d c, 23, 1⟩

/-- DRC_CH_STATUS, 15_memory_fabric.md, register table. -/
def DRC_CH_STATUS (d c : Nat) : Nat := spanSlot d 0x19 (0x10010 + 0x1000 * c)
def DRC_CH_STATUS_STATE (d c : Nat) : RF := ⟨DRC_CH_STATUS d c, 0, 3⟩
def DRC_CH_STATUS_FULL (d c : Nat) : RF := ⟨DRC_CH_STATUS d c, 3, 1⟩
def DRC_CH_STATUS_TRAIN_MS (d c : Nat) : RF := ⟨DRC_CH_STATUS d c, 4, 16⟩
def DRC_CH_STATUS_ERASED0 (d c : Nat) : RF := ⟨DRC_CH_STATUS d c, 20, 4⟩
def DRC_CH_STATUS_ERASED1 (d c : Nat) : RF := ⟨DRC_CH_STATUS d c, 24, 4⟩

/-- DRC_CH_ERR, 15_memory_fabric.md, register table. -/
def DRC_CH_ERR (d c s n : Nat) : Nat := spanSlot d 0x19 (0x10100 + 0x1000 * c + 0x100 * s + 0x10 * n)
def DRC_CH_ERR_CORR (d c s n : Nat) : RF := ⟨DRC_CH_ERR d c s n, 0, 24⟩
def DRC_CH_ERR_SCRUB_CORR (d c s n : Nat) : RF := ⟨DRC_CH_ERR d c s n, 24, 24⟩

/-! ### Block 0x1A FAB (15_memory_fabric.md) -/

/-- FAB_INFO, 15_memory_fabric.md, register table. -/
def FAB_INFO (d : Nat) : Nat := spanSlot d 0x1A (0x0)
def FAB_INFO_VERSION (d : Nat) : RF := ⟨FAB_INFO d, 0, 8⟩
def FAB_INFO_MASTERS (d : Nat) : RF := ⟨FAB_INFO d, 8, 5⟩
def FAB_INFO_TARGETS (d : Nat) : RF := ⟨FAB_INFO d, 13, 4⟩
def FAB_INFO_BEAT_WORDS (d : Nat) : RF := ⟨FAB_INFO d, 17, 4⟩
def FAB_INFO_BREAK (d : Nat) : RF := ⟨FAB_INFO d, 21, 4⟩

/-- FAB_STATUS, 15_memory_fabric.md, register table. -/
def FAB_STATUS (d : Nat) : Nat := spanSlot d 0x1A (0x10)
def FAB_STATUS_FALLBACK (d : Nat) : RF := ⟨FAB_STATUS d, 0, 1⟩
def FAB_STATUS_PAR_ENTRY (d : Nat) : RF := ⟨FAB_STATUS d, 1, 9⟩

/-- FAB_EVENTS, 15_memory_fabric.md, register table. -/
def FAB_EVENTS (d : Nat) : Nat := spanSlot d 0x1A (0x20)
def FAB_EVENTS_PARITY (d : Nat) : RF := ⟨FAB_EVENTS d, 0, 1⟩
def FAB_EVENTS_AGED (d : Nat) : RF := ⟨FAB_EVENTS d, 1, 1⟩

/-- FAB_CFG, 15_memory_fabric.md, register table. -/
def FAB_CFG (d : Nat) : Nat := spanSlot d 0x1A (0x30)
def FAB_CFG_AGE_LIMIT (d : Nat) : RF := ⟨FAB_CFG d, 0, 16⟩

/-- FAB_COUNT, 15_memory_fabric.md, register table. -/
def FAB_COUNT (d : Nat) : Nat := spanSlot d 0x1A (0x40)
def FAB_COUNT_PAR_ERR (d : Nat) : RF := ⟨FAB_COUNT d, 0, 24⟩
def FAB_COUNT_AGED (d : Nat) : RF := ⟨FAB_COUNT d, 24, 24⟩
def FAB_COUNT_BREAKS (d : Nat) : RF := ⟨FAB_COUNT d, 48, 24⟩

/-- PRIO, 15_memory_fabric.md, register table. -/
def PRIO (d m : Nat) : Nat := spanSlot d 0x1A (0x1000 + 0x10 * m)
def PRIO_P (d m : Nat) : RF := ⟨PRIO d m, 0, 48⟩
def PRIO_PAR (d m : Nat) : RF := ⟨PRIO d m, 48, 12⟩

/-- SLICE, 15_memory_fabric.md, register table. -/
def SLICE (d m : Nat) : Nat := spanSlot d 0x1A (0x2000 + 0x10 * m)
def SLICE_S (d m : Nat) : RF := ⟨SLICE d m, 0, 24⟩

/-- TGT, 15_memory_fabric.md, register table. -/
def TGT (d t : Nat) : Nat := spanSlot d 0x1A (0x3000 + 0x10 * t)
def TGT_PARK (d t : Nat) : RF := ⟨TGT d t, 0, 5⟩
def TGT_GRANT (d t : Nat) : RF := ⟨TGT d t, 5, 5⟩
def TGT_WAITING (d t : Nat) : RF := ⟨TGT d t, 10, 26⟩

/-! ### Block 0x1B DMA (15_memory_fabric.md) -/

/-- DMA_INFO, 15_memory_fabric.md, register table. -/
def DMA_INFO (d : Nat) : Nat := spanSlot d 0x1B (0x0)
def DMA_INFO_VERSION (d : Nat) : RF := ⟨DMA_INFO d, 0, 8⟩
def DMA_INFO_ENGINES (d : Nat) : RF := ⟨DMA_INFO d, 8, 4⟩
def DMA_INFO_CHANNELS (d : Nat) : RF := ⟨DMA_INFO d, 12, 5⟩
def DMA_INFO_DESC_WORDS (d : Nat) : RF := ⟨DMA_INFO d, 17, 4⟩

/-- DMA_STATUS, 15_memory_fabric.md, register table. -/
def DMA_STATUS (d : Nat) : Nat := spanSlot d 0x1B (0x10)
def DMA_STATUS_RUN0 (d : Nat) : RF := ⟨DMA_STATUS d, 0, 5⟩
def DMA_STATUS_RUN1 (d : Nat) : RF := ⟨DMA_STATUS d, 5, 5⟩
def DMA_STATUS_PACE_WAIT (d : Nat) : RF := ⟨DMA_STATUS d, 10, 2⟩

/-- DMA_EVENTS, 15_memory_fabric.md, register table. -/
def DMA_EVENTS (d : Nat) : Nat := spanSlot d 0x1B (0x20)
def DMA_EVENTS_DONE (d : Nat) : RF := ⟨DMA_EVENTS d, 0, 1⟩
def DMA_EVENTS_MISMATCH (d : Nat) : RF := ⟨DMA_EVENTS d, 1, 1⟩
def DMA_EVENTS_ERROR (d : Nat) : RF := ⟨DMA_EVENTS d, 2, 1⟩
def DMA_EVENTS_WDRAWN (d : Nat) : RF := ⟨DMA_EVENTS d, 3, 1⟩
def DMA_EVENTS_TIMEOUT (d : Nat) : RF := ⟨DMA_EVENTS d, 4, 1⟩

/-- DMA_CFG, 15_memory_fabric.md, register table. -/
def DMA_CFG (d : Nat) : Nat := spanSlot d 0x1B (0x30)
def DMA_CFG_PACE_TO_US (d : Nat) : RF := ⟨DMA_CFG d, 0, 16⟩

/-- DMA_CH_CFG, 15_memory_fabric.md, register table. -/
def DMA_CH_CFG (d e c : Nat) : Nat := spanSlot d 0x1B (0x10000 + 0x1000 * e + 0x100 * c)
def DMA_CH_CFG_EN (d e c : Nat) : RF := ⟨DMA_CH_CFG d e c, 0, 1⟩
def DMA_CH_CFG_RING_SPACE (d e c : Nat) : RF := ⟨DMA_CH_CFG d e c, 1, 1⟩
def DMA_CH_CFG_RING_BASE (d e c : Nat) : RF := ⟨DMA_CH_CFG d e c, 2, 39⟩
def DMA_CH_CFG_RING_LEN (d e c : Nat) : RF := ⟨DMA_CH_CFG d e c, 41, 12⟩
def DMA_CH_CFG_OWNER (d e c : Nat) : RF := ⟨DMA_CH_CFG d e c, 53, 2⟩

/-- DMA_CH_STATE, 15_memory_fabric.md, register table. -/
def DMA_CH_STATE (d e c : Nat) : Nat := spanSlot d 0x1B (0x10010 + 0x1000 * e + 0x100 * c)
def DMA_CH_STATE_HEAD (d e c : Nat) : RF := ⟨DMA_CH_STATE d e c, 0, 12⟩
def DMA_CH_STATE_STATE (d e c : Nat) : RF := ⟨DMA_CH_STATE d e c, 12, 3⟩
def DMA_CH_STATE_DONE_CNT (d e c : Nat) : RF := ⟨DMA_CH_STATE d e c, 15, 36⟩

/-- DMA_CH_POS, 15_memory_fabric.md, register table. -/
def DMA_CH_POS (d e c : Nat) : Nat := spanSlot d 0x1B (0x10020 + 0x1000 * e + 0x100 * c)
def DMA_CH_POS_OFS (d e c : Nat) : RF := ⟨DMA_CH_POS d e c, 0, 32⟩
def DMA_CH_POS_WD_BEATS (d e c : Nat) : RF := ⟨DMA_CH_POS d e c, 32, 3⟩
def DMA_CH_POS_WDRAWN (d e c : Nat) : RF := ⟨DMA_CH_POS d e c, 35, 1⟩

/-- DMA_CH_DOORBELL, 15_memory_fabric.md, register table. -/
def DMA_CH_DOORBELL (d e c : Nat) : Nat := spanSlot d 0x1B (0x10030 + 0x1000 * e + 0x100 * c)
def DMA_CH_DOORBELL_RING (d e c : Nat) : RF := ⟨DMA_CH_DOORBELL d e c, 0, 1⟩

/-! ### Block 0x1C CSV (21_conservator.md) -/

/-- CSV_INFO, 21_conservator.md, register table. -/
def CSV_INFO (d : Nat) : Nat := spanSlot d 0x1C (0x0)
def CSV_INFO_VERSION (d : Nat) : RF := ⟨CSV_INFO d, 0, 8⟩
def CSV_INFO_ITEMS (d : Nat) : RF := ⟨CSV_INFO d, 8, 8⟩
def CSV_INFO_MONITORS (d : Nat) : RF := ⟨CSV_INFO d, 16, 8⟩

/-- CSV_STATUS, 21_conservator.md, register table. -/
def CSV_STATUS (d : Nat) : Nat := spanSlot d 0x1C (0x10)
def CSV_STATUS_BUSY (d : Nat) : RF := ⟨CSV_STATUS d, 0, 1⟩
def CSV_STATUS_ITEM (d : Nat) : RF := ⟨CSV_STATUS d, 1, 7⟩
def CSV_STATUS_BASELINE (d : Nat) : RF := ⟨CSV_STATUS d, 8, 1⟩
def CSV_STATUS_SUSPECTS (d : Nat) : RF := ⟨CSV_STATUS d, 9, 7⟩
def CSV_STATUS_MARGIN_REQ (d : Nat) : RF := ⟨CSV_STATUS d, 16, 1⟩

/-- CSV_EVENTS, 21_conservator.md, register table. -/
def CSV_EVENTS (d : Nat) : Nat := spanSlot d 0x1C (0x20)
def CSV_EVENTS_CAL_REJECT (d : Nat) : RF := ⟨CSV_EVENTS d, 0, 1⟩
def CSV_EVENTS_SUSPECT (d : Nat) : RF := ⟨CSV_EVENTS d, 1, 1⟩
def CSV_EVENTS_TRIM_RAISE (d : Nat) : RF := ⟨CSV_EVENTS d, 2, 1⟩
def CSV_EVENTS_F_CAP (d : Nat) : RF := ⟨CSV_EVENTS d, 3, 1⟩
def CSV_EVENTS_MARGIN_LOW (d : Nat) : RF := ⟨CSV_EVENTS d, 4, 1⟩
def CSV_EVENTS_BASELINE (d : Nat) : RF := ⟨CSV_EVENTS d, 5, 1⟩
def CSV_EVENTS_RECORD_FAIL (d : Nat) : RF := ⟨CSV_EVENTS d, 6, 1⟩
def CSV_EVENTS_EYE_RETRAIN (d : Nat) : RF := ⟨CSV_EVENTS d, 7, 1⟩

/-- CSV_CFG, 21_conservator.md, register table. -/
def CSV_CFG (d : Nat) : Nat := spanSlot d 0x1C (0x30)
def CSV_CFG_HORIZON_D (d : Nat) : RF := ⟨CSV_CFG d, 0, 12⟩
def CSV_CFG_FIT_D (d : Nat) : RF := ⟨CSV_CFG d, 12, 12⟩
def CSV_CFG_AGE_PERIOD_S (d : Nat) : RF := ⟨CSV_CFG d, 24, 16⟩
def CSV_CFG_TEMP_RECAL_C (d : Nat) : RF := ⟨CSV_CFG d, 40, 8⟩
def CSV_CFG_EYE_FLOOR_MV (d : Nat) : RF := ⟨CSV_CFG d, 48, 8⟩
def CSV_CFG_EYE_RETRAIN_H (d : Nat) : RF := ⟨CSV_CFG d, 56, 8⟩
def CSV_CFG_DRAM_FLOOR (d : Nat) : RF := ⟨CSV_CFG d, 64, 8⟩

/-- CSV_PROJ, 21_conservator.md, register table. -/
def CSV_PROJ (d : Nat) : Nat := spanSlot d 0x1C (0x40)
def CSV_PROJ_DAYS (d : Nat) : RF := ⟨CSV_PROJ d, 0, 16⟩
def CSV_PROJ_SOURCE (d : Nat) : RF := ⟨CSV_PROJ d, 16, 2⟩
def CSV_PROJ_INDEX (d : Nat) : RF := ⟨CSV_PROJ d, 18, 8⟩

/-- ITEM_CFG, 21_conservator.md, register table. -/
def ITEM_CFG (d n : Nat) : Nat := spanSlot d 0x1C (0x1000 + 0x20 * n)
def ITEM_CFG_MIN (d n : Nat) : RF := ⟨ITEM_CFG d n, 0, 8⟩
def ITEM_CFG_MAX (d n : Nat) : RF := ⟨ITEM_CFG d n, 8, 8⟩
def ITEM_CFG_MAX_STEP (d n : Nat) : RF := ⟨ITEM_CFG d n, 16, 4⟩
def ITEM_CFG_INTERVAL_S (d n : Nat) : RF := ⟨ITEM_CFG d n, 20, 16⟩
def ITEM_CFG_BITS (d n : Nat) : RF := ⟨ITEM_CFG d n, 36, 4⟩

/-- ITEM_STATE, 21_conservator.md, register table. -/
def ITEM_STATE (d n : Nat) : Nat := spanSlot d 0x1C (0x1010 + 0x20 * n)
def ITEM_STATE_CODE (d n : Nat) : RF := ⟨ITEM_STATE d n, 0, 8⟩
def ITEM_STATE_LAST_RESULT (d n : Nat) : RF := ⟨ITEM_STATE d n, 8, 8⟩
def ITEM_STATE_FAILS (d n : Nat) : RF := ⟨ITEM_STATE d n, 16, 2⟩
def ITEM_STATE_SUSPECT (d n : Nat) : RF := ⟨ITEM_STATE d n, 18, 1⟩
def ITEM_STATE_STALE (d n : Nat) : RF := ⟨ITEM_STATE d n, 19, 1⟩
def ITEM_STATE_PENDING (d n : Nat) : RF := ⟨ITEM_STATE d n, 20, 1⟩
def ITEM_STATE_AGE_S (d n : Nat) : RF := ⟨ITEM_STATE d n, 21, 31⟩
def ITEM_STATE_FAIL_CNT (d n : Nat) : RF := ⟨ITEM_STATE d n, 52, 20⟩

/-- MON, 21_conservator.md, register table. -/
def MON (d m : Nat) : Nat := spanSlot d 0x1C (0x4000 + 0x20 * m)
def MON_SLOW_PPM (d m : Nat) : RF := ⟨MON d m, 0, 24⟩
def MON_TRIM_MV (d m : Nat) : RF := ⟨MON d m, 24, 6⟩
def MON_F_CAP (d m : Nat) : RF := ⟨MON d m, 30, 8⟩
def MON_PROJ_D (d m : Nat) : RF := ⟨MON d m, 38, 16⟩
def MON_POINT (d m : Nat) : RF := ⟨MON d m, 54, 2⟩

/-- MON_BASE, 21_conservator.md, register table. -/
def MON_BASE (d m : Nat) : Nat := spanSlot d 0x1C (0x4010 + 0x20 * m)
def MON_BASE_R0 (d m : Nat) : RF := ⟨MON_BASE d m, 0, 64⟩
def MON_BASE_SENS (d m : Nat) : RF := ⟨MON_BASE d m, 64, 8⟩

/-! ### Block 0x1D PMON (22_counters.md) -/

/-- PMON_INFO, 22_counters.md, register table. -/
def PMON_INFO (d : Nat) : Nat := spanSlot d 0x1D (0x0)
def PMON_INFO_VERSION (d : Nat) : RF := ⟨PMON_INFO d, 0, 8⟩
def PMON_INFO_COUNTERS (d : Nat) : RF := ⟨PMON_INFO d, 8, 7⟩
def PMON_INFO_WIDTH (d : Nat) : RF := ⟨PMON_INFO d, 15, 6⟩
def PMON_INFO_TD_CORES (d : Nat) : RF := ⟨PMON_INFO d, 21, 5⟩

/-- PMON_STATUS, 22_counters.md, register table. -/
def PMON_STATUS (d : Nat) : Nat := spanSlot d 0x1D (0x10)
def PMON_STATUS_OVF (d : Nat) : RF := ⟨PMON_STATUS d, 0, 64⟩

/-- PMON_EVENTS, 22_counters.md, register table. -/
def PMON_EVENTS (d : Nat) : Nat := spanSlot d 0x1D (0x20)
def PMON_EVENTS_WRAP (d : Nat) : RF := ⟨PMON_EVENTS d, 0, 1⟩
def PMON_EVENTS_SNAP_DONE (d : Nat) : RF := ⟨PMON_EVENTS d, 1, 1⟩

/-- PMON_SEL, 22_counters.md, register table. -/
def PMON_SEL (d k : Nat) : Nat := spanSlot d 0x1D (0x1000 + 0x10 * k)
def PMON_SEL_EVENT (d k : Nat) : RF := ⟨PMON_SEL d k, 0, 8⟩
def PMON_SEL_INST (d k : Nat) : RF := ⟨PMON_SEL d k, 8, 5⟩
def PMON_SEL_IRQ_CORE (d k : Nat) : RF := ⟨PMON_SEL d k, 13, 5⟩

/-- PMON_CTR, 22_counters.md, register table. -/
def PMON_CTR (d k : Nat) : Nat := spanSlot d 0x1D (0x2000 + 0x10 * k)
def PMON_CTR_VALUE (d k : Nat) : RF := ⟨PMON_CTR d k, 0, 48⟩
def PMON_CTR_OVF (d k : Nat) : RF := ⟨PMON_CTR d k, 48, 1⟩
def PMON_CTR_TS (d k : Nat) : RF := ⟨PMON_CTR d k, 49, 23⟩

/-- TD, 22_counters.md, register table. -/
def TD (d c s : Nat) : Nat := spanSlot d 0x1D (0x3000 + 0x40 * c + 0x10 * s)
def TD_VALUE (d c s : Nat) : RF := ⟨TD d c s, 0, 48⟩
def TD_OVF (d c s : Nat) : RF := ⟨TD d c s, 48, 1⟩
def TD_TS (d c s : Nat) : RF := ⟨TD d c s, 49, 23⟩

/-! ### Block 0x1E FLT (20_faults.md) -/

/-- FLT_INFO, 20_faults.md, register table. -/
def FLT_INFO (d : Nat) : Nat := spanSlot d 0x1E (0x0)
def FLT_INFO_VERSION (d : Nat) : RF := ⟨FLT_INFO d, 0, 8⟩

/-- FLT_STATUS, 20_faults.md, register table. -/
def FLT_STATUS (d : Nat) : Nat := spanSlot d 0x1E (0x10)
def FLT_STATUS_LEVEL (d : Nat) : RF := ⟨FLT_STATUS d, 0, 2⟩
def FLT_STATUS_FC_SPARES (d : Nat) : RF := ⟨FLT_STATUS d, 2, 2⟩
def FLT_STATUS_GT_SPARE (d : Nat) : RF := ⟨FLT_STATUS d, 4, 1⟩
def FLT_STATUS_NARROWED (d : Nat) : RF := ⟨FLT_STATUS d, 5, 1⟩
def FLT_STATUS_RETIRED (d : Nat) : RF := ⟨FLT_STATUS d, 6, 1⟩
def FLT_STATUS_DRAM_DEACC (d : Nat) : RF := ⟨FLT_STATUS d, 7, 4⟩

/-- FLT_EVENTS, 20_faults.md, register table. -/
def FLT_EVENTS (d : Nat) : Nat := spanSlot d 0x1E (0x20)
def FLT_EVENTS_DEACC (d : Nat) : RF := ⟨FLT_EVENTS d, 0, 1⟩
def FLT_EVENTS_LOAN (d : Nat) : RF := ⟨FLT_EVENTS d, 1, 1⟩
def FLT_EVENTS_RETURN (d : Nat) : RF := ⟨FLT_EVENTS d, 2, 1⟩
def FLT_EVENTS_NARROW (d : Nat) : RF := ⟨FLT_EVENTS d, 3, 1⟩
def FLT_EVENTS_ADVISED (d : Nat) : RF := ⟨FLT_EVENTS d, 4, 1⟩
def FLT_EVENTS_REQUESTED (d : Nat) : RF := ⟨FLT_EVENTS d, 5, 1⟩
def FLT_EVENTS_REINSTATED (d : Nat) : RF := ⟨FLT_EVENTS d, 6, 1⟩

/-- FLT_LIMITS, 20_faults.md, register table. -/
def FLT_LIMITS (d : Nat) : Nat := spanSlot d 0x1E (0x30)
def FLT_LIMITS_GIVEUP_THRESH (d : Nat) : RF := ⟨FLT_LIMITS d, 0, 8⟩
def FLT_LIMITS_GIVEUP_LEAK_H (d : Nat) : RF := ⟨FLT_LIMITS d, 8, 16⟩
def FLT_LIMITS_CORR_THRESH (d : Nat) : RF := ⟨FLT_LIMITS d, 24, 8⟩
def FLT_LIMITS_CORR_LEAK_S (d : Nat) : RF := ⟨FLT_LIMITS d, 32, 16⟩
def FLT_LIMITS_RETURN_MAX_H (d : Nat) : RF := ⟨FLT_LIMITS d, 48, 16⟩

/-- FLT_LIMITS2, 20_faults.md, register table. -/
def FLT_LIMITS2 (d : Nat) : Nat := spanSlot d 0x1E (0x40)
def FLT_LIMITS2_BE_THRESH (d : Nat) : RF := ⟨FLT_LIMITS2 d, 0, 8⟩
def FLT_LIMITS2_BE_LEAK_H (d : Nat) : RF := ⟨FLT_LIMITS2 d, 8, 8⟩
def FLT_LIMITS2_DRAM_THRESH (d : Nat) : RF := ⟨FLT_LIMITS2 d, 16, 16⟩
def FLT_LIMITS2_DRAM_LEAK_S (d : Nat) : RF := ⟨FLT_LIMITS2 d, 32, 16⟩
def FLT_LIMITS2_FC_RETEST_S (d : Nat) : RF := ⟨FLT_LIMITS2 d, 48, 8⟩
def FLT_LIMITS2_FC_RETURN_PASSES (d : Nat) : RF := ⟨FLT_LIMITS2 d, 56, 5⟩

/-- NARROW0, 20_faults.md, register table. -/
def NARROW0 (d : Nat) : Nat := spanSlot d 0x1E (0x50)
def NARROW0_SLOTS (d : Nat) : RF := ⟨NARROW0 d, 0, 64⟩

/-- NARROW1, 20_faults.md, register table. -/
def NARROW1 (d : Nat) : Nat := spanSlot d 0x1E (0x60)
def NARROW1_SLOTS (d : Nat) : RF := ⟨NARROW1 d, 0, 64⟩

/-- UNIT_BKT, 20_faults.md, register table. -/
def UNIT_BKT (d u : Nat) : Nat := spanSlot d 0x1E (0x1000 + 0x10 * u)
def UNIT_BKT_BKT_A (d u : Nat) : RF := ⟨UNIT_BKT d u, 0, 16⟩
def UNIT_BKT_BKT_B (d u : Nat) : RF := ⟨UNIT_BKT d u, 16, 8⟩
def UNIT_BKT_STATE (d u : Nat) : RF := ⟨UNIT_BKT d u, 24, 2⟩

/-! ### Block 0x1F PR (13_products.md) -/

/-- PR_INFO, 13_products.md, register table. -/
def PR_INFO (d : Nat) : Nat := spanSlot d 0x1F (0x0)
def PR_INFO_VERSION (d : Nat) : RF := ⟨PR_INFO d, 0, 8⟩
def PR_INFO_RINGS (d : Nat) : RF := ⟨PR_INFO d, 8, 11⟩
def PR_INFO_EXT_LOG2 (d : Nat) : RF := ⟨PR_INFO d, 19, 5⟩

/-- PR_STATUS, 13_products.md, register table. -/
def PR_STATUS (d : Nat) : Nat := spanSlot d 0x1F (0x10)
def PR_STATUS_SPILLED (d : Nat) : RF := ⟨PR_STATUS d, 0, 11⟩
def PR_STATUS_EXT_USED (d : Nat) : RF := ⟨PR_STATUS d, 11, 16⟩
def PR_STATUS_HIGH (d : Nat) : RF := ⟨PR_STATUS d, 27, 1⟩
def PR_STATUS_SIGN_Q (d : Nat) : RF := ⟨PR_STATUS d, 28, 12⟩

/-- PR_EVENTS, 13_products.md, register table. -/
def PR_EVENTS (d : Nat) : Nat := spanSlot d 0x1F (0x20)
def PR_EVENTS_SPILL (d : Nat) : RF := ⟨PR_EVENTS d, 0, 1⟩
def PR_EVENTS_RES_HIGH (d : Nat) : RF := ⟨PR_EVENTS d, 1, 1⟩
def PR_EVENTS_RES_LOW (d : Nat) : RF := ⟨PR_EVENTS d, 2, 1⟩
def PR_EVENTS_ACK_BAD (d : Nat) : RF := ⟨PR_EVENTS d, 3, 1⟩
def PR_EVENTS_RETX (d : Nat) : RF := ⟨PR_EVENTS d, 4, 1⟩
def PR_EVENTS_ORPHAN (d : Nat) : RF := ⟨PR_EVENTS d, 5, 1⟩
def PR_EVENTS_STALL (d : Nat) : RF := ⟨PR_EVENTS d, 6, 1⟩
def PR_EVENTS_EXHAUSTED (d : Nat) : RF := ⟨PR_EVENTS d, 7, 1⟩

/-- PR_CFG, 13_products.md, register table. -/
def PR_CFG (d : Nat) : Nat := spanSlot d 0x1F (0x30)
def PR_CFG_VTR_RING (d : Nat) : RF := ⟨PR_CFG d, 0, 13⟩
def PR_CFG_ACK_TO_MS (d : Nat) : RF := ⟨PR_CFG d, 13, 16⟩

/-- RES_REGION, 13_products.md, register table. -/
def RES_REGION (d : Nat) : Nat := spanSlot d 0x1F (0x40)
def RES_REGION_BASE (d : Nat) : RF := ⟨RES_REGION d, 0, 36⟩
def RES_REGION_EXTENTS (d : Nat) : RF := ⟨RES_REGION d, 36, 16⟩

/-- RES_LIMIT, 13_products.md, register table. -/
def RES_LIMIT (d : Nat) : Nat := spanSlot d 0x1F (0x50)
def RES_LIMIT_HIGH (d : Nat) : RF := ⟨RES_LIMIT d, 0, 16⟩
def RES_LIMIT_LOW (d : Nat) : RF := ⟨RES_LIMIT d, 16, 16⟩

/-- PR_COUNT0, 13_products.md, register table. -/
def PR_COUNT0 (d : Nat) : Nat := spanSlot d 0x1F (0x60)
def PR_COUNT0_COMMITTED (d : Nat) : RF := ⟨PR_COUNT0 d, 0, 36⟩
def PR_COUNT0_DISCARDED (d : Nat) : RF := ⟨PR_COUNT0 d, 36, 36⟩

/-- PR_COUNT1, 13_products.md, register table. -/
def PR_COUNT1 (d : Nat) : Nat := spanSlot d 0x1F (0x70)
def PR_COUNT1_ACK_BAD (d : Nat) : RF := ⟨PR_COUNT1 d, 0, 24⟩
def PR_COUNT1_RETX (d : Nat) : RF := ⟨PR_COUNT1 d, 24, 24⟩
def PR_COUNT1_STALLS (d : Nat) : RF := ⟨PR_COUNT1 d, 48, 24⟩

/-- RING_CFG, 13_products.md, register table. -/
def RING_CFG (d l : Nat) : Nat := spanSlot d 0x1F (0x10000 + 0x100 * l)
def RING_CFG_EN (d l : Nat) : RF := ⟨RING_CFG d l, 0, 1⟩
def RING_CFG_PRODUCER (d l : Nat) : RF := ⟨RING_CFG d l, 1, 3⟩
def RING_CFG_SEAL_N (d l : Nat) : RF := ⟨RING_CFG d l, 4, 16⟩
def RING_CFG_SEAL_S (d l : Nat) : RF := ⟨RING_CFG d l, 20, 6⟩

/-- RING_REGION, 13_products.md, register table. -/
def RING_REGION (d l : Nat) : Nat := spanSlot d 0x1F (0x10010 + 0x100 * l)
def RING_REGION_BASE (d l : Nat) : RF := ⟨RING_REGION d l, 0, 36⟩
def RING_REGION_WORDS (d l : Nat) : RF := ⟨RING_REGION d l, 36, 36⟩

/-- RING_TGT, 13_products.md, register table. -/
def RING_TGT (d l : Nat) : Nat := spanSlot d 0x1F (0x10020 + 0x100 * l)
def RING_TGT_T0 (d l : Nat) : RF := ⟨RING_TGT d l, 0, 2⟩
def RING_TGT_T0_DEV (d l : Nat) : RF := ⟨RING_TGT d l, 2, 16⟩
def RING_TGT_T1 (d l : Nat) : RF := ⟨RING_TGT d l, 18, 2⟩
def RING_TGT_T1_DEV (d l : Nat) : RF := ⟨RING_TGT d l, 20, 16⟩
def RING_TGT_FB (d l : Nat) : RF := ⟨RING_TGT d l, 36, 2⟩
def RING_TGT_FB_DEV (d l : Nat) : RF := ⟨RING_TGT d l, 38, 16⟩
def RING_TGT_FB_ACTIVE (d l : Nat) : RF := ⟨RING_TGT d l, 54, 1⟩
def RING_TGT_T0_DEACC (d l : Nat) : RF := ⟨RING_TGT d l, 55, 1⟩
def RING_TGT_T1_DEACC (d l : Nat) : RF := ⟨RING_TGT d l, 56, 1⟩

/-- RING_T0, 13_products.md, register table. -/
def RING_T0 (d l : Nat) : Nat := spanSlot d 0x1F (0x10040 + 0x100 * l)
def RING_T0_ACKED (d l : Nat) : RF := ⟨RING_T0 d l, 0, 48⟩
def RING_T0_INFLIGHT (d l : Nat) : RF := ⟨RING_T0 d l, 48, 24⟩

/-- RING_T1, 13_products.md, register table. -/
def RING_T1 (d l : Nat) : Nat := spanSlot d 0x1F (0x10050 + 0x100 * l)
def RING_T1_ACKED (d l : Nat) : RF := ⟨RING_T1 d l, 0, 48⟩
def RING_T1_INFLIGHT (d l : Nat) : RF := ⟨RING_T1 d l, 48, 24⟩

/-- RING_CTL, 13_products.md, register table. -/
def RING_CTL (d l w : Nat) : Nat := spanSlot d 0x1F (0x100000 + 0x100 * l + 0x10 * w)
def RING_CTL_WORD (d l w : Nat) : RF := ⟨RING_CTL d l w, 0, 72⟩

end Reg

/-- One register of a block: where it lies (offset, and for each index its stride and count, widest stride first), its
reset value, and the bits a whole-slot write sets (RW and WS fields) or clears by writing 1 (W1C fields). -/
structure RegDesc where
  name : String
  off : Nat
  dims : List (Nat × Nat)
  reset : Nat
  setBits : Nat
  clrBits : Nat
deriving DecidableEq, Repr

/-- The registers of block 0x00. -/
def descsCAT : List RegDesc :=
  [⟨"CAT_HDR", 0x0, [], 0x0, 0x0, 0x0⟩,
   ⟨"CAT_ENTRY", 0x10, [(0x10, 141)], 0x0, 0x0, 0x0⟩]

/-- The registers of block 0x02. -/
def descsPWR : List RegDesc :=
  [⟨"PWR_INFO", 0x0, [], 0x84801, 0x0, 0x0⟩,
   ⟨"PWR_MODE", 0x10, [], 0x0, 0x0, 0x0⟩,
   ⟨"PWR_EVENTS", 0x20, [], 0x0, 0x0, 0x1F⟩,
   ⟨"PWR_CFG", 0x30, [], 0x159B8C, 0xFFFFFFFFF, 0x0⟩,
   ⟨"SEQ_STATUS", 0x40, [], 0x0, 0x0, 0x0⟩,
   ⟨"ISL", 0x1000, [(0x10, 256)], 0x3, 0x3, 0x0⟩,
   ⟨"RAIL", 0x2000, [(0x10, 8)], 0x0, 0x0, 0x0⟩]

/-- The registers of block 0x03. -/
def descsAOI : List RegDesc :=
  [⟨"AOI_STATUS", 0x0, [], 0x0, 0x0, 0x0⟩,
   ⟨"AOI_CMP", 0x100, [(0x10, 8)], 0x0, 0x3, 0x0⟩,
   ⟨"LAST_WAKE0", 0x200, [], 0x0, 0x0, 0x0⟩,
   ⟨"LAST_WAKE1", 0x210, [], 0x0, 0x0, 0x0⟩,
   ⟨"LAST_WAKE2", 0x220, [], 0x0, 0x0, 0x0⟩,
   ⟨"LAST_DORMANT", 0x300, [], 0x0, 0x0, 0x0⟩]

/-- The registers of block 0x04. -/
def descsSEC : List RegDesc :=
  [⟨"SEC_INFO", 0x0, [], 0x40801, 0x0, 0x0⟩,
   ⟨"SEC_STATUS", 0x10, [], 0x0, 0x0, 0x0⟩,
   ⟨"SEC_EVENTS", 0x20, [], 0x0, 0x0, 0x7F⟩,
   ⟨"SEC_DEBUG", 0x30, [], 0x0, 0x0, 0x0⟩,
   ⟨"SEC_COUNT", 0x40, [], 0x0, 0x0, 0x0⟩,
   ⟨"ID_HASH", 0x100, [(0x10, 4)], 0x0, 0x0, 0x0⟩,
   ⟨"OWNER_HASH", 0x140, [(0x10, 4)], 0x0, 0x0, 0x0⟩,
   ⟨"PEND_HASH", 0x180, [(0x10, 4)], 0x0, 0x0, 0x0⟩,
   ⟨"SEAL_KEY_ID", 0x1C0, [(0x10, 4)], 0x0, 0x0, 0x0⟩,
   ⟨"MEAS_FW", 0x200, [(0x10, 4)], 0x0, 0x0, 0x0⟩,
   ⟨"SEC_CHAL", 0x240, [(0x10, 4)], 0x0, 0x0, 0x0⟩,
   ⟨"CERT", 0x1000, [(0x10, 114)], 0x0, 0x0, 0x0⟩]

/-- The registers of block 0x05. -/
def descsTE : List RegDesc :=
  [⟨"TE_INFO", 0x0, [], 0x18801, 0x0, 0x0⟩,
   ⟨"TE_STATUS", 0x10, [], 0x0, 0x0, 0x0⟩,
   ⟨"TE_EVENTS", 0x20, [], 0x0, 0x0, 0xFF⟩,
   ⟨"TE_CFG", 0x30, [], 0x8CC000000, 0x7FFFFFFFFFF, 0x0⟩,
   ⟨"TE_TREE", 0x40, [], 0x0, 0x1FFFFFF, 0x0⟩,
   ⟨"TE_SERVO", 0x50, [], 0x2710001000008000, 0xFFFFFFFFFFFFFFFF, 0x0⟩,
   ⟨"TE_LIMITS", 0x60, [], 0x271003E8002710, 0xFFFFFFFFFFFFFF, 0x0⟩,
   ⟨"TE_NOW0", 0x70, [], 0x0, 0x0, 0x0⟩,
   ⟨"TE_NOW1", 0x80, [], 0x0, 0x0, 0x0⟩,
   ⟨"TE_OFFSET", 0x90, [], 0x0, 0x0, 0x0⟩,
   ⟨"TE_RATE", 0xA0, [], 0x0, 0x0, 0x0⟩,
   ⟨"TE_SYNTH", 0xB0, [], 0x0, 0xFFFFFFFFF, 0x0⟩,
   ⟨"TE_COUNT", 0xC0, [], 0x0, 0x0, 0x0⟩,
   ⟨"TE_ASYM_MEAS", 0x1000, [(0x10, 16)], 0x0, 0x0, 0x0⟩,
   ⟨"CLK_CFG", 0x2000, [(0x20, 8)], 0x0, 0x1FFFF, 0x0⟩,
   ⟨"SYSREF_CFG", 0x2010, [(0x20, 8)], 0x0, 0xFFFFFFFFFFFFFFFFFF, 0x0⟩,
   ⟨"LINK_ANCHOR", 0x3000, [(0x10, 64)], 0x0, 0x7FFFFFFFF, 0x0⟩]

/-- The registers of block 0x06. -/
def descsRSC : List RegDesc :=
  [⟨"RSC_INFO", 0x0, [], 0x1001401, 0x0, 0x0⟩,
   ⟨"RSC_STATUS", 0x10, [], 0x7C, 0x0, 0x0⟩,
   ⟨"RSC_EVENTS", 0x20, [], 0x0, 0x0, 0xFF⟩,
   ⟨"RSC_CFG", 0x30, [], 0x70900A0C83E81F4, 0xFFFFFFFFFFFFFFFF, 0x0⟩,
   ⟨"RSC_LO", 0x40, [], 0x0, 0x7FFFFFF, 0x0⟩,
   ⟨"RSC_LADDER0", 0x50, [], 0x12C03E801E2710, 0xFFFFFFFFFFFFFF, 0x0⟩,
   ⟨"RSC_LADDER1", 0x60, [], 0x4000000ABB80064, 0xFFFFFFFFFFFFFFF, 0x0⟩,
   ⟨"RSC_HOLD", 0x70, [], 0x38400064006403E8, 0xFFFFFFFFFFFFFFFFFF, 0x0⟩,
   ⟨"RSC_CTRL", 0x80, [], 0x0, 0x0, 0x0⟩,
   ⟨"RSC_STEP", 0x90, [], 0x0, 0x0, 0x0⟩,
   ⟨"REF_CFG", 0x1000, [(0x100, 20)], 0x0, 0xFFFFFFFFF, 0x0⟩,
   ⟨"REF_STATUS", 0x1010, [(0x100, 20)], 0x0, 0x0, 0x0⟩]

/-- The registers of block 0x07. -/
def descsHP : List RegDesc :=
  [⟨"HP_INFO", 0x0, [], 0x100040401, 0x0, 0x0⟩,
   ⟨"HP_STATUS", 0x10, [], 0x0, 0x0, 0xF0⟩,
   ⟨"HP_CFG", 0x20, [], 0x3C01000032, 0xFFFFFFFFFFFF, 0x0⟩,
   ⟨"HP_WIN", 0x100, [(0x10, 15)], 0xF00000, 0xFFFFFF, 0x0⟩,
   ⟨"HP_CMD_BASE", 0x200, [], 0x0, 0xFFFFFFFFFFFFFFC0, 0x0⟩,
   ⟨"HP_CPL_BASE", 0x210, [], 0x0, 0xFFFFFFFFFFFFFFC0, 0x0⟩,
   ⟨"HP_RINGCFG", 0x220, [], 0x0, 0x1FF, 0x0⟩,
   ⟨"HP_PTR", 0x230, [], 0x0, 0x0, 0x0⟩,
   ⟨"HP_COUNT", 0x240, [], 0x0, 0x0, 0x0⟩,
   ⟨"LAND_ADDR", 0x10000, [(0x40, 8192), (0x10, 3)], 0x0, 0x0, 0x0⟩,
   ⟨"LAND_STATE", 0x10030, [(0x40, 8192)], 0x0, 0x0, 0x0⟩]

/-- The registers of block 0x09. -/
def descsNVM : List RegDesc :=
  [⟨"NVM_INFO", 0x0, [], 0xC8201, 0x0, 0x0⟩,
   ⟨"NVM_STATUS", 0x10, [], 0xC03, 0x0, 0x0⟩,
   ⟨"NVM_EVENTS", 0x20, [], 0x0, 0x0, 0x1F⟩,
   ⟨"NVM_DEV", 0x100, [(0x10, 2)], 0x0, 0x0, 0x0⟩,
   ⟨"IMG_HDR", 0x200, [], 0x0, 0x0, 0x0⟩,
   ⟨"IMG_HASH", 0x210, [(0x10, 4)], 0x0, 0x0, 0x0⟩,
   ⟨"ARB_STATE", 0x300, [], 0x0, 0x0, 0x0⟩,
   ⟨"PROG_STATE", 0x400, [], 0x0, 0x0, 0x0⟩,
   ⟨"ALIGN_CFG", 0x410, [], 0x78003C, 0xFFFFFFFF, 0x0⟩,
   ⟨"CAL0", 0x1000, [(0x20, 256)], 0x0, 0xFFFFFFFFFFFFFFFF, 0x0⟩,
   ⟨"CAL1", 0x1010, [(0x20, 256)], 0x0, 0x1FFFFFFFFF, 0x0⟩]

/-- The registers of block 0x0A. -/
def descsRG : List RegDesc :=
  [⟨"RG_STATUS", 0x0, [], 0x0, 0x0, 0x0⟩,
   ⟨"RG_CFG", 0x10, [], 0x0, 0x1, 0x0⟩,
   ⟨"CMD_SRC", 0x1000, [(0x10, 66)], 0x0, 0xFFFFFF, 0x0⟩,
   ⟨"CLOG0", 0x10000, [(0x20, 4096)], 0x0, 0x0, 0x0⟩,
   ⟨"CLOG1", 0x10010, [(0x20, 4096)], 0x0, 0x0, 0x0⟩,
   ⟨"OPKEY", 0x40000, [(0x100, 8), (0x10, 8)], 0x0, 0xFFFFFFFFFFFFFFFFFF, 0x0⟩,
   ⟨"REPL_STATUS", 0x20, [], 0x0, 0x0, 0x0⟩,
   ⟨"REG_FAULT", 0x30, [], 0x0, 0x0, 0x0⟩]

/-- The registers of block 0x0B. -/
def descsPKC : List RegDesc :=
  [⟨"PKC_RINGS", 0x0, [], 0x0, 0xFFFFFFFFFFFFF, 0x0⟩,
   ⟨"PKC_DROP", 0x10, [], 0x0, 0x0, 0x0⟩,
   ⟨"TEL_CFG", 0x20, [], 0xA, 0xFFFF, 0x0⟩]

/-- The registers of block 0x10. -/
def descsING : List RegDesc :=
  [⟨"ING_INFO", 0x0, [], 0x8081002, 0x0, 0x0⟩,
   ⟨"ING_STATUS", 0x10, [], 0x0, 0x0, 0x0⟩,
   ⟨"ING_EVENTS", 0x20, [], 0x0, 0x0, 0x3F⟩,
   ⟨"ING_BUCKET_CFG", 0x30, [], 0x2581003E82710, 0xFFFFFFFFFFFFFF, 0x0⟩,
   ⟨"ING_TIMERS", 0x40, [], 0x2000A000A, 0xFFFFFFFFF, 0x0⟩,
   ⟨"QUAD_CFG", 0x100, [(0x10, 4)], 0xBEBC20, 0xFFFFFF, 0x0⟩,
   ⟨"LANE_CFG", 0x1000, [(0x100, 16)], 0x4, 0x3FFFF, 0x0⟩,
   ⟨"LANE_STATUS", 0x1010, [(0x100, 16)], 0x0, 0x0, 0x0⟩,
   ⟨"LANE_ERRCNT", 0x1020, [(0x100, 16)], 0x0, 0x0, 0x0⟩,
   ⟨"LANE_ALIGNCNT", 0x1030, [(0x100, 16)], 0x0, 0x0, 0x0⟩,
   ⟨"LANE_EYE", 0x1040, [(0x100, 16)], 0x0, 0x0, 0x0⟩,
   ⟨"LANE_ILAS0", 0x1050, [(0x100, 16)], 0x0, 0x0, 0x0⟩,
   ⟨"LANE_ILAS1", 0x1060, [(0x100, 16)], 0x0, 0x0, 0x0⟩,
   ⟨"LINK_CFG", 0x2000, [(0x100, 8)], 0x0, 0x1FFFFFFFFFFF, 0x0⟩,
   ⟨"LINK_CHECK", 0x2010, [(0x100, 8)], 0x1FFFF, 0x1FFFF, 0x0⟩,
   ⟨"LINK_STATUS", 0x2020, [(0x100, 8)], 0x0, 0x0, 0x0⟩,
   ⟨"LINK_LAT", 0x2030, [(0x100, 8)], 0x0, 0x0, 0x0⟩,
   ⟨"LINK_COUNT", 0x2040, [(0x100, 8)], 0x0, 0x0, 0x0⟩,
   ⟨"INPUT_MAP", 0x3000, [(0x10, 128)], 0x0, 0x1FFF, 0x0⟩]

/-- The registers of block 0x11. -/
def descsDFU : List RegDesc :=
  [⟨"DFU_INFO", 0x0, [], 0x81014480001, 0x0, 0x0⟩,
   ⟨"DFU_STATUS", 0x10, [], 0x0, 0x0, 0x0⟩,
   ⟨"DFU_EVENTS", 0x20, [], 0x0, 0x0, 0x3F⟩,
   ⟨"IN_CFG", 0x10000, [(0x100, 128)], 0x0, 0xFFFFFF7FFFFFF, 0x0⟩,
   ⟨"IN_STATUS", 0x10010, [(0x100, 128)], 0x0, 0x0, 0x0⟩,
   ⟨"IN_COUNT", 0x10020, [(0x100, 128)], 0x0, 0x0, 0x0⟩,
   ⟨"FADE_REQ", 0x10030, [(0x100, 128)], 0x0, 0xFFFFFFFFFFFFFFFF, 0x0⟩,
   ⟨"POLY_T0", 0x10040, [(0x100, 128)], 0x0, 0x3FFFFFFFFFFFFFFFFF, 0x0⟩,
   ⟨"POLY_C", 0x10050, [(0x100, 128), (0x10, 4)], 0x0, 0xFFFFFFFFFFFFFFFF, 0x0⟩,
   ⟨"PEND_T0", 0x10090, [(0x100, 128)], 0x0, 0x3FFFFFFFFFFFFFFFFF, 0x0⟩,
   ⟨"PEND_C", 0x100A0, [(0x100, 128), (0x10, 4)], 0x0, 0xFFFFFFFFFFFFFFFF, 0x0⟩,
   ⟨"POLY_CTRL", 0x100E0, [(0x100, 128)], 0x0, 0x1FFFFFFFFFFFE, 0x0⟩,
   ⟨"COEF", 0x100000000, [(0x2000, 128), (0x1000, 2), (0x10, 80)], 0x0, 0xFFFFFFFFFFFFFFFFFF, 0x0⟩,
   ⟨"INTERP", 0x200000000, [(0x10, 4096)], 0x0, 0x0, 0x0⟩,
   ⟨"DELAY_LINE", 0x400000000, [(0x40000, 128), (0x10, 16384)], 0x400010000400010000, 0x0, 0x0⟩]

/-- The registers of block 0x12. -/
def descsACU : List RegDesc :=
  [⟨"ACU_INFO", 0x0, [], 0x100C01, 0x0, 0x0⟩,
   ⟨"ACU_STATUS", 0x10, [], 0x0, 0x0, 0x0⟩,
   ⟨"ACU_EVENTS", 0x20, [], 0x0, 0x0, 0x3F⟩,
   ⟨"ACU_CFG", 0x30, [], 0x824E10, 0x1FFFFFFFF, 0x0⟩,
   ⟨"GRID_RATE", 0x40, [], 0x0, 0xFFFFFFFFFFFFFFFF, 0x0⟩,
   ⟨"GRID_T0", 0x50, [], 0x0, 0x3FFFFFFFFFFFFFFFFF, 0x0⟩,
   ⟨"JNL_REGION", 0x60, [], 0x0, 0xFFFFFFFFFFFFFFF, 0x0⟩,
   ⟨"JNL_REC", 0x70, [], 0x0, 0xFFFFFFFFFFFFFFFFF, 0x0⟩,
   ⟨"JNL_PTR", 0x80, [], 0x0, 0x0, 0x0⟩,
   ⟨"ACU_LAST", 0x90, [], 0x0, 0x0, 0x0⟩,
   ⟨"ACU_CAN", 0xA0, [], 0x0, 0x0, 0x0⟩,
   ⟨"ACU_COUNT", 0xB0, [], 0x0, 0x0, 0x0⟩,
   ⟨"ACU_RB", 0xF0, [], 0x0, 0x0, 0x0⟩,
   ⟨"VIT_MASK0", 0x1000, [(0x100, 16)], 0x0, 0x0, 0x0⟩,
   ⟨"VIT_MASK1", 0x1010, [(0x100, 16)], 0x0, 0x0, 0x0⟩,
   ⟨"VIT_FIRST", 0x1020, [(0x100, 16)], 0x0, 0x0, 0x0⟩,
   ⟨"VIT_LAST", 0x1030, [(0x100, 16)], 0x0, 0x0, 0x0⟩,
   ⟨"VIT_STATE", 0x1040, [(0x100, 16)], 0x0, 0x0, 0x0⟩,
   ⟨"DIR0", 0x100000000, [(0x20, 268435456)], 0x0, 0x0, 0x0⟩,
   ⟨"DIR1", 0x100000010, [(0x20, 268435456)], 0x0, 0x0, 0x0⟩,
   ⟨"ACU_REFUSE0", 0xC0, [], 0x0, 0x0, 0x0⟩,
   ⟨"ACU_REFUSE1", 0xD0, [], 0x0, 0x0, 0x0⟩,
   ⟨"ACU_REFUSE2", 0xE0, [], 0x0, 0x0, 0x0⟩]

/-- The registers of block 0x13. -/
def descsFC : List RegDesc :=
  [⟨"FC_INFO", 0x0, [], 0x83BB61201, 0x0, 0x0⟩,
   ⟨"FC_STATUS", 0x10, [], 0x3FF, 0x0, 0x0⟩,
   ⟨"FC_EVENTS", 0x20, [], 0x0, 0x0, 0x3F⟩,
   ⟨"CORE_CFG", 0x10000, [(0x1000, 18)], 0x0, 0x1FFFFFFFFFFFFFFF, 0x0⟩,
   ⟨"CORE_STATUS", 0x10010, [(0x1000, 18)], 0x0, 0x0, 0x0⟩,
   ⟨"CORE_POS", 0x10020, [(0x1000, 18)], 0x0, 0x0, 0x0⟩,
   ⟨"CORE_FAULT", 0x10030, [(0x1000, 18)], 0x0, 0x0, 0x0⟩]

/-- The registers of block 0x14. -/
def descsCTE : List RegDesc :=
  [⟨"CTE_INFO", 0x0, [], 0x100200100001, 0x0, 0x0⟩,
   ⟨"CTE_STATUS", 0x10, [], 0x0, 0x0, 0x0⟩,
   ⟨"CTE_EVENTS", 0x20, [], 0x0, 0x0, 0x1FF⟩,
   ⟨"CTE_CFG", 0x30, [], 0x0, 0x1FFFFFFFFFFFFFF, 0x0⟩,
   ⟨"CTE_TIMERS", 0x40, [], 0x1388006403E82710, 0xFFFFFFFFFFFFFFFF, 0x0⟩,
   ⟨"STINT_REGION", 0x50, [], 0x0, 0xFFFFFFFFFFFFFFFFFF, 0x0⟩,
   ⟨"STINT_STATE", 0x60, [], 0x0, 0x0, 0x0⟩,
   ⟨"ASM_STATUS", 0x70, [], 0x0, 0x0, 0x0⟩,
   ⟨"CTE_COUNT0", 0x80, [], 0x0, 0x0, 0x0⟩,
   ⟨"CTE_COUNT1", 0x90, [], 0x0, 0x0, 0x0⟩,
   ⟨"GROUP", 0x10000, [(0x10, 4096)], 0x0, 0xFFFFF, 0x0⟩,
   ⟨"CTE_SRC", 0x20000, [(0x10, 4096)], 0x0, 0xFFFFF, 0x0⟩,
   ⟨"SRC_IN", 0x30000, [(0x10, 4096)], 0x0, 0x3FFFFFF, 0x0⟩,
   ⟨"ROUTE", 0x100000000, [(0x10, 65536)], 0x0, 0x3FF, 0x0⟩]

/-- The registers of block 0x15. -/
def descsGWL : List RegDesc :=
  [⟨"GWL_INFO", 0x0, [], 0x8010008201, 0x0, 0x0⟩,
   ⟨"GWL_STATUS", 0x10, [], 0x0, 0x0, 0x0⟩,
   ⟨"GWL_EVENTS", 0x20, [], 0x0, 0x0, 0x1FF⟩,
   ⟨"GWL_BUCKET_CFG", 0x30, [], 0xE1008006403E8, 0xFFFFFFFFFFFFFF, 0x0⟩,
   ⟨"GWL_TIMERS", 0x40, [], 0x30A064400FA, 0xFFFFFFFFFFF, 0x0⟩,
   ⟨"GWL_CH_CFG", 0x1000, [(0x400, 2)], 0x0, 0x1FFFFFFFFFFF, 0x0⟩,
   ⟨"CH_PEER", 0x1010, [(0x400, 2)], 0x0, 0xFFFFF, 0x0⟩,
   ⟨"GWL_CH_STATUS", 0x1020, [(0x400, 2)], 0x0, 0x0, 0x0⟩,
   ⟨"CH_SEQ", 0x1030, [(0x400, 2)], 0x0, 0x0, 0x0⟩,
   ⟨"CH_VCBUF", 0x1040, [(0x400, 2)], 0x0, 0xFFFFFFFFFFFF, 0x0⟩,
   ⟨"CH_CREDIT0", 0x1050, [(0x400, 2)], 0x0, 0x0, 0x0⟩,
   ⟨"CH_CREDIT1", 0x1060, [(0x400, 2)], 0x0, 0x0, 0x0⟩,
   ⟨"CH_SLEEP", 0x1070, [(0x400, 2)], 0x0, 0x0, 0x0⟩,
   ⟨"CH_COUNT0", 0x1080, [(0x400, 2)], 0x0, 0x0, 0x0⟩,
   ⟨"CH_COUNT1", 0x1090, [(0x400, 2)], 0x0, 0x0, 0x0⟩,
   ⟨"CH_ASYM", 0x10A0, [(0x400, 2)], 0x0, 0xFFFFFFFF, 0x0⟩,
   ⟨"LN_STATUS", 0x2000, [(0x100, 8)], 0x0, 0x0, 0x0⟩,
   ⟨"LN_TAPS", 0x2010, [(0x100, 8)], 0x2340, 0x0, 0x0⟩,
   ⟨"LN_EYE", 0x2020, [(0x100, 8)], 0x0, 0x0, 0x0⟩,
   ⟨"LN_ERRCNT", 0x2030, [(0x100, 8)], 0x0, 0x0, 0x0⟩,
   ⟨"LN_LAT", 0x2040, [(0x100, 8)], 0x0, 0x0, 0x0⟩]

/-- The registers of block 0x16. -/
def descsGAL : List RegDesc :=
  [⟨"GAL_INFO", 0x0, [], 0x242A1101, 0x0, 0x0⟩,
   ⟨"GAL_STATUS", 0x10, [], 0x1F, 0x0, 0x0⟩,
   ⟨"GAL_EVENTS", 0x20, [], 0x0, 0x0, 0xFF⟩,
   ⟨"GAL_CFG", 0x30, [], 0x7D1018003C, 0xFFFFFFFFFFF, 0x0⟩,
   ⟨"GAL_GEOM", 0x40, [], 0x0, 0x3FFFFFFFFFFFF, 0x0⟩,
   ⟨"GAL_PROGRESS", 0x50, [], 0x0, 0x0, 0x0⟩,
   ⟨"GAL_COUNT", 0x60, [], 0x0, 0x0, 0x0⟩,
   ⟨"TILE_CFG", 0x10000, [(0x100, 17)], 0x0, 0x1F, 0x0⟩,
   ⟨"TILE_STATUS", 0x10010, [(0x100, 17)], 0x0, 0x0, 0x0⟩,
   ⟨"TILE_WO0", 0x10020, [(0x100, 17), (0x30, 2)], 0x0, 0x0, 0x0⟩,
   ⟨"TILE_WO1", 0x10030, [(0x100, 17), (0x30, 2)], 0x0, 0x0, 0x0⟩,
   ⟨"TILE_POS", 0x10040, [(0x100, 17), (0x30, 2)], 0x0, 0x0, 0x0⟩,
   ⟨"TILE_FAULT", 0x10080, [(0x100, 17)], 0x0, 0x0, 0x0⟩,
   ⟨"TILE_COUNT", 0x10090, [(0x100, 17)], 0x0, 0x0, 0x0⟩,
   ⟨"WT", 0x10000000, [(0x10, 65536)], 0x0, 0x7FFFFFFFFFFF, 0x0⟩,
   ⟨"CELL", 0x100000000, [(0x200000, 17), (0x100000, 2), (0x20, 17408), (0x10, 2)], 0x0, 0x0, 0x0⟩]

/-- The registers of block 0x17. -/
def descsLED : List RegDesc :=
  [⟨"LED_INFO", 0x0, [], 0x100A0301, 0x0, 0x0⟩,
   ⟨"LED_STATUS", 0x10, [], 0x0, 0x0, 0x0⟩,
   ⟨"LED_EVENTS", 0x20, [], 0x0, 0x0, 0x1FF⟩,
   ⟨"LED_CFG", 0x30, [], 0x2710, 0x1FFFF, 0x0⟩,
   ⟨"LED_REGION", 0x40, [], 0x0, 0xFFFFFFFFFFFFFFFFFF, 0x0⟩,
   ⟨"LED_GEOM", 0x50, [], 0x0, 0x1FFFFFFFFFFFFFFF, 0x0⟩,
   ⟨"LED_FLOOR", 0x60, [], 0x0, 0xFFFFFFFFFFFF, 0x0⟩,
   ⟨"LED_PROGRESS", 0x70, [], 0x0, 0x0, 0x0⟩,
   ⟨"LED_RATE", 0x80, [], 0x0, 0x0, 0x0⟩,
   ⟨"LED_COUNT0", 0x90, [], 0x0, 0x0, 0x0⟩,
   ⟨"LED_COUNT1", 0xA0, [], 0x0, 0x0, 0x0⟩,
   ⟨"LED_WIN", 0xB0, [], 0x0, 0xFFFFFF, 0x0⟩,
   ⟨"DSET_CFG", 0x1000, [(0x100, 16)], 0x0, 0x7FFFFFFFFFFFFFFF, 0x0⟩,
   ⟨"DSET_INT", 0x1010, [(0x100, 16)], 0x0, 0xFFFFFF, 0x0⟩,
   ⟨"DSET_STATE", 0x1020, [(0x100, 16)], 0x0, 0x0, 0x0⟩,
   ⟨"DSET_LAST", 0x1030, [(0x100, 16)], 0x0, 0x0, 0x0⟩,
   ⟨"CHMAP", 0x10000, [(0x10, 4096)], 0x0, 0x1FFF, 0x0⟩,
   ⟨"HDR", 0x100000000, [(0x10, 16777216)], 0x0, 0x0, 0x0⟩,
   ⟨"ENTRY", 0x200000000, [(0xC000, 65536), (0x10, 3072)], 0x0, 0x0, 0x0⟩]

/-- The registers of block 0x18. -/
def descsBE : List RegDesc :=
  [⟨"BE_INFO", 0x0, [], 0x20420640001, 0x0, 0x0⟩,
   ⟨"BE_STATUS", 0x10, [], 0x0, 0x0, 0x0⟩,
   ⟨"BE_EVENTS", 0x20, [], 0x0, 0x0, 0x3F⟩,
   ⟨"BE_CFG", 0x30, [], 0x0, 0xFFFF, 0x0⟩,
   ⟨"BE_FREQ", 0x40, [], 0x0, 0xFFFFFFFFFFFFFFFF, 0x0⟩,
   ⟨"BE_DET", 0x50, [], 0x0, 0x3FFFFFFFFF, 0x0⟩,
   ⟨"BE_LOAD", 0x60, [], 0x0, 0x0, 0x0⟩,
   ⟨"BE_COUNT", 0x70, [], 0x0, 0x0, 0x0⟩,
   ⟨"SET", 0x10000, [(0x40, 64), (0x10, 4)], 0x0, 0xFFFFFFFFFFFFFFFFFF, 0x0⟩,
   ⟨"DESC", 0x100000, [(0x100, 1024), (0x10, 9)], 0x0, 0x0, 0x0⟩,
   ⟨"PEND", 0x200000, [(0x100, 1024), (0x10, 9)], 0x0, 0xFFFFFFFFFFFFFFFFFF, 0x0⟩,
   ⟨"PEND_CTRL", 0x300000, [(0x10, 1024)], 0x0, 0x1FFFFFFFFFFFE, 0x0⟩,
   ⟨"DET_CFG0", 0x400000, [(0x40, 64)], 0x0, 0xFFFFFFFFFFFFFFFFF, 0x0⟩,
   ⟨"DET_CFG1", 0x400010, [(0x40, 64)], 0x0, 0xFFFFFFFFF, 0x0⟩,
   ⟨"DET_STAT0", 0x400020, [(0x40, 64)], 0x0, 0x0, 0x0⟩,
   ⟨"DET_STAT1", 0x400030, [(0x40, 64)], 0x0, 0x0, 0x0⟩,
   ⟨"GRP_CFG", 0x500000, [(0x40, 16)], 0x0, 0x1FFFFFFFFFFFFF, 0x0⟩,
   ⟨"GRP_VIT", 0x500010, [(0x40, 16)], 0x0, 0xFFFFFFFFFFFFFFFF, 0x0⟩,
   ⟨"GRP_STATE", 0x500020, [(0x40, 16)], 0x0, 0x0, 0x0⟩,
   ⟨"GEOM0", 0x100000000, [(0x30, 65536)], 0x0, 0xFFFFFFFFFFFFFFFF, 0x0⟩,
   ⟨"GEOM1", 0x100000010, [(0x30, 65536)], 0x0, 0xFFFFFFFFFFFFFFFF, 0x0⟩,
   ⟨"GAIN", 0x100000020, [(0x30, 65536)], 0x0, 0xFFFFFFFF, 0x0⟩]

/-- The registers of block 0x19. -/
def descsDRC : List RegDesc :=
  [⟨"DRC_INFO", 0x0, [], 0x401900201, 0x0, 0x0⟩,
   ⟨"DRC_STATUS", 0x10, [], 0x0, 0x0, 0x0⟩,
   ⟨"DRC_EVENTS", 0x20, [], 0x0, 0x0, 0x7F⟩,
   ⟨"DRC_QOS", 0x30, [], 0x1194B, 0x1FFFF, 0x0⟩,
   ⟨"DRC_MAINT", 0x40, [], 0x1E0C0A, 0x7FFFFF9F, 0x0⟩,
   ⟨"DRC_COUNT", 0x50, [], 0x0, 0x0, 0x0⟩,
   ⟨"DRC_CH_CFG", 0x10000, [(0x1000, 2)], 0x0, 0x1FFFF, 0x0⟩,
   ⟨"DRC_CH_STATUS", 0x10010, [(0x1000, 2)], 0xFF00000, 0x0, 0x0⟩,
   ⟨"DRC_CH_ERR", 0x10100, [(0x1000, 2), (0x100, 2), (0x10, 10)], 0x0, 0x0, 0x0⟩]

/-- The registers of block 0x1A. -/
def descsFAB : List RegDesc :=
  [⟨"FAB_INFO", 0x0, [], 0x1119A01, 0x0, 0x0⟩,
   ⟨"FAB_STATUS", 0x10, [], 0x1, 0x0, 0x0⟩,
   ⟨"FAB_EVENTS", 0x20, [], 0x0, 0x0, 0x3⟩,
   ⟨"FAB_CFG", 0x30, [], 0x1000, 0xFFFF, 0x0⟩,
   ⟨"FAB_COUNT", 0x40, [], 0x0, 0x0, 0x0⟩,
   ⟨"PRIO", 0x1000, [(0x10, 26)], 0x0, 0xFFFFFFFFFFFF, 0x0⟩,
   ⟨"SLICE", 0x2000, [(0x10, 26)], 0x0, 0xFFFFFF, 0x0⟩,
   ⟨"TGT", 0x3000, [(0x10, 12)], 0x0, 0x1F, 0x0⟩]

/-- The registers of block 0x1B. -/
def descsDMA : List RegDesc :=
  [⟨"DMA_INFO", 0x0, [], 0x90201, 0x0, 0x0⟩,
   ⟨"DMA_STATUS", 0x10, [], 0x3FF, 0x0, 0x0⟩,
   ⟨"DMA_EVENTS", 0x20, [], 0x0, 0x0, 0x1F⟩,
   ⟨"DMA_CFG", 0x30, [], 0x3E8, 0xFFFF, 0x0⟩,
   ⟨"DMA_CH_CFG", 0x10000, [(0x1000, 2), (0x100, 16)], 0x0, 0x7FFFFFFFFFFFFF, 0x0⟩,
   ⟨"DMA_CH_STATE", 0x10010, [(0x1000, 2), (0x100, 16)], 0x0, 0x0, 0x0⟩,
   ⟨"DMA_CH_POS", 0x10020, [(0x1000, 2), (0x100, 16)], 0x0, 0x0, 0x0⟩,
   ⟨"DMA_CH_DOORBELL", 0x10030, [(0x1000, 2), (0x100, 16)], 0x0, 0x1, 0x0⟩]

/-- The registers of block 0x1C. -/
def descsCSV : List RegDesc :=
  [⟨"CSV_INFO", 0x0, [], 0x1D4B01, 0x0, 0x0⟩,
   ⟨"CSV_STATUS", 0x10, [], 0x0, 0x0, 0x0⟩,
   ⟨"CSV_EVENTS", 0x20, [], 0x0, 0x0, 0xFF⟩,
   ⟨"CSV_CFG", 0x30, [], 0x818190A0E1005A05A, 0xFFFFFFFFFFFFFFFFFF, 0x0⟩,
   ⟨"CSV_PROJ", 0x40, [], 0xFFFF, 0x0, 0x0⟩,
   ⟨"ITEM_CFG", 0x1000, [(0x20, 90)], 0x0, 0xFFFF00000, 0x0⟩,
   ⟨"ITEM_STATE", 0x1010, [(0x20, 90)], 0x0, 0x0, 0x0⟩,
   ⟨"MON", 0x4000, [(0x20, 30)], 0x3FFFC000000000, 0x0, 0x0⟩,
   ⟨"MON_BASE", 0x4010, [(0x20, 30)], 0x0, 0x0, 0x0⟩]

/-- The registers of block 0x1D. -/
def descsPMON : List RegDesc :=
  [⟨"PMON_INFO", 0x0, [], 0x2584001, 0x0, 0x0⟩,
   ⟨"PMON_STATUS", 0x10, [], 0x0, 0x0, 0x0⟩,
   ⟨"PMON_EVENTS", 0x20, [], 0x0, 0x0, 0x3⟩,
   ⟨"PMON_SEL", 0x1000, [(0x10, 64)], 0x3E000, 0x3FFFF, 0x0⟩,
   ⟨"PMON_CTR", 0x2000, [(0x10, 64)], 0x0, 0x0, 0x1000000000000⟩,
   ⟨"TD", 0x3000, [(0x40, 18), (0x10, 4)], 0x0, 0x0, 0x0⟩]

/-- The registers of block 0x1E. -/
def descsFLT : List RegDesc :=
  [⟨"FLT_INFO", 0x0, [], 0x1, 0x0, 0x0⟩,
   ⟨"FLT_STATUS", 0x10, [], 0x18, 0x0, 0x0⟩,
   ⟨"FLT_EVENTS", 0x20, [], 0x0, 0x0, 0x7F⟩,
   ⟨"FLT_LIMITS", 0x30, [], 0xA80E104002D002, 0x0, 0x0⟩,
   ⟨"FLT_LIMITS2", 0x40, [], 0x103C003C10001804, 0x0, 0x0⟩,
   ⟨"NARROW0", 0x50, [], 0x0, 0x0, 0x0⟩,
   ⟨"NARROW1", 0x60, [], 0x0, 0x0, 0x0⟩,
   ⟨"UNIT_BKT", 0x1000, [(0x10, 76)], 0x0, 0x0, 0x0⟩]

/-- The registers of block 0x1F. -/
def descsPR : List RegDesc :=
  [⟨"PR_INFO", 0x0, [], 0x840001, 0x0, 0x0⟩,
   ⟨"PR_STATUS", 0x10, [], 0x0, 0x0, 0x0⟩,
   ⟨"PR_EVENTS", 0x20, [], 0x0, 0x0, 0xFF⟩,
   ⟨"PR_CFG", 0x30, [], 0x7D0000, 0x1FFFFFFF, 0x0⟩,
   ⟨"RES_REGION", 0x40, [], 0x0, 0xFFFFFFFFFFFFF, 0x0⟩,
   ⟨"RES_LIMIT", 0x50, [], 0x0, 0xFFFFFFFF, 0x0⟩,
   ⟨"PR_COUNT0", 0x60, [], 0x0, 0x0, 0x0⟩,
   ⟨"PR_COUNT1", 0x70, [], 0x0, 0x0, 0x0⟩,
   ⟨"RING_CFG", 0x10000, [(0x100, 1024)], 0x0, 0x3FFFFFF, 0x0⟩,
   ⟨"RING_REGION", 0x10010, [(0x100, 1024)], 0x0, 0xFFFFFFFFFFFFFFFFFF, 0x0⟩,
   ⟨"RING_TGT", 0x10020, [(0x100, 1024)], 0x0, 0x3FFFFFFFFFFFFF, 0x0⟩,
   ⟨"RING_T0", 0x10040, [(0x100, 1024)], 0x0, 0x0, 0x0⟩,
   ⟨"RING_T1", 0x10050, [(0x100, 1024)], 0x0, 0x0, 0x0⟩,
   ⟨"RING_CTL", 0x100000, [(0x100, 1024), (0x10, 16)], 0x0, 0x0, 0x0⟩]

/-- The register table of a block by its code (HPA and HPB share one layout). -/
def blockDescs (b : Nat) : List RegDesc :=
  match b with
  | 0x00 => descsCAT
  | 0x02 => descsPWR
  | 0x03 => descsAOI
  | 0x04 => descsSEC
  | 0x05 => descsTE
  | 0x06 => descsRSC
  | 0x07 => descsHP
  | 0x08 => descsHP
  | 0x09 => descsNVM
  | 0x0A => descsRG
  | 0x0B => descsPKC
  | 0x10 => descsING
  | 0x11 => descsDFU
  | 0x12 => descsACU
  | 0x13 => descsFC
  | 0x14 => descsCTE
  | 0x15 => descsGWL
  | 0x16 => descsGAL
  | 0x17 => descsLED
  | 0x18 => descsBE
  | 0x19 => descsDRC
  | 0x1A => descsFAB
  | 0x1B => descsDMA
  | 0x1C => descsCSV
  | 0x1D => descsPMON
  | 0x1E => descsFLT
  | 0x1F => descsPR
  | _ => []

end Sys2Proof.Machine
end

