-- ==== Sys2Proof/Machine/Store.lean ====
section
/-! DEFINITION. A sparse store in one canonical form: entries sorted by strictly rising key, none equal to what an
unlisted key reads as. What an unlisted key reads as is an argument of every operation (never a field of the state). -/

namespace Sys2Proof.Machine

/-- Entries by key. -/
abbrev Store (α : Type) := List (Nat × α)

variable {α : Type}

/-- The value at key `k`. -/
def Store.get (dflt : Nat → α) : Store α → Nat → α
  | [], k => dflt k
  | (a, x) :: r, k => if a = k then x else Store.get dflt r k

/-- The entry inserted before the first greater key. -/
def Store.ins : Store α → Nat → α → Store α
  | [], k, v => [(k, v)]
  | (a, x) :: r, k, v => if k < a then (k, v) :: (a, x) :: r else (a, x) :: Store.ins r k v

/-- The store without key `k`. -/
def Store.del : Store α → Nat → Store α
  | [], _ => []
  | (a, x) :: r, k => if a = k then Store.del r k else (a, x) :: Store.del r k

/-- The store with `v` at key `k`; writing what an unlisted key reads as removes the entry. -/
def Store.put [DecidableEq α] (dflt : Nat → α) (m : Store α) (k : Nat) (v : α) : Store α :=
  if v = dflt k then Store.del m k else Store.ins (Store.del m k) k v

/-- Every key of `m` is above `b`, the keys rise strictly, and no entry equals its default. -/
def Store.wfFrom [DecidableEq α] (dflt : Nat → α) : Store α → Bool
  | [] => true
  | (a, x) :: r => decide (x ≠ dflt a) && (r.all fun e => decide (a < e.1)) && Store.wfFrom dflt r

/-- The canonical form. -/
abbrev Store.wf [DecidableEq α] (dflt : Nat → α) (m : Store α) : Prop := Store.wfFrom dflt m = true

/-- Consecutive writes from key `k` on. -/
def Store.putList [DecidableEq α] (dflt : Nat → α) (m : Store α) (k : Nat) : List α → Store α
  | [] => m
  | v :: vs => Store.putList dflt (Store.put dflt m k v) (k + 1) vs

/-- `n` consecutive values from key `k` on. -/
def Store.getList (dflt : Nat → α) (m : Store α) (k : Nat) : Nat → List α
  | 0 => []
  | n + 1 => Store.get dflt m k :: Store.getList dflt m (k + 1) n

/-- The entries whose keys meet `p`. -/
def Store.keep (m : Store α) (p : Nat → Bool) : Store α := m.filter fun e => p e.1

end Sys2Proof.Machine
end

