-- ==== Sys2Proof/Machine/RegMap.lean ====
section
/-! DEFINITION. What a state-map slot reads at reset (R9, R12, R13), slot by slot, and which of its bits a write reaches. -/

namespace Sys2Proof.Machine

/-- The parts of a state address (R12): die code, block code and offset. -/
def addrDie (a : Nat) : Nat := bitsOf a 44 4
def addrBlock (a : Nat) : Nat := bitsOf a 36 8
def addrOff (a : Nat) : Nat := bitsOf a 0 36

/-- The indices of offset rest `r` in the dimensions of a register; none when the offset falls beside its slots. -/
def dimIndex : Nat → List (Nat × Nat) → Option (List Nat)
  | r, [] => if r = 0 then some [] else none
  | r, (st, n) :: ds =>
    if r / st < n then (dimIndex (r % st) ds).map (r / st :: ·) else none

/-- The register of a list at an offset, with its indices. -/
def findDesc : List RegDesc → Nat → Option (RegDesc × List Nat)
  | [], _ => none
  | q :: qs, o =>
    if q.off ≤ o then
      match dimIndex (o - q.off) q.dims with
      | some ix => some (q, ix)
      | none => findDesc qs o
    else findDesc qs o

/-- Keeper blocks with an assigned code (R13). -/
def keeperBlocks : List Nat := [0x00, 0x01, 0x02, 0x03, 0x04, 0x05, 0x06, 0x07, 0x08, 0x09, 0x0A, 0x0B, 0x0C]

/-- Span-die blocks (R13). -/
def spanBlocks : List Nat := (List.range 16).map (· + 0x10)

/-- The address names a block of the part (R13). -/
def assigned (p : Part) (a : Nat) : Bool :=
  if addrDie a = 15 then keeperBlocks.contains (addrBlock a)
  else decide (addrDie a < p.dies) && spanBlocks.contains (addrBlock a)

/-- KDMA's registers lie in the PKF block from this offset, in the layout of DMA engine 0. -/
def kdmaBase : Nat := 0x100000000

/-- The register at an address: the block's table, KDMA's being that of the DMA block. -/
def slotDesc (p : Part) (a : Nat) : Option (RegDesc × List Nat) :=
  if a % 16 = 0 ∧ assigned p a = true then
    if addrDie a = 15 ∧ addrBlock a = 0x0C then
      if kdmaBase ≤ addrOff a then findDesc descsDMA (addrOff a - kdmaBase) else none
    else if addrDie a = 15 ∧ addrBlock a = 0x01 then none
    else findDesc (blockDescs (addrBlock a)) (addrOff a)
  else none

/-- The catalogue's entries in order: keeper blocks, then each span die's blocks. -/
def catList (p : Part) : List (Nat × Nat) :=
  keeperBlocks.map (15, ·) ++ (List.range p.dies).flatMap fun d => spanBlocks.map (d, ·)

/-- The VERSION of a block: that of its INFO register (its first register). Blocks whose first register holds no VERSION
field read 0 (the spec gives them none). -/
def blockVersion (b : Nat) : Nat :=
  match blockDescs b with
  | q :: _ => if b = 0x00 ∨ b = 0x03 ∨ b = 0x0A ∨ b = 0x0B then 0 else q.reset % 256
  | [] => 0

/-- The catalogue header of a part. -/
def catHdr (p : Part) : Nat :=
  0x54434E5A + p.dies * 2 ^ 32 + (catList p).length * 2 ^ 36 + (2 ^ p.dies - 1) * 2 ^ 48

/-- Catalogue entry n. -/
def catEntry (p : Part) (n : Nat) : Nat :=
  match (catList p)[n]? with
  | some (d, b) => d + b * 2 ^ 4 + blockVersion b * 2 ^ 12 + Config.catSizeLog2 b % 64 * 2 ^ 20
  | none => 0

/-- The default action of AOI comparator k (R526). -/
def cmpDefault (k : Nat) : Nat := [2, 2, 0, 0, 1, 1, 1, 3].getD k 0

/-- The default interval of a conservator item in seconds, 0 for those calibrated at lock (R559). -/
def itemInterval (n : Nat) : Nat :=
  if (41 ≤ n ∧ n ≤ 46) ∨ n = 80 ∨ n = 81 then 0
  else if (1 ≤ n ∧ n ≤ 8) ∨ (76 ≤ n ∧ n ≤ 79) then 600
  else if (9 ≤ n ∧ n ≤ 32) ∨ (82 ≤ n ∧ n ≤ 85) then 60
  else 3600

/-- The trim bits of a conservator item (R559). -/
def itemBits (n : Nat) : Nat :=
  if (9 ≤ n ∧ n ≤ 40) ∨ 82 ≤ n then 6 else if (41 ≤ n ∧ n ≤ 46) ∨ n = 80 ∨ n = 81 then 7 else 8

/-- The reset value of a slot. -/
def regReset (p : Part) (a : Nat) : Word :=
  match slotDesc p a with
  | none => 0
  | some (q, ix) =>
    if q.name = "CAT_HDR" then BitVec.ofNat 72 (catHdr p)
    else if q.name = "CAT_ENTRY" then BitVec.ofNat 72 (catEntry p (ix.getD 0 0))
    else if q.name = "AOI_CMP" then BitVec.ofNat 72 (cmpDefault (ix.getD 0 0))
    else if q.name = "MON_BASE" then Config.factoryWord a
    else if q.name = "LN_LAT" then (Config.factoryWord a).upd 48 24 0
    else if q.name = "ITEM_CFG" then
      BitVec.ofNat 72 ((Config.factoryWord a).bits 0 20 + itemInterval (ix.getD 0 0) * 2 ^ 20 + itemBits (ix.getD 0 0) * 2 ^ 36)
    else if q.name = "ITEM_STATE" then BitVec.ofNat 72 ((Config.factoryWord a).bits 0 8)
    else if q.name = "CERT" then (packOctets 114 (Config.deviceCert.take 1024)).getD (ix.getD 0 0) 0
    else if q.name = "INTERP" then Config.interpWord (ix.getD 0 0)
    else if q.name = "TILE_CFG" ∧ ix = [16] then 0x20
    else if q.name = "HP_WIN" ∧ ix = [0] then 0xF00000
    else if q.name = "CSV_INFO" ∧ addrDie a = 0 then 0x1E5A01
    else BitVec.ofNat 72 q.reset

/-- The bits of a slot that a whole-slot write sets: its RW and WS fields (R9). Slots of the identity block have no table:
the image may write them whole. -/
def setMask (p : Part) (a : Nat) : Nat :=
  if a % 16 = 0 ∧ addrDie a = 15 ∧ addrBlock a = 0x01 then 2 ^ 72 - 1
  else match slotDesc p a with
    | some (q, _) => q.setBits
    | none => 0

/-- The bits of a slot that a write of 1 clears: its W1C fields (R9). -/
def clrMask (p : Part) (a : Nat) : Nat :=
  match slotDesc p a with
  | some (q, _) => q.clrBits
  | none => 0

end Sys2Proof.Machine
end

