-- ==== Sys2Proof/Machine/State.lean ====
section
/-! DEFINITION. The state of the block: plain data. Every value that a state-map register shows has its one home in
`regs`, by slot address (R12); the structures below hold what the registers do not show. -/

namespace Sys2Proof.Machine

/-- Raised by no meaning: every event of the spec has an effect or leaves the state as it was (log entry 5). Safe. -/
inductive Fault where
  /-- A stop that the model never takes. -/
  | stuck
deriving DecidableEq, Repr

/-- Why a command has no meaning in the model. -/
inductive Refusal where
  /-- Raised by a dispatch arm of a command without a meaning yet. Safe. -/
  | notModelled (mnemonic : String)
deriving DecidableEq, Repr

/-- What leaves the block, in order: writes into host memory (R447 to R458), answers to a host's reads of the state map, the
identity of a port's PCIe function (vendor, device, class code; R440), message-signalled interrupts, Griwano packets, link-control blocks and ordered sets, and pulses on pins. What a chain sends is named (`packet`, `lcb`, `aos`, `tos`,
`sleep`, `wake`) and then given as it goes on the line: `line` by lane and ten-bit group, `fill` as so many COM of the
stream. Clock and SYSREF outputs are given by where their edges lie, `start + n · num / den` in units of device time. -/
inductive Output where
  | hostWrite (port addr : Nat) (octets : List Nat)
  | hostRead (port addr : Nat) (octets : List Nat)
  | pcie (port vendor device cls : Nat)
  | msix (port vec : Nat)
  | packet (chain : Nat) (p : Pkt)
  | lcb (chain : Nat) (l : Lcb)
  | aos (chain mc : Nat)
  | tos (chain lane : Nat) (t : Tos)
  | sleep (chain level : Nat)
  | wake (chain : Nat)
  | line (chain : Nat) (groups : List (Nat × Nat))
  | fill (chain n : Nat)
  | burst (out : Nat) (times : List Nat)
  | clock (out start num den : Nat)
  | sysref (out start num den : Nat)
  | pps (sec : Nat)
  | flashReset (dev us : Nat)
  | railOn (rail mv : Nat)
  | railOff (rail : Nat)
  | jtag (scope secs : Nat)
  | device (die engine chan : Nat) (words : List Word)
deriving DecidableEq, Repr

/-! ### Events and products (chapters 13 and 20) -/

/-- An event waiting in the keeper's queue (R364, R556). `pay` is the payload of BEAM_TRIGGER (R335); else it is empty. -/
structure Evt where
  code : Nat
  die : Nat
  kind : Nat
  unit : Nat
  argA : Nat
  argB : Nat
  time : Nat
  flags : Nat
  canNext : Nat
  pay : List Word
deriving DecidableEq, Repr

/-- Which producer offered a waiting unit, so that it learns of the commit. -/
inductive UnitSrc where
  | dump (die dset si block : Nat)
  | volt (die desc folio : Nat)
  | vitrine (die v folio : Nat) (last : Bool)
  | service
  | reply (cmd : CmdHdr)
deriving DecidableEq, Repr

/-- A product that waits for its ring (R352): the header's fields, the key of R354 and the payload. -/
structure PUnit where
  typ : Nat
  ring : Nat
  code : Nat
  flags : Nat
  start : Nat
  canFirst : Nat
  canCnt : Nat
  keyA : Nat
  keyB : Nat
  payload : List Word
  src : UnitSrc
deriving DecidableEq, Repr

/-- A committed product that its ring holds: sequence, type, span words in all, and where it lies (`res`: in the ring's
reserve extents; `pos`: offset there or in the ring region). -/
structure RProd where
  seq : Nat
  typ : Nat
  len : Nat
  res : Bool
  pos : Nat
deriving DecidableEq, Repr

/-- What the packer holds of a ring beside its control record: the products not yet freed, per target the sequences
acknowledged and sent (as counts from 0) and the time ACKED last advanced, the extents taken (R361), the products committed
since the last SEAL trigger, the first sequence that trigger left uncovered, its time, the sequences for which a VOID was
sent (R547), whether RING_ORPHAN was emitted, the FMT of the mark of a vitrine
ring (R354), and whether sequence 2^48 - 1 is committed (R348). -/
structure RingSt where
  prods : List RProd
  nAck0 : Nat
  nAck1 : Nat
  nSent0 : Nat
  nSent1 : Nat
  adv0 : Nat
  adv1 : Nat
  exts : List Nat
  resWr : Nat
  sinceTrig : Nat
  trigNext : Nat
  sealTime : Nat
  voided : List Nat
  orphan : Bool
  markFmt : Nat
  full : Bool
deriving DecidableEq, Repr

def RingSt.reset : RingSt := ⟨[], 0, 0, 0, 0, 0, 0, [], 0, 0, 0, 0, [], false, 0, false⟩

/-! ### Host ports and registrar (chapter 16) -/

/-- A completion (R458). -/
structure Cpl where
  tag : Nat
  code : Nat
  opcode : Nat
  grain : Nat
  result : Nat
  seq : Nat
deriving DecidableEq, Repr

/-- What a host port keeps beside its registers: CPL_HEAD, CMD_TAIL as last accepted, completions waiting, vectors in
holdoff and those of them with a merged event. -/
structure PortSt where
  cplHead : Nat
  cmdTail : Nat
  waiting : List Cpl
  holdoff : List Nat
  merged : List Nat
deriving DecidableEq, Repr

def PortSt.reset : PortSt := ⟨0, 0, [], [], []⟩

/-- WRITTEN and CONSUMED of a landing ring (R448), and whether LAND_DROP stopped its writes. -/
structure LandSt where
  written : Nat
  consumed : Nat
  stopped : Bool
deriving DecidableEq, Repr

def LandSt.reset : LandSt := ⟨0, 0, false⟩

/-- A command that passed the checks of R462 and waits for its grain: arguments and extra arguments as octets, arrival
number and source rank. -/
structure PCmd where
  hdr : CmdHdr
  rank : Nat
  arrival : Nat
  args : List Nat
  ext : List Nat
deriving DecidableEq, Repr

/-- A command that executes over more than one step and completes later. -/
inductive RunKind where
  | dump (dset : Nat) (dies : List Nat)
  | progStart (prog : Nat) (calendar : Bool)
  | progStop
  | asymCal (chain : Nat)
  | imageUpdate (dev : Nat)
deriving DecidableEq, Repr

/-- A command under way, with its header. -/
structure Running where
  hdr : CmdHdr
  kind : RunKind
deriving DecidableEq, Repr

/-- The registrar pairs: the commands that wait for their grain, arrivals counted, the last grain executed, commands under way,
whether a failover runs, per pair the failed self-tests in a row and whether the last passed, whether a preferred pair comes
back, and whether RES_LIMIT holds acceptance (R362). -/
structure RgSt where
  pend : List PCmd
  arrivals : Nat
  gDone : Nat
  running : List Running
  failover : Bool
  testFailsA : Nat
  testFailsB : Nat
  passedA : Bool
  passedB : Bool
  returning : Bool
  holdAcc : Bool
deriving DecidableEq, Repr

def RgSt.reset : RgSt := ⟨[], 0, 0, [], false, 0, 0, true, true, false, false⟩

/-! ### Security (chapter 18) -/

/-- A request in the SEC's queue, in trigger order (R369, R508). -/
inductive SecReq where
  | sealRing (ring first last : Nat) (chain : List Nat)
  | attest (nonce : List Nat) (cmd : Option CmdHdr)
deriving DecidableEq, Repr

/-- The SEC: fuses (owner slots in order, SVN fuses burned, STORE_INIT, DEBUG_LOCK), the key store and seal certificate,
the running image's key, the request queue, DRBG use, the unlock's end, and whether a new challenge waits for a reseed. -/
structure SecSt where
  slots : List (List Nat)
  svn : Nat
  storeInit : Bool
  debugLock : Bool
  sealKey : Option Nat
  sealCert : List Nat
  imageKey : List Nat
  pendOwner : Option (List Nat)
  queue : List SecReq
  drbg : Nat
  waitReseed : Bool
  unlockEnd : Nat
  chalDue : Bool
deriving DecidableEq, Repr

def SecSt.reset : SecSt := ⟨[], 0, false, false, none, [], [], none, [], 0, false, 0, false⟩

/-! ### Configuration image and start-up (chapter 17) -/

/-- One programme section as copied to a die's programme store (R483). -/
structure ProgSec where
  prog : Nat
  sect : Nat
  die : Nat
  writes : List (Nat × Word)
  hash : List Nat
deriving DecidableEq, Repr

/-- Why a start stopped in MUSTER (R516). -/
inductive MusterStop where
  | none
  | epoch
  | store
  | trng
deriving DecidableEq, Repr

/-- The checkpoint's record of R27, R109, R135, R464, R485: what the registrar needs to resume. `replay`, `heads` and `sent` are
each die's replay point, journal head and next folio to send, `fades` the running fades (die, input, length, position), `acks` the
PANs acknowledged by ring. -/
structure Ckpt where
  imageHash : List Nat
  prog : Nat
  suspended : Nat
  gDone : Nat
  replay : List Nat
  time : Nat
  heads : List Nat
  sent : List Nat
  fades : List (Nat × Nat × Nat × Nat)
  acks : List (Nat × Nat × Nat)
deriving DecidableEq, Repr

/-- Start-up state beside the NVM registers: the epoch, the stop, an update under way, which images passed pass 1, the
programme store, the checkpoint, whether the first OBSERVE entry is due, whether a programme runs, the programme a switch goes to, when
ALIGN began, whether MUSTER's steps are done, the calendar occurrences executed, whether a programme
fault stops the programme, whether a switch drains, whether the stopped programme's state is still in place, how the running
programme begins at the next interval (1 first start, 2 resumption), the programmes started in this epoch, and the header and
any error of an update under way. -/
structure NvmSt where
  epoch : Nat
  nextCan : Nat
  stop : MusterStop
  updating : Option Nat
  passA : Bool
  passB : Bool
  store : List ProgSec
  ckpt : Option Ckpt
  firstObs : Bool
  progOn : Bool
  switchTo : Option Nat
  alignStart : Nat
  musterDone : Bool
  calDone : List (Nat × Nat)
  stopDue : Bool
  switching : Bool
  suspended : Bool
  begins : Nat
  started : List Nat
  updHdr : List Nat
  updBad : Bool
  /-- The device number that the IDENT section gives (R249). -/
  ident : Nat
deriving DecidableEq, Repr

def NvmSt.reset : NvmSt :=
  ⟨0, 0, .none, none, false, false, [], none, false, false, none, 0, false, [], false, false, false, 0, [], [], false, 0⟩

/-! ### References and device time (chapter 14) -/

/-- What the RSC keeps of a reference: monitors good, whole seconds of unbroken qualification, and whether the count
stopped for want of LO_IN (R377). -/
structure RefSt where
  active : Bool
  qual : Nat
  paused : Bool
deriving DecidableEq, Repr

def RefSt.reset : RefSt := ⟨false, 0, false⟩

/-- One second of the control history (R385). -/
structure HistSec where
  sec : Nat
  c : Int
  locked : Bool
deriving DecidableEq, Repr

/-- The RSC beside its registers: references, the control history with the setting of the running second and that of holdover
(R385 to R387), LO_IN's activity and since when, the reference of a switch under way, the last switch, the entry into
holdover, and whether the whole running second was locked. -/
structure RscSt where
  refs : Store RefSt
  hist : List HistSec
  cur : Int
  hold : Int
  loActive : Bool
  loSince : Nat
  target : Option Nat
  lastSwitch : Nat
  hoEntry : Nat
  secLocked : Bool
deriving DecidableEq, Repr

def RscSt.reset : RscSt := ⟨[], [], 0, 0, false, 0, none, 0, 0, false⟩

/-- A Sync's arrival and its `a` (R397). -/
structure SyncRec where
  t2 : Int
  a : Int
deriving DecidableEq, Repr

/-- An asymmetry calibration under way (R401): messages asked for, still to be sent and received, and the sum of their measured
delays in ps. -/
structure CalSt where
  chain : Nat
  n : Nat
  left : Nat
  got : Nat
  sum : Int
deriving DecidableEq, Repr

/-- The TE beside its registers: whether time was set, and stepped by a Sync; the servo's integral I, rate y and lock count
(R398, R399); recent Syncs, the last Delay_Req's departure and the mean path delay (R397); the requester table (R396);
ALIGN_T (R403), a SET_TIME that waits for its PPS (R391); the last Sync, the entry into TIME_HOLD, whether the alternate
chain leads; sequence numbers of Delay_Req and Sync; and calibrations under way (R401). -/
structure TeSt where
  timeSet : Bool
  stepped : Bool
  i : Int
  y : Int
  cnt : Nat
  syncs : List SyncRec
  t3 : Option Int
  mpd : Option Int
  table : Store Nat
  alignT : Option Nat
  setTime : Option (Nat × Nat)
  lastSync : Nat
  holdSince : Nat
  onAlt : Bool
  dreq : Nat
  sync : Nat
  cal : List CalSt
deriving DecidableEq, Repr

def TeSt.reset : TeSt := ⟨false, false, 0, 0, 0, [], none, none, [], none, none, 0, 0, false, 0, 0, []⟩

/-! ### Power (chapter 19) -/

/-- A sequencer request (R524): island, target voltage in mV and frequency in MHz, its point, and whether the thermal
governor asked. -/
structure SeqReq where
  isl : Nat
  mv : Nat
  mhz : Nat
  op : Nat
  governor : Bool
deriving DecidableEq, Repr

/-- The wake in progress (R529, R530): attempts so far, the next rail (8: the oscillator), and whether a retry waits. -/
structure WakeSt where
  attempt : Nat
  rail : Nat
  waiting : Bool
  fromRetain : Bool
  porst : Bool
deriving DecidableEq, Repr

/-- Power control: sequencer requests in order, raises that wait for the governor, the wake in progress, the governor's depth,
comparators held while TEMP blocks wakes, that block, the levels of PWRDN_N and PORST_N, whether VDD_AO is up, the entry into
RETAIN, whether RETAIN is being entered, and whether the DRAM is in self-refresh. -/
structure PwrSt where
  seqQ : List SeqReq
  raises : List SeqReq
  wake : Option WakeSt
  throttle : Nat
  held : List Nat
  tempBlock : Bool
  pwrdnLow : Bool
  porstLow : Bool
  powered : Bool
  retainEntry : Nat
  retaining : Bool
  dramSr : Bool
deriving DecidableEq, Repr

def PwrSt.reset : PwrSt := ⟨[], [], none, 0, [], false, false, false, false, 0, false, false⟩

/-! ### Faults (chapter 20) -/

/-- A fault whose work has not been taken up again (R27, R538). -/
structure OpenFault where
  die : Nat
  kind : Nat
  unit : Nat
  code : Nat
deriving DecidableEq, Repr

/-- Fault handling beside the fault registers: open faults, dies in overlap with the first end of its range (R615), the
conditions of R554 that hold (code, die), the causes of replacement advised (event code, die), the deaccessioned units, the
lost dies, units waiting to rejoin at a switch, program faults seen (R543), logical tiles retired
with the short integration from which (R550), the lost dies whose partner runs their work (R31), the dies lost already at
the last start, and those for which DIE_LOST went out (R615). -/
structure FltSt where
  opened : List OpenFault
  overlap : List (Nat × Nat)
  conds : List (Nat × Nat)
  advised : List (Nat × Nat)
  dead : List UnitId
  lost : List Nat
  rejoin : List UnitId
  progFaults : List (Nat × Nat × Nat × Nat)
  retired : List (Nat × Nat × Nat)
  hosted : List Nat
  absent : List Nat
  told : List Nat
deriving DecidableEq, Repr

def FltSt.reset : FltSt := ⟨[], [], [], [], [], [], [], [], [], [], [], []⟩

/-- A packet on its way round the package ring (R20, R21, R251): where it came from, where it is and where it goes (0 the keeper
die, d + 1 span die d), whether it goes the ascending way, and the chain it leaves by on arrival. -/
structure PkfPkt where
  src : Nat
  pos : Nat
  dest : Nat
  up : Bool
  egress : Option Nat
  pkt : Pkt
deriving DecidableEq, Repr

/-- The package fabric: per hop the retry bucket, the packets on their way in the order sent, and packets held for want of a
usable chain with the die that holds them (8: the keeper) and whether this device originated them. -/
structure PkfSt where
  bkt : Store Nat
  transit : List PkfPkt
  queue : List (Nat × Bool × Pkt)
deriving DecidableEq, Repr

def PkfSt.reset : PkfSt := ⟨[], [], []⟩

/-! ### Griwano chains (chapter 8) -/

/-- The training of one lane (R203 to R205): the receiver's place in the search (phase 0 a tap begins, 1 after a request,
2 after its undo), the tap (0 post, 1 pre, 2 main), direction (0 raise, 1 lower), requests made, best metric, the request
out with its RSEQ and the status that came back; the last request applied to this transmitter and its status; whether
each direction is trained; and whether our request is answered, and since when. -/
structure LaneTrain where
  phase : Nat
  tap : Nat
  dir : Nat
  reqs : Nat
  best : Nat
  rseq : Nat
  req : Nat
  stat : Nat
  applied : Option Nat
  statOut : Nat
  trained : Bool
  failed : Bool
  ready : Bool
  echoed : Bool
  echoAt : Nat
deriving DecidableEq, Repr

def LaneTrain.reset : LaneTrain := ⟨0, 0, 0, 0, 0, 0, 0, 0, none, 0, false, false, false, false, 0⟩

/-- A chain beside its registers: the packets waiting per virtual channel, the replay buffer and those to retransmit
(R214, R215), USED, LIMIT and the span words released per virtual channel (R216), the link-control state (R212, R213), the
round robin's remaining weights (R217), alignment (R199, R201), training, sleep, the blocks last sent per pair, and NAKs
ignored. Beside these the accepted packets that still hold their receive buffer, oldest first; per virtual channel the span words
received and the limit last granted; the transmit stream's position in characters, that of the next AOS, and each lane's running
disparity (R198, R199); when an acknowledgement last advanced, when each virtual channel's first packet began to wait for credit,
when the direction was last in use, when a block was last sent and when an attempt to train failed; and packets dropped at HOPS
0. -/
structure ChainSt where
  vc0 : List Pkt
  vc1 : List Pkt
  vc2 : List Pkt
  vc3 : List Pkt
  replay : List Pkt
  resend : List Pkt
  used : List Nat
  limit : List Nat
  released : List Nat
  naked : Bool
  nakDue : Bool
  lcbDue : Bool
  creditReq : Bool
  pairNext : Nat
  initSent : Nat
  initRcvd : Nat
  accSince : Nat
  fresh : Bool
  holdAwake : Bool
  rr0 : Nat
  rr3 : Nat
  mc : Nat
  aosBad : Nat
  tries : Nat
  firstTrain : Bool
  lanes : List LaneTrain
  mismatchSent : Bool
  parked : Bool
  sleptAt : Nat
  lcb0 : Option Lcb
  lcb1 : Option Lcb
  nakIgnored : Nat
  rx : List (Nat × Pkt)
  got : List Nat
  granted : List Nat
  pos : Nat
  aosNext : Nat
  rd : List Bool
  ackAt : Nat
  stallAt : List Nat
  actAt : Nat
  lcbAt : Nat
  failAt : Nat
  hopDrops : Nat
deriving DecidableEq, Repr

def ChainSt.reset : ChainSt :=
  ⟨[], [], [], [], [], [], [0, 0, 0, 0], [0, 0, 0, 0], [0, 0, 0, 0], false, false, false, false, 0, 0, 0, 0, true, false, 0, 0, 0, 0,
   0, true, [.reset, .reset, .reset, .reset], false, false, 0, none, none, 0, [], [0, 0, 0, 0], [0, 0, 0, 0], 0, 16352,
   [false, false, false, false], 0, [0, 0, 0, 0], 0, 0, 0, 0⟩

/-! ### Corner turn (chapter 9) -/

/-- A destination of a source die's streams (R242 to R247): the folio after the last it reported committed, the short
integration after the last it reported released, when it last reported, whether it is LOST, PREV of the next marker, when the
last marker went, and frames discarded while LOST. -/
structure DestSt where
  dev : Nat
  die : Nat
  comNext : Nat
  relNext : Nat
  lastRep : Nat
  lost : Bool
  prev : Nat
  lastMark : Nat
  discarded : Nat
deriving DecidableEq, Repr

/-- A stream's receiving side (R236): the pending payload words and packets, HIGH + 1, when its last marker came, and whether
a LAST marker ended it. -/
structure StreamSt where
  pend : List Word
  pkts : Nat
  next : Nat
  lastMark : Nat
  ended : Bool
deriving DecidableEq, Repr

def StreamSt.reset : StreamSt := ⟨[], 0, 0, 0, false⟩

/-- A die's CTE: the run's first folio; before each run still of account, the first short integration that is skipped with the
run's first folio; destinations; the next folio to send and the folio up to which what is sent is
replayed; the rewind that runs with the folio it goes back to, the end of its quiet time, whether SYNC has been sent and
whether it cannot reach its folio; streams by SRC entry; the segments handed over (next), and the copies resident in the assembly
buffer, oldest first (R239); the short integrations in stint slots, the next to be released, and those with data of a LOST stream missing; and
when the last reports went. -/
structure CteSt where
  first : Nat
  gaps : List (Nat × Nat)
  dests : List DestSt
  sentNext : Nat
  replayTo : Nat
  rewind : Option Nat
  quietAt : Nat
  synced : Bool
  gap : Bool
  streams : Store StreamSt
  segNext : Nat
  resident : List (Nat × List Word)
  stints : List Nat
  relNext : Nat
  staleSi : List Nat
  lastRep : Nat
deriving DecidableEq, Repr

def CteSt.reset : CteSt := ⟨0, [], [], 0, 0, none, 0, true, false, [], 0, [], [], 0, [], 0⟩
/-! ### Ingest (chapter 3) -/

/-- A lane beside its registers: its runs of misplaced /A/ and /F/ (R66: the wrong position of the last one), the numbers of
the last characters with a code or disparity error, newest first, the number of the first character of DATA, the characters
waiting in the elastic buffer, oldest first (R74), the last octet taken from it, and the last 15 scrambled bits (R79). -/
structure LaneSt where
  runA : Option Nat
  runF : Option Nat
  errs : List Nat
  first : Nat
  buf : List Chr
  last : Nat
  scr : Nat
deriving DecidableEq, Repr

def LaneSt.reset : LaneSt := ⟨none, none, [], 0, [], 0, 0⟩

/-- A link beside its registers: when SYNC~ was asserted, the phase of the frame-edge grid of a subclass-0 link (R72), the
input-rate grid index of the next sample to deliver and whether its stream runs, that of the first sample of DATA and the
multiframes released since, the frames of DATA to flag (R67), the sample ranges of frames that were not clean (R69), the offset
of R96 in 2^-10 sample, whether the next release is the first since DATA, when the first multiframe of DATA arrived on the
latest lane, the time in OBSERVE and CURTAILED when the link last left DATA (R84), the last release time, when the link
entered ILAS_FAIL, and the release time of each frame still in the delay lines by its first sample (R78). -/
structure LinkSt where
  syncAt : Nat
  phase : Nat
  next : Nat
  live : Bool
  base : Int
  mf : Nat
  flagged : List Nat
  dirty : List (Nat × Nat)
  r : Nat
  first : Bool
  arr : Nat
  waitAt : Nat
  relT : Nat
  failAt : Nat
  tags : List (Nat × Nat)
deriving DecidableEq, Repr

def LinkSt.reset : LinkSt := ⟨0, 0, 0, false, 0, 0, [], [], 0, false, 0, 0, 0, 0, []⟩

/-- A die's ingest: lanes, links, and inputs to deaccession at the next consignment boundary (R83). -/
structure IngSt where
  lanes : Store LaneSt
  links : Store LinkSt
  leaving : List Nat
deriving DecidableEq, Repr

def IngSt.reset : IngSt := ⟨[], [], []⟩

/-! ### Delay and filter unit (chapter 4) -/

/-- An interpolated (and shifted) sample of an input: its value, its flag, whether a clamped delay made it (R94), and whether
it drew on a frame that was not clean (R113). -/
structure ZSamp where
  re : Int
  im : Int
  flag : Bool
  clamp : Bool
  dirty : Bool
deriving DecidableEq, Repr

/-- One segment between update points p and p + 1, with the delays at its ends in 2^-32 sample (R91, R92). -/
structure DlySeg where
  p : Nat
  d0 : Int
  d1 : Int
deriving DecidableEq, Repr

def DlySeg.reset : DlySeg := ⟨0, 0, 0⟩

/-- An input of the DFU: the next output's grid index (none before the first output of a run), the lowest index that may still
come, the history newest first, the last two delay segments, and the length and position of the running fade (length 0:
none). -/
structure DfuIn where
  next : Option Nat
  low : Nat
  hist : List ZSamp
  segA : DlySeg
  segB : DlySeg
  fadeLen : Nat
  pos : Nat
deriving DecidableEq, Repr

def DfuIn.reset : DfuIn := ⟨none, 0, [], .reset, .reset, 0, 0⟩

/-- A die's inputs, and its fade queue in the registrar's order (R108). -/
structure DfuSt where
  ins : Store DfuIn
  queue : List Nat
deriving DecidableEq, Repr

def DfuSt.reset : DfuSt := ⟨[], []⟩

/-! ### Acceptance, journal and vitrines (chapter 5) -/

/-- A record with a directory entry (R132): directory number, folio index, slot, state and reason, CAN sequence, epoch, and
the input slots whose data the record holds. -/
structure JRec where
  n : Nat
  folio : Nat
  slot : Option Nat
  state : Nat
  reason : Nat
  seq : Nat
  epoch : Nat
  inputs : List Nat
deriving DecidableEq, Repr

/-- An open vitrine beside its registers: the next folio to hand over, and folios whose data the packer has not written. -/
structure VitSt where
  next : Nat
  held : List Nat
deriving DecidableEq, Repr

def VitSt.reset : VitSt := ⟨0, []⟩

/-- A die's ACU: records oldest first, the next directory number, the highest folio recorded in the epoch, the replay point's
folio, samples of the words being packed by input, the journal port's buffer (DRAM address and word, oldest first), PANIC,
vitrines, and the copy of the partner die's journal by offset (R137). -/
structure AcuSt where
  dir : List JRec
  dirN : Nat
  highest : Option Nat
  replay : Nat
  parts : Store (List (Int × Int × Bool))
  jbuf : List (Nat × Word)
  panic : Bool
  vits : Store VitSt
  mirror : Store Word
deriving DecidableEq, Repr

def AcuSt.reset : AcuSt := ⟨[], 0, none, 0, [], [], false, [], []⟩

/-- A die's part of an undecided consignment: slot, inputs, those whose last sample has come, those read back (own copy,
partner copy), the failing reasons as a mask by code (R124), whether the port's buffer overran, the inputs that failed, and the
words kept back while it is not settled whether the interval is recorded (R118). -/
structure RecSt where
  die : Nat
  slot : Option Nat
  inputs : List Nat
  done : List Nat
  backed : List Nat
  paired : List Nat
  reasons : Nat
  overrun : Bool
  failed : List Nat
  early : List (Nat × Word)
deriving DecidableEq, Repr

/-- An undecided consignment (R122): state 0 OPEN, 1 SETTLING, 2 PASSED; `outside` marks one that began outside OBSERVE and
CURTAILED. -/
structure Cons where
  k : Nat
  state : Nat
  recs : List RecSt
  reasons : Nat
  outside : Bool
deriving DecidableEq, Repr

/-- What is known of an interval after its start: product flags (R347), decision (1 accepted, 2 refused) and sequence. -/
structure FolMark where
  flags : Nat
  state : Nat
  seq : Nat
deriving DecidableEq, Repr

def FolMark.reset : FolMark := ⟨0, 0, 0⟩

/-- A VITRINE command that waits for the end of its grain. -/
structure VitCmd where
  hdr : CmdHdr
  t : Nat
  pre : Nat
  post : Nat
  first : Nat
  count : Nat
  grain : Nat
deriving DecidableEq, Repr

/-- Acceptance for the package: undecided consignments, the marks of intervals, the interval that runs, whether the mode or
qualified time broke or a large step came within it, the next vitrine number, and the VITRINE commands of the running grain that
wait for its triggers (R139). -/
structure AccSt where
  cons : List Cons
  marks : Store FolMark
  cur : Option Nat
  modeBroke : Bool
  timeBroke : Bool
  nextVit : Nat
  vitCmds : List VitCmd
deriving DecidableEq, Repr

def AccSt.reset : AccSt := ⟨[], [], none, false, false, 0, []⟩


/-! ### F-cores (chapters 6 and 7) -/

/-- A result on its way to a resource of a core (R154): a register's lanes by mask, an address register, a modifier, a
predicate's lanes, a loop counter, WIN, BEX, BSH, BG, the interrupt enables, the timer, CTRSEL, the clearing of SATA, an
accumulation, an accumulator's clearing, or a memory word. -/
inductive CoreWr where
  | vec (phys mask : Nat) (x : Word)
  | adr (n x : Nat)
  | modr (n x : Nat)
  | pred (n mask x : Nat)
  | lc (k x : Nat)
  | win (x : Nat)
  | bex (x : Int)
  | bsh (x : Nat)
  | bg (x : Nat)
  | enable (x : Nat)
  | timer (x : Nat)
  | ctrsel (x : Nat)
  | sata (x : Bool)
  | acc (a : Nat) (re im : Int)
  | accClr (a : Nat)
  | mem (y : Bool) (addr : Nat) (x : Word)
deriving DecidableEq, Repr

/-- A result with the issue position at which it becomes visible. -/
structure PWrite where
  due : Nat
  w : CoreWr
deriving DecidableEq, Repr

/-- An active hardware loop (R191, R192): its level, first and last body bundle, STG, N, Q, and whether it is a repeat. -/
structure LoopSt where
  level : Nat
  first : Nat
  last : Nat
  stg : Bool
  n : Nat
  q : Nat
  rep : Bool
deriving DecidableEq, Repr

/-- The shadow registers of R158. -/
structure Shadow where
  pc : Nat
  win : Nat
  sit : Nat
  bsh : Nat
  lcs : List Nat
  loops : List LoopSt
deriving DecidableEq, Repr

/-- A branch that waits for its delay slots: the target, whether it is a BR (0), a CALL or RET (1) or an RTI (2), and where it
stands. -/
structure BrWait where
  target : Nat
  kind : Nat
  pc : Nat
deriving DecidableEq, Repr

/-- A complete input buffer: folio, the core's input, and its place in the ring. -/
structure InBuf where
  folio : Nat
  input : Nat
  slot : Nat
deriving DecidableEq, Repr

/-- A complete output frame: its place in the ring, its tag (folio and input slot), and whether the CTE has read it. -/
structure OutFrame where
  slot : Nat
  folio : Nat
  input : Nat
  read : Bool
deriving DecidableEq, Repr

/-- An F-core (R145): registers, memories, the program counter with the slot of its bundle that issues next (`phase`) and the
issue position, results under way and tracked guards by position, the branch and delay slots, the ATOMIC bundles left, the
loops innermost first and whether an iteration end is due, its state (CORE_STATUS coding), the shadow registers while a
handler runs, the input ring and the feeder's position, the output ring, whether the core gives up its work at its next
take point, and the repeat cache (R151): the bundles of a repeat's body that its first iteration has fetched. -/
structure CoreSt where
  v : Store Word
  a : Store Nat
  m : Store Nat
  p : Store Nat
  acc : Store (Int × Int)
  lc : Store Nat
  win : Nat
  sit : Nat
  dbmsg : Nat
  dbUnread : Bool
  bex : Int
  bg : Nat
  bsh : Nat
  pm : Store Word
  xm : Store Word
  ym : Store Word
  enable : Nat
  pend : Nat
  timer : Nat
  timerOn : Bool
  ctrsel : Nat
  sata : Bool
  pc : Nat
  phase : Nat
  pos : Nat
  writes : List PWrite
  tracks : List (Nat × Nat)
  br : Option BrWait
  delay : Nat
  atom : Nat
  loops : List LoopSt
  iterDue : Bool
  st : Nat
  handler : Option Shadow
  ins : List InBuf
  taken : Nat
  inSlot : Nat
  feedFolio : Nat
  feedIn : Nat
  replayTo : Nat
  outs : List OutFrame
  outCur : Nat
  marked : Bool
  giveDue : Bool
  rc : List Word
deriving DecidableEq, Repr

def CoreSt.reset : CoreSt :=
  { v := [], a := [], m := [], p := [], acc := [], lc := [], win := 0, sit := 0, dbmsg := 0, dbUnread := false, bex := 0,
    bg := 0, bsh := 0, pm := [], xm := [], ym := [], enable := 0, pend := 0, timer := 0, timerOn := false, ctrsel := 0,
    sata := false, pc := 0, phase := 0, pos := 0, writes := [], tracks := [], br := none, delay := 0, atom := 0, loops := [],
    iterDue := false, st := 0, handler := none, ins := [], taken := 0, inSlot := 0, feedFolio := 0, feedIn := 0,
    replayTo := 0, outs := [], outCur := 0, marked := false, giveDue := false, rc := [] }

/-- A spare's loan (R174, R543): the core that gave up its work, the spare, the logical core, whether it is permanent,
whether the spare has caught up, and whether the core takes its work back once the spare has saved (R175). -/
structure FcLoan where
  core : Nat
  spare : Nat
  logical : Nat
  perm : Bool
  caught : Bool
  due : Bool
deriving DecidableEq, Repr

/-- A remaining core that finishes a lost logical core's records up to a folio (R552); `due` until its own logical core is
saved, `back` once it runs it again and catches up; and its own CORE_CFG. -/
structure FcHost where
  core : Nat
  own : Nat
  lost : Nat
  faulty : Nat
  upto : Nat
  back : Bool
  due : Bool
  cfg : Word
deriving DecidableEq, Repr

/-- A die's F-cores: the cores, the last save of each logical core (R173), per logical core the tag of the last frame
forwarded plus 1 (R170), loans, hosts, logical cores without a core (R548), consecutive passes of retests by core,
loans that wait for the registrar (R558), and INPUTS of each logical core in the programme (R167). -/
structure FcSt where
  cores : Store CoreSt
  saves : Store CoreSt
  tags : Store Nat
  loans : List FcLoan
  hosts : List FcHost
  gone : List Nat
  passes : Store Nat
  waiting : List Nat
  inputs : List Nat
deriving DecidableEq, Repr

def FcSt.reset : FcSt := ⟨[], [], [], [], [], [], [], [], []⟩

/-! ### Gallery (chapter 10) -/

/-- A cell's value (R259, R272): A and N. -/
structure Acc3 where
  re : Int
  im : Int
  n : Nat
deriving DecidableEq, Repr

def Acc3.zero : Acc3 := ⟨0, 0, 0⟩

/-- A work order (R266): the table entry with the bank it runs in, the short integration, the kind, and the logical tile
whose table entry it is. -/
structure WOrder where
  entry : Nat
  si : Nat
  kind : Nat
  home : Nat
deriving DecidableEq, Repr

/-- An accumulator bank (R268): state in TILE_STATUS coding, its order, the next sample to enter (folio, channel index in the
order, time), the cells by key 1088 j + i, and the drain records that the ledger adder has acknowledged. -/
structure Bank where
  st : Nat
  order : Option WOrder
  folio : Nat
  chan : Nat
  time : Nat
  cells : Store Acc3
  acked : Nat
deriving DecidableEq, Repr

def Bank.reset : Bank := ⟨0, none, 0, 0, 0, [], 0⟩

/-- A physical tile: banks, queue, the orders discarded and abandoned (oldest first), when its last mismatch was, cycles
counted towards BUSY, when an order last made progress, when it gave up its work, and when it last began a retest. -/
structure TileSt where
  b0 : Bank
  b1 : Bank
  queue : List WOrder
  redo : List WOrder
  lastMis : Option Nat
  cycles : Nat
  progAt : Nat
  gaveUp : Nat
  tested : Nat
deriving DecidableEq, Repr

def TileSt.reset : TileSt := ⟨.reset, .reset, [], [], none, 0, 0, 0, 0⟩

/-- A table entry that runs on another logical tile (R281): its place in the table, its own and its present logical tile, the
bank there, and the first short integration that runs there. -/
structure WMove where
  w : Nat
  src : Nat
  dst : Nat
  bank : Nat
  since : Nat
deriving DecidableEq, Repr

/-- A logical tile that lost its tile with the spares exhausted: the tile, whether its entries can be moved, the orders it
left, and whether the boundary has passed. -/
structure LostTile where
  lt : Nat
  tile : Nat
  moves : Bool
  left : List WOrder
  doneAt : Option Nat
deriving DecidableEq, Repr

/-- A tile's loan: the logical tile, the tile that failed, whether it is permanent, whether its fault is still open, whether
GT16's BIST is still to come, and the last short integration before the return. -/
structure GtLoan where
  lt : Nat
  tile : Nat
  perm : Bool
  fault : Bool
  starting : Bool
  returnAt : Option Nat
deriving DecidableEq, Repr

/-- The gallery of a die: tiles; per logical tile the short integration and the place in its list of the next order to issue;
MOVED orders waiting to be issued, by logical tile; orders given back after a gap (R294) by logical tile; moves; lost and
retired logical tiles; the loan, and loans that wait for the registrar (R558); the next short-integration boundary; and the
next short integration not wholly drained. -/
structure GalSt where
  tiles : Store TileSt
  nextSi : Store Nat
  nextIdx : Store Nat
  movedQ : List (Nat × WOrder)
  gapWait : List (Nat × WOrder)
  moves : List WMove
  lost : List LostTile
  loan : Option GtLoan
  waiting : List Nat
  bound : Nat
  doneNext : Nat
deriving DecidableEq, Repr

def GalSt.reset : GalSt := ⟨[], [], [], [], [], [], [], none, [], 0, 0⟩

/-! ### Ledger (chapter 11) -/

/-- A beam record of block VIS_BLOCKS + j (R325). -/
structure BeamRec where
  j : Nat
  si : Nat
  cells : Store Acc3
deriving DecidableEq, Repr

/-- A header that waits for the acknowledgement of the record's group writes (R296): block, new header, and the bank it drains
(tile 17: a beam record). -/
structure HdrDue where
  blk : Nat
  hdr : Word
  tile : Nat
  bank : Nat
deriving DecidableEq, Repr

/-- A dump that runs: set, FIRST_SI, n, and the blocks handed over. -/
structure DumpRun where
  set : Nat
  first : Nat
  n : Nat
  next : Nat
deriving DecidableEq, Repr

/-- A block of a CLEAR set that waits for its clear: set, n, and whether the packer has committed the dump unit. -/
structure ClearDue where
  blk : Nat
  set : Nat
  n : Nat
  committed : Bool
deriving DecidableEq, Repr

/-- A held gap record: tile, bank and since when. -/
structure GapHold where
  tile : Nat
  bank : Nat
  since : Nat
deriving DecidableEq, Repr

/-- The ledger adder of a die: headers due, gaps held, dumps that run and closes that wait behind them, clears due, blocks
whose header shows SAT or FULL, blocks kept FULL by retirement with the last short integration before it (R550), beam records waiting, the update count of the
running second, and the beam blocks that a flagged value touched, with the short integration (R347). -/
structure LedSt where
  hdrs : List HdrDue
  gaps : List GapHold
  runs : List DumpRun
  closes : List (Nat × Nat)
  clears : List ClearDue
  sat : List Nat
  full : List Nat
  retired : List (Nat × Nat)
  beamQ : List BeamRec
  rateSec : Nat
  rateCnt : Nat
  beamStale : List (Nat × Nat)
deriving DecidableEq, Repr

def LedSt.reset : LedSt := ⟨[], [], [], [], [], [], [], [], [], 0, 0, []⟩

/-! ### Beam engine (chapter 12) -/

/-- An update interval: its number, the descriptors active in it, and the delays by key 65536 b + i in units of 2^-48 s. -/
structure BeInt where
  k : Nat
  descs : List (Nat × List Word)
  taus : Store Int
deriving DecidableEq, Repr

/-- The next channel and time of a pass: folio, channel in its range, time. -/
structure BePos where
  folio : Nat
  chan : Nat
  time : Nat
deriving DecidableEq, Repr

/-- A trigger sample being summed (R330): the sum, the values that entered, and whether one was flagged or excluded. -/
structure TrigAcc where
  sum : Nat
  cnt : Nat
  bad : Bool
deriving DecidableEq, Repr

def TrigAcc.zero : TrigAcc := ⟨0, 0, false⟩

/-- A detector beside its registers: trigger samples being summed by number, the next to process, valid samples so far, the
frozen run, and the trigger sample of its last crossing. -/
structure DetSt where
  sums : Store TrigAcc
  next : Nat
  valid : Nat
  frozen : Nat
  last : Option Nat
deriving DecidableEq, Repr

def DetSt.reset : DetSt := ⟨[], 0, 0, 0, none⟩

/-- A crossing that no fire has used. -/
structure Crossing where
  det : Nat
  time : Nat
  p : Nat
  mean : Nat
  var : Nat
deriving DecidableEq, Repr

/-- The detectors and groups of R337: detector states, crossings by group, the four registers of every detector and the state
register of every group. -/
structure BeSave where
  dets : Store DetSt
  groups : Store (List Crossing)
  stats : List (Nat × Word)
  lastEmit : Nat
deriving DecidableEq, Repr

/-- The beam engine of a die: update intervals kept; the next position of every pass; the voltage samples of the running folio
by descriptor; detected sums by key (half * 512 + slot) * 4096 + channel; detectors; crossings by group; LAST_EMIT; the save
with its short integration; the short integration that runs; the short integration that a rerun repeats;
the beam blocks to which a flagged value would have contributed in the running short integration (R347); inputs dropped from sets (set, input, first folio, folio of its return); and delays and busy cycles of the running second. -/
structure BeSt where
  ints : List BeInt
  pos : Store BePos
  volt : Store (List (Int × Int × Bool))
  sums : Store Acc3
  dets : Store DetSt
  groups : Store (List Crossing)
  lastEmit : Nat
  save : BeSave
  si : Nat
  again : Option Nat
  drops : List (Nat × Nat × Nat × Nat)
  rateSec : Nat
  delays : Nat
  cycles : Nat
  flagged : List Nat
deriving DecidableEq, Repr

def BeSave.reset : BeSave := ⟨[], [], [], 0⟩
def BeSt.reset : BeSt := ⟨[], [], [], [], [], [], 0, .reset, 0, none, [], 0, 0, 0, []⟩

/-- What a programme switch sets aside of a die (R107, R256, R282, R307, R337): DFU, acceptance records, F-cores by logical core,
CTE, gallery with its tiles by logical tile, ledger, beam engine, the registers that go with them, whether a burst of the
area read poisoned (R546), and the words of its journal, directory and stint slots. -/
structure SetAside where
  prog : Nat
  die : Nat
  dfu : DfuSt
  acu : AcuSt
  cores : Store CoreSt
  saves : Store CoreSt
  tags : Store Nat
  cte : CteSt
  gal : GalSt
  led : LedSt
  be : BeSt
  regs : List (Nat × Word)
  bad : Bool
  words : List (Nat × Word)
deriving DecidableEq, Repr

/-- What a switch sets aside for the package: the marks of the programme's intervals and its waiting products. -/
structure AsidePkg where
  prog : Nat
  marks : Store FolMark
  units : List PUnit
deriving DecidableEq, Repr

/-! ### Memory system, fabric and DMA (chapter 15) -/

/-- A die's DRAM controllers beside their registers: bursts acknowledged and not yet issued (R414), refreshes postponed by
subchannel (2 c + s), refreshes and neighbour refreshes issued, the DIMM serials by channel, and when each subchannel last
retrained. -/
structure DrcSt where
  queue : List Nat
  postponed : Store Nat
  refreshes : Nat
  neighbours : Nat
  serial : Store Nat
  retrainAt : Store Nat
  scrubAt : Store Nat
deriving DecidableEq, Repr

def DrcSt.reset : DrcSt := ⟨[], [], 0, 0, [], [], []⟩

/-- A request at a fabric target: master, beats left, whether it is a unit write, fabric cycles waited, and whether the target
has granted it and goes on with it (R425). -/
structure FabReq where
  master : Nat
  beats : Nat
  unit : Bool
  waited : Nat
  going : Bool
deriving DecidableEq, Repr

/-- A DMA engine: the channel served last, the paced bursts that saw a withdrawal in the running descriptor, when the paced wait began, and the channels
whose owner has been interrupted. -/
structure DmaSt where
  last : Nat
  wdBursts : Nat
  waitAt : Nat
  irqs : List Nat
deriving DecidableEq, Repr

def DmaSt.reset : DmaSt := ⟨15, 0, 0, []⟩

/-! ### Counter snapshots (chapter 22) and conservator (chapter 21) -/

/-- A CTR_SNAP under way (R581, R582): the command, its masks, and the slots read by each die that has delivered. -/
structure Snap where
  cmd : CmdHdr
  dies : Nat
  ctrs : Nat
  got : List (Nat × List Word)
deriving DecidableEq, Repr

/-- What a day's record holds of a margin (R571): its key (m for a monitor, 512 + lane, 768 + subchannel) and its value. -/
structure DayRec where
  vals : List (Nat × Nat)
deriving DecidableEq, Repr

/-- The conservator of a die beside its registers: items being calibrated; per item the accepted code that waits for its point,
the time and die temperature of the last acceptance; the eye heights (Griwano lanes as 16 to 23) and DRAM margins last measured;
when each chain last retrained for its eye; the newest record (R570); the daily records since the baseline; and consecutive daily
records above the horizon. -/
structure CsvSt where
  busy : List Nat
  code : Store Nat
  accAt : Store Nat
  accTemp : Store Nat
  eyes : Store Nat
  dram : Store Nat
  eyeAt : Store Nat
  newest : List Nat
  days : List DayRec
  above : Nat
deriving DecidableEq, Repr

def CsvSt.reset : CsvSt := ⟨[], [], [], [], [], [], [], [], [], 0⟩

/-! ### The whole state -/

structure State where
  /-- The part (R1); a device is one part for ever. -/
  part : Part
  /-- The commands that wait, first in, first out. -/
  pending : List Instr
  /-- Device time in units of 2^-16 ns (R389). -/
  now : Nat
  /-- Free values drawn so far: the model's own counter. -/
  draws : Nat
  /-- State-map slots by address. -/
  regs : Store Word
  /-- DRAM span words by die and address (R54): key `die * 2^40 + address`. -/
  dram : Store Word
  /-- Under die-pair journalling, what a die's partner holds of the die's DRAM (R31, R137), with the same key. -/
  mirrors : Store Word
  /-- Flash octets by device and offset (R471): key `device * 2^40 + offset`; erased octets read 0xFF. -/
  flash : Store Octet
  /-- What has left the block, newest first. -/
  out : List Output
  /-- The keeper's EVT queue, oldest first (R364), and events dropped since the last EVT_OVERFLOW. -/
  evts : List Evt
  evtLost : Nat
  /-- Products that wait for their rings, in the order offered (R344). -/
  units : List PUnit
  rings : Store RingSt
  ports : Store PortSt
  lands : Store LandSt
  rg : RgSt
  sec : SecSt
  nvm : NvmSt
  rsc : RscSt
  te : TeSt
  pwr : PwrSt
  flt : FltSt
  pkf : PkfSt
  chains : Store ChainSt
  ctes : Store CteSt
  /-- Packets delivered to a die and not yet taken by its units, by die (8: the keeper; 16 + k: the TE, from chain k). -/
  inbox : List (Nat × Pkt)
  ings : Store IngSt
  dfus : Store DfuSt
  acus : Store AcuSt
  acc : AccSt
  fcs : Store FcSt
  gals : Store GalSt
  leds : Store LedSt
  bes : Store BeSt
  aside : List SetAside
  asidePkg : List AsidePkg
  drcs : Store DrcSt
  /-- DIMM training records in the NVM devices (R411): the serial by 2 d + c. -/
  training : Store Nat
  /-- Requests waiting at fabric targets, by 12 d + t. -/
  fabs : Store (List FabReq)
  /-- DMA engines by 2 d + e; KDMA is 16. -/
  dmas : Store DmaSt
  /-- Scratch SRAM words by 65536 d + address. -/
  scratch : Store Word
  /-- Counters that wrapped and have not been served (R580): die and counter. -/
  wraps : List (Nat × Nat)
  snaps : List Snap
  csvs : Store CsvSt
  /-- The next place in the ring of conservator records, and the generation of the last (R570). -/
  csvNext : Nat
  csvGen : Nat
  /-- The temperature readings last held (R561), by 8 d + sensor (the keeper's d is 8), °C + 64; when the last TEL period
  began. -/
  temps : Store Nat
  telAt : Nat
  /-- When a periodic or due action last took place or began, by the key that its operation names. -/
  timers : Store Nat
  /-- Device time spent in OBSERVE and CURTAILED up to the last entry into one of them, and that entry (R84). -/
  workT : Nat
  workAt : Nat
deriving DecidableEq, Repr

/-- What an erased flash octet reads as. -/
def flashErased : Nat → Octet := fun _ => 0xFF

/-- The device before power is first applied: mode DORMANT (R516), every register at the reset value its table gives,
nothing listed in any memory. -/
def State.reset : State where
  part := .zn208
  pending := []
  now := 0
  draws := 0
  regs := []
  dram := []
  mirrors := []
  flash := []
  out := []
  evts := []
  evtLost := 0
  units := []
  rings := []
  ports := []
  lands := []
  rg := .reset
  sec := .reset
  nvm := .reset
  rsc := .reset
  te := .reset
  pwr := .reset
  flt := .reset
  pkf := .reset
  chains := []
  ctes := []
  inbox := []
  ings := []
  dfus := []
  acus := []
  acc := .reset
  fcs := []
  gals := []
  leds := []
  bes := []
  aside := []
  asidePkg := []
  drcs := []
  training := []
  fabs := []
  dmas := []
  scratch := []
  wraps := []
  snaps := []
  csvs := []
  csvNext := 0
  csvGen := 0
  temps := []
  telAt := 0
  timers := []
  workT := 0
  workAt := 0

end Sys2Proof.Machine
end

