-- ==== Sys2Proof/Machine/Ops.lean ====
section
/-! DEFINITION. The named operations over registers, time, memories, events and the fault record that every family uses. -/

namespace Sys2Proof.Machine

open Reg

/-- A step that completes. -/
def ok (s : State) : Host.Outcome State Fault Refusal := .next s

/-! ### Registers -/

/-- The span word of a slot. -/
def State.rd (s : State) (a : Nat) : Word := Store.get (regReset s.part) s.regs a

/-- A slot set to a span word by the device. -/
def State.wr (s : State) (a : Nat) (v : Word) : State := { s with regs := Store.put (regReset s.part) s.regs a v }

/-- A field's value. -/
def State.get (s : State) (f : RF) : Nat := (s.rd f.addr).bits f.lo f.wid

/-- A field set by the device; the value is taken modulo the field's width. -/
def State.put (s : State) (f : RF) (v : Nat) : State := s.wr f.addr ((s.rd f.addr).upd f.lo f.wid v)

/-- A signed field's value. -/
def State.getI (s : State) (f : RF) : Int := signed f.wid (s.get f)

/-- A signed field set. -/
def State.putI (s : State) (f : RF) (v : Int) : State := s.put f (unsigned f.wid v)

/-- A saturating counter field raised by n. -/
def State.bumpBy (s : State) (f : RF) (n : Nat) : State := s.put f (min (2 ^ f.wid - 1) (s.get f + n))

/-- A saturating counter field raised by 1. -/
def State.bump (s : State) (f : RF) : State := s.bumpBy f 1

/-- A counter field lowered by 1, not below 0. -/
def State.drop (s : State) (f : RF) : State := s.put f (s.get f - 1)

/-- A sticky or status bit set. -/
def State.raise (s : State) (f : RF) : State := s.put f 1

/-- One bit of a field. -/
def State.getBit (s : State) (f : RF) (i : Nat) : Bool := bit (s.get f) i

/-- One bit of a field set to `b`. -/
def State.putBit (s : State) (f : RF) (i : Nat) (b : Bool) : State := s.put f (withBit (s.get f) i b)

/-- A whole-slot write by software or the registrar (R9, R10): RW and WS fields take the written bits, W1C fields lose the
bits written as 1, everything else stays. -/
def State.softWrite (s : State) (a data : Nat) : State :=
  let o := (s.rd a).toNat
  let m := setMask s.part a
  let c := clrMask s.part a
  s.wr a (BitVec.ofNat 72 ((((o &&& (2 ^ 72 - 1 - m)) ||| (data % 2 ^ 72 &&& m)) &&& (2 ^ 72 - 1 - (c &&& data % 2 ^ 72)))))

/-- `s` changed in turn for every element of a list. -/
def forAll {β : Type} (l : List β) (s : State) (f : State → β → State) : State := l.foldl f s

/-- `s` changed when `b` holds. -/
def when (b : Bool) (f : State → State) (s : State) : State := if b then f s else s

/-! ### Performance counters (R575, R576, R583) -/

/-- A general counter gains n: past 2^48 - 1 it goes on from the remainder and sets OVF. -/
def State.count (s : State) (d k n : Nat) : State :=
  let v := s.get (PMON_CTR_VALUE d k) + n
  let s1 := s.put (PMON_CTR_VALUE d k) v
  if v < 2 ^ 48 then s1
  else (({ s1 with wraps := s1.wraps ++ [(d, k)] }.put (PMON_CTR_OVF d k) 1).putBit (PMON_STATUS_OVF d) k true).raise
    (PMON_EVENTS_WRAP d)

/-- `n` occurrences of event `ev` of instance `i`: every counter that selects them gains n. -/
def State.pm (s : State) (d ev i n : Nat) : State :=
  if n = 0 then s
  else ((List.range 64).filter fun k => s.get (PMON_SEL_EVENT d k) == ev &&
      (s.get (PMON_SEL_INST d k) == i || s.get (PMON_SEL_INST d k) == 0x1F)).foldl (fun s k => s.count d k n) s

/-- `n` occurrences of an event whose unit has no instances. -/
def State.pmU (s : State) (d ev n : Nat) : State :=
  if n = 0 then s
  else ((List.range 64).filter fun k => s.get (PMON_SEL_EVENT d k) == ev).foldl (fun s k => s.count d k n) s

/-- A slot counter of core c gains n (R583). -/
def State.td (s : State) (d c k n : Nat) : State :=
  let v := s.get (TD_VALUE d c k) + n
  let s1 := s.put (TD_VALUE d c k) v
  if v < 2 ^ 48 then s1 else s1.put (TD_OVF d c k) 1

/-! ### The part, the mode and device time -/

/-- Span die `d` is present in the part and not lost. -/
def State.present (s : State) (d : Nat) : Bool := decide (d < s.part.dies) && !s.flt.lost.contains d

/-- The span dies of the part that are present. -/
def State.dies (s : State) : List Nat := (List.range s.part.dies).filter fun d => !s.flt.lost.contains d

/-- Die codes of R12 beside the span dies: the package as a whole, as the origin of events (R13), and the keeper. -/
def dcPACKAGE : Nat := 14
def dcKEEPER : Nat := 15

def mDORMANT : Nat := 0
def mRETAIN : Nat := 1
def mMUSTER : Nat := 2
def mALIGN : Nat := 3
def mOBSERVE : Nat := 4
def mCURTAILED : Nat := 5

/-- The mode (R7), in PWR_MODE coding. While PORST_N is low the units of a device that was awake are held in reset, and it counts
as one in which none of them acts (R517). -/
def State.mode (s : State) : Nat := if s.pwr.porstLow = true ∧ 2 ≤ s.get PWR_MODE_MODE then mRETAIN else s.get PWR_MODE_MODE

/-- The device accepts new work (R7). -/
def State.accepts (s : State) : Bool := s.mode == mOBSERVE || s.mode == mCURTAILED

/-- The device runs: ALIGN, OBSERVE or CURTAILED. -/
def State.runs (s : State) : Bool := s.mode == mALIGN || s.accepts

/-- Device time spent in OBSERVE and CURTAILED so far (R84). -/
def State.worked (s : State) : Nat := s.workT + (if s.accepts then s.now - s.workAt else 0)

/-- Units of device time in one microsecond, one millisecond, one second (R389). -/
def tUs : Nat := 1000 * 65536
def tMs : Nat := 1000 * tUs
def tSec : Nat := 1000 * tMs

/-- The grain of a time (R463). -/
def grainOf (t : Nat) : Nat := t / tUs

/-- The time whose low `w` bits are `x` that lies nearest `base`, or `base` where that is later. -/
def nearLater (w base x : Nat) : Nat :=
  let d := (x + 2 ^ w - base % 2 ^ w) % 2 ^ w
  if d < 2 ^ (w - 1) then base + d else base

/-- Grain `g` is at or after the grain whose low 48 bits a register holds. -/
def grainCome (g eff : Nat) : Bool := decide ((g + 2 ^ 48 - eff % 2 ^ 48) % 2 ^ 48 < 2 ^ 47)

/-- Device seconds. -/
def State.secs (s : State) : Nat := s.now / tSec

/-- The 96-bit form of device time (R389): seconds, nanoseconds, 2^-16 ns. -/
def packTime (t : Nat) : Nat := (t / tSec) % 2 ^ 48 * 2 ^ 48 + t % tSec

/-- Device time from its 96-bit form. -/
def unpackTime (x : Nat) : Nat := bitsOf x 48 48 * tSec + bitsOf x 0 48

/-- Device time moved forward to `t`; an event is never earlier than the last one. -/
def State.advance (s : State) (t : Nat) : State := { s with now := max s.now t }

/-- Picoseconds as units of 2^-16 ns, rounded down (R396). -/
def psUnits (ps : Int) : Int := ps * 65536 / 1000

/-- Signed whole picoseconds of a duration in units of 2^-16 ns. -/
def unitsPs (u : Int) : Int := u * 1000 / 65536

/-- A fresh free value of `w` bits and the state that has drawn it. -/
def State.draw (s : State) (w : Nat) : Nat × State :=
  (Config.freeValue s.draws % 2 ^ w, { s with draws := s.draws + 1 })

/-- A field takes a free value: what the outside gave it, the spec does not say (log entry 46). -/
def State.putFree (s : State) (f : RF) : State := (s.draw f.wid).2.put f (s.draw f.wid).1

/-- When the timed action of key `k` last took place or began. -/
def State.timer (s : State) (k : Nat) : Nat := Store.get (fun _ => 0) s.timers k
def State.setTimer (s : State) (k v : Nat) : State := { s with timers := Store.put (fun _ => 0) s.timers k v }

/-- Keys of timed actions: a class and a number within it. Buckets have keys of their own (`bktKey`). -/
def tkGate (r : Nat) : Nat := 2 ^ 16 + r
def tkLadder : Nat := 2 * 2 ^ 16
def tkSync : Nat := 3 * 2 ^ 16
def tkDreq : Nat := 4 * 2 ^ 16
def tkRetain : Nat := 5 * 2 ^ 16
def tkFcTest (d c : Nat) : Nat := 6 * 2 ^ 16 + 32 * d + c
def tkHold (p v : Nat) : Nat := 7 * 2 ^ 16 + 64 * p + v
def tkThrottle : Nat := 8 * 2 ^ 16
def tkCrystal : Nat := 9 * 2 ^ 16
def tkFcGave (d c : Nat) : Nat := 10 * 2 ^ 16 + 32 * d + c
def tkRegTest : Nat := 11 * 2 ^ 16
def tkCkpt : Nat := 12 * 2 ^ 16
def tkEye (d l : Nat) : Nat := 13 * 2 ^ 16 + 32 * d + l
def tkAge (d : Nat) : Nat := 14 * 2 ^ 16 + d
def tkDay (d : Nat) : Nat := 15 * 2 ^ 16 + d

/-- A timed action of key `k` comes `per` after the last: device time reaches that moment, from which the next period counts. -/
def State.tick (s : State) (k per : Nat) : State := (s.advance (s.timer k + per)).setTimer k (s.timer k + per)

/-- A timed action of key `k` comes at the next whole multiple of `per` after the last. -/
def State.atMultiple (s : State) (k per : Nat) : State :=
  let t := ceilDiv (max s.now (s.timer k + 1)) per * per
  (s.advance t).setTimer k t

/-- A timed action of key `k` comes no sooner than `per` after the last. -/
def State.pace (s : State) (k per : Nat) : State :=
  let s1 := s.advance (s.timer k + per)
  s1.setTimer k s1.now

/-- Something leaves the block. -/
def State.emitOut (s : State) (o : Output) : State := { s with out := o :: s.out }

/-- The device's own number, the one that the IDENT section gives (R2, R249). -/
def State.ownDev (s : State) : Nat := s.nvm.ident

/-! ### Typed state by key -/

def State.ring (s : State) (r : Nat) : RingSt := Store.get (fun _ => RingSt.reset) s.rings r
def State.setRing (s : State) (r : Nat) (v : RingSt) : State := { s with rings := Store.put (fun _ => RingSt.reset) s.rings r v }
def State.port (s : State) (p : Nat) : PortSt := Store.get (fun _ => PortSt.reset) s.ports p
def State.setPort (s : State) (p : Nat) (v : PortSt) : State := { s with ports := Store.put (fun _ => PortSt.reset) s.ports p v }
/-- Landing rings are kept by port and ring number. -/
def landKey (p r : Nat) : Nat := p * 8192 + r
def State.land (s : State) (p r : Nat) : LandSt := Store.get (fun _ => LandSt.reset) s.lands (landKey p r)
def State.setLand (s : State) (p r : Nat) (v : LandSt) : State :=
  { s with lands := Store.put (fun _ => LandSt.reset) s.lands (landKey p r) v }
/-- Package chain k = 2d + c (R195). -/
def State.chain (s : State) (k : Nat) : ChainSt := Store.get (fun _ => ChainSt.reset) s.chains k
def State.setChain (s : State) (k : Nat) (v : ChainSt) : State := { s with chains := Store.put (fun _ => ChainSt.reset) s.chains k v }
def State.cte (s : State) (d : Nat) : CteSt := Store.get (fun _ => CteSt.reset) s.ctes d
def State.setCte (s : State) (d : Nat) (v : CteSt) : State := { s with ctes := Store.put (fun _ => CteSt.reset) s.ctes d v }
def State.ref (s : State) (r : Nat) : RefSt := Store.get (fun _ => RefSt.reset) s.rsc.refs r
def State.setRef (s : State) (r : Nat) (v : RefSt) : State :=
  { s with rsc := { s.rsc with refs := Store.put (fun _ => RefSt.reset) s.rsc.refs r v } }

/-! ### DRAM -/

/-- The key of span-word address `a` of die `d` (R54). -/
def dramKey (d a : Nat) : Nat := d * 2 ^ 40 + a

/-- What a DRAM word that nothing has written reads as. -/
def dramInit : Nat → Word := fun _ => 0

def State.rdMem (s : State) (d a : Nat) : Word := Store.get dramInit s.dram (dramKey d a)
/-- The partner of a die (R31). -/
def partner (d : Nat) : Nat := if d % 2 = 0 then d + 1 else d - 1

/-- Die-pair journalling is in force on die d (R137). -/
def State.paired (s : State) (d : Nat) : Bool := s.get (ACU_STATUS_PAIR_ACTIVE d) == 1

/-- A word of a die's DRAM written, and under die-pair journalling its mirror in the partner's DRAM with it (R31, R137). -/
def State.wrMem (s : State) (d a : Nat) (v : Word) : State :=
  { s with dram := Store.put dramInit s.dram (dramKey d a) v,
           mirrors := if s.paired d then Store.put dramInit s.mirrors (dramKey d a) v else s.mirrors }
def State.rdMems (s : State) (d a n : Nat) : List Word := Store.getList dramInit s.dram (dramKey d a) n
def State.wrMems (s : State) (d a : Nat) (vs : List Word) : State :=
  { s with dram := Store.putList dramInit s.dram (dramKey d a) vs,
           mirrors := if s.paired d then Store.putList dramInit s.mirrors (dramKey d a) vs else s.mirrors }

/-! ### Qualified time (R388) -/

def dpFREERUN : Nat := 0
def dpACQUIRE : Nat := 1
def dpLOCKED : Nat := 2
def dpHOLDOVER : Nat := 3
def svFREE : Nat := 0
def svLOCKING : Nat := 1
def svLOCKED : Nat := 2
def svHOLD : Nat := 3

/-- The holdover age in whole seconds (R387). -/
def State.hoAge (s : State) : Nat := (s.now - s.rsc.hoEntry) / tSec

/-- The role is FOLLOW. -/
def State.follows (s : State) : Bool := s.get TE_CFG_ROLE == 2

/-- The conditions of R388. -/
def State.timeQual (s : State) : Bool :=
  (if s.follows then s.te.stepped else s.te.timeSet) &&
  (s.get RSC_STATUS_STATE == dpLOCKED ||
    (s.get RSC_STATUS_STATE == dpHOLDOVER && s.get RSC_STATUS_HO_QUAL == 1 &&
      decide (s.hoAge ≤ s.get RSC_HOLD_HO_MAX_S))) &&
  (!s.follows || s.get TE_STATUS_SERVO == svLOCKED ||
    (s.get TE_STATUS_SERVO == svHOLD && decide ((s.now - s.te.holdSince) / tSec ≤ s.get RSC_HOLD_HO_MAX_S)))

/-- The device is in holdover (R388). -/
def State.holdover (s : State) : Bool := s.get RSC_STATUS_STATE == dpHOLDOVER || s.get TE_STATUS_SERVO == svHOLD

/-! ### Events (R364, R556, R618) -/

/-- The CLASS of an event code; `again` distinguishes the codes classed by occasion. -/
def evtClass (code : Nat) (perm : Bool) : Nat :=
  if code = 0x06 ∨ code = 0x07 then 3
  else if [0x50, 0x60, 0x6C].contains code then (if perm then 2 else 1)
  else if [0x04, 0x05, 0x09, 0x0A, 0x0B, 0x10, 0x11, 0x13, 0x18, 0x32, 0x33, 0x34, 0x42, 0x43, 0x47, 0x51, 0x53, 0x5B,
      0x62, 0x64, 0x65, 0x6E, 0x78, 0x7B].contains code then 2
  else if [0x01, 0x02, 0x03, 0x08, 0x0C, 0x15, 0x16, 0x17, 0x1B, 0x20, 0x21, 0x22, 0x28, 0x2C, 0x2E, 0x31, 0x52, 0x63,
      0x70, 0x72, 0x73, 0x79].contains code then 0
  else 1

/-- The flags that a service product made now carries (R347): HOLD, CURT and TQ. -/
def State.flagsNow (s : State) : Nat :=
  b2n (s.holdover && s.timeQual) * 16 + b2n (s.mode == mCURTAILED) * 32 + b2n (!s.timeQual) * 128

/-- An event enters the keeper's queue; beyond 4,096 it is dropped and counted. -/
def State.queueEvt (s : State) (e : Evt) : State :=
  if s.evts.length < 4096 then { s with evts := s.evts ++ [e] }
  else ({ s with evtLost := s.evtLost + 1 }).bump PKC_DROP_EVT_DROPPED

/-- The device emits an event: code, die code, unit kind and index, ARG_A and ARG_B. `perm` classes the codes whose CLASS
depends on the occasion; it is kept with the event in bit 8 of its flags. -/
def State.emitC (s : State) (perm : Bool) (code die kind unit a b : Nat) : State :=
  s.queueEvt ⟨code, die, kind, unit, a % 2 ^ 72, b % 2 ^ 72, s.now, s.flagsNow + b2n perm * 256, s.nvm.nextCan, []⟩

def State.emit (s : State) (code die kind unit a b : Nat) : State := s.emitC false code die kind unit a b

/-- The EVT payload of an event (R556), or that of R335 where it carries one. -/
def evtPayload (e : Evt) : List Word :=
  if e.pay = [] then
    [BitVec.ofNat 72 (e.die % 16 + e.kind % 16 * 2 ^ 4 + e.unit % 2 ^ 16 * 2 ^ 8 + evtClass e.code (bit e.flags 8) * 2 ^ 24),
     BitVec.ofNat 72 e.argA, BitVec.ofNat 72 e.argB]
  else e.pay

/-! ### DRAM controllers -/

/-- A read marked poisoned is reported with the store that owns the burst (R546). -/
def State.uncorr (s : State) (d addr blk store : Nat) : State :=
  (s.raise (DRC_EVENTS_UNCORR d)).emit 0x7A d 0 0 (addr / 8) (blk + store * 256)

def State.drc (s : State) (d : Nat) : DrcSt := Store.get (fun _ => DrcSt.reset) s.drcs d
def State.setDrc (s : State) (d : Nat) (v : DrcSt) : State := { s with drcs := Store.put (fun _ => DrcSt.reset) s.drcs d v }

/-- The refreshes that PANIC postponed are issued (R420). -/
def State.issueRefreshes (s : State) (d : Nat) : State :=
  let q := s.drc d
  s.setDrc d { q with refreshes := q.refreshes + (q.postponed.map (·.2)).foldl (· + ·) 0, postponed := [] }

/-! ### Interrupts (R443) -/

/-- Port p's state: 0 DOWN, 1 UP, 2 DEACC. -/
def State.portState (s : State) (p : Nat) : Nat := s.get (HP_STATUS_STATE p)

/-- The tunnels of both ports go with the rails that carry them. -/
def State.portsDown (s : State) : State :=
  forAll [0, 1] s fun s p => if s.portState p = 1 then (s.put (HP_STATUS_STATE p) 0).put (HP_STATUS_LINK p) 0 else s

/-- An event for vector v of port p: signalled, or merged into the holdoff that runs. A port that is not UP signals
nothing. -/
def State.msix (s : State) (p v : Nat) : State :=
  let q := s.port p
  if s.portState p ≠ 1 then s
  else if q.holdoff.contains v then
    if q.merged.contains v then s else s.setPort p { q with merged := q.merged ++ [v] }
  else
    let s1 := s.emitOut (.msix p v)
    if s.get (HP_CFG_IRQ_HOLDOFF_US p) = 0 then s1
    else (s1.setPort p { q with holdoff := q.holdoff ++ [v] }).setTimer (tkHold p v) s.now

/-- Vector 1 of both ports: a change of mode, ALERT_N or REPLACE_N. -/
def State.msixChange (s : State) : State := (s.msix 0 1).msix 1 1

/-! ### Marks of intervals -/

def State.mark (s : State) (k : Nat) : FolMark := Store.get (fun _ => FolMark.reset) s.acc.marks k
def State.setMarkOf (s : State) (k : Nat) (v : FolMark) : State :=
  { s with acc := { s.acc with marks := Store.put (fun _ => FolMark.reset) s.acc.marks k v } }

/-- Flag bits (R347) added to the interval that runs. -/
def State.markNow (s : State) (bits : Nat) : State :=
  match s.acc.cur with
  | none => s
  | some k => s.setMarkOf k { s.mark k with flags := (s.mark k).flags ||| bits }

/-- A mode transition (R516): the mode, the previous mode, the time, the event and vector 1. -/
def State.setMode (s : State) (m : Nat) : State :=
  let p := s.get PWR_MODE_MODE
  let s := if m = mOBSERVE ∨ m = mCURTAILED then { s with workAt := if s.accepts then s.workAt else s.now }
    else { s with acc := { s.acc with modeBroke := true }, workT := s.worked }
  ((((s.put PWR_MODE_PREV p).put PWR_MODE_MODE m).put PWR_MODE_SINCE_S s.secs).raise PWR_EVENTS_MODE_CHANGE
    |>.emit 0x03 dcPACKAGE 0 0 (m + p * 8) 0).msixChange.markNow (if m = mCURTAILED then 32 else 0)

/-- ALERT_N asserted (R531). -/
def State.alert (s : State) : State := if s.get PWR_MODE_ALERT = 1 then s else (s.raise PWR_MODE_ALERT).msixChange

/-! ### Counter store and fault record (R472, R501, R539) -/

def flashKey (dev off : Nat) : Nat := dev * 2 ^ 40 + off
def State.rdFlash (s : State) (dev off n : Nat) : List Nat :=
  (Store.getList flashErased s.flash (flashKey dev off) n).map BitVec.toNat
def State.wrFlash (s : State) (dev off : Nat) (b : List Nat) : State :=
  { s with flash := Store.putList flashErased s.flash (flashKey dev off) (b.map (BitVec.ofNat 8)) }

/-- Where the counter store lies and its size in 32-octet units (R471). -/
def storeBase : Nat := 0x01000000
def storeUnits : Nat := 32768

/-- Units of a record by its first four octets; 0 ends the log. -/
def recUnits (h : List Nat) : Nat :=
  if h = [0x5A, 0x4E, 0x43, 0x53] then 1 else if h = [0x5A, 0x4E, 0x46, 0x52] then 1
  else if h = [0x5A, 0x4E, 0x4F, 0x50] then 2 else 0

/-- The records of a device's log from unit u on, and the unit at which it ends. -/
def State.scanLog (s : State) (dev : Nat) : Nat → Nat → List (List Nat) × Nat
  | 0, u => ([], u)
  | fuel + 1, u =>
    let n := recUnits (s.rdFlash dev (storeBase + 32 * u) 4)
    if n = 0 ∨ storeUnits < u + n then ([], u)
    else
      let r := s.scanLog dev fuel (u + n)
      (s.rdFlash dev (storeBase + 32 * u) (32 * n) :: r.1, r.2)

/-- A record's CRC-32 is right (over all but its last four octets). -/
def recValid (r : List Nat) : Bool := ofOctets (r.drop (r.length - 4)) == crc32 (r.take (r.length - 4))

/-- Octets lo to lo + n - 1 of a record as a number. -/
def recNum (r : List Nat) (lo n : Nat) : Nat := ofOctets ((r.drop lo).take n)

/-- Every valid record of either device. -/
def State.storeRecs (s : State) : List (List Nat) :=
  ((s.scanLog 0 storeUnits 0).1 ++ (s.scanLog 1 storeUnits 0).1).filter recValid

/-- The highest generation in the store, 0 when it holds none. -/
def State.topGen (s : State) : Nat := (s.storeRecs.map (recNum · 4 4)).foldl max 0

/-- A record (its octets before the CRC, without the generation) appended to both devices with the next generation. -/
def State.appendRec (s : State) (magic body : List Nat) : State :=
  let g := max s.topGen s.csvGen + 1
  let r := magic ++ toOctets 4 g ++ body
  let r := r ++ toOctets 4 (crc32 r)
  let put := fun (s : State) (dev : Nat) =>
    let e := (s.scanLog dev storeUnits 0).2
    if e + r.length / 32 ≤ storeUnits then s.wrFlash dev (storeBase + 32 * e) r else s
  put (put s 0) 1

/-- A counter record with the values in force (R472); ARB_STATE.GEN takes its generation. -/
def State.appendCounter (s : State) : State :=
  let g := max s.topGen s.csvGen + 1
  (s.appendRec [0x5A, 0x4E, 0x43, 0x53]
    (toOctets 2 s.nvm.epoch ++ toOctets 6 (s.get RG_STATUS_SCC) ++ toOctets 4 (s.get ARB_STATE_FLOOR) ++
      List.replicate 8 0)).put ARB_STATE_GEN g

/-- A fault record: deaccessioned (1) or reinstated (0) (R539). -/
def State.appendFault (s : State) (u : UnitId) (dead serial : Nat) : State :=
  s.appendRec [0x5A, 0x4E, 0x46, 0x52]
    ([u.kind, u.die] ++ toOctets 2 u.idx ++ [dead] ++ toOctets 4 serial ++ List.replicate 11 0)

/-! ### Faults, deaccession and replacement (R536 to R555) -/

/-- The unit is deaccessioned. -/
def State.isDead (s : State) (u : UnitId) : Bool := s.flt.dead.contains u

/-- The UNIT_BKT index of a unit that has one (chapter 20's register table). -/
def bktIndex (u : UnitId) : Option Nat :=
  match u.kind with
  | 4 => some (17 + u.idx)
  | 5 => some u.idx
  | 6 => some 35
  | 7 => some (36 + u.idx)
  | _ => none

/-- The timer key of a unit's leaky bucket (R537). -/
def bktKey (u : UnitId) (bucket : Nat) : Nat := 2 ^ 32 + (((u.die * 16 + u.kind) * 2 ^ 16 + u.idx) * 2 + bucket)

/-- A bucket gains n; its leak period counts from the gain that ends 0. -/
def State.chargeBy (s : State) (u : UnitId) (bucket : Nat) (f : RF) (n : Nat) : State :=
  (if s.get f = 0 then s.setTimer (bktKey u bucket) s.now else s).bumpBy f n

/-- A bucket gains 1. -/
def State.charge (s : State) (u : UnitId) (bucket : Nat) (f : RF) : State := s.chargeBy u bucket f 1

/-- UNIT_BKT.STATE of a unit: 0 in service, 1 gave up its work, 2 deaccessioned. -/
def State.setUnitState (s : State) (u : UnitId) (v : Nat) : State :=
  match bktIndex u with
  | some i => s.put (UNIT_BKT_STATE u.die i) v
  | none => s

/-- Replacement status follows the conditions in force (R553 to R555): levels, masks and REPLACE_N; newly requested in
OBSERVE the device is CURTAILED. Leaving CURTAILED waits for a consignment boundary (R516). -/
def State.evalRepl (s : State) : State :=
  let conds := s.flt.conds
  let adv := s.flt.advised
  let lvl := if conds ≠ [] then 2 else if adv ≠ [] then 1 else 0
  let mask := fun (l : List (Nat × Nat)) => (List.range 8).foldl (fun m d => if l.any (·.2 == d) then m + 2 ^ d else m) 0
  let s1 := (((s.put REPL_STATUS_LEVEL lvl).put REPL_STATUS_DIE_REQ (mask conds)).put REPL_STATUS_DIE_ADV (mask adv))
  let s2 := s1.put REPL_STATUS_KEEPER_ADV (b2n (adv.any (·.1 == 0x32)))
  let s3 := if s2.get REPL_STATUS_REPLACE = b2n (conds ≠ []) then s2
    else (s2.put REPL_STATUS_REPLACE (b2n (conds ≠ []))).msixChange
  let s4 := forAll s.dies s3 fun s d =>
    s.put (FLT_STATUS_LEVEL d) (if conds.any (·.2 == d) then 2 else if adv.any (·.2 == d) then 1 else 0)
  if conds ≠ [] ∧ s4.mode = mOBSERVE then s4.setMode mCURTAILED else s4

/-- A replacement condition holds (R554); newly, REPLACE is emitted with its code. -/
def State.request (s : State) (code die days : Nat) : State :=
  if s.flt.conds.contains (code, die) then s
  else
    let s1 := ({ s with flt := { s.flt with conds := s.flt.conds ++ [(code, die)] } }).emit 0x07 die 0 0 code days
    (when (decide (die < 8)) (·.raise (FLT_EVENTS_REQUESTED die)) s1).evalRepl

/-- A replacement condition no longer holds. -/
def State.unrequest (s : State) (code die : Nat) : State :=
  ({ s with flt := { s.flt with conds := s.flt.conds.filter (· != (code, die)) } }).evalRepl

/-- Replacement advised (R553), raised by event `code`. -/
def State.advise (s : State) (code die : Nat) : State :=
  let s1 := ({ s with flt := { s.flt with advised := s.flt.advised ++ [(code, die)] } }).emit 0x06 die 0 0 code 0
  (when (decide (die < 8)) (·.raise (FLT_EVENTS_ADVISED die)) s1).evalRepl

end Sys2Proof.Machine
end

