-- ==== Sys2Proof/Machine/Formats.lean ====
section
/-! DEFINITION. Sample formats, requantisation, exact complex integers and the ledger's F36 arithmetic (chapter 2). -/

namespace Sys2Proof.Machine

/-! ### Samples (R38 to R41) -/

/-- A complex sample and its flag. -/
structure Samp where
  re : Int
  im : Int
  flag : Bool
deriving DecidableEq, Repr

/-- The flagged sample. -/
def Samp.stale : Samp := ⟨0, 0, true⟩

/-- A packed format: 0 C4, 1 C8, 2 C16. Samples per span word. -/
def fmtQ (f : Nat) : Nat := if f = 0 then 8 else if f = 1 then 4 else 2

/-- Bits of a slice, and of one part. -/
def fmtSlice (f : Nat) : Nat := if f = 0 then 9 else if f = 1 then 18 else 36
def fmtPart (f : Nat) : Nat := if f = 0 then 4 else if f = 1 then 8 else 16

/-- The largest magnitude that a unit writes (R39). -/
def fmtP (f : Nat) : Int := if f = 0 then 7 else if f = 1 then 127 else 32767

/-- The slice of one sample. A flagged sample is written with parts 0; parts are clamped (R39). -/
def packSamp (f : Nat) (x : Samp) : Nat :=
  let p := fmtPart f
  if x.flag then 2 ^ (2 * p)
  else unsigned p (clampInt (-fmtP f) (fmtP f) x.re) + unsigned p (clampInt (-fmtP f) (fmtP f) x.im) * 2 ^ p

/-- A span word of samples; those missing are 0. -/
def packWord (f : Nat) (xs : List Samp) : Word :=
  BitVec.ofNat 72 ((xs.take (fmtQ f)).foldr (fun x acc => packSamp f x + acc * 2 ^ fmtSlice f) 0)

/-- Sample k of a span word; the code one below the smallest written reads as flagged (R40). -/
def unpackSamp (f : Nat) (w : Word) (k : Nat) : Samp :=
  let p := fmtPart f
  let x := w.bits (fmtSlice f * k) (fmtSlice f)
  let re := signed p (bitsOf x 0 p)
  let im := signed p (bitsOf x p p)
  if bit x (2 * p) = true ∨ re < -fmtP f ∨ im < -fmtP f then .stale else ⟨re, im, false⟩

/-- Every sample of a span word. -/
def unpackWord (f : Nat) (w : Word) : List Samp := (List.range (fmtQ f)).map (unpackSamp f w)

/-- Samples packed into span words. -/
def packWords (f : Nat) : Nat → List Samp → List Word
  | 0, _ => []
  | n + 1, xs => packWord f (xs.take (fmtQ f)) :: packWords f n (xs.drop (fmtQ f))

/-- A span word of flagged zeros. -/
def staleWord (f : Nat) : Word := packWord f (List.replicate (fmtQ f) .stale)

/-- Samples in a word that are flagged. -/
def flaggedIn (f : Nat) (w : Word) : Nat := ((unpackWord f w).filter Samp.flag).length

/-- What the requantiser rounds a part to before it clamps (R47). R47 gives shifts 1 to 31; of shift 0, which a shift field holds
at reset, the spec states no result: an open value (log entry 51). -/
def requantRound (sh : Nat) (a : Int) : Int :=
  if sh = 0 then Config.requantZero a else (a + (2 ^ (sh - 1) : Nat)) / (2 ^ sh : Nat)

/-- The requantiser on one part (R47). -/
def requant (p : Int) (sh : Nat) (a : Int) : Int := clampInt (-p) p (requantRound sh a)

/-- The part clamped at the requantiser. -/
def requantClamps (p : Int) (sh : Nat) (a : Int) : Bool := decide (requant p sh a ≠ requantRound sh a)

/-- I36C (R43). -/
def i36c (re im : Int) : Word := BitVec.ofNat 72 (unsigned 36 re + unsigned 36 im * 2 ^ 36)
def i36re (w : Word) : Int := signed 36 (w.bits 0 36)
def i36im (w : Word) : Int := signed 36 (w.bits 36 36)

/-! ### F36 (R44, R45, R48) -/

/-- An F36 value: zero, a finite value m · 2^e (28-bit m with its leading 1), or SAT; each with its sign. -/
inductive F36 where
  | zero (neg : Bool)
  | fin (neg : Bool) (m : Nat) (e : Int)
  | sat (neg : Bool)
deriving DecidableEq, Repr

/-- A value's sign. -/
def F36.neg : F36 → Bool
  | .zero n => n
  | .fin n _ _ => n
  | .sat n => n

/-- The value with its sign bit inverted. -/
def F36.flip : F36 → F36
  | .zero n => .zero (!n)
  | .fin n m e => .fin (!n) m e
  | .sat n => .sat (!n)

/-- Decode 36 bits. -/
def F36.ofBits (x : Nat) : F36 :=
  let n := bit x 35
  let e := bitsOf x 27 8
  if e = 0 then .zero n else if e = 255 then .sat n else .fin n (2 ^ 27 + bitsOf x 0 27) ((e : Int) - 127 - 27)

/-- Encode into 36 bits. -/
def F36.bits : F36 → Nat
  | .zero n => b2n n * 2 ^ 35
  | .fin n m e => b2n n * 2 ^ 35 + (e + 127 + 27).toNat % 256 * 2 ^ 27 + m % 2 ^ 27
  | .sat n => b2n n * 2 ^ 35 + 255 * 2 ^ 27

/-- A magnitude m · 2^e rounded to 28 significant bits, ties to even, with underflow to zero and overflow to SAT (R45).
`e` is the exponent of the unit of `m`. -/
def F36.round (neg : Bool) (m : Nat) (e : Int) : F36 :=
  if m = 0 then .zero neg
  else
    let l := Nat.log2 m
    let r : Nat × Int :=
      if l ≤ 27 then (m * 2 ^ (27 - l), e - (27 - l : Nat))
      else
        let k := l - 27
        let q := m / 2 ^ k
        let rem := m % 2 ^ k
        let half := 2 ^ (k - 1)
        let q1 := if half < rem ∨ (rem = half ∧ q % 2 = 1) then q + 1 else q
        if q1 = 2 ^ 28 then (2 ^ 27, e + k + 1) else (q1, e + k)
    if r.2 + 27 < -126 then .zero neg else if 128 ≤ r.2 + 27 then .sat neg else .fin neg r.1 r.2

/-- Two magnitudes at one exponent: the signed exact sum. -/
def finSum (n1 : Bool) (m1 : Nat) (e1 : Int) (n2 : Bool) (m2 : Nat) (e2 : Int) : Int × Int :=
  let e := min e1 e2
  let a : Int := (m1 * 2 ^ (e1 - e).toNat : Nat)
  let b : Int := (m2 * 2 ^ (e2 - e).toNat : Nat)
  ((if n1 then -a else a) + (if n2 then -b else b), e)

/-- F36 addition in the ledger adder (R45). -/
def F36.add (a b : F36) : F36 :=
  match a, b with
  | .sat n, _ => .sat n
  | _, .sat n => .sat n
  | .zero n, .zero m => .zero (n && m)
  | .zero _, .fin n m e => .fin n m e
  | .fin n m e, .zero _ => .fin n m e
  | .fin n1 m1 e1, .fin n2 m2 e2 =>
    let x := finSum n1 m1 e1 n2 m2 e2
    if x.1 = 0 then .zero (n1 && n2) else .round (decide (x.1 < 0)) x.1.natAbs x.2

/-- F36 subtraction (R45). -/
def F36.sub (a b : F36) : F36 := a.add b.flip

/-- +0. -/
def F36.pz : F36 := .zero false

/-- An integer converted, rounding at its 28th significant bit. -/
def F36.ofInt (x : Int) : F36 := if x = 0 then .pz else .round (decide (x < 0)) x.natAbs 0

/-- The value as an integer, when it is one (exact for R48's halves). -/
def F36.toInt : F36 → Int
  | .zero _ => 0
  | .sat _ => 0
  | .fin n m e =>
    let v : Int := if 0 ≤ e then (m * 2 ^ e.toNat : Nat) else (m / 2 ^ (-e).toNat : Nat)
    if n then -v else v

/-- R48's split of one part of an I36C value. -/
def splitPart (x : Int) : F36 × F36 :=
  let h := F36.ofInt x
  if x.natAbs < 2 ^ 28 then (h, .pz) else (h, if x - h.toInt = 0 then .pz else F36.ofInt (x - h.toInt))

/-- F36C (R44). -/
def f36c (re im : F36) : Word := BitVec.ofNat 72 (re.bits + im.bits * 2 ^ 36)
def f36re (w : Word) : F36 := .ofBits (w.bits 0 36)
def f36im (w : Word) : F36 := .ofBits (w.bits 36 36)

end Sys2Proof.Machine
end

