-- ==== Sys2Proof/Machine/Coding.lean ====
section
/-! DEFINITION. The 8b/10b line code that lanes carry (R59, R66, R196, R197), and the descrambler of R79. The spec names the
code and prints no table: the table is that of the published code (log entry 45, PRESUMED). A group's first transmitted bit,
`a`, is its most significant. -/

namespace Sys2Proof.Machine

/-- Data and control characters. -/
def dChr (x : Nat) : Chr := ⟨false, x % 256⟩
def kChr (x : Nat) : Chr := ⟨true, x⟩

/-- K28.0, K28.3, K28.4, K28.5 and K28.7: /R/, /A/, /Q/, /K/ and /F/ on an ingest lane (R59). -/
def k28 (y : Nat) : Chr := kChr (28 + 32 * y)

/-- The six-bit group of data value x (0 to 31) at negative running disparity. -/
def six (x : Nat) : Nat :=
  [0x27, 0x1D, 0x2D, 0x31, 0x35, 0x29, 0x19, 0x38, 0x39, 0x25, 0x15, 0x34, 0x0D, 0x2C, 0x1C, 0x17,
   0x1B, 0x23, 0x13, 0x32, 0x0B, 0x2A, 0x1A, 0x3A, 0x33, 0x26, 0x16, 0x36, 0x0E, 0x2E, 0x1E, 0x2B].getD x 0

/-- The four-bit group of data value y (0 to 7; 8 the alternative form of 7) at negative running disparity. -/
def four (y : Nat) : Nat := [0xB, 0x9, 0x5, 0xC, 0xD, 0xA, 0x6, 0xE, 0x7].getD y 0

/-- Ones among the low `w` bits. -/
def ones (w x : Nat) : Nat := ((List.range w).filter (bit x)).length

/-- A sub-block of `w` bits as sent at running disparity `pos`: the groups that are not balanced, and those two that
alternate, are inverted at positive disparity. -/
def subBlock (w g : Nat) (alt pos : Bool) : Nat := if pos && (alt || 2 * ones w g != w) then 2 ^ w - 1 - g else g

/-- The running disparity after a sub-block. -/
def rdAfter (w g : Nat) (pos : Bool) : Bool := if 2 * ones w g = w then pos else decide (w < 2 * ones w g)

/-- The control characters that the code has: K28.0 to K28.7, K23.7, K27.7, K29.7 and K30.7. -/
def codeControls : List Nat := ((List.range 8).map fun y => 28 + 32 * y) ++ [0xF7, 0xFB, 0xFD, 0xFE]

/-- The ten-bit group of a character at running disparity `pos` (false negative). -/
def enc10 (pos : Bool) (c : Chr) : Nat :=
  let x := c.oct % 32
  let y := c.oct / 32 % 8
  if c.ctl then
    let g := if x = 28 then 0x0F * 16 + [0x4, 0x9, 0x5, 0x3, 0x2, 0xA, 0x6, 0x8].getD y 0 else six x * 16 + 0x8
    if pos then 1023 - g else g
  else
    let a := subBlock 6 (six x) (x == 7) pos
    let mid := rdAfter 6 a pos
    let seven := y == 7 && ((!mid && [17, 18, 20].contains x) || (mid && [11, 13, 14].contains x))
    a * 16 + subBlock 4 (four (if seven then 8 else y)) (y == 3) mid

/-- The characters whose group could be g: its six-bit and four-bit parts looked up at either disparity. -/
def candidates (g : Nat) : List Chr :=
  let xs := (List.range 32).filter fun x => six x == g / 16 || 63 - six x == g / 16
  let ys := (List.range 9).filter fun y => four y == g % 16 || 15 - four y == g % 16
  (xs.flatMap fun x => ys.map fun y => dChr (x + 32 * min y 7)) ++ codeControls.map kChr

/-- The character of a group, at whichever disparity the code gives it; none for a group outside the table. -/
def dec10 (g : Nat) : Option Chr := (candidates g).find? fun c => enc10 false c == g || enc10 true c == g

/-- The group has the wrong running disparity: the code gives it only at the other one. -/
def wrongDisparity (pos : Bool) (g : Nat) : Bool :=
  match dec10 g with
  | some c => enc10 pos c != g
  | none => false

/-- The running disparity after a group. -/
def rdNext (pos : Bool) (g : Nat) : Bool := rdAfter 4 (g % 16) (rdAfter 6 (g / 16) pos)

/-- The groups that send characters in turn, and the running disparity they leave. -/
def encAll (pos : Bool) : List Chr → List Nat × Bool
  | [] => ([], pos)
  | c :: cs =>
    let g := enc10 pos c
    let r := encAll (rdNext pos g) cs
    (g :: r.1, r.2)

/-- The self-synchronising descrambler 1 + x^14 + x^15 on one octet, first bit first (R79): `h` holds the last 15 scrambled
bits, the newest lowest. -/
def descramble (h x : Nat) : Nat × Nat :=
  (List.range 8).foldl
    (fun r i =>
      let b := bit x (7 - i)
      (r.1 * 2 + b2n ((b != bit r.2 13) != bit r.2 14), (r.2 * 2 + b2n b) % 2 ^ 15))
    (0, h)

end Sys2Proof.Machine
end

