-- ==== Sys2Proof/Machine/Net.lean ====
section
/-! DEFINITION. Packets (R209), the choice of a chain for a destination (R250, R252) and delivery inside the package
(R251): the operations every sender of packets uses. -/

namespace Sys2Proof.Machine

open Reg

/-- The header span word of a packet (R209). -/
def pktHeader (p : Pkt) : Word :=
  BitVec.ofNat 72 (p.typ % 16 + p.vc % 4 * 2 ^ 4 + p.dst % 2 ^ 16 * 2 ^ 6 + p.src % 2 ^ 16 * 2 ^ 22 + p.dstDie % 8 * 2 ^ 38 +
    (p.payload.length - 1) % 32 * 2 ^ 41 + p.seq % 2 ^ 16 * 2 ^ 46 + p.hops % 64 * 2 ^ 62 + p.sub % 16 * 2 ^ 68)

/-- The octets of a packet's header and payload in the order sent (R52). -/
def pktOctets (p : Pkt) : List Nat := (pktHeader p :: p.payload).flatMap Word.octets

/-- The CRC-32 a transmitter ends the packet with (R210). -/
def pktCrc (p : Pkt) : Nat := crc32 (pktOctets p)

/-- The credit a packet costs (R216). -/
def pktCost (p : Pkt) : Nat := p.payload.length + 1

/-- The die of package chain k and the chain's index there (R195). -/
def kDie (k : Nat) : Nat := k / 2
def kIdx (k : Nat) : Nat := k % 2

/-- The chain's state, in CH_STATUS coding. -/
def csOFF : Nat := 0
def csDETECT : Nat := 1
def csTRAIN : Nat := 2
def csALIGN : Nat := 3
def csINIT : Nat := 4
def csACTIVE : Nat := 5
def csDEACC : Nat := 6
def State.chState (s : State) (k : Nat) : Nat := s.get (GWL_CH_STATUS_STATE (kDie k) (kIdx k))

/-- The chain exists, is enabled and is not deaccessioned, and carries routes again after any reinstatement (R250). -/
def State.chainUsable (s : State) (k vc : Nat) : Bool :=
  s.present (kDie k) && s.get (GWL_CH_CFG_EN (kDie k) (kIdx k)) == 1 && s.chState k != csDEACC &&
    !(s.chain k).parked && !(vc == 0 && s.get (GWL_CH_CFG_EGRESS (kDie k) (kIdx k)) == 1)

/-- The chain a packet for device `e` takes from die `d`: primary, else alternate (R250); the flag says the alternate was
taken. -/
def State.routeOf (s : State) (d e vc : Nat) : Option (Nat × Bool) :=
  if s.get (ROUTE_PRI_V d e) = 1 ∧ s.chainUsable (s.get (ROUTE_PRIMARY d e)) vc = true then
    some (s.get (ROUTE_PRIMARY d e), false)
  else if s.get (ROUTE_ALT_V d e) = 1 ∧ s.chainUsable (s.get (ROUTE_ALTERNATE d e)) vc = true then
    some (s.get (ROUTE_ALTERNATE d e), true)
  else none

/-- A packet joins a chain's queue for its virtual channel. -/
def State.enqueue (s : State) (k : Nat) (p : Pkt) : State :=
  let c := s.chain k
  match p.vc with
  | 0 => s.setChain k { c with vc0 := c.vc0 ++ [p] }
  | 1 => s.setChain k { c with vc1 := c.vc1 ++ [p] }
  | 2 => s.setChain k { c with vc2 := c.vc2 ++ [p] }
  | _ => s.setChain k { c with vc3 := c.vc3 ++ [p] }

/-! ### Handshake FIFOs (R17, R18) -/

/-- Items that a handshake FIFO holds: at least one (log entry 52). -/
def fifoDepth : Nat := Config.fifoExtra + 1

/-- Some unit takes the packet: streams and their reports, host control of the keeper, acknowledgements and timing (R218, R243,
R245, R357, R393, R459). -/
def unitTakes (p : Pkt) : Bool := p.vc == 0 || p.vc == 1 || (p.vc == 2 && [1, 3, 5, 0xA, 0xC, 0xD].contains p.sub)

/-- The FIFO of a virtual channel towards the units of die e has room. -/
def State.inboxRoom (s : State) (e vc : Nat) : Bool :=
  decide ((s.inbox.filter fun x => x.1 == e && x.2.vc == vc).length < fifoDepth)

/-- The FIFO of a virtual channel into the transmitter of chain k has room. -/
def State.chainRoom (s : State) (k vc : Nat) : Bool :=
  let c := s.chain k
  decide ((match vc with
    | 0 => c.vc0
    | 1 => c.vc1
    | 2 => c.vc2
    | _ => c.vc3).length < fifoDepth)

/-- A packet reaches the units of a die of this package (8: the keeper); one that no unit takes is gone. -/
def State.deliver (s : State) (d : Nat) (p : Pkt) : State :=
  if unitTakes p then { s with inbox := s.inbox ++ [(d, p)] } else s

/-- The packet is the first of its virtual channel that waits for die d's units (R18). -/
def State.inboxHead (s : State) (d : Nat) (p : Pkt) : Bool :=
  (s.inbox.find? fun x => x.1 == d && x.2.vc == p.vc) == some (d, p)

/-! ### The package ring (R20 to R22, R251) -/

/-- A die's place in the ring order: the keeper die (8) first, then the span dies. -/
def ringPos (d : Nat) : Nat := if d = 8 then 0 else d + 1
def dieAt (pos : Nat) : Nat := if pos = 0 then 8 else pos - 1

/-- Dies, and so hops, of the ring. -/
def State.ringLen (s : State) : Nat := s.part.dies + 1

/-- The hops from place a to place b in the ascending way. -/
def State.hopsUp (s : State) (a b : Nat) : List Nat := (List.range ((b + s.ringLen - a) % s.ringLen)).map fun x => (a + x) % s.ringLen

/-- A hop of the list has failed. -/
def State.hopFailed (s : State) (hs : List Nat) : Bool := hs.any fun h => s.getBit REPL_STATUS_HOP_FAILED h

/-- The way from a to b: the shorter, ascending when equal (R21), the other way round where that one has a failed hop (R22);
none between dies that two failed hops part. -/
def State.wayUp (s : State) (a b : Nat) : Option Bool :=
  let u := s.hopsUp a b
  let v := s.hopsUp b a
  let short := decide (u.length ≤ v.length)
  if !s.hopFailed (if short then u else v) then some short
  else if !s.hopFailed (if short then v else u) then some (!short)
  else none

/-- The FIFO of a virtual channel from die d onto the ring has room. -/
def State.pkfRoom (s : State) (d vc : Nat) : Bool :=
  decide ((s.pkf.transit.filter fun x => x.src == ringPos d && x.pkt.vc == vc).length < fifoDepth)

/-- The hop that a packet on its way takes next. -/
def State.nextHop (s : State) (x : PkfPkt) : Nat := if x.up then x.pos else (x.pos + s.ringLen - 1) % s.ringLen

/-- A packet sets out from die d for die e: for its units, or for chain `k` there. -/
def State.cross (s : State) (d e : Nat) (k : Option Nat) (p : Pkt) : State :=
  if d = e then
    match k with
    | some k => s.enqueue k p
    | none => s.deliver e p
  else
    match s.wayUp (ringPos d) (ringPos e) with
    | some up => { s with pkf := { s.pkf with transit := s.pkf.transit ++ [PkfPkt.mk (ringPos d) (ringPos d) (ringPos e) up k p] } }
    | none => s

/-- The die that takes a UNICAST packet addressed to this device: control packets of the keeper's subtypes go to the
keeper, the others to DST_DIE (R218, R243, R357, R459). -/
def localDie (p : Pkt) : Nat :=
  if p.vc = 2 ∧ p.sub ≤ 6 then 8
  else if p.vc = 2 ∧ (p.sub = 0xC ∨ p.sub = 0xD) then (p.payload.headD 0).bits 48 3
  else p.dstDie

/-- The die whose route table a die's packets use; the keeper's use that of SD0 (log entry 24). -/
def tableDie (d : Nat) : Nat := if d = 8 then 0 else d

/-- A UNICAST packet leaves die `d`: for a die of this device over the package fabric, else for the chain of its route; without
a usable chain it is held and UNREACHABLE emitted (R250, R251). `orig` packets take SRC and HOPS of this device. -/
def State.sendUni (s : State) (d : Nat) (p : Pkt) (orig : Bool) : State :=
  let t := tableDie d
  if p.dst = s.ownDev then s.cross d (localDie p) none (if orig then { p with src := s.ownDev } else p)
  else match s.routeOf t p.dst p.vc with
    | some (k, alt) =>
      let p1 := if orig then { p with src := s.ownDev, hops := s.get (GWL_CH_CFG_HOPS_INIT (kDie k) (kIdx k)) } else p
      ((when (alt && s.get (ROUTE_USING_ALT t p.dst) == 0) (·.raise (CTE_EVENTS_ROUTE_ALT t)) s).put (ROUTE_USING_ALT t p.dst)
        (b2n alt)).cross d (kDie k) (some k) p1
    | none =>
      (({ s with pkf := { s.pkf with queue := s.pkf.queue ++ [(d, orig, if orig then { p with src := s.ownDev } else p)] } }).raise
        (CTE_EVENTS_UNREACHABLE t)).emit 0x5F t 0 0 p.dst 0

/-- A UNICAST packet that die d of this device originates on virtual channel `vc` with subtype `sub`. -/
def State.originate (s : State) (d vc dst dstDie sub : Nat) (payload : List Word) : State :=
  s.sendUni d ⟨1, vc, dst, 0, dstDie, sub, 0, 0, payload⟩ true

/-- Held packets try their routes again, in order; those originated here take the HOPS of the chain they leave by. -/
def State.retryHeld (s : State) : State :=
  forAll s.pkf.queue { s with pkf := { s.pkf with queue := [] } } fun s e =>
    match s.routeOf (tableDie e.1) e.2.2.dst e.2.2.vc with
    | some (k, _) => s.cross e.1 (kDie k) (some k)
      (if e.2.1 then { e.2.2 with hops := s.get (GWL_CH_CFG_HOPS_INIT (kDie k) (kIdx k)) } else e.2.2)
    | none => { s with pkf := { s.pkf with queue := s.pkf.queue ++ [e] } }

/-- A packet that has crossed to its die. -/
def State.arrive (s : State) (x : PkfPkt) : State :=
  match x.egress with
  | none => s.deliver (dieAt x.dest) x.pkt
  | some k => if s.chainUsable k x.pkt.vc then s.enqueue k x.pkt else s.sendUni (dieAt x.dest) x.pkt false

/-- The packet is at the end of its way and may be handed over: none sent before one of its class, source and destination is still
on its way (R21), and the FIFO there has room. -/
def State.mayArrive (s : State) (x : PkfPkt) : Bool :=
  x.pos == x.dest &&
    (s.pkf.transit.find? fun y => y.src == x.src && y.dest == x.dest && y.pkt.vc == x.pkt.vc) == some x &&
    (match x.egress with
      | none => s.inboxRoom (dieAt x.dest) x.pkt.vc
      | some k => s.chainRoom k x.pkt.vc)

/-- The packets at the end of their way are handed over in the order sent. -/
def State.pumpPkf (s : State) : State :=
  forAll s.pkf.transit s fun s x =>
    if s.mayArrive x then ({ s with pkf := { s.pkf with transit := s.pkf.transit.erase x } }).arrive x else s

/-- The first delivered packet equal to `p` is taken from die `d`'s inbox. -/
def State.takeInbox (s : State) (d : Nat) (p : Pkt) : State := { s with inbox := s.inbox.erase (d, p) }

end Sys2Proof.Machine
end

