-- ==== Sys2Proof/Machine/ChainState.lean ====
section
/-! DEFINITION. What faults, modes and timing need of a Griwano chain (chapter 8): its registers and counts, the characters it puts
on its lanes (R197 to R199, R203, R208, R212, R222), the latencies of its lanes (R225, R226) and its going OFF. -/

namespace Sys2Proof.Machine

open Reg

/-! ### A chain's registers -/

/-- Lane `lane` of chain k as LN registers number it on its die. -/
def kLane (k lane : Nat) : Nat := 4 * kIdx k + lane

def State.setCh (s : State) (k : Nat) (st : Nat) : State := s.put (GWL_CH_STATUS_STATE (kDie k) (kIdx k)) st

/-- The packet queue of a virtual channel. -/
def ChainSt.vc (q : ChainSt) (v : Nat) : List Pkt :=
  match v with
  | 0 => q.vc0
  | 1 => q.vc1
  | 2 => q.vc2
  | _ => q.vc3

/-- The queue of a virtual channel without its first packet. -/
def ChainSt.popVc (q : ChainSt) (v : Nat) : ChainSt :=
  match v with
  | 0 => { q with vc0 := q.vc0.tail }
  | 1 => { q with vc1 := q.vc1.tail }
  | 2 => { q with vc2 := q.vc2.tail }
  | _ => { q with vc3 := q.vc3.tail }

/-- (LIMIT - USED) mod 2^24 of a virtual channel (R216). -/
def ChainSt.avail (q : ChainSt) (v : Nat) : Nat := (q.limit.getD v 0 + 2 ^ 24 - q.used.getD v 0) % 2 ^ 24

/-- A packet of the virtual channel waits for credit. -/
def ChainSt.stalled (q : ChainSt) (v : Nat) : Bool :=
  match q.vc v with
  | [] => false
  | p :: _ => decide (q.avail v < pktCost p)

/-- Units of 64 span words of the receive buffer of a virtual channel, as CH_VCBUF gives them. -/
def State.vcBuf (s : State) (k v : Nat) : Nat :=
  64 * s.get (match v with
    | 0 => CH_VCBUF_VC0 (kDie k) (kIdx k)
    | 1 => CH_VCBUF_VC1 (kDie k) (kIdx k)
    | 2 => CH_VCBUF_VC2 (kDie k) (kIdx k)
    | _ => CH_VCBUF_VC3 (kDie k) (kIdx k))

/-- The credit limit this receiver gives a virtual channel (R216). -/
def State.rxLimit (s : State) (k v : Nat) : Nat := (s.vcBuf k v + (s.chain k).released.getD v 0) % 2 ^ 24

/-- CH_CREDIT and CH_SEQ.OUTSTANDING follow the chain's counts; a virtual channel that begins to wait for credit notes the time. -/
def State.showChain (s : State) (k : Nat) : State :=
  let q := s.chain k
  let d := kDie k
  let c := kIdx k
  let was := s.get (CH_CREDIT0_STALLED d c) + 4 * s.get (CH_CREDIT1_STALLED d c)
  let q1 := { q with stallAt := (List.range 4).map fun v => if q.stalled v && !bit was v then s.now else q.stallAt.getD v 0 }
  let s0 := s.setChain k q1
  let s1 := ((s0.put (CH_CREDIT0_AVAIL_LO d c) (q.avail 0)).put (CH_CREDIT0_AVAIL_HI d c) (q.avail 1)).put
    (CH_CREDIT0_STALLED d c) (b2n (q.stalled 0) + 2 * b2n (q.stalled 1))
  let s2 := ((s1.put (CH_CREDIT1_AVAIL_LO d c) (q.avail 2)).put (CH_CREDIT1_AVAIL_HI d c) (q.avail 3)).put
    (CH_CREDIT1_STALLED d c) (b2n (q.stalled 2) + 2 * b2n (q.stalled 3))
  s2.put (CH_SEQ_OUTSTANDING d c) q.replay.length

/-- Link state lost on either side (R219). -/
def State.freshLink (s : State) (k : Nat) : State :=
  let d := kDie k
  let c := kIdx k
  let q := s.chain k
  let buf := [s.vcBuf k 0, s.vcBuf k 1, s.vcBuf k 2, s.vcBuf k 3]
  let s1 := ((s.put (CH_SEQ_TX_NEXT d c) 0).put (CH_SEQ_TX_ACKED d c) 65535).put (CH_SEQ_RX_EXPECT d c) 0
  (s1.setChain k { q with replay := [], resend := [], used := [0, 0, 0, 0], released := [0, 0, 0, 0], rx := [],
                          got := [0, 0, 0, 0], granted := buf, limit := buf }).showChain k

/-! ### Characters (R197 to R199) -/

/-- The control characters of R197. -/
def gCOM : Chr := k28 5
def gSOP : Chr := kChr 0xFB
def gEOP : Chr := kChr 0xFD
def gEDB : Chr := kChr 0xFE
def gLCS : Chr := k28 1
def gAOS : Chr := k28 2
def gSKP : Chr := k28 0
def gTOS : Chr := k28 3
def gSLP : Chr := k28 6

/-- The table of R197. -/
def gControls : List Chr := [gCOM, gSOP, gEOP, gEDB, gLCS, gAOS, gSKP, gTOS, gSLP]

/-- A character as the link takes it: none for a group outside the code and for a control character that R197 does not list, which
is a code error. -/
def gChar (g : Nat) : Option Chr :=
  match dec10 g with
  | some c => if c.ctl && !gControls.contains c then none else some c
  | none => none

/-- A packet's characters (R208, R210). -/
def packetChars (p : Pkt) : List Chr :=
  gSOP :: (pktOctets p ++ toOctets 4 (pktCrc p)).map dChr ++ [gEOP]

/-- A nullified packet: what was forwarded of it, ended by EDB (R211). -/
def nullChars (p : Pkt) (sent : Nat) : List Chr := gSOP :: ((pktOctets p).take sent).map dChr ++ [gEDB]

/-- The span word of a link-control block (R212). -/
def lcbWord (l : Lcb) : Word :=
  BitVec.ofNat 72 (l.ackSeq % 2 ^ 16 + b2n l.nak * 2 ^ 16 + b2n l.creditReq * 2 ^ 17 + l.pair % 2 * 2 ^ 18 + b2n l.init * 2 ^ 19 +
    l.creditLo % 2 ^ 24 * 2 ^ 20 + l.creditHi % 2 ^ 24 * 2 ^ 44 + b2n l.fresh * 2 ^ 68 + b2n l.holdAwake * 2 ^ 69)

/-- The block of a span word (R212). -/
def lcbOfWord (w : Word) : Lcb :=
  ⟨w.bits 0 16, bit w.toNat 16, bit w.toNat 17, w.bits 18 1, bit w.toNat 19, w.bits 20 24, w.bits 44 24, bit w.toNat 68,
    bit w.toNat 69⟩

/-- A link-control block's characters: LCS, the word, the CRC-16 least significant octet first (R212). -/
def lcbChars (l : Lcb) : List Chr :=
  gLCS :: ((lcbWord l).octets ++ toOctets 2 (crc16 (lcbWord l).octets)).map dChr

/-- The alignment ordered set of a logical lane (R199). -/
def aosChars (mc lane : Nat) : List Chr :=
  let o := lane :: toOctets 3 mc
  [gAOS] ++ o.map dChr ++ [dChr (o.foldl (· + ·) 0), gSKP, gSKP]

/-- A training ordered set's characters (R203). -/
def tosChars (t : Tos) : List Chr :=
  let o := [t.ln, t.req, t.stat, t.rate, t.dev, t.dev / 256, t.chain, t.rseq, t.echo, t.eyeH, t.eyeW].map (· % 256)
  [gTOS] ++ o.map dChr ++ [dChr (o.foldl (· + ·) 0), gCOM, gCOM, gCOM]

/-- Characters on one lane, at its running disparity. -/
def ChainSt.onLane (q : ChainSt) (lane : Nat) (cs : List Chr) : List (Nat × Nat) × ChainSt :=
  let r := encAll (q.rd.getD lane false) cs
  (r.1.map (lane, ·), { q with rd := q.rd.set lane r.2 })

/-- `n` characters on every lane, as `f` gives them, column by column. -/
def ChainSt.onLanes (q : ChainSt) (n : Nat) (f : Nat → List Chr) : List (Nat × Nat) × ChainSt :=
  let r := [0, 1, 2, 3].foldl (fun r l => let x := r.2.onLane l (f l); (r.1 ++ [x.1], x.2)) (([] : List (List (Nat × Nat))), q)
  ((List.range n).flatMap fun i => r.1.filterMap (·[i]?), r.2)

/-- Characters of the stream between two ordered sets, four lanes of 4,096 less the eight of the set (R199). -/
def aosPeriod : Nat := 4 * (4096 - 8)

/-- An AOS on every lane with the next MC; the next is due a period later. -/
def ChainSt.aosSet (q : ChainSt) : List (Nat × Nat) × ChainSt :=
  let r := q.onLanes 8 (aosChars q.mc)
  (r.1, { r.2 with mc := (q.mc + 1) % 2 ^ 24, aosNext := q.pos + aosPeriod })

/-- Characters of the stream: number n on logical lane n mod 4, with the AOS that falls due among them (R198, R199). -/
def ChainSt.stream : ChainSt → List Chr → List (Nat × Nat) × ChainSt
  | q, [] => ([], q)
  | q, c :: cs =>
    let a := if q.pos % 4 = 0 ∧ q.aosNext ≤ q.pos then q.aosSet else ([], q)
    let x := a.2.onLane (a.2.pos % 4) [c]
    let r := ChainSt.stream { x.2 with pos := a.2.pos + 1 } cs
    (a.1 ++ x.1 ++ r.1, r.2)

/-- Stream characters go out on a chain. -/
def State.sendStream (s : State) (k : Nat) (cs : List Chr) : State :=
  let r := (s.chain k).stream cs
  (s.setChain k { r.2 with actAt := s.now }).emitOut (.line k r.1)

/-- Idle fill brings the stream to position `dest` (R197). -/
def State.fillTo (s : State) (k dest : Nat) : State :=
  let q := s.chain k
  if dest ≤ q.pos then s
  else
    let n := dest - q.pos
    let flips := fun (l : Nat) => (List.range 4).foldl (fun m x => if (q.pos + x) % 4 = l then (n + 3 - x) / 4 else m) 0
    (s.setChain k { q with pos := dest, rd := (List.range 4).map fun l => (q.rd.getD l false) != (flips l % 2 == 1) }).emitOut (.fill k n)

/-- The AOS goes out at the next column (R199). -/
def State.sendAosSet (s : State) (k : Nat) : State :=
  let s1 := s.fillTo k ((s.chain k).pos + (4 - (s.chain k).pos % 4) % 4)
  let q := s1.chain k
  let r := q.aosSet
  ((s1.setChain k r.2).emitOut (.aos k q.mc)).emitOut (.line k r.1)

/-- A lane's training ordered set as its state stands (R203). -/
def State.tosNow (s : State) (k lane : Nat) : Tos :=
  let l := (s.chain k).lanes.getD lane .reset
  let n := kLane k lane
  { ln := lane, req := l.req, stat := l.statOut + 64 * b2n l.trained, rate := s.get (GWL_CH_CFG_RATE (kDie k) (kIdx k)), dev := s.ownDev,
    chain := k, rseq := l.rseq, echo := l.applied.getD 0, eyeH := s.get (LN_EYE_HEIGHT_MV (kDie k) n),
    eyeW := s.get (LN_EYE_WIDTH (kDie k) n) }

/-- Training ordered sets go out back to back; one is shown for every change of what they carry. -/
def State.sendTos (s : State) (k lane : Nat) : State :=
  let t := s.tosNow k lane
  let r := (s.chain k).onLane lane (tosChars t)
  ((s.setChain k r.2).emitOut (.tos k lane t)).emitOut (.line k r.1)

/-! ### Lane latencies (R225, R226) -/

/-- Ten unit intervals, a character on a lane, in ps at a CH_CFG.RATE. -/
def charPs (rate : Nat) : Nat := [625, 800, 1000, 1600].getD rate 625

/-- The inbox key of the timing engine for a packet whose SOP came on logical lane `lane` of chain k. -/
def teKey (k lane : Nat) : Nat := 16 + 4 * k + lane % 4

/-- LN_LAT of lane `lane` of chain k: the factory's figures for the configured rate. -/
def State.lnLat (s : State) (k lane : Nat) : Word :=
  (Config.factoryWord (LN_LAT (kDie k) (kLane k lane) + s.get (GWL_CH_CFG_RATE (kDie k) (kIdx k)))).upd 48 24 0

/-- The time in ps at which a packet that passes the PCS at `t` leaves the ball of the lane that carries its SOP, the next of the
stream. -/
def State.ballOut (s : State) (k t : Nat) : Nat := t + (s.lnLat k ((s.chain k).pos % 4)).bits 0 24

/-- The time in ps at which the SOP that reaches the PCS at `t` on logical lane `lane` reached the ball. -/
def State.ballIn (s : State) (k lane t : Nat) : Nat :=
  let n := bitsOf (s.get (CH_PEER_LANE_MAP (kDie k) (kIdx k))) (2 * (lane % 4)) 2
  t - (s.lnLat k n).bits 24 24 - s.get (LN_STATUS_DESKEW (kDie k) (kLane k n)) * charPs (s.get (GWL_CH_CFG_RATE (kDie k) (kIdx k)))

/-! ### OFF -/

/-- Every lane of the chain enters a state, with its training begun anew; `free` when no request is to be answered first. -/
def State.lanesTo (s : State) (k st : Nat) (free : Bool) : State :=
  let s1 := forAll [0, 1, 2, 3] s fun s l =>
    when (st == 2) (·.put (LN_STATUS_REQS (kDie k) (kLane k l)) 0)
      ((s.put (LN_STATUS_STATE (kDie k) (kLane k l)) st).putBit (GWL_STATUS_LANE_TRAINED (kDie k)) (kLane k l) false)
  s1.setChain k { s1.chain k with lanes := (s1.chain k).lanes.map fun l =>
    { LaneTrain.reset with rseq := l.rseq, applied := l.applied, echoed := free, echoAt := s.now } }

/-- The transmit direction is awake; the time it slept is counted. -/
def State.chainTxAwake (s : State) (k : Nat) : State :=
  let d := kDie k
  let c := kIdx k
  let s0 := if s.get (GWL_CH_STATUS_TX_SLEEP d c) ≠ 0 then s.bumpBy (CH_SLEEP_ASLEEP_MS d c) ((s.now - (s.chain k).sleptAt) / tMs) else s
  (s0.put (GWL_CH_STATUS_TX_SLEEP d c) 0).putBit (GWL_STATUS_TX_ASLEEP d) c false

/-- Neither direction of the chain sleeps. -/
def State.chainAwake (s : State) (k : Nat) : State :=
  ((s.chainTxAwake k).put (GWL_CH_STATUS_RX_SLEEP (kDie k) (kIdx k)) 0).putBit (GWL_STATUS_RX_ASLEEP (kDie k)) (kIdx k) false

/-- The chain goes OFF with its link state kept, or stays DEACC (R202, R219). -/
def State.chainOff (s : State) (k : Nat) : State :=
  if s.chState k = csDEACC then s
  else
    let s1 := (((s.setCh k csOFF).putBit (GWL_STATUS_CH_ACTIVE (kDie k)) (kIdx k) false).lanesTo k 0 false).chainAwake k
    s1.setChain k { s1.chain k with firstTrain := true, tries := 0, initSent := 0, initRcvd := 0 }

/-- The package chains of the part. -/
def State.chainsOf (s : State) : List Nat := List.range (2 * s.part.dies)

/-- Every chain goes OFF. -/
def State.chainsOff (s : State) : State := forAll s.chainsOf s State.chainOff

end Sys2Proof.Machine
end

