-- ==== Sys2Proof/Machine/IngestState.lean ====
section
/-! DEFINITION. Lane and link states (R70 to R72), the local clocks of links (R72, R75) and the release times of R76 and R77:
what faults and modes need of the ingest unit. -/

namespace Sys2Proof.Machine

open Reg

def State.ing (s : State) (d : Nat) : IngSt := Store.get (fun _ => IngSt.reset) s.ings d
def State.setIng (s : State) (d : Nat) (v : IngSt) : State := { s with ings := Store.put (fun _ => IngSt.reset) s.ings d v }
def State.laneSt (s : State) (d n : Nat) : LaneSt := Store.get (fun _ => LaneSt.reset) (s.ing d).lanes n
def State.setLaneSt (s : State) (d n : Nat) (v : LaneSt) : State :=
  s.setIng d { s.ing d with lanes := Store.put (fun _ => LaneSt.reset) (s.ing d).lanes n v }
def State.linkSt (s : State) (d j : Nat) : LinkSt := Store.get (fun _ => LinkSt.reset) (s.ing d).links j
def State.setLinkSt (s : State) (d j : Nat) (v : LinkSt) : State :=
  s.setIng d { s.ing d with links := Store.put (fun _ => LinkSt.reset) (s.ing d).links j v }

/-! ### States (R70 to R72) -/

def lnOFF : Nat := 0
def lnACQ : Nat := 1
def lnHUNT : Nat := 2
def lnCGS : Nat := 3
def lnDEACC : Nat := 4
def lkDISABLED : Nat := 0
def lkSYNC : Nat := 1
def lkILAS : Nat := 2
def lkDATA : Nat := 3
def lkFAIL : Nat := 4
def lkDEACC : Nat := 5

def State.laneState (s : State) (d n : Nat) : Nat := s.get (LANE_STATUS_STATE d n)
def State.linkState (s : State) (d j : Nat) : Nat := s.get (LINK_STATUS_STATE d j)

/-- A lane enters a state. -/
def State.setLane (s : State) (d n st : Nat) : State :=
  (s.put (LANE_STATUS_STATE d n) st).putBit (ING_STATUS_LANE_CGS d) n (st == lnCGS)

/-- The setting with the largest eye height, ties to the lower (R64). -/
def bestPeak (eyes : List Nat) : Nat :=
  (List.range eyes.length).foldl (fun b i => if eyes.getD b 0 < eyes.getD i 0 then i else b) 0

/-- `n` fresh free values of `w` bits. -/
def State.drawList (s : State) (w : Nat) : Nat → List Nat × State
  | 0 => ([], s)
  | n + 1 =>
    let r := s.draw w
    let t := State.drawList r.2 w n
    (r.1 :: t.1, t.2)

/-- A lane enters ACQ: FIXED takes the lane's own setting, SWEEP the best of the 16 (R64). The eye heights that the auxiliary
slicer measures are the line's: free values (log entry 46). -/
def State.enterAcq (s : State) (d n : Nat) : State :=
  let s1 := (s.setLane d n lnACQ).put (LANE_STATUS_CDR_LOCK d n) 0
  if s.get (LANE_CFG_CTLE_MODE d n) = 1 then
    let r := s1.drawList 8 16
    let pk := bestPeak r.1
    (((r.2.put (LANE_STATUS_PEAK_USED d n) pk).put (LANE_EYE_HEIGHT_MV d n) (r.1.getD pk 0)).setTimer (tkEye d n) s.now).putFree
      (LANE_EYE_WIDTH d n)
  else s1.put (LANE_STATUS_PEAK_USED d n) (s.get (LANE_CFG_CTLE_PEAK d n))

/-- A link state in which SYNC~ is released (R72). -/
def syncOff (st : Nat) : Bool := st == lkILAS || st == lkDATA

/-- A link enters a state; SYNC~ is asserted in every state but ILAS and DATA (R72), and the wait limit's count starts when
DATA is left (R84). -/
def State.setLink (s : State) (d j st : Nat) : State :=
  let o := s.linkState d j
  let q := s.linkSt d j
  let s1 := s.setLinkSt d j
    { q with syncAt := if syncOff o && !syncOff st then s.now else q.syncAt,
             waitAt := if o == lkDATA && st != lkDATA then s.worked else q.waitAt }
  ((s1.put (LINK_STATUS_STATE d j) st).put (LINK_STATUS_SYNC_ASSERTED d j) (b2n (!syncOff st))).putBit
    (ING_STATUS_LINK_DATA d) j (st == lkDATA)

/-- The enabled lanes of a link. -/
def State.linkLanes (s : State) (d j : Nat) : List Nat :=
  (List.range 16).filter fun n => s.get (LANE_CFG_EN d n) == 1 && s.get (LANE_CFG_LINK d n) == j

/-- The enabled input slots of a die, ascending; those that a link feeds. -/
def State.enabledSlots (s : State) (d : Nat) : List Nat := (List.range 128).filter fun i => s.get (INPUT_MAP_EN d i) == 1
def State.inputsOfLink (s : State) (d j : Nat) : List Nat := (s.enabledSlots d).filter fun i => s.get (INPUT_MAP_LINK d i) == j

/-- The enabled input slots that are not deaccessioned. -/
def State.liveSlots (s : State) (d : Nat) : List Nat := (s.enabledSlots d).filter fun i => s.get (INPUT_MAP_DEACC d i) == 0

/-- The lane's link. -/
def State.linkOf (s : State) (d n : Nat) : Nat := s.get (LANE_CFG_LINK d n)

/-! ### Link parameters -/

def State.lkS (s : State) (d j : Nat) : Nat := s.get (LINK_CFG_S_M1 d j) + 1
def State.lkK (s : State) (d j : Nat) : Nat := s.get (LINK_CFG_K_M1 d j) + 1
def State.lkF (s : State) (d j : Nat) : Nat := s.get (LINK_CFG_F_M1 d j) + 1
def State.lkN (s : State) (d j : Nat) : Nat := s.get (LINK_CFG_N_M1 d j) + 1
def State.lkNP (s : State) (d j : Nat) : Nat := if s.get (LINK_CFG_NP d j) = 1 then 16 else 8
/-- Converters of link j. -/
def State.lkM (s : State) (d j : Nat) : Nat := s.get (LINK_CFG_M_M1 d j) + 1
/-- Lanes that link j is set to. -/
def State.lkL (s : State) (d j : Nat) : Nat := 2 ^ s.get (LINK_CFG_L d j)

/-- The lane rate of a link in baud; one that no lane sets counts as 1. -/
def State.lkRate (s : State) (d j : Nat) : Nat :=
  match s.linkLanes d j with
  | [] => 1
  | n :: _ => max 1 (s.get (QUAD_CFG_RATE_KBD d (n / 4)) * 1000)

/-! ### Local clocks (R72, R75) -/

/-- An instant of a grid: `n` steps of a / b units after `t`, rounded down. -/
def gridAt (t : Int) (a b : Nat) (n : Int) : Nat := (t + n * (a : Nat) / (b : Nat)).toNat

/-- The number of the last instant of the grid at or before `x`. -/
def gridLast (t : Int) (a b : Nat) (x : Int) : Int := ((x - t + 1) * (b : Nat) - 1) / (a : Nat)

/-- The first instant of the grid at or after `x`. -/
def gridFrom (t : Int) (a b : Nat) (x : Nat) : Nat := gridAt t a b (gridLast t a b ((x : Int) - 1) + 1)

/-- Units of device time, times the lane rate, that `n` octets of a lane take. -/
def octUnits (n : Nat) : Nat := 10 * n * tSec

/-- Units of device time of one multiframe, rounded down. -/
def State.mfTime (s : State) (d j : Nat) : Nat := octUnits (s.lkF d j * s.lkK d j) / s.lkRate d j

/-- The anchor t_L of the receive LMFC of link j (R75, R403): from ALIGN_T and the link's offset in VCO cycles. Out of an
alignment there is none. -/
def State.lmfcAnchor (s : State) (d j : Nat) : Option Int :=
  s.te.alignT.map fun t => (t * tSec : Nat) + s.getI (LINK_ANCHOR_OFS (8 * d + j)) * (tSec : Nat) / (max 1 (s.get TE_SYNTH_FVCO_HZ) : Nat)

/-- The instant at or after `x` at which SYNC~ may be released: in subclass 1 the next edge of the receive LMFC, in subclass 0
the next edge of the link's own frame grid (R71, R72). -/
def State.syncEdge (s : State) (d j x : Nat) : Nat :=
  if s.get (LINK_CFG_SUBCLASS d j) = 1 then
    match s.lmfcAnchor d j with
    | some t => gridFrom t (octUnits (s.lkF d j * s.lkK d j)) (s.lkRate d j) x
    | none => x
  else gridFrom (s.linkSt d j).phase (octUnits (s.lkF d j)) (s.lkRate d j) x

/-- Octets from the last edge of the receive LMFC to instant `x` (LINK_LAT.ARRIVAL). A subclass-0 link whose receive LMFC has no
anchor counts from its own frame grid (log entry 47). -/
def State.arrivalOcts (s : State) (d j x : Nat) : Nat :=
  let t := (s.lmfcAnchor d j).getD ((s.linkSt d j).phase : Nat)
  let a := octUnits (s.lkF d j * s.lkK d j)
  let b := s.lkRate d j
  (x - gridAt t a b (gridLast t a b x)) * b / (10 * tSec)

/-- When multiframe `m` of DATA is released (R76, R77): in subclass 1 RBD frames after the first edge of the receive LMFC that
follows its arrival on the latest lane, in subclass 0 on that arrival. -/
def State.releaseAt (s : State) (d j m : Nat) : Nat :=
  let q := s.linkSt d j
  let a := octUnits (s.lkF d j * s.lkK d j)
  let b := s.lkRate d j
  match (if s.get (LINK_CFG_SUBCLASS d j) = 1 then s.lmfcAnchor d j else none) with
  | some t =>
    let n := gridLast t a b q.arr + 1 + (m : Nat)
    (t + (n * (a : Nat) + (octUnits (s.lkF d j * s.get (LINK_CFG_RBD d j)) : Nat)) / (b : Nat)).toNat
  | none => gridAt (q.arr : Nat) a b (m : Nat)

/-! ### Links start and stop -/

/-- A link enters SYNC; in subclass 0 its frame-edge grid takes a new phase, which the spec leaves open (R72). -/
def State.toSync (s : State) (d j : Nat) : State :=
  let s1 := s.setLink d j lkSYNC
  if s.get (LINK_CFG_SUBCLASS d j) = 0 then
    let r := s1.draw 32
    r.2.setLinkSt d j { r.2.linkSt d j with phase := r.1 % max 1 (octUnits (s.lkF d j) / s.lkRate d j) }
  else s1

/-- A link out of DATA or ILAS re-initialises (R66, R71). -/
def State.reinit (s : State) (d j : Nat) : State :=
  if s.linkState d j = lkILAS ∨ s.linkState d j = lkDATA then
    ((s.toSync d j).bump (LINK_COUNT_REINIT d j)).raise (ING_EVENTS_REINIT d)
  else s

/-- The modes in which lanes and links run (R70, R71). -/
def State.ingestMode (s : State) : Bool := s.mode == mMUSTER || s.runs

/-- Enabled lanes leave OFF and enabled links leave DISABLED (R70, R71), but for the links of `bad`, which R616 keeps there;
every link that is not in ILAS or DATA asserts SYNC~ (R72). -/
def State.ingestStart (s : State) (d : Nat) (bad : List Nat) : State :=
  let s1 := forAll (List.range 16) s fun s n =>
    if s.get (LANE_CFG_EN d n) = 1 ∧ s.laneState d n = lnOFF then s.enterAcq d n else s
  forAll (List.range 8) s1 fun s j =>
    if s.get (LINK_CFG_EN d j) = 1 ∧ s.linkState d j = lkDISABLED ∧ bad.contains j = false then s.toSync d j
    else s.put (LINK_STATUS_SYNC_ASSERTED d j) (b2n (!syncOff (s.linkState d j)))

/-- Every lane OFF and every link DISABLED, but for those deaccessioned; the sample streams end (R70, R71). -/
def State.ingestStop (s : State) (d : Nat) : State :=
  let s1 := forAll (List.range 16) s fun s n =>
    if s.laneState d n = lnDEACC then s else (s.setLane d n lnOFF).put (LANE_STATUS_CDR_LOCK d n) 0
  forAll (List.range 8) s1 fun s j =>
    let s := if s.linkState d j = lkDEACC then s else s.setLink d j lkDISABLED
    s.setLinkSt d j { s.linkSt d j with live := false }

/-- The ingest units of every span die. -/
def State.ingestStopAll (s : State) : State := forAll (List.range s.part.dies) s fun s d => s.ingestStop d

end Sys2Proof.Machine
end

