-- ==== Sys2Proof/Machine/Hist.lean ====
section
/-! DEFINITION. The folio grid (R115 to R117), marks of intervals, the discard of DFU histories (R106) and the effect of a
step of device time on acceptance (R119): what the clock family needs of chapters 4 and 5. -/

namespace Sys2Proof.Machine

open Reg

def State.dfu (s : State) (d : Nat) : DfuSt := Store.get (fun _ => DfuSt.reset) s.dfus d
def State.setDfu (s : State) (d : Nat) (v : DfuSt) : State := { s with dfus := Store.put (fun _ => DfuSt.reset) s.dfus d v }
def State.dfuIn (s : State) (d i : Nat) : DfuIn := Store.get (fun _ => DfuIn.reset) (s.dfu d).ins i
def State.setDfuIn (s : State) (d i : Nat) (v : DfuIn) : State :=
  s.setDfu d { s.dfu d with ins := Store.put (fun _ => DfuIn.reset) (s.dfu d).ins i v }
def State.acu (s : State) (d : Nat) : AcuSt := Store.get (fun _ => AcuSt.reset) s.acus d
def State.setAcu (s : State) (d : Nat) (v : AcuSt) : State := { s with acus := Store.put (fun _ => AcuSt.reset) s.acus d v }

/-! ### The grid -/

/-- fs as numerator and denominator; an unset rate counts as 1 Hz. -/
def State.fsNum (s : State) (d : Nat) : Nat := max 1 (s.get (GRID_RATE_FS_NUM d))
def State.fsDen (s : State) (d : Nat) : Nat := max 1 (s.get (GRID_RATE_FS_DEN d))

/-- t0 in nanoseconds. -/
def State.gridT0 (s : State) (d : Nat) : Nat := s.get (GRID_T0_SEC d) * 1000000000 + s.get (GRID_T0_NS d)

/-- The device time of grid index j, in units of 2^-16 ns, rounded down (R117). -/
def State.gridTime (s : State) (d j : Nat) : Nat :=
  s.gridT0 d * 65536 + j * s.fsDen d * tSec / s.fsNum d

/-- The folio whose interval holds device time t (in 2^-16 ns); negative before t0. -/
def State.folioAt (s : State) (d : Nat) (t : Int) : Int :=
  (t - (s.gridT0 d * 65536 : Nat)) * (s.fsNum d : Int) / (4096 * s.fsDen d * tSec : Nat)

/-! ### The schedule of channel samples (R229, R230) -/

/-- Channels of the programme. -/
def State.nch (s : State) (d : Nat) : Nat := 2 ^ s.get (CTE_CFG_NCH_LOG2 d)
/-- Channel samples per channel and input of a folio. -/
def State.ns (s : State) (d : Nat) : Nat := 4096 / s.nch d
/-- The short integration of folio k (R230). -/
def State.siOf (s : State) (d k : Nat) : Nat := k * s.ns d / max 1 (s.get (CTE_CFG_NSI d))
/-- The first folio of short integration n, and folios per short integration. -/
def State.siFolios (s : State) (d : Nat) : Nat := s.get (CTE_CFG_NSI d) / max 1 (s.ns d)
def State.siFirst (s : State) (d n : Nat) : Nat := n * s.siFolios d

/-! ### Discards (R106) -/

/-- Taps of the live bank, and of the shadow bank. -/
def State.liveTaps (s : State) (d i : Nat) : Nat :=
  (if s.get (IN_CFG_LIVE d i) = 0 then s.get (IN_CFG_TAPS_A_M1 d i) else s.get (IN_CFG_TAPS_B_M1 d i)) + 1
def State.shadowTaps (s : State) (d i : Nat) : Nat :=
  (if s.get (IN_CFG_LIVE d i) = 0 then s.get (IN_CFG_TAPS_B_M1 d i) else s.get (IN_CFG_TAPS_A_M1 d i)) + 1

/-- An input's FIR history is discarded: its first T - 1 outputs will carry the flag; none in settle-free mode (R111). -/
def State.discardHist (s : State) (d i : Nat) : State :=
  let n := if s.get (IN_CFG_MODE d i) = 1 then s.liveTaps d i - 1 else 0
  (((s.setDfuIn d i { s.dfuIn d i with hist := [] }).put (IN_STATUS_HIST_FLAG d i) n).raise (DFU_EVENTS_HIST_DISCARD d))

/-- The input's next output may come at any index that has not come yet: after a start, a warm reset or a step of time. -/
def State.seekOutput (s : State) (d i : Nat) : State := s.setDfuIn d i { s.dfuIn d i with next := none }

/-- Every enabled input's history on every die; the outputs go on at the grid index that has come. -/
def State.discardAll (s : State) : State :=
  forAll s.dies s fun s d => forAll (List.range 128) s fun s i =>
    if s.get (INPUT_MAP_EN d i) = 1 then (s.discardHist d i).seekOutput d i else s

/-- The delay lines of a die are discarded: flagged zeros everywhere (R99, R106). -/
def State.discardLines (s : State) (d : Nat) : State :=
  { s with regs := Store.keep s.regs fun a => decide (a < DELAY_LINE d 0 0 ∨ DELAY_LINE d 128 0 ≤ a) }

/-! ### Steps of device time (R119) -/

/-- A step of `delta` units meets the running interval: absorbed below half a sample, else its consignment is refused with
reason TIME and the histories are discarded. Products of the interval carry STEP. -/
def State.stepAcc (s : State) (delta : Int) : State :=
  let s1 := s.markNow 8
  if s.acc.cur = none ∨ 2 * delta.natAbs * s.fsNum 0 < s.fsDen 0 * tSec then s1
  else { s1 with acc := { s1.acc with timeBroke := true } }.discardAll

end Sys2Proof.Machine
end

