-- ==== Sys2Proof/Machine/Rings.lean ====
section
/-! DEFINITION. Product rings: headers, control records, room, commit, seals and the reserve store (R341 to R369). -/

namespace Sys2Proof.Machine

open Reg

/-! ### Control record (R353) -/

/-- The die of a ring and its number there (R341). -/
def ringDie (r : Nat) : Nat := r / 1024
def ringLoc (r : Nat) : Nat := r % 1024

/-- A field of word w of a ring's control record. -/
def rc (r w lo wid : Nat) : RF := ⟨RING_CTL (ringDie r) (ringLoc r) w, lo, wid⟩
def rcWR (r : Nat) : RF := rc r 0 0 36
def rcSPILL (r : Nat) : RF := rc r 0 36 1
def rcNEXT (r : Nat) : RF := rc r 1 0 48
def rcSINCE (r : Nat) : RF := rc r 1 48 24
def rcACKED (r t : Nat) : RF := rc r (6 + t) 0 48
def rcMARKA (r : Nat) : RF := rc r 8 0 48
def rcMARKB (r : Nat) : RF := rc r 9 0 32
def rcVALID (r : Nat) : RF := rc r 9 71 1
def rcSEALNO (r : Nat) : RF := rc r 10 0 48
def rcFIRST (r : Nat) : RF := rc r 11 0 48

/-- CHAIN, 32 octets. -/
def State.ringChain (s : State) (r : Nat) : List Nat :=
  (([2, 3, 4, 5].map fun w => s.rd (RING_CTL (ringDie r) (ringLoc r) w)).flatMap Word.octets).take 32

/-- A 32-octet string packed into four slots from address `a` on, 16 bytes apart (R367). -/
def State.putOctets32 (s : State) (a : Nat) (h : List Nat) : State :=
  let ws := packOctets 4 h
  (((s.wr a (ws.getD 0 0)).wr (a + 16) (ws.getD 1 0)).wr (a + 32) (ws.getD 2 0)).wr (a + 48) (ws.getD 3 0)

/-- The 32 octets of four slots from address `a` on. -/
def State.getOctets32 (s : State) (a : Nat) : List Nat :=
  (([0, 16, 32, 48].map fun o => s.rd (a + o)).flatMap Word.octets).take 32

def State.setRingChain (s : State) (r : Nat) (h : List Nat) : State :=
  s.putOctets32 (RING_CTL (ringDie r) (ringLoc r) 2) h

/-- H at a cold start (R365). -/
def chainInit (dev ring epoch : Nat) : List Nat :=
  sha256 ([0x5A, 0x4E, 0x53, 0x4C] ++ toOctets 2 dev ++ toOctets 2 ring ++ toOctets 2 epoch)

/-- A ring's control record for a new epoch: sequence 0 and H of R365 (R371, R489). -/
def State.initRing (s : State) (r : Nat) : State :=
  let s1 := forAll (List.range 16) s fun s w => s.wr (RING_CTL (ringDie r) (ringLoc r) w) 0
  (s1.setRingChain r (chainInit s.ownDev r s.nvm.epoch)).setRing r .reset

/-! ### Headers (R345) -/

/-- The four header words of a product. -/
def prodHeader (typ flags ring len dev seq epoch code start canFirst canCnt : Nat) : List Word :=
  [BitVec.ofNat 72 (typ % 256 + flags % 256 * 2 ^ 8 + ring % 2 ^ 13 * 2 ^ 16 + len % 2 ^ 24 * 2 ^ 29 + dev % 2 ^ 16 * 2 ^ 53),
   BitVec.ofNat 72 (seq % 2 ^ 48 + epoch % 2 ^ 16 * 2 ^ 48 + code % 256 * 2 ^ 64),
   BitVec.ofNat 72 (bitsOf (packTime start) 8 72),
   BitVec.ofNat 72 (canFirst % 2 ^ 48 + min canCnt (2 ^ 24 - 1) * 2 ^ 48)]

/-! ### Reserve store (R361 to R363) -/

/-- Span words of an extent. -/
def extWords : Nat := 65536

/-- The extents that the rings of die d have taken. -/
def State.usedExts (s : State) (d : Nat) : List Nat :=
  (s.rings.filter fun e => ringDie e.1 == d).flatMap fun e => e.2.exts

/-- RES_LIMIT and RES_REGION of the die satisfy R363. -/
def State.resOk (s : State) (d : Nat) : Bool :=
  decide (1 ≤ s.get (RES_REGION_EXTENTS d)) && decide (1 ≤ s.get (RES_LIMIT_LOW d)) &&
    decide (s.get (RES_LIMIT_LOW d) < s.get (RES_LIMIT_HIGH d)) &&
    decide (s.get (RES_LIMIT_HIGH d) ≤ s.get (RES_REGION_EXTENTS d))

/-- EXT_USED follows the extents taken; at the high mark acceptance stops (R362). -/
def State.extChanged (s : State) (d : Nat) : State :=
  let n := (s.usedExts d).length
  let was := s.get (PR_STATUS_HIGH d)
  let hi := b2n (decide (s.get (RES_LIMIT_HIGH d) ≤ n))
  let s1 := ((s.put (PR_STATUS_EXT_USED d) n).put (PR_STATUS_HIGH d) hi).put (PR_STATUS_SPILLED d)
    (s.rings.filter fun e => ringDie e.1 == d && e.2.exts != []).length
  if hi = 1 ∧ was = 0 then
    ({ s1 with rg := { s1.rg with holdAcc := true } }.raise (PR_EVENTS_RES_HIGH d)).emit 0x72 d 0 0 n 0
  else s1

/-- Acceptance resumes when every die is at or below its low mark (R362). -/
def State.checkLow (s : State) (d : Nat) : State :=
  if s.rg.holdAcc = true ∧ (s.dies.all fun d => s.resOk d && decide (s.get (PR_STATUS_EXT_USED d) ≤ s.get (RES_LIMIT_LOW d))) = true then
    ({ s with rg := { s.rg with holdAcc := false } }.raise (PR_EVENTS_RES_LOW d)).emit 0x73 d 0 0 (s.get (PR_STATUS_EXT_USED d)) 0
  else s

/-! ### Room and storage -/

/-- DRAM address of offset `o` in the ring's region, which wraps. -/
def State.ringAddr (s : State) (r o : Nat) : Nat :=
  s.get (RING_REGION_BASE (ringDie r) (ringLoc r)) * 8 + o % s.get (RING_REGION_WORDS (ringDie r) (ringLoc r))

/-- DRAM address of offset `o` in the ring's extents. -/
def State.extAddr (s : State) (r o : Nat) : Nat :=
  s.get (RES_REGION_BASE (ringDie r)) * 8 + (s.ring r).exts.getD (o / extWords) 0 * extWords + o % extWords

/-- Address of word `o` of a committed product. -/
def State.prodAddr (s : State) (r : Nat) (p : RProd) (o : Nat) : Nat :=
  if p.res then s.extAddr r (p.pos + o) else s.ringAddr r (p.pos + o)

/-- The stored words of a committed product. -/
def State.prodWords (s : State) (r : Nat) (p : RProd) : List Word :=
  (List.range p.len).map fun o => s.rdMem (ringDie r) (s.prodAddr r p o)

/-- Where `n` words go: in the ring region at the write offset, in extents at offset `resWr` after taking these extents, or
nowhere (R361, R364). -/
inductive Place where
  | ring
  | ext (take : List Nat)
  | none
deriving DecidableEq, Repr

def State.place (s : State) (r n : Nat) : Place :=
  let d := ringDie r
  let q := s.ring r
  let used := ((q.prods.filter fun p => !p.res).map RProd.len).foldl (· + ·) 0
  if q.exts = [] ∧ used + n ≤ s.get (RING_REGION_WORDS d (ringLoc r)) then .ring
  else
    let extra := ceilDiv (q.resWr + n) extWords - q.exts.length
    let free := ((List.range (s.get (RES_REGION_EXTENTS d))).filter fun e => !(s.usedExts d).contains e).take extra
    if free.length = extra then .ext free else .none

/-- Words stored one by one at the addresses a placement gives. -/
def State.storeWords (s : State) (d : Nat) (addr : Nat → Nat) : Nat → List Word → State
  | _, [] => s
  | o, w :: ws => (s.wrMem d (addr o) w).storeWords d addr (o + 1) ws

/-! ### Commit (R348, R352, R353, R365, R366) -/

/-- A SEAL is triggered: it covers every product from the last trigger on, with H as it stands (R366). -/
def State.triggerSeal (s : State) (r : Nat) : State :=
  let q := s.ring r
  let s1 := { s with sec := { s.sec with queue := s.sec.queue ++
    [SecReq.sealRing r q.trigNext (s.get (rcNEXT r) + 2 ^ 48 - 1) (s.ringChain r)] } }
  (s1.setRing r { q with sinceTrig := 0, trigNext := s.get (rcNEXT r), sealTime := s.now }).put
    (PR_STATUS_SIGN_Q (ringDie r)) (s.get (PR_STATUS_SIGN_Q (ringDie r)) + 1)

/-- The RING_CFG.PRODUCER code of a product type. -/
def producerOf (typ : Nat) : Nat :=
  match typ with
  | 1 => 1
  | 2 => 1
  | 3 => 2
  | 4 => 3
  | 5 => 4
  | 6 => 5
  | 8 => 6
  | 9 => 7
  | _ => 0

/-- The ring runs and serves a product type: that of its producer, or the ring's own SEAL (R343, R344). -/
def State.ringTakes (s : State) (r typ : Nat) : Bool :=
  s.get (RING_CFG_EN (ringDie r) (ringLoc r)) == 1 &&
    (typ == 7 || s.get (RING_CFG_PRODUCER (ringDie r) (ringLoc r)) == producerOf typ)

/-- A product is written and committed; none when the ring does not take its type, is exhausted, or has no room. -/
def State.commit (s : State) (r typ flags code start canFirst canCnt : Nat) (payload : List Word) : Option State :=
  let d := ringDie r
  let n := 4 + payload.length
  let seq := s.get (rcNEXT r)
  let pl := s.place r n
  if s.ringTakes r typ = false ∨ pl = .none ∨ (s.ring r).full = true then
    none
  else
    let ws := prodHeader typ flags r payload.length s.ownDev seq s.nvm.epoch code start canFirst canCnt ++ payload
    let q := s.ring r
    let s1 :=
      match pl with
      | .ext take =>
        let s0 := s.setRing r { q with exts := q.exts ++ take }
        let s0 := (s0.storeWords d (s0.extAddr r) q.resWr ws).setRing r
          { q with exts := q.exts ++ take, resWr := q.resWr + n, prods := q.prods ++ [RProd.mk seq typ n true q.resWr] }
        (when (q.exts == []) (·.raise (PR_EVENTS_SPILL d)) (s0.extChanged d)).put (rcSPILL r) 1
      | _ =>
        let wr := s.get (rcWR r)
        ((s.storeWords d (s.ringAddr r) wr ws).setRing r { q with prods := q.prods ++ [RProd.mk seq typ n false wr] }).put
          (rcWR r) ((wr + n) % s.get (RING_REGION_WORDS d (ringLoc r)))
    let s2 := if typ = 7 then s1
      else ((s1.setRingChain r (sha256 (s.ringChain r ++ ws.flatMap Word.octets))).bump (rcSINCE r)).setRing r
        { s1.ring r with sinceTrig := q.sinceTrig + 1, sealTime := if q.sealTime = 0 then s.now else q.sealTime }
    let s3 := (((s2.put (rcNEXT r) (seq + 1)).bump (PR_COUNT0_COMMITTED d)).pmU d 0x58 1).pmU d 0x59 n
    let s4 := if seq = 2 ^ 48 - 1 then
        ((s3.setRing r { s3.ring r with full := true }).raise (PR_EVENTS_EXHAUSTED d)).emit 0x70 d 0 0 r 0 else s3
    some (if typ ≠ 7 ∧ s.get (RING_CFG_SEAL_N d (ringLoc r)) ≠ 0 ∧ q.sinceTrig + 1 = s.get (RING_CFG_SEAL_N d (ringLoc r)) then
      s4.triggerSeal r else s4)

/-- A unit that found no room: counted, and it waits (R364). -/
def State.stall (s : State) (d : Nat) : State := (s.bump (PR_COUNT1_STALLS d)).raise (PR_EVENTS_STALL d)

/-- The mark's order: the unit's key is at or below the ring's mark (R354). -/
def State.belowMark (s : State) (r keyA keyB fmt : Nat) : Bool :=
  s.get (rcVALID r) == 1 &&
    (decide (keyA < s.get (rcMARKA r)) ||
      (keyA == s.get (rcMARKA r) && (decide (keyB < s.get (rcMARKB r)) ||
        (keyB == s.get (rcMARKB r) && decide (fmt ≤ (s.ring r).markFmt)))))

/-- The mark moves to a unit's key. -/
def State.setMark (s : State) (r keyA keyB fmt : Nat) : State :=
  let s1 := ((s.put (rcMARKA r) keyA).put (rcMARKB r) keyB).put (rcVALID r) 1
  s1.setRing r { s1.ring r with markFmt := fmt }

/-! ### Acknowledgement and freeing (R358, R360) -/

/-- The targets bound to a ring that are not deaccessioned: 0, 1. A bound fallback stands in the place of the target it
replaces. -/
def State.liveTargets (s : State) (r : Nat) : List Nat :=
  let d := ringDie r
  let l := ringLoc r
  (if s.get (RING_TGT_T0 d l) ≠ 0 ∧ (s.get (RING_TGT_T0_DEACC d l) = 0 ∨ s.get (RING_TGT_FB_ACTIVE d l) = 1) then [0] else []) ++
  (if s.get (RING_TGT_T1 d l) ≠ 0 ∧ s.get (RING_TGT_T1_DEACC d l) = 0 then [1] else [])

/-- Where target t of a ring leads: (1 HPA, 2 HPB, 3 collector; device). -/
def State.targetOf (s : State) (r t : Nat) : Nat × Nat :=
  let d := ringDie r
  let l := ringLoc r
  if t = 1 then (s.get (RING_TGT_T1 d l), s.get (RING_TGT_T1_DEV d l))
  else if s.get (RING_TGT_FB_ACTIVE d l) = 1 then (s.get (RING_TGT_FB d l), s.get (RING_TGT_FB_DEV d l))
  else (s.get (RING_TGT_T0 d l), s.get (RING_TGT_T0_DEV d l))

def RingSt.nAck (q : RingSt) (t : Nat) : Nat := if t = 1 then q.nAck1 else q.nAck0
def RingSt.nSent (q : RingSt) (t : Nat) : Nat := if t = 1 then q.nSent1 else q.nSent0

/-- The target's register pair and control-record word show its counts. -/
def State.showTarget (s : State) (r t : Nat) : State :=
  let q := s.ring r
  let a := q.nAck t
  let infl := min (2 ^ 24 - 1) (q.nSent t - a)
  let s1 := s.put (rcACKED r t) (a - 1)
  if t = 1 then (s1.put (RING_T1_ACKED (ringDie r) (ringLoc r)) (a - 1)).put (RING_T1_INFLIGHT (ringDie r) (ringLoc r)) infl
  else (s1.put (RING_T0_ACKED (ringDie r) (ringLoc r)) (a - 1)).put (RING_T0_INFLIGHT (ringDie r) (ringLoc r)) infl

/-- The ring frees its products up to the smallest ACKED of its live targets; emptied extents return (R360, R361). -/
def State.freeRing (s : State) (r : Nat) : State :=
  match s.liveTargets r with
  | [] => s
  | t :: ts =>
    let q := s.ring r
    let m := ts.foldl (fun m t => min m (q.nAck t)) (q.nAck t)
    let keep := q.prods.filter fun p => decide (m ≤ p.seq)
    if q.exts ≠ [] ∧ (keep.all fun p => !p.res) = true then
      let s1 := s.setRing r { q with prods := keep, exts := [], resWr := 0 }
      ((s1.extChanged (ringDie r)).put (rcSPILL r) 0).checkLow (ringDie r)
    else s.setRing r { q with prods := keep }

/-- A cumulative acknowledgement of (sequence, epoch) by target t (R358). -/
def State.ackRing (s : State) (r t seq epoch : Nat) : State :=
  let q := s.ring r
  if epoch ≠ s.nvm.epoch ∨ q.nSent t ≤ seq then
    (s.bump (PR_COUNT1_ACK_BAD (ringDie r))).raise (PR_EVENTS_ACK_BAD (ringDie r))
  else if seq < q.nAck t then s
  else
    let q1 := if t = 1 then { q with nAck1 := seq + 1, adv1 := s.now } else { q with nAck0 := seq + 1, adv0 := s.now }
    ((s.setRing r q1).showTarget r t).freeRing r

/-- A target resends from ACKED + 1 (R359). -/
def State.resend (s : State) (r t : Nat) : State :=
  let q := s.ring r
  if q.nSent t ≤ q.nAck t then s
  else
    let q1 := if t = 1 then { q with nSent1 := q.nAck1, adv1 := s.now } else { q with nSent0 := q.nAck0, adv0 := s.now }
    ((((s.setRing r q1).showTarget r t).bump (PR_COUNT1_RETX (ringDie r))).raise (PR_EVENTS_RETX (ringDie r)))

/-- The targets of every ring that lead to (kind, device). -/
def State.targetsTo (s : State) (kind dev : Nat) : List (Nat × Nat) :=
  (s.rings.map (·.1)).flatMap fun r =>
    (s.liveTargets r).filterMap fun t =>
      if (s.targetOf r t).1 = kind ∧ (kind ≠ 3 ∨ (s.targetOf r t).2 = dev) then some (r, t) else none

end Sys2Proof.Machine
end

