-- ==== Sys2Proof/Machine/HostOps.lean ====
section
/-! DEFINITION. Sources and their rights, completions, the command ledger, and host landing rings (chapter 16). -/

namespace Sys2Proof.Machine

open Reg

/-! ### Sources (R452) -/

/-- The source index of a Griwano device: its CMD_SRC entry, or 256 + its number when no entry names it (255 is the calendar). -/
def State.srcOfDev (s : State) (dev : Nat) : Nat :=
  match (List.range 64).find? (fun i => s.get (CMD_SRC_VALID (i + 2)) == 1 && s.get (CMD_SRC_DEV (i + 2)) == dev) with
  | some i => i + 2
  | none => 256 + dev

/-- The device number of a Griwano source. -/
def State.devOfSrc (s : State) (src : Nat) : Nat := if src < 66 then s.get (CMD_SRC_DEV src) else src - 256

def lvNONE : Nat := 0
def lvOBSERVER : Nat := 1
def lvOPERATOR : Nat := 2
def lvOWNER : Nat := 3

/-- A source's level: an entry in use gives it, else NONE. -/
def State.level (s : State) (src : Nat) : Nat :=
  if src < 66 ∧ s.get (CMD_SRC_VALID src) = 1 then s.get (CMD_SRC_LEVEL src) else lvNONE

def State.counters (s : State) (src : Nat) : Bool :=
  decide (src < 66) && s.get (CMD_SRC_VALID src) == 1 && s.get (CMD_SRC_COUNTERS src) == 1

/-- A source's rank; the calendar's source (255) has rank 16 (R484). -/
def State.rank (s : State) (src : Nat) : Nat :=
  if src = 255 then 16 else if src < 66 then s.get (CMD_SRC_RANK src) else 0

/-! ### Completions (R458, R459, R462) -/

def ccDONE : Nat := 0
def ccSUPERSEDED : Nat := 1
def ccNORIGHT : Nat := 2
def ccBADSIG : Nat := 3
def ccBADARG : Nat := 4
def ccWRONGMODE : Nat := 5
def ccBUSY : Nat := 6
def ccLATE : Nat := 7
def ccUNSUPPORTED : Nat := 8

/-- The 32 octets of a completion record. -/
def cplOctets (c : Cpl) (phase : Nat) : List Nat :=
  toOctets 4 c.tag ++ [c.code, phase] ++ toOctets 2 c.opcode ++ toOctets 8 c.grain ++ toOctets 8 c.result ++
    toOctets 4 c.seq ++ [0, 0, 0, 0]

/-- The completion ring has room (R458). -/
def State.cplRoom (s : State) (p : Nat) : Bool :=
  decide ((s.get (HP_PTR_CPL_WRITTEN p) + 2 ^ 32 - (s.port p).cplHead) % 2 ^ 32 < 2 ^ s.get (HP_RINGCFG_CPL_LOG2 p))

/-- Waiting completions are written while the port is UP and the ring has room. -/
def State.flushCpl (s : State) (p : Nat) : Nat → State
  | 0 => s
  | n + 1 =>
    match (s.port p).waiting with
    | [] => s
    | c :: rest =>
      if s.portState p = 1 ∧ s.cplRoom p = true ∧ s.get (HP_RINGCFG_EN p) = 1 then
        let w := s.get (HP_PTR_CPL_WRITTEN p)
        let size := 2 ^ s.get (HP_RINGCFG_CPL_LOG2 p)
        let s1 := s.emitOut (.hostWrite p (s.get (HP_CPL_BASE_ADDR p) * 64 + 32 * (w % size))
          (cplOctets c (1 - w / size % 2)))
        let s2 := (s1.put (HP_PTR_CPL_WRITTEN p) ((w + 1) % 2 ^ 32)).setPort p { s.port p with waiting := rest }
        (s2.msix p 0).flushCpl p n
      else s

/-- The command completes: its ledger entry takes the code and the grain, and its source the completion. -/
def State.completeAt (s : State) (c : CmdHdr) (code result grain : Nat) : State :=
  if c.src = 255 then s
  else
    let s1 := (s.put (CLOG0_CODE c.log) code).put (CLOG1_GRAIN c.log) grain
    let k : Cpl := ⟨c.tag, code, c.opcode, grain, result, c.seq % 2 ^ 32⟩
    if c.src ≤ 1 then
      let q := s1.port c.src
      (s1.setPort c.src { q with waiting := q.waiting ++ [k] }).flushCpl c.src (q.waiting.length + 1)
    else s1.originate 8 2 (s.devOfSrc c.src) 0 0x2 (packOctets 4 (cplOctets k 0))

/-- The command completes at its own grain. -/
def State.complete (s : State) (c : CmdHdr) (code result : Nat) : State := s.completeAt c code result c.grain

/-- The command stays in execution until a later step completes it. -/
def State.run (s : State) (c : CmdHdr) (k : RunKind) : State :=
  { s with rg := { s.rg with running := s.rg.running ++ [⟨c, k⟩] } }

/-- Every command in execution that `p` accepts completes with `code`, at the grain of now. -/
def State.finish (s : State) (p : RunKind → Bool) (code result : Nat) : State :=
  let hit := s.rg.running.filter fun r => p r.kind
  let s1 := { s with rg := { s.rg with running := s.rg.running.filter fun r => !p r.kind } }
  forAll hit s1 fun s r => s.completeAt r.hdr code result (max r.hdr.grain (grainOf s.now))

/-- The modes in which a command runs (R461): 1 M, 2 A, 4 O. -/
def State.modeBit (s : State) : Nat :=
  if s.mode = mMUSTER then (if s.nvm.musterDone then 1 else 0)
  else if s.mode = mALIGN then 2 else if s.accepts then 4 else 0

/-- A command executes only in the modes of its row; elsewhere it completes WRONG_MODE. -/
def State.inMode (s : State) (c : CmdHdr) (modes : Nat) (f : State → State) : State :=
  if s.modeBit &&& modes = 0 then s.complete c ccWRONGMODE 0 else f s

/-! ### Landing rings (R447 to R450) -/

/-- FREE of a landing ring follows its counts. -/
def State.showLand (s : State) (p r : Nat) : State :=
  s.put (LAND_STATE_FREE p r) (2 ^ s.get (LAND_STATE_SLOTS_LOG2 p r) - ((s.land p r).written - (s.land p r).consumed))

/-- A consumer count as read: kept when it lies above CONSUMED and not above WRITTEN (R450). -/
def State.consume (s : State) (p r count : Nat) : State :=
  let q := s.land p r
  if q.consumed < count ∧ count ≤ q.written then (s.setLand p r { q with consumed := count }).showLand p r
  else s.raise (HP_STATUS_ACK_IGNORED p)

/-- The target of ring r that leads to host port p, if any. -/
def State.targetOnPort (s : State) (r p : Nat) : Option Nat :=
  (s.liveTargets r).find? fun t => (s.targetOf r t).1 == p + 1

/-- The product's slots are written into the landing ring from WRITTEN mod 2^k on, then the producer record, then the
ring's vector (R448, R449). -/
def State.landProduct (s : State) (p r seq : Nat) (ws : List Word) : State :=
  let q := s.land p r
  let slots := 2 ^ s.get (LAND_STATE_SLOTS_LOG2 p r)
  let base := s.get (LAND_ADDR_ADDR p r 0)
  let at0 := q.written % slots
  let first := ws.take (slots - at0)
  let s1 := s.emitOut (.hostWrite p (base + 16 * at0) (slotOctets first))
  let s2 := if ws.length ≤ slots - at0 then s1 else s1.emitOut (.hostWrite p base (slotOctets (ws.drop (slots - at0))))
  let w := q.written + ws.length
  let s3 := s2.emitOut (.hostWrite p (s.get (LAND_ADDR_ADDR p r 2)) (toOctets 8 w ++ toOctets 6 seq ++ toOctets 2 s.nvm.epoch))
  ((s3.setLand p r { q with written := w }).showLand p r).msix p (s.get (LAND_STATE_VECTOR p r))

end Sys2Proof.Machine
end

