-- ==== Sys2Proof/Machine/Clock.lean ====
section
/-! DEFINITION. References, the DPLL, holdover and qualified time (chapter 14, R373 to R392, R402 to R406): the shared
operations and the meanings of the commands that do not step time. -/

namespace Sys2Proof.Machine

open Reg

def rfOFF : Nat := 0
def rfINVALID : Nat := 1
def rfQUALIFYING : Nat := 2
def rfQUALIFIED : Nat := 3

/-- SEL when no reference is selected. -/
def selNone : Nat := 31

/-- The references of the part: 0 to 3 and the line references of its chains (R373). -/
def State.refExists (s : State) (r : Nat) : Bool := decide (r < 4 + 2 * s.part.dies)

/-! ### ALIGN_T and qualified time (R388, R403, R404, R488) -/

/-- VCO cycles from a SYSREF pulse of output k to the next. -/
def State.pulseCycles (s : State) (k : Nat) : Nat := s.get (SYSREF_CFG_PERIOD k) * s.get (CLK_CFG_DIV k)

/-- ALIGN_T in units of device time; 0 when it is not set. -/
def State.alignAt (s : State) : Nat := s.te.alignT.getD 0 * tSec

/-- When pulse n of output k begins: ALIGN_T + n · PERIOD · DIV / FVCO_HZ (R403). -/
def State.pulseTime (s : State) (k n : Nat) : Nat := s.alignAt + n * s.pulseCycles k * tSec / s.get TE_SYNTH_FVCO_HZ

/-- The number of the first pulse of output k at or after a grain. -/
def State.pulseFrom (s : State) (k grain : Nat) : Nat :=
  ceilDiv ((grain * tUs - s.alignAt) * s.get TE_SYNTH_FVCO_HZ) (s.pulseCycles k * tSec)

/-- The pulses of one burst leave on output k: BURST_N + 1 from the first pulse time at or after the grain (R404). -/
def State.sendBurst (s : State) (k grain : Nat) : State :=
  s.emitOut (.burst k ((List.range (s.get (SYSREF_CFG_BURST_N k) + 1)).map fun i => s.pulseTime k (s.pulseFrom k grain + i)))

/-- The effective grain in SYSREF_CFG, as it stands to ALIGN_T. -/
def State.burstGrain (s : State) (k : Nat) : Nat := nearLater 42 (s.alignAt / tUs) (s.get (SYSREF_CFG_GRAIN k))

/-- When ALIGN_T has passed and the last pulse of each burst of ALIGN has left (R487). -/
def State.burstsSent (s : State) : Nat :=
  ((List.range 8).filter fun k => s.get (SYSREF_CFG_MODE k) == 2).foldl
    (fun m k => max m (s.pulseTime k (s.pulseFrom k (s.burstGrain k) + s.get (SYSREF_CFG_BURST_N k)))) s.alignAt

/-- Output k of CLKOUT and SYSREF as its configuration runs it from ALIGN_T on (R402 to R404). -/
def State.runOutput (s : State) (k : Nat) : State :=
  let f := s.get TE_SYNTH_FVCO_HZ
  let s1 := when (s.get (CLK_CFG_EN k) == 1) (·.emitOut (.clock k s.alignAt (s.get (CLK_CFG_DIV k) * tSec) f)) s
  if s.get (SYSREF_CFG_MODE k) = 1 then s1.emitOut (.sysref k s.alignAt (s.pulseCycles k * tSec) f)
  else if s.get (SYSREF_CFG_MODE k) = 2 then s1.sendBurst k (s.burstGrain k)
  else s1

/-- The TE sets ALIGN_T to the first whole second at least 2 s ahead, from which every output runs (R403, R404). -/
def State.setAlignT (s : State) : State :=
  let t := ceilDiv (s.now + 2 * tSec) tSec
  let s1 := (({ s with te := { s.te with alignT := some t } }).put TE_SYNTH_ALIGN_S t).raise TE_STATUS_ALIGNED
  forAll (List.range 8) s1 State.runOutput

/-- TE_STATUS follows R388; at each change its event is set, and time first qualified in ALIGN or OBSERVE sets ALIGN_T. -/
def State.refreshQual (s : State) : State :=
  let q := s.timeQual
  let was := s.get TE_STATUS_QUALIFIED
  let s1 := ((s.put TE_STATUS_QUALIFIED (b2n q)).put TE_STATUS_HOLD (b2n s.holdover)).put TE_STATUS_TIME_SET
    (b2n (if s.follows then s.te.stepped else s.te.timeSet))
  let s2 := if q = true ∧ was = 0 then s1.raise TE_EVENTS_TQ_GAINED
    else if q = false ∧ was = 1 then
      ({ s1 with acc := { s1.acc with timeBroke := true } }.raise TE_EVENTS_TQ_LOST).markNow 128 else s1
  let s2 := if s.holdover = true ∧ q = true then s2.markNow 16 else s2
  if q = true ∧ s.te.alignT = none ∧ s.runs = true then s2.setAlignT else s2

/-! ### Choice (R379, R380) -/

def State.refState (s : State) (r : Nat) : Nat := s.get (REF_STATUS_STATE r)
def State.refRank (s : State) (r : Nat) : Nat := s.get (REF_CFG_RANK r)
def State.refOfs (s : State) (r : Nat) : Int := s.getI (REF_STATUS_OFFSET_PPB r)

/-- QUALIFIED with a rank of 0 to 14, ascending. -/
def State.candidates (s : State) : List Nat :=
  (List.range 20).filter fun r => s.refState r == rfQUALIFIED && decide (s.refRank r ≤ 14)

/-- The first element that makes `f` least. -/
def argMin (f : Nat → Nat) : List Nat → Option Nat
  | [] => none
  | r :: rs =>
    match argMin f rs with
    | none => some r
    | some b => if f r ≤ f b then some r else some b

/-- The RSC's choice. -/
def State.choice (s : State) : Option Nat :=
  match argMin s.refRank s.candidates with
  | none => none
  | some b =>
    let eq := s.candidates.filter fun r => s.refRank r == s.refRank b
    let agree := eq.all fun x => eq.all fun y =>
      decide ((s.refOfs x - s.refOfs y).natAbs ≤ s.get RSC_CFG_MUTUAL_PPB)
    if agree = true ∨ s.get RSC_STATUS_LO_WARM = 0 then eq.head? else argMin (fun r => (s.refOfs r).natAbs) eq

/-- Entry into HOLDOVER with the value of R385. -/
def State.enterHoldover (s : State) : State :=
  let l := s.secs
  let hi := l - s.get RSC_HOLD_OFS_S
  let w := s.rsc.hist.filter fun h => h.locked && decide (hi - s.get RSC_HOLD_WIN_S ≤ h.sec) && decide (h.sec < hi)
  let n := w.length
  let c : Int := if n = 0 then 0 else (w.map HistSec.c).foldl (· + ·) 0 / n
  let q := decide (s.get RSC_HOLD_HO_MIN_S ≤ n) && decide (1 ≤ n) && s.rsc.loActive
  let s1 := { s with rsc := { s.rsc with cur := c, hold := c, hoEntry := s.now, secLocked := false } }
  let s2 := ((((s1.putI RSC_CTRL_VALUE c).put RSC_CTRL_HO_N n).put RSC_STATUS_STATE dpHOLDOVER).put RSC_STATUS_SEL
    selNone).put RSC_STATUS_HO_AGE_S 0
  let s3 := (s2.put RSC_STATUS_HO_QUAL (b2n q)).raise RSC_EVENTS_HO_ENTER
  (if q then s3 else (s3.raise RSC_EVENTS_HO_UNQUAL).emit 0x2B dcPACKAGE 0 0 0 0).refreshQual

/-- A switch to reference r starts (R382). -/
def State.startSwitch (s : State) (r : Nat) : State :=
  ({ s with rsc := { s.rsc with target := some r, secLocked := false } }).raise RSC_STATUS_SWITCHING

/-- The DPLL acquires reference r from FREERUN (R378). -/
def State.acquire (s : State) (r : Nat) : State :=
  (((s.put RSC_STATUS_SEL r).put RSC_STATUS_STATE dpACQUIRE).put RSC_STATUS_LADDER 0).setTimer tkLadder s.now

/-- The RSC makes a choice (R378, R380); none runs while a switch runs (R383). -/
def State.choose (s : State) : State :=
  if s.get RSC_STATUS_SWITCHING = 1 then s
  else match s.choice with
    | some r =>
      if s.get RSC_STATUS_STATE = dpFREERUN then (if s.runs then s.acquire r else s)
      else if r = s.get RSC_STATUS_SEL then s
      else s.startSwitch r
    | none =>
      if s.get RSC_STATUS_STATE = dpACQUIRE ∨ s.get RSC_STATUS_STATE = dpLOCKED then s.enterHoldover else s

/-- A pair of QUALIFIED references of equal rank that differ by more than the mutual limit (R381). -/
def State.disagreeing (s : State) : Option (Nat × Nat) :=
  let q := (List.range 20).filter fun r => s.refState r == rfQUALIFIED
  ((q.flatMap fun a => q.map fun b => (a, b)).find? fun p => decide (p.1 < p.2) && s.refRank p.1 == s.refRank p.2 &&
    decide (s.get RSC_CFG_MUTUAL_PPB < (s.refOfs p.1 - s.refOfs p.2).natAbs))

/-- DISAGREE follows the references; newly raised, it is reported (R381). -/
def State.checkDisagree (s : State) : State :=
  match s.disagreeing with
  | none => s.put RSC_STATUS_DISAGREE 0
  | some (a, b) =>
    if s.get RSC_STATUS_DISAGREE = 1 then s
    else ((s.raise RSC_STATUS_DISAGREE).raise RSC_EVENTS_DISAGREE).emit 0x29 dcPACKAGE 0 0 (a + b * 32)
      (unsigned 72 (s.refOfs a - s.refOfs b))

/-- A reference becomes INVALID; leaving QUALIFIED it is a loss, and the loss of the selected reference makes a choice. -/
def State.refInvalid (s : State) (r : Nat) : State :=
  let was := s.refState r
  let s1 := (s.put (REF_STATUS_STATE r) rfINVALID).put (REF_STATUS_QUAL_LEFT_S r) 0
  let s2 := s1.setRef r { s1.ref r with qual := 0, paused := false }
  if was = rfQUALIFIED then
    let s3 := (s2.raise RSC_EVENTS_LOSS).checkDisagree
    if r = s.get RSC_STATUS_SEL then s3.choose.refreshQual else s3
  else s2

/-- A reference's activity monitor fails (R374, R376). -/
def execRefActivityFail (r : Nat) (s : State) : Host.Outcome State Fault Refusal :=
  if s.refExists r = true ∧ s.refState r ≠ rfOFF then
    let s1 := (s.put (REF_STATUS_ACTIVE r) 0).setRef r { s.ref r with active := false }
    ok (s1.refInvalid r)
  else ok s

/-- The line that a LINE reference is recovered from gives it: the chain is ACTIVE, its lanes hold their lock and the partner's
direction is awake (R374). -/
def State.lineGood (s : State) (r : Nat) : Bool :=
  let d := kDie (r - 4)
  let c := kIdx (r - 4)
  decide (r < 4) || (s.chState (r - 4) == csACTIVE && s.get (GWL_CH_STATUS_RX_SLEEP d c) == 0 &&
    ([0, 1, 2, 3].all fun l => s.get (LN_STATUS_SYMLOCK d (4 * c + l)) == 1))

/-- A gate of 1 s, or an interval between PPS edges, ends: the offset is measured against the limits (R375, R376). With LO_IN
inactive no measurement is made (R377). -/
def execFrequencyGate (r : Nat) (ppb : Int) (s : State) : Host.Outcome State Fault Refusal :=
  if s.refExists r = true ∧ s.refState r ≠ rfOFF ∧ s.rsc.loActive = true ∧ s.lineGood r = true then
    let s1 := (((s.pace (tkGate r) tSec).putI (REF_STATUS_OFFSET_PPB r) ppb).put (REF_STATUS_ACTIVE r) 1).setRef r { s.ref r with active := true }
    let q := s.ref r
    let acc := decide (ppb.natAbs ≤ s.get RSC_CFG_ACCEPT_PPB)
    let full := s.get RSC_CFG_QUAL_S
    if s.refState r = rfINVALID then
      if acc then
        ok (((s1.put (REF_STATUS_STATE r) rfQUALIFYING).put (REF_STATUS_QUAL_LEFT_S r) full).setRef r
          ⟨true, 0, false⟩)
      else ok s1
    else if s.refState r = rfQUALIFYING then
      if acc = false then ok (s1.refInvalid r)
      else
        let n := if q.paused then 0 else q.qual + 1
        ok ((s1.setRef r ⟨true, n, false⟩).put (REF_STATUS_QUAL_LEFT_S r) (full - n))
    else if s.get RSC_CFG_REJECT_PPB < ppb.natAbs then ok (s1.refInvalid r)
    else ok s1.checkDisagree
  else ok s

/-- A candidate of lower rank than the selected reference exists. -/
def State.betterRank (s : State) : Bool :=
  s.get RSC_STATUS_SEL != selNone && s.candidates.any fun r => decide (s.refRank r < s.refRank (s.get RSC_STATUS_SEL))

/-- The revertive case of R380 holds now. -/
def State.revertDue (s : State) : Bool :=
  s.get RSC_CFG_REVERT == 1 && s.betterRank && s.get RSC_STATUS_SWITCHING == 0 &&
    decide (s.rsc.lastSwitch + tSec ≤ s.now ∨ s.rsc.lastSwitch = 0)

/-- A reference within limits for QUAL_S becomes QUALIFIED, and may be chosen (R376, R380). -/
def execQualificationComplete (r : Nat) (s : State) : Host.Outcome State Fault Refusal :=
  let q := s.ref r
  if s.refExists r = true ∧ s.refState r = rfQUALIFYING ∧ q.active = true ∧ q.paused = false ∧ s.rsc.loActive = true ∧
      s.get RSC_CFG_QUAL_S ≤ q.qual then
    let s1 := (((s.put (REF_STATUS_STATE r) rfQUALIFIED).put (REF_STATUS_QUAL_LEFT_S r) 0).raise RSC_EVENTS_QUAL).checkDisagree
    if s1.get RSC_STATUS_SEL = selNone ∨ s1.revertDue = true then ok s1.choose.refreshQual else ok s1
  else ok s

/-- LO_IN's activity fails: no measurement until it returns, QUALIFYING counts stop (R377), and a holdover is no longer
qualified (R387). -/
def execLoLoss (s : State) : Host.Outcome State Fault Refusal :=
  if s.rsc.loActive then
    let s1 := { s with rsc := { s.rsc with loActive := false } }
    let s2 := forAll (List.range 20) s1 fun s r =>
      if s.refState r = rfQUALIFYING then s.setRef r { s.ref r with qual := 0, paused := true } else s
    let s3 := (((s2.put RSC_LO_LO_ACTIVE 0).put RSC_STATUS_LO_WARM 0).raise RSC_EVENTS_LO_LOSS).emit 0x2A dcPACKAGE 0 0 0 0
    ok (if s.get RSC_STATUS_STATE = dpHOLDOVER then (s3.put RSC_STATUS_HO_QUAL 0).refreshQual else s3)
  else ok s

/-- LO_IN becomes warm (R377). -/
def execLoWarmTimer (s : State) : Host.Outcome State Fault Refusal :=
  if s.rsc.loActive then
    ok ((s.advance (s.rsc.loSince + s.get RSC_CFG_LO_WARM_S * tSec)).raise RSC_STATUS_LO_WARM)
  else ok s

/-- LO_IN's activity begins. -/
def State.loReturns (s : State) : State :=
  if s.rsc.loActive then s
  else ({ s with rsc := { s.rsc with loActive := true, loSince := s.now } }).put RSC_LO_LO_ACTIVE 1

/-- Phase within 2 ns for 1 s locks the DPLL; the second lies at ladder step 1 or later (R378). -/
def execDpllLock (s : State) : Host.Outcome State Fault Refusal :=
  if s.get RSC_STATUS_STATE = dpACQUIRE ∧ 1 ≤ s.get RSC_STATUS_LADDER then
    let s1 := if s.get RSC_STATUS_LADDER = 1 then s.advance (s.timer tkLadder + tSec) else s
    ok ((s1.put RSC_STATUS_STATE dpLOCKED).refreshQual)
  else ok s

/-- The dwell of a ladder step, in s (R384). -/
def State.dwell (s : State) (step : Nat) : Nat :=
  s.get (match step with
    | 0 => RSC_LADDER0_DWELL0_S
    | 1 => RSC_LADDER0_DWELL1_S
    | 2 => RSC_LADDER1_DWELL2_S
    | _ => RSC_LADDER1_DWELL3_S)

/-- A dwell expires: the next ladder step in use (R384). -/
def execLadderDwell (s : State) : Host.Outcome State Fault Refusal :=
  if (s.get RSC_STATUS_STATE = dpACQUIRE ∨ s.get RSC_STATUS_STATE = dpLOCKED) ∧
      s.get RSC_STATUS_LADDER + 1 < s.get RSC_LADDER1_NSTEPS then
    ok ((s.tick tkLadder (s.dwell (s.get RSC_STATUS_LADDER) * tSec)).put RSC_STATUS_LADDER (s.get RSC_STATUS_LADDER + 1))
  else ok s

/-- The second that ends now was LOCKED at ladder step 2 or later without a switch (R385). -/
def State.lockedNow (s : State) : Bool :=
  s.get RSC_STATUS_STATE == dpLOCKED && decide (2 ≤ s.get RSC_STATUS_LADDER) && s.get RSC_STATUS_SWITCHING == 0

/-- PPS_OUT rises at whole second `sec`; PPS_GATE keeps it low while time is not qualified (R402). -/
def State.ppsOut (s : State) (sec : Nat) : State :=
  if s.get TE_CFG_PPS_GATE = 1 ∧ s.timeQual = false then s else s.emitOut (.pps sec)

/-- Once each device second: the mean control value enters the history of 2,048 seconds, and ages move on (R385, R387). -/
def execHistorySecond (sec : Nat) (c : Int) (s : State) : Host.Outcome State Fault Refusal :=
  let s0 := s.advance ((sec + 1) * tSec)
  let held := s.get RSC_STATUS_STATE = dpHOLDOVER ∨ s.get RSC_STATUS_SWITCHING = 1
  let cv := if held then s.rsc.cur else c
  let h := s.rsc.hist ++ [⟨sec, cv, s.rsc.secLocked && s.lockedNow⟩]
  let s1 := { s0 with rsc := { s0.rsc with hist := h.drop (h.length - 2048), cur := cv, secLocked := s.lockedNow } }
  let s2 := (s1.putI RSC_CTRL_VALUE cv).ppsOut (sec + 1)
  ok (if s2.get RSC_STATUS_STATE = dpHOLDOVER then (s2.put RSC_STATUS_HO_AGE_S s2.hoAge).refreshQual else s2.refreshQual)

/-- The holdover's age passes HO_MAX_S (R387, R388). -/
def execHoldoverExpiry (s : State) : Host.Outcome State Fault Refusal :=
  if s.get RSC_STATUS_STATE = dpHOLDOVER then
    let s1 := s.advance (s.rsc.hoEntry + (s.get RSC_HOLD_HO_MAX_S + 1) * tSec)
    ok ((s1.put RSC_STATUS_HO_AGE_S s1.hoAge).refreshQual)
  else ok s

/-- A second after the last switch, the revertive choice (R380). -/
def execRevertHoldoff (s : State) : Host.Outcome State Fault Refusal :=
  let s1 := s.advance (s.rsc.lastSwitch + tSec)
  if s1.revertDue then ok s1.choose.refreshQual else ok s

/-- The AOI's crystal is measured against the DPLL clock every 64 s while the device is awake (R527). -/
def execCrystalDiscipline (ppb : Int) (s : State) : Host.Outcome State Fault Refusal :=
  if 2 ≤ s.mode then ok ((s.pace tkCrystal (64 * tSec)).putI AOI_STATUS_DISC_PPB ppb) else ok s

/-- REF_FORCE (R380, R406). -/
def State.doRefForce (s : State) (c : CmdHdr) (r : Nat) : State :=
  s.inMode c 6 fun s =>
    if s.get RSC_STATUS_SWITCHING = 1 then s.complete c ccBUSY 0
    else if s.candidates.contains r = false then s.complete c ccWRONGMODE 0
    else
      let s1 := if r = s.get RSC_STATUS_SEL then s
        else if s.get RSC_STATUS_STATE = dpFREERUN then s.acquire r else s.startSwitch r
      s1.complete c ccDONE 0

def execRefForce (c : CmdHdr) (r : Nat) (s : State) : Host.Outcome State Fault Refusal := ok (s.doRefForce c r)

/-- SYSREF_BURST: each named output in BURST mode sends a burst from the effective grain on (R404). -/
def State.doSysrefBurst (s : State) (c : CmdHdr) (mask : Nat) : State :=
  s.inMode c 6 fun s =>
    (forAll (setBitsOf mask 8) s fun s k =>
      let s1 := s.put (SYSREF_CFG_GRAIN k) c.grain
      if s.get (SYSREF_CFG_MODE k) = 2 then s1.sendBurst k c.grain else s1).complete c ccDONE 0

def execSysrefBurst (c : CmdHdr) (mask : Nat) (s : State) : Host.Outcome State Fault Refusal := ok (s.doSysrefBurst c mask)

/-! ### Steps of device time (R382, R391, R398) -/

/-- Device time moves by a signed number of units. -/
def State.stepTime (s : State) (delta : Int) : State :=
  let t := ((s.now : Int) + delta).toNat
  ({ s with now := t }).stepAcc delta

/-- Period of a reference as (numerator, denominator) picoseconds (R382). -/
def State.refPeriod (s : State) (r : Nat) : Int × Int :=
  if r < 2 then (10 ^ 12, max 1 (s.get (REF_CFG_NOM_HZ r) : Int))
  else if r < 4 then (10 ^ 12, 1)
  else ([2500, 3200, 4000, 6400].getD (s.get (GWL_CH_CFG_RATE (kDie (r - 4)) (kIdx (r - 4)))) 2500, 1)

/-- A phase reduced into [-P/2, P/2), in whole picoseconds. -/
def reducePhase (phase : Int) (per : Int × Int) : Int :=
  ((phase * per.2 + per.1 / 2) % per.1 - per.1 / 2) / per.2

/-- The running switch ends: the new reference's phase is taken in one step (R378, R382, R383). -/
def State.endSwitch (s : State) (phase : Int) : State :=
  match s.rsc.target with
  | none => s
  | some r =>
    let d := reducePhase phase (s.refPeriod r)
    let old := s.get RSC_STATUS_SEL
    let s1 := s.stepTime (psUnits d)
    let s2 := { s1 with rsc := { s1.rsc with target := none, lastSwitch := s1.now } }
    let s3 := (((s2.putI RSC_STEP_DELTA_PS d).put RSC_STEP_FROM old).put RSC_STEP_TO r)
    let s4 := ((s3.put RSC_STATUS_SEL r).put RSC_STATUS_SWITCHING 0).raise RSC_EVENTS_SWITCH
    let s5 := s4.emit 0x28 dcPACKAGE 0 0 (old + r * 32) (unsigned 72 d)
    let s6 := if s.get RSC_STATUS_STATE = dpHOLDOVER then
        (((s5.put RSC_STATUS_STATE dpLOCKED).put RSC_STATUS_LADDER 1).raise RSC_EVENTS_HO_EXIT).setTimer tkLadder s5.now else s5
    (if s6.refState r = rfQUALIFIED then s6 else s6.choose).refreshQual

/-- SET_TIME takes effect: S seconds and 0 ns (R391). -/
def State.applySetTime (s : State) (sec : Nat) : State :=
  let d : Int := (sec * tSec : Nat) - (s.now : Int)
  let s1 := s.stepTime d
  let s2 := { s1 with te := { s1.te with timeSet := true, setTime := none } }
  ((((s2.raise TE_EVENTS_TIME_STEP).bump TE_COUNT_STEPS).emit 0x2C dcPACKAGE 0 0 (unsigned 72 (unitsPs d)) 1)).refreshQual

end Sys2Proof.Machine
end

