-- ==== Sys2Proof/Machine/Torveri.lean ====
section
/-! DEFINITION. The Torveri profile: messages, forwarding, the servo and asymmetry calibration (chapter 14, R393 to R401). -/

namespace Sys2Proof.Machine

open Reg

/-- A message's fields (R393): type, domain, the originating device's number, correctionField in 2^-16 ns, the timestamp in
nanoseconds, sequence number, port, and for a Delay_Resp the requesting device and port. The octet positions are those of IEEE
1588-2019, which R393 names (log entry 11). -/
structure Ptp where
  typ : Nat
  domain : Nat
  dev : Nat
  port : Nat
  corr : Int
  ts : Nat
  seq : Nat
  req : Nat
  reqPort : Nat
deriving DecidableEq, Repr

/-- clockIdentity of a device (R393). -/
def clockId (dev : Nat) : List Nat := [0x5A, 0x4E, 0x00, 0xFF, 0xFE, 0x00] ++ beOctets 2 dev

/-- The octets of a message; `lg` is the octet of its logMessageInterval. -/
def ptpOctets (lg : Nat) (m : Ptp) : List Nat :=
  let len := if m.typ = 9 then 54 else 44
  [m.typ % 16, 0x12] ++ beOctets 2 len ++ [m.domain % 256, 0, 0, 0] ++ beOctets 8 (unsigned 64 m.corr) ++ [0, 0, 0, 0] ++
    clockId m.dev ++ beOctets 2 m.port ++ beOctets 2 m.seq ++ [if m.typ = 0 then 0 else if m.typ = 1 then 1 else 3, lg] ++
    beOctets 6 (m.ts / 1000000000) ++ beOctets 4 (m.ts % 1000000000) ++
    (if m.typ = 9 then clockId m.req ++ beOctets 2 m.reqPort else [])

/-- The fields of received octets. -/
def ptpOf (p : Pkt) : Ptp :=
  let o := p.payload.flatMap Word.octets
  let f := fun lo n => ofBe ((o.drop lo).take n)
  ⟨f 0 1 % 16, f 4 1, f 26 2, f 28 2, signed 64 (f 8 8), f 34 6 * 1000000000 + f 40 4, f 30 2, f 50 2, f 52 2⟩

/-- The packet carries a message of this profile of the type it names: version 2.1, one-step, of its size, and originated by a device
of the profile (R393). -/
def ptpZn (p : Pkt) : Bool :=
  let o := p.payload.flatMap Word.octets
  p.typ == 3 && p.vc == 1 && p.sub == o.headD 0 % 16 && o.getD 1 0 == 0x12 && !bit (o.getD 6 0) 1 &&
    p.payload.length == (if p.sub = 9 then 6 else 5) && (o.drop 20).take 6 == [0x5A, 0x4E, 0x00, 0xFF, 0xFE, 0x00]

/-- The logMessageInterval of a message: that of the Sync or Delay_Req interval, or 0x7F for none. -/
def State.ptpLog (s : State) (typ : Nat) : Nat :=
  if typ = 1 then 0x7F else (256 - s.get (if typ = 0 then TE_CFG_SYNC_LOG2 else TE_CFG_DREQ_LOG2)) % 256

/-- A message leaves on package chain k as a NEIGHBOUR packet of VC 1. -/
def State.sendPtp (s : State) (k : Nat) (m : Ptp) : State :=
  s.enqueue k ⟨3, 1, 0, s.ownDev, 0, m.typ, s.get (GWL_CH_CFG_HOPS_INIT (kDie k) (kIdx k)), 0,
    packOctets (if m.typ = 9 then 6 else 5) (ptpOctets (s.ptpLog m.typ) m)⟩

/-- The first message that waits from chain k is taken: the logical lane on which its SOP came (R18, R225). -/
def State.takeTe (s : State) (k : Nat) (p : Pkt) : Option (Nat × State) :=
  match s.inbox.find? fun x => decide (teKey k 0 ≤ x.1 ∧ x.1 ≤ teKey k 3) with
  | some e => if e.2 = p then some (e.1 - teKey k 0, { s with inbox := s.inbox.erase e }) else none
  | none => none

/-- ASYM of a chain, ps. -/
def State.asym (s : State) (k : Nat) : Int := s.getI (CH_ASYM_ASYM_PS (kDie k) (kIdx k))

/-- The upstream chain in use (R394, R395). -/
def State.upstream (s : State) : Nat := if s.te.onAlt then s.get TE_TREE_UP_ALT else s.get TE_TREE_UP_PRI

/-- Chain k is a downstream chain of the timing tree. -/
def State.isDown (s : State) (k : Nat) : Bool := s.getBit TE_TREE_DOWN k

/-- A message dropped and counted (R393, R394, R406). -/
def State.dropPtp (s : State) : State := s.bump TE_COUNT_DROPPED

/-- The time given for a chain at which the message passes its egress PCS. -/
def egressOf (touts : List (Nat × Nat)) (k : Nat) : Option Nat := (touts.find? fun e => e.1 == k).map (·.2)

/-! ### Servo (R397 to R399) -/

/-- `x · num / den`, rounded down. -/
def scaleInt (x : Int) (num den : Nat) : Int := x * num / den

/-- KI · θ · T and KP · θ in units of 2^-48, θ in ps. -/
def State.kiTerm (s : State) (th : Int) : Int :=
  scaleInt th (s.get TE_SERVO_KI * 2 ^ 32) (10 ^ 12 * 2 ^ s.get TE_CFG_SYNC_LOG2)
def State.kpTerm (s : State) (th : Int) : Int := scaleInt th (s.get TE_SERVO_KP * 2 ^ 32) (10 ^ 12)

/-- YMAX in units of 2^-48. -/
def State.yMax (s : State) : Int := (s.get TE_SERVO_YMAX_PPB * 2 ^ 48 / 10 ^ 9 : Nat)

/-- The servo's state after a Sync with offset θ (R399), with the run of consecutive Syncs it counts. -/
def servoNext (st cnt : Nat) (th : Int) (lock unlock : Nat) : Nat × Nat :=
  if st = svFREE then (svLOCKING, 0)
  else if st = svLOCKING then
    if th.natAbs ≤ lock then (if 16 ≤ cnt + 1 then (svLOCKED, 0) else (svLOCKING, cnt + 1)) else (svLOCKING, 0)
  else if st = svLOCKED then
    if unlock < th.natAbs then (if 4 ≤ cnt + 1 then (svLOCKING, 0) else (svLOCKED, cnt + 1)) else (svLOCKED, 0)
  else if th.natAbs ≤ unlock then (svLOCKED, 0) else (svLOCKING, 0)

/-- One accepted Sync drives the servo: a step, or a change of rate (R398), then the transition of R399. -/
def State.servo (s : State) (th : Int) : State :=
  let st := s.get TE_STATUS_SERVO
  let n := servoNext st s.te.cnt th (s.get TE_LIMITS_LOCK_PS) (s.get TE_LIMITS_UNLOCK_PS)
  let s1 :=
    if st = svFREE ∨ s.get TE_LIMITS_STEP_NS * 1000 < th.natAbs then
      let s1 := s.stepTime (-(psUnits th))
      (((({ s1 with te := { s1.te with stepped := true } }).raise TE_EVENTS_TIME_STEP).bump TE_COUNT_STEPS).emit 0x2C dcPACKAGE 0 0
        (unsigned 72 (-th)) 0)
    else
      let i := clampInt (-s.yMax) s.yMax (s.te.i + s.kiTerm th)
      let y := clampInt (-s.yMax) s.yMax (-(s.kpTerm th + i))
      ({ s with te := { s.te with i := i, y := y } }).putI TE_RATE_Y y
  let s2 := ({ s1 with te := { s1.te with cnt := n.2 } }).put TE_STATUS_SERVO n.1
  let s3 := if n.1 = svLOCKED ∧ st ≠ svLOCKED then s2.raise TE_EVENTS_SERVO_LOCK
    else if st = svLOCKED ∧ n.1 ≠ svLOCKED then s2.raise TE_EVENTS_SERVO_UNLOCK else s2
  s3.refreshQual

/-- The servo enters TIME_HOLD with y := I (R395, R399); one that has taken no Sync yet stays FREE. -/
def State.timeHold (s : State) : State :=
  let was := s.get TE_STATUS_SERVO
  if was = svFREE then s else
  let s1 := { s with te := { s.te with y := s.te.i, holdSince := s.now, cnt := 0 } }
  let s2 := (((s1.putI TE_RATE_Y s.te.i).put TE_STATUS_SERVO svHOLD).raise TE_EVENTS_SYNC_LOSS)
  (when (was == svLOCKED) (·.raise TE_EVENTS_SERVO_UNLOCK) s2).refreshQual

/-- The upstream chain is deaccessioned: the alternate is taken when there is one; either way time is held (R395). -/
def State.upstreamLost (s : State) (k : Nat) : State :=
  if s.follows ∧ k = s.upstream then
    if s.get TE_TREE_ALT_V = 1 ∧ s.te.onAlt = false then
      let s1 := ({ s with te := { s.te with onAlt := true } }).put TE_STATUS_UPSTREAM (s.get TE_TREE_UP_ALT)
      ((s1.raise TE_EVENTS_UPSTREAM_ALT).emit 0x2D dcPACKAGE 0 0 (s.get TE_TREE_UP_ALT) 0).timeHold
    else s.timeHold
  else s

/-! ### Messages -/

/-- A Sync from upstream, at the ball at `tin`, is re-sent on every downstream chain with its correction (R394, R396). -/
def State.forwardSync (s : State) (k : Nat) (m : Ptp) (tin : Nat) (touts : List (Nat × Nat)) : State :=
  forAll (setBitsOf (s.get TE_TREE_DOWN) 16) s fun s j =>
    match egressOf touts j with
    | some t => s.sendPtp j { m with corr := m.corr + psUnits ((s.ballOut j t : Nat) - (tin : Int) + s.asym k), port := j + 1 }
    | none => s

/-- A follower consumes a Sync that arrived at `tin` ps (R396 to R398). -/
def State.consumeSync (s : State) (k : Nat) (m : Ptp) (tin : Nat) : State :=
  let corr := m.corr + psUnits (s.asym k)
  let a : Int := (tin : Int) - (m.ts * 1000 : Nat) - unitsPs corr
  let mpd := s.te.mpd.getD 0
  let th := a - mpd
  let recs := s.te.syncs ++ [⟨tin, a⟩]
  let s1 := { s with te := { s.te with syncs := recs.drop (recs.length - 16), lastSync := s.now } }
  ((s1.putI TE_OFFSET_THETA_PS th).bump TE_COUNT_SYNC_RX).servo th

/-- A Sync message: accepted from the lead on the upstream chain only (R393, R394, R406). -/
def State.acceptSync (s : State) (k : Nat) (p : Pkt) (tin : Nat) (touts : List (Nat × Nat)) : State :=
  let m := ptpOf p
  if s.follows ∧ k = s.upstream ∧ m.typ = 0 ∧ m.domain = s.get TE_CFG_DOMAIN ∧ ptpZn p = true ∧
      m.dev = s.get TE_CFG_LEAD_DEV then
    (s.forwardSync k m tin touts).consumeSync k m tin
  else s.dropPtp

/-- The first message waiting from chain k is a Sync that passed the ingress PCS at `tin` ps. -/
def State.takeSync (s : State) (k : Nat) (p : Pkt) (tin : Nat) (touts : List (Nat × Nat)) : State :=
  match s.takeTe k p with
  | none => s
  | some r => r.2.acceptSync k p (r.2.ballIn k r.1 tin) touts

/-- A Delay_Req on chain k, at the ball at `tin`, is timed for a calibration of the chain (R401). -/
def State.calMeasure (s : State) (k : Nat) (m : Ptp) (tin : Nat) : State :=
  { s with te := { s.te with cal := s.te.cal.map fun q =>
      if q.chain = k ∧ q.got < q.n then { q with got := q.got + 1, sum := q.sum + ((tin : Int) - (m.ts * 1000 : Nat)) } else q } }

/-- A Delay_Req: forwarded upstream with its arrival chain recorded, or answered at the lead (R394, R396). `tin` and `tout` are
times at the balls. -/
def State.acceptReq (s : State) (k : Nat) (p : Pkt) (tin tout : Nat) : State :=
  let m := ptpOf p
  if m.typ ≠ 1 ∨ m.domain ≠ s.get TE_CFG_DOMAIN ∨ ptpZn p = false then s.dropPtp
  else if s.follows then
    if s.isDown k then
      let s1 := { s with te := { s.te with table := Store.put (fun _ => 0) s.te.table m.dev (k + 1) } }
      s1.sendPtp s.upstream
        { m with corr := m.corr + psUnits ((tout : Int) - tin - s.asym s.upstream), port := s.upstream + 1 }
    else s.dropPtp
  else
    (s.calMeasure k m tin).sendPtp k
      ⟨9, m.domain, s.ownDev, k + 1, m.corr - psUnits (tin % 1000 : Nat), tin / 1000, m.seq, m.dev, m.port⟩

/-- DELAY_REQ: the first message waiting from chain k passed the ingress PCS at `tin` ps; forwarded, it passes that of the upstream
chain at `tout`. -/
def execDelayReq (k : Nat) (p : Pkt) (tin tout : Nat) (s : State) : Host.Outcome State Fault Refusal :=
  match s.takeTe k p with
  | none => ok s
  | some r => ok (r.2.acceptReq k p (r.2.ballIn k r.1 tin) (r.2.ballOut r.2.upstream tout))

/-- The follower's path delay from the Delay_Resp to its latest Delay_Req (R397). -/
def State.consumeResp (s : State) (m : Ptp) : State :=
  match if m.seq = (s.te.dreq + 65535) % 65536 then s.te.t3 else none with
  | none => s
  | some t3 =>
    match (s.te.syncs.filter fun r => decide (r.t2 ≤ t3)).getLast? with
    | none => s
    | some r =>
      let b : Int := (m.ts * 1000 : Nat) - t3 - unitsPs m.corr
      let v := (r.a + b) / 2
      let mpd := match s.te.mpd with
        | none => v
        | some o => o + (v - o) / 16
      ({ s with te := { s.te with mpd := some mpd, t3 := none } }).putI TE_OFFSET_MPD_PS mpd

/-- A Delay_Resp: consumed by its requester, else sent on the chain recorded for the requester, else dropped (R394). -/
def State.acceptResp (s : State) (k : Nat) (p : Pkt) : State :=
  let m := ptpOf p
  if s.follows ∧ k = s.upstream ∧ m.typ = 9 ∧ m.domain = s.get TE_CFG_DOMAIN ∧ ptpZn p = true ∧ m.dev = s.get TE_CFG_LEAD_DEV then
    if m.req = s.ownDev then s.consumeResp m
    else
      let j := Store.get (fun _ => 0) s.te.table m.req
      if j = 0 then s.dropPtp else s.sendPtp (j - 1) { m with port := j }
  else s.dropPtp

/-- DELAY_RESP: the first message waiting from chain k. -/
def execDelayResp (k : Nat) (p : Pkt) (s : State) : Host.Outcome State Fault Refusal :=
  match s.takeTe k p with
  | none => ok s
  | some r => ok (r.2.acceptResp k p)

/-- At the Sync interval the lead originates Sync on its downstream chains (R393, R394, R396). -/
def execSyncOriginate (touts : List (Nat × Nat)) (s : State) : Host.Outcome State Fault Refusal :=
  if s.get TE_CFG_ROLE = 1 ∧ s.runs = true then
    let s1 := forAll (setBitsOf (s.get TE_TREE_DOWN) 16) (s.pace tkSync (tSec / 2 ^ s.get TE_CFG_SYNC_LOG2)) fun s j =>
      match egressOf touts j with
      | some x =>
        let t := s.ballOut j x
        s.sendPtp j ⟨0, s.get TE_CFG_DOMAIN, s.ownDev, j + 1, psUnits (t % 1000 : Nat), t / 1000, s.te.sync % 65536, 0, 0⟩
      | none => s
    ok { s1 with te := { s1.te with sync := s1.te.sync + 1 } }
  else ok s

/-- A Delay_Req that this device originates on chain k. -/
def State.sendReq (s : State) (k ts : Nat) : State :=
  s.sendPtp k ⟨1, s.get TE_CFG_DOMAIN, s.ownDev, k + 1, psUnits (-(s.asym k)), ts, s.te.dreq % 65536, 0, 0⟩

/-- At the Delay_Req interval a follower originates a Delay_Req on its upstream chain (R393, R394, R396), and a calibration one of its
N on its chain, with its egress time (R401). -/
def execDelayReqOriginate (touts : List (Nat × Nat)) (s : State) : Host.Outcome State Fault Refusal :=
  if s.runs = false then ok s
  else
    let s0 := s.pace tkDreq (tSec / 2 ^ s.get TE_CFG_DREQ_LOG2)
    let s1 := match s.follows, egressOf touts s.upstream with
      | true, some x =>
        let s1 := s0.sendReq s.upstream 0
        { s1 with te := { s1.te with t3 := some (s.ballOut s.upstream x) } }
      | _, _ => s0
    let due := s.te.cal.filter fun q => decide (0 < q.left) && (egressOf touts q.chain).isSome
    let s2 := forAll due s1 fun s q => s.sendReq q.chain (s.ballOut q.chain ((egressOf touts q.chain).getD 0) / 1000)
    ok { s2 with te := { s2.te with dreq := s2.te.dreq + 1,
                                    cal := s2.te.cal.map fun q => if due.contains q then { q with left := q.left - 1 } else q } }

/-- No Sync accepted for SYNC_TO_S (R399). -/
def execSyncTimeout (s : State) : Host.Outcome State Fault Refusal :=
  if s.follows ∧ s.get TE_STATUS_SERVO = svLOCKED then
    ok ((s.advance (s.te.lastSync + s.get TE_CFG_SYNC_TO_S * tSec)).timeHold)
  else ok s

/-- ASYM_CAL: N exchanges on a chain begin (R401). -/
def State.doAsymCal (s : State) (c : CmdHdr) (k n : Nat) : State :=
  s.inMode c 6 fun s =>
    if 2 * s.part.dies ≤ k then s.complete c ccUNSUPPORTED 0
    else if n < 16 ∨ 2 ^ 24 ≤ n then s.complete c ccBADARG 0
    else
      ({ s with te := { s.te with cal := s.te.cal.filter (fun (q : CalSt) => q.chain != k) ++ [CalSt.mk k n n 0 0] } }).run c (.asymCal k)

def execAsymCal (c : CmdHdr) (chain n : Nat) (s : State) : Host.Outcome State Fault Refusal := ok (s.doAsymCal c chain n)

/-- Both sides have sent and timed their messages and exchanged the means of their delays; the partner's is its sum `sumOut`, in ps,
over `nOut` messages. The difference of the means is halved and rounded down (R401). -/
def execCalDone (k : Nat) (sumOut : Int) (nOut : Nat) (s : State) : Host.Outcome State Fault Refusal :=
  match s.te.cal.find? fun q => q.chain == k && q.left == 0 && q.got == q.n with
  | none => ok s
  | some q =>
    if nOut = 0 then ok s
    else
      let a := (q.sum * nOut - sumOut * q.n) / (2 * q.n * nOut : Nat)
      let s1 := { s with te := { s.te with cal := s.te.cal.filter fun q => q.chain != k } }
      let s2 := ((s1.putI (TE_ASYM_MEAS_ASYM_PS k) a).put (TE_ASYM_MEAS_N k) q.n).raise (TE_ASYM_MEAS_VALID k)
      let s3 := (s2.raise TE_EVENTS_CAL_DONE).emit 0x2E dcPACKAGE 0 0 k (unsigned 72 a)
      ok (s3.finish (fun r => r == .asymCal k) ccDONE 0)

/-- SET_TIME: at once with no PPS named, else at the named PPS's next edge (R391). -/
def State.doSetTime (s : State) (c : CmdHdr) (sec pps : Nat) : State :=
  s.inMode c 6 fun s =>
    if 2 < pps then s.complete c ccBADARG 0
    else if pps = 0 then (s.applySetTime sec).complete c ccDONE 0
    else ({ s with te := { s.te with setTime := some (sec, pps + 1) } }).complete c ccDONE 0

end Sys2Proof.Machine
end

