-- ==== Sys2Proof/Machine/Faults.lean ====
section
/-! DEFINITION. Faults that are open, deaccession, overlap, the loss of dies and of the keeper (R27 to R29, R536 to R555,
R615): the shared operations. -/

namespace Sys2Proof.Machine

open Reg

/-- Die e takes folios from die d through the corner turn. -/
def State.feeds (s : State) (d e : Nat) : Bool :=
  (List.range 4096).any fun i =>
    s.get (CTE_SRC_VALID e i) == 1 && s.get (CTE_SRC_DEV e i) == s.ownDev && s.get (CTE_SRC_DIE e i) == d

/-- A product that waits takes data from die d. -/
def State.takesFrom (s : State) (d : Nat) (u : PUnit) : Bool :=
  match u.src with
  | .dump e _ _ _ => s.feeds d e
  | .volt e _ _ => s.feeds d e
  | .vitrine e _ _ _ => e == d
  | _ => false

/-- The folios from which products not yet made still take data from die `d`: on each die that it feeds the first folio of the
open interval of every dump set, the next folio of the beam engine's passes and the first folio that the corner turn has not
handed over; and of its own open vitrines the next record to hand over. -/
def State.openFolios (s : State) (d : Nat) : List Nat :=
  ((s.dies.filter (s.feeds d)).flatMap fun e =>
    (((List.range 16).filter fun x => s.get (DSET_CFG_EN e x) == 1).map fun x => s.siFirst e (s.get (DSET_STATE_FIRST_SI e x))) ++
      (s.cte e).segNext :: (Store.get (fun _ => BeSt.reset) s.bes e).pos.map fun x => x.2.folio) ++
    ((List.range 16).filter fun v => s.get (VIT_STATE_STATE d v) != 0).map fun v =>
      (Store.get (fun _ => VitSt.reset) (Store.get (fun _ => AcuSt.reset) s.acus d).vits v).next

/-- The sequence of the oldest accepted folio at or after `k`. -/
def State.canFrom (s : State) (k : Nat) : Nat :=
  (s.acc.marks.filter fun m => decide (k ≤ m.1) && m.2.state == 1).foldl (fun m x => min m x.2.seq) s.nvm.nextCan

/-- The CAN sequence at which the affected range of a die begins (R615): the oldest consignment of a product not yet committed
that takes data from the die. -/
def State.firstNeeded (s : State) (d : Nat) : Nat :=
  let waiting := (s.units.filter fun u => s.takesFrom d u && decide (0 < u.canCnt)).foldl (fun m u => min m u.canFirst) s.nvm.nextCan
  ((s.openFolios d).map s.canFrom).foldl min waiting

/-- A fault begins. With another fault of the same span die still open, the two overlap (R28, R29, R554, R615). -/
def State.beginFault (s : State) (u : UnitId) (code : Nat) : State :=
  let others := s.flt.opened.any fun f => f.die == u.die && (f.kind != u.kind || f.unit != u.idx)
  let s1 := { s with flt := { s.flt with opened := s.flt.opened ++ [⟨u.die, u.kind, u.idx, code⟩] } }
  if u.die < 8 ∧ others = true ∧ (s.flt.overlap.any fun o => o.1 == u.die) = false then
    let first := s.firstNeeded u.die
    (({ s1 with flt := { s1.flt with overlap := s1.flt.overlap ++ [(u.die, first)] } }).emit 0x0A u.die u.kind u.idx first
      (2 ^ 48 - 1)).request 6 u.die 0
  else s1

/-- The fault's work has been taken up again: FAULT_RECOVERED closes it; when it was the last of an overlap, the range is
closed too (R538, R615). -/
def State.recoverFault (s : State) (u : UnitId) : State :=
  match s.flt.opened.find? fun f => f.die == u.die && f.kind == u.kind && f.unit == u.idx with
  | none => s
  | some f =>
    let s1 := ({ s with flt := { s.flt with opened := s.flt.opened.erase f } }).emit 0x08 u.die u.kind u.idx f.code 0
    match s.flt.overlap.find? fun o => o.1 == u.die with
    | none => s1
    | some o =>
      if s1.flt.opened.any fun g => g.die == u.die then s1
      else
        (({ s1 with flt := { s1.flt with overlap := s1.flt.overlap.erase o } }).emit 0x0A u.die 0 0 o.2
          (s.nvm.nextCan - 1)).unrequest 6 u.die

/-- A unit is deaccessioned (R538): fault record, event and the unit's state. -/
def State.deaccUnit (s : State) (u : UnitId) (code a b serial : Nat) : State :=
  let s1 := { s with flt := { s.flt with dead := if s.flt.dead.contains u then s.flt.dead else s.flt.dead ++ [u] } }
  let s2 := (s1.appendFault u 1 serial).setUnitState u 2
  (when (decide (u.die < 8)) (·.raise (FLT_EVENTS_DEACC u.die)) s2).emit code u.die u.kind u.idx a b

/-- A rail goes off. -/
def State.railDown (s : State) (x : Nat) : State :=
  (((s.put (RAIL_EN x) 0).put (RAIL_PG x) 0).put (RAIL_SET_MV x) 0).emitOut (.railOff x)

/-- Every switched rail goes off, in the reverse of the wake order. -/
def State.railsDormant (s : State) : State := forAll [7, 6, 5, 4, 3, 2, 1, 0] s State.railDown

/-- The cause and the epoch recorded on VDD_AO (R521, R614). -/
def State.recordDormant (s : State) (cause : Nat) : State :=
  (((s.put LAST_DORMANT_CAUSE cause).put LAST_DORMANT_EPOCH s.nvm.epoch).put LAST_DORMANT_VALID 1).put LAST_DORMANT_REPORTED 0

/-- What DORMANT drops at once: the seal key (R504), an unlock (R511), a wake or an entry into RETAIN under way; device time
passes to the AOI (R527). -/
def State.dropLive (s : State) : State :=
  { s with sec := { s.sec with sealKey := none, unlockEnd := 0 },
           pwr := { s.pwr with wake := none, retaining := false, dramSr := false, held := [] },
           nvm := { s.nvm with stop := .none, musterDone := false } }

/-- The references are off. -/
def State.refsOff (s : State) : State :=
  forAll (List.range 20) s fun s r => (s.put (REF_STATUS_STATE r) rfOFF).setRef r .reset

/-- DRAM contents and the oscillator go with their rails. -/
def State.loseDram (s : State) : State := { s with dram := [], mirrors := [], rsc := { s.rsc with loActive := false } }

/-- Entry into DORMANT: lanes, links and chains go OFF (R70, R71, R202), references with them, the DRAM and the tunnels go with their
rails, and the cause is recorded (R504, R511, R521, R527, R614). -/
def State.enterDormant (s : State) (cause : Nat) : State :=
  let s1 := (((s.recordDormant cause).dropLive).put SEC_STATUS_SEAL_KEY 0).put PWR_MODE_DORMANT_CAUSE cause
  let s1 := when (s.sec.unlockEnd != 0) (·.emitOut (.jtag 0 0)) s1
  let s2 := if s1.sec.debugLock then (s1.put SEC_STATUS_DEBUG 1).put SEC_STATUS_SCOPE 0 else s1
  ((((s2.ingestStopAll.chainsOff).railsDormant.refsOff).loseDram).portsDown).setMode mDORMANT

/-- A fatal fault (R521): ALERT_N where R531 names it, and DORMANT. -/
def State.fatal (s : State) (cause : Nat) : State := s.alert.enterDormant cause

/-- The span dies that two failed hops cut off from the keeper (R20, R28): those on the far side of both. Hop h leaves the
h-th die of the ring order, KD being die 0 of that order. -/
def cutOff (dies a b : Nat) : List Nat :=
  (List.range dies).filter fun d => decide (min a b < d + 1 ∧ d + 1 ≤ max a b)

end Sys2Proof.Machine
end

