-- ==== Sys2Proof/Machine/Ingest.lean ====
section
/-! DEFINITION. The ingest unit (chapter 3): lane and link states, character errors, ILAS and the release of frames into the
delay lines. -/

namespace Sys2Proof.Machine

open Reg

/-! ### Deaccession (R82, R83) -/

/-- The link goes to DEACC and its inputs leave at the next consignment boundary (R83). -/
def State.deaccLink (s : State) (d j : Nat) : State :=
  let s1 := ((s.setLink d j lkDEACC).putBit (ING_STATUS_LINK_DEACC d) j true).raise (ING_EVENTS_DEACC d)
  let g := s1.ing d
  let more := (s.inputsOfLink d j).filter fun i => s.get (INPUT_MAP_DEACC d i) == 0 && !g.leaving.contains i
  s1.setIng d { g with leaving := g.leaving ++ more }

/-- A lane is deaccessioned: `bucket` 0 CHAR, 1 REALIGN (R82, R83). -/
def State.deaccLane (s : State) (d n bucket : Nat) : State :=
  if s.laneState d n = lnDEACC then s
  else
    let u : UnitId := ⟨d, 1, n⟩
    let s1 := ((s.setLane d n lnDEACC).putBit (ING_STATUS_LANE_DEACC d) n true).beginFault u 0x42
    (s1.deaccUnit u 0x42 n bucket 0).deaccLink d (s.linkOf d n)

/-- The CHAR bucket gains 1. -/
def State.charBucket (s : State) (d n : Nat) : State :=
  let s1 := s.charge ⟨d, 1, n⟩ 0 (LANE_ALIGNCNT_CHAR_BKT d n)
  if s.get (ING_BUCKET_CFG_CHAR_THRESH d) < s1.get (LANE_ALIGNCNT_CHAR_BKT d n) then s1.deaccLane d n 0 else s1

/-- The REALIGN bucket gains 1. -/
def State.realBucket (s : State) (d n : Nat) : State :=
  let s1 := s.charge ⟨d, 1, n⟩ 1 (LANE_ALIGNCNT_REAL_BKT d n)
  if s.get (ING_BUCKET_CFG_REAL_THRESH d) < s1.get (LANE_ALIGNCNT_REAL_BKT d n) then s1.deaccLane d n 1 else s1

/-! ### Lanes -/

/-- CDR lock: ACQ to HUNT (R70). QUAD_CFG.LOCK takes what the receive PLL of the quad shows, `pll`. -/
def execCdrLock (d n : Nat) (pll : Bool) (s : State) : Host.Outcome State Fault Refusal :=
  if s.present d = true ∧ s.laneState d n = lnACQ then
    ok (((s.setLane d n lnHUNT).put (LANE_STATUS_CDR_LOCK d n) 1).put (QUAD_CFG_LOCK d (n / 4)) (b2n pll))
  else ok s

/-- Four /K/ without error: HUNT to CGS (R70). -/
def execCgsAchieved (d n : Nat) (s : State) : Host.Outcome State Fault Refusal :=
  if s.present d = true ∧ s.laneState d n = lnHUNT then ok (s.setLane d n lnCGS) else ok s

/-- Four code or disparity errors lie within 16 consecutive characters of the lane (R66). -/
def LaneSt.fourInSixteen (l : LaneSt) : Bool :=
  match l.errs with
  | a :: _ :: _ :: b :: _ => decide (a - b ≤ 15)
  | _ => false

/-- Loss of CDR lock (`cdr` false), or of code-group synchronisation by four errors within 16 characters: the link
re-initialises and the lane's REALIGN bucket gains 1 (R66, R70, R71). -/
def execCgsLoss (d n : Nat) (cdr : Bool) (s : State) : Host.Outcome State Fault Refusal :=
  if s.present d = true ∧ (s.laneState d n = lnCGS ∨ s.laneState d n = lnHUNT) ∧ (!cdr || (s.laneSt d n).fourInSixteen) = true then
    let s1 := if cdr then s.setLane d n lnHUNT else s.enterAcq d n
    let s2 := s1.setLaneSt d n { s1.laneSt d n with errs := [] }
    ok (((s2.bump (LANE_ALIGNCNT_CGS_LOSS d n)).reinit d (s.linkOf d n)).realBucket d n)
  else ok s

/-! ### Frames and the delay lines -/

/-- Streams before slot i: one for a real input, two for a complex one (chapter 4, DELAY_LINE). -/
def State.streamBase (s : State) (d i : Nat) : Nat :=
  (((s.enabledSlots d).filter fun k => decide (k < i)).map fun k => 1 + s.get (INPUT_MAP_CPLX d k)).foldl (· + ·) 0

/-- The streams a link feeds, with the converter of each. -/
def State.linkStreams (s : State) (d j : Nat) : List (Nat × Nat) :=
  (s.inputsOfLink d j).flatMap fun i =>
    let b := s.streamBase d i
    if s.get (INPUT_MAP_CPLX d i) = 1 then [(b, s.get (INPUT_MAP_I_CONV d i)), (b + 1, s.get (INPUT_MAP_Q_CONV d i))]
    else [(b, s.get (INPUT_MAP_I_CONV d i))]

/-- The sample of input-rate index x of stream n: 16-bit value and flag (R97, R99). The line holds 65,536 samples, so a tap
further back reads the location modulo 65,536, where a newer sample stands (log entry 48). -/
def State.lineRead (s : State) (d n x : Nat) : Int × Bool :=
  let w := s.rd (DELAY_LINE d n (x % 65536 / 4))
  let f := w.bits (18 * (x % 4)) 18
  (signed 16 (bitsOf f 0 16), bit f 16)

/-- A sample enters the delay line; a flagged one carries 0. -/
def State.lineWrite (s : State) (d n x val : Nat) (flag : Bool) : State :=
  let a := DELAY_LINE d n (x % 65536 / 4)
  s.wr a ((s.rd a).upd (18 * (x % 4)) 18 (if flag then 65536 else val % 65536))

/-- Every stream of a link takes flagged zeros at the indices from `a` up to `b`, of frames that are not clean. -/
def State.lineFlag (s : State) (d j a b : Nat) : State :=
  let s1 := forAll (s.linkStreams d j) s fun s e => forAll (List.range (b - a)) s fun s x => s.lineWrite d e.1 (a + x) 0 true
  if a < b then s1.setLinkSt d j { s1.linkSt d j with dirty := (s1.linkSt d j).dirty ++ [(a, b - 1)] } else s1

/-- Frame f of DATA of a link is flagged on every lane (R67): at release, or in the delay lines when already released. -/
def State.flagFrame (s : State) (d j f : Nat) : State :=
  let q := s.linkSt d j
  let sz := s.lkS d j
  if q.flagged.contains f then s
  else
    let s1 := (s.setLinkSt d j { q with flagged := q.flagged ++ [f] }).bump (LINK_COUNT_FLAGGED d j)
    if f < q.mf * s.lkK d j then s1.lineFlag d j (q.base + (f * sz : Nat)).toNat (q.base + ((f + 1) * sz : Nat)).toNat else s1

/-- The group as the decoder sees it: inverted when INV is 1 (R65). -/
def State.groupOf (s : State) (d n g : Nat) : Nat := if s.get (LANE_CFG_INV d n) = 1 then 1023 - g % 1024 else g % 1024

/-- The alignment characters /A/ and /F/ (R59). -/
def chA : Nat := 0x7C
def chF : Nat := 0xFC

/-- A control character is in a legal place: in DATA, at position k from its first character, only /A/ at the end of a multiframe
and /F/ at the end of a frame; before DATA the characters of R59 but /F/ (R66). -/
def State.legalControl (s : State) (d j : Nat) (k : Option Nat) (x : Nat) : Bool :=
  match k with
  | some k => (x == chA && k % (s.lkF d j * s.lkK d j) + 1 == s.lkF d j * s.lkK d j) || (x == chF && k % s.lkF d j + 1 == s.lkF d j)
  | none => [0x1C, 0x7C, 0x9C, 0xBC].contains x

/-- The error of a received group, as LANE_ERRCNT counts it: 0 code, 1 disparity, 2 unexpected control; `pos` is the receiver's
running disparity before it (R66). -/
def State.charFault (s : State) (d n g : Nat) (k : Option Nat) (pos : Bool) : Option Nat :=
  let g := s.groupOf d n g
  match dec10 g with
  | none => some 0
  | some c =>
    if wrongDisparity pos g then some 1
    else if c.ctl && !s.legalControl d (s.linkOf d n) k c.oct then some 2
    else none

/-- Group `g`, the lane's character number `ch`, has an error: counted, frames f - 1 and f flagged on a link in DATA, and the
CHAR bucket charged (R66, R67, R82). A group without an error is no such event. -/
def execCharacterError (d n ch g : Nat) (s : State) (pos : Bool := false) : Host.Outcome State Fault Refusal :=
  if s.present d = true ∧ s.laneState d n ≠ lnOFF ∧ s.laneState d n ≠ lnDEACC ∧ n < 16 then
    let j := s.linkOf d n
    let l := s.laneSt d n
    let k := if s.linkState d j = lkDATA ∧ l.first ≤ ch then some (ch - l.first) else none
    match s.charFault d n g k pos with
    | none => ok s
    | some kind =>
      let s1 := (s.bump (if kind = 0 then LANE_ERRCNT_CODE d n else if kind = 1 then LANE_ERRCNT_DISP d n
        else LANE_ERRCNT_CTRL d n)).raise (ING_EVENTS_CHAR_ERR d)
      let s2 := s1.setLaneSt d n { l with errs := (ch :: l.errs).take 4 }
      let s3 := match k with
        | none => s2
        | some k =>
          let f := k / s.lkF d j
          (if f = 0 then s2 else s2.flagFrame d j (f - 1)).flagFrame d j f
      ok (s3.charBucket d n)
  else ok s

/-- A misplaced /A/ or /F/ at position `pos` of its multiframe or frame; `since` says that a correctly placed one came after the
last misplaced one (R66). A repeat at the same wrong position re-initialises the link. -/
def execMisplacedAlignment (d n : Nat) (isA : Bool) (pos : Nat) (since : Bool) (s : State) : Host.Outcome State Fault Refusal :=
  let j := s.linkOf d n
  if s.present d = true ∧ n < 16 ∧ s.laneState d n = lnCGS ∧ pos + 1 < s.lkF d j * (if isA then s.lkK d j else 1) then
    let l := s.laneSt d n
    let run := if since then none else if isA then l.runA else l.runF
    let s1 := s.bump (if isA then LANE_ALIGNCNT_A_ERR d n else LANE_ALIGNCNT_F_ERR d n)
    if run = some pos then
      ok ((s1.setLaneSt d n (if isA then { l with runA := none } else { l with runF := none })).reinit d j)
    else ok (s1.setLaneSt d n (if isA then { l with runA := some pos } else { l with runF := some pos }))
  else ok s

/-! ### Initialisation (R71 to R77) -/

/-- Every lane in CGS and SYNC~ held long enough, with the receive LMFC valid for subclass 1: at the next edge SYNC to ILAS
(R71, R72, R75). -/
def execIlasStart (d j : Nat) (s : State) : Host.Outcome State Fault Refusal :=
  let ls := s.linkLanes d j
  if s.present d = true ∧ j < 8 ∧ s.linkState d j = lkSYNC ∧ ls ≠ [] ∧ (ls.all fun n => s.laneState d n == lnCGS) = true ∧
      (s.get (LINK_CFG_SUBCLASS d j) = 0 ∨ s.te.alignT ≠ none) then
    let x := max s.now ((s.linkSt d j).syncAt + s.get (ING_TIMERS_SYNC_MIN_MF d) * s.mfTime d j)
    ok ((s.advance (s.syncEdge d j x)).setLink d j lkILAS)
  else ok s

/-- The configuration field of MASK index i in octets, as JESD204B lays them out (log entry 12). -/
def ilasField (o : List Nat) (i : Nat) : Nat :=
  let g := fun k lo w => bitsOf (o.getD k 0) lo w
  match i with
  | 0 => g 0 0 8
  | 1 => g 1 0 4
  | 2 => g 2 0 5
  | 3 => g 3 7 1
  | 4 => g 3 0 5
  | 5 => g 4 0 8
  | 6 => g 5 0 5
  | 7 => g 6 0 8
  | 8 => g 7 6 2
  | 9 => g 7 0 5
  | 10 => g 8 0 5
  | 11 => g 8 5 3
  | 12 => g 9 5 3
  | 13 => g 9 0 5
  | 14 => g 10 7 1
  | 15 => g 10 0 5
  | _ => g 13 0 8

/-- FCHK: the sum modulo 256 of the fields the standard sums. -/
def ilasSum (o : List Nat) : Nat :=
  (((List.range 16).map (ilasField o)).foldl (· + ·) 0 + bitsOf (o.getD 1 0) 4 4 + bitsOf (o.getD 2 0) 6 1 +
    bitsOf (o.getD 2 0) 5 1) % 256

/-- The value of field i that the link's configuration expects on lane n. -/
def State.ilasWant (s : State) (d j n : Nat) (o : List Nat) (i : Nat) : Nat :=
  match i with
  | 0 => s.get (LINK_CFG_DID d j)
  | 1 => s.get (LINK_CFG_BID d j)
  | 2 => s.get (LANE_CFG_LID d n)
  | 3 => s.get (LINK_CFG_SCR d j)
  | 4 => 2 ^ s.get (LINK_CFG_L d j) - 1
  | 5 => s.get (LINK_CFG_F_M1 d j)
  | 6 => s.get (LINK_CFG_K_M1 d j)
  | 7 => s.get (LINK_CFG_M_M1 d j)
  | 8 => 0
  | 9 => s.get (LINK_CFG_N_M1 d j)
  | 10 => s.lkNP d j - 1
  | 11 => s.get (LINK_CFG_SUBCLASS d j)
  | 12 => 1
  | 13 => s.get (LINK_CFG_S_M1 d j)
  | 14 => s.get (LINK_CFG_HD d j)
  | 15 => 0
  | _ => ilasSum o

/-- What must agree between the lanes of a link: the 14 octets, but for LID and for the part of FCHK that LID adds, which
name the lane (log entry 12). -/
def ilasCommon (o : List Nat) : List Nat :=
  (List.range 14).map fun k =>
    if k = 2 then o.getD 2 0 / 32 else if k = 13 then (o.getD 13 0 + 256 - ilasField o 2) % 256 else o.getD k 0

/-- The first failing check of R73 and R74, as FAIL_FIELD codes it. -/
def State.ilasCheck (s : State) (d j : Nat) (ls : List IlasLane) : Option Nat :=
  match (setBitsOf (s.get (LINK_CHECK_MASK d j)) 17).find? fun i =>
      ls.any fun l => ilasField l.octs i != s.ilasWant d j l.lane l.octs i with
  | some i => some i
  | none =>
    if ((ls.map fun l => ilasCommon l.octs).dedup.length ≤ 1 ∧ (ls.all fun l => decide (l.skew ≤ 8 * s.lkF d j)) = true) then none
    else some 0x1F

/-- A failed ILAS (R71, R82). -/
def State.ilasFail (s : State) (d j fld : Nat) : State :=
  let s1 := ((s.setLink d j lkFAIL).put (LINK_STATUS_FAIL_FIELD d j) fld).raise (ING_EVENTS_ILAS_FAIL d)
  let s2 := (s1.setLinkSt d j { s1.linkSt d j with failAt := s.now }).bump (LINK_COUNT_ILAS_FAILS d j)
  forAll (s.linkLanes d j) (s2.emit 0x41 d 0 0 j fld) fun s n => s.realBucket d n

/-- A link enters DATA, its lanes aligned on the end of ILAS, which reaches the latest lane now; LINK_REINIT reports its latency
(R71, R74, R77). BUF_FILL is what the earliest lane's buffer holds at the first release. -/
def State.linkData (s : State) (d j : Nat) (ls : List IlasLane) (firsts : List Nat) : State :=
  let s1 := ((s.setLink d j lkDATA).put (LINK_STATUS_DATA_SINCE_S d j) s.secs).put (LINK_STATUS_FAIL_FIELD d j) 0
  let s2 := s1.setLinkSt d j { s1.linkSt d j with first := true, flagged := [], mf := 0, arr := s.now }
  let s3 := forAll (ls.zip firsts) s2 fun s e =>
    s.setLaneSt d e.1.lane { s.laneSt d e.1.lane with first := e.2, buf := [], scr := 0 }
  let wait := (s3.releaseAt d j 0 - s.now) * s.lkRate d j / (10 * tSec)
  let s4 := (s3.put (LINK_LAT_ARRIVAL d j) (min 65535 (s.arrivalOcts d j s.now))).put (LINK_LAT_BUF_FILL d j)
    (min 65535 (wait + (ls.map IlasLane.skew).foldl max 0))
  s4.emit 0x40 d 0 0 j (s4.rd (LINK_LAT d j)).toNat

/-- Four ILAS multiframes on every lane, the last octet at device time `t` on the latest lane; `firsts` number each lane's character
after them. The octets are kept, checked, and the link enters DATA or ILAS_FAIL (R73, R74). -/
def execIlasComplete (d j : Nat) (lanes : List IlasLane) (firsts : List Nat) (t : Nat) (s : State) : Host.Outcome State Fault Refusal :=
  if s.present d = true ∧ j < 8 ∧ s.linkState d j = lkILAS ∧ lanes.map IlasLane.lane = s.linkLanes d j ∧ firsts.length = lanes.length then
    let s1 := forAll lanes (s.advance t) fun s l =>
      (((s.put (LANE_ILAS0_OCT0_8 d l.lane) (ofOctets (l.octs.take 9))).put (LANE_ILAS1_OCT9_13 d l.lane)
        (ofOctets ((l.octs.drop 9).take 5))).put (LANE_STATUS_SKEW d l.lane) (min l.skew 255)).put (LANE_STATUS_RX_LID d l.lane)
        (ilasField l.octs 2)
    let s2 := s1.put (LINK_STATUS_DESKEW_SPAN d j) (min 255 ((lanes.map IlasLane.skew).foldl max 0))
    match s.ilasCheck d j lanes with
    | some f => ok (s2.ilasFail d j f)
    | none => ok (s2.linkData d j lanes firsts)
  else ok s

/-- ILAS_RETRY_MS after a failure the link returns to SYNC (R71). -/
def execIlasRetry (d j : Nat) (s : State) : Host.Outcome State Fault Refusal :=
  if s.present d = true ∧ j < 8 ∧ s.linkState d j = lkFAIL then
    ok ((s.advance ((s.linkSt d j).failAt + s.get (ING_TIMERS_ILAS_RETRY_MS d) * tMs)).toSync d j)
  else ok s

/-- The wait limit of an enabled link out of DATA passes, counted in OBSERVE and CURTAILED (R84). -/
def execLinkWait (d j : Nat) (s : State) : Host.Outcome State Fault Refusal :=
  let w := s.get (ING_TIMERS_LINK_WAIT_S d)
  let st := s.linkState d j
  if s.present d = true ∧ j < 8 ∧ w ≠ 0 ∧ s.accepts = true ∧ s.get (LINK_CFG_EN d j) = 1 ∧ st ≠ lkDATA ∧ st ≠ lkDEACC then
    let s1 := s.advance (s.now + ((s.linkSt d j).waitAt + w * tSec - s.worked))
    ok (((s1.raise (ING_EVENTS_LINK_WAIT d)).emit 0x43 d 0 0 j 0).deaccLink d j)
  else ok s

/-! ### Release (R65 to R69, R76 to R80, R96) -/

/-- A word of a frame, N' bits with the converter's N bits on top, as the 16-bit value delivered (R80). -/
def convValue (n np w : Nat) : Nat := w % 2 ^ np / 2 ^ (np - n) * 2 ^ (16 - n) % 65536

/-- Some octet of sample x of converter c in frame `fr` of DATA lies in the first two octets of its lane (R79). -/
def scrFlag (f sz np fr c x : Nat) : Bool :=
  (List.range (np / 8)).any fun o => decide (fr * f + ((c * sz + x) * np / 8 + o) % f < 2)

/-- One character taken from a lane's buffer at position p of a multiframe: an alignment character at the end of a frame stands for
the octet it replaced; the descrambler follows (R79; log entry 45). The lane's last frame-end octet and history follow. -/
def restoreOct (f : Nat) (scr : Bool) (p : Nat) (c : Chr) (last h : Nat) : Nat × Nat × Nat :=
  let end_ := p % f + 1 == f
  let x := if c.ctl then (if scr then c.oct else if end_ then last else 0) else c.oct
  let r := if scr then descramble h x else (x, h)
  (r.1, if end_ then x else last, r.2)

/-- The octets of a multiframe's characters, with the last frame-end octet and the history they leave. -/
def restoreAll (f : Nat) (scr : Bool) : Nat → List Chr → Nat → Nat → List Nat × Nat × Nat
  | _, [], last, h => ([], last, h)
  | p, c :: cs, last, h =>
    let r := restoreOct f scr p c last h
    let t := restoreAll f scr (p + 1) cs r.2.1 r.2.2
    (r.1 :: t.1, t.2)

/-- Lane n takes received groups into its elastic buffer and gives up a multiframe's octets; the buffer keeps at most two
multiframes (R74). -/
def State.laneTake (s : State) (d j n : Nat) (groups : List Nat) : List Nat × State :=
  let l := s.laneSt d n
  let sz := s.lkF d j * s.lkK d j
  let all := l.buf ++ groups.map fun g => (dec10 (s.groupOf d n g)).getD (dChr 0)
  let r := restoreAll (s.lkF d j) (s.get (LINK_CFG_SCR d j) == 1) 0 (all.take sz) l.last l.scr
  (r.1, s.setLaneSt d n { l with buf := (all.drop sz).take (2 * sz), last := r.2.1, scr := r.2.2 })

/-- The lanes of a link in turn, each with its groups; the octets with the logical lane they carry (R65). -/
def State.lanesTake (s : State) (d j : Nat) : List (Nat × List Nat) → List (Nat × List Nat) × State
  | [] => ([], s)
  | (n, g) :: r =>
    let x := s.laneTake d j n g
    let y := State.lanesTake x.2 d j r
    ((s.get (LANE_CFG_LOGICAL d n), x.1) :: y.1, y.2)

/-- Word w of frame x: the frame's octets run through the logical lanes in order, F on each (log entry 45). -/
def State.frameWord (s : State) (d j : Nat) (octs : List (Nat × List Nat)) (x w : Nat) : Nat :=
  let f := s.lkF d j
  let b := s.lkNP d j / 8
  (List.range b).foldl
    (fun acc o =>
      let k := w * b + o
      acc * 256 + ((octs.find? fun e => e.1 == k / f).map (fun e => e.2.getD (x * f + k % f) 0)).getD 0) 0

/-- The input-rate grid index of device time `t` on a link and the remainder in 2^-10 sample, rounded down (R96). -/
def State.rateIndex (s : State) (d j : Nat) (t : Int) : Int × Nat :=
  let num := (t - (s.gridT0 d * 65536 : Nat)) * (s.lkRate d j * s.lkS d j : Nat)
  let den := 10 * s.lkF d j * tSec
  (num / (den : Nat), (num % (den : Nat) * 1024 / (den : Nat)).toNat)

/-- The ranges of frames that were not clean, but for samples from `b` on, which are delivered anew. -/
def clipDirty (b : Int) (l : List (Nat × Nat)) : List (Nat × Nat) :=
  (l.filter fun r => decide ((r.1 : Int) < b)).map fun r => (r.1, min r.2 (b - 1).toNat)

/-- A multiframe of a link in DATA is released: the samples of every stream it feeds, flagged in flagged frames and in the first
two octets of scrambled DATA. The first since DATA sets the stream's place on the grid and, in subclass 0, r (R76 to R80,
R96). -/
def State.releaseData (s : State) (d j : Nat) (groups : List (List Nat)) : State :=
  let q := s.linkSt d j
  let sz := s.lkS d j
  let fk := s.lkK d j
  let t := s.releaseAt d j q.mf
  let sub0 := s.get (LINK_CFG_SUBCLASS d j) == 0
  let at0 := if sub0 then s.rateIndex d j t else (s.rateIndex d j (t + (s.mfTime d j / (2 * fk * sz) : Nat)))
  let base : Int := if q.first then at0.1 else q.base
  let idx := base + (q.mf * fk * sz : Nat)
  let s0 := (if q.first && q.live then
      (s.setLinkSt d j { q with dirty := clipDirty base q.dirty }).lineFlag d j (max q.next (base.toNat - 65536)) base.toNat
    else s).advance t
  let tk := s0.lanesTake d j ((s.linkLanes d j).zip groups)
  let bad := fun x => q.flagged.contains (q.mf * fk + x / sz)
  let scr := q.first && s.get (LINK_CFG_SCR d j) == 1
  let s1 := forAll (s.linkStreams d j) tk.2 fun s e =>
    forAll ((List.range (fk * sz)).filter fun x => decide (0 ≤ idx + (x : Nat))) s fun s x =>
      s.lineWrite d e.1 (idx + (x : Nat)).toNat
        (convValue (s.lkN d j) (s.lkNP d j) (s.frameWord d j tk.1 (x / sz) (e.2 * sz + x % sz)))
        (bad x || (scr && scrFlag (s.lkF d j) sz (s.lkNP d j) (x / sz) e.2 (x % sz)))
  let s2 := forAll ((List.range fk).filter fun f => bad (f * sz)) s1 fun s f =>
    s.setLinkSt d j { s.linkSt d j with dirty := (s.linkSt d j).dirty ++ [((idx + (f * sz : Nat)).toNat, (idx + (f * sz + sz - 1 : Nat)).toNat)] }
  let p := s2.linkSt d j
  let next := (idx + (fk * sz : Nat)).toNat
  let tags := (List.range fk).map fun f => ((idx + (f * sz : Nat)).toNat, t + octUnits (s.lkF d j * f) / s.lkRate d j)
  let p1 := { p with next := next, live := true, base := base, mf := q.mf + 1, first := false, relT := t,
                     r := if q.first then (if sub0 then at0.2 else 0) else q.r,
                     tags := (p.tags.filter fun e => decide (idx ≤ e.1 + 65536 ∧ (e.1 : Int) < idx)) ++ tags,
                     dirty := p.dirty.filter fun r => decide (next ≤ r.2 + 131072) }
  ((s2.setLinkSt d j p1).pm d 0x10 j fk).pm d 0x11 j ((List.range fk).filter fun f => bad (f * sz)).length

/-- A multiframe's time of a link out of DATA passes: flagged samples at their nominal times, so that the stream is unbroken
(R68). A stream begins at the first sample time after now. -/
def State.releaseFlagged (s : State) (d j : Nat) : State :=
  let q := s.linkSt d j
  let cnt := s.lkK d j * s.lkS d j
  let t := if q.live then q.relT + s.mfTime d j else s.now
  let idx := if q.live then q.next else ((s.rateIndex d j s.now).1 + 1).toNat
  let s1 := (s.advance t).lineFlag d j idx (idx + cnt)
  let p := s1.linkSt d j
  (s1.setLinkSt d j { p with next := idx + cnt, live := true, relT := t, dirty := p.dirty.filter fun r => decide (idx ≤ r.2 + 131072) }).pm
    d 0x10 j (s.lkK d j)

/-- A list of groups stands in each quad for each lane that the link has there. -/
def State.quadsFit (s : State) (d j : Nat) (qs : List (List (List Nat))) : Bool :=
  (List.range 4).all fun q => (qs.getD q []).length == ((s.linkLanes d j).filter fun n => n / 4 == q).length

/-- FRAME_RELEASE: the next multiframe of an enabled link leaves for the delay lines at its release time. `q0` to `q3` are what the
link's lanes of quads 0 to 3 have received since the last release, a list of groups for each lane in ascending order; a multiframe
that some lane has not received is not released. -/
def execFrameRelease (d j : Nat) (q0 q1 q2 q3 : List (List Nat)) (s : State) : Host.Outcome State Fault Refusal :=
  if s.present d = true ∧ j < 8 ∧ s.get (LINK_CFG_EN d j) = 1 ∧ s.ingestMode = true then
    if s.linkState d j = lkDATA then
      let groups := q0 ++ q1 ++ q2 ++ q3
      if s.quadsFit d j [q0, q1, q2, q3] = true ∧ (((s.linkLanes d j).zip groups).all fun e =>
          decide (s.lkF d j * s.lkK d j ≤ (s.laneSt d e.1).buf.length + e.2.length)) = true then
        ok (s.releaseData d j groups)
      else ok s
    else ok (s.releaseFlagged d j)
  else ok s

end Sys2Proof.Machine
end

