-- ==== Sys2Proof/Machine/Acu.lean ====
section
/-! DEFINITION. The acceptance unit (chapter 5): records, read-back, consignments, numbering and vitrines. -/

namespace Sys2Proof.Machine

open Reg

/-! ### Records (R131) -/

/-- Span words of a folio of input i. -/
def State.folioWords (s : State) (d i : Nat) : Nat := if s.get (IN_CFG_FMT d i) = 1 then 2048 else 1024

/-- Word offset of slot i's folio in a record of die d. -/
def State.recOffset (s : State) (d i : Nat) : Nat :=
  (((s.enabledSlots d).filter fun k => decide (k < i)).map (s.folioWords d)).foldl (· + ·) 0

/-- DRAM address of a record slot. -/
def State.slotAddr (s : State) (d sl : Nat) : Nat := s.get (JNL_REGION_BASE d) * 8 + sl * s.get (JNL_REC_REC_WORDS d)

/-- The record of folio k on die d, when it has a directory entry. -/
def State.recOf (s : State) (d k : Nat) : Option JRec := (s.acu d).dir.find? fun r => r.folio == k

/-- Vitrine v of die d is open and its window holds folio k. -/
def State.vitOpen (s : State) (d v : Nat) : Bool := s.get (VIT_STATE_STATE d v) != 0
def State.vitHolds (s : State) (d v k : Nat) : Bool :=
  let q := Store.get (fun _ => VitSt.reset) (s.acu d).vits v
  (s.vitOpen d v && decide (s.get (VIT_FIRST_FOLIO d v) ≤ k) && decide (k ≤ s.get (VIT_LAST_FOLIO d v)) && decide (q.next ≤ k)) ||
    q.held.contains k

/-- Folio k's record is held by a vitrine of die d. -/
def State.vitPins (s : State) (d k : Nat) : Bool := (List.range 16).any fun v => s.vitHolds d v k

/-- Slots that vitrines of die d pin. -/
def State.vitPinned (s : State) (d : Nat) : Nat :=
  ((s.acu d).dir.filter fun r => r.slot != none && s.vitPins d r.folio).length

/-- Record slot sl of die d is pinned (R131). -/
def State.slotPinned (s : State) (d sl : Nat) : Bool :=
  (s.acc.cons.any fun c => c.recs.any fun r => r.die == d && r.slot == some sl) ||
    (s.acu d).dir.any fun r => r.slot == some sl && (decide ((s.acu d).replay ≤ r.folio) || s.vitPins d r.folio)

/-- The die's status counts follow its state. -/
def State.showAcu (s : State) (d : Nat) : State :=
  let s1 := (s.put (ACU_STATUS_VIT_PINNED d) (s.vitPinned d)).put (ACU_STATUS_OPEN_VIT d)
    ((List.range 16).filter (s.vitOpen d)).length
  let tail := match ((s.acu d).dir.find? fun r => r.slot != none) with
    | some r => r.slot.getD 0
    | none => s.get (JNL_PTR_HEAD d)
  (s1.put (ACU_STATUS_UNSETTLED d) s.acc.cons.length).put (JNL_PTR_TAIL d) tail

/-! ### Consignments (R121 to R128) -/

/-- A change to the record of die d in consignment k. -/
def State.modRec (s : State) (k d : Nat) (f : RecSt → RecSt) : State :=
  let upd := fun (c : Cons) => if c.k = k then { c with recs := c.recs.map fun r => if r.die = d then f r else r } else c
  { s with acc := { s.acc with cons := s.acc.cons.map upd } }

/-- A change to consignment k. -/
def State.modCons (s : State) (k : Nat) (f : Cons → Cons) : State :=
  { s with acc := { s.acc with cons := s.acc.cons.map fun c => if c.k = k then f c else c } }

/-- Consignment k fails on die d for the reason with this code. -/
def State.failRec (s : State) (k d code : Nat) : State := s.modRec k d fun r => { r with reasons := r.reasons ||| 2 ^ code }

/-- Input i's folio of consignment k fails on die d (R120). -/
def State.failFolio (s : State) (k d i code : Nat) : State :=
  let first := s.acc.cons.any fun c => c.k == k && c.recs.any fun r => r.die == d && !r.failed.contains i
  let s1 := s.modRec k d fun r => { r with reasons := r.reasons ||| 2 ^ code, failed := if r.failed.contains i then r.failed else r.failed ++ [i] }
  if first then s1.pmU d 0x21 1 else s1

/-- Every reason of a consignment, as a mask. -/
def Cons.allReasons (c : Cons) : Nat := c.recs.foldl (fun m r => m ||| r.reasons) c.reasons

/-- The reason that wins: the lowest code (R124). -/
def lowBit (m : Nat) : Nat := ((setBitsOf m 16).head?).getD 0

def rsMODE : Nat := 1
def rsTIME : Nat := 2
def rsLANE : Nat := 3
def rsJOURNAL : Nat := 4
def rsPAIR : Nat := 5
def rsLATE : Nat := 6
def rsPINNED : Nat := 7
def rsHOLD : Nat := 8
def rsEXHAUSTED : Nat := 9

/-- The record of die d in consignment k. -/
def State.consRec (s : State) (k d : Nat) : Option RecSt :=
  match s.acc.cons.find? fun c => c.k == k with
  | none => none
  | some c => c.recs.find? fun r => r.die == d

/-- A record of consignment c is complete and every copy read back. -/
def State.recPassed (s : State) (r : RecSt) : Bool :=
  r.reasons == 0 && (r.inputs.all fun i => r.backed.contains i && (!s.paired r.die || r.paired.contains i))

/-- SETTLING becomes PASSED once every folio on every die has passed (R122). -/
def State.checkPassed (s : State) (k : Nat) : State :=
  s.modCons k fun c =>
    if c.state = 1 ∧ c.reasons = 0 ∧ (c.recs.all s.recPassed) = true then { c with state := 2 } else c

/-- Settling: every die has the interval's last output of every input (R122). -/
def execSettling (k : Nat) (s : State) : Host.Outcome State Fault Refusal :=
  if s.acc.cur = some k then ok s
  else ok ((s.modCons k fun c =>
    if c.state = 0 ∧ (c.recs.all fun r => r.inputs.all r.done.contains) = true then { c with state := 1 } else c).checkPassed k)

/-! ### Samples into the journal (R113, R131, R420, R421) -/

/-- Capacity of the journal port's write buffer. -/
def jbufWords : Nat := 65536

/-- PANIC follows the fill of the journal port's buffer (R420). -/
def State.panicOn (s : State) (d : Nat) : State :=
  let q := s.acu d
  if q.panic = false ∧ s.get (DRC_QOS_PANIC_ON d) * jbufWords < q.jbuf.length * 100 then
    (((s.setAcu d { q with panic := true }).put (DRC_STATUS_PANIC d) 1).raise (DRC_EVENTS_PANIC d)).bump (DRC_COUNT_PANICS d)
  else s

/-- A word for the journal enters the port's buffer; a full buffer drops it, and the folio fails with JOURNAL (R421). -/
def State.portWord (s : State) (k d i addr : Nat) (w : Word) : State :=
  let q := s.acu d
  if q.jbuf.length < jbufWords then
    ((s.setAcu d { q with jbuf := q.jbuf ++ [(addr, w)] }).put (DRC_STATUS_JBUF_FILL d) (q.jbuf.length + 1)).panicOn d
  else
    let first := match s.consRec k d with
      | some r => !r.overrun
      | none => false
    let s1 := (s.failFolio k d i rsJOURNAL).modRec k d fun r => { r with overrun := true }
    if first then ((s1.bump (DRC_COUNT_OVERRUNS d)).raise (DRC_EVENTS_JNL_OVERRUN d)).emit 0x46 d 0 0 k 0 else s1

/-- Consignment k began outside OBSERVE and CURTAILED, and whether it is recorded is not settled (R118). -/
def State.unsure (s : State) (k : Nat) : Bool := s.acc.cons.any fun c => c.k == k && c.outside

/-- A word of a record on its way to the journal; kept back as long as the interval may go unrecorded. -/
def State.journalWord (s : State) (k d i addr : Nat) (w : Word) : State :=
  if s.unsure k then s.modRec k d fun r => { r with early := r.early ++ [(addr, w)] } else s.portWord k d i addr w

/-- Output sample m of input i arrives at the ACU: packed into its word of the record, with its clean report (R113, R116,
R120). -/
def State.acceptSample (s : State) (d i m : Nat) (x : Samp) (dirty : Bool) : State :=
  let k := m / 4096
  match s.consRec k d with
  | none => s
  | some r =>
    if r.inputs.contains i = false then s
    else
      let f := s.get (IN_CFG_FMT d i) + 1
      let q := s.acu d
      let part := (if m % fmtQ f = 0 then [] else Store.get (fun _ => []) q.parts i) ++ [(x.re, x.im, x.flag)]
      let full := decide (fmtQ f ≤ part.length)
      let s1 := s.setAcu d { q with parts := Store.put (fun _ => []) q.parts i (if full then [] else part) }
      let s2 := match r.slot with
        | some sl =>
          if full then
            s1.journalWord k d i (s.slotAddr d sl + s.recOffset d i + m % 4096 / fmtQ f) (packWord f (part.map fun y => ⟨y.1, y.2.1, y.2.2⟩))
          else s1
        | none => s1
      let s3 := if dirty then s2.failFolio k d i rsLANE else s2
      if m % 4096 = 4095 then s3.modRec k d fun r => { r with done := r.done ++ [i] } else s3

/-- A journal burst leaves the port's buffer for DRAM, and for the partner's mirror under die-pair journalling. -/
def State.drainJournal (s : State) (d n : Nat) : State :=
  let q := s.acu d
  let s1 := forAll (q.jbuf.take n) s fun s e => s.wrMem d e.1 e.2
  let base := s.get (JNL_REGION_BASE d) * 8
  let s2 := if s.paired d then
      let p := s1.acu (partner d)
      s1.setAcu (partner d)
        { p with mirror := (q.jbuf.take n).foldl (fun m e => Store.put (fun _ => (0 : Word)) m (e.1 - base) e.2) p.mirror }
    else s1
  let s3 := (s2.setAcu d { s2.acu d with jbuf := q.jbuf.drop n }).put (DRC_STATUS_JBUF_FILL d) (q.jbuf.length - n)
  if q.panic = true ∧ (q.jbuf.length - n) * 100 < s.get (DRC_QOS_PANIC_OFF d) * jbufWords then
    ((s3.setAcu d { s3.acu d with panic := false }).put (DRC_STATUS_PANIC d) 0).issueRefreshes d
  else s3

/-- The journal writer's port drains one burst to the DRAM (R420). -/
def execJournalWrite (d : Nat) (s : State) : Host.Outcome State Fault Refusal := ok (s.drainJournal d 8)

/-- The words of folio k of input i that still wait in the port's buffer. -/
def State.folioPending (s : State) (d i sl : Nat) : Bool :=
  let a := s.slotAddr d sl + s.recOffset d i
  (s.acu d).jbuf.any fun e => decide (a ≤ e.1) && decide (e.1 < a + s.folioWords d i)

/-- The read-back of a folio's last burst completes (R120): `outc` 0 clean, 1 corrected, 2 uncorrectable; `data` the eight
words read; `mir` for the partner's copy. -/
def execFolioReadBack (d i k : Nat) (mir : Bool) (outc : Nat) (data : List Word) (s : State) : Host.Outcome State Fault Refusal :=
  match s.consRec k d with
  | none => ok s
  | some r =>
    match r.slot with
    | none => ok s
    | some sl =>
      if r.done.contains i = true ∧ r.inputs.contains i = true ∧ s.folioPending d i sl = false then
        let a := s.slotAddr d sl + s.recOffset d i + s.folioWords d i - 8
        let want := if mir then Store.getList (fun _ => (0 : Word)) (s.acu (partner d)).mirror (a - s.get (JNL_REGION_BASE d) * 8) 8
          else s.rdMems d a 8
        let bad := decide (outc = 2) || data != want
        let s1 := if outc = 2 then (s.bump (ACU_RB_UNCORR d)).uncorr (if mir then partner d else d) a 0x12 0
          else if data ≠ want then s.bump (ACU_RB_MISMATCH d)
          else if outc = 1 then s.bump (ACU_RB_CORRECTED d) else s
        if bad then ok ((s1.raise (ACU_EVENTS_RB_FAIL d)).failFolio k d i (if mir then rsPAIR else rsJOURNAL))
        else if mir then ok ((s1.modRec k d fun r => { r with paired := r.paired ++ [i] }).checkPassed k)
        else ok ((when (!r.failed.contains i) (·.pmU d 0x20 1) (s1.modRec k d fun r => { r with backed := r.backed ++ [i] })).checkPassed k)
      else ok s

/-- The records of consignment k, while it is SETTLING, that lack a read-back. -/
def State.unread (s : State) (k : Nat) : List RecSt :=
  (s.acc.cons.filter fun c => c.k == k && c.state == 1).flatMap fun c => c.recs.filter fun r =>
    !(r.inputs.all fun i => r.backed.contains i && (!s.paired r.die || r.paired.contains i))

/-- When the read-back deadline of interval k passes on die d: ACC_WINDOW folio intervals after its end (R122). -/
def State.accDeadline (s : State) (k d : Nat) : Nat := s.gridTime d (4096 * (k + 1 + s.get (ACU_CFG_ACC_WINDOW d)))

/-- ACC_WINDOW intervals have passed since the end of interval k without every read-back complete (R122): the dies whose deadline
is the first to pass fail with LATE. -/
def execAccWindowExpiry (k : Nat) (s : State) : Host.Outcome State Fault Refusal :=
  match (s.unread k).map fun r => s.accDeadline k r.die with
  | [] => ok s
  | t :: ts =>
    let s1 := s.advance (ts.foldl min t)
    ok (forAll ((s.unread k).filter fun r => decide (s.accDeadline k r.die ≤ s1.now)) s1 fun s r => s.failRec k r.die rsLATE)

/-! ### Decision (R123 to R130, R132) -/

/-- The words of a directory entry. -/
def dirWords (r : JRec) : Word × Word :=
  (BitVec.ofNat 72 (r.folio % 2 ^ 48 + (r.slot.getD 0xFFFFFF) % 2 ^ 24 * 2 ^ 48),
   BitVec.ofNat 72 (r.seq % 2 ^ 48 + r.epoch % 2 ^ 16 * 2 ^ 48 + r.state % 4 * 2 ^ 64 + r.reason % 16 * 2 ^ 66))

/-- A directory entry is written, in the directory's registers and in DRAM (R132). The directory has as many entries as the journal
has slots; the entry of a record without a slot is gone once it is overwritten. -/
def State.writeDir (s : State) (d : Nat) (r : JRec) : State :=
  let q := s.acu d
  let len := max 1 (s.get (JNL_REGION_SLOTS d))
  let n := q.dirN % len
  let w := dirWords { r with n := q.dirN }
  let s1 := s.setAcu d { q with dir := (q.dir.filter fun x => x.slot != none || decide (q.dirN < x.n + len)) ++ [{ r with n := q.dirN }], dirN := q.dirN + 1 }
  ((s1.wr (DIR0 d n) w.1).wr (DIR1 d n) w.2).wrMems d (s.get (JNL_REC_DIR_BASE d) * 8 + 2 * n) [w.1, w.2]

/-- The refusal counter of a reason. -/
def refuseField (d code : Nat) : RF :=
  match code with
  | 1 => ACU_REFUSE0_CNT_A d
  | 2 => ACU_REFUSE0_CNT_B d
  | 3 => ACU_REFUSE0_CNT_C d
  | 4 => ACU_REFUSE1_CNT_A d
  | 5 => ACU_REFUSE1_CNT_B d
  | 6 => ACU_REFUSE1_CNT_C d
  | 7 => ACU_REFUSE2_CNT_A d
  | 8 => ACU_REFUSE2_CNT_B d
  | _ => ACU_REFUSE2_CNT_C d

/-- Vitrine v of die d ends early (R141, R143): its last folio, and the next to hand over where nothing is left of it. -/
def State.truncVit (s : State) (d v last : Nat) : State :=
  let a := s.acu d
  let q := Store.get (fun _ => VitSt.reset) a.vits v
  let l := max last (max (s.get (VIT_FIRST_FOLIO d v)) (q.next - 1))
  let s1 := if last < l then s.setAcu d { a with vits := Store.put (fun _ => VitSt.reset) a.vits v { q with next := max q.next (l + 1) } } else s
  (((s1.put (VIT_LAST_FOLIO d v) l).raise (VIT_STATE_TRUNC_POST d v)).raise (ACU_EVENTS_VIT_TRUNC d)).showAcu d

/-- The records of die d's journal that vitrine v's window alone holds, and how many slots are pinned beside them. -/
def State.soleRecs (s : State) (d v : Nat) : List JRec :=
  (s.acu d).dir.filter fun r => r.slot != none && s.vitHolds d v r.folio &&
    !(Store.get (fun _ => VitSt.reset) (s.acu d).vits v).held.contains r.folio &&
    !(List.range 16).any fun w => w != v && s.vitHolds d w r.folio
def State.pinnedBeside (s : State) (d v : Nat) : Nat := s.vitPinned d - (s.soleRecs d v).length

/-- The vitrines of die d pin at most VIT_PIN_MAX slots: where vitrine v would exceed that, it ends at its last pinned record with
TRUNC_POST (R141). -/
def State.limitVit (s : State) (d v : Nat) : State :=
  match (s.soleRecs d v).drop (s.get (ACU_CFG_VIT_PIN_MAX d) - s.pinnedBeside d v) with
  | [] => s.showAcu d
  | x :: _ =>
    let kept := (s.acu d).dir.filter fun r => s.vitHolds d v r.folio && decide (r.folio < x.folio)
    s.truncVit d v ((kept.getLast?.map JRec.folio).getD 0)

/-- The oldest consignment is decided: its entries are written on every die that has a record (R122 to R128, R132). -/
def State.decide1 (s : State) (c : Cons) (state reason seq : Nat) : State :=
  let s1 := { s with acc := { s.acc with cons := s.acc.cons.filter fun x => x.k != c.k } }
  let s2 := forAll c.recs s1 fun s r =>
    let d := r.die
    let s1 := (s.writeDir d ⟨0, c.k, r.slot, state, reason, seq, s.nvm.epoch, r.inputs⟩)
    let s2 := (((s1.put (ACU_LAST_FOLIO_IDX d) c.k).put (ACU_LAST_STATE d) state).put (ACU_LAST_REASON d) reason)
    let s3 := if state = 1 then ((s2.put (ACU_CAN_CAN_SEQ d) seq).put (ACU_CAN_EPOCH d) s.nvm.epoch).bump (ACU_COUNT_ACCEPTED d)
      else ((s2.bump (ACU_COUNT_REFUSED d)).bump (refuseField d reason)).raise (ACU_EVENTS_REFUSED d)
    (forAll ((List.range 16).filter fun v => s3.vitHolds d v c.k) s3 fun s v => s.limitVit d v).showAcu d
  s2.setMarkOf c.k { s2.mark c.k with state := state, seq := seq }

/-- The registrar numbers or refuses the oldest undecided consignment, in ascending folio index (R123, R128, R130); nothing
is numbered during a failover. -/
def execCanNumbering (s : State) : Host.Outcome State Fault Refusal :=
  match s.acc.cons with
  | [] => ok s
  | c :: _ =>
    if s.rg.failover = true ∨ s.acc.cur = some c.k then ok s
    else if c.allReasons ≠ 0 then ok (s.decide1 c 2 (lowBit c.allReasons) 0)
    else if 2 ^ 48 ≤ s.nvm.nextCan then ok (s.decide1 c 2 rsEXHAUSTED 0)
    else if c.state = 2 then
      let seq := s.nvm.nextCan
      let s1 := s.decide1 c 1 0 seq
      let s2 := { s1 with nvm := { s1.nvm with nextCan := seq + 1 } }
      if seq = 2 ^ 48 - 1 then
        ok ((forAll c.recs s2 fun s r => s.raise (ACU_EVENTS_CAN_EXHAUSTED r.die)).emit 0x17 dcPACKAGE 0 0 s.nvm.epoch 0)
      else ok s2
    else ok s

/-! ### Vitrines (R139 to R142) -/

/-- The input slots chosen on die d by package inputs `first` to `first + count - 1`. -/
def chosenOn (first count d : Nat) : List Nat := (List.range 128).filter fun i => decide (first ≤ 128 * d + i) && decide (128 * d + i < first + count)

/-- A slot list as the two mask words. -/
def slotMask (l : List Nat) (lo : Nat) : Nat := (List.range 64).foldl (fun m i => if l.contains (lo + i) then m + 2 ^ i else m) 0

/-- The slots that vitrine v of die d chose. -/
def State.vitSlots (s : State) (d v : Nat) : List Nat :=
  setBitsOf (s.get (VIT_MASK0_INPUTS d v)) 64 ++ (setBitsOf (s.get (VIT_MASK1_INPUTS d v)) 64).map (· + 64)

/-- The folio of the oldest record of die d, decided or not. -/
def State.oldestRec (s : State) (d : Nat) : Option Nat :=
  ((((s.acu d).dir.filter fun r => r.slot != none).map JRec.folio) ++ s.acc.cons.map Cons.k).head?

/-- A vitrine opens on die d for slots `sl` and folios f to l (R140, R141): from the oldest record on where it begins before it. A
window that ends before folio 0 holds nothing. -/
def State.openVitOn (s : State) (d : Nat) (f l : Int) (src num : Nat) (sl : List Nat) : State :=
  match (List.range 16).find? fun v => !s.vitOpen d v with
  | none => s
  | some v =>
    let old : Int := match s.oldestRec d with
      | none => max f 0
      | some k => (k : Nat)
    let f1 := (max f old).toNat
    let s1 := ((s.put (VIT_MASK0_INPUTS d v) (slotMask sl 0)).put (VIT_MASK1_INPUTS d v) (slotMask sl 64)).put (VIT_FIRST_FOLIO d v) f1
    let s2 := ((s1.put (VIT_LAST_FOLIO d v) l.toNat).put (VIT_LAST_MERGED d v) 0).put (VIT_STATE_STATE d v) 1
    let s3 := (((s2.put (VIT_STATE_SOURCE d v) src).put (VIT_STATE_NUMBER d v) num).put (VIT_STATE_DONE d v) 0).put
      (VIT_STATE_TRUNC_POST d v) 0
    let s4 := when (decide (f < old)) (·.raise (ACU_EVENTS_VIT_TRUNC d)) (s3.put (VIT_STATE_TRUNC_PRE d v) (b2n (decide (f < old))))
    let q := s4.acu d
    let held := (Store.get (fun _ => VitSt.reset) q.vits v).held
    let next := if l < 0 then 2 ^ 48 else f1
    (s4.setAcu d { q with vits := Store.put (fun _ => VitSt.reset) q.vits v ⟨next, held⟩ }).limitVit d v

/-- Vitrine `num` has inputs on die d. -/
def State.vitOn (s : State) (d num : Nat) : Bool :=
  (List.range 16).any fun v => s.vitSlots d v != [] && s.get (VIT_STATE_NUMBER d v) == num

/-- The open vitrine of die d with exactly these slots whose window overlaps f to l. The spec leaves open whether a trigger extends
a vitrine that has ended early (TRUNC_POST): DESIGN CHOICE, it does not (log entry 53). -/
def State.vitOverlap (s : State) (d : Nat) (f l : Int) (sl : List Nat) : Option Nat :=
  (List.range 16).find? fun v => s.vitOpen d v && s.vitSlots d v == sl && decide ((s.get (VIT_FIRST_FOLIO d v) : Int) ≤ l) &&
    decide (f ≤ (s.get (VIT_LAST_FOLIO d v) : Int)) && s.get (VIT_STATE_TRUNC_POST d v) == 0

/-- Those vitrines on every die of `ds`, when they are one vitrine on exactly the inputs chosen (R142). -/
def State.vitSame (s : State) (ds : List Nat) (f l : Int) (first count : Nat) : Option (List (Nat × Nat)) :=
  let hit := ds.filterMap fun d => (s.vitOverlap d f l (chosenOn first count d)).map fun v => (d, v)
  match hit with
  | [] => none
  | e :: _ =>
    let num := s.get (VIT_STATE_NUMBER e.1 e.2)
    if hit.length = ds.length ∧ (hit.all fun x => s.get (VIT_STATE_NUMBER x.1 x.2) == num) = true ∧
        (s.dies.all fun x => ds.contains x || !s.vitOn x num) = true then some hit
    else none

/-- A trigger at time t for folios f to l of package inputs (R139 to R142): the state after it, and the vitrine's number, or
none when it is refused. -/
def State.trigger (s : State) (t src : Nat) (f l : Int) (first count : Nat) : State × Option Nat :=
  let ds := s.dies.filter fun d => chosenOn first count d != []
  match s.vitSame ds f l first count with
  | some hit =>
    (forAll hit s fun s e =>
      ((s.put (VIT_LAST_FOLIO e.1 e.2) (max l.toNat (s.get (VIT_LAST_FOLIO e.1 e.2)))).bump (VIT_LAST_MERGED e.1 e.2)).limitVit e.1 e.2,
     hit.head?.map fun e => s.get (VIT_STATE_NUMBER e.1 e.2))
  | none =>
  if (ds.any fun d => decide (16 ≤ ((List.range 16).filter (s.vitOpen d)).length)) = true then
    ((forAll ds s fun s d => s.raise (ACU_EVENTS_VIT_REFUSED d)).emit 0x45 dcPACKAGE 0 0 (bitsOf (packTime t) 0 72) 0, none)
  else
    let num := s.acc.nextVit
    let s1 := { s with acc := { s.acc with nextVit := (num + 1) % 2 ^ 32 } }
    (forAll ds s1 fun s d => s.openVitOn d f l src num (chosenOn first count d), some num)

/-- The folios of a window from `pre` before to `post` after t, all in units of 2^-16 ns (R140). -/
def State.window (s : State) (t pre post : Nat) : Int × Int :=
  (s.folioAt 0 ((t : Int) - (pre : Nat)), s.folioAt 0 ((t + post : Nat) : Int))

/-- A VITRINE command opens its vitrine, or joins one, and completes with its number. -/
def State.cmdVit (s : State) (x : VitCmd) : State :=
  let w := s.window x.t (x.pre * tUs) (x.post * tUs)
  match s.trigger x.t 1 w.1 w.2 x.first x.count with
  | (s1, some n) => s1.complete x.hdr ccDONE n
  | (s1, none) => s1.complete x.hdr ccBUSY 0

/-- A beam-engine trigger may still open a vitrine in the running grain. -/
def State.vitRace (s : State) : Bool := s.dies.any fun d => (List.range 16).any fun g => s.get (GRP_CFG_VIT_EN d g) == 1

/-- The waiting VITRINE commands of grains before g take effect: every trigger of their grain has its number (R139). -/
def State.serveVits (s : State) (g : Nat) : State :=
  forAll (s.acc.vitCmds.filter fun x => decide (x.grain < g))
    { s with acc := { s.acc with vitCmds := s.acc.vitCmds.filter fun x => !decide (x.grain < g) } } State.cmdVit

/-- VITRINE (R139, R461). A beam-engine trigger of the same grain takes its number first, so where one may come the command waits
for the end of the grain. -/
def State.doVitrine (s : State) (c : CmdHdr) (t pre post first count : Nat) : State :=
  s.inMode c 4 fun s =>
    if 128 * s.part.dies < first + count then s.complete c ccUNSUPPORTED 0
    else if count = 0 then s.complete c ccBADARG 0
    else
      let x : VitCmd := ⟨c, unpackTime t, pre, post, first, count, grainOf s.now⟩
      if s.vitRace then { s with acc := { s.acc with vitCmds := s.acc.vitCmds ++ [x] } } else s.cmdVit x

def execVitrine (c : CmdHdr) (t pre post first count : Nat) (s : State) : Host.Outcome State Fault Refusal :=
  ok (s.doVitrine c t pre post first count)

/-! ### Hand-over (R143, R351) -/

/-- The words of slot i's folio in a record: the journal's for an accepted record, flagged zeros for a refused one (R125,
R140). -/
def State.folioData (s : State) (d : Nat) (r : JRec) (i : Nat) : List Word :=
  match r.slot with
  | some sl =>
    if r.state = 1 ∧ r.inputs.contains i = true then s.rdMems d (s.slotAddr d sl + s.recOffset d i) (s.folioWords d i)
    else List.replicate (s.folioWords d i) (staleWord (s.get (IN_CFG_FMT d i) + 1))
  | none => List.replicate (s.folioWords d i) (staleWord (s.get (IN_CFG_FMT d i) + 1))

/-- A sample of the words is flagged. -/
def anyFlag (f : Nat) (ws : List Word) : Bool := ws.any fun w => decide (0 < flaggedIn f w)

/-- The VTR unit of record r for the chosen inputs of one format (R346, R347, R351). -/
def State.vtrUnit (s : State) (d v fmt : Nat) (r : JRec) (sl : List Nat) (last : Bool) : PUnit :=
  let w0 := s.get (VIT_STATE_NUMBER d v) + s.get (VIT_STATE_SOURCE d v) * 2 ^ 32 + s.get (VIT_STATE_TRUNC_PRE d v) * 2 ^ 33 +
    s.get (VIT_STATE_TRUNC_POST d v) * 2 ^ 34 + b2n last * 2 ^ 35 + fmt * 2 ^ 36 + d * 2 ^ 37 + sl.length * 2 ^ 40 +
    s.get (VIT_LAST_MERGED d v) * 2 ^ 48
  let data := sl.flatMap (s.folioData d r)
  let mk := s.mark r.folio
  let stale := b2n (anyFlag (fmt + 1) data || r.state != 1)
  let part := b2n (sl.any fun i => s.get (INPUT_MAP_DEACC d i) == 1)
  { typ := 4, ring := d * 1024 + s.get (PR_CFG_VTR_RING d) % 1024, code := 0,
    flags := mk.flags ||| stale ||| part * 64, start := s.gridTime d (4096 * r.folio),
    canFirst := if mk.state = 1 then mk.seq else s.nvm.nextCan, canCnt := if mk.state = 1 then 1 else 0,
    keyA := r.folio, keyB := s.get (VIT_STATE_NUMBER d v),
    payload := [BitVec.ofNat 72 w0, BitVec.ofNat 72 (r.folio % 2 ^ 48 + r.state * 2 ^ 48), BitVec.ofNat 72 (slotMask sl 0),
      BitVec.ofNat 72 (slotMask sl 64)] ++ data,
    src := .vitrine d v r.folio last }

/-- The next settled record of a vitrine; and its turn: no open vitrine has one of a lower folio, or of the folio and a lower number
(R344). -/
def State.vitNext (s : State) (d v : Nat) : Option JRec :=
  if s.vitOpen d v then
    (s.acu d).dir.find? fun r => decide ((Store.get (fun _ => VitSt.reset) (s.acu d).vits v).next ≤ r.folio) &&
      decide (r.folio ≤ s.get (VIT_LAST_FOLIO d v))
  else none
def State.vitTurn (s : State) (d v k : Nat) : Bool :=
  (List.range 16).all fun w => match s.vitNext d w with
    | none => true
    | some r => decide (k < r.folio) || (k == r.folio && decide (s.get (VIT_STATE_NUMBER d v) ≤ s.get (VIT_STATE_NUMBER d w)))

/-- The vitrine's next settled record is handed to the packer in its turn; its pin stays until the packer has written it. With its last
record handed over the vitrine closes (R143). -/
def State.handOver (s : State) (d v : Nat) : State :=
  let q := Store.get (fun _ => VitSt.reset) (s.acu d).vits v
  let last := s.get (VIT_LAST_FOLIO d v)
  if s.vitOpen d v = false then s
  else
    match s.vitNext d v with
    | none =>
      if (match (s.acu d).highest with | some h => decide (last ≤ h) | none => false) = true ∧
          (s.acc.cons.any fun c => decide (c.k ≤ last)) = false then (s.put (VIT_STATE_STATE d v) 0).showAcu d
      else s
    | some r =>
      if s.vitTurn d v r.folio = false then s
      else
      let fin := decide (last ≤ r.folio) || ((s.acc.cons.any fun c => decide (c.k ≤ last)) == false &&
        (match (s.acu d).highest with | some h => decide (last ≤ h) | none => false) &&
        (s.acu d).dir.all fun x => decide (x.folio ≤ r.folio) || decide (last < x.folio))
      let sl := s.vitSlots d v
      let c8 := sl.filter fun i => s.get (IN_CFG_FMT d i) == 0
      let c16 := sl.filter fun i => s.get (IN_CFG_FMT d i) == 1
      let us := (if c8 = [] then [] else [s.vtrUnit d v 0 r c8 fin]) ++ (if c16 = [] then [] else [s.vtrUnit d v 1 r c16 fin])
      let a := s.acu d
      let s1 := s.setAcu d { a with vits := Store.put (fun _ => VitSt.reset) a.vits v ⟨r.folio + 1, q.held ++ [r.folio]⟩ }
      let s2 := { s1 with units := s1.units ++ us }
      let s3 := (s2.bump (VIT_STATE_DONE d v)).put (VIT_STATE_STATE d v) (if fin then 0 else 2)
      s3.showAcu d

def execVitrineHandover (d v : Nat) (s : State) : Host.Outcome State Fault Refusal :=
  if s.present d = true ∧ v < 16 then ok (s.handOver d v) else ok s

/-- The packer has written a record's VTR data: the pin is released (R143). -/
def State.vitWritten (s : State) (d v folio : Nat) : State :=
  let a := s.acu d
  let q := Store.get (fun _ => VitSt.reset) a.vits v
  (s.setAcu d { a with vits := Store.put (fun _ => VitSt.reset) a.vits v { q with held := q.held.erase folio } }).showAcu d

end Sys2Proof.Machine
end

