-- ==== Sys2Proof/Machine/Fcore.lean ====
section
/-! DEFINITION. An F-core's machine: registers, results under way, bundles, loops and take points (chapter 6, R191 to R194). -/

namespace Sys2Proof.Machine

open Reg

/-! ### Registers (R145 to R148) -/

def zeroNat : Nat → Nat := fun _ => 0
def zeroWord : Nat → Word := fun _ => 0

def CoreSt.vreg (c : CoreSt) (phys : Nat) : Word := Store.get zeroWord c.v phys
def CoreSt.areg (c : CoreSt) (n : Nat) : Nat := Store.get zeroNat c.a n
def CoreSt.mreg (c : CoreSt) (n : Nat) : Nat := Store.get zeroNat c.m n
def CoreSt.lreg (c : CoreSt) (k : Nat) : Nat := Store.get zeroNat c.lc k
def CoreSt.accReg (c : CoreSt) (a : Nat) : Int × Int := Store.get (fun _ => (0, 0)) c.acc a

/-- The physical register of Vn: V32 to V63 slide with WIN (R146). -/
def CoreSt.phys (c : CoreSt) (n : Nat) : Nat := if n < 32 then n else 32 + (n - 32 + c.win) % 32

/-- The value of Vn. -/
def CoreSt.vget (c : CoreSt) (n : Nat) : Word := c.vreg (c.phys n)

/-- The staged loop that is active, if any. -/
def CoreSt.staged (c : CoreSt) : Option LoopSt := c.loops.find? LoopSt.stg

/-- A predicate as read: P0 is 0b11; P8 to P15 follow the stages of an active staged loop (R147, R166). -/
def CoreSt.pget (c : CoreSt) (n : Nat) : Nat :=
  if n = 0 then 3
  else match c.staged with
    | some l => if 8 ≤ n then (if n - 8 ≤ c.sit ∧ c.sit < l.n + (n - 8) then 3 else 0) else Store.get zeroNat c.p n
    | none => Store.get zeroNat c.p n

/-- A word with the lanes of `mask` taken from `x`. -/
def mergeLanes (mask : Nat) (old x : Word) : Word :=
  BitVec.ofNat 72 ((if bit mask 0 then x.bits 0 36 else old.bits 0 36) + (if bit mask 1 then x.bits 36 36 else old.bits 36 36) * 2 ^ 36)

/-- The saturation bound of an accumulator part (R148). -/
def accMax : Int := 2 ^ 47 - 1

/-- A result becomes visible. A predicate written as P0, or as a stage predicate of an active staged loop, is lost; an
accumulator part beyond its bound saturates and sets SATA. Whether a write to P8 to P15 is lost by the loop state where it issues
or where it becomes visible the spec leaves open: DESIGN CHOICE, where it becomes visible (log entry 55). -/
def CoreSt.apply (c : CoreSt) (w : CoreWr) : CoreSt :=
  match w with
  | .vec p mask x => { c with v := Store.put zeroWord c.v p (mergeLanes mask (c.vreg p) x) }
  | .adr n x => { c with a := Store.put zeroNat c.a n (x % 2 ^ 16) }
  | .modr n x => { c with m := Store.put zeroNat c.m n (x % 2 ^ 32) }
  | .pred n mask x =>
    if n = 0 ∨ (8 ≤ n ∧ c.staged.isSome = true) then c
    else { c with p := Store.put zeroNat c.p n ((Store.get zeroNat c.p n &&& (3 - mask % 4)) ||| (x &&& (mask % 4))) }
  | .lc k x => { c with lc := Store.put zeroNat c.lc k (x % 2 ^ 24) }
  | .win x => { c with win := x % 32 }
  | .bex x => { c with bex := signed 8 (unsigned 8 x) }
  | .bsh x => { c with bsh := x % 4 }
  | .bg x => { c with bg := x % 32 }
  | .enable x => { c with enable := x % 128 }
  | .timer x => { c with timer := x % 2 ^ 48, timerOn := true }
  | .ctrsel x => { c with ctrsel := x % 64 }
  | .sata x => { c with sata := x }
  | .acc a re im =>
    let o := c.accReg a
    let r := clampInt (-accMax) accMax (o.1 + re)
    let i := clampInt (-accMax) accMax (o.2 + im)
    { c with acc := Store.put (fun _ => (0, 0)) c.acc a (r, i), sata := c.sata || r != o.1 + re || i != o.2 + im }
  | .accClr a => { c with acc := Store.put (fun _ => (0, 0)) c.acc a (0, 0) }
  | .mem y n x =>
    if y then { c with ym := Store.put zeroWord c.ym n x } else { c with xm := Store.put zeroWord c.xm n x }

/-- A result is an accumulation: it becomes visible after the others, so that SATA stays set where MVTS clears it (R194). -/
def CoreWr.isAcc : CoreWr → Bool
  | .acc _ _ _ => true
  | .accClr _ => true
  | _ => false

/-- The results due by position `p` become visible, in issue order (R155). -/
def CoreSt.settle (c : CoreSt) (p : Nat) : CoreSt :=
  let now := c.writes.filter fun w => decide (w.due ≤ p)
  let c1 := { c with writes := c.writes.filter fun w => !decide (w.due ≤ p) }
  let c2 := (now.filter fun w => !w.w.isAcc).foldl (fun c w => c.apply w.w) c1
  (now.filter fun w => w.w.isAcc).foldl (fun c w => c.apply w.w) c2

/-- The tracked guards due by position `p` enter BG (R163, R181). -/
def CoreSt.track (c : CoreSt) (p : Nat) : CoreSt :=
  { c with bg := (c.tracks.filter fun t => decide (t.1 ≤ p)).foldl (fun b t => min b t.2) c.bg,
           tracks := c.tracks.filter fun t => !decide (t.1 ≤ p) }

/-- Results posted with a latency from the bundle that issues. -/
def CoreSt.post (c : CoreSt) (lat : Nat) (ws : List CoreWr) : CoreSt :=
  { c with writes := c.writes ++ ws.map fun w => ⟨c.pos + lat, w⟩ }

/-- Guards of tracked parts posted with a latency. -/
def CoreSt.postTrack (c : CoreSt) (lat : Nat) (gs : List Nat) : CoreSt :=
  { c with tracks := c.tracks ++ gs.map fun g => (c.pos + lat, g) }

/-- Every operation already issued completes (R158). -/
def CoreSt.drain (c : CoreSt) : CoreSt :=
  let m := c.writes.foldl (fun m w => max m w.due) c.pos
  let step := (List.range (m + 1 - c.pos)).foldl (fun (c : CoreSt) i => (c.track (c.pos + i)).settle (c.pos + i)) c
  let all := step.tracks.foldl (fun m t => max m t.1) m
  { (step.track all) with pos := all }

/-! ### Bundles -/

/-- The place in a repeat's body of the bundle that issues, where it lies in one. -/
def CoreSt.rcIndex (c : CoreSt) : Option Nat :=
  match c.loops with
  | l :: _ => if l.rep = true ∧ l.first ≤ c.pc ∧ c.pc ≤ l.last then some (c.pc - l.first) else none
  | [] => none

/-- The bundle as the repeat cache holds it. -/
def CoreSt.cached (c : CoreSt) : Option Word := c.rcIndex.bind fun i => c.rc[i]?

/-- The word at the program counter: from the repeat cache once a first iteration has filled it, else from PM (R151). -/
def CoreSt.fetch (c : CoreSt) : Word := c.cached.getD (Store.get zeroWord c.pm c.pc)

/-- The bundle at the program counter, and its slots (R177). -/
def CoreSt.bundle (c : CoreSt) : Nat := c.fetch.toNat
def CoreSt.mSlot (c : CoreSt) : Nat := bitsOf c.bundle 0 26
def CoreSt.aSlot (c : CoreSt) : Nat := bitsOf c.bundle 26 24
def CoreSt.cSlot (c : CoreSt) : Nat := bitsOf c.bundle 50 22

/-- The C slot's opcode; 13 and 14 take the A slot's bits too (R178). -/
def CoreSt.cOp (c : CoreSt) : Nat := bitsOf c.cSlot 18 4
def CoreSt.isLoop (c : CoreSt) : Bool := c.cOp == 13 || c.cOp == 14

/-- The bundle that issues lies inside a repeat's body. -/
def CoreSt.inRep (c : CoreSt) : Bool := c.rcIndex.isSome

/-- The repeat cache takes a bundle of a first iteration. -/
def CoreSt.fillRc (c : CoreSt) : CoreSt := if c.rcIndex = some c.rc.length then { c with rc := c.rc ++ [c.fetch] } else c

/-- The boundary before the next bundle is a take point (R158). Whether the boundary between ATOM and the first bundle of its block
is one the spec leaves open: DESIGN CHOICE, it is not (log entry 56). -/
def CoreSt.takePoint (c : CoreSt) : Bool :=
  c.phase == 0 && c.delay == 0 && c.atom == 0 && !c.iterDue &&
    !(c.inRep && (match c.loops with | l :: _ => c.pc != l.first | [] => false))

/-- Frames of the ring that are free: neither complete and unread nor current. -/
def State.outFree (s : State) (d c : Nat) (q : CoreSt) : Nat :=
  s.get (CORE_CFG_OUT_BUFS d c) - q.outs.length - (if q.marked then 0 else 1)

/-- The guard of a C slot holds (scalar guard, R179). -/
def CoreSt.cGuard (c : CoreSt) : Bool := bit (c.pget (bitsOf c.cSlot 14 4)) 0

/-- The stall of the bundle at the program counter: WAIT_IN for an IWAIT without a complete buffer, WAIT_OUT for an OPUT that
leaves no free frame (R168, R169). -/
def State.stallOf (s : State) (d c : Nat) (q : CoreSt) : Nat :=
  let sub := bitsOf q.cSlot 10 4
  if q.takePoint = false ∨ q.inRep = true then 0
  else if q.cOp = 0 ∧ q.cGuard = true ∧ sub = 3 ∧ q.ins.length ≤ q.taken then 2
  else if q.cOp = 0 ∧ q.cGuard = true ∧ sub = 5 ∧ bitsOf q.cSlot 4 3 < s.get (CORE_CFG_INPUTS d c) ∧
      s.get (CORE_CFG_OUT_BUFS d c) ≤ q.outs.length + (if q.marked then 0 else 1) then 3
  else 0

/-- What a bundle's C slot adds to the end of the bundle: a branch instruction (taken or not), the branch to wait for, an
ATOMIC block, a loop that begins, or a skip of an empty loop's body. -/
structure BundleEnd where
  isBr : Bool
  br : Option BrWait
  atom : Option Nat
  loop : Option LoopSt
  skip : Nat
deriving DecidableEq, Repr

def BundleEnd.plain : BundleEnd := ⟨false, none, none, none, 0⟩

/-- The saved execution state returns to the program at RTI (R158). -/
def CoreSt.rtiLand (c : CoreSt) : CoreSt :=
  match c.handler with
  | none => c
  | some h =>
    { c with pc := h.pc, win := h.win, sit := h.sit, bsh := h.bsh, loops := h.loops, handler := none, st := 1,
             rc := [], lc := (List.range 4).foldl (fun m k => Store.put zeroNat m k (h.lcs.getD k 0)) c.lc }

/-- A taken branch lands: a BR that stands in a loop's body frees its level when its target lies outside (R192). -/
def CoreSt.land (c : CoreSt) (b : BrWait) : CoreSt :=
  if b.kind = 2 then c.rtiLand
  else
    { c with pc := b.target % 8192,
             loops := if b.kind = 0 then c.loops.filter fun l =>
                 !(decide (l.first ≤ b.pc) && decide (b.pc ≤ l.last)) || (decide (l.first ≤ b.target) && decide (b.target ≤ l.last))
               else c.loops }

/-- The bundle ends: its results move one position on, delay slots and ATOMIC bundles are counted, a branch lands after its
two delay slots, and the last bundle of the innermost body brings its iteration end. -/
def CoreSt.endBundle (c : CoreSt) (e : BundleEnd) : CoreSt :=
  let c0 := (c.fillRc.track c.pos).settle (c.pos + 1)
  let c1 := { c0 with
    pos := c.pos + 1, phase := 0, atom := e.atom.getD (c.atom - 1),
    delay := if e.isBr then 2 else c.delay - 1, br := if e.isBr then e.br else c.br }
  let c2 := match e.loop with
    | some l => { c1 with loops := l :: c1.loops, rc := [], sit := if l.stg then 0 else c1.sit }
    | none => c1
  match (if c.delay = 1 then c.br else none) with
  | some b => { c2 with br := none }.land b
  | none =>
    match c.loops with
    | l :: _ => if c.pc + e.skip = l.last then { c2 with iterDue := true } else { c2 with pc := (c.pc + 1 + e.skip) % 8192 }
    | [] => { c2 with pc := (c.pc + 1 + e.skip) % 8192 }

/-- An iteration of the innermost loop ends (R166, R192): LCk counts down, a staged loop slides WIN and SIT, and the body
starts again or the loop ends; a body that ends at the same bundle ends its iteration next. -/
def CoreSt.iterEnd (c : CoreSt) : CoreSt :=
  match c.loops with
  | [] => { c with iterDue := false }
  | l :: rest =>
    let x := (c.lreg l.level + 2 ^ 24 - 1) % 2 ^ 24
    let c1 := { c with lc := Store.put zeroNat c.lc l.level x }
    let c2 := if l.stg then { c1 with win := (c1.win + 1) % 32, sit := (c1.sit + 1) % 2 ^ 24 } else c1
    if 0 < x then { c2 with pc := l.first, iterDue := false }
    else match rest with
      | o :: _ => if o.last = l.last then { c2 with loops := rest } else { c2 with loops := rest, pc := (l.last + 1) % 8192, iterDue := false }
      | [] => { c2 with loops := rest, pc := (l.last + 1) % 8192, iterDue := false }

/-! ### The cores of a die -/

def State.fc (s : State) (d : Nat) : FcSt := Store.get (fun _ => FcSt.reset) s.fcs d
def State.setFc (s : State) (d : Nat) (v : FcSt) : State := { s with fcs := Store.put (fun _ => FcSt.reset) s.fcs d v }
def State.core (s : State) (d c : Nat) : CoreSt := Store.get (fun _ => CoreSt.reset) (s.fc d).cores c
def State.setCore (s : State) (d c : Nat) (v : CoreSt) : State :=
  s.setFc d { s.fc d with cores := Store.put (fun _ => CoreSt.reset) (s.fc d).cores c v }
def State.saveOf (s : State) (d l : Nat) : CoreSt := Store.get (fun _ => CoreSt.reset) (s.fc d).saves l
def State.setSave (s : State) (d l : Nat) (v : CoreSt) : State :=
  s.setFc d { s.fc d with saves := Store.put (fun _ => CoreSt.reset) (s.fc d).saves l v }

/-- The logical core that core c serves. -/
def State.logicalOf (s : State) (d c : Nat) : Nat := s.get (CORE_CFG_LOGICAL d c)

/-- Core c issues bundles: enabled, in RUN or in a handler. -/
def State.coreRuns (s : State) (d c : Nat) : Bool :=
  s.present d && decide (c < 18) && s.runs && s.get (CORE_CFG_EN d c) == 1 && ((s.core d c).st == 1 || (s.core d c).st == 4)

/-- CORE_STATUS as a span word. -/
def State.coreStatus (s : State) (d c : Nat) : Word :=
  let q := s.core d c
  BitVec.ofNat 72 (q.st + q.pc * 2 ^ 3 + q.win * 2 ^ 16 + b2n (!q.takePoint) * 2 ^ 21 + unsigned 8 q.bex * 2 ^ 22 + q.pend * 2 ^ 30 +
    q.enable * 2 ^ 38 + b2n q.sata * 2 ^ 46)

/-- IN_FOLIO: the oldest unreleased buffer's folio, or the next that the feeder delivers. -/
def CoreSt.inFolio (c : CoreSt) : Nat :=
  match c.ins with
  | b :: _ => b.folio
  | [] => c.feedFolio

/-- CORE_POS as a span word. -/
def State.corePos (s : State) (d c : Nat) : Word :=
  let q := s.core d c
  BitVec.ofNat 72 (q.inFolio % 2 ^ 48 + q.ins.length % 16 * 2 ^ 48 + s.outFree d c q % 16 * 2 ^ 52)

/-- Spares of the die: FC16 and FC17 neither on loan, given up nor deaccessioned (R548). -/
def State.freeSpares (s : State) (d : Nat) : List Nat :=
  [16, 17].filter fun c => ((s.fc d).loans.all fun l => l.spare != c) && s.get (UNIT_BKT_STATE d (17 + c)) == 0

/-- LOAN16, LOAN17 and FC_SPARES follow the loans. -/
def State.showLoans (s : State) (d : Nat) : State :=
  let on := fun c => match (s.fc d).loans.find? fun l => l.spare == c with
    | some l => l.logical
    | none => 0x1F
  ((s.put (FC_STATUS_LOAN16 d) (on 16)).put (FC_STATUS_LOAN17 d) (on 17)).put (FLT_STATUS_FC_SPARES d) (s.freeSpares d).length

/-- The core is restarted from a save, on the memories and positions that the save holds (R173); frames that the CTE has read
since stay free and its tag filter meets the rest (R170). -/
def State.restoreCore (s : State) (d c l : Nat) : State :=
  s.setCore d c { s.saveOf d l with st := 1, giveDue := false, replayTo := max (s.core d c).feedFolio (s.saveOf d l).replayTo }

/-- The core stops with nothing in it. -/
def State.coldCore (s : State) (d c : Nat) : State := (s.setCore d c .reset).put (CORE_CFG_EN d c) 0

/-- A remaining core of lowest configured load (R552), ties to the lower logical core. -/
def State.hostFor (s : State) (d : Nat) : Option Nat :=
  let run := (List.range 18).filter fun c => s.get (CORE_CFG_EN d c) == 1 && ((s.fc d).hosts.all fun h => h.core != c)
  let u := fun c => Config.coreLoad (s.get PROG_STATE_RUNNING) d (s.logicalOf d c)
  run.foldl (fun b c => match b with
    | none => some c
    | some x => if u c < u x ∨ (u c = u x ∧ s.logicalOf d c < s.logicalOf d x) then some c else some x) none

/-- The folio at which the consignments that begin after the next boundary start: the boundary of R549. -/
def State.boundary (s : State) : Nat :=
  match s.acc.cur with
  | some k => k + 1
  | none => 0

/-- CORE_CFG of core c taken for core h, but for EN. -/
def State.copyCfg (s : State) (d c h : Nat) : State := (s.wr (CORE_CFG d h) (s.rd (CORE_CFG d c))).put (CORE_CFG_EN d h) 1

/-- No spare is free: replacement is requested, and a remaining core is asked for a save, after which it finishes the lost logical
core's records (R548, R552). -/
def State.spareless (s : State) (d c l : Nat) : State :=
  let s1 := s.request 1 d 0
  let s2 := s1.setFc d { s1.fc d with gone := if (s1.fc d).gone.contains l then (s1.fc d).gone else (s1.fc d).gone ++ [l] }
  match s2.hostFor d with
  | none => s2
  | some h =>
    let own := s2.logicalOf d h
    let s3 := s2.setFc d { s2.fc d with hosts := (s2.fc d).hosts ++ [⟨h, own, l, c, s.boundary, false, true, s2.rd (CORE_CFG d h)⟩] }
    s3.setCore d h { s3.core d h with pend := withBit (s3.core d h).pend 0 true }

/-- A spare goes on loan for logical core l of core c (R174), or no spare is free. -/
def State.lend (s : State) (d c l : Nat) : State :=
  match s.freeSpares d with
  | [] => s.spareless d c l
  | sp :: _ =>
    let s1 := (s.setFc d { s.fc d with loans := (s.fc d).loans ++ [⟨c, sp, l, false, false, false⟩] }).copyCfg d c sp
    let s2 := ((s1.setCore d sp (s1.core d c)).restoreCore d sp l).showLoans d
    (((s2.put (CORE_CFG_EN d c) 0).raise (FC_EVENTS_LOAN d)).raise (FLT_EVENTS_LOAN d)).emit 0x51 d 4 c l sp

/-- A core gives up its work (R537, R543): its bucket is charged, a fault opens, and a spare goes on loan; a registrar
failover makes the loan wait (R558). -/
def State.coreGivesUp (s : State) (d c : Nat) : State :=
  let l := s.logicalOf d c
  let u : UnitId := ⟨d, 4, c⟩
  let mine := (s.fc d).loans.find? fun x => x.spare == c
  let failed := match mine with | some x => x.core | none => c
  let s1 := ((s.charge u 1 (UNIT_BKT_BKT_B d (17 + c))).setUnitState u 1).beginFault u 0x50
  let s2 := s1.setFc d { s1.fc d with loans := (s1.fc d).loans.filter fun x => x.spare != c,
                                      hosts := (s1.fc d).hosts.filter fun x => x.core != c,
                                      passes := Store.put zeroNat (s1.fc d).passes c 0 }
  let s3 := (s2.setCore d c { s2.core d c with st := 0, giveDue := false }).setTimer (tkFcTest d c) s.now |>.setTimer (tkFcGave d c) s.now
  let s4 := if s.get (FLT_LIMITS_GIVEUP_THRESH d) < s1.get (UNIT_BKT_BKT_B d (17 + c)) then
      ((s3.deaccUnit u 0x53 0 0 0).putBit (FC_STATUS_DEACC d) c true).advise 0x53 d else s3
  let s5 := (s4.copyCfg d c failed).put (CORE_CFG_EN d failed) 0
  let s6 := if s5.rg.failover then s5.setFc d { s5.fc d with waiting := (s5.fc d).waiting ++ [failed] } else s5.lend d failed l
  let s7 := s6.setFc d { s6.fc d with loans := (s6.fc d).loans.map fun x => if s6.isDead ⟨d, 4, x.core⟩ then { x with perm := true } else x }
  (s7.put (CORE_CFG_EN d c) 0).showLoans d

/-- A core faults (R156, R543): hardware faults make it give up its work; a program fault restarts the logical core from its
last save, and the second with the same PC and FOLIO stops the programme. -/
def State.coreFault (s : State) (d c cause : Nat) : State :=
  let q := s.core d c
  let l := s.logicalOf d c
  let hw := cause == 4 || cause == 5 || cause == 6
  let s1 := (((s.put (CORE_FAULT_CAUSE d c) cause).put (CORE_FAULT_PC d c) q.pc).put (CORE_FAULT_FOLIO d c) q.inFolio).raise
    (FC_EVENTS_FAULT d)
  let w := (s1.rd (CORE_FAULT d c)).toNat
  let s2 := s1.emitC hw 0x50 d 4 c w 0
  if hw then s2.coreGivesUp d c
  else
    let key := (d, l, q.pc, q.inFolio)
    let again := s.flt.progFaults.contains key
    let s3 := s2.emit 0x54 d 4 c w (b2n again)
    if again then ({ s3 with nvm := { s3.nvm with stopDue := true } }).setCore d c { q with st := 6, phase := 0 }
    else ({ s3 with flt := { s3.flt with progFaults := s3.flt.progFaults ++ [key] } }).restoreCore d c l

/-- A memory error met by a core's access: corrected (1) is counted and charged, and beyond the threshold the core gives up at
its next take point (R152, R537). -/
def State.corrected (s : State) (d c : Nat) : State :=
  let s1 := ((s.bump (CORE_FAULT_ECC_CORR d c)).raise (FC_EVENTS_ECC_CORR d)).charge ⟨d, 4, c⟩ 0 (UNIT_BKT_BKT_A d (17 + c))
  if s.get (FLT_LIMITS_CORR_THRESH d) < s1.get (UNIT_BKT_BKT_A d (17 + c)) then
    s1.setCore d c { s1.core d c with giveDue := true }
  else s1

/-- A core's new state is kept: SATA newly set is reported, and a give-up due at a take point is carried out. -/
def State.keepCore (s : State) (d c : Nat) (q : CoreSt) : State :=
  let s1 := when (q.sata && !(s.core d c).sata) (·.raise (FC_EVENTS_SATA d)) (s.setCore d c q)
  if q.giveDue = true ∧ q.takePoint = true then s1.coreGivesUp d c else s1

/-- The products of a folio that a spare channelises, or that is channelised from replayed records, show it (R347). -/
def State.markFolio (s : State) (d c : Nat) (q : CoreSt) : State :=
  let k := q.inFolio
  let m := s.mark k
  s.setMarkOf k { m with flags := m.flags ||| ((if 16 ≤ c ∧ (s.fc d).loans.any (fun l => l.spare == c) = true then 2 else 0) +
    (if k < q.replayTo then 4 else 0)) }

/-- The core's state of wait when its bundle stalls; each attempt counts as one cycle of it (R583, PMON events 0x29, 0x2A). -/
def State.stallCore (s : State) (d c : Nat) (q : CoreSt) (st : Nat) : State :=
  let s := (s.td d c st 3).pm d (0x27 + st) c 1
  if st = 3 ∧ q.marked = false then
    let fr : OutFrame := ⟨q.outCur, q.inFolio, bitsOf q.cSlot 4 3, false⟩
    (s.markFolio d c q).setCore d c { q with st := 3, outs := q.outs ++ [fr], marked := true }
  else s.setCore d c { q with st := st }

/-- A fetch from PM meets a memory error: 1 corrected, 2 uncorrectable (R152). -/
def State.withFetch (s : State) (d c ecc : Nat) (f : State → State) : State :=
  let q := s.core d c
  if ecc = 0 ∨ s.coreRuns d c = false ∨ q.phase ≠ 0 ∨ q.iterDue = true ∨ s.stallOf d c q ≠ 0 ∨ q.cached.isSome = true then f s
  else if ecc = 1 then f (s.corrected d c)
  else s.coreFault d c 4

/-- A slot's command meets the core (R182): `slot` is the slot's number, `w` its bits, `bad` whether they are an illegal
encoding, `want` whether they spell the command. A stalling bundle does not issue: the core waits, and an OPUT marks its
frame first (R168, R169, R194). -/
def State.issue (s : State) (d c slot : Nat) (bad want : Bool) (f : CoreSt → State) : State :=
  let q := s.core d c
  if s.coreRuns d c = false ∨ q.iterDue = true then s
  else if q.phase = 0 ∧ s.stallOf d c q ≠ 0 then s.stallCore d c q (s.stallOf d c q)
  else if q.phase ≠ slot then s
  else if bad then s.coreFault d c 1
  else if want = false then s
  else f q

end Sys2Proof.Machine
end

