-- ==== Sys2Proof/Machine/FcoreOps.lean ====
section
/-! DEFINITION. The M and A slots of an F-core's bundle (R177 to R187). A command issues its slot of the bundle at the
program counter; the operands are that slot's fields in program memory. -/

namespace Sys2Proof.Machine

open Reg

/-! ### C18 (R42, R163, R183) -/

/-- Lane k of a C18 word. -/
def laneOf (w : Word) (k : Nat) : Int × Int := (signed 18 (w.bits (36 * k) 18), signed 18 (w.bits (36 * k + 18) 18))

/-- A C18 word of two lanes. -/
def c18 (a b : Int × Int) : Word :=
  BitVec.ofNat 72 (unsigned 18 a.1 + unsigned 18 a.2 * 2 ^ 18 + unsigned 18 b.1 * 2 ^ 36 + unsigned 18 b.2 * 2 ^ 54)

/-- A part narrowed to C18. -/
def narrow18 (x : Int) : Int := clampInt (-(2 ^ 17)) (2 ^ 17 - 1) x
def narrowC (z : Int × Int) : Int × Int := (narrow18 z.1, narrow18 z.2)

/-- The guard of a part (R163). -/
def guard18 (x : Int) : Nat :=
  let y := if x < 0 then (-x - 1).toNat else x.toNat
  17 - (if y = 0 then 0 else Nat.log2 y + 1)

/-- Exact complex arithmetic. -/
def cMul (a b : Int × Int) : Int × Int := (a.1 * b.1 - a.2 * b.2, a.1 * b.2 + a.2 * b.1)
def cAdd (a b : Int × Int) : Int × Int := (a.1 + b.1, a.2 + b.2)
def cSub (a b : Int × Int) : Int × Int := (a.1 - b.1, a.2 - b.2)
def cConj (a : Int × Int) : Int × Int := (a.1, -a.2)
def cShr (n : Nat) (a : Int × Int) : Int × Int := (a.1 / (2 ^ n : Nat), a.2 / (2 ^ n : Nat))
/-- A complex number times j. -/
def cJ (a : Int × Int) : Int × Int := (-a.2, a.1)

/-- The samples of n registers from Vr on (R180). -/
def CoreSt.samples (c : CoreSt) (r n : Nat) : List (Int × Int) :=
  (List.range n).flatMap fun i => [laneOf (c.vget (r + i)) 0, laneOf (c.vget (r + i)) 1]

/-- The real coefficients of the pair at Vr. -/
def CoreSt.coefs (c : CoreSt) (r : Nat) : List Int :=
  (List.range 8).map fun k => signed 18 ((c.vget (r + k / 4)).bits (18 * (k % 4)) 18)

/-- Samples written to consecutive registers from Vr on, stride `st`, under a lane guard. -/
def CoreSt.vecs (c : CoreSt) (r st mask : Nat) : List (Int × Int) → List CoreWr
  | a :: b :: rest => .vec (c.phys r) mask (c18 a b) :: c.vecs (r + st) st mask rest
  | _ => []

/-- The guards of the parts that a lane guard lets through. -/
def guardsOf (mask : Nat) : List (Int × Int) → List Nat
  | a :: b :: rest =>
    (if bit mask 0 then [guard18 a.1, guard18 a.2] else []) ++ (if bit mask 1 then [guard18 b.1, guard18 b.2] else []) ++
      guardsOf mask rest
  | _ => []

/-! ### The M slot (R178, R186) -/

/-- The fields of an M slot. -/
structure MF where
  t : Bool
  op : Nat
  pg : Nat
  d : Nat
  s : Nat
  tt : Nat
deriving DecidableEq, Repr

def mFields (w : Nat) : MF := ⟨bit w 25, bitsOf w 22 3, bitsOf w 18 4, bitsOf w 12 6, bitsOf w 6 6, bitsOf w 0 6⟩

/-- An M slot that R180 to R182 reject. -/
def mIllegal (w : Nat) : Bool :=
  let f := mFields w
  match f.op with
  | 0 => w % 2 ^ 26 != 0
  | 1 => f.d % 2 != 0 || f.s % 2 != 0 || f.tt % 2 != 0
  | 2 => f.d % 2 != 0 || f.s % 2 != 0 || f.tt % 2 != 0
  | 3 => f.d % 2 != 0 || f.s % 2 != 0 || f.tt % 2 != 0
  | 4 => f.d % 4 != 0 || f.s % 4 != 0 || f.tt % 2 != 0
  | 5 => f.d % 4 != 0 || f.s % 4 != 0 || f.tt % 2 != 0 || decide (52 < f.d)
  | 6 => f.d % 2 != 0 || f.s % 2 != 0 || f.tt % 4 != 0
  | _ =>
    f.t || (match f.d / 8 with
      | 0 => f.s % 2 != 0 || f.tt % 2 != 0
      | 1 => f.s % 2 != 0 || f.tt % 2 != 0
      | 2 => f.d % 2 != 0 || decide (47 < f.tt)
      | 3 => f.s != 0 || f.tt != 0
      | _ => true)

/-- An M slot's opcode, and under MACC its sub-operation, are the command's. -/
def mIs (op : Nat) (sub : Nat) (w : Nat) : Bool :=
  (mFields w).op == op && (op != 7 || (mFields w).d / 8 == sub)

/-- An M-slot command, the first of its bundle: `ecc` is the memory error that the bundle's fetch met; its results are posted and
the A slot issues next. -/
def State.mOp (s : State) (d c ecc op sub : Nat) (f : CoreSt → MF → CoreSt) : State :=
  s.withFetch d c ecc fun s =>
    let w := (s.core d c).mSlot
    s.issue d c 0 (mIllegal w) (mIs op sub w) fun q =>
      (s.setCore d c { f q (mFields w) with phase := 1 }).td d c (b2n (op == 0)) 1

/-- Samples of the destination with latency, lane guard and tracking. -/
def CoreSt.mWrite (c : CoreSt) (f : MF) (lat r : Nat) (zs : List (Int × Int)) : CoreSt :=
  let g := c.pget f.pg
  let c1 := c.post lat (c.vecs r 1 g zs)
  if f.t then c1.postTrack lat (guardsOf g zs) else c1

/-- The complex multiplies: sample by sample, `tr` applied to the second factor, with `n` fractional bits. -/
def CoreSt.mulOp (c : CoreSt) (f : MF) (tr : Int × Int → Int × Int) (n : Nat) : CoreSt :=
  c.mWrite f 3 f.d (((c.samples f.s 2).zip (c.samples f.tt 2)).map fun p => narrowC (cShr n (cMul p.1 (tr p.2))))

/-- Real multiply of a quad by a pair of coefficients. -/
def CoreSt.rmulOf (c : CoreSt) (f : MF) : List (Int × Int) :=
  ((c.samples f.s 4).zip (c.coefs f.tt)).map fun p => cShr 17 (p.1.1 * p.2, p.1.2 * p.2)

/-- MNOP. -/
def execMnop (d c : Nat) (s : State) (ecc : Nat := 0) : Host.Outcome State Fault Refusal := ok (s.mOp d c ecc 0 0 fun q _ => q)

/-- CMUL: products with 17 fractional bits. -/
def execCmul (d c : Nat) (s : State) (ecc : Nat := 0) : Host.Outcome State Fault Refusal := ok (s.mOp d c ecc 1 0 fun q f => q.mulOp f id 17)

/-- CMULJ: products with the conjugate of the second factor. -/
def execCmulj (d c : Nat) (s : State) (ecc : Nat := 0) : Host.Outcome State Fault Refusal := ok (s.mOp d c ecc 2 0 fun q f => q.mulOp f cConj 17)

/-- CMULW: products with twiddles of 16 fractional bits. -/
def execCmulw (d c : Nat) (s : State) (ecc : Nat := 0) : Host.Outcome State Fault Refusal := ok (s.mOp d c ecc 3 0 fun q f => q.mulOp f id 16)

/-- RMUL: a quad weighted by a pair of real coefficients. -/
def execRmul (d c : Nat) (s : State) (ecc : Nat := 0) : Host.Outcome State Fault Refusal :=
  ok (s.mOp d c ecc 4 0 fun q f => q.mWrite f 3 f.d ((q.rmulOf f).map narrowC))

/-- FTAP: RMUL plus the quad eight registers above. -/
def execFtap (d c : Nat) (s : State) (ecc : Nat := 0) : Host.Outcome State Fault Refusal :=
  ok (s.mOp d c ecc 5 0 fun q f => q.mWrite f 3 f.d (((q.samples (f.d + 8) 4).zip (q.rmulOf f)).map fun p => narrowC (cAdd p.1 p.2)))

/-- CROT: the pair times the phasor, and the phasor times its step; only d is tracked. -/
def execCrot (d c : Nat) (s : State) (ecc : Nat := 0) : Host.Outcome State Fault Refusal :=
  ok (s.mOp d c ecc 6 0 fun q f =>
    let phi := q.samples f.tt 2
    let sig := q.samples (f.tt + 2) 2
    let ds := ((q.samples f.s 2).zip phi).map fun p => narrowC (cShr 17 (cMul p.1 p.2))
    let ps := (phi.zip sig).map fun p => narrowC (cShr 17 (cMul p.1 p.2))
    (q.mWrite f 3 f.d ds).post 3 (q.vecs f.tt 1 (q.pget f.pg) ps))

/-- A scalar guard on the M slot. -/
def CoreSt.mGuard (c : CoreSt) (f : MF) (x : CoreSt) : CoreSt := if bit (c.pget f.pg) 0 then x else c

/-- The sum that a multiply-accumulate adds. -/
def CoreSt.macSum (c : CoreSt) (f : MF) (tr : Int × Int → Int × Int) : Int × Int :=
  (((c.samples f.s 2).zip (c.samples f.tt 2)).map fun p => cMul p.1 (tr p.2)).foldl cAdd (0, 0)

/-- CMAC: four products into an accumulator. -/
def execCmac (d c : Nat) (s : State) (ecc : Nat := 0) : Host.Outcome State Fault Refusal :=
  ok (s.mOp d c ecc 7 0 fun q f => q.mGuard f (q.post 4 [.acc (f.d % 8) (q.macSum f id).1 (q.macSum f id).2]))

/-- CMACJ: CMAC with the conjugate of the second factor. -/
def execCmacj (d c : Nat) (s : State) (ecc : Nat := 0) : Host.Outcome State Fault Refusal :=
  ok (s.mOp d c ecc 7 1 fun q f => q.mGuard f (q.post 4 [.acc (f.d % 8) (q.macSum f cConj).1 (q.macSum f cConj).2]))

/-- ACCRD: two accumulators shifted right into the lanes of a register. -/
def execAccrd (d c : Nat) (s : State) (ecc : Nat := 0) : Host.Outcome State Fault Refusal :=
  ok (s.mOp d c ecc 7 2 fun q f =>
    q.mGuard f (q.post 1 [.vec (q.phys f.s) 3 (c18 (narrowC (cShr f.tt (q.accReg (f.d % 8))))
      (narrowC (cShr f.tt (q.accReg (f.d % 8 + 1)))))]))

/-- ACCCLR: an accumulator set to 0, in order with the accumulations. -/
def execAccclr (d c : Nat) (s : State) (ecc : Nat := 0) : Host.Outcome State Fault Refusal :=
  ok (s.mOp d c ecc 7 3 fun q f => q.mGuard f (q.post 4 [.accClr (f.d % 8)]))

/-! ### The A slot (R178, R187) -/

/-- The fields of an A slot. -/
structure AF where
  op : Nat
  pg : Nat
  d : Nat
  s : Nat
  x : Nat
deriving DecidableEq, Repr

def aFields (w : Nat) : AF := ⟨bitsOf w 20 4, bitsOf w 16 4, bitsOf w 10 6, bitsOf w 4 6, bitsOf w 0 4⟩

/-- An A slot that R180 to R182 reject. -/
def aIllegal (w : Nat) : Bool :=
  let f := aFields w
  match f.op with
  | 0 => w % 2 ^ 24 != 0
  | 1 => f.d % 2 != 0 || f.s % 2 != 0
  | 2 => bit f.x 0 || f.x / 4 != 0
  | 3 => f.s % 4 != 0 || decide (51 < f.d) || f.x / 4 != 0
  | 4 => f.d % 2 ^ (f.x % 4) != 0 || f.s % 2 ^ (f.x % 4) != 0
  | 5 => decide (4 < f.x)
  | 6 => false
  | 7 => f.s % 4 != 0 || decide (12 < f.pg)
  | 8 => f.s % 2 != 0 || decide (14 < f.pg)
  | 9 => decide (7 < f.x) || decide (15 < f.d) || decide (15 < f.s)
  | 10 => decide (1 < f.x) || f.d != 0 || f.s != 0
  | _ => true

/-- An A slot's opcode is the command's; BEXP and BCLR share one, by X. -/
def aIs (op : Nat) (w : Nat) : Bool := (aFields w).op == op

/-- An A-slot command: its results are posted and the C slot issues next. A LOOP or REP takes the A slot's bits. -/
def State.aOp (s : State) (d c : Nat) (want : Nat → Bool) (f : CoreSt → AF → CoreSt) : State :=
  let q0 := s.core d c
  let w := q0.aSlot
  s.issue d c 1 (!q0.isLoop && aIllegal w) (!q0.isLoop && want w) fun q =>
    (s.setCore d c { f q (aFields w) with phase := 2 }).td d c (b2n ((aFields w).op == 0)) 1

/-- The track bit of ADD, BF2 and BF4. -/
def AF.trk (f : AF) : Bool := bit f.x 1

/-- Samples posted under the lane guard, tracked where X[1] is set. -/
def CoreSt.aWrite (c : CoreSt) (f : AF) (lat r st : Nat) (zs : List (Int × Int)) : CoreSt :=
  let g := c.pget f.pg
  let c1 := c.post lat (c.vecs r st g zs)
  if f.trk then c1.postTrack lat (guardsOf g zs) else c1

/-- ANOP. -/
def execAnop (d c : Nat) (s : State) : Host.Outcome State Fault Refusal := ok (s.aOp d c (aIs 0) fun q _ => q)

/-- ADD: sums or differences of pairs, shifted right by X[3:2]. -/
def execAdd (d c : Nat) (s : State) : Host.Outcome State Fault Refusal :=
  ok (s.aOp d c (aIs 1) fun q f =>
    q.aWrite f 1 f.d 1 (((q.samples f.d 2).zip (q.samples f.s 2)).map fun p =>
      narrowC (cShr (f.x / 4) (if bit f.x 0 then cSub p.1 p.2 else cAdd p.1 p.2))))

/-- BF2: the radix-2 butterfly after the stage shift. The register after V63 is V32, as R146 counts (log entry 57). -/
def execBf2 (d c : Nat) (s : State) : Host.Outcome State Fault Refusal :=
  ok (s.aOp d c (aIs 2) fun q f =>
    let a := (q.samples f.s 1).map (cShr q.bsh)
    let b := (q.samples (f.s + 1) 1).map (cShr q.bsh)
    let z := a.zip b
    q.aWrite f 2 f.d 1 ((z.map fun p => narrowC (cAdd p.1 p.2)) ++ z.map fun p => narrowC (cSub p.1 p.2)))

/-- Output r of a radix-4 butterfly; `inv` exchanges +j and -j. -/
def bf4Out (inv : Bool) (a b e g : Int × Int) (r : Nat) : Int × Int :=
  let jb := if inv then cSub (0, 0) (cJ b) else cJ b
  let jg := if inv then cSub (0, 0) (cJ g) else cJ g
  match r with
  | 0 => cAdd (cAdd a b) (cAdd e g)
  | 1 => cAdd (cSub (cSub a jb) e) jg
  | 2 => cSub (cAdd (cSub a b) e) g
  | _ => cSub (cSub (cAdd a jb) e) jg

/-- BF4: the radix-4 butterfly after the stage shift; outputs at a stride of four registers. -/
def execBf4 (d c : Nat) (s : State) : Host.Outcome State Fault Refusal :=
  ok (s.aOp d c (aIs 3) fun q f =>
    let v := fun i k => cShr q.bsh (laneOf (q.vget (f.s + i)) k)
    let y := fun r => [0, 1].map fun k => narrowC (bf4Out (bit f.x 0) (v 0 k) (v 1 k) (v 2 k) (v 3 k) r)
    q.aWrite f 2 f.d 4 ((List.range 4).flatMap y))

/-- MOV of one register: copy, swap lanes, conjugate, negate. -/
def movWord (m : Nat) (w : Word) : Word :=
  match m with
  | 0 => w
  | 1 => BitVec.ofNat 72 (w.bits 36 36 + w.bits 0 36 * 2 ^ 36)
  | 2 => c18 (narrowC (cConj (laneOf w 0))) (narrowC (cConj (laneOf w 1)))
  | _ => c18 (narrowC (cSub (0, 0) (laneOf w 0))) (narrowC (cSub (0, 0) (laneOf w 1)))

/-- MOV of a group. -/
def execMov (d c : Nat) (s : State) : Host.Outcome State Fault Refusal :=
  ok (s.aOp d c (aIs 4) fun q f =>
    q.post 1 ((List.range (2 ^ (f.x % 4))).map fun i => .vec (q.phys (f.d + i)) (q.pget f.pg) (movWord (f.x / 4) (q.vget (f.s + i)))))

/-- LOGIC on whole registers. -/
def execLogic (d c : Nat) (s : State) : Host.Outcome State Fault Refusal :=
  ok (s.aOp d c (aIs 5) fun q f =>
    let a := q.vget f.d
    let b := q.vget f.s
    let r := match f.x with
      | 0 => a &&& b
      | 1 => a ||| b
      | 2 => a ^^^ b
      | 3 => a &&& ~~~b
      | _ => ~~~b
    q.post 1 [.vec (q.phys f.d) (q.pget f.pg) r])

/-- SHL's distance. -/
def CoreSt.shlBy (c : CoreSt) (x : Nat) : Nat := if x ≤ 14 then x else min (max c.bex 0).toNat 17

/-- SHL: every part times a power of 2. -/
def execShl (d c : Nat) (s : State) : Host.Outcome State Fault Refusal :=
  ok (s.aOp d c (aIs 6) fun q f =>
    let n : Int := (2 ^ q.shlBy f.x : Nat)
    q.post 1 (q.vecs f.d 1 (q.pget f.pg) ((q.samples f.s 1).map fun z => narrowC (z.1 * n, z.2 * n))))

/-- The requantised samples of n registers, flagged by the predicates from P(PG) on (R47, R147). -/
def CoreSt.rqSamples (c : CoreSt) (f : AF) (n : Nat) (p : Int) : List Samp :=
  (List.range n).flatMap fun i => [0, 1].map fun l =>
    let z := laneOf (c.vget (f.s + i)) l
    ⟨requant p (f.x + 1) z.1, requant p (f.x + 1) z.2, f.pg != 0 && !bit (c.pget (f.pg + i)) l⟩

/-- RQ4: a quad to one C4 word. -/
def execRq4 (d c : Nat) (s : State) : Host.Outcome State Fault Refusal :=
  ok (s.aOp d c (aIs 7) fun q f => q.post 2 [.vec (q.phys f.d) 3 (packWord 0 (q.rqSamples f 4 7))])

/-- RQ8: a pair to one C8 word. -/
def execRq8 (d c : Nat) (s : State) : Host.Outcome State Fault Refusal :=
  ok (s.aOp d c (aIs 8) fun q f => q.post 2 [.vec (q.phys f.d) 3 (packWord 1 (q.rqSamples f 2 127))])

/-- A scalar guard on the A slot. -/
def CoreSt.aGuard (c : CoreSt) (f : AF) (x : CoreSt) : CoreSt := if bit (c.pget f.pg) 0 then x else c

/-- The predicate that PRED writes. -/
def predOp (x pd ps imm : Nat) : Nat :=
  match x with
  | 0 => pd &&& ps
  | 1 => pd ||| ps
  | 2 => pd &&& (3 - ps)
  | 3 => ps
  | 4 => imm % 4
  | 5 => if ps = 3 then 3 else 0
  | 6 => if ps = 0 then 0 else 3
  | _ => 3 - ps

/-- PRED. -/
def execPred (d c : Nat) (s : State) : Host.Outcome State Fault Refusal :=
  ok (s.aOp d c (aIs 9) fun q f => q.aGuard f (q.post 1 [.pred f.d 3 (predOp f.x (q.pget f.d) (q.pget f.s) f.s)]))

/-- BG as BEXP and BCLR leave it: 17, which the tracked results that become visible where they issue enter after them (R194). -/
def CoreSt.bgAnew (c : CoreSt) : Nat := (c.tracks.filter fun t => decide (t.1 ≤ c.pos)).foldl (fun b t => min b t.2) 17

/-- BEXP: the steps of R163; BG is read before the tracked results that become visible now (R194). -/
def execBexp (d c : Nat) (s : State) : Host.Outcome State Fault Refusal :=
  ok (s.aOp d c (fun w => aIs 10 w && (aFields w).x == 0) fun q f =>
    q.aGuard f (q.post 1 [.bsh (3 - q.bg), .bex (q.bex + (3 - q.bg : Nat)), .bg q.bgAnew]))

/-- BCLR. -/
def execBclr (d c : Nat) (s : State) : Host.Outcome State Fault Refusal :=
  ok (s.aOp d c (fun w => aIs 10 w && (aFields w).x == 1) fun q f =>
    q.aGuard f (q.post 1 [.bsh 0, .bex 0, .bg q.bgAnew]))

end Sys2Proof.Machine
end

