-- ==== Sys2Proof/Machine/FcoreCtl.lean ====
section
/-! DEFINITION. The C slot of an F-core's bundle (R184, R185, R188 to R194), loops, interrupts, the feeder and the output
ring, saves and retests (R157 to R175). -/

namespace Sys2Proof.Machine

open Reg

/-! ### Addressing (R184, R185) -/

/-- The bits needed for a buffer of `len` words: 2^(b-1) < len ≤ 2^b. -/
def bitsFor (len : Nat) : Nat := if len ≤ 1 then 0 else Nat.log2 (len - 1) + 1

/-- The b low bits of x in reverse order. -/
def revBits : Nat → Nat → Nat
  | 0, _ => 0
  | b + 1, x => x % 2 * 2 ^ b + revBits b (x / 2)

/-- An access of w words at address an under modifier m: the address after it, or none where it faults with RANGE. -/
def access (an m w : Nat) : Option Nat :=
  let len := bitsOf m 16 14
  let step := signed 16 (bitsOf m 0 16)
  if 16384 ≤ an ∨ an % w ≠ 0 then none
  else if len = 0 then some (unsigned 16 ((an : Int) + step))
  else
    let b := bitsFor len
    let base := an / 2 ^ b * 2 ^ b
    let o := an - base
    if bit m 30 = false ∧ len < o + w then none
    else if bit m 30 = false then some (base + (((o : Int) + step) % (len : Int)).toNat)
    else if len ≠ 2 ^ b then none
    else some (base + revBits b ((revBits b o + revBits b (unsigned b step)) % 2 ^ b))

/-! ### The C slot (R178, R188, R189) -/

/-- The fields of a C slot: opcode, predicate and operand. -/
structure CF where
  op : Nat
  pg : Nat
  x : Nat
deriving DecidableEq, Repr

def cFields (w : Nat) : CF := ⟨bitsOf w 18 4, bitsOf w 14 4, bitsOf w 0 14⟩

/-- A C slot (or a LOOP or REP) that R180 to R182 reject. -/
def cIllegal (bundle : Nat) : Bool :=
  let f := cFields (bitsOf bundle 50 22)
  let arg := bitsOf f.x 0 10
  match f.op with
  | 0 =>
    match bitsOf f.x 10 4 with
    | 2 => decide (15 < arg)
    | 3 => decide (15 < arg)
    | 5 => decide (127 < arg)
    | 6 => decide (127 < arg)
    | 7 => decide (127 < arg)
    | n => decide (10 < n) || arg != 0
  | 1 => bit f.x 0 || bitsOf f.x 5 6 % 2 ^ bitsOf f.x 11 2 != 0
  | 2 => bit f.x 0 || bitsOf f.x 11 2 != 0
  | 3 => bit f.x 0 || bitsOf f.x 5 6 % 2 ^ bitsOf f.x 11 2 != 0
  | 9 => decide (47 < bitsOf f.x 8 6) || bitsOf f.x 0 2 != 0
  | 10 => decide (47 < bitsOf f.x 8 6) || bitsOf f.x 0 2 != 0
  | 11 => bit f.x 13
  | 12 => bit f.x 13
  | 13 => bit bundle 26
  | 14 => bit bundle 26 || decide (31 < bitsOf bundle 52 10)
  | 15 => true
  | _ => false

/-- What a C slot's operation comes to: a fault, or the core before the end of its bundle. -/
inductive CRes where
  | fault (cause : Nat)
  | done (q : CoreSt) (e : BundleEnd)

def cILLEGAL : Nat := 1
def cDELAY : Nat := 2
def cRANGE : Nat := 3
def cECC : Nat := 4
def cREP : Nat := 7

/-- An operation without an effect on the program's flow. -/
def CRes.plain (q : CoreSt) : CRes := .done q .plain

/-- The result is kept: the bundle ends, or the core faults. -/
def State.take (s : State) (d c : Nat) (r : CRes) : State :=
  match r with
  | .fault n => s.coreFault d c n
  | .done q e => s.keepCore d c (q.endBundle e)

/-- The slot and bundle counters at the end of a bundle (R583, PMON event 0x28): a NOP or a C slot whose scalar guard is 0 is
wasted; a LOOP or REP fills the A and C slots. -/
def State.countC (s : State) (d c : Nat) (q : CoreSt) (w : CF) (r : CRes) : State :=
  match r with
  | .fault _ => s
  | .done .. =>
    let idle := !q.isLoop && ((w.op == 0 && bitsOf w.x 10 4 == 0) || (w.op != 2 && bit (q.pget w.pg) 0 == false))
    (s.td d c (b2n idle) (if q.isLoop then 2 else 1)).pm d 0x28 c 1

/-- A C-slot command (slot 2; LOOP and REP issue after the M slot). -/
def State.cOp (s : State) (d c op : Nat) (want : CF → Bool) (f : CoreSt → CF → CRes) : State :=
  let q0 := s.core d c
  let w := cFields q0.cSlot
  s.issue d c (if q0.isLoop then 1 else 2) (cIllegal q0.bundle) (w.op == op && want w) fun q =>
    (s.take d c (f q w)).countC d c q w (f q w)

/-- Any operand. -/
def anyC : CF → Bool := fun _ => true

/-- A MISC sub-operation. -/
def isSub (n : Nat) (f : CF) : Bool := bitsOf f.x 10 4 == n

/-- A scalar guard on the C slot. -/
def CoreSt.cDo (c : CoreSt) (f : CF) (r : CRes) : CRes := if bit (c.pget f.pg) 0 then r else .plain c

/-- A memory error met by a bundle's access: 1 corrected, 2 uncorrectable (R152). -/
def State.withEcc (s : State) (d c ecc : Nat) (op : Nat) (f : State → State) : State :=
  let q := s.core d c
  if ecc = 0 ∨ s.coreRuns d c = false ∨ q.phase ≠ 2 ∨ q.iterDue = true ∨ q.cOp ≠ op ∨ cIllegal q.bundle = true then f s
  else if ecc = 1 then f (s.corrected d c)
  else s.coreFault d c cECC

/-- A data memory's word. -/
def CoreSt.memAt (c : CoreSt) (y : Bool) (a : Nat) : Word := Store.get zeroWord (if y then c.ym else c.xm) a

/-- n registers loaded from memory address `a` on. -/
def CoreSt.loads (c : CoreSt) (y : Bool) (a v n : Nat) : List CoreWr :=
  (List.range n).map fun i => .vec (c.phys (v + i)) 3 (c.memAt y (a + i))

/-- n registers stored. -/
def CoreSt.stores (c : CoreSt) (y : Bool) (a v n : Nat) : List CoreWr :=
  (List.range n).map fun i => .mem y (a + i) (c.vget (v + i))

/-- One access through An: its results with their latency, and the post-modified address. -/
def CoreSt.through (c : CoreSt) (n w lat : Nat) (ws : List CoreWr) : Option CoreSt :=
  match access (c.areg n) (c.mreg n) w with
  | none => none
  | some a => some ((c.post lat ws).post 1 [.adr n a])

/-- A range check's outcome. -/
def orRange (q : Option CoreSt) : CRes :=
  match q with
  | none => .fault cRANGE
  | some x => .plain x

/-- LD. -/
def execLd (d c ecc : Nat) (s : State) : Host.Outcome State Fault Refusal :=
  ok (s.withEcc d c ecc 1 fun s => s.cOp d c 1 anyC fun q f =>
    let n := bitsOf f.x 1 4
    let k := 2 ^ bitsOf f.x 11 2
    q.cDo f (orRange (q.through n k 3 (q.loads (bit f.x 13) (q.areg n) (bitsOf f.x 5 6) k))))

/-- The C18 samples and lane bits of a packed word (R147, R167): format, word. -/
def unpackC18 (fmt : Nat) (w : Word) : List ((Int × Int) × Bool) :=
  (unpackWord fmt w).map fun x =>
    let m : Int := if fmt = 1 then 2 ^ 9 else 2
    if x.flag then ((0, 0), false) else ((x.re * m, x.im * m), true)

/-- LDU: one packed word to C18 registers and their predicates. -/
def execLdu (d c ecc : Nat) (s : State) : Host.Outcome State Fault Refusal :=
  ok (s.withEcc d c ecc 2 fun s => s.cOp d c 2 anyC fun q f =>
    let n := bitsOf f.x 1 4
    let v := bitsOf f.x 5 6
    let fmt := s.get (CORE_CFG_IN_FMT d c) + 1
    let z := unpackC18 fmt (q.memAt (bit f.x 13) (q.areg n))
    let half := fun (i : Nat) =>
      let a := z.getD (2 * i) ((0, 0), false)
      let b := z.getD (2 * i + 1) ((0, 0), false)
      (c18 a.1 b.1, b2n a.2 + 2 * b2n b.2)
    let one := fun (i r p : Nat) => [CoreWr.vec (q.phys r) 3 (half i).1] ++ (if f.pg = 0 then [] else [CoreWr.pred p 3 (half i).2])
    if fmt = 1 ∧ (11 < f.pg ∨ 59 < v) then .fault cILLEGAL
    else orRange (q.through n 1 3 (if fmt = 1 then one 0 v f.pg ++ one 1 (v + 4) (f.pg + 4) else one 0 v f.pg)))

/-- ST. -/
def execSt (d c ecc : Nat) (s : State) : Host.Outcome State Fault Refusal :=
  ok (s.withEcc d c ecc 3 fun s => s.cOp d c 3 anyC fun q f =>
    let n := bitsOf f.x 1 4
    let k := 2 ^ bitsOf f.x 11 2
    q.cDo f (orRange (q.through n k 2 (q.stores (bit f.x 13) (q.areg n) (bitsOf f.x 5 6) k))))

/-- The operand of a dual access: quads and address registers of XM and YM. -/
def dxX (x : Nat) : Nat × Nat := (4 * bitsOf x 10 4, bitsOf x 7 3)
def dxY (x : Nat) : Nat × Nat := (4 * bitsOf x 3 4, 8 + bitsOf x 0 3)

/-- A dual access: on each bus a load or a store of a quad. -/
def CoreSt.dual (c : CoreSt) (x : Nat) (stX stY : Bool) : CRes :=
  let a := dxX x
  let b := dxY x
  let wx := if stX then c.stores false (c.areg a.2) a.1 4 else c.loads false (c.areg a.2) a.1 4
  let wy := if stY then c.stores true (c.areg b.2) b.1 4 else c.loads true (c.areg b.2) b.1 4
  match c.through a.2 4 (if stX then 2 else 3) wx with
  | none => .fault cRANGE
  | some c1 => orRange (c1.through b.2 4 (if stY then 2 else 3) wy)

/-- DXLYS: a quad loaded from XM, a quad stored to YM. -/
def execDxlys (d c ecc : Nat) (s : State) : Host.Outcome State Fault Refusal :=
  ok (s.withEcc d c ecc 4 fun s => s.cOp d c 4 anyC fun q f => q.cDo f (q.dual f.x false true))

/-- DXSYL: a quad stored to XM, a quad loaded from YM. -/
def execDxsyl (d c ecc : Nat) (s : State) : Host.Outcome State Fault Refusal :=
  ok (s.withEcc d c ecc 5 fun s => s.cOp d c 5 anyC fun q f => q.cDo f (q.dual f.x true false))

/-- DXLYL: both loads. -/
def execDxlyl (d c ecc : Nat) (s : State) : Host.Outcome State Fault Refusal :=
  ok (s.withEcc d c ecc 6 fun s => s.cOp d c 6 anyC fun q f => q.cDo f (q.dual f.x false false))

/-- AADD. -/
def execAadd (d c : Nat) (s : State) : Host.Outcome State Fault Refusal :=
  ok (s.cOp d c 7 anyC fun q f =>
    let n := bitsOf f.x 10 4
    q.cDo f (.plain (q.post 1 [.adr n (unsigned 16 ((q.areg n : Int) + signed 10 (bitsOf f.x 0 10)))])))

/-- ALI. -/
def execAli (d c : Nat) (s : State) : Host.Outcome State Fault Refusal :=
  ok (s.cOp d c 8 anyC fun q f => q.cDo f (.plain (q.post 1 [.adr (bitsOf f.x 10 4) (16 * bitsOf f.x 0 10)])))

/-! ### Special registers (R190) -/

/-- The results of a write of `x` to special register k; read-only ones take nothing. -/
def specWrite (k x : Nat) : List CoreWr :=
  if k < 16 then [.adr k x]
  else if k < 32 then [.modr (k - 16) x]
  else if k < 36 then [.lc (k - 32) x]
  else match k with
    | 36 => [.win x]
    | 37 => [.bex (signed 8 x)]
    | 38 => [.bg x]
    | 39 => [.bsh x]
    | 40 => (List.range 15).map fun i => .pred (i + 1) 3 (bitsOf x (2 * (i + 1)) 2)
    | 41 => [.enable (bitsOf x 1 6 * 2)]
    | 42 => [.timer x]
    | 43 => if x % 2 = 0 then [.sata false] else []
    | 44 => [.ctrsel x]
    | _ => []

/-- The value of special register k, but for CTRVAL. -/
def CoreSt.specRead (c : CoreSt) (k : Nat) : Nat :=
  if k < 16 then c.areg k
  else if k < 32 then c.mreg (k - 16)
  else if k < 36 then c.lreg (k - 32)
  else match k with
    | 36 => c.win
    | 37 => unsigned 8 c.bex
    | 38 => (c.track c.pos).bg
    | 39 => c.bsh
    | 40 => (List.range 16).foldl (fun m n => m + c.pget n * 2 ^ (2 * n)) 0
    | 41 => c.enable ||| 1
    | 42 => c.timer
    | 43 => b2n c.sata
    | 44 => c.ctrsel
    | 46 => c.dbmsg
    | 47 => c.sit
    | _ => 0

/-- MVTS. -/
def execMvts (d c : Nat) (s : State) : Host.Outcome State Fault Refusal :=
  ok (s.cOp d c 9 anyC fun q f =>
    q.cDo f (.plain (q.post 1 (specWrite (bitsOf f.x 8 6) (q.vget (bitsOf f.x 2 6)).toNat))))

/-- MVFS; CTRVAL needs the granted access, and a read of DBMSG frees the registrar to post again (R162). -/
def execMvfs (d c : Nat) (s : State) : Host.Outcome State Fault Refusal :=
  ok (s.cOp d c 10 anyC fun q f =>
    let k := bitsOf f.x 8 6
    q.cDo f (if k = 45 ∧ s.get (CORE_CFG_CTR_ACC d c) = 0 then .fault cILLEGAL
      else
        let x := if k = 45 then s.get (PMON_CTR_VALUE d q.ctrsel) else q.specRead k
        let q1 := if k = 46 then { q with dbUnread := false } else q
        .plain (q1.post 1 [.vec (q1.phys (bitsOf f.x 2 6)) 3 (BitVec.ofNat 72 x)])))

/-! ### Branches (R156, R192) -/

/-- The bundle lies in the last two of a LOOP body. -/
def CoreSt.lateInLoop (c : CoreSt) : Bool := c.loops.any fun l => !l.rep && decide (l.last ≤ c.pc + 1) && decide (c.pc ≤ l.last)

/-- A branch of any kind: REP_BODY in a repeat, DELAY_BRANCH in a delay slot or late in a LOOP body. -/
def CoreSt.branch (c : CoreSt) (f : CF) (b : BrWait) (ws : List CoreWr) : CRes :=
  if c.inRep then .fault cREP
  else if 0 < c.delay ∨ c.lateInLoop = true then .fault cDELAY
  else if bit (c.pget f.pg) 0 then .done (c.post 1 ws) ⟨true, some b, none, none, 0⟩
  else .done c ⟨true, none, none, none, 0⟩

/-- BR. -/
def execBr (d c : Nat) (s : State) : Host.Outcome State Fault Refusal :=
  ok (s.cOp d c 11 anyC fun q f => q.branch f ⟨bitsOf f.x 0 13, 0, q.pc⟩ [])

/-- CALL: A15 takes the address of the bundle after the delay slots. -/
def execCall (d c : Nat) (s : State) : Host.Outcome State Fault Refusal :=
  ok (s.cOp d c 12 anyC fun q f => q.branch f ⟨bitsOf f.x 0 13, 1, q.pc⟩ [.adr 15 (q.pc + 3)])

/-- RET. -/
def execRet (d c : Nat) (s : State) : Host.Outcome State Fault Refusal :=
  ok (s.cOp d c 0 (isSub 9) fun q f => q.branch f ⟨q.areg 15 % 2 ^ 13, 1, q.pc⟩ [])

/-- RTI: outside a handler ILLEGAL, where its guard holds. -/
def execRti (d c : Nat) (s : State) : Host.Outcome State Fault Refusal :=
  ok (s.cOp d c 0 (isSub 10) fun q f =>
    if q.handler = none ∧ q.cGuard = true then .fault cILLEGAL else q.branch f ⟨0, 2, q.pc⟩ [])

/-! ### MISC (R189, R193) -/

/-- MISC_NOP. -/
def execMiscNop (d c : Nat) (s : State) : Host.Outcome State Fault Refusal :=
  ok (s.cOp d c 0 (isSub 0) fun q _ => .plain q)

/-- IWAIT, OPUT and HALT stand neither in a delay slot or ATOMIC block nor in a repeat (R193). -/
def CoreSt.placed (c : CoreSt) (r : CRes) : CRes :=
  if c.inRep then .fault cREP else if 0 < c.delay ∨ 0 < c.atom then .fault cILLEGAL else r

/-- HALT. -/
def execHalt (d c : Nat) (s : State) : Host.Outcome State Fault Refusal :=
  ok (s.cOp d c 0 (isSub 1) fun q f => q.placed (q.cDo f (.plain { q with st := 6 })))

/-- ATOM: the next n + 1 bundles form an ATOMIC block; in a repeat REP_BODY. -/
def execAtom (d c : Nat) (s : State) : Host.Outcome State Fault Refusal :=
  ok (s.cOp d c 0 (isSub 2) fun q f =>
    if q.inRep then .fault cREP else q.cDo f (.done q ⟨false, none, some (bitsOf f.x 0 4 + 1), none, 0⟩))

/-- Span words of an input buffer (R167). -/
def State.bufWords (s : State) (d c : Nat) : Nat := if s.get (CORE_CFG_IN_FMT d c) = 1 then 2048 else 1024

/-- IWAIT: An takes the YM address of the next complete buffer. -/
def execIwait (d c : Nat) (s : State) : Host.Outcome State Fault Refusal :=
  ok (s.cOp d c 0 (isSub 3) fun q f =>
    q.placed (q.cDo f (match q.ins[q.taken]? with
      | none => .fault cILLEGAL
      | some b => .plain ({ q with taken := q.taken + 1 }.post 1
          [.adr (bitsOf f.x 0 4) (s.get (CORE_CFG_IN_BASE d c) + b.slot * s.bufWords d c)]))))

/-- IREL: the oldest buffer goes back to the feeder. -/
def execIrel (d c : Nat) (s : State) : Host.Outcome State Fault Refusal :=
  ok (s.cOp d c 0 (isSub 4) fun q f =>
    q.cDo f (if q.taken = 0 then .fault cRANGE else .plain { q with ins := q.ins.drop 1, taken := q.taken - 1 }))

/-- OPUT: the current frame is complete with its tag, and An takes the next free frame's XM address. -/
def execOput (d c : Nat) (s : State) : Host.Outcome State Fault Refusal :=
  let s0 := if (s.core d c).cOp = 0 ∧ isSub 5 (cFields (s.core d c).cSlot) = true ∧ s.coreRuns d c = true ∧
      (s.core d c).phase = 2 ∧ (s.core d c).cGuard = true then s.markFolio d c (s.core d c) else s
  ok (s0.cOp d c 0 (isSub 5) fun q f =>
    let i := bitsOf f.x 4 3
    let n := (q.outCur + 1) % max 1 (s.get (CORE_CFG_OUT_BUFS d c))
    q.placed (q.cDo f (if s.get (CORE_CFG_INPUTS d c) ≤ i then .fault cRANGE
      else .plain ({ q with
        outs := if q.marked then q.outs else q.outs ++ [OutFrame.mk q.outCur q.inFolio i false], outCur := n, marked := false }.post 1
          [.adr (bitsOf f.x 0 4) (s.get (CORE_CFG_OUT_BASE d c) + n * s.get (CORE_CFG_OUT_WORDS d c))]))))

/-- EI. -/
def execEi (d c : Nat) (s : State) : Host.Outcome State Fault Refusal :=
  ok (s.cOp d c 0 (isSub 6) fun q f => q.cDo f (.plain (q.post 1 [.enable (q.enable ||| (bitsOf f.x 1 6 * 2))])))

/-- DI. -/
def execDi (d c : Nat) (s : State) : Host.Outcome State Fault Refusal :=
  ok (s.cOp d c 0 (isSub 7) fun q f => q.cDo f (.plain (q.post 1 [.enable (q.enable &&& (127 - bitsOf f.x 1 6 * 2))])))

/-- A pending bit set; a request that meets its bit merges into it (R161). -/
def CoreSt.raiseIrq (c : CoreSt) (n : Nat) : CoreSt := { c with pend := withBit c.pend n true }

/-- SOFT. -/
def execSoft (d c : Nat) (s : State) : Host.Outcome State Fault Refusal :=
  ok (s.cOp d c 0 (isSub 8) fun q f => q.cDo f (.plain (q.raiseIrq 6)))

/-! ### LOOP and REP (R191, R192) -/

/-- A loop begins, or its body is passed over when N + Q is 0. -/
def CoreSt.loopOp (c : CoreSt) (rep : Bool) : CRes :=
  let w := c.bundle
  let k := bitsOf w 66 2
  let stg := bit w 65
  let q := bitsOf w 62 3
  let len := bitsOf w 52 10 + 1
  let n := if bit w 51 then (c.vget (bitsOf w 27 6)).bits 0 24 else bitsOf w 27 24
  let l : LoopSt := ⟨k, c.pc + 1, c.pc + len, stg, n, q, rep⟩
  if c.inRep then .fault cREP
  else if (c.loops.any fun o => o.level == k) = true ∨ 2 ^ 24 - 1 < n + q ∨
      (c.loops.any fun o => decide (o.first ≤ c.pc) && decide (c.pc ≤ o.last) && decide (o.last < l.last)) = true ∨ (stg = true ∧ c.staged.isSome = true) then .fault cRANGE
  else if n + q = 0 then .done c ⟨false, none, none, none, len⟩
  else .done (c.post 1 [.lc k (n + q)]) ⟨false, none, none, some l, 0⟩

/-- LOOP. -/
def execLoop (d c : Nat) (s : State) : Host.Outcome State Fault Refusal :=
  ok (s.cOp d c 13 anyC fun q _ => q.loopOp false)

/-- REP. -/
def execRep (d c : Nat) (s : State) : Host.Outcome State Fault Refusal :=
  ok (s.cOp d c 14 anyC fun q _ => q.loopOp true)

/-- An iteration of the innermost loop of core c ends. -/
def execIterationEnd (d c : Nat) (s : State) : Host.Outcome State Fault Refusal :=
  let q := s.core d c
  if s.coreRuns d c = true ∧ q.iterDue = true then ok (s.keepCore d c q.iterEnd) else ok s

/-! ### Interrupts (R157 to R162) -/

/-- The lowest pending source that is enabled; none while CKPT, the lowest of all, is pending (R157). -/
def CoreSt.source (c : CoreSt) : Option Nat :=
  if bit c.pend 0 then none else [1, 2, 3, 4, 5, 6].find? fun n => bit c.pend n && bit c.enable n

/-- A core takes an interrupt at a take point: what was issued completes, the shadow registers are saved, and the handler
starts with every source held. A core stalled in IWAIT or OPUT takes it before the stalled bundle (R194). Whether a staged loop
that the handler interrupts stays active the spec leaves open: DESIGN CHOICE, it does not, and P8 to P15 read their stored values in
the handler (log entry 55). -/
def execInterruptTake (d c : Nat) (s : State) : Host.Outcome State Fault Refusal :=
  let q := s.core d c
  if s.present d = true ∧ c < 18 ∧ s.runs = true ∧ s.get (CORE_CFG_EN d c) = 1 ∧ (q.st = 1 ∨ q.st = 2 ∨ q.st = 3) ∧
      q.handler = none ∧ q.takePoint = true then
    match q.source with
    | none => ok s
    | some n =>
      let q1 := q.drain
      let h : Shadow := ⟨q1.pc, q1.win, q1.sit, q1.bsh, (List.range 4).map q1.lreg, q1.loops⟩
      ok ((s.setCore d c { q1 with handler := some h, loops := [], rc := [], pend := withBit q1.pend n false, st := 4,
                                   pc := Config.handlerEntry n % 8192 }).pm d 0x2B c 1)
  else ok s

/-- A source's request reaches a core. -/
def State.irq (s : State) (d c n : Nat) : State := s.setCore d c ((s.core d c).raiseIrq n)

/-- The core timer reaches its grain. -/
def execCoreTimer (d c : Nat) (s : State) : Host.Outcome State Fault Refusal :=
  let q := s.core d c
  if s.present d = true ∧ c < 18 ∧ s.get (CORE_CFG_EN d c) = 1 ∧ q.timerOn = true then
    let s1 := s.advance (nearLater 48 (grainOf s.now) q.timer * tUs)
    ok (s1.setCore d c ({ q with timerOn := false }.raiseIrq 4))
  else ok s

/-- A message word is posted once the last has been read (R162); CTR_ACCESS also changes the grant. -/
def execDoorbellMessage (d c code arg : Nat) (s : State) : Host.Outcome State Fault Refusal :=
  let q := s.core d c
  if s.present d = true ∧ c < 18 ∧ s.get (CORE_CFG_EN d c) = 1 ∧ q.dbUnread = false ∧ 1 ≤ code ∧ code ≤ 4 then
    let s1 := s.setCore d c ({ q with dbmsg := code + arg % 2 ^ 48 * 2 ^ 16, dbUnread := true }.raiseIrq 3)
    ok (if code = 2 then s1.put (CORE_CFG_CTR_ACC d c) (arg % 2) else s1)
  else ok s

/-! ### Feeder and output ring (R167 to R170) -/

/-- The input slots dealt to logical core l: the programme's slots in ascending order, INPUTS to each logical core (R167). -/
def State.dealt (s : State) (d l : Nat) : List Nat :=
  let n := fun (k : Nat) => (s.fc d).inputs.getD k 0
  ((s.enabledSlots d).drop (((List.range l).map n).foldl (· + ·) 0)).take (n l)

/-- The next decided record that the feeder of core c delivers. -/
def State.nextRecord (s : State) (d c : Nat) : Option JRec :=
  (s.acu d).dir.find? fun r => decide ((s.core d c).feedFolio ≤ r.folio)

/-- Words into a data memory. -/
def CoreSt.fillY (c : CoreSt) (a : Nat) (ws : List Word) : CoreSt := { c with ym := Store.putList zeroWord c.ym a ws }

/-- A spare or host that has had every decided record has caught up; its fault is closed (R174, R538, R552). -/
def State.caughtUp (s : State) (d c : Nat) : State :=
  if (s.nextRecord d c).isSome = true then s
  else
    let f := s.fc d
    let s1 := match f.loans.find? fun l => l.spare == c && !l.caught with
      | none => s
      | some l => (s.setFc d { f with loans := f.loans.map fun x => if x = l then { x with caught := true } else x }).recoverFault ⟨d, 4, l.core⟩
    match (s1.fc d).hosts.find? fun h => h.core == c && h.back with
    | none => s1
    | some h => (s1.setFc d { s1.fc d with hosts := (s1.fc d).hosts.erase h }).recoverFault ⟨d, 4, h.faulty⟩

/-- The feeder completes the next input buffer of core c: the next decided record's folio of its next input, flagged zeros
for a refused record, raising IN_READY. A full ring makes it wait (R167, R168). -/
def execInputBufferComplete (d c : Nat) (s : State) : Host.Outcome State Fault Refusal :=
  let q := s.core d c
  if s.present d = true ∧ c < 18 ∧ s.get (CORE_CFG_EN d c) = 1 ∧ q.ins.length < s.get (CORE_CFG_IN_BUFS d c) then
    match s.nextRecord d c with
    | none => ok s
    | some r =>
      let slots := s.dealt d (s.logicalOf d c)
      match slots[q.feedIn]? with
      | none => ok s
      | some i =>
        let lastIn := decide (slots.length ≤ q.feedIn + 1)
        let a := s.get (CORE_CFG_IN_BASE d c) + q.inSlot * s.bufWords d c
        let q1 := q.fillY a ((s.folioData d r i).take (s.bufWords d c))
        let q2 := { q1 with ins := q.ins ++ [InBuf.mk r.folio q.feedIn q.inSlot],
                            inSlot := (q.inSlot + 1) % max 1 (s.get (CORE_CFG_IN_BUFS d c)),
                            feedFolio := if lastIn then r.folio + 1 else r.folio,
                            feedIn := if lastIn then 0 else q.feedIn + 1,
                            st := if q.st = 2 then (if q.handler.isSome then 4 else 1) else q.st }
        ok ((s.setCore d c (q2.raiseIrq 1)).caughtUp d c)
  else ok s

/-- The number of a frame's tag: folio and core input. -/
def OutFrame.tag (f : OutFrame) : Nat := f.folio * 8 + f.input + 1

/-- A host whose lost logical core is finished up to the boundary restores its own (R552). -/
def State.hostBack (s : State) (d c : Nat) : State :=
  match (s.fc d).hosts.find? fun h => h.core == c && !h.due && !h.back with
  | none => s
  | some h =>
    let q := s.core d c
    if h.upto ≤ q.feedFolio ∧ q.ins = [] ∧ q.outs = [] then
      let s1 := s.wr (CORE_CFG d c) h.cfg
      (s1.restoreCore d c h.own).setFc d { (s1.restoreCore d c h.own).fc d with
        hosts := (s1.fc d).hosts.map fun x => if x = h then { x with back := true } else x }
    else s

/-- The CTE frees the oldest output frame that it has read, or discards one at or below the last tag it forwarded (R170),
raising OUT_SPACE and releasing a stalled OPUT. -/
def execOutputFrameFreed (d c : Nat) (s : State) : Host.Outcome State Fault Refusal :=
  let q := s.core d c
  match q.outs with
  | [] => ok s
  | fr :: rest =>
    if fr.read = true ∨ fr.tag ≤ Store.get zeroNat (s.fc d).tags (s.logicalOf d c) then
      let st := if q.st = 3 then (if q.handler.isSome then 4 else 1) else q.st
      ok ((s.setCore d c ({ q with outs := rest, st := st }.raiseIrq 2)).hostBack d c)
    else ok s

/-! ### Saves, faults and retests (R173 to R175, R543) -/

/-- A core's watchdog expires. -/
def execCoreWatchdog (d c : Nat) (s : State) : Host.Outcome State Fault Refusal :=
  if s.present d = true ∧ c < 18 ∧ s.get (CORE_CFG_EN d c) = 1 ∧ (s.core d c).st ≠ 0 then ok (s.coreFault d c 5) else ok s

/-- A core serves CKPT at its next take point: its whole state is saved, in `us` microseconds (R173). The stall freezes every stage:
results under way are saved as such (R153). -/
def State.saveCore (s : State) (d c us : Nat) : State :=
  let q := { s.core d c with pend := withBit (s.core d c).pend 0 false }
  when (decide (40 < us)) (·.raise (FC_EVENTS_SAVE_LATE d)) (((s.setCore d c q).setSave d (s.logicalOf d c) q).td d c 3
    (3 * us * s.get (ISL_F_NOW_MHZ (32 * d + 18 + c / 2))))

/-- A core whose spare c has saved takes its work back without replay, and the spare returns cold (R175). -/
def State.takeBack (s : State) (d c : Nat) : State :=
  match (s.fc d).loans.find? fun l => l.spare == c && l.due with
  | none => s
  | some l =>
    let s1 := s.copyCfg d l.spare l.core
    let s2 := (s1.setCore d l.core (s1.core d l.spare)).coldCore d l.spare
    let s3 := s2.setFc d { s2.fc d with loans := (s2.fc d).loans.erase l, passes := Store.put zeroNat (s2.fc d).passes l.core 0 }
    let s4 := ((s3.setUnitState ⟨d, 4, l.core⟩ 0).raise (FC_EVENTS_RETURN d)).raise (FLT_EVENTS_RETURN d)
    (s4.emit 0x52 d 4 l.core l.logical 0).showLoans d

/-- A core that is to finish a lost logical core has saved its own and runs the lost one from its last save (R552). -/
def State.hostStart (s : State) (d c : Nat) : State :=
  match (s.fc d).hosts.find? fun h => h.core == c && h.due with
  | none => s
  | some h =>
    let s1 := s.setFc d { s.fc d with hosts := (s.fc d).hosts.map fun x => if x = h then { x with due := false } else x }
    (s1.copyCfg d h.faulty c).restoreCore d c h.lost

def execCkptSave (d c us : Nat) (s : State) : Host.Outcome State Fault Refusal :=
  let q := s.core d c
  if s.present d = true ∧ c < 18 ∧ s.get (CORE_CFG_EN d c) = 1 ∧ bit q.pend 0 = true ∧ q.handler = none ∧ q.takePoint = true then
    ok (((s.saveCore d c us).takeBack d c).hostStart d c)
  else ok s

/-- The registrar asks every active core for a save. -/
def State.requestSaves (s : State) (d : Nat) : State :=
  forAll (List.range 18) s fun s c => if s.get (CORE_CFG_EN d c) = 1 then s.irq d c 0 else s

/-- A core that gave up its work is retested every FC_RETEST_S seconds: a pass counts, a failure starts the count again (R175). -/
def execFcRetest (d c : Nat) (pass : Bool) (s : State) : Host.Outcome State Fault Refusal :=
  if s.present d = true ∧ c < 18 ∧ s.get (UNIT_BKT_STATE d (17 + c)) = 1 then
    let f := s.fc d
    ok ((s.tick (tkFcTest d c) (s.get (FLT_LIMITS2_FC_RETEST_S d) * tSec)).setFc d { f with passes := Store.put zeroNat f.passes c (if pass then Store.get zeroNat f.passes c + 1 else 0) })
  else ok s

/-- At a checkpoint a core with enough passes is to take its work back from its spare, once that has saved (R175). -/
def State.fcReturn (s : State) (d : Nat) : State :=
  let enough := fun (c : Nat) => decide (s.get (FLT_LIMITS2_FC_RETURN_PASSES d) ≤ Store.get zeroNat (s.fc d).passes c)
  let s1 := s.setFc d { s.fc d with loans := (s.fc d).loans.map fun l => if l.perm = false ∧ enough l.core = true then { l with due := true } else l }
  let back := (List.range 16).filter fun c => s1.get (UNIT_BKT_STATE d (17 + c)) == 1 &&
    ((s1.fc d).loans.all fun l => l.core != c) && decide (s1.get (FLT_LIMITS2_FC_RETURN_PASSES d) ≤ Store.get zeroNat (s1.fc d).passes c)
  let s2 := forAll back s1 fun s c =>
    let l := s.logicalOf d c
    let s1 := ((s.put (CORE_CFG_EN d c) 1).setUnitState ⟨d, 4, c⟩ 0).restoreCore d c l
    let s2 := s1.setFc d { s1.fc d with gone := (s1.fc d).gone.filter (· != l), passes := Store.put zeroNat (s1.fc d).passes c 0 }
    ((s2.raise (FC_EVENTS_RETURN d)).raise (FLT_EVENTS_RETURN d)).emit 0x52 d 4 c l 0
  let spares := [16, 17].filter fun c => s2.get (UNIT_BKT_STATE d (17 + c)) == 1 &&
    decide (s2.get (FLT_LIMITS2_FC_RETURN_PASSES d) ≤ Store.get zeroNat (s2.fc d).passes c)
  let s3 := forAll spares s2 fun s c => s.setUnitState ⟨d, 4, c⟩ 0
  let s4 := if (s3.fc d).gone = [] ∧ (s2.fc d).gone ≠ (s.fc d).gone then s3.unrequest 1 d else s3
  s4.showLoans d

end Sys2Proof.Machine
end

