-- ==== Sys2Proof/Machine/Corner.lean ====
section
/-! DEFINITION. The corner-turn engine (chapter 9): streams, markers, commits, the stint buffer, reports and rewinds. -/

namespace Sys2Proof.Machine

open Reg

/-! ### The schedule (R229 to R233) -/

def State.grp (s : State) (d : Nat) : Nat := s.get (CTE_CFG_G_M1 d) + 1
/-- Samples per span word of the corner-turn format. -/
def State.ctQ (s : State) (d : Nat) : Nat := fmtQ (s.get (CTE_CFG_FMT d))
/-- Span words that a group contributes to a chunk. -/
def State.groupWords (s : State) (d : Nat) : Nat := s.grp d * s.ns d / s.ctQ d
/-- The assigned groups, with their owner. -/
def State.groupList (s : State) (d : Nat) : List Nat :=
  (List.range (min 4096 (s.nch d / s.grp d))).filter fun g => s.get (GROUP_VALID d g) == 1
/-- The groups that die `e` of device `dev` owns, by die d's table. -/
def State.groupsOf (s : State) (d dev e : Nat) : List Nat :=
  (s.groupList d).filter fun g => s.get (GROUP_DEV d g) == dev && s.get (GROUP_DIE d g) == e
/-- W_c of the streams to that owner. -/
def State.chunkWords (s : State) (d dev e : Nat) : Nat := (s.groupsOf d dev e).length * s.groupWords d
/-- W_c of this die's own groups. -/
def State.ownChunk (s : State) (d : Nat) : Nat := s.chunkWords d s.ownDev d
/-- The SRC entries in use. -/
def State.srcList (s : State) (d : Nat) : List Nat := (List.range 4096).filter fun e => s.get (CTE_SRC_VALID d e) == 1
/-- Ntot. -/
def State.nTot (s : State) (d : Nat) : Nat := ((s.srcList d).map fun e => s.get (SRC_IN_IN_CNT d e)).foldl (· + ·) 0

/-- The owners of the group table, each once, in the order of the table. -/
def State.owners (s : State) (d : Nat) : List (Nat × Nat) :=
  (s.groupList d).foldl (fun l g =>
    let o := (s.get (GROUP_DEV d g), s.get (GROUP_DIE d g))
    if l.contains o then l else l ++ [o]) []

/-! ### Typed state and the registers that show it -/

def State.stream (s : State) (d e : Nat) : StreamSt := Store.get (fun _ => StreamSt.reset) (s.cte d).streams e
def State.setStream (s : State) (d e : Nat) (v : StreamSt) : State :=
  (s.setCte d { s.cte d with streams := Store.put (fun _ => StreamSt.reset) (s.cte d).streams e v }).put (CTE_SRC_HIGH d e) (v.next - 1)
def State.setDest (s : State) (d : Nat) (v : DestSt) : State :=
  s.setCte d { s.cte d with dests := (s.cte d).dests.map fun x => if x.dev = v.dev ∧ x.die = v.die then v else x }

/-- A folio or short-integration number one below `n`, as a 48-bit field carries it. -/
def below (n : Nat) : Nat := (n + 2 ^ 48 - 1) % 2 ^ 48

/-- The words of a segment, and where they lie in the stint buffer (R240): slot 1 follows slot 0's data and header, from a
burst on. -/
def State.segWords (s : State) (d : Nat) : Nat := s.nTot d * s.ownChunk d
def State.stintSlot (s : State) (d n : Nat) : Nat :=
  s.get (STINT_REGION_BASE d) * 8 + n % 2 * (ceilDiv (s.get (STINT_REGION_SLOT_WORDS d) + 4096) 8 * 8)
def State.segAddr (s : State) (d k : Nat) : Nat :=
  s.stintSlot d (s.siOf d k) + (k - s.siFirst d (s.siOf d k)) * s.segWords d

/-- The destinations that hold folio k under R242. -/
def State.holding (s : State) (d k : Nat) : List DestSt :=
  (s.cte d).dests.filter fun x => !x.lost && decide (x.relNext + 1 < s.siOf d k)

/-- The CTE's counts of lost and holding peers. -/
def State.showCte (s : State) (d : Nat) : State :=
  let q := s.cte d
  let s1 := s.put (CTE_STATUS_LOST_SRC d) ((s.srcList d).filter fun e => s.get (CTE_SRC_LOST d e) == 1).length
  let s2 := s1.put (CTE_STATUS_LOST_DEST d) (q.dests.filter DestSt.lost).length
  let lo := q.stints.foldl (fun m x => match m with | none => some x | some y => some (min x y)) none
  (s2.put (STINT_STATE_SI_LOW d) (lo.getD 0)).put (STINT_STATE_VALID d)
    (b2n (q.stints.any fun n => n % 2 == 0) + 2 * b2n (q.stints.any fun n => n % 2 == 1))

/-- The assembly buffer's fill, in span words: pending stores, and segments resident (R239). -/
def asmWords : Nat := 1048576
def State.pendWords (s : State) (d : Nat) : Nat := ((s.cte d).streams.map fun e => e.2.pend.length).foldl (· + ·) 0

def State.showAsm (s : State) (d : Nat) : State :=
  let p := s.pendWords d
  let r := (s.cte d).resident.length
  ((s.put (ASM_STATUS_PEND_K d) (ceilDiv p 1024)).put (ASM_STATUS_RESIDENT d) r).put (ASM_STATUS_USED_K d)
    (ceilDiv (p + r * s.segWords d) 1024)

/-- The oldest resident segments are evicted while the buffer is full (R239). -/
def State.evict (s : State) (d : Nat) : Nat → State
  | 0 => s
  | n + 1 =>
    if asmWords < s.pendWords d + (s.cte d).resident.length * s.segWords d ∧ (s.cte d).resident ≠ [] then
      ((((s.setCte d { s.cte d with resident := (s.cte d).resident.drop 1 }).bump (ASM_STATUS_EVICTED d)).raise
        (CTE_EVENTS_EVICT d)).raise (CTE_STATUS_EVICTING d)).pmU d 0x32 1 |>.evict d n
    else s

def State.fitAsm (s : State) (d : Nat) : State :=
  ((s.put (CTE_STATUS_EVICTING d) 0).evict d (s.cte d).resident.length).showAsm d

/-! ### Sending (R233 to R235, R242) -/

/-- A marker's payload words. -/
def markerWords (folio flags crc pkts prev : Nat) : List Word :=
  [BitVec.ofNat 72 (folio % 2 ^ 48 + flags % 32 * 2 ^ 48), BitVec.ofNat 72 (crc % 2 ^ 32 + pkts % 2 ^ 16 * 2 ^ 32),
   BitVec.ofNat 72 (prev % 2 ^ 48)]

def mkNODATA : Nat := 1
def mkSYNC : Nat := 2
def mkIDLE : Nat := 4
def mkLAST : Nat := 8
def mkREPLAY : Nat := 16

/-- A marker on one stream; PREV of the next follows it, SYNC markers excepted. -/
def State.sendMarker (s : State) (d : Nat) (x : DestSt) (folio flags crc pkts : Nat) : State :=
  let s1 := s.originate d 0 x.dev x.die (8 + d) (markerWords folio flags crc pkts x.prev)
  let cur := ((s1.cte d).dests.find? fun y => y.dev == x.dev && y.die == x.die).getD x
  s1.setDest d { cur with lastMark := s.now, prev := if flags / mkSYNC % 2 = 1 then cur.prev else folio }

/-- Words cut into packets of 32 payload span words (R233). -/
def cutPackets : Nat → List Word → List (List Word)
  | 0, _ => []
  | n + 1, ws => if ws = [] then [] else ws.take 32 :: cutPackets n (ws.drop 32)

/-- The core that serves a logical core, and its frame for one input of a folio. -/
def State.servant (s : State) (d l : Nat) : Option Nat :=
  (List.range 18).find? fun c => s.get (CORE_CFG_EN d c) == 1 && s.logicalOf d c == l
def State.frameOf (s : State) (d c k i : Nat) : Option OutFrame := (s.core d c).outs.find? fun f => f.folio == k && f.input == i && !f.read

/-- Each enabled slot in order, with its logical core and input there. -/
def State.slotOwners (s : State) (d : Nat) : List (Nat × Nat) :=
  (List.range 16).flatMap fun l => (List.range (s.dealt d l).length).map fun i => (l, i)

/-- Every core has completed folio k's frames for all its inputs; a logical core that nothing runs counts as done (R552). -/
def State.framesDone (s : State) (d k : Nat) : Bool :=
  (s.slotOwners d).all fun o =>
    match s.servant d o.1 with
    | none => true
    | some c => (s.frameOf d c k o.2).isSome

/-- The words of group g in the frame of one slot; flagged zeros where no core made it. -/
def State.groupData (s : State) (d k g : Nat) (o : Nat × Nat) : List Word :=
  let w := s.groupWords d
  match s.servant d o.1 with
  | none => List.replicate w (staleWord (s.get (CTE_CFG_FMT d)))
  | some c =>
    match s.frameOf d c k o.2 with
    | none => List.replicate w (staleWord (s.get (CTE_CFG_FMT d)))
    | some f => Store.getList zeroWord (s.core d c).xm
        (s.get (CORE_CFG_OUT_BASE d c) + f.slot * s.get (CORE_CFG_OUT_WORDS d c) + g * w) w

/-- The folio's data on the stream to one owner: a chunk per enabled slot (R233). -/
def State.streamData (s : State) (d k : Nat) (x : DestSt) : List Word :=
  (s.slotOwners d).flatMap fun o => (s.groupsOf d x.dev x.die).flatMap fun g => s.groupData d k g o

/-- REPLAY of a marker for folio k: what was sent before the rewind comes again (R245). -/
def State.replayFlag (s : State) (d k : Nat) : Nat := if k < (s.cte d).replayTo then mkREPLAY else 0

/-- Folio k to one destination. -/
def State.sendTo (s : State) (d k : Nat) (refused : Bool) (x : DestSt) : State :=
  if x.lost then s.setDest d { x with discarded := x.discarded + (if refused then 0 else (s.slotOwners d).length) }
  else
    let rp := s.replayFlag d k
    if refused then s.sendMarker d x k (mkNODATA + rp) 0 0
    else
      let ws := s.streamData d k x
      let ps := cutPackets (ws.length + 1) ws
      let s1 := forAll ps s fun s p => s.originate d 0 x.dev x.die d p
      (s1.bumpBy (CTE_COUNT0_TX_WORDS d) ws.length).pmU d 0x30 ws.length |>.sendMarker d x k rp (crc32 (ws.flatMap Word.octets)) ps.length

/-- The frames of folio k count as read, and the tag of the last forwarded frame of each logical core moves (R170). -/
def State.framesRead (s : State) (d k : Nat) : State :=
  forAll (s.slotOwners d) s fun s o =>
    match s.servant d o.1 with
    | none => s
    | some c =>
      let q := s.core d c
      let s1 := s.setCore d c { q with outs := q.outs.map fun f => if f.folio = k ∧ f.input = o.2 then { f with read := true } else f }
      let f := s1.fc d
      s1.setFc d { f with tags := Store.put zeroNat f.tags o.1 (max (Store.get zeroNat f.tags o.1) (k * 8 + o.2 + 1)) }

/-- Folio k is sent once it is the lowest unsent record, decided, its frames are complete and no destination holds it. -/
def execSendFolio (d folio : Nat) (s : State) : Host.Outcome State Fault Refusal :=
  let q := s.cte d
  match (s.acu d).dir.find? fun r => decide (q.sentNext ≤ r.folio) with
  | none => ok s
  | some r =>
    if r.folio ≠ folio ∨ s.present d = false ∨ q.synced = false ∨ s.framesDone d folio = false then ok s
    else if s.holding d folio ≠ [] then
      ok ((s.put (CTE_STATUS_STATE d) 3).put (CTE_STATUS_HELD_DEST d) (s.holding d folio).length)
    else
      let s1 := (forAll q.dests s fun s x => s.sendTo d folio (decide (r.state ≠ 1)) x).framesRead d folio
      let q1 := s1.cte d
      let s2 := s1.setCte d { q1 with sentNext := folio + 1, rewind := if q1.replayTo ≤ folio + 1 then none else q1.rewind }
      ok ((s2.put (CTE_STATUS_STATE d) (if q1.replayTo ≤ folio + 1 then 1 else 2)).put (CTE_STATUS_HELD_DEST d) 0)

/-- The last folio whose interval has ended that no unsent record or undecided consignment lies at or below: every folio up
to it that has not been sent never will be. -/
def State.idleFolio (s : State) (d : Nat) : Option Nat :=
  let last := s.folioAt d s.now - 1
  let unsent := ((s.acu d).dir.map JRec.folio ++ s.acc.cons.map Cons.k).filter fun k => decide ((s.cte d).sentNext ≤ k)
  let top := unsent.foldl (fun (m : Int) k => min m ((k : Int) - 1)) last
  if top < 0 then none else some top.toNat

/-- IDLE_MARK_US without a marker on a stream: an IDLE marker (R235). -/
def execIdleMarkerTimer (d : Nat) (s : State) : Host.Outcome State Fault Refusal :=
  let q := s.cte d
  if s.present d = true ∧ q.dests ≠ [] ∧ q.synced = true ∧ s.nvm.progOn = true then
    let t := (q.dests.map DestSt.lastMark).foldl min ((q.dests.headD ⟨0, 0, 0, 0, 0, false, 0, 0, 0⟩).lastMark)
    let s1 := s.advance (t + s.get (CTE_TIMERS_IDLE_MARK_US d) * tUs)
    match s1.idleFolio d with
    | none => ok s1
    | some f =>
      ok (forAll (q.dests.filter fun x => !x.lost && decide (x.lastMark + s.get (CTE_TIMERS_IDLE_MARK_US d) * tUs ≤ s1.now)) s1
        fun s x => s.sendMarker d x f (mkIDLE + s.replayFlag d f) 0 0)
  else ok s

/-! ### Receiving (R236 to R240) -/

/-- The place of a correlator input among those correlated, ascending. -/
def State.inputRank (s : State) (d i : Nat) : Nat :=
  ((s.srcList d).map fun e => min (s.get (SRC_IN_IN_CNT d e)) (i - s.get (SRC_IN_IN_BASE d e))).foldl (· + ·) 0

/-- Address of a correlator input's chunk of folio k. -/
def State.chunkAddr (s : State) (d k i : Nat) : Nat := s.segAddr d k + s.inputRank d i * s.ownChunk d

/-- Address of stream e's HIGH in the header of a stint slot. -/
def State.headAddr (s : State) (d n e : Nat) : Nat :=
  s.stintSlot d n + s.get (STINT_REGION_SLOT_WORDS d) + ((s.srcList d).takeWhile (· != e)).length

/-- Short integration n takes its slot: the header holds every stream's HIGH. -/
def State.openStint (s : State) (d n : Nat) : State :=
  if (s.cte d).stints.contains n then s
  else
    let s1 := s.setCte d { s.cte d with stints := (s.cte d).stints ++ [n] }
    forAll (s1.srcList d) s1 fun s e => s.wrMem d (s.headAddr d n e) (BitVec.ofNat 72 (below (s.stream d e).next))

/-- Folio k of stream e is committed: `none` for an absent folio (R237, R240). -/
def State.commitFolio (s : State) (d e k : Nat) (data : Option (List Word)) : State :=
  let n := s.siOf d k
  let w := s.ownChunk d
  let cnt := s.get (SRC_IN_IN_CNT d e)
  let ws := data.getD (List.replicate (cnt * w) (staleWord (s.get (CTE_CFG_FMT d))))
  let s1 := forAll (List.range cnt) (s.openStint d n) fun s j =>
    s.wrMems d (s.chunkAddr d k (s.get (SRC_IN_IN_BASE d e) + j)) ((ws.drop (j * w)).take w)
  let s2 := s1.wrMem d (s.headAddr d n e) (BitVec.ofNat 72 k)
  ((s2.bumpBy (CTE_COUNT0_RX_WORDS d) (cnt * w)).pmU d 0x31 (cnt * w)).showCte d

/-! ### The run (R118, R242, R293) -/

/-- Folio k lies before a run's first folio: in its short integration, or in one between it and the end of the run before. -/
def State.beforeRun (s : State) (d k : Nat) : Bool :=
  (s.cte d).gaps.any fun g => decide (k < g.2) && decide (g.1 ≤ s.siOf d k)

/-- The first folio of the run that follows the gap in which folio k lies. -/
def State.runAfter (s : State) (d k : Nat) : Nat :=
  match (s.cte d).gaps.find? fun g => decide (k < g.2) && decide (g.1 ≤ s.siOf d k) with
  | some g => g.2
  | none => k

/-- The short integration that follows in the run: those between two runs are skipped (log entry 22). -/
def State.siSkip (s : State) (d n : Nat) : Nat :=
  match (s.cte d).gaps.find? fun g => decide (g.1 ≤ n) && decide (n < s.siOf d g.2) with
  | some g => s.siOf d g.2
  | none => n

/-- Absent folios from a to b - 1. -/
def State.commitAbsent (s : State) (d e a b : Nat) : State :=
  forAll ((List.range (b - a)).filter fun x => !s.beforeRun d (a + x)) s fun s x => s.commitFolio d e (a + x) none

/-- Segments complete on every stream are handed over in ascending folio index, with a copy in the assembly buffer; a LOST
stream's part is absent (R238, R239, R247). With every stream LOST, those that some stream has committed are. -/
def State.advanceSegs (s : State) (d : Nat) : Nat → State
  | 0 => s
  | n + 1 =>
    let k := s.runAfter d (s.cte d).segNext
    let src := s.srcList d
    if (src.any fun e => decide (k < (s.stream d e).next)) = true ∧
        (src.all fun e => s.get (CTE_SRC_LOST d e) == 1 || decide (k < (s.stream d e).next)) = true then
      let miss := src.filter fun e => s.get (CTE_SRC_LOST d e) == 1 && decide ((s.stream d e).next ≤ k)
      let s1 := forAll miss s fun s e => s.commitFolio d e k none
      let q := s1.cte d
      let si := s.siOf d k
      (s1.setCte d { q with segNext := k + 1, resident := q.resident ++ [(k, s1.rdMems d (s1.segAddr d k) (s1.segWords d))],
                            staleSi := if miss = [] ∨ q.staleSi.contains si then q.staleSi else q.staleSi ++ [si] }).advanceSegs d n
    else s

/-- Every segment that can be handed over. -/
def State.segments (s : State) (d : Nat) : State :=
  let hi := ((s.srcList d).map fun e => (s.stream d e).next).foldl max 0
  (s.advanceSegs d (hi - (s.cte d).segNext)).fitAsm d

/-- The SRC entry of a packet's stream. -/
def State.srcOf (s : State) (d : Nat) (p : Pkt) : Option Nat :=
  (s.srcList d).find? fun e => s.get (CTE_SRC_DEV d e) == p.src && s.get (CTE_SRC_DIE d e) == p.sub % 8

/-- A data packet that reached die d: its payload joins the stream's pending store. -/
def execDataPacket (d : Nat) (p : Pkt) (s : State) : Host.Outcome State Fault Refusal :=
  if s.inboxHead d p = true ∧ p.vc = 0 ∧ p.sub < 8 then
    let s1 := s.takeInbox d p
    match s1.srcOf d p with
    | none => ok s1
    | some e =>
      if s1.get (CTE_SRC_QUIET d e) = 1 ∨ s1.get (CTE_SRC_LOST d e) = 1 then ok s1
      else
        let q := s1.stream d e
        ok ((s1.setStream d e { q with pend := q.pend ++ p.payload, pkts := q.pkts + 1 }).fitAsm d)
  else ok s

/-- A REWIND to a stream's source (R236, R243). -/
def State.sendRewind (s : State) (d e folio : Nat) : State :=
  (s.originate d 2 (s.get (CTE_SRC_DEV d e)) (s.get (CTE_SRC_DIE d e)) 0xD
    [BitVec.ofNat 72 (folio % 2 ^ 48 + s.get (CTE_SRC_DIE d e) * 2 ^ 48 + d * 2 ^ 51), 0]).raise (CTE_EVENTS_REWIND_SENT d)

/-- A marker of stream e, processed as R236's pseudocode says; LAST ends the stream until the programme resumes (R256). -/
def State.onMarker (s : State) (d e : Nat) (m : List Word) : State :=
  let w0 := m.getD 0 0
  let w1 := m.getD 1 0
  let folio := w0.bits 0 48
  let q := s.stream d e
  let clear := { q with pend := [], pkts := 0, lastMark := s.now }
  let last := q.ended || bit (w0.bits 48 5) 3
  if bit (w0.bits 48 5) 1 then
    let nx := if s.get (CTE_SRC_LOST d e) = 1 then max q.next (s.cte d).segNext else q.next
    (((s.setStream d e { clear with next := nx }).put (CTE_SRC_QUIET d e) 0).put (CTE_SRC_LOST d e) 0).showCte d
  else if s.get (CTE_SRC_LOST d e) = 1 then s
  else if s.get (CTE_SRC_QUIET d e) = 1 then s.setStream d e { q with lastMark := s.now }
  else if folio < q.next then (s.setStream d e { clear with ended := last }).bump (CTE_COUNT1_DUP d)
  else if max q.next 1 ≤ (m.getD 2 0).bits 0 48 ∨ q.pkts ≠ w1.bits 32 16 ∨
      (if q.pend = [] then 0 else crc32 (q.pend.flatMap Word.octets)) ≠ w1.bits 0 32 then
    ((((s.setStream d e clear).bump (CTE_COUNT1_CHECK_FAIL d)).raise (CTE_EVENTS_CHECK_FAIL d)).sendRewind d e q.next).put
      (CTE_SRC_QUIET d e) 1
  else
    let s1 := s.commitAbsent d e q.next folio
    let none_ := bit (w0.bits 48 5) 0 || bit (w0.bits 48 5) 2
    let s2 := s1.commitFolio d e folio (if none_ then none else some q.pend)
    (s2.setStream d e { clear with next := folio + 1, ended := last }).segments d

/-- A marker that reached die d. -/
def execMarker (d : Nat) (p : Pkt) (s : State) : Host.Outcome State Fault Refusal :=
  if s.inboxHead d p = true ∧ p.vc = 0 ∧ 8 ≤ p.sub then
    let s1 := s.takeInbox d p
    match s1.srcOf d p with
    | none => ok s1
    | some e => ok ((s1.onMarker d e p.payload).showAsm d)
  else ok s

/-! ### Reports (R243, R244) -/

/-- A COMMIT report to the source die of every stream. -/
def State.sendReports (s : State) (d : Nat) : State :=
  let s1 := forAll (s.srcList d) s fun s e =>
    s.originate d 2 (s.get (CTE_SRC_DEV d e)) (s.get (CTE_SRC_DIE d e)) 0xC
      [BitVec.ofNat 72 (below (s.stream d e).next + s.get (CTE_SRC_DIE d e) * 2 ^ 48 + d * 2 ^ 51),
       BitVec.ofNat 72 (below (s.cte d).relNext)]
  s1.setCte d { s1.cte d with lastRep := s.now }

/-- CM_PERIOD_US after the last reports; none go in RETAIN (R256). -/
def execCommitReportTimer (d : Nat) (s : State) : Host.Outcome State Fault Refusal :=
  if s.present d = true ∧ s.runs = true then
    ok ((s.advance ((s.cte d).lastRep + s.get (CTE_TIMERS_CM_PERIOD_US d) * tUs)).sendReports d)
  else ok s

/-- A COMMIT report that reached its source die. -/
def execReportReceived (d : Nat) (p : Pkt) (s : State) : Host.Outcome State Fault Refusal :=
  if s.inboxHead d p = true ∧ p.vc = 2 ∧ p.sub = 0xC then
    let s1 := s.takeInbox d p
    let w0 := p.payload.getD 0 0
    match (s1.cte d).dests.find? fun x => x.dev == p.src && x.die == w0.bits 51 3 with
    | none => ok s1
    | some x =>
      let rel := ((p.payload.getD 1 0).bits 0 48 + 1) % 2 ^ 48
      let s2 := s1.setDest d { x with comNext := (w0.bits 0 48 + 1) % 2 ^ 48, relNext := rel, lastRep := s.now }
      ok (forAll (s2.groupsOf d x.dev x.die) s2 fun s g => s.put (GROUP_REL_SI d g) (rel - 1))
  else ok s

/-- The folio after the smallest committed one of the destinations that are not LOST (R244); without a destination, the next
folio to send. -/
def State.replayBound (s : State) (d : Nat) : Nat :=
  ((s.cte d).dests.filter fun x => !x.lost).foldl (fun m x => min m x.comNext) (s.cte d).sentNext

/-! ### Losses (R247) -/

/-- A stream without a marker for LOST_MS. -/
def execStreamLost (d e : Nat) (s : State) : Host.Outcome State Fault Refusal :=
  if s.present d = true ∧ e < 4096 ∧ s.get (CTE_SRC_VALID d e) = 1 ∧ s.get (CTE_SRC_LOST d e) = 0 ∧ (s.stream d e).ended = false then
    let q := s.stream d e
    let s1 := (s.advance (q.lastMark + s.get (CTE_TIMERS_LOST_MS d) * tMs)).setStream d e { q with pend := [], pkts := 0 }
    let s2 := ((s1.put (CTE_SRC_LOST d e) 1).raise (CTE_EVENTS_SRC_LOST d)).emit 0x5C d 0 0
      (s.get (CTE_SRC_DEV d e) + s.get (CTE_SRC_DIE d e) * 2 ^ 16) (s.get (CTE_SRC_HIGH d e))
    ok ((s2.showCte d).segments d)
  else ok s

/-- A destination without a report for LOST_MS. -/
def execDestLost (d dev die : Nat) (s : State) : Host.Outcome State Fault Refusal :=
  match (s.cte d).dests.find? fun x => x.dev == dev && x.die == die && !x.lost with
  | none => ok s
  | some x =>
    let s1 := (s.advance (x.lastRep + s.get (CTE_TIMERS_LOST_MS d) * tMs)).setDest d { x with lost := true }
    let s2 := forAll (s1.groupsOf d dev die) s1 fun s g => s.put (GROUP_LOST d g) 1
    ok (((s2.raise (CTE_EVENTS_DEST_LOST d)).emit 0x5D d 0 0 (dev + die * 2 ^ 16) 0).showCte d)

/-! ### Rewinds (R245, R246) -/

/-- The F-cores and CTE of a die go back to the last checkpoint (R245): every core to its save with the feeder at the replay
point, and the CTE to the replay point, quiet until SYNC. The next marker's PREV is the folio before what is sent again, or
before the folio `k` asked for where the replay point lies behind it. -/
def State.rewindDie (s : State) (d : Nat) (k : Option Nat) : State :=
  let rp := (s.acu d).replay
  let s1 := forAll (List.range 18) s fun s c =>
    if s.get (CORE_CFG_EN d c) = 1 then
      let s1 := s.restoreCore d c (s.logicalOf d c)
      s1.setCore d c { s1.core d c with feedFolio := rp, feedIn := 0, ins := [], taken := 0, inSlot := 0, outs := [] }
    else s
  let s2 := s1.setFc d { s1.fc d with tags := [] }
  let q := s2.cte d
  let s3 := s2.setCte d { q with
    sentNext := rp, replayTo := max q.replayTo q.sentNext, rewind := k, synced := false,
    quietAt := s.now + s.get (CTE_TIMERS_QUIET_US d) * tUs, dests := q.dests.map fun x => { x with prev := min rp (k.getD rp) - 1, lost := false } }
  (forAll (s3.groupList d) s3 fun s g => s.put (GROUP_LOST d g) 0).put (CTE_STATUS_STATE d) 2

/-- A REWIND that reached its source die: one at or after the start of the rewind that runs is ignored, an earlier one
restarts it; one before the replay point leaves a gap. -/
def execRewindReceived (d : Nat) (p : Pkt) (s : State) : Host.Outcome State Fault Refusal :=
  if s.inboxHead d p = true ∧ p.vc = 2 ∧ p.sub = 0xD then
    let s1 := s.takeInbox d p
    let k := (p.payload.getD 0 0).bits 0 48
    let again := match (s1.cte d).rewind with
      | some r => decide (r ≤ k)
      | none => false
    if again then ok s1
    else
      let rp := (s1.acu d).replay
      let s2 := ((s1.rewindDie d (some k)).raise (CTE_EVENTS_REWIND_RUN d)).bump (CTE_COUNT1_REWINDS d)
      if k < rp then
        ok (((s2.setCte d { s2.cte d with gap := true }).raise (CTE_EVENTS_CT_GAP d)).emit 0x5E d 0 0 k (rp - 1))
      else ok s2
  else ok s

/-- SYNC on every stream, and after a gap an IDLE marker for the folio before the replay point (R245). -/
def State.syncStreams (s : State) (d : Nat) : State :=
  let s1 := forAll (s.cte d).dests s fun s x => s.sendMarker d x 0 mkSYNC 0 0
  let s2 := if (s.cte d).gap = true then
      forAll (s1.cte d).dests s1 fun s x => s.sendMarker d x ((s.acu d).replay - 1) (mkIDLE + mkREPLAY) 0 0 else s1
  s2.setCte d { s2.cte d with synced := true, gap := false }

/-- QUIET_US after the request the rewind sends SYNC and replays. -/
def execQuietExpiry (d : Nat) (s : State) : Host.Outcome State Fault Refusal :=
  if s.present d = true ∧ (s.cte d).synced = false then ok ((s.advance (s.cte d).quietAt).syncStreams d) else ok s

/-- HIGH + 1 of stream e as the headers of the occupied stint slots hold it (R246); with no slot occupied nothing is committed
beyond what was released. -/
def State.headNext (s : State) (d e : Nat) : Nat :=
  match (s.cte d).stints.map fun n => ((s.rdMem d (s.headAddr d n e)).bits 0 48 + 1) % 2 ^ 48 with
  | [] => (s.stream d e).next
  | x :: xs => xs.foldl max x

/-- After a warm reset (R246): the source side restores the checkpoint and sends SYNC before any data; the receiving side
takes HIGH from the slot headers, discards what is pending and asks every stream to resend. -/
def State.cteWarm (s : State) (d : Nat) : State :=
  let s1 := (s.rewindDie d none).syncStreams d
  let s2 := forAll (s1.srcList d) s1 fun s e =>
    s.setStream d e { s.stream d e with pend := [], pkts := 0, next := s.headNext d e, lastMark := s.now }
  let s3 := s2.setCte d { s2.cte d with resident := [] }
  (forAll (s3.srcList d) s3 fun s e => (s.sendRewind d e (s.stream d e).next).put (CTE_SRC_QUIET d e) 1).fitAsm d

/-- A programme's first start on a die: folio `k` is its first (R242). -/
def State.cteStart (s : State) (d k : Nat) : State :=
  let rel := s.siOf d k
  let ds := (s.owners d).map fun o => DestSt.mk o.1 o.2 k rel s.now false (k - 1) s.now 0
  let s1 := s.setCte d { CteSt.reset with first := k, gaps := [(0, k)], dests := ds, sentNext := k, segNext := k, relNext := rel, lastRep := s.now }
  let s2 := forAll (s1.srcList d) s1 fun s e =>
    ((s.setStream d e { StreamSt.reset with next := k, lastMark := s.now }).put (CTE_SRC_LOST d e) 0).put (CTE_SRC_QUIET d e) 0
  ((s2.put (CTE_STATUS_STATE d) 1).showCte d).showAsm d

/-- A run of the programme goes on at folio k after one that ended with folio `last` (R242, R256): the window, the stint slots and
the positions are those of the last run; the short integrations between are skipped, and streams that ended go on. -/
def State.cteResume (s : State) (d k last : Nat) : State :=
  let q := s.cte d
  let q1 := if s.siOf d last < s.siOf d k then { q with first := k, gaps := q.gaps ++ [(s.siOf d last + 1, k)] } else q
  let s1 := s.setCte d { q1 with dests := q.dests.map fun x => { x with lastRep := s.now, lastMark := s.now }, lastRep := s.now }
  let s2 := s1.setCte d { s1.cte d with relNext := s1.siSkip d q.relNext }
  let s3 := forAll (s2.srcList d) s2 fun s e =>
    s.setStream d e { s.stream d e with ended := false, lastMark := s.now }
  (((s3.put (CTE_STATUS_STATE d) 1).showCte d).segments d).showAsm d

/-- A programme switch or suspension ends every stream with LAST (R256). -/
def State.endStreams (s : State) (d : Nat) : State :=
  let f := (s.cte d).sentNext - 1
  (forAll ((s.cte d).dests.filter fun x => !x.lost) s fun s x => s.sendMarker d x f (mkIDLE + mkLAST) 0 0).put (CTE_STATUS_STATE d) 0

/-- A stint slot is released, in ascending short integration, and reported at once (R241, R243). -/
def State.releaseStint (s : State) (d n : Nat) : State :=
  let q := s.cte d
  let s1 := s.setCte d { q with
    stints := q.stints.filter (· != n), relNext := s.siSkip d (n + 1), gaps := q.gaps.filter fun g => decide (n < s.siOf d g.2),
    resident := q.resident.filter fun e => decide (n < s.siOf d e.1) }
  ((s1.showCte d).showAsm d).sendReports d

end Sys2Proof.Machine
end

