-- ==== Sys2Proof/Machine/Gallery.lean ====
section
/-! DEFINITION. The gallery (chapter 10): work orders, tiles, banks and seals, mismatches, loans, returns and moves; and where
a record lands in the ledger (R286, R291), which the gallery's reruns ask. -/

namespace Sys2Proof.Machine

open Reg

/-! ### Typed state and the registers that show it -/

def State.gal (s : State) (d : Nat) : GalSt := Store.get (fun _ => GalSt.reset) s.gals d
def State.setGal (s : State) (d : Nat) (v : GalSt) : State := { s with gals := Store.put (fun _ => GalSt.reset) s.gals d v }
def State.led (s : State) (d : Nat) : LedSt := Store.get (fun _ => LedSt.reset) s.leds d
def State.setLed (s : State) (d : Nat) (v : LedSt) : State := { s with leds := Store.put (fun _ => LedSt.reset) s.leds d v }
def State.tile (s : State) (d t : Nat) : TileSt := Store.get (fun _ => TileSt.reset) (s.gal d).tiles t
def TileSt.bank (q : TileSt) (b : Nat) : Bank := if b = 0 then q.b0 else q.b1
def TileSt.setBank (q : TileSt) (b : Nat) (v : Bank) : TileSt := if b = 0 then { q with b0 := v } else { q with b1 := v }

/-- Bank states (R268). -/
def bkFREE : Nat := 0
def bkACCUM : Nat := 1
def bkSEAL : Nat := 2
def bkDRAIN : Nat := 3
def bkDISCARD : Nat := 4
def bkSAVED : Nat := 5

/-- Tile states (TILE_STATUS). -/
def tsOFF : Nat := 0
def tsIDLE : Nat := 1
def tsRUN : Nat := 2
def tsBIST : Nat := 3
def tsGAVEUP : Nat := 4
def tsONLOAN : Nat := 5
def tsDEACC : Nat := 6

/-- A bank's state, order and position in its registers. -/
def State.showBank (s : State) (d t b : Nat) (k : Bank) : State :=
  let s1 := s.put (if b = 0 then TILE_STATUS_BANK0 d t else TILE_STATUS_BANK1 d t) k.st
  match k.order with
  | none => s1
  | some o => (((s1.put (TILE_WO0_ENTRY d t b) o.entry).put (TILE_WO0_KIND d t b) o.kind).put (TILE_WO1_SI d t b) o.si).put
      (TILE_POS_FOLIO d t b) k.folio

/-- A tile's new state, shown in its registers; an IDLE tile with a busy bank is in RUN. -/
def State.setTile (s : State) (d t : Nat) (q : TileSt) : State :=
  let g := s.gal d
  let s1 := ((s.setGal d { g with tiles := Store.put (fun _ => TileSt.reset) g.tiles t q }).showBank d t 0 q.b0).showBank d t 1 q.b1
  let s2 := s1.put (TILE_STATUS_QUEUED d t) (min 7 q.queue.length)
  let st := s2.get (TILE_STATUS_STATE d t)
  if st = tsIDLE ∨ st = tsRUN then
    s2.put (TILE_STATUS_STATE d t) (if q.b0.st = bkFREE ∧ q.b1.st = bkFREE then tsIDLE else tsRUN)
  else s2

/-! ### Work table (R264) -/

def woB1 (e : Nat) : Nat := bitsOf e 0 13
def woB2 (e : Nat) : Nat := bitsOf e 13 13
def woC0 (e : Nat) : Nat := bitsOf e 26 12
def woNc (e : Nat) : Nat := bitsOf e 38 4 + 1
def woLt (e : Nat) : Nat := bitsOf e 42 4
def woBank (e : Nat) : Nat := bitsOf e 46 1

/-- The table's entries with their places. -/
def State.workTable (s : State) (d : Nat) : List (Nat × Nat) :=
  (List.range (s.get (GAL_GEOM_WT_LEN d))).map fun w => (w, s.get (WT_ENTRY d w))

/-- The entries that logical tile lt runs in short integration n, with the bank each uses and its own logical tile: its own in
table order, then those moved to it (R266, R281). -/
def State.workList (s : State) (d : Nat) (ms : List WMove) (lt n : Nat) : List (Nat × Nat) :=
  ((s.workTable d).filterMap fun e =>
    if woLt e.2 = lt ∧ (ms.any fun m => m.w == e.1 && decide (m.since ≤ n)) = false then some (e.2, lt) else none) ++
  (ms.filterMap fun m => if m.dst = lt ∧ m.since ≤ n then some (withBits (s.get (WT_ENTRY d m.w)) 46 1 m.bank, m.src) else none)

/-- The orders of logical tile lt for short integrations up to n that the scheduler has not issued. -/
def State.unissued (s : State) (d lt n : Nat) : List WOrder :=
  let g := s.gal d
  let a := Store.get (fun _ => 0) g.nextSi lt
  let i := Store.get (fun _ => 0) g.nextIdx lt
  ((List.range (n + 1 - a)).filter fun x => s.siSkip d (a + x) == a + x).flatMap fun x =>
    ((s.workList d g.moves lt (a + x)).drop (if x = 0 then i else 0)).map fun e => WOrder.mk e.1 (a + x) 0 e.2

/-! ### Where a record lands (R286, R289, R291) -/

/-- The visibility block of a pair of blocks and a channel; none for a channel not owned or a block that is not one. -/
def State.visBlock (s : State) (d b1 b2 ch : Nat) : Option Nat :=
  let n := (b2 * (b2 + 1) / 2 + b1) * s.get (LED_GEOM_NLOC d) + s.get (CHMAP_LCH d ch)
  if s.get (CHMAP_OWNED d ch) = 1 ∧ n < s.get (LED_GEOM_VIS_BLOCKS d) then some n else none

/-- The span-word addresses of a block's words and of its header. -/
def State.blkAddr (s : State) (d b : Nat) : Nat := s.get (LED_REGION_BASE d) * 8 + 3072 * b
def State.hdrAddr (s : State) (d b : Nat) : Nat := s.get (LED_REGION_HDR_BASE d) * 8 + b
def State.ledHdr (s : State) (d b : Nat) : Word := s.rdMem d (s.hdrAddr d b)

/-- The fields of a block header (R291). -/
def hdLAST (w : Word) : Nat := w.bits 0 48
def hdNSI (w : Word) : Nat := w.bits 48 16
def hdBit (w : Word) (i : Nat) : Bool := w.bits i 1 == 1
def hbZERO : Nat := 64
def hbSUBST : Nat := 65
def hbSAT : Nat := 66
def hbWSAT : Nat := 67
def hbFULL : Nat := 68
def hbPOISON : Nat := 69
def hbFRESH : Nat := 70

/-- A header is written; the lists of blocks that show SAT and FULL, and the status bits, follow. -/
def State.setLedHdr (s : State) (d b : Nat) (w : Word) : State :=
  let q := s.led d
  let upd := fun (l : List Nat) (on : Bool) => if on then (if l.contains b then l else l ++ [b]) else l.filter (· != b)
  let sat := upd q.sat (hdBit w hbSAT)
  let full := upd q.full (hdBit w hbFULL)
  (((s.wrMem d (s.hdrAddr d b) w).setLed d { q with sat := sat, full := full }).put (LED_STATUS_SAT_PRESENT d)
    (b2n (sat != []))).put (LED_STATUS_FULL_PRESENT d) (b2n (full != []))

/-- The visibility blocks that a table entry feeds. -/
def State.entryBlocks (s : State) (d e : Nat) : List Nat :=
  (List.range (woNc e)).filterMap fun j => s.visBlock d (woB1 e) (woB2 e) (woC0 e + j)

/-- An order given back after a gap may rerun: the records of the short integration before it are applied (R294). -/
def State.gapReady (s : State) (d : Nat) (o : WOrder) : Bool :=
  (s.entryBlocks d o.entry).all fun b => hdBit (s.ledHdr d b) hbFULL || decide (o.si ≤ hdLAST (s.ledHdr d b) + 1)

/-! ### Issue and start (R266, R269) -/

/-- The tile that serves a logical tile for short integration n: GT16 on loan for it (up to the return's boundary), else the
tile whose LOGICAL names it. -/
def State.server (s : State) (d lt n : Nat) : Option Nat :=
  let own := (List.range 16).find? fun t =>
    s.get (TILE_CFG_EN d t) == 1 && s.get (TILE_CFG_LOGICAL d t) == lt && s.get (UNIT_BKT_STATE d t) == 0
  match (s.gal d).loan with
  | none => own
  | some l =>
    if l.lt = lt ∧ l.starting = false then
      match l.returnAt with
      | none => some 16
      | some r => if n ≤ r then some 16 else own
    else own

/-- A logical tile that no tile serves and whose work is moved or retired. -/
def State.ltLost (s : State) (d lt : Nat) : Bool := (s.gal d).lost.any fun x => x.lt == lt

/-- An order joins the queue of the tile that serves it, when it has room. -/
def State.issueTo (s : State) (d lt : Nat) (o : WOrder) : Option State :=
  match s.server d lt o.si with
  | none => none
  | some t =>
    let q := s.tile d t
    if q.queue.length < 4 then some (s.setTile d t { q with queue := q.queue ++ [o] }) else none

/-- The scheduler issues the next order of a logical tile (R266): an order given back after a gap once it may rerun, then
orders moved here, then the next entry of the short integration. -/
def execWorkOrderIssue (d lt : Nat) (s : State) : Host.Outcome State Fault Refusal :=
  let g := s.gal d
  if s.present d = false ∨ s.runs = false ∨ 16 ≤ lt ∨ s.ltLost d lt = true then ok s
  else
    match g.gapWait.find? fun x => x.1 == lt && s.gapReady d x.2 with
    | some x =>
      match s.server d lt x.2.si with
      | none => ok s
      | some t =>
        let q := s.tile d t
        if q.queue.length < 4 then
          let s1 := s.setGal d { g with gapWait := g.gapWait.erase x }
          ok (((s1.setTile d t { q with queue := { x.2 with kind := 1 } :: q.queue }).bump (GAL_COUNT_RERUNS d)).raise
            (GAL_EVENTS_RERUN d))
        else ok s
    | none =>
      match g.movedQ.find? fun x => x.1 == lt with
      | some x =>
        match s.issueTo d lt x.2 with
        | none => ok s
        | some s1 => ok (s1.setGal d { s1.gal d with movedQ := (s1.gal d).movedQ.erase x })
      | none =>
        let n := Store.get (fun _ => 0) g.nextSi lt
        let i := Store.get (fun _ => 0) g.nextIdx lt
        let l := s.workList d g.moves lt n
        match l[i]? with
        | none => ok s
        | some e =>
          match s.issueTo d lt ⟨e.1, n, 0, e.2⟩ with
          | none => ok s
          | some s1 =>
            let g1 := s1.gal d
            let wrap := decide (l.length ≤ i + 1)
            ok (s1.setGal d { g1 with
              nextSi := Store.put (fun _ => 0) g1.nextSi lt (if wrap then s.siSkip d (n + 1) else n),
              nextIdx := Store.put (fun _ => 0) g1.nextIdx lt (if wrap then 0 else i + 1) })

/-- The tile takes orders: IDLE, RUN or ON_LOAN. -/
def State.tileServes (s : State) (d t : Nat) : Bool :=
  s.present d && decide (t < 17) && s.runs && [tsIDLE, tsRUN, tsONLOAN].contains (s.get (TILE_STATUS_STATE d t))

/-- The order at the head of a tile's queue starts when its bank is FREE and the tile accumulates in no other; else it waits,
and for want of its bank is counted in STALL (R268, R269). At a programme switch none starts (R282). -/
def execWorkOrderStart (d t : Nat) (s : State) : Host.Outcome State Fault Refusal :=
  let q := s.tile d t
  if s.tileServes d t = false ∨ s.nvm.switching = true then ok s
  else
    match q.queue with
    | [] => ok s
    | o :: rest =>
      let b := woBank o.entry
      if (q.bank b).st ≠ bkFREE then ok ((s.putBit (GAL_STATUS_STALLED d) t true).raise (GAL_EVENTS_STALL d))
      else if (q.bank (1 - b)).st = bkACCUM then ok s
      else
        let k : Bank := ⟨bkACCUM, some o, s.siFirst d o.si, 0, 0, [], 0⟩
        ok ((s.setTile d t { (q.setBank b k) with queue := rest, progAt := s.now }).putBit (GAL_STATUS_STALLED d) t false)

/-! ### Cells (R258 to R263, R267, R272) -/

/-- x · conj(y) added to a cell, with n more counts. -/
def Acc3.mac (a : Acc3) (xr xi yr yi : Int) (n : Nat) : Acc3 :=
  ⟨a.re + xr * yr + xi * yi, a.im + xi * yr - xr * yi, a.n + n⟩

def addCell (c : Store Acc3) (k : Nat) (xr xi yr yi : Int) (n : Nat) : Store Acc3 :=
  Store.put (fun _ => Acc3.zero) c k ((Store.get (fun _ => Acc3.zero) c k).mac xr xi yr yi n)

/-- Correlator input i's sample of folio k, owned channel of rank l, time t: flagged zeros beyond Ntot, before a run's first
folio, and where the segment's data are flagged (R260, R261, R263); from the assembly buffer while the segment is resident, else
from the stint buffer (R267). -/
def State.segSample (s : State) (d k i l t : Nat) : Samp :=
  if s.nTot d ≤ i ∨ s.beforeRun d k = true then .stale
  else
    let p := l * s.ns d + t
    let o := s.inputRank d i * s.ownChunk d + p / s.ctQ d
    let w := match (s.cte d).resident.find? fun e => e.1 == k with
      | some e => e.2.getD o 0
      | none => s.rdMem d (s.segAddr d k + o)
    unpackSamp (s.get (CTE_CFG_FMT d)) w (p % s.ctQ d)

/-- The valid samples of a block's 32 positions. -/
def State.blockSamples (s : State) (d k blk l t : Nat) : List (Nat × Samp) :=
  (List.range 32).filterMap fun r =>
    let x := s.segSample d k (32 * blk + r) l t
    if x.flag then none else some (r, x)

/-- The cells after one active cycle: every cell of a valid row and column (R258), and the checksum row and column (R272). -/
def cycleCells (c : Store Acc3) (j : Nat) (rows cols : List (Nat × Samp)) : Store Acc3 :=
  let c1 := rows.foldl (fun c x => cols.foldl (fun c y => addCell c (1088 * j + 32 * x.1 + y.1) x.2.re x.2.im y.2.re y.2.im 1) c) c
  let sum := fun (l : List (Nat × Samp)) => l.foldl (fun (a : Int × Int) x => (a.1 + x.2.re, a.2 + x.2.im)) (0, 0)
  let ys := sum cols
  let xs := sum rows
  let c2 := rows.foldl (fun c x => addCell c (1088 * j + 1024 + x.1) x.2.re x.2.im ys.1 ys.2 cols.length) c1
  cols.foldl (fun c y => addCell c (1088 * j + 1056 + y.1) xs.1 xs.2 y.2.re y.2.im rows.length) c2

/-- A cell's word, in I36C and N for cells (R270), in the layout of R282 for checksum cells. -/
def cellWord (i w : Nat) (x : Acc3) : Word :=
  if i < 1024 then (if w = 0 then i36c x.re x.im else BitVec.ofNat 72 (x.n % 2 ^ 28))
  else
    let re := unsigned 42 x.re
    let im := unsigned 42 x.im
    if w = 0 then BitVec.ofNat 72 (re + im % 2 ^ 30 * 2 ^ 42) else BitVec.ofNat 72 (im / 2 ^ 30 + x.n % 2 ^ 34 * 2 ^ 12)

/-- The header of the drain record of an order's jth channel, made by logical tile lt (R270). -/
def drainHeader (o : WOrder) (j lt : Nat) (subst : Bool) : List Word :=
  [BitVec.ofNat 72 (woB1 o.entry + woB2 o.entry * 2 ^ 13 + (woC0 o.entry + j) % 2 ^ 12 * 2 ^ 26 + lt % 16 * 2 ^ 38 +
     b2n subst * 2 ^ 42 + o.kind % 4 * 2 ^ 43),
   BitVec.ofNat 72 (o.si % 2 ^ 48)]

/-- The record of a bank's jth channel that tile t drains: its header, then its cells, 2 words each (R270, R278). -/
def State.drainRecord (s : State) (d t : Nat) (k : Bank) (o : WOrder) (j : Nat) : List Word :=
  drainHeader o j (s.get (TILE_CFG_LOGICAL d t)) (decide (t = 16)) ++ (List.range 1024).flatMap fun i =>
    let x := Store.get (fun _ => Acc3.zero) k.cells (1088 * j + i)
    [cellWord i 0 x, cellWord i 1 x]

/-- The bank of a tile that accumulates. -/
def TileSt.accum (q : TileSt) : Option Nat := if q.b0.st = bkACCUM then some 0 else if q.b1.st = bkACCUM then some 1 else none

/-- The segment of folio k is complete (R238), or lies before the run and is fed as flagged zeros. -/
def State.segReady (s : State) (d k : Nat) : Bool := decide (k < (s.cte d).segNext) || s.beforeRun d k

/-- The bank's next sample, after one. -/
def State.bankNext (s : State) (d : Nat) (o : WOrder) (k : Bank) : Bank :=
  if k.time + 1 < s.ns d then { k with time := k.time + 1 }
  else if k.chan + 1 < woNc o.entry then { k with time := 0, chan := k.chan + 1 }
  else
    { k with time := 0, chan := 0, folio := k.folio + 1,
             st := if k.folio + 1 = s.siFirst d (o.si + 1) then bkSEAL else bkACCUM }

/-- BUSY counts active cycles in units of 2^20; an order takes one cycle per sample in C4 and four in C8 (R262). -/
def State.countBusy (s : State) (d t cyc : Nat) : State :=
  let q := s.tile d t
  let n := q.cycles + cyc
  (s.setTile d t { q with cycles := n % 2 ^ 20 }).bumpBy (TILE_COUNT_BUSY d t) (n / 2 ^ 20) |>.pm d 0x40 t cyc

/-- One active cycle of the tile's accumulating order: the next sample of every row and column enters the cells. `err` is a
fault of the hardware: a cell's number within its channel and the error in its real part. An order whose segment is not
complete waits. -/
def execTileCycle (d t : Nat) (err : Option (Nat × Int)) (s : State) : Host.Outcome State Fault Refusal :=
  let q := s.tile d t
  if s.tileServes d t = false then ok s
  else
    match q.accum with
    | none => ok s
    | some b =>
      let k := q.bank b
      match k.order with
      | none => ok s
      | some o =>
        if s.segReady d k.folio = false then ok s
        else
          let ch := woC0 o.entry + k.chan
          let l := s.get (CHMAP_LCH d ch)
          let rows := s.blockSamples d k.folio (woB1 o.entry) l k.time
          let cols := s.blockSamples d k.folio (woB2 o.entry) l k.time
          let c1 := cycleCells k.cells k.chan rows cols
          let c2 := match err with
            | none => c1
            | some e => addCell c1 (1088 * k.chan + e.1) e.2 0 1 0 0
          let s1 := s.setTile d t { (q.setBank b (s.bankNext d o { k with cells := c2 })) with progAt := s.now }
          ok (s1.countBusy d t (if s.get (CTE_CFG_FMT d) = 0 then 1 else 4))

/-! ### Seals and mismatches (R273, R275) -/

/-- The sum of the cells with the given numbers of channel j. -/
def sumCells (c : Store Acc3) (j : Nat) (l : List Nat) : Acc3 :=
  l.foldl (fun a i =>
    let x := Store.get (fun _ => Acc3.zero) c (1088 * j + i)
    ⟨a.re + x.re, a.im + x.im, a.n + x.n⟩) Acc3.zero

/-- The first row, and the first column, whose sum differs from its checksum cell in channel j; 32 for none. -/
def badRow (c : Store Acc3) (j : Nat) : Nat :=
  ((List.range 32).find? fun r =>
    sumCells c j ((List.range 32).map fun x => 32 * r + x) != Store.get (fun _ => Acc3.zero) c (1088 * j + 1024 + r)).getD 32
def badCol (c : Store Acc3) (j : Nat) : Nat :=
  ((List.range 32).find? fun x =>
    sumCells c j ((List.range 32).map fun r => 32 * r + x) != Store.get (fun _ => Acc3.zero) c (1088 * j + 1056 + x)).getD 32

/-- The first channel of an order with a mismatch, with its row and column. -/
def firstBad (c : Store Acc3) (nc : Nat) : Option (Nat × Nat × Nat) :=
  (((List.range nc).map fun j => (j, badRow c j, badCol c j)).find? fun x => x.2.1 != 32 || x.2.2 != 32)

/-- Orders put back at the head of a tile's queue; those beyond its four places wait for issue, in order. -/
def State.requeue (s : State) (d t lt : Nat) (os : List WOrder) : State :=
  let q := s.tile d t
  let all := os ++ q.queue
  let s1 := s.setTile d t { q with queue := all.take 4 }
  s1.setGal d { s1.gal d with movedQ := (all.drop 4).map (fun o => (lt, o)) ++ (s1.gal d).movedQ }

/-! ### Moves (R274, R281) -/

/-- Where a table entry runs, with its bank. -/
def placeOf (ms : List WMove) (w e : Nat) : Nat × Nat :=
  match ms.find? fun m => m.w == w with
  | some m => (m.dst, m.bank)
  | none => (woLt e, woBank e)

/-- The channels that a logical tile's entries name (R274). -/
def State.ltLoad (s : State) (d : Nat) (ms : List WMove) (lt : Nat) : Nat :=
  ((s.workTable d).filterMap fun e => if (placeOf ms e.1 e.2).1 = lt then some (woNc e.2) else none).foldl (· + ·) 0

/-- The frequency in MHz of the tile that serves a logical tile. -/
def State.ltMhz (s : State) (d lt : Nat) : Nat :=
  match s.server d lt (s.gal d).bound with
  | some t => s.get (ISL_F_NOW_MHZ (32 * d + t))
  | none => 0

/-- Logical tiles that a tile serves. -/
def State.ltsLeft (s : State) (d : Nat) : List Nat :=
  (List.range 16).filter fun lt => (s.server d lt (s.gal d).bound).isSome && !s.ltLost d lt

/-- The remaining logical tile of least load, ties to the lower number. -/
def State.leastLoaded (s : State) (d : Nat) (ms : List WMove) : Option Nat :=
  (s.ltsLeft d).foldl (fun b lt => match b with
    | none => some lt
    | some x => if s.ltLoad d ms lt * s.ltMhz d x < s.ltLoad d ms x * s.ltMhz d lt then some lt else some x) none

/-- The bank opposite to that of the last entry of a logical tile. -/
def State.oppositeBank (s : State) (d : Nat) (ms : List WMove) (lt n : Nat) : Nat :=
  match (s.workList d ms lt n).getLast? with
  | some e => 1 - woBank e.1
  | none => 0

/-- The moves of a lost logical tile's entries, in table order, from short integration n on. -/
def State.planMoves (s : State) (d lt n : Nat) : List WMove :=
  let mine := (s.workTable d).filter fun e => (placeOf (s.gal d).moves e.1 e.2).1 == lt
  mine.foldl (fun ms e =>
    match s.leastLoaded d ms with
    | none => ms
    | some x =>
      let m : WMove := ⟨e.1, woLt e.2, x, s.oppositeBank d ms x n, n⟩
      (ms.filter fun y => y.w != e.1) ++ [m]) (s.gal d).moves

/-- The load of every remaining logical tile is at most 0.99 (R274). -/
def State.movesFit (s : State) (d : Nat) (ms : List WMove) : Bool :=
  let r := if s.get (CTE_CFG_FMT d) = 0 then 1 else 4
  s.ltsLeft d != [] && (s.ltsLeft d).all fun lt =>
    decide (r * s.ltLoad d ms lt * s.fsNum d * 100 ≤ 99 * s.nch d * (s.ltMhz d lt * 1000000) * s.fsDen d)

/-- A logical tile loses its tile with the spares exhausted (R281, R548): replacement is requested; TILE_MOVE where its entries
will be moved at the next boundary. `os` are the orders it leaves. -/
def State.loseLt (s : State) (d lt t : Nat) (os : List WOrder) : State :=
  let s1 := s.request 1 d 0
  let fits := s1.movesFit d (s1.planMoves d lt ((s1.gal d).bound + 1))
  let s2 := s1.setGal d { s1.gal d with lost := (s1.gal d).lost ++ [LostTile.mk lt t fits os none] }
  if fits then (s2.raise (GAL_EVENTS_MOVE d)).emit 0x64 d 5 t lt ((s1.gal d).bound + 1) else s2

/-! ### Give-up and loan (R277, R542) -/

/-- The spare is free: not on loan, not given up, not deaccessioned. -/
def State.gtFree (s : State) (d : Nat) : Bool := (s.gal d).loan == none && s.get (UNIT_BKT_STATE d 16) == 0

/-- LOAN and GT_SPARE follow the loan. -/
def State.showGt (s : State) (d : Nat) : State :=
  (s.put (GAL_STATUS_LOAN d) (match (s.gal d).loan with
    | some l => if l.starting then 0x1F else l.lt
    | none => 0x1F)).put (FLT_STATUS_GT_SPARE d) (b2n (s.gtFree d))

/-- The spare powers up for a logical tile, or the spares are exhausted. A registrar failover makes the loan wait (R558). -/
def State.lendTile (s : State) (d t lt : Nat) : State :=
  if s.rg.failover then s.setGal d { s.gal d with waiting := (s.gal d).waiting ++ [t] }
  else if s.gtFree d then
    ((s.setGal d { s.gal d with loan := some (GtLoan.mk lt t (s.isDead ⟨d, 5, t⟩) true true none) }).put
      (TILE_STATUS_STATE d 16) tsBIST).showGt d
  else
    let q := s.tile d t
    (s.setTile d t { q with redo := [], queue := [] }).loseLt d lt t (q.redo.map (fun o => { o with kind := 2 }) ++ q.queue)

/-- Order o began no later than order p: by short integration, then by the place in the list of its logical tile. -/
def State.olderOrder (s : State) (d : Nat) (o p : WOrder) : Bool :=
  let at_ := fun (x : WOrder) => ((s.workList d (s.gal d).moves x.home x.si).takeWhile fun e => e.1 != x.entry).length
  decide (o.si < p.si) || (o.si == p.si && decide (at_ o ≤ at_ p))

/-- The orders of banks that have not passed their seal, oldest first, and such a bank discarded (R275, R284). -/
def Bank.unsealed (k : Bank) : Bool := k.st == bkACCUM || k.st == bkSEAL || k.st == bkSAVED
def Bank.discard (k : Bank) : Bank := if k.unsealed then { k with st := bkDISCARD, cells := [] } else k
def State.unsealed (s : State) (d : Nat) (q : TileSt) : List WOrder :=
  match (if q.b0.unsealed then q.b0.order.toList else []), (if q.b1.unsealed then q.b1.order.toList else []) with
  | [o], [p] => if s.olderOrder d o p then [o, p] else [p, o]
  | a, b => a ++ b

/-- A tile gives up its work (R277): its bucket is charged, a fault opens; what it was accumulating or sealing is discarded for
a rerun; GT16 goes on loan for it. GT16 itself failing ends its loan. -/
def State.tileGivesUp (s : State) (d t code : Nat) : State :=
  let u : UnitId := ⟨d, 5, t⟩
  let q := s.tile d t
  let q1 := { q with b0 := q.b0.discard, b1 := q.b1.discard, redo := q.redo ++ s.unsealed d q, gaveUp := s.now, tested := s.now }
  let s1 := (((s.put (TILE_STATUS_STATE d t) tsGAVEUP).setTile d t q1).put (TILE_FAULT_PASSES d t) 0).charge ⟨d, 5, t⟩ 1 (UNIT_BKT_BKT_B d t)
  let s2 := (s1.setUnitState u 1).beginFault u code
  let dead := decide (s.get (FLT_LIMITS_GIVEUP_THRESH d) < s1.get (UNIT_BKT_BKT_B d t))
  let s3 := if dead then
      ((s2.deaccUnit u 0x65 0 0 0).putBit (GAL_STATUS_DEACC d) t true).put (TILE_STATUS_STATE d t) tsDEACC else s2
  if t = 16 then
    match (s3.gal d).loan with
    | none => s3.showGt d
    | some l =>
      let os := q1.redo.map (fun o => { o with kind := 2 }) ++ q1.queue
      let s4 := (s3.setGal d { s3.gal d with loan := none }).setTile d 16 { q1 with redo := [], queue := [] }
      let q0 := s4.tile d l.tile
      let s5 := s4.setTile d l.tile { q0 with redo := [], queue := [] }
      ((s5.put (TILE_CFG_EN d 16) 0).showGt d).loseLt d l.lt l.tile
        (q0.redo.map (fun o => { o with kind := 2 }) ++ q0.queue ++ os)
  else
    let s4 := if dead ∧ s3.gtFree d = true then s3.advise 0x65 d else s3
    s4.lendTile d t (s.get (TILE_CFG_LOGICAL d t))

/-- A seal's comparisons (R273). A mismatch discards the bank, abandons the other unless it drains (log entry 58), and starts
BIST, which leaves both cleared; the second within WINDOW_H hours makes the tile give up its work at once (R275 to R277). -/
def State.sealBank (s : State) (d t b : Nat) : State :=
  let q := s.tile d t
  let k := q.bank b
  match k.order with
  | none => s
  | some o =>
    match firstBad k.cells (woNc o.entry) with
    | none => s.setTile d t (q.setBank b { k with st := bkDRAIN, acked := 0 })
    | some (j, r, c) =>
      let again := match q.lastMis with
        | some at0 => decide (s.now < at0 + s.get (GAL_CFG_WINDOW_H d) * 3600 * tSec)
        | none => false
      let s1 := (s.setTile d t { q with b0 := q.b0.discard, b1 := q.b1.discard, redo := q.redo ++ s.unsealed d q,
                                        lastMis := some s.now }).bump (TILE_FAULT_MISMATCHES d t)
      let s2 := (((s1.put (TILE_FAULT_LAST_CH d t) (woC0 o.entry + j)).put (TILE_FAULT_LAST_ROW d t) r).put
        (TILE_FAULT_LAST_COL d t) c).put (TILE_FAULT_AGE_H d t) 0
      let s3 := ((s2.bump (GAL_COUNT_MISMATCHES d)).raise (GAL_EVENTS_MISMATCH d)).emitC again 0x60 d 5 t
        (s2.rd (TILE_FAULT d t)).toNat o.si
      if again then s3.tileGivesUp d t 0x60 else s3.put (TILE_STATUS_STATE d t) tsBIST

def execSealBank (d t b : Nat) (s : State) : Host.Outcome State Fault Refusal :=
  if s.tileServes d t = true ∧ b < 2 ∧ ((s.tile d t).bank b).st = bkSEAL then ok (s.sealBank d t b) else ok s

/-- DISCARD ends with the tile's BIST (R268). -/
def TileSt.cleared (q : TileSt) : TileSt :=
  let f := fun (k : Bank) => if k.st = bkDISCARD then Bank.reset else k
  { q with b0 := f q.b0, b1 := f q.b1 }

/-- GT16 takes over a logical tile (R277): its LOGICAL, the orders to rerun from the first folio of their short integrations,
and the queue of the tile that failed. -/
def State.takeOver (s : State) (d : Nat) (l : GtLoan) : State :=
  let q := s.tile d l.tile
  let s1 := (s.setTile d l.tile { q with redo := [], queue := [] }).setGal d
    { (s.setTile d l.tile { q with redo := [], queue := [] }).gal d with loan := some { l with starting := false, fault := l.fault && q.redo != [] } }
  let s2 := (((s1.put (TILE_CFG_EN d l.tile) 0).put (TILE_CFG_LOGICAL d 16) l.lt).put (TILE_CFG_EN d 16) 1).put
    (TILE_STATUS_STATE d 16) tsONLOAN
  let s3 := (s2.requeue d 16 l.lt (q.redo.map (fun o => { o with kind := 1 }) ++ q.queue)).bumpBy (GAL_COUNT_RERUNS d) q.redo.length
  let s4 := (((s3.bump (GAL_COUNT_LOANS d)).raise (GAL_EVENTS_LOAN d)).raise (FLT_EVENTS_LOAN d)).emit 0x62 d 5 l.tile l.lt 0
  (if q.redo = [] then s4.recoverFault ⟨d, 5, l.tile⟩ else s4).showGt d

/-- A tile's BIST ends (R275 to R277): its banks are clear; a pass puts the discarded and abandoned orders back as RERUN, a
failure makes the tile give up its work. For GT16 powering up, a pass starts its loan and a failure exhausts the spares. -/
def execTileBistDone (d t : Nat) (pass : Bool) (s : State) : Host.Outcome State Fault Refusal :=
  if s.present d = false ∨ 17 ≤ t then ok s
  else
    let st := s.get (TILE_STATUS_STATE d t)
    let q := s.tile d t
    let s1 := when (!pass) (·.raise (GAL_EVENTS_BIST_FAIL d)) ((s.setTile d t q.cleared).put (TILE_FAULT_LAST_BIST d t) (b2n pass))
    if st = tsGAVEUP ∨ st = tsDEACC then
      if q.b0.st = bkDISCARD ∨ q.b1.st = bkDISCARD then ok s1 else ok s
    else if st ≠ tsBIST then ok s
    else
      match (s.gal d).loan with
      | some l =>
        if t = 16 ∧ l.starting = true then
          if pass then ok (s1.takeOver d l) else ok (s1.tileGivesUp d 16 0x62)
        else if pass then
          let lt := if t = 16 then l.lt else s.get (TILE_CFG_LOGICAL d t)
          let os := q.redo.map fun o => { o with kind := 1 }
          let s2 := (s1.put (TILE_STATUS_STATE d t) (if t = 16 then tsONLOAN else tsIDLE)).setTile d t { q.cleared with redo := [] }
          let s3 := ((s2.requeue d t lt os).bumpBy (GAL_COUNT_RERUNS d) os.length).raise (GAL_EVENTS_RERUN d)
          ok (forAll os s3 fun s o => s.emit 0x61 d 5 t lt o.si)
        else ok (s1.tileGivesUp d t 0x60)
      | none =>
        if pass then
          let lt := s.get (TILE_CFG_LOGICAL d t)
          let os := q.redo.map fun o => { o with kind := 1 }
          let s2 := (s1.put (TILE_STATUS_STATE d t) tsIDLE).setTile d t { q.cleared with redo := [] }
          let s3 := ((s2.requeue d t lt os).bumpBy (GAL_COUNT_RERUNS d) os.length).raise (GAL_EVENTS_RERUN d)
          ok (forAll os s3 fun s o => s.emit 0x61 d 5 t lt o.si)
        else ok (s1.tileGivesUp d t 0x60)

/-- A bank whose order may go on: it accumulates and the segment of its folio is complete, or it seals. -/
def State.bankReady (s : State) (d : Nat) (k : Bank) : Bool := (k.st == bkACCUM && s.segReady d k.folio) || k.st == bkSEAL

/-- An order without progress for WD_US while its segments are complete, or (`off`) the tile's island without power (R277); a
seal that falls in the same cycle completes first (R284). -/
def execTileWatchdog (d t : Nat) (s : State) (off : Bool := false) : Host.Outcome State Fault Refusal :=
  let q := s.tile d t
  if s.tileServes d t = false then ok s
  else if off then ok (when (s.get (UNIT_BKT_STATE d t) == 0) (·.tileGivesUp d t 0x62) s)
  else if s.bankReady d q.b0 || s.bankReady d q.b1 then
    let s1 := (s.advance (q.progAt + s.get (GAL_CFG_WD_US d) * tUs)).raise (GAL_EVENTS_WATCHDOG d)
    let s2 := forAll [0, 1] s1 fun s b => when (((s.tile d t).bank b).st == bkSEAL) (·.sealBank d t b) s
    ok (when (s2.get (UNIT_BKT_STATE d t) == 0) (·.tileGivesUp d t 0x62) s2)
  else ok s

/-- RETEST_S after the last, a retest of a tile that gave up its work (R279): BIST clears its banks; a pass counts, a failure starts
the count again. -/
def execTileRetest (d t : Nat) (pass : Bool) (s : State) : Host.Outcome State Fault Refusal :=
  if s.present d = true ∧ t < 17 ∧ s.get (UNIT_BKT_STATE d t) = 1 then
    let s0 := s.advance ((s.tile d t).tested + s.get (GAL_CFG_RETEST_S d) * tSec)
    let s1 := (s0.setTile d t { (s0.tile d t).cleared with tested := s0.now }).put (TILE_FAULT_LAST_BIST d t) (b2n pass)
    if pass then ok (s1.bump (TILE_FAULT_PASSES d t))
    else ok ((s1.put (TILE_FAULT_PASSES d t) 0).raise (GAL_EVENTS_BIST_FAIL d))
  else ok s

/-! ### Drained short integrations -/

def TileSt.holds (q : TileSt) (n : Nat) : Bool :=
  (q.queue.any fun o => decide (o.si ≤ n)) || (q.redo.any fun o => decide (o.si ≤ n)) ||
    [q.b0, q.b1].any fun k => k.st != bkFREE && (match k.order with
      | some o => decide (o.si ≤ n)
      | none => false)

/-- Every order of short integrations up to n has drained, reruns included; dropped orders count as drained (R552). -/
def State.galDrained (s : State) (d n : Nat) : Bool :=
  let g := s.gal d
  ((List.range 16).all fun lt => s.ltLost d lt || s.workList d g.moves lt n == [] || decide (n < Store.get (fun _ => 0) g.nextSi lt)) &&
    ((List.range 17).all fun t => !(s.tile d t).holds n) && (g.movedQ.all fun x => decide (n < x.2.si)) &&
    (g.gapWait.all fun x => decide (n < x.2.si)) && (g.lost.all fun x => x.doneAt != none || x.left.all fun o => decide (n < o.si))

/-- SI_DONE moves to the last short integration whose orders have all drained. -/
def State.showDone (s : State) (d : Nat) : Nat → State
  | 0 => s
  | f + 1 =>
    let g := s.gal d
    if g.doneNext < g.bound ∧ s.galDrained d g.doneNext = true then
      ((s.setGal d { g with doneNext := s.siSkip d (g.doneNext + 1) }).put (GAL_PROGRESS_SI_DONE d) g.doneNext).showDone d f
    else s

/-- The return of a logical tile ends once GT16 has completed its orders up to the boundary (R279): GT16 is returned cold. -/
def State.endReturn (s : State) (d : Nat) : State :=
  let g := s.gal d
  match g.loan with
  | none => s
  | some l =>
    match l.returnAt with
    | none => s
    | some r =>
      let q := s.tile d 16
      if q.queue = [] ∧ q.redo = [] ∧ q.b0.st = bkFREE ∧ q.b1.st = bkFREE ∧
          (r < Store.get (fun _ => 0) g.nextSi l.lt ∨ s.workList d g.moves l.lt r = []) ∧
          (g.movedQ.any fun x => x.1 == l.lt && decide (x.2.si ≤ r)) = false ∧
          (g.gapWait.any fun x => x.1 == l.lt && decide (x.2.si ≤ r)) = false then
        let s1 := ((s.setGal d { g with loan := none }).put (TILE_CFG_EN d 16) 0).put (TILE_STATUS_STATE d 16) tsOFF
        (((s1.raise (GAL_EVENTS_RETURN d)).raise (FLT_EVENTS_RETURN d)).emit 0x63 d 5 l.tile l.lt 0).showGt d
      else s

/-- The spare's first rerun has drained: the fault it stands in for is closed (R538). -/
def State.rerunDone (s : State) (d : Nat) : State :=
  match (s.gal d).loan with
  | none => s
  | some l =>
    if l.fault = true then (s.setGal d { s.gal d with loan := some { l with fault := false } }).recoverFault ⟨d, 5, l.tile⟩ else s

/-- The ledger adder has acknowledged every drain record of a bank's order: the bank is FREE (R268). The spare's first rerun
closes the fault it stands in for (R538). -/
def execDrainAck (d t b : Nat) (s : State) : Host.Outcome State Fault Refusal :=
  let q := s.tile d t
  let k := q.bank b
  match k.order with
  | none => ok s
  | some o =>
    if k.st = bkDRAIN ∧ b < 2 ∧ woNc o.entry ≤ k.acked then
      let s1 := (s.setTile d t (q.setBank b .reset)).bump (TILE_COUNT_ORDERS d t) |>.pm d 0x41 t 1
      let s2 := if t = 16 ∧ o.kind = 1 then s1.rerunDone d else s1
      ok ((s2.endReturn d).showDone d 64)
    else ok s

/-! ### Boundaries of short integrations (R279, R281, R550, R552) -/

/-- A tile in service again, its passes counted from 0. -/
def State.tileBack (s : State) (d t : Nat) : State :=
  ((((s.setUnitState ⟨d, 5, t⟩ 0).put (TILE_CFG_EN d t) 1).put (TILE_STATUS_STATE d t) tsIDLE).put (TILE_FAULT_PASSES d t) 0)

/-- The tile has passed RETURN_PASSES consecutive retests, or has been put back in service by REINSTATE. -/
def State.tileDue (s : State) (d t : Nat) : Bool :=
  (s.get (UNIT_BKT_STATE d t) == 1 && decide (s.get (GAL_CFG_RETURN_PASSES d) ≤ s.get (TILE_FAULT_PASSES d t))) ||
    (s.get (UNIT_BKT_STATE d t) == 0 && !s.isDead ⟨d, 5, t⟩)

/-- The loan's return begins (R279): GT16 finishes what belongs to short integrations up to n (or already started), and the
original tile runs the rest. -/
def State.startReturn (s : State) (d n : Nat) : State :=
  match (s.gal d).loan with
  | none => s
  | some l =>
    if l.starting = false ∧ l.returnAt = none ∧ s.tileDue d l.tile = true then
      let q := s.tile d 16
      let r := [q.b0, q.b1].foldl (fun m k => match k.order with
        | some o => if k.st = bkFREE then m else max m o.si
        | none => m) n
      let s1 := (s.tileBack d l.tile).setTile d 16 { q with queue := q.queue.filter fun o => decide (o.si ≤ r) }
      let s2 := s1.setTile d l.tile { s1.tile d l.tile with queue := q.queue.filter fun o => decide (r < o.si) }
      (s2.setGal d { s2.gal d with loan := some { l with returnAt := some r } }).endReturn d
    else s

/-- The spares of a die are not exhausted any more: condition 1 of R554 ends when no logical core and no logical tile is
without its unit. -/
def State.spareCheck (s : State) (d : Nat) : State :=
  if (s.gal d).lost = [] ∧ (s.fc d).gone = [] then s.unrequest 1 d else s

/-- FULL in the header of a retired block whose records up to the boundary are applied (R550). -/
def State.retireBlock (s : State) (d b n : Nat) (force : Bool) : State :=
  let h := s.ledHdr d b
  if force = true ∨ n ≤ hdLAST h ∨ hdBit h hbFRESH = true then s.setLedHdr d b (h.upd hbFULL 1 1) else s

/-- At the boundary after n a lost logical tile's entries move, or are retired; its orders for short integrations up to n run
as MOVED on the tiles that take them, or are dropped when no tile is left (R281, R550, R552). -/
def State.settleLost (s : State) (d n : Nat) (x : LostTile) : State :=
  let os := x.left ++ s.unissued d x.lt n
  let g := s.gal d
  let done := g.lost.map fun y => if y = x then { y with left := [], doneAt := some n } else y
  if x.moves then
    let ms := s.planMoves d x.lt (n + 1)
    let to1 := fun (o : WOrder) =>
      match ms.find? fun m => s.get (WT_ENTRY d m.w) % 2 ^ 46 == o.entry % 2 ^ 46 with
      | some m => (m.dst, { o with entry := withBits o.entry 46 1 m.bank, kind := 2 })
      | none => (x.lt, { o with kind := 2 })
    ((s.setGal d { g with moves := ms, movedQ := g.movedQ ++ os.map to1, lost := done }).put (GAL_STATUS_MOVED d) 1).recoverFault
      ⟨d, 5, x.tile⟩ |>.recoverFault ⟨d, 5, 16⟩
  else
    let blocks := ((s.workTable d).filter fun e => (placeOf g.moves e.1 e.2).1 == x.lt).flatMap fun e => s.entryBlocks d e.2
    let dest := s.leastLoaded d g.moves
    let moved := match dest with
      | some y => os.map fun o => (y, { o with entry := withBits o.entry 46 1 (s.oppositeBank d g.moves y n), kind := 2 })
      | none => []
    let s1 := s.setGal d { g with movedQ := g.movedQ ++ moved, lost := done }
    let s2 := s1.setLed d { s1.led d with retired := (s1.led d).retired ++ blocks.map fun b => (b, n) }
    let s3 := forAll blocks s2 fun s b => s.retireBlock d b n (dest == none || os == [])
    let s4 := ({ s3 with flt := { s3.flt with retired := s3.flt.retired ++ [(d, x.lt, n + 1)] } }).put (FLT_STATUS_RETIRED d) 1
    ((s4.raise (FLT_EVENTS_NARROW d)).emit 0x05 d 5 x.tile x.lt (n + 1)).recoverFault ⟨d, 5, x.tile⟩ |>.recoverFault ⟨d, 5, 16⟩

/-- A lost logical tile whose tile is in service again takes its entries back from n + 1 on (R281, R558): orders already begun
elsewhere finish there as MOVED; retired blocks integrate again from their next clear. -/
def State.unlose (s : State) (d n : Nat) (x : LostTile) : State :=
  let g := s.gal d
  let back := g.moves.filter fun m => m.src == x.lt
  let keep := g.moves.filter fun m => m.src != x.lt
  let late := back.flatMap fun m => ((s.unissued d m.dst n).filter fun o => o.home == x.lt &&
    o.entry % 2 ^ 46 == s.get (WT_ENTRY d m.w) % 2 ^ 46).map fun o => (m.dst, { o with kind := 2 })
  let s1 := forAll (List.range 17) s fun s t =>
    let q := s.tile d t
    s.setTile d t { q with queue := q.queue.filter fun o => o.home != x.lt || decide (o.si ≤ n) }
  let s2 := s1.setGal d { g with
    tiles := (s1.gal d).tiles, moves := keep, lost := g.lost.erase x,
    movedQ := g.movedQ.filter (fun y => y.2.home != x.lt || decide (y.2.si ≤ n)) ++ late,
    nextSi := Store.put (fun _ => 0) g.nextSi x.lt (n + 1), nextIdx := Store.put (fun _ => 0) g.nextIdx x.lt 0 }
  let blocks := ((s.workTable d).filter fun e => woLt e.2 == x.lt).flatMap fun e => s.entryBlocks d e.2
  let s3 := s2.setLed d { s2.led d with retired := (s2.led d).retired.filter fun y => !blocks.contains y.1 }
  let s4 := { s3 with flt := { s3.flt with retired := s3.flt.retired.filter fun y => !(y.1 == d && y.2.1 == x.lt) } }
  let s5 := ((s4.put (FLT_STATUS_RETIRED d) (b2n (s4.flt.retired.any fun y => y.1 == d))).put (GAL_STATUS_MOVED d) (b2n (keep != []))).tileBack d x.tile
  (((s5.raise (GAL_EVENTS_RETURN d)).raise (FLT_EVENTS_RETURN d)).emit 0x63 d 5 x.tile x.lt 0).spareCheck d

/-- The gallery's part of a boundary: returns, then moves and retirements. -/
def State.galBoundary (s : State) (d n : Nat) : State :=
  let s1 := s.startReturn d n
  let s2 := forAll ((s1.gal d).lost.filter fun x => x.doneAt != none && s1.tileDue d x.tile) s1 fun s x => s.unlose d n x
  let s3 := forAll ((s2.gal d).lost.filter fun x => x.doneAt == none) s2 fun s x => s.settleLost d n x
  let s4 := if s3.get (UNIT_BKT_STATE d 16) = 1 ∧ s3.get (GAL_CFG_RETURN_PASSES d) ≤ s3.get (TILE_FAULT_PASSES d 16) then
      ((s3.setUnitState ⟨d, 5, 16⟩ 0).put (TILE_STATUS_STATE d 16) tsOFF).put (TILE_FAULT_PASSES d 16) 0 else s3
  ((s4.setGal d { s4.gal d with bound := s.siSkip d (n + 1) }).showGt d).showDone d 64

/-! ### Starts (R266, R283) -/

/-- A programme starts on a die with short integration n: tiles in service are idle, the scheduler begins at n. A loan
persists. -/
def State.galStart (s : State) (d n : Nat) : State :=
  let g := s.gal d
  let lts := (List.range 16).foldl (fun m lt => Store.put (fun _ => 0) m lt n) ([] : Store Nat)
  let s1 := s.setGal d { g with nextSi := lts, nextIdx := [], movedQ := [], gapWait := [], bound := n, doneNext := n,
                                lost := g.lost.map fun x => { x with left := [] } }
  forAll (List.range 17) s1 fun s t =>
    let q := s.tile d t
    let on := s.get (TILE_CFG_EN d t) == 1 && s.get (UNIT_BKT_STATE d t) == 0
    let s1 := if on ∧ (t < 16 ∨ (s.gal d).loan ≠ none) then
        s.put (TILE_STATUS_STATE d t) (if t = 16 then tsONLOAN else tsIDLE) else s
    s1.setTile d t { TileSt.reset with lastMis := q.lastMis, cycles := q.cycles, gaveUp := q.gaveUp, tested := q.tested }

/-- A run goes on: the scheduler, the boundary and the progress skip the short integrations between the runs. -/
def State.galResume (s : State) (d : Nat) : State :=
  let g := s.gal d
  s.setGal d { g with nextSi := (List.range 16).foldl (fun m lt =>
                        Store.put (fun _ => 0) m lt (s.siSkip d (Store.get (fun _ => 0) g.nextSi lt))) g.nextSi,
                      bound := s.siSkip d g.bound, doneNext := s.siSkip d g.doneNext }

/-- After a warm reset banks, queues and positions are gone, and every short integration that the ledger has not fully applied
runs again from the stint buffer. -/
def State.galWarm (s : State) (d : Nat) : State :=
  let b := (s.gal d).bound
  let s1 := s.galStart d ((s.cte d).relNext)
  s1.setGal d { s1.gal d with bound := max b (s1.gal d).bound }

end Sys2Proof.Machine
end

