-- ==== Sys2Proof/Machine/Ledger.lean ====
section
/-! DEFINITION. The ledger adder (chapter 11): records, the compensated update, gaps, headers, dumps and clears. -/

namespace Sys2Proof.Machine

open Reg

/-! ### The compensated update (R297, R298) -/

/-- |a| > |b|. -/
def F36.magGt (a b : F36) : Bool :=
  match a, b with
  | .sat _, .sat _ => false
  | .sat _, _ => true
  | _, .sat _ => false
  | .zero _, _ => false
  | .fin _ _ _, .zero _ => true
  | .fin _ m e, .fin _ m' e' => decide (e' < e) || (decide (e = e') && decide (m' < m))

/-- The rounded sum and its exact error (R297). -/
def twoSum (a b : F36) : F36 × F36 :=
  let s := a.add b
  let bb := s.sub a
  (s, (a.sub (s.sub bb)).add (b.sub bb))

/-- The same for ordered operands (R297). -/
def fastTwoSum (a b : F36) : F36 × F36 :=
  let x := if b.magGt a then (b, a) else (a, b)
  let s := x.1.add x.2
  (s, x.2.sub (s.sub x.1))

/-- One part of an entry updated with an integer (R297). -/
def updPart (hi lo : F36) (x : Int) : F36 × F36 :=
  let p := splitPart x
  let t := twoSum hi p.1
  fastTwoSum t.1 ((lo.add t.2).add p.2)

/-- COUNT and NSI of a WT word (R288). -/
def wtCount (w : Word) : Nat := w.bits 0 48
def wtNsi (w : Word) : Nat := w.bits 48 24
def wtWord (count nsi : Nat) : Word := BitVec.ofNat 72 (min count (2 ^ 48 - 1) + nsi % 2 ^ 24 * 2 ^ 48)

/-- An entry's three words. -/
structure LedEntry where
  hi : Word
  lo : Word
  wt : Word
deriving DecidableEq, Repr

/-- An entry with a cell's value applied. -/
def LedEntry.upd (e : LedEntry) (x : Acc3) : LedEntry :=
  let r := updPart (f36re e.hi) (f36re e.lo) x.re
  let i := updPart (f36im e.hi) (f36im e.lo) x.im
  ⟨f36c r.1 i.1, f36c r.2 i.2, wtWord (wtCount e.wt + x.n) (wtNsi e.wt + 1)⟩

/-- An entry as a cell's value overwrites it (R298). -/
def LedEntry.first (x : Acc3) : LedEntry :=
  let r := splitPart x.re
  let i := splitPart x.im
  ⟨f36c r.1 i.1, f36c r.2 i.2, wtWord x.n 1⟩

/-- A poisoned entry (R310). -/
def LedEntry.poison (nsi : Nat) : LedEntry := ⟨f36c (.sat false) (.sat false), f36c (.sat false) (.sat false), wtWord 0 nsi⟩

/-! ### Groups of a block (R289, R290) -/

/-- The eight entries of group g of block b. -/
def State.group (s : State) (d b g : Nat) : List LedEntry :=
  let a := s.blkAddr d b + 24 * g
  (List.range 8).map fun i => ⟨s.rdMem d (a + i), s.rdMem d (a + 8 + i), s.rdMem d (a + 16 + i)⟩

/-- A group write, as one unit. -/
def State.setGroup (s : State) (d b g : Nat) (es : List LedEntry) : State :=
  let a := s.blkAddr d b + 24 * g
  ((s.wrMems d a (es.map LedEntry.hi)).wrMems d (a + 8) (es.map LedEntry.lo)).wrMems d (a + 16) (es.map LedEntry.wt)

/-- The NSI of a group's first entry. -/
def State.groupNsi (s : State) (d b g : Nat) : Nat := wtNsi (s.rdMem d (s.blkAddr d b + 24 * g + 16))

/-- A group is poisoned with the NSI its next record needs (R310). -/
def State.poisonGroup (s : State) (d b g nsi : Nat) : State :=
  (((s.setGroup d b g (List.replicate 8 (.poison nsi))).bump (LED_COUNT1_POISONED d)).raise (LED_EVENTS_POISON d)).raise
    (LED_EVENTS_SAT d)

/-! ### The decision (R293, R304, R306) -/

/-- What becomes of a record of short integration n against a header. -/
inductive LedVerdict where
  | apply
  | skip
  | gap
deriving DecidableEq, Repr

def ledDecide (h : Word) (floor n : Nat) : LedVerdict :=
  let dd := (n + 2 ^ 48 - hdLAST h) % 2 ^ 48
  if hdBit h hbFULL then .skip
  else if hdBit h hbFRESH ∨ (hdLAST h < floor ∧ floor ≤ n) then .apply
  else if dd = 1 then .apply
  else if dd = 0 ∨ 2 ^ 47 ≤ dd then .skip
  else .gap

/-- The blocks of a dump set. -/
def State.inSet (s : State) (d x b : Nat) : Bool :=
  decide (s.get (DSET_CFG_FIRST_BLK d x) ≤ b) && decide (b < s.get (DSET_CFG_FIRST_BLK d x) + s.get (DSET_CFG_NBLK d x))

/-- Block b takes no record of short integration n yet: its dump has not read it, or its clear is still due (R304, R306). -/
def State.ledHeld (s : State) (d b n : Nat) : Bool :=
  let q := s.led d
  (q.runs.any fun r => s.inSet d r.set b && decide (r.n < n) && decide (s.get (DSET_CFG_FIRST_BLK d r.set) + r.next ≤ b)) ||
    (q.closes.any fun c => s.inSet d c.1 b && decide (c.2 < n)) || (q.clears.any fun c => c.blk == b && decide (c.n < n)) ||
    q.hdrs.any fun h => h.blk == b

/-! ### Applying a record (R295 to R298, R308 to R310) -/

/-- Entry updates are counted by whole device second. -/
def State.countUpdates (s0 : State) (d n : Nat) : State :=
  let s := s0.pmU d 0x48 n
  let q := s.led d
  if q.rateSec = s.secs then s.setLed d { q with rateCnt := q.rateCnt + n }
  else (s.put (LED_RATE_UPD_PER_S d) (if q.rateSec + 1 = s.secs then q.rateCnt else 0)).setLed d
    { q with rateSec := s.secs, rateCnt := n }

/-- One group of a record outside ZERO; `h` is NSI_LO. The flags are SAT or POISON set here, and WSAT. -/
def State.applyGroup (s : State) (d b h : Nat) (cell : Nat → Acc3) (bad : List Nat) (g : Nat) (fl : Bool × Bool) :
    State × Bool × Bool :=
  if bad.contains g then
    (((s.uncorr d (s.blkAddr d b + 24 * g) 0x17 0).poisonGroup d b g ((h + 1) % 2 ^ 16)).emit 0x6A d 0 0 b g, true, fl.2)
  else
    let e := (s.groupNsi d b g + 2 ^ 16 - h) % 2 ^ 16
    if e = 1 then ((s.bump (LED_COUNT1_TORN d)).raise (LED_EVENTS_TORN d), fl)
    else if e ≠ 0 then ((s.poisonGroup d b g ((h + 1) % 2 ^ 16)).emit 0x6A d 0 0 b g, true, fl.2)
    else
      let es := (s.group d b g).zipIdx.map fun x => x.1.upd (cell (8 * g + x.2))
      let w := es.any fun x => wtCount x.wt == 2 ^ 48 - 1
      ((when w (·.raise (LED_EVENTS_WSAT d)) (s.setGroup d b g es)).countUpdates d 8, fl.1, fl.2 || w)

/-- A group to be updated holds an entry at the limit of NSI (R309). -/
def State.atLimit (s : State) (d b h : Nat) (bad : List Nat) : Bool :=
  (List.range 128).any fun g =>
    !bad.contains g && (s.groupNsi d b g + 2 ^ 16 - h) % 2 ^ 16 == 0 && (s.group d b g).any fun e => wtNsi e.wt == 2 ^ 24 - 1

/-- A record is acknowledged to its bank; a beam record leaves the adder's queue. -/
def State.ackRecord (s : State) (d t b : Nat) : State :=
  if t < 17 then
    let q := s.tile d t
    s.setTile d t (q.setBank b { q.bank b with acked := (q.bank b).acked + 1 })
  else s.setLed d { s.led d with beamQ := (s.led d).beamQ.drop 1 }

/-- A record is skipped: counted and acknowledged. -/
def State.skipRecord (s : State) (d t b : Nat) : State :=
  (((s.bump (LED_COUNT0_SKIPPED d)).raise (LED_EVENTS_SKIP d)).pmU d 0x49 1).ackRecord d t b

/-- Header `w` of block `blk` waits for the acknowledgement of its record's group writes. -/
def State.hdrWaits (s : State) (d t b blk : Nat) (w : Word) : State :=
  s.setLed d { s.led d with hdrs := (s.led d).hdrs ++ [⟨blk, w, t, b⟩] }

/-- Every group of a block whose header was uncorrectable is poisoned. -/
def State.poisonBlock (s : State) (d blk : Nat) : State :=
  forAll (List.range 128) ((s.uncorr d (s.hdrAddr d blk) 0x17 0).emit 0x6A d 0 0 blk 0) fun s g => s.poisonGroup d blk g 1

/-- A block that was zeroed takes the record's cells as they are. -/
def State.firstRecord (s : State) (d blk : Nat) (cell : Nat → Acc3) : State :=
  forAll (List.range 128) s fun s g =>
    (s.setGroup d blk g ((List.range 8).map fun i => .first (cell (8 * g + i)))).countUpdates d 8

/-- Every group of a block takes the record's cells; whether one saturated, and whether a weight did. -/
def State.applyGroups (s : State) (d blk lo : Nat) (bad : List Nat) (cell : Nat → Acc3) : State × Bool × Bool :=
  (List.range 128).foldl (fun (x : State × Bool × Bool) g => x.1.applyGroup d blk lo cell bad g x.2) (s, false, false)

/-- A record meets a block at its limit: FULL, and the record is skipped (R293). -/
def State.blockFull (s : State) (d t b blk : Nat) (h : Word) : State :=
  ((((s.setLedHdr d blk (h.upd hbFULL 1 1)).raise (LED_EVENTS_FULL d)).emit 0x69 d 0 0 blk 0).bump
    (LED_COUNT0_SKIPPED d)).pmU d 0x49 1 |>.ackRecord d t b

/-- A record of short integration n is applied to block `blk`; its header waits for the acknowledgement of the group writes. -/
def State.applyRecord (s : State) (d t b blk n : Nat) (subst badHdr : Bool) (bad : List Nat) (cell : Nat → Acc3) : State :=
  let h := s.ledHdr d blk
  if badHdr then
    (s.poisonBlock d blk).hdrWaits d t b blk
      (BitVec.ofNat 72 (n % 2 ^ 48 + 2 ^ 48 + b2n subst * 2 ^ hbSUBST + 2 ^ hbSAT + 2 ^ hbPOISON))
  else
    let lo := hdNSI h
    let base := n % 2 ^ 48 + (lo + 1) % 2 ^ 16 * 2 ^ 48 + b2n (subst || hdBit h hbSUBST) * 2 ^ hbSUBST
    if hdBit h hbZERO then (s.firstRecord d blk cell).hdrWaits d t b blk (BitVec.ofNat 72 base)
    else if s.atLimit d blk lo bad then s.blockFull d t b blk h
    else
      let r := s.applyGroups d blk lo bad cell
      r.1.hdrWaits d t b blk (BitVec.ofNat 72 (base + b2n (hdBit h hbSAT || r.2.1) * 2 ^ hbSAT +
        b2n (hdBit h hbWSAT || r.2.2) * 2 ^ hbWSAT + b2n (hdBit h hbPOISON || r.2.1) * 2 ^ hbPOISON))

/-- The words of a beam record (R325), and the value of a record's cell i. -/
def BeamRec.words (r : BeamRec) : List Word :=
  [BitVec.ofNat 72 (r.j % 2 ^ 24), BitVec.ofNat 72 (r.si % 2 ^ 48)] ++ (List.range 1024).flatMap fun i =>
    let x := Store.get (fun _ => Acc3.zero) r.cells i
    [cellWord i 0 x, cellWord i 1 x]
def recCell (r : List Word) (i : Nat) : Acc3 :=
  ⟨i36re (r.getD (2 + 2 * i) 0), i36im (r.getD (2 + 2 * i) 0), (r.getD (3 + 2 * i) 0).bits 0 28⟩

/-- The record that a bank, or the beam queue (tile 17), offers: block, short integration, SUBST, cells, as its
words give them (R270). -/
def State.offered (s : State) (d t b : Nat) : Option (Option Nat × Nat × Bool × (Nat → Acc3)) :=
  if t = 17 then
    match (s.led d).beamQ with
    | [] => none
    | r :: _ =>
      if (s.led d).hdrs.any fun h => h.tile == 17 then none
      else
        let j := (r.words.getD 0 0).bits 0 24
        some (if j < s.get (LED_GEOM_BEAM_BLOCKS d) then some (s.get (LED_GEOM_VIS_BLOCKS d) + j) else none,
          (r.words.getD 1 0).bits 0 48, false, recCell r.words)
  else
    let k := (s.tile d t).bank b
    match k.order with
    | none => none
    | some o =>
      if k.st ≠ bkDRAIN ∨ woNc o.entry ≤ k.acked ∨ ((s.led d).hdrs.any fun h => h.tile == t && h.bank == b) = true then none
      else
        let r := s.drainRecord d t k o k.acked
        let w := r.getD 0 0
        some (s.visBlock d (w.bits 0 13) (w.bits 13 13) (w.bits 26 12), (r.getD 1 0).bits 0 48, bit w.toNat 42,
          recCell r)

/-- The hold of a gap record. -/
def State.gapOf (s : State) (d t b : Nat) : Option GapHold := (s.led d).gaps.find? fun h => h.tile == t && h.bank == b

/-- STATE of the adder (LED_STATUS). -/
def State.ledState (s : State) (d v : Nat) : State := s.put (LED_STATUS_STATE d) v

/-- The next complete record of a bank (tile 17: of the beam engine) is decided against its block's header: applied, skipped, or
held, for a clear or dump, or as a gap (R286, R293, R294, R304). `badHdr` and `bad` are the uncorrectable reads met: the header,
and groups. -/
def execDrainRecord (d t b : Nat) (badHdr : Bool) (bad : List Nat) (s : State) : Host.Outcome State Fault Refusal :=
  if s.present d = false ∨ s.runs = false ∨ 17 < t ∨ 1 < b then ok s
  else
    match s.offered d t b with
    | none => ok s
    | some (none, _, _, _) => ok (s.skipRecord d t b)
    | some (some blk, n, subst, cell) =>
      let gaps := (s.led d).gaps.filter fun h => !(h.tile == t && h.bank == b)
      if s.ledHeld d blk n then ok (s.ledState d 2)
      else if badHdr then ok (((s.setLed d { s.led d with gaps := gaps }).ledState d 1).applyRecord d t b blk n subst true bad cell)
      else
        match ledDecide (s.ledHdr d blk) (s.get (LED_FLOOR_SI_FLOOR d)) n with
        | .apply => ok (((s.setLed d { s.led d with gaps := gaps }).ledState d 1).applyRecord d t b blk n subst false bad cell)
        | .skip => ok (((s.setLed d { s.led d with gaps := gaps }).ledState d 0).skipRecord d t b)
        | .gap =>
          if (s.gapOf d t b).isSome then ok (s.ledState d 3)
          else ok ((s.setLed d { s.led d with gaps := (s.led d).gaps ++ [GapHold.mk t b s.now] }).ledState d 3)

/-- A gap record held for GAP_US without its block reaching n - 1 is discarded, and its order goes back to the gallery, to rerun
once the missing records are applied (R294). -/
def execGapTimeout (d t b : Nat) (s : State) : Host.Outcome State Fault Refusal :=
  match s.gapOf d t b, s.offered d t b with
  | some g, some (some blk, n, _, _) =>
    let s1 := s.advance (g.since + s.get (LED_CFG_GAP_US d) * tUs)
    if ledDecide (s.ledHdr d blk) (s.get (LED_FLOOR_SI_FLOOR d)) n ≠ .gap then ok s1
    else
      let s2 := ((s1.setLed d { s1.led d with gaps := (s1.led d).gaps.erase g }).bump (LED_COUNT1_GAPS d)).raise (LED_EVENTS_GAP d)
      let s3 := (s2.emit 0x68 d 0 0 blk n).ledState d 0
      if t = 17 then
        ok (s3.setLed d { s3.led d with beamQ := (s3.led d).beamQ.drop 1 ++ (s3.led d).beamQ.take 1 })
      else
        let q := s3.tile d t
        let lt := s3.get (TILE_CFG_LOGICAL d t)
        let s4 := s3.setTile d t (q.setBank b .reset)
        ok (s4.setGal d { s4.gal d with gapWait := (s4.gal d).gapWait ++ (q.bank b).order.toList.map fun o => (lt, o) })
  | _, _ => ok s

/-- The last short integration applied to every block. -/
def State.showApplied (s : State) (d : Nat) : State :=
  let n := s.get (LED_GEOM_VIS_BLOCKS d) + s.get (LED_GEOM_BEAM_BLOCKS d)
  let hs := (List.range n).map (s.ledHdr d)
  if n = 0 ∨ (hs.any fun h => hdBit h hbFRESH) = true then s
  else s.put (LED_PROGRESS_SI_APPLIED d) ((hs.map hdLAST).foldl min (hdLAST (hs.headD 0)))

/-- The DRAM controller has acknowledged the 128 group writes of the oldest record: its header is written and the record
acknowledged (R296). A retired block becomes FULL with the last record before its retirement (R550). -/
def execHeaderWrite (d : Nat) (s : State) : Host.Outcome State Fault Refusal :=
  match (s.led d).hdrs with
  | [] => ok s
  | h :: rest =>
    let s1 := (s.setLed d { s.led d with hdrs := rest }).setLedHdr d h.blk h.hdr
    let s2 := match (s1.led d).retired.find? fun x => x.1 == h.blk with
      | some x => s1.retireBlock d h.blk x.2 false
      | none => s1
    ok ((((s2.bump (LED_COUNT0_APPLIED d)).ackRecord d h.tile h.bank).showApplied d).ledState d 0)

/-! ### Dumps (R302 to R306) -/

/-- The dump sets that run. -/
def State.showDumps (s : State) (d : Nat) : State :=
  forAll (List.range 16) s fun s x =>
    let on := (s.led d).runs.any fun r => r.set == x
    (s.putBit (LED_STATUS_DUMPING d) x on).put (DSET_LAST_BUSY d x) (b2n on)

/-- The running dump of a set. -/
def State.dumpRun (s : State) (d x : Nat) : Option DumpRun := (s.led d).runs.find? fun r => r.set == x

/-- The first short integration of a set's open interval: after its last close. -/
def State.openFirst (s : State) (d x : Nat) : Nat :=
  match ((s.led d).closes.filter fun c => c.1 == x).getLast? with
  | some c => c.2 + 1
  | none => match s.dumpRun d x with
    | some r => r.n + 1
    | none => s.get (DSET_STATE_FIRST_SI d x)

/-- The interval of a set closes at the end of n (R303); behind a running dump it waits, and a close at the same boundary is the
same dump (R306, R311). -/
def State.closeSet (s : State) (d x n : Nat) : State :=
  let q := s.led d
  match s.dumpRun d x with
  | none =>
    ((s.setLed d { q with runs := q.runs ++ [DumpRun.mk x (s.get (DSET_STATE_FIRST_SI d x)) n 0] }).put
      (DSET_STATE_DONE_BLK d x) 0).showDumps d
  | some r =>
    if r.n = n ∨ q.closes.contains (x, n) = true then s else s.setLed d { q with closes := q.closes ++ [(x, n)] }

/-- The ledger's part of a boundary of short integrations: sets whose interval is full close; where the end fell between two runs,
at the first boundary after it (log entry 22). -/
def State.ledBoundary (s : State) (d n : Nat) : State :=
  forAll (List.range 16) s fun s x =>
    if s.get (DSET_CFG_EN d x) = 1 ∧ s.get (DSET_INT_INTERVAL_SI d x) ≠ 0 ∧
        s.openFirst d x + s.get (DSET_INT_INTERVAL_SI d x) ≤ n + 1 then s.closeSet d x n else s

/-- A dump of a set ends on a die: FIRST_SI moves on, a close that waited follows, and commands that wait for it on every named
die complete (R303, R461). -/
def State.endDump (s : State) (d : Nat) (r : DumpRun) : State :=
  let q := s.led d
  let nx := q.closes.find? fun c => c.1 == r.set
  let s1 := s.setLed d { q with
    runs := q.runs.erase r, beamStale := q.beamStale.filter fun x => !s.inSet d r.set x.1 || decide (r.n < x.2),
    closes := match nx with
      | some c => q.closes.erase c
      | none => q.closes }
  let s2 := ((s1.put (DSET_STATE_FIRST_SI d r.set) (r.n + 1)).put (DSET_LAST_LAST_SI d r.set) r.n).raise (LED_EVENTS_DUMP_DONE d)
  let s3 := { s2 with rg := { s2.rg with running := s2.rg.running.map fun (x : Running) => match x.kind with
    | .dump y ds => if y = r.set then { x with kind := .dump y (ds.erase d) } else x
    | _ => x } }
  let s4 := s3.finish (fun k => match k with
    | .dump _ [] => true
    | _ => false) ccDONE 0
  match nx with
  | some c => s4.closeSet d c.1 c.2
  | none => s4.showDumps d

/-- The flags of a dump unit (R347): what held in its interval, and STALE and SUBST from the header and the counts. -/
def State.dumpFlags (s : State) (d blk first n : Nat) (h : Word) (words : List Word) (pair : Option (Nat × Nat)) : Nat :=
  let a := s.siFirst d first
  let b := s.siFirst d (n + 1)
  let ms := (s.acc.marks.filter fun e => decide (a ≤ e.1) && decide (e.1 < b)).map (·.2)
  let refused := decide ((ms.filter fun m => m.state == 1).length < b - a)
  let low := match pair with
    | none => false
    | some p => (List.range 1024).any fun e =>
      let w := words.getD (24 * (e / 8) + 16 + e % 8) 0
      decide (32 * p.1 + e / 32 < s.nTot d) && decide (32 * p.2 + e % 32 < s.nTot d) &&
        decide (wtCount w < wtNsi w * s.get (CTE_CFG_NSI d))
  let beam := pair.isNone && (s.led d).beamStale.any fun x => x.1 == blk && decide (first ≤ x.2) && decide (x.2 ≤ n)
  let stale := refused || low || beam || hdBit h hbSAT || hdBit h hbPOISON || hdBit h hbFULL || (s.cte d).staleSi.any fun x => decide (first ≤ x) && decide (x ≤ n)
  (ms.foldl (fun f m => f ||| m.flags) 0) ||| b2n stale ||| b2n (hdBit h hbSUBST) * 2

/-- The dump unit of a block as the packer's unit (R346, R349, R354). -/
def State.dumpUnit (s : State) (d : Nat) (r : DumpRun) (blk : Nat) (h : Word) (words : List Word) : PUnit :=
  let vis := decide (blk < s.get (LED_GEOM_VIS_BLOCKS d))
  let j := blk - s.get (LED_GEOM_VIS_BLOCKS d)
  let pi := blk / max 1 (s.get (LED_GEOM_NLOC d))
  let b2 := ((List.range (s.get (GAL_GEOM_NBLK d))).filter fun x => decide (x * (x + 1) / 2 ≤ pi)).getLastD 0
  let ch := ((List.range 4096).find? fun c => s.get (CHMAP_OWNED d c) == 1 &&
    s.get (CHMAP_LCH d c) == blk % max 1 (s.get (LED_GEOM_NLOC d))).getD 0
  let nout := (s.get (BE_DET_CH_CNT_M1 d) + 1) / 2 ^ s.get (BE_DET_CHAV_LOG2 d)
  let w1 := if vis then (pi - b2 * (b2 + 1) / 2) + b2 * 2 ^ 13 + ch * 2 ^ 26
    else j % 2 ^ 24 + nout * 2 ^ 24 + s.get (BE_DET_CHAV_LOG2 d) * 2 ^ 37
  let a := s.siFirst d r.first
  let b := s.siFirst d (r.n + 1)
  let acc := (s.acc.marks.filter fun e => decide (a ≤ e.1) && decide (e.1 < b) && e.2.state == 1).map fun e => e.2.seq
  { typ := if vis then 1 else 2, ring := s.get (DSET_CFG_RING d r.set), code := 0,
    flags := s.dumpFlags d blk r.first r.n h words (if vis then some (pi - b2 * (b2 + 1) / 2, b2) else none), start := s.gridTime d (4096 * a),
    canFirst := acc.headD s.nvm.nextCan, canCnt := acc.length, keyA := r.n, keyB := blk,
    payload := [BitVec.ofNat 72 (r.set + d * 2 ^ 4 + blk * 2 ^ 7 + s.get (DSET_CFG_CLEAR d r.set) * 2 ^ 31), BitVec.ofNat 72 w1,
      BitVec.ofNat 72 r.first, BitVec.ofNat 72 r.n, h] ++ words,
    src := .dump d r.set r.n blk }

/-- The block's poisoned groups are replaced in a dump read (R310): with an unreadable header every group and the header. -/
def State.dumpPoison (s : State) (d blk n : Nat) (badHdr : Bool) (bad : List Nat) : State :=
  if badHdr then
    let s1 := (s.uncorr d (s.hdrAddr d blk) 0x17 0).emit 0x6A d 0 0 blk 0
    (forAll (List.range 128) s1 fun s g => s.poisonGroup d blk g 1).setLedHdr d blk
      (BitVec.ofNat 72 (n % 2 ^ 48 + 2 ^ 48 + 2 ^ hbSAT + 2 ^ hbPOISON))
  else if bad = [] then s
  else
    let h := s.ledHdr d blk
    let s1 := forAll (bad.filter fun g => decide (g < 128)) s fun s g =>
      ((s.uncorr d (s.blkAddr d blk + 24 * g) 0x17 0).poisonGroup d blk g (hdNSI h)).emit 0x6A d 0 0 blk g
    s1.setLedHdr d blk ((h.upd hbSAT 1 1).upd hbPOISON 1 1)

/-- The next block of a set's running dump, once its LAST_SI is n or it is FULL, is read and handed to the packer (R303); in
CLEAR mode it then waits for its clear. -/
def execDumpUnit (d dset : Nat) (badHdr : Bool) (bad : List Nat) (s : State) : Host.Outcome State Fault Refusal :=
  match s.dumpRun d dset with
  | none => ok s
  | some r =>
    let blk := s.get (DSET_CFG_FIRST_BLK d dset) + r.next
    let h := s.ledHdr d blk
    if s.get (DSET_CFG_NBLK d dset) ≤ r.next then ok (s.endDump d r)
    else if badHdr = true ∨ hdBit h hbFULL = true ∨ (hdLAST h = r.n ∧ hdBit h hbFRESH = false) then
      let s1 := s.dumpPoison d blk r.n badHdr bad
      let u := s1.dumpUnit d r blk (s1.ledHdr d blk) (s1.rdMems d (s1.blkAddr d blk) 3072)
      let q := s1.led d
      let r1 := { r with next := r.next + 1 }
      let cl := if s1.get (DSET_CFG_CLEAR d dset) = 1 then q.clears ++ [ClearDue.mk blk dset r.n false] else q.clears
      let s2 := ({ s1 with units := s1.units ++ [u] }.setLed d
        { q with runs := q.runs.map fun x => if x = r then r1 else x, clears := cl }).put (DSET_STATE_DONE_BLK d dset) r1.next
      if s.get (DSET_CFG_NBLK d dset) ≤ r1.next then ok (s2.endDump d r1) else ok s2
    else ok s

/-- The packer reports a dump unit committed, or already in its ring (R304, R305). -/
def State.dumpCommitted (s : State) (d set n blk : Nat) : State :=
  let q := s.led d
  s.setLed d { q with clears := q.clears.map fun c => if c.blk = blk ∧ c.set = set ∧ c.n = n then { c with committed := true } else c }

/-- A committed block's header is cleared; a retired block is FULL again (R304, R550). -/
def execLedgerClear (d blk : Nat) (s : State) : Host.Outcome State Fault Refusal :=
  let q := s.led d
  match q.clears.find? fun c => c.blk == blk && c.committed with
  | none => ok s
  | some c =>
    let h := s.ledHdr d blk
    let w := (2 ^ hbZERO + hdLAST h + b2n (hdBit h hbFRESH) * 2 ^ hbFRESH)
    let full := q.retired.any fun x => x.1 == blk && decide (x.2 ≤ hdLAST h)
    ok ((s.setLed d { q with clears := q.clears.erase c }).setLedHdr d blk (BitVec.ofNat 72 (w + b2n full * 2 ^ hbFULL)))

/-- DUMP (R306, R461): on every die that the mask names the set's interval closes at the end of the last short integration
that ended by the grain. -/
def State.doDump (s : State) (c : CmdHdr) (dies dset : Nat) : State :=
  s.inMode c 4 fun s =>
    let ds := setBitsOf dies 8
    if s.nvm.progOn = false then s.complete c ccWRONGMODE 0
    else if ds = [] ∨ 16 ≤ dset ∨ (ds.any fun d => !s.present d || s.get (DSET_CFG_EN d dset) == 0) = true then s.complete c ccBADARG 0
    else
      let last := fun (d : Nat) => (s.siOf d (s.folioAt d (c.grain * tUs : Nat)).toNat : Int) - 1
      if (ds.any fun d => match s.dumpRun d dset with
          | some r => decide ((r.n : Int) ≠ last d)
          | none => false) = true then s.complete c ccBUSY 0
      else
        let go := ds.filter fun d => (s.dumpRun d dset).isSome || decide ((s.get (DSET_STATE_FIRST_SI d dset) : Int) ≤ last d)
        if go = [] then s.complete c ccDONE 0
        else (forAll go s fun s d => s.closeSet d dset (last d).toNat).run c (.dump dset go)

def execDump (c : CmdHdr) (dies dset : Nat) (s : State) : Host.Outcome State Fault Refusal := ok (s.doDump c dies dset)

/-! ### Starts (R292, R293, R305) -/

/-- Every header of the die's ledger region is written FRESH and ZERO (R292). -/
def State.ledInit (s : State) (d : Nat) : State :=
  forAll (List.range (s.get (LED_GEOM_VIS_BLOCKS d) + s.get (LED_GEOM_BEAM_BLOCKS d))) (s.setLed d .reset) fun s b =>
    s.setLedHdr d b (BitVec.ofNat 72 (2 ^ hbZERO + 2 ^ hbFRESH))

/-- A programme starts or resumes with short integration n: SI_FLOOR, and on a first start FIRST_SI of every set (R293). -/
def State.ledStart (s : State) (d n : Nat) (first : Bool) : State :=
  let s1 := s.put (LED_FLOOR_SI_FLOOR d) n
  if first then forAll (List.range 16) s1 fun s x => (s.put (DSET_STATE_FIRST_SI d x) n).put (DSET_STATE_DONE_BLK d x) 0 else s1

/-- A warm reset forgets headers due and gaps held; dumps and clears go on from the headers (R305, R311). -/
def State.ledWarm (s : State) (d : Nat) : State := s.setLed d { s.led d with hdrs := [], gaps := [] }

/-- DUMP_ON_SWITCH (R307): every set of the die is dumped as by command, at the end of n. -/
def State.dumpOnSwitch (s : State) (d n : Nat) : State :=
  if s.get (LED_CFG_DUMP_ON_SWITCH d) = 0 then s
  else forAll (List.range 16) s fun s x =>
    if s.get (DSET_CFG_EN d x) = 1 ∧ s.openFirst d x ≤ n then s.closeSet d x n else s

end Sys2Proof.Machine
end

