-- ==== Sys2Proof/Machine/Trig.lean ====
section
/-! DEFINITION. The phase seed of R321 (cosine and sine of an angle in turns, scaled and floored) and integer square roots. -/

namespace Sys2Proof.Machine

/-- π · 2^160, rounded down. -/
def piFix : Nat := 4591442807048218921384805199743311128454155024418

/-- The fixed-point unit. -/
def trigOne : Nat := 2 ^ 160

/-- Sums of the terms x^n / n! from the n-th on, alternating: (cosine part, sine part). `t` is the n-th term; the even terms
carry the sign of `sc`, the odd ones that of `ss`. -/
def trigSum : Nat → Nat → Nat → Nat → Int × Int
  | 0, _, _, _ => (0, 0)
  | f + 1, n, t, x =>
    let r := trigSum f (n + 1) (t * x / trigOne / (n + 1)) x
    let sg : Int := if n % 4 < 2 then 1 else -1
    if n % 2 = 0 then (r.1 + sg * t, r.2) else (r.1, r.2 + sg * t)

/-- Cosine and sine of (r / d) quarter turns, r ≤ d, in units of 2^-160. -/
def trigQuarter (r d : Nat) : Int × Int := trigSum 64 0 trigOne (r * piFix / (2 * d))

/-- floor(v · 2^17), clamped to 2^17 - 1; the terms dropped never reach the guard of 2^-130. -/
def seedPart (v : Int) : Int := min (2 ^ 17 - 1) ((v + 2 ^ 30) / 2 ^ 143)

/-- seed(n / d) of R321, 0 ≤ n / d < 1. -/
def seed (n d : Nat) : Int × Int :=
  let q := 4 * n / d
  let r := 4 * n % d
  let c := if r = 0 then ((trigOne : Int), 0) else trigQuarter r d
  match q % 4 with
  | 0 => (seedPart c.1, seedPart c.2)
  | 1 => (seedPart (-c.2), seedPart c.1)
  | 2 => (seedPart (-c.1), seedPart (-c.2))
  | _ => (seedPart c.2, seedPart (-c.1))

/-- The integer square root of n found from bit k - 1 down, above r. -/
def isqrtFrom (n : Nat) : Nat → Nat → Nat
  | 0, r => r
  | k + 1, r => if (r + 2 ^ k) * (r + 2 ^ k) ≤ n then isqrtFrom n k (r + 2 ^ k) else isqrtFrom n k r

/-- The integer square root, rounded down. -/
def isqrt (n : Nat) : Nat := isqrtFrom n (Nat.log2 n / 2 + 1) 0

end Sys2Proof.Machine
end

