-- ==== Sys2Proof/Machine/Beam.lean ====
section
/-! DEFINITION. The beam engine and its triggers (chapter 12), the boundary of short integrations, and the release of a stint
slot, which waits for the gallery, the ledger, the beam engine and the packer (R241, R336). -/

namespace Sys2Proof.Machine

open Reg

def State.be (s : State) (d : Nat) : BeSt := Store.get (fun _ => BeSt.reset) s.bes d
def State.setBe (s : State) (d : Nat) (v : BeSt) : State := { s with bes := Store.put (fun _ => BeSt.reset) s.bes d v }

/-! ### Descriptors (R316 to R318) -/

/-- A descriptor's nine words, and the fields of word 0. -/
def dEN (w : List Word) : Bool := (w.getD 0 0).bits 0 1 == 1
def dKIND (w : List Word) : Nat := (w.getD 0 0).bits 1 2
def dVOLT (w : List Word) : Bool := (w.getD 0 0).bits 3 1 == 1
def dDET (w : List Word) : Bool := (w.getD 0 0).bits 4 1 == 1
def dSET (w : List Word) : Nat := (w.getD 0 0).bits 5 6
def dCHF (w : List Word) : Nat := (w.getD 0 0).bits 11 12
def dCHN (w : List Word) : Nat := (w.getD 0 0).bits 23 12 + 1
def dVSHIFT (w : List Word) : Nat := (w.getD 0 0).bits 35 5
def dRING (w : List Word) : Nat := (w.getD 0 0).bits 40 13
def dDSLOT (w : List Word) : Nat := (w.getD 0 0).bits 53 9
def dDHALF (w : List Word) : Nat := (w.getD 0 0).bits 62 1
def dBATCH (w : List Word) : Nat := (w.getD 0 0).bits 63 6

/-- What of word 0 changes only at a boundary of short integrations (R318): everything but VSHIFT and RING. -/
def dShape (w : List Word) : Nat := withBits (withBits (w.getD 0 0).toNat 35 5 0) 40 13 0

def State.descWords (s : State) (d b : Nat) : List Word := (List.range 9).map fun w => s.get (DESC_WORD d b w) |> BitVec.ofNat 72
def State.pendWords9 (s : State) (d b : Nat) : List Word := (List.range 9).map fun w => s.get (PEND_WORD d b w) |> BitVec.ofNat 72

/-- The descriptors in use; one of the reserved KIND 3 forms no beam (log entry 59). -/
def State.activeDescs (s : State) (d : Nat) : List (Nat × List Word) :=
  (((List.range 1024).map fun b => (b, s.descWords d b)).filter fun x => dEN x.2 && dKIND x.2 != 3)

/-- The pending copy is written with its effective grain (R318). -/
def State.setPendDesc (s : State) (d b grain : Nat) (ws : List Word) : State :=
  let s1 := forAll (List.range 9) s fun s w => s.put (PEND_WORD d b w) (ws.getD w 0).toNat
  (s1.put (PEND_CTRL_EFF_GRAIN d b) grain).put (PEND_CTRL_PENDING d b) 1

/-- BEAM_SET (R318, R461). -/
def State.doBeamSet (s : State) (c : CmdHdr) (d b : Nat) (ws : List Word) : State :=
  s.inMode c 6 fun s =>
    if s.part.dies ≤ d then s.complete c ccUNSUPPORTED 0
    else if 1024 ≤ b then s.complete c ccBADARG 0
    else (s.setPendDesc d b c.grain ws).complete c ccDONE 0

def execBeamSet (c : CmdHdr) (d b : Nat) (ws : List Word) (s : State) : Host.Outcome State Fault Refusal := ok (s.doBeamSet c d b ws)

/-! ### Input sets (R315) -/

/-- The inputs of set x as the registers give it. -/
def State.setInputs (s : State) (d x : Nat) : List Nat :=
  (List.range 4).flatMap fun w =>
    (List.range (s.get (SET_CNT_A d x w))).map (s.get (SET_FIRST_A d x w) + ·) ++
    (List.range (s.get (SET_CNT_B d x w))).map (s.get (SET_FIRST_B d x w) + ·)

/-- Its inputs in folio k, without those dropped. -/
def State.setAt (s : State) (d x k : Nat) : List Nat :=
  (s.setInputs d x).filter fun i => ((s.be d).drops.any fun y => y.1 == x && y.2.1 == i && decide (y.2.2.1 ≤ k ∧ k < y.2.2.2)) == false

/-- A set changed by a dropped input at or before folio k. -/
def State.setCut (s : State) (d x k : Nat) : Bool := (s.be d).drops.any fun y => y.1 == x && decide (y.2.2.1 ≤ k ∧ k < y.2.2.2)

/-- The correlator inputs of die d that are input slot i of die e of this device. -/
def State.beInputs (s : State) (d e i : Nat) : List Nat :=
  let rank := ((s.enabledSlots e).filter fun x => decide (x < i)).length
  (s.srcList d).filterMap fun x =>
    if s.get (CTE_SRC_DEV d x) = s.ownDev ∧ s.get (CTE_SRC_DIE d x) = e ∧ rank < s.get (SRC_IN_IN_CNT d x) then
      some (s.get (SRC_IN_IN_BASE d x) + rank) else none

/-- Input slot i of die e is deaccessioned from folio k on: every die drops it from its sets (R315). -/
def State.beDrop (s : State) (e i k : Nat) : State :=
  forAll s.dies s fun s d =>
    let ins := s.beInputs d e i
    forAll (List.range 64) s fun s x =>
      let hit := (s.setInputs d x).filter ins.contains
      if hit = [] then s
      else
        let s1 := s.setBe d { s.be d with drops := (s.be d).drops ++ hit.map fun j => (x, j, k, 2 ^ 48) }
        when (s1.setAt d x k == []) (·.raise (BE_EVENTS_SET_EMPTY d)) s1

/-- Input slot i of die e rejoins at folio k: the sets that name it hold it again from there on (log entry 27). -/
def State.beJoin (s : State) (e i k : Nat) : State :=
  forAll s.dies s fun s d =>
    let ins := s.beInputs d e i
    let back := fun (y : Nat × Nat × Nat × Nat) =>
      if ins.contains y.2.1 = true ∧ y.2.2.2 = 2 ^ 48 then (y.1, y.2.1, y.2.2.1, k) else y
    s.setBe d { s.be d with drops := (s.be d).drops.map back }

/-! ### Delays (R317, R320) -/

/-- u of R317 at the midpoint of update interval k, in units of 2^-32 s. -/
def State.beU (s : State) (d k : Nat) (w : List Word) : Int :=
  let t0 := (w.getD 1 0).bits 0 40 * 1000000000 + (w.getD 1 0).bits 40 30
  let ns : Int := (s.gridT0 d : Int) - t0
  let j := 4096 * s.get (BE_CFG_UPD_FOLIOS d) * (2 * k + 1)
  (ns * (2 * s.fsNum d : Nat) + (j * s.fsDen d * 1000000000 : Nat)) * 2 ^ 32 / ((2 * s.fsNum d * 1000000000 : Nat) : Int)

/-- Coordinate x of a descriptor at u, in units of 2^-136 m (near field) or 2^-150 (far field). -/
def coordAt (w : List Word) (x : Nat) (u : Int) : Int :=
  let a := w.getD (3 + 2 * x) 0
  let b := w.getD (4 + 2 * x) 0
  signed 36 (a.bits 0 36) * 2 ^ 120 + u * (signed 36 (a.bits 36 36) * 2 ^ 80 +
    u * (signed 36 (b.bits 0 36) * 2 ^ 40 + u * signed 36 (b.bits 36 36)))

/-- Input i's position in units of 2^-16 m. -/
def State.posOf (s : State) (d i x : Nat) : Int :=
  signed 32 (if x = 0 then (s.rd (GEOM0 d i)).bits 0 32 else if x = 1 then (s.rd (GEOM0 d i)).bits 32 32 else (s.rd (GEOM1 d i)).bits 0 32)

/-- A distance whose square is n in units of 2^-272 m², truncated to 2^-24 m: any value that a relative error of at most 2^-40
allows before the truncation (R320). -/
def distance (n : Nat) : Nat :=
  let lo := isqrt (n * (2 ^ 40 - 1) ^ 2 / 2 ^ 304)
  let hi := isqrt (n * (2 ^ 40 + 1) ^ 2 / 2 ^ 304)
  lo + Config.distPick n % (hi - lo + 1)

/-- τ for input i and a descriptor in update interval k, in units of 2^-48 s (R320). -/
def State.tau (s : State) (d k i : Nat) (w : List Word) : Int :=
  let u := s.beU d k w
  let slow : Int := ((w.getD 2 0).bits 0 48 : Nat)
  let inst := signed 32 ((s.rd (GEOM1 d i)).bits 32 32)
  if dKIND w = 1 then
    let sq := fun (f : Nat → Int) => ((List.range 3).map fun x => (f x * f x).toNat).foldl (· + ·) 0
    let a := distance (sq fun x => coordAt w x u - s.posOf d i x * 2 ^ 120)
    let b := distance (sq fun x => coordAt w x u)
    (((a : Int) - b) * slow + inst * 2 ^ 40) / 2 ^ 32
  else
    let dot := (List.range 3).foldl (fun (m : Int) x => m + coordAt w x u * s.posOf d i x) 0
    (-(dot * slow) + inst * 2 ^ 182) / 2 ^ 174

/-- Delays computed and busy cycles are counted by whole device second (BE_LOAD). -/
def State.beRate (s : State) (d delays cycles : Nat) : State :=
  let q := s.be d
  if q.rateSec = s.secs then s.setBe d { q with delays := q.delays + delays, cycles := q.cycles + cycles }
  else
    let whole := decide (q.rateSec + 1 = s.secs)
    let mhz := max 1 (s.get (ISL_F_NOW_MHZ (32 * d + 17)))
    let s1 := (s.put (BE_LOAD_DELAYS d) (if whole then q.delays else 0)).put (BE_LOAD_BUSY d)
      (if whole then min 65535 (q.cycles * 65536 / (mhz * 1000000)) else 0)
    s1.setBe d { q with rateSec := s.secs, delays := delays, cycles := cycles }

/-- The pending copy of descriptor b becomes active at the update point of folio f: its effective grain is reached, and a change
of shape waits for a boundary of short integrations (R318). -/
def State.activate (s : State) (d f b : Nat) : State :=
  let g := grainOf (s.gridTime d (4096 * f))
  if s.get (PEND_CTRL_PENDING d b) = 1 ∧ grainCome g (s.get (PEND_CTRL_EFF_GRAIN d b)) = true ∧
      (dShape (s.pendWords9 d b) = dShape (s.descWords d b) ∨ f = s.siFirst d (s.siOf d f)) then
    (forAll (List.range 9) s fun s w => s.put (DESC_WORD d b w) (s.get (PEND_WORD d b w))).put (PEND_CTRL_PENDING d b) 0
  else s

/-- The update interval that the beam engine computes next. -/
def State.nextInt (s : State) (d : Nat) : Nat :=
  match (s.be d).ints.getLast? with
  | some x =>
    if s.beforeRun d ((x.k + 1) * s.get (BE_CFG_UPD_FOLIOS d)) then max (x.k + 1) (s.runAfter d ((x.k + 1) * s.get (BE_CFG_UPD_FOLIOS d)) / max 1 (s.get (BE_CFG_UPD_FOLIOS d)))
    else x.k + 1
  | none => (s.cte d).first / max 1 (s.get (BE_CFG_UPD_FOLIOS d))

/-- Update interval k begins: pending descriptors become active, and every delay is evaluated at its midpoint (R318, R320). -/
def execUpdateInterval (d k : Nat) (s : State) : Host.Outcome State Fault Refusal :=
  if s.present d = false ∨ s.runs = false ∨ s.get (BE_CFG_UPD_FOLIOS d) = 0 ∨ k ≠ s.nextInt d ∨ s.get (BE_STATUS_STATE d) = 3 then ok s
  else
    let f := k * s.get (BE_CFG_UPD_FOLIOS d)
    let s1 := forAll (List.range 1024) s fun s b => s.activate d f b
    let ds := s1.activeDescs d
    let pairs := ds.flatMap fun x => if dKIND x.2 = 2 then [] else (s1.setAt d (dSET x.2) f).map fun i => (x.1, i, x.2)
    let taus := pairs.foldl (fun m p => Store.put (fun _ => (0 : Int)) m (65536 * p.1 + p.2.1) (s1.tau d k p.2.1 p.2.2)) []
    let q := s1.be d
    ok ((s1.setBe d { q with ints := q.ints ++ [BeInt.mk k ds taus] }).pmU d 0x51 pairs.length |>.beRate d pairs.length 0)

/-! ### Weights (R321) -/

/-- A complex product of integers. -/
def cmulI (a b : Int × Int) : Int × Int := (a.1 * b.1 - a.2 * b.2, a.1 * b.2 + a.2 * b.1)

/-- φ turned n channels on by ρ. -/
def turn : Nat → Int × Int → Int × Int → Int × Int
  | 0, p, _ => p
  | n + 1, p, r =>
    let x := cmulI p r
    turn n (x.1 / 2 ^ 17, x.2 / 2 ^ 17) r

/-- The correlator channel of rank l on this die. -/
def State.chanOf (s : State) (d l : Nat) : Nat :=
  ((List.range 4096).find? fun c => s.get (CHMAP_OWNED d c) == 1 && s.get (CHMAP_LCH d c) == l).getD 0

/-- The weight of input i for the j-th channel formed, of a descriptor whose first rank is `chf` and whose delay is `tau`. -/
def State.weight (s : State) (d i chf j : Nat) (tau : Int) : Int × Int :=
  let den := s.fsDen d * s.nch d
  let c := s.chanOf d (chf + j / 64 * 64)
  let a : Int := signed 64 (s.get (BE_FREQ_FREQ0 d)) * (den : Nat) + (c * s.fsNum d * 2 ^ 16 : Nat)
  let th := unsigned 32 (tau * a / ((2 ^ 32 * den : Nat) : Int))
  let full := 2 ^ 48 * den
  let rho := seed ((tau * (s.fsNum d : Nat)) % (full : Nat)).toNat full
  let phi := turn (j % 64) (seed th (2 ^ 32)) rho
  let g := s.rd (GAIN d i)
  let x := cmulI (signed 16 (g.bits 0 16), signed 16 (g.bits 16 16)) phi
  (clampInt (-2048) 2047 (x.1 / 2 ^ 20), clampInt (-2048) 2047 (x.2 / 2 ^ 20))

/-! ### Passes (R322 to R325, R330) -/

/-- The update interval that holds folio k. -/
def State.intOf (s : State) (d k : Nat) : Option BeInt :=
  (s.be d).ints.find? fun x => x.k == k / max 1 (s.get (BE_CFG_UPD_FOLIOS d))

/-- The descriptors of pass p in folio k: a batch (p below 64), or the incoherent descriptor p - 64. -/
def State.passDescs (s : State) (d p k : Nat) : List (Nat × List Word) :=
  match s.intOf d k with
  | none => []
  | some x => x.descs.filter fun y =>
    if p < 64 then decide (dKIND y.2 < 2) && dBATCH y.2 == p else dKIND y.2 == 2 && y.1 + 64 == p

/-- The first folio that the beam engine takes of short integration n. -/
def State.beFirst (s : State) (d n : Nat) : Nat := s.runAfter d (s.siFirst d n)

/-- The next position of a pass; one that has not begun starts at the first folio of the short integration. -/
def State.passPos (s : State) (d p : Nat) : BePos :=
  Store.get (fun _ => ⟨s.beFirst d (s.be d).si, 0, 0⟩) (s.be d).pos p

/-- A value enters the detectors that watch a descriptor (R330). -/
def State.feedDets (s : State) (d b j k t val : Nat) (bad : Bool) : State :=
  forAll ((List.range 64).filter fun m => s.get (DET_CFG0_EN d m) == 1 && s.get (DET_CFG0_DESC d m) == b &&
      decide (s.get (DET_CFG0_DCH_FIRST d m) ≤ j) && decide (j ≤ s.get (DET_CFG0_DCH_FIRST d m) + s.get (DET_CFG0_DCH_CNT_M1 d m))) s
    fun s m =>
      let q := s.be d
      let e := Store.get (fun _ => DetSt.reset) q.dets m
      let x := (s.ns d * k + t) / (s.get (DET_CFG0_TAVG_M1 d m) + 1)
      let a := Store.get (fun _ => TrigAcc.zero) e.sums x
      let e1 := { e with sums := Store.put (fun _ => TrigAcc.zero) e.sums x ⟨a.sum + (if bad then 0 else val), a.cnt + 1, a.bad || bad⟩ }
      s.setBe d { q with dets := Store.put (fun _ => DetSt.reset) q.dets m e1 }

/-- A detected value: added to its slot's half and channel unless flagged (R324, R325). -/
def State.detect (s : State) (d j : Nat) (w : List Word) (val n : Nat) : State :=
  let q := s.be d
  let key := (dDHALF w * 512 + dDSLOT w) * 4096 + j / 2 ^ s.get (BE_DET_CHAV_LOG2 d)
  let a := Store.get (fun _ => Acc3.zero) q.sums key
  s.setBe d { q with sums := Store.put (fun _ => Acc3.zero) q.sums key ⟨a.re + val, 0, a.n + n⟩ }

/-- A flagged value would have contributed to channel j of a detected output: its block's products carry STALE (R347). -/
def State.flagBeam (s : State) (d j : Nat) (w : List Word) : State :=
  let q := s.be d
  let nout := (s.get (BE_DET_CH_CNT_M1 d) + 1) / 2 ^ s.get (BE_DET_CHAV_LOG2 d)
  let b := (dDSLOT w * nout + j / 2 ^ s.get (BE_DET_CHAV_LOG2 d)) / 1024
  if q.flagged.contains b then s else s.setBe d { q with flagged := q.flagged ++ [b] }

/-- The voltage unit of a folio as the packer's unit (R323, R346, R347, R350). -/
def State.voltUnit (s : State) (d b k : Nat) (w : List Word) (xs : List Samp) : PUnit :=
  let m := s.mark k
  let n := ceilDiv xs.length 4
  let data := packWords 1 n (xs ++ List.replicate 3 .stale)
  { typ := 3, ring := dRING w, code := 0,
    flags := m.flags ||| b2n (xs.any Samp.flag || m.state != 1) ||| b2n (s.setCut d (dSET w) k) * 64,
    start := s.gridTime d (4096 * k), canFirst := if m.state = 1 then m.seq else s.nvm.nextCan, canCnt := if m.state = 1 then 1 else 0,
    keyA := k, keyB := b,
    payload := [BitVec.ofNat 72 (b + d * 2 ^ 10 + dCHF w * 2 ^ 13 + dCHN w * 2 ^ 25 + s.ns d * 2 ^ 38), BitVec.ofNat 72 k] ++ data,
    src := .volt d b k }

/-- A voltage sample joins the descriptor's folio; the last of the folio hands the unit to the packer (R323). -/
def State.voltSample (s : State) (d b k : Nat) (w : List Word) (x : Samp) (last : Bool) : State :=
  let q := s.be d
  let xs := Store.get (fun _ => []) q.volt b ++ [(x.re, x.im, x.flag)]
  if last then
    let s1 := s.setBe d { q with volt := Store.put (fun _ => []) q.volt b [] }
    { s1 with units := s1.units ++ [s1.voltUnit d b k w (xs.map fun y => ⟨y.1, y.2.1, y.2.2⟩)] }
  else s.setBe d { q with volt := Store.put (fun _ => []) q.volt b xs }

/-- One descriptor of a pass for its j-th channel at time t of folio k. -/
def State.formBeam (s : State) (d k j t : Nat) (last : Bool) (taus : Store Int) (b : Nat) (w : List Word) : State :=
  let ins := s.setAt d (dSET w) k
  let xs := ins.map fun i => (i, s.segSample d k i (dCHF w + j) t)
  let bad := ins == [] || xs.any fun x => x.2.flag
  if dKIND w = 2 then
    let ok_ := xs.filter fun x => !x.2.flag
    let v := (ok_.map fun x => (x.2.re * x.2.re + x.2.im * x.2.im).toNat).foldl (· + ·) 0
    when (dDET w) (fun s => (when bad (·.flagBeam d j w) (s.detect d j w v ok_.length)).feedDets d b j k t v bad) s
  else
    let y := xs.foldl (fun (a : Int × Int) x =>
      if x.2.flag then a
      else
        let p := cmulI (s.weight d x.1 (dCHF w) j (Store.get (fun _ => (0 : Int)) taus (65536 * b + x.1))) (x.2.re, x.2.im)
        (a.1 + p.1, a.2 + p.2)) (0, 0)
    let v : Samp := if bad then .stale else ⟨requant 127 (dVSHIFT w) y.1, requant 127 (dVSHIFT w) y.2, false⟩
    let s1 := when (!bad && (requantClamps 127 (dVSHIFT w) y.1 || requantClamps 127 (dVSHIFT w) y.2)) (·.raise (BE_EVENTS_REQ_SAT d)) s
    let s2 := if dVOLT w then s1.voltSample d b k w v last else s1
    let pw := (v.re * v.re + v.im * v.im).toNat
    when (dDET w) (fun s => (if bad then s.flagBeam d j w else s.detect d j w pw 1).feedDets d b j k t pw bad) s2

/-- The registers that R337 saves. -/
def State.beStats (s : State) (d : Nat) : List (Nat × Word) :=
  ((List.range 64).flatMap fun m => [DET_STAT0 d m, DET_STAT1 d m]).map (fun a => (a, s.rd a)) ++
    (List.range 16).map fun g => (GRP_STATE d g, s.rd (GRP_STATE d g))

/-- The save of R337. -/
def State.beSave (s : State) (d : Nat) : State :=
  let q := s.be d
  s.setBe d { q with save := ⟨q.dets, q.groups, s.beStats d, q.lastEmit⟩ }

/-- The short integration starts over from its first folio with the detectors restored; outputs in formation are gone (R337,
R338). -/
def State.beRestart (s : State) (d : Nat) : State :=
  let q := s.be d
  let s1 := forAll q.save.stats s fun s x => s.wr x.1 x.2
  s1.setBe d { q with pos := [], volt := [], sums := [], flagged := [], dets := q.save.dets, groups := q.save.groups }

/-- A failed residue check (R338): charged; within the bucket the short integration reruns, beyond it the beam engine is
deaccessioned (R537). -/
def State.beMismatch (s : State) (d : Nat) : State :=
  let u : UnitId := ⟨d, 6, 0⟩
  let n := (s.be d).si
  let s1 := ((s.bump (BE_COUNT_MISMATCH d)).raise (BE_EVENTS_MISMATCH d)).charge ⟨d, 6, 0⟩ 0 (UNIT_BKT_BKT_A d 35)
  let perm := decide (s.get (FLT_LIMITS2_BE_THRESH d) < s1.get (UNIT_BKT_BKT_A d 35))
  let s2 := s1.emitC perm 0x6C d 6 0 n 0
  if perm then
    let s3 := ((s2.beginFault u 0x6E).deaccUnit u 0x6E n 0 0).raise (BE_EVENTS_DEACC d)
    let s4 := (s3.put (BE_STATUS_STATE d) 3).setBe d { s3.be d with pos := [], volt := [], sums := [] }
    (s4.request 5 d 0).recoverFault u
  else
    let s3 := ((s2.beRestart d).bump (BE_COUNT_RERUNS d)).raise (BE_EVENTS_RERUN d)
    ((s3.setBe d { s3.be d with again := some n }).put (BE_STATUS_STATE d) 2).emit 0x6D d 6 0 n 0

/-- A pass's next channel and time: folio by folio, channel by channel, in ascending time. -/
def BePos.next (p : BePos) (chn ns : Nat) : BePos :=
  if p.time + 1 < ns then { p with time := p.time + 1 }
  else if p.chan + 1 < chn then { p with time := 0, chan := p.chan + 1 }
  else ⟨p.folio + 1, 0, 0⟩

/-- A pass forms its next channel and time (R322 to R325): it runs within the short integration that the beam engine works on,
on complete segments, with the descriptors active in the folio's update interval. `bad`: the residue check fails. -/
def execBeamPass (d p : Nat) (bad : Bool) (s : State) : Host.Outcome State Fault Refusal :=
  let x := s.passPos d p
  let n := (s.be d).si
  if s.present d = false ∨ s.runs = false ∨ s.get (BE_STATUS_STATE d) = 3 ∨ s.siFirst d (n + 1) ≤ x.folio ∨ s.segReady d x.folio = false then ok s
  else
    match s.intOf d x.folio, s.passDescs d p x.folio with
    | some iv, e :: es =>
      let chn := dCHN e.2
      let last := decide (x.time + 1 = s.ns d) && decide (x.chan + 1 = chn)
      if bad then ok (s.beMismatch d)
      else
        let s1 := forAll (e :: es) s fun s y => s.formBeam d x.folio x.chan x.time last iv.taus y.1 y.2
        let q := s1.be d
        let s2 := s1.setBe d { q with pos := Store.put (fun _ => ⟨s.beFirst d n, 0, 0⟩) q.pos p (x.next chn (s.ns d)) }
        let s3 := if s2.get (BE_STATUS_STATE d) = 0 then s2.put (BE_STATUS_STATE d) 1 else s2
        ok (s3.beRate d 0 (ceilDiv (s.setAt d (dSET e.2) x.folio).length 64 * (if s.get (CTE_CFG_FMT d) = 0 then 1 else 4)))
    | _, _ => ok s

/-- The passes of the short integration that runs: those with descriptors in its first folio. -/
def State.passes (s : State) (d : Nat) : List Nat :=
  match s.intOf d (s.beFirst d (s.be d).si) with
  | none => []
  | some iv => (iv.descs.map fun y => if dKIND y.2 < 2 then dBATCH y.2 else y.1 + 64).foldl (fun l p => if l.contains p then l else l ++ [p]) []

/-- Every pass has taken the short integration's last folio; every segment of it is complete. -/
def State.passesDone (s : State) (d : Nat) : Bool :=
  let e := s.siFirst d ((s.be d).si + 1)
  decide (e ≤ (s.cte d).segNext) &&
    ((s.intOf d (s.beFirst d (s.be d).si)).isSome || s.get (BE_CFG_UPD_FOLIOS d) == 0) && (s.passes d).all fun p => decide (e ≤ (s.passPos d p).folio)

/-- The detected records of the short integration (R325), in ascending block order. -/
def State.beRecords (s : State) (d : Nat) : List BeamRec :=
  let q := s.be d
  let nout := (s.get (BE_DET_CH_CNT_M1 d) + 1) / 2 ^ s.get (BE_DET_CHAV_LOG2 d)
  let get := fun (half e : Nat) => Store.get (fun _ => Acc3.zero) q.sums ((half * 512 + e / max 1 nout) * 4096 + e % max 1 nout)
  (List.range (s.get (LED_GEOM_BEAM_BLOCKS d))).map fun j =>
    BeamRec.mk j q.si ((List.range 1024).foldl (fun m i =>
      let e := 1024 * j + i
      if e < s.get (BE_DET_NSLOT d) * nout then
        Store.put (fun _ => Acc3.zero) m i ⟨(get 0 e).re, (get 1 e).re, max (get 0 e).n (get 1 e).n⟩
      else m) [])

/-- The beam engine closes its short integration n: detected records to the ledger, the save of R337, and the next one. A
deaccessioned beam engine makes no record. -/
def State.beBoundary (s : State) (d n : Nat) : State :=
  let q := s.be d
  if s.get (BE_STATUS_STATE d) = 3 then s.setBe d { q with si := max q.si (s.siSkip d (n + 1)) }
  else if q.si = n ∧ s.passesDone d = true then
    let s1 := s.setLed d { s.led d with
      beamQ := (s.led d).beamQ ++ s.beRecords d,
      beamStale := (s.led d).beamStale ++ q.flagged.map fun j => (s.get (LED_GEOM_VIS_BLOCKS d) + j, n) }
    let low := s.beFirst d (s.siSkip d (n + 1)) / max 1 (s.get (BE_CFG_UPD_FOLIOS d))
    let s2 := s1.setBe d { q with sums := [], pos := [], flagged := [], si := s.siSkip d (n + 1), again := none, ints := q.ints.filter fun x => decide (low ≤ x.k) }
    let s3 := (s2.put (BE_STATUS_SI_DONE d) n).beSave d
    if s3.get (BE_STATUS_STATE d) = 2 then s3.put (BE_STATUS_STATE d) 1 else s3
  else s

/-! ### Triggers (R330 to R335) -/

/-- The trigger samples of a detector whose every value has entered, ascending. -/
def State.trigReady (s : State) (d m : Nat) (e : DetSt) : Option (Nat × TrigAcc) :=
  e.sums.find? fun x => (s.get (DET_CFG0_TAVG_M1 d m) + 1) * (s.get (DET_CFG0_DCH_CNT_M1 d m) + 1) ≤ x.2.cnt

/-- The time of trigger sample x of detector m (R330). -/
def State.trigTime (s : State) (d m x : Nat) : Nat := s.gridTime d (s.nch d * x * (s.get (DET_CFG0_TAVG_M1 d m) + 1))

/-- The members' crossings that a fire at time T would use. -/
def State.fireSet (s : State) (d g T : Nat) : List Crossing :=
  (Store.get (fun _ => []) (s.be d).groups g).filter fun x => decide (T ≤ x.time + s.get (GRP_CFG_WIN_US d g) * tUs) && decide (x.time ≤ T)

/-- Distinct detectors among crossings. -/
def distinctDets (l : List Crossing) : List Nat := l.foldl (fun m x => if m.contains x.det then m else m ++ [x.det]) []

/-- The crossings that a fire used leave the group's list. -/
def State.useCrossings (s : State) (d g : Nat) (used : List Crossing) : State :=
  let l := (Store.get (fun _ => []) (s.be d).groups g).filter fun x => !used.contains x
  s.setBe d { s.be d with groups := Store.put (fun _ => []) (s.be d).groups g l }

/-- A fire of group g is counted, and is the last one emitted. -/
def State.countFire (s : State) (d g time : Nat) : State :=
  (((s.setBe d { s.be d with lastEmit := time }).bump (BE_COUNT_FIRES d)).raise (BE_EVENTS_FIRE d)).bump (GRP_STATE_FIRES d g)

/-- The vitrine of a fire, if VIT_EN has one taken: its number, and the outcome (0 opened, 1 joined, 2 refused, 3 not asked). -/
def State.fireVit (s : State) (d g time : Nat) : State × Nat × Nat :=
  let w := s.window time (s.get (GRP_VIT_PRE_US d g) * tUs) (s.get (GRP_VIT_POST_US d g) * tUs)
  if s.get (GRP_CFG_VIT_EN d g) = 1 then
    let s := s.serveVits (grainOf s.now)
    let t := s.trigger time 0 w.1 w.2 (s.get (GRP_CFG_VIT_FIRST d g)) (s.get (GRP_CFG_VIT_CNT d g))
    match t.2 with
    | some n => (t.1.put (GRP_STATE_LAST_VIT d g) n, n, if t.1.acc.nextVit = s.acc.nextVit then 1 else 0)
    | none => (t.1, 0, 2)
  else (s, 0, 3)

/-- The EVT packet of a fire of group g: its earliest crossing `first`, its detectors, and the vitrine. -/
def State.fireEvt (s : State) (d g : Nat) (used : List Crossing) (first : Crossing) (vit res : Nat) : Evt :=
  let mask := (distinctDets used).foldl (fun m x => m + 2 ^ x) 0
  let tm := packTime first.time
  ⟨0x6B, d, 6, 0, 0, 0, s.now, s.flagsNow, s.nvm.nextCan,
    [BitVec.ofNat 72 (g + d * 2 ^ 4 + used.length % 128 * 2 ^ 7 + vit % 2 ^ 32 * 2 ^ 14 + res * 2 ^ 46),
     BitVec.ofNat 72 tm, BitVec.ofNat 72 (bitsOf tm 72 24), BitVec.ofNat 72 mask,
     BitVec.ofNat 72 (first.p % 2 ^ 32 + first.mean % 2 ^ 40 * 2 ^ 32), BitVec.ofNat 72 first.var]⟩

/-- Group g fires with these crossings (R334, R335): its EVT, and with VIT_EN a vitrine; nothing that a restart already
emitted is emitted again (R337). -/
def State.fire (s : State) (d g : Nat) (used : List Crossing) : State :=
  let s1 := s.useCrossings d g used
  match used with
  | [] => s1
  | c :: cs =>
    let first := cs.foldl (fun a x => if x.time < a.time then x else a) c
    if first.time ≤ (s.be d).lastEmit then s1
    else
      let r := (s1.countFire d g first.time).fireVit d g first.time
      r.1.queueEvt (r.1.fireEvt d g used first r.2.1 r.2.2)

/-- A crossing of detector m (R333): its group fires when enough distinct detectors have crossed within the window (R334). -/
def State.crossing (s : State) (d m : Nat) (c : Crossing) : State :=
  let g := s.get (DET_CFG1_GROUP d m)
  let s1 := s.bump (DET_STAT0_CROSSINGS d m)
  if s1.get (GRP_CFG_EN d g) = 1 then
    let q := s1.be d
    let s2 := s1.setBe d { q with groups := Store.put (fun _ => []) q.groups g (Store.get (fun _ => []) q.groups g ++ [c]) }
    let used := s2.fireSet d g c.time
    if s2.get (GRP_CFG_MIN_M1 d g) + 1 ≤ (distinctDets used).length then s2.fire d g used else s2
  else s1

/-- The statistics of a detector after a valid trigger sample (R331): above, MEAN, VAR, frozen run. -/
def trigStats (p mean var a k16 frozen fmax : Nat) : Bool × Nat × Nat × Nat :=
  let dd : Int := (p * 256 : Nat) - (mean : Int)
  let above := decide (0 < dd) && decide (((k16 * k16 * var * 256 : Nat) : Int) < dd * dd)
  let upd := !above || decide (fmax ≤ frozen)
  let m1 : Int := if upd then (mean : Int) + dd / 2 ^ a else mean
  let v1 : Int := if upd then (var : Int) + (dd * dd / 2 ^ 16 - var) / 2 ^ a else var
  (above, m1.toNat, v1.toNat, if above then frozen + 1 else 0)

/-- The folio in which the last value of trigger sample x of detector m lies. -/
def State.trigEnd (s : State) (d m x : Nat) : Nat := ((x + 1) * (s.get (DET_CFG0_TAVG_M1 d m) + 1) - 1) / max 1 (s.ns d)

/-- It is the turn of trigger sample x of detector m: crossings are evaluated in folio order, those of one folio by group and
detector (R334, R339). Every pass is past the folio. -/
def State.trigTurn (s : State) (d m x : Nat) : Bool :=
  let place := fun (y z : Nat) => s.trigEnd d y z * 1024 + s.get (DET_CFG1_GROUP d y) * 64 + y
  (decide (s.trigEnd d m x < s.beFirst d (s.be d).si) || (s.passes d).all fun p => decide (s.trigEnd d m x < (s.passPos d p).folio)) &&
    (List.range 64).all fun y => s.get (DET_CFG0_EN d y) == 0 ||
      match s.trigReady d y (Store.get (fun _ => DetSt.reset) (s.be d).dets y) with
      | none => true
      | some z => decide (place m x ≤ place y z.1)

/-- Detector m takes its next complete trigger sample in its turn (R330 to R334). A sample with a flagged or excluded value is skipped, and
one that the run began within is dropped. -/
def execTriggerSample (d m : Nat) (s : State) : Host.Outcome State Fault Refusal :=
  let q := s.be d
  let e := Store.get (fun _ => DetSt.reset) q.dets m
  if s.present d = false ∨ 64 ≤ m ∨ s.get (DET_CFG0_EN d m) = 0 then ok s
  else
    match s.trigReady d m e with
    | none => ok s
    | some (x, acc) =>
      if s.trigTurn d m x = false then ok s
      else
      let keep := fun (e : DetSt) => { e with sums := e.sums.filter fun y => decide (x < y.1), next := x + 1 }
      let set := fun (s : State) (e : DetSt) => s.setBe d { s.be d with dets := Store.put (fun _ => DetSt.reset) (s.be d).dets m e }
      if acc.bad then ok (set s (keep e))
      else if e.valid = 0 then
        ok ((set s { keep e with valid := 1 }).put (DET_STAT0_MEAN d m) (acc.sum * 256) |>.put (DET_STAT1_VAR d m) 0)
      else
        let mean := s.get (DET_STAT0_MEAN d m)
        let var := s.get (DET_STAT1_VAR d m)
        let a := s.get (DET_CFG0_ALPHA_LOG2 d m)
        let was := s.get (DET_STAT0_ABOVE d m)
        let r := trigStats acc.sum mean var a (s.get (DET_CFG0_K16 d m)) e.frozen (s.get (DET_CFG1_FREEZE_MAX d m))
        let far := match e.last with
          | none => true
          | some l => decide (l + s.get (DET_CFG1_HOLDOFF d m) ≤ x)
        let hit := s.get (DET_STAT0_ARMED d m) == 1 && r.1 && far && (was == 0 || e.last != none)
        let s1 := set s { keep e with valid := e.valid + 1, frozen := r.2.2.2, last := if hit then some x else e.last }
        let s2 := ((s1.put (DET_STAT0_MEAN d m) r.2.1).put (DET_STAT1_VAR d m) r.2.2.1).put (DET_STAT0_ABOVE d m) (b2n r.1)
        let s3 := if 4 * 2 ^ a ≤ e.valid + 1 then s2.put (DET_STAT0_ARMED d m) 1 else s2
        ok (if hit then s3.crossing d m ⟨m, s.trigTime d m x, acc.sum, mean, var⟩ else s3)

/-! ### The boundary of short integrations, and the release of stint slots -/

/-- Short integration n of die d ends. The gallery and the ledger take the boundary once, in order; the beam engine takes it
once its passes have completed n (the command may come again for it). -/
def execShortIntegrationBoundary (d n : Nat) (s : State) : Host.Outcome State Fault Refusal :=
  if s.present d = false ∨ s.runs = false then ok s
  else
    let s1 := if n = (s.gal d).bound ∧ s.nvm.progOn = true then
        ((s.advance (s.gridTime d (4096 * s.siFirst d (n + 1)))).galBoundary d n).ledBoundary d n else s
    ok (s1.beBoundary d n)

/-- Short integration n needs its stint slot no more: its segments are all handed over, every order of n has drained and been
applied, the beam engine is past it with its records applied, and the packer has committed its voltage units (R241, R336). -/
def State.stintFree (s : State) (d n : Nat) : Bool :=
  decide (s.siFirst d (n + 1) ≤ (s.cte d).segNext) && s.galDrained d n && decide (n < (s.be d).si) &&
    ((s.led d).beamQ.all fun r => decide (n < r.si)) &&
    s.units.all fun u => match u.src with
      | .volt e _ k => !(e == d && decide (s.siOf d k ≤ n))
      | _ => true

/-- The CTE releases the slot of the next short integration. -/
def execStintSlotRelease (d n : Nat) (s : State) : Host.Outcome State Fault Refusal :=
  if s.present d = true ∧ s.runs = true ∧ n = (s.cte d).relNext ∧ s.stintFree d n = true then ok (s.releaseStint d n) else ok s

/-! ### Starts (R332, R337) -/

/-- A programme starts on a die at folio k, without history. -/
def State.beStart (s : State) (d k : Nat) : State :=
  let s1 := forAll (List.range 64) s fun s m => ((((s.put (DET_STAT0_MEAN d m) 0).put (DET_STAT0_ARMED d m) 0).put
    (DET_STAT0_ABOVE d m) 0).put (DET_STAT1_VAR d m) 0)
  (s1.setBe d { BeSt.reset with si := s.siOf d k }).beSave d

/-- A programme resumes: detectors and groups go on; crossings older than WIN_US count no more (R339). -/
def State.beResume (s : State) (d : Nat) : State :=
  let q := s.be d
  let groups := q.groups.map fun e => (e.1, e.2.filter fun x => decide (s.now ≤ x.time + s.get (GRP_CFG_WIN_US d e.1) * tUs))
  s.setBe d { q with si := s.siSkip d q.si, groups := groups.filter fun e => e.2 != [] }

/-- After a warm reset the beam engine starts over from the oldest short integration it has not completed (R337). -/
def State.beWarm (s : State) (d : Nat) : State :=
  let s1 := s.beRestart d
  s1.setBe d { s1.be d with lastEmit := (s1.be d).save.lastEmit }

end Sys2Proof.Machine
end

