-- ==== Sys2Proof/Machine/Memory.lean ====
section
/-! DEFINITION. The DRAM code and controllers, the loss of a span die, and the on-die fabric (R53 to R58, R138, R408 to R427,
R545, R546). -/

namespace Sys2Proof.Machine

open Reg

/-! ### The field GF(2^16) of R55 -/

/-- Multiplication by α. -/
def gfX (a : Nat) : Nat := if a % 2 ^ 16 < 2 ^ 15 then a % 2 ^ 16 * 2 else (a % 2 ^ 16 * 2) ^^^ 0x1100B

/-- The product, over the low `n` bits of `b`. -/
def gfMulN : Nat → Nat → Nat → Nat
  | 0, _, _ => 0
  | n + 1, a, b => (if b % 2 = 1 then a % 2 ^ 16 else 0) ^^^ gfMulN n (gfX a) (b / 2)

def gfMul (a b : Nat) : Nat := gfMulN 16 a b

/-- α to the power n. -/
def gfPow : Nat → Nat
  | 0 => 1
  | n + 1 => gfX (gfPow n)

/-- `a` to the power 2^(n+1) - 2. -/
def gfInvN : Nat → Nat → Nat
  | 0, _ => 1
  | n + 1, a => gfMul (gfMul a a) (gfInvN n (gfMul a a))

/-- The inverse: a^(2^16 - 2). -/
def gfInv (a : Nat) : Nat := gfInvN 15 a

/-- Syndrome i of an error pattern: positions with their 16-bit values. -/
def syndrome (es : List (Nat × Nat)) (i : Nat) : Nat := es.foldl (fun m e => m ^^^ gfMul e.2 (gfPow (e.1 * i))) 0

/-- The coefficients of the product of (x + X_k) over the other positions, lowest first. -/
def polyOf : List Nat → List Nat
  | [] => [1]
  | x :: xs =>
    let p := polyOf xs
    List.zipWith (· ^^^ ·) (0 :: p) (p.map (gfMul x) ++ [0])

/-- The value at position x that explains the syndromes when exactly the positions `x :: others` are in error. -/
def errorValue (syn : List Nat) (x : Nat) (others : List Nat) : Nat :=
  let num := (List.zipWith gfMul (polyOf (others.map gfPow)) syn).foldl (· ^^^ ·) 0
  let den := (others.map fun y => gfPow x ^^^ gfPow y).foldl gfMul 1
  gfMul num (gfInv den)

/-- The error pattern at given positions that explains the first syndromes. -/
def errorsAt (syn : List Nat) (ps : List Nat) : List (Nat × Nat) := ps.map fun x => (x, errorValue syn x (ps.filter (· != x)))

/-- What a decoder makes of a burst (R56, R58): nothing wrong, a pattern to take out with the positions located, or
uncorrectable. -/
inductive Decoded where
  | clean
  | fix (es : List (Nat × Nat))
  | uncorr
deriving DecidableEq, Repr

/-- Two positions explain the syndromes. -/
def pairFits (syn : List Nat) (p q : Nat) : Bool :=
  let x := gfPow p
  let y := gfPow q
  let s := fun i => syn.getD i 0
  (s 2 ^^^ gfMul (s 1) (x ^^^ y) ^^^ gfMul (s 0) (gfMul x y)) == 0 && (s 3 ^^^ gfMul (s 2) (x ^^^ y) ^^^ gfMul (s 1) (gfMul x y)) == 0

/-- The decoder without erasures: at most two code symbols. -/
def decodeBurst (syn : List Nat) : Decoded :=
  if (syn.all fun x => x == 0) = true then .clean
  else match (List.range 40).find? fun p => (List.range 3).all fun i => syn.getD (i + 1) 0 == gfMul (syn.getD i 0) (gfPow p) with
    | some p => .fix [(p, syn.getD 0 0)]
    | none =>
      match ((List.range 40).flatMap fun p => (List.range p).map fun q => (q, p)).find? fun x => pairFits syn x.1 x.2 with
      | some (q, p) => .fix (errorsAt syn [q, p])
      | none => .uncorr

/-- The generator's coefficients but its leading 1, lowest first: the product of (x + α^i), i = 0 to 3 (R55). -/
def genPoly : List Nat := (polyOf [1, gfPow 1, gfPow 2, gfPow 3]).take 4

/-- A data symbol enters the division by the generator. -/
def rsShift (r : List Nat) (m : Nat) : List Nat :=
  let f := m ^^^ r.getD 3 0
  List.zipWith (fun a g => a ^^^ gfMul f g) (0 :: r.take 3) genPoly

/-- The nibble of device n in beat t of the burst that carries eight span words (R54). -/
def beatNibble (ws : List Word) (n t : Nat) : Nat := (ws.getD (t / 2) 0).bits (36 * (t % 2) + 4 * n) 4

/-- D(n, b) of a data device (R55). -/
def codeSymbol (ws : List Word) (n b : Nat) : Nat :=
  (List.range 4).foldl (fun m k => m + beatNibble ws n (4 * b + k) * 2 ^ (4 * k)) 0

/-- The data symbols c_4 to c_39 of a burst, lowest first. -/
def dataSymbols (ws : List Word) : List Nat := (List.range 36).map fun j => codeSymbol ws (j / 4) (j % 4)

/-- The check symbols D(9, b), the remainder of x^4 m(x) (R55). -/
def checkSymbols (ws : List Word) : List Nat := (dataSymbols ws).reverse.foldl rsShift [0, 0, 0, 0]

/-- The codeword of eight span words as it travels, c_0 first. -/
def codeword (ws : List Word) : List Nat := checkSymbols ws ++ dataSymbols ws

/-- The syndromes of a burst read with errors. -/
def readSyndromes (ws : List Word) (es : List (Nat × Nat)) : List Nat :=
  let c := (codeword ws).zipIdx.map fun x => (x.2, x.1)
  (List.range 4).map (syndrome (c ++ es))

/-- The code symbols of a device: its data symbols, or for device 9 the check symbols (R55). -/
def devSymbols (n : Nat) : List Nat := (List.range 4).map fun b => if n = 9 then b else 4 + 4 * n + b

/-- The device of a code symbol. -/
def symDevice (p : Nat) : Nat := if p < 4 then 9 else (p - 4) / 4

/-- The decoder with a deaccessioned device's symbols as erasures (R58). -/
def decodeErased (syn : List Nat) (n : Nat) : Decoded := .fix ((errorsAt syn (devSymbols n)).filter fun e => e.2 != 0)

/-- A pattern of code symbols as changes of the eight span words of a burst (R54). -/
def flipWords (es : List (Nat × Nat)) (ws : List Word) : List Word :=
  (es.filter fun e => decide (4 ≤ e.1)).foldl (fun ws e =>
    let n := (e.1 - 4) / 4
    let b := (e.1 - 4) % 4
    (List.range 4).foldl (fun ws k =>
      let w := (4 * b + k) / 2
      let o := 36 * ((4 * b + k) % 2) + 4 * n
      ws.set w ((ws.getD w 0) ^^^ BitVec.ofNat 72 (bitsOf e.2 (4 * k) 4 * 2 ^ o))) ws) ws

/-! ### Channels (R410) -/

def burstChan (a : Nat) : Nat := a % 2
def burstSub (a : Nat) : Nat := a / 2 % 2

/-- The deaccessioned device of a subchannel, 15 for none. -/
def erasedF (d c u : Nat) : RF := if u = 0 then DRC_CH_STATUS_ERASED0 d c else DRC_CH_STATUS_ERASED1 d c

/-- The channel serves reads and writes. -/
def State.chanReady (s : State) (d c : Nat) : Bool := s.present d && decide (c < 2) && s.get (DRC_CH_STATUS_STATE d c) == 2

/-- Bursts of a die (R410). -/
def State.dieBursts (s : State) (d : Nat) : Nat := 4 * (s.get (DRC_CH_CFG_CAP_GIB d 0) * 2 ^ 30 / 2 / 80)

/-- An ACTIVATE chooses its row for neighbour refresh with probability 2^-K (R418). -/
def State.activateRow (s : State) (d : Nat) : State :=
  let r := s.draw (s.get (DRC_MAINT_K d))
  if r.1 = 0 then r.2.setDrc d { r.2.drc d with neighbours := (r.2.drc d).neighbours + 1 } else r.2

/-! ### Loss of a span die (R28, R29, R138, R412, R615) -/

/-- The die's open faults and its overlap end with it. -/
def State.dropFaults (s : State) (d : Nat) : State :=
  let s1 := { s with flt := { s.flt with opened := s.flt.opened.filter fun f => f.die != d } }
  match s.flt.overlap.find? fun o => o.1 == d with
  | none => s1
  | some o =>
    (({ s1 with flt := { s1.flt with overlap := s1.flt.overlap.erase o } }).emit 0x0A d 0 0 o.2 (s.nvm.nextCan - 1)).unrequest 6 d

/-- Commands that wait for a die do not wait for it any longer: a dump completes without it, and a snapshot takes its slots as
0 (R585). -/
def State.dropWaits (s : State) (d : Nat) : State :=
  let s1 := { s with rg := { s.rg with running := s.rg.running.map fun (x : Running) => match x.kind with
    | .dump y ds => { x with kind := .dump y (ds.erase d) }
    | _ => x } }
  let s2 := s1.finish (fun k => match k with
    | .dump _ [] => true
    | _ => false) ccDONE 0
  { s2 with snaps := s2.snaps.map fun (x : Snap) =>
      if bit x.dies d = true ∧ (x.got.any fun g => g.1 == d) = false then
        { x with got := x.got ++ [(d, (setBitsOf x.ctrs 64).map fun _ => (0 : Word))] } else x }

/-- DIE_LOST for die d, once, with the affected range of R615. -/
def State.tellLost (s : State) (d : Nat) : State :=
  if s.flt.told.contains d then s
  else ({ s with flt := { s.flt with told := s.flt.told ++ [d] } }).emit 0x09 d 11 0 (s.firstNeeded d) (s.nvm.nextCan - 1)

/-- Undecided consignments with a record of die d are refused. -/
def State.refuseWith (s : State) (d : Nat) : State :=
  forAll ((s.acc.cons.filter fun c => c.recs.any fun r => r.die == d).map Cons.k) s fun s k => s.failRec k d rsJOURNAL

/-- Die d's units stand still: lanes, links and chains OFF. -/
def State.dieOff (s : State) (d : Nat) : State := ((s.ingestStop d).chainOff (2 * d)).chainOff (2 * d + 1)

/-- Die d's work ends with it. -/
def State.endDie (s : State) (d : Nat) : State :=
  let s1 := ((((s.tellLost d).refuseWith d).dropFaults d).dropWaits d).dieOff d
  ({ s1 with flt := { s1.flt with lost := s1.flt.lost ++ [d], hosted := s1.flt.hosted.erase d } }).request 2 d 0

/-- The mirror that the partner holds of die d becomes the die's memory; what die d held of the partner's is gone with it. -/
def State.fromMirror (s : State) (d : Nat) : State :=
  let of := fun (e : Nat) (k : Nat) => k / 2 ^ 40 == e
  { s with dram := (Store.keep s.mirrors (of d)).foldl (fun m (e : Nat × Word) => Store.put dramInit m e.1 e.2)
             (Store.keep s.dram fun k => !of d k),
           mirrors := Store.keep s.mirrors fun k => !of d k && !of (partner d) k }

/-- The partner of the lost die d continues its work from the mirror (R138), with die-pair journalling off for the pair. -/
def State.hostDie (s : State) (d : Nat) : State :=
  let s1 := (((s.refuseWith d).dropFaults d).dieOff d).fromMirror d
  let s2 := ((s1.put (ACU_STATUS_PAIR_ACTIVE d) 0).put (ACU_STATUS_PAIR_ACTIVE (partner d)) 0)
  (({ s2 with flt := { s2.flt with hosted := s2.flt.hosted ++ [d] } }).rewindDie d none).request 2 d 0

/-- Span die d is lost, the dies `others` with it. Its partner under die-pair journalling runs its work; without one its work
ends, and with it that of a die whose work it ran. DIE_LOST is due then, and in every case for a die cut off from the keeper
(R29). -/
def State.loseDie (s : State) (cut : Bool) (others : List Nat) (d : Nat) : State :=
  if s.present d = false ∨ s.flt.hosted.contains d = true then s
  else if s.paired d = true ∧ s.present (partner d) = true ∧ others.contains (partner d) = false then
    (when cut (·.tellLost d) s).hostDie d
  else
    (when (s.flt.hosted.contains (partner d)) (·.endDie (partner d)) s).endDie d

/-- The span dies that two failed hops cut off are lost. -/
def State.loseCut (s : State) (ds : List Nat) : State := forAll ds s (·.loseDie true ds)

/-! ### Corrections, deaccession and poisoned reads (R545, R546) -/

/-- A DRAM device is deaccessioned: its symbols are erasures from the next read on, which takes its work up at once. -/
def State.deaccDram (s : State) (d c u n : Nat) : State :=
  let x : UnitId := ⟨d, 7, 20 * c + 10 * u + n⟩
  let other := s.get (erasedF d c (1 - u)) != 15
  let serial := Store.get (fun _ => 0) (s.drc d).serial c
  let s1 := ((s.put (erasedF d c u) n).bump (FLT_STATUS_DRAM_DEACC d)).beginFault x 0x7B
  let s2 := (s1.deaccUnit x 0x7B serial 0 serial).recoverFault x
  if other then s2.request 3 d 0 else s2.advise 0x7B d

/-- Corrections located in a device (R419, R537); none is located in a subchannel with an erased device. -/
def State.corrections (s : State) (d c u n k : Nat) (scrub : Bool) : State :=
  if n > 9 ∨ k = 0 ∨ s.get (erasedF d c u) ≠ 15 then s
  else
    let f := if scrub then DRC_CH_ERR_SCRUB_CORR d c u n else DRC_CH_ERR_CORR d c u n
    let b := UNIT_BKT_BKT_A d (36 + 20 * c + 10 * u + n)
    let s1 := ((s.bumpBy f k).chargeBy ⟨d, 7, 20 * c + 10 * u + n⟩ 0 b k).raise (DRC_EVENTS_CORR d)
    if s.get (FLT_LIMITS2_DRAM_THRESH d) < s1.get b then s1.deaccDram d c u n else s1

/-- The ARG_B pair of each store that a read may meet (R546): 0 journal record, 1 stint buffer, 2 assembly-buffer copy, 3
vitrine read, 4 directory entry read in operation, 5 directory entry read at a start, 6 ledger, 7 product ring or reserve, 8
ring control record, 9 checkpoint, 10 detector save, 11 programme store, 12 set-aside area, 13 DMA descriptor, 14 DMA source. -/
def storeCode (k : Nat) : Nat × Nat :=
  [(0x12, 0), (0x14, 0), (0x14, 1), (0x12, 2), (0x12, 1), (0x12, 1), (0x17, 0), (0x1F, 0), (0x1F, 1), (0x0A, 0), (0x18, 0),
   (0x0A, 1), (0x0A, 2), (0x1B, 0), (0x1B, 1)].getD k (0x0A, 0)

/-- The format code of the journal word at an address of a die's journal region. -/
def State.journalFmt (s : State) (d a : Nat) : Nat :=
  let o := (a - s.get (JNL_REGION_BASE d) * 8) % max 1 (s.get (JNL_REC_REC_WORDS d))
  match (s.enabledSlots d).find? fun i => decide (s.recOffset d i ≤ o) && decide (o < s.recOffset d i + s.folioWords d i) with
  | some i => s.get (IN_CFG_FMT d i) + 1
  | none => 1

/-- A burst's words become flagged samples (R57). -/
def State.flagBurst (s : State) (d a : Nat) (f : Nat → Nat) : State :=
  forAll (List.range 8) s fun s w => s.wrMem d (8 * a + w) (staleWord (f (8 * a + w)))

/-- The samples of a burst's place in the assembly-buffer copies become flagged; a segment read back has none (R239, R546). -/
def State.flagCopy (s : State) (d a : Nat) : State :=
  let q := s.cte d
  let hit := fun (e : Nat × List Word) => decide (s.segAddr d e.1 < 8 * a + 8) && decide (8 * a < s.segAddr d e.1 + e.2.length)
  if q.resident.any hit then
    s.setCte d { q with resident := q.resident.map fun e =>
      (e.1, e.2.mapIdx fun i w => if (s.segAddr d e.1 + i) / 8 = a then staleWord (s.get (CTE_CFG_FMT d)) else w) }
  else s.flagBurst d a fun _ => s.get (CTE_CFG_FMT d)

/-- The directory record whose entry lies in a burst. -/
def State.dirAt (s : State) (d a : Nat) (r : JRec) : Bool :=
  (s.get (JNL_REC_DIR_BASE d) * 8 + 2 * (r.n % max 1 (s.get (JNL_REGION_SLOTS d)))) / 8 == a

/-- The store that owns a poisoned burst handles it (R546). -/
def State.poisoned (s : State) (d a k : Nat) : State :=
  let s1 := s.uncorr d (8 * a) (storeCode k).1 (storeCode k).2
  match k with
  | 0 => s1.flagBurst d a (s.journalFmt d)
  | 1 => s1.flagBurst d a fun _ => s.get (CTE_CFG_FMT d)
  | 2 => s1.flagCopy d a
  | 3 => s1.flagBurst d a (s.journalFmt d)
  | 4 => s1.setAcu d { s1.acu d with dir := (s1.acu d).dir.map fun r => if s.dirAt d a r then { r with inputs := [] } else r }
  | 6 =>
    let o := 8 * a - s.get (LED_REGION_BASE d) * 8
    let b := o / 3072
    if s.get (LED_REGION_BASE d) ≤ a ∧ b < s.get (LED_GEOM_VIS_BLOCKS d) then
      (s1.poisonGroup d b (o % 3072 / 24) (hdNSI (s1.ledHdr d b))).emit 0x6A d 0 0 b (o % 3072 / 24)
    else s1
  | 10 => s1.setBe d { s1.be d with dets := [], groups := [], save := .reset }
  | 12 => { s1 with aside := s1.aside.map fun (x : SetAside) => if x.die = d ∧ s.nvm.switchTo = some x.prog then { x with bad := true } else x }
  | _ => s1

/-- A controller reads a burst for a store (R56 to R58, R414, R416): pending writes to it issue first; `errs` are the code
symbols in error with the bits that are wrong. -/
def execDramRead (d burst store : Nat) (errs : List (Nat × Nat)) (s : State) : Host.Outcome State Fault Refusal :=
  let c := burstChan burst
  let u := burstSub burst
  if s.chanReady d c = true ∧ burst < s.dieBursts d then
    let q := s.drc d
    let s1 := ((s.setDrc d { q with queue := q.queue.filter (· != burst) }).pm d 0x60 c 1).activateRow d
    let es := errs.filter fun e => decide (e.1 < 40) && e.2 % 2 ^ 16 != 0
    let old := s1.rdMems d (8 * burst) 8
    let syn := readSyndromes old es
    let er := s1.get (erasedF d c u)
    let dec := if er = 15 then decodeBurst syn else decodeErased syn er
    match dec with
    | .uncorr => ok (s1.poisoned d burst store)
    | .clean => ok (if es = [] then s1 else s1.wrMems d (8 * burst) (flipWords es old))
    | .fix xs =>
      let new := flipWords (es ++ xs) old
      let s2 := if new = old then s1 else s1.wrMems d (8 * burst) new
      if er = 15 then
        ok ((forAll (xs.map fun e => symDevice e.1).dedup s2 fun s n => s.corrections d c u n 1 false).pm d 0x63 c 1)
      else ok s2
  else ok s

/-- A write enters the controller's queue and is acknowledged (R414). -/
def State.queueWrite (s : State) (d burst : Nat) (ws : List Word) : State :=
  let s1 := s.wrMems d (8 * burst) (ws.take 8)
  ((s1.setDrc d { s1.drc d with queue := (s1.drc d).queue ++ [burst] }).pm d 0x61 (burstChan burst) 1).activateRow d

def execDramWrite (d burst : Nat) (ws : List Word) (s : State) : Host.Outcome State Fault Refusal :=
  if s.chanReady d (burstChan burst) = true ∧ burst < s.dieBursts d then ok (s.queueWrite d burst ws) else ok s

/-- A unit write of two or three bursts is taken and acknowledged once, when every controller it needs has room (`room`, a bit
each); else it waits whole (R415, R435). -/
def execUnitWrite (d room : Nat) (bursts : List (Nat × List Word)) (s : State) : Host.Outcome State Fault Refusal :=
  if (bursts.length = 2 ∨ bursts.length = 3) ∧
      (bursts.all fun b => s.chanReady d (burstChan b.1) && bit room (burstChan b.1) && decide (b.1 < s.dieBursts d)) = true then
    ok (forAll bursts s fun s b => s.queueWrite d b.1 b.2)
  else ok s

/-- tREFI has passed on a subchannel: a refresh is issued, or postponed under PANIC up to REF_POST_MAX (R417, R420). -/
def execRefreshInterval (d c u : Nat) (s : State) : Host.Outcome State Fault Refusal :=
  if s.chanReady d c = true ∧ u < 2 then
    let q := s.drc d
    let k := 2 * c + u
    let n := Store.get (fun _ => 0) q.postponed k
    if (s.acu d).panic = true ∧ n < s.get (DRC_QOS_REF_POST_MAX d) then
      ok (((s.setDrc d { q with postponed := Store.put (fun _ => 0) q.postponed k (n + 1) }).bump (DRC_COUNT_REF_POSTPONED d)).raise
        (DRC_EVENTS_REF_POSTPONED d))
    else ok (s.setDrc d { q with refreshes := q.refreshes + 1 })
  else ok s

/-- A scrub pass of a channel ends: `hits` are the corrections it made, by subchannel, device and count; the corrected bursts
were written back. One pass belongs to each period of SCRUB_H hours (R419). -/
def execScrubPass (d c : Nat) (hits : List (Nat × Nat × Nat)) (s : State) : Host.Outcome State Fault Refusal :=
  if s.chanReady d c = true then
    let s1 := s.advance (Store.get (fun _ => 0) (s.drc d).scrubAt c)
    let q := s1.drc d
    let s2 := s1.setDrc d { q with scrubAt := Store.put (fun _ => 0) q.scrubAt c (s1.now + s.get (DRC_MAINT_SCRUB_H d) * 3600 * tSec) }
    ok (forAll hits s2 fun s h => if h.1 < 2 then s.corrections d c h.1 h.2.1 h.2.2 true else s)
  else ok s

/-- A background step retrains read and write centring of a subchannel (R413): RETRAIN_MIN minutes after its last step unless
the margin check requires it sooner, and never under PANIC. -/
def execRetrainStep (d c u : Nat) (force moved : Bool) (s : State) : Host.Outcome State Fault Refusal :=
  if s.chanReady d c = true ∧ u < 2 ∧ s.accepts = true ∧ (s.acu d).panic = false then
    let due := Store.get (fun _ => 0) (s.drc d).retrainAt (2 * c + u) + s.get (DRC_MAINT_RETRAIN_MIN d) * 60 * tSec
    let s0 := if force then s else s.advance due
    let q := s0.drc d
    let s1 := s0.setDrc d { q with retrainAt := Store.put (fun _ => 0) q.retrainAt (2 * c + u) s0.now }
    if moved then
      ok (({ s1 with training := Store.put (fun _ => 0) s1.training (2 * d + c) (Store.get (fun _ => 0) q.serial c + 1) }.raise
        (DRC_EVENTS_RETRAIN d)).emit 0x79 d 0 0 c u)
    else ok s1
  else ok s

/-- The read and write margins of a channel's two subchannels, in the record of the conservator: what the DIMM gives, free values
(R568). -/
def State.captureDram (s : State) (d c : Nat) : State :=
  forAll [4 * c, 4 * c + 1, 4 * c + 2, 4 * c + 3] s fun s i =>
    let q := Store.get (fun _ => CsvSt.reset) s.csvs d
    { (s.draw 8).2 with csvs := Store.put (fun _ => CsvSt.reset) s.csvs d { q with dram := Store.put (fun _ => 0) q.dram i (s.draw 8).1 } }

/-- Training of a channel (R408, R409, R411, R412; R568 at a DIMM with a new serial number): a DIMM outside R408 is rejected; a matching record allows fast retraining;
full training makes a new record, or after its third failure loses the die. -/
def State.train (s : State) (e : DimmEnv) : State :=
  let d := e.die
  let c := e.chan
  let s0 := (s.setDrc d { s.drc d with serial := Store.put (fun _ => 0) (s.drc d).serial c e.serial }).put (DRC_CH_STATUS_TRAIN_MS d c) e.ms
  let s1 := ((s0.put (DRC_CH_CFG_CAP_GIB d c) (2 ^ e.sizeLog2)).put (DRC_CH_CFG_DRFM_CAP d c) (b2n e.drfm)).put (DRC_MAINT_MODE d)
    (if e.drfm then 1 else 2)
  if e.spdOk = false then
    ((s0.put (DRC_CH_STATUS_STATE d c) 5).raise (DRC_EVENTS_TRAIN_FAIL d)).emit 0x78 d 0 0 c 0
  else if Store.get (fun _ => 0) s.training (2 * d + c) = e.serial + 1 ∧ e.fastOk = true then
    (s1.put (DRC_CH_STATUS_STATE d c) 2).put (DRC_CH_STATUS_FULL d c) 0
  else if e.fullOk then
    let s2 := if Store.get (fun _ => 0) s.training (2 * d + c) = e.serial + 1 then s1 else s1.captureDram d c
    { (s2.put (DRC_CH_STATUS_STATE d c) 2).put (DRC_CH_STATUS_FULL d c) 1 with
      training := Store.put (fun _ => 0) s.training (2 * d + c) (e.serial + 1) }
  else
    ((((s1.put (DRC_CH_STATUS_STATE d c) 5).put (DRC_CH_STATUS_FULL d c) 1).raise (DRC_EVENTS_TRAIN_FAIL d)).emit 0x78 d 0 0 c
      1).loseDie false [] d

/-- A channel's training ends: in MUSTER, or at a wake from RETAIN. -/
def execDramTraining (e : DimmEnv) (s : State) : Host.Outcome State Fault Refusal :=
  if s.present e.die = true ∧ e.chan < 2 ∧ (s.mode = mMUSTER ∨ (s.mode = mRETAIN ∧ s.pwr.porstLow = false)) ∧ s.get (DRC_CH_CFG_EN e.die e.chan) = 1 ∧
      s.get (DRC_CH_STATUS_STATE e.die e.chan) ≠ 2 ∧ s.get (DRC_CH_STATUS_STATE e.die e.chan) ≠ 5 then
    ok (s.train e)
  else ok s

/-! ### The fabric (R422 to R427) -/

def State.fab (s : State) (d t : Nat) : List FabReq := Store.get (fun _ => []) s.fabs (12 * d + t)
def State.setFab (s : State) (d t : Nat) (v : List FabReq) : State :=
  { s with fabs := Store.put (fun _ => []) s.fabs (12 * d + t) v }

/-- Arbitration uses the fixed order (R424). -/
def State.fabFixed (s : State) (d : Nat) : Bool := s.mode == mMUSTER || s.get (FAB_STATUS_FALLBACK d) == 1

/-- A request's rank at a target: its priority, above 15 once aged; 0 for all in the fixed order. -/
def State.fabRank (s : State) (d t : Nat) (r : FabReq) : Nat :=
  if s.fabFixed d then 0 else if s.get (FAB_CFG_AGE_LIMIT d) ≤ r.waited then 16 else bitsOf (s.get (PRIO_P d r.master)) (4 * t) 4

/-- The request a target grants: the highest rank, then the lower master index. -/
def State.fabPick (s : State) (d t : Nat) : List FabReq → Option FabReq
  | [] => none
  | r :: rs =>
    match s.fabPick d t rs with
    | none => some r
    | some x =>
      if s.fabRank d t x < s.fabRank d t r ∨ (s.fabRank d t x = s.fabRank d t r ∧ r.master ≤ x.master) then some r else some x

/-- The waiting masters of a target. -/
def waitMask (l : List FabReq) : Nat := (List.range 26).foldl (fun m i => if l.any (fun r => r.master == i) then m + 2 ^ i else m) 0

/-- The request that a target grants at an arbitration, or goes on with as no other master waits (R423, R425). -/
def State.fabNext (s : State) (d t : Nat) (l : List FabReq) : Option FabReq :=
  if l.length = 1 then l.head? else s.fabPick d t (l.map fun r => { r with going := false })

/-- A target arbitrates at a burst boundary: `cyc` fabric cycles after its last grant, with the requests that came since
(master, beats, unit write). The granted request runs 8 beats, a unit write whole; what is left of it goes on if no other master
waits then, and is broken off and arbitrates anew if one does. -/
def execFabricRequest (d t cyc : Nat) (reqs : List (Nat × Nat × Bool)) (s : State) : Host.Outcome State Fault Refusal :=
  if s.present d = true ∧ t < 12 ∧ (s.mode = mMUSTER ∨ s.runs = true) then
    let came := reqs.filterMap fun r => if r.1 < 26 ∧ 1 ≤ r.2.1 ∧ r.2.1 ≤ 64 then some (FabReq.mk r.1 r.2.1 r.2.2 0 false) else none
    let lim := s.get (FAB_CFG_AGE_LIMIT d)
    let old := (s.fab d t).map fun r => { r with waited := if r.going then 0 else r.waited + cyc }
    let s1 := when ((s.fab d t).any fun r => !r.going && decide (r.waited < lim) && decide (lim ≤ r.waited + cyc)) (·.raise (FAB_EVENTS_AGED d)) s
    let all := old ++ came
    let broke := all.any (·.going) && decide (1 < all.length)
    let s1 := when broke (fun s => (s.bump (FAB_COUNT_BREAKS d)).pm d 0x6A t 1) (s1.pm d 0x69 t (cyc * (old.filter (!·.going)).length))
    match s1.fabNext d t all with
    | none => ok ((s1.put (TGT_GRANT d t) (s.get (TGT_PARK d t))).put (TGT_WAITING d t) 0)
    | some g =>
      let rest := all.eraseIdx (all.findIdx fun r => r.master == g.master && r.beats == g.beats && r.unit == g.unit && r.waited == g.waited)
      let left := if 8 < g.beats ∧ g.unit = false then [{ g with beats := g.beats - 8, waited := 0, going := true }] else []
      let s2 := ((s1.setFab d t (rest ++ left)).put (TGT_GRANT d t) g.master).put (TGT_WAITING d t) (waitMask rest)
      let s3 := when (!g.going) (·.pm d 0x68 t 1) s2
      ok (when (s.fabRank d t g == 16) (·.bump (FAB_COUNT_AGED d)) s3)
  else ok s

/-- A PRIO entry fails parity: the fixed order holds until the registrar has rewritten the table (R424). -/
def execPrioParityError (d m t : Nat) (s : State) : Host.Outcome State Fault Refusal :=
  if s.present d = true ∧ m < 26 ∧ t < 12 ∧ (s.mode = mMUSTER ∨ s.runs = true) then
    ok ((((s.put (FAB_STATUS_FALLBACK d) 1).put (FAB_STATUS_PAR_ENTRY d) (12 * m + t)).bump (FAB_COUNT_PAR_ERR d)).raise
      (FAB_EVENTS_PARITY d) |>.emit 0x7C d 0 0 (12 * m + t) 0)
  else ok s

/-- The registrar has rewritten the table from the image and read it back. -/
def State.fabRewritten (s : State) : State := forAll s.dies s fun s d => s.put (FAB_STATUS_FALLBACK d) 0

end Sys2Proof.Machine
end

