-- ==== Sys2Proof/Machine/Slots.lean ====
section
/-! DEFINITION. What a state-map slot reads now (R11, R12, R50, R577): the registers, and the slots that show state with a home
elsewhere; and a whole-slot write. -/

namespace Sys2Proof.Machine

open Reg

/-- The TS field of R577. -/
def State.tsNow (s : State) : Nat := s.now % tSec / 65536 % 2 ^ 23

/-- The register window of a core at byte offset `o`. -/
def State.coreWindow (s : State) (d c o : Nat) : Word :=
  let q := s.core d c
  if o < 0x400 then q.vreg (o / 16)
  else if o < 0x500 then BitVec.ofNat 72 (q.areg ((o - 0x400) / 16))
  else if o < 0x600 then BitVec.ofNat 72 (q.mreg ((o - 0x500) / 16))
  else if o = 0x600 then BitVec.ofNat 72 ((List.range 16).foldl (fun m n => m + q.pget n % 4 * 2 ^ (2 * n)) 0)
  else if o < 0x650 then BitVec.ofNat 72 (q.lreg ((o - 0x610) / 16))
  else if 0x700 ≤ o ∧ o < 0x800 then
    let a := q.accReg ((o - 0x700) / 32)
    let x := unsigned 48 a.1 + unsigned 48 a.2 * 2 ^ 48
    BitVec.ofNat 72 (if (o - 0x700) % 32 = 0 then x % 2 ^ 72 else x / 2 ^ 72)
  else 0

/-- The memory window of a core at byte offset `o`. -/
def State.coreMem (s : State) (d c o : Nat) : Word :=
  let q := s.core d c
  if o < 0x40000 then Store.get zeroWord q.xm (o / 16)
  else if o < 0x80000 then Store.get zeroWord q.ym ((o - 0x40000) / 16)
  else if o < 0xA0000 then Store.get zeroWord q.pm ((o - 0x80000) / 16)
  else 0

/-- The F-core block. -/
def State.readFcore (s : State) (d a o : Nat) : Word :=
  if 0x100000000 ≤ o then
    let c := (o - 0x100000000) / 0x100000
    if c < 18 then s.coreMem d c ((o - 0x100000000) % 0x100000) else 0
  else if 0x40000 ≤ o then
    let c := (o - 0x40000) / 0x1000
    if c < 18 then s.coreWindow d c ((o - 0x40000) % 0x1000) else 0
  else if 0x10000 ≤ o ∧ (o - 0x10000) / 0x1000 < 18 then
    let c := (o - 0x10000) / 0x1000
    if (o - 0x10000) % 0x1000 = 0x10 then s.coreStatus d c
    else if (o - 0x10000) % 0x1000 = 0x20 then s.corePos d c
    else s.rd a
  else s.rd a

/-- The gallery block. -/
def State.readGallery (s : State) (d a o : Nat) : Word :=
  if 0x100000000 ≤ o then
    let r := o - 0x100000000
    let t := r / 0x200000
    let b := r % 0x200000 / 0x100000
    let k := r % 0x100000 / 0x20
    if t < 17 ∧ k < 17408 then
      cellWord (k % 1088) (r % 0x20 / 16) (Store.get (fun _ => Acc3.zero) ((s.tile d t).bank b).cells k)
    else 0
  else if 0x10000 ≤ o ∧ (o - 0x10000) / 0x100 < 17 ∧ (o - 0x10000) % 0x100 = 0x80 then
    let t := (o - 0x10000) / 0x100
    match (s.tile d t).lastMis with
    | some x => (s.rd a).upd 54 18 (min (2 ^ 18 - 1) ((s.now - x) / (3600 * tSec)))
    | none => s.rd a
  else s.rd a

/-- The ledger block: headers and the entry window lie in DRAM. -/
def State.readLedger (s : State) (d a o : Nat) : Word :=
  if 0x200000000 ≤ o then
    let r := o - 0x200000000
    if r / 0xC000 < 65536 then s.rdMem d (s.blkAddr d (s.get (LED_WIN_BASE_BLK d) + r / 0xC000) + r % 0xC000 / 16) else 0
  else if 0x100000000 ≤ o then
    if (o - 0x100000000) / 16 < 2 ^ 24 then s.rdMem d (s.hdrAddr d ((o - 0x100000000) / 16)) else 0
  else s.rd a

/-- The conservator's block: the age of a calibration follows the time (R570). -/
def State.readCsv (s : State) (d a o : Nat) : Word :=
  if 0x1000 ≤ o ∧ o < 0x4000 ∧ o % 32 = 16 then
    let n := (o - 0x1000) / 32
    if n < 90 then
      let q := Store.get (fun _ => CsvSt.reset) s.csvs d
      (s.rd a).upd 21 31 (if (q.accAt.any fun e => e.1 == n) then min (2 ^ 31 - 1) ((s.now - Store.get (fun _ => 0) q.accAt n) / tSec) else 0)
    else s.rd a
  else s.rd a

/-- The eye of lane `l` (Griwano lanes as 16 to 23) with the seconds since its measurement. -/
def State.readEye (s : State) (d l a : Nat) : Word :=
  (s.rd a).upd 16 16 (if s.timer (tkEye d l) = 0 then 0 else min 0xFFFF ((s.now - s.timer (tkEye d l)) / tSec))

/-- The Griwano link block: eyes with their age, and the factory latencies of the configured rate (R226). -/
def State.readLink (s : State) (d a o : Nat) : Word :=
  if 0x2000 ≤ o ∧ o < 0x2800 then
    let n := (o - 0x2000) / 0x100
    if (o - 0x2000) % 0x100 = 0x20 then s.readEye d (16 + n) a
    else if (o - 0x2000) % 0x100 = 0x40 then s.lnLat (2 * d + n / 4) (n % 4)
    else s.rd a
  else s.rd a

/-- ACU_STATUS.STATE of a die: HOLD while acceptance is held, REPLAY while what the die sends is replayed, WRITING while a
consignment takes samples, else IDLE. -/
def State.acuState (s : State) (d : Nat) : Nat :=
  if s.rg.holdAcc then 3
  else if (s.cte d).sentNext < (s.cte d).replayTo then 2
  else if s.acc.cons.any fun c => c.state == 0 && c.recs.any fun r => r.die == d then 1 else 0

/-- A snapshot of a slot (R50). Reads have no side effect (R11). -/
def State.readSlot (s : State) (a : Nat) : Word :=
  let d := addrDie a
  let o := addrOff a
  if a % 16 ≠ 0 ∨ assigned s.part a = false then 0
  else if d = 15 then
    if a = TE_NOW0 then BitVec.ofNat 72 (packTime s.now % 2 ^ 72)
    else if a = TE_NOW1 then BitVec.ofNat 72 (packTime s.now / 2 ^ 48)
    else if a = SEC_DEBUG then (s.rd a).upd 0 32 ((s.sec.unlockEnd - s.now + tSec - 1) / tSec)
    else s.rd a
  else if a = ACU_STATUS d then (s.rd a).upd 0 2 (s.acuState d)
  else if addrBlock a = 0x10 ∧ 0x1000 ≤ o ∧ o < 0x2000 ∧ o % 0x100 = 0x40 then s.readEye d ((o - 0x1000) / 0x100) a
  else if addrBlock a = 0x15 then s.readLink d a o
  else if addrBlock a = 0x13 then s.readFcore d a o
  else if addrBlock a = 0x16 then s.readGallery d a o
  else if addrBlock a = 0x17 then s.readLedger d a o
  else if addrBlock a = 0x1C then s.readCsv d a o
  else if addrBlock a = 0x1D ∧ ((0x2000 ≤ o ∧ o < 0x2400) ∨ (0x3000 ≤ o ∧ o < 0x3480)) then (s.rd a).upd 49 23 s.tsNow
  else s.rd a

/-- The address names one of the slots that only show other state. -/
def shownSlot (a : Nat) : Bool :=
  a == TE_NOW0 || a == TE_NOW1 ||
  (addrDie a != 15 && ((addrBlock a == 0x13 && decide (0x40000 ≤ addrOff a)) ||
    ((addrBlock a == 0x16 || addrBlock a == 0x17) && decide (0x100000000 ≤ addrOff a))))

/-- A counter's OVF bit cleared by a write shows in PMON_STATUS. -/
def State.syncOvf (s : State) (a : Nat) : State :=
  if addrDie a ≠ 15 ∧ addrBlock a = 0x1D ∧ 0x2000 ≤ addrOff a ∧ addrOff a < 0x2400 then
    let k := (addrOff a - 0x2000) / 16
    s.putBit (PMON_STATUS_OVF (addrDie a)) k (s.get (PMON_CTR_OVF (addrDie a) k) == 1)
  else s

/-- A whole-slot write by a source that may write every field a write reaches (R9, R10, R51). -/
def State.writeSlot (s : State) (a : Nat) (w : Word) : State :=
  if a % 16 ≠ 0 ∨ assigned s.part a = false ∨ shownSlot a = true then s else (s.softWrite a w.toNat).syncOvf a

/-- A whole-slot write that reaches only the fields cleared by writing 1 (R445). -/
def State.writeClr (s : State) (a : Nat) (w : Word) : State :=
  if a % 16 ≠ 0 ∨ assigned s.part a = false ∨ shownSlot a = true then s
  else (s.wr a (BitVec.ofNat 72 ((s.rd a).toNat &&& (2 ^ 72 - 1 - (clrMask s.part a &&& w.toNat))))).syncOvf a

end Sys2Proof.Machine
end

