-- ==== Sys2Proof/Machine/Dma.lean ====
section
/-! DEFINITION. The DMA engines (R428 to R436): two on every span die, KDMA on the keeper. -/

namespace Sys2Proof.Machine

open Reg

/-! ### Engines and their registers -/

/-- Engines are numbered 2d + e; KDMA (die 15) is 16. -/
def dmaKey (d e : Nat) : Nat := if d = 15 then 16 else 2 * d + e % 2

def State.dma (s : State) (k : Nat) : DmaSt := Store.get (fun _ => DmaSt.reset) s.dmas k
def State.setDma (s : State) (k : Nat) (v : DmaSt) : State := { s with dmas := Store.put (fun _ => DmaSt.reset) s.dmas k v }

/-- A register of an engine: KDMA's lie in the keeper's PKF block in the layout of engine 0. -/
def dmaF (k : Nat) (f : Nat → Nat → RF) : RF :=
  let x := f (if k = 16 then 0 else k / 2) (if k = 16 then 0 else k % 2)
  if k = 16 then { x with addr := keepSlot 0x0C (kdmaBase + addrOff x.addr) } else x

def dmaEN (k c : Nat) : RF := dmaF k fun d e => DMA_CH_CFG_EN d e c
def dmaSTATE (k c : Nat) : RF := dmaF k fun d e => DMA_CH_STATE_STATE d e c
def dmaHEAD (k c : Nat) : RF := dmaF k fun d e => DMA_CH_STATE_HEAD d e c
def dmaOFS (k c : Nat) : RF := dmaF k fun d e => DMA_CH_POS_OFS d e c
def dmaWDRAWN (k c : Nat) : RF := dmaF k fun d e => DMA_CH_POS_WDRAWN d e c
def dmaWDBEATS (k c : Nat) : RF := dmaF k fun d e => DMA_CH_POS_WD_BEATS d e c
/-- The channel that runs, 31 for none. -/
def dmaRUN (k : Nat) : RF := dmaF k fun d e => if e = 0 then DMA_STATUS_RUN0 d else DMA_STATUS_RUN1 d
/-- The engine waits at a burst boundary. -/
def State.paceWait (s : State) (k : Nat) (b : Bool) : State := s.putBit (dmaF k fun d _ => DMA_STATUS_PACE_WAIT d) (if k = 16 then 0 else k % 2) b
def dmaEvent (k : Nat) (f : Nat → RF) : RF := dmaF k fun d _ => f d

/-- The die whose memories the engine's rings lie in. -/
def ringDieOf (k : Nat) : Nat := if k = 16 then 0 else k / 2

/-- The engine runs: its die is present and powered. -/
def State.dmaOn (s : State) (k : Nat) : Bool :=
  decide (k ≤ 16) && (k == 16 || s.present (k / 2)) && (s.mode == mMUSTER || s.runs)

/-! ### Descriptors (R428, R429) -/

def State.scr (s : State) (d a : Nat) : Word := Store.get (fun _ => 0) s.scratch (65536 * d + a)
def State.setScr (s : State) (d a : Nat) (w : Word) : State := { s with scratch := Store.put (fun _ => 0) s.scratch (65536 * d + a) w }

/-- Address of word w of the descriptor at HEAD. -/
def State.descAddr (s : State) (k c w : Nat) : Nat :=
  s.get (dmaF k fun d e => DMA_CH_CFG_RING_BASE d e c) + 4 * s.get (dmaHEAD k c) + w

def State.descWord (s : State) (k c w : Nat) : Word :=
  if s.get (dmaF k fun d e => DMA_CH_CFG_RING_SPACE d e c) = 1 then s.scr (ringDieOf k) (s.descAddr k c w % 65536)
  else s.rdMem (ringDieOf k) (s.descAddr k c w)

def State.setDescWord (s : State) (k c w : Nat) (x : Word) : State :=
  if s.get (dmaF k fun d e => DMA_CH_CFG_RING_SPACE d e c) = 1 then s.setScr (ringDieOf k) (s.descAddr k c w % 65536) x
  else s.wrMem (ringDieOf k) (s.descAddr k c w) x

/-- A descriptor's fields. -/
structure Desc where
  own : Bool
  op : Nat
  irq : Bool
  pace : Bool
  len : Nat
  rsv : Bool
  fill : Word
  src : Nat
  dst : Nat
deriving DecidableEq, Repr

def State.desc (s : State) (k c : Nat) : Desc :=
  let w := s.descWord k c 0
  ⟨w.bits 0 1 == 1, w.bits 1 2, w.bits 3 1 == 1, w.bits 4 1 == 1, w.bits 5 32, w.bits 37 35 != 0, s.descWord k c 1,
   (s.descWord k c 1).bits 0 64, (s.descWord k c 2).bits 0 64⟩

/-! ### Spaces (R430, R431) -/

def spaceOf (a : Nat) : Nat := bitsOf a 60 4
def wordPlace (a : Nat) : Nat := bitsOf a 0 60

/-- Units of an address per span word: slots of 16 bytes in the state map and in host memory. -/
def strideOf (a : Nat) : Nat := if spaceOf a = 2 ∨ spaceOf a = 3 ∨ spaceOf a = 4 then 16 else 1

/-- `len` words from address `a` on lie in their space; `write` by an owner other than the registrar is refused in the state
map. -/
def State.spaceOk (s : State) (k c a len : Nat) (write : Bool) : Bool :=
  let p := wordPlace a
  match spaceOf a with
  | 0 =>
    let d := if k = 16 then bitsOf p 56 4 else k / 2
    s.present d && decide ((if k = 16 then p % 2 ^ 56 else p) + len ≤ 8 * s.dieBursts d)
  | 1 => k != 16 && decide (p + len ≤ 65536)
  | 2 => p % 16 == 0 && decide (p + 16 * len ≤ 2 ^ 48) && (!write || s.get (dmaF k fun d e => DMA_CH_CFG_OWNER d e c) == 0)
  | 3 => p % 16 == 0
  | 4 => p % 16 == 0
  | _ => false

/-- Host octets that a read of 16 bytes returned. -/
def hostWord (mem : List HRead) (port addr : Nat) : Option Word :=
  match mem.find? fun m => m.port == port && decide (m.addr ≤ addr) && decide (addr + 16 ≤ m.addr + m.data.length) with
  | some m => some (BitVec.ofNat 72 (ofOctets ((m.data.drop (addr - m.addr)).take 9)))
  | none => none

/-- Word i of a source. -/
def State.srcWord (s : State) (k a : Nat) (mem : List HRead) (i : Nat) : Option Word :=
  let p := wordPlace a
  match spaceOf a with
  | 0 => some (s.rdMem (if k = 16 then bitsOf p 56 4 else k / 2) ((if k = 16 then p % 2 ^ 56 else p) + i))
  | 1 => some (s.scr (k / 2) (p + i))
  | 2 => some (s.readSlot (p + 16 * i))
  | n => if s.portState (n - 3) = 1 then hostWord mem (n - 3) (p + 16 * i) else none

/-- A word written to a destination. -/
def State.dstWord (s : State) (k a i : Nat) (w : Word) : State :=
  let p := wordPlace a
  match spaceOf a with
  | 0 => s.wrMem (if k = 16 then bitsOf p 56 4 else k / 2) ((if k = 16 then p % 2 ^ 56 else p) + i) w
  | 1 => s.setScr (k / 2) (p + i) w
  | 2 => s.writeSlot (p + 16 * i) w
  | n => s.emitOut (.hostWrite (n - 3) (p + 16 * i) (slotOctets [w]))

/-- A host port that a descriptor needs is not UP. -/
def State.hostDown (s : State) (a : Nat) : Bool := (spaceOf a == 3 || spaceOf a == 4) && s.portState (spaceOf a - 3) != 1

def cdOK : Nat := 0
def cdMISMATCH : Nat := 1
def cdADDR : Nat := 2
def cdPOISON : Nat := 3
def cdTIMEOUT : Nat := 4
def cdHOST : Nat := 5

/-- Source and destination share words. -/
def overlaps (a b len : Nat) : Bool :=
  spaceOf a == spaceOf b && decide (wordPlace a < wordPlace b + strideOf b * len) && decide (wordPlace b < wordPlace a + strideOf a * len)

/-- The peripherals an engine has, by direction (R433). -/
def periphOk (k n : Nat) (source : Bool) : Bool :=
  if k = 16 then (source && (n == 8 || n == 9 || n == 11)) || (!source && n == 10) else source && decide (n ≤ 2)

/-- A descriptor that completes ADDR_ERR. A paced one names a peripheral on one side. -/
def State.addrErr (s : State) (k c : Nat) (x : Desc) : Bool :=
  if x.op = 3 ∨ x.len = 0 ∨ x.rsv = true then true
  else if x.pace then
    if x.op ≠ 0 then true
    else if spaceOf x.src = 5 then !(periphOk k (x.src % 32) true && s.spaceOk k c x.dst x.len true)
    else if spaceOf x.dst = 5 then !(periphOk k (x.dst % 32) false && s.spaceOk k c x.src x.len false)
    else true
  else match x.op with
    | 0 => !(s.spaceOk k c x.src x.len false && s.spaceOk k c x.dst x.len true) || overlaps x.src x.dst x.len
    | 1 => !s.spaceOk k c x.dst x.len true
    | _ => !(s.spaceOk k c x.src x.len false && s.spaceOk k c x.dst x.len false)

/-! ### Serving channels (R428) -/

/-- The channel at HEAD of a ready channel starts: a paced one waits for its peripheral. -/
def State.startChan (s : State) (k c : Nat) : State :=
  let x := s.desc k c
  let s1 := ((((s.put (dmaRUN k) c).put (dmaOFS k c) 0).put (dmaWDRAWN k c) 0).put (dmaWDBEATS k c) 0).setDma k
    { s.dma k with wdBursts := 0, waitAt := s.now }
  if x.pace = true ∧ s.addrErr k c x = false then (s1.put (dmaSTATE k c) 3).paceWait k true else s1.put (dmaSTATE k c) 2

/-- The next ready channel in round-robin order, after the one served last. -/
def State.serve (s : State) (k : Nat) : State :=
  if s.get (dmaRUN k) ≠ 31 then s
  else
    let order := (List.range 16).map fun i => ((s.dma k).last + 1 + i) % 16
    match order.find? fun c => s.get (dmaSTATE k c) == 1 && s.get (dmaEN k c) == 1 with
    | some c => s.startChan k c
    | none => s

/-- A poisoned descriptor stops its channel (R546). -/
def State.descPoisoned (s : State) (k c : Nat) : State :=
  (((s.put (dmaEN k c) 0).put (dmaSTATE k c) 0).raise (dmaEvent k DMA_EVENTS_ERROR)).uncorr (ringDieOf k) (s.descAddr k c 0) 0x1B 0

/-- The descriptor at HEAD is examined: owned, its channel is ready; else it is idle. -/
def State.examine (s : State) (k c : Nat) (bad : Bool) : State :=
  if s.get (dmaEN k c) = 0 then s.put (dmaSTATE k c) 0
  else if bad then s.descPoisoned k c
  else s.put (dmaSTATE k c) (b2n (s.desc k c).own)

/-- A channel's doorbell: with OWN set at HEAD the channel becomes ready, else nothing happens (R428, R435). -/
def execDmaDoorbell (d e c : Nat) (bad : Bool) (s : State) : Host.Outcome State Fault Refusal :=
  let k := dmaKey d e
  if s.dmaOn k = true ∧ c < 16 then
    let s1 := s.put (dmaF k fun d e => DMA_CH_DOORBELL_RING d e c) 1
    if s.get (dmaEN k c) = 1 ∧ s.get (dmaSTATE k c) = 0 then ok ((s1.examine k c bad).serve k) else ok s1
  else ok s

/-! ### Completion (R432) -/

/-- Word 3, then word 0 with OWN = 0, then the interrupt; the channel goes on with its next descriptor, and the engine with its
next ready channel. -/
def State.endDesc (s : State) (k c code ofs : Nat) (nextBad : Bool) : State :=
  let x := s.desc k c
  let w3 := BitVec.ofNat 72 (code % 16 + ofs % 2 ^ 32 * 2 ^ 4 + s.get (dmaWDRAWN k c) * 2 ^ 36 + s.get (dmaWDBEATS k c) * 2 ^ 37 +
    min 65535 (s.dma k).wdBursts * 2 ^ 40)
  let s1 := (s.setDescWord k c 3 w3).setDescWord k c 0 ((s.descWord k c 0).upd 0 1 0)
  let s2 := (s1.bump (dmaF k fun d e => DMA_CH_STATE_DONE_CNT d e c)).put (dmaHEAD k c)
    ((s.get (dmaHEAD k c) + 1) % max 1 (s.get (dmaF k fun d e => DMA_CH_CFG_RING_LEN d e c)))
  let s3 := when (code == cdMISMATCH) (·.raise (dmaEvent k DMA_EVENTS_MISMATCH)) (s2.raise (dmaEvent k DMA_EVENTS_DONE))
  let s4 := when (code == cdADDR || code == cdPOISON || code == cdHOST) (·.raise (dmaEvent k DMA_EVENTS_ERROR)) s3
  let s5 := when (code == cdTIMEOUT) (·.raise (dmaEvent k DMA_EVENTS_TIMEOUT)) s4
  let q := s5.dma k
  let s6 := s5.setDma k { q with last := c, irqs := if x.irq = true ∧ q.irqs.contains c = false then q.irqs ++ [c] else q.irqs }
  let s7 := ((s6.put (dmaRUN k) 31).put (dmaOFS k c) ofs).paceWait k false
  ((when (decide (k < 16)) (fun s => s.pm (k / 2) 0x70 (k % 2) 1) s7).examine k c nextBad).serve k

/-- Words written in ascending order while the source gives them; the number written. -/
def State.copyWords (s : State) (k src dst : Nat) (mem : List HRead) : Nat → Nat → State × Nat
  | 0, i => (s, i)
  | n + 1, i =>
    match s.srcWord k src mem i with
    | some w => (s.dstWord k dst i w).copyWords k src dst mem n (i + 1)
    | none => (s, i)

/-- The first unequal word of two sources; none when they agree, with a flag for a source that could not be read. -/
def State.compareWords (s : State) (k src dst : Nat) (mem : List HRead) : Nat → Nat → Nat × Nat
  | 0, i => (cdOK, i)
  | n + 1, i =>
    match s.srcWord k src mem i, s.srcWord k dst mem i with
    | some a, some b => if a = b then s.compareWords k src dst mem n (i + 1) else (cdMISMATCH, i)
    | _, _ => (cdHOST, i)

/-- After HOST_ERR the data at a destination inside the device is undetermined. -/
def State.scramble (s : State) (k dst len : Nat) : State :=
  if spaceOf dst ≤ 1 then forAll (List.range len) s fun s i => (s.draw 72).2.dstWord k dst i (BitVec.ofNat 72 (s.draw 72).1) else s

/-- The running descriptor finishes. `mem` is what host memory returned, `bad` the offset of the first poisoned source word,
`hostErr` a failed read-back or a host port that went down, `nextBad` a poisoned next descriptor. -/
def execDescriptorComplete (d e : Nat) (mem : List HRead) (bad : Option Nat) (hostErr nextBad : Bool) (s : State) :
    Host.Outcome State Fault Refusal :=
  let k := dmaKey d e
  let c := s.get (dmaRUN k)
  if s.dmaOn k = true ∧ c < 16 ∧ s.get (dmaSTATE k c) = 2 then
    let x := s.desc k c
    if s.addrErr k c x then ok (s.endDesc k c cdADDR 0 nextBad)
    else
      let pad := if spaceOf x.src = 0 then x.src else x.dst
      let stop := match bad with
        | some o => if x.op ≠ 1 ∧ o < x.len ∧ (spaceOf x.src = 0 ∨ (x.op = 2 ∧ spaceOf x.dst = 0)) then
            some (8 * ((wordPlace pad + o) / 8) - wordPlace pad) else none
        | none => none
      let n := stop.getD x.len
      let down := hostErr || (x.op != 1 && s.hostDown x.src) || s.hostDown x.dst
      let poison := fun (s : State) (o : Nat) =>
        (s.uncorr (if k = 16 then bitsOf pad 56 4 else k / 2) ((if k = 16 then wordPlace pad % 2 ^ 56 else wordPlace pad) + o) 0x1B 1).endDesc
          k c cdPOISON o nextBad
      match x.op with
      | 1 =>
        let s1 := forAll (List.range x.len) s fun s i => s.dstWord k x.dst i x.fill
        if down then ok ((s1.scramble k x.dst x.len).endDesc k c cdHOST x.len nextBad) else ok (s1.endDesc k c cdOK x.len nextBad)
      | 0 =>
        if down then ok ((s.scramble k x.dst x.len).endDesc k c cdHOST x.len nextBad)
        else
          let r := s.copyWords k x.src x.dst mem n 0
          if r.2 < n then ok ((r.1.scramble k x.dst x.len).endDesc k c cdHOST r.2 nextBad)
          else match stop with
            | some o => ok (poison r.1 o)
            | none => ok (r.1.endDesc k c cdOK x.len nextBad)
      | _ =>
        if down then ok (s.endDesc k c cdHOST 0 nextBad)
        else
          let r := s.compareWords k x.src x.dst mem n 0
          if r.1 ≠ cdOK then ok (s.endDesc k c r.1 r.2 nextBad)
          else match stop with
            | some o => ok (poison s o)
            | none => ok (s.endDesc k c cdOK x.len nextBad)
  else ok s

/-! ### Peripheral pacing (R433) -/

/-- A burst of eight beats of the running paced channel; `good` of them carry data. -/
def State.pacedBurst (s : State) (k c good : Nat) (data : List Word) : State :=
  let x := s.desc k c
  let o := s.get (dmaOFS k c)
  let n := min 8 (x.len - o)
  let s1 :=
    if spaceOf x.src = 5 then
      forAll (List.range n) s fun s i => s.dstWord k x.dst (o + i) (if i < good then data.getD i 0 else 0)
    else s.emitOut (.device (if k = 16 then 15 else k / 2) (k % 2) (x.dst % 32)
      ((List.range (min n good)).filterMap fun i => s.srcWord k x.src [] (o + i)))
  let s2 := s1.setDma k { s1.dma k with waitAt := s.now }
  if x.len ≤ o + 8 then s2.endDesc k c cdOK x.len false else s2.put (dmaOFS k c) (o + 8)

/-- The running descriptor draws on the SEC's TRNG output. -/
def State.fromTrng (s : State) (k c : Nat) : Bool := k == 16 && spaceOf (s.desc k c).src == 5 && (s.desc k c).src % 32 == 11

/-- The TRNG output has nothing to give while requests wait for a reseed (R510). -/
def State.trngDry (s : State) (k c : Nat) : Bool := s.fromTrng k c && (s.sec.waitReseed || decide (2 ^ 16 ≤ s.sec.drbg))

/-- A request served by the DRBG. -/
def State.drbgUsed (s : State) : State := { s with sec := { s.sec with drbg := s.sec.drbg + 1 } }

/-- A peripheral raises its request and a burst runs; `data` is what a source delivers. -/
def execPacedRequest (d e : Nat) (data : List Word) (s : State) : Host.Outcome State Fault Refusal :=
  let k := dmaKey d e
  let c := s.get (dmaRUN k)
  if s.dmaOn k = true ∧ c < 16 ∧ s.get (dmaSTATE k c) = 3 ∧ s.trngDry k c = false then
    ok ((when (s.fromTrng k c) State.drbgUsed s).pacedBurst k c 8 data)
  else ok s

/-- A request withdrawn after a burst has started: the burst runs out with `n` further beats, of zeros from a source and
discarded at a destination. -/
def execPacedWithdraw (d e n : Nat) (data : List Word) (s : State) : Host.Outcome State Fault Refusal :=
  let k := dmaKey d e
  let c := s.get (dmaRUN k)
  if s.dmaOn k = true ∧ c < 16 ∧ s.get (dmaSTATE k c) = 3 ∧ s.trngDry k c = false ∧ 1 ≤ n ∧ n ≤ 7 then
    let q := s.dma k
    let s1 := ((((when (s.fromTrng k c) State.drbgUsed s).put (dmaWDRAWN k c) 1).put (dmaWDBEATS k c) n).setDma k { q with wdBursts := q.wdBursts + 1 }).raise
      (dmaEvent k DMA_EVENTS_WDRAWN)
    ok (s1.pacedBurst k c (8 - n) data)
  else ok s

/-- The wait at a burst boundary exceeds PACE_TO_US. -/
def execPaceTimeout (d e : Nat) (s : State) : Host.Outcome State Fault Refusal :=
  let k := dmaKey d e
  let c := s.get (dmaRUN k)
  if s.dmaOn k = true ∧ c < 16 ∧ s.get (dmaSTATE k c) = 3 then
    let s1 := s.advance ((s.dma k).waitAt + s.get (dmaF k fun d _ => DMA_CFG_PACE_TO_US d) * tUs)
    ok (s1.endDesc k c cdTIMEOUT (s.get (dmaOFS k c)) false)
  else ok s

/-! ### Starts (R434) -/

/-- The engines of a part. -/
def State.engines (s : State) : List Nat := s.dies.flatMap (fun d => [2 * d, 2 * d + 1]) ++ [16]

/-- A warm reset discards what the engines do; descriptors keep OWN and the channels their HEAD. -/
def State.dmaWarm (s : State) : State :=
  forAll s.engines s fun s k =>
    let s1 := ((s.put (dmaRUN k) 31).paceWait k false).setDma k .reset
    forAll (List.range 16) s1 fun s c => ((s.put (dmaSTATE k c) 0).put (dmaOFS k c) 0).put (dmaWDRAWN k c) 0

/-- Enabled channels whose descriptor has OWN = 1 start again. -/
def State.dmaEnable (s : State) : State :=
  forAll s.engines s fun s k => (forAll (List.range 16) s fun s c => if s.get (dmaEN k c) = 1 then s.examine k c false else s).serve k

end Sys2Proof.Machine
end

