-- ==== Sys2Proof/Machine/Islands.lean ====
section
/-! DEFINITION. Islands, their operating points, the sequencer and the thermal governor (R522 to R525, R528). -/

namespace Sys2Proof.Machine

open Reg

/-- Island i = 32 d + j; its coding of the frequency table: 0 tiles and beam engine, 1 F-core pairs, 2 the DFU (R522). -/
def islClass (j : Nat) : Nat := if j ≤ 17 then 0 else if j ≤ 26 then 1 else 2

/-- Frequency of a point in kHz. -/
def opKhz (cls op : Nat) : Nat :=
  match cls with
  | 0 => [1600000, 1300000, 900000, 500000].getD op 0
  | 1 => [1400000, 1137500, 787500, 437500].getD op 0
  | _ => [1250000, 1015625, 703125, 390625].getD op 0

/-- Voltage of a point in mV. -/
def opMv (op : Nat) : Nat := [750, 700, 620, 550].getD op 0

/-- The target voltage of an island at a point: with its trim, at most 0.85 V. -/
def State.islMv (s : State) (i op : Nat) : Nat := min 850 (opMv op + s.get (ISL_V_TRIM_MV i))

/-- The target frequency in MHz, rounded down, with the cap of R566. -/
def State.islMhz (s : State) (i op : Nat) : Nat := opKhz (islClass (i % 32)) op * (256 - s.get (MON_F_CAP (i / 32) (i % 32))) / 256 / 1000

/-- The islands of the part. -/
def State.islands (s : State) : List Nat := s.dies.flatMap fun d => (List.range 28).map fun j => 32 * d + j

/-- The point an island will have when the requests made so far are done. -/
def State.islOp (s : State) (i : Nat) : Nat :=
  match (s.pwr.seqQ.filter fun r => r.isl == i).getLast? with
  | some r => r.op
  | none => s.get (ISL_OP_USED i)

def State.showSeq (s : State) : State :=
  s.put SEQ_STATUS_QUEUED (s.pwr.seqQ.length - s.get SEQ_STATUS_BUSY)

/-- A request joins the sequencer's queue. -/
def State.seqRequest (s : State) (i op : Nat) (gov : Bool) : State :=
  ({ s with pwr := { s.pwr with seqQ := s.pwr.seqQ ++ [SeqReq.mk i (s.islMv i op) (s.islMhz i op) op gov] } }).showSeq

/-- The rail voltage VDD_GAL needs: the highest of its islands plus 50 mV (R528). -/
def State.galMv (s : State) : Nat :=
  ((s.islands.filter fun i => decide (i % 32 ≤ 17)).map fun i => s.get (ISL_V_NOW_MV i)).foldl max 0 + 50

/-- VDD_GAL is set over AVSBus. -/
def State.setGalRail (s : State) (mv : Nat) : State :=
  if s.get (RAIL_SET_MV 2) = mv then s else (s.put (RAIL_SET_MV 2) mv).emitOut (.railOn 2 mv)

/-- An island's voltage slews at 10 mV/µs. -/
def State.slew (s : State) (i mv : Nat) : State :=
  let v := s.get (ISL_V_NOW_MV i)
  (s.advance (s.now + (max v mv - min v mv) * tUs / 10)).put (ISL_V_NOW_MV i) mv

/-- The sequencer starts the request at the head of its queue: a raise lifts the rail and the island's voltage first, a lowering
lowers the frequency first, whatever order the request asked for (`reorder`). A raise under the governor waits for it
(R534). -/
def execSequencerRequest (reorder : Bool) (s : State) : Host.Outcome State Fault Refusal :=
  match s.pwr.seqQ with
  | [] => ok s
  | r :: rest =>
    if s.get SEQ_STATUS_BUSY = 1 ∨ s.mode = mDORMANT ∨ s.mode = mRETAIN then ok s
    else if r.governor = false ∧ r.op < s.get (ISL_OP_USED r.isl) ∧ s.pwr.throttle ≠ 0 then
      ok ({ s with pwr := { s.pwr with seqQ := rest, raises := s.pwr.raises ++ [r] } }).showSeq
    else
      let s1 := ((s.put SEQ_STATUS_BUSY 1).put SEQ_STATUS_ISLAND r.isl).showSeq
      let s2 := if reorder then ((s1.bump SEQ_STATUS_REORDERED).raise PWR_EVENTS_REORDER).emit 0x1B dcPACKAGE 0 0 r.isl 0 else s1
      if s.get (ISL_V_NOW_MV r.isl) < r.mv then
        let need := (s2.put (ISL_V_NOW_MV r.isl) r.mv).galMv
        let s3 := if r.isl % 32 ≤ 17 then s2.setGalRail (max (s.get (RAIL_SET_MV 2)) need) else s2
        ok (s3.slew r.isl r.mv)
      else ok (s2.put (ISL_F_NOW_MHZ r.isl) r.mhz)

/-- The change of the island at the head of the queue is done; the rail follows its islands down last. -/
def execSequencerDone (s : State) : Host.Outcome State Fault Refusal :=
  match s.pwr.seqQ with
  | [] => ok s
  | r :: rest =>
    if s.get SEQ_STATUS_BUSY = 0 then ok s
    else
      let s1 := ((s.slew r.isl r.mv).put (ISL_F_NOW_MHZ r.isl) r.mhz).put (ISL_OP_USED r.isl) r.op
      let s2 := { s1.put SEQ_STATUS_BUSY 0 with pwr := { s1.pwr with seqQ := rest } }
      ok ((if r.isl % 32 ≤ 17 then s2.setGalRail s2.galMv else s2).showSeq)

/-- At a wake every regulated island runs at OP3 (R523), and nothing is queued. -/
def State.islandsLow (s : State) : State :=
  let s1 := ({ s with pwr := { s.pwr with seqQ := [], raises := [] } }.put SEQ_STATUS_BUSY 0).put SEQ_STATUS_QUEUED 0
  forAll s1.islands s1 fun s i => ((s.put (ISL_OP_USED i) 3).put (ISL_V_NOW_MV i) (s.islMv i 3)).put (ISL_F_NOW_MHZ i) (s.islMhz i 3)

/-- The points of the POWER section are applied at entry into ALIGN and at every programme switch (R523). -/
def State.applyPoints (s : State) : State :=
  forAll s.islands s fun s i => if s.islOp i = s.get (ISL_OP_CFG i) then s else s.seqRequest i (s.get (ISL_OP_CFG i)) false

/-- The governor lowers an island by one point (R525). -/
def State.throttleIsland (s : State) (i : Nat) : State :=
  if 3 ≤ s.islOp i then s
  else
    let op := s.islOp i + 1
    (s.seqRequest i op true).emit 0x1A (i / 32) 0 0 i op

def State.throttleDown (s : State) : State :=
  let s1 := ({ s with pwr := { s.pwr with throttle := min 3 (s.pwr.throttle + 1) } }.put PWR_MODE_THROTTLED 1).raise PWR_EVENTS_THROTTLE
  forAll s1.islands s1 State.throttleIsland

/-- The junction temperature `t` (°C) exceeds THROTTLE_C. -/
def execThermalThrottle (t : Nat) (s : State) : Host.Outcome State Fault Refusal :=
  if s.get PWR_CFG_THROTTLE_C < t ∧ (s.runs = true ∨ s.mode = mMUSTER) ∧ s.pwr.throttle = 0 then
    ok (s.throttleDown.setTimer tkThrottle s.now)
  else ok s

/-- Every temperature sensor of die d is suspect: the governor treats the die as above THROTTLE_C (R563). -/
def State.blindDie (s : State) (d : Nat) : Bool := (List.range 8).all fun m => s.get (ITEM_STATE_SUSPECT d (m + 1)) == 1

/-- A die whose sensors are all suspect is lowered to OP3 (R563). -/
def State.blindDown (s : State) (d : Nat) : State :=
  let s1 := ({ s with pwr := { s.pwr with throttle := 3 } }.put PWR_MODE_THROTTLED 1).raise PWR_EVENTS_THROTTLE
  forAll ((List.range 28).map fun j => 32 * d + j) (s1.setTimer tkThrottle s1.now) fun s i =>
    if s.islOp i < 3 then (s.seqRequest i 3 true).emit 0x1A d 0 0 i 3 else s

/-- One point back towards the configured ones; raises that waited go on. A die whose sensors are all suspect stays at OP3. -/
def State.throttleUp (s : State) : State :=
  let n := max (s.pwr.throttle - 1) (b2n (s.dies.any s.blindDie))
  let s1 := { s with pwr := { s.pwr with throttle := n, seqQ := s.pwr.seqQ ++ s.pwr.raises.map (fun r => { r with governor := true }),
                                         raises := [] } }
  let s2 := forAll s1.islands s1 fun s i =>
    if s.get (ISL_OP_CFG i) < s.islOp i ∧ s.blindDie (i / 32) = false then s.seqRequest i (s.islOp i - 1) true else s
  (s2.put PWR_MODE_THROTTLED (b2n (n ≠ 0))).showSeq

/-- Ten seconds above THROTTLE_C, or below THROTTLE_C - HYST_C, have passed. -/
def execThrottleTimer (t : Nat) (s : State) : Host.Outcome State Fault Refusal :=
  if s.pwr.throttle = 0 ∨ (s.runs = false ∧ s.mode ≠ mMUSTER) then ok s
  else
    let s1 := s.pace tkThrottle (10 * tSec)
    if s.get PWR_CFG_THROTTLE_C < t then ok s1.throttleDown
    else if t + s.get PWR_CFG_HYST_C < s.get PWR_CFG_THROTTLE_C then ok s1.throttleUp
    else ok s1

end Sys2Proof.Machine
end

