-- ==== Sys2Proof/Machine/Link.lean ====
section
/-! DEFINITION. The Griwano link (chapter 8): chain states, training, packets, link-control blocks, retry, credit and
sleep. -/

namespace Sys2Proof.Machine

open Reg

/-- The unit of chain k (R540). -/
def chainUnit (k : Nat) : UnitId := ⟨kDie k, 3, kIdx k⟩

/-- The line reference of a chain loses its activity (R374, R224). -/
def State.lineFail (s : State) (k : Nat) : State :=
  if s.refState (4 + k) ≠ rfOFF then
    ((s.put (REF_STATUS_ACTIVE (4 + k)) 0).setRef (4 + k) { s.ref (4 + k) with active := false }).refInvalid (4 + k)
  else s

/-- The ring targets whose packets take chain k now (R357). -/
def State.collectorsVia (s : State) (k : Nat) : List (Nat × Nat) :=
  (s.rings.map (·.1)).flatMap fun r =>
    (s.liveTargets r).filterMap fun t =>
      match s.routeOf (ringDie r) (s.targetOf r t).2 3 with
      | some (j, _) => if (s.targetOf r t).1 = 3 ∧ j = k then some (r, t) else none
      | none => none

/-- Those targets resend from ACKED + 1 (R359). -/
def State.resendAll (s : State) (l : List (Nat × Nat)) : State := forAll l s fun s e => s.resend e.1 e.2

/-! ### Deaccession and retraining (R202, R220, R221) -/

/-- The chain is deaccessioned: `bucket` 0 CRC, 1 RETRAIN, 2 training (R220, R221). A packet that names no destination goes the way
to the partner (log entry 54). -/
def State.deaccChain (s : State) (k bucket : Nat) : State :=
  if s.chState k = csDEACC then s
  else
    let d := kDie k
    let c := kIdx k
    let via := s.collectorsVia k
    let q := s.chain k
    let back := (q.replay ++ q.vc0 ++ q.vc2 ++ q.vc3).filter fun p => p.vc != 1
    let s1 := ((s.setCh k csDEACC).putBit (GWL_STATUS_CH_ACTIVE d) c false).putBit (GWL_STATUS_CH_DEACC d) c true
    let s2 := ((s1.raise (GWL_EVENTS_DEACC d)).setChain k
      { q with replay := [], resend := [], vc0 := [], vc1 := [], vc2 := [], vc3 := [] }).beginFault (chainUnit k) 0x5B
    let s3 := s2.deaccUnit (chainUnit k) 0x5B bucket 0 0
    let s4 := forAll back s3 fun s p => s.sendUni d (if p.typ = 1 then p else { p with dst := s.get (CH_PEER_PEER_DEV d c) }) false
    (((s4.showChain k).lineFail k |>.upstreamLost k).resendAll via).recoverFault (chainUnit k)

/-- The RETRAIN bucket gains 1; beyond its threshold the chain is deaccessioned. -/
def State.rtBucket (s : State) (k : Nat) : State :=
  let s1 := s.charge ⟨kDie k, 3, kIdx k⟩ 1 (GWL_CH_STATUS_RT_BKT (kDie k) (kIdx k))
  if s.get (GWL_BUCKET_CFG_RT_THRESH (kDie k)) < s1.get (GWL_CH_STATUS_RT_BKT (kDie k) (kIdx k)) then s1.deaccChain k 1 else s1

/-- The CRC bucket gains 1; beyond its threshold the chain is deaccessioned. -/
def State.crcBucket (s : State) (k : Nat) : State :=
  let s1 := s.charge ⟨kDie k, 3, kIdx k⟩ 0 (GWL_CH_STATUS_CRC_BKT (kDie k) (kIdx k))
  if s.get (GWL_BUCKET_CFG_CRC_THRESH (kDie k)) < s1.get (GWL_CH_STATUS_CRC_BKT (kDie k) (kIdx k)) then s1.deaccChain k 0 else s1

/-- Every lane's training ordered set. -/
def State.sendTosAll (s : State) (k : Nat) : State := forAll [0, 1, 2, 3] s fun s l => s.sendTos k l

/-- The bound on a wake in ns, from its level, the other direction's and the rate (R223). -/
def State.wakeBound (s : State) (k : Nat) : Nat :=
  let d := kDie k
  let c := kIdx k
  (if s.get (GWL_CH_STATUS_TX_SLEEP d c) = 1 then 100 else if s.get (GWL_CH_STATUS_RX_SLEEP d c) = 2 then 55000 else 15000) +
    ceilDiv (1032 * charPs (s.get (GWL_CH_CFG_RATE d c))) 1000

/-- A sleeping transmit direction wakes (R223): driver, 1,024 COM per lane, one AOS; the wake took `ns`, at most the bound. -/
def State.wakeTx (s : State) (k ns : Nat) : State :=
  let d := kDie k
  let c := kIdx k
  let n := min ns (s.wakeBound k)
  let s1 := ((s.emitOut (.wake k)).emitOut (.fill k 4096)).sendAosSet k
  let s2 := (s1.advance (s1.now + n * 65536)).chainTxAwake k
  s2.put (CH_SLEEP_WAKE_MAX_NS d c) (max (s2.get (CH_SLEEP_WAKE_MAX_NS d c)) (min n 65535))

/-- The chain retrains from the taps in use (R202); a sleeping transmit direction wakes first (R227). The RETRAIN bucket is not
charged. -/
def State.retrainFree (s : State) (k : Nat) : State :=
  let d := kDie k
  let c := kIdx k
  let x := s.draw 16
  let s0 := if s.get (GWL_CH_STATUS_TX_SLEEP d c) = 0 then s else x.2.wakeTx k x.1
  let s1 := ((s0.setCh k csTRAIN).putBit (GWL_STATUS_CH_ACTIVE d) c false).raise (GWL_EVENTS_RETRAIN d)
  let s2 := ((s1.bump (CH_COUNT1_RETRAINS d c)).put (GWL_CH_STATUS_REPLAYS d c) 0).lanesTo k 2 true
  let s3 := (s2.put (GWL_CH_STATUS_RX_SLEEP d c) 0).putBit (GWL_STATUS_RX_ASLEEP d) c false
  ((s3.setChain k { s3.chain k with aosBad := 0, resend := [] }).lineFail k).sendTosAll k

/-- A retrain that charges the RETRAIN bucket (R221). -/
def State.retrain (s : State) (k : Nat) : State := (s.retrainFree k).rtBucket k

/-- A protocol error (R215, R216). -/
def State.protoError (s : State) (k : Nat) : State := (s.raise (GWL_EVENTS_PROTO (kDie k))).retrain k

/-- An enabled chain in OFF begins DETECT in a mode that runs (R202). -/
def State.chainStart (s : State) (k : Nat) : State :=
  if s.chState k = csOFF ∧ s.get (GWL_CH_CFG_EN (kDie k) (kIdx k)) = 1 ∧ s.runs = true then (s.setCh k csDETECT).lanesTo k 1 false else s

/-! ### Characters received (R197, R198, R211) -/

/-- Groups on one lane: their characters, and the code and disparity errors among them. -/
def readLane (pos : Bool) : List Nat → List (Option Chr) × Nat × Nat
  | [] => ([], 0, 0)
  | g :: gs =>
    let r := readLane (rdNext pos g) gs
    (gChar g :: r.1, b2n (gChar g == none) + r.2.1, b2n (wrongDisparity pos g) + r.2.2)

/-- Code and disparity errors counted on a lane. -/
def State.laneErrs (s : State) (k lane code disp : Nat) : State :=
  (s.bumpBy (LN_ERRCNT_CODE (kDie k) (kLane k lane)) code).bumpBy (LN_ERRCNT_DISP (kDie k) (kLane k lane)) disp

/-- The groups of a stream that fall on logical lane l, as the lane's polarity gives them. -/
def State.laneGroups (s : State) (k l start : Nat) (x : RxLine) : List Nat :=
  let inv := s.getBit (CH_PEER_POL_INV (kDie k) (kIdx k)) l
  ((x.groups.zipIdx.filter fun e => (start + e.2) % 4 == l).map (·.1)).map fun g => if inv then 1023 - g else g

/-- The characters of a stream in order, and the errors counted on the physical lanes that carried them. -/
def State.readStream (s : State) (k start : Nat) (x : RxLine) : List (Option Chr) × State :=
  let cols := (List.range 4).map fun l => readLane (x.rd.getD l false) (s.laneGroups k l start x)
  let pick := fun (i : Nat) => ((cols.map (·.1)).getD ((start + i) % 4) []).getD (i / 4) none
  ((List.range x.groups.length).map pick,
    forAll (List.range 4) s fun s l =>
      let c := cols.getD l ([], 0, 0)
      s.laneErrs k (bitsOf (s.get (CH_PEER_LANE_MAP (kDie k) (kIdx k))) (2 * l) 2) c.2.1 c.2.2)

/-- A stream without the alignment ordered sets of its four lanes, which may fall inside a packet (R199). -/
def dropAos : Nat → List (Option Chr) → List (Option Chr)
  | 0, cs => cs
  | _, [] => []
  | n + 1, c :: cs => if c = some gAOS then dropAos n (cs.drop 31) else c :: dropAos n cs

/-- The octets of leading data characters. -/
def dataOctets : List (Option Chr) → List Nat
  | some c :: cs => if c.ctl then [] else c.oct :: dataOctets cs
  | _ => []

/-- A span word of nine octets. -/
def octetWord (l : List Nat) : Word := BitVec.ofNat 72 (ofOctets (l.take 9))

/-- The packet of a header span word (R209), its payload given. -/
def pktOfHeader (h : Word) (pay : List Word) : Pkt :=
  ⟨h.bits 0 4, h.bits 4 2, h.bits 6 16, h.bits 22 16, h.bits 38 3, h.bits 68 4, h.bits 62 6, h.bits 46 16, pay⟩

/-- What the characters after SOP are (R211). -/
inductive PktSeen where
  | nullified
  | bad (octs : List Nat)
  | whole (p : Pkt)
deriving DecidableEq, Repr

/-- The characters after SOP: a packet when its CRC is right, EOP follows the payload length and nothing but data lies before. -/
def readPacket (cs : List (Option Chr)) : PktSeen :=
  let o := dataOctets cs
  let h := octetWord o
  let n := h.bits 41 5 + 1
  if cs.getLast? = some (some gEDB) then .nullified
  else if o.length = 9 * (n + 1) + 4 ∧ cs.drop o.length = [some gEOP] ∧
      ofOctets (o.drop (9 * (n + 1))) = crc32 (o.take (9 * (n + 1))) then .whole (pktOfHeader h (packOctets n (o.drop 9)))
  else .bad o

/-- A link-control block of twelve characters, when its check is right (R212). -/
def readLcb (cs : List (Option Chr)) : Option Lcb :=
  let o := dataOctets (cs.drop 1)
  if cs.length = 12 ∧ cs.head? = some (some gLCS) ∧ o.length = 11 ∧ ofOctets (o.drop 9) = crc16 (o.take 9) then
    some (lcbOfWord (octetWord o))
  else none

/-! ### Training (R203 to R206) -/

/-- Signal and symbol lock on all four lanes: TRAIN, and in the first TRAIN after OFF the preset taps and a PRESET
request (R202, R204, R205). -/
def execSignalDetect (k : Nat) (s : State) : Host.Outcome State Fault Refusal :=
  if s.chState k = csDETECT then
    let d := kDie k
    let first := (s.chain k).firstTrain
    let s1 := (s.setCh k csTRAIN).lanesTo k 2 (!first)
    let s2 := forAll [0, 1, 2, 3] s1 fun s l => s.put (LN_STATUS_SYMLOCK d (kLane k l)) 1
    if first then
      let s3 := forAll [0, 1, 2, 3] s2 fun s l =>
        ((s.put (LN_TAPS_PRE d (kLane k l)) 0).put (LN_TAPS_MAIN d (kLane k l)) 52).put (LN_TAPS_POST d (kLane k l)) 8
      let q := s3.chain k
      ok ((s3.setChain k
        { q with firstTrain := false, lanes := q.lanes.map fun l => { l with req := 64, rseq := (l.rseq + 1) % 256 } }).sendTosAll k)
    else ok (s2.sendTosAll k)
  else ok s

/-- A transmitter setting is within the limits of R204. -/
def tapsOk (p m q : Int) : Bool :=
  decide (0 ≤ p ∧ p ≤ 12 ∧ 24 ≤ m ∧ m ≤ 63 ∧ 0 ≤ q ∧ q ≤ 24 ∧ p + m + q ≤ 63 ∧ 16 ≤ m - p - q)

/-- The change a two-bit request asks for. -/
def tapDelta (r : Nat) : Int := if r = 1 then 1 else if r = 2 then -1 else 0

/-- A request applied to taps (pre, main, post): the new taps and the status octet's low six bits. The taps are taken in
the order of their fields, each within the limits as they then stand (R204). -/
def applyReq (req : Nat) (p m q : Int) : (Int × Int × Int) × Nat :=
  if bit req 6 then ((0, 52, 8), 0x15)
  else
    let dp := tapDelta (bitsOf req 0 2)
    let okp := tapsOk (p + dp) m q
    let p1 := if okp then p + dp else p
    let dm := tapDelta (bitsOf req 2 2)
    let okm := tapsOk p1 (m + dm) q
    let m1 := if okm then m + dm else m
    let dq := tapDelta (bitsOf req 4 2)
    let okq := tapsOk p1 m1 (q + dq)
    let q1 := if okq then q + dq else q
    let st := fun (dl : Int) (good : Bool) => if dl = 0 then 0 else if good then 1 else 2
    ((p1, m1, q1), st dp okp + 4 * st dm okm + 16 * st dq okq)

/-- A lane's training failed: the attempt fails with its first failed lane (R202, R221). -/
def State.laneFailed (s : State) (k lane : Nat) : State :=
  let q := s.chain k
  let first := q.lanes.all fun l => !l.failed
  let s1 := (s.put (LN_STATUS_STATE (kDie k) (kLane k lane)) 4).setChain k
    { q with lanes := q.lanes.modify lane fun l => { l with failed := true } }
  if first then
    let q1 := s1.chain k
    let s2 := (s1.setChain k { q1 with tries := q1.tries + 1, failAt := s.now }).rtBucket k
    if s.get (GWL_TIMERS_TRAIN_TRIES (kDie k)) ≤ q1.tries + 1 then s2.deaccChain k 2 else s2
  else s1

/-- Every lane trained in both directions takes the chain to ALIGN, where its stream begins (R198, R202). -/
def State.checkTrained (s : State) (k : Nat) : State :=
  let q := s.chain k
  if s.chState k = csTRAIN ∧ (q.lanes.all fun l => l.trained && l.ready) = true then
    (s.setCh k csALIGN).setChain k { q with tries := 0, mismatchSent := false, pos := 0, aosNext := aosPeriod }
  else s

/-- The training ordered set of sixteen characters, when its check is right and it holds no code error (R203). -/
def readTos (cs : List (Option Chr)) : Option Tos :=
  let o := dataOctets (cs.drop 1)
  let f := fun i => o.getD i 0
  if cs.length = 16 ∧ cs.head? = some (some gTOS) ∧ o.length = 12 ∧ cs.drop 13 = [some gCOM, some gCOM, some gCOM] ∧
      f 11 = (o.take 11).foldl (· + ·) 0 % 256 then
    some ⟨f 0, f 1, f 2, f 3, f 4 + 256 * f 5, f 6, f 7, f 8, f 9, f 10⟩
  else none

/-- A valid training ordered set on lane `lane`: the partner is identified, its request is applied and answered, and its answer to
ours is noted. -/
def State.takeTos (s : State) (k lane : Nat) (t : Tos) : State :=
  let d := kDie k
  let c := kIdx k
  let n := kLane k lane
  let s1 := (s.put (CH_PEER_RX_DEV d c) t.dev).put (CH_PEER_RX_CHAIN d c) t.chain
  if s.chState k ≠ csTRAIN then s1
  else if t.rate ≠ s.get (GWL_CH_CFG_RATE d c) then s1.laneFailed k lane
  else
    let l := (s.chain k).lanes.getD lane .reset
    let new := decide (l.applied ≠ some t.rseq) && (bitsOf t.req 0 7 != 0)
    let r := applyReq t.req (s.get (LN_TAPS_PRE d n)) (s.get (LN_TAPS_MAIN d n)) (s.get (LN_TAPS_POST d n))
    let l1 := if new then { l with applied := some t.rseq, statOut := r.2 } else l
    let l2 := { l1 with ready := l1.ready || bit t.stat 6 }
    let l3 := if t.echo = l2.rseq ∧ l2.echoed = false then { l2 with stat := t.stat % 64, echoed := true, echoAt := s.now } else l2
    let s2 := s1.setChain k { s1.chain k with lanes := (s1.chain k).lanes.set lane l3 }
    let s3 := if new then
        (((s2.put (LN_TAPS_PRE d n) r.1.1.toNat).put (LN_TAPS_MAIN d n) r.1.2.1.toNat).put (LN_TAPS_POST d n) r.1.2.2.toNat).sendTos k lane
      else s2
    s3.checkTrained k

/-- Sixteen characters of a training ordered set on a lane, at the receiver's running disparity and polarity (R197, R203, R204). -/
def execTosReceived (k lane : Nat) (groups : List Nat) (s : State) (pos inv : Bool := false) : Host.Outcome State Fault Refusal :=
  if (s.chState k = csTRAIN ∨ s.chState k = csALIGN) ∧ lane < 4 then
    let r := readLane pos (groups.map fun g => if inv then 1023 - g else g)
    let s1 := s.laneErrs k lane r.2.1 r.2.2
    match readTos r.1 with
    | some t => ok (s1.takeTos k lane t)
    | none => ok s1
  else ok s

/-- The bits of REQ and STAT that belong to the search's tap: 0 post, 1 pre, 2 main. -/
def tapShift (tap : Nat) : Nat := if tap = 0 then 4 else if tap = 1 then 0 else 2

/-- The metric of R205 scaled by 60 · 102: 6,120 meets both targets. -/
def eyeMetric (h w : Nat) : Nat := min (h * 102) (w * 60)

/-- What the receiver does after a measurement: a request, or the end of the search (R205). -/
inductive EyeNext where
  | request (l : LaneTrain) (req : Nat)
  | done
deriving DecidableEq, Repr

/-- The top of the search's loop. -/
def eyeTop (l : LaneTrain) (m : Nat) : EyeNext :=
  if 6120 ≤ m ∨ 64 ≤ l.reqs then .done
  else .request { l with phase := 1, reqs := l.reqs + 1 } ((if l.dir = 0 then 1 else 2) * 2 ^ tapShift l.tap)

/-- The search leaves the direction it tried. -/
def eyeBreak (l : LaneTrain) (m : Nat) : EyeNext :=
  if l.dir = 0 then eyeTop { l with dir := 1 } m
  else if l.tap < 2 then eyeTop { l with tap := l.tap + 1, dir := 0, best := m } m
  else .done

/-- One step of R205's search on a measurement. -/
def eyeStep (l : LaneTrain) (m : Nat) : EyeNext :=
  if l.phase = 0 then eyeTop { l with tap := 0, dir := 0, best := m } m
  else if l.phase = 1 then
    if bitsOf l.stat (tapShift l.tap) 2 = 2 then eyeBreak l m
    else if l.best < m then eyeTop { l with best := m } m
    else .request { l with phase := 2, reqs := l.reqs + 1 } ((if l.dir = 0 then 2 else 1) * 2 ^ tapShift l.tap)
  else eyeBreak l m

/-- A lane is TRAINED: its own training ordered set carries READY (R205). -/
def State.laneTrained (s : State) (k lane : Nat) : State :=
  let q := s.chain k
  let s1 := (s.put (LN_STATUS_STATE (kDie k) (kLane k lane)) 3).putBit (GWL_STATUS_LANE_TRAINED (kDie k)) (kLane k lane) true
  ((s1.setChain k { q with lanes := q.lanes.modify lane fun l => { l with trained := true } }).sendTos k lane).checkTrained k

/-- 4 µs after the answer to its last request the receiver measures the eye, and requests or finishes (R205). -/
def execEyeMeasure (k lane h w : Nat) (s : State) : Host.Outcome State Fault Refusal :=
  let l := (s.chain k).lanes.getD lane .reset
  let d := kDie k
  let n := kLane k lane
  if s.chState k = csTRAIN ∧ lane < 4 ∧ l.trained = false ∧ l.failed = false ∧ l.echoed = true then
    let s1 := ((((s.advance (l.echoAt + 4 * tUs)).put (LN_EYE_HEIGHT_MV d n) h).put (LN_EYE_WIDTH d n) w).setTimer (tkEye d (16 + n))
      (max s.now (l.echoAt + 4 * tUs)))
    match eyeStep l (eyeMetric h w) with
    | .request l1 req =>
      let l2 := { l1 with req := req, rseq := (l1.rseq + 1) % 256, echoed := false }
      let q := s1.chain k
      ok (((s1.setChain k { q with lanes := q.lanes.set lane l2 }).put (LN_STATUS_REQS d n) l2.reqs).sendTos k lane)
    | .done =>
      if 6120 ≤ eyeMetric h w then ok ((s1.put (LN_STATUS_MARGINAL d n) 0).laneTrained k lane)
      else if 30 ≤ h ∧ 77 ≤ w then
        let s2 := (s1.raise (LN_STATUS_MARGINAL d n)).raise (GWL_EVENTS_MARGINAL d)
        ok ((s2.emit 0x58 d 3 (kIdx k) n (s2.rd (LN_EYE d n)).toNat).laneTrained k lane)
      else ok (s1.laneFailed k lane)
  else ok s

/-- 10 ms after a failed attempt, DETECT again (R202). -/
def execTrainRetry (k : Nat) (s : State) : Host.Outcome State Fault Refusal :=
  if s.chState k = csTRAIN ∧ ((s.chain k).lanes.any LaneTrain.failed) = true then
    ok (((s.advance ((s.chain k).failAt + 10 * tMs)).setCh k csDETECT).lanesTo k 1 false)
  else ok s

/-! ### Link-control blocks (R212, R213) -/

/-- The block this device would send for a credit pair. -/
def State.lcbNow (s : State) (k pair : Nat) : Lcb :=
  let q := s.chain k
  let d := kDie k
  let c := kIdx k
  let init := s.chState k == csINIT
  { ackSeq := (s.get (CH_SEQ_RX_EXPECT d c) + 65535) % 65536, nak := q.nakDue, creditReq := q.creditReq, pair := pair,
    init := init, creditLo := s.rxLimit k (2 * pair), creditHi := s.rxLimit k (2 * pair + 1), fresh := q.fresh && init,
    holdAwake := s.get (GWL_CH_CFG_LINE_REF d c) == 1 }

/-- The chain becomes ACTIVE once INIT blocks for both pairs went both ways (R202). -/
def State.checkInit (s : State) (k : Nat) : State :=
  let q := s.chain k
  if s.chState k = csINIT ∧ q.initSent = 3 ∧ q.initRcvd = 3 then
    let d := kDie k
    let c := kIdx k
    let s1 := ((s.setCh k csACTIVE).putBit (GWL_STATUS_CH_ACTIVE d) c true).put (GWL_CH_STATUS_ACTIVE_SINCE_S d c) s.secs
    let sawFresh := q.fresh || s.get (GWL_CH_STATUS_FRESH_SEEN d c) == 1
    let s2 := (s1.setChain k { q with fresh := false, parked := false, aosBad := 0 }).retryHeld.showChain k
    if sawFresh then s2.resendAll (s2.collectorsVia k) else s2
  else s

/-- An LCB goes out, with the next pair (R213); within 12 characters of a due AOS, that goes first (R199). -/
def State.sendLcb (s : State) (k : Nat) : State :=
  let q0 := s.chain k
  let s0 := if q0.aosNext ≤ q0.pos + 12 then (s.fillTo k q0.aosNext).sendAosSet k else s
  let q := s0.chain k
  let b := s0.lcbNow k q.pairNext
  let s1 := (s0.emitOut (.lcb k b)).setChain k
    { q with pairNext := 1 - q.pairNext, nakDue := false, lcbDue := false, accSince := 0, lcbAt := s.now,
             lcb0 := if q.pairNext = 0 then some b else q.lcb0,
             lcb1 := if q.pairNext = 0 then q.lcb1 else some b,
             granted := (q.granted.set (2 * q.pairNext) b.creditLo).set (2 * q.pairNext + 1) b.creditHi,
             initSent := if b.init then q.initSent ||| 2 ^ q.pairNext else q.initSent }
  (s1.sendStream k (lcbChars b)).checkInit k

/-- Some value differs from the last one sent. -/
def State.lcbChanged (s : State) (k : Nat) : Bool :=
  (s.chain k).lcb0 != some (s.lcbNow k 0) || (s.chain k).lcb1 != some (s.lcbNow k 1)

/-- The chain's transmit direction is awake and the chain carries blocks. -/
def State.txAwake (s : State) (k : Nat) : Bool :=
  (s.chState k == csACTIVE || s.chState k == csINIT) && s.get (GWL_CH_STATUS_TX_SLEEP (kDie k) (kIdx k)) == 0

/-- 1 µs, or LC_REFRESH_US when that is less, since the last block, with changed values: an LCB is sent (R213). -/
def execLcbSendTimer (k : Nat) (s : State) : Host.Outcome State Fault Refusal :=
  if s.txAwake k = true ∧ s.lcbChanged k = true then
    ok ((s.advance ((s.chain k).lcbAt + min 1 (s.get (GWL_TIMERS_LC_REFRESH_US (kDie k))) * tUs)).sendLcb k)
  else ok s

/-- The chain enters INIT; its own lost link state is sent FRESH (R219). -/
def State.enterInit (s : State) (k : Nat) : State :=
  let q := s.chain k
  let s1 := ((s.setCh k csINIT).put (GWL_CH_STATUS_FRESH_SEEN (kDie k) (kIdx k)) 0).setChain k
    { q with initSent := 0, initRcvd := 0, lcbDue := true }
  if q.fresh then s1.freshLink k else s1

/-- A retransmission of every unacknowledged packet (R215). -/
def State.replayAll (s : State) (k : Nat) : State :=
  let d := kDie k
  let c := kIdx k
  let q := s.chain k
  if s.get (GWL_TIMERS_REPLAY_NUM d) ≤ s.get (GWL_CH_STATUS_REPLAYS d c) then s.retrain k
  else
    (((s.setChain k { q with resend := q.replay, ackAt := s.now }).bump (GWL_CH_STATUS_REPLAYS d c)).bump (CH_COUNT1_REPLAYS d c)).raise
      (GWL_EVENTS_REPLAY d)

/-- A cumulative acknowledgement, and the NAK that may come with it (R214, R215). -/
def State.takeAck (s : State) (k ack : Nat) (nak : Bool) : State :=
  let d := kDie k
  let c := kIdx k
  let q := s.chain k
  let next := s.get (CH_SEQ_TX_NEXT d c)
  let n := q.replay.length
  let m := (ack + 1 + 65536 - (next + 65536 - n) % 65536) % 65536
  if m ≤ n then
    let s1 := (s.setChain k
      { q with replay := q.replay.drop m, resend := q.resend.filter fun p => (q.replay.drop m).contains p,
               ackAt := if 0 < m then s.now else q.ackAt, actAt := if 0 < m then s.now else q.actAt }).put (CH_SEQ_TX_ACKED d c) ack
    let s2 := if 0 < m then s1.put (GWL_CH_STATUS_REPLAYS d c) 0 else s1
    if nak = true ∧ m < n then s2.replayAll k else s2
  else if (ack + 1 + 65536 - next) % 65536 < 32768 then s.protoError k
  else if nak then s.setChain k { q with nakIgnored := q.nakIgnored + 1 }
  else s

/-! ### Alignment (R199 to R201, R207) -/

/-- Every lane sends an AOS with the next MC where it is due in the stream (R199); none during sleep (R222). -/
def execAosSend (k : Nat) (s : State) : Host.Outcome State Fault Refusal :=
  if csALIGN ≤ s.chState k ∧ s.chState k ≤ csACTIVE ∧ s.get (GWL_CH_STATUS_TX_SLEEP (kDie k) (kIdx k)) = 0 then
    ok ((s.fillTo k (s.chain k).aosNext).sendAosSet k)
  else ok s

/-- A marker read from one lane's eight characters, its check right (R199): LN and MC. -/
def readAos (l : AosLane) : Option (Nat × Nat) :=
  let cs := l.groups.map fun g => gChar (if l.inv then 1023 - g else g)
  let o := dataOctets (cs.drop 1)
  if cs.length = 8 ∧ cs.head? = some (some gAOS) ∧ o.length = 5 ∧ cs.drop 6 = [some gSKP, some gSKP] ∧
      o.getD 4 0 = (o.take 4).foldl (· + ·) 0 % 256 then
    some (o.getD 0 0, ofOctets ((o.drop 1).take 3))
  else none

/-- The markers of all lanes carry one MC. -/
def mcAgree (ms : List (Nat × Nat)) : Bool :=
  match ms with
  | [] => true
  | l :: r => r.all fun x => x.2 == l.2

/-- The lanes are deskewed within reach and each logical lane is there once (R201, R202). -/
def lanesAligned (ls : List AosLane) (ms : List (Nat × Nat)) : Bool :=
  decide (ls.length = 4 ∧ ms.length = 4) && (ls.all fun l => decide (l.skew ≤ 128)) && mcAgree ms &&
    ([0, 1, 2, 3].all fun n => (ms.filter fun m => m.1 == n).length == 1)

/-- The lanes' deskew, order and polarity as found (R201). -/
def State.noteLanes (s : State) (k : Nat) (ls : List AosLane) (ms : List (Nat × Nat)) : State :=
  let d := kDie k
  let c := kIdx k
  let far := (ls.map AosLane.skew).foldl max 0
  forAll (List.range 4) s fun s i =>
    match ls[i]?, ms[i]? with
    | some l, some m =>
      let n := kLane k i
      let s1 := ((s.put (LN_STATUS_LOGICAL d n) m.1).put (LN_STATUS_POL_INV d n) (b2n l.inv)).put (LN_STATUS_DESKEW d n)
        (far - l.skew)
      (s1.put (CH_PEER_LANE_MAP d c) (withBits (s1.get (CH_PEER_LANE_MAP d c)) (2 * m.1) 2 i)).putBit (CH_PEER_POL_INV d c)
        m.1 l.inv
    | _, _ => s

/-- In ALIGN an AOS on every lane: the lanes are deskewed and the partner is checked (R201, R202, R207). -/
def State.alignCheck (s : State) (k : Nat) (ls : List AosLane) (ms : List (Nat × Nat)) : State :=
  let d := kDie k
  let c := kIdx k
  if lanesAligned ls ms then
    let s2 := s.noteLanes k ls ms
    if s.get (CH_PEER_RX_DEV d c) = s.get (CH_PEER_PEER_DEV d c) ∧ s.get (CH_PEER_RX_CHAIN d c) = s.get (CH_PEER_PEER_CHAIN d c) then
      s2.enterInit k
    else if (s.chain k).mismatchSent then s2
    else
      ((s2.raise (GWL_EVENTS_PEER_MISMATCH d)).setChain k { s2.chain k with mismatchSent := true }).emit 0x59 d 3 c k
        (s.get (CH_PEER_RX_DEV d c) + s.get (CH_PEER_RX_CHAIN d c) * 2 ^ 16)
  else s

/-- In INIT or ACTIVE the markers of at least two lanes: a second disagreement, or the first after a wake, retrains (R201, R202,
R223). -/
def State.aosCheck (s : State) (k : Nat) (ms : List (Nat × Nat)) : State :=
  let d := kDie k
  let c := kIdx k
  let slept := s.get (GWL_CH_STATUS_RX_SLEEP d c) ≠ 0
  let s2 := (s.put (GWL_CH_STATUS_RX_SLEEP d c) 0).putBit (GWL_STATUS_RX_ASLEEP d) c false
  if mcAgree ms then s2.setChain k { s2.chain k with aosBad := 0 }
  else if slept ∨ 1 ≤ (s.chain k).aosBad then s2.retrain k
  else s2.setChain k { s2.chain k with aosBad := 1 }

/-- Received AOS, one per physical lane: code errors, bad checks and disagreements are counted, and one with a bad check is
otherwise ignored (R199, R201, R207). -/
def execAosReceived (k : Nat) (lanes : List AosLane) (s : State) : Host.Outcome State Fault Refusal :=
  let d := kDie k
  let st := s.chState k
  if st = csALIGN ∨ st = csINIT ∨ st = csACTIVE then
    let ms := lanes.filterMap readAos
    let s1 := forAll (List.range 4) s fun s i =>
      match lanes[i]? with
      | none => s
      | some l => when (readAos l == none || !mcAgree ms) (·.bump (LN_ERRCNT_AOS_ERR d (kLane k i)))
          (s.laneErrs k i (l.groups.filter fun g => gChar (if l.inv then 1023 - g else g) == none).length 0)
    ok (if st = csALIGN then s1.alignCheck k lanes ms else if ms.length < 2 then s1 else s1.aosCheck k ms)
  else ok s

/-- A lane loses symbol lock; an ACTIVE chain retrains (R202). -/
def execSymbolLockLoss (k lane : Nat) (s : State) : Host.Outcome State Fault Refusal :=
  if s.chState k = csOFF ∨ s.chState k = csDEACC ∨ 4 ≤ lane then ok s
  else
    let s1 := (s.put (LN_STATUS_SYMLOCK (kDie k) (kLane k lane)) 0).lineFail k
    ok (if s.chState k = csACTIVE then s1.retrain k else s1)

/-! ### Packets (R211, R214 to R218) -/

/-- A packet discarded under R211: counted, and NAKed once until a packet is accepted (R215, R221). -/
def State.discardPkt (s : State) (k : Nat) : State :=
  let d := kDie k
  let q := s.chain k
  let s1 := (s.raise (GWL_EVENTS_CRC_ERR d)).bump (CH_COUNT1_CRC_ERR d (kIdx k))
  let s2 := if q.naked then s1 else s1.setChain k { q with naked := true, nakDue := true, lcbDue := true }
  s2.crcBucket k

/-- A packet that must be forwarded with HOPS 0 is dropped and counted (R218). -/
def State.hopDrop (s : State) (k : Nat) (p : Pkt) : State :=
  ((s.setChain k { s.chain k with hopDrops := (s.chain k).hopDrops + 1 }).raise (GWL_EVENTS_HOP_DROP (kDie k))).emit 0x5A (kDie k) 3
    (kIdx k) p.dst p.src

/-- The chains on which an accepted packet is forwarded (R218). -/
def State.onward (s : State) (k : Nat) (p : Pkt) : List Nat :=
  if p.typ = 1 then
    if p.dst = s.ownDev then []
    else match s.routeOf (kDie k) p.dst p.vc with
      | some (j, _) => [j]
      | none => []
  else if p.typ = 2 then (setBitsOf (s.get (GWL_CH_CFG_BCAST_OUT (kDie k) (kIdx k))) 16).filter fun j => s.chainUsable j p.vc
  else []

/-- What a device does with an accepted packet (R218). -/
def State.actPacket (s : State) (k lane : Nat) (p : Pkt) : State :=
  if p.typ = 3 then s.deliver (teKey k lane) p
  else if p.typ = 1 then
    if p.dst = s.ownDev then s.cross (kDie k) (localDie p) none p
    else if p.hops = 0 then s.hopDrop k p
    else s.sendUni (kDie k) { p with hops := p.hops - 1 } false
  else
    let s1 := s.cross (kDie k) (localDie p) none p
    let out := s.onward k p
    if out = [] then s1
    else if p.hops = 0 then s1.hopDrop k p
    else forAll out s1 fun s j => s.cross (kDie k) (kDie j) (some j) { p with hops := p.hops - 1 }

/-- A packet from die d for die e, or for chain `k` there, can leave the receive buffer (R17, R216). -/
def State.crossRoom (s : State) (d e : Nat) (k : Option Nat) (vc : Nat) : Bool :=
  if d = e then (match k with
    | some j => s.chainRoom j vc
    | none => s.inboxRoom e vc)
  else s.pkfRoom d vc

/-- Everything that takes the packet next has room for it. -/
def State.actRoom (s : State) (k lane : Nat) (p : Pkt) : Bool :=
  (if p.typ = 3 then s.inboxRoom (teKey k lane) p.vc
    else if p.typ = 1 ∧ p.dst ≠ s.ownDev then true else s.crossRoom (kDie k) (localDie p) none p.vc) &&
    (p.hops == 0 || (s.onward k p).all fun j => s.crossRoom (kDie k) (kDie j) (some j) p.vc)

/-- The packet leaves the receive buffer, whose words are credit again, and is acted on. -/
def State.leaveRx (s : State) (k : Nat) (e : Nat × Pkt) : State :=
  let q := s.chain k
  (s.setChain k { q with rx := q.rx.erase e, released := q.released.modify e.2.vc fun x => (x + pktCost e.2) % 2 ^ 24 }).actPacket k e.1 e.2

/-- Packets leave the receive buffer while there is room, in order within their virtual channel (R216, R217). -/
def State.drainRx (s : State) (k : Nat) : State :=
  ((s.chain k).rx.foldl
    (fun (r : State × List Nat) e =>
      if r.2.contains e.2.vc then r
      else if r.1.actRoom k e.1 e.2 then (r.1.leaveRx k e, r.2) else (r.1, e.2.vc :: r.2))
    (s, [])).1

/-- Whatever waits for room moves on (R17, R18). -/
def State.pump (s : State) : State :=
  let s1 := s.pumpPkf
  forAll (s1.chainsOf.filter fun k => (s1.chain k).rx != []) s1 State.drainRx

/-- An accepted packet enters the receive buffer with its SEQ consumed (R211, R216). -/
def State.acceptPkt (s : State) (k lane : Nat) (p : Pkt) : State :=
  let d := kDie k
  let c := kIdx k
  let q := s.chain k
  let s1 := (s.put (CH_SEQ_RX_EXPECT d c) ((s.get (CH_SEQ_RX_EXPECT d c) + 1) % 65536)).bump (CH_COUNT0_RX_PKTS d c)
  s1.setChain k
    { q with naked := false, accSince := q.accSince + 1, lcbDue := q.lcbDue || decide (64 ≤ q.accSince + 1),
             got := q.got.modify p.vc fun x => (x + pktCost p) % 2 ^ 24, rx := q.rx ++ [(lane, p)] }

/-- A packet already being forwarded when its check fails is ended with EDB on every chain it had begun to take (R211). -/
def State.nullify (s : State) (k : Nat) (o : List Nat) : State :=
  let p := pktOfHeader (octetWord o) (packOctets ((octetWord o).bits 41 5 + 1) (o.drop 9))
  if o.length < 9 ∨ p.hops = 0 then s
  else forAll ((s.onward k p).filter fun j => s.chState j == csACTIVE) s fun s j =>
    s.sendStream j (nullChars { p with hops := p.hops - 1, seq := s.get (CH_SEQ_TX_NEXT (kDie j) (kIdx j)) } o.length)

/-- The words of a packet exceed the credit granted and not yet used (R215). -/
def ChainSt.overdrawn (q : ChainSt) (p : Pkt) : Bool :=
  decide ((q.granted.getD p.vc 0 + 2 ^ 24 - q.got.getD p.vc 0) % 2 ^ 24 < pktCost p)

/-- A packet arrives, from SOP to its last character (R211); `begun` when its forwarding had begun. -/
def execPacketReceived (k start : Nat) (x : RxLine) (begun : Bool) (s : State) : Host.Outcome State Fault Refusal :=
  if s.chState k ≠ csACTIVE then ok s
  else
    let r := s.readStream k start x
    if r.1.head? ≠ some (some gSOP) then ok r.2
    else match readPacket (dropAos r.1.length (r.1.drop 1)) with
      | .nullified => ok r.2
      | .bad o => ok ((when begun (·.nullify k o) r.2).discardPkt k)
      | .whole p =>
        let e := s.get (CH_SEQ_RX_EXPECT (kDie k) (kIdx k))
        if p.typ = 0 ∨ 4 ≤ p.typ then ok (r.2.discardPkt k)
        else if p.seq = e then
          if (s.chain k).overdrawn p then ok (r.2.protoError k) else ok (r.2.acceptPkt k (start % 4) p).pump
        else if (e + 65535 - p.seq) % 65536 < 32768 then ok (r.2.setChain k { r.2.chain k with lcbDue := true })
        else ok (r.2.discardPkt k)

/-- A link-control block: acknowledgement, credit limits, the INIT exchange, CREDIT_REQ and HOLD_AWAKE (R212 to R216, R219,
R223). On the partner's FRESH, what this side had accepted goes on to its destinations first. -/
def State.takeLcb (s : State) (k : Nat) (l : Lcb) : State :=
  let d := kDie k
  let c := kIdx k
  let fresh := l.init && l.fresh && s.chState k == csINIT && s.get (GWL_CH_STATUS_FRESH_SEEN d c) == 0
  let s1 := if fresh then
      (((forAll (s.chain k).rx s fun s e => s.leaveRx k e).freshLink k).raise (GWL_CH_STATUS_FRESH_SEEN d c)).resendAll (s.collectorsVia k)
    else s
  let q := s1.chain k
  let s2 := s1.setChain k
    { q with limit := (q.limit.set (2 * l.pair) (l.creditLo % 2 ^ 24)).set (2 * l.pair + 1) (l.creditHi % 2 ^ 24),
             holdAwake := l.holdAwake, actAt := if l.holdAwake ∨ q.holdAwake = true then s.now else q.actAt,
             creditReq := q.creditReq && ([0, 1, 2, 3].any fun v => q.stalled v),
             lcbDue := q.lcbDue || l.creditReq,
             initRcvd := if l.init then q.initRcvd ||| 2 ^ l.pair else q.initRcvd }
  let s3 := if s2.chState k = csACTIVE then s2.takeAck k l.ackSeq l.nak else s2
  (s3.checkInit k).showChain k

/-- Twelve characters of a link-control block; one with a bad check is discarded. -/
def execLcbReceived (k start : Nat) (x : RxLine) (s : State) : Host.Outcome State Fault Refusal :=
  if s.chState k = csINIT ∨ s.chState k = csACTIVE then
    let r := s.readStream k start x
    match readLcb r.1 with
    | some l => ok (r.2.takeLcb k l)
    | none => ok r.2
  else ok s

/-- Span words unacknowledged. -/
def replayWords (l : List Pkt) : Nat := (l.map pktCost).foldl (· + ·) 0

/-- A new packet of the virtual channel may be sent (R214, R216). -/
def ChainSt.canSend (q : ChainSt) (v : Nat) : Bool :=
  match q.vc v with
  | [] => false
  | p :: _ => decide (pktCost p ≤ q.avail v) && decide (q.replay.length + 1 ≤ 4096) &&
      decide (replayWords q.replay + pktCost p ≤ 135168)

/-- A packet goes onto the lanes (R198, R208, R210). -/
def State.sendPkt (s : State) (k : Nat) (p : Pkt) : State := (s.emitOut (.packet k p)).sendStream k (packetChars p)

/-- The first packet of a virtual channel goes out for the first time. -/
def State.sendNew (s : State) (k v : Nat) : State :=
  let d := kDie k
  let c := kIdx k
  let q := s.chain k
  match q.vc v with
  | [] => s
  | p :: _ =>
    let n := s.get (CH_SEQ_TX_NEXT d c)
    let p1 := { p with seq := n }
    let q1 := { q.popVc v with replay := q.replay ++ [p1], used := q.used.modify v fun x => (x + pktCost p) % 2 ^ 24,
                               ackAt := if q.replay = [] then s.now else q.ackAt }
    let s1 := ((s.setChain k q1).sendPkt k p1).put (CH_SEQ_TX_NEXT d c) ((n + 1) % 65536)
    ((s1.bump (CH_COUNT0_TX_PKTS d c)).pm d 0x38 c 1).showChain k

/-- The choice between VC 0 and VC 3 by weighted round robin, and the weights left (R217). -/
def ChainSt.roundRobin (q : ChainSt) (w0 w3 : Nat) : Nat × Nat × Nat :=
  let reload := decide (q.rr0 = 0 ∧ q.rr3 = 0)
  let a := if reload then w0 else q.rr0
  let b := if reload then w3 else q.rr3
  if q.canSend 0 = true ∧ (q.canSend 3 = false ∨ 0 < a) then (0, a - 1, b) else (3, a, b - 1)

/-- At a packet boundary the transmitter chooses (R217). -/
def execTransmitChoice (k : Nat) (s : State) : Host.Outcome State Fault Refusal :=
  let q := s.chain k
  if s.txAwake k then
    if q.lcbDue then ok (s.sendLcb k).pump
    else if s.chState k ≠ csACTIVE then ok s
    else match q.resend with
      | p :: r => ok (((s.setChain k { q with resend := r }).sendPkt k p).pm (kDie k) 0x39 (kIdx k) 1).pump
      | [] =>
        if q.canSend 1 then ok (s.sendNew k 1).pump
        else if q.canSend 2 then ok (s.sendNew k 2).pump
        else if q.canSend 0 = true ∨ q.canSend 3 = true then
          let r := q.roundRobin (s.get (GWL_CH_CFG_W_VC0 (kDie k) (kIdx k))) (s.get (GWL_CH_CFG_W_VC3 (kDie k) (kIdx k)))
          ok ((s.setChain k { q with rr0 := r.2.1, rr3 := r.2.2 }).sendNew k r.1).pump
        else ok (s.showChain k).pump
  else ok s

/-- ACK_SEQ has not advanced for REPLAY_TO_US with packets unacknowledged (R215). -/
def execReplayTimeout (k : Nat) (s : State) : Host.Outcome State Fault Refusal :=
  if s.chState k = csACTIVE ∧ (s.chain k).replay ≠ [] then
    ok ((s.advance ((s.chain k).ackAt + s.get (GWL_TIMERS_REPLAY_TO_US (kDie k)) * tUs)).replayAll k)
  else ok s

/-- A packet waited for credit longer than CREDIT_TO_US: CREDIT_REQ and CREDIT_STALL. -/
def execCreditTimeout (k vc : Nat) (s : State) : Host.Outcome State Fault Refusal :=
  let q := s.chain k
  if s.chState k = csACTIVE ∧ q.stalled vc = true then
    let s1 := s.advance (q.stallAt.getD vc 0 + s.get (GWL_TIMERS_CREDIT_TO_US (kDie k)) * tUs)
    ok (((s1.raise (GWL_EVENTS_CREDIT_STALL (kDie k))).setChain k { q with creditReq := true, lcbDue := true }).showChain k)
  else ok s

/-! ### Sleep and wake (R222, R223) -/

/-- The direction has something to send. -/
def ChainSt.waiting (q : ChainSt) : Bool :=
  q.lcbDue || q.vc0 != [] || q.vc1 != [] || q.vc2 != [] || q.vc3 != [] || q.resend != []

/-- SLP, the level, SLP and SLP on every lane at one stream position (R222). -/
def State.sendSlp (s : State) (k lv : Nat) : State :=
  let s1 := s.fillTo k ((s.chain k).pos + (4 - (s.chain k).pos % 4) % 4)
  let r := (s1.chain k).onLanes 4 fun _ => [gSLP, dChr lv, gSLP, gSLP]
  (s1.setChain k { r.2 with sleptAt := s.now }).emitOut (.line k r.1)

/-- Idle for SLEEP_IDLE_US: the direction sleeps (R222). -/
def execSleepIdle (k : Nat) (s : State) : Host.Outcome State Fault Refusal :=
  let d := kDie k
  let c := kIdx k
  let q := s.chain k
  let lv := s.get (GWL_CH_CFG_SLEEP_TX d c)
  if s.chState k = csACTIVE ∧ s.get (GWL_CH_STATUS_TX_SLEEP d c) = 0 ∧ (lv = 1 ∨ lv = 2) ∧ q.waiting = false ∧ q.replay = [] ∧
      q.holdAwake = false then
    let s1 := s.advance (q.actAt + s.get (GWL_CH_CFG_SLEEP_IDLE_US d c) * tUs)
    let s2 := (s1.emitOut (.sleep k lv)).sendSlp k lv
    ok (((s2.put (GWL_CH_STATUS_TX_SLEEP d c) lv).putBit (GWL_STATUS_TX_ASLEEP d) c true).bump (CH_SLEEP_ENTRIES d c))
  else ok s

/-- SLP is received: the partner's direction sleeps (R222), a loss of activity of a line reference (R224). -/
def execSleepReceived (k level : Nat) (s : State) : Host.Outcome State Fault Refusal :=
  if s.chState k = csACTIVE ∧ (level = 1 ∨ level = 2) then
    ok (((s.put (GWL_CH_STATUS_RX_SLEEP (kDie k) (kIdx k)) level).putBit (GWL_STATUS_RX_ASLEEP (kDie k)) (kIdx k) true).lineFail k)
  else ok s

/-- A sleeping direction with something to send wakes; the wake took `ns` (R223). -/
def execDirectionWake (k ns : Nat) (s : State) : Host.Outcome State Fault Refusal :=
  let q := s.chain k
  if s.chState k = csACTIVE ∧ s.get (GWL_CH_STATUS_TX_SLEEP (kDie k) (kIdx k)) ≠ 0 ∧ (q.waiting = true ∨ q.holdAwake = true) then
    ok (s.wakeTx k ns)
  else ok s

end Sys2Proof.Machine
end

