-- ==== Sys2Proof/Machine/Conserv.lean ====
section
/-! DEFINITION. The conservator (chapter 21): calibration, plausibility, ageing, records and projections. -/

namespace Sys2Proof.Machine

open Reg

def State.csv (s : State) (d : Nat) : CsvSt := Store.get (fun _ => CsvSt.reset) s.csvs d
def State.setCsv (s : State) (d : Nat) (v : CsvSt) : State := { s with csvs := Store.put (fun _ => CsvSt.reset) s.csvs d v }

/-- Items and monitors of a die (R559, R565). -/
def csvItems (d : Nat) : Nat := if d = 0 then 90 else 75
def csvMons (d : Nat) : Nat := if d = 0 then 30 else 29

/-- Receiver offsets run on auxiliary slicers, one lane per quad at a time (R560): the quad of such an item. -/
def rxQuad (n : Nat) : Option Nat :=
  if 9 ≤ n ∧ n ≤ 32 then some ((n - 9) / 4) else if 82 ≤ n ∧ n ≤ 85 then some 6 else none

def isBandgap (n : Nat) : Bool := n == 0 || n == 75

/-- Item n may start beside those that run. -/
def csvFree (busy : List Nat) (n : Nat) : Bool :=
  !busy.contains n && !busy.any isBandgap && (!isBandgap n || busy == []) &&
    (match rxQuad n with
     | some q => !busy.any fun m => rxQuad m == some q
     | none => !busy.any fun m => rxQuad m == none)

/-- The items whose readings are held while item n is calibrated (R561). -/
def heldBy (n : Nat) : List Nat := if n = 0 then (List.range 90).filter (fun m => (1 ≤ m ∧ m ≤ 8) ∨ (47 ≤ m ∧ m ≤ 74) ∨ m = 0) else
  if n = 75 then [75, 76, 77, 78, 79] else [n]

/-- STALE of the items, and of the eye readings their slicers give. -/
def State.setHeld (s : State) (d n : Nat) (b : Bool) : State :=
  let s1 := forAll (heldBy n) s fun s m => s.put (ITEM_STATE_STALE d m) (b2n b)
  if 9 ≤ n ∧ n ≤ 24 then s1.put (LANE_EYE_STALE d (n - 9)) (b2n b)
  else if 25 ≤ n ∧ n ≤ 32 then s1.put (LN_EYE_STALE d (n - 25)) (b2n b)
  else s1

def State.showBusy (s : State) (d : Nat) : State :=
  match (s.csv d).busy.getLast? with
  | some n => (s.put (CSV_STATUS_BUSY d) 1).put (CSV_STATUS_ITEM d) n
  | none => (s.put (CSV_STATUS_BUSY d) 0).put (CSV_STATUS_ITEM d) 0

/-- The die calibrates: it is present and runs. -/
def State.csvOn (s : State) (d n : Nat) : Bool := s.present d && !s.flt.hosted.contains d && decide (n < csvItems d) && s.runs

/-- |a - b| ≤ c. -/
def within (a b c : Nat) : Bool := decide (a ≤ b + c) && decide (b ≤ a + c)

/-- The die's temperature `temp` (°C + 64) has moved by more than TEMP_RECAL_C since the last accepted result of an item of
classes 0 to 40, or of the like keeper items (R560). -/
def State.tempDue (s : State) (d n temp : Nat) : Bool :=
  (decide (n ≤ 40) || (decide (75 ≤ n) && n != 80 && n != 81)) &&
    !within temp (Store.get (fun _ => 0) (s.csv d).accTemp n) (s.get (CSV_CFG_TEMP_RECAL_C d))

/-- The moment at which item n becomes due: now on its temperature trigger, and for an item calibrated at each lock; else when its
interval has passed since the last acceptance (R559, R560). -/
def State.itemDueAt (s : State) (d n temp : Nat) : Nat :=
  if s.tempDue d n temp = true ∨ s.get (ITEM_CFG_INTERVAL_S d n) = 0 then s.now
  else max s.now (Store.get (fun _ => 0) (s.csv d).accAt n + s.get (ITEM_CFG_INTERVAL_S d n) * tSec)

/-- An item of lower number, served one at a time like n, is due before item n would start (R560). -/
def State.itemBehind (s : State) (d n temp : Nat) : Bool :=
  (rxQuad n).isNone && (List.range n).any fun m =>
    (rxQuad m).isNone && s.get (ITEM_CFG_INTERVAL_S d m) != 0 && decide (s.itemDueAt d m temp ≤ s.itemDueAt d n temp)

/-- An item comes due and starts its calibration, in ascending order. -/
def execCalibrationDue (d n temp : Nat) (s : State) : Host.Outcome State Fault Refusal :=
  let q := s.csv d
  if s.csvOn d n = true ∧ csvFree q.busy n = true ∧ s.itemBehind d n temp = false then
    ok ((((s.advance (s.itemDueAt d n temp)).setCsv d { q with busy := q.busy ++ [n] }).setHeld d n true).showBusy d)
  else ok s

/-- A calibration ends: what it held reads anew. -/
def State.calEnds (s : State) (d n : Nat) : State :=
  let q := s.csv d
  ((s.setCsv d { q with busy := q.busy.filter (· != n) }).setHeld d n false).showBusy d

/-- The plausibility test of R562. -/
def State.plausible (s : State) (d n v : Nat) : Bool :=
  decide (s.get (ITEM_CFG_MIN d n) ≤ v) && decide (v ≤ s.get (ITEM_CFG_MAX d n)) &&
    (within v (s.get (ITEM_STATE_CODE d n)) (s.get (ITEM_CFG_MAX_STEP d n)) ||
      (s.get (ITEM_STATE_SUSPECT d n) == 1 && within v (s.get (ITEM_STATE_LAST_RESULT d n)) (s.get (ITEM_CFG_MAX_STEP d n))))

/-- SUSPECTS; with every temperature sensor of the die suspect its islands go to OP3 (R563). -/
def State.showSuspects (s : State) (d : Nat) : State :=
  let n := ((List.range (csvItems d)).filter fun m => s.get (ITEM_STATE_SUSPECT d m) == 1).length
  let s1 := s.put (CSV_STATUS_SUSPECTS d) n
  if s1.blindDie d then s1.blindDown d else s1

/-- A rejected result (R562). -/
def State.rejectCal (s : State) (d n : Nat) : State :=
  let s1 := (s.bump (ITEM_STATE_FAIL_CNT d n)).raise (CSV_EVENTS_CAL_REJECT d)
  let s2 := s1.put (ITEM_STATE_FAILS d n) (min 3 (s.get (ITEM_STATE_FAILS d n) + 1))
  if s2.get (ITEM_STATE_FAILS d n) = 3 ∧ s.get (ITEM_STATE_SUSPECT d n) = 0 then
    (((s2.put (ITEM_STATE_SUSPECT d n) 1).raise (CSV_EVENTS_SUSPECT d)).emit 0x80 d 0 0 n 0).showSuspects d
  else s2

/-- An eye height (mV) of a lane (ingest 0 to 15, Griwano 16 to 23) against its floor (R567): a chain retrains without a charge,
at most once per EYE_RETRAIN_H; an ingest lane sets EYE_LOW. -/
def State.eyeSeen (s : State) (d l h : Nat) : State :=
  let q := s.csv d
  let s1 := (s.setCsv d { q with eyes := Store.put (fun _ => 0) q.eyes l h }).setTimer (tkEye d l) s.now
  if l < 16 then
    let s2 := (s1.put (LANE_EYE_HEIGHT_MV d l) h).putFree (LANE_EYE_WIDTH d l)
    if h < s.get (CSV_CFG_EYE_FLOOR_MV d) then s2.raise (ING_EVENTS_EYE_LOW d) else s2
  else
    let c := (l - 16) / 4
    let k := 2 * d + c
    let s2 := (s1.put (LN_EYE_HEIGHT_MV d (l - 16)) h).putFree (LN_EYE_WIDTH d (l - 16))
    let last := Store.get (fun _ => 0) q.eyeAt c
    if h < 30 ∧ s.chState k = csACTIVE ∧ (last = 0 ∨ last + s.get (CSV_CFG_EYE_RETRAIN_H d) * 3600 * tSec ≤ s.now) then
      ((s2.setCsv d { s2.csv d with eyeAt := Store.put (fun _ => 0) q.eyeAt c s.now }).retrainFree k).raise (CSV_EVENTS_EYE_RETRAIN d)
    else s2

/-- A calibration delivers `v` at die temperature `temp`; a receiver's gives the eye height too (R562, R567). -/
def execCalibrationResult (d n v temp : Nat) (eye : Option Nat) (s : State) : Host.Outcome State Fault Refusal :=
  let q := s.csv d
  if s.present d = true ∧ q.busy.contains n = true then
    let v := v % 256
    let s1 := s.calEnds d n
    let s2 :=
      if s1.plausible d n v then
        let c := s1.csv d
        let s2 := s1.setCsv d { c with
          code := Store.put (fun _ => 0) c.code n v, accAt := Store.put (fun _ => 0) c.accAt n s.now,
          accTemp := Store.put (fun _ => 0) c.accTemp n temp }
        (((s2.put (ITEM_STATE_PENDING d n) 1).put (ITEM_STATE_FAILS d n) 0).put (ITEM_STATE_SUSPECT d n) 0).showSuspects d
      else s1.rejectCal d n
    let s3 := s2.put (ITEM_STATE_LAST_RESULT d n) v
    match eye with
    | some h => if 9 ≤ n ∧ n ≤ 32 then ok (s3.eyeSeen d (n - 9) h) else ok s3
    | none => ok s3
  else ok s

/-- A calibration that ran past 2 ms counts as a rejected result (R560). -/
def execCalibrationTimeout (d n : Nat) (s : State) : Host.Outcome State Fault Refusal :=
  if s.present d = true ∧ (s.csv d).busy.contains n = true then ok ((s.calEnds d n).rejectCal d n) else ok s

/-- The unit of item n is where the code may change (R559, R573): transmit amplitudes are held in TRAIN, and a PLL's VCO band waits
for ACQ without lock, or DETECT. -/
def State.trimPoint (s : State) (d n : Nat) : Bool :=
  if 33 ≤ n ∧ n ≤ 40 then s.chState (2 * d + (n - 33) / 4) != csTRAIN
  else if 41 ≤ n ∧ n ≤ 44 then
    let q := (List.range 4).map (4 * (n - 41) + ·)
    q.any (fun l => s.get (LANE_STATUS_STATE d l) == lnACQ) && q.all fun l => s.get (LANE_STATUS_CDR_LOCK d l) == 0
  else if n = 45 ∨ n = 46 then s.chState (2 * d + (n - 45)) == csDETECT
  else true

/-- Bandgaps and temperature sensors take their code at the next 1 ms boundary. -/
def onMs (n : Nat) : Bool := decide (n ≤ 8) || decide (75 ≤ n ∧ n ≤ 79)

/-- The item's point comes: the accepted code is in force (R559); a regulator's trim goes through the sequencer. -/
def execTrimInForce (d n : Nat) (s : State) : Host.Outcome State Fault Refusal :=
  if s.present d = true ∧ n < csvItems d ∧ s.get (ITEM_STATE_PENDING d n) = 1 ∧ s.trimPoint d n = true then
    let s := if onMs n then s.advance (ceilDiv s.now tMs * tMs) else s
    let s1 := (s.put (ITEM_STATE_CODE d n) (Store.get (fun _ => 0) (s.csv d).code n)).put (ITEM_STATE_PENDING d n) 0
    ok (if 47 ≤ n ∧ n ≤ 74 then s1.seqRequest (32 * d + (n - 47)) (s1.islOp (32 * d + (n - 47))) false else s1)
  else ok s

/-! ### Records (R570) -/

/-- Where the conservator records lie: the last 4 MiB of the training area. -/
def csvBase : Nat := 0x01C00000
def csvSlots : Nat := (4 * 2 ^ 20 - 4096) / 512

/-- The record of a die with its ageing state: 512 octets. -/
def State.csvRecord (s : State) (d kind gen : Nat) : List Nat :=
  let q := s.csv d
  let mon := fun (m : Nat) =>
    if kind = 2 then (List.range 4).flatMap fun p => toOctets 2 (bitsOf (s.get (MON_BASE_R0 d m)) (16 * p) 16)
    else toOctets 3 (s.get (MON_SLOW_PPM d m)) ++ [s.get (MON_TRIM_MV d m), s.get (MON_F_CAP d m)] ++ toOctets 2 (s.get (MON_PROJ_D d m)) ++ [0]
  let body := [0x5A, 0x4E, 0x41, 0x47] ++ toOctets 4 gen ++ [d, kind] ++ toOctets 6 s.secs ++
    (List.range 30).flatMap (fun m => if m < csvMons d then mon m else List.replicate 8 0) ++
    (List.range 90).map (fun n => if n < csvItems d then s.get (ITEM_STATE_CODE d n) else 0) ++
    (List.range 8).map (fun i => Store.get (fun _ => 0) q.dram i % 256) ++
    (List.range 24).map (fun l => Store.get (fun _ => 0) q.eyes l % 256) ++ List.replicate 130 0
  body ++ toOctets 4 (crc32 body)

/-- A record is written to both devices; `fail` has a bit for each that does not take it. -/
def State.writeRecord (s : State) (d kind fail : Nat) : State :=
  let g := max s.topGen s.csvGen + 1
  let r := s.csvRecord d kind g
  let off := if kind = 2 then csvBase + 512 * d else csvBase + 4096 + 512 * (s.csvNext % csvSlots)
  let s1 := { s with csvGen := g, csvNext := if kind = 2 then s.csvNext else s.csvNext + 1 }
  let s2 := if bit fail 0 then s1 else s1.wrFlash 0 off r
  let s3 := if bit fail 1 then s2 else s2.wrFlash 1 off r
  if fail % 4 = 3 then s3.raise (CSV_EVENTS_RECORD_FAIL d) else s3.setCsv d { s3.csv d with newest := if kind = 2 then (s3.csv d).newest else r }

/-! ### Ageing (R565, R566) -/

/-- A monitor's slowdown at point p for a measured ratio. -/
def State.slowPpm (s : State) (d m p r : Nat) : Nat :=
  let r0 := bitsOf (s.get (MON_BASE_R0 d m)) (16 * p) 16
  if r0 = 0 then 0 else (r0 - r) * 1000000 / r0

/-- The trim of VDD_CORE: the largest of the unregulated islands (R566, R528). -/
def State.coreTrim (s : State) : State :=
  let t := (s.dies.map fun d => max (s.get (MON_TRIM_MV d 28)) (if d = 0 then s.get (MON_TRIM_MV 0 29) else 0)).foldl max 0
  if s.get (RAIL_EN 0) = 1 then s.put (RAIL_SET_MV 0) (800 + t) else s

/-- A measurement of monitor m: margin is bought back with voltage, then with frequency; nothing is lowered. -/
def State.monSeen (s : State) (d m p r : Nat) : State :=
  let slow := s.slowPpm d m p r
  let sens := max 1 (s.get (MON_BASE_SENS d m))
  let need := ceilDiv slow (100 * sens)
  let trim := min 60 need
  let cap := if need ≤ 60 then 0 else min 255 (ceilDiv ((slow - 6000 * sens) * 256) 1000000)
  let s1 := (s.put (MON_SLOW_PPM d m) (min (2 ^ 24 - 1) slow)).put (MON_POINT d m) p
  let up := decide (s.get (MON_TRIM_MV d m) < trim)
  let down := decide (m < 28) && decide (s.get (MON_F_CAP d m) < cap)
  let s2 := if up then (s1.put (MON_TRIM_MV d m) trim).raise (CSV_EVENTS_TRIM_RAISE d) else s1
  let s3 := if down then (s2.put (MON_F_CAP d m) cap).raise (CSV_EVENTS_F_CAP d) else s2
  let i := 32 * d + m
  let s4 := if up && decide (m < 28) then s3.put (ISL_V_TRIM_MV i) trim else s3
  let s5 := if (up || down) && decide (m < 28) then s4.seqRequest i (s4.islOp i) false else if up then s4.coreTrim else s4
  if up || down then s5.writeRecord d 1 0 else s5

/-- The operating point at which the island of monitor m runs; those without a regulator run at OP0. -/
def State.monPoint (s : State) (d m : Nat) : Nat := if m < 28 then s.get (ISL_OP_USED (32 * d + m)) else 0

/-- The measurement of every AGE_PERIOD_S: (monitor, point, ratio with 15 fractional bits), eye heights and DRAM margins. A ratio
counts at its island's point alone (R565). -/
def execAgeingMeasurement (d : Nat) (mons : List (Nat × Nat × Nat)) (eyes dram : List (Nat × Nat)) (s : State) :
    Host.Outcome State Fault Refusal :=
  if s.csvOn d 0 = true then
    let s0 := s.pace (tkAge d) (s.get (CSV_CFG_AGE_PERIOD_S d) * tSec)
    let s1 := forAll mons s0 fun s x => if x.1 < csvMons d ∧ x.2.1 = s.monPoint d x.1 then s.monSeen d x.1 x.2.1 x.2.2 else s
    let s2 := forAll eyes s1 fun s x => if x.1 < 24 then s.eyeSeen d x.1 x.2 else s
    ok (forAll dram s2 fun s x => s.setCsv d { s.csv d with dram := Store.put (fun _ => 0) (s.csv d).dram (x.1 % 8) x.2 })
  else ok s

/-- The baseline (R568): R0 of each monitor at the points it was measured at, eye heights and margins; every trim and cap 0. -/
def State.captureBaseline (s : State) (d : Nat) (r0 : List (Nat × Nat × Nat)) (eyes dram : List (Nat × Nat)) : State :=
  let s1 := forAll r0 s fun s x =>
    if x.1 < csvMons d ∧ x.2.1 < 4 then s.put (MON_BASE_R0 d x.1) (withBits (s.get (MON_BASE_R0 d x.1)) (16 * x.2.1) 16 x.2.2) else s
  let s2 := forAll (List.range (csvMons d)) s1 fun s m =>
    let s1 := ((s.put (MON_SLOW_PPM d m) 0).put (MON_TRIM_MV d m) 0).put (MON_F_CAP d m) 0
    if m < 28 then
      let s2 := s1.put (ISL_V_TRIM_MV (32 * d + m)) 0
      s2.seqRequest (32 * d + m) (s2.islOp (32 * d + m)) false
    else s1
  let q := s2.csv d
  let s3 := s2.setCsv d { q with
    eyes := eyes.foldl (fun m x => Store.put (fun _ => 0) m x.1 x.2) q.eyes,
    dram := dram.foldl (fun m x => Store.put (fun _ => 0) m x.1 x.2) q.dram, days := [] }
  (((s3.coreTrim).writeRecord d 2 0).put (CSV_STATUS_BASELINE d) 1).raise (CSV_EVENTS_BASELINE d)

/-! ### Projection (R571, R572) -/

/-- The margins of a day: monitors, and the lanes and DRAM subchannels in use. -/
def State.marginKeys (s : State) (d : Nat) : List Nat :=
  List.range (csvMons d) ++ (((List.range 16).filter fun l => s.get (LANE_CFG_EN d l) == 1).map (512 + ·)) ++
    (((List.range 8).filter fun l => s.get (GWL_CH_CFG_EN d (l / 4)) == 1).map (528 + ·)) ++
    (((List.range 4).filter fun u => s.get (DRC_CH_CFG_EN d (u / 2)) == 1).map (768 + ·))

def State.marginNow (s : State) (d key : Nat) : Nat :=
  let q := s.csv d
  if key < 256 then s.get (MON_SLOW_PPM d key)
  else if key < 768 then Store.get (fun _ => 0) q.eyes (key - 512)
  else min (Store.get (fun _ => 0) q.dram (2 * (key - 768))) (Store.get (fun _ => 0) q.dram (2 * (key - 768) + 1))

/-- A margin's limit, and whether it is reached from below. -/
def State.marginLimit (s : State) (d key : Nat) : Nat × Bool :=
  if key < 256 then (6000 * s.get (MON_BASE_SENS d key), true)
  else if key < 528 then (s.get (CSV_CFG_EYE_FLOOR_MV d), false)
  else if key < 768 then (30, false)
  else (s.get (CSV_CFG_DRAM_FLOOR d), false)

/-- The least-squares projection over values of consecutive days, oldest first: days from the last until the line reaches the
limit; none for a margin that does not decline. -/
def project (vs : List Nat) (limit : Nat) (rising : Bool) : Option Nat :=
  let n : Int := vs.length
  let sgn : Int := if rising then 1 else -1
  let ys : List Int := vs.map fun (v : Nat) => sgn * (v : Int)
  let lim : Int := sgn * (limit : Int)
  let sx : Int := ((List.range vs.length).map fun (i : Nat) => (i : Int)).foldl (· + ·) 0
  let sxx : Int := ((List.range vs.length).map fun (i : Nat) => (i : Int) * (i : Int)).foldl (· + ·) 0
  let sy : Int := ys.foldl (· + ·) 0
  let sxy : Int := (ys.zipIdx.map fun p => p.1 * (p.2 : Int)).foldl (· + ·) 0
  let dd := n * sxx - sx * sx
  let b := n * sxy - sx * sy
  if lim ≤ ys.getLastD 0 ∧ vs ≠ [] then some 0
  else if b ≤ 0 then none
  else
    let num := lim * n * dd - sy * dd - b * (n * (n - 1) - sx)
    some (min 65534 (max 0 (num / (n * b))).toNat)

/-- The projection of a margin from the daily records of the fit window, once there are fourteen. -/
def State.projection (s : State) (d key : Nat) : Option Nat :=
  let ds := (s.csv d).days
  if ds.length < 14 then none
  else
    let win := ds.drop (ds.length - s.get (CSV_CFG_FIT_D d))
    let l := s.marginLimit d key
    project (win.filterMap fun x => (x.vals.find? fun v => v.1 == key).map (·.2)) l.1 l.2

/-- The shortest of the projections, with its margin. -/
def shortest : List (Nat × Nat) → Option (Nat × Nat)
  | [] => none
  | x :: xs => match shortest xs with
    | none => some x
    | some y => if x.2 ≤ y.2 then some x else some y

/-- The die's shortest projection, with its margin. -/
def State.shortestOf (s : State) (d : Nat) : Option (Nat × Nat) :=
  shortest ((s.marginKeys d).filterMap fun k => (s.projection d k).map fun x => (k, x))

/-- CSV_PROJ shows a projection. -/
def State.showProj (s : State) (d : Nat) (p : Option (Nat × Nat)) : State :=
  match p with
  | some x => ((s.put (CSV_PROJ_DAYS d) x.2).put (CSV_PROJ_SOURCE d) (if x.1 < 256 then 0 else if x.1 < 768 then 1 else 2)).put
      (CSV_PROJ_INDEX d) (if x.1 < 256 then x.1 else if x.1 < 768 then x.1 - 512 else x.1 - 768)
  | none => ((s.put (CSV_PROJ_DAYS d) 0xFFFF).put (CSV_PROJ_SOURCE d) 0).put (CSV_PROJ_INDEX d) 0

/-- MARGIN_LOW and replacement condition 4 follow the shortest projection (R572). -/
def State.judgeMargin (s : State) (d : Nat) (was : Nat) (now1 : Option (Nat × Nat)) : State :=
  let h := s.get (CSV_CFG_HORIZON_D d)
  let days := match now1 with
    | some x => x.2
    | none => 65535
  let s1 := match now1 with
    | some x => if x.2 ≤ 2 * h ∧ 2 * h < was then
        (s.raise (CSV_EVENTS_MARGIN_LOW d)).emit 0x81 d 0 0 (if x.1 < 256 then 256 + x.1 else x.1) x.2 else s
    | none => s
  if days ≤ h then
    ((s1.put (CSV_STATUS_MARGIN_REQ d) 1).setCsv d { s1.csv d with above := 0 }).request 4 d days
  else if s1.get (CSV_STATUS_MARGIN_REQ d) = 1 then
    let n := (s1.csv d).above + 1
    if 7 ≤ n then ((s1.put (CSV_STATUS_MARGIN_REQ d) 0).setCsv d { s1.csv d with above := 0 }).unrequest 4 d
    else s1.setCsv d { s1.csv d with above := n }
  else s1

/-- A day's record with its projections; `fail` has a bit for each flash device that does not take it (R570 to R572). -/
def execDailyRecord (d fail : Nat) (s : State) : Host.Outcome State Fault Refusal :=
  if s.csvOn d 0 = true then
    let s := s.pace (tkDay d) (86400 * tSec)
    if s.get (CSV_STATUS_BASELINE d) = 0 then ok (s.writeRecord d 0 fail)
    else
      let s1 := s.setCsv d { s.csv d with days := (s.csv d).days ++ [⟨(s.marginKeys d).map fun k => (k, s.marginNow d k)⟩] }
      let s2 := forAll (List.range (csvMons d)) s1 fun s m => s.put (MON_PROJ_D d m) ((s1.projection d m).getD 0xFFFF)
      let s3 := s2.writeRecord d 0 fail
      ok ((s3.showProj d (s1.shortestOf d)).judgeMargin d (s.get (CSV_PROJ_DAYS d)) (s1.shortestOf d))
  else ok s

/-- A record of the die that the flash holds at offset `off`, of the given kind, with a right CRC (R570). -/
def State.flashRec (s : State) (d kind off : Nat) : Option (List Nat) :=
  ([0, 1].map fun dev => s.rdFlash dev off 512).find? fun r =>
    r.take 4 == [0x5A, 0x4E, 0x41, 0x47] && r.getD 8 0 == d && r.getD 9 0 == kind && r.drop 508 == toOctets 4 (crc32 (r.take 508))

/-- The baseline of a die as its record holds it: R0 of each monitor (R568, R570). -/
def State.loadBaseline (s : State) (d : Nat) : State :=
  match s.flashRec d 2 (csvBase + 512 * d) with
  | none => s
  | some r => forAll (List.range (csvMons d)) (s.put (CSV_STATUS_BASELINE d) 1) fun s m =>
      s.put (MON_BASE_R0 d m) (ofOctets ((r.drop (16 + 8 * m)).take 8))

/-- Trims, caps, codes and margins from the newest record of the die (R564, R570). -/
def State.loadTrims (s : State) (d : Nat) : State :=
  let r := (s.csv d).newest
  if r = [] then s
  else
    let s1 := forAll (List.range (csvItems d)) s fun s n => s.put (ITEM_STATE_CODE d n) (r.getD (256 + n) 0)
    let s2 := forAll (List.range (csvMons d)) s1 fun s m =>
      let x := r.drop (16 + 8 * m)
      let s2 := (((s.put (MON_SLOW_PPM d m) (ofOctets (x.take 3))).put (MON_TRIM_MV d m) (x.getD 3 0)).put (MON_F_CAP d m)
        (x.getD 4 0)).put (MON_PROJ_D d m) (ofOctets ((x.drop 5).take 2))
      if m < 28 then s2.put (ISL_V_TRIM_MV (32 * d + m)) (x.getD 3 0) else s2
    let q := s2.csv d
    s2.setCsv d { q with
      dram := (List.range 8).foldl (fun m i => if m.any (fun e => e.1 == i) then m else Store.put (fun _ => 0) m i (r.getD (346 + i) 0)) q.dram,
      eyes := (List.range 24).foldl (fun m i => if m.any (fun e => e.1 == i) then m else Store.put (fun _ => 0) m i (r.getD (354 + i) 0)) q.eyes }

/-- The conservator of a die at a cold start: what its records in the flash say, else the factory values (R564), and the condition
of R572 as its daily records have it (R555). -/
def State.csvLoad (s : State) (d : Nat) : State :=
  let s1 := (s.loadBaseline d).loadTrims d
  if s1.get (CSV_STATUS_BASELINE d) = 0 then s1
  else match s1.shortestOf d with
    | some x => if x.2 ≤ s1.get (CSV_CFG_HORIZON_D d) then (s1.showProj d (some x)).put (CSV_STATUS_MARGIN_REQ d) 1 else s1.showProj d (some x)
    | none => s1

/-- A warm reset, or RETAIN, interrupts calibrations; they count nothing (R564). -/
def State.csvStop (s : State) (d : Nat) : State := forAll (s.csv d).busy s fun s n => s.calEnds d n

end Sys2Proof.Machine
end

