-- ==== Sys2Proof/Machine/Dfu.lean ====
section
/-! DEFINITION. The delay and filter unit (chapter 4): delays, interpolation, filters, fades and requantisation. -/

namespace Sys2Proof.Machine

open Reg

/-- The enabled input slot runs. -/
def State.inputRuns (s : State) (d i : Nat) : Bool :=
  s.present d && decide (i < 128) && s.get (INPUT_MAP_EN d i) == 1 && s.get (INPUT_MAP_DEACC d i) == 0

/-- D. -/
def State.inD (s : State) (d i : Nat) : Nat := s.get (IN_CFG_D_M1 d i) + 1

/-! ### Delays (R90 to R96) -/

/-- u at grid index k: seconds from T0 in units of 2^-32 s, rounded down. -/
def State.polyU (s : State) (d i k : Nat) : Int :=
  let t0 : Int := s.get (POLY_T0_SEC d i) * 1000000000 + s.get (POLY_T0_NS d i)
  (((s.gridT0 d : Int) - t0) * (2 ^ 32 * s.fsNum d : Nat) + (k * s.fsDen d * 1000000000 * 2 ^ 32 : Nat)) /
    (1000000000 * s.fsNum d : Nat)

/-- The polynomial at u, in 2^-32 sample, evaluated exactly and rounded down. -/
def polyEval (c0 c1 c2 c3 u : Int) : Int :=
  (c0 * 2 ^ 96 + c1 * u * 2 ^ 64 + c2 * u ^ 2 * 2 ^ 32 + c3 * u ^ 3) / 2 ^ 96

/-- The delay of input i at grid index k by its active set. -/
def State.polyAt (s : State) (d i k : Nat) : Int :=
  polyEval (s.getI (POLY_C_COEF d i 0)) (s.getI (POLY_C_COEF d i 1)) (s.getI (POLY_C_COEF d i 2)) (s.getI (POLY_C_COEF d i 3))
    (s.polyU d i k)

/-- R96's offset of the input's link, in 2^-32 sample. -/
def State.linkOfs (s : State) (d i : Nat) : Int := ((s.linkSt d (s.get (INPUT_MAP_LINK d i))).r * 2 ^ 22 : Nat)

/-- A delay within 0 to 65,535 + 1,023/1,024 samples, and whether it was clamped (R94). -/
def clampDelay (v : Int) : Nat × Bool :=
  if v < 0 then (0, true) else if 65536 * 2 ^ 32 ≤ v then (65535 * 2 ^ 32 + 1023 * 2 ^ 22, true) else (v.toNat, false)

/-- The delay applied to the interpolated sample of input-rate index n (R92, R94, R96). -/
def State.delayAt (s : State) (d i n : Nat) : Nat × Bool :=
  let q := s.dfuIn d i
  let per := 1024 * s.inD d i
  let g := if n / per = q.segA.p ∧ n / per ≠ q.segB.p then q.segA else q.segB
  let j := n - per * g.p
  clampDelay (g.d0 + (g.d1 - g.d0) * (j : Nat) / (per : Nat) + s.linkOfs d i)

/-- A pending set takes effect (R95). -/
def State.takePending (s : State) (d i : Nat) : State :=
  let s1 := (s.wr (POLY_T0 d i) (s.rd (PEND_T0 d i))).put (POLY_CTRL_PENDING d i) 0
  forAll [0, 1, 2, 3] s1 fun s j => s.wr (POLY_C d i j) (s.rd (PEND_C d i j))

/-- Update point n of one input (R91, R93 to R95). -/
def State.updateInput (s : State) (d i n : Nat) : State :=
  let due := s.get (POLY_CTRL_PENDING d i) == 1 && grainCome (grainOf (s.gridTime d (1024 * n))) (s.get (POLY_CTRL_EFF_GRAIN d i))
  let s1 := if due then s.takePending d i else s
  let q := s1.dfuIn d i
  let g : DlySeg := ⟨n, s1.polyAt d i (1024 * n), s1.polyAt d i (1024 * (n + 1))⟩
  let v := clampDelay (g.d0 + s1.linkOfs d i)
  let s2 := s1.setDfuIn d i { q with segA := q.segB, segB := g }
  let s3 := ((s2.put (IN_STATUS_DLY_COARSE d i) (v.1 / 2 ^ 32)).put (IN_STATUS_DLY_PHASE d i) (v.1 % 2 ^ 32 / 2 ^ 22)).put
    (IN_STATUS_CLAMPED d i) (b2n v.2)
  when v.2 (·.raise (DFU_EVENTS_DELAY_CLAMP d)) s3

/-- At an update point every running input's polynomial is evaluated (R91). -/
def execUpdatePoint (d n : Nat) (s : State) : Host.Outcome State Fault Refusal :=
  ok (forAll (List.range 128) s fun s i => if s.inputRuns d i then s.updateInput d i n else s)

/-! ### Interpolation and shift (R97 to R100) -/

/-- Tap k of phase p (R98). -/
def State.interpCoef (s : State) (d p k : Nat) : Int :=
  signed 18 ((s.rd (INTERP d ((16 * p + k) / 4))).bits (18 * ((16 * p + k) % 4)) 18)

/-- The sample of index x (flagged zero before the stream's start) and its flag. -/
def State.sampleAt (s : State) (d n : Nat) (x : Int) : Int × Bool :=
  if x < 0 then (0, true) else s.lineRead d n x.toNat

/-- Some frame with a sample in [a, b] was not clean. -/
def State.rangeDirty (s : State) (d j : Nat) (a b : Int) : Bool :=
  (s.linkSt d j).dirty.any fun r => decide (a ≤ (r.2 : Nat)) && decide (((r.1 : Nat) : Int) ≤ b)

/-- One part's interpolated sample: its value and flag (R97). -/
def State.interp (s : State) (d n : Nat) (x : Int) (phase : Nat) : Int × Bool :=
  let ts := (List.range 16).map fun k => (s.interpCoef d phase k, s.sampleAt d n (x - (k : Nat)))
  ((ts.map fun t => if t.2.2 then 0 else t.1 * t.2.1).foldl (· + ·) 0 / 2 ^ 16, ts.any fun t => t.2.2)

/-- The interpolated and shifted sample of input-rate index n of an input. -/
def State.zAt (s : State) (d i n : Nat) : ZSamp :=
  let v := s.delayAt d i n
  let x : Int := (n : Nat) - (v.1 / 2 ^ 32 : Nat)
  let ph := v.1 % 2 ^ 32 / 2 ^ 22
  let b := s.streamBase d i
  let dirty := s.rangeDirty d (s.get (INPUT_MAP_LINK d i)) (x - 15) x
  let a := s.interp d b x ph
  if s.get (INPUT_MAP_CPLX d i) = 1 then
    let c := s.interp d (b + 1) x ph
    ⟨a.1, c.1, a.2 || c.2, v.2, dirty⟩
  else if s.get (IN_CFG_R2C d i) = 1 then
    match n % 4 with
    | 0 => ⟨a.1, 0, a.2, v.2, dirty⟩
    | 1 => ⟨0, -a.1, a.2, v.2, dirty⟩
    | 2 => ⟨-a.1, 0, a.2, v.2, dirty⟩
    | _ => ⟨0, a.1, a.2, v.2, dirty⟩
  else ⟨a.1, 0, a.2, v.2, dirty⟩

/-! ### Filters (R101 to R104, R110) -/

/-- Coefficient k of a bank. -/
def State.coefAt (s : State) (d i b k : Nat) : Int :=
  signed 18 ((s.rd (COEF d i b (k / 4))).bits (18 * (k % 4)) 18)

/-- An accumulator pair with what entered it. -/
def State.fir (s : State) (d i b taps : Nat) (h : List ZSamp) : ZSamp :=
  (List.range taps).foldl
    (fun acc k =>
      match h[k]? with
      | none => { acc with flag := true }
      | some z =>
        let c := s.coefAt d i b k
        ⟨acc.re + (if z.flag then 0 else c * z.re), acc.im + (if z.flag then 0 else c * z.im), acc.flag || z.flag,
          acc.clamp || z.clamp, acc.dirty || z.dirty⟩)
    ⟨0, 0, false, false, false⟩

/-- The fade's mixture of output k (R104). -/
def fadeMix (k l : Nat) (a b : Int) : Int := a + ((k : Nat) + 1) * (b - a) / (l : Nat)

/-- The requantised part, and whether it was clamped (R47, R112). -/
def State.requantIn (s : State) (d i : Nat) (a : Int) : Int × Bool :=
  let p := fmtP (s.get (IN_CFG_FMT d i) + 1)
  (requant p (s.get (IN_CFG_OUT_SHIFT d i)) a, requantClamps p (s.get (IN_CFG_OUT_SHIFT d i)) a)

/-- The output leaves the requantiser: counted and passed to the ACU (R112, R113). -/
def State.finishOutput (s : State) (d i m : Nat) (a : ZSamp) : State :=
  let hist := s.get (IN_STATUS_HIST_FLAG d i)
  let flag := a.flag || a.clamp || decide (0 < hist)
  let re := s.requantIn d i a.re
  let im := s.requantIn d i a.im
  let s1 := s.put (IN_STATUS_HIST_FLAG d i) (hist - 1)
  let s2 := if flag then (s1.bump (IN_COUNT_FLAGGED d i)).pmU d 0x18 1 else s1.bumpBy (IN_COUNT_SAT_CNT d i) (b2n re.2 + b2n im.2)
  let s3 := if flag = false ∧ (re.2 || im.2) = true then s2.raise (DFU_EVENTS_REQ_SAT d) else s2
  let s4 := if a.clamp then (s3.bump (IN_COUNT_CLAMP_CNT d i)).raise (DFU_EVENTS_DELAY_CLAMP d) else s3
  s4.acceptSample d i m (if flag then .stale else ⟨re.1, im.1, false⟩) a.dirty

/-- FIR mode: the D new interpolated samples enter the history, and the live filter, or the fade, forms the output. -/
def State.firOutput (s : State) (d i m : Nat) : State :=
  let q := s.dfuIn d i
  let n := s.inD d i
  let zs := ((List.range n).map fun x => s.zAt d i (m * n - x))
  let h := (zs ++ q.hist).take 320
  let lv := s.get (IN_CFG_LIVE d i)
  let a := s.fir d i lv (s.liveTaps d i) h
  let s1 := s.setDfuIn d i { q with hist := h }
  if q.fadeLen = 0 ∨ q.fadeLen ≤ q.pos then s1.finishOutput d i m a
  else
    let b := s.fir d i (1 - lv) (s.shadowTaps d i) h
    let k := q.pos
    let x : ZSamp := ⟨fadeMix k q.fadeLen a.re b.re, fadeMix k q.fadeLen a.im b.im, a.flag || b.flag, a.clamp || b.clamp,
      a.dirty || b.dirty⟩
    let s2 := (s1.setDfuIn d i { s1.dfuIn d i with pos := k + 1 }).put (IN_STATUS_FADE_POS d i) k
    s2.finishOutput d i m x

/-- Settle-free mode (R110, R111). -/
def State.gainOutput (s : State) (d i m : Nat) : State :=
  let v := s.delayAt d i (m * s.inD d i)
  let x : Int := (m * s.inD d i : Nat) - (v.1 / 2 ^ 32 : Nat)
  let g := s.getI (IN_CFG_GAIN d i)
  let b := s.streamBase d i
  let a := s.sampleAt d b x
  let c := if s.get (INPUT_MAP_CPLX d i) = 1 then s.sampleAt d (b + 1) x else (0, false)
  let dirty := s.rangeDirty d (s.get (INPUT_MAP_LINK d i)) x x
  s.finishOutput d i m ⟨g * a.1, g * c.1, a.2 || c.2, v.2, dirty⟩

/-- Index m is the one that input i delivers next: the one after the last, or in a new run one that has not come yet (R89). -/
def State.outputDue (s : State) (d i m : Nat) : Bool :=
  match (s.dfuIn d i).next with
  | some x => x == m
  | none => decide ((s.dfuIn d i).low ≤ m)

/-- Output sample m of an input: outputs come in ascending index, one for every grid time (R89). An enabled input with MODE 0
delivers flagged zeros, counted in FLAGGED (log entry 50). -/
def execDfuOutput (d i m : Nat) (s : State) : Host.Outcome State Fault Refusal :=
  if s.inputRuns d i = true ∧ s.outputDue d i m = true then
    let s1 := s.setDfuIn d i { s.dfuIn d i with next := some (m + 1), low := m + 1 }
    if s.get (IN_CFG_MODE d i) = 1 then ok (s1.firOutput d i m)
    else if s.get (IN_CFG_MODE d i) = 2 then ok (s1.gainOutput d i m)
    else ok (s1.finishOutput d i m ⟨0, 0, true, false, false⟩)
  else ok s

/-! ### Fades and changes (R104 to R109) -/

/-- Fade units an input's fade takes (R107). -/
def State.fadeUnits (s : State) (d i : Nat) : Nat :=
  let p := if s.get (INPUT_MAP_CPLX d i) = 1 ∨ s.get (IN_CFG_R2C d i) = 1 then 2 else 1
  p * ceilDiv (s.fsNum d * s.inD d i) (156250000 * s.fsDen d)

/-- DFU_STATUS follows the queue. -/
def State.showFades (s : State) (d : Nat) : State :=
  (s.put (DFU_STATUS_QUEUED d) (s.dfu d).queue.length).put (DFU_STATUS_HEAD_INPUT d) ((s.dfu d).queue.headD 0)

/-- A fade of the input runs or is queued. -/
def State.fadeBusy (s : State) (d i : Nat) : Bool := s.get (IN_STATUS_FADING d i) == 1 || s.get (IN_STATUS_QUEUED d i) == 1

/-- FADE (R104, R108, R109). Fades do not apply to an input that is not in FIR mode: BUSY (log entry 50). -/
def State.doFade (s : State) (c : CmdHdr) (d i l : Nat) : State :=
  s.inMode c 4 fun s =>
    if s.part.dies ≤ d then s.complete c ccUNSUPPORTED 0
    else if 128 ≤ i ∨ l < 64 ∨ 65536 < l then s.complete c ccBADARG 0
    else if s.fadeBusy d i = true ∨ 128 ≤ (s.dfu d).queue.length ∨ s.get (IN_CFG_MODE d i) ≠ 1 then s.complete c ccBUSY 0
    else
      let s1 := ((s.put (FADE_REQ_LEN_M1 d i) (l - 1)).put (FADE_REQ_GRAIN d i) c.grain).put (IN_STATUS_QUEUED d i) 1
      let g := s1.dfu d
      ((s1.setDfu d { g with queue := g.queue ++ [i] }).showFades d).complete c ccDONE 0

def execFade (c : CmdHdr) (d i l : Nat) (s : State) : Host.Outcome State Fault Refusal := ok (s.doFade c d i l)

/-- The grid time of the output that input i delivers next: of a run that has begun, else the present. -/
def State.outputTime (s : State) (d i : Nat) : Nat :=
  match (s.dfuIn d i).next with
  | some m => s.gridTime d m
  | none => s.now

/-- The head of the queue starts at the first output whose grid time is in or after its grain and at which its units are free
(R107, R108). -/
def execFadeStart (d : Nat) (s : State) : Host.Outcome State Fault Refusal :=
  match (s.dfu d).queue with
  | [] => ok s
  | i :: rest =>
    let u := s.fadeUnits d i
    if s.get (DFU_STATUS_UNITS_USED d) + u ≤ 16 ∧ grainCome (grainOf (s.outputTime d i)) (s.get (FADE_REQ_GRAIN d i)) = true then
      let g := s.dfu d
      let s1 := (s.setDfu d { g with queue := rest }).setDfuIn d i
        { (s.setDfu d { g with queue := rest }).dfuIn d i with fadeLen := s.get (FADE_REQ_LEN_M1 d i) + 1, pos := 0 }
      let s2 := ((s1.put (IN_STATUS_QUEUED d i) 0).put (IN_STATUS_FADING d i) 1).put (IN_STATUS_FADE_POS d i) 0
      ok ((s2.put (DFU_STATUS_UNITS_USED d) (s.get (DFU_STATUS_UNITS_USED d) + u)).showFades d)
    else ok s

/-- A running fade gives up its units. -/
def State.endFade (s : State) (d i : Nat) : State :=
  let s1 := s.setDfuIn d i { s.dfuIn d i with fadeLen := 0, pos := 0 }
  ((s1.put (IN_STATUS_FADING d i) 0).put (IN_STATUS_FADE_POS d i) 0).put (DFU_STATUS_UNITS_USED d)
    (s.get (DFU_STATUS_UNITS_USED d) - s.fadeUnits d i)

/-- The last output of a fade makes the shadow bank live (R104). -/
def execFadeEnd (d i : Nat) (s : State) : Host.Outcome State Fault Refusal :=
  let q := s.dfuIn d i
  if q.fadeLen ≠ 0 ∧ q.pos = q.fadeLen then
    ok (((s.endFade d i).put (IN_CFG_LIVE d i) (1 - s.get (IN_CFG_LIVE d i))).raise (DFU_EVENTS_FADE_DONE d))
  else ok s

/-- A fade, running or queued, of an input that is deaccessioned ends at the boundary with the live bank unchanged (R109). -/
def State.abandonFade (s : State) (d i : Nat) : State :=
  if s.fadeBusy d i then
    let g := s.dfu d
    let s1 := (s.setDfu d { g with queue := g.queue.filter (· != i) }).put (IN_STATUS_QUEUED d i) 0
    let s2 := if s.get (IN_STATUS_FADING d i) = 1 then s1.endFade d i else s1
    ((s2.showFades d).raise (DFU_EVENTS_FADE_ABANDONED d)).emit 0x44 d 2 i i 0
  else s

/-- The input stands at a consignment boundary: its next output is the first of a folio, or none has come yet. -/
def State.atBoundary (s : State) (d i : Nat) : Bool := ((s.dfuIn d i).next.getD 0) % 4096 == 0

/-- The change's command, where it has one, completes. -/
def State.completeOpt (s : State) (c : Option CmdHdr) (code : Nat) : State :=
  match c with
  | some c => s.complete c code 0
  | none => s

/-- A change of D, R2C, MODE or parts: `cfg` is the new IN_CFG word, `cplx` the number of parts in INPUT_MAP coding. With a fade of
the input running or queued it completes BUSY; else it takes effect at a consignment boundary (R106, R109). -/
def execDfuChange (d i cfg : Nat) (s : State) (cplx : Nat := 0) (c : Option CmdHdr := none) : Host.Outcome State Fault Refusal :=
  if s.present d = true ∧ i < 128 then
    if s.fadeBusy d i = true then ok (s.completeOpt c ccBUSY)
    else if s.atBoundary d i = true then
      ok ((((s.softWrite (IN_CFG d i) cfg).put (INPUT_MAP_CPLX d i) cplx).discardHist d i).completeOpt c ccDONE)
    else ok s
  else ok s

/-- COEF_LOAD: the shadow bank takes a coefficient set of the running programme (R105, R109, R461). -/
def State.doCoefLoad (s : State) (c : CmdHdr) (d i set : Nat) : State :=
  s.inMode c 4 fun s =>
    if s.part.dies ≤ d then s.complete c ccUNSUPPORTED 0
    else if 128 ≤ i then s.complete c ccBADARG 0
    else if s.fadeBusy d i then s.complete c ccBUSY 0
    else
      let b := 1 - s.get (IN_CFG_LIVE d i)
      (forAll (List.range 80) s fun s w =>
        s.wr (COEF d i b w) (Config.coefSetWord (s.get PROG_STATE_RUNNING) d set w)).complete c ccDONE 0

def execCoefLoad (c : CmdHdr) (d i set : Nat) (s : State) : Host.Outcome State Fault Refusal := ok (s.doCoefLoad c d i set)

/-- POLY_SET: the pending polynomial set, which replaces an earlier one that has not taken effect (R95, R461). -/
def State.doPolySet (s : State) (c : CmdHdr) (d i : Nat) (p : Poly) : State :=
  s.inMode c 6 fun s =>
    if s.part.dies ≤ d then s.complete c ccUNSUPPORTED 0
    else if 128 ≤ i then s.complete c ccBADARG 0
    else
      let s1 := s.wr (PEND_T0 d i) (BitVec.ofNat 72 (p.t0 % 2 ^ 70))
      let s2 := (((s1.put (PEND_C_COEF d i 0) p.c0).put (PEND_C_COEF d i 1) p.c1).put (PEND_C_COEF d i 2) p.c2).put
        (PEND_C_COEF d i 3) p.c3
      ((s2.put (POLY_CTRL_EFF_GRAIN d i) c.grain).put (POLY_CTRL_PENDING d i) 1).complete c ccDONE 0

def execPolySet (c : CmdHdr) (d i : Nat) (p : Poly) (s : State) : Host.Outcome State Fault Refusal := ok (s.doPolySet c d i p)

end Sys2Proof.Machine
end

