-- ==== Sys2Proof/Machine/Products.lean ====
section
/-! DEFINITION. Products enter their rings, are sealed, and leave to their targets (chapter 13, R547). -/

namespace Sys2Proof.Machine

open Reg

/-! ### Entry (R344, R352, R354, R364) -/

/-- The packers take units: while the device runs, and at the end of a MUSTER that has not stopped (R368, R516, R613). -/
def State.packerOn (s : State) : Bool :=
  s.runs || (s.mode == mMUSTER && s.nvm.musterDone && decide (s.nvm.stop = .none))

/-- A unit's key precedes another's (R344). The C8 product of a vitrine precedes its C16 product. -/
def PUnit.fmt (u : PUnit) : Nat := if u.typ = 4 then (u.payload.headD 0).bits 36 1 else 0
def PUnit.before (a b : PUnit) : Bool :=
  decide (a.keyA < b.keyA) || (a.keyA == b.keyA && (decide (a.keyB < b.keyB) || (a.keyB == b.keyB && decide (a.fmt < b.fmt))))

/-- No voltage unit that precedes (folio, descriptor) is still to be formed on die d (R344). -/
def State.voltTurn (s : State) (d k b : Nat) : Bool :=
  s.get (BE_STATUS_STATE d) == 3 || decide (k < s.beFirst d (s.be d).si) ||
    (match s.intOf d (s.beFirst d (s.be d).si) with
    | none => true
    | some iv => (iv.descs.filter fun y => dVOLT y.2 && decide (dKIND y.2 < 2)).all fun y =>
        let x := (s.passPos d (dBATCH y.2)).folio
        decide (k < x) || (k == x && decide (b ≤ y.1)))

/-- It is the unit's turn: no voltage unit before it is missing. -/
def State.unitTurn (s : State) (u : PUnit) : Bool :=
  match u.src with
  | .volt d b k => s.voltTurn d k b
  | _ => true

/-- The next unit of a ring: the lowest key among derived units, the first offered among service units. -/
def State.nextUnit (s : State) (r : Nat) : Option PUnit :=
  match s.units.filter fun u => u.ring == r && s.unitTurn u with
  | [] => none
  | u :: us => some (us.foldl (fun m x => if decide (x.typ ≤ 4) && x.before m then x else m) u)

/-- The producer learns that its unit is committed, or that the ring held it already. -/
def State.unitDone (s : State) (u : PUnit) (seq : Nat) : State :=
  match u.src with
  | .dump d x n b => s.dumpCommitted d x n b
  | .volt _ _ _ => s
  | .vitrine d v k _ =>
    if s.units.any fun x => match x.src with
        | .vitrine d2 v2 k2 _ => d2 == d && v2 == v && k2 == k
        | _ => false then s
    else s.vitWritten d v k
  | .service => s
  | .reply c => s.complete c ccDONE seq

/-- Room has returned in the keeper's queue: one EVT_OVERFLOW with the count of the events dropped (R364). -/
def State.overflowEvt (s : State) : State :=
  if 0 < s.evtLost ∧ s.evts.length < 4096 then ({ s with evtLost := 0 }).emit 0x74 dcPACKAGE 0 0 s.evtLost 0 else s

/-- The oldest event of the keeper's queue enters EVT_RING. -/
def State.enterEvt (s : State) (r : Nat) : State :=
  match s.evts with
  | [] => s
  | e :: _ =>
    match s.commit r 6 (e.flags % 256) e.code e.time e.canNext 0 (evtPayload e) with
    | some s1 => ({ s1 with evts := s1.evts.tail }).overflowEvt
    | none => when (s.ringTakes r 6) (·.stall (ringDie r)) s

/-- A unit enters its ring, is discarded at or below the ring's mark, or finds no room and waits. -/
def State.enterUnit (s : State) (r : Nat) (u : PUnit) : State :=
  let d := ringDie r
  if u.typ ≤ 4 ∧ s.belowMark r u.keyA u.keyB u.fmt = true then
    (({ s with units := s.units.erase u }).bump (PR_COUNT0_DISCARDED d)).unitDone u 0
  else
    match s.commit r u.typ u.flags u.code u.start u.canFirst u.canCnt u.payload with
    | some s1 =>
      let s2 := { s1 with units := s1.units.erase u }
      (if u.typ ≤ 4 then s2.setMark r u.keyA u.keyB u.fmt else s2).unitDone u (s.get (rcNEXT r))
    | none =>
      if s.ringTakes r u.typ = false then s
      else
        let s1 := s.stall d
        if u.typ ≤ 2 then s1.raise (LED_EVENTS_DUMP_HELD d) else s1

/-- The packer of a ring's die takes the ring's next unit. -/
def execUnitEntry (ring : Nat) (s : State) : Host.Outcome State Fault Refusal :=
  if s.present (ringDie ring) = true ∧ s.packerOn = true then
    match s.nextUnit ring with
    | some u => ok (s.enterUnit ring u)
    | none => if ring = s.get PKC_RINGS_EVT_RING then ok (s.enterEvt ring) else ok s
  else ok s

/-! ### Seals (R366 to R369, R547) -/

/-- SEAL_S seconds have passed with a product uncovered. -/
def execSealTimer (ring : Nat) (s : State) : Host.Outcome State Fault Refusal :=
  let t := s.get (RING_CFG_SEAL_S (ringDie ring) (ringLoc ring))
  if s.present (ringDie ring) = true ∧ s.packerOn = true ∧ t ≠ 0 ∧ 0 < (s.ring ring).sinceTrig then
    ok ((s.advance ((s.ring ring).sealTime + t * tSec)).triggerSeal ring)
  else ok s

/-- The SEAL that a VOID calls for: of the products uncovered, or of an empty range (R547). -/
def State.voidSeal (s : State) (r : Nat) : State :=
  if (s.ring r).sinceTrig = 0 then
    ({ s with sec := { s.sec with queue := s.sec.queue ++
        [SecReq.sealRing r (s.ring r).trigNext ((s.ring r).trigNext + 2 ^ 48 - 1) (s.ringChain r)] } }).put
      (PR_STATUS_SIGN_Q (ringDie r)) (s.get (PR_STATUS_SIGN_Q (ringDie r)) + 1)
  else s.triggerSeal r

/-- A number as 32 octets, most significant first, in four span words (R367). -/
def sigWords (x : Nat) : List Word := packOctets 4 (beOctets 32 x)

/-- Words 0 to 12 of a SEAL payload. -/
def State.sealWords (s : State) (r first last : Nat) (chain : List Nat) : List Word :=
  let t := packTime s.now
  [BitVec.ofNat 72 (first % 2 ^ 48 + s.nvm.epoch % 2 ^ 16 * 2 ^ 48), BitVec.ofNat 72 (last % 2 ^ 48 + s.ownDev * 2 ^ 48),
   BitVec.ofNat 72 (s.get (rcSEALNO r) + r % 2 ^ 13 * 2 ^ 48), BitVec.ofNat 72 (t % 2 ^ 72), BitVec.ofNat 72 (t / 2 ^ 72)] ++
  packOctets 4 chain ++ packOctets 4 (s.getOctets32 (SEAL_KEY_ID 0))

/-- The SEC signs the seal at the head of its queue, and its ring takes the SEAL product; without the seal key it waits. -/
def State.signSeal (s : State) : State :=
  match s.sec.queue, s.sec.sealKey with
  | SecReq.sealRing r first last chain :: rest, some key =>
    if s.packerOn = false then s
    else
      let ws := s.sealWords r first last chain
      let sg := ecSign key (sha256 (ws.flatMap Word.octets))
      let s1 := ({ s with sec := { s.sec with queue := rest } }.bump SEC_COUNT_SIGS).drop (PR_STATUS_SIGN_Q (ringDie r))
      let s2 := ((s1.put (rcSEALNO r) (s1.get (rcSEALNO r) + 1)).put (rcFIRST r) (last + 1)).put (rcSINCE r) (s1.ring r).sinceTrig
      let u : PUnit := ⟨7, r, 0, s2.flagsNow, s2.now, s2.nvm.nextCan, 0, 0, 0, ws ++ sigWords sg.1 ++ sigWords sg.2, .service⟩
      { s2 with units := s2.units ++ [u] }.enterUnit r u
  | _, _ => s

def execSealSign (s : State) : Host.Outcome State Fault Refusal := ok s.signSeal

/-- Every seal that waits is signed; reports wait behind them (R369). -/
def State.signSeals (s : State) : State :=
  let seals := s.sec.queue.filter fun q => match q with
    | .sealRing _ _ _ _ => true
    | _ => false
  let rest := s.sec.queue.filter fun q => match q with
    | .sealRing _ _ _ _ => false
    | _ => true
  let s1 := forAll seals { s with sec := { s.sec with queue := seals } } fun s _ => s.signSeal
  { s1 with sec := { s1.sec with queue := s1.sec.queue ++ rest } }

/-! ### Targets (R355 to R360) -/

/-- The next committed product that target t of ring r has not sent. -/
def State.toSend (s : State) (r t : Nat) : Option RProd :=
  (s.ring r).prods.find? fun p => p.seq == (s.ring r).nSent t

/-- A target has sent a product; the time to the acknowledgement runs from the first one outstanding. -/
def State.sent (s : State) (r t : Nat) : State :=
  let q := s.ring r
  let idle := q.nSent t == q.nAck t
  (s.setRing r (if t = 1 then { q with nSent1 := q.nSent1 + 1, adv1 := if idle then s.now else q.adv1 }
    else { q with nSent0 := q.nSent0 + 1, adv0 := if idle then s.now else q.adv0 })).showTarget r t

/-- A product as packets of 32 span words to a collector (R357). -/
def State.sendCollector (s : State) (r dev : Nat) : Bool → Nat → List Word → State
  | _, 0, _ => s
  | first, n + 1, ws =>
    if ws = [] then s
    else (s.originate (ringDie r) 3 dev 0 (b2n first + 2 * ringDie r) (ws.take 32)).sendCollector r dev false n (ws.drop 32)

/-- The VOID product in place of one that cannot be read (R547). -/
def State.voidWords (s : State) (r : Nat) (p : RProd) (n : Nat) (hdrBad : Bool) : List Word :=
  prodHeader 0x0A (s.flagsNow ||| 1) r 2 s.ownDev p.seq s.nvm.epoch 0 0 0 0 ++
    [BitVec.ofNat 72 ((if hdrBad then 0 else p.typ % 256) + n % 2 ^ 24 * 2 ^ 8), BitVec.ofNat 72 (r % 2 ^ 13)]

/-- The bursts that words lo to hi - 1 of a product lie in. -/
def State.prodBursts (s : State) (r : Nat) (p : RProd) (lo hi : Nat) : List Nat :=
  ((List.range (hi - lo)).map fun o => s.prodAddr r p (lo + o) / 8).dedup

/-- The first VOID for a product: RING_VOID and a SEAL (R547). -/
def State.noteVoid (s : State) (r : Nat) (p : RProd) : State :=
  let q := s.ring r
  if q.voided.contains p.seq then s
  else ((s.setRing r { q with voided := q.voided ++ [p.seq] }).emit 0x75 (ringDie r) 0 0 r p.seq).voidSeal r

/-- The words that leave for product p: its own, or a VOID when a burst of it reads poisoned; every poisoned read is
reported. -/
def State.prodRead (s : State) (r : Nat) (p : RProd) (bad : List Nat) : State × List Word :=
  let hit := (s.prodBursts r p 0 p.len).filter fun b => bad.contains b
  if hit = [] then (s, s.prodWords r p)
  else
    let ws := s.voidWords r p hit.length ((s.prodBursts r p 0 4).any fun b => bad.contains b)
    ((forAll hit s fun s b => s.uncorr (ringDie r) (8 * b) 0x1F 0).noteVoid r p, ws)

/-- A target sends its next committed product: into its host landing ring when the ring has room, or to its collector.
`bad` are the bursts that read poisoned. -/
def execTargetSend (ring tgt : Nat) (bad : List Nat) (s : State) : Host.Outcome State Fault Refusal :=
  match s.toSend ring tgt with
  | none => ok s
  | some p =>
    if s.present (ringDie ring) = false ∨ s.packerOn = false ∨ (s.liveTargets ring).contains tgt = false then ok s
    else
      let x := s.targetOf ring tgt
      let r := s.prodRead ring p bad
      if x.1 = 3 then ok ((r.1.sendCollector ring x.2 true (r.2.length + 1) r.2).sent ring tgt)
      else
        let port := x.1 - 1
        if s.portState port = 1 ∧ s.get (LAND_STATE_EN port ring) = 1 ∧ (s.land port ring).stopped = false ∧
            r.2.length ≤ s.get (LAND_STATE_FREE port ring) then
          ok ((r.1.landProduct port ring p.seq r.2).sent ring tgt)
        else ok s

/-- A collector's acknowledgement (R357, R358). -/
def execCollectorAck (p : Pkt) (s : State) : Host.Outcome State Fault Refusal :=
  if s.inboxHead p.dstDie p = true ∧ p.vc = 2 ∧ p.sub = 0xA ∧ s.present p.dstDie = true then
    let s1 := s.takeInbox p.dstDie p
    let w := p.payload.headD 0
    let r := (p.payload.getD 1 0).bits 0 13
    match (s1.liveTargets r).find? fun t => s1.targetOf r t == (3, p.src) with
    | some t => if ringDie r = p.dstDie ∧ p.payload.length = 2 then ok (s1.ackRing r t (w.bits 0 48) (w.bits 48 16)) else ok s1
    | none => ok s1
  else ok s

/-- ACKED has not advanced for ACK_TO_MS while SENT is above it (R359). -/
def execAckTimeout (ring tgt : Nat) (s : State) : Host.Outcome State Fault Refusal :=
  let q := s.ring ring
  if s.present (ringDie ring) = true ∧ s.packerOn = true ∧ q.nAck tgt < q.nSent tgt ∧ tgt < 2 then
    ok ((s.advance ((if tgt = 1 then q.adv1 else q.adv0) + s.get (PR_CFG_ACK_TO_MS (ringDie ring)) * tMs)).resend ring tgt)
  else ok s

/-! ### Deaccessioned targets (R360) -/

/-- A target's kind names a deaccessioned host port. -/
def State.tgtDead (s : State) (kind : Nat) : Bool :=
  (kind == 1 || kind == 2) && s.portState (kind - 1) == 2

/-- The freed point: the first sequence the ring still holds. -/
def State.freedPoint (s : State) (r : Nat) : Nat :=
  match (s.ring r).prods with
  | [] => s.get (rcNEXT r)
  | p :: _ => p.seq

/-- The ring's targets follow the ports that are deaccessioned: with none left the fallback is bound and starts at the freed
point, or the ring is an orphan (R360). -/
def State.retarget (s : State) (r : Nat) : State :=
  let d := ringDie r
  let l := ringLoc r
  let t0 := s.tgtDead (s.get (RING_TGT_T0 d l))
  let t1 := s.tgtDead (s.get (RING_TGT_T1 d l))
  let none' := (t0 || s.get (RING_TGT_T0 d l) == 0) && (t1 || s.get (RING_TGT_T1 d l) == 0) && (t0 || t1)
  let fb := none' && s.get (RING_TGT_FB d l) != 0 && !s.tgtDead (s.get (RING_TGT_FB d l))
  let s1 := ((s.put (RING_TGT_T0_DEACC d l) (b2n t0)).put (RING_TGT_T1_DEACC d l) (b2n t1)).put (RING_TGT_FB_ACTIVE d l) (b2n fb)
  let s2 := if fb = true ∧ s.get (RING_TGT_FB_ACTIVE d l) = 0 then
      (s1.setRing r { s1.ring r with nAck0 := s.freedPoint r, nSent0 := s.freedPoint r, adv0 := s.now }).showTarget r 0
    else s1
  let orphan := none' && !fb
  let s3 := s2.setRing r { s2.ring r with orphan := orphan }
  (if orphan = true ∧ (s.ring r).orphan = false then (s3.raise (PR_EVENTS_ORPHAN d)).emit 0x71 d 0 0 r 0 else s3).freeRing r

/-- Every ring in use. -/
def State.allRings (s : State) : List Nat :=
  s.dies.flatMap fun d => ((List.range 1024).filter fun l => s.get (RING_CFG_EN d l) == 1).map fun l => 1024 * d + l

def State.retargetAll (s : State) : State := forAll s.allRings s fun s r => s.retarget r

/-- Every target resends from ACKED + 1 (R359). -/
def State.resendEvery (s : State) : State :=
  forAll s.allRings s fun s r => forAll (s.liveTargets r) s fun s t => s.resend r t

/-- Every ring with uncovered products triggers a SEAL (R366). -/
def State.sealAll (s : State) : State := forAll s.allRings s fun s r => if 0 < (s.ring r).sinceTrig then s.triggerSeal r else s

end Sys2Proof.Machine
end

