-- ==== Sys2Proof/Machine/Security.lean ====
section
/-! DEFINITION. The security engine: attestation, ownership, command keys, the seal key, the TRNG and the debug lock
(chapter 18). -/

namespace Sys2Proof.Machine

open Reg

/-! ### Ownership (R497 to R502) -/

/-- Thirty-two zero octets: no hash. -/
def noHash : List Nat := List.replicate 32 0

/-- The current owner's hash: the highest valid slot; none in an uncommissioned device. -/
def State.ownerHash (s : State) : Option (List Nat) := s.sec.slots.getLast?

/-- The command owner key of R502: the running image's key in an uncommissioned device and while an owner is pending; else
that key when it is the current owner's. -/
def State.cmdKey (s : State) : Option (List Nat) :=
  if s.sec.imageKey = [] then none
  else if s.ownerHash = none ∨ s.sec.pendOwner ≠ none ∨ s.ownerHash = some (sha256 s.sec.imageKey) then some s.sec.imageKey
  else none

/-- Operator key k as its registers hold it, 65 octets (R503). -/
def State.opKey (s : State) (k : Nat) : List Nat :=
  (((List.range 8).map fun w => s.rd (OPKEY k w)).flatMap Word.octets).take 65

/-- The operator keys in use, in ascending index. -/
def State.opKeys (s : State) : List (List Nat) :=
  ((List.range 8).map s.opKey).filter fun k => k.headD 0 == 4

/-- An ECDSA signature (r then s, 64 octets) over a message by an uncompressed key. -/
def sigOk (key msg sig : List Nat) : Bool :=
  key.headD 0 == 4 && decide (key.length = 65) && decide (sig.length = 64) &&
    ecVerify (keyPoint key) (sha256 msg) (ofBe (sig.take 32)) (ofBe (sig.drop 32))

/-- A signature by one of the keys open to a command: the command owner key, and for OPERATOR commands the operator keys. -/
def State.cmdSigOk (s : State) (owner : Bool) (msg sig : List Nat) : Bool :=
  ((s.cmdKey.toList ++ if owner then [] else s.opKeys).any fun k => sigOk k msg sig)

/-- A pending-owner record with hash H (R501). -/
def State.appendOwner (s : State) (h : List Nat) : State :=
  s.appendRec [0x5A, 0x4E, 0x4F, 0x50] (h ++ List.replicate 20 0)

/-- The pending owner as SEC_STATUS and PEND_HASH show it. -/
def State.showPending (s : State) : State :=
  (s.put SEC_STATUS_PENDING (b2n s.sec.pendOwner.isSome)).putOctets32 (PEND_HASH 0) (s.sec.pendOwner.getD noHash)

/-- The slots as SEC_STATUS and OWNER_HASH show them. -/
def State.showOwner (s : State) : State :=
  ((s.put SEC_STATUS_COMMISSIONED (b2n (s.sec.slots != []))).put SEC_STATUS_SLOTS_USED s.sec.slots.length).putOctets32
    (OWNER_HASH 0) (s.ownerHash.getD noHash)

/-- JTAG locks in a commissioned device (R511): any unlock ends. -/
def State.lockDebug (s : State) : State :=
  let s0 := when (s.sec.unlockEnd != 0) (·.emitOut (.jtag 0 0)) s
  let s1 := { s0 with sec := { s0.sec with unlockEnd := 0 } }.put SEC_STATUS_SCOPE 0
  s1.put SEC_STATUS_DEBUG (if s.sec.debugLock then 1 else 0)

/-- The next owner slot is burned with hash h; the first one locks the debug unit. -/
def State.burnSlot (s : State) (h : List Nat) : State :=
  { s with sec := { s.sec with slots := s.sec.slots ++ [h], pendOwner := none,
                               debugLock := s.sec.debugLock || s.sec.slots.length == 0 } }

/-- The check of R500: the running image's key meets the pending hash. Slot 0 is commissioning, at which the conservator
captures its baseline. -/
def State.burnOwner (s : State) (base : List Baseline) : State :=
  match s.sec.pendOwner with
  | none => s
  | some h =>
    if s.sec.imageKey = [] ∨ sha256 s.sec.imageKey ≠ h ∨ 8 ≤ s.sec.slots.length then s
    else
      let n := s.sec.slots.length
      let s1 := s.burnSlot h
      let s2 := ((s1.showOwner.showPending).raise SEC_EVENTS_OWNER_BURNED).emit 0x21 dcPACKAGE 0 0 n 0
      if n = 0 then
        forAll base (if s.sec.debugLock then s2 else s2.lockDebug) fun s b =>
          if s.present b.die = true ∧ s.flt.hosted.contains b.die = false then s.captureBaseline b.die b.mons b.eyes b.dram else s
      else s2

/-- OWNER_TRANSFER at its grain (R499). -/
def State.doOwnerTransfer (s : State) (c : CmdHdr) (hash : List Nat) (base : List Baseline) : State :=
  s.inMode c 6 fun s =>
    if 8 ≤ s.sec.slots.length then s.complete c ccWRONGMODE 0
    else if hash = noHash ∨ s.ownerHash = some hash then
      let s1 := if s.sec.pendOwner = none then s else s.appendOwner noHash
      (({ s1 with sec := { s1.sec with pendOwner := none } }).showPending).complete c ccDONE 0
    else
      let s1 := s.appendOwner hash
      let s2 := { s1 with sec := { s1.sec with pendOwner := some hash } }
      (((s2.showPending.raise SEC_EVENTS_OWNER_PENDING).emit 0x20 dcPACKAGE 0 0 0 0).burnOwner base).complete c ccDONE 0

/-- OWNER_TRANSFER. -/
def execOwnerTransfer (c : CmdHdr) (hash : List Nat) (base : List Baseline) (s : State) : Host.Outcome State Fault Refusal :=
  ok (s.doOwnerTransfer c hash base)

/-! ### TRNG (R510) -/

/-- Octets from the DRBG: free values. -/
def State.drawOctets (s : State) (n : Nat) : List Nat × State :=
  let r := s.draw (8 * n)
  (toOctets n r.1, { r.2 with sec := { r.2.sec with drbg := r.2.sec.drbg + 1 } })

/-- Requests to the DRBG wait: a health test failed, or 2^16 requests have been served since the last reseed (R510). -/
def SecSt.drbgWaits (q : SecSt) : Bool := q.waitReseed || decide (2 ^ 16 ≤ q.drbg)

/-- A new challenge (R512); it waits while requests wait for a reseed. -/
def State.newChallenge (s : State) : State :=
  if s.sec.drbgWaits then { s with sec := { s.sec with chalDue := true } }
  else
    let r := s.drawOctets 32
    ({ r.2 with sec := { r.2.sec with chalDue := false } }).putOctets32 (SEC_CHAL 0) r.1

/-- A failed health test. -/
def State.trngFails (s : State) : State :=
  (((({ s with sec := { s.sec with waitReseed := true } }.put SEC_STATUS_TRNG_OK 0).bump SEC_COUNT_TRNG_FAILS).raise
    SEC_EVENTS_TRNG_FAIL)).emit 0x24 dcPACKAGE 0 0 0 0

/-- TRNG_FAIL: a health test fails while the SEC runs. -/
def execTrngFail (s : State) : Host.Outcome State Fault Refusal :=
  if 2 ≤ s.mode then ok s.trngFails else ok s

/-- DRBG_RESEED: a reseed, after 2^16 requests or a failed health test; one that passes lets requests go on. -/
def execDrbgReseed (pass : Bool) (s : State) : Host.Outcome State Fault Refusal :=
  if s.mode < 2 then ok s
  else if pass then
    let s1 := { s with sec := { s.sec with drbg := 0, waitReseed := false } }.put SEC_STATUS_TRNG_OK 1
    ok (if s.sec.chalDue then s1.newChallenge else s1)
  else ok s.trngFails

/-! ### Seal key (R504, R505) -/

/-- The seal certificate of a public key: octets 0 to 84, then the identity key's signature. -/
def State.sealCertOf (s : State) (pub : List Nat) : List Nat :=
  let m := [0x5A, 0x4E, 0x53, 0x4B] ++ toOctets 2 s.ownDev ++ toOctets 2 s.nvm.epoch ++ toOctets 12 (packTime s.now) ++ pub
  let sg := ecSign Config.identityScalar (sha256 m)
  m ++ beOctets 32 sg.1 ++ beOctets 32 sg.2

/-- A new seal key and its certificate. -/
def State.newSealKey (s : State) : State :=
  let r := s.draw 320
  let key := r.1 % (p256n - 1) + 1
  let s1 := { r.2 with sec := { r.2.sec with drbg := r.2.sec.drbg + 1 } }
  let pub := ecPublic key
  let s2 := { s1 with sec := { s1.sec with sealKey := some key, sealCert := s1.sealCertOf pub } }
  ((((s2.putOctets32 (SEAL_KEY_ID 0) (sha256 pub)).put SEC_STATUS_SEAL_KEY 1).raise SEC_EVENTS_SEAL_KEY_NEW)).bump SEC_COUNT_SIGS

/-- The seal key erased. -/
def State.eraseSealKey (s : State) : State :=
  ({ s with sec := { s.sec with sealKey := none } }).put SEC_STATUS_SEAL_KEY 0

/-! ### Attestation (R507, R508, R617) -/

/-- Attestation requests from commands in the queue. -/
def State.attWaiting (s : State) : Nat :=
  (s.sec.queue.filter fun q => match q with
    | .attest _ (some _) => true
    | _ => false).length

/-- An attestation request joins the SEC's queue. -/
def State.queueAttest (s : State) (nonce : List Nat) (c : Option CmdHdr) : State :=
  let s1 := { s with sec := { s.sec with queue := s.sec.queue ++ [SecReq.attest nonce c] } }
  s1.put SEC_STATUS_ATT_WAIT s1.attWaiting

/-- ATTEST at its grain. -/
def State.doAttest (s : State) (c : CmdHdr) (nonce : List Nat) : State :=
  s.inMode c 7 fun s => if 16 ≤ s.attWaiting then s.complete c ccBUSY 0 else s.queueAttest nonce (some c)

/-- ATTEST. -/
def execAttest (c : CmdHdr) (nonce : List Nat) (s : State) : Host.Outcome State Fault Refusal := ok (s.doAttest c nonce)

/-- Octets 0 to 209 of a report. -/
def State.reportHead (s : State) (nonce : List Nat) : List Nat :=
  [0x5A, 0x4E, 0x41, 0x54] ++ toOctets 2 1 ++ toOctets 2 s.ownDev ++ [s.part.dies, s.mode] ++ toOctets 2 s.nvm.epoch ++
    (nonce ++ noHash).take 32 ++ toOctets 12 (packTime s.now) ++ s.getOctets32 (MEAS_FW 0) ++ s.getOctets32 (IMG_HASH 0) ++
    s.ownerHash.getD noHash ++ s.sec.pendOwner.getD noHash ++ toOctets 4 (s.get ARB_STATE_FLOOR) ++ toOctets 4 (s.get IMG_HDR_ARB) ++
    [s.sec.svn, s.sec.slots.length, b2n (s.sec.slots != []),
     s.get SEC_STATUS_DEBUG + 4 * s.get SEC_STATUS_SCOPE + 128 * s.get SEC_STATUS_DBG_SINCE_START] ++
    toOctets 6 (s.get RG_STATUS_SCC) ++ [s.get IMG_HDR_SVN, 0] ++
    toOctets 2 (b2n s.sec.storeInit + 2 * b2n s.sec.debugLock) ++ toOctets 2 149 ++ toOctets 2 (Config.deviceCert.take 1024).length

/-- A report: what the identity key signs, then its signature. -/
def State.report (s : State) (nonce : List Nat) : List Nat :=
  let m := s.reportHead nonce ++ (s.sec.sealCert ++ List.replicate 149 0).take 149 ++ Config.deviceCert.take 1024
  let sg := ecSign Config.identityScalar (sha256 m)
  m ++ beOctets 32 sg.1 ++ beOctets 32 sg.2

/-- A number of octets in span words. -/
def wordsFor (n : Nat) : Nat := ceilDiv n 9

/-- ATTESTATION_SIGN: the report at the head of the queue is signed and its ATT product entered into ATT_RING. -/
def execAttestationSign (s : State) : Host.Outcome State Fault Refusal :=
  match s.sec.queue with
  | SecReq.attest nonce c :: rest =>
    if s.packerOn = false then ok s
    else
      let o := s.report nonce
      let s1 := { s with sec := { s.sec with queue := rest } }.bump SEC_COUNT_SIGS
      let s2 := s1.put SEC_STATUS_ATT_WAIT s1.attWaiting
      let r := s.get PKC_RINGS_ATT_RING
      let u : PUnit := ⟨8, r, 0, s.flagsNow, s.now, s.nvm.nextCan, 0, 0, 0, packOctets (wordsFor o.length) o,
        match c with
        | some c => .reply c
        | none => .service⟩
      ok ({ s2 with units := s2.units ++ [u] }.enterUnit r u)
  | _ => ok s

/-! ### Debug lock (R511 to R513) -/

/-- The octets that a DEBUG_UNLOCK response signs. -/
def State.unlockMsg (s : State) (resp : List Nat) : List Nat :=
  [0x5A, 0x4E, 0x44, 0x55] ++ toOctets 2 s.ownDev ++ s.getOctets32 (SEC_CHAL 0) ++ (resp.drop 64).take 5

/-- The key that a response must verify under: the current owner's, or the provisional owner's. -/
def State.unlockKey (s : State) : Option (List Nat) :=
  if s.sec.imageKey ≠ [] ∧ (s.ownerHash = none ∨ s.ownerHash = some (sha256 s.sec.imageKey)) then some s.sec.imageKey else none

/-- JTAG unlocked for a scope and a duration. -/
def State.unlock (s : State) (scope secs : Nat) : State :=
  let s1 := ({ s with sec := { s.sec with unlockEnd := s.now + secs * tSec } }.put SEC_STATUS_SCOPE scope).put
    SEC_STATUS_DBG_SINCE_START 1
  let s2 := s1.put SEC_STATUS_DEBUG (if s.sec.debugLock then 2 else 0)
  ((((s2.bump SEC_DEBUG_UNLOCKS).raise SEC_EVENTS_DEBUG_UNLOCK).emitOut (.jtag scope secs))).emit 0x22 dcPACKAGE 0 0 scope secs

/-- DEBUG_UNLOCK at its grain: 128 octets of response. -/
def State.doDebugUnlock (s : State) (c : CmdHdr) (resp : List Nat) : State :=
  s.inMode c 6 fun s =>
    let scope := resp.getD 64 0
    let secs := recNum resp 65 4
    if resp.length ≠ 128 ∨ 8 ≤ scope ∨ secs = 0 ∨ 86400 < secs ∨ ((resp.drop 69).all (· == 0)) = false then
      s.complete c ccBADARG 0
    else if (s.unlockKey.any fun k => sigOk k (s.unlockMsg resp) (resp.take 64)) = false then
      (((s.raise SEC_EVENTS_UNLOCK_FAIL).bump SEC_COUNT_VERIFY_FAIL).emit 0x23 dcPACKAGE 0 0 0 0).newChallenge.complete c ccWRONGMODE 0
    else if bit scope 0 = true ∧ s.accepts = true then s.newChallenge.complete c ccWRONGMODE 0
    else ((when (bit scope 0) State.eraseSealKey s).unlock scope secs).newChallenge.complete c ccDONE 0

/-- DEBUG_UNLOCK. -/
def execDebugUnlock (c : CmdHdr) (resp : List Nat) (s : State) : Host.Outcome State Fault Refusal := ok (s.doDebugUnlock c resp)

/-- DEBUG_EXPIRY: the unlock time runs out. -/
def execDebugExpiry (s : State) : Host.Outcome State Fault Refusal :=
  if s.sec.unlockEnd = 0 then ok s
  else ok (s.advance s.sec.unlockEnd).lockDebug

end Sys2Proof.Machine
end

