-- ==== Sys2Proof/Machine/Image.lean ====
section
/-! DEFINITION. The configuration image: layout, the checks of pass 1 and pass 2, what its sections write, anti-rollback,
programme stores and updates (chapter 17). -/

namespace Sys2Proof.Machine

open Reg

/-! ### Layout (R471 to R477) -/

/-- Where the image area lies and its size. -/
def imgBase : Nat := 0x02000000
def imgSize : Nat := 0x10000000

/-- Octets of the image of a device. -/
def State.img (s : State) (dev off n : Nat) : List Nat := s.rdFlash dev (imgBase + off) n

/-- A little-endian field of the image header. -/
def State.hdrNum (s : State) (dev off n : Nat) : Nat := ofOctets (s.img dev off n)

def State.imgArb (s : State) (dev : Nat) : Nat := s.hdrNum dev 8 4
def State.imgSvn (s : State) (dev : Nat) : Nat := s.hdrNum dev 12 1
def State.imgBoot (s : State) (dev : Nat) : Nat := s.hdrNum dev 13 1
def State.imgProgs (s : State) (dev : Nat) : Nat := s.hdrNum dev 14 2
def State.imgTotal (s : State) (dev : Nat) : Nat := s.hdrNum dev 16 8
def State.imgNsec (s : State) (dev : Nat) : Nat := s.hdrNum dev 7 1

/-- One entry of the section table (R474); `zeros`: its reserved octets are zero. -/
structure ImgSec where
  id : Nat
  pmask : Nat
  off : Nat
  len : Nat
  digest : List Nat
  zeros : Bool
deriving DecidableEq, Repr

/-- Entry n of the section table. -/
def State.imgEntry (s : State) (dev n : Nat) : ImgSec :=
  let o := s.img dev (64 + 64 * n) 64
  ⟨o.getD 0 0, recNum o 2 2, recNum o 8 8, recNum o 16 8, (o.drop 24).take 32,
    o.getD 1 0 == 0 && ((o.drop 4).take 4).all (· == 0) && (o.drop 56).all (· == 0)⟩

def State.imgSecs (s : State) (dev : Nat) : List ImgSec := (List.range (s.imgNsec dev)).map (s.imgEntry dev)

/-- Section codes served once for the device, and those served for each programme. -/
def deviceSecs : List Nat := [0x01, 0x02, 0x08, 0x09, 0x0A, 0x0B, 0x0C, 0x0D, 0x0E]
def progSecs : List Nat := [0x03, 0x04, 0x05, 0x06, 0x07, 0x0F]

/-! ### Pass 1 (R479) -/

/-- Check 2 HEADER. -/
def State.headerOk (s : State) (dev : Nat) : Bool :=
  s.img dev 0 4 == [0x5A, 0x4E, 0x49, 0x4D] && s.hdrNum dev 4 2 == 1 && s.hdrNum dev 6 1 == s.part.dies &&
    decide (1 ≤ s.imgNsec dev) && decide (s.imgNsec dev ≤ 64) && decide (64 + 64 * s.imgNsec dev + 160 ≤ s.imgTotal dev) &&
    decide (s.imgTotal dev ≤ imgSize) && decide (s.imgSvn dev ≤ 63) && s.imgProgs dev != 0 && decide (s.imgBoot dev ≤ 15) &&
    bit (s.imgProgs dev) (s.imgBoot dev)

/-- Two sections do not overlap. -/
def ImgSec.apart (a b : ImgSec) : Bool := decide (a.off + a.len ≤ b.off) || decide (b.off + b.len ≤ a.off)

/-- Every two elements of a list meet `p`. -/
def pairsAll {α : Type} (p : α → α → Bool) : List α → Bool
  | [] => true
  | x :: xs => xs.all (p x) && pairsAll p xs

/-- The section of a code that serves programme p. -/
def secFor (l : List ImgSec) (id p : Nat) : Option ImgSec := l.find? fun e => e.id == id && bit e.pmask p

/-- Check 3 TABLE: R474 and R475. -/
def State.tableOk (s : State) (dev : Nat) : Bool :=
  let l := s.imgSecs dev
  let progs := s.imgProgs dev
  (l.all fun e => e.zeros && e.off % 64 == 0 && decide (64 + 64 * s.imgNsec dev ≤ e.off) &&
      decide (e.off + e.len + 160 ≤ s.imgTotal dev) &&
      (if deviceSecs.contains e.id then e.pmask == 0
       else progSecs.contains e.id && e.pmask != 0 && (e.pmask &&& progs) == e.pmask)) &&
    pairsAll (fun a b => a.apart b && (a.id != b.id || (a.pmask &&& b.pmask) == 0)) l &&
    (deviceSecs.all fun id => (l.filter fun e => e.id == id).length == 1) &&
    ((setBitsOf progs 16).all fun p => [0x03, 0x04, 0x05, 0x06, 0x0F].all fun id => (secFor l id p).isSome)

/-- The owner key in the signature block. -/
def State.imgKey (s : State) (dev : Nat) : List Nat := (s.img dev (s.imgTotal dev - 160) 160 |>.drop 4).take 65

/-- The key is one that the device accepts (R477, R498, R499). -/
def State.keyAccepted (s : State) (key : List Nat) : Bool :=
  match s.ownerHash with
  | none => true
  | some h => sha256 key == h || s.sec.pendOwner == some (sha256 key)

/-- Check 4 SIG. -/
def State.imgSigOk (s : State) (dev : Nat) : Bool :=
  let n := s.imgTotal dev - 160
  let b := s.img dev n 160
  b.take 4 == [0x5A, 0x4E, 0x53, 0x47] && (b.drop 133).all (· == 0) && s.keyAccepted (s.imgKey dev) &&
    sigOk (s.imgKey dev) (s.img dev 0 n) ((b.drop 69).take 64)

/-- Check 5: not rolled back (R481). -/
def State.arbOk (s : State) (dev : Nat) : Bool :=
  decide (s.sec.svn ≤ s.imgSvn dev) && decide (s.get ARB_STATE_FLOOR ≤ s.imgArb dev)

/-- Pass 1 over the image of a device: 0, or the code of the first check that fails. `good`: the device answers. -/
def State.pass1 (s : State) (dev : Nat) (good : Bool) : Nat :=
  if good = false then 1
  else if s.headerOk dev = false then 2
  else if s.tableOk dev = false then 3
  else if s.imgSigOk dev = false then 4
  else if s.arbOk dev = false then 5
  else 0

/-! ### Load records (R476) and the slots of a section (R475, R612) -/

/-- The slot writes of a section's span words; none when a record breaks its form. -/
def loadRecs : Nat → List Word → Option (List (Nat × Word))
  | _, [] => some []
  | 0, _ => none
  | fuel + 1, h :: ws =>
    let a := h.bits 0 48
    let n := h.bits 48 24
    if a % 16 ≠ 0 ∨ n = 0 ∨ ws.length < n then none
    else (loadRecs fuel (ws.drop n)).map (((List.range n).map fun j => (a + 16 * j, ws.getD j 0)) ++ ·)

/-- The octets of a section as span words of 9 octets. -/
def secWords (o : List Nat) : List Word := packOctets (o.length / 9) o

/-- The writes of a section. -/
def State.secWrites (s : State) (dev : Nat) (e : ImgSec) : Option (List (Nat × Word)) :=
  if e.len % 9 ≠ 0 then none else loadRecs (e.len + 1) (secWords (s.img dev e.off e.len))

/-- The name of the register at a slot. -/
def slotName (p : Part) (a : Nat) : String :=
  match slotDesc p a with
  | some (q, _) => q.name
  | none => ""

/-- A section may write a slot. -/
def secAllows (p : Part) (id a : Nat) : Bool :=
  let b := addrBlock a
  let nm := slotName p a
  if addrDie a = 15 then
    match id with
    | 0x01 => b == 0x01 || b == 0x09
    | 0x08 => b == 0x0B
    | 0x09 => b == 0x05 || b == 0x06
    | 0x0A => b == 0x0A || ((b == 0x07 || b == 0x08) && nm == "HP_CFG")
    | 0x0D => b == 0x0C && nm == "DMA_CH_CFG"
    | 0x0E => b == 0x02 || b == 0x03 || (b == 0x0C && nm == "DMA_CFG")
    | _ => false
  else if p.dies ≤ addrDie a then false
  else
    match id with
    | 0x02 => b == 0x10
    | 0x03 => b == 0x11
    | 0x04 => b == 0x13
    | 0x05 => b == 0x16
    | 0x06 => b == 0x17 && nm != "CHMAP"
    | 0x07 => b == 0x18
    | 0x08 => b == 0x1F && nm != "RING_REGION" && nm != "RES_REGION"
    | 0x09 => b == 0x15 && nm == "CH_ASYM"
    | 0x0B => (b == 0x15 && nm != "CH_ASYM") || (b == 0x14 && nm == "ROUTE")
    | 0x0C => b == 0x1A
    | 0x0D => b == 0x19 || (b == 0x1B && nm != "DMA_CFG") || (b == 0x14 && nm == "STINT_REGION") ||
        (b == 0x1F && (nm == "RING_REGION" || nm == "RES_REGION"))
    | 0x0E => b == 0x1C || b == 0x1D || (b == 0x1B && nm == "DMA_CFG")
    | 0x0F => b == 0x12 || (b == 0x14 && nm != "ROUTE" && nm != "STINT_REGION") || (b == 0x17 && nm == "CHMAP")
    | _ => false

/-- The last word that a list of writes leaves in a slot. -/
def lastWrite (l : List (Nat × Word)) (a : Nat) : Option Word := (l.reverse.find? fun w => w.1 == a).map (·.2)

/-- A field as a list of writes leaves it, from its reset value on. -/
def State.imgField (s : State) (l : List (Nat × Word)) (f : RF) : Nat :=
  ((lastWrite l f.addr).getD (regReset s.part f.addr)).bits f.lo f.wid

/-- The writes of every section that serves programme p. -/
def State.progWrites (s : State) (dev p : Nat) : List (Nat × Word) :=
  ((s.imgSecs dev).filter fun e => bit e.pmask p).flatMap fun e => (s.secWrites dev e).getD []

/-- What R131 and R87 ask of a programme's settings on a die: a journal slot, and converter rates f_in = fs D within limits. -/
def State.progDieOk (s : State) (l : List (Nat × Word)) (d : Nat) : Bool :=
  s.imgField l (JNL_REGION_SLOTS d) != 0 &&
    ((List.range 128).all fun i =>
      let m := s.imgField l (IN_CFG_MODE d i)
      let rate := s.imgField l (GRID_RATE_FS_NUM d) * (s.imgField l (IN_CFG_D_M1 d i) + 1)
      m == 0 || decide (rate ≤ (if m = 2 then 625000000 else 1250000000) * s.imgField l (GRID_RATE_FS_DEN d)))

/-- The OWN_DEV values that a programme's sections write. -/
def ownDevs (p : Part) (l : List (Nat × Word)) : List Nat :=
  ((l.filter fun w => addrDie w.1 != 15 && addrBlock w.1 == 0x14 && slotName p w.1 == "CTE_CFG").map fun w => w.2.bits 0 16).dedup

/-- The device number of an image's IDENT section. -/
def State.imgIdent (s : State) (dev : Nat) : Nat :=
  let ws := ((s.imgSecs dev).filter fun e => e.id == 0x01).flatMap fun e => (s.secWrites dev e).getD []
  Config.identNumber (ws.filter fun w => addrBlock w.1 == 0x01) % 2 ^ 16

/-- Checks 6 and 7 over every section: 0, 6 DIGEST or 7 CONTENT. -/
def State.pass2 (s : State) (dev : Nat) : Nat :=
  let l := s.imgSecs dev
  let bad := (l.filter fun e => deviceSecs.contains e.id) ++ l.filter fun e => progSecs.contains e.id
  let one := fun (e : ImgSec) =>
    if sha256 (s.img dev e.off e.len) ≠ e.digest then 6
    else match s.secWrites dev e with
      | none => 7
      | some ws => if ws.all fun w => secAllows s.part e.id w.1 then 0 else 7
  let c := (bad.map one).find? (· != 0)
  match c with
  | some x => x
  | none =>
    let ps := setBitsOf (s.imgProgs dev) 16
    if (ps.all fun p => (List.range s.part.dies).all fun d => s.progDieOk (s.progWrites dev p) d) = true ∧
        (ps.flatMap fun p => ownDevs s.part (s.progWrites dev p)).all (· == s.imgIdent dev) = true then 0 else 7

/-! ### Loading (R476, R483) -/

/-- The parity stored with each of the twelve entries of a PRIO word. -/
def prioPar (w : Word) : Nat :=
  (List.range 12).foldl (fun m t =>
    m + b2n ((((List.range 4).filter fun b => bit (w.bits (4 * t) 4) b).length % 2 == 1) != Config.prioOdd) * 2 ^ t) 0

/-- A core's memory word written through its window (byte offset `o`). -/
def State.loadCoreMem (s : State) (d c o : Nat) (w : Word) : State :=
  let q := s.core d c
  if o < 0x40000 then s.setCore d c { q with xm := Store.put zeroWord q.xm (o / 16) w }
  else if o < 0x80000 then s.setCore d c { q with ym := Store.put zeroWord q.ym ((o - 0x40000) / 16) w }
  else if o < 0xA0000 then s.setCore d c { q with pm := Store.put zeroWord q.pm ((o - 0x80000) / 16) w }
  else s

/-- The registrar writes a word of a load record. Control slots of pending sets make their sets pending (R95, R318). -/
def State.loadSlot (s : State) (x : Nat × Word) : State :=
  let a := x.1
  let d := addrDie a
  let o := addrOff a
  if d ≠ 15 ∧ addrBlock a = 0x13 ∧ 0x100000000 ≤ o then
    if (o - 0x100000000) / 0x100000 < 18 then s.loadCoreMem d ((o - 0x100000000) / 0x100000) ((o - 0x100000000) % 0x100000) x.2 else s
  else
    let s1 := s.softWrite a x.2.toNat
    if d = 15 then s1
    else if addrBlock a = 0x11 ∧ slotName s.part a = "POLY_CTRL" then s1.put ⟨a, (POLY_CTRL_PENDING 0 0).lo, 1⟩ 1
    else if addrBlock a = 0x18 ∧ slotName s.part a = "PEND_CTRL" then s1.put ⟨a, (PEND_CTRL_PENDING 0 0).lo, 1⟩ 1
    else if addrBlock a = 0x1A ∧ slotName s.part a = "PRIO" then s1.put ⟨a, (PRIO_PAR 0 0).lo, 12⟩ (prioPar x.2)
    else s1

def State.loadAll (s : State) (ws : List (Nat × Word)) : State := forAll ws s fun s x => s.loadSlot x

/-- The device-wide sections are applied, in table order. Work for lost dies is left out. -/
def State.applyDevice (s : State) (dev : Nat) : State :=
  forAll ((s.imgSecs dev).filter fun e => deviceSecs.contains e.id) s fun s e =>
    s.loadAll (((s.secWrites dev e).getD []).filter fun w => addrDie w.1 == 15 || s.present (addrDie w.1))

/-- The octets of a programme store entry. -/
def storeOctets (ws : List (Nat × Word)) : List Nat := ws.flatMap fun w => toOctets 6 w.1 ++ w.2.octets

/-- The programme sections copied to the programme stores, die by die, with a SHA-256 for each die and section (R483). -/
def State.copyStore (s : State) (dev : Nat) : State :=
  let l := s.imgSecs dev
  let es := (setBitsOf (s.imgProgs dev) 16).flatMap fun p => progSecs.flatMap fun id =>
    match secFor l id p with
    | none => []
    | some e => s.dies.map fun d =>
        let ws := ((s.secWrites dev e).getD []).filter fun w => addrDie w.1 == d
        ProgSec.mk p id d ws (sha256 (storeOctets ws))
  { s with nvm := { s.nvm with store := es } }

/-- A programme is defined. -/
def State.progDefined (s : State) (p : Nat) : Bool := bit (s.get IMG_HDR_PROGS) p

/-- The sections of programme p that fail their hash: `bad` are the dies whose store reads poisoned. -/
def State.storeFails (s : State) (p : Nat) (bad : List Nat) : List ProgSec :=
  s.nvm.store.filter fun e => e.prog == p && s.present e.die && (bad.contains e.die || sha256 (storeOctets e.writes) != e.hash)

/-- Die-pair journalling of die d is in force when both dies of the pair ask for it and both are present (R137); the mirror then
begins as a copy of the die's DRAM. -/
def State.setPair (s : State) (d : Nat) : State :=
  let p := partner d
  let on := s.get (ACU_CFG_PAIR_EN d) == 1 && s.get (ACU_CFG_PAIR_EN p) == 1 && s.present d && s.present p &&
    !s.flt.hosted.contains d && !s.flt.hosted.contains p
  if on = s.paired d then s
  else
    let rest := Store.keep s.mirrors fun k => k / 2 ^ 40 != d
    let own := if on then Store.keep s.dram fun k => k / 2 ^ 40 == d else []
    { s with mirrors := own.foldl (fun m (e : Nat × Word) => Store.put dramInit m e.1 e.2) rest }.put
      (ACU_STATUS_PAIR_ACTIVE d) (b2n on)

/-- The cores of die d as the programme loads them: INPUTS by logical core (R167), and the program's start state as the first save
(R174). -/
def State.startCores (s : State) (d : Nat) : State :=
  let on := (List.range 18).filter fun c => s.get (CORE_CFG_EN d c) == 1
  let n := fun (l : Nat) => ((on.filter fun c => s.logicalOf d c == l).map fun c => s.get (CORE_CFG_INPUTS d c)).headD 0
  let s1 := s.setFc d { s.fc d with inputs := (List.range 16).map n }
  forAll on s1 fun s c => if (s.fc d).saves.any (fun e => e.1 == s.logicalOf d c) then s else s.setSave d (s.logicalOf d c) (s.core d c)

/-- The programme blocks of every die rewritten from the stores. -/
def State.applyProg (s : State) (p : Nat) : State :=
  let s1 := forAll (s.nvm.store.filter fun e => e.prog == p && s.present e.die) s fun s e => s.loadAll e.writes
  forAll s1.dies s1 fun s d => (s.setPair d).startCores d

/-! ### Anti-rollback (R482) -/

/-- The SVN fuses are raised to n, never lowered. -/
def State.fuseSvn (s : State) (n : Nat) : State :=
  ({ s with sec := { s.sec with svn := max s.sec.svn n } }).put ARB_STATE_SVN_FUSED (max s.sec.svn n)

/-- At the first entry into OBSERVE with both images good: the floor and the SVN fuses rise to the lower values. -/
def State.raiseFloor (s : State) : State :=
  let s0 := { s with nvm := { s.nvm with firstObs := false } }
  if s.nvm.firstObs = false ∨ s.nvm.passA = false ∨ s.nvm.passB = false then s0
  else
    let arb := min (s.imgArb 0) (s.imgArb 1)
    let svn := min (s.imgSvn 0) (s.imgSvn 1)
    if arb ≤ s.get ARB_STATE_FLOOR ∧ svn ≤ s.sec.svn then s0
    else
      let s1 := if s.get ARB_STATE_FLOOR < arb then (s0.put ARB_STATE_FLOOR arb).appendCounter else s0
      let s2 := s1.fuseSvn svn
      (s2.raise NVM_EVENTS_ARB_RAISED).emit 0x15 dcPACKAGE 0 0 (s2.get ARB_STATE_FLOOR) s2.sec.svn

/-! ### Updates (R490, R491) -/

/-- One octet of host memory as the reads of a command give it. -/
def hostOctet (mem : List HRead) (port addr : Nat) : Option Nat :=
  match mem.find? fun r => r.port == port && decide (r.addr ≤ addr) && decide (addr < r.addr + r.data.length) with
  | some r => some (r.data.getD (addr - r.addr) 0 % 256)
  | none => none

/-- `n` octets of host memory; none at a host-read error. -/
def hostOctets (mem : List HRead) (port addr n : Nat) : Option (List Nat) := (List.range n).mapM fun i => hostOctet mem port (addr + i)

/-- The image of a device passes, as NVM_STATUS.OTHER_OK shows of the one that does not run. -/
def State.setPassed (s : State) (dev : Nat) (b : Bool) : State :=
  let s1 := { s with nvm := if dev = 0 then { s.nvm with passA := b } else { s.nvm with passB := b } }
  if dev = s.get NVM_STATUS_SOURCE then s1 else s1.put NVM_STATUS_OTHER_OK (b2n b)

def State.passed (s : State) (dev : Nat) : Bool := if dev = 0 then s.nvm.passA else s.nvm.passB

/-- The flash keys from `off` on for `n` octets erased. -/
def State.eraseFlash (s : State) (dev off n : Nat) : State :=
  { s with flash := Store.keep s.flash fun k => !(decide (flashKey dev off ≤ k) && decide (k < flashKey dev off + n)) }

/-- IMAGE_UPDATE at its grain: the area is erased and every octet but the header written; the header waits. -/
def State.doImageUpdate (s : State) (c : CmdHdr) (dev addr len : Nat) (mem : List HRead) : State :=
  s.inMode c 6 fun s =>
    if 2 ≤ dev ∨ len < 64 + 64 + 160 ∨ imgSize < len then s.complete c ccBADARG 0
    else if s.nvm.updating ≠ none then s.complete c ccBUSY 0
    else if s.get NVM_STATUS_SOURCE = dev ∧ s.passed (1 - dev) = false then s.complete c ccWRONGMODE 0
    else
      let data := hostOctets mem c.src addr len
      let s1 := (s.eraseFlash dev imgBase imgSize).setPassed dev false
      let s2 := match data with
        | some o => s1.wrFlash dev (imgBase + 64) (o.drop 64)
        | none => s1
      (({ s2 with nvm := { s2.nvm with updating := some dev, updHdr := (data.getD []).take 64, updBad := data.isNone } }).put
        NVM_STATUS_UPDATING 1).run c (.imageUpdate dev)

/-- IMAGE_UPDATE. -/
def execImageUpdate (c : CmdHdr) (dev addr len : Nat) (mem : List HRead) (s : State) : Host.Outcome State Fault Refusal :=
  ok (s.doImageUpdate c dev addr len mem)

/-- The running update completes with `code`. -/
def State.endUpdate (s : State) (dev code : Nat) : State :=
  let s1 := ({ s with nvm := { s.nvm with updating := none, updHdr := [], updBad := false } }).put NVM_STATUS_UPDATING 0
  let s2 := if code = ccDONE then (s1.setPassed dev true).raise NVM_EVENTS_UPDATE_DONE else s1.raise NVM_EVENTS_UPDATE_FAIL
  s2.finish (fun k => k == .imageUpdate dev) code 0

/-- UPDATE_DONE: writing ends; `ioOk`: every read and write completed. The header is written last, and pass 1 runs. -/
def execUpdateDone (ioOk : Bool) (s : State) : Host.Outcome State Fault Refusal :=
  match s.nvm.updating with
  | none => ok s
  | some dev =>
    if s.nvm.updBad = true ∨ ioOk = false then ok (s.endUpdate dev ccBADARG)
    else
      let s1 := s.wrFlash dev imgBase s.nvm.updHdr
      let f := s1.pass1 dev true
      if f = 0 then ok (s1.endUpdate dev ccDONE)
      else if f = 4 then ok ((s1.bump SEC_COUNT_VERIFY_FAIL).endUpdate dev ccBADSIG)
      else ok ((s1.eraseFlash dev imgBase 64).endUpdate dev ccBADARG)

end Sys2Proof.Machine
end

