-- ==== Sys2Proof/Machine/Inputs.lean ====
section
/-! DEFINITION. The registrar's check of the LANES section at MUSTER (R59 to R62, R81, R616). -/

namespace Sys2Proof.Machine

open Reg

/-- Lanes, converters and converter streams that R59 and R61 allow on a die. -/
def maxStreams : Nat := 128

/-- The numbers are 0 to n - 1 in some order. -/
def isPerm (l : List Nat) (n : Nat) : Bool := l.length == n && (List.range n).all l.contains

/-- The lane rates that R59 allows, in kbaud. -/
def rateOk (r : Nat) : Bool := decide (3125000 ≤ r) && decide (r ≤ 12500000)

/-- What is wrong with an enabled link: the MASK index of the one field at fault, 0x1E for a relation or a value that MASK does
not list, none for a good link. -/
def State.linkFault (s : State) (d j : Nat) : Option Nat :=
  let ls := s.linkLanes d j
  let rates := (ls.map fun n => s.get (QUAD_CFG_RATE_KBD d (n / 4))).dedup
  if s.lkK d j < 16 then some 6
  else if s.lkNP d j < s.lkN d j then some 0x1E
  else if s.lkF d j * 8 * s.lkL d j ≠ s.lkM d j * s.lkS d j * s.lkNP d j then some 0x1E
  else if s.lkF d j * s.lkK d j < 17 then some 0x1E
  else if isPerm (ls.map fun n => s.get (LANE_CFG_LOGICAL d n)) (s.lkL d j) = false then some 0x1E
  else if rates.length ≠ 1 ∨ rates.all rateOk = false then some 0x1E
  else none

/-- The links that the check leaves DISABLED. -/
def State.badLinks (s : State) (d : Nat) : List Nat :=
  (List.range 8).filter fun j => s.get (LINK_CFG_EN d j) == 1 && (s.linkFault d j).isSome

/-- A bad link is reported, and every input it feeds is deaccessioned. The report alone: it charges no REALIGN bucket and is not
counted in ILAS_FAILS (log entry 49). -/
def State.rejectLink (s : State) (d j : Nat) : State :=
  match s.linkFault d j with
  | none => s
  | some f =>
    let s1 := ((s.put (LINK_STATUS_FAIL_FIELD d j) f).raise (ING_EVENTS_ILAS_FAIL d)).emit 0x41 d 0 0 j f
    forAll (s1.inputsOfLink d j) s1 fun s i => s.put (INPUT_MAP_DEACC d i) 1

/-- The converters of slot i: one of a real input, two of a complex one. -/
def State.convsOf (s : State) (d i : Nat) : List Nat :=
  s.get (INPUT_MAP_I_CONV d i) :: (if s.get (INPUT_MAP_CPLX d i) = 1 then [s.get (INPUT_MAP_Q_CONV d i)] else [])

/-- An enabled slot breaks R81: a converter at or above M, a link not enabled, or a converter already taken. -/
def State.breaksMap (s : State) (d i : Nat) : Bool :=
  let j := s.get (INPUT_MAP_LINK d i)
  let cs := s.convsOf d i
  (cs.any fun c => decide (s.lkM d j ≤ c)) || s.get (LINK_CFG_EN d j) == 0 || (cs != cs.dedup) ||
    (((s.enabledSlots d).filter fun k => decide (k < i) && s.get (INPUT_MAP_LINK d k) == j).any fun k =>
      (s.convsOf d k).any cs.contains)

/-- The streams that the enabled slots up to slot i need; slots that the check deaccessions count too (log entry 49). -/
def State.streamsUpTo (s : State) (d i : Nat) : Nat :=
  (((s.enabledSlots d).filter fun k => decide (k ≤ i)).map fun k => (s.convsOf d k).length).foldl (· + ·) 0

/-- An input that the check deaccessions, with the reason that INPUT_DEACC names. -/
def State.checkInput (s : State) (d i : Nat) : State :=
  let out := fun (why : Nat) => (s.put (INPUT_MAP_DEACC d i) 1).emit 0x47 d 2 i i why
  if s.breaksMap d i then out 0 else if maxStreams < s.streamsUpTo d i then out 1 else s

/-- The checks of R616 on a die. They are not written to the fault record. -/
def State.checkLanes (s : State) (d : Nat) : State :=
  let s1 := forAll (s.badLinks d) s fun s j => s.rejectLink d j
  forAll (s1.enabledSlots d) s1 fun s i => s.checkInput d i

end Sys2Proof.Machine
end

