-- ==== Sys2Proof/Machine/Switch.lean ====
section
/-! DEFINITION. Programmes: where the units of a die serve, what a switch sets aside and brings back, and the registrar's
PROG_START and PROG_STOP (R107, R118, R143, R256, R282, R307, R483, R541). -/

namespace Sys2Proof.Machine

open Reg

/-! ### Units out of service keep their places taken (R175, R277, R542, R543, R548) -/

/-- A core out of service: its spare goes on serving its logical core; without a loan one is lent for good, or the logical core
has no core. -/
def State.seatCore (s : State) (d c : Nat) : State :=
  let l := s.logicalOf d c
  let f := s.fc d
  match f.loans.find? fun x => x.core == c with
  | some x =>
    let s1 := (s.setFc d { f with loans := f.loans.map fun y => if y.core = c then { y with logical := l } else y }).copyCfg d c x.spare
    (s1.setCore d x.spare (s1.core d c)).put (CORE_CFG_EN d c) 0
  | none =>
    match s.freeSpares d with
    | sp :: _ =>
      let s1 := (s.setFc d { f with loans := f.loans ++ [⟨c, sp, l, true, true, false⟩] }).copyCfg d c sp
      ((s1.setCore d sp (s1.core d c)).put (CORE_CFG_EN d c) 0).advise 0x53 d
    | [] => ((s.setFc d { f with gone := f.gone ++ [l] }).put (CORE_CFG_EN d c) 0).request 1 d 0

/-- A tile out of service: GT16 serves its logical tile, or the logical tile is lost. -/
def State.seatTile (s : State) (d t : Nat) : State :=
  let lt := s.get (TILE_CFG_LOGICAL d t)
  let g := s.gal d
  let serve := fun (s : State) => (((s.put (TILE_CFG_EN d t) 0).put (TILE_CFG_LOGICAL d 16) lt).put (TILE_CFG_EN d 16) 1).put
    (TILE_STATUS_STATE d 16) tsONLOAN
  match g.loan with
  | some x =>
    if x.tile = t then
      if x.starting then s.setGal d { g with loan := some { x with lt := lt } }
      else serve (s.setGal d { g with loan := some { x with lt := lt } })
    else if (g.lost.any fun y => y.tile == t) then s else s.loseLt d lt t []
  | none =>
    if (g.lost.any fun y => y.tile == t) then s
    else if s.gtFree d then (serve (s.setGal d { g with loan := some ⟨lt, t, true, false, false, none⟩ })).advise 0x65 d
    else s.loseLt d lt t []

/-- After a programme's sections are written: every core and tile out of service is replaced as its loan says. -/
def State.reseat (s : State) (d : Nat) : State :=
  let s1 := s.setFc d { s.fc d with gone := [] }
  let s2 := forAll (List.range 16) s1 fun s c =>
    if s.get (CORE_CFG_EN d c) = 1 ∧ s.get (UNIT_BKT_STATE d (17 + c)) ≠ 0 then s.seatCore d c else s
  let s3 := forAll (List.range 16) s2 fun s t =>
    if s.get (TILE_CFG_EN d t) = 1 ∧ s.get (UNIT_BKT_STATE d t) ≠ 0 then s.seatTile d t else s
  (s3.showLoans d).showGt d

/-- The spares of a die are no longer exhausted once every logical core and tile has a unit (R548, R554). -/
def State.checkExhausted (s : State) (d : Nat) : State :=
  if (s.fc d).gone = [] ∧ (s.gal d).lost = [] ∧ s.flt.conds.contains (1, d) then s.unrequest 1 d else s

/-- A reinstated unit rejoins at a programme switch (R541). -/
def State.rejoinUnit (s : State) (u : UnitId) : State :=
  let s1 := s.setUnitState u 0
  match u.kind with
  | 3 =>
    let k := 2 * u.die + u.idx
    let s2 := (s1.setCh k csOFF).putBit (GWL_STATUS_CH_DEACC u.die) u.idx false
    (s2.setChain k { s2.chain k with parked := false, firstTrain := true, tries := 0 }).chainStart k
  | 4 => s1.putBit (FC_STATUS_DEACC u.die) u.idx false
  | 5 =>
    let g := s1.gal u.die
    (((s1.setGal u.die { g with lost := g.lost.filter fun x => x.tile != u.idx }).putBit (GAL_STATUS_DEACC u.die) u.idx false).put
      (TILE_STATUS_STATE u.die u.idx) tsIDLE).showGt u.die
  | 6 => (s1.put (BE_STATUS_STATE u.die) 0).unrequest 5 u.die
  | 8 => (s1.put (HP_STATUS_STATE u.idx) 0).retargetAll
  | 10 => s1.putBit REPL_STATUS_HOP_FAILED u.idx false
  | _ => s1

/-- Every reinstated unit but inputs, which rejoin by their link (R541). -/
def State.rejoinAll (s : State) : State :=
  forAll (s.flt.rejoin.filter fun u => u.kind != 2) { s with flt := { s.flt with rejoin := s.flt.rejoin.filter fun u => u.kind == 2 } }
    State.rejoinUnit

/-! ### What belongs to a programme -/

/-- The registers of a programme's run that a switch saves with it. -/
def progRegs (b : Nat) : List String :=
  match b with
  | 0x11 => ["DFU_STATUS", "IN_CFG", "IN_STATUS", "FADE_REQ", "POLY_T0", "POLY_C", "PEND_T0", "PEND_C", "POLY_CTRL", "COEF"]
  | 0x12 => ["JNL_PTR", "DIR0", "DIR1"]
  | 0x14 => ["GROUP", "CTE_SRC"]
  | 0x17 => ["DSET_STATE", "DSET_LAST", "LED_FLOOR"]
  | 0x18 => ["DESC", "PEND", "PEND_CTRL", "DET_STAT0", "DET_STAT1", "GRP_STATE"]
  | _ => []

/-- A slot of die d holds a programme's run. -/
def progSlot (p : Part) (d a : Nat) : Bool :=
  addrDie a == d && (progRegs (addrBlock a)).contains (slotName p a)

/-- A DRAM word (by its key) of die d's journal, directory or stint slots, which the programmes share and a left one keeps (R131,
R256). -/
def State.progWord (s : State) (d k : Nat) : Bool :=
  let a := k % 2 ^ 40
  let within := fun (base len : Nat) => decide (base ≤ a) && decide (a < base + len)
  k / 2 ^ 40 == d &&
    (within (s.slotAddr d 0) (s.get (JNL_REGION_SLOTS d) * s.get (JNL_REC_REC_WORDS d)) ||
     within (s.get (JNL_REC_DIR_BASE d) * 8) (2 * s.get (JNL_REGION_SLOTS d)) ||
     within (s.stintSlot d 0) (2 * (s.stintSlot d 1 - s.stintSlot d 0)))

/-- Those words as listed; and the words of a programme in their places again. -/
def State.progWords (s : State) (d : Nat) : List (Nat × Word) := Store.keep s.dram (s.progWord d)
def State.putWords (s : State) (d : Nat) (ws : List (Nat × Word)) : State :=
  let s1 := { s with dram := Store.keep s.dram fun k => !s.progWord d k, mirrors := Store.keep s.mirrors fun k => !s.progWord d k }
  forAll ws s1 fun s e => s.wrMem d (e.1 % 2 ^ 40) e.2

/-- Those slots as listed, and the state without them. -/
def State.progSlots (s : State) (d : Nat) : List (Nat × Word) := s.regs.filter fun e => progSlot s.part d e.1
def State.dropProgSlots (s : State) (d : Nat) : State :=
  { s with regs := s.regs.filter fun e => !progSlot s.part d e.1 }

/-- Register slots take the values listed. -/
def State.putRegs (s : State) (l : List (Nat × Word)) : State :=
  { s with regs := l.foldl (fun m (e : Nat × Word) => Store.put (regReset s.part) m e.1 e.2) s.regs }

/-- At a programme switch the banks that accumulate or seal are saved (R268, R282). -/
def Bank.toSave (k : Bank) : Bank := if k.unsealed then { k with st := bkSAVED } else k
def State.saveBanks (s : State) (d : Nat) : State :=
  forAll (List.range 17) s fun s t =>
    let q := s.tile d t
    s.setTile d t { q with b0 := q.b0.toSave, b1 := q.b1.toSave }

/-- A saved bank goes on from its folio. -/
def State.unsaveBank (s : State) (d : Nat) (k : Bank) : Bank :=
  match k.order with
  | some o => if k.st = bkSAVED then { k with st := if k.folio = s.siFirst d (o.si + 1) then bkSEAL else bkACCUM } else k
  | none => k

/-- A tile as it is saved: orders to rerun stand in front of its queue, and banks that wait for BIST are empty (R282). -/
def TileSt.toSave (q : TileSt) : TileSt :=
  { q.cleared with queue := q.redo.map (fun o => { o with kind := 1 }) ++ q.queue, redo := [] }

/-- A tile without orders: what it remembers of its mismatches and tests stays. -/
def TileSt.bare (q : TileSt) : TileSt := { TileSt.reset with lastMis := q.lastMis, cycles := q.cycles, gaveUp := q.gaveUp, tested := q.tested }

/-- The tiles in service by logical tile. -/
def State.tilesByLogical (s : State) (d : Nat) : Store TileSt :=
  (List.range 17).foldl (fun m t =>
    if s.get (TILE_CFG_EN d t) = 1 then Store.put (fun _ => TileSt.reset) m (s.get (TILE_CFG_LOGICAL d t)) (s.tile d t).toSave else m) []

/-- The running cores by logical core. -/
def State.coresByLogical (s : State) (d : Nat) : Store CoreSt :=
  (List.range 18).foldl (fun m c =>
    if s.get (CORE_CFG_EN d c) = 1 then Store.put (fun _ => CoreSt.reset) m (s.logicalOf d c) (s.core d c) else m) []

/-- Die d's part of programme p goes into the set-aside area, and its units are empty. -/
def State.setAside (s : State) (p d : Nat) : State :=
  let g := s.gal d
  let f := s.fc d
  let x : SetAside := ⟨p, d, s.dfu d, s.acu d, s.coresByLogical d, f.saves, f.tags, s.cte d,
    { g with tiles := s.tilesByLogical d }, s.led d, s.be d, s.progSlots d, false, s.progWords d⟩
  let s0 := { s with aside := (s.aside.filter fun (y : SetAside) => !(y.prog == p && y.die == d)) ++ [x] }
  let s1 := forAll (List.range 17) s0 fun s t => (s.put (TILE_STATUS_BANK0 d t) bkFREE).put (TILE_STATUS_BANK1 d t) bkFREE
  let s2 := ((s1.setDfu d .reset).setAcu d { AcuSt.reset with mirror := (s1.acu d).mirror }).setFc d
    { f with cores := [], saves := [], tags := [], hosts := [], gone := [] }
  let bare := g.tiles.map fun e => (e.1, e.2.bare)
  let s3 := (s2.setCte d .reset).setGal d { GalSt.reset with lost := g.lost, loan := g.loan, waiting := g.waiting, tiles := bare }
  let s4 := s3.setGal d { s3.gal d with tiles := (s3.gal d).tiles.filter fun (e : Nat × TileSt) => e.2 != TileSt.reset }
  ((s4.setLed d .reset).setBe d .reset).dropProgSlots d

/-- What a poisoned set-aside area discards (R546): the DFU histories restart, the F-cores stand at the programme's start state and
read on from the replay point `k`, the orders of the kept stint slots run again, and products of those short integrations carry
STALE. -/
def State.discardAside (s : State) (d k : Nat) : State :=
  let s1 := forAll ((List.range 128).filter fun i => s.get (INPUT_MAP_EN d i) == 1) s fun s i => s.discardHist d i
  let s2 := forAll ((List.range 18).filter fun c => s.get (CORE_CFG_EN d c) == 1) (s1.setFc d { s1.fc d with saves := [], tags := [] }) fun s c =>
    s.setCore d c { s.core d c with st := 1, feedFolio := k, feedIn := 0 }
  let q := s2.cte d
  (s2.setCte d { q with staleSi := (q.staleSi ++ q.stints).dedup }).galWarm d

/-- Die d's part of a programme comes back: each logical core and tile to the unit that serves it now. -/
def State.bringBack (s : State) (x : SetAside) : State :=
  let d := x.die
  let s1 := (s.putRegs x.regs).putWords d x.words
  let ins := x.dfu.ins.map fun (e : Nat × DfuIn) => (e.1, { e.2 with next := none })
  let s2 := (s1.setDfu d { x.dfu with ins := ins.filter fun e => e.2 != DfuIn.reset }).setAcu d { x.acu with mirror := (s1.acu d).mirror }
  let s3 := (s2.setFc d { s2.fc d with saves := x.saves, tags := x.tags }).setCte d x.cte
  let g := s3.gal d
  let s4 := s3.setGal d { x.gal with tiles := g.tiles, lost := g.lost, loan := g.loan, waiting := g.waiting }
  when x.bad (·.discardAside d x.acu.replay) ((s4.setLed d x.led).setBe d x.be)

/-- The saved cores and tiles of a die take their places. -/
def State.seatSaved (s : State) (x : SetAside) : State :=
  let d := x.die
  let s1 := forAll (List.range 18) s fun s c =>
    if s.get (CORE_CFG_EN d c) = 1 ∧ (x.cores.any fun e => e.1 == s.logicalOf d c) then
      s.setCore d c { Store.get (fun _ => CoreSt.reset) x.cores (s.logicalOf d c) with giveDue := false }
    else s
  forAll (List.range 17) s1 fun s t =>
    let lt := s.get (TILE_CFG_LOGICAL d t)
    let q := s.tile d t
    if s.get (TILE_CFG_EN d t) = 1 ∧ s.get (UNIT_BKT_STATE d t) = 0 ∧ (x.gal.tiles.any fun e => e.1 == lt) then
      let y := Store.get (fun _ => TileSt.reset) x.gal.tiles lt
      (s.setTile d t { y with b0 := s.unsaveBank d y.b0, b1 := s.unsaveBank d y.b1, progAt := s.now, lastMis := q.lastMis,
                              cycles := q.cycles, gaveUp := q.gaveUp, tested := q.tested }).put
        (TILE_STATUS_STATE d t) (if t = 16 then tsONLOAN else tsIDLE)
    else s

/-! ### Leaving a programme -/

/-- Every open vitrine of die d closes at its last pinned record with TRUNC_POST (R143). -/
def State.closeVits (s : State) (d : Nat) : State :=
  let recs := ((s.acu d).dir.map JRec.folio) ++ s.acc.cons.map Cons.k
  forAll ((List.range 16).filter (s.vitOpen d)) s fun s v =>
    s.truncVit d v ((recs.filter fun k => decide (k ≤ s.get (VIT_LAST_FOLIO d v))).foldl max 0)

/-- At the boundary that ends a programme's run: no new intervals, vitrines close, and sets with DUMP_ON_SWITCH are dumped. -/
def State.leaveProg (s : State) (last : Nat) : State :=
  let s1 := { s with nvm := { s.nvm with progOn := false, stopDue := false } }
  forAll s1.dies s1 fun s d => (s.closeVits d).dumpOnSwitch d (s.siOf d last)

/-- A bank of a tile of die d drains. -/
def State.draining (s : State) (d : Nat) : Bool :=
  (List.range 17).any fun t => ((s.tile d t).b0.st == bkDRAIN) || ((s.tile d t).b1.st == bkDRAIN)

/-- Every core of die d that runs stands at a take point: its state can be saved (R173). -/
def State.coresRest (s : State) (d : Nat) : Bool :=
  (List.range 18).all fun c => s.get (CORE_CFG_EN d c) == 0 || (s.core d c).st == 0 ||
    ((s.core d c).takePoint && (s.core d c).handler.isNone)

/-- What a switch waits for: consignments decided, vitrines handed over, banks drained, dumps made, cores at a take point (R143,
R173, R282, R307). -/
def State.drainedAll (s : State) : Bool :=
  s.acc.cons == [] && s.dies.all fun d => !(List.range 16).any (s.vitOpen d) && !s.draining d && (s.led d).hdrs == [] &&
    (s.led d).runs == [] && s.coresRest d

/-- The programme's state is left in place or set aside: PROG_STATE.SUSPENDED shows it. -/
def State.markSuspended (s : State) (p : Nat) (b : Bool) : State := s.putBit PROG_STATE_SUSPENDED p b

/-- The running programme goes into the set-aside area. -/
def State.switchOut (s : State) : State :=
  let p := s.get PROG_STATE_RUNNING
  let s1 := forAll s.dies s fun s d => (when (!s.nvm.suspended) (·.endStreams d) s).setAside p d
  let mine := s1.units.filter fun u => decide (u.typ ≤ 4)
  let pkg : AsidePkg := ⟨p, s1.acc.marks, mine⟩
  ({ s1 with asidePkg := (s1.asidePkg.filter fun (y : AsidePkg) => y.prog != p) ++ [pkg],
             units := s1.units.filter fun u => decide (4 < u.typ),
             acc := { s1.acc with cons := [], marks := [], cur := none } }).markSuspended p true

/-! ### Entering a programme -/

/-- The first outputs of every enabled input of a programme that begins anew carry the flag (R106). -/
def State.powerUpDfu (s : State) (d : Nat) : State :=
  forAll ((List.range 128).filter fun i => s.get (INPUT_MAP_EN d i) == 1) s fun s i => s.discardHist d i

/-- Programme p is written from the stores and begins: with its saved state, or in this epoch for the first time with new
ledger headers (R292). -/
def State.switchIn (s : State) (p : Nat) : State :=
  let s0 := (s.applyProg p).rejoinAll
  let saved := s0.aside.filter fun x => x.prog == p && s0.present x.die
  let s1 := forAll saved s0 State.bringBack
  let s2 := forAll s1.dies s1 fun s d => (s.reseat d).checkExhausted d
  let s3 := forAll (saved.filter fun x => !x.bad) s2 State.seatSaved
  let first := !s3.nvm.started.contains p
  let s4 := if first then forAll s3.dies s3 fun s d => (s.ledInit d).powerUpDfu d else s3
  let s5 := match s4.asidePkg.find? fun y => y.prog == p with
    | some y => { s4 with units := s4.units ++ y.units, acc := { s4.acc with marks := y.marks } }
    | none => s4
  let s6 := { s5 with aside := s5.aside.filter fun x => x.prog != p, asidePkg := s5.asidePkg.filter fun y => y.prog != p }
  let started := if first then s6.nvm.started ++ [p] else s6.nvm.started
  let s7 := { s6 with nvm := { s6.nvm with progOn := true, switchTo := none, switching := false, suspended := false,
                                           begins := if first then 1 else 2, started := started } }
  ((s7.put PROG_STATE_RUNNING p).markSuspended p false).applyPoints

/-- The stopped programme resumes where it stands: a switch in the sense of R541. -/
def State.resumeInPlace (s : State) : State :=
  let s1 := s.rejoinAll
  let s2 := forAll s1.dies s1 fun s d => (s.reseat d).checkExhausted d
  let s3 := { s2 with nvm := { s2.nvm with progOn := true, switchTo := none, switching := false, suspended := false, begins := 2 } }
  (s3.markSuspended (s.get PROG_STATE_RUNNING) false).applyPoints

/-- A start of programme `p` completes. -/
def State.startDone (s : State) (p code : Nat) : State :=
  s.finish (fun k => match k with
    | .progStart q _ => q == p
    | _ => false) code 0

/-- A section that fails its hash refuses the switch (R483): the running programme continues. -/
def State.storeBad (s : State) (p : Nat) (e : ProgSec) : State :=
  let s1 := ({ s with nvm := { s.nvm with switchTo := none, switching := false } }.raise NVM_EVENTS_STORE_BAD).emit 0x14 e.die 0 0 p e.sect
  s1.startDone p ccBUSY

/-- The consignment boundary that ends the running interval. -/
def State.toBoundary (s : State) : State :=
  match s.acc.cur with
  | some k => s.advance (s.gridTime 0 (4096 * (k + 1)))
  | none => s

/-- PROGRAMME_SWITCH at the consignment boundary that ends the running interval: `badDies` are the dies whose store does not
match its hashes. The running programme is left there, and the switch completes once what it waits for is done, with the same
command again. -/
def execProgrammeSwitch (badDies : List Nat) (s0 : State) : Host.Outcome State Fault Refusal :=
  let s := if s0.nvm.switching = true ∨ s0.accepts = false then s0 else s0.toBoundary
  match s0.nvm.switchTo with
  | none => ok s0
  | some p =>
    if s.accepts = false then ok s
    else if s.nvm.switching = false ∧ s.nvm.suspended = true ∧ p = s.get PROG_STATE_RUNNING then
      ok (s.resumeInPlace.startDone p ccDONE)
    else
      match (if s.nvm.switching then [] else s.storeFails p badDies) with
      | e :: _ => ok (s.storeBad p e)
      | [] =>
        let s1 := if s.nvm.switching then s
          else
            let s2 := if s.nvm.progOn then s.leaveProg ((s.acc.cur).getD 0) else s
            forAll s2.dies { s2 with nvm := { s2.nvm with switching := true } } State.saveBanks
        if s1.drainedAll then ok ((s1.switchOut.switchIn p).startDone p ccDONE) else ok s1

/-! ### Commands and the calendar (R461, R469, R484) -/

/-- PROG_START at its grain. -/
def State.doProgStart (s : State) (c : CmdHdr) (p : Nat) : State :=
  s.inMode c 4 fun s =>
    if s.progDefined p = false ∨ 16 ≤ p then s.complete c ccBADARG 0
    else
      let stopping := s.rg.running.any fun r => r.kind == .progStop
      if p = s.get PROG_STATE_RUNNING ∧ s.nvm.progOn = true ∧ stopping = false ∧ s.nvm.switchTo = none then s.complete c ccDONE 0
      else if s.nvm.switchTo ≠ none then s.complete c ccBUSY 0
      else ({ s with nvm := { s.nvm with switchTo := some p } }).run c (.progStart p (decide (c.src = 255)))

def execProgStart (c : CmdHdr) (prog : Nat) (s : State) : Host.Outcome State Fault Refusal := ok (s.doProgStart c prog)

/-- PROG_STOP at its grain; with nothing running it is done. -/
def State.doProgStop (s : State) (c : CmdHdr) : State :=
  s.inMode c 4 fun s => if s.nvm.progOn then s.run c .progStop else s.complete c ccDONE 0

def execProgStop (c : CmdHdr) (s : State) : Host.Outcome State Fault Refusal := ok (s.doProgStop c)

/-- The suspension of PROG_STOP or of a program fault (R118, R543), at the boundary after folio `last`. -/
def State.suspend (s : State) (last : Nat) : State :=
  let s1 := forAll s.dies (s.leaveProg last) State.endStreams
  let s2 := ({ s1 with nvm := { s1.nvm with suspended := true } }).markSuspended (s.get PROG_STATE_RUNNING) true
  s2.finish (fun k => k == .progStop) ccDONE 0

/-- The latest grain at or before `g` at which calendar entry n is due. -/
def State.calLatest (s : State) (n g : Nat) : Option Nat :=
  let first := s.get (CAL0_GRAIN n)
  let per := s.get (CAL1_PERIOD_S n) * 1000000
  if s.get (CAL1_EN n) = 0 ∨ g < first then none
  else if per = 0 then some first
  else some (first + (g - first) / per * per)

/-- The entry that R484 selects at grain g: the latest due, the higher index at a tie. -/
def State.calDue (s : State) (g : Nat) : Option (Nat × Nat) :=
  (List.range 256).foldl (fun m n =>
    match s.calLatest n g, m with
    | some x, some y => if y.2 ≤ x then some (n, x) else m
    | some x, none => some (n, x)
    | none, _ => m) none

/-- The calendar's own PROG_START of programme p waits for grain g (source 255). -/
def State.pendCalendar (s : State) (g p : Nat) : State :=
  { s with rg := { s.rg with pend := s.rg.pend ++ [PCmd.mk ⟨255, 0, 0x10, 0, g, 0⟩ 16 s.rg.arrivals [p] []],
                             arrivals := s.rg.arrivals + 1 } }

/-- CALENDAR_ENTRY: entry n is due at grain g. It becomes a PROG_START of rank 16, unless a later entry is due or its
occurrence was executed; outside OBSERVE and CURTAILED it waits. -/
def execCalendarEntry (n g : Nat) (s : State) : Host.Outcome State Fault Refusal :=
  let now := max g (grainOf s.now)
  let old := match s.nvm.calDone.find? fun e => e.1 == n with
    | some e => decide (g ≤ e.2)
    | none => false
  if s.accepts = false ∨ s.calLatest n g ≠ some g ∨ old = true then ok s
  else
    let s1 := { s with nvm := { s.nvm with calDone := (s.nvm.calDone.filter fun e => e.1 != n) ++ [(n, g)] } }
    if s.calDue now ≠ some (n, g) then ok s1
    else
      ok (s1.pendCalendar (max g (s.rg.gDone + 1)) (s.get (CAL1_PROG n)))

end Sys2Proof.Machine
end

