-- ==== Sys2Proof/Machine/Telemetry.lean ====
section
/-! DEFINITION. Counter snapshots, wraps and telemetry (chapter 22). -/

namespace Sys2Proof.Machine

open Reg

/-! ### CTR_SNAP (R581, R582) -/

/-- Reads that earlier snapshots of the grain make on die d: a second one starts after them (R585). -/
def State.snapBefore (s : State) (grain d : Nat) : Nat :=
  ((s.snaps.filter fun x => x.cmd.grain == grain && bit x.dies d).map fun x => (setBitsOf x.ctrs 64).length).foldl (· + ·) 0

/-- Read p of counter k: the slot with its TS, at a point of the read's window of 64 fabric cycles that the spec leaves open,
and OVF cleared in the same access. -/
def State.snapRead (s : State) (d k p t : Nat) : Word × State :=
  let x := s.draw 6
  let w := (s.rd (PMON_CTR_VALUE d k).addr).upd 49 23 ((t / 65536 + 64 * p + x.1) % 2 ^ 23)
  (w, (x.2.put (PMON_CTR_OVF d k) 0).putBit (PMON_STATUS_OVF d) k false)

/-- The reads of the named counters of a die in ascending order. -/
def State.snapDie (s : State) (d t p : Nat) : List Nat → List Word × State
  | [] => ([], s.raise (PMON_EVENTS_SNAP_DONE d))
  | k :: ks =>
    let r := s.snapRead d k p t
    let q := r.2.snapDie d t (p + 1) ks
    (r.1 :: q.1, q.2)

/-- The reads of every named die; a die lost since the start gives slots of 0 (R585). -/
def State.snapDies (s : State) (c : CmdHdr) (ctrs : Nat) : List Nat → List (Nat × List Word) × State
  | [] => ([], s)
  | d :: ds =>
    let ks := setBitsOf ctrs 64
    let r := if s.present d then s.snapDie d (c.grain * tUs % tSec) (s.snapBefore c.grain d) ks else (ks.map fun _ => 0, s)
    let q := r.2.snapDies c ctrs ds
    ((d, r.1) :: q.1, q.2)

/-- CTR_SNAP. -/
def State.doCtrSnap (s : State) (c : CmdHdr) (dies ctrs : Nat) : State :=
  s.inMode c 4 fun s =>
    let ds := setBitsOf dies 8
    if (ds.any fun d => decide (s.part.dies ≤ d) || s.flt.absent.contains d) = true then s.complete c ccUNSUPPORTED 0
    else if ds = [] ∨ ctrs % 2 ^ 64 = 0 then s.complete c ccBADARG 0
    else
      let r := s.snapDies c ctrs ds
      { r.2 with snaps := r.2.snaps ++ [Snap.mk c dies ctrs r.1] }

def execCtrSnap (c : CmdHdr) (dies ctrs : Nat) (s : State) : Host.Outcome State Fault Refusal := ok (s.doCtrSnap c dies ctrs)

/-- Every die has delivered its reads: the CTR product enters its ring, or is counted as skipped (R364, R582). -/
def execSnapshotComplete (s : State) : Host.Outcome State Fault Refusal :=
  match s.snaps with
  | [] => ok s
  | x :: rest =>
    let s1 := { s with snaps := rest }
    let t := packTime (x.cmd.grain * tUs)
    let pay := [BitVec.ofNat 72 (x.dies % 256), BitVec.ofNat 72 (x.ctrs % 2 ^ 64), BitVec.ofNat 72 (t % 2 ^ 72), BitVec.ofNat 72 (t / 2 ^ 72)] ++
      x.got.flatMap Prod.snd
    let r := s1.get PKC_RINGS_CTR_RING
    let seq := s1.get (rcNEXT r)
    match s1.commit r 9 s1.flagsNow 0 s1.now s1.nvm.nextCan 0 pay with
    | some s2 => ok (s2.complete x.cmd ccDONE seq)
    | none => ok ((s1.bump PKC_DROP_CTR_SKIPPED).complete x.cmd ccBUSY 0)

/-! ### Wraps (R576, R580) -/

/-- The events of R575 that are cycles of a unit: no other row counts them. -/
def cycleEvent (e : Nat) : Bool := [0x01, 0x19, 0x3A, 0x42, 0x50, 0x62].contains e

/-- Counter k of die d has counted `n` cycles of its event since it was last looked at; when it has wrapped, the core that
PMON_SEL names is interrupted while it has counter access (R580). -/
def execCounterWrap (d k n : Nat) (s : State) : Host.Outcome State Fault Refusal :=
  if s.present d = true ∧ k < 64 ∧ s.mode ≠ mDORMANT ∧ s.mode ≠ mRETAIN then
    let s1 := if cycleEvent (s.get (PMON_SEL_EVENT d k)) then s.count d k n else s
    if s1.wraps.contains (d, k) then
      let c := s1.get (PMON_SEL_IRQ_CORE d k)
      let s2 := { s1 with wraps := s1.wraps.filter (· != (d, k)) }
      ok (if c < 18 ∧ s2.get (CORE_CFG_CTR_ACC d c) = 1 then s2.irq d c 5 else s2)
    else ok s1
  else ok s

/-- Counters and slot counters at a start (R576, R583). -/
def State.clearCounters (s : State) (d : Nat) : State :=
  let s1 := forAll (List.range 64) s fun s k => s.wr (PMON_CTR_VALUE d k).addr 0
  let s2 := forAll (List.range 18) s1 fun s c => forAll (List.range 4) s fun s x => s.wr (TD_VALUE d c x).addr 0
  { s2.put (PMON_STATUS_OVF d) 0 with wraps := s2.wraps.filter fun w => w.1 != d }

/-! ### Telemetry (R584) -/

/-- A reading as TEL carries it: °C + 64, between 0 and 255. -/
def telTemp (x : Int) : Nat := (clampInt 0 255 (x + 64)).toNat

/-- The conservator's item of sensor j of die d; the keeper's (d = 8) are items 76 to 79 of the first die. -/
def State.sensorStale (s : State) (d j : Nat) : Bool :=
  if d = 8 then s.get (ITEM_STATE_STALE 0 (76 + j)) == 1 else s.get (ITEM_STATE_STALE d (1 + j)) == 1

/-- The readings of a die's sensors are held while they are calibrated (R561), else taken anew. -/
def State.takeTemps (s : State) (d n : Nat) (xs : List Int) : State :=
  forAll (List.range n) s fun s j =>
    if s.sensorStale d j then s else { s with temps := Store.put (fun _ => 0) s.temps (8 * d + j) (telTemp (xs.getD j 0)) }

/-- The sensors of a die as TEL packs them, and the mask of its stale ones. -/
def State.telSensors (s : State) (d n : Nat) : Nat × Nat :=
  (List.range n).foldl (fun a j =>
    (a.1 + Store.get (fun _ => 0) s.temps (8 * d + j) * 2 ^ (8 * j), a.2 + b2n (s.sensorStale d j) * 2 ^ j)) (0, 0)

/-- The largest of a field over the monitors of a die. -/
def State.monMax (s : State) (d : Nat) (f : Nat → RF) : Nat := ((List.range (csvMons d)).map fun m => s.get (f m)).foldl max 0

/-- The two words of a span die. -/
def State.telDie (s : State) (d : Nat) : List Word :=
  let x := s.telSensors d 8
  [BitVec.ofNat 72 (x.1 + x.2 * 2 ^ 64),
   BitVec.ofNat 72 ((s.rd (CSV_PROJ_DAYS d).addr).bits 0 26 + s.monMax d (MON_SLOW_PPM d) * 2 ^ 26 + s.monMax d (MON_TRIM_MV d) * 2 ^ 50 +
     s.monMax d (MON_F_CAP d) * 2 ^ 56 + s.get (CSV_STATUS_SUSPECTS d) * 2 ^ 64)]

/-- TEL_PERIOD_S has passed: the TEL product enters its ring, or is counted as skipped. `temps` are the sensors' readings by die
(8: the keeper), `watts` the rails' powers in 0.1 W. -/
def execTelemetryTimer (temps : List (Nat × List Int)) (vddAo total : Nat) (watts : List Nat) (s : State) :
    Host.Outcome State Fault Refusal :=
  let per := s.get TEL_CFG_TEL_PERIOD_S
  if per = 0 ∨ s.runs = false ∨ s.rg.failover = true then ok s
  else
    let s0 := s.advance (s.telAt + per * tSec)
    let of := fun d => ((temps.find? fun e => e.1 == d).map Prod.snd).getD []
    let s1 := { forAll s0.dies (s0.takeTemps 8 4 (of 8)) fun s d => s.takeTemps d 8 (of d) with telAt := s0.now }
    let s2 := forAll (List.range 8) s1 fun s x => s.put (RAIL_POWER_W x) (watts.getD x 0)
    let k := s2.telSensors 8 4
    let mask := s2.dies.foldl (fun m d => m + 2 ^ d) 0
    let rails := fun lo n => (List.range n).foldl (fun m x => m + s2.get (RAIL_POWER_W (lo + x)) * 2 ^ (12 * x)) 0
    let pay := [BitVec.ofNat 72 (1 + mask * 2 ^ 8 + per * 2 ^ 16), BitVec.ofNat 72 (k.1 + k.2 * 2 ^ 32 + vddAo % 4096 * 2 ^ 36),
      BitVec.ofNat 72 (rails 0 6), BitVec.ofNat 72 (rails 6 2 + total % 65536 * 2 ^ 24)] ++ s2.dies.flatMap s2.telDie
    let stale := k.2 != 0 || s2.dies.any fun d => (s2.telSensors d 8).2 != 0
    match s2.commit (s2.get PKC_RINGS_TEL_RING) 5 (s2.flagsNow + b2n stale) 0 s2.now s2.nvm.nextCan 0 pay with
    | some s3 => ok s3
    | none => ok (s2.bump PKC_DROP_TEL_SKIPPED)

end Sys2Proof.Machine
end

