-- ==== Sys2Proof/Machine/Start.lean ====
section
/-! DEFINITION. Starts: what a start resets, the choice of firmware and image, the fault records, the decision of R30, cold and
warm starts, MUSTER's stops, ALIGN and its exit (R30, R130, R135, R136, R472, R478 to R489, R516, R539, R613). -/

namespace Sys2Proof.Machine

open Reg

/-! ### What the stores outside the registrar say (R472, R478, R501, R539) -/

/-- The record of the highest generation. -/
def newestRec (l : List (List Nat)) : Option (List Nat) :=
  l.foldl (fun m r => match m with
    | none => some r
    | some x => if recNum x 4 4 < recNum r 4 4 then some r else some x) none

/-- The valid records of a kind. -/
def State.recsOf (s : State) (magic : List Nat) : List (List Nat) := s.storeRecs.filter fun r => r.take 4 == magic

/-- The counter record in use. -/
def State.counterRec (s : State) : Option (List Nat) := newestRec (s.recsOf [0x5A, 0x4E, 0x43, 0x53])

/-- The pending owner of the store (R501). -/
def State.storedOwner (s : State) : Option (List Nat) :=
  match newestRec (s.recsOf [0x5A, 0x4E, 0x4F, 0x50]) with
  | none => none
  | some r =>
    let h := (r.drop 8).take 32
    if h = noHash ∨ s.sec.slots.contains h = true then none else some h

/-- The counter store is lost (R472): no valid counter record, and STORE_INIT burned. -/
def State.storeLost (s : State) : Bool := s.counterRec.isNone && s.sec.storeInit

/-- The epoch, SCC, floor and pending owner as the counter store gives them; all 0 without a record. -/
def State.loadStore (s : State) : State :=
  let r := s.counterRec
  let num := fun (lo n : Nat) => match r with
    | some x => recNum x lo n
    | none => 0
  let s1 := { s with nvm := { s.nvm with epoch := num 8 2 }, sec := { s.sec with pendOwner := s.storedOwner } }
  let s2 := ((s1.put RG_STATUS_SCC (num 10 6)).put ARB_STATE_FLOOR (num 16 4)).put ARB_STATE_GEN (num 4 4)
  (s2.put ARB_STATE_SVN_FUSED s.sec.svn).put ARB_STATE_STORE_INIT (b2n s.sec.storeInit)

/-- The unit that a fault record names. -/
def recUnit (r : List Nat) : UnitId := ⟨r.getD 9 0, r.getD 8 0, recNum r 10 2⟩

/-- The units whose deciding record says deaccessioned; a DRAM device counts only in the DIMM it was recorded for. -/
def State.recordedDead (s : State) (dimms : List DimmEnv) : List UnitId :=
  let rs := s.recsOf [0x5A, 0x4E, 0x46, 0x52]
  ((rs.map recUnit).dedup).filter fun u =>
    match newestRec (rs.filter fun r => recUnit r == u) with
    | none => false
    | some r => r.getD 12 0 == 1 &&
        (u.kind != 7 || dimms.any fun e => e.die == u.die && e.chan == u.idx / 20 && e.serial == recNum r 13 4)

/-- The firmware bundle in use: NVM_A's, or NVM_B's when NVM_A's fails. -/
def fwPick (env : MusterEnv) : Option (Nat × FwBundle) :=
  let good := fun (b : Option FwBundle) => b.filter fun x => x.keyHash == Config.stomondHash
  match good env.fwA, good env.fwB with
  | some b, _ => some (0, b)
  | none, some b => some (1, b)
  | none, none => none

/-! ### Choosing an image (R479, R480) -/

/-- The outcome of the choice: the device whose image runs, both failure codes, and which images passed pass 1. -/
structure ImgChoice where
  src : Option Nat
  failA : Nat
  failB : Nat
  passA : Bool
  passB : Bool
deriving DecidableEq, Repr

def State.chooseImage (s : State) (env : MusterEnv) : ImgChoice :=
  let pa := s.pass1 0 env.flashA.good
  let ca := if pa ≠ 0 then pa else s.pass2 0
  if ca = 0 then ⟨some 0, 0, 0, true, false⟩
  else
    let pb := s.pass1 1 env.flashB.good
    let cb := if pb ≠ 0 then pb else s.pass2 1
    ⟨if cb = 0 then some 1 else none, ca, cb, pa == 0, pb == 0⟩

/-- SHA-256 of a device's image (R485). -/
def State.imageHash (s : State) (dev : Nat) : List Nat := sha256 (s.img dev 0 (s.imgTotal dev))

/-! ### The decision of R30 -/

/-- Two entries next to each other in a directory (R133). -/
def dirStep (a b : JRec) : Bool := decide (a.folio < b.folio)

/-- FOLIO_IDX strictly ascends. -/
def dirAscends : List JRec → Bool
  | a :: b :: r => dirStep a b && dirAscends (b :: r)
  | _ => true

/-- CAN_SEQ of consecutive ACCEPTED entries of one epoch ascends by exactly 1. -/
def canAscends : List JRec → Bool
  | a :: b :: r => (a.epoch != b.epoch || b.seq == a.seq + 1) && canAscends (b :: r)
  | _ => true

/-- The directory of a die back to its replay point is good. -/
def State.dirOk (s : State) (d : Nat) : Bool :=
  let l := (s.acu d).dir.filter fun r => decide ((s.acu d).replay ≤ r.folio)
  dirAscends l && canAscends (l.filter fun r => r.state == 1)

/-- The start is warm: checkpoint and journal headers pass, the seal key is kept, and the image is the one in force. -/
def State.warmOk (s : State) (env : MusterEnv) (dev : Nat) : Bool :=
  s.mode != mDORMANT && s.sec.sealKey.isSome && !s.storeLost && !env.ckptBad && !env.hdrBad && s.dies.all s.dirOk &&
    match s.nvm.ckpt with
    | some c => c.imageHash == s.imageHash dev
    | none => false

/-! ### What a start resets -/

/-- A slot with its written fields back at reset. -/
def State.roPart (s : State) (e : Nat × Word) : Nat × Word :=
  let m := setMask s.part e.1
  (e.1, BitVec.ofNat 72 ((e.2.toNat &&& (2 ^ 72 - 1 - m)) ||| ((regReset s.part e.1).toNat &&& m)))

/-- What a slot keeps over a start. A warm start keeps what the registers show; a cold start keeps the always-on island, the
SEC and the power block; port blocks start anew, and so do the time blocks unless `clocks` keeps them running. -/
def State.keptSlot (s : State) (warm clocks : Bool) (e : Nat × Word) : Option (Nat × Word) :=
  let b := addrBlock e.1
  if addrDie e.1 = 15 ∧ (b = 0x03 ∨ b = 0x04) then some e
  else if addrDie e.1 = 15 ∧ b = 0x02 then some (s.roPart e)
  else if addrDie e.1 = 15 ∧ (b = 0x07 ∨ b = 0x08) then none
  else if addrDie e.1 = 15 ∧ (b = 0x05 ∨ b = 0x06) then if clocks then some (s.roPart e) else none
  else if warm then some (s.roPart e) else none

def State.resetRegs (s : State) (warm clocks : Bool) : State :=
  ({ s with regs := [] }).putRegs (s.regs.filterMap (s.keptSlot warm clocks))

/-- A chain as every start leaves it: OFF, its queues and sequence state discarded, FRESH (R202, R219). -/
def State.chainFresh (s : State) (k : Nat) : State :=
  let s1 := (s.setCh k csOFF).chainOff k
  (s1.setChain k ChainSt.reset).freshLink k

/-- What every start discards of the block's queues and works in progress. -/
def State.dropHeld (s : State) : State :=
  { s with ports := [], lands := [], inbox := [], fabs := [], snaps := [], wraps := [],
                     rg := { RgSt.reset with gDone := s.rg.gDone, arrivals := s.rg.arrivals },
                     pkf := { s.pkf with queue := [], transit := [] },
                     te := { s.te with alignT := none, setTime := none, cal := [] },
                     nvm := { s.nvm with stop := .none, updating := none, updHdr := [], updBad := false, musterDone := false,
                                         passA := false, passB := false, firstObs := true, switchTo := none, switching := false,
                                         stopDue := false },
                     acc := { s.acc with cons := [], cur := none, modeBroke := false, timeBroke := false, vitCmds := [] } }

/-- What every start discards. -/
def State.startCommon (s : State) : State :=
  let s1 := s.dropHeld
  let s2 := forAll (List.range 66) s1 fun s i => s.put (CMD_SRC_PENDING i) 0
  let s3 := (((s2.put RG_STATUS_PENDING 0).put NVM_STATUS_UPDATING 0).put TE_STATUS_ALIGNED 0).put SEC_STATUS_DBG_SINCE_START 0
  let s4 := (forAll s3.chainsOf s3 State.chainFresh).lockDebug
  forAll s4.dies s4 fun s d =>
    let s1 := (s.csvStop d).setDrc d { s.drc d with queue := [], postponed := [] }
    (s1.setAcu d { s1.acu d with jbuf := [], panic := false }).ingestStop d

/-- What a warm start discards beside that: service products of commands and the SEC's requests from them. -/
def State.startWarm (s : State) : State :=
  let s1 := { s with units := s.units.filter fun u => match u.src with
                | .reply _ => false
                | _ => true,
                     sec := { s.sec with queue := s.sec.queue.filter fun q => match q with
                | .attest _ (some _) => false
                | _ => true } }
  (s1.put SEC_STATUS_ATT_WAIT 0).dmaWarm

/-- A cold start has no history (R489): nothing of the epoch before is left but fuses, flash and what the AOI keeps. -/
def State.dropVolatile (s : State) : State :=
  { s with evts := [], evtLost := 0, units := [], rings := [], ctes := [], ings := [], dfus := [], acus := [],
                     acc := .reset, fcs := [], gals := [], leds := [], bes := [], aside := [], asidePkg := [], drcs := [],
                     dmas := [], scratch := [], chains := [], temps := [], telAt := s.now,
                     timers := s.timers.filter fun e => e.1 / 2 ^ 16 != 13,
                     rsc := { RscSt.reset with loActive := s.rsc.loActive, loSince := s.now }, te := .reset, pkf := .reset,
                     flt := .reset,
                     sec := { s.sec with queue := [] },
                     nvm := { NvmSt.reset with firstObs := true },
                     rg := .reset }

/-- What a cold start sets besides the registers' reset. -/
def State.startCold (s : State) : State :=
  let s1 := s.dropVolatile
  let s2 := { s1 with csvs := s1.csvs.map fun (e : Nat × CsvSt) => (e.1, { CsvSt.reset with newest := e.2.newest, days := e.2.days }) }
  let s3 := { s2 with csvs := s2.csvs.filter fun (e : Nat × CsvSt) => e.2 != CsvSt.reset }
  let s4 := ((s3.eraseSealKey).put SEC_STATUS_ATT_WAIT 0).put RSC_LO_LO_ACTIVE (b2n s.rsc.loActive)
  forAll s4.islands s4 fun s i => s.put (ISL_V_TRIM_MV i) 0

/-- The reset of a start: `porst` restarts the DPLL with its history kept. -/
def State.startReset (s : State) (warm porst : Bool) : State :=
  let s1 := (s.startCommon).resetRegs warm (warm && !porst)
  let s2 := if warm then
      let s2 := s1.startWarm
      if porst then { s2 with rsc := { RscSt.reset with hist := s.rsc.hist, loActive := s.rsc.loActive, loSince := s.rsc.loSince },
                              te := .reset }.put RSC_LO_LO_ACTIVE (b2n s.rsc.loActive)
      else s2
    else s1.startCold
  s2.islandsLow

/-! ### Deaccession at a start (R486 step 5, R539) -/

/-- The event that a deaccession of a unit kind emits. -/
def deaccCode (kind : Nat) : Nat := [0, 0x42, 0x47, 0x5B, 0x53, 0x65, 0x6E, 0x7B, 0x33, 0x32, 0x34].getD kind 0

/-- The DRAM devices of a channel that are erased. -/
def State.erasedIn (s : State) (d c : Nat) : Nat :=
  b2n (s.get (erasedF d c 0) ≠ 15) + b2n (s.get (erasedF d c 1) ≠ 15)

/-- A deaccessioned unit as the state shows it, with what its loss asks for. -/
def State.applyDead (s : State) (u : UnitId) : State :=
  let s0 := { s with flt := { s.flt with dead := if s.flt.dead.contains u then s.flt.dead else s.flt.dead ++ [u] } }
  let s1 := s0.setUnitState u 2
  let d := u.die
  let n := u.idx
  match u.kind with
  | 1 =>
    (s1.setLane d n lnDEACC).putBit (ING_STATUS_LANE_DEACC d) n true
  | 2 => s1.put (INPUT_MAP_DEACC d n) 1
  | 3 => (s1.setCh (2 * d + n) csDEACC).putBit (GWL_STATUS_CH_DEACC d) n true
  | 4 => s1.putBit (FC_STATUS_DEACC d) n true
  | 5 => (s1.putBit (GAL_STATUS_DEACC d) n true).put (TILE_STATUS_STATE d n) tsDEACC
  | 6 => (s1.put (BE_STATUS_STATE d) 3).request 5 d 0
  | 7 =>
    let s2 := (s1.put (erasedF d (n / 20) (n % 20 / 10)) (n % 10)).put (FLT_STATUS_DRAM_DEACC d)
      ((s0.flt.dead.filter fun x => x.die == d && x.kind == 7).length)
    if s2.erasedIn d (n / 20) = 2 then s2.request 3 d 0 else s2.advise 0x7B d
  | 8 => s1.put (HP_STATUS_STATE n) 2
  | 9 => (if n = 0 then s1.put REG_FAULT_A_STATE 2 else s1.put REG_FAULT_B_STATE 2).advise 0x32 dcKEEPER
  | 10 =>
    let s2 := (s1.putBit REPL_STATUS_HOP_FAILED n true).advise 0x34 dcPACKAGE
    match (List.range 9).find? fun h => h != n && s.getBit REPL_STATUS_HOP_FAILED h with
    | none => s2
    | some h => s2.loseCut (cutOff s.part.dies h n)
  | _ => s1

/-- A unit whose BIST fails at the start is deaccessioned then (R486, R536). -/
def State.bistDead (s : State) (u : UnitId) : State :=
  if s.isDead u = true ∨ 11 ≤ u.kind ∨ u.kind = 0 then s
  else
    let a := if u.kind = 1 ∨ u.kind = 10 then u.idx else if u.kind = 3 then 2
      else if u.kind = 7 then Store.get (fun _ => 0) (s.drc u.die).serial (u.idx / 20) else 0
    (s.deaccUnit u (deaccCode u.kind) a 0 (if u.kind = 7 then a else 0)).applyDead u

/-- Step 5: the units of the fault records, then those whose BIST fails. The registrar in control is A unless it is
deaccessioned. -/
def State.deaccStep (s : State) (dead : List UnitId) (env : MusterEnv) : State :=
  let s0 := { s with flt := { s.flt with dead := [] } }
  let s1 := forAll dead s0 State.applyDead
  let s2 := forAll env.bistFail s1 State.bistDead
  let aDead := s2.isDead ⟨dcKEEPER, 9, 0⟩
  let s3 := { s2 with rg := { s2.rg with passedA := !aDead, passedB := !s2.isDead ⟨dcKEEPER, 9, 1⟩, failover := false } }
  s3.put RG_STATUS_ACTIVE (b2n aDead)

/-! ### Steps 6 to 8 -/

/-- The image of device `dev` is in use. -/
def State.showImage (s : State) (dev : Nat) : State :=
  let s1 := (((s.put NVM_STATUS_SOURCE dev).put IMG_HDR_ARB (s.imgArb dev)).put IMG_HDR_SVN (s.imgSvn dev)).put
    IMG_HDR_BOOT_PROG (s.imgBoot dev)
  let s2 := (s1.put IMG_HDR_PROGS (s.imgProgs dev)).putOctets32 (IMG_HASH 0) (s.imageHash dev)
  { s2 with sec := { s2.sec with imageKey := s.imgKey dev }, nvm := { s2.nvm with ident := s.imgIdent dev } }

/-- The links of deaccessioned lanes, now that LANES names them, stay DEACC (R83). -/
def State.deadLinks (s : State) : State :=
  forAll (s.flt.dead.filter fun u => u.kind == 1 && s.get (LANE_CFG_EN u.die u.idx) == 1) s fun s u =>
    (s.setLink u.die (s.linkOf u.die u.idx) lkDEACC).putBit (ING_STATUS_LINK_DEACC u.die) (s.linkOf u.die u.idx) true

/-- The device-wide sections applied, lanes checked and enabled, DRAM trained. -/
def State.applyImage (s : State) (dev : Nat) (env : MusterEnv) : State :=
  let s1 := ((s.showImage dev).applyDevice dev).deadLinks
  let s2 := forAll s1.dies s1 fun s d => (s.checkLanes d).ingestStart d (s.badLinks d)
  let s3 := forAll env.dimms s2 fun s e =>
    if s.present e.die = true ∧ e.chan < 2 ∧ s.get (DRC_CH_CFG_EN e.die e.chan) = 1 then s.train e else s
  { s3 with flt := { s3.flt with absent := s3.flt.lost } }

/-- The start's identity, firmware and flash as registers show them, the TRNG's start and the challenge (R478, R510, R512). -/
def State.startSec (s : State) (env : MusterEnv) (fw : Nat × FwBundle) : State :=
  let s1 := ((s.putOctets32 (ID_HASH 0) (sha256 (ecPublic Config.identityScalar))).putOctets32 (MEAS_FW 0) fw.2.meas).put
    NVM_STATUS_FW_SOURCE fw.1
  let dev := fun (s : State) (a : Nat) (e : FlashEnv) =>
    ((s.put (NVM_DEV_JEDEC_ID a) e.jedec).put (NVM_DEV_SIZE_MIB a) e.mib).put (NVM_DEV_SFDP_OK a) (b2n e.good)
  let s2 := dev (dev s1 0 env.flashA) 1 env.flashB
  let s3 := (s2.showOwner).showPending
  let s4 := { s3 with sec := { s3.sec with drbg := 0, waitReseed := false, chalDue := false } }.put SEC_STATUS_TRNG_OK 1
  (if env.trngStart then s4 else s4.trngFails).newChallenge

/-! ### Step 9 -/

/-- MUSTER stops (R516): ALERT_N, and the reason. -/
def State.stopStart (s : State) (r : MusterStop) : State := ({ s with nvm := { s.nvm with stop := r } }).alert

/-- The STORE_INIT fuse is burned. -/
def State.storeInited (s : State) : State := { s with sec := { s.sec with storeInit := true } }

/-- The new epoch of a cold start (R129, R292, R365, R472, R504): it is stored, STORE_INIT is burned with the first record, the
seal key made, rings begin at sequence 0, and the certificate's ATT product is asked for (R368). -/
def State.newEpoch (s : State) (prev lastCan : Nat) : State :=
  let s1 := { s with nvm := { s.nvm with epoch := s.nvm.epoch + 1, nextCan := 0 } }
  let s2 := s1.appendCounter
  let s3 := s2.storeInited.put ARB_STATE_STORE_INIT 1
  let s4 := (s3.newSealKey).emit 0x01 dcPACKAGE 0 0 prev lastCan
  let s5 := forAll s4.allRings s4 State.initRing
  let s6 := forAll s5.dies s5 fun s d => (s.put (ACU_CAN_EPOCH d) s.nvm.epoch).csvLoad d
  (s6.queueAttest noHash none).put NVM_STATUS_START 1

/-- The conservator's ageing record asks for replacement as before (R555). -/
def State.marginStep (s : State) : State :=
  forAll s.dies s fun s d => if s.get (CSV_STATUS_MARGIN_REQ d) = 1 then s.request 4 d (s.get (CSV_PROJ_DAYS d)) else s

/-- Step 10: the programme stores, and a cold start's first programme (R483 to R485). A section that fails its hash leaves
the device without one. -/
def State.coldProg (s : State) (dev : Nat) (bad : List Nat) : State :=
  let s1 := s.copyStore dev
  let due := s1.calDue (grainOf s1.now)
  let p := match due with
    | some e => s1.get (CAL1_PROG e.1)
    | none => s1.imgBoot dev
  let s2 := match due with
    | some e => { s1 with nvm := { s1.nvm with calDone := s1.nvm.calDone ++ [e] } }
    | none => s1
  match s2.storeFails p bad with
  | e :: _ => (s2.raise NVM_EVENTS_STORE_BAD).emit 0x14 e.die 0 0 p e.sect
  | [] => s2.switchIn p

/-- Step 9 and 10 of a cold start; it stops when the store is lost, the epochs are used up or the TRNG fails. -/
def State.coldStep (s : State) (dev : Nat) (env : MusterEnv) (prev lastCan : Nat) : State :=
  if s.storeLost then s.stopStart .store
  else if s.nvm.epoch + 1 = 0xFFFF then (s.emit 0x16 dcPACKAGE 0 0 0 0).stopStart .epoch
  else if env.trngKey = false then s.trngFails.stopStart .trng
  else (s.newEpoch prev lastCan).coldProg dev env.badProg

/-! ### The warm start (R135, R136) -/

/-- The journal's head is the slot after the last record of the directory. -/
def State.headAfter (s : State) (d : Nat) : State :=
  match ((s.acu d).dir.filterMap JRec.slot).getLast? with
  | some x => s.put (JNL_PTR_HEAD d) ((x + 1) % max 1 (s.get (JNL_REGION_SLOTS d)))
  | none => s

/-- A die resumes from the checkpoint. -/
def State.warmDie (s : State) (d : Nat) : State :=
  let s1 := s.headAfter d
  let s2 := ((s1.cteWarm d).galWarm d).ledWarm d
  (s2.beWarm d).showAcu d

/-- Folios from the replay point on are replayed: their products carry REPLAY. -/
def State.markReplay (s : State) : State :=
  let from0 := (s.dies.map fun d => (s.acu d).replay).foldl min (2 ^ 48)
  { s with acc := { s.acc with marks := s.acc.marks.map fun e => if from0 ≤ e.1 then (e.1, { e.2 with flags := e.2.flags ||| 4 }) else e } }

/-- The smallest replay point of the package's dies. -/
def State.replayFolio (s : State) : Nat :=
  match s.dies.map fun d => (s.acu d).replay with
  | [] => 0
  | x :: xs => xs.foldl min x

/-- The programme of the checkpoint is written again and its units take their places; what a programme keeps of its run is
restored with it. -/
def State.warmProg (s : State) (dev : Nat) (bad : List Nat) (run : List (List (Nat × Word))) : State :=
  let p := match s.nvm.ckpt with
    | some c => c.prog
    | none => 0
  let s1 := s.copyStore dev
  match s1.storeFails p bad with
  | e :: _ => ({ s1 with nvm := { s1.nvm with progOn := false } }.raise NVM_EVENTS_STORE_BAD).emit 0x14 e.die 0 0 p e.sect
  | [] =>
    if p = s.get PROG_STATE_RUNNING then
      let s2 := (s1.applyProg p).rejoinAll
      let s3 := forAll run s2 State.putRegs
      let s4 := forAll s3.dies s3 fun s d => (s.reseat d).checkExhausted d
      { s4 with nvm := { s4.nvm with begins := if s4.nvm.begins = 1 then 1 else 2 } }
    else (s1.switchOut).switchIn p

/-- A running fade resumes from the position that the checkpoint holds; one that began after it starts again (R109). -/
def State.fadesBack (s : State) : State :=
  let saved := match s.nvm.ckpt with
    | some c => c.fades
    | none => []
  forAll s.dies s fun s d => forAll ((List.range 128).filter fun i => (s.dfuIn d i).fadeLen != 0) s fun s i =>
    let q := s.dfuIn d i
    let p := match saved.find? fun x => x.1 == d && x.2.1 == i && x.2.2.1 == q.fadeLen with
      | some x => x.2.2.2
      | none => 0
    (s.setDfuIn d i { q with pos := p }).put (IN_STATUS_FADE_POS d i) p

/-- Steps 9 and 10 of a warm start. -/
def State.warmStep (s : State) (dev : Nat) (env : MusterEnv) (cause : Nat) (run : List (List (Nat × Word))) : State :=
  let s1 := ((s.emit 0x02 dcPACKAGE 0 0 cause s.replayFolio).put NVM_STATUS_START 2).warmProg dev env.badProg run
  let s2 := forAll s1.dies s1 State.warmDie
  ((forAll s2.dies s2 State.discardLines).discardAll.fadesBack).markReplay.resendEvery

/-! ### MUSTER -/

/-- The reset pulses of both flash devices (R470). -/
def State.resetFlash (s : State) : State := (s.emitOut (.flashReset 0 10)).emitOut (.flashReset 1 10)

/-- MUSTER, steps 1 to 10 (R486): `cause` is the cause of a warm start in the coding of WARM_START; a start from DORMANT is
cold. It ends in DORMANT when no bundle or image verifies, and stops before step 9 as R516 names. -/
def State.muster (s : State) (env : MusterEnv) (cause : Nat) : State :=
  let fw := fwPick env
  let look := s.loadStore
  let ch := look.chooseImage env
  let lost := s.storeLost
  let dev := ch.src.getD 0
  let warm := fw.isSome && ch.src.isSome && s.warmOk env dev
  let run := s.dies.map s.progSlots
  let dead := s.recordedDead env.dimms
  let prev := look.nvm.epoch
  let s0 := if s.mode = mDORMANT ∨ s.nvm.nextCan = 0 then s.draw 48 else (s.nvm.nextCan - 1, s)
  let s1 := (((s0.2.resetFlash.startReset warm (cause == 2)).loadStore).put NVM_STATUS_SOURCE 3).setMode mMUSTER
  let s2 := ({ s1 with nvm := { s1.nvm with passA := ch.passA, passB := ch.passB } }.put NVM_STATUS_FAIL_A ch.failA).put
    NVM_STATUS_FAIL_B ch.failB
  let s3 := match fw with
    | none => ((s2.put NVM_STATUS_FW_SOURCE 3).emit 0x10 dcPACKAGE 0 0 0 0).fatal 4
    | some b =>
      let t1 := s2.startSec env b |>.bumpBy SEC_COUNT_VERIFY_FAIL (b2n (ch.failA == 4) + b2n (ch.failB == 4))
      let t2 := (if lost then t1.emit 0x13 dcPACKAGE 0 0 0 0 else t1).deaccStep dead env
      if t2.isDead ⟨dcKEEPER, 9, 0⟩ = true ∧ t2.isDead ⟨dcKEEPER, 9, 1⟩ = true then t2.fatal 2
      else
        match ch.src with
        | none => (t2.emit 0x11 dcPACKAGE 0 0 ch.failA ch.failB).fatal 5
        | some n =>
          let t3 := if n = 1 then (t2.raise NVM_EVENTS_FALLBACK).emit 0x12 dcPACKAGE 0 0 ch.failA 0 else t2
          let t4 := (t3.applyImage n env)
          let t5 := if warm then t4.warmStep n env cause run else t4.coldStep n env prev s0.1
          let t6 := (t5.marginStep).evalRepl
          { t6 with nvm := { t6.nvm with musterDone := true } }
  (s3.put PROG_STATE_MUSTER_MS env.ms).advance (s.now + env.ms * tMs)

/-! ### ALIGN (R487, R488, R516, R523, R531) -/

/-- ALIGN begins: ALERT_N is released, references leave OFF, chains DETECT, and the points of the POWER section are asked for. -/
def State.enterAlign (s : State) : State :=
  let s1 := { s.setMode mALIGN with telAt := s.now, nvm := { s.nvm with alignStart := s.now } }
  let s2 := if s1.get PWR_MODE_ALERT = 1 then (s1.put PWR_MODE_ALERT 0).msixChange else s1
  let s3 := forAll (List.range 20) s2 fun s r =>
    if s.refExists r = true ∧ s.refState r = rfOFF ∧ s.get (REF_CFG_EN r) = 1 then (s.put (REF_STATUS_STATE r) rfINVALID).setTimer (tkGate r) s.now else s
  let s4 := forAll s3.chainsOf s3 State.chainStart
  (s4.applyPoints.choose).refreshQual

/-- KEEPER_LOST from the AOI's record, once (R614). -/
def State.reportKeeper (s : State) : State :=
  if s.get LAST_DORMANT_VALID = 1 ∧ s.get LAST_DORMANT_CAUSE = 2 ∧ s.get LAST_DORMANT_REPORTED = 0 then
    (s.emit 0x0B dcKEEPER 0 0 (s.get LAST_DORMANT_EPOCH) 0).put LAST_DORMANT_REPORTED 1
  else s

/-- MUSTER_END: step 11 of a MUSTER that has not stopped. Pass 1 runs on the image not in use (R482). -/
def execMusterEnd (s : State) : Host.Outcome State Fault Refusal :=
  if s.mode = mMUSTER ∧ s.nvm.musterDone = true ∧ s.nvm.stop = .none then
    let s1 := s.reportKeeper.enterAlign.dmaEnable
    let o := 1 - s1.get NVM_STATUS_SOURCE
    ok (s1.setPassed (s1.get NVM_STATUS_SOURCE) true |>.setPassed o (s1.pass1 o (s1.get (NVM_DEV_SFDP_OK o) == 1) == 0))
  else ok s

/-- Every enabled chain is ACTIVE or DEACC. -/
def State.chainsReady (s : State) : Bool :=
  s.chainsOf.all fun k => s.get (GWL_CH_CFG_EN (kDie k) (kIdx k)) == 0 || s.chState k == csACTIVE || s.chState k == csDEACC

/-- When R487 is met: its chain condition and its ALIGN_T condition, each at the latest by its limit. -/
def State.alignDue (s : State) : Nat :=
  let t1 := if s.chainsReady then s.now else s.nvm.alignStart + s.get ALIGN_CFG_ALIGN_CHAIN_S * tSec
  let lim := s.nvm.alignStart + s.get ALIGN_CFG_ALIGN_MAX_S * tSec
  let t2 := match s.te.alignT with
    | some _ => min s.burstsSent lim
    | none => lim
  max t1 t2

/-- ALIGN_EXIT: OBSERVE, with the check of R500 and, the first time after a start, that of R482. -/
def execAlignExit (base : List Baseline) (s : State) : Host.Outcome State Fault Refusal :=
  if s.mode ≠ mALIGN then ok s
  else
    let s1 := s.advance s.alignDue
    let s2 := (s1.put PROG_STATE_ALIGN_S ((s1.now - s1.nvm.alignStart) / tSec)).setMode mOBSERVE
    ok ((s2.burnOwner base).raiseFloor.evalRepl)

/-! ### EPOCH_RESET (R130, R613) -/

/-- EPOCH_RESET at its grain continues a start that stopped for want of an epoch or of the counter store. -/
def State.doEpochReset (s : State) (c : CmdHdr) (scc floor : Nat) (env : MusterEnv) : State :=
  let dev := s.get NVM_STATUS_SOURCE
  let prev := s.nvm.epoch
  s.inMode c 1 fun s =>
    match s.nvm.stop with
    | .epoch =>
      if scc ≠ 0 ∨ floor ≠ 0 then s.complete c ccBADARG 0
      else
        let s1 := { s with nvm := { s.nvm with stop := .none, epoch := 0 } }.appendCounter
        let s2 := (s1.draw 48)
        (s2.2.coldStep dev env prev s2.1).complete c ccDONE 0
    | .store =>
      if s.get IMG_HDR_ARB < floor then s.complete c ccBADARG 0
      else
        let s1 := (s.put RG_STATUS_SCC (max scc c.seq)).put ARB_STATE_FLOOR floor
        let s2 := { s1 with nvm := { s1.nvm with stop := .none, epoch := 0 } }.appendCounter
        let s3 := s2.draw 48
        (s3.2.coldStep dev env 0 s3.1).complete c ccDONE 0
    | _ => s.complete c ccWRONGMODE 0

/-- EPOCH_RESET. -/
def execEpochReset (c : CmdHdr) (scc floor : Nat) (env : MusterEnv) (s : State) : Host.Outcome State Fault Refusal :=
  ok (s.doEpochReset c scc floor env)

end Sys2Proof.Machine
end

