-- ==== Sys2Proof/Machine/Registrar.lean ====
section
/-! DEFINITION. The registrar: checkpoints, failover and return, leaky buckets, units that do not return, lost dies and hops,
and REINSTATE (R22, R27, R173, R175, R244, R537 to R544, R558). -/

namespace Sys2Proof.Machine

open Reg

/-! ### Checkpoints (R27, R173, R175, R244, R544) -/

/-- The slot of the oldest record at or after a folio, else the journal's head. -/
def State.slotFrom (s : State) (d k : Nat) : Nat :=
  match (s.acu d).dir.find? fun r => decide (k ≤ r.folio) && r.slot != none with
  | some r => r.slot.getD 0
  | none => s.get (JNL_PTR_HEAD d)

/-- A die's part of a checkpoint: its replay point moves up to the folio after the smallest one committed, its cores are asked
for saves, and cores with enough passes take their work back. -/
def State.ckptDie (s : State) (d : Nat) : State :=
  let k := max (s.acu d).replay (s.replayBound d)
  let s1 := (s.setAcu d { s.acu d with replay := k }).put (JNL_PTR_REPLAY d) (s.slotFrom d k)
  ((s1.fcReturn d).requestSaves d).showAcu d

/-- What the registrar needs to resume. -/
def State.ckptNow (s : State) : Ckpt :=
  ⟨s.getOctets32 (IMG_HASH 0), s.get PROG_STATE_RUNNING, s.get PROG_STATE_SUSPENDED, s.rg.gDone,
    s.dies.map fun d => (s.acu d).replay, s.now, s.dies.map fun d => s.get (JNL_PTR_HEAD d), s.dies.map fun d => (s.cte d).sentNext,
    s.dies.flatMap fun d => (s.dfu d).ins.filterMap fun x => if x.2.fadeLen = 0 then none else some (d, x.1, x.2.fadeLen, x.2.pos),
    s.rings.map fun x => (x.1, x.2.nAck0, x.2.nAck1)⟩

/-- Registrar A, having passed its self-test, restores from the checkpoint and takes control back (R544). -/
def State.regReturn (s : State) : State :=
  if s.rg.returning then
    (({ s with rg := { s.rg with returning := false } }.put RG_STATUS_ACTIVE 0).put REG_FAULT_A_STATE 0).emit 0x31 dcKEEPER 9 0 0 0
  else s

/-- CHECKPOINT, at every boundary of 250 ms. -/
def execCheckpoint (s : State) : Host.Outcome State Fault Refusal :=
  if s.runs = true ∧ s.rg.failover = false then
    let s0 := s.atMultiple tkCkpt (250 * tMs)
    let s1 := forAll s0.dies s0 State.ckptDie
    ok ({ s1 with nvm := { s1.nvm with ckpt := some s1.ckptNow } }).regReturn
  else ok s

/-! ### Failover and self-tests (R544, R29) -/

/-- The registrar core pairs. -/
def regUnit (x : Nat) : UnitId := ⟨dcKEEPER, 9, x⟩
def regState (x : Nat) : RF := if x = 0 then REG_FAULT_A_STATE else REG_FAULT_B_STATE
def regBkt (x : Nat) : RF := if x = 0 then REG_FAULT_A_BKT else REG_FAULT_B_BKT
def RgSt.passed (r : RgSt) (x : Nat) : Bool := if x = 0 then r.passedA else r.passedB
def RgSt.fails (r : RgSt) (x : Nat) : Nat := if x = 0 then r.testFailsA else r.testFailsB

/-- The last self-test of registrar x, its failures in a row, and whether A is to return. -/
def State.testedReg (s : State) (x : Nat) (pass : Bool) (fails : Nat) (ret : Bool) : State :=
  { s with rg := if x = 0 then { s.rg with passedA := pass, testFailsA := fails, returning := ret }
                 else { s.rg with passedB := pass, testFailsB := fails, returning := ret } }

/-- Commands wait until the first grain of the registrar that takes control. -/
def State.inFailover (s : State) : State := { s with rg := { s.rg with failover := true } }

/-- A registrar core pair is deaccessioned: replacement is advised (R553). -/
def State.deaccReg (s : State) (x : Nat) : State :=
  ((s.deaccUnit (regUnit x) 0x32 0 0 0).put (regState x) 2).advise 0x32 dcKEEPER

/-- The registrar in control fails its output comparison (0) or its self-diagnosis (1): the other takes control from the last
checkpoint, and commands wait until its first grain. With the other deaccessioned or not passed, the keeper die is lost. -/
def State.failover (s : State) (cause : Nat) : State :=
  let a := s.get RG_STATUS_ACTIVE
  let b := 1 - a
  if s.isDead (regUnit b) = true ∨ s.rg.passed b = false then s.fatal 2
  else
    let s1 := (((s.setTimer tkRegTest s.now).put (regState a) 1).charge (regUnit a) 1 (regBkt a)).bump REG_FAULT_FAILOVERS
    let s2 := (s1.emit 0x30 dcKEEPER 9 a a cause).beginFault (regUnit a) 0x30
    let s3 := ((s2.testedReg a false 0 false).inFailover).put RG_STATUS_ACTIVE b
    if s.get (FLT_LIMITS_GIVEUP_THRESH 0) < s1.get (regBkt a) then s3.deaccReg a else s3

def execRegFailover (cause : Nat) (s : State) : Host.Outcome State Fault Refusal :=
  if mMUSTER ≤ s.mode then ok (s.failover cause) else ok s

/-- A self-test of the registrar that is not in control, every 60 s where it gave up control. A pass lets A return at the next checkpoint; a failure gives the
registrar up, and the third in a row deaccessions it. -/
def execRegistrarSelfTest (pass : Bool) (s : State) : Host.Outcome State Fault Refusal :=
  let x := 1 - s.get RG_STATUS_ACTIVE
  if s.mode < mMUSTER ∨ s.isDead (regUnit x) = true then ok s
  else
  let s := when (s.get (regState x) == 1) (·.tick tkRegTest (60 * tSec)) s
  if pass then
    let s1 := s.testedReg x true 0 s.rg.returning
    if x = 0 ∧ s.get REG_FAULT_A_STATE = 1 then ok (s.testedReg x true 0 true)
    else ok (s1.put (regState x) 0)
  else
    let n := s.rg.fails x + 1
    let s1 := (s.testedReg x false n false).put (regState x) 1
    if 3 ≤ n then ok (s1.deaccReg x) else ok s1

/-! ### Leaky buckets (R537) -/

/-- The register that holds a unit's bucket. -/
def bucketOf (u : UnitId) (bucket : Nat) : Option RF :=
  let d := u.die
  let n := u.idx
  match u.kind with
  | 1 => if n < 16 then some (if bucket = 0 then LANE_ALIGNCNT_CHAR_BKT d n else LANE_ALIGNCNT_REAL_BKT d n) else none
  | 3 => if n < 2 then some (if bucket = 0 then GWL_CH_STATUS_CRC_BKT d n else GWL_CH_STATUS_RT_BKT d n) else none
  | 4 => if n < 18 then some (if bucket = 0 then UNIT_BKT_BKT_A d (17 + n) else UNIT_BKT_BKT_B d (17 + n)) else none
  | 5 => if n < 17 then some (UNIT_BKT_BKT_B d n) else none
  | 6 => if n = 0 then some (UNIT_BKT_BKT_A d 35) else none
  | 7 => if n < 40 then some (UNIT_BKT_BKT_A d (36 + n)) else none
  | 8 => if n < 2 then some (HP_STATUS_BUCKET n) else none
  | 9 => if n < 2 then some (regBkt n) else none
  | _ => none

/-- The unit's die exists: a present span die for the span kinds. -/
def State.unitHere (s : State) (u : UnitId) : Bool :=
  if u.kind = 10 then u.die == dcPACKAGE else if u.kind = 8 ∨ u.kind = 9 then u.die == dcKEEPER else s.present u.die

/-- The bucket of each unit by its one number: a unit with a single bucket has the same one under either. -/
def bucketNo (u : UnitId) (bucket : Nat) : Nat :=
  if u.kind = 5 ∨ u.kind = 9 then 1 else if 6 ≤ u.kind then 0 else if bucket = 0 then 0 else 1

/-- The leak period of a bucket in device time (R82, R221, R439, R537). -/
def State.leakPeriod (s : State) (u : UnitId) (bucket : Nat) : Nat :=
  let d := u.die
  match u.kind with
  | 1 => if bucket = 0 then s.get (ING_BUCKET_CFG_CHAR_LEAK_US d) * tUs else s.get (ING_BUCKET_CFG_REAL_LEAK_S d) * tSec
  | 3 => if bucket = 0 then s.get (GWL_BUCKET_CFG_CRC_LEAK_MS d) * tMs else s.get (GWL_BUCKET_CFG_RT_LEAK_S d) * tSec
  | 4 => if bucket = 0 then s.get (FLT_LIMITS_CORR_LEAK_S d) * tSec else s.get (FLT_LIMITS_GIVEUP_LEAK_H d) * 3600 * tSec
  | 5 => s.get (FLT_LIMITS_GIVEUP_LEAK_H d) * 3600 * tSec
  | 6 => s.get (FLT_LIMITS2_BE_LEAK_H d) * 3600 * tSec
  | 7 => s.get (FLT_LIMITS2_DRAM_LEAK_S d) * tSec
  | 8 => s.get (HP_CFG_ERR_LEAK_S u.idx) * tSec
  | 9 => s.get (FLT_LIMITS_GIVEUP_LEAK_H 0) * 3600 * tSec
  | _ => tSec

/-- What a bucket holds. -/
def State.bucketLevel (s : State) (u : UnitId) (bucket : Nat) : Nat :=
  if u.kind = 10 then Store.get (fun _ => 0) s.pkf.bkt u.idx
  else match bucketOf u bucket with
    | some f => s.get f
    | none => 0

/-- BUCKET_LEAK: a leak period has passed and the bucket loses 1, not below 0. A bucket whose leak period is set to 0 does not
leak. -/
def execBucketLeak (u : UnitId) (bucket : Nat) (s : State) : Host.Outcome State Fault Refusal :=
  let b := bucketNo u bucket
  if s.mode < mMUSTER ∨ s.unitHere u = false ∨ s.bucketLevel u b = 0 ∨ s.leakPeriod u b = 0 then ok s
  else
    let s1 := s.tick (bktKey u b) (s.leakPeriod u b)
    if u.kind = 10 then
      ok { s1 with pkf := { s1.pkf with bkt := Store.put (fun _ => 0) s1.pkf.bkt u.idx (s.bucketLevel u b - 1) } }
    else
      match bucketOf u b with
      | some f => ok (s1.drop f)
      | none => ok s

/-- A unit's buckets are set to 0 (R541). -/
def State.clearBuckets (s : State) (u : UnitId) : State :=
  let z := fun (s : State) (b : Nat) => match bucketOf u b with
    | some f => s.put f 0
    | none => s
  let s1 := z (z s 0) 1
  if u.kind = 10 then { s1 with pkf := { s1.pkf with bkt := Store.put (fun _ => 0) s1.pkf.bkt u.idx 0 } } else s1

/-! ### Units that do not return (R542, R543) -/

/-- A unit that gave up its work has not returned within RETURN_MAX_H: it is deaccessioned, and a loan for it becomes permanent. -/
def execGiveupTimeout (u : UnitId) (s : State) : Host.Outcome State Fault Refusal :=
  let d := u.die
  let n := u.idx
  if s.present d = false then ok s
  else if u.kind = 4 ∧ n < 18 ∧ s.get (UNIT_BKT_STATE d (17 + n)) = 1 then
    let s0 := s.advance (s.timer (tkFcGave d n) + s.get (FLT_LIMITS_RETURN_MAX_H d) * 3600 * tSec)
    let s1 := (s0.deaccUnit u 0x53 0 0 0).putBit (FC_STATUS_DEACC d) n true
    let f := s1.fc d
    if f.loans.any fun l => l.core == n then
      ok ((s1.setFc d { f with loans := f.loans.map fun l => if l.core = n then { l with perm := true } else l }).advise 0x53 d)
    else ok s1
  else if u.kind = 5 ∧ n < 17 ∧ s.get (UNIT_BKT_STATE d n) = 1 then
    let s0 := s.advance ((s.tile d n).gaveUp + s.get (FLT_LIMITS_RETURN_MAX_H d) * 3600 * tSec)
    let s1 := ((s0.deaccUnit u 0x65 0 0 0).putBit (GAL_STATUS_DEACC d) n true).put (TILE_STATUS_STATE d n) tsDEACC
    match (s1.gal d).loan with
    | none => ok s1
    | some l =>
      if l.tile = n then ok ((s1.setGal d { s1.gal d with loan := some { l with perm := true } }).advise 0x65 d) else ok s1
  else ok s

/-! ### Dies and hops (R20 to R22, R28, R138) -/

/-- DIE_FAILURE: span die d is lost. -/
def execDieFailure (d : Nat) (s : State) : Host.Outcome State Fault Refusal :=
  if mMUSTER ≤ s.mode then ok (s.loseDie false [] d) else ok s

/-- The packets on their way take the other direction where their way has a failed hop; those that neither way can carry are
lost with the dies cut off. -/
def State.reroute (s : State) : State :=
  let turn := fun (x : PkfPkt) => match s.wayUp x.pos x.dest with
    | none => none
    | some short => some (if s.hopFailed (if x.up then s.hopsUp x.pos x.dest else s.hopsUp x.dest x.pos) then { x with up := short } else x)
  { s with pkf := { s.pkf with transit := s.pkf.transit.filterMap turn } }

/-- Hop h fails for good (R22): a record, PKF_HOP_FAIL, and every packet the other way round; with another hop failed, the dies
cut off from the keeper are lost (R28). -/
def State.failHop (s : State) (h : Nat) : State :=
  let u : UnitId := ⟨dcPACKAGE, 10, h⟩
  let other := (List.range 9).find? fun x => x != h && s.getBit REPL_STATUS_HOP_FAILED x
  let s1 := (s.putBit REPL_STATUS_HOP_FAILED h true).beginFault u 0x34
  let s2 := (((s1.deaccUnit u 0x34 h 0 0).reroute).recoverFault u).advise 0x34 dcPACKAGE
  match other with
  | none => s2
  | some x => s2.loseCut (cutOff s.part.dies x h)

/-- PKF_PACKET: hop `hop` carries the first packet of its kind waiting there, bound for die `toDie` (8: the keeper). A good one
goes on, and at the end of its way is handed over in the order sent (R21); one that fails its check is retried and charged. -/
def execPkfPacket (hop : Nat) (p : Pkt) (toDie : Nat) (good : Bool) (s : State) : Host.Outcome State Fault Refusal :=
  match s.pkf.transit.find? fun x => s.nextHop x == hop && x.dest == ringPos toDie && x.pkt.vc == p.vc with
  | none => ok s
  | some x =>
    if x.pkt ≠ p ∨ s.mode < mMUSTER then ok s
    else if good then
      let y := { x with pos := if x.up then (x.pos + 1) % s.ringLen else (x.pos + s.ringLen - 1) % s.ringLen }
      ok ({ s with pkf := { s.pkf with transit := s.pkf.transit.replace x y } }).pump
    else
      let n := Store.get (fun _ => 0) s.pkf.bkt hop + 1
      let s0 := if n = 1 then s.setTimer (bktKey ⟨dcPACKAGE, 10, hop⟩ 0) s.now else s
      let s1 := { s0 with pkf := { s0.pkf with bkt := Store.put (fun _ => 0) s0.pkf.bkt hop n } }
      if 1000 < n then ok (s1.failHop hop) else ok s1

/-! ### REINSTATE (R541, R558) -/

/-- Units of a kind on a die. -/
def State.unitCount (s : State) (kind : Nat) : Nat := [0, 16, 128, 2, 18, 17, 1, 40, 2, 2, s.ringLen, 1].getD kind 0

/-- The unit exists on this part. -/
def State.unitExists (s : State) (u : UnitId) : Bool :=
  decide (u.idx < s.unitCount u.kind) && (if u.kind = 10 then u.die == dcPACKAGE else if u.kind = 8 then u.die == dcKEEPER else decide (u.die < s.part.dies))

/-- The fault record with octet 12 = 0, the unit's buckets at 0 and REINSTATED. -/
def State.reinstated (s : State) (u : UnitId) : State :=
  let serial := if u.kind = 7 then Store.get (fun _ => 0) (s.drc u.die).serial (u.idx / 20) else 0
  let s1 := { s with flt := { s.flt with dead := s.flt.dead.erase u } }.appendFault u 0 serial
  (when (decide (u.die < 8)) (·.raise (FLT_EVENTS_REINSTATED u.die)) (s1.clearBuckets u)).emit 0x0C u.die u.kind u.idx 0 0

/-- A unit that rejoins at a switch, a boundary or a start. -/
def State.toRejoin (s : State) (u : UnitId) : State :=
  { s with flt := { s.flt with rejoin := if s.flt.rejoin.contains u then s.flt.rejoin else s.flt.rejoin ++ [u] } }

/-- Link j returns from DEACC to DISABLED and starts from SYNC, and the inputs that went with it are reinstated. -/
def State.linkReturns (s : State) (d j : Nat) : State :=
  if s.linkState d j ≠ lkDEACC ∨ (s.linkLanes d j).any (fun n => s.isDead ⟨d, 1, n⟩) then s
  else
    let s1 := (s.setLink d j lkDISABLED).putBit (ING_STATUS_LINK_DEACC d) j false
    let s2 := s1.setIng d { s1.ing d with leaving := (s1.ing d).leaving.filter fun i => s.get (INPUT_MAP_LINK d i) != j }
    let s3 := forAll ((s.inputsOfLink d j).filter fun i => s.isDead ⟨d, 2, i⟩) s2 fun s i =>
      (s.reinstated ⟨d, 2, i⟩).toRejoin ⟨d, 2, i⟩
    if s3.ingestMode then s3.ingestStart d (s3.badLinks d) else s3

/-- What reinstating a unit does beside its record; the result of its BIST is `bistOk`. -/
def State.reinstateUnit (s : State) (u : UnitId) (bistOk : Bool) : State × Nat :=
  let d := u.die
  let n := u.idx
  match u.kind with
  | 1 =>
    let s1 := ((s.reinstated u).setLane d n lnOFF).putBit (ING_STATUS_LANE_DEACC d) n false
    let s2 := if s1.ingestMode ∧ s.get (LANE_CFG_EN d n) = 1 then s1.enterAcq d n else s1
    (s2.linkReturns d (s.linkOf d n), 0)
  | 2 => (((s.reinstated u).toRejoin u).linkReturns d (s.get (INPUT_MAP_LINK d n)), 0)
  | 7 => (s.reinstated u, 0)
  | _ =>
    if bistOk = false then ((s.reinstated u).deaccUnit u (deaccCode u.kind) (if u.kind = 10 then n else 0) 0 0, 1)
    else
      let s1 := s.reinstated u
      if u.kind = 4 ∧ (s1.fc d).loans.any (fun l => l.core == n) then
        let f := s1.fc d
        let s2 := s1.setFc d { f with loans := f.loans.map (fun l => if l.core = n then { l with perm := false } else l),
                                      passes := Store.put zeroNat f.passes n 0 }
        ((s2.setUnitState u 1).putBit (FC_STATUS_DEACC d) n false, 0)
      else
        match (s1.gal d).loan with
        | some l =>
          if u.kind = 5 ∧ l.tile = n then
            let s2 := s1.setGal d { s1.gal d with loan := some { l with perm := false } }
            ((((s2.setUnitState u 1).putBit (GAL_STATUS_DEACC d) n false).put (TILE_STATUS_STATE d n) tsGAVEUP).put (TILE_FAULT_PASSES d n) 0, 0)
          else (s1.toRejoin u, 0)
        | none => (s1.toRejoin u, 0)

/-- REINSTATE at its grain. -/
def State.doReinstate (s : State) (c : CmdHdr) (u : UnitId) (bistOk : Bool) : State :=
  s.inMode c 6 fun s =>
    if u.kind = 0 ∨ u.kind = 9 ∨ 11 ≤ u.kind then s.complete c ccBADARG 0
    else if s.unitExists u = false then s.complete c ccUNSUPPORTED 0
    else if s.isDead u = false then (s.clearBuckets u).complete c ccDONE 0
    else
      let r := s.reinstateUnit u bistOk
      r.1.complete c ccDONE r.2

def execReinstate (c : CmdHdr) (u : UnitId) (bistOk : Bool) (s : State) : Host.Outcome State Fault Refusal :=
  ok (s.doReinstate c u bistOk)

end Sys2Proof.Machine
end

