-- ==== Sys2Proof/Machine/Host.lean ====
section
/-! DEFINITION. The host interface: reads and writes of the state map under the rights of a source, command records and the checks
of R462, landing rings, acknowledgement doorbells, and the ports (chapter 16). -/

namespace Sys2Proof.Machine

open Reg

/-! ### Rights to the state map (R441, R444, R445, R460) -/

/-- The state address of a BAR0 offset of port p (R441). -/
def State.barAddr (s : State) (p off : Nat) : Nat :=
  let w := bitsOf off 24 4
  if w = 15 then keepSlot (7 + p) (bitsOf off 0 24) else s.get (HP_WIN_BASE p w) * 2 ^ 24 + bitsOf off 0 24

/-- The address lies in the own port block of a source. -/
def ownBlock (src a : Nat) : Bool := decide (src < 2) && addrDie a == 15 && addrBlock a == 7 + src

/-- A read that R444 refuses: addresses that R13 makes read zero are never refused. -/
def State.readDenied (s : State) (src a : Nat) : Bool :=
  assigned s.part a &&
    ((s.level src == lvNONE && !(addrDie a == 15 && decide (addrBlock a ≤ 1)) && !ownBlock src a) ||
      (addrDie a != 15 && addrBlock a == 0x1D && !s.counters src))

/-- How far a write reaches: not at all, whole fields, or only the fields cleared by writing 1. -/
inductive WriteReach where
  | none
  | whole
  | clear
deriving DecidableEq, Repr

/-- What a source's write to a slot reaches (R445, R455, R460). -/
def State.writeReach (s : State) (src a : Nat) : WriteReach :=
  let nm := slotName s.part a
  let lv := s.level src
  if a % 16 ≠ 0 ∨ assigned s.part a = false ∨ lv < lvOBSERVER then .none
  else if ownBlock src a then
    if nm = "HP_WIN" ∨ nm = "HP_RINGCFG" then .whole
    else if nm = "HP_CMD_BASE" ∨ nm = "HP_CPL_BASE" then (if s.get (HP_RINGCFG_EN src) = 0 then .whole else .none)
    else if nm = "HP_STATUS" then .clear else .none
  else if addrDie a ≠ 15 ∧ nm = "LED_WIN" then .whole
  else if addrDie a = 15 ∧ (addrBlock a = 7 ∨ addrBlock a = 8) ∧ 2 ≤ src then .none
  else if clrMask s.part a = 0 ∨ lv < lvOPERATOR ∨ (nm = "PMON_CTR" ∧ s.counters src = false) then .none
  else .clear

/-- A whole-slot write as far as it reaches. -/
def State.reachWrite (s : State) (src a : Nat) (w : Word) : State :=
  match s.writeReach src a with
  | .none => s
  | .whole => s.writeSlot a w
  | .clear => s.writeClr a w

/-- REGISTER_WRITE: a host writes a whole slot through BAR0. One that reaches nothing sets WR_IGNORED. -/
def execRegisterWrite (port addr data : Nat) (s : State) : Host.Outcome State Fault Refusal :=
  if 2 ≤ port ∨ s.portState port ≠ 1 ∨ 2 ^ 28 ≤ addr then ok s
  else if addr % 16 ≠ 0 then ok (s.raise (HP_STATUS_PARTIAL_WR port))
  else
    let a := s.barAddr port addr
    if s.writeReach port a = .none then ok (s.raise (HP_STATUS_WR_IGNORED port))
    else ok (s.reachWrite port a (BitVec.ofNat 72 data))

/-- PARTIAL_WRITE (R51). -/
def execPartialWrite (port addr : Nat) (s : State) : Host.Outcome State Fault Refusal :=
  if 2 ≤ port ∨ s.portState port ≠ 1 ∨ 2 ^ 28 ≤ addr then ok s else ok (s.raise (HP_STATUS_PARTIAL_WR port))

/-- The octet at a BAR0 offset as a source reads it: of the slot's snapshot, 0 in bytes 9 to 15 and where R444 refuses the
read (R49, R50). -/
def State.barOctet (s : State) (port off : Nat) : Nat :=
  let a := s.barAddr port (off / 16 * 16)
  if s.readDenied port a then 0 else (slotOctets [s.readSlot a]).getD (off % 16) 0

/-- DENIED_READ: a host's read of `len` octets through BAR0. The octets go to the host; a slot that R444 refuses reads zero and
sets DENIED, and otherwise nothing changes (R11). -/
def execDeniedRead (port addr : Nat) (s : State) (len : Nat := 16) : Host.Outcome State Fault Refusal :=
  if 2 ≤ port ∨ s.portState port ≠ 1 ∨ len = 0 ∨ 2 ^ 28 < addr + len then ok s
  else
    let offs := (List.range len).map (addr + ·)
    let s1 := s.emitOut (.hostRead port addr (offs.map (s.barOctet port)))
    ok (when (offs.any fun o => s.readDenied port (s.barAddr port (o / 16 * 16))) (·.raise (HP_STATUS_DENIED port)) s1)

/-! ### Griwano state packets (R459, R460) -/

/-- A delivered VC 2 packet of a keeper subtype waits for the keeper. -/
def State.hasCtrl (s : State) (p : Pkt) (sub : Nat) : Bool :=
  decide (mMUSTER ≤ s.mode) && s.inboxHead 8 p && p.vc == 2 && p.sub == sub

/-- The first slot, the slots named (0 for the reserved count) and the tag of a state packet. -/
def statePkt (p : Pkt) : Nat × Nat × Nat :=
  let w := p.payload.headD 0
  (w.bits 0 48, if w.bits 48 5 = 31 then 0 else w.bits 48 5 + 1, w.bits 53 16)

/-- STATE_READ: the response carries a word per slot, zero where denied. -/
def execStateRead (p : Pkt) (s : State) : Host.Outcome State Fault Refusal :=
  if s.hasCtrl p 3 = false then ok s
  else
    let s1 := s.takeInbox 8 p
    let (a, n, tag) := statePkt p
    if n = 0 then ok s1
    else
      let src := s1.srcOfDev p.src
      let slots := (List.range n).map fun i => a + 16 * i
      let ws := slots.map fun x => if s1.readDenied src x then 0 else s1.readSlot x
      let h : Word := BitVec.ofNat 72 (tag + b2n (slots.any (s1.readDenied src)) * 2 ^ 16)
      ok (s1.originate 8 2 p.src 0 0x4 (h :: ws))

/-- STATE_WRITE: slots in ascending address; one that the source may not write stays, and IGNORED tells of it. -/
def execStateWrite (p : Pkt) (s : State) : Host.Outcome State Fault Refusal :=
  if s.hasCtrl p 5 = false then ok s
  else
    let s1 := s.takeInbox 8 p
    let (a, n, tag) := statePkt p
    if n = 0 then ok s1
    else
      let src := s1.srcOfDev p.src
      let short := decide (p.payload.length < n + 1)
      let ign := short || (List.range n).any fun i => s1.writeReach src (a + 16 * i) == .none
      let s2 := if short then s1
        else forAll (List.range n) s1 fun s i => s.reachWrite src (a + 16 * i) (p.payload.getD (i + 1) 0)
      ok (s2.originate 8 2 p.src 0 0x6 [BitVec.ofNat 72 (tag + b2n ign * 2 ^ 16)])

/-! ### Command records (R456, R457, R461) -/

end Sys2Proof.Machine

namespace Sys2Proof

open Machine

def CmdRec.opcode (r : CmdRec) : Nat := recNum r.octs 0 2
def CmdRec.signed (r : CmdRec) : Bool := bit (r.octs.getD 2 0) 0
def CmdRec.immediate (r : CmdRec) : Bool := bit (r.octs.getD 2 0) 1
def CmdRec.extLen (r : CmdRec) : Nat := r.octs.getD 3 0
def CmdRec.seq (r : CmdRec) : Nat := recNum r.octs 16 6
def CmdRec.args (r : CmdRec) : List Nat := (r.octs.drop 24).take 32

/-- The extra arguments of an extension. -/
def CmdRec.extra (r : CmdRec) : List Nat := (r.ext.drop 64).take r.extLen

end Sys2Proof

namespace Sys2Proof.Machine

open Reg

/-- A row of the command table: the level needed, the modes (1 M, 2 A, 4 O), the ARGS octets used and the extra arguments' length. -/
structure CmdRow where
  level : Nat
  modes : Nat
  used : Nat
  extLen : Nat
deriving DecidableEq, Repr

/-- The command table (R461). -/
def cmdRow (op : Nat) : Option CmdRow :=
  match op with
  | 0x01 => some ⟨1, 7, 0, 0⟩
  | 0x02 => some ⟨1, 7, 32, 0⟩
  | 0x03 => some ⟨1, 4, 9, 0⟩
  | 0x10 => some ⟨2, 4, 1, 0⟩
  | 0x11 => some ⟨2, 4, 0, 0⟩
  | 0x12 => some ⟨2, 4, 2, 0⟩
  | 0x13 => some ⟨2, 4, 24, 0⟩
  | 0x14 => some ⟨2, 4, 4, 0⟩
  | 0x15 => some ⟨2, 4, 4, 0⟩
  | 0x16 => some ⟨2, 6, 2, 41⟩
  | 0x17 => some ⟨2, 6, 3, 81⟩
  | 0x18 => some ⟨2, 6, 1, 0⟩
  | 0x19 => some ⟨2, 6, 1, 0⟩
  | 0x1A => some ⟨2, 6, 28, 0⟩
  | 0x1B => some ⟨2, 6, 2, 0⟩
  | 0x1C => some ⟨2, 4, 0, 0⟩
  | 0x20 => some ⟨3, 6, 7, 0⟩
  | 0x21 => some ⟨3, 6, 5, 0⟩
  | 0x22 => some ⟨3, 6, 4, 0⟩
  | 0x23 => some ⟨3, 6, 0, 0⟩
  | 0x24 => some ⟨3, 7, 0, 0⟩
  | 0x25 => some ⟨3, 1, 10, 0⟩
  | 0x26 => some ⟨3, 6, 13, 0⟩
  | 0x27 => some ⟨3, 6, 32, 0⟩
  | 0x28 => some ⟨3, 6, 0, 128⟩
  | _ => none

/-- The unit that a REINSTATE names. -/
def argUnit (a : List Nat) : UnitId := ⟨a.getD 1 0, a.getD 0 0, recNum a 2 2⟩

/-- The units that a command names exist on this part (R462, check 1). -/
def State.unitsOk (s : State) (op : Nat) (a : List Nat) : Bool :=
  let n := s.part.dies
  match op with
  | 0x03 => decide (a.getD 0 0 < 2 ^ n)
  | 0x12 => decide (a.getD 0 0 < 2 ^ n)
  | 0x13 => decide (recNum a 20 2 + recNum a 22 2 ≤ 128 * n)
  | 0x14 => decide (a.getD 0 0 < n)
  | 0x15 => decide (a.getD 0 0 < n)
  | 0x16 => decide (a.getD 0 0 < n)
  | 0x17 => decide (a.getD 0 0 < n)
  | 0x18 => decide (20 ≤ a.getD 0 0) || s.refExists (a.getD 0 0)
  | 0x1A => decide (recNum a 0 2 < 1024 * n)
  | 0x1B => decide (recNum a 0 2 < 1024 * n)
  | 0x21 => decide (a.getD 0 0 < 2 * n)
  | 0x22 =>
    let u := argUnit a
    u.kind == 0 || u.kind == 9 || decide (11 ≤ u.kind) || s.unitExists u
  | _ => true

/-- A landing ring may be registered for ring r on port p with 2^k slots (R447). -/
def State.landOk (s : State) (p r k vec base : Nat) : Bool :=
  decide (p < 2) && decide (12 ≤ k) && decide (k ≤ 30) && decide (2 ≤ vec) && decide (vec ≤ 63) && base % 4096 == 0 &&
    (s.targetOnPort r p).isSome && decide (s.get (RING_REGION_WORDS (ringDie r) (ringLoc r)) ≤ 2 * 2 ^ k)

/-- The arguments lie in their ranges (R462, check 4). -/
def State.argsOk (s : State) (src op : Nat) (a : List Nat) : Bool :=
  match op with
  | 0x03 => a.getD 0 0 != 0 && recNum a 1 8 != 0
  | 0x10 => decide (a.getD 0 0 ≤ 15) && s.progDefined (a.getD 0 0)
  | 0x12 => decide (a.getD 1 0 ≤ 15)
  | 0x13 => recNum a 22 2 != 0
  | 0x14 => decide (a.getD 1 0 < 128) && decide (63 ≤ recNum a 2 2)
  | 0x15 => decide (a.getD 1 0 < 128)
  | 0x16 => decide (a.getD 1 0 < 128)
  | 0x17 => decide (recNum a 1 2 < 1024)
  | 0x18 => decide (a.getD 0 0 < 20)
  | 0x1A => s.landOk src (recNum a 0 2) (a.getD 2 0) (a.getD 3 0) (recNum a 4 8)
  | 0x20 => decide (a.getD 6 0 ≤ 2)
  | 0x21 => decide (16 ≤ recNum a 1 4) && decide (recNum a 1 4 < 2 ^ 24)
  | 0x22 =>
    let k := a.getD 0 0
    k != 0 && k != 9 && decide (k ≤ 10)
  | 0x25 =>
    match s.nvm.stop with
    | .store => decide (recNum a 6 4 ≤ s.get IMG_HDR_ARB)
    | .epoch => (a.take 10).all (· == 0)
    | _ => true
  | 0x26 => decide (a.getD 0 0 < 2) && decide (288 ≤ recNum a 9 4) && decide (recNum a 9 4 ≤ imgSize)
  | _ => true

/-! ### The checks of R462 -/

/-- Grain g has closed: it starts within 20 us (R463). -/
def State.closed (s : State) (g : Nat) : Bool := decide (g * tUs ≤ s.now + 20 * tUs)

/-- The effective grain of a record read now. -/
def State.effGrain (s : State) (r : CmdRec) : Nat := if r.immediate then grainOf s.now + 21 else recNum r.octs 8 8

/-- The octets that a record's signature covers (R457). -/
def State.cmdMsg (s : State) (r : CmdRec) : List Nat :=
  [0x5A, 0x4E, 0x43, 0x4D] ++ toOctets 2 s.ownDev ++ r.octs.take 56 ++ r.extra

/-- The counter that a signed record must exceed; while the store is lost it is not known, and 0 stands for it. -/
def State.sccNow (s : State) : Nat := if s.nvm.stop = .store then 0 else s.get RG_STATUS_SCC

/-- The record's signature verifies and its sequence number is above the counter. -/
def State.sigGood (s : State) (row : CmdRow) (r : CmdRec) : Bool :=
  s.cmdSigOk (row.level == lvOWNER) (s.cmdMsg r) (r.ext.take 64) && decide (s.sccNow < r.seq)

/-- A signature is required (R453). -/
def State.needsSig (s : State) (row : CmdRow) : Bool :=
  row.level == lvOWNER || (row.level == lvOPERATOR && s.get RG_CFG_SIGN_OP == 1)

/-- Checks 1 to 3: the code of the first that fails. -/
def State.checkFirst (s : State) (src : Nat) (row : CmdRow) (r : CmdRec) : Option Nat :=
  if s.unitsOk r.opcode r.args = false then some ccUNSUPPORTED
  else if s.level src < row.level ∨ (r.opcode = 3 ∧ s.counters src = false) then some ccNORIGHT
  else if (r.signed || s.needsSig row) = true ∧ (r.signed && s.sigGood row r) = false then some ccBADSIG
  else none

/-- A record's reserved octets, unused arguments and extension length are as R456 and R461 give them. -/
def CmdRow.formOk (row : CmdRow) (r : CmdRec) : Bool :=
  decide (r.octs.getD 2 0 < 4) && recNum r.octs 22 2 == 0 && (r.args.drop row.used).all (· == 0) && r.extLen == row.extLen &&
    (row.extLen == 0 || decide (64 + row.extLen ≤ r.ext.length))

/-- Commands that wait, all but the calendar's, and those of one source (R467). -/
def State.waitingCmds (s : State) : List PCmd := s.rg.pend.filter fun x => x.hdr.src != 255

/-- Checks 4 to 7. -/
def State.checkLast (s : State) (src : Nat) (row : CmdRow) (r : CmdRec) : Option Nat :=
  let g := s.effGrain r
  if (row.formOk r && s.argsOk src r.opcode r.args) = false ∨ grainOf s.now + 2 ^ 32 < g then some ccBADARG
  else if s.modeBit &&& row.modes = 0 ∨ (r.opcode = 0x25 ∧ s.nvm.stop ≠ .epoch ∧ s.nvm.stop ≠ .store) then some ccWRONGMODE
  else if s.closed g = true ∨ g ≤ s.rg.gDone then some ccLATE
  else if 1024 ≤ s.waitingCmds.length ∨ 256 ≤ (s.waitingCmds.filter fun x => x.hdr.src == src).length then some ccBUSY
  else none

/-- PENDING of the registrar and of every source follows the list. -/
def State.showCmds (s : State) : State :=
  forAll (List.range 66) (s.put RG_STATUS_PENDING s.waitingCmds.length) fun s i =>
    let n := (s.waitingCmds.filter fun x => x.hdr.src == i).length
    if s.get (CMD_SRC_PENDING i) = n then s else s.put (CMD_SRC_PENDING i) n

/-- The command ledger's next entry takes a record that was read. -/
def State.logRec (s : State) (src g : Nat) (r : CmdRec) : State :=
  let n := s.get RG_STATUS_LOG_NEXT
  let s1 := ((s.put (CLOG0_SRC n) (if src < 66 then src else 127)).put (CLOG0_OPCODE n) r.opcode).put (CLOG0_CODE n) 0xF
  ((((s1.put (CLOG0_SEQ n) r.seq).put (CLOG0_SIGNED n) 0).put (CLOG1_GRAIN n) g)).put RG_STATUS_LOG_NEXT (n + 1)

/-- A signed command's number becomes the device's counter (R457). -/
def State.takeSeq (s : State) (n : Nat) (r : CmdRec) : State :=
  if r.signed = false then s
  else
    let s1 := s.put (CLOG0_SIGNED n) 1
    if s.nvm.stop = .store then s1 else (s1.put RG_STATUS_SCC r.seq).appendCounter

/-- A record refused for lack of right is counted at its port. -/
def State.countNoRight (s : State) (src : Nat) : State := if src < 2 then s.bump (HP_COUNT_NO_RIGHT src) else s

/-- A command joins those that wait. -/
def State.pendCmd (s : State) (x : PCmd) : State :=
  { s with rg := { s.rg with pend := s.rg.pend ++ [x], arrivals := s.rg.arrivals + 1 } }

/-- A record that passes every check waits for its grain. -/
def State.waitCmd (s : State) (h : CmdHdr) (r : CmdRec) : State :=
  (s.pendCmd (PCmd.mk h (s.rank h.src) s.rg.arrivals r.args r.extra)).showCmds

/-- A command's signature did not verify. -/
def State.sigFails (s : State) : State := (s.raise SEC_EVENTS_SIG_FAIL).bump SEC_COUNT_VERIFY_FAIL

/-- A record that fails one of checks 1 to 3 completes, and what is counted of it is counted; `badSig` says that its signature does
not verify (R444, R502). -/
def State.refuseRec (s : State) (h : CmdHdr) (c : Nat) (badSig : Bool) : State :=
  (when (c == ccNORIGHT) (·.countNoRight h.src) (when badSig State.sigFails s)).complete h c 0

/-- The registrar reads a record: the ledger, the checks in order, and its place among the commands that wait (R462). -/
def State.takeRec (s : State) (src : Nat) (r : CmdRec) : State :=
  let g := s.effGrain r
  let n := s.get RG_STATUS_LOG_NEXT
  let h : CmdHdr := ⟨src, recNum r.octs 4 4, r.opcode, r.seq, g, n⟩
  let s1 := s.logRec src g r
  match cmdRow r.opcode with
  | none => s1.complete h ccUNSUPPORTED 0
  | some row =>
    match s.checkFirst src row r with
    | some c => s1.refuseRec h c (c == ccBADSIG && r.signed && !s.cmdSigOk (row.level == lvOWNER) (s.cmdMsg r) (r.ext.take 64))
    | none =>
      match s.checkLast src row r with
      | some c => (s1.takeSeq n r).complete h c 0
      | none => (s1.takeSeq n r).waitCmd h r

/-! ### Doorbells (R442, R450, R455) -/

/-- `new` does not lie behind `cur`, modulo 2^32 over a half range. -/
def ahead (cur new : Nat) : Bool := decide ((new + 2 ^ 32 - cur % 2 ^ 32) % 2 ^ 32 < 2 ^ 31)

/-- The record at CMD_READ in the command ring of 2^CMD_LOG2 records, with the extension that it names (R455 to R457); none
where host memory does not answer. -/
def State.fetchRec (s : State) (p : Nat) (mem : List HRead) : Option CmdRec :=
  let n := s.get (HP_PTR_CMD_READ p) % 2 ^ s.get (HP_RINGCFG_CMD_LOG2 p)
  match hostOctets mem p (s.get (HP_CMD_BASE_ADDR p) * 64 + 64 * n) 64 with
  | none => none
  | some o =>
    let r : CmdRec := ⟨o, []⟩
    if r.signed = true ∨ r.extLen ≠ 0 then some ⟨o, (hostOctets mem p (recNum o 56 8) (64 + r.extLen)).getD []⟩ else some r

/-- Records are read up to CMD_TAIL - 1, while the completion ring has room (R455, R458). -/
def State.readRecs (s : State) (p : Nat) (mem : List HRead) : Nat → State
  | 0 => s
  | n + 1 =>
    if (s.port p).waiting ≠ [] ∨ s.cplRoom p = false then s
    else match s.fetchRec p mem with
      | none => s
      | some r =>
        let s1 := (s.put (HP_PTR_CMD_READ p) ((s.get (HP_PTR_CMD_READ p) + 1) % 2 ^ 32)).bump (HP_COUNT_CMDS p)
        (s1.takeRec p r).readRecs p mem n

/-- COMMAND_DOORBELL with its CMD_TAIL and CPL_HEAD; `mem` is what host memory answers where the registrar reads records and
their extensions. -/
def execCommandDoorbell (port tail cplHead : Nat) (mem : List HRead) (s : State) : Host.Outcome State Fault Refusal :=
  if 2 ≤ port ∨ s.portState port ≠ 1 ∨ s.mode < mMUSTER ∨ s.get (HP_RINGCFG_EN port) = 0 then ok s
  else
    let q := s.port port
    let t := if ahead q.cmdTail tail then tail % 2 ^ 32 else q.cmdTail
    let c := if ahead q.cplHead cplHead then cplHead % 2 ^ 32 else q.cplHead
    let s1 := (s.setPort port { q with cmdTail := t, cplHead := c }).flushCpl port q.waiting.length
    ok (s1.readRecs port mem ((t + 2 ^ 32 - s.get (HP_PTR_CMD_READ port)) % 2 ^ 32))

/-- GRIWANO_COMMAND: a command packet holds the record, then the extension (R459). -/
def execGriwanoCommand (p : Pkt) (s : State) : Host.Outcome State Fault Refusal :=
  if s.hasCtrl p 1 = false then ok s
  else
    let s1 := s.takeInbox 8 p
    let o := p.payload.flatMap Word.octets
    if o.length < 64 then ok s1 else ok (s1.takeRec (s1.srcOfDev p.src) ⟨o.take 64, o.drop 64⟩)

/-- ACK_DOORBELL of a ring: PAN sequence and epoch in `data`, and the consumer record as it is read then: bytes 0 to 7 and 8 to
15, none when it cannot be read (R450, R469). -/
def execAckDoorbell (port ring data : Nat) (cons : Option (Nat × Nat)) (s : State) : Host.Outcome State Fault Refusal :=
  if 2 ≤ port ∨ s.portState port ≠ 1 ∨ 8192 ≤ ring then ok s
  else if s.level port < lvOPERATOR then ok (s.bump (HP_COUNT_NO_RIGHT port))
  else
    let ts := (s.liveTargets ring).filter fun t => (s.targetOf ring t).1 == port + 1
    if ts = [] then ok (s.bump (HP_COUNT_DOORBELL_BAD port))
    else
      let s1 := forAll ts s fun s t => s.ackRing ring t (bitsOf data 0 48) (bitsOf data 48 16)
      match cons with
      | some c => if s.get (LAND_STATE_EN port ring) = 1 then ok (s1.consume port ring c.1) else ok s1
      | none => ok s1

/-! ### Landing rings (R447, R448, R469) -/

/-- LAND_REG at its grain: the consumer record gives WRITTEN and CONSUMED; octets that cannot be read are free values. -/
def State.doLandReg (s : State) (c : CmdHdr) (r k vec base cons prod : Nat) (mem : List HRead) : State :=
  s.inMode c 6 fun s =>
    let p := c.src
    if s.landOk p r k vec base = false then s.complete c ccBADARG 0
    else
      let x := match hostOctets mem p cons 8 with
        | some o => (ofOctets o, s)
        | none => s.draw 64
      let s1 := ((x.2.put (LAND_ADDR_ADDR p r 0) base).put (LAND_ADDR_ADDR p r 1) cons).put (LAND_ADDR_ADDR p r 2) prod
      let s2 := ((s1.put (LAND_STATE_EN p r) 1).put (LAND_STATE_SLOTS_LOG2 p r) k).put (LAND_STATE_VECTOR p r) vec
      let s3 := (s2.setLand p r ⟨x.1, x.1, false⟩).showLand p r
      (forAll ((s3.liveTargets r).filter fun t => (s3.targetOf r t).1 == p + 1) s3 fun s t => s.resend r t).complete c ccDONE 0

def execLandReg (c : CmdHdr) (ring k vec base cons prod : Nat) (mem : List HRead) (s : State) : Host.Outcome State Fault Refusal :=
  ok (s.doLandReg c ring k vec base cons prod mem)

/-- LAND_DROP at its grain: no more products are written; the target stays bound. -/
def State.doLandDrop (s : State) (c : CmdHdr) (r : Nat) : State :=
  s.inMode c 6 fun s =>
    let p := c.src
    (if p < 2 ∧ s.get (LAND_STATE_EN p r) = 1 then
      (s.put (LAND_STATE_EN p r) 0).setLand p r { s.land p r with stopped := true }
     else s).complete c ccDONE 0

def execLandDrop (c : CmdHdr) (ring : Nat) (s : State) : Host.Outcome State Fault Refusal := ok (s.doLandDrop c ring)

/-! ### Ports (R438, R439, R443) -/

/-- PORT_UP with its link: 1 Gen 2, 2 Gen 3, 3 Gen 4. A port that was DOWN shows the host its PCIe function (R440), resends, and
its waiting completions are written. -/
def execPortUp (port link : Nat) (s : State) : Host.Outcome State Fault Refusal :=
  if 2 ≤ port ∨ s.portState port = 2 ∨ s.mode < mMUSTER ∨ link = 0 ∨ 3 < link then ok s
  else
    let s1 := s.put (HP_STATUS_LINK port) link
    if s.portState port = 1 then ok s1
    else
      let s2 := (s1.put (HP_STATUS_STATE port) 1).emitOut (.pcie port 0x1F5D s.part.pcieId 0x118000)
      let s3 := forAll (s2.targetsTo (port + 1) 0) s2 fun s t => s.resend t.1 t.2
      ok (s3.flushCpl port (s3.port port).waiting.length)

/-- Port p is deaccessioned, a single-unit fault whose work its rings' other targets take up. -/
def State.losePort (s : State) (p : Nat) : State :=
  let u : UnitId := ⟨dcKEEPER, 8, p⟩
  let s1 := (s.beginFault u 0x33).deaccUnit u 0x33 0 0 0
  (((s1.put (HP_STATUS_STATE p) 2).put (HP_STATUS_LINK p) 0).retargetAll).recoverFault u

/-- PORT_DOWN: a link retrain (`lost` false) or tunnel loss charges the bucket; past ERR_THRESH, or when the port fails its
self-test, the port is deaccessioned. -/
def execPortDown (port : Nat) (lost testFail : Bool) (s : State) : Host.Outcome State Fault Refusal :=
  if 2 ≤ port ∨ s.portState port = 2 ∨ s.mode < mMUSTER then ok s
  else if testFail then ok (s.losePort port)
  else if s.portState port ≠ 1 then ok s
  else
    let s1 := s.charge ⟨dcKEEPER, 8, port⟩ 0 (HP_STATUS_BUCKET port)
    if s.get (HP_CFG_ERR_THRESH port) < s.get (HP_STATUS_BUCKET port) + 1 then ok (s1.losePort port)
    else if lost then ok ((s1.put (HP_STATUS_STATE port) 0).put (HP_STATUS_LINK port) 0)
    else ok s1

/-- MSIX_HOLDOFF: IRQ_HOLDOFF_US after its signal a vector may be signalled again, and is when events merged meanwhile. -/
def execMsixHoldoff (port vec : Nat) (s : State) : Host.Outcome State Fault Refusal :=
  let q := s.port port
  if 2 ≤ port ∨ q.holdoff.contains vec = false then ok s
  else
    let s0 := s.advance (s.timer (tkHold port vec) + s.get (HP_CFG_IRQ_HOLDOFF_US port) * tUs)
    let s1 := s0.setPort port { q with holdoff := q.holdoff.erase vec, merged := q.merged.erase vec }
    ok (if q.merged.contains vec then s1.msix port vec else s1)

end Sys2Proof.Machine
end

