-- ==== Sys2Proof/Machine/Interval.lean ====
section
/-! DEFINITION. INTERVAL_START: what happens at a consignment boundary, and the consignment that opens there (R83, R109, R117 to
R119, R124, R130, R131, R362, R516, R541, R549, R551). -/

namespace Sys2Proof.Machine

open Reg

/-! ### Inputs that leave, return or are removed -/

/-- Slots that narrowing removes from consignments (R549, R551). -/
def State.narrowed (s : State) (d : Nat) : List Nat :=
  setBitsOf (s.get (NARROW0_SLOTS d)) 64 ++ (setBitsOf (s.get (NARROW1_SLOTS d)) 64).map (· + 64)

/-- Slots that narrowing removes from the next boundary on: those of logical cores without a core, every enabled slot when no
core is left (R549, R552), and those of a lost die whose partner runs its work (R138). -/
def State.narrowDue (s : State) (d : Nat) : List Nat :=
  let g := (s.fc d).gone
  if s.flt.hosted.contains d then s.enabledSlots d
  else if g = [] then []
  else if (List.range 18).all fun c => s.get (CORE_CFG_EN d c) == 0 then s.enabledSlots d
  else g.flatMap (s.dealt d)

/-- Narrowing of die d from folio k on: the masks, NARROW when slots were removed, and the beam sets of every die. -/
def State.narrow (s : State) (k d : Nat) : State :=
  let want := s.narrowDue d
  let old := s.narrowed d
  if slotMask want 0 = slotMask old 0 ∧ slotMask want 64 = slotMask old 64 then s
  else
    let s1 := ((s.put (NARROW0_SLOTS d) (slotMask want 0)).put (NARROW1_SLOTS d) (slotMask want 64)).put (FLT_STATUS_NARROWED d)
      (b2n (want ≠ []))
    let more := want.filter fun i => !old.contains i
    let s2 := forAll more s1 fun s i => s.beDrop d i k
    let s3 := forAll (old.filter fun i => !want.contains i && s.get (INPUT_MAP_DEACC d i) == 0) s2 fun s i => s.beJoin d i k
    if more = [] then s3
    else (s3.raise (FLT_EVENTS_NARROW d)).emit 0x04 d 0 0 (slotMask want 0) (slotMask want 64)

/-- Input slot i of die d is deaccessioned at the boundary (R83, R109): the fault record, its fade and its place in beam sets. -/
def State.leaveInput (s : State) (k d i : Nat) : State :=
  let u : UnitId := ⟨d, 2, i⟩
  let s1 := { s with flt := { s.flt with dead := if s.flt.dead.contains u then s.flt.dead else s.flt.dead ++ [u] } }.appendFault u 1 0
  (((s1.put (INPUT_MAP_DEACC d i) 1).raise (FLT_EVENTS_DEACC d)).abandonFade d i).beDrop d i k

/-- The inputs that R83 deaccessions at this boundary; the faults of their lanes are closed (R538). -/
def State.leaveInputs (s : State) (k d : Nat) : State :=
  let s1 := forAll (s.ing d).leaving s fun s i => s.leaveInput k d i
  let s2 := s1.setIng d { s1.ing d with leaving := [] }
  forAll (s2.flt.opened.filter fun f => f.die == d && f.kind == 1) s2 fun s f => s.recoverFault ⟨f.die, f.kind, f.unit⟩

/-- Reinstated inputs whose link is in DATA rejoin at this boundary (R541). -/
def State.rejoinInputs (s : State) (k : Nat) : State :=
  let now := s.flt.rejoin.filter fun u => u.kind == 2 && s.linkState u.die (s.get (INPUT_MAP_LINK u.die u.idx)) == lkDATA
  forAll now { s with flt := { s.flt with rejoin := s.flt.rejoin.filter fun u => !now.contains u } } fun s u =>
    let s1 := (s.put (INPUT_MAP_DEACC u.die u.idx) 0).discardHist u.die u.idx
    if (s.narrowed u.die).contains u.idx then s1 else s1.beJoin u.die u.idx k

/-! ### The end of the interval that ran -/

/-- The highest folio index recorded in the epoch (R119). -/
def State.recorded (s : State) (k : Nat) : State := forAll s.dies s fun s d => s.setAcu d { s.acu d with highest := some k }

/-- The programme's first recorded interval is that of folio k, on die d (R242, R268, R293). -/
def State.firstStart (s : State) (k d : Nat) : State :=
  let n := s.siOf d k
  let s1 := (((s.cteStart d k).galStart d n).ledStart d n true).beStart d k
  forAll ((List.range 18).filter fun c => s.get (CORE_CFG_EN d c) == 1) s1 fun s c =>
    let q := { s.core d c with st := 1, feedFolio := k, feedIn := 0 }
    (s.setCore d c q).setSave d (s.logicalOf d c) q

/-- A run goes on at folio k after one whose last record was folio `last`. -/
def State.goOn (s : State) (k d last : Nat) : State :=
  (((s.cteResume d k last).galResume d).ledStart d (s.siOf d k) false).beResume d

/-- The running programme's first recorded interval after a start or resumption. -/
def State.beginRun (s : State) (k : Nat) : State :=
  if s.nvm.begins = 0 then s
  else
    let s1 := forAll s.dies s fun s d =>
      match (if s.nvm.begins = 1 then none else (s.acu d).highest) with
      | none => s.firstStart k d
      | some last => s.goOn k d last
    { s1 with nvm := { s1.nvm with begins := 0 } }

/-- A consignment of an interval that lay wholly outside OBSERVE and CURTAILED leaves nothing. -/
def State.dropCons (s : State) (c : Cons) : State :=
  let s1 := { s with acc := { s.acc with cons := s.acc.cons.filter fun x => x.k != c.k } }.setMarkOf c.k .reset
  forAll c.recs s1 fun s r => s.showAcu r.die

/-- The slot is taken: the record that it held is gone. A pinned slot is met (R131). -/
def State.takeSlot (s : State) (r : RecSt) : State :=
  match r.slot with
  | none => s.raise (ACU_EVENTS_PINNED r.die)
  | some sl =>
    let q := s.acu r.die
    (s.setAcu r.die { q with dir := q.dir.filter fun x => x.slot != some sl }).put (JNL_PTR_HEAD r.die)
      ((sl + 1) % max 1 (s.get (JNL_REGION_SLOTS r.die)))

/-- A consignment that began outside OBSERVE and CURTAILED is recorded after all: its records take their slots, and the words kept
back go to the journal (R118). -/
def State.keepCons (s : State) (c : Cons) : State :=
  let s1 := forAll c.recs s fun s r => forAll r.early (s.takeSlot r) fun s e => s.wrMem r.die e.1 e.2
  s1.modCons c.k fun c => { c with outside := false, recs := c.recs.map fun r => { r with early := [] } }

/-- The running interval ends: reasons MODE and TIME are known (R118 to R120, R124). -/
def State.closeInterval (s : State) : State :=
  match s.acc.cur with
  | none => s
  | some p =>
    match s.acc.cons.find? fun c => c.k == p with
    | none => s
    | some c =>
      if c.outside = true ∧ s.accepts = false then s.dropCons c
      else
        let bits := (if c.outside || s.acc.modeBroke then 2 ^ rsMODE else 0) + (if s.acc.timeBroke then 2 ^ rsTIME else 0)
        let s1 := if c.outside then ((s.beginRun p).keepCons c).recorded p else s
        s1.modCons p fun c => { c with reasons := c.reasons ||| bits }

/-! ### The interval that begins -/

/-- The record of die d in a consignment that opens (R117, R131). -/
def State.newRec (s : State) (d : Nat) : RecSt :=
  let h := s.get (JNL_PTR_HEAD d)
  let pin := s.slotPinned d h
  let out := s.narrowed d
  ⟨d, if pin then none else some h, (s.liveSlots d).filter fun i => !out.contains i, [], [], [], if pin then 2 ^ rsPINNED else 0,
    false, [], []⟩

/-- Reasons known as the interval begins (R124). -/
def State.startReasons (s : State) : Nat :=
  (if s.pwr.retaining then 2 ^ rsMODE else 0) + (if s.timeQual then 0 else 2 ^ rsTIME) +
    (if s.rg.holdAcc || !s.dies.all s.resOk then 2 ^ rsHOLD else 0) + (if 2 ^ 48 - 1 < s.nvm.nextCan then 2 ^ rsEXHAUSTED else 0)

/-- An enabled input of the package takes no part in the consignment (R347, PART). -/
def State.partMissing (s : State) (rs : List RecSt) : Bool :=
  rs.any fun r => (s.enabledSlots r.die).any fun i => !r.inputs.contains i

/-- Consignment k opens. One that begins outside OBSERVE and CURTAILED is kept only if its interval ends there, and takes its slots
only then. -/
def State.openCons (s : State) (k : Nat) : State :=
  let rs := s.dies.map s.newRec
  let s1 := if s.accepts then forAll rs s State.takeSlot else s
  let c : Cons := ⟨k, 0, rs, s.startReasons, !s.accepts⟩
  let fl := s.flagsNow ||| (if s.partMissing rs then 64 else 0)
  let s2 := { s1 with acc := { s1.acc with cons := s1.acc.cons ++ [c] } }.setMarkOf k { s1.mark k with flags := (s1.mark k).flags ||| fl }
  forAll s2.dies s2 State.showAcu

/-- Folio k may be recorded: a programme runs, and k lies above every index of the epoch (R118, R119). -/
def State.mayRecord (s : State) (k : Nat) : Bool :=
  s.nvm.progOn && !s.nvm.switching && s.acc.cons.all (fun c => decide (c.k < k)) &&
    s.dies.all fun d => match (s.acu d).highest with
      | some h => decide (h < k)
      | none => true

/-- The package's part of a boundary: CURTAILED ends with its last condition (R516), with the check of R500. -/
def State.uncurtail (s : State) : State :=
  if s.mode = mCURTAILED ∧ s.flt.conds = [] then (s.setMode mOBSERVE).burnOwner [] else s

/-- A stop that was asked for, by command or by a program fault, takes effect (R118, R461, R543). -/
def State.stopHere (s : State) (last : Nat) : State :=
  if s.nvm.progOn = true ∧ (s.nvm.stopDue || s.rg.running.any fun r => r.kind == .progStop) = true then s.suspend last else s

/-- The interval of folio k begins next: it follows the one that runs, or is the first whose start has not passed. -/
def State.nextInterval (s : State) (k : Nat) : Bool :=
  decide (k < 2 ^ 48) && s.acc.cur != some k && decide (s.now < s.gridTime 0 (4096 * (k + 1))) &&
    ((k != 0 && s.acc.cur == some (k - 1) && !s.acc.timeBroke) ||
      (decide (s.now ≤ s.gridTime 0 (4096 * k)) && (k == 0 || decide (s.gridTime 0 (4096 * (k - 1)) ≤ s.now))))

/-- INTERVAL_START: the boundary at which the interval of folio k begins. -/
def State.startInterval (s : State) (k : Nat) : State :=
  let s0 := s.advance (s.gridTime 0 (4096 * k))
  let last := (s.acc.cur).getD (k - 1)
  let s1 := s0.closeInterval
  let s2 := { s1 with acc := { s1.acc with cur := none, modeBroke := false, timeBroke := false } }
  let s3 := (forAll s2.dies s2 fun s d => s.leaveInputs k d).rejoinInputs k
  let s4 := ((forAll s3.dies s3 fun s d => s.narrow k d).uncurtail).stopHere last
  let s5 := if s4.mayRecord k then
      if s4.accepts then ((s4.beginRun k).openCons k).recorded k else s4.openCons k
    else s4
  { s5 with acc := { s5.acc with cur := some k } }

def execIntervalStart (k : Nat) (s : State) : Host.Outcome State Fault Refusal :=
  if s.runs = true ∧ s.nextInterval k = true then ok (s.startInterval k) else ok s

end Sys2Proof.Machine
end

