-- ==== Sys2Proof/Machine/Power.lean ====
section
/-! DEFINITION. Modes, rails and wakes: RETAIN, DORMANT, resets, the always-on island's comparators and the wake sequence (R516
to R521, R526 to R531, R534). -/

namespace Sys2Proof.Machine

open Reg

/-! ### Rails (R520, R528) -/

/-- The rails that a wake brings up, in wake order. -/
def wakeRails (fromRetain : Bool) : List Nat := if fromRetain then [0, 1, 2, 3, 4] else [0, 1, 2, 3, 4, 5, 6, 7]

/-- The operating setting of a rail with an AVSBus; 0 for a fixed rail. -/
def State.railMv (s : State) (x : Nat) : Nat :=
  match x with
  | 0 => (s.coreTrim).get (RAIL_SET_MV 0)
  | 1 => 800
  | 2 => s.galMv
  | _ => 0

/-- A rail is enabled at its operating value. VDD_CORE starts from 0.80 V, to which its trim is added. -/
def State.enableRail (s : State) (x : Nat) : State :=
  let s1 := (s.put (RAIL_EN x) 1).put (RAIL_PG x) 0
  let s2 := if x = 0 then s1.put (RAIL_SET_MV 0) 800 else s1
  let mv := s2.railMv x
  (s2.put (RAIL_SET_MV x) mv).emitOut (.railOn x mv)

def State.railUp (s : State) (x : Nat) : State := (s.enableRail x).put (RAIL_PG x) 1

/-- The rails as RETAIN has them. -/
def State.railsRetain (s : State) : State :=
  let s1 := forAll [4, 3, 2] s State.railDown
  let s2 := (s1.put (RAIL_SET_MV 1) 600).emitOut (.railOn 1 600)
  (s2.put (RAIL_SET_MV 0) 550).emitOut (.railOn 0 550)

/-- The rails return to the state of the mode the wake started from. -/
def State.railsBack (s : State) (fromRetain : Bool) : State := if fromRetain then s.railsRetain else s.railsDormant

/-! ### The last-wake record (R529) -/

/-- The source that comparator k records; 8 stands for PORST_N. -/
def wakeSource (k : Nat) : Nat := [9, 0, 6, 7, 3, 4, 5, 8, 2].getD k 0

/-- The record of a wake that begins. -/
def State.recordWake (s : State) (src mask : Nat) : State :=
  let t := packTime s.now
  let s1 := ((((s.put LAST_WAKE0_SOURCE src).put LAST_WAKE0_FROM s.mode).put LAST_WAKE0_WAKE_FAIL 0).put LAST_WAKE0_ATTEMPTS 1).put
    LAST_WAKE0_FAIL_ITEM 0
  ((s1.put LAST_WAKE0_PENDING mask).put LAST_WAKE1_TIME_LO t).put LAST_WAKE2_TIME_HI (t / 2 ^ 72)

/-- A wake begins: the islands at OP3, and the first rail. -/
def State.beginWake (s : State) (src mask : Nat) : State :=
  let fr := s.mode == mRETAIN
  let s1 := (s.recordWake src mask).islandsLow
  ({ s1 with pwr := { s1.pwr with wake := some ⟨1, 0, false, fr, src == 2⟩ } }).enableRail 0

/-- The AOI's mask of comparators that occurred. -/
def State.pendBit (s : State) (k : Nat) : State := s.putBit LAST_WAKE0_PENDING k true

/-- A condition that waits: TEMP blocks wakes, or RETAIN is being entered. -/
def State.holdWake (s : State) (k : Nat) : State :=
  let s1 := { s with pwr := { s.pwr with held := if s.pwr.held.contains k then s.pwr.held else s.pwr.held ++ [k] } }
  if k < 8 then s1.pendBit k else s1

/-- The conditions held begin their wake, the lowest naming it. -/
def State.releaseHeld (s : State) : State :=
  match s.pwr.held with
  | [] => s
  | k :: ks =>
    let low := ks.foldl min k
    let mask := ((k :: ks).filter fun x => decide (x < 8)).foldl (fun m x => m ||| 2 ^ x) 0
    ({ s with pwr := { s.pwr with held := [] } }).beginWake (wakeSource low) mask

/-- A wake condition whose action is WAKE (R526, R529, R534): it begins a wake in DORMANT and RETAIN, is held while TEMP
blocks wakes or RETAIN is being entered, and else only shows in the mask. Conditions of one instant are one wake, named by the
lowest. While PWRDN_N is low every wake is ignored, and while PORST_N is low nothing happens (R534). -/
def State.wakeOn (s : State) (k : Nat) : State :=
  if s.pwr.powered = false ∨ s.pwr.pwrdnLow = true ∨ s.pwr.porstLow = true then s
  else if s.mode ≠ mDORMANT ∧ s.mode ≠ mRETAIN then if s.pwr.retaining then s.holdWake k else s
  else
    match s.pwr.wake with
    | none => if s.pwr.tempBlock then s.holdWake k else s.beginWake (wakeSource k) (if k < 8 then 2 ^ k else 0)
    | some w =>
      let s1 := if k < 8 then s.pendBit k else s
      if w.attempt = 1 ∧ w.rail = 0 ∧ w.waiting = false ∧ w.porst = false ∧ s.get LAST_WAKE1_TIME_LO = packTime s.now % 2 ^ 72 ∧ k < 8 then
        s1.put LAST_WAKE0_SOURCE (wakeSource (lowBit (s1.get LAST_WAKE0_PENDING)))
      else s1

/-- A condition of comparator k with the action its register gives. -/
def State.condition (s : State) (k : Nat) : State :=
  if s.get (AOI_CMP_ACTION k) = 1 then s.wakeOn k
  else if s.pwr.powered = true ∧ s.pwr.pwrdnLow = false ∧ s.pwr.porstLow = false ∧ (s.mode = mDORMANT ∨ s.mode = mRETAIN ∨ s.pwr.retaining = true) then s.pendBit k
  else s

/-- WAKE_PIN. -/
def execWakePin (s : State) : Host.Outcome State Fault Refusal := ok (s.condition 4)

/-- SIDEBAND_WAKE on HPA (0) or HPB (1). -/
def execSidebandWake (port : Nat) (s : State) : Host.Outcome State Fault Refusal :=
  if port = 0 then ok (s.condition 5) else if port = 1 then ok (s.condition 6) else ok s

/-- ACTIVITY_WAKE: activity resumes on a PPS input (comparator 2) or a REF input (3). -/
def execActivityWake (k : Nat) (s : State) : Host.Outcome State Fault Refusal :=
  if k = 2 ∨ k = 3 then ok (s.condition k) else ok s

/-! ### The wake sequence (R529, R530) -/

/-- LO_IN is there and RETAIN's wake ends in ALIGN: fast retraining, time from the AOI, links from SYNC, targets resend. -/
def State.wakeRetain (s : State) (env : MusterEnv) : State :=
  let s1 := { s with pwr := { s.pwr with wake := none, dramSr := false } }
  let s2 := forAll env.dimms s1 fun s e =>
    if s.present e.die = true ∧ e.chan < 2 ∧ s.get (DRC_CH_CFG_EN e.die e.chan) = 1 then s.train e else s
  let long := decide (s.get PWR_CFG_RETAIN_SET_S * tSec < s.now - s.pwr.retainEntry)
  let s3 := if long = true ∧ s.follows = false then { s2 with te := { s2.te with timeSet := false } } else s2
  let s4 := s3.enterAlign
  (forAll s4.dies s4 fun s d => s.ingestStart d (s.badLinks d)).resendEvery

/-- A wake is complete: MUSTER from DORMANT and after PORST_N, ALIGN from RETAIN. -/
def State.wakeDone (s : State) (fromRetain porst : Bool) (env : MusterEnv) : State :=
  let s1 := { s with pwr := { s.pwr with wake := none } }.loReturns
  if fromRetain = true ∧ porst = false then s1.wakeRetain env
  else { s1 with pwr := { s1.pwr with dramSr := false } }.muster env 2

/-- A wake fails for good: the record, WAKE_FAIL and ALERT_N; the mode stays. -/
def State.wakeFails (s : State) (fromRetain : Bool) (item : Nat) : State :=
  let s1 := ({ s with pwr := { s.pwr with wake := none } }).railsBack fromRetain
  let s2 := ((s1.put LAST_WAKE0_WAKE_FAIL 1).put LAST_WAKE0_ATTEMPTS 4).put LAST_WAKE0_FAIL_ITEM item
  ((s2.raise PWR_EVENTS_WAKE_FAIL).emit 0x18 dcPACKAGE 0 0 (s2.rd LAST_WAKE0).toNat 0).alert

/-- RAIL_POWER_GOOD: the rail that the wake waits for comes up after `ms`, and the next one is enabled; after the last, the
oscillator is waited for. -/
def execRailPowerGood (rail ms : Nat) (s : State) : Host.Outcome State Fault Refusal :=
  match s.pwr.wake with
  | none => ok s
  | some w =>
    if w.waiting = true ∨ w.rail ≠ rail ∨ 8 ≤ rail ∨ 20 < ms then ok s
    else
      let s1 := ((s.advance (s.now + ms * tMs)).put (RAIL_PG rail) 1).put (RAIL_PG_MS rail) ms
      match ((wakeRails w.fromRetain).find? fun x => decide (rail < x)) with
      | some x => ok ({ s1 with pwr := { s1.pwr with wake := some { w with rail := x } } }.enableRail x)
      | none => ok { s1 with pwr := { s1.pwr with wake := some { w with rail := 8 } } }

/-- RAIL_TIMEOUT: 20 ms without the rail's PGx, or 50 ms without LO_IN. -/
def execRailTimeout (s : State) : Host.Outcome State Fault Refusal :=
  match s.pwr.wake with
  | none => ok s
  | some w =>
    if w.waiting then ok s
    else
      let s1 := s.advance (s.now + (if w.rail = 8 then 50 else 20) * tMs)
      if 4 ≤ w.attempt then ok (s1.wakeFails w.fromRetain w.rail)
      else ok ({ s1 with pwr := { s1.pwr with wake := some { w with waiting := true } } }.railsBack w.fromRetain)

/-- WAKE_RETRY: the next attempt, 100 ms after the failure. -/
def execWakeRetry (s : State) : Host.Outcome State Fault Refusal :=
  match s.pwr.wake with
  | none => ok s
  | some w =>
    if w.waiting = false then ok s
    else
      let s1 := (s.advance (s.now + 100 * tMs)).put LAST_WAKE0_ATTEMPTS (w.attempt + 1)
      ok ({ s1 with pwr := { s1.pwr with wake := some { w with attempt := w.attempt + 1, rail := 0, waiting := false } } }.enableRail 0)

/-- LO_IN_ACTIVITY: the oscillator's activity arrives. It completes a wake that waits for it; else LO_IN returns after a
loss. -/
def execLoInActivity (env : MusterEnv) (s : State) : Host.Outcome State Fault Refusal :=
  match s.pwr.wake with
  | some w => if w.waiting = false ∧ w.rail = 8 ∧ s.pwr.porstLow = false then ok (s.wakeDone w.fromRetain w.porst env) else ok s
  | none => if 2 ≤ s.mode then ok s.loReturns else ok s

/-- A start that brings its rails up itself: `fail` is the rail (8: the oscillator) that stays away in every attempt. -/
def State.wakeAtOnce (s : State) (fromRetain porst : Bool) (env : MusterEnv) (fail : Option Nat) : State :=
  let s1 := s.islandsLow
  match fail with
  | none => (forAll (wakeRails fromRetain) s1 State.railUp).wakeDone fromRetain porst env
  | some x => (s1.advance (s1.now + (4 * (if x = 8 then 50 else 20) + 300) * tMs)).wakeFails fromRetain x

/-! ### Power and PORST_N (R516, R517, R526, R534) -/

/-- POWER_APPLIED: the first application of power, or its return after a loss. -/
def execPowerApplied (env : MusterEnv) (fail : Option Nat) (s : State) : Host.Outcome State Fault Refusal :=
  if s.pwr.powered then ok s
  else
    let s1 := { s with pwr := { s.pwr with powered := true } }
    if s.pwr.porstLow then ok s1 else ok ((s1.recordWake 1 0).wakeAtOnce false false env fail)

/-- Acknowledged writes reach the DRAM, and it enters self-refresh (R414, R517). -/
def State.selfRefresh (s : State) : State :=
  let s1 := forAll s.dies s fun s d =>
    let s1 := (s.issueRefreshes d)
    forAll [0, 1] (s1.setDrc d { s1.drc d with queue := [] }) fun s c =>
      if s.get (DRC_CH_STATUS_STATE d c) = 2 ∨ s.get (DRC_CH_STATUS_STATE d c) = 4 then s.put (DRC_CH_STATUS_STATE d c) 3 else s
  { s1 with pwr := { s1.pwr with dramSr := true } }

/-- PORST_N_FALL: the DRAM goes into self-refresh, and every unit but the AOI is held in reset while it stays low: lanes, chains and
tunnels stop with it, and `State.mode` is none in which a unit acts (R517). -/
def execPorstNFall (s : State) : Host.Outcome State Fault Refusal :=
  let hold := fun (s : State) => { s with pwr := { s.pwr with porstLow := true } }
  if s.pwr.powered = true ∧ 2 ≤ s.mode then ok (hold ((s.selfRefresh.ingestStopAll).chainsOff).portsDown) else ok (hold s)

/-- PORST_N_RELEASE: MUSTER, from DORMANT and RETAIN after a wake with source PORST_N. -/
def execPorstNRelease (env : MusterEnv) (fail : Option Nat) (s : State) : Host.Outcome State Fault Refusal :=
  if s.pwr.porstLow = false then ok s
  else
    let s1 := { s with pwr := { s.pwr with porstLow := false } }
    if s.pwr.powered = false then ok s1
    else if 2 ≤ s1.mode then ok ({ s1 with pwr := { s1.pwr with dramSr := false } }.muster env 2)
    else if s.pwr.pwrdnLow then ok s1
    else match s.pwr.wake with
      | some w => ok { s1 with pwr := { s1.pwr with wake := some { w with porst := true } } }
      | none =>
        if s.pwr.tempBlock = true ∧ s.mode = mDORMANT then ok (s1.holdWake 8)
        else ok ((s1.recordWake 2 0).wakeAtOnce (s.mode == mRETAIN) true env fail)

/-- What survives a loss of all power: fuses, flash, the DIMMs' training records and the levels of pins. -/
def State.powerLost (s : State) : State :=
  { State.reset with
    part := s.part, pending := s.pending, now := s.now, draws := s.draws, flash := s.flash, out := s.out, training := s.training,
    sec := { SecSt.reset with slots := s.sec.slots, svn := s.sec.svn, storeInit := s.sec.storeInit, debugLock := s.sec.debugLock },
    csvs := (s.csvs.map fun e => (e.1, { CsvSt.reset with newest := e.2.newest, days := e.2.days })).filter fun e => e.2 != CsvSt.reset,
    csvNext := s.csvNext, csvGen := s.csvGen,
    pwr := { PwrSt.reset with pwrdnLow := s.pwr.pwrdnLow, porstLow := s.pwr.porstLow } }

/-- UV_TRIP: every switched rail goes at once, and the next start is cold. -/
def execUvTrip (s : State) : Host.Outcome State Fault Refusal :=
  if s.pwr.powered = false then ok s
  else
    let m := s.get PWR_MODE_MODE
    let s1 := forAll [0, 1, 2, 3, 4, 5, 6, 7] s fun s x => s.emitOut (.railOff x)
    ok ((((s1.powerLost).put LAST_WAKE0_SOURCE 9).put LAST_WAKE0_FROM m).pendBit 0)

/-! ### DORMANT (R521, R526) -/

/-- PWRDN_N_LOW: low for 1 ms. A held wake is cancelled, and a wake that runs stops. -/
def execPwrdnNLow (s : State) : Host.Outcome State Fault Refusal :=
  let s1 := { s with pwr := { s.pwr with pwrdnLow := true, held := [] } }.putBit AOI_STATUS_LEVEL 7 true
  if s.pwr.powered = false ∨ s.get (AOI_CMP_ACTION 7) < 2 then ok s1
  else if s.mode = mDORMANT then
    match s.pwr.wake with
    | some _ => ok ({ s1 with pwr := { s1.pwr with wake := none } }.railsDormant)
    | none => ok s1
  else ok (s1.enterDormant 1)

/-- PWRDN_N_RISE: a wake, where its action has one. -/
def execPwrdnNRise (s : State) : Host.Outcome State Fault Refusal :=
  let s1 := { s with pwr := { s.pwr with pwrdnLow := false } }.putBit AOI_STATUS_LEVEL 7 false
  if s.get (AOI_CMP_ACTION 7) = 3 then ok (s1.wakeOn 7)
  else if s.pwr.porstLow = false ∧ (s.mode = mDORMANT ∨ s.mode = mRETAIN) then ok (s1.pendBit 7) else ok s1

/-- TEMP_TRIP: junction above TRIP_C. -/
def execTempTrip (junction : Int) (s : State) : Host.Outcome State Fault Refusal :=
  if s.pwr.powered = false ∨ junction ≤ (s.get PWR_CFG_TRIP_C : Int) then ok s
  else
    let s1 := { s with pwr := { s.pwr with tempBlock := true } }.putBit AOI_STATUS_LEVEL 1 true
    if s.mode = mDORMANT then ok s1
    else ok (((s1.raise PWR_EVENTS_TEMP_TRIP).emit 0x19 dcPACKAGE 0 0 (unsigned 72 junction) 0).fatal 3)

/-- TEMP_TRIP_CLEAR: the junction is below TRIP_C - HYST_C, and a wake held for it runs. -/
def execTempTripClear (s : State) : Host.Outcome State Fault Refusal :=
  let s1 := { s with pwr := { s.pwr with tempBlock := false } }.putBit AOI_STATUS_LEVEL 1 false
  if s.mode = mDORMANT ∧ s.pwr.powered = true ∧ s.pwr.wake = none then ok s1.releaseHeld else ok s1

/-- DORMANT at its grain: the completion, the seals of R366, and the entry. -/
def State.doDormant (s : State) (c : CmdHdr) : State :=
  s.inMode c 7 fun s => ((s.complete c ccDONE 0).sealAll.signSeals).enterDormant 0

def execDormant (c : CmdHdr) (s : State) : Host.Outcome State Fault Refusal := ok (s.doDormant c)

/-! ### RETAIN (R519, R520) -/

/-- RETAIN at its grain: the completion first; intervals that have not ended are refused with reason MODE; every ring with
uncovered products seals. -/
def State.doRetain (s : State) (c : CmdHdr) : State :=
  s.inMode c 4 fun s =>
    let s1 := s.complete c ccDONE 0
    ({ s1 with pwr := { s1.pwr with retaining := true }, acc := { s1.acc with modeBroke := true } }.setTimer tkRetain s1.now).sealAll

def execRetain (c : CmdHdr) (s : State) : Host.Outcome State Fault Refusal := ok (s.doRetain c)

/-- The clocks stop for RETAIN (R376, R378, R406): references OFF, the DPLL in HOLDOVER, a follower's servo in TIME_HOLD. -/
def State.clocksRetain (s : State) : State :=
  let s1 := if s.get RSC_STATUS_STATE = dpACQUIRE ∨ s.get RSC_STATUS_STATE = dpLOCKED then s.enterHoldover else s
  let s2 := forAll (List.range 20) s1 fun s r => if s.refState r = rfOFF then s else (s.put (REF_STATUS_STATE r) rfOFF).setRef r .reset
  let s3 := ({ s2 with rsc := { s2.rsc with target := none } }).put RSC_STATUS_SWITCHING 0
  when (s3.follows && s3.get TE_STATUS_SERVO != svHOLD) State.timeHold s3

/-- Steps 3 to 5 of R519; the interval that runs is refused with reason MODE. -/
def State.quiesce (s : State) : State :=
  let s0 := match s.acc.cur with
    | some k => s.modCons k fun c => { c with reasons := c.reasons ||| 2 ^ rsMODE }
    | none => s
  let s0 := { s0 with acc := { s0.acc with cur := none } }
  let s1 := (forAll s0.chainsOf s0 State.chainOff).clocksRetain
  let s2 := forAll s1.dies s1 fun s d => (s.ingestStop d).csvStop d
  let s3 := s2.selfRefresh.lockDebug.railsRetain.portsDown
  ({ s3 with pwr := { s3.pwr with retaining := false, retainEntry := s3.now } }).setMode mRETAIN

/-- How long chains with packets unacknowledged wait for acknowledgements before they go OFF (R227). -/
def State.ackWait (s : State) : Nat :=
  (s.chainsOf.filter fun k => s.chState k == csACTIVE && (s.chain k).replay != []).foldl
    (fun m k => max m (s.get (GWL_TIMERS_REPLAY_TO_US (kDie k)) * tUs)) 0

/-- RETAIN_QUIESCE: every SEAL is committed, and acknowledgements have been waited for. A wake that came meanwhile runs at once (R534). -/
def execRetainQuiesce (s : State) : Host.Outcome State Fault Refusal :=
  if s.pwr.retaining = true ∧ s.accepts = true ∧ (s.sec.queue.any fun q => match q with
      | .sealRing _ _ _ _ => true
      | _ => false) = false then ok (s.advance (s.timer tkRetain + s.ackWait)).quiesce.releaseHeld
  else ok s

/-! ### Warm resets (R516) -/

/-- WARM_RESET at its grain. -/
def State.doWarmReset (s : State) (c : CmdHdr) (env : MusterEnv) : State :=
  s.inMode c 6 fun s => (s.complete c ccDONE 0).muster env 1

def execWarmReset (c : CmdHdr) (env : MusterEnv) (s : State) : Host.Outcome State Fault Refusal := ok (s.doWarmReset c env)

/-- REGISTRAR_WATCHDOG. -/
def execRegistrarWatchdog (env : MusterEnv) (s : State) : Host.Outcome State Fault Refusal :=
  if s.runs then ok (s.muster env 0) else ok s

end Sys2Proof.Machine
end

