-- ==== Sys2Proof/Machine/Grain.lean ====
section
/-! DEFINITION. Grains: the pending commands in order, conflicts, and the steps of device time that skip grains (R391, R398,
R463 to R468). -/

namespace Sys2Proof.Machine

open Reg

/-- NOP. -/
def State.doNop (s : State) (c : CmdHdr) : State := s.inMode c 7 fun s => s.complete c ccDONE 0

def execNop (c : CmdHdr) (s : State) : Host.Outcome State Fault Refusal := ok (s.doNop c)

/-- SET_TIME (R391). -/
def execSetTime (c : CmdHdr) (sec pps : Nat) (s : State) : Host.Outcome State Fault Refusal := ok (s.doSetTime c sec pps)

/-! ### Execution of a record (R461) -/

/-- The polynomial set in the extra arguments of POLY_SET. -/
def argPoly (e : List Nat) : Poly := ⟨recNum e 0 9, recNum e 9 8, recNum e 17 8, recNum e 25 8, recNum e 33 8⟩

/-- A record executes: its command with the arguments that its octets hold. -/
def State.runCmd (s : State) (ge : GrainEnv) (c : CmdHdr) (a e : List Nat) : State :=
  let b := fun (i : Nat) => a.getD i 0
  match c.opcode with
  | 0x01 => s.doNop c
  | 0x02 => s.doAttest c a
  | 0x03 => s.doCtrSnap c (b 0) (recNum a 1 8)
  | 0x10 => s.doProgStart c (b 0)
  | 0x11 => s.doProgStop c
  | 0x12 => s.doDump c (b 0) (b 1)
  | 0x13 => s.doVitrine c (recNum a 0 12) (recNum a 12 4) (recNum a 16 4) (recNum a 20 2) (recNum a 22 2)
  | 0x14 => s.doFade c (b 0) (b 1) (recNum a 2 2 + 1)
  | 0x15 => s.doCoefLoad c (b 0) (b 1) (recNum a 2 2)
  | 0x16 => s.doPolySet c (b 0) (b 1) (argPoly e)
  | 0x17 => s.doBeamSet c (b 0) (recNum a 1 2) (packOctets 9 e)
  | 0x18 => s.doRefForce c (b 0)
  | 0x19 => s.doSysrefBurst c (b 0)
  | 0x1A => s.doLandReg c (recNum a 0 2) (b 2) (b 3) (recNum a 4 8) (recNum a 12 8) (recNum a 20 8) ge.mem
  | 0x1B => s.doLandDrop c (recNum a 0 2)
  | 0x1C => s.doRetain c
  | 0x20 => s.doSetTime c (recNum a 0 6) (b 6)
  | 0x21 => s.doAsymCal c (b 0) (recNum a 1 4)
  | 0x22 => s.doReinstate c (argUnit a) (!ge.bistFail.contains (argUnit a))
  | 0x23 => s.doWarmReset c ge.start
  | 0x24 => s.doDormant c
  | 0x25 => s.doEpochReset c (recNum a 0 6) (recNum a 6 4) ge.start
  | 0x26 => s.doImageUpdate c (b 0) (recNum a 1 8) (recNum a 9 4) ge.mem
  | 0x27 => s.doOwnerTransfer c a ge.base
  | 0x28 => s.doDebugUnlock c e
  | _ => s.complete c ccUNSUPPORTED 0

/-! ### Order and conflicts (R465, R466) -/

/-- The key values of a command, each as its key's number and the values that tell it apart (R461). -/
def PCmd.keys (x : PCmd) : List (List Nat) :=
  let a := x.args
  let b := fun (i : Nat) => a.getD i 0
  match x.hdr.opcode with
  | 0x10 => [[1]]
  | 0x11 => [[1]]
  | 0x1C => [[1]]
  | 0x23 => [[1]]
  | 0x24 => [[1]]
  | 0x25 => [[1]]
  | 0x12 => (setBitsOf (b 0) 8).map fun d => [2, d, b 1]
  | 0x14 => [[3, b 0, b 1]]
  | 0x15 => [[3, b 0, b 1]]
  | 0x16 => [[3, b 0, b 1]]
  | 0x17 => [[4, b 0, recNum a 1 2]]
  | 0x18 => [[5]]
  | 0x19 => [[6]]
  | 0x1A => [[7, x.hdr.src, recNum a 0 2]]
  | 0x1B => [[7, x.hdr.src, recNum a 0 2]]
  | 0x20 => [[8]]
  | 0x21 => [[9, b 0]]
  | 0x22 => [[10, b 0, b 1, recNum a 2 2]]
  | 0x26 => [[11]]
  | 0x27 => [[12]]
  | 0x28 => [[13]]
  | _ => []

/-- Two commands of one grain conflict. -/
def PCmd.conflicts (x y : PCmd) : Bool := x.keys.any fun k => y.keys.contains k

/-- `x` executes before `y`: the higher rank, then the earlier arrival (R465). -/
def PCmd.before (x y : PCmd) : Bool := decide (y.rank < x.rank) || (x.rank == y.rank && decide (x.arrival ≤ y.arrival))

/-- `x` is preferred to `y` where they conflict: the higher rank, then the later arrival (R466). -/
def PCmd.beats (x y : PCmd) : Bool := decide (y.rank < x.rank) || (x.rank == y.rank && decide (y.arrival ≤ x.arrival))

/-- A command inserted into a list ordered by `p`. -/
def insertCmd (p : PCmd → PCmd → Bool) (x : PCmd) : List PCmd → List PCmd
  | [] => [x]
  | y :: ys => if p x y then x :: y :: ys else y :: insertCmd p x ys

def sortCmds (p : PCmd → PCmd → Bool) (l : List PCmd) : List PCmd := l.foldr (insertCmd p) []

/-- The commands of one grain that execute: in order of preference, each that conflicts with none taken before it. -/
def winners (l : List PCmd) : List PCmd :=
  (sortCmds PCmd.beats l).foldl (fun w x => if w.any (x.conflicts ·) then w else w ++ [x]) []

/-- A command no longer waits. -/
def State.unpend (s : State) (x : PCmd) : State := { s with rg := { s.rg with pend := s.rg.pend.erase x } }

/-- G_DONE is g, never lower than it was. -/
def State.grainDone (s : State) (g : Nat) : State := { s with rg := { s.rg with gDone := max s.rg.gDone g } }

/-- A command of the grain that runs executes or is SUPERSEDED, as long as it still waits; `cg` is the grain it completes with. -/
def State.takeCmd (s : State) (ge : GrainEnv) (cg : Nat) (won : List PCmd) (x : PCmd) : State :=
  if s.rg.pend.contains x = false ∨ s.mode < mMUSTER then s
  else
    let s1 := (s.unpend x).showCmds
    let h := { x.hdr with grain := cg }
    if won.contains x then s1.runCmd ge h x.args x.ext else s1.complete h ccSUPERSEDED 0

/-- Grain g executes its pending commands. -/
def State.runGrain (s : State) (ge : GrainEnv) (g cg : Nat) : State :=
  let l := s.rg.pend.filter fun x => x.hdr.grain == g
  let won := winners l
  forAll (sortCmds PCmd.before l) s fun s x => s.takeCmd ge cg won x

/-! ### The grains that are due (R464, R468) -/

/-- The lowest grain up to g for which a command waits. -/
def State.leastGrain (s : State) (g : Nat) : Option Nat :=
  s.rg.pend.foldl (fun m x =>
    if g < x.hdr.grain then m
    else match m with
      | none => some x.hdr.grain
      | some y => some (min y x.hdr.grain)) none

/-- Grain h passed while the device was in RETAIN. -/
def State.inRetain (s : State) (h : Nat) : Bool :=
  s.pwr.retainEntry != 0 && decide (s.pwr.retainEntry ≤ h * tUs) && decide (h * tUs < s.nvm.alignStart)

/-- The grains up to g, in ascending order; a forward step of time on the way takes in the grains that it passes. Commands whose
grain passed during a failover (`late`) or in RETAIN complete with grain g. -/
def State.runDue (s : State) (ge : GrainEnv) (late : Bool) (g : Nat) : Nat → State
  | 0 => s
  | fuel + 1 =>
    match s.leastGrain g with
    | none => s
    | some h =>
      let s1 := s.runGrain ge h (if late || s.inRetain h then g else h)
      s1.runDue ge late (max g (grainOf s1.now)) fuel

/-- Every grain from G_DONE + 1 up to g, and up to the grain in which time then stands, is executed. -/
def State.runTo (s : State) (ge : GrainEnv) (late : Bool) (g : Nat) : State :=
  let s1 := s.runDue ge late g s.rg.pend.length
  (s1.grainDone (max g (if s1.runs then grainOf s1.now else g))).showCmds

/-- The loans that a failover left waiting are handed out (R558). -/
def State.handLoans (s : State) (d : Nat) : State :=
  let w := (s.fc d).waiting
  let s1 := forAll w (s.setFc d { s.fc d with waiting := [] }) fun s c => s.lend d c (s.logicalOf d c)
  let t := (s1.gal d).waiting
  forAll t (s1.setGal d { s1.gal d with waiting := [] }) fun s t => s.lendTile d t (s.get (TILE_CFG_LOGICAL d t))

/-- The first grain of the taking registrar in control ends the failover. -/
def State.endFailover (s : State) : State :=
  if s.rg.failover = false then s
  else
    let s1 := { s with rg := { s.rg with failover := false } }.recoverFault (regUnit (1 - s.get RG_STATUS_ACTIVE))
    forAll s1.dies s1 State.handLoans

/-- GRAIN_START of grain g. -/
def State.startGrain (s : State) (g : Nat) (ge : GrainEnv) : State :=
  let late := s.rg.failover
  let s1 := ((s.serveVits g).advance (g * tUs)).endFailover
  let s2 := if s1.mode = mMUSTER then s1 else (forAll s1.dies s1 fun s d => s.pmU d 2 1).fabRewritten
  s2.runTo ge late (grainOf s2.now)

def execGrainStart (g : Nat) (ge : GrainEnv) (s : State) : Host.Outcome State Fault Refusal :=
  if s.mode < mMUSTER ∨ g ≤ s.rg.gDone then ok s else ok (s.startGrain g ge)

/-- After a step of device time, every grain that it skipped is executed (R464). -/
def State.catchUp (s : State) (ge : GrainEnv) : State :=
  if s.runs = true ∧ s.rg.failover = false ∧ s.rg.gDone < grainOf s.now then s.runTo ge false (grainOf s.now) else s

/-! ### Steps of device time (R382, R391, R398) -/

/-- SWITCH_END: the new reference's phase, in ps, is taken in one step. -/
def execSwitchEnd (phase : Int) (ge : GrainEnv) (s : State) : Host.Outcome State Fault Refusal :=
  if s.rsc.target.isSome then ok ((s.endSwitch phase).catchUp ge) else ok s

/-- SYNC_MESSAGE on chain k, with its ingress time and the egress times of its copies. -/
def execSyncMessage (k : Nat) (p : Pkt) (tin : Nat) (touts : List (Nat × Nat)) (ge : GrainEnv) (s : State) :
    Host.Outcome State Fault Refusal :=
  if s.runs then ok ((s.takeSync k p tin touts).catchUp ge) else ok s

/-- PPS_EDGE of reference r: a SET_TIME that names it takes effect. -/
def execPpsEdge (r : Nat) (ge : GrainEnv) (s : State) : Host.Outcome State Fault Refusal :=
  match s.te.setTime with
  | none => ok s
  | some x => if x.2 = r ∧ s.runs = true then ok ((s.applySetTime x.1).catchUp ge) else ok s

end Sys2Proof.Machine
end

