-- ==== Sys2Proof/Machine/Dispatch.lean ====
section
/-! DEFINITION. One arm per command: its meaning, called directly. -/

namespace Sys2Proof.Machine

open Host

def exec (i : Instr) (s : State) : Host.Outcome State Fault Refusal :=
  match i with
  | .nop c => Sys2Proof.Machine.execNop c s
  | .attest c nonce => Sys2Proof.Machine.execAttest c nonce s
  | .ctrSnap c dies ctrs => Sys2Proof.Machine.execCtrSnap c dies ctrs s
  | .progStart c prog => Sys2Proof.Machine.execProgStart c prog s
  | .progStop c => Sys2Proof.Machine.execProgStop c s
  | .dump c dies dset => Sys2Proof.Machine.execDump c dies dset s
  | .vitrine c t pre post first count => Sys2Proof.Machine.execVitrine c t pre post first count s
  | .fade c d n l => Sys2Proof.Machine.execFade c d n l s
  | .coefLoad c d n set => Sys2Proof.Machine.execCoefLoad c d n set s
  | .polySet c d n p => Sys2Proof.Machine.execPolySet c d n p s
  | .beamSet c d b ws => Sys2Proof.Machine.execBeamSet c d b ws s
  | .refForce c r => Sys2Proof.Machine.execRefForce c r s
  | .sysrefBurst c mask => Sys2Proof.Machine.execSysrefBurst c mask s
  | .landReg c ring k vec base cons prod mem => Sys2Proof.Machine.execLandReg c ring k vec base cons prod mem s
  | .landDrop c ring => Sys2Proof.Machine.execLandDrop c ring s
  | .retain c => Sys2Proof.Machine.execRetain c s
  | .setTime c sec pps => Sys2Proof.Machine.execSetTime c sec pps s
  | .asymCal c chain n => Sys2Proof.Machine.execAsymCal c chain n s
  | .reinstate c u bistOk => Sys2Proof.Machine.execReinstate c u bistOk s
  | .warmReset c env => Sys2Proof.Machine.execWarmReset c env s
  | .dormant c => Sys2Proof.Machine.execDormant c s
  | .epochReset c scc floor env => Sys2Proof.Machine.execEpochReset c scc floor env s
  | .imageUpdate c dev addr len mem => Sys2Proof.Machine.execImageUpdate c dev addr len mem s
  | .ownerTransfer c hash base => Sys2Proof.Machine.execOwnerTransfer c hash base s
  | .debugUnlock c resp => Sys2Proof.Machine.execDebugUnlock c resp s
  | .commandDoorbell port tail cplHead mem => Sys2Proof.Machine.execCommandDoorbell port tail cplHead mem s
  | .griwanoCommand p => Sys2Proof.Machine.execGriwanoCommand p s
  | .stateRead p => Sys2Proof.Machine.execStateRead p s
  | .stateWrite p => Sys2Proof.Machine.execStateWrite p s
  | .grainStart g ge => Sys2Proof.Machine.execGrainStart g ge s
  | .ackDoorbell port ring data cons => Sys2Proof.Machine.execAckDoorbell port ring data cons s
  | .registerWrite port addr data => Sys2Proof.Machine.execRegisterWrite port addr data s
  | .partialWrite port addr => Sys2Proof.Machine.execPartialWrite port addr s
  | .deniedRead port addr len => Sys2Proof.Machine.execDeniedRead port addr s len
  | .dmaDoorbell d e c bad => Sys2Proof.Machine.execDmaDoorbell d e c bad s
  | .portUp port link => Sys2Proof.Machine.execPortUp port link s
  | .portDown port lost testFail => Sys2Proof.Machine.execPortDown port lost testFail s
  | .msixHoldoff port vec => Sys2Proof.Machine.execMsixHoldoff port vec s
  | .cdrLock d n pll => Sys2Proof.Machine.execCdrLock d n pll s
  | .cgsAchieved d n => Sys2Proof.Machine.execCgsAchieved d n s
  | .cgsLoss d n cdr => Sys2Proof.Machine.execCgsLoss d n cdr s
  | .characterError d n ch g pos => Sys2Proof.Machine.execCharacterError d n ch g s pos
  | .misplacedAlignment d n isA pos since => Sys2Proof.Machine.execMisplacedAlignment d n isA pos since s
  | .ilasStart d j => Sys2Proof.Machine.execIlasStart d j s
  | .ilasComplete d j lanes firsts t => Sys2Proof.Machine.execIlasComplete d j lanes firsts t s
  | .ilasRetry d j => Sys2Proof.Machine.execIlasRetry d j s
  | .frameRelease d j q0 q1 q2 q3 => Sys2Proof.Machine.execFrameRelease d j q0 q1 q2 q3 s
  | .linkWait d j => Sys2Proof.Machine.execLinkWait d j s
  | .updatePoint d n => Sys2Proof.Machine.execUpdatePoint d n s
  | .dfuOutput d n m => Sys2Proof.Machine.execDfuOutput d n m s
  | .fadeStart d => Sys2Proof.Machine.execFadeStart d s
  | .fadeEnd d n => Sys2Proof.Machine.execFadeEnd d n s
  | .dfuChange d n cfg cplx c => Sys2Proof.Machine.execDfuChange d n cfg s cplx c
  | .intervalStart k => Sys2Proof.Machine.execIntervalStart k s
  | .settling k => Sys2Proof.Machine.execSettling k s
  | .folioReadBack d n k pair outc data => Sys2Proof.Machine.execFolioReadBack d n k pair outc data s
  | .canNumbering => Sys2Proof.Machine.execCanNumbering s
  | .accWindowExpiry k => Sys2Proof.Machine.execAccWindowExpiry k s
  | .vitrineHandover d v => Sys2Proof.Machine.execVitrineHandover d v s
  | .mnop d c ecc => Sys2Proof.Machine.execMnop d c s ecc
  | .cmul d c ecc => Sys2Proof.Machine.execCmul d c s ecc
  | .cmulj d c ecc => Sys2Proof.Machine.execCmulj d c s ecc
  | .cmulw d c ecc => Sys2Proof.Machine.execCmulw d c s ecc
  | .rmul d c ecc => Sys2Proof.Machine.execRmul d c s ecc
  | .ftap d c ecc => Sys2Proof.Machine.execFtap d c s ecc
  | .crot d c ecc => Sys2Proof.Machine.execCrot d c s ecc
  | .cmac d c ecc => Sys2Proof.Machine.execCmac d c s ecc
  | .cmacj d c ecc => Sys2Proof.Machine.execCmacj d c s ecc
  | .accrd d c ecc => Sys2Proof.Machine.execAccrd d c s ecc
  | .accclr d c ecc => Sys2Proof.Machine.execAccclr d c s ecc
  | .anop d c => Sys2Proof.Machine.execAnop d c s
  | .add d c => Sys2Proof.Machine.execAdd d c s
  | .bf2 d c => Sys2Proof.Machine.execBf2 d c s
  | .bf4 d c => Sys2Proof.Machine.execBf4 d c s
  | .mov d c => Sys2Proof.Machine.execMov d c s
  | .logic d c => Sys2Proof.Machine.execLogic d c s
  | .shl d c => Sys2Proof.Machine.execShl d c s
  | .rq4 d c => Sys2Proof.Machine.execRq4 d c s
  | .rq8 d c => Sys2Proof.Machine.execRq8 d c s
  | .pred d c => Sys2Proof.Machine.execPred d c s
  | .bexp d c => Sys2Proof.Machine.execBexp d c s
  | .bclr d c => Sys2Proof.Machine.execBclr d c s
  | .ld d c ecc => Sys2Proof.Machine.execLd d c ecc s
  | .ldu d c ecc => Sys2Proof.Machine.execLdu d c ecc s
  | .st d c ecc => Sys2Proof.Machine.execSt d c ecc s
  | .dxlys d c ecc => Sys2Proof.Machine.execDxlys d c ecc s
  | .dxsyl d c ecc => Sys2Proof.Machine.execDxsyl d c ecc s
  | .dxlyl d c ecc => Sys2Proof.Machine.execDxlyl d c ecc s
  | .aadd d c => Sys2Proof.Machine.execAadd d c s
  | .ali d c => Sys2Proof.Machine.execAli d c s
  | .mvts d c => Sys2Proof.Machine.execMvts d c s
  | .mvfs d c => Sys2Proof.Machine.execMvfs d c s
  | .br d c => Sys2Proof.Machine.execBr d c s
  | .call d c => Sys2Proof.Machine.execCall d c s
  | .miscNop d c => Sys2Proof.Machine.execMiscNop d c s
  | .halt d c => Sys2Proof.Machine.execHalt d c s
  | .atom d c => Sys2Proof.Machine.execAtom d c s
  | .iwait d c => Sys2Proof.Machine.execIwait d c s
  | .irel d c => Sys2Proof.Machine.execIrel d c s
  | .oput d c => Sys2Proof.Machine.execOput d c s
  | .ei d c => Sys2Proof.Machine.execEi d c s
  | .di d c => Sys2Proof.Machine.execDi d c s
  | .soft d c => Sys2Proof.Machine.execSoft d c s
  | .ret d c => Sys2Proof.Machine.execRet d c s
  | .rti d c => Sys2Proof.Machine.execRti d c s
  | .loop d c => Sys2Proof.Machine.execLoop d c s
  | .rep d c => Sys2Proof.Machine.execRep d c s
  | .iterationEnd d c => Sys2Proof.Machine.execIterationEnd d c s
  | .interruptTake d c => Sys2Proof.Machine.execInterruptTake d c s
  | .inputBufferComplete d c => Sys2Proof.Machine.execInputBufferComplete d c s
  | .outputFrameFreed d c => Sys2Proof.Machine.execOutputFrameFreed d c s
  | .doorbellMessage d c code arg => Sys2Proof.Machine.execDoorbellMessage d c code arg s
  | .coreTimer d c => Sys2Proof.Machine.execCoreTimer d c s
  | .coreWatchdog d c => Sys2Proof.Machine.execCoreWatchdog d c s
  | .ckptSave d c us => Sys2Proof.Machine.execCkptSave d c us s
  | .fcRetest d c pass => Sys2Proof.Machine.execFcRetest d c pass s
  | .sendFolio d folio => Sys2Proof.Machine.execSendFolio d folio s
  | .idleMarkerTimer d => Sys2Proof.Machine.execIdleMarkerTimer d s
  | .dataPacket d p => Sys2Proof.Machine.execDataPacket d p s
  | .marker d p => Sys2Proof.Machine.execMarker d p s
  | .rewindReceived d p => Sys2Proof.Machine.execRewindReceived d p s
  | .quietExpiry d => Sys2Proof.Machine.execQuietExpiry d s
  | .commitReportTimer d => Sys2Proof.Machine.execCommitReportTimer d s
  | .reportReceived d p => Sys2Proof.Machine.execReportReceived d p s
  | .streamLost d e => Sys2Proof.Machine.execStreamLost d e s
  | .destLost d dev die => Sys2Proof.Machine.execDestLost d dev die s
  | .stintSlotRelease d n => Sys2Proof.Machine.execStintSlotRelease d n s
  | .workOrderIssue d lt => Sys2Proof.Machine.execWorkOrderIssue d lt s
  | .workOrderStart d t => Sys2Proof.Machine.execWorkOrderStart d t s
  | .tileCycle d t err => Sys2Proof.Machine.execTileCycle d t err s
  | .sealBank d t b => Sys2Proof.Machine.execSealBank d t b s
  | .tileBistDone d t pass => Sys2Proof.Machine.execTileBistDone d t pass s
  | .drainAck d t b => Sys2Proof.Machine.execDrainAck d t b s
  | .tileWatchdog d t off => Sys2Proof.Machine.execTileWatchdog d t s off
  | .tileRetest d t pass => Sys2Proof.Machine.execTileRetest d t pass s
  | .shortIntegrationBoundary d n => Sys2Proof.Machine.execShortIntegrationBoundary d n s
  | .drainRecord d t b badHdr bad => Sys2Proof.Machine.execDrainRecord d t b badHdr bad s
  | .gapTimeout d t b => Sys2Proof.Machine.execGapTimeout d t b s
  | .headerWrite d => Sys2Proof.Machine.execHeaderWrite d s
  | .dumpUnit d dset badHdr bad => Sys2Proof.Machine.execDumpUnit d dset badHdr bad s
  | .ledgerClear d blk => Sys2Proof.Machine.execLedgerClear d blk s
  | .updateInterval d k => Sys2Proof.Machine.execUpdateInterval d k s
  | .beamPass d p bad => Sys2Proof.Machine.execBeamPass d p bad s
  | .triggerSample d m => Sys2Proof.Machine.execTriggerSample d m s
  | .unitEntry ring => Sys2Proof.Machine.execUnitEntry ring s
  | .sealTimer ring => Sys2Proof.Machine.execSealTimer ring s
  | .sealSign => Sys2Proof.Machine.execSealSign s
  | .targetSend ring tgt bad => Sys2Proof.Machine.execTargetSend ring tgt bad s
  | .collectorAck p => Sys2Proof.Machine.execCollectorAck p s
  | .ackTimeout ring tgt => Sys2Proof.Machine.execAckTimeout ring tgt s
  | .telemetryTimer temps vddAo total watts => Sys2Proof.Machine.execTelemetryTimer temps vddAo total watts s
  | .snapshotComplete => Sys2Proof.Machine.execSnapshotComplete s
  | .counterWrap d k n => Sys2Proof.Machine.execCounterWrap d k n s
  | .refActivityFail r => Sys2Proof.Machine.execRefActivityFail r s
  | .frequencyGate r ppb => Sys2Proof.Machine.execFrequencyGate r ppb s
  | .qualificationComplete r => Sys2Proof.Machine.execQualificationComplete r s
  | .loLoss => Sys2Proof.Machine.execLoLoss s
  | .loWarmTimer => Sys2Proof.Machine.execLoWarmTimer s
  | .switchEnd phase ge => Sys2Proof.Machine.execSwitchEnd phase ge s
  | .dpllLock => Sys2Proof.Machine.execDpllLock s
  | .ladderDwell => Sys2Proof.Machine.execLadderDwell s
  | .historySecond sec c => Sys2Proof.Machine.execHistorySecond sec c s
  | .holdoverExpiry => Sys2Proof.Machine.execHoldoverExpiry s
  | .syncMessage k p tin touts ge => Sys2Proof.Machine.execSyncMessage k p tin touts ge s
  | .delayReq k p tin tout => Sys2Proof.Machine.execDelayReq k p tin tout s
  | .delayResp k p => Sys2Proof.Machine.execDelayResp k p s
  | .syncOriginate touts => Sys2Proof.Machine.execSyncOriginate touts s
  | .delayReqOriginate touts => Sys2Proof.Machine.execDelayReqOriginate touts s
  | .syncTimeout => Sys2Proof.Machine.execSyncTimeout s
  | .ppsEdge r ge => Sys2Proof.Machine.execPpsEdge r ge s
  | .calDone k sumOut nOut => Sys2Proof.Machine.execCalDone k sumOut nOut s
  | .crystalDiscipline ppb => Sys2Proof.Machine.execCrystalDiscipline ppb s
  | .signalDetect k => Sys2Proof.Machine.execSignalDetect k s
  | .tosReceived k lane groups pos inv => Sys2Proof.Machine.execTosReceived k lane groups s pos inv
  | .eyeMeasure k lane h w => Sys2Proof.Machine.execEyeMeasure k lane h w s
  | .trainRetry k => Sys2Proof.Machine.execTrainRetry k s
  | .aosSend k => Sys2Proof.Machine.execAosSend k s
  | .aosReceived k lanes => Sys2Proof.Machine.execAosReceived k lanes s
  | .symbolLockLoss k lane => Sys2Proof.Machine.execSymbolLockLoss k lane s
  | .packetReceived k start x begun => Sys2Proof.Machine.execPacketReceived k start x begun s
  | .lcbReceived k start x => Sys2Proof.Machine.execLcbReceived k start x s
  | .transmitChoice k => Sys2Proof.Machine.execTransmitChoice k s
  | .lcbSendTimer k => Sys2Proof.Machine.execLcbSendTimer k s
  | .replayTimeout k => Sys2Proof.Machine.execReplayTimeout k s
  | .creditTimeout k vc => Sys2Proof.Machine.execCreditTimeout k vc s
  | .sleepIdle k => Sys2Proof.Machine.execSleepIdle k s
  | .sleepReceived k level => Sys2Proof.Machine.execSleepReceived k level s
  | .directionWake k ns => Sys2Proof.Machine.execDirectionWake k ns s
  | .pkfPacket hop p toDie good => Sys2Proof.Machine.execPkfPacket hop p toDie good s
  | .dramRead d burst store errs => Sys2Proof.Machine.execDramRead d burst store errs s
  | .dramWrite d burst ws => Sys2Proof.Machine.execDramWrite d burst ws s
  | .unitWrite d room bursts => Sys2Proof.Machine.execUnitWrite d room bursts s
  | .refreshInterval d c u => Sys2Proof.Machine.execRefreshInterval d c u s
  | .scrubPass d c hits => Sys2Proof.Machine.execScrubPass d c hits s
  | .retrainStep d c u force moved => Sys2Proof.Machine.execRetrainStep d c u force moved s
  | .dramTraining e => Sys2Proof.Machine.execDramTraining e s
  | .journalWrite d => Sys2Proof.Machine.execJournalWrite d s
  | .fabricRequest d t cyc reqs => Sys2Proof.Machine.execFabricRequest d t cyc reqs s
  | .prioParityError d m t => Sys2Proof.Machine.execPrioParityError d m t s
  | .descriptorComplete d e mem bad hostErr nextBad => Sys2Proof.Machine.execDescriptorComplete d e mem bad hostErr nextBad s
  | .pacedRequest d e data => Sys2Proof.Machine.execPacedRequest d e data s
  | .pacedWithdraw d e n data => Sys2Proof.Machine.execPacedWithdraw d e n data s
  | .paceTimeout d e => Sys2Proof.Machine.execPaceTimeout d e s
  | .powerApplied env fail => Sys2Proof.Machine.execPowerApplied env fail s
  | .musterEnd => Sys2Proof.Machine.execMusterEnd s
  | .alignExit base => Sys2Proof.Machine.execAlignExit base s
  | .calendarEntry n g => Sys2Proof.Machine.execCalendarEntry n g s
  | .programmeSwitch badDies => Sys2Proof.Machine.execProgrammeSwitch badDies s
  | .porstNFall => Sys2Proof.Machine.execPorstNFall s
  | .porstNRelease env fail => Sys2Proof.Machine.execPorstNRelease env fail s
  | .pwrdnNLow => Sys2Proof.Machine.execPwrdnNLow s
  | .pwrdnNRise => Sys2Proof.Machine.execPwrdnNRise s
  | .wakePin => Sys2Proof.Machine.execWakePin s
  | .sidebandWake port => Sys2Proof.Machine.execSidebandWake port s
  | .activityWake k => Sys2Proof.Machine.execActivityWake k s
  | .uvTrip => Sys2Proof.Machine.execUvTrip s
  | .tempTrip junction => Sys2Proof.Machine.execTempTrip junction s
  | .railPowerGood rail ms => Sys2Proof.Machine.execRailPowerGood rail ms s
  | .railTimeout => Sys2Proof.Machine.execRailTimeout s
  | .loInActivity env => Sys2Proof.Machine.execLoInActivity env s
  | .wakeRetry => Sys2Proof.Machine.execWakeRetry s
  | .retainQuiesce => Sys2Proof.Machine.execRetainQuiesce s
  | .thermalThrottle t => Sys2Proof.Machine.execThermalThrottle t s
  | .throttleTimer t => Sys2Proof.Machine.execThrottleTimer t s
  | .sequencerRequest reorder => Sys2Proof.Machine.execSequencerRequest reorder s
  | .sequencerDone => Sys2Proof.Machine.execSequencerDone s
  | .registrarWatchdog env => Sys2Proof.Machine.execRegistrarWatchdog env s
  | .checkpoint => Sys2Proof.Machine.execCheckpoint s
  | .regFailover cause => Sys2Proof.Machine.execRegFailover cause s
  | .registrarSelfTest pass => Sys2Proof.Machine.execRegistrarSelfTest pass s
  | .trngFail => Sys2Proof.Machine.execTrngFail s
  | .drbgReseed pass => Sys2Proof.Machine.execDrbgReseed pass s
  | .debugExpiry => Sys2Proof.Machine.execDebugExpiry s
  | .bucketLeak u bucket => Sys2Proof.Machine.execBucketLeak u bucket s
  | .giveupTimeout u => Sys2Proof.Machine.execGiveupTimeout u s
  | .dieFailure d => Sys2Proof.Machine.execDieFailure d s
  | .calibrationDue d n temp => Sys2Proof.Machine.execCalibrationDue d n temp s
  | .calibrationResult d n v temp eye => Sys2Proof.Machine.execCalibrationResult d n v temp eye s
  | .trimInForce d n => Sys2Proof.Machine.execTrimInForce d n s
  | .ageingMeasurement d mons eyes dram => Sys2Proof.Machine.execAgeingMeasurement d mons eyes dram s
  | .dailyRecord d fail => Sys2Proof.Machine.execDailyRecord d fail s
  | .revertHoldoff => Sys2Proof.Machine.execRevertHoldoff s
  | .tempTripClear => Sys2Proof.Machine.execTempTripClear s
  | .calibrationTimeout d n => Sys2Proof.Machine.execCalibrationTimeout d n s
  | .updateDone ioOk => Sys2Proof.Machine.execUpdateDone ioOk s
  | .attestationSign => Sys2Proof.Machine.execAttestationSign s

end Sys2Proof.Machine
end

