-- ==== Sys2Proof/Safety.lean ====
section
/-! DEFINITION. What a safe run keeps: the capacities and the canonical memories of a state, and what a step never undoes. -/

namespace Sys2Proof.Machine

/-- The memories are in canonical form: keys strictly rising, and no entry equal to what an unlisted key reads as. -/
abbrev Memory.wf (s : State) : Prop :=
  Store.wf (regReset s.part) s.regs ∧ Store.wf dramInit s.dram ∧ Store.wf flashErased s.flash ∧
    Store.wf (fun _ => (0 : Word)) s.scratch ∧ Store.wf dramInit s.mirrors

/-- The invariant of every step: canonical memories, at most 4,096 events queued (R364), at most 1,024 commands waiting for their
grain (R467), and at most eight owner slots burned (R497). -/
def State.Inv (s : State) : Prop :=
  Memory.wf s ∧ s.evts.length ≤ 4096 ∧ s.waitingCmds.length ≤ 1024 ∧ s.sec.slots.length ≤ 8

/-- What no step undoes: the part and the queue of commands stay, what has left the block has left it, and a burned fuse
stays burned (R1, R497). -/
def State.Follows (s t : State) : Prop :=
  t.part = s.part ∧ t.pending = s.pending ∧ s.out <:+ t.out ∧ s.draws ≤ t.draws ∧ s.sec.slots <+: t.sec.slots ∧
    s.sec.svn ≤ t.sec.svn ∧ (s.sec.storeInit = true → t.sec.storeInit = true) ∧ (s.sec.debugLock = true → t.sec.debugLock = true)

/-- Every lane of the dies that are present and every chain of the part is OFF or deaccessioned (R70, R202). -/
def State.Quiet (s : State) : Prop :=
  (∀ d ∈ s.dies, ∀ n, n < 16 → s.laneState d n = lnOFF ∨ s.laneState d n = lnDEACC) ∧
    ∀ k ∈ s.chainsOf, s.chState k = csOFF ∨ s.chState k = csDEACC

/-- From `s` to `t` only registers change, and of these only the slots of the list. -/
def State.OnlyRegs (s t : State) (as : List Nat) : Prop :=
  t = { s with regs := t.regs } ∧ ∀ a, a ∉ as → t.rd a = s.rd a

/-- A slot of core c's bundle has issued and left the core as `q`: no other core changes, and of the registers only the core's
slot counters. -/
def State.SlotIssued (s t : State) (d c : Nat) (q : CoreSt) : Prop :=
  t = { s with fcs := t.fcs, regs := t.regs } ∧ t.core d c = q ∧ (∀ e x, (e, x) ≠ (d, c) → t.core e x = s.core e x) ∧
    ∀ a, (∀ k, k < 4 → a ≠ Reg.TD d c k) → t.rd a = s.rd a

/-- A bundle of core c has ended on core state `q`: its results move on, and no other core changes. -/
def State.BundleEnded (s t : State) (d c : Nat) (q : CoreSt) (e : BundleEnd) : Prop :=
  t = { s with fcs := t.fcs, regs := t.regs, wraps := t.wraps } ∧ t.core d c = q.endBundle e ∧
    ∀ e x, (e, x) ≠ (d, c) → t.core e x = s.core e x

/-- The word at address `a` of the space in which the ring of channel c of DMA engine k lies (R428). -/
def State.ringWord (s : State) (k c a : Nat) : Word :=
  if s.get (dmaF k fun d e => Reg.DMA_CH_CFG_RING_SPACE d e c) = 1 then s.scr (ringDieOf k) (a % 65536) else s.rdMem (ringDieOf k) a

/-- The components of the state, for frames. -/
inductive Comp
  | part
  | pending
  | now
  | draws
  | regs
  | dram
  | flash
  | out
  | evts
  | evtLost
  | units
  | rings
  | ports
  | lands
  | rg
  | sec
  | nvm
  | rsc
  | te
  | pwr
  | flt
  | pkf
  | chains
  | ctes
  | inbox
  | ings
  | dfus
  | acus
  | acc
  | fcs
  | gals
  | leds
  | bes
  | aside
  | asidePkg
  | drcs
  | training
  | fabs
  | dmas
  | scratch
  | wraps
  | snaps
  | csvs
  | csvNext
  | csvGen
  | temps
  | telAt
  | mirrors
  | timers
  | workT
  | workAt
deriving DecidableEq, Repr

/-- Component x is the same in both states. -/
def State.same (s t : State) : Comp → Prop
  | .part => t.part = s.part
  | .pending => t.pending = s.pending
  | .now => t.now = s.now
  | .draws => t.draws = s.draws
  | .regs => t.regs = s.regs
  | .dram => t.dram = s.dram
  | .flash => t.flash = s.flash
  | .out => t.out = s.out
  | .evts => t.evts = s.evts
  | .evtLost => t.evtLost = s.evtLost
  | .units => t.units = s.units
  | .rings => t.rings = s.rings
  | .ports => t.ports = s.ports
  | .lands => t.lands = s.lands
  | .rg => t.rg = s.rg
  | .sec => t.sec = s.sec
  | .nvm => t.nvm = s.nvm
  | .rsc => t.rsc = s.rsc
  | .te => t.te = s.te
  | .pwr => t.pwr = s.pwr
  | .flt => t.flt = s.flt
  | .pkf => t.pkf = s.pkf
  | .chains => t.chains = s.chains
  | .ctes => t.ctes = s.ctes
  | .inbox => t.inbox = s.inbox
  | .ings => t.ings = s.ings
  | .dfus => t.dfus = s.dfus
  | .acus => t.acus = s.acus
  | .acc => t.acc = s.acc
  | .fcs => t.fcs = s.fcs
  | .gals => t.gals = s.gals
  | .leds => t.leds = s.leds
  | .bes => t.bes = s.bes
  | .aside => t.aside = s.aside
  | .asidePkg => t.asidePkg = s.asidePkg
  | .drcs => t.drcs = s.drcs
  | .training => t.training = s.training
  | .fabs => t.fabs = s.fabs
  | .dmas => t.dmas = s.dmas
  | .scratch => t.scratch = s.scratch
  | .wraps => t.wraps = s.wraps
  | .snaps => t.snaps = s.snaps
  | .csvs => t.csvs = s.csvs
  | .csvNext => t.csvNext = s.csvNext
  | .csvGen => t.csvGen = s.csvGen
  | .temps => t.temps = s.temps
  | .telAt => t.telAt = s.telAt
  | .mirrors => t.mirrors = s.mirrors
  | .timers => t.timers = s.timers
  | .workT => t.workT = s.workT
  | .workAt => t.workAt = s.workAt

/-- From `s` to `t` at most the listed components change. -/
def State.OnlyComps (s t : State) (cs : List Comp) : Prop := ∀ x, x ∉ cs → s.same t x

/-- The slot is one of a register's, whatever its indices. -/
def At0 (f : Nat) (a : Nat) : Prop := a = f
def At1 (f : Nat → Nat) (a : Nat) : Prop := ∃ i, a = f i
def At2 (f : Nat → Nat → Nat) (a : Nat) : Prop := ∃ i j, a = f i j
def At3 (f : Nat → Nat → Nat → Nat) (a : Nat) : Prop := ∃ i j k, a = f i j k
def At4 (f : Nat → Nat → Nat → Nat → Nat) (a : Nat) : Prop := ∃ i j k l, a = f i j k l

/-- A command always answers a next state, in which at most these components differ, and of the state map at most these slots. -/
def Frame (c : Instr) (cs : List Comp) (slots : List (Nat → Prop)) : Prop :=
  ∀ s : State, ∃ t : State, exec c s = .next t ∧ s.OnlyComps t cs ∧ ∀ a, (∀ p ∈ slots, ¬ p a) → t.rd a = s.rd a

/-- What the answer to a command may change: its ledger entry, the port's completions or a packet on its way. -/
def answerComps : List Comp := [.chains, .evtLost, .evts, .inbox, .out, .pkf, .ports, .regs, .timers]
def answerSlots (a : Nat) : Prop := At1 Reg.CLOG0 a ∨ At1 Reg.CLOG1 a ∨ At1 Reg.CTE_EVENTS a ∨ At1 Reg.HP_PTR a ∨ a = Reg.PKC_DROP ∨ At2 Reg.ROUTE a

/-- What a change of mode or of the replacement level may change. -/
def modeComps : List Comp := [.acc, .evtLost, .evts, .out, .ports, .regs, .timers, .workAt, .workT]
def modeSlots (a : Nat) : Prop := At1 Reg.FLT_STATUS a ∨ a = Reg.PKC_DROP ∨ a = Reg.PWR_EVENTS ∨ a = Reg.PWR_MODE ∨ a = Reg.REPL_STATUS

/-- The slots that counting an event may change. -/
def countSlots (a : Nat) : Prop := At2 Reg.PMON_CTR a ∨ At1 Reg.PMON_EVENTS a ∨ At1 Reg.PMON_STATUS a

end Sys2Proof.Machine
end

