-- ==== Sys2Proof/Certificates/Slice0/Obligations.lean ====
section
/-! DEFINITION. The statements about the model, for the provers. -/

open Sys2Proof Sys2Proof.Machine Sys2Proof.Machine.Reg

/-- A step runs the command at the front of the queue; with nothing waiting the block idles. For every command c, every rest of the queue and every state whose queue is c followed by that rest, step answers exactly what exec of c answers on the state with the queue's rest (the model's own queue: log entry 4). On an empty queue a step answers the same state (the model's choice: log entry 4). (16_host.md; 95_what_each_step_holds.md) -/
def Obligations.StepRunsTheFrontCommand : Prop :=
  (∀ (s : State) (c : Instr) (rest : List Instr), s.pending = c :: rest → step s = exec c { s with pending := rest }) ∧
  (∀ s : State, s.pending = [] → step s = .next s)

/-- The reset state meets the invariant. At reset the memories are in canonical form, no event and no command waits and no owner slot is burned. (13_products.md; 16_host.md; 18_security.md) -/
def Obligations.ResetMeetsInvariant : Prop :=
  State.reset.Inv

/-- Every step keeps the invariant. Whatever command stands in front of the queue and whatever the state, where the memories are canonical, at most 4,096 events are queued, at most 1,024 commands wait and at most eight owner slots are burned before a step, the same holds after it. (13_products.md, R364; 16_host.md, R467; 18_security.md, R497) -/
def Obligations.StepKeepsInvariant : Prop :=
  ∀ s t : State, s.Inv → step s = .next t → t.Inv

/-- No step unburns a fuse, changes the part or takes back what has left the block. Over every step the part stays, the commands behind the front one stay in their order, everything that has left the block stays in its record, the burned owner slots and the SVN fuses only grow, and STORE_INIT and the debug lock stay burned. (00_scope.md; 18_security.md, R497; 17_image_startup.md) -/
def Obligations.StepUndoesNothing : Prop :=
  ∀ s t : State, step s = .next t → ({ s with pending := s.pending.tail } : State).Follows t

/-- What the device holds before power is first applied. At reset the mode is DORMANT, every register slot reads the reset value of its table, every flash octet reads 0xFF, no ring, port, chain, interval or command is in progress, and no fuse is burned. DRAM and scratch words read 0 there (the model's choice). (19_power.md, R516; 17_image_startup.md; 18_security.md; 13_products.md) -/
def Obligations.ResetLeavesDormant : Prop :=
  State.reset.mode = mDORMANT ∧ (∀ a, State.reset.rd a = regReset Part.zn208 a) ∧ (∀ k, Store.get flashErased State.reset.flash k = 0xFF) ∧
    (∀ d a, State.reset.rdMem d a = 0) ∧ State.reset.evts = [] ∧ State.reset.units = [] ∧ State.reset.rg.pend = [] ∧
    State.reset.sec.slots = [] ∧ State.reset.sec.svn = 0 ∧ State.reset.sec.storeInit = false ∧ State.reset.pwr.powered = false

/-- A command outside the modes of its row completes WRONG_MODE and does nothing else. Each of the 25 commands of the command table that comes to its grain in a mode its row does not list (1 MUSTER after the image is verified, 2 ALIGN, 4 OBSERVE or CURTAILED) completes WRONG_MODE, and that completion is its whole effect. (16_host.md, R461; 16_host.md, R462) -/
def Obligations.OutsideItsModesACommandIsRefused : Prop :=
  ∀ (s : State) (c : CmdHdr),
    (s.modeBit &&& 7 = 0 → exec (.nop c) s = .next (s.complete c ccWRONGMODE 0) ∧ (∀ n, exec (.attest c n) s = .next (s.complete c ccWRONGMODE 0)) ∧
      exec (.dormant c) s = .next (s.complete c ccWRONGMODE 0)) ∧
    (s.modeBit &&& 4 = 0 → (∀ a b, exec (.ctrSnap c a b) s = .next (s.complete c ccWRONGMODE 0)) ∧
      (∀ p, exec (.progStart c p) s = .next (s.complete c ccWRONGMODE 0)) ∧ exec (.progStop c) s = .next (s.complete c ccWRONGMODE 0) ∧
      (∀ a b, exec (.dump c a b) s = .next (s.complete c ccWRONGMODE 0)) ∧
      (∀ t pre post f n, exec (.vitrine c t pre post f n) s = .next (s.complete c ccWRONGMODE 0)) ∧
      (∀ d i l, exec (.fade c d i l) s = .next (s.complete c ccWRONGMODE 0)) ∧
      (∀ d i k, exec (.coefLoad c d i k) s = .next (s.complete c ccWRONGMODE 0)) ∧ exec (.retain c) s = .next (s.complete c ccWRONGMODE 0)) ∧
    (s.modeBit &&& 6 = 0 → (∀ d i p, exec (.polySet c d i p) s = .next (s.complete c ccWRONGMODE 0)) ∧
      (∀ d b w, exec (.beamSet c d b w) s = .next (s.complete c ccWRONGMODE 0)) ∧
      (∀ r, exec (.refForce c r) s = .next (s.complete c ccWRONGMODE 0)) ∧ (∀ m, exec (.sysrefBurst c m) s = .next (s.complete c ccWRONGMODE 0)) ∧
      (∀ r k v b x y m, exec (.landReg c r k v b x y m) s = .next (s.complete c ccWRONGMODE 0)) ∧
      (∀ r, exec (.landDrop c r) s = .next (s.complete c ccWRONGMODE 0)) ∧ (∀ a b, exec (.setTime c a b) s = .next (s.complete c ccWRONGMODE 0)) ∧
      (∀ k n, exec (.asymCal c k n) s = .next (s.complete c ccWRONGMODE 0)) ∧ (∀ u b, exec (.reinstate c u b) s = .next (s.complete c ccWRONGMODE 0)) ∧
      (∀ e, exec (.warmReset c e) s = .next (s.complete c ccWRONGMODE 0)) ∧
      (∀ a b l m, exec (.imageUpdate c a b l m) s = .next (s.complete c ccWRONGMODE 0)) ∧
      (∀ h b, exec (.ownerTransfer c h b) s = .next (s.complete c ccWRONGMODE 0)) ∧
      (∀ r, exec (.debugUnlock c r) s = .next (s.complete c ccWRONGMODE 0))) ∧
    (s.modeBit &&& 1 = 0 → ∀ a b e, exec (.epochReset c a b e) s = .next (s.complete c ccWRONGMODE 0))

/-- NOP completes DONE: the ledger entry and the host's completion record. In a mode of its row, a NOP from a host port that is UP, with its rings enabled, no completion waiting and room in the completion ring, writes one completion record of 32 octets at the next place of the ring, moves CPL_WRITTEN on by 1 modulo 2^32, and enters code DONE and its grain in its place of the command ledger. Every slot but these, and every other part of the state but the port's interrupts with their holdoff and what leaves the block, stays. (16_host.md, R458; 16_host.md, R461; 16_host.md, R462) -/
def Obligations.NopWritesItsCompletion : Prop :=
  ∀ (s : State) (c : CmdHdr), s.modeBit &&& 7 ≠ 0 → c.src < 2 → c.log < 4096 → s.portState c.src = 1 → s.get (Reg.HP_RINGCFG_EN c.src) = 1 →
    (s.port c.src).waiting = [] → s.cplRoom c.src = true →
    ∃ t : State, exec (.nop c) s = .next t ∧ t.get (Reg.CLOG0_CODE c.log) = ccDONE ∧ t.get (Reg.CLOG1_GRAIN c.log) = c.grain % 2 ^ 64 ∧
      t.get (Reg.HP_PTR_CPL_WRITTEN c.src) = (s.get (Reg.HP_PTR_CPL_WRITTEN c.src) + 1) % 2 ^ 32 ∧
      Output.hostWrite c.src
        (s.get (Reg.HP_CPL_BASE_ADDR c.src) * 64 +
          32 * (s.get (Reg.HP_PTR_CPL_WRITTEN c.src) % 2 ^ s.get (Reg.HP_RINGCFG_CPL_LOG2 c.src)))
        (cplOctets ⟨c.tag, ccDONE, c.opcode, c.grain, 0, c.seq % 2 ^ 32⟩
          (1 - s.get (Reg.HP_PTR_CPL_WRITTEN c.src) / 2 ^ s.get (Reg.HP_RINGCFG_CPL_LOG2 c.src) % 2)) ∈ t.out ∧
      (∀ a, a ≠ Reg.CLOG0 c.log → a ≠ Reg.CLOG1 c.log → a ≠ Reg.HP_PTR c.src → t.rd a = s.rd a) ∧
      t = { s with regs := t.regs, ports := t.ports, timers := t.timers, out := t.out }

/-- A write that does not cover a whole slot has no effect but PARTIAL_WR. On a host port that is UP, a write narrower than a 16-byte slot, and a whole-width write that is not aligned to a slot, change no slot but the port's HP_STATUS, set PARTIAL_WR there and nothing else in it, and change nothing else of the state. (R51) -/
def Obligations.PartialWritesDoNothing : Prop :=
  ∀ (s : State) (p addr data : Nat), p < 2 → s.portState p = 1 → addr < 2 ^ 28 →
    (∃ t : State, exec (.partialWrite p addr) s = .next t ∧ t.get (HP_STATUS_PARTIAL_WR p) = 1 ∧ (∀ a, a ≠ HP_STATUS p → t.rd a = s.rd a) ∧
      (∀ i, i ≠ (HP_STATUS_PARTIAL_WR p).lo → (t.rd (HP_STATUS p)).getLsbD i = (s.rd (HP_STATUS p)).getLsbD i) ∧ t = { s with regs := t.regs }) ∧
    (addr % 16 ≠ 0 → exec (.registerWrite p addr data) s = exec (.partialWrite p addr) s)

/-- What a whole-slot write of a host changes. On a host port that is UP, a whole-slot write that R445 gives no reach sets WR_IGNORED and nothing else. One that reaches only the bits cleared by writing 1 clears exactly those written as 1, in a slot that is not a performance counter's and not one that only shows other state; one that reaches whole fields sets the writable bits to those written, clears the bits of the second kind written as 1, and keeps every other bit of the slot. No other slot changes. (16_host.md, R445; 00_scope.md, R9; 00_scope.md, R10) -/
def Obligations.HostWritesReachOnlyTheirFields : Prop :=
  ∀ (s : State) (p addr data i : Nat), p < 2 → s.portState p = 1 → addr < 2 ^ 28 → addr % 16 = 0 → i < 72 →
    (s.writeReach p (s.barAddr p addr) = .none →
      ∃ t : State, exec (.registerWrite p addr data) s = .next t ∧ t.get (HP_STATUS_WR_IGNORED p) = 1 ∧ (∀ a, a ≠ HP_STATUS p → t.rd a = s.rd a) ∧
        t = { s with regs := t.regs }) ∧
    (s.writeReach p (s.barAddr p addr) = .clear → shownSlot (s.barAddr p addr) = false → addrBlock (s.barAddr p addr) ≠ 0x1D →
      ∃ t : State, exec (.registerWrite p addr data) s = .next t ∧ t = { s with regs := t.regs } ∧ (∀ a, a ≠ s.barAddr p addr → t.rd a = s.rd a) ∧
        (t.rd (s.barAddr p addr)).getLsbD i =
          ((s.rd (s.barAddr p addr)).getLsbD i && !((clrMask s.part (s.barAddr p addr)).testBit i && data.testBit i))) ∧
    (s.writeReach p (s.barAddr p addr) = .whole → shownSlot (s.barAddr p addr) = false → addrBlock (s.barAddr p addr) ≠ 0x1D →
      ∃ t : State, exec (.registerWrite p addr data) s = .next t ∧ t = { s with regs := t.regs } ∧ (∀ a, a ≠ s.barAddr p addr → t.rd a = s.rd a) ∧
        (t.rd (s.barAddr p addr)).getLsbD i =
          ((if (setMask s.part (s.barAddr p addr)).testBit i then data.testBit i else (s.rd (s.barAddr p addr)).getLsbD i) &&
            !((clrMask s.part (s.barAddr p addr)).testBit i && data.testBit i)))

/-- Reads through a port and state packets. A read of one or more octets through a host port that is UP delivers, octet by octet, the octet of the slot's word, zero for bytes 9 to 15 of a slot and for a slot that R444 refuses; it changes nothing else, except that one which R444 refuses sets DENIED of that port. A state-read packet of a Griwano source that is the first of its channel to wait for the keeper is answered with one word per slot, zero where the source may not read; a state-write packet that names as many slots as it carries words writes each as far as its source may write and is answered with IGNORED when one of them was out of reach. One with too few words writes nothing. (00_scope.md, R11; 02_span_word.md, R49; 02_span_word.md, R50; 16_host.md, R444; 16_host.md, R459; 16_host.md, R460) -/
def Obligations.ReadsHaveNoSideEffect : Prop :=
  (∀ (s : State) (p addr len : Nat), p < 2 → s.portState p = 1 → 1 ≤ len → addr + len ≤ 2 ^ 28 →
      let slot := fun i => s.barAddr p ((addr + i) / 16 * 16)
      ∃ t octs, exec (.deniedRead p addr len) s = .next t ∧ t.out = .hostRead p addr octs :: s.out ∧ octs.length = len ∧
        (∀ i, i < len → octs.getD i 0 =
          if 9 ≤ (addr + i) % 16 ∨ s.readDenied p (slot i) = true then 0 else bitsOf (s.readSlot (slot i)).toNat (8 * ((addr + i) % 16)) 8) ∧
        ((∀ i, i < len → s.readDenied p (slot i) = false) → t = { s with out := t.out }) ∧
        ((∃ i, i < len ∧ s.readDenied p (slot i) = true) → t.get (HP_STATUS_DENIED p) = 1 ∧ t = { s with regs := t.regs, out := t.out } ∧
          ∀ a, a ≠ HP_STATUS p → t.rd a = s.rd a)) ∧
    (∀ (s : State) (p : Pkt), mMUSTER ≤ s.mode → s.inboxHead 8 p = true → p.vc = 2 → p.sub = 3 → (p.payload.headD 0).bits 48 5 ≠ 31 →
      let u := s.takeInbox 8 p
      let slots := (List.range ((p.payload.headD 0).bits 48 5 + 1)).map fun i => (p.payload.headD 0).bits 0 48 + 16 * i
      exec (.stateRead p) s = .next (u.originate 8 2 p.src 0 4
        (BitVec.ofNat 72 ((p.payload.headD 0).bits 53 16 + b2n (slots.any (u.readDenied (u.srcOfDev p.src))) * 2 ^ 16) ::
          slots.map fun x => if u.readDenied (u.srcOfDev p.src) x then 0 else u.readSlot x))) ∧
    (∀ (s : State) (p : Pkt), mMUSTER ≤ s.mode → s.inboxHead 8 p = true → p.vc = 2 → p.sub = 5 → (p.payload.headD 0).bits 48 5 ≠ 31 →
      let u := s.takeInbox 8 p
      let n := (p.payload.headD 0).bits 48 5 + 1
      let a := (p.payload.headD 0).bits 0 48
      (p.payload.length < n + 1 →
        exec (.stateWrite p) s = .next (u.originate 8 2 p.src 0 6 [BitVec.ofNat 72 ((p.payload.headD 0).bits 53 16 + 2 ^ 16)])) ∧
      (n + 1 ≤ p.payload.length →
        exec (.stateWrite p) s = .next ((forAll (List.range n) u fun v i =>
            v.reachWrite (u.srcOfDev p.src) (a + 16 * i) (p.payload.getD (i + 1) 0)).originate 8 2 p.src 0 6
          [BitVec.ofNat 72 ((p.payload.headD 0).bits 53 16 +
            b2n ((List.range n).any fun i => u.writeReach (u.srcOfDev p.src) (a + 16 * i) == .none) * 2 ^ 16)])))

/-- Of the commands of one grain that conflict, one executes. Among the commands of one grain that execute, no two conflict; and every command of the grain that does not execute conflicts with one that does, of a higher rank, or of the same rank and no earlier arrival. (16_host.md, R465; 16_host.md, R466) -/
def Obligations.GrainsSettleConflicts : Prop :=
  ∀ l : List PCmd, (winners l).Pairwise (fun x y => x.conflicts y = false) ∧
    (∀ x ∈ winners l, x ∈ l) ∧ (∀ x ∈ l, x ∉ winners l → ∃ w ∈ winners l, x.conflicts w = true ∧ w.beats x = true)

/-- A grain is executed at most once. GRAIN_START of a grain at or below G_DONE changes nothing. In MUSTER and every mode above it, GRAIN_START of a later grain completes, and G_DONE then stands at or above that grain, so no later GRAIN_START of it does anything. (16_host.md, R464; 16_host.md, R465) -/
def Obligations.GrainsRunOnce : Prop :=
  ∀ (s : State) (g : Nat) (ge : GrainEnv),
    (g ≤ s.rg.gDone → exec (.grainStart g ge) s = .next s) ∧
    (mMUSTER ≤ s.mode → s.rg.gDone < g → ∃ t : State, exec (.grainStart g ge) s = .next t ∧ g ≤ t.rg.gDone ∧ exec (.grainStart g ge) t = .next t)

/-- A command that waits passed the registrar's checks. When the registrar reads a Griwano source's record, at most that record joins the commands that wait. It joins only when its opcode is in the command table, its source has the level of that row, a row that needs OWNER carries a signature that verifies and a number above the signed-command counter, the device's mode is one of the row's, its grain has not closed and lies above G_DONE, and there was room for it. (16_host.md, R453; 16_host.md, R457; 16_host.md, R462; 16_host.md, R467) -/
def Obligations.OnlyRightfulCommandsWait : Prop :=
  ∀ (s t : State) (p : Pkt), exec (.griwanoCommand p) s = .next t →
    t.rg.pend = s.rg.pend ∨
    ∃ (x : PCmd) (row : CmdRow), t.rg.pend = s.rg.pend ++ [x] ∧
      let r : CmdRec := ⟨(p.payload.flatMap Word.octets).take 64, (p.payload.flatMap Word.octets).drop 64⟩
      let u := s.takeInbox 8 p
      let src := u.srcOfDev p.src
      cmdRow r.opcode = some row ∧ x.hdr.opcode = r.opcode ∧ x.hdr.src = src ∧ row.level ≤ u.level src ∧
        (row.level = lvOWNER → r.signed = true ∧ u.sigGood row r = true) ∧ u.modeBit &&& row.modes ≠ 0 ∧
        u.closed x.hdr.grain = false ∧ s.rg.gDone < x.hdr.grain ∧ s.waitingCmds.length < 1024

/-- The registrar reads the records that a doorbell or a packet brings. On a port that is UP with its rings enabled, a doorbell whose tail and head do not lie behind moves both; the record at CMD_READ of the command ring is then read from host memory when no completion waits for room: CMD_READ moves on by 1 and the record is checked and taken as R462 gives, before the records after it. A record that host memory does not give stops the reading (the model's choice: log entry 61). A command packet that is the first to wait for the keeper, 64 octets or longer, is taken the same way. (16_host.md, R455; 16_host.md, R458; 16_host.md, R459; 16_host.md, R462) -/
def Obligations.RecordsAreReadInOrder : Prop :=
  (∀ (s : State) (p tail head : Nat) (mem : List HRead), p < 2 → s.portState p = 1 → mMUSTER ≤ s.mode →
      s.get (HP_RINGCFG_EN p) = 1 → ahead (s.port p).cmdTail tail = true → ahead (s.port p).cplHead head = true →
      (s.port p).waiting = [] → s.get (HP_PTR_CMD_READ p) ≠ tail % 2 ^ 32 →
      let u := s.setPort p { s.port p with cmdTail := tail % 2 ^ 32, cplHead := head % 2 ^ 32 }
      let at0 := s.get (HP_CMD_BASE_ADDR p) * 64 + 64 * (s.get (HP_PTR_CMD_READ p) % 2 ^ s.get (HP_RINGCFG_CMD_LOG2 p))
      u.cplRoom p = true →
      (hostOctets mem p at0 64 = none → exec (.commandDoorbell p tail head mem) s = .next u) ∧
      (∀ o, hostOctets mem p at0 64 = some o → (CmdRec.mk o []).signed = false → (CmdRec.mk o []).extLen = 0 →
        exec (.commandDoorbell p tail head mem) s = .next
          ((((u.put (HP_PTR_CMD_READ p) ((s.get (HP_PTR_CMD_READ p) + 1) % 2 ^ 32)).bump (HP_COUNT_CMDS p)).takeRec p ⟨o, []⟩).readRecs p mem
            ((tail % 2 ^ 32 + 2 ^ 32 - s.get (HP_PTR_CMD_READ p)) % 2 ^ 32 - 1))) ∧
      (∀ o e, hostOctets mem p at0 64 = some o → (CmdRec.mk o []).signed = true ∨ (CmdRec.mk o []).extLen ≠ 0 →
        hostOctets mem p (recNum o 56 8) (64 + (CmdRec.mk o []).extLen) = some e →
        exec (.commandDoorbell p tail head mem) s = .next
          ((((u.put (HP_PTR_CMD_READ p) ((s.get (HP_PTR_CMD_READ p) + 1) % 2 ^ 32)).bump (HP_COUNT_CMDS p)).takeRec p ⟨o, e⟩).readRecs p mem
            ((tail % 2 ^ 32 + 2 ^ 32 - s.get (HP_PTR_CMD_READ p)) % 2 ^ 32 - 1)))) ∧
    (∀ (s : State) (p : Pkt), mMUSTER ≤ s.mode → s.inboxHead 8 p = true → p.vc = 2 → p.sub = 1 →
      64 ≤ (p.payload.flatMap Word.octets).length →
      exec (.griwanoCommand p) s = .next ((s.takeInbox 8 p).takeRec ((s.takeInbox 8 p).srcOfDev p.src)
        ⟨(p.payload.flatMap Word.octets).take 64, (p.payload.flatMap Word.octets).drop 64⟩))

/-- What an acknowledgement of a product does. An acknowledgement by target k (0 or 1) of product p, in the current epoch, moves ACKED to p when ACKED < p and p is at most SENT; at or below ACKED it changes nothing; above SENT, or of another epoch, it is ignored and counted in ACK_BAD. ACKED and SENT are kept as the number of products acknowledged and sent, one above the last one's number. (R358) -/
def Obligations.AcknowledgementsAreCumulative : Prop :=
  ∀ (s : State) (r k p epoch : Nat), k < 2 →
    (epoch = s.nvm.epoch → (s.ring r).nAck k ≤ p → p < (s.ring r).nSent k → ((s.ackRing r k p epoch).ring r).nAck k = p + 1) ∧
    (epoch = s.nvm.epoch → p < (s.ring r).nAck k → p < (s.ring r).nSent k → s.ackRing r k p epoch = s) ∧
    ((epoch ≠ s.nvm.epoch ∨ (s.ring r).nSent k ≤ p) →
      s.ackRing r k p epoch = (s.bump (PR_COUNT1_ACK_BAD (ringDie r))).raise (PR_EVENTS_ACK_BAD (ringDie r)))

/-- Acknowledgement doorbells, ports and interrupts. An acknowledgement doorbell of a source below OPERATOR changes nothing but NO_RIGHT; of a ring with a target on the port it applies the acknowledgement to each such target and then takes the consumer record of an enabled landing ring. A port that comes up takes its link, shows the host its PCIe function with the part's device ID, resends what its targets lack and writes the completions that waited. A retrain or tunnel loss within the bucket's threshold charges the bucket, and the loss takes the port DOWN; beyond it, or when its self-test fails, the port is deaccessioned. At the end of a vector's holdoff, IRQ_HOLDOFF_US after its signal, the vector may be signalled again, and is when an event merged meanwhile. (16_host.md, R439; 16_host.md, R440; 16_host.md, R443; 16_host.md, R450; 16_host.md, R469) -/
def Obligations.PortsAndRings : Prop :=
  (∀ (s : State) (p r data : Nat) (cons : Option (Nat × Nat)), p < 2 → s.portState p = 1 → r < 8192 →
      (s.level p < lvOPERATOR → exec (.ackDoorbell p r data cons) s = .next (s.bump (HP_COUNT_NO_RIGHT p))) ∧
      (lvOPERATOR ≤ s.level p → ((s.liveTargets r).filter fun t => (s.targetOf r t).1 == p + 1) ≠ [] →
        let u := forAll ((s.liveTargets r).filter fun t => (s.targetOf r t).1 == p + 1) s fun s t =>
          s.ackRing r t (bitsOf data 0 48) (bitsOf data 48 16)
        (∀ c, s.get (LAND_STATE_EN p r) = 1 → exec (.ackDoorbell p r data (some c)) s = .next (u.consume p r c.1)) ∧
        exec (.ackDoorbell p r data none) s = .next u)) ∧
    (∀ (s : State) (p link : Nat), p < 2 → mMUSTER ≤ s.mode → 1 ≤ link → link ≤ 3 →
      (s.portState p = 1 → exec (.portUp p link) s = .next (s.put (HP_STATUS_LINK p) link)) ∧
      (s.portState p = 0 →
        let u := ((s.put (HP_STATUS_LINK p) link).put (HP_STATUS_STATE p) 1).emitOut
          (.pcie p 0x1F5D (match s.part with | .zn202 => 0x2202 | .zn204 => 0x2204 | .zn208 => 0x2208) 0x118000)
        let v := forAll (u.targetsTo (p + 1) 0) u fun s t => s.resend t.1 t.2
        exec (.portUp p link) s = .next (v.flushCpl p (v.port p).waiting.length))) ∧
    (∀ (s : State) (p : Nat), p < 2 → mMUSTER ≤ s.mode → s.portState p = 1 →
      (s.get (HP_STATUS_BUCKET p) < s.get (HP_CFG_ERR_THRESH p) →
        ∃ t : State, exec (.portDown p true false) s = .next t ∧ t.portState p = 0 ∧ t.get (HP_STATUS_LINK p) = 0 ∧
          t.get (HP_STATUS_BUCKET p) = s.get (HP_STATUS_BUCKET p) + 1 ∧ (∀ a, a ≠ HP_STATUS p → t.rd a = s.rd a)) ∧
      (s.get (HP_STATUS_BUCKET p) < s.get (HP_CFG_ERR_THRESH p) →
        ∃ t : State, exec (.portDown p false false) s = .next t ∧ t.portState p = 1 ∧
          t.get (HP_STATUS_BUCKET p) = s.get (HP_STATUS_BUCKET p) + 1 ∧ (∀ a, a ≠ HP_STATUS p → t.rd a = s.rd a)) ∧
      (∀ lost, exec (.portDown p lost true) s = .next (s.losePort p)) ∧
      (∀ lost, s.get (HP_CFG_ERR_THRESH p) < s.get (HP_STATUS_BUCKET p) + 1 →
        exec (.portDown p lost false) s = .next ((s.charge ⟨dcKEEPER, 8, p⟩ 0 (HP_STATUS_BUCKET p)).losePort p))) ∧
    (∀ (s : State) (p v : Nat), p < 2 → v ∈ (s.port p).holdoff →
      let u := (s.advance (s.timer (tkHold p v) + s.get (HP_CFG_IRQ_HOLDOFF_US p) * tUs)).setPort p { s.port p with holdoff := (s.port p).holdoff.erase v, merged := (s.port p).merged.erase v }
      (v ∉ (s.port p).merged → exec (.msixHoldoff p v) s = .next u) ∧ (v ∈ (s.port p).merged → exec (.msixHoldoff p v) s = .next (u.msix p v)))

/-- What FADE, COEF_LOAD, POLY_SET and BEAM_SET write. On a die of the part, for an input or descriptor in range and in a mode of its row: POLY_SET writes the pending polynomial set and marks it pending for its grain; BEAM_SET writes the nine words of the pending descriptor and marks it pending for its grain; FADE, where no fade of the input runs or waits, the queue has room and the input is in fade mode, joins the die's queue with its length and grain; COEF_LOAD, where no fade of the input runs or waits, loads the 80 words of the bank that is not live from the coefficient set. Each then completes DONE. No slot but those named changes before the completion, nor any other part of the state but the die's fade queue. (16_host.md, R461; 04_delay_filter.md, R95; 04_delay_filter.md, R108; 12_beam_engine.md, R318) -/
def Obligations.CommandsThatSetUpTheSignalPath : Prop :=
  (∀ (s : State) (c : CmdHdr) (d i : Nat) (p : Poly), s.modeBit &&& 6 ≠ 0 → d < s.part.dies → i < 128 →
      ∃ u : State, exec (.polySet c d i p) s = .next (u.complete c ccDONE 0) ∧ u = { s with regs := u.regs } ∧
        u.rd (PEND_T0 d i) = BitVec.ofNat 72 (p.t0 % 2 ^ 70) ∧ u.get (PEND_C_COEF d i 0) = p.c0 % 2 ^ 64 ∧ u.get (PEND_C_COEF d i 1) = p.c1 % 2 ^ 64 ∧
        u.get (PEND_C_COEF d i 2) = p.c2 % 2 ^ 64 ∧ u.get (PEND_C_COEF d i 3) = p.c3 % 2 ^ 64 ∧ u.get (POLY_CTRL_EFF_GRAIN d i) = c.grain % 2 ^ 48 ∧
        u.get (POLY_CTRL_PENDING d i) = 1 ∧
        ∀ a, a ≠ PEND_T0 d i → (∀ j, j < 4 → a ≠ PEND_C d i j) → a ≠ POLY_CTRL d i → u.rd a = s.rd a) ∧
    (∀ (s : State) (c : CmdHdr) (d b : Nat) (ws : List Word), s.modeBit &&& 6 ≠ 0 → d < s.part.dies → b < 1024 →
      ∃ u : State, exec (.beamSet c d b ws) s = .next (u.complete c ccDONE 0) ∧ u = { s with regs := u.regs } ∧
        (∀ w, w < 9 → u.get (PEND_WORD d b w) = (ws.getD w 0).toNat) ∧ u.get (PEND_CTRL_EFF_GRAIN d b) = c.grain % 2 ^ 48 ∧
        u.get (PEND_CTRL_PENDING d b) = 1 ∧
        ∀ a, (∀ w, w < 9 → a ≠ (PEND_WORD d b w).addr) → a ≠ PEND_CTRL d b → u.rd a = s.rd a) ∧
    (∀ (s : State) (c : CmdHdr) (d i l : Nat), s.modeBit &&& 4 ≠ 0 → d < s.part.dies → i < 128 → 64 ≤ l → l ≤ 65536 →
      s.fadeBusy d i = false → (s.dfu d).queue.length < 128 → s.get (IN_CFG_MODE d i) = 1 →
      ∃ u : State, exec (.fade c d i l) s = .next (u.complete c ccDONE 0) ∧ u = { s with regs := u.regs, dfus := u.dfus } ∧
        (u.dfu d).queue = (s.dfu d).queue ++ [i] ∧ (∀ e, e ≠ d → u.dfu e = s.dfu e) ∧ u.get (FADE_REQ_LEN_M1 d i) = l - 1 ∧
        u.get (FADE_REQ_GRAIN d i) = c.grain % 2 ^ 48 ∧ u.get (IN_STATUS_QUEUED d i) = 1 ∧
        ∀ a, a ≠ FADE_REQ d i → a ≠ IN_STATUS d i → a ≠ DFU_STATUS d → u.rd a = s.rd a) ∧
    (∀ (s : State) (c : CmdHdr) (d i k : Nat), s.modeBit &&& 4 ≠ 0 → d < s.part.dies → i < 128 → s.fadeBusy d i = false →
      ∃ u : State, exec (.coefLoad c d i k) s = .next (u.complete c ccDONE 0) ∧ u = { s with regs := u.regs } ∧
        (∀ w, w < 80 → u.rd (COEF d i (1 - s.get (IN_CFG_LIVE d i)) w) = Config.coefSetWord (s.get PROG_STATE_RUNNING) d k w) ∧
        ∀ a, (∀ w, w < 80 → a ≠ COEF d i (1 - s.get (IN_CFG_LIVE d i)) w) → u.rd a = s.rd a)

/-- PROG_START, PROG_STOP, ATTEST, ASYM_CAL, DUMP, CTR_SNAP and VITRINE complete. In a mode of its row: PROG_START of a programme that runs is DONE at once; of another that is defined, while no start waits, it becomes the switch of the next consignment boundary: there the stopped programme resumes, or, where nothing runs and nothing is left to drain, the programme runs in its place, and the command is DONE. PROG_STOP is DONE at once when nothing runs; else the next boundary suspends the programme and the command is DONE there. ATTEST joins the SEC's queue while fewer than 16 requests of commands wait; signed, its report enters ATT_RING and the command is DONE. ASYM_CAL of a chain of the part with a count from 16 to 2^24 - 1 opens a calibration of that chain alone, with all its messages to be sent and received. DUMP of a set that is enabled on every named die closes there the interval of every one that has none under way and has begun a short integration; where none has, it is DONE. In OBSERVE or CURTAILED: CTR_SNAP of counters on present dies reads them, and with its product in CTR_RING it is DONE. VITRINE of inputs of the part completes DONE with the number of the vitrine that the trigger opened or joined, or BUSY where the trigger was refused; where a beam trigger may still come in its grain it waits for the grain's end. On one input of a die without open vitrines it opens one with the next number. (16_host.md, R461; 05_acceptance.md, R118; 14_time.md, R401; 18_security.md, R508; 17_image_startup.md, R483; 05_acceptance.md, R139; 22_counters.md, R581; 22_counters.md, R582) -/
def Obligations.CommandsThatStayInExecution : Prop :=
  ((∀ (s : State) (c : CmdHdr) (p : Nat), s.modeBit &&& 4 ≠ 0 → p < 16 → s.progDefined p = true → s.nvm.switchTo = none →
      (p = s.get PROG_STATE_RUNNING → s.nvm.progOn = true → (s.rg.running.any fun r => r.kind == .progStop) = false →
        exec (.progStart c p) s = .next (s.complete c ccDONE 0)) ∧
      ((p ≠ s.get PROG_STATE_RUNNING ∨ s.nvm.progOn = false) →
        let t := ({ s with nvm := { s.nvm with switchTo := some p } }).run c (.progStart p (decide (c.src = 255)))
        exec (.progStart c p) s = .next t ∧
          (∀ bad : List Nat, s.rg.running = [] → c.src ≤ 1 → c.log < 4096 → s.nvm.switching = false →
            (s.nvm.suspended = true → p = s.get PROG_STATE_RUNNING →
              ∃ u : State, exec (.programmeSwitch bad) t = .next u ∧ u.nvm.progOn = true ∧ u.nvm.switchTo = none ∧ u.nvm.suspended = false ∧
                u.rg.running = [] ∧ u.get (CLOG0_CODE c.log) = ccDONE) ∧
            (s.nvm.suspended = false → s.nvm.progOn = false → t.toBoundary.storeFails p bad = [] →
              (forAll t.toBoundary.dies { t.toBoundary with nvm := { t.toBoundary.nvm with switching := true } } State.saveBanks).drainedAll = true →
              ∃ u : State, exec (.programmeSwitch bad) t = .next u ∧ u.nvm.progOn = true ∧ u.nvm.switchTo = none ∧ u.get PROG_STATE_RUNNING = p ∧
                u.rg.running = [] ∧ u.get (CLOG0_CODE c.log) = ccDONE)))) ∧
    (∀ (s : State) (c : CmdHdr), s.modeBit &&& 4 ≠ 0 →
      (s.nvm.progOn = false → exec (.progStop c) s = .next (s.complete c ccDONE 0)) ∧
      (s.nvm.progOn = true → exec (.progStop c) s = .next (s.run c .progStop) ∧
        ∀ k : Nat, s.rg.running = [] → c.src ≤ 1 → c.log < 4096 → s.nextInterval k = true →
          ∃ u : State, exec (.intervalStart k) (s.run c .progStop) = .next u ∧ u.nvm.progOn = false ∧ u.nvm.suspended = true ∧ u.rg.running = [] ∧
            u.get (CLOG0_CODE c.log) = ccDONE)) ∧
    (∀ (s : State) (c : CmdHdr) (nonce : List Nat), s.modeBit &&& 7 ≠ 0 → s.attWaiting < 16 →
      ∃ t : State, exec (.attest c nonce) s = .next t ∧ t.sec.queue = s.sec.queue ++ [SecReq.attest nonce (some c)] ∧ t.attWaiting = s.attWaiting + 1 ∧
        t = { s with regs := t.regs, sec := { s.sec with queue := t.sec.queue } } ∧ (∀ a, a ≠ SEC_STATUS → t.rd a = s.rd a) ∧
        (s.sec.queue = [] → s.packerOn = true → c.src ≤ 1 → c.log < 4096 →
          t.ringTakes (s.get PKC_RINGS_ATT_RING) 8 = true → t.place (s.get PKC_RINGS_ATT_RING) (4 + wordsFor (t.report nonce).length) ≠ .none →
          (s.ring (s.get PKC_RINGS_ATT_RING)).full = false →
          ∃ u : State, exec .attestationSign t = .next u ∧ u.get (CLOG0_CODE c.log) = ccDONE ∧
            ∃ (res : Bool) (pos : Nat), (u.ring (s.get PKC_RINGS_ATT_RING)).prods = (s.ring (s.get PKC_RINGS_ATT_RING)).prods ++
              [⟨s.get (rcNEXT (s.get PKC_RINGS_ATT_RING)), 8, 4 + wordsFor (t.report nonce).length, res, pos⟩])) ∧
    (∀ (s : State) (c : CmdHdr) (k n : Nat), s.modeBit &&& 6 ≠ 0 → k < 2 * s.part.dies → 16 ≤ n → n < 2 ^ 24 →
      exec (.asymCal c k n) s = .next (({ s with te := { s.te with cal := s.te.cal.filter (fun (q : CalSt) => q.chain != k) ++ [CalSt.mk k n n 0 0] } }).run c
        (.asymCal k))) ∧
    (∀ (s : State) (c : CmdHdr) (dies x : Nat), s.modeBit &&& 4 ≠ 0 → s.nvm.progOn = true → setBitsOf dies 8 ≠ [] → x < 16 →
      (∀ d ∈ setBitsOf dies 8, s.present d = true ∧ s.get (DSET_CFG_EN d x) = 1 ∧ s.dumpRun d x = none) →
      let last := fun (d : Nat) => (s.siOf d (s.folioAt d (c.grain * tUs : Nat)).toNat : Int) - 1
      ((∀ d ∈ setBitsOf dies 8, (s.get (DSET_STATE_FIRST_SI d x) : Int) ≤ last d) →
        ∃ t : State, exec (.dump c dies x) s = .next t ∧ t.rg.running = s.rg.running ++ [⟨c, .dump x (setBitsOf dies 8)⟩] ∧
          ∀ d ∈ setBitsOf dies 8, (t.led d).runs = (s.led d).runs ++ [DumpRun.mk x (s.get (DSET_STATE_FIRST_SI d x)) (last d).toNat 0] ∧
            t.get (DSET_STATE_DONE_BLK d x) = 0) ∧
      ((∀ d ∈ setBitsOf dies 8, last d < (s.get (DSET_STATE_FIRST_SI d x) : Int)) → exec (.dump c dies x) s = .next (s.complete c ccDONE 0)))) ∧
  ((∀ (s : State) (c : CmdHdr) (dies ctrs : Nat), s.modeBit &&& 4 ≠ 0 → setBitsOf dies 8 ≠ [] → ctrs % 2 ^ 64 ≠ 0 →
      (∀ d ∈ setBitsOf dies 8, d < s.part.dies ∧ d ∉ s.flt.absent) →
      ∃ t : State, exec (.ctrSnap c dies ctrs) s = .next t ∧
        t.snaps = (s.snapDies c ctrs (setBitsOf dies 8)).2.snaps ++ [Snap.mk c dies ctrs (s.snapDies c ctrs (setBitsOf dies 8)).1]) ∧
    (∀ (s : State) (c : CmdHdr) (d k : Nat), s.modeBit &&& 4 ≠ 0 → s.present d = true → d ∉ s.flt.absent → k < 64 → s.snaps = [] → d < 8 →
      ∃ (t : State) (w : Word), exec (.ctrSnap c (2 ^ d) (2 ^ k)) s = .next t ∧ t.snaps = [Snap.mk c (2 ^ d) (2 ^ k) [(d, [w])]] ∧
        w.bits 0 48 = s.get (PMON_CTR_VALUE d k) ∧ t.get (PMON_CTR_VALUE d k) = s.get (PMON_CTR_VALUE d k) ∧ t.get (PMON_CTR_OVF d k) = 0 ∧
        (c.src ≤ 1 → c.log < 4096 → t.ringTakes (s.get PKC_RINGS_CTR_RING) 9 = true → t.place (s.get PKC_RINGS_CTR_RING) 9 ≠ .none →
          (s.ring (s.get PKC_RINGS_CTR_RING)).full = false →
          ∃ u : State, exec .snapshotComplete t = .next u ∧ u.snaps = [] ∧ u.get (CLOG0_CODE c.log) = ccDONE ∧
            ∃ (res : Bool) (pos : Nat), (u.ring (s.get PKC_RINGS_CTR_RING)).prods = (s.ring (s.get PKC_RINGS_CTR_RING)).prods ++
              [⟨s.get (rcNEXT (s.get PKC_RINGS_CTR_RING)), 9, 9, res, pos⟩])) ∧
    (∀ (s : State) (c : CmdHdr) (t pre post first count : Nat), s.modeBit &&& 4 ≠ 0 → first + count ≤ 128 * s.part.dies → count ≠ 0 →
      let w := s.window (unpackTime t) (pre * tUs) (post * tUs)
      let r := s.trigger (unpackTime t) 1 w.1 w.2 first count
      (s.vitRace = false →
        (∀ n, r.2 = some n → exec (.vitrine c t pre post first count) s = .next (r.1.complete c ccDONE n)) ∧
        (r.2 = none → exec (.vitrine c t pre post first count) s = .next (r.1.complete c ccBUSY 0))) ∧
      (s.vitRace = true → exec (.vitrine c t pre post first count) s =
        .next { s with acc := { s.acc with vitCmds := s.acc.vitCmds ++ [⟨c, unpackTime t, pre, post, first, count, grainOf s.now⟩] } })) ∧
    (∀ (s : State) (c : CmdHdr) (t pre post d i : Nat), s.modeBit &&& 4 ≠ 0 → s.vitRace = false → s.present d = true → i < 128 →
      (∀ v, v < 16 → s.vitOpen d v = false) →
      ∃ u : State, exec (.vitrine c t pre post (128 * d + i) 1) s = .next (u.complete c ccDONE s.acc.nextVit) ∧ u.acc.nextVit = (s.acc.nextVit + 1) % 2 ^ 32 ∧
        u.vitOpen d 0 = true ∧ u.get (VIT_STATE_NUMBER d 0) = s.acc.nextVit % 2 ^ 32 ∧ u.get (VIT_STATE_SOURCE d 0) = 1 ∧ u.vitSlots d 0 = [i]))

/-- REF_FORCE, SYSREF_BURST, SET_TIME and ASYM_CAL, from acceptance to their end. In ALIGN, OBSERVE or CURTAILED: REF_FORCE of a candidate while no switch runs leaves the selected reference, acquires another from FREERUN, and else begins the switch to it. SYSREF_BURST gives every named output its grain, and each in BURST mode sends the BURST_N + 1 pulses of its burst at its pulse times from that grain on. SET_TIME without a PPS sets device time to the second given; with one it waits for that reference's edge. Each completes DONE. At the edge of the PPS that SET_TIME named, device time is the named second and time is set; then the grains that the step passed are run. When a calibration has sent and received all its messages, ASYM_PS is the half difference of the two means of the delays rounded down, N and VALID are set, and the calibration is over. (14_time.md, R380; 14_time.md, R391; 14_time.md, R404; 16_host.md, R461; 14_time.md, R401) -/
def Obligations.CommandsOfTimeAndReferences : Prop :=
  ((∀ (s : State) (c : CmdHdr) (r : Nat), s.modeBit &&& 6 ≠ 0 → s.get RSC_STATUS_SWITCHING = 0 → r ∈ s.candidates →
      (r = s.get RSC_STATUS_SEL → exec (.refForce c r) s = .next (s.complete c ccDONE 0)) ∧
      (r ≠ s.get RSC_STATUS_SEL → s.get RSC_STATUS_STATE = dpFREERUN →
        ∃ u : State, exec (.refForce c r) s = .next (u.complete c ccDONE 0) ∧ u.get RSC_STATUS_SEL = r ∧ u.get RSC_STATUS_STATE = dpACQUIRE) ∧
      (r ≠ s.get RSC_STATUS_SEL → s.get RSC_STATUS_STATE ≠ dpFREERUN →
        ∃ u : State, exec (.refForce c r) s = .next (u.complete c ccDONE 0) ∧ u.get RSC_STATUS_SWITCHING = 1 ∧ u.rsc.target = some r)) ∧
    (∀ (s : State) (c : CmdHdr) (mask : Nat), s.modeBit &&& 6 ≠ 0 →
      ∃ u : State, exec (.sysrefBurst c mask) s = .next (u.complete c ccDONE 0) ∧ u = { s with regs := u.regs, out := u.out } ∧
        ∀ k, k < 8 → bit mask k = true → u.get (SYSREF_CFG_GRAIN k) = c.grain % 2 ^ 42 ∧
          (s.get (SYSREF_CFG_MODE k) = 2 →
            Output.burst k ((List.range (s.get (SYSREF_CFG_BURST_N k) + 1)).map fun i => s.pulseTime k (s.pulseFrom k c.grain + i)) ∈ u.out)) ∧
    (∀ (s : State) (c : CmdHdr) (sec pps : Nat), s.modeBit &&& 6 ≠ 0 →
      (∃ u : State, exec (.setTime c sec 0) s = .next (u.complete c ccDONE 0) ∧ u.now = sec * tSec ∧ u.te.timeSet = true ∧ u.te.setTime = none) ∧
      (pps = 1 ∨ pps = 2 → exec (.setTime c sec pps) s = .next (({ s with te := { s.te with setTime := some (sec, pps + 1) } }).complete c ccDONE 0)))) ∧
  (∀ s : State,
    (∀ (sec r : Nat) (ge : GrainEnv), s.te.setTime = some (sec, r) → s.runs = true →
      ∃ u : State, exec (.ppsEdge r ge) s = .next (u.catchUp ge) ∧ u.now = sec * tSec ∧ u.te.timeSet = true ∧ u.te.setTime = none ∧ u.get TE_EVENTS_TIME_STEP = 1 ∧
        u.get TE_COUNT_STEPS = min (2 ^ 24 - 1) (s.get TE_COUNT_STEPS + 1)) ∧
    (∀ (k n : Nat) (q : CalSt) (b : Int), 0 < n → (s.te.cal.find? fun q => q.chain == k && q.left == 0 && q.got == q.n) = some q → k < 16 →
      ∃ t : State, exec (.calDone k b n) s = .next t ∧ t.te.cal = s.te.cal.filter (fun q => q.chain != k) ∧ (∀ x ∈ t.rg.running, x.kind ≠ .asymCal k) ∧ t.now = s.now ∧
        ((∀ x ∈ s.rg.running, x.kind = .asymCal k → x.hdr.src ≤ 1 ∧ x.hdr.log < 4096) →
          t.get (TE_ASYM_MEAS_ASYM_PS k) = unsigned 32 ((q.sum * n - b * q.n) / (2 * q.n * n : Nat)) ∧ t.get (TE_ASYM_MEAS_N k) = q.n % 2 ^ 24 ∧ t.get (TE_ASYM_MEAS_VALID k) = 1 ∧
            t.get TE_EVENTS_CAL_DONE = 1)))

/-- LAND_REG and LAND_DROP. LAND_REG of a ring with a target on the port, with fitting size, base and vector, enables the landing ring with WRITTEN and CONSUMED at the count that the consumer record holds; LAND_DROP of an enabled one disables it. Each completes DONE. (16_host.md, R447; 16_host.md, R448; 16_host.md, R461) -/
def Obligations.LandingRingsOnCommand : Prop :=
  (∀ (s : State) (c : CmdHdr) (r k vec base cons prod : Nat) (mem : List HRead) (o : List Nat), s.modeBit &&& 6 ≠ 0 → r < 8192 → s.landOk c.src r k vec base = true →
      hostOctets mem c.src cons 8 = some o →
      ∃ u : State, exec (.landReg c r k vec base cons prod mem) s = .next (u.complete c ccDONE 0) ∧ u.land c.src r = ⟨ofOctets o, ofOctets o, false⟩ ∧
        u.get (LAND_STATE_EN c.src r) = 1 ∧ u.get (LAND_STATE_SLOTS_LOG2 c.src r) = k ∧ u.get (LAND_STATE_VECTOR c.src r) = vec) ∧
    (∀ (s : State) (c : CmdHdr) (r : Nat), s.modeBit &&& 6 ≠ 0 → c.src < 2 → s.get (LAND_STATE_EN c.src r) = 1 →
      ∃ u : State, exec (.landDrop c r) s = .next (u.complete c ccDONE 0) ∧ u.get (LAND_STATE_EN c.src r) = 0 ∧ (u.land c.src r).stopped = true ∧
        u = { s with regs := u.regs, lands := u.lands } ∧ ∀ a, a ≠ LAND_STATE c.src r → u.rd a = s.rd a)

/-- REINSTATE, OWNER_TRANSFER, DEBUG_UNLOCK and EPOCH_RESET. In a mode of its row: REINSTATE of a unit that is not deaccessioned clears its buckets; of one that is, it reinstates the unit: a DRAM symbol leaves the deaccessioned units at once, a lane leaves DEACC, an input waits to rejoin, and a unit with a BIST waits to rejoin when it passes (RESULT 0) and stays deaccessioned when it fails (RESULT 1). OWNER_TRANSFER to another hash than the owner's, with a slot free and no image key known, makes that hash the pending owner; where the running image's key meets the hash, its slot is burned at once; to the present owner's hash it withdraws one. DEBUG_UNLOCK with a response that verifies under the owner key unlocks for its scope and time, where the scope's bit 0 erases the seal key first and is refused in OBSERVE and CURTAILED; one that does not verify counts a failure and completes WRONG_MODE; both end the challenge. EPOCH_RESET in a stop for want of an epoch, with zero arguments, and in one for want of the counter store with a floor up to the image's, sets the counters and continues the start, which makes epoch 1 when the TRNG serves. (18_security.md, R499; 18_security.md, R513; 20_faults.md, R541; 17_image_startup.md, R490; 17_image_startup.md, R613) -/
def Obligations.OwnerCommands : Prop :=
  (∀ (s : State) (c : CmdHdr) (u : UnitId) (b : Bool), s.modeBit &&& 6 ≠ 0 → 1 ≤ u.kind → u.kind ≤ 10 → u.kind ≠ 9 → s.unitExists u = true →
      (s.isDead u = false → exec (.reinstate c u b) s = .next ((s.clearBuckets u).complete c ccDONE 0)) ∧
      (s.isDead u = true → exec (.reinstate c u b) s = .next ((s.reinstateUnit u b).1.complete c ccDONE (s.reinstateUnit u b).2) ∧
        (u.kind = 7 → ∃ t : State, exec (.reinstate c u b) s = .next (t.complete c ccDONE 0) ∧ t.flt.dead = s.flt.dead.erase u) ∧
        (u.kind = 1 → ∃ t : State, exec (.reinstate c u b) s = .next (t.complete c ccDONE 0) ∧ t.laneState u.die u.idx ≠ lnDEACC) ∧
        (u.kind = 2 → ∃ t : State, exec (.reinstate c u b) s = .next (t.complete c ccDONE 0) ∧ t.flt.rejoin.contains u = true) ∧
        (3 ≤ u.kind → u.kind ≠ 7 → b = false → ∃ t : State, exec (.reinstate c u b) s = .next (t.complete c ccDONE 1)) ∧
        (3 ≤ u.kind → u.kind ≠ 7 → b = true → (s.fc u.die).loans = [] → (s.gal u.die).loan = none →
          ∃ t : State, exec (.reinstate c u b) s = .next (t.complete c ccDONE 0) ∧ t.flt.rejoin.contains u = true ∧ t.flt.dead = s.flt.dead.erase u))) ∧
    (∀ (s : State) (c : CmdHdr) (h : List Nat) (base : List Baseline), s.modeBit &&& 6 ≠ 0 → s.sec.slots.length < 8 →
      (h ≠ noHash → s.ownerHash ≠ some h → s.sec.imageKey = [] ∨ sha256 s.sec.imageKey ≠ h →
        ∃ t : State, exec (.ownerTransfer c h base) s = .next (t.complete c ccDONE 0) ∧ t.sec.pendOwner = some h ∧ t.sec.slots = s.sec.slots) ∧
      (h ≠ noHash → s.ownerHash ≠ some h → s.sec.imageKey ≠ [] → sha256 s.sec.imageKey = h →
        ∃ t : State, exec (.ownerTransfer c h base) s = .next (t.complete c ccDONE 0) ∧ t.sec.pendOwner = none ∧ t.sec.slots = s.sec.slots ++ [h]) ∧
      (h = noHash ∨ s.ownerHash = some h → ∃ t : State, exec (.ownerTransfer c h base) s = .next (t.complete c ccDONE 0) ∧ t.sec.pendOwner = none ∧ t.sec.slots = s.sec.slots)) ∧
    (∀ (s : State) (c : CmdHdr) (resp : List Nat), s.modeBit &&& 6 ≠ 0 → resp.length = 128 → resp.getD 64 0 < 8 →
      1 ≤ recNum resp 65 4 → recNum resp 65 4 ≤ 86400 → (resp.drop 69).all (· == 0) = true →
      ((s.unlockKey.any fun k => sigOk k (s.unlockMsg resp) (resp.take 64)) = true →
        (bit (resp.getD 64 0) 0 = true → s.accepts = true → exec (.debugUnlock c resp) s = .next (s.newChallenge.complete c ccWRONGMODE 0)) ∧
        (bit (resp.getD 64 0) 0 = false ∨ s.accepts = false →
          ∃ t : State, exec (.debugUnlock c resp) s = .next (t.newChallenge.complete c ccDONE 0) ∧ (bit (resp.getD 64 0) 0 = true → t.sec.sealKey = none) ∧
          (bit (resp.getD 64 0) 0 = false → t.sec.sealKey = s.sec.sealKey) ∧ t.sec.unlockEnd = s.now + recNum resp 65 4 * tSec ∧
          Output.jtag (resp.getD 64 0) (recNum resp 65 4) ∈ t.out)) ∧
      ((s.unlockKey.any fun k => sigOk k (s.unlockMsg resp) (resp.take 64)) = false →
        ∃ t : State, exec (.debugUnlock c resp) s = .next (t.newChallenge.complete c ccWRONGMODE 0) ∧ t.sec = s.sec ∧ t.out = s.out)) ∧
    (∀ (s : State) (c : CmdHdr) (env : MusterEnv), s.modeBit &&& 1 ≠ 0 →
      (s.nvm.stop = .epoch →
        let u := ({ s with nvm := { s.nvm with stop := .none, epoch := 0 } } : State).appendCounter
        exec (.epochReset c 0 0 env) s = .next (((u.draw 48).2.coldStep (s.get NVM_STATUS_SOURCE) env s.nvm.epoch (u.draw 48).1).complete c ccDONE 0) ∧
          ((u.draw 48).2.storeLost = false → env.trngKey = true → ∃ t : State, exec (.epochReset c 0 0 env) s = .next t ∧ t.nvm.epoch = 1)) ∧
      (∀ scc floor, s.nvm.stop = .store → floor ≤ s.get IMG_HDR_ARB →
        let v := (s.put RG_STATUS_SCC (max scc c.seq)).put ARB_STATE_FLOOR floor
        let u := ({ v with nvm := { v.nvm with stop := .none, epoch := 0 } } : State).appendCounter
        exec (.epochReset c scc floor env) s = .next (((u.draw 48).2.coldStep (s.get NVM_STATUS_SOURCE) env 0 (u.draw 48).1).complete c ccDONE 0) ∧
          ((u.draw 48).2.storeLost = false → env.trngKey = true → ∃ t : State, exec (.epochReset c scc floor env) s = .next t ∧ t.nvm.epoch = 1)))

/-- IMAGE_UPDATE and UPDATE_DONE: which flash octets change. IMAGE_UPDATE of a device whose update is allowed erases its whole image area, writes every octet of the new image but the first 64, leaves every other flash octet, and stays in execution. At the end of writing, with every read and write good, the header's 64 octets are written where they belong and the first pass runs: DONE when it passes, BAD_SIG when the signature is what fails, else BAD_ARG with those 64 octets erased again. BAD_ARG is also the end when a read or a write failed. (17_image_startup.md, R490; 17_image_startup.md, R471) -/
def Obligations.ImageUpdateWritesTheImageArea : Prop :=
  (∀ (s : State) (c : CmdHdr) (dev addr len : Nat) (mem : List HRead) (o : List Nat), s.modeBit &&& 6 ≠ 0 → dev < 2 → 288 ≤ len → len ≤ imgSize →
      s.nvm.updating = none → (s.get NVM_STATUS_SOURCE = dev → s.passed (1 - dev) = true) → hostOctets mem c.src addr len = some o →
      ∃ t : State, exec (.imageUpdate c dev addr len mem) s = .next t ∧ t.nvm.updating = some dev ∧ t.get NVM_STATUS_UPDATING = 1 ∧ t.nvm.updHdr = o.take 64 ∧
        ⟨c, .imageUpdate dev⟩ ∈ t.rg.running ∧
        (∀ i, i < imgSize → Store.get flashErased t.flash (flashKey dev (imgBase + i)) =
          if 64 ≤ i ∧ i < len then BitVec.ofNat 8 (o.getD i 0) else 0xFF) ∧
        (∀ k, (k < flashKey dev imgBase ∨ flashKey dev imgBase + imgSize ≤ k) → Store.get flashErased t.flash k = Store.get flashErased s.flash k)) ∧
    (∀ (s : State) (dev : Nat), s.nvm.updating = some dev →
      (exec (.updateDone false) s = .next (s.endUpdate dev ccBADARG)) ∧
      (s.nvm.updBad = false →
        let u := s.wrFlash dev imgBase s.nvm.updHdr
        exec (.updateDone true) s = .next (if u.pass1 dev true = 0 then u.endUpdate dev ccDONE
          else if u.pass1 dev true = 4 then u.endUpdate dev ccBADSIG else (u.eraseFlash dev imgBase 64).endUpdate dev ccBADARG)))

/-- What moves the device to DORMANT, and what the entry does. The DORMANT command in a mode of its row, PWRDN_N low outside DORMANT with an action that names DORMANT, and a junction above TRIP_C outside DORMANT, each leave the device in DORMANT with the cause recorded in PWR_MODE (0 command, 1 PWRDN_N, 3 temperature), the seal key erased, DRAM contents and the mirrors lost, every lane and chain OFF or deaccessioned, and no wake or entry into RETAIN under way. The temperature trip also blocks wakes. (19_power.md, R516; 19_power.md, R521; 19_power.md, R526; 19_power.md, R614; 03_ingest_lanes.md, R70; 08_griwano_link.md, R202) -/
def Obligations.DormantIsEntered : Prop :=
  (∀ (s : State) (c : CmdHdr), s.modeBit &&& 7 ≠ 0 →
      ∃ t : State, exec (.dormant c) s = .next t ∧ t.mode = mDORMANT ∧ t.get PWR_MODE_DORMANT_CAUSE = 0 ∧ t.sec.sealKey = none ∧ t.dram = [] ∧ t.pwr.wake = none ∧
        t.mirrors = [] ∧ t.Quiet ∧ t.pwr.retaining = false) ∧
    (∀ s : State, s.pwr.powered = true → 2 ≤ s.get (AOI_CMP_ACTION 7) → s.mode ≠ mDORMANT →
      ∃ t : State, exec .pwrdnNLow s = .next t ∧ t.mode = mDORMANT ∧ t.get PWR_MODE_DORMANT_CAUSE = 1 ∧ t.sec.sealKey = none ∧ t.dram = [] ∧ t.pwr.wake = none ∧
        t.mirrors = [] ∧ t.Quiet ∧ t.pwr.retaining = false ∧ t.pwr.pwrdnLow = true ∧ t.pwr.held = []) ∧
    (∀ (s : State) (j : Int), s.pwr.powered = true → (s.get PWR_CFG_TRIP_C : Int) < j → s.mode ≠ mDORMANT →
      ∃ t : State, exec (.tempTrip j) s = .next t ∧ t.mode = mDORMANT ∧ t.get PWR_MODE_DORMANT_CAUSE = 3 ∧ t.sec.sealKey = none ∧ t.dram = [] ∧ t.pwr.wake = none ∧
        t.mirrors = [] ∧ t.Quiet ∧ t.pwr.retaining = false ∧ t.pwr.tempBlock = true)

/-- UV_TRIP leaves what power does not hold. A UV trip of a powered device leaves it unpowered in DORMANT with UV in the last-wake record: nothing of DRAM, queues, rings, commands or interrupts is left, and flash, burned fuses and what has left the block stay, with the eight switched rails reported off. (19_power.md, R526; 17_image_startup.md, R471) -/
def Obligations.PowerLossLosesAllButNonVolatile : Prop :=
  ∀ s : State, s.pwr.powered = true →
    ∃ t : State, exec .uvTrip s = .next t ∧ t.mode = mDORMANT ∧ t.pwr.powered = false ∧ t.get LAST_WAKE0_SOURCE = 9 ∧ t.get LAST_WAKE0_FROM = s.get PWR_MODE_MODE ∧
      t.dram = [] ∧ t.mirrors = [] ∧ t.evts = [] ∧ t.units = [] ∧ t.rings = [] ∧ t.rg.pend = [] ∧ t.flash = s.flash ∧ t.sec.slots = s.sec.slots ∧ t.sec.svn = s.sec.svn ∧
      t.sec.storeInit = s.sec.storeInit ∧ t.sec.debugLock = s.sec.debugLock ∧ s.out <:+ t.out ∧ (∀ x, x < 8 → Output.railOff x ∈ t.out)

/-- Power, PORST_N, warm resets and the end of MUSTER and of ALIGN. First power on a device that is not held in reset records the wake and brings the rails up at once. PORST_N low in a running device puts its DRAM in self-refresh and its lanes and chains OFF; its release there restarts MUSTER with PORST_N as the cause. WARM_RESET completes and then restarts MUSTER with its cause, and so does a registrar watchdog with its own. Every MUSTER shows the time it took, and one for which no firmware bundle verifies ends in DORMANT with cause 4. A MUSTER that has not stopped ends in the entry of ALIGN. ALIGN ends at the time R487 gives in OBSERVE, where no replacement condition holds, no owner is pending and the floor is not to be raised. (19_power.md, R516; 19_power.md, R517; 17_image_startup.md, R486; 17_image_startup.md, R487; 16_host.md, R461) -/
def Obligations.StartsAndResets : Prop :=
  (∀ (s : State) (env : MusterEnv) (fail : Option Nat), s.pwr.powered = false → s.pwr.porstLow = false →
      exec (.powerApplied env fail) s = .next ((({ s with pwr := { s.pwr with powered := true } } : State).recordWake 1 0).wakeAtOnce false false env fail)) ∧
    (∀ s : State, s.pwr.powered = true → mMUSTER ≤ s.mode → ∃ t : State, exec .porstNFall s = .next t ∧ t.pwr.porstLow = true ∧ t.pwr.dramSr = true ∧ t.Quiet ∧
      t.dram = s.dram) ∧
    (∀ (s : State) (env : MusterEnv) (fail : Option Nat), s.pwr.powered = true → s.pwr.porstLow = true → mMUSTER ≤ s.get PWR_MODE_MODE →
      exec (.porstNRelease env fail) s = .next (({ s with pwr := { s.pwr with porstLow := false, dramSr := false } } : State).muster env 2)) ∧
    (∀ (s : State) (env : MusterEnv) (cause : Nat), (s.muster env cause).get PROG_STATE_MUSTER_MS = env.ms % 2 ^ (PROG_STATE_MUSTER_MS).wid ∧
      s.now + env.ms * tMs ≤ (s.muster env cause).now ∧
      (fwPick env = none → (s.muster env cause).get PWR_MODE_MODE = mDORMANT ∧ (s.muster env cause).get PWR_MODE_DORMANT_CAUSE = 4)) ∧
    (∀ (s : State) (c : CmdHdr) (env : MusterEnv), s.modeBit &&& 6 ≠ 0 → exec (.warmReset c env) s = .next ((s.complete c ccDONE 0).muster env 1)) ∧
    (∀ (s : State) (env : MusterEnv), s.runs = true → exec (.registrarWatchdog env) s = .next (s.muster env 0)) ∧
    (∀ s : State, s.mode = mMUSTER → s.nvm.musterDone = true → s.nvm.stop = .none →
      let u := s.reportKeeper.enterAlign.dmaEnable
      let o := 1 - u.get NVM_STATUS_SOURCE
      exec .musterEnd s = .next ((u.setPassed (u.get NVM_STATUS_SOURCE) true).setPassed o
        ((u.setPassed (u.get NVM_STATUS_SOURCE) true) |>.pass1 o (u.get (NVM_DEV_SFDP_OK o) == 1) |> (· == 0)))) ∧
    (∀ (s : State) (base : List Baseline), s.mode = mALIGN → s.sec.pendOwner = none → s.nvm.firstObs = false → s.flt.conds = [] →
      ∃ t : State, exec (.alignExit base) s = .next t ∧ t.mode = mOBSERVE ∧ t.now = max s.now s.alignDue ∧ t.sec = s.sec ∧ t.flash = s.flash ∧ t.dram = s.dram)

/-- Wake conditions and the wake sequence, and the entry into RETAIN. In DORMANT or RETAIN, powered, with PWRDN_N and PORST_N high, no wake under way and none blocked, a WAKE edge, a sideband wake, activity on a PPS or REF input, each with its comparator's action WAKE, and a rise of PWRDN_N with action 3, begin the first attempt of a wake at VDD_CORE. A rail's power-good within 20 ms moves the wake to the next rail of its order, after the last to the oscillator; the oscillator's activity then ends the wake, in ALIGN when it comes from RETAIN. A timeout of an attempt before the fourth returns the rails and waits; 100 ms later the next attempt begins at the first rail; a timeout of the fourth ends the wake with WAKE_FAIL in the mode it came from. When the temperature block ends, a wake that was held begins. RETAIN in OBSERVE or CURTAILED marks that RETAIN is being entered and that the interval that runs will be refused for the mode, with every ring that holds uncovered products asked for a SEAL, and is DONE. Once no SEAL waits, acknowledgements have been waited for and no wake is held, the quiesce ends in mode RETAIN with DRAM in self-refresh and every lane and chain OFF or deaccessioned; DRAM contents, ring positions and the gallery stay as they are. (19_power.md, R526; 19_power.md, R529; 19_power.md, R530; 19_power.md, R519; 19_power.md, R516) -/
def Obligations.WakesBringTheRailsUp : Prop :=
  ((∀ s : State, s.pwr.powered = true → (s.mode = mDORMANT ∨ s.mode = mRETAIN) → s.pwr.wake = none → s.pwr.tempBlock = false → s.pwr.porstLow = false →
      (s.pwr.pwrdnLow = false → s.get (AOI_CMP_ACTION 4) = 1 → ∃ t : State, exec .wakePin s = .next t ∧ t.pwr.wake = some ⟨1, 0, false, s.mode == mRETAIN, false⟩) ∧
      (∀ p, p < 2 → s.pwr.pwrdnLow = false → s.get (AOI_CMP_ACTION (5 + p)) = 1 →
        ∃ t : State, exec (.sidebandWake p) s = .next t ∧ t.pwr.wake = some ⟨1, 0, false, s.mode == mRETAIN, false⟩) ∧
      (∀ k, (k = 2 ∨ k = 3) → s.pwr.pwrdnLow = false → s.get (AOI_CMP_ACTION k) = 1 →
        ∃ t : State, exec (.activityWake k) s = .next t ∧ t.pwr.wake = some ⟨1, 0, false, s.mode == mRETAIN, false⟩) ∧
      (s.get (AOI_CMP_ACTION 7) = 3 → ∃ t : State, exec .pwrdnNRise s = .next t ∧ t.pwr.wake = some ⟨1, 0, false, s.mode == mRETAIN, false⟩)) ∧
    (∀ (s : State) (w : WakeSt) (ms : Nat), s.pwr.wake = some w → w.waiting = false → w.rail < 8 → ms ≤ 20 →
      ∃ t : State, exec (.railPowerGood w.rail ms) s = .next t ∧ t.now = s.now + ms * tMs ∧
        t.pwr.wake = some { w with rail := ((wakeRails w.fromRetain).find? fun x => decide (w.rail < x)).getD 8 }) ∧
    (∀ (s : State) (w : WakeSt) (env : MusterEnv), s.pwr.wake = some w → w.waiting = false → w.rail = 8 → s.pwr.porstLow = false →
      exec (.loInActivity env) s = .next (s.wakeDone w.fromRetain w.porst env) ∧
        (w.fromRetain = true → w.porst = false → ∃ t : State, exec (.loInActivity env) s = .next t ∧ t.mode = mALIGN ∧ t.pwr.wake = none ∧ t.pwr.dramSr = false)) ∧
    (∀ (s : State) (w : WakeSt), s.pwr.wake = some w → w.waiting = false →
      (w.attempt < 4 → ∃ t : State, exec .railTimeout s = .next t ∧ t.pwr.wake = some { w with waiting := true } ∧
        t.now = s.now + (if w.rail = 8 then 50 else 20) * tMs) ∧
      (4 ≤ w.attempt → ∃ t : State, exec .railTimeout s = .next t ∧ t.pwr.wake = none ∧ t.mode = s.mode ∧ t.get LAST_WAKE0_WAKE_FAIL = 1 ∧
        t.get LAST_WAKE0_FAIL_ITEM = w.rail % 16)) ∧
    (∀ (s : State) (w : WakeSt), s.pwr.wake = some w → w.waiting = true →
      ∃ t : State, exec .wakeRetry s = .next t ∧ t.pwr.wake = some { w with attempt := w.attempt + 1, rail := 0, waiting := false } ∧ t.now = s.now + 100 * tMs) ∧
    (∀ (s : State) (k : Nat), s.mode = mDORMANT → s.pwr.powered = true → s.pwr.wake = none → s.pwr.held = [k] →
      ∃ t : State, exec .tempTripClear s = .next t ∧ t.pwr.tempBlock = false ∧ t.pwr.held = [] ∧ t.pwr.wake = some ⟨1, 0, false, false, wakeSource k == 2⟩)) ∧
  ((∀ (s : State) (c : CmdHdr), s.modeBit &&& 4 ≠ 0 →
      ∃ t : State, exec (.retain c) s = .next t ∧ t.pwr.retaining = true ∧ t.acc.modeBroke = true ∧ t.mode = s.mode ∧
        (c.src ≤ 1 → c.log < 4096 → t.get (CLOG0_CODE c.log) = ccDONE) ∧
        ∀ r ∈ s.allRings, 0 < (s.ring r).sinceTrig → (t.ring r).sinceTrig = 0) ∧
    (∀ s : State, s.pwr.retaining = true → s.accepts = true → s.sec.queue = [] → s.pwr.held = [] →
      ∃ t : State, exec .retainQuiesce s = .next t ∧ t.mode = mRETAIN ∧ t.pwr.retaining = false ∧ t.pwr.dramSr = true ∧ t.Quiet ∧
        t.pwr.retainEntry = max s.now (s.timer tkRetain + s.ackWait) ∧ t.dram = s.dram ∧ t.rings = s.rings ∧ t.gals = s.gals))

/-- CDR lock, code groups, losses and errors of a lane. CDR lock takes a lane from ACQ to HUNT, and its quad shows its PLL's lock; four code groups take it from HUNT to CGS; only those registers change. A loss of CDR lock returns the lane to ACQ, where a FIXED equaliser takes its own setting, and four errors within 16 characters return it to HUNT; either re-initialises a link in ILAS or DATA, which asserts SYNC~ in SYNC and counts the re-initialisation, and counts the loss and one unit of the REALIGN bucket. A group that the line code does not hold is a code error; a code, disparity or control error is counted, charges the CHAR bucket, and in DATA flags its frame and the one before, and a group without one changes nothing. A misplaced alignment character is counted and remembered by its position, and a repeat at that position without a correct one between re-initialises the link. The bucket clauses are for buckets below their thresholds. (03_ingest_lanes.md, R64; 03_ingest_lanes.md, R66; 03_ingest_lanes.md, R67; 03_ingest_lanes.md, R70; 03_ingest_lanes.md, R71; 03_ingest_lanes.md, R82) -/
def Obligations.LanesFollowTheirStates : Prop :=
  ∀ (s : State) (d n : Nat), s.present d = true → n < 16 →
    (∀ pll : Bool, s.laneState d n = lnACQ → ∃ t : State, exec (.cdrLock d n pll) s = .next t ∧ t.laneState d n = lnHUNT ∧
      t.get (LANE_STATUS_CDR_LOCK d n) = 1 ∧ t.get (QUAD_CFG_LOCK d (n / 4)) = b2n pll ∧
      s.OnlyRegs t [LANE_STATUS d n, QUAD_CFG d (n / 4), ING_STATUS d]) ∧
    (s.laneState d n = lnHUNT → ∃ t : State, exec (.cgsAchieved d n) s = .next t ∧ t.laneState d n = lnCGS ∧
      t.getBit (ING_STATUS_LANE_CGS d) n = true ∧ s.OnlyRegs t [LANE_STATUS d n, ING_STATUS d]) ∧
    (∀ cdr : Bool, (s.laneState d n = lnCGS ∨ s.laneState d n = lnHUNT) → (cdr = true → (s.laneSt d n).fourInSixteen = true) →
      s.get (LANE_ALIGNCNT_REAL_BKT d n) < s.get (ING_BUCKET_CFG_REAL_THRESH d) →
      ∃ t : State, exec (.cgsLoss d n cdr) s = .next t ∧ t.laneState d n = (if cdr then lnHUNT else lnACQ) ∧
        (cdr = false → s.get (LANE_CFG_CTLE_MODE d n) = 0 → t.get (LANE_STATUS_PEAK_USED d n) = s.get (LANE_CFG_CTLE_PEAK d n)) ∧
        (s.linkState d (s.linkOf d n) = lkILAS ∨ s.linkState d (s.linkOf d n) = lkDATA →
          t.linkState d (s.linkOf d n) = lkSYNC ∧ t.get (LINK_STATUS_SYNC_ASSERTED d (s.linkOf d n)) = 1 ∧
          t.get (LINK_COUNT_REINIT d (s.linkOf d n)) = min (2 ^ 24 - 1) (s.get (LINK_COUNT_REINIT d (s.linkOf d n)) + 1)) ∧
        t.get (LANE_ALIGNCNT_CGS_LOSS d n) = min (2 ^ 16 - 1) (s.get (LANE_ALIGNCNT_CGS_LOSS d n) + 1) ∧
        t.get (LANE_ALIGNCNT_REAL_BKT d n) = s.get (LANE_ALIGNCNT_REAL_BKT d n) + 1) ∧
    (∀ (ch g : Nat) (pos : Bool), s.laneState d n ≠ lnOFF → s.laneState d n ≠ lnDEACC → s.get (LANE_ALIGNCNT_CHAR_BKT d n) < s.get (ING_BUCKET_CFG_CHAR_THRESH d) →
      let j := s.linkOf d n
      let k := if s.linkState d j = lkDATA ∧ (s.laneSt d n).first ≤ ch then some (ch - (s.laneSt d n).first) else none
      (dec10 (s.groupOf d n g) = none → s.charFault d n g k pos = some 0) ∧
      (s.charFault d n g k pos = none → exec (.characterError d n ch g pos) s = .next s) ∧
      (∀ kind : Nat, s.charFault d n g k pos = some kind →
        let cnt := if kind = 0 then LANE_ERRCNT_CODE d n else if kind = 1 then LANE_ERRCNT_DISP d n else LANE_ERRCNT_CTRL d n
        ∃ t : State, exec (.characterError d n ch g pos) s = .next t ∧ t.get cnt = min (2 ^ 24 - 1) (s.get cnt + 1) ∧
          t.get (LANE_ALIGNCNT_CHAR_BKT d n) = s.get (LANE_ALIGNCNT_CHAR_BKT d n) + 1 ∧ t.laneState d n = s.laneState d n ∧
          ∀ x, k = some x → x / s.lkF d j ∈ (t.linkSt d j).flagged ∧ (x / s.lkF d j ≠ 0 → x / s.lkF d j - 1 ∈ (t.linkSt d j).flagged))) ∧
    (∀ (isA : Bool) (pos : Nat), s.laneState d n = lnCGS →
      pos + 1 < s.lkF d (s.linkOf d n) * (if isA then s.lkK d (s.linkOf d n) else 1) →
      let last := fun (x : State) => if isA then (x.laneSt d n).runA else (x.laneSt d n).runF
      let cnt := if isA then LANE_ALIGNCNT_A_ERR d n else LANE_ALIGNCNT_F_ERR d n
      (∀ since : Bool, since = true ∨ last s ≠ some pos → ∃ t : State, exec (.misplacedAlignment d n isA pos since) s = .next t ∧ last t = some pos ∧
        t.get cnt = min (2 ^ 16 - 1) (s.get cnt + 1) ∧ t.linkState d (s.linkOf d n) = s.linkState d (s.linkOf d n)) ∧
      (last s = some pos → s.linkState d (s.linkOf d n) = lkDATA →
        ∃ t : State, exec (.misplacedAlignment d n isA pos false) s = .next t ∧ last t = none ∧ t.get cnt = min (2 ^ 16 - 1) (s.get cnt + 1) ∧
          t.linkState d (s.linkOf d n) = lkSYNC))

/-- A link goes from SYNC through ILAS to DATA. A link in SYNC whose lanes are all in CGS goes to ILAS and releases SYNC~, at the first edge of its grid at which it has asserted SYNC~ for SYNC_MIN_MF multiframes; in subclass 1 only with an alignment of the LMFC, whose edge it then is. An ILAS whose fields pass takes the link to DATA at the instant its last octet came, with no failing field and its arrival on the receive LMFC; one with a failing field takes it to ILAS_FAIL with that field and counts the failure. ILAS_RETRY_MS after it a failed link goes to SYNC, where it asserts SYNC~. An enabled link that has not reached DATA when its wait limit, counted in OBSERVE and CURTAILED, passes is deaccessioned and its inputs leave at the next boundary. (03_ingest_lanes.md, R71; 03_ingest_lanes.md, R72; 03_ingest_lanes.md, R73; 03_ingest_lanes.md, R74; 03_ingest_lanes.md, R75; 03_ingest_lanes.md, R77; 03_ingest_lanes.md, R84) -/
def Obligations.LinksInitialise : Prop :=
  ∀ (s : State) (d j : Nat), s.present d = true → j < 8 →
    (s.linkState d j = lkSYNC → s.linkLanes d j ≠ [] → (∀ n ∈ s.linkLanes d j, s.laneState d n = lnCGS) →
      (s.get (LINK_CFG_SUBCLASS d j) = 0 ∨ s.te.alignT ≠ none) →
      ∃ t : State, exec (.ilasStart d j) s = .next t ∧ t.linkState d j = lkILAS ∧ t.get (LINK_STATUS_SYNC_ASSERTED d j) = 0 ∧
        t.now = max s.now (s.syncEdge d j (max s.now ((s.linkSt d j).syncAt + s.get (ING_TIMERS_SYNC_MIN_MF d) * s.mfTime d j)))) ∧
    (∀ (ls : List IlasLane) (firsts : List Nat) (at0 : Nat), s.linkState d j = lkILAS → ls.map IlasLane.lane = s.linkLanes d j → firsts.length = ls.length →
      (s.ilasCheck d j ls = none → ∃ t : State, exec (.ilasComplete d j ls firsts at0) s = .next t ∧ t.linkState d j = lkDATA ∧
        t.get (LINK_STATUS_SYNC_ASSERTED d j) = 0 ∧ t.get (LINK_STATUS_FAIL_FIELD d j) = 0 ∧ t.now = max s.now at0 ∧
        t.get (LINK_LAT_ARRIVAL d j) = min 65535 (s.arrivalOcts d j (max s.now at0)) ∧
        (t.linkSt d j).first = true ∧ (t.linkSt d j).arr = max s.now at0 ∧ (t.linkSt d j).mf = 0 ∧
        ∀ e ∈ ls.zip firsts, (t.laneSt d e.1.lane).first = e.2 ∧ (t.laneSt d e.1.lane).buf = []) ∧
      (∀ f, s.ilasCheck d j ls = some f → (∀ n ∈ s.linkLanes d j, s.get (LANE_ALIGNCNT_REAL_BKT d n) < s.get (ING_BUCKET_CFG_REAL_THRESH d)) →
        ∃ t : State, exec (.ilasComplete d j ls firsts at0) s = .next t ∧ t.linkState d j = lkFAIL ∧ t.get (LINK_STATUS_SYNC_ASSERTED d j) = 1 ∧
          (t.linkSt d j).failAt = max s.now at0 ∧
          t.get (LINK_STATUS_FAIL_FIELD d j) = f % 32 ∧ t.get (LINK_COUNT_ILAS_FAILS d j) = min (2 ^ 24 - 1) (s.get (LINK_COUNT_ILAS_FAILS d j) + 1))) ∧
    (s.linkState d j = lkFAIL → ∃ t : State, exec (.ilasRetry d j) s = .next t ∧ t.linkState d j = lkSYNC ∧ t.get (LINK_STATUS_SYNC_ASSERTED d j) = 1 ∧
      t.now = max s.now ((s.linkSt d j).failAt + s.get (ING_TIMERS_ILAS_RETRY_MS d) * tMs)) ∧
    (s.accepts = true → s.get (LINK_CFG_EN d j) = 1 → s.get (ING_TIMERS_LINK_WAIT_S d) ≠ 0 → s.linkState d j ≠ lkDATA → s.linkState d j ≠ lkDEACC →
      ∃ t : State, exec (.linkWait d j) s = .next t ∧ t.linkState d j = lkDEACC ∧
        t.now = s.now + ((s.linkSt d j).waitAt + s.get (ING_TIMERS_LINK_WAIT_S d) * tSec - s.worked) ∧
        (∀ i ∈ s.inputsOfLink d j, s.get (INPUT_MAP_DEACC d i) = 0 → i ∈ (t.ing d).leaving))

/-- Released frames reach the delay line of the stream they feed. For a link that feeds one real input: out of DATA, with its stream running, the next multiframe goes on where the stream stood, one multiframe's time later, as flagged zeros at every index. In DATA, from one lane whose received groups are plain data, unscrambled and unflagged, a multiframe is released at its release time, at the indices that follow the stream's place on the grid, each sample being its converter's two octets of its frame, the first the higher, widened to 16 bits. In subclass 0 the first release since DATA sets the stream's place and its remainder r from the release time. The mapping of converters to octets is the model's (log entry 45). (03_ingest_lanes.md, R65; 03_ingest_lanes.md, R67; 03_ingest_lanes.md, R68; 03_ingest_lanes.md, R76; 03_ingest_lanes.md, R78; 03_ingest_lanes.md, R79; 03_ingest_lanes.md, R80; 04_delay_filter.md, R96; 04_delay_filter.md, R97) -/
def Obligations.FramesEnterTheDelayLine : Prop :=
  ∀ (s : State) (d j b c x : Nat), s.present d = true → j < 8 → s.get (LINK_CFG_EN d j) = 1 → s.ingestMode = true →
    s.linkStreams d j = [(b, c)] → b < 256 → x < s.lkK d j * s.lkS d j →
    let q := s.linkSt d j
    let cnt := s.lkK d j * s.lkS d j
    (∀ q0 q1 q2 q3 : List (List Nat), s.linkState d j ≠ lkDATA → q.live = true →
      ∃ t : State, exec (.frameRelease d j q0 q1 q2 q3) s = .next t ∧ (t.linkSt d j).next = q.next + cnt ∧ (t.linkSt d j).relT = q.relT + s.mfTime d j ∧
        t.now = max s.now (q.relT + s.mfTime d j) ∧ t.lineRead d b (q.next + x) = (0, true)) ∧
    (∀ (n : Nat) (gs octs : List Nat) (q0 q1 q2 q3 : List (List Nat)), s.quadsFit d j [q0, q1, q2, q3] = true → q0 ++ q1 ++ q2 ++ q3 = [gs] → s.linkState d j = lkDATA → s.get (LINK_CFG_SCR d j) = 0 → q.flagged = [] → s.linkLanes d j = [n] →
      s.get (LANE_CFG_LOGICAL d n) = 0 → (s.laneSt d n).buf = [] → s.lkNP d j = 16 → 2 * (c * s.lkS d j + x % s.lkS d j) + 1 < s.lkF d j →
      octs.length = s.lkF d j * s.lkK d j → (∀ o ∈ octs, o < 256) → gs.map (fun g => dec10 (s.groupOf d n g)) = octs.map (fun o => some (dChr o)) →
      (q.first = false → 0 ≤ q.base + (q.mf * cnt + x : Nat) →
        ∃ t : State, exec (.frameRelease d j q0 q1 q2 q3) s = .next t ∧ (t.linkSt d j).mf = q.mf + 1 ∧ (t.linkSt d j).relT = s.releaseAt d j q.mf ∧
          (t.linkSt d j).base = q.base ∧ t.now = max s.now (s.releaseAt d j q.mf) ∧
          t.lineRead d b (q.base + (q.mf * cnt + x : Nat)).toNat =
            (signed 16 (convValue (s.lkN d j) 16
              (octs.getD (x / s.lkS d j * s.lkF d j + 2 * (c * s.lkS d j + x % s.lkS d j)) 0 * 256 +
                octs.getD (x / s.lkS d j * s.lkF d j + 2 * (c * s.lkS d j + x % s.lkS d j) + 1) 0)), false)) ∧
      (q.first = true → s.get (LINK_CFG_SUBCLASS d j) = 0 →
        ∃ t : State, exec (.frameRelease d j q0 q1 q2 q3) s = .next t ∧ (t.linkSt d j).first = false ∧
          (t.linkSt d j).base = (s.rateIndex d j (s.releaseAt d j q.mf)).1 ∧ (t.linkSt d j).r = (s.rateIndex d j (s.releaseAt d j q.mf)).2))

/-- Update points, filter outputs, changes of an input and fades. At an update point a running input without a pending set keeps its last delay segment and begins the next one, whose ends are its polynomial's values at this update point and the next. A pending set takes effect at an update point in or after its grain, and not before. An output moves an input on: the history it would flag shrinks by one, and the next index follows. In settle-free mode a clean real sample leaves as the gain times the delayed sample, requantised, into an empty word of its record; in FIR mode with no fade as the filter's sum, requantised. A change of configuration is made at a consignment boundary, with the history discarded and its next T - 1 outputs to be flagged in FIR mode; with a fade of the input running or queued it is BUSY. The head of the fade queue starts at the first output whose grid time is in or after its grain, once the fade units suffice: it leaves the queue, its length is in force from position 0 and its units are in use. The last output of a fade makes the shadow bank live, returns its units and reports the end. Only the input's and the unit's registers change. (04_delay_filter.md, R91; 04_delay_filter.md, R92; 04_delay_filter.md, R110; 04_delay_filter.md, R112; 04_delay_filter.md, R113; 02_span_word.md, R47; 04_delay_filter.md, R104; 04_delay_filter.md, R107; 04_delay_filter.md, R108) -/
def Obligations.OutputsOfTheFilters : Prop :=
  (∀ (s : State) (d i : Nat),
    (∀ n, s.inputRuns d i = true → s.get (POLY_CTRL_PENDING d i) = 0 →
      ∃ t : State, exec (.updatePoint d n) s = .next t ∧ (t.dfuIn d i).segA = (s.dfuIn d i).segB ∧
        (t.dfuIn d i).segB = ⟨n, s.polyAt d i (1024 * n), s.polyAt d i (1024 * (n + 1))⟩) ∧
    (∀ n, s.inputRuns d i = true → s.get (POLY_CTRL_PENDING d i) = 1 →
      ∃ t : State, exec (.updatePoint d n) s = .next t ∧
        (grainCome (grainOf (s.gridTime d (1024 * n))) (s.get (POLY_CTRL_EFF_GRAIN d i)) = true →
          t.rd (POLY_T0 d i) = s.rd (PEND_T0 d i) ∧ (∀ j, j < 4 → t.rd (POLY_C d i j) = s.rd (PEND_C d i j)) ∧ t.get (POLY_CTRL_PENDING d i) = 0) ∧
        (grainCome (grainOf (s.gridTime d (1024 * n))) (s.get (POLY_CTRL_EFF_GRAIN d i)) = false →
          t.rd (POLY_T0 d i) = s.rd (POLY_T0 d i) ∧ (∀ j, j < 4 → t.rd (POLY_C d i j) = s.rd (POLY_C d i j)) ∧ t.get (POLY_CTRL_PENDING d i) = 1)) ∧
    (∀ m, s.inputRuns d i = true → s.outputDue d i m = true →
      (∃ t : State, exec (.dfuOutput d i m) s = .next t ∧ t.get (IN_STATUS_HIST_FLAG d i) = s.get (IN_STATUS_HIST_FLAG d i) - 1 ∧
        (t.dfuIn d i).next = some (m + 1)) ∧
      (∀ r : RecSt, s.get (IN_STATUS_HIST_FLAG d i) = 0 → s.get (INPUT_MAP_CPLX d i) = 0 → s.consRec (m / 4096) d = some r → r.inputs.contains i = true →
        m % fmtQ (s.get (IN_CFG_FMT d i) + 1) = 0 →
        (s.get (IN_CFG_MODE d i) = 2 → (s.delayAt d i (m * s.inD d i)).2 = false →
          (s.sampleAt d (s.streamBase d i) (((m * s.inD d i : Nat) : Int) - ((s.delayAt d i (m * s.inD d i)).1 / 2 ^ 32 : Nat))).2 = false →
          ∃ t : State, exec (.dfuOutput d i m) s = .next t ∧ Store.get (fun _ => []) (t.acu d).parts i =
            [((s.requantIn d i (s.getI (IN_CFG_GAIN d i) *
                (s.sampleAt d (s.streamBase d i) (((m * s.inD d i : Nat) : Int) - ((s.delayAt d i (m * s.inD d i)).1 / 2 ^ 32 : Nat))).1)).1,
              (s.requantIn d i 0).1, false)]) ∧
        (∀ z : ZSamp, s.get (IN_CFG_MODE d i) = 1 → (s.dfuIn d i).fadeLen = 0 →
          s.fir d i (s.get (IN_CFG_LIVE d i)) (s.liveTaps d i)
            (((List.range (s.inD d i)).map (fun x => s.zAt d i (m * s.inD d i - x)) ++ (s.dfuIn d i).hist).take 320) = z →
          z.flag = false → z.clamp = false →
          ∃ t : State, exec (.dfuOutput d i m) s = .next t ∧
            Store.get (fun _ => []) (t.acu d).parts i = [((s.requantIn d i z.re).1, (s.requantIn d i z.im).1, false)]))) ∧
    (∀ (c : Option CmdHdr) (cfg cplx : Nat), s.present d = true → i < 128 →
      (s.fadeBusy d i = true → exec (.dfuChange d i cfg cplx c) s = .next (s.completeOpt c ccBUSY)) ∧
      (s.fadeBusy d i = false → ((s.dfuIn d i).next.getD 0) % 4096 = 0 →
        ∃ t : State, exec (.dfuChange d i cfg cplx c) s = .next (t.completeOpt c ccDONE) ∧ (t.dfuIn d i).hist = [] ∧
          t.rd (IN_CFG d i) = (s.softWrite (IN_CFG d i) cfg).rd (IN_CFG d i) ∧ t.get (INPUT_MAP_CPLX d i) = cplx % 2 ∧
          t.get (IN_STATUS_HIST_FLAG d i) = (if t.get (IN_CFG_MODE d i) = 1 then t.liveTaps d i - 1 else 0) % 2 ^ 9))) ∧
  (∀ (s : State) (d i : Nat), d < 8 → i < 128 →
    (∀ rest, (s.dfu d).queue = i :: rest → s.get (DFU_STATUS_UNITS_USED d) + s.fadeUnits d i ≤ 16 →
      grainCome (grainOf (s.outputTime d i)) (s.get (FADE_REQ_GRAIN d i)) = true →
      ∃ t : State, exec (.fadeStart d) s = .next t ∧ (t.dfu d).queue = rest ∧ (t.dfuIn d i).fadeLen = s.get (FADE_REQ_LEN_M1 d i) + 1 ∧ (t.dfuIn d i).pos = 0 ∧
        t.get (IN_STATUS_FADING d i) = 1 ∧ t.get (IN_STATUS_QUEUED d i) = 0 ∧
        t.get (DFU_STATUS_UNITS_USED d) = s.get (DFU_STATUS_UNITS_USED d) + s.fadeUnits d i ∧
        t = { s with regs := t.regs, dfus := t.dfus } ∧ ∀ a, a ∉ [IN_STATUS d i, DFU_STATUS d] → t.rd a = s.rd a) ∧
    ((s.dfuIn d i).fadeLen ≠ 0 → (s.dfuIn d i).pos = (s.dfuIn d i).fadeLen →
      ∃ t : State, exec (.fadeEnd d i) s = .next t ∧ t.get (IN_CFG_LIVE d i) = 1 - s.get (IN_CFG_LIVE d i) ∧ t.get (IN_STATUS_FADING d i) = 0 ∧
        (t.dfuIn d i).fadeLen = 0 ∧ t.get (DFU_STATUS_UNITS_USED d) = s.get (DFU_STATUS_UNITS_USED d) - s.fadeUnits d i ∧
        t.get (DFU_EVENTS_FADE_DONE d) = 1 ∧ t = { s with regs := t.regs, dfus := t.dfus } ∧
        ∀ a, a ∉ [IN_STATUS d i, DFU_STATUS d, IN_CFG d i, DFU_EVENTS d] → t.rd a = s.rd a))

/-- Intervals, read-back, numbering and the hand-over of vitrines. INTERVAL_START makes the interval of its folio the running one. A consignment whose interval has ended and whose outputs have all come leaves OPEN. A clean read-back is noted for the folio and writes no memory; an uncorrectable one is counted and fails the record with JOURNAL, or PAIR for the partner's copy. When the read-back deadline of the first die passes, every SETTLING record whose deadline has come and that lacks a read-back has the reason LATE. The oldest consignment, once PASSED, is accepted with the next CAN sequence, which is used up; one with a reason, or that comes when the epoch's sequences are used up, is refused and no sequence is used. A vitrine's next record, in its turn, is handed over as product units of its folio and number, and the last one closes the vitrine. (05_acceptance.md, R118; 05_acceptance.md, R120; 05_acceptance.md, R122; 05_acceptance.md, R123; 05_acceptance.md, R124; 05_acceptance.md, R130; 05_acceptance.md, R143) -/
def Obligations.ConsignmentsAreDecided : Prop :=
  ∀ s : State,
    (∀ k, s.runs = true → s.nextInterval k = true → ∃ t : State, exec (.intervalStart k) s = .next t ∧ t = s.startInterval k ∧ t.acc.cur = some k ∧
      t.now = max s.now (s.gridTime 0 (4096 * k)) ∧ t.acc.modeBroke = false ∧ t.acc.timeBroke = false) ∧
    (∀ c ∈ s.acc.cons, s.acc.cur ≠ some c.k → c.state = 0 → (∀ r ∈ c.recs, ∀ i ∈ r.inputs, i ∈ r.done) →
      ∃ t : State, exec (.settling c.k) s = .next t ∧ t = { s with acc := { s.acc with cons := t.acc.cons } } ∧
        ∃ c' ∈ t.acc.cons, c'.k = c.k ∧ c'.recs = c.recs ∧ (c'.state = 1 ∨ c'.state = 2)) ∧
    (∀ (d i k sl : Nat) (r : RecSt) (mir : Bool) (data : List Word), s.consRec k d = some r → r.slot = some sl → i ∈ r.done → i ∈ r.inputs → s.folioPending d i sl = false →
      let at0 := s.slotAddr d sl + s.recOffset d i + s.folioWords d i - 8
      (data = (if mir then Store.getList (fun _ => (0 : Word)) (s.acu (partner d)).mirror (at0 - s.get (JNL_REGION_BASE d) * 8) 8 else s.rdMems d at0 8) →
        ∃ t : State, exec (.folioReadBack d i k mir 0 data) s = .next t ∧ t.dram = s.dram ∧
          ∃ r', t.consRec k d = some r' ∧ i ∈ (if mir then r'.paired else r'.backed)) ∧
      (∃ t : State, exec (.folioReadBack d i k mir 2 data) s = .next t ∧ t.dram = s.dram ∧
          ∃ r', t.consRec k d = some r' ∧ bit r'.reasons (if mir then rsPAIR else rsJOURNAL) = true)) ∧
    (∀ (k x : Nat) (xs : List Nat), (s.unread k).map (fun r => s.accDeadline k r.die) = x :: xs →
      ∃ t : State, exec (.accWindowExpiry k) s = .next t ∧ t = { s with now := t.now, acc := { s.acc with cons := t.acc.cons } } ∧ t.now = max s.now (xs.foldl min x) ∧
        ∀ r ∈ s.unread k, s.accDeadline k r.die ≤ t.now → ∀ c ∈ t.acc.cons, c.k = k → ∀ r' ∈ c.recs, r'.die = r.die → bit r'.reasons rsLATE = true) ∧
    (∀ (c : Cons) (cs : List Cons), s.acc.cons = c :: cs → s.rg.failover = false → s.acc.cur ≠ some c.k →
      (c.allReasons = 0 → c.state = 2 → s.nvm.nextCan < 2 ^ 48 → ∃ t : State, exec .canNumbering s = .next t ∧ (t.mark c.k).state = 1 ∧ (t.mark c.k).seq = s.nvm.nextCan ∧
        t.nvm.nextCan = s.nvm.nextCan + 1 ∧ t.acc.cons = (c :: cs).filter fun x => x.k != c.k) ∧
      (c.allReasons ≠ 0 ∨ 2 ^ 48 ≤ s.nvm.nextCan → ∃ t : State, exec .canNumbering s = .next t ∧ (t.mark c.k).state = 2 ∧ t.nvm = s.nvm ∧
        t.acc.cons = (c :: cs).filter fun x => x.k != c.k)) ∧
    (∀ (d v : Nat) (r : JRec), s.present d = true → v < 16 → s.vitNext d v = some r → s.vitTurn d v r.folio = true →
      ∃ t : State, exec (.vitrineHandover d v) s = .next t ∧ (s.get (VIT_LAST_FOLIO d v) ≤ r.folio → t.get (VIT_STATE_STATE d v) = 0) ∧
        r.folio ∈ (Store.get (fun _ => VitSt.reset) (t.acu d).vits v).held ∧
        ∃ us, t.units = s.units ++ us ∧ (s.vitSlots d v ≠ [] → us ≠ []) ∧ ∀ u ∈ us, u.typ = 4 ∧ u.keyA = r.folio ∧ u.keyB = s.get (VIT_STATE_NUMBER d v))

/-- What each operation of the M slot posts. A legal M slot of a bundle that does not stall issues on a running core: the multiplies post their products, truncated at 17 (CMULW 16) fractional bits and clamped to C18, three bundles on and under the lane guard; RMUL and FTAP weight four registers by eight real coefficients, FTAP adding the quad eight above; CROT also turns its phasor; the accumulate operations, when their guard holds, post their exact sum, a read of two accumulators, or a clear. Results with the track bit post their guards. Nothing but the core and its slot counters changes, and the A slot is next. A corrected error of the bundle's fetch from program memory is counted before the same effect; an uncorrectable one faults the core, which is taken out of service. (07_fcore_isa.md, R178; 07_fcore_isa.md, R179; 07_fcore_isa.md, R183; 07_fcore_isa.md, R186; 06_fcore_arch.md, R148; 06_fcore_arch.md, R152; 06_fcore_arch.md, R163; 06_fcore_arch.md, R155) -/
def Obligations.MultiplySlotResults : Prop :=
  ∀ (s : State) (d c : Nat), s.coreRuns d c = true → (s.core d c).iterDue = false → (s.core d c).phase = 0 → s.stallOf d c (s.core d c) = 0 →
    mIllegal (s.core d c).mSlot = false →
    let q := s.core d c
    let f := mFields q.mSlot
    let v := fun (r i l : Nat) => laneOf (q.vget (r + i)) l
    let h := fun (k : Nat) => signed 18 ((q.vget (f.tt + k / 4)).bits (18 * (k % 4)) 18)
    let out := fun (r i : Nat) (z : Nat → Int × Int) => PWrite.mk (q.pos + 3) (.vec (q.phys (r + i)) (q.pget f.pg) (c18 (narrowC (z 0)) (narrowC (z 1))))
    let guards := fun (ws : List PWrite) => ws.flatMap fun w => match w.w with
      | .vec _ _ x => [laneOf x 0, laneOf x 1].flatMap fun z => [(w.due, guard18 z.1), (w.due, guard18 z.2)]
      | _ => []
    let issued := fun (t : State) (ws tr : List PWrite) =>
      s.SlotIssued t d c { q with phase := 1, writes := q.writes ++ ws, tracks := (t.core d c).tracks } ∧
        (f.t = false → (t.core d c).tracks = q.tracks) ∧ (f.t = true → q.pget f.pg = 3 → (t.core d c).tracks = q.tracks ++ guards tr)
    let prods := fun (tr : Int × Int → Int × Int) (n : Nat) => [0, 1].map fun i => out f.d i fun l => cShr n (cMul (v f.s i l) (tr (v f.tt i l)))
    let taps := fun (base : Nat → Nat → Int × Int) => [0, 1, 2, 3].map fun i => out f.d i fun l =>
      cAdd (base i l) (cShr 17 ((v f.s i l).1 * h (2 * i + l), (v f.s i l).2 * h (2 * i + l)))
    let sum := fun (tr : Int × Int → Int × Int) =>
      cAdd (cAdd (cAdd (cMul (v f.s 0 0) (tr (v f.tt 0 0))) (cMul (v f.s 0 1) (tr (v f.tt 0 1)))) (cMul (v f.s 1 0) (tr (v f.tt 1 0)))) (cMul (v f.s 1 1) (tr (v f.tt 1 1)))
    let g := bit (q.pget f.pg) 0
    (f.op = 0 → ∃ t : State, exec (.mnop d c 0) s = .next t ∧ s.SlotIssued t d c { q with phase := 1 }) ∧
    (f.op = 1 → ∃ t : State, exec (.cmul d c 0) s = .next t ∧ issued t (prods id 17) (prods id 17)) ∧
    (f.op = 2 → ∃ t : State, exec (.cmulj d c 0) s = .next t ∧ issued t (prods cConj 17) (prods cConj 17)) ∧
    (f.op = 3 → ∃ t : State, exec (.cmulw d c 0) s = .next t ∧ issued t (prods id 16) (prods id 16)) ∧
    (f.op = 4 → ∃ t : State, exec (.rmul d c 0) s = .next t ∧ issued t (taps fun _ _ => (0, 0)) (taps fun _ _ => (0, 0))) ∧
    (f.op = 5 → ∃ t : State, exec (.ftap d c 0) s = .next t ∧ issued t (taps (v (f.d + 8))) (taps (v (f.d + 8)))) ∧
    (f.op = 6 → ∃ t : State, exec (.crot d c 0) s = .next t ∧
      issued t (prods id 17 ++ [0, 1].map fun i => out f.tt i fun l => cShr 17 (cMul (v f.tt i l) (v (f.tt + 2) i l))) (prods id 17)) ∧
    (f.op = 7 → f.d / 8 = 0 → ∃ t : State, exec (.cmac d c 0) s = .next t ∧
      s.SlotIssued t d c { q with phase := 1, writes := q.writes ++ if g then [⟨q.pos + 4, .acc (f.d % 8) (sum id).1 (sum id).2⟩] else [] }) ∧
    (f.op = 7 → f.d / 8 = 1 → ∃ t : State, exec (.cmacj d c 0) s = .next t ∧
      s.SlotIssued t d c { q with phase := 1, writes := q.writes ++ if g then [⟨q.pos + 4, .acc (f.d % 8) (sum cConj).1 (sum cConj).2⟩] else [] }) ∧
    (f.op = 7 → f.d / 8 = 2 → ∃ t : State, exec (.accrd d c 0) s = .next t ∧
      s.SlotIssued t d c { q with phase := 1, writes := q.writes ++ if g then [⟨q.pos + 1, .vec (q.phys f.s) 3
        (c18 (narrowC (cShr f.tt (q.accReg (f.d % 8)))) (narrowC (cShr f.tt (q.accReg (f.d % 8 + 1)))))⟩] else [] }) ∧
    (f.op = 7 → f.d / 8 = 3 → ∃ t : State, exec (.accclr d c 0) s = .next t ∧
      s.SlotIssued t d c { q with phase := 1, writes := q.writes ++ if g then [⟨q.pos + 4, .accClr (f.d % 8)⟩] else [] }) ∧
    (∀ i : Nat → Instr, i ∈ [(Instr.mnop d c ·), (.cmul d c ·), (.cmulj d c ·), (.cmulw d c ·), (.rmul d c ·), (.ftap d c ·), (.crot d c ·), (.cmac d c ·), (.cmacj d c ·), (.accrd d c ·), (.accclr d c ·)] →
      q.cached = none → exec (i 1) s = exec (i 0) (s.corrected d c) ∧
        ∃ t : State, exec (i 2) s = .next t ∧ t.get (CORE_FAULT_CAUSE d c) = 4 ∧ t.get (CORE_CFG_EN d c) = 0)

/-- What each operation of the A slot posts. A legal A slot issues after the M slot on a running core and posts its results: sums, differences, radix-2 and radix-4 butterflies of the inputs shifted by BSH, moves, logic, shifts, requantised words, predicates and the steps of the block exponent, with the latency of its table and under its guard. Results with the track bit post their guards. Nothing but the core and its slot counters changes, and the C slot is next. (07_fcore_isa.md, R178; 07_fcore_isa.md, R179; 07_fcore_isa.md, R183; 07_fcore_isa.md, R187; 06_fcore_arch.md, R163; 06_fcore_arch.md, R155; 02_span_word.md, R47) -/
def Obligations.ArithmeticSlotResults : Prop :=
  ∀ (s : State) (d c : Nat), s.coreRuns d c = true → (s.core d c).iterDue = false → (s.core d c).phase = 1 → (s.core d c).isLoop = false →
    aIllegal (s.core d c).aSlot = false →
    let q := s.core d c
    let f := aFields q.aSlot
    let v := fun (r i l : Nat) => laneOf (q.vget (r + i)) l
    let x := fun (i l : Nat) => cShr q.bsh (v f.s i l)
    let out := fun (lat r : Nat) (z : Nat → Int × Int) => PWrite.mk (q.pos + lat) (.vec (q.phys r) (q.pget f.pg) (c18 (narrowC (z 0)) (narrowC (z 1))))
    let guards := fun (ws : List PWrite) => ws.flatMap fun w => match w.w with
      | .vec _ _ x => [laneOf x 0, laneOf x 1].flatMap fun z => [(w.due, guard18 z.1), (w.due, guard18 z.2)]
      | _ => []
    let issued := fun (t : State) (ws : List PWrite) => s.SlotIssued t d c { q with phase := 2, writes := q.writes ++ ws }
    let tracked := fun (t : State) (ws : List PWrite) =>
      s.SlotIssued t d c { q with phase := 2, writes := q.writes ++ ws, tracks := (t.core d c).tracks } ∧
        (bit f.x 1 = false → (t.core d c).tracks = q.tracks) ∧ (bit f.x 1 = true → q.pget f.pg = 3 → (t.core d c).tracks = q.tracks ++ guards ws)
    let g := bit (q.pget f.pg) 0
    (f.op = 0 → ∃ t : State, exec (.anop d c) s = .next t ∧ issued t []) ∧
    (f.op = 1 → ∃ t : State, exec (.add d c) s = .next t ∧ tracked t ([0, 1].map fun i => out 1 (f.d + i) fun l =>
      cShr (f.x / 4) (if bit f.x 0 then cSub (v f.d i l) (v f.s i l) else cAdd (v f.d i l) (v f.s i l)))) ∧
    (f.op = 2 → ∃ t : State, exec (.bf2 d c) s = .next t ∧ tracked t [out 2 f.d fun l => cAdd (x 0 l) (x 1 l), out 2 (f.d + 1) fun l => cSub (x 0 l) (x 1 l)]) ∧
    (f.op = 3 → f.x % 2 = 0 → ∃ t : State, exec (.bf4 d c) s = .next t ∧ tracked t
      [out 2 f.d fun l => cAdd (cAdd (x 0 l) (x 1 l)) (cAdd (x 2 l) (x 3 l)),
       out 2 (f.d + 4) fun l => cAdd (cSub (cSub (x 0 l) (cJ (x 1 l))) (x 2 l)) (cJ (x 3 l)),
       out 2 (f.d + 8) fun l => cSub (cAdd (cSub (x 0 l) (x 1 l)) (x 2 l)) (x 3 l),
       out 2 (f.d + 12) fun l => cSub (cSub (cAdd (x 0 l) (cJ (x 1 l))) (x 2 l)) (cJ (x 3 l))]) ∧
    (f.op = 3 → f.x % 2 = 1 → ∃ t : State, exec (.bf4 d c) s = .next t ∧ tracked t
      [out 2 f.d fun l => cAdd (cAdd (x 0 l) (x 1 l)) (cAdd (x 2 l) (x 3 l)),
       out 2 (f.d + 4) fun l => cSub (cSub (cAdd (x 0 l) (cJ (x 1 l))) (x 2 l)) (cJ (x 3 l)),
       out 2 (f.d + 8) fun l => cSub (cAdd (cSub (x 0 l) (x 1 l)) (x 2 l)) (x 3 l),
       out 2 (f.d + 12) fun l => cAdd (cSub (cSub (x 0 l) (cJ (x 1 l))) (x 2 l)) (cJ (x 3 l))]) ∧
    (f.op = 4 → ∃ t : State, exec (.mov d c) s = .next t ∧
      issued t ((List.range (2 ^ (f.x % 4))).map fun i => ⟨q.pos + 1, .vec (q.phys (f.d + i)) (q.pget f.pg) (movWord (f.x / 4) (q.vget (f.s + i)))⟩)) ∧
    (f.op = 5 → ∃ t : State, exec (.logic d c) s = .next t ∧ issued t [⟨q.pos + 1, .vec (q.phys f.d) (q.pget f.pg)
      ([q.vget f.d &&& q.vget f.s, q.vget f.d ||| q.vget f.s, q.vget f.d ^^^ q.vget f.s, q.vget f.d &&& ~~~q.vget f.s, ~~~q.vget f.s].getD f.x 0)⟩]) ∧
    (f.op = 6 → ∃ t : State, exec (.shl d c) s = .next t ∧ issued t [out 1 f.d fun l =>
      ((v f.s 0 l).1 * (2 ^ (if f.x = 15 then min (max q.bex 0).toNat 17 else f.x) : Nat), (v f.s 0 l).2 * (2 ^ (if f.x = 15 then min (max q.bex 0).toNat 17 else f.x) : Nat))]) ∧
    (f.op = 7 → ∃ t : State, exec (.rq4 d c) s = .next t ∧ issued t [⟨q.pos + 2, .vec (q.phys f.d) 3 (packWord 0 ((List.range 8).map fun k =>
      ⟨requant 7 (f.x + 1) (v f.s (k / 2) (k % 2)).1, requant 7 (f.x + 1) (v f.s (k / 2) (k % 2)).2, f.pg != 0 && !bit (q.pget (f.pg + k / 2)) (k % 2)⟩))⟩]) ∧
    (f.op = 8 → ∃ t : State, exec (.rq8 d c) s = .next t ∧ issued t [⟨q.pos + 2, .vec (q.phys f.d) 3 (packWord 1 ((List.range 4).map fun k =>
      ⟨requant 127 (f.x + 1) (v f.s (k / 2) (k % 2)).1, requant 127 (f.x + 1) (v f.s (k / 2) (k % 2)).2, f.pg != 0 && !bit (q.pget (f.pg + k / 2)) (k % 2)⟩))⟩]) ∧
    (f.op = 9 → ∃ t : State, exec (.pred d c) s = .next t ∧ issued t (if g then [⟨q.pos + 1, .pred f.d 3 (predOp f.x (q.pget f.d) (q.pget f.s) f.s)⟩] else [])) ∧
    (f.op = 10 → f.x = 0 → g = true → ∃ t : State, exec (.bexp d c) s = .next t ∧
      issued t [⟨q.pos + 1, .bsh (3 - q.bg)⟩, ⟨q.pos + 1, .bex (q.bex + (3 - q.bg : Nat))⟩, ⟨q.pos + 1, .bg q.bgAnew⟩]) ∧
    (f.op = 10 → f.x = 1 → g = true → ∃ t : State, exec (.bclr d c) s = .next t ∧
      issued t [⟨q.pos + 1, .bsh 0⟩, ⟨q.pos + 1, .bex 0⟩, ⟨q.pos + 1, .bg q.bgAnew⟩])

/-- Loads, stores, unpacking and special registers of the C slot. A legal C slot whose guard holds issues after the A slot on a running core and ends the bundle. Loads, stores and dual accesses whose addresses pass the range check post their words and the post-modified addresses; LDU unpacks a word to registers; AADD and ALI post an address; MVTS and MVFS move a register to and from a special register. No other core changes. A corrected error of a memory that an access meets is counted before the same effect; an uncorrectable one faults the core, which is taken out of service. (07_fcore_isa.md, R184; 07_fcore_isa.md, R185; 07_fcore_isa.md, R188; 07_fcore_isa.md, R190; 06_fcore_arch.md, R152; 06_fcore_arch.md, R155) -/
def Obligations.ControlSlotMovesData : Prop :=
  ∀ (s : State) (d c : Nat), s.coreRuns d c = true → (s.core d c).iterDue = false → (s.core d c).phase = 2 → cIllegal (s.core d c).bundle = false →
    (s.core d c).giveDue = false → (s.core d c).cGuard = true →
    let q := s.core d c
    let x := bitsOf q.cSlot 0 14
    let n := bitsOf x 1 4
    let r := bitsOf x 5 6
    let y := bit x 13
    let k := 2 ^ bitsOf x 11 2
    let ends := fun (t : State) (ws : List PWrite) => s.BundleEnded t d c { q with writes := q.writes ++ ws } .plain
    let load := fun (y : Bool) (a r n : Nat) => (List.range n).map fun i => PWrite.mk (q.pos + 3) (.vec (q.phys (r + i)) 3 (q.memAt y (a + i)))
    let store := fun (y : Bool) (a r n : Nat) => (List.range n).map fun i => PWrite.mk (q.pos + 2) (.mem y (a + i) (q.vget (r + i)))
    (∀ a, access (q.areg n) (q.mreg n) k = some a →
      (q.cOp = 1 → ∃ t : State, exec (.ld d c 0) s = .next t ∧ ends t (load y (q.areg n) r k ++ [⟨q.pos + 1, .adr n a⟩])) ∧
      (q.cOp = 3 → ∃ t : State, exec (.st d c 0) s = .next t ∧ ends t (store y (q.areg n) r k ++ [⟨q.pos + 1, .adr n a⟩]))) ∧
    (∀ a, q.cOp = 2 → access (q.areg n) (q.mreg n) 1 = some a → bitsOf q.cSlot 14 4 = 0 →
      let z := fun (i : Nat) => ((unpackC18 (s.get (CORE_CFG_IN_FMT d c) + 1) (q.memAt y (q.areg n))).getD i ((0, 0), false)).1
      (s.get (CORE_CFG_IN_FMT d c) = 1 → ∃ t : State, exec (.ldu d c 0) s = .next t ∧
        ends t [⟨q.pos + 3, .vec (q.phys r) 3 (c18 (z 0) (z 1))⟩, ⟨q.pos + 1, .adr n a⟩]) ∧
      (s.get (CORE_CFG_IN_FMT d c) = 0 → r ≤ 59 → ∃ t : State, exec (.ldu d c 0) s = .next t ∧
        ends t [⟨q.pos + 3, .vec (q.phys r) 3 (c18 (z 0) (z 1))⟩, ⟨q.pos + 3, .vec (q.phys (r + 4)) 3 (c18 (z 2) (z 3))⟩, ⟨q.pos + 1, .adr n a⟩])) ∧
    (∀ a b, access (q.areg (dxX x).2) (q.mreg (dxX x).2) 4 = some a → access (q.areg (dxY x).2) (q.mreg (dxY x).2) 4 = some b →
      (q.cOp = 4 → ∃ t : State, exec (.dxlys d c 0) s = .next t ∧ ends t (load false (q.areg (dxX x).2) (dxX x).1 4 ++ [⟨q.pos + 1, .adr (dxX x).2 a⟩] ++
        store true (q.areg (dxY x).2) (dxY x).1 4 ++ [⟨q.pos + 1, .adr (dxY x).2 b⟩])) ∧
      (q.cOp = 5 → ∃ t : State, exec (.dxsyl d c 0) s = .next t ∧ ends t (store false (q.areg (dxX x).2) (dxX x).1 4 ++ [⟨q.pos + 1, .adr (dxX x).2 a⟩] ++
        load true (q.areg (dxY x).2) (dxY x).1 4 ++ [⟨q.pos + 1, .adr (dxY x).2 b⟩])) ∧
      (q.cOp = 6 → ∃ t : State, exec (.dxlyl d c 0) s = .next t ∧ ends t (load false (q.areg (dxX x).2) (dxX x).1 4 ++ [⟨q.pos + 1, .adr (dxX x).2 a⟩] ++
        load true (q.areg (dxY x).2) (dxY x).1 4 ++ [⟨q.pos + 1, .adr (dxY x).2 b⟩]))) ∧
    (q.cOp = 7 → ∃ t : State, exec (.aadd d c) s = .next t ∧
      ends t [⟨q.pos + 1, .adr (bitsOf x 10 4) (unsigned 16 ((q.areg (bitsOf x 10 4) : Int) + signed 10 (bitsOf x 0 10)))⟩]) ∧
    (q.cOp = 8 → ∃ t : State, exec (.ali d c) s = .next t ∧ ends t [⟨q.pos + 1, .adr (bitsOf x 10 4) (16 * bitsOf x 0 10)⟩]) ∧
    (q.cOp = 9 → ∃ t : State, exec (.mvts d c) s = .next t ∧
      ends t ((specWrite (bitsOf x 8 6) (q.vget (bitsOf x 2 6)).toNat).map fun w => ⟨q.pos + 1, w⟩)) ∧
    (q.cOp = 10 → bitsOf x 8 6 ≠ 45 → bitsOf x 8 6 ≠ 46 → ∃ t : State, exec (.mvfs d c) s = .next t ∧
      ends t [⟨q.pos + 1, .vec (q.phys (bitsOf x 2 6)) 3 (BitVec.ofNat 72 (q.specRead (bitsOf x 8 6)))⟩]) ∧
    (q.cOp = 10 → bitsOf x 8 6 = 46 → ∃ t : State, exec (.mvfs d c) s = .next t ∧
      s.BundleEnded t d c { q with dbUnread := false, writes := q.writes ++ [⟨q.pos + 1, .vec (q.phys (bitsOf x 2 6)) 3 (BitVec.ofNat 72 q.dbmsg)⟩] } .plain) ∧
    (q.cOp = 10 → bitsOf x 8 6 = 45 → s.get (CORE_CFG_CTR_ACC d c) = 1 → ∃ t : State, exec (.mvfs d c) s = .next t ∧
      ends t [⟨q.pos + 1, .vec (q.phys (bitsOf x 2 6)) 3 (BitVec.ofNat 72 (s.get (PMON_CTR_VALUE d q.ctrsel)))⟩]) ∧
    (∀ i : (Nat → Instr) × Nat, i ∈ [(Instr.ld d c, 1), (.ldu d c, 2), (.st d c, 3), (.dxlys d c, 4), (.dxsyl d c, 5), (.dxlyl d c, 6)] → q.cOp = i.2 →
      exec (i.1 1) s = exec (i.1 0) (s.corrected d c) ∧ ∃ t : State, exec (i.1 2) s = .next t ∧ t.get (CORE_FAULT_CAUSE d c) = 4 ∧ t.get (CORE_CFG_EN d c) = 0)

/-- Branches, loops, blocks, buffers and enables of the C slot. Outside a repeat, delay slots, ATOMIC blocks and the end of a loop body, with its guard holding: BR, CALL, RET and RTI (in a handler) begin their two delay slots with their target, CALL leaving its return address in A15; HALT stops the core; ATOM opens its block; IWAIT takes the next complete buffer and IREL returns the oldest one taken; OPUT completes the current frame with its tag; EI and DI post the enables; SOFT sets its pending bit. MISC_NOP only ends the bundle: the program counter moves on by one outside loops, and to the branch's target at the end of its second delay slot. LOOP and REP begin a loop of N + Q iterations or skip its body. An iteration end counts the innermost loop down and starts its body again, or leaves the loop. (07_fcore_isa.md, R188; 07_fcore_isa.md, R189; 07_fcore_isa.md, R191; 07_fcore_isa.md, R192; 07_fcore_isa.md, R193; 06_fcore_arch.md, R156; 06_fcore_arch.md, R168; 06_fcore_arch.md, R169) -/
def Obligations.ControlSlotSteersTheProgram : Prop :=
  ∀ (s : State) (d c : Nat), s.coreRuns d c = true → (s.core d c).giveDue = false →
    let q := s.core d c
    let x := bitsOf q.cSlot 0 14
    let sub := bitsOf x 10 4
    let post := fun (ws : List CoreWr) => { q with writes := q.writes ++ ws.map fun w => PWrite.mk (q.pos + 1) w }
    (q.iterDue = false → q.phase = 2 → cIllegal q.bundle = false → q.cGuard = true → q.inRep = false → q.delay = 0 → q.atom = 0 → q.lateInLoop = false →
      (q.cOp = 11 → ∃ t : State, exec (.br d c) s = .next t ∧ s.BundleEnded t d c q ⟨true, some ⟨bitsOf x 0 13, 0, q.pc⟩, none, none, 0⟩) ∧
      (q.cOp = 12 → ∃ t : State, exec (.call d c) s = .next t ∧ s.BundleEnded t d c (post [.adr 15 (q.pc + 3)]) ⟨true, some ⟨bitsOf x 0 13, 1, q.pc⟩, none, none, 0⟩) ∧
      (q.cOp = 0 → sub = 9 → ∃ t : State, exec (.ret d c) s = .next t ∧ s.BundleEnded t d c q ⟨true, some ⟨q.areg 15 % 2 ^ 13, 1, q.pc⟩, none, none, 0⟩) ∧
      (q.cOp = 0 → sub = 10 → q.handler ≠ none → ∃ t : State, exec (.rti d c) s = .next t ∧ s.BundleEnded t d c q ⟨true, some ⟨0, 2, q.pc⟩, none, none, 0⟩) ∧
      (q.cOp = 0 → sub = 1 → ∃ t : State, exec (.halt d c) s = .next t ∧ s.BundleEnded t d c { q with st := 6 } .plain) ∧
      (q.cOp = 0 → sub = 2 → ∃ t : State, exec (.atom d c) s = .next t ∧ s.BundleEnded t d c q ⟨false, none, some (bitsOf x 0 4 + 1), none, 0⟩) ∧
      (∀ b : InBuf, q.cOp = 0 → sub = 3 → q.ins[q.taken]? = some b → ∃ t : State, exec (.iwait d c) s = .next t ∧
        s.BundleEnded t d c { post [.adr (bitsOf x 0 4) (s.get (CORE_CFG_IN_BASE d c) + b.slot * s.bufWords d c)] with taken := q.taken + 1 } .plain) ∧
      (q.cOp = 0 → sub = 4 → 0 < q.taken → ∃ t : State, exec (.irel d c) s = .next t ∧ s.BundleEnded t d c { q with ins := q.ins.drop 1, taken := q.taken - 1 } .plain) ∧
      (q.cOp = 0 → sub = 5 → q.marked = false → bitsOf x 4 3 < s.get (CORE_CFG_INPUTS d c) → ∃ t : State, exec (.oput d c) s = .next t ∧
        t = { s with fcs := t.fcs, regs := t.regs, wraps := t.wraps, acc := { s.acc with marks := t.acc.marks } } ∧
        (t.core d c).outs = q.outs ++ [⟨q.outCur, q.inFolio, bitsOf x 4 3, false⟩] ∧ (t.core d c).outCur = (q.outCur + 1) % max 1 (s.get (CORE_CFG_OUT_BUFS d c))) ∧
      (q.cOp = 0 → sub = 6 → ∃ t : State, exec (.ei d c) s = .next t ∧ s.BundleEnded t d c (post [.enable (q.enable ||| (bitsOf x 1 6 * 2))]) .plain) ∧
      (q.cOp = 0 → sub = 7 → ∃ t : State, exec (.di d c) s = .next t ∧ s.BundleEnded t d c (post [.enable (q.enable &&& (127 - bitsOf x 1 6 * 2))]) .plain) ∧
      (q.cOp = 0 → sub = 8 → ∃ t : State, exec (.soft d c) s = .next t ∧ s.BundleEnded t d c { q with pend := withBit q.pend 6 true } .plain)) ∧
    (q.iterDue = false → q.phase = 2 → cIllegal q.bundle = false → q.cOp = 0 → sub = 0 → ∃ t : State, exec (.miscNop d c) s = .next t ∧ s.BundleEnded t d c q .plain ∧
      (q.delay ≠ 1 → q.loops = [] → (t.core d c).pc = (q.pc + 1) % 8192) ∧
      (∀ b : BrWait, q.delay = 1 → q.br = some b → b.kind ≠ 2 → (t.core d c).pc = b.target % 8192)) ∧
    (∀ rep : Bool, q.iterDue = false → q.phase = 1 → cIllegal q.bundle = false → q.inRep = false → q.cOp = (if rep then 14 else 13) → q.loops = [] → bit q.bundle 51 = false →
      let n := bitsOf q.bundle 27 24
      let m := bitsOf q.bundle 62 3
      let len := bitsOf q.bundle 52 10 + 1
      n + m < 2 ^ 24 → ∃ t : State, exec (if rep then .rep d c else .loop d c) s = .next t ∧
        if n + m = 0 then s.BundleEnded t d c q ⟨false, none, none, none, len⟩
        else s.BundleEnded t d c (post [.lc (bitsOf q.bundle 66 2) (n + m)])
          ⟨false, none, none, some ⟨bitsOf q.bundle 66 2, q.pc + 1, q.pc + len, bit q.bundle 65, n, m, rep⟩, 0⟩) ∧
    (∀ (l : LoopSt) (rest : List LoopSt), q.iterDue = true → q.loops = l :: rest → 0 < q.lreg l.level → q.lreg l.level < 2 ^ 24 →
      ∃ t : State, exec (.iterationEnd d c) s = .next t ∧ (t.core d c).lreg l.level = q.lreg l.level - 1 ∧
        (1 < q.lreg l.level → (t.core d c).pc = l.first ∧ (t.core d c).loops = q.loops) ∧ (q.lreg l.level = 1 → (t.core d c).loops = rest))

/-- Interrupts, feeder, output ring, saves and retests of a core. At a take point with an enabled source pending and no handler running, the core completes what it has issued, saves its shadow registers and starts the handler of the lowest source, whose pending bit is cleared. A complete input buffer joins the ring and raises IN_READY; a freed output frame leaves it and raises OUT_SPACE; a posted message is unread until DBMSG is read; the timer and the doorbell raise their sources. Without loans and hosted work, a requested save copies the core's state, with its request cleared. A core that gave up its work is retested FC_RETEST_S after the last test: a pass counts, a failure starts the count again. A watchdog that expires records its fault and takes the core out of service. (06_fcore_arch.md, R157; 06_fcore_arch.md, R158; 06_fcore_arch.md, R160; 06_fcore_arch.md, R162; 06_fcore_arch.md, R167; 06_fcore_arch.md, R170; 06_fcore_arch.md, R173; 06_fcore_arch.md, R175; 06_fcore_arch.md, R156) -/
def Obligations.CoresServeTheirSources : Prop :=
  ∀ (s : State) (d c : Nat), s.present d = true → c < 18 →
    (s.get (UNIT_BKT_STATE d (17 + c)) = 1 →
      let due := s.timer (tkFcTest d c) + s.get (FLT_LIMITS2_FC_RETEST_S d) * tSec
      (∃ t : State, exec (.fcRetest d c true) s = .next t ∧ Store.get zeroNat (t.fc d).passes c = Store.get zeroNat (s.fc d).passes c + 1 ∧
        t.now = max s.now due ∧ t.timer (tkFcTest d c) = due ∧ t.regs = s.regs) ∧
      (∃ t : State, exec (.fcRetest d c false) s = .next t ∧ Store.get zeroNat (t.fc d).passes c = 0 ∧ t.now = max s.now due ∧ t.regs = s.regs)) ∧
    (s.get (CORE_CFG_EN d c) = 1 →
    let q := s.core d c
    (∀ n, s.runs = true → (q.st = 1 ∨ q.st = 2 ∨ q.st = 3) → q.handler = none → q.takePoint = true → q.source = some n →
      ∃ t : State, exec (.interruptTake d c) s = .next t ∧ (t.core d c).st = 4 ∧ (t.core d c).pc = Config.handlerEntry n % 8192 ∧ bit (t.core d c).pend n = false ∧
        (t.core d c).loops = [] ∧ (t.core d c).handler = some ⟨q.drain.pc, q.drain.win, q.drain.sit, q.drain.bsh, (List.range 4).map q.drain.lreg, q.drain.loops⟩) ∧
    (∀ (r : JRec) (i : Nat), q.ins.length < s.get (CORE_CFG_IN_BUFS d c) → s.nextRecord d c = some r → (s.dealt d (s.logicalOf d c))[q.feedIn]? = some i →
      ∃ t : State, exec (.inputBufferComplete d c) s = .next t ∧ (t.core d c).ins = q.ins ++ [⟨r.folio, q.feedIn, q.inSlot⟩] ∧ bit (t.core d c).pend 1 = true) ∧
    (∀ (fr : OutFrame) (rest : List OutFrame), q.outs = fr :: rest → fr.read = true → (s.fc d).hosts = [] →
      ∃ t : State, exec (.outputFrameFreed d c) s = .next t ∧ (t.core d c).outs = rest ∧ bit (t.core d c).pend 2 = true ∧ (t.core d c).st ≠ 3) ∧
    (∀ code arg, q.dbUnread = false → 1 ≤ code → code ≤ 4 → ∃ t : State, exec (.doorbellMessage d c code arg) s = .next t ∧
      (t.core d c).dbmsg = code + arg % 2 ^ 48 * 2 ^ 16 ∧ (t.core d c).dbUnread = true ∧ bit (t.core d c).pend 3 = true) ∧
    (q.timerOn = true → ∃ t : State, exec (.coreTimer d c) s = .next t ∧ t.now = max s.now (nearLater 48 (grainOf s.now) q.timer * tUs) ∧ (t.core d c).timerOn = false ∧
      bit (t.core d c).pend 4 = true) ∧
    (∀ us, bit q.pend 0 = true → q.handler = none → q.takePoint = true → (s.fc d).loans = [] → (s.fc d).hosts = [] →
      ∃ t : State, exec (.ckptSave d c us) s = .next t ∧ t.core d c = { q with pend := withBit q.pend 0 false } ∧ t.saveOf d (s.logicalOf d c) = t.core d c) ∧
    (q.st ≠ 0 → ∃ t : State, exec (.coreWatchdog d c) s = .next t ∧ t.get (CORE_CFG_EN d c) = 0 ∧ t.get (CORE_FAULT_CAUSE d c) = 5))

/-- Folios, markers, reports and rewinds on the sending side. The lowest unsent record, decided and with its frames complete, is sent when no destination holds it, the folio after it is next, and the engine shows RUN, or REWIND while it replays; while a destination holds it the engine shows HELD with the number of holders and sends nothing. The idle timer marks a silent stream with the last folio that will not come. A rewind that is not already covered takes the engine to the replay point, out of step until its quiet time ends; then SYNC has been sent and no gap stands. A stint slot is released in order and reported; reports go out at their period. (09_corner_turn.md, R233; 09_corner_turn.md, R235; 09_corner_turn.md, R241; 09_corner_turn.md, R242; 09_corner_turn.md, R243; 09_corner_turn.md, R245) -/
def Obligations.StreamsAreSentAndReplayed : Prop :=
  ∀ (s : State) (d : Nat), s.present d = true →
    (∀ (r : JRec), ((s.acu d).dir.find? fun r => decide ((s.cte d).sentNext ≤ r.folio)) = some r → (s.cte d).synced = true → s.framesDone d r.folio = true →
      (s.holding d r.folio = [] → ∃ t : State, exec (.sendFolio d r.folio) s = .next t ∧ (t.cte d).sentNext = r.folio + 1 ∧
        t.get (CTE_STATUS_STATE d) = (if (s.cte d).replayTo ≤ r.folio + 1 then 1 else 2) ∧
        t.get (CTE_STATUS_HELD_DEST d) = 0) ∧
      (s.holding d r.folio ≠ [] → ∃ t : State, exec (.sendFolio d r.folio) s = .next t ∧ t.get (CTE_STATUS_STATE d) = 3 ∧ s.OnlyRegs t [CTE_STATUS d])) ∧
    (∀ (x : DestSt) (f : Nat), (s.cte d).dests = [x] → x.lost = false → (s.cte d).synced = true → s.nvm.progOn = true →
      (s.advance (x.lastMark + s.get (CTE_TIMERS_IDLE_MARK_US d) * tUs)).idleFolio d = some f →
      ∃ t : State, exec (.idleMarkerTimer d) s = .next t ∧ t.now = max s.now (x.lastMark + s.get (CTE_TIMERS_IDLE_MARK_US d) * tUs) ∧
        (t.cte d).dests = [{ x with prev := f, lastMark := t.now }]) ∧
    (∀ p : Pkt, s.inboxHead d p = true → p.vc = 2 → p.sub = 0xD → (∀ r, (s.cte d).rewind = some r → (p.payload.getD 0 0).bits 0 48 < r) →
      (s.acu d).replay ≤ (p.payload.getD 0 0).bits 0 48 →
      ∃ t : State, exec (.rewindReceived d p) s = .next t ∧ (t.cte d).rewind = some ((p.payload.getD 0 0).bits 0 48) ∧ (t.cte d).sentNext = (s.acu d).replay ∧
        (t.cte d).synced = false ∧ t.inbox = s.inbox.erase (d, p)) ∧
    ((s.cte d).synced = false → ∃ t : State, exec (.quietExpiry d) s = .next t ∧ (t.cte d).synced = true ∧ (t.cte d).gap = false ∧
      t.now = max s.now (s.cte d).quietAt ∧ (t.cte d).sentNext = (s.cte d).sentNext) ∧
    (s.runs = true → s.stintFree d (s.cte d).relNext = true → ∃ t : State, exec (.stintSlotRelease d (s.cte d).relNext) s = .next t ∧
      (t.cte d).relNext = s.siSkip d ((s.cte d).relNext + 1) ∧ (s.cte d).relNext ∉ (t.cte d).stints ∧ (t.cte d).lastRep = s.now) ∧
    (s.runs = true → ∃ t : State, exec (.commitReportTimer d) s = .next t ∧ (t.cte d).lastRep = max s.now ((s.cte d).lastRep + s.get (CTE_TIMERS_CM_PERIOD_US d) * tUs) ∧
      (t.cte d).dests = (s.cte d).dests)

/-- Packets, markers, reports and losses on the receiving side. A data packet of a known stream joins its pending words. A SYNC marker clears the pending words, quiet and loss. Any other marker of a stream neither quiet nor lost: below the next folio it is counted as a duplicate and clears what is pending; with a gap, a wrong packet count or a wrong CRC it clears what is pending, asks for a rewind and makes the stream quiet, with the next folio as before; otherwise the folio is committed and the next folio follows it. A report moves the destination's counts. A stream or destination that is lost shows it, and a lost stream holds nothing pending. (09_corner_turn.md, R236; 09_corner_turn.md, R237; 09_corner_turn.md, R243; 09_corner_turn.md, R247) -/
def Obligations.StreamsAreReceived : Prop :=
  ∀ (s : State) (d : Nat) (p : Pkt), d < 8 →
    (∀ e, s.inboxHead d p = true → (s.takeInbox d p).srcOf d p = some e → p.vc = 0 →
      (p.sub < 8 → s.get (CTE_SRC_QUIET d e) = 0 → s.get (CTE_SRC_LOST d e) = 0 →
        ∃ t : State, exec (.dataPacket d p) s = .next t ∧ (t.stream d e).pend = (s.stream d e).pend ++ p.payload ∧ (t.stream d e).pkts = (s.stream d e).pkts + 1 ∧
          (t.stream d e).next = (s.stream d e).next ∧ t.inbox = s.inbox.erase (d, p)) ∧
      (8 ≤ p.sub →
        let w0 := p.payload.getD 0 0
        let w1 := p.payload.getD 1 0
        let prev := (p.payload.getD 2 0).bits 0 48
        let k := w0.bits 0 48
        let q := s.stream d e
        let good := prev < max q.next 1 ∧ q.pkts = w1.bits 32 16 ∧ (if q.pend = [] then 0 else crc32 (q.pend.flatMap Word.octets)) = w1.bits 0 32
        (bit (w0.bits 48 5) 1 = true → ∃ t : State, exec (.marker d p) s = .next t ∧ (t.stream d e).pend = [] ∧ t.get (CTE_SRC_QUIET d e) = 0 ∧ t.get (CTE_SRC_LOST d e) = 0) ∧
        (bit (w0.bits 48 5) 1 = false → s.get (CTE_SRC_QUIET d e) = 0 → s.get (CTE_SRC_LOST d e) = 0 →
          (k < q.next → ∃ t : State, exec (.marker d p) s = .next t ∧ (t.stream d e).pend = [] ∧ (t.stream d e).next = q.next ∧ t.dram = s.dram) ∧
          (q.next ≤ k → ¬good → ∃ t : State, exec (.marker d p) s = .next t ∧ (t.stream d e).pend = [] ∧ (t.stream d e).next = q.next ∧
            t.get (CTE_SRC_QUIET d e) = 1 ∧ t.dram = s.dram) ∧
          (q.next ≤ k → good → ∃ t : State, exec (.marker d p) s = .next t ∧ (t.stream d e).pend = [] ∧ (t.stream d e).next = k + 1)))) ∧
    (∀ x ∈ (s.cte d).dests, s.inboxHead d p = true → p.vc = 2 → p.sub = 0xC → x.dev = p.src → x.die = (p.payload.getD 0 0).bits 51 3 →
      ∃ t : State, exec (.reportReceived d p) s = .next t ∧ ∀ y ∈ (t.cte d).dests, y.dev = p.src → y.die = (p.payload.getD 0 0).bits 51 3 →
        y.comNext = ((p.payload.getD 0 0).bits 0 48 + 1) % 2 ^ 48 ∧ y.relNext = ((p.payload.getD 1 0).bits 0 48 + 1) % 2 ^ 48) ∧
    (∀ e, s.present d = true → e < 4096 → s.get (CTE_SRC_VALID d e) = 1 → s.get (CTE_SRC_LOST d e) = 0 → (s.stream d e).ended = false →
      ∃ t : State, exec (.streamLost d e) s = .next t ∧ t.get (CTE_SRC_LOST d e) = 1 ∧ (t.stream d e).pend = [] ∧ (t.stream d e).next = (s.stream d e).next) ∧
    (∀ x ∈ (s.cte d).dests, x.lost = false → ∃ t : State, exec (.destLost d x.dev x.die) s = .next t ∧
      (∀ y ∈ (t.cte d).dests, y.dev = x.dev → y.die = x.die → y.lost = true) ∧ ∀ g ∈ s.groupsOf d x.dev x.die, t.get (GROUP_LOST d g) = 1)

/-- Work orders from issue to drain. The scheduler issues the next entry of a logical tile's list to the tile that serves it, with room in its queue, and moves on. Outside a programme switch the order at the head of a queue starts in its bank when the bank is free and no other accumulates, from the first folio of its short integration with empty cells; for want of its bank it stalls. Each active cycle adds to the cell of every pair of unflagged row and column samples their product with the conjugate and one count, and changes no other visibility cell of the channel. A seal without mismatch begins to drain; one with a first mismatch discards the bank for a rerun and starts BIST. The acknowledged drain of every channel frees the bank. (10_gallery.md, R258; 10_gallery.md, R266; 10_gallery.md, R268; 10_gallery.md, R269; 10_gallery.md, R272; 10_gallery.md, R273) -/
def Obligations.GalleryRunsOrders : Prop :=
  ∀ (s : State) (d x b : Nat),
    (∀ (lt y : Nat) (e : Nat × Nat),
      let g := s.gal d
      let n := Store.get (fun _ => 0) g.nextSi lt
      let i := Store.get (fun _ => 0) g.nextIdx lt
      let l := s.workList d g.moves lt n
      s.present d = true → s.runs = true → lt < 16 → s.ltLost d lt = false → g.gapWait = [] → g.movedQ = [] → l[i]? = some e → s.server d lt n = some y →
      (s.tile d y).queue.length < 4 →
      ∃ t : State, exec (.workOrderIssue d lt) s = .next t ∧ (t.tile d y).queue = (s.tile d y).queue ++ [⟨e.1, n, 0, e.2⟩] ∧
        Store.get (fun _ => 0) (t.gal d).nextIdx lt = (if l.length ≤ i + 1 then 0 else i + 1) ∧
        Store.get (fun _ => 0) (t.gal d).nextSi lt = (if l.length ≤ i + 1 then s.siSkip d (n + 1) else n)) ∧
    (∀ (o : WOrder) (rest : List WOrder), s.tileServes d x = true → s.nvm.switching = false → (s.tile d x).queue = o :: rest →
      (((s.tile d x).bank (woBank o.entry)).st = bkFREE → ((s.tile d x).bank (1 - woBank o.entry)).st ≠ bkACCUM →
        ∃ t : State, exec (.workOrderStart d x) s = .next t ∧ (t.tile d x).queue = rest ∧
          (t.tile d x).bank (woBank o.entry) = ⟨bkACCUM, some o, s.siFirst d o.si, 0, 0, [], 0⟩ ∧
          (t.tile d x).bank (1 - woBank o.entry) = (s.tile d x).bank (1 - woBank o.entry) ∧ t.getBit (GAL_STATUS_STALLED d) x = false) ∧
      (((s.tile d x).bank (woBank o.entry)).st ≠ bkFREE →
        ∃ t : State, exec (.workOrderStart d x) s = .next t ∧ t.getBit (GAL_STATUS_STALLED d) x = true ∧ s.OnlyRegs t [GAL_STATUS d, GAL_EVENTS d])) ∧
    (∀ o : WOrder, s.tileServes d x = true → (s.tile d x).accum = some b → ((s.tile d x).bank b).order = some o → s.segReady d ((s.tile d x).bank b).folio = true →
      ∃ t : State, exec (.tileCycle d x none) s = .next t ∧ t.dram = s.dram ∧ ∀ r c, r < 32 → c < 32 →
        let k := (s.tile d x).bank b
        let ch := s.get (CHMAP_LCH d (woC0 o.entry + k.chan))
        let u := s.segSample d k.folio (32 * woB1 o.entry + r) ch k.time
        let v := s.segSample d k.folio (32 * woB2 o.entry + c) ch k.time
        let old := Store.get (fun _ => Acc3.zero) k.cells (1088 * k.chan + 32 * r + c)
        Store.get (fun _ => Acc3.zero) ((t.tile d x).bank b).cells (1088 * k.chan + 32 * r + c) =
          if u.flag || v.flag then old else ⟨old.re + u.re * v.re + u.im * v.im, old.im + u.im * v.re - u.re * v.im, old.n + 1⟩) ∧
    (∀ o : WOrder, s.tileServes d x = true → b < 2 → ((s.tile d x).bank b).st = bkSEAL → ((s.tile d x).bank b).order = some o →
      (firstBad ((s.tile d x).bank b).cells (woNc o.entry) = none → ∃ t : State, exec (.sealBank d x b) s = .next t ∧
        (t.tile d x).bank b = { (s.tile d x).bank b with st := bkDRAIN, acked := 0 }) ∧
      (∀ j r c, firstBad ((s.tile d x).bank b).cells (woNc o.entry) = some (j, r, c) → (s.tile d x).lastMis = none →
        ∃ t : State, exec (.sealBank d x b) s = .next t ∧ ((t.tile d x).bank b).st = bkDISCARD ∧ ((t.tile d x).bank b).cells = [] ∧ o ∈ (t.tile d x).redo ∧
          (t.tile d x).lastMis = some s.now ∧ t.get (TILE_STATUS_STATE d x) = tsBIST)) ∧
    (∀ o : WOrder, x < 16 → b < 2 → ((s.tile d x).bank b).st = bkDRAIN → ((s.tile d x).bank b).order = some o → woNc o.entry ≤ ((s.tile d x).bank b).acked →
      ∃ t : State, exec (.drainAck d x b) s = .next t ∧ (t.tile d x).bank b = .reset ∧ (t.tile d x).bank (1 - b) = (s.tile d x).bank (1 - b))

/-- Tile BIST, watchdog and retests, and boundaries of short integrations. A BIST that passes clears what was discarded and puts the orders to redo back at the head of the queue as reruns; one that fails makes the tile give up its work. An order without progress for WD_US on a complete segment, or the loss of its island's power, makes a tile give up its work. A retest comes RETEST_S after the last: one passed counts, one failed starts the count again. The boundary of a short integration moves the gallery's boundary on; a beam engine whose passes have completed it hands its records to the ledger and goes on. (10_gallery.md, R266; 10_gallery.md, R275; 10_gallery.md, R276; 10_gallery.md, R277; 10_gallery.md, R279; 12_beam_engine.md, R325; 12_beam_engine.md, R337) -/
def Obligations.GallerySurvivesFaults : Prop :=
  ∀ (s : State) (d x : Nat), s.present d = true → x < 16 →
    (s.get (TILE_STATUS_STATE d x) = tsBIST → (s.gal d).loan = none →
      (∃ t : State, exec (.tileBistDone d x true) s = .next t ∧ (t.tile d x).redo = [] ∧ t.get (TILE_FAULT_LAST_BIST d x) = 1 ∧
        (t.tile d x).queue = ((s.tile d x).redo.map (fun o : WOrder => { o with kind := 1 }) ++ (s.tile d x).queue).take 4 ∧
        (t.tile d x).b0.st ≠ bkDISCARD ∧ (t.tile d x).b1.st ≠ bkDISCARD) ∧
      (s.get (UNIT_BKT_BKT_B d x) < s.get (FLT_LIMITS_GIVEUP_THRESH d) →
        ∃ t : State, exec (.tileBistDone d x false) s = .next t ∧ t.get (TILE_STATUS_STATE d x) = tsGAVEUP ∧ t.get (GAL_EVENTS_BIST_FAIL d) = 1)) ∧
    (∀ b, s.tileServes d x = true → (s.tile d x).accum = some b → s.segReady d ((s.tile d x).bank b).folio = true → ((s.tile d x).bank (1 - b)).st ≠ bkSEAL →
      s.get (UNIT_BKT_STATE d x) = 0 → s.get (UNIT_BKT_BKT_B d x) < s.get (FLT_LIMITS_GIVEUP_THRESH d) →
      ∃ t : State, exec (.tileWatchdog d x false) s = .next t ∧ t.get (TILE_STATUS_STATE d x) = tsGAVEUP ∧ t.get (GAL_EVENTS_WATCHDOG d) = 1 ∧
        t.now = max s.now ((s.tile d x).progAt + s.get (GAL_CFG_WD_US d) * tUs)) ∧
    (s.tileServes d x = true → s.get (UNIT_BKT_STATE d x) = 0 → s.get (UNIT_BKT_BKT_B d x) < s.get (FLT_LIMITS_GIVEUP_THRESH d) →
      ∃ t : State, exec (.tileWatchdog d x true) s = .next t ∧ t.get (TILE_STATUS_STATE d x) = tsGAVEUP ∧ t.now = s.now) ∧
    (s.get (UNIT_BKT_STATE d x) = 1 →
      (∃ t : State, exec (.tileRetest d x true) s = .next t ∧ t.get (TILE_FAULT_PASSES d x) = min 31 (s.get (TILE_FAULT_PASSES d x) + 1) ∧
        t.now = max s.now ((s.tile d x).tested + s.get (GAL_CFG_RETEST_S d) * tSec)) ∧
      (∃ t : State, exec (.tileRetest d x false) s = .next t ∧ t.get (TILE_FAULT_PASSES d x) = 0 ∧ t.get (GAL_EVENTS_BIST_FAIL d) = 1)) ∧
    (∀ n, s.runs = true →
      (n = (s.gal d).bound → s.nvm.progOn = true → ∃ t : State, exec (.shortIntegrationBoundary d n) s = .next t ∧ (t.gal d).bound = s.siSkip d (n + 1)) ∧
      (n ≠ (s.gal d).bound → (s.be d).si = n → s.passesDone d = true → s.get (BE_STATUS_STATE d) ≠ 3 →
        ∃ t : State, exec (.shortIntegrationBoundary d n) s = .next t ∧ (t.be d).si = s.siSkip d (n + 1) ∧ t.get (BE_STATUS_SI_DONE d) = n % 2 ^ 48 ∧
          (t.led d).beamQ = (s.led d).beamQ ++ s.beRecords d ∧ t.gals = s.gals))

/-- Records, headers, gaps, dumps and clears of a block. A record offered for a block that is not held is applied, skipped or held as a gap by its header and the floor. Applied to a zeroed block it overwrites every entry; to another, whose groups all match the header and are below the limit, it updates every entry; its header then waits. A skipped record is acknowledged. A gap that times out gives its order back to the gallery. A header that waits is written and its record acknowledged. The next block of a dump whose last short integration is applied is handed to the packer, and in CLEAR mode waits for its clear; a dump ends with its last block, and LAST_SI shows its last short integration. A clear whose dump is committed zeroes the header but for its last short integration. (11_ledger.md, R289; 11_ledger.md, R293; 11_ledger.md, R294; 11_ledger.md, R296; 11_ledger.md, R297; 11_ledger.md, R298; 11_ledger.md, R303; 11_ledger.md, R304) -/
def Obligations.LedgerAppliesRecords : Prop :=
  ∀ (s : State) (d x b : Nat),
    (∀ blk n subst cell, s.present d = true → s.runs = true → x < 17 → b < 2 → s.offered d x b = some (some blk, n, subst, cell) → s.ledHeld d blk n = false →
      let h := s.ledHdr d blk
      let v := ledDecide h (s.get (LED_FLOOR_SI_FLOOR d)) n
      (v = .apply → hdBit h hbZERO = true → ∃ t : State, exec (.drainRecord d x b false []) s = .next t ∧
        (∀ g i, g < 128 → i < 8 → (t.group d blk g)[i]? = some (.first (cell (8 * g + i)))) ∧
        (t.led d).hdrs = (s.led d).hdrs ++ [⟨blk, BitVec.ofNat 72 (n % 2 ^ 48 + (hdNSI h + 1) % 2 ^ 16 * 2 ^ 48 + b2n (subst || hdBit h hbSUBST) * 2 ^ hbSUBST), x, b⟩]) ∧
      (v = .apply → hdBit h hbZERO = false → s.atLimit d blk (hdNSI h) [] = false → (∀ g, g < 128 → (s.groupNsi d blk g + 2 ^ 16 - hdNSI h) % 2 ^ 16 = 0) →
        ∃ t : State, exec (.drainRecord d x b false []) s = .next t ∧
          ∀ (g i : Nat) (e : LedEntry), g < 128 → (s.group d blk g)[i]? = some e → (t.group d blk g)[i]? = some (e.upd (cell (8 * g + i)))) ∧
      (v = .skip → ∃ t : State, exec (.drainRecord d x b false []) s = .next t ∧ t.dram = s.dram ∧ ((t.tile d x).bank b).acked = ((s.tile d x).bank b).acked + 1 ∧
        t.get (LED_EVENTS_SKIP d) = 1) ∧
      (v = .gap → (s.gapOf d x b).isSome = false → ∃ t : State, exec (.drainRecord d x b false []) s = .next t ∧ t.dram = s.dram ∧
        (t.led d).gaps = (s.led d).gaps ++ [⟨x, b, s.now⟩] ∧ t.get (LED_STATUS_STATE d) = 3) ∧
      (∀ g : GapHold, v = .gap → s.gapOf d x b = some g → ∃ t : State, exec (.gapTimeout d x b) s = .next t ∧ t.dram = s.dram ∧ (t.tile d x).bank b = .reset ∧
        ((s.tile d x).bank b).order.toList.map (fun o => (s.get (TILE_CFG_LOGICAL d x), o)) <:+ (t.gal d).gapWait)) ∧
    (∀ (h : HdrDue) (rest : List HdrDue), (s.led d).hdrs = h :: rest → (∀ y ∈ (s.led d).retired, y.1 ≠ h.blk) →
      ∃ t : State, exec (.headerWrite d) s = .next t ∧ t.ledHdr d h.blk = h.hdr ∧ (t.led d).hdrs = rest ∧
        (h.tile < 17 → h.bank < 2 → ((t.tile d h.tile).bank h.bank).acked = ((s.tile d h.tile).bank h.bank).acked + 1)) ∧
    (∀ (k : Nat) (r : DumpRun), s.dumpRun d k = some r →
      let blk := s.get (DSET_CFG_FIRST_BLK d k) + r.next
      (r.next + 1 < s.get (DSET_CFG_NBLK d k) → hdLAST (s.ledHdr d blk) = r.n → hdBit (s.ledHdr d blk) hbFRESH = false →
        ∃ t : State, exec (.dumpUnit d k false []) s = .next t ∧ t.units = s.units ++ [s.dumpUnit d r blk (s.ledHdr d blk) (s.rdMems d (s.blkAddr d blk) 3072)] ∧
          t.dumpRun d k = some { r with next := r.next + 1 } ∧ t.dram = s.dram ∧
          (s.get (DSET_CFG_CLEAR d k) = 1 → (t.led d).clears = (s.led d).clears ++ [⟨blk, k, r.n, false⟩])) ∧
      (r.next + 1 = s.get (DSET_CFG_NBLK d k) → hdLAST (s.ledHdr d blk) = r.n → hdBit (s.ledHdr d blk) hbFRESH = false →
        ∃ t : State, exec (.dumpUnit d k false []) s = .next t ∧ t.units = s.units ++ [s.dumpUnit d r blk (s.ledHdr d blk) (s.rdMems d (s.blkAddr d blk) 3072)] ∧
          t.get (DSET_LAST_LAST_SI d k) = r.n % 2 ^ 48 ∧ t.dram = s.dram) ∧
      (s.get (DSET_CFG_NBLK d k) ≤ r.next → exec (.dumpUnit d k false []) s = .next (s.endDump d r))) ∧
    (∀ (blk : Nat) (c : ClearDue), ((s.led d).clears.find? fun c => c.blk == blk && c.committed) = some c →
      ∃ t : State, exec (.ledgerClear d blk) s = .next t ∧ (t.led d).clears = (s.led d).clears.erase c ∧ hdBit (t.ledHdr d blk) hbZERO = true ∧
        hdLAST (t.ledHdr d blk) = hdLAST (s.ledHdr d blk) ∧ hdNSI (t.ledHdr d blk) = 0)

/-- Update intervals, passes and trigger samples. An update interval in its turn, with no pending copy, keeps the active descriptors and the delay of every input of their sets at its midpoint. A pass on a complete segment moves on by one channel or time; with a failed residue check within the bucket the short integration starts over instead. A complete trigger sample is taken in its turn: one with a bad value is passed over; the first good one starts the statistics, a later one moves them, and a crossing is counted where one arises in a group that is not enabled. (12_beam_engine.md, R318; 12_beam_engine.md, R320; 12_beam_engine.md, R322; 12_beam_engine.md, R330; 12_beam_engine.md, R331; 12_beam_engine.md, R333; 12_beam_engine.md, R338) -/
def Obligations.BeamEngineForms : Prop :=
  ∀ (s : State) (d : Nat), s.present d = true →
    (∀ k, s.runs = true → s.get (BE_CFG_UPD_FOLIOS d) ≠ 0 → k = s.nextInt d → s.get (BE_STATUS_STATE d) ≠ 3 →
      (∀ b, b < 1024 → s.get (PEND_CTRL_PENDING d b) = 0) →
      ∃ t : State, exec (.updateInterval d k) s = .next t ∧ ∃ iv : BeInt, (t.be d).ints = (s.be d).ints ++ [iv] ∧ iv.k = k ∧ iv.descs = s.activeDescs d ∧
        ((∀ y ∈ s.activeDescs d, ∀ j ∈ s.setAt d (dSET y.2) (k * s.get (BE_CFG_UPD_FOLIOS d)), j < 65536) →
          ∀ y ∈ s.activeDescs d, dKIND y.2 ≠ 2 → ∀ i ∈ s.setAt d (dSET y.2) (k * s.get (BE_CFG_UPD_FOLIOS d)),
            Store.get (fun _ => (0 : Int)) iv.taus (65536 * y.1 + i) = s.tau d k i y.2)) ∧
    (∀ (p : Nat) (iv : BeInt) (e : Nat × List Word) (es : List (Nat × List Word)), s.runs = true → s.get (BE_STATUS_STATE d) ≠ 3 →
      (s.passPos d p).folio < s.siFirst d ((s.be d).si + 1) → s.segReady d (s.passPos d p).folio = true → s.intOf d (s.passPos d p).folio = some iv →
      s.passDescs d p (s.passPos d p).folio = e :: es →
      (∃ t : State, exec (.beamPass d p false) s = .next t ∧
        Store.get (fun _ => ⟨s.beFirst d (s.be d).si, 0, 0⟩) (t.be d).pos p = (s.passPos d p).next (dCHN e.2) (s.ns d) ∧
        (s.get (BE_STATUS_STATE d) = 0 → t.get (BE_STATUS_STATE d) = 1)) ∧
      (s.get (UNIT_BKT_BKT_A d 35) < s.get (FLT_LIMITS2_BE_THRESH d) →
        ∃ t : State, exec (.beamPass d p true) s = .next t ∧ (t.be d).again = some (s.be d).si ∧ (t.be d).pos = [] ∧ t.get (BE_STATUS_STATE d) = 2)) ∧
    (∀ (m x : Nat) (acc : TrigAcc), m < 64 → s.get (DET_CFG0_EN d m) = 1 →
      let e := Store.get (fun _ => DetSt.reset) (s.be d).dets m
      let r := trigStats acc.sum (s.get (DET_STAT0_MEAN d m)) (s.get (DET_STAT1_VAR d m)) (s.get (DET_CFG0_ALPHA_LOG2 d m)) (s.get (DET_CFG0_K16 d m)) e.frozen
        (s.get (DET_CFG1_FREEZE_MAX d m))
      s.trigReady d m e = some (x, acc) → s.trigTurn d m x = true →
      (acc.bad = true → ∃ t : State, exec (.triggerSample d m) s = .next t ∧ (Store.get (fun _ => DetSt.reset) (t.be d).dets m).next = x + 1 ∧ t.regs = s.regs) ∧
      (acc.bad = false → e.valid = 0 → ∃ t : State, exec (.triggerSample d m) s = .next t ∧ (Store.get (fun _ => DetSt.reset) (t.be d).dets m).valid = 1 ∧
        t.get (DET_STAT0_MEAN d m) = acc.sum * 256 % 2 ^ (DET_STAT0_MEAN d m).wid ∧ t.get (DET_STAT1_VAR d m) = 0) ∧
      (acc.bad = false → e.valid ≠ 0 → s.get (DET_STAT0_ARMED d m) = 0 → ∃ t : State, exec (.triggerSample d m) s = .next t ∧
        (Store.get (fun _ => DetSt.reset) (t.be d).dets m).valid = e.valid + 1 ∧ t.get (DET_STAT0_ABOVE d m) = b2n r.1 ∧
        t.get (DET_STAT0_MEAN d m) = r.2.1 % 2 ^ (DET_STAT0_MEAN d m).wid ∧ t.get (DET_STAT1_VAR d m) = r.2.2.1 % 2 ^ (DET_STAT1_VAR d m).wid) ∧
      (acc.bad = false → e.valid ≠ 0 → s.get (DET_STAT0_ARMED d m) = 1 → s.get (DET_STAT0_ABOVE d m) = 0 → e.last = none → r.1 = true →
        s.get (GRP_CFG_EN d (s.get (DET_CFG1_GROUP d m))) = 0 →
        ∃ t : State, exec (.triggerSample d m) s = .next t ∧ (Store.get (fun _ => DetSt.reset) (t.be d).dets m).last = some x ∧
          t.get (DET_STAT0_CROSSINGS d m) = min (2 ^ (DET_STAT0_CROSSINGS d m).wid - 1) (s.get (DET_STAT0_CROSSINGS d m) + 1)))

/-- Entry of units, the hash chain, seals and reports. The packer gives the ring's next unit, of the type that the ring's producer makes, the sequence NEXT, adds its product behind the committed ones, moves NEXT on, takes the unit from those that wait and, when it is no SEAL, sets the chain to SHA-256 of the old chain and the product's octets. A derived unit at or below the ring's mark is discarded and counted. A unit without room waits, and the stall is counted. After SEAL_S seconds a ring with uncovered products asks for a SEAL of the products since the last trigger, with its chain. The SEC signs the seal at the head of its queue: SEAL_NO goes up and NEXT_FIRST moves behind PAN_LAST. The SEC signs the report at the head of its queue, and its ATT product enters ATT_RING. (13_products.md, R348; 13_products.md, R352; 13_products.md, R354; 13_products.md, R364; 13_products.md, R365; 13_products.md, R366; 13_products.md, R367; 18_security.md, R507) -/
def Obligations.ProductsEnterAndAreSealed : Prop :=
  ∀ (s : State) (r : Nat), r < 8192 → s.packerOn = true →
    (∀ u, s.present (ringDie r) = true → s.nextUnit r = some u → u.src = .service → 4 < u.typ → s.ringTakes r u.typ = true →
      (s.place r (4 + u.payload.length) ≠ .none → (s.ring r).full = false →
        ∃ t : State, exec (.unitEntry r) s = .next t ∧ t.units = s.units.erase u ∧ t.get (rcNEXT r) = (s.get (rcNEXT r) + 1) % 2 ^ 48 ∧
          (∃ (res : Bool) (pos : Nat), (t.ring r).prods = (s.ring r).prods ++ [⟨s.get (rcNEXT r), u.typ, 4 + u.payload.length, res, pos⟩]) ∧
          (u.typ ≠ 7 → ∀ i, i < 4 → t.rd (RING_CTL (ringDie r) (ringLoc r) (2 + i)) = (packOctets 4 (sha256 (s.ringChain r ++
            (prodHeader u.typ u.flags r u.payload.length s.ownDev (s.get (rcNEXT r)) s.nvm.epoch u.code u.start u.canFirst u.canCnt ++
              u.payload).flatMap Word.octets))).getD i 0)) ∧
      (s.place r (4 + u.payload.length) = .none →
        ∃ t : State, exec (.unitEntry r) s = .next t ∧ s.OnlyRegs t [PR_COUNT1 (ringDie r), PR_EVENTS (ringDie r)] ∧
          t.get (PR_COUNT1_STALLS (ringDie r)) = min (2 ^ (PR_COUNT1_STALLS 0).wid - 1) (s.get (PR_COUNT1_STALLS (ringDie r)) + 1) ∧
          t.get (PR_EVENTS_STALL (ringDie r)) = 1)) ∧
    (∀ u, s.present (ringDie r) = true → s.nextUnit r = some u → u.src = .service → u.typ ≤ 4 → s.belowMark r u.keyA u.keyB u.fmt = true →
      ∃ t : State, exec (.unitEntry r) s = .next t ∧ t = { s with units := s.units.erase u, regs := t.regs } ∧
        t.get (PR_COUNT0_DISCARDED (ringDie r)) = min (2 ^ (PR_COUNT0_DISCARDED 0).wid - 1) (s.get (PR_COUNT0_DISCARDED (ringDie r)) + 1)) ∧
    (s.present (ringDie r) = true → s.get (RING_CFG_SEAL_S (ringDie r) (ringLoc r)) ≠ 0 → 0 < (s.ring r).sinceTrig →
      ∃ t : State, exec (.sealTimer r) s = .next t ∧ (t.ring r).sinceTrig = 0 ∧ (t.ring r).trigNext = s.get (rcNEXT r) ∧
        t.now = max s.now ((s.ring r).sealTime + s.get (RING_CFG_SEAL_S (ringDie r) (ringLoc r)) * tSec) ∧
        t.sec.queue = s.sec.queue ++ [.sealRing r (s.ring r).trigNext (s.get (rcNEXT r) + 2 ^ 48 - 1) (s.ringChain r)]) ∧
    (∀ (first last key : Nat) (chain : List Nat) (rest : List SecReq), s.sec.queue = .sealRing r first last chain :: rest → s.sec.sealKey = some key →
      ∃ t : State, exec .sealSign s = .next t ∧ t.sec.queue = rest ∧ t.get (rcSEALNO r) = (s.get (rcSEALNO r) + 1) % 2 ^ 48 ∧
        t.get (rcFIRST r) = (last + 1) % 2 ^ 48) ∧
    (∀ (nonce : List Nat) (c : Option CmdHdr) (rest : List SecReq), s.sec.queue = .attest nonce c :: rest → s.get PKC_RINGS_ATT_RING = r →
      ∃ t : State, exec .attestationSign s = .next t ∧ rest <+: t.sec.queue ∧
        (s.ringTakes r 8 = true → s.place r (4 + wordsFor (s.report nonce).length) ≠ .none → (s.ring r).full = false →
          ∃ (res : Bool) (pos : Nat), (t.ring r).prods = (s.ring r).prods ++ [⟨s.get (rcNEXT r), 8, 4 + wordsFor (s.report nonce).length, res, pos⟩]))

/-- Sending, acknowledgement and resending of products. A live target sends its next committed product: to a collector as packets, or into its landing ring when the port is UP, the ring is enabled and not stopped and the product fits its FREE slots, and WRITTEN advances by the product. A collector's acknowledgement of this epoch between ACKED and SENT sets ACKED. A target whose ACKED has not advanced for ACK_TO_MS resends from ACKED + 1. (13_products.md, R355; 13_products.md, R357; 13_products.md, R358; 13_products.md, R359; 16_host.md, R448; 16_host.md, R449) -/
def Obligations.ProductsLeave : Prop :=
  ∀ (s : State) (r tg : Nat), r < 8192 → s.present (ringDie r) = true →
    (∀ p : RProd, s.packerOn = true → s.toSend r tg = some p → (s.liveTargets r).contains tg = true →
      ((s.targetOf r tg).1 = 3 →
        ∃ t : State, exec (.targetSend r tg []) s = .next t ∧ (t.ring r).nSent tg = (s.ring r).nSent tg + 1 ∧ (t.ring r).nAck tg = (s.ring r).nAck tg ∧
          (t.ring r).prods = (s.ring r).prods ∧ t.dram = s.dram) ∧
      (∀ port, port < 2 → s.targetOf r tg = (port + 1, (s.targetOf r tg).2) → s.portState port = 1 → s.get (LAND_STATE_EN port r) = 1 → (s.land port r).stopped = false →
        p.len ≤ s.get (LAND_STATE_FREE port r) →
        ∃ t : State, exec (.targetSend r tg []) s = .next t ∧ (t.ring r).nSent tg = (s.ring r).nSent tg + 1 ∧ (t.ring r).prods = (s.ring r).prods ∧
          (t.land port r).written = (s.land port r).written + p.len ∧ t.dram = s.dram ∧
          Output.hostWrite port (s.get (LAND_ADDR_ADDR port r 2)) (toOctets 8 ((s.land port r).written + p.len) ++ toOctets 6 p.seq ++ toOctets 2 s.nvm.epoch) ∈ t.out)) ∧
    (∀ (p : Pkt) (w x : Word), s.inboxHead p.dstDie p = true → p.vc = 2 → p.sub = 0xA → p.payload = [w, x] → x.bits 0 13 = r → p.dstDie = ringDie r →
      ((s.liveTargets r).find? fun t => s.targetOf r t == (3, p.src)) = some tg → w.bits 48 16 = s.nvm.epoch → (s.ring r).nAck tg ≤ w.bits 0 48 →
      w.bits 0 48 < (s.ring r).nSent tg →
      ∃ t : State, exec (.collectorAck p) s = .next t ∧ (t.ring r).nAck tg = w.bits 0 48 + 1 ∧ (t.ring r).nSent tg = (s.ring r).nSent tg ∧
        t.inbox = s.inbox.erase (p.dstDie, p)) ∧
    (s.packerOn = true → tg < 2 → (s.ring r).nAck tg < (s.ring r).nSent tg →
      ∃ t : State, exec (.ackTimeout r tg) s = .next t ∧ (t.ring r).nSent tg = (s.ring r).nAck tg ∧ (t.ring r).nAck tg = (s.ring r).nAck tg ∧
        (t.ring r).prods = (s.ring r).prods ∧ t.dram = s.dram)

/-- Activity, frequency, qualification and LO_IN. A reference whose activity fails is INVALID with no qualifying time; when it was the selected QUALIFIED one of an acquired DPLL and no other candidate exists, the DPLL is in HOLDOVER with nothing selected. A gate, a second after the last, reports the offset of a reference whose line is good: an INVALID reference within the accept limit begins QUALIFYING, a QUALIFYING one gains a second or falls back, and a QUALIFIED one falls only outside the reject limit. After QUAL_S unbroken seconds a reference is QUALIFIED. When LO_IN fails, the qualifying counts stop, it is not warm, and a running holdover loses HO_QUAL. After LO_WARM_S it is warm. No monitor changes the state of another reference. (14_time.md, R374; 14_time.md, R375; 14_time.md, R376; 14_time.md, R377; 14_time.md, R378; 14_time.md, R380) -/
def Obligations.ReferencesAreMonitored : Prop :=
  ∀ s : State,
    (∀ r, s.refExists r = true → s.refState r ≠ rfOFF →
      ∃ t : State, exec (.refActivityFail r) s = .next t ∧ t.refState r = rfINVALID ∧ t.get (REF_STATUS_ACTIVE r) = 0 ∧ t.ref r = ⟨false, 0, false⟩ ∧
        (∀ q, q < 20 → q ≠ r → t.refState q = s.refState q ∧ t.ref q = s.ref q) ∧
        (s.refState r = rfQUALIFIED → t.get RSC_EVENTS_LOSS = 1 ∧
          (r = s.get RSC_STATUS_SEL → (s.candidates.filter (· ≠ r)) = [] → s.get RSC_STATUS_SWITCHING = 0 → (s.get RSC_STATUS_STATE = dpACQUIRE ∨ s.get RSC_STATUS_STATE = dpLOCKED) →
            t.get RSC_STATUS_STATE = dpHOLDOVER ∧ t.get RSC_STATUS_SEL = selNone ∧ t.rsc.hoEntry = s.now ∧ t.rsc.cur = t.rsc.hold))) ∧
    (∀ (r : Nat) (ppb : Int), s.refExists r = true → s.refState r ≠ rfOFF → s.rsc.loActive = true → s.lineGood r = true →
      ∃ t : State, exec (.frequencyGate r ppb) s = .next t ∧ t.now = max s.now (s.timer (tkGate r) + tSec) ∧ t.get (REF_STATUS_OFFSET_PPB r) = unsigned 24 ppb ∧
        (∀ q, q < 20 → q ≠ r → t.refState q = s.refState q ∧ t.ref q = s.ref q) ∧
        (s.refState r = rfINVALID → ppb.natAbs ≤ s.get RSC_CFG_ACCEPT_PPB → t.refState r = rfQUALIFYING ∧ t.ref r = ⟨true, 0, false⟩) ∧
        (s.refState r = rfINVALID → s.get RSC_CFG_ACCEPT_PPB < ppb.natAbs → t.refState r = rfINVALID) ∧
        (s.refState r = rfQUALIFYING → ppb.natAbs ≤ s.get RSC_CFG_ACCEPT_PPB → t.refState r = rfQUALIFYING ∧
          t.ref r = ⟨true, if (s.ref r).paused then 0 else (s.ref r).qual + 1, false⟩) ∧
        (s.refState r = rfQUALIFYING → s.get RSC_CFG_ACCEPT_PPB < ppb.natAbs → t.refState r = rfINVALID ∧ (t.ref r).qual = 0) ∧
        (s.refState r = rfQUALIFIED → ppb.natAbs ≤ s.get RSC_CFG_REJECT_PPB → t.refState r = rfQUALIFIED) ∧
        (s.refState r = rfQUALIFIED → s.get RSC_CFG_REJECT_PPB < ppb.natAbs → t.refState r = rfINVALID)) ∧
    (∀ r, s.refExists r = true → s.refState r = rfQUALIFYING → (s.ref r).active = true → (s.ref r).paused = false → s.rsc.loActive = true →
      s.get RSC_CFG_QUAL_S ≤ (s.ref r).qual →
      ∃ t : State, exec (.qualificationComplete r) s = .next t ∧ t.refState r = rfQUALIFIED ∧ t.get (REF_STATUS_QUAL_LEFT_S r) = 0 ∧ t.get RSC_EVENTS_QUAL = 1 ∧
        ∀ q, q < 20 → q ≠ r → t.refState q = s.refState q) ∧
    (s.rsc.loActive = true →
      ∃ t : State, exec .loLoss s = .next t ∧ t.rsc.loActive = false ∧ t.get RSC_LO_LO_ACTIVE = 0 ∧ t.get RSC_STATUS_LO_WARM = 0 ∧ t.get RSC_EVENTS_LO_LOSS = 1 ∧
        (∀ q, q < 20 → t.refState q = s.refState q ∧ (s.refState q = rfQUALIFYING → (t.ref q).qual = 0 ∧ (t.ref q).paused = true) ∧
          (s.refState q ≠ rfQUALIFYING → t.ref q = s.ref q)) ∧
        (s.get RSC_STATUS_STATE = dpHOLDOVER → t.get RSC_STATUS_HO_QUAL = 0)) ∧
    (s.rsc.loActive = true →
      ∃ t : State, exec .loWarmTimer s = .next t ∧ t.now = max s.now (s.rsc.loSince + s.get RSC_CFG_LO_WARM_S * tSec) ∧ t.get RSC_STATUS_LO_WARM = 1 ∧
        t.rsc = s.rsc ∧ ∀ q, q < 20 → t.refState q = s.refState q)

/-- Switches, lock, ladder, history, holdover and the crystal. At the end of a switch device time moves by the new reference's phase, reduced by its period; the target is selected and, while it is QUALIFIED, no switch runs, and a DPLL in HOLDOVER is LOCKED at ladder step 1; then the grains that the step passed are run. Phase in limits for a second at ladder step 1 or later locks an acquiring DPLL. A dwell at its end moves to the next ladder step in use. Each device second enters its mean control value in the history of 2,048 seconds; a holdover ages. Past HO_MAX_S time is no longer qualified. A second after a switch the revertive choice starts a switch to the better reference, or nothing changes. The crystal's measured offset is reported, 64 s after the last. (14_time.md, R378; 14_time.md, R380; 14_time.md, R382; 14_time.md, R384; 14_time.md, R385; 14_time.md, R387; 14_time.md, R388; 19_power.md, R527) -/
def Obligations.TheDpllSwitchesLocksAndHolds : Prop :=
  ∀ s : State,
    (∀ (phase : Int) (ge : GrainEnv) (r : Nat), s.rsc.target = some r → r < 20 → s.refState r = rfQUALIFIED →
      ∃ u : State, exec (.switchEnd phase ge) s = .next (u.catchUp ge) ∧ u.now = ((s.now : Int) + psUnits (reducePhase phase (s.refPeriod r))).toNat ∧ u.rsc.target = none ∧
        u.rsc.lastSwitch = u.now ∧ u.get RSC_STATUS_SEL = r ∧ u.get RSC_STATUS_SWITCHING = 0 ∧ u.get RSC_EVENTS_SWITCH = 1 ∧ u.get RSC_STEP_FROM = s.get RSC_STATUS_SEL ∧
        u.get RSC_STEP_DELTA_PS = unsigned 40 (reducePhase phase (s.refPeriod r)) ∧
        (s.get RSC_STATUS_STATE = dpHOLDOVER → u.get RSC_STATUS_STATE = dpLOCKED ∧ u.get RSC_STATUS_LADDER = 1) ∧
        (s.get RSC_STATUS_STATE ≠ dpHOLDOVER → u.get RSC_STATUS_STATE = s.get RSC_STATUS_STATE ∧ u.get RSC_STATUS_LADDER = s.get RSC_STATUS_LADDER)) ∧
    (s.get RSC_STATUS_STATE = dpACQUIRE → 1 ≤ s.get RSC_STATUS_LADDER →
      ∃ t : State, exec .dpllLock s = .next t ∧ t.get RSC_STATUS_STATE = dpLOCKED ∧ t.get RSC_STATUS_LADDER = s.get RSC_STATUS_LADDER ∧ t.rsc = s.rsc ∧
        t.now = (if s.get RSC_STATUS_LADDER = 1 then max s.now (s.timer tkLadder + tSec) else s.now)) ∧
    ((s.get RSC_STATUS_STATE = dpACQUIRE ∨ s.get RSC_STATUS_STATE = dpLOCKED) → s.get RSC_STATUS_LADDER + 1 < s.get RSC_LADDER1_NSTEPS →
      ∃ t : State, exec .ladderDwell s = .next t ∧ t.get RSC_STATUS_LADDER = (s.get RSC_STATUS_LADDER + 1) % 4 ∧ t.get RSC_STATUS_STATE = s.get RSC_STATUS_STATE ∧
        t.get RSC_STATUS_SEL = s.get RSC_STATUS_SEL ∧ t.now = max s.now (s.timer tkLadder + s.dwell (s.get RSC_STATUS_LADDER) * tSec) ∧
        t = { s with regs := t.regs, now := t.now, timers := t.timers }) ∧
    (∀ (sec : Nat) (c : Int), ∃ t : State, exec (.historySecond sec c) s = .next t ∧ t.now = max s.now ((sec + 1) * tSec) ∧
      t.rsc.hist.getLast? = some ⟨sec, if s.get RSC_STATUS_STATE = dpHOLDOVER ∨ s.get RSC_STATUS_SWITCHING = 1 then s.rsc.cur else c, s.rsc.secLocked && s.lockedNow⟩ ∧
      (s.rsc.hist.length ≤ 2048 → t.rsc.hist.length = min 2048 (s.rsc.hist.length + 1)) ∧
      t.get RSC_CTRL_VALUE = unsigned 48 (if s.get RSC_STATUS_STATE = dpHOLDOVER ∨ s.get RSC_STATUS_SWITCHING = 1 then s.rsc.cur else c) ∧
      (s.get RSC_STATUS_STATE = dpHOLDOVER → t.get RSC_STATUS_HO_AGE_S = t.hoAge % 2 ^ 32)) ∧
    (s.get RSC_STATUS_STATE = dpHOLDOVER →
      ∃ t : State, exec .holdoverExpiry s = .next t ∧ t.now = max s.now (s.rsc.hoEntry + (s.get RSC_HOLD_HO_MAX_S + 1) * tSec) ∧ t.timeQual = false ∧ t.get TE_STATUS_QUALIFIED = 0) ∧
    (s.rsc.lastSwitch + tSec ≤ s.now →
      (∀ r, s.revertDue = true → s.choice = some r → s.get RSC_STATUS_STATE ≠ dpFREERUN →
        ∃ t : State, exec .revertHoldoff s = .next t ∧ t.rsc.target = some r ∧ t.get RSC_STATUS_SWITCHING = 1 ∧ t.get RSC_STATUS_SEL = s.get RSC_STATUS_SEL) ∧
      (s.revertDue = false → ∃ t : State, exec .revertHoldoff s = .next t ∧ t = s)) ∧
    (∀ ppb : Int, 2 ≤ s.mode → ∃ t : State, exec (.crystalDiscipline ppb) s = .next t ∧ t.get AOI_STATUS_DISC_PPB = unsigned 32 ppb ∧
      t.now = max s.now (s.timer tkCrystal + 64 * tSec) ∧ t = { s with regs := t.regs, now := t.now, timers := t.timers })

/-- Sync, Delay_Req and Delay_Resp, the servo and its timeout. The first message that waits from a chain is taken, and its times are those at the balls. A follower consumes a Sync of its lead from its upstream chain: it reports theta, and steps device time by theta when the servo is FREE or theta is above STEP_NS, else moves I and y within YMAX; a Sync from another chain is dropped and counted. A Delay_Req from a downstream chain is recorded and sent upstream with its correction; a lead answers it with its arrival time and its requester's identity and port. A Delay_Resp to this device's latest Delay_Req moves MPD; another's goes out on the recorded chain. A lead sends Sync on every downstream chain. A follower sends its Delay_Req upstream and keeps its egress time; a chain under calibration carries one of its N with its egress time. A LOCKED servo without Sync for SYNC_TO_S holds with y = I. (14_time.md, R393; 14_time.md, R394; 14_time.md, R396; 14_time.md, R397; 14_time.md, R398; 14_time.md, R399; 14_time.md, R401; 14_time.md, R406; 08_griwano_link.md, R225) -/
def Obligations.TorveriMessagesCarryTime : Prop :=
  ∀ s : State,
    let msg := fun (j : Nat) (m : Ptp) => Pkt.mk 3 1 0 s.ownDev 0 m.typ (s.get (GWL_CH_CFG_HOPS_INIT (kDie j) (kIdx j))) 0
      (packOctets (if m.typ = 9 then 6 else 5) (ptpOctets (s.ptpLog m.typ) m))
    (∀ (k tin lane : Nat) (p : Pkt) (touts : List (Nat × Nat)) (ge : GrainEnv) (s1 : State), s.runs = true → s.takeTe k p = some (lane, s1) →
      (s.follows = true → k = s.upstream → (ptpOf p).typ = 0 → (ptpOf p).domain = s.get TE_CFG_DOMAIN → ptpZn p = true → (ptpOf p).dev = s.get TE_CFG_LEAD_DEV →
        let ball := s.ballIn k lane tin
        let a : Int := (ball : Int) - ((ptpOf p).ts * 1000 : Nat) - unitsPs ((ptpOf p).corr + psUnits (s.asym k))
        let th := a - s.te.mpd.getD 0
        ∃ u : State, exec (.syncMessage k p tin touts ge) s = .next (u.catchUp ge) ∧ u.inbox = s1.inbox ∧ u.get TE_OFFSET_THETA_PS = unsigned 36 th ∧ u.te.lastSync = s.now ∧
          u.te.syncs.getLast? = some ⟨ball, a⟩ ∧ u.get TE_STATUS_SERVO = (servoNext (s.get TE_STATUS_SERVO) s.te.cnt th (s.get TE_LIMITS_LOCK_PS) (s.get TE_LIMITS_UNLOCK_PS)).1 ∧
          (s.get TE_STATUS_SERVO = svFREE ∨ s.get TE_LIMITS_STEP_NS * 1000 < th.natAbs →
            u.now = ((s.now : Int) + -(psUnits th)).toNat ∧ u.te.stepped = true ∧ u.te.i = s.te.i ∧ u.get TE_EVENTS_TIME_STEP = 1) ∧
          (s.get TE_STATUS_SERVO ≠ svFREE → th.natAbs ≤ s.get TE_LIMITS_STEP_NS * 1000 →
            u.now = s.now ∧ u.te.i = clampInt (-s.yMax) s.yMax (s.te.i + s.kiTerm th) ∧ u.te.y = clampInt (-s.yMax) s.yMax (-(s.kpTerm th + u.te.i)))) ∧
      (k ≠ s.upstream → ∃ u : State, exec (.syncMessage k p tin touts ge) s = .next (u.catchUp ge) ∧ s1.OnlyRegs u [TE_COUNT] ∧
        u.get TE_COUNT_DROPPED = min (2 ^ 24 - 1) (s.get TE_COUNT_DROPPED + 1))) ∧
    (∀ (k tin tout lane : Nat) (p : Pkt) (s1 : State), s.takeTe k p = some (lane, s1) → (ptpOf p).typ = 1 → (ptpOf p).domain = s.get TE_CFG_DOMAIN → ptpZn p = true →
      let ball := s.ballIn k lane tin
      (s.follows = true → s.isDown k = true →
        ∃ t : State, exec (.delayReq k p tin tout) s = .next t ∧ t = { s1 with te := t.te, chains := t.chains } ∧ Store.get (fun _ => 0) t.te.table (ptpOf p).dev = k + 1 ∧
          (t.chain s.upstream).vc1 = (s.chain s.upstream).vc1 ++ [msg s.upstream { ptpOf p with
            corr := (ptpOf p).corr + psUnits ((s.ballOut s.upstream tout : Int) - ball - s.asym s.upstream), port := s.upstream + 1 }] ∧
          ∀ j, j ≠ s.upstream → t.chain j = s.chain j) ∧
      (s.follows = false →
        ∃ t : State, exec (.delayReq k p tin tout) s = .next t ∧ t = { s1 with te := t.te, chains := t.chains } ∧ t.te = { s.te with cal := t.te.cal } ∧
          (t.chain k).vc1 = (s.chain k).vc1 ++ [msg k ⟨9, (ptpOf p).domain, s.ownDev, k + 1, (ptpOf p).corr - psUnits (ball % 1000 : Nat), ball / 1000,
            (ptpOf p).seq, (ptpOf p).dev, (ptpOf p).port⟩] ∧ ∀ j, j ≠ k → t.chain j = s.chain j)) ∧
    (∀ (k lane : Nat) (p : Pkt) (s1 : State), s.takeTe k p = some (lane, s1) → s.follows = true → k = s.upstream → (ptpOf p).typ = 9 →
      (ptpOf p).domain = s.get TE_CFG_DOMAIN → ptpZn p = true → (ptpOf p).dev = s.get TE_CFG_LEAD_DEV →
      (∀ (t3 : Int) (r : SyncRec), (ptpOf p).req = s.ownDev → (ptpOf p).seq = (s.te.dreq + 65535) % 65536 → s.te.t3 = some t3 →
        (s.te.syncs.filter fun r => decide (r.t2 ≤ t3)).getLast? = some r →
        let v := (r.a + ((((ptpOf p).ts * 1000 : Nat) : Int) - t3 - unitsPs (ptpOf p).corr)) / 2
        ∃ t : State, exec (.delayResp k p) s = .next t ∧ t.te.t3 = none ∧ t.te.mpd = some (s.te.mpd.elim v fun o => o + (v - o) / 16) ∧
          t.get TE_OFFSET_MPD_PS = unsigned 36 (s.te.mpd.elim v fun o => o + (v - o) / 16) ∧ t.te.table = s.te.table ∧ t.chains = s.chains) ∧
      (∀ j, (ptpOf p).req ≠ s.ownDev → Store.get (fun _ => 0) s.te.table (ptpOf p).req = j + 1 →
        ∃ t : State, exec (.delayResp k p) s = .next t ∧ t = { s1 with chains := t.chains } ∧ (t.chain j).vc1 = (s.chain j).vc1 ++ [msg j { ptpOf p with port := j + 1 }] ∧
          ∀ x, x ≠ j → t.chain x = s.chain x)) ∧
    (∀ touts : List (Nat × Nat), s.get TE_CFG_ROLE = 1 → s.runs = true →
      ∃ t : State, exec (.syncOriginate touts) s = .next t ∧ t.te.sync = s.te.sync + 1 ∧ t.regs = s.regs ∧
        t.now = max s.now (s.timer tkSync + tSec / 2 ^ s.get TE_CFG_SYNC_LOG2) ∧
        ∀ j x, j < 16 → s.isDown j = true → egressOf touts j = some x → (t.chain j).vc1 = (s.chain j).vc1 ++ [msg j
          ⟨0, s.get TE_CFG_DOMAIN, s.ownDev, j + 1, psUnits (s.ballOut j x % 1000 : Nat), s.ballOut j x / 1000, s.te.sync % 65536, 0, 0⟩]) ∧
    (∀ (touts : List (Nat × Nat)) (x : Nat), s.runs = true →
      (s.follows = true → s.te.cal = [] → egressOf touts s.upstream = some x →
        ∃ t : State, exec (.delayReqOriginate touts) s = .next t ∧ t.te.t3 = some (s.ballOut s.upstream x : Int) ∧ t.te.dreq = s.te.dreq + 1 ∧ t.regs = s.regs ∧
          t.now = max s.now (s.timer tkDreq + tSec / 2 ^ s.get TE_CFG_DREQ_LOG2) ∧
          (t.chain s.upstream).vc1 = (s.chain s.upstream).vc1 ++ [msg s.upstream
            ⟨1, s.get TE_CFG_DOMAIN, s.ownDev, s.upstream + 1, psUnits (-(s.asym s.upstream)), 0, s.te.dreq % 65536, 0, 0⟩]) ∧
      (∀ q : CalSt, s.follows = false → s.te.cal = [q] → 0 < q.left → egressOf touts q.chain = some x →
        ∃ t : State, exec (.delayReqOriginate touts) s = .next t ∧ t.te.cal = [{ q with left := q.left - 1 }] ∧ t.te.t3 = s.te.t3 ∧ t.regs = s.regs ∧
          (t.chain q.chain).vc1 = (s.chain q.chain).vc1 ++ [msg q.chain
            ⟨1, s.get TE_CFG_DOMAIN, s.ownDev, q.chain + 1, psUnits (-(s.asym q.chain)), s.ballOut q.chain x / 1000, s.te.dreq % 65536, 0, 0⟩])) ∧
    (s.follows = true → s.get TE_STATUS_SERVO = svLOCKED →
      ∃ t : State, exec .syncTimeout s = .next t ∧ t.now = max s.now (s.te.lastSync + s.get TE_CFG_SYNC_TO_S * tSec) ∧ t.get TE_STATUS_SERVO = svHOLD ∧ t.te.y = s.te.i ∧
        t.get TE_RATE_Y = unsigned 48 s.te.i ∧ t.te.holdSince = t.now ∧ t.get TE_EVENTS_SYNC_LOSS = 1)

/-- From DETECT to INIT, and back to TRAIN. Signal and symbol lock take a chain from DETECT to TRAIN; the first time the taps are the preset. The characters of a training ordered set are read at the lane's disparity and polarity; one of another rate fails its lane and charges one attempt; else READY is kept, a new request is applied to the taps, and the chain is in ALIGN once every lane is trained in both directions. 4 us after its answer a measurement makes the search's next request, which the lane's own training ordered set carries, or ends it: the lane is TRAINED on target, MARGINAL above the floors, else FAILED. 10 ms after a failed attempt DETECT begins again. An AOS of eight characters goes out on every lane with the next MC. Aligned lanes from the configured peer take ALIGN to INIT; from another peer the chain stays and reports it once. An ACTIVE chain retrains at the second disagreeing AOS and at a loss of symbol lock. No other chain changes. (08_griwano_link.md, R197; 08_griwano_link.md, R199; 08_griwano_link.md, R201; 08_griwano_link.md, R202; 08_griwano_link.md, R203; 08_griwano_link.md, R204; 08_griwano_link.md, R205; 08_griwano_link.md, R207; 08_griwano_link.md, R221) -/
def Obligations.ChainsTrainAndAlign : Prop :=
  ∀ (s : State) (k : Nat), k < 16 →
    (s.chState k = csDETECT →
      ∃ t : State, exec (.signalDetect k) s = .next t ∧ t.chState k = csTRAIN ∧ (∀ j, j ≠ k → t.chain j = s.chain j) ∧ ∀ l, l < 4 →
        t.get (LN_STATUS_STATE (kDie k) (kLane k l)) = 2 ∧ t.get (LN_STATUS_SYMLOCK (kDie k) (kLane k l)) = 1 ∧
        ((s.chain k).firstTrain = true → (t.chain k).firstTrain = false ∧ t.get (LN_TAPS_PRE (kDie k) (kLane k l)) = 0 ∧
          t.get (LN_TAPS_MAIN (kDie k) (kLane k l)) = 52 ∧ t.get (LN_TAPS_POST (kDie k) (kLane k l)) = 8) ∧
        ((s.chain k).firstTrain = false → t.rd (LN_TAPS (kDie k) (kLane k l)) = s.rd (LN_TAPS (kDie k) (kLane k l)))) ∧
    (∀ (lane : Nat) (pos inv : Bool) (groups : List Nat) (o : Tos), s.chState k = csTRAIN → lane < 4 → (s.chain k).lanes.length = 4 →
      readTos (readLane pos (groups.map fun g => if inv then 1023 - g else g)).1 = some o →
      (o.rate ≠ s.get (GWL_CH_CFG_RATE (kDie k) (kIdx k)) → ((s.chain k).lanes.all fun l => !l.failed) = true →
        s.get (GWL_CH_STATUS_RT_BKT (kDie k) (kIdx k)) + 1 ≤ s.get (GWL_BUCKET_CFG_RT_THRESH (kDie k)) → (s.chain k).tries + 1 < s.get (GWL_TIMERS_TRAIN_TRIES (kDie k)) →
        ∃ t : State, exec (.tosReceived k lane groups pos inv) s = .next t ∧ t.chState k = csTRAIN ∧ (t.chain k).tries = (s.chain k).tries + 1 ∧
          ((t.chain k).lanes.getD lane .reset).failed = true ∧ t.get (LN_STATUS_STATE (kDie k) (kLane k lane)) = 4 ∧
          t.get (GWL_CH_STATUS_RT_BKT (kDie k) (kIdx k)) = s.get (GWL_CH_STATUS_RT_BKT (kDie k) (kIdx k)) + 1) ∧
      (o.rate = s.get (GWL_CH_CFG_RATE (kDie k) (kIdx k)) →
        let l := (s.chain k).lanes.getD lane .reset
        let new := decide (l.applied ≠ some o.rseq) && (bitsOf o.req 0 7 != 0)
        let r := applyReq o.req (s.get (LN_TAPS_PRE (kDie k) (kLane k lane))) (s.get (LN_TAPS_MAIN (kDie k) (kLane k lane))) (s.get (LN_TAPS_POST (kDie k) (kLane k lane)))
        ∃ t : State, exec (.tosReceived k lane groups pos inv) s = .next t ∧ ((t.chain k).lanes.getD lane .reset).ready = (l.ready || bit o.stat 6) ∧
          ((t.chain k).lanes.getD lane .reset).applied = (if new then some o.rseq else l.applied) ∧
          ((t.chain k).lanes.getD lane .reset).echoed = (l.echoed || o.echo == l.rseq) ∧
          (∀ j, j < 4 → j ≠ lane → (t.chain k).lanes.getD j .reset = (s.chain k).lanes.getD j .reset) ∧
          t.get (LN_TAPS_PRE (kDie k) (kLane k lane)) = (if new then r.1.1.toNat % 2 ^ 4 else s.get (LN_TAPS_PRE (kDie k) (kLane k lane))) ∧
          t.get (LN_TAPS_MAIN (kDie k) (kLane k lane)) = (if new then r.1.2.1.toNat % 2 ^ 6 else s.get (LN_TAPS_MAIN (kDie k) (kLane k lane))) ∧
          t.get (LN_TAPS_POST (kDie k) (kLane k lane)) = (if new then r.1.2.2.toNat % 2 ^ 5 else s.get (LN_TAPS_POST (kDie k) (kLane k lane))) ∧
          t.chState k = (if (t.chain k).lanes.all (fun l => l.trained && l.ready) then csALIGN else csTRAIN))) ∧
    (∀ lane h w, s.chState k = csTRAIN → lane < 4 → lane < (s.chain k).lanes.length → ((s.chain k).lanes.getD lane .reset).trained = false →
      ((s.chain k).lanes.getD lane .reset).failed = false → ((s.chain k).lanes.getD lane .reset).echoed = true →
      (∀ l req, eyeStep ((s.chain k).lanes.getD lane .reset) (eyeMetric h w) = .request l req →
        ∃ t : State, exec (.eyeMeasure k lane h w) s = .next t ∧ t.chState k = csTRAIN ∧ (t.chain k).lanes.getD lane .reset = { l with req := req, rseq := (l.rseq + 1) % 256, echoed := false } ∧
          (∃ gs, t.out = .line k gs :: .tos k lane (t.tosNow k lane) :: s.out) ∧ t.now = max s.now (((s.chain k).lanes.getD lane .reset).echoAt + 4 * tUs)) ∧
      (eyeStep ((s.chain k).lanes.getD lane .reset) (eyeMetric h w) = .done →
        ∃ t : State, exec (.eyeMeasure k lane h w) s = .next t ∧ (6120 ≤ eyeMetric h w ∨ (30 ≤ h ∧ 77 ≤ w) → t.get (LN_STATUS_STATE (kDie k) (kLane k lane)) = 3) ∧
          ((t.chain k).lanes.getD lane .reset).trained = (decide (6120 ≤ eyeMetric h w ∨ (30 ≤ h ∧ 77 ≤ w))) ∧
          ((t.chain k).lanes.getD lane .reset).failed = !(decide (6120 ≤ eyeMetric h w ∨ (30 ≤ h ∧ 77 ≤ w))))) ∧
    (s.chState k = csTRAIN → ((s.chain k).lanes.any LaneTrain.failed) = true →
      ∃ t : State, exec (.trainRetry k) s = .next t ∧ t.chState k = csDETECT ∧ (∀ l ∈ (t.chain k).lanes, l.failed = false ∧ l.trained = false ∧ l.ready = false) ∧
        (t.chain k).tries = (s.chain k).tries ∧ t.now = max s.now ((s.chain k).failAt + 10 * tMs) ∧ ∀ j, j ≠ k → t.chain j = s.chain j) ∧
    (csALIGN ≤ s.chState k → s.chState k ≤ csACTIVE → s.get (GWL_CH_STATUS_TX_SLEEP (kDie k) (kIdx k)) = 0 →
      ∃ t : State, exec (.aosSend k) s = .next t ∧ (∃ gs, gs.length = 32 ∧ [.line k gs, .aos k (s.chain k).mc] <+: t.out) ∧ (t.chain k).mc = ((s.chain k).mc + 1) % 2 ^ 24 ∧ t.regs = s.regs) ∧
    (∀ ls : List AosLane, let ms := ls.filterMap readAos
      (s.chState k = csALIGN → lanesAligned ls ms = true → s.get (CH_PEER_RX_DEV (kDie k) (kIdx k)) = s.get (CH_PEER_PEER_DEV (kDie k) (kIdx k)) →
        s.get (CH_PEER_RX_CHAIN (kDie k) (kIdx k)) = s.get (CH_PEER_PEER_CHAIN (kDie k) (kIdx k)) →
        ∃ t : State, exec (.aosReceived k ls) s = .next t ∧ t.chState k = csINIT ∧ (t.chain k).initSent = 0 ∧ (t.chain k).initRcvd = 0 ∧ (t.chain k).lcbDue = true ∧
          ((s.chain k).fresh = true → (t.chain k).replay = [] ∧ t.get (CH_SEQ_TX_NEXT (kDie k) (kIdx k)) = 0 ∧ t.get (CH_SEQ_RX_EXPECT (kDie k) (kIdx k)) = 0) ∧
          ((s.chain k).fresh = false → (t.chain k).replay = (s.chain k).replay ∧ t.rd (CH_SEQ (kDie k) (kIdx k)) = s.rd (CH_SEQ (kDie k) (kIdx k)))) ∧
      (s.chState k = csALIGN → lanesAligned ls ms = true → s.get (CH_PEER_RX_DEV (kDie k) (kIdx k)) ≠ s.get (CH_PEER_PEER_DEV (kDie k) (kIdx k)) → (s.chain k).mismatchSent = false →
        ∃ t : State, exec (.aosReceived k ls) s = .next t ∧ t.chState k = csALIGN ∧ (t.chain k).mismatchSent = true ∧ t.get (GWL_EVENTS_PEER_MISMATCH (kDie k)) = 1) ∧
      (s.chState k = csACTIVE → mcAgree ms = false → s.get (GWL_CH_STATUS_RX_SLEEP (kDie k) (kIdx k)) = 0 → (s.chain k).aosBad = 0 →
        ∃ t : State, exec (.aosReceived k ls) s = .next t ∧ t.chState k = csACTIVE ∧ (t.chain k).aosBad = 1) ∧
      (s.chState k = csACTIVE → mcAgree ms = false → 1 ≤ (s.chain k).aosBad →
        s.get (GWL_CH_STATUS_RT_BKT (kDie k) (kIdx k)) + 1 ≤ s.get (GWL_BUCKET_CFG_RT_THRESH (kDie k)) →
        ∃ t : State, exec (.aosReceived k ls) s = .next t ∧ t.chState k = csTRAIN ∧ (t.chain k).replay = (s.chain k).replay)) ∧
    (∀ lane, lane < 4 → s.chState k ≠ csOFF → s.chState k ≠ csDEACC → s.get (GWL_CH_STATUS_RT_BKT (kDie k) (kIdx k)) + 1 ≤ s.get (GWL_BUCKET_CFG_RT_THRESH (kDie k)) →
      ∃ t : State, exec (.symbolLockLoss k lane) s = .next t ∧ t.get (LN_STATUS_SYMLOCK (kDie k) (kLane k lane)) = 0 ∧
        t.chState k = (if s.chState k = csACTIVE then csTRAIN else s.chState k))

/-- Packets, link-control blocks, retry, credit, sleep and the package fabric. A packet is read from its characters. The one with the expected SEQ is accepted once, and a NEIGHBOUR reaches the timing engine when there is room and else stays in the receive buffer; a bad one or one ahead of its turn is counted and NAKed; an earlier one only makes a block due; one beyond the credit granted is a protocol error. A block with a right check sets the limits of its pair and frees what it acknowledges; another has no effect but its code errors. At a packet boundary a due block goes first, then retransmissions in order, character n on logical lane n mod 4, then the first packet of VC 1, of VC 2, or of VC 0 and VC 3 by round robin, with the next SEQ and into the replay buffer. Without progress every unacknowledged packet is sent again. Want of credit asks for it. An idle direction sleeps at its level, the partner's sleep is noted, and something to send wakes it. A hop of the package fabric carries a packet on, hands it over at the end of its way when there is room, or counts a retry. (08_griwano_link.md, R211; 08_griwano_link.md, R213; 08_griwano_link.md, R214; 08_griwano_link.md, R215; 08_griwano_link.md, R216; 08_griwano_link.md, R217; 08_griwano_link.md, R218; 08_griwano_link.md, R222; 08_griwano_link.md, R223; 01_architecture.md, R22; 08_griwano_link.md, R198) -/
def Obligations.LinksCarryPackets : Prop :=
  ∀ (s : State) (k : Nat), k < 16 →
    (∀ (start : Nat) (x : RxLine), s.chState k = csACTIVE → (s.readStream k start x).1.head? = some (some gSOP) →
      let seen := readPacket (dropAos (s.readStream k start x).1.length ((s.readStream k start x).1.drop 1))
      (∀ p begun, seen = .whole p → p.typ = 3 → p.vc = 1 → p.seq = s.get (CH_SEQ_RX_EXPECT (kDie k) (kIdx k)) → (s.chain k).overdrawn p = false →
        k < 2 * s.part.dies → s.pkf.transit = [] → (∀ j, (s.chain j).rx = []) →
        ∃ t : State, exec (.packetReceived k start x begun) s = .next t ∧ t.inbox = (if s.inboxRoom (teKey k (start % 4)) 1 then s.inbox ++ [(teKey k (start % 4), p)] else s.inbox) ∧
          (t.chain k).rx = (if s.inboxRoom (teKey k (start % 4)) 1 then [] else [(start % 4, p)]) ∧ (t.chain k).naked = false ∧ (t.chain k).replay = (s.chain k).replay ∧
          t.get (CH_SEQ_RX_EXPECT (kDie k) (kIdx k)) = (p.seq + 1) % 65536 ∧ ∀ j, j ≠ k → t.chain j = s.chain j) ∧
      (∀ p begun, seen = .whole p → 1 ≤ p.typ → p.typ ≤ 3 → p.seq = s.get (CH_SEQ_RX_EXPECT (kDie k) (kIdx k)) → (s.chain k).overdrawn p = true →
        s.get (GWL_CH_STATUS_RT_BKT (kDie k) (kIdx k)) + 1 ≤ s.get (GWL_BUCKET_CFG_RT_THRESH (kDie k)) →
        ∃ t : State, exec (.packetReceived k start x begun) s = .next t ∧ t.chState k = csTRAIN ∧ t.get (GWL_EVENTS_PROTO (kDie k)) = 1 ∧ t.inbox = s.inbox ∧
          t.get (CH_SEQ_RX_EXPECT (kDie k) (kIdx k)) = s.get (CH_SEQ_RX_EXPECT (kDie k) (kIdx k))) ∧
      (((∃ o, seen = .bad o) ∨ (∃ p, seen = .whole p ∧ (p.typ = 0 ∨ 4 ≤ p.typ)) ∨ (∃ p, seen = .whole p ∧ 1 ≤ p.typ ∧ p.typ ≤ 3 ∧ p.seq ≠ s.get (CH_SEQ_RX_EXPECT (kDie k) (kIdx k)) ∧
          32768 ≤ (s.get (CH_SEQ_RX_EXPECT (kDie k) (kIdx k)) + 65535 - p.seq) % 65536)) →
        s.get (GWL_CH_STATUS_CRC_BKT (kDie k) (kIdx k)) + 1 ≤ s.get (GWL_BUCKET_CFG_CRC_THRESH (kDie k)) →
        ∃ t : State, exec (.packetReceived k start x false) s = .next t ∧ t.inbox = s.inbox ∧ (t.chain k).naked = true ∧ t.chState k = csACTIVE ∧
          ((s.chain k).naked = false → (t.chain k).nakDue = true ∧ (t.chain k).lcbDue = true) ∧ ((s.chain k).naked = true → t.chain k = s.chain k) ∧
          t.get (CH_SEQ_RX_EXPECT (kDie k) (kIdx k)) = s.get (CH_SEQ_RX_EXPECT (kDie k) (kIdx k)) ∧
          t.get (GWL_CH_STATUS_CRC_BKT (kDie k) (kIdx k)) = s.get (GWL_CH_STATUS_CRC_BKT (kDie k) (kIdx k)) + 1) ∧
      (∀ p begun, seen = .whole p → 1 ≤ p.typ → p.typ ≤ 3 → p.seq ≠ s.get (CH_SEQ_RX_EXPECT (kDie k) (kIdx k)) →
        (s.get (CH_SEQ_RX_EXPECT (kDie k) (kIdx k)) + 65535 - p.seq) % 65536 < 32768 →
        ∃ t : State, exec (.packetReceived k start x begun) s = .next t ∧ t = { s with chains := t.chains, regs := (s.readStream k start x).2.regs } ∧ t.chain k = { s.chain k with lcbDue := true })) ∧
    (∀ (start : Nat) (x : RxLine), s.chState k = csACTIVE →
      (∀ l : Lcb, readLcb (s.readStream k start x).1 = some l → l.init = false →
       let n := (s.chain k).replay.length
       let m := (l.ackSeq + 1 + 65536 - (s.get (CH_SEQ_TX_NEXT (kDie k) (kIdx k)) + 65536 - n) % 65536) % 65536
       m ≤ n → l.nak = false →
        ∃ t : State, exec (.lcbReceived k start x) s = .next t ∧ (t.chain k).replay = (s.chain k).replay.drop m ∧ (t.chain k).holdAwake = l.holdAwake ∧
          (t.chain k).limit = ((s.chain k).limit.set (2 * l.pair) (l.creditLo % 2 ^ 24)).set (2 * l.pair + 1) (l.creditHi % 2 ^ 24) ∧
          t.get (CH_SEQ_TX_ACKED (kDie k) (kIdx k)) = l.ackSeq % 2 ^ 16 ∧ t.chState k = csACTIVE) ∧
      (readLcb (s.readStream k start x).1 = none → exec (.lcbReceived k start x) s = .next (s.readStream k start x).2)) ∧
    (s.txAwake k = true → s.chState k = csACTIVE → s.pkf.transit = [] → (∀ j, (s.chain j).rx = []) →
      ((s.chain k).lcbDue = true →
        ∃ t : State, exec (.transmitChoice k) s = .next t ∧ .lcb k (s.lcbNow k (s.chain k).pairNext) ∈ t.out ∧ (t.chain k).pairNext = 1 - (s.chain k).pairNext ∧
          (t.chain k).lcbDue = false ∧ (t.chain k).nakDue = false) ∧
      (s.lcbChanged k = true →
        ∃ t : State, exec (.lcbSendTimer k) s = .next t ∧ .lcb k (s.lcbNow k (s.chain k).pairNext) ∈ t.out ∧ (t.chain k).pairNext = 1 - (s.chain k).pairNext ∧
          t.now = max s.now ((s.chain k).lcbAt + min 1 (s.get (GWL_TIMERS_LC_REFRESH_US (kDie k))) * tUs)) ∧
      (∀ (p : Pkt) (r : List Pkt), (s.chain k).lcbDue = false → (s.chain k).resend = p :: r →
        ∃ t : State, exec (.transmitChoice k) s = .next t ∧ (t.chain k).resend = r ∧ (t.chain k).replay = (s.chain k).replay ∧ ∃ gs, t.out = .line k gs :: .packet k p :: s.out ∧
          ((s.chain k).pos + (packetChars p).length ≤ (s.chain k).aosNext →
            gs.map Prod.fst = (List.range (packetChars p).length).map fun i => ((s.chain k).pos + i) % 4)) ∧
      (∀ (p : Pkt) (v : Nat), (s.chain k).lcbDue = false → (s.chain k).resend = [] → (s.chain k).canSend v = true → ((s.chain k).vc v).head? = some p →
        v = (if (s.chain k).canSend 1 then 1 else if (s.chain k).canSend 2 then 2 else
          ((s.chain k).roundRobin (s.get (GWL_CH_CFG_W_VC0 (kDie k) (kIdx k))) (s.get (GWL_CH_CFG_W_VC3 (kDie k) (kIdx k)))).1) →
        ∃ t : State, exec (.transmitChoice k) s = .next t ∧ (t.chain k).vc v = ((s.chain k).vc v).tail ∧
          (t.chain k).replay = (s.chain k).replay ++ [{ p with seq := s.get (CH_SEQ_TX_NEXT (kDie k) (kIdx k)) }] ∧
          (∃ gs, t.out = .line k gs :: .packet k { p with seq := s.get (CH_SEQ_TX_NEXT (kDie k) (kIdx k)) } :: s.out) ∧
          t.get (CH_SEQ_TX_NEXT (kDie k) (kIdx k)) = (s.get (CH_SEQ_TX_NEXT (kDie k) (kIdx k)) + 1) % 65536)) ∧
    (s.chState k = csACTIVE →
      ((s.chain k).replay ≠ [] → s.get (GWL_CH_STATUS_REPLAYS (kDie k) (kIdx k)) < s.get (GWL_TIMERS_REPLAY_NUM (kDie k)) →
        ∃ t : State, exec (.replayTimeout k) s = .next t ∧ (t.chain k).resend = (s.chain k).replay ∧ (t.chain k).replay = (s.chain k).replay ∧ t.chState k = csACTIVE ∧
          t.get (GWL_CH_STATUS_REPLAYS (kDie k) (kIdx k)) = s.get (GWL_CH_STATUS_REPLAYS (kDie k) (kIdx k)) + 1) ∧
      ((s.chain k).replay ≠ [] → s.get (GWL_TIMERS_REPLAY_NUM (kDie k)) ≤ s.get (GWL_CH_STATUS_REPLAYS (kDie k) (kIdx k)) →
        s.get (GWL_CH_STATUS_RT_BKT (kDie k) (kIdx k)) + 1 ≤ s.get (GWL_BUCKET_CFG_RT_THRESH (kDie k)) →
        ∃ t : State, exec (.replayTimeout k) s = .next t ∧ t.chState k = csTRAIN ∧ (t.chain k).replay = (s.chain k).replay) ∧
      (∀ v, (s.chain k).stalled v = true →
        ∃ t : State, exec (.creditTimeout k v) s = .next t ∧ (t.chain k).creditReq = true ∧ (t.chain k).lcbDue = true ∧ t.get (GWL_EVENTS_CREDIT_STALL (kDie k)) = 1) ∧
      (s.get (GWL_CH_STATUS_TX_SLEEP (kDie k) (kIdx k)) = 0 →
        (s.get (GWL_CH_CFG_SLEEP_TX (kDie k) (kIdx k)) = 1 ∨ s.get (GWL_CH_CFG_SLEEP_TX (kDie k) (kIdx k)) = 2) →
        (s.chain k).waiting = false → (s.chain k).replay = [] → (s.chain k).holdAwake = false →
        ∃ t : State, exec (.sleepIdle k) s = .next t ∧ t.get (GWL_CH_STATUS_TX_SLEEP (kDie k) (kIdx k)) = s.get (GWL_CH_CFG_SLEEP_TX (kDie k) (kIdx k)) ∧
          .sleep k (s.get (GWL_CH_CFG_SLEEP_TX (kDie k) (kIdx k))) ∈ t.out ∧ (t.chain k).sleptAt = t.now ∧
          t.now = max s.now ((s.chain k).actAt + s.get (GWL_CH_CFG_SLEEP_IDLE_US (kDie k) (kIdx k)) * tUs)) ∧
      (∀ lv, (lv = 1 ∨ lv = 2) →
        ∃ t : State, exec (.sleepReceived k lv) s = .next t ∧ t.get (GWL_CH_STATUS_RX_SLEEP (kDie k) (kIdx k)) = lv ∧ t.chains = s.chains ∧
          (s.refState (4 + k) ≠ rfOFF → t.refState (4 + k) = rfINVALID)) ∧
      (∀ ns, s.get (GWL_CH_STATUS_TX_SLEEP (kDie k) (kIdx k)) ≠ 0 → ((s.chain k).waiting = true ∨ (s.chain k).holdAwake = true) →
        ∃ t : State, exec (.directionWake k ns) s = .next t ∧ t.get (GWL_CH_STATUS_TX_SLEEP (kDie k) (kIdx k)) = 0 ∧ .aos k (s.chain k).mc ∈ t.out ∧ .wake k ∈ t.out ∧
          t.now = s.now + min ns (s.wakeBound k) * 65536)) ∧
    (∀ (hop toDie : Nat) (x : PkfPkt), s.pkf.transit = [x] → (∀ j, (s.chain j).rx = []) → s.nextHop x = hop → x.dest = ringPos toDie → mMUSTER ≤ s.mode →
      let pos := if x.up then (x.pos + 1) % s.ringLen else (x.pos + s.ringLen - 1) % s.ringLen
      (pos = x.dest → x.egress = none → unitTakes x.pkt = true →
        ∃ t : State, exec (.pkfPacket hop x.pkt toDie true) s = .next t ∧
          t.inbox = (if s.inboxRoom (dieAt x.dest) x.pkt.vc then s.inbox ++ [(dieAt x.dest, x.pkt)] else s.inbox) ∧
          t.pkf.transit = (if s.inboxRoom (dieAt x.dest) x.pkt.vc then [] else [{ x with pos := pos }])) ∧
      (pos ≠ x.dest →
        ∃ t : State, exec (.pkfPacket hop x.pkt toDie true) s = .next t ∧ t.inbox = s.inbox ∧ t.pkf.transit = [{ x with pos := pos }]) ∧
      (Store.get (fun _ => 0) s.pkf.bkt hop < 1000 →
        ∃ t : State, exec (.pkfPacket hop x.pkt toDie false) s = .next t ∧ t = { s with pkf := t.pkf, timers := t.timers } ∧ t.pkf.transit = s.pkf.transit ∧
          Store.get (fun _ => 0) t.pkf.bkt hop = Store.get (fun _ => 0) s.pkf.bkt hop + 1))

/-- Reads, writes, unit writes, refresh, scrubbing and the journal port. A clean read changes no data. A read with one code symbol in error that the decoder locates leaves the stored data right and counts against the device. An uncorrectable read is reported. A write of eight words stores them in its burst, changes nothing else in DRAM and waits to issue. A unit write is taken whole when every controller has room, else not at all. A refresh is issued, or under PANIC postponed up to the limit. With a device erased a read of right words changes nothing and counts nothing. A scrub pass, one to each period of SCRUB_H, counts its corrections. The journal port drains up to eight words in order. (02_span_word.md, R54; 02_span_word.md, R56; 15_memory_fabric.md, R414; 15_memory_fabric.md, R415; 15_memory_fabric.md, R417; 15_memory_fabric.md, R419; 15_memory_fabric.md, R420; 20_faults.md, R546; 20_faults.md, R537) -/
def Obligations.MemoryIsReadAndWritten : Prop :=
  ∀ (s : State) (d burst : Nat),
    (s.chanReady d (burstChan burst) = true → burst < s.dieBursts d →
      (∀ store, s.get (erasedF d (burstChan burst) (burstSub burst)) = 15 → decodeBurst (readSyndromes (s.rdMems d (8 * burst) 8) []) = .clean →
        ∃ t : State, exec (.dramRead d burst store []) s = .next t ∧ t.dram = s.dram ∧ (t.drc d).queue = (s.drc d).queue.filter (· ≠ burst)) ∧
      (∀ store, s.get (erasedF d (burstChan burst) (burstSub burst)) ≠ 15 →
        decodeErased (readSyndromes (s.rdMems d (8 * burst) 8) []) (s.get (erasedF d (burstChan burst) (burstSub burst))) = .fix [] →
        ∃ t : State, exec (.dramRead d burst store []) s = .next t ∧ t.dram = s.dram ∧ t.get (DRC_EVENTS_CORR d) = s.get (DRC_EVENTS_CORR d)) ∧
      (∀ store p v, p < 40 → 0 < v → v < 2 ^ 16 → s.get (erasedF d (burstChan burst) (burstSub burst)) = 15 →
        decodeBurst (readSyndromes (s.rdMems d (8 * burst) 8) [(p, v)]) = .fix [(p, v)] →
        s.get (UNIT_BKT_BKT_A d (36 + 20 * burstChan burst + 10 * burstSub burst + symDevice p)) + 1 ≤ s.get (FLT_LIMITS2_DRAM_THRESH d) →
        ∃ t : State, exec (.dramRead d burst store [(p, v)]) s = .next t ∧ t.dram = s.dram ∧ t.get (DRC_EVENTS_CORR d) = 1 ∧
          t.get (DRC_CH_ERR_CORR d (burstChan burst) (burstSub burst) (symDevice p)) =
            min (2 ^ 24 - 1) (s.get (DRC_CH_ERR_CORR d (burstChan burst) (burstSub burst) (symDevice p)) + 1)) ∧
      (∀ (store : Nat) (errs : List (Nat × Nat)), (∀ e ∈ errs, e.1 < 40 ∧ e.2 % 2 ^ 16 ≠ 0) → s.get (erasedF d (burstChan burst) (burstSub burst)) = 15 →
        decodeBurst (readSyndromes (s.rdMems d (8 * burst) 8) errs) = .uncorr →
        ∃ t : State, exec (.dramRead d burst store errs) s = .next t ∧ t.get (DRC_EVENTS_UNCORR d) = 1) ∧
      (∀ ws : List Word, ws.length = 8 →
        ∃ t : State, exec (.dramWrite d burst ws) s = .next t ∧ (∀ i, i < 8 → t.rdMem d (8 * burst + i) = ws.getD i 0) ∧ (t.drc d).queue = (s.drc d).queue ++ [burst] ∧
          ∀ key, key < dramKey d (8 * burst) ∨ dramKey d (8 * burst) + 8 ≤ key → Store.get dramInit t.dram key = Store.get dramInit s.dram key)) ∧
    (∀ (room : Nat) (bursts : List (Nat × List Word)), (bursts.length = 2 ∨ bursts.length = 3) →
      ((bursts.all fun b => s.chanReady d (burstChan b.1) && bit room (burstChan b.1) && decide (b.1 < s.dieBursts d)) = true →
        ∃ t : State, exec (.unitWrite d room bursts) s = .next t ∧ (t.drc d).queue = (s.drc d).queue ++ bursts.map Prod.fst ∧
          ((bursts.map Prod.fst).Nodup → ∀ b ∈ bursts, b.2.length = 8 → ∀ i, i < 8 → t.rdMem d (8 * b.1 + i) = b.2.getD i 0)) ∧
      ((bursts.any fun b => !bit room (burstChan b.1)) = true → ∃ t : State, exec (.unitWrite d room bursts) s = .next t ∧ t = s)) ∧
    (∀ c u, s.chanReady d c = true → u < 2 →
      ((s.acu d).panic = true → Store.get (fun _ => 0) (s.drc d).postponed (2 * c + u) < s.get (DRC_QOS_REF_POST_MAX d) →
        ∃ t : State, exec (.refreshInterval d c u) s = .next t ∧ Store.get (fun _ => 0) (t.drc d).postponed (2 * c + u) = Store.get (fun _ => 0) (s.drc d).postponed (2 * c + u) + 1 ∧
          (t.drc d).refreshes = (s.drc d).refreshes) ∧
      ((s.acu d).panic = false ∨ s.get (DRC_QOS_REF_POST_MAX d) ≤ Store.get (fun _ => 0) (s.drc d).postponed (2 * c + u) →
        ∃ t : State, exec (.refreshInterval d c u) s = .next t ∧ (t.drc d).refreshes = (s.drc d).refreshes + 1 ∧ (t.drc d).postponed = (s.drc d).postponed ∧ t.regs = s.regs) ∧
      (∀ n k, n ≤ 9 → 0 < k → s.get (erasedF d c u) = 15 → s.get (UNIT_BKT_BKT_A d (36 + 20 * c + 10 * u + n)) + k ≤ s.get (FLT_LIMITS2_DRAM_THRESH d) →
        ∃ t : State, exec (.scrubPass d c [(u, n, k)]) s = .next t ∧ t.dram = s.dram ∧ t.now = max s.now (Store.get (fun _ => 0) (s.drc d).scrubAt c) ∧
          Store.get (fun _ => 0) (t.drc d).scrubAt c = t.now + s.get (DRC_MAINT_SCRUB_H d) * 3600 * tSec ∧
          t.get (DRC_CH_ERR_SCRUB_CORR d c u n) = min (2 ^ 24 - 1) (s.get (DRC_CH_ERR_SCRUB_CORR d c u n) + k) ∧
          t.get (DRC_CH_ERR_CORR d c u n) = s.get (DRC_CH_ERR_CORR d c u n))) ∧
    (∃ t : State, exec (.journalWrite d) s = .next t ∧ (t.acu d).jbuf = (s.acu d).jbuf.drop 8 ∧
      (∀ key, (∀ e ∈ (s.acu d).jbuf.take 8, dramKey d e.1 ≠ key) → Store.get dramInit t.dram key = Store.get dramInit s.dram key) ∧
      ∀ e ∈ (s.acu d).jbuf.take 8, (∀ x ∈ (s.acu d).jbuf.take 8, x.1 = e.1 → x = e) → t.rdMem d e.1 = e.2)

/-- Training and retraining of DRAM channels, grants of the fabric, and the DMA engines. A channel with a matching record is ready after fast retraining, one without makes a new record by full training; a rejected DIMM fails its channel, and a third failure of full training loses the die or leaves its work to its partner. A background step, RETRAIN_MIN after its last, that moves a setting updates the record and reports it. A target without requests grants its parked master; of two requests it grants the higher priority, or the lower master index at a tie or in the fixed order, and lets at most 8 beats run while another waits unless the request is a unit write. A parity error in PRIO sets the fixed order. A doorbell starts the descriptor at HEAD of an idle channel when it is owned and nothing else is ready; a descriptor that is not owned leaves the channel idle. Every completion ends with the channel as the one served last. One with an address error writes code ADDR_ERR, clears OWN and moves HEAD on; a copy and a fill in DRAM put every word in place before; a comparison changes no data and gives OK or the first mismatch. A paced burst moves eight words and OFS; a withdrawn one delivers zeros after the withdrawal and records it. A wait beyond PACE_TO_US ends TIMEOUT. (15_memory_fabric.md, R408; 15_memory_fabric.md, R411; 15_memory_fabric.md, R412; 15_memory_fabric.md, R413; 15_memory_fabric.md, R422; 15_memory_fabric.md, R423; 15_memory_fabric.md, R424; 15_memory_fabric.md, R428; 15_memory_fabric.md, R429; 15_memory_fabric.md, R432; 15_memory_fabric.md, R433) -/
def Obligations.MemoryTrainsAndTheFabricArbitrates : Prop :=
  (∀ (s : State) (d : Nat),
    (∀ e : DimmEnv, e.die = d → s.present d = true → e.chan < 2 → (s.mode = mMUSTER ∨ (s.mode = mRETAIN ∧ s.pwr.porstLow = false)) → s.get (DRC_CH_CFG_EN d e.chan) = 1 →
      s.get (DRC_CH_STATUS_STATE d e.chan) ≠ 2 → s.get (DRC_CH_STATUS_STATE d e.chan) ≠ 5 →
      (e.spdOk = false → ∃ t : State, exec (.dramTraining e) s = .next t ∧ t.get (DRC_CH_STATUS_STATE d e.chan) = 5 ∧ t.get (DRC_EVENTS_TRAIN_FAIL d) = 1 ∧ t.training = s.training) ∧
      (e.spdOk = true → Store.get (fun _ => 0) s.training (2 * d + e.chan) = e.serial + 1 → e.fastOk = true →
        ∃ t : State, exec (.dramTraining e) s = .next t ∧ t.get (DRC_CH_STATUS_STATE d e.chan) = 2 ∧ t.get (DRC_CH_STATUS_FULL d e.chan) = 0 ∧ t.training = s.training ∧ t.dram = s.dram) ∧
      (e.spdOk = true → (Store.get (fun _ => 0) s.training (2 * d + e.chan) ≠ e.serial + 1 ∨ e.fastOk = false) → e.fullOk = true →
        ∃ t : State, exec (.dramTraining e) s = .next t ∧ t.get (DRC_CH_STATUS_STATE d e.chan) = 2 ∧ t.get (DRC_CH_STATUS_FULL d e.chan) = 1 ∧
          Store.get (fun _ => 0) t.training (2 * d + e.chan) = e.serial + 1) ∧
      (e.spdOk = true → (Store.get (fun _ => 0) s.training (2 * d + e.chan) ≠ e.serial + 1 ∨ e.fastOk = false) → e.fullOk = false →
        ∃ t : State, exec (.dramTraining e) s = .next t ∧ (t.flt.lost.contains d || t.flt.hosted.contains d) = true)) ∧
    (∀ c u, s.chanReady d c = true → u < 2 → s.accepts = true → (s.acu d).panic = false →
      ∃ t : State, exec (.retrainStep d c u false true) s = .next t ∧ Store.get (fun _ => 0) (t.drc d).retrainAt (2 * c + u) = t.now ∧
        t.now = max s.now (Store.get (fun _ => 0) (s.drc d).retrainAt (2 * c + u) + s.get (DRC_MAINT_RETRAIN_MIN d) * 60 * tSec) ∧ t.get (DRC_EVENTS_RETRAIN d) = 1 ∧
        Store.get (fun _ => 0) t.training (2 * d + c) = Store.get (fun _ => 0) (s.drc d).serial c + 1) ∧
    (∀ tg cyc, s.present d = true → tg < 12 → (s.mode = mMUSTER ∨ s.runs = true) → s.fab d tg = [] →
      (∃ t : State, exec (.fabricRequest d tg cyc []) s = .next t ∧ t.get (TGT_GRANT d tg) = s.get (TGT_PARK d tg) ∧ t.get (TGT_WAITING d tg) = 0 ∧ t.fab d tg = []) ∧
      (∀ m1 b1 m2 b2, ∀ u1 u2 : Bool, m1 < 26 → m2 < 26 → m1 ≠ m2 → 1 ≤ b1 → b1 ≤ 64 → 1 ≤ b2 → b2 ≤ 64 → 0 < s.get (FAB_CFG_AGE_LIMIT d) →
        (if s.fabFixed d then m1 < m2 else bitsOf (s.get (PRIO_P d m2)) (4 * tg) 4 < bitsOf (s.get (PRIO_P d m1)) (4 * tg) 4 ∨
          (bitsOf (s.get (PRIO_P d m2)) (4 * tg) 4 = bitsOf (s.get (PRIO_P d m1)) (4 * tg) 4 ∧ m1 < m2)) →
        ∃ t : State, exec (.fabricRequest d tg cyc [(m1, b1, u1), (m2, b2, u2)]) s = .next t ∧ t.get (TGT_GRANT d tg) = m1 ∧
          t.fab d tg = ⟨m2, b2, u2, 0, false⟩ :: (if 8 < b1 ∧ u1 = false then [⟨m1, b1 - 8, u1, 0, true⟩] else []))) ∧
    (∀ m tg, s.present d = true → m < 26 → tg < 12 → (s.mode = mMUSTER ∨ s.runs = true) →
      ∃ t : State, exec (.prioParityError d m tg) s = .next t ∧ t.get (FAB_STATUS_FALLBACK d) = 1 ∧ t.fabFixed d = true ∧ t.get (FAB_STATUS_PAR_ENTRY d) = 12 * m + tg ∧
        t.get (FAB_EVENTS_PARITY d) = 1)) ∧
  (∀ (s : State) (d e c : Nat), s.dmaOn (dmaKey d e) = true → c < 16 →
    (∀ bad : Bool, s.get (dmaEN (dmaKey d e) c) = 1 → s.get (dmaSTATE (dmaKey d e) c) = 0 → s.get (dmaRUN (dmaKey d e)) = 31 → bad = false →
      (∀ x, x < 16 → s.get (dmaSTATE (dmaKey d e) x) ≠ 1) →
      ((s.desc (dmaKey d e) c).own = true →
        ∃ t : State, exec (.dmaDoorbell d e c bad) s = .next t ∧ t.get (dmaRUN (dmaKey d e)) = c ∧ t.get (dmaOFS (dmaKey d e) c) = 0 ∧ t.dram = s.dram ∧ t.scratch = s.scratch ∧
          t.get (dmaSTATE (dmaKey d e) c) = (if (s.desc (dmaKey d e) c).pace ∧ s.addrErr (dmaKey d e) c (s.desc (dmaKey d e) c) = false then 3 else 2)) ∧
      ((s.desc (dmaKey d e) c).own = false →
        ∃ t : State, exec (.dmaDoorbell d e c bad) s = .next t ∧ t = { s with regs := t.regs } ∧ t.get (dmaSTATE (dmaKey d e) c) = 0 ∧ t.get (dmaRUN (dmaKey d e)) = 31)) ∧
    (s.get (dmaRUN (dmaKey d e)) = c → s.get (dmaSTATE (dmaKey d e) c) = 2 →
      (∀ (mem : List HRead) (bad : Option Nat) (he nb : Bool), ∃ t : State, exec (.descriptorComplete d e mem bad he nb) s = .next t ∧ (t.dma (dmaKey d e)).last = c) ∧
      (∀ mem : List HRead, s.addrErr (dmaKey d e) c (s.desc (dmaKey d e) c) = true →
        ∃ t : State, exec (.descriptorComplete d e mem none false false) s = .next t ∧ (t.ringWord (dmaKey d e) c (s.descAddr (dmaKey d e) c 3)).bits 0 4 = cdADDR ∧
          (t.ringWord (dmaKey d e) c (s.descAddr (dmaKey d e) c 0)).bits 0 1 = 0 ∧
          t.get (dmaHEAD (dmaKey d e) c) = (s.get (dmaHEAD (dmaKey d e) c) + 1) % max 1 (s.get (dmaF (dmaKey d e) fun d e => DMA_CH_CFG_RING_LEN d e c))) ∧
      (d < 8 → s.get (dmaF (dmaKey d e) fun d e => DMA_CH_CFG_RING_SPACE d e c) = 1 → s.addrErr (dmaKey d e) c (s.desc (dmaKey d e) c) = false →
        spaceOf (s.desc (dmaKey d e) c).dst = 0 → ∀ mem : List HRead,
        ((s.desc (dmaKey d e) c).op = 1 → ∃ t : State, exec (.descriptorComplete d e mem none false false) s = .next t ∧
          (t.ringWord (dmaKey d e) c (s.descAddr (dmaKey d e) c 3)).bits 0 4 = cdOK ∧
          ∀ i, i < (s.desc (dmaKey d e) c).len → t.rdMem d (wordPlace (s.desc (dmaKey d e) c).dst + i) = (s.desc (dmaKey d e) c).fill) ∧
        (spaceOf (s.desc (dmaKey d e) c).src = 0 → (s.desc (dmaKey d e) c).op = 0 → ∃ t : State, exec (.descriptorComplete d e mem none false false) s = .next t ∧
          (t.ringWord (dmaKey d e) c (s.descAddr (dmaKey d e) c 3)).bits 0 4 = cdOK ∧
          ∀ i, i < (s.desc (dmaKey d e) c).len → t.rdMem d (wordPlace (s.desc (dmaKey d e) c).dst + i) = s.rdMem d (wordPlace (s.desc (dmaKey d e) c).src + i)) ∧
        (spaceOf (s.desc (dmaKey d e) c).src = 0 → (s.desc (dmaKey d e) c).op = 2 → ∃ t : State, exec (.descriptorComplete d e mem none false false) s = .next t ∧ t.dram = s.dram ∧
          ((∀ i, i < (s.desc (dmaKey d e) c).len → s.rdMem d (wordPlace (s.desc (dmaKey d e) c).src + i) = s.rdMem d (wordPlace (s.desc (dmaKey d e) c).dst + i)) →
            (t.ringWord (dmaKey d e) c (s.descAddr (dmaKey d e) c 3)).bits 0 4 = cdOK) ∧
          (∀ j, j < (s.desc (dmaKey d e) c).len → s.rdMem d (wordPlace (s.desc (dmaKey d e) c).src + j) ≠ s.rdMem d (wordPlace (s.desc (dmaKey d e) c).dst + j) →
            (∀ i, i < j → s.rdMem d (wordPlace (s.desc (dmaKey d e) c).src + i) = s.rdMem d (wordPlace (s.desc (dmaKey d e) c).dst + i)) →
            (t.ringWord (dmaKey d e) c (s.descAddr (dmaKey d e) c 3)).bits 0 4 = cdMISMATCH ∧
              (t.ringWord (dmaKey d e) c (s.descAddr (dmaKey d e) c 3)).bits 4 32 = j % 2 ^ 32)))) ∧
    (s.get (dmaRUN (dmaKey d e)) = c → s.get (dmaSTATE (dmaKey d e) c) = 3 → s.trngDry (dmaKey d e) c = false →
      (∀ data : List Word, (∃ t : State, exec (.pacedRequest d e data) s = .next t ∧ (t.dma (dmaKey d e)).waitAt = s.now) ∧
        (d < 8 → spaceOf (s.desc (dmaKey d e) c).src = 5 → spaceOf (s.desc (dmaKey d e) c).dst = 0 → s.get (dmaOFS (dmaKey d e) c) + 8 < (s.desc (dmaKey d e) c).len →
          ∃ t : State, exec (.pacedRequest d e data) s = .next t ∧ t.get (dmaOFS (dmaKey d e) c) = (s.get (dmaOFS (dmaKey d e) c) + 8) % 2 ^ 32 ∧
            t.get (dmaSTATE (dmaKey d e) c) = 3 ∧
            ∀ i, i < 8 → t.rdMem d (wordPlace (s.desc (dmaKey d e) c).dst + (s.get (dmaOFS (dmaKey d e) c) + i)) = data.getD i 0)) ∧
      (∀ (n : Nat) (data : List Word), 1 ≤ n → n ≤ 7 → (∃ t : State, exec (.pacedWithdraw d e n data) s = .next t ∧ (t.dma (dmaKey d e)).waitAt = s.now) ∧
        (d < 8 → spaceOf (s.desc (dmaKey d e) c).src = 5 → spaceOf (s.desc (dmaKey d e) c).dst = 0 → s.get (dmaOFS (dmaKey d e) c) + 8 < (s.desc (dmaKey d e) c).len →
          ∃ t : State, exec (.pacedWithdraw d e n data) s = .next t ∧ t.get (dmaWDRAWN (dmaKey d e) c) = 1 ∧ t.get (dmaWDBEATS (dmaKey d e) c) = n ∧
            (t.dma (dmaKey d e)).wdBursts = (s.dma (dmaKey d e)).wdBursts + 1 ∧
            ∀ i, i < 8 → t.rdMem d (wordPlace (s.desc (dmaKey d e) c).dst + (s.get (dmaOFS (dmaKey d e) c) + i)) = if i < 8 - n then data.getD i 0 else 0)) ∧
      (∃ t : State, exec (.paceTimeout d e) s = .next t ∧ (t.dma (dmaKey d e)).last = c ∧
        t.now = max s.now ((s.dma (dmaKey d e)).waitAt + s.get (dmaF (dmaKey d e) fun d _ => DMA_CFG_PACE_TO_US d) * tUs) ∧
        (t.ringWord (dmaKey d e) c (s.descAddr (dmaKey d e) c 3)).bits 0 4 = cdTIMEOUT ∧ t.get (dmaEvent (dmaKey d e) DMA_EVENTS_TIMEOUT) = 1)))

/-- Telemetry, snapshots and wraps. Every TEL_PERIOD_S a TEL product of four words and two per die enters TEL_RING when that ring takes the type, or is counted as skipped, and the rails' powers are those read. A complete snapshot enters CTR_RING with one word per read. A counter that has wrapped interrupts the core it names when that core has counter access. A counter of a cycle event gains the cycles that have passed, and sets OVF when it wraps. (22_counters.md, R575; 22_counters.md, R576; 22_counters.md, R580; 22_counters.md, R582; 22_counters.md, R584; 13_products.md, R364) -/
def Obligations.CountersAndTelemetryAreKept : Prop :=
  ∀ s : State,
    (∀ (temps : List (Nat × List Int)) (ao total : Nat) (watts : List Nat), s.get TEL_CFG_TEL_PERIOD_S ≠ 0 → s.runs = true → s.rg.failover = false →
      ∃ t : State, exec (.telemetryTimer temps ao total watts) s = .next t ∧ t.now = max s.now (s.telAt + s.get TEL_CFG_TEL_PERIOD_S * tSec) ∧ t.telAt = t.now ∧
        (∀ x, x < 8 → t.get (RAIL_POWER_W x) = watts.getD x 0 % 2 ^ 12) ∧
        (s.ringTakes (s.get PKC_RINGS_TEL_RING) 5 = true →
          s.place (s.get PKC_RINGS_TEL_RING) (8 + 2 * s.dies.length) ≠ .none → (s.ring (s.get PKC_RINGS_TEL_RING)).full = false →
          ∃ (res : Bool) (pos : Nat), (t.ring (s.get PKC_RINGS_TEL_RING)).prods = (s.ring (s.get PKC_RINGS_TEL_RING)).prods ++
            [⟨s.get (rcNEXT (s.get PKC_RINGS_TEL_RING)), 5, 8 + 2 * s.dies.length, res, pos⟩]) ∧
        (s.ringTakes (s.get PKC_RINGS_TEL_RING) 5 = false →
          t.get PKC_DROP_TEL_SKIPPED = min (2 ^ 24 - 1) (s.get PKC_DROP_TEL_SKIPPED + 1) ∧ t.rings = s.rings)) ∧
    (∀ (x : Snap) (rest : List Snap), s.snaps = x :: rest →
      ∃ t : State, exec .snapshotComplete s = .next t ∧ t.snaps = rest ∧
        (s.ringTakes (s.get PKC_RINGS_CTR_RING) 9 = true →
          s.place (s.get PKC_RINGS_CTR_RING) (8 + (x.got.flatMap Prod.snd).length) ≠ .none → (s.ring (s.get PKC_RINGS_CTR_RING)).full = false →
          ∃ (res : Bool) (pos : Nat), (t.ring (s.get PKC_RINGS_CTR_RING)).prods = (s.ring (s.get PKC_RINGS_CTR_RING)).prods ++
            [⟨s.get (rcNEXT (s.get PKC_RINGS_CTR_RING)), 9, 8 + (x.got.flatMap Prod.snd).length, res, pos⟩])) ∧
    (∀ d k n, s.present d = true → k < 64 → s.mode ≠ mDORMANT → s.mode ≠ mRETAIN →
      (cycleEvent (s.get (PMON_SEL_EVENT d k)) = false → s.wraps.contains (d, k) = true → s.get (PMON_SEL_IRQ_CORE d k) < 18 →
        s.get (CORE_CFG_CTR_ACC d (s.get (PMON_SEL_IRQ_CORE d k))) = 1 →
        ∃ t : State, exec (.counterWrap d k n) s = .next t ∧ bit (t.core d (s.get (PMON_SEL_IRQ_CORE d k))).pend 5 = true ∧ t.wraps.contains (d, k) = false ∧ t.regs = s.regs) ∧
      (cycleEvent (s.get (PMON_SEL_EVENT d k)) = true →
        ∃ t : State, exec (.counterWrap d k n) s = .next t ∧ t.get (PMON_CTR_VALUE d k) = (s.get (PMON_CTR_VALUE d k) + n) % 2 ^ 48 ∧
          (2 ^ 48 ≤ s.get (PMON_CTR_VALUE d k) + n → t.get (PMON_CTR_OVF d k) = 1)))

/-- The calendar, programme switches, checkpoints, the governor and the sequencer. The latest due calendar entry becomes a pending PROG_START of rank 16, once. A switch waits while consignments are undecided; drained, it leaves the programme running; to the stopped programme it resumes it in place; with a store that fails its hash it is refused. At a multiple of 250 ms a checkpoint moves each die's replay point up to the folio after the smallest committed one, keeps what the registrar needs, and lets registrar A return when it passed. The governor lowers every island by one point at most to OP3, and 10 s later again, or restores one point when it is cool, a die without a trusted sensor apart. The sequencer lifts the voltage before a raise and lowers the frequency first otherwise, 10 mV in a microsecond; a raise under the governor waits; a finished change is in force. (17_image_startup.md, R483; 17_image_startup.md, R484; 09_corner_turn.md, R244; 19_power.md, R523; 19_power.md, R524; 19_power.md, R525; 19_power.md, R528; 19_power.md, R534; 01_architecture.md, R27) -/
def Obligations.ProgrammesAndPointsChange : Prop :=
  ∀ s : State,
    (∀ n g, s.accepts = true → s.calLatest n g = some g → (s.nvm.calDone.find? fun e => e.1 == n) = none →
      ∃ t : State, exec (.calendarEntry n g) s = .next t ∧ t.nvm.calDone.contains (n, g) = true ∧ t.regs = s.regs ∧
        t.rg.pend = (if s.calDue (max g (grainOf s.now)) = some (n, g) then
          s.rg.pend ++ [⟨⟨255, 0, 0x10, 0, max g (s.rg.gDone + 1), 0⟩, 16, s.rg.arrivals, [s.get (CAL1_PROG n)], []⟩] else s.rg.pend)) ∧
    (∀ (p : Nat) (bad : List Nat), s.nvm.switchTo = some p → s.accepts = true →
      (s.nvm.switching = false → s.nvm.suspended = true → p = s.get PROG_STATE_RUNNING →
        ∃ t : State, exec (.programmeSwitch bad) s = .next t ∧ t.nvm.progOn = true ∧ t.nvm.switchTo = none ∧ t.nvm.suspended = false) ∧
      (s.nvm.switching = false → s.nvm.suspended = false → s.storeFails p bad = [] → s.acc.cons ≠ [] →
        ∃ t : State, exec (.programmeSwitch bad) s = .next t ∧ t.nvm.switching = true ∧ t.nvm.progOn = false ∧ t.nvm.switchTo = some p) ∧
      (s.nvm.switching = false → s.nvm.suspended = false → s.storeFails p bad ≠ [] →
        ∃ t : State, exec (.programmeSwitch bad) s = .next t ∧ t.nvm.switching = false ∧ t.nvm.switchTo = none ∧ t.nvm.progOn = s.nvm.progOn) ∧
      (s.nvm.switching = true → s.drainedAll = true →
        ∃ t : State, exec (.programmeSwitch bad) s = .next t ∧ t.nvm.progOn = true ∧ t.nvm.switchTo = none ∧ t.nvm.switching = false ∧ t.nvm.started.contains p = true ∧
          t.get PROG_STATE_RUNNING = p % 16)) ∧
    (s.runs = true → s.rg.failover = false →
      ∃ t : State, exec .checkpoint s = .next t ∧ (∀ d, s.present d = true → (t.acu d).replay = max (s.acu d).replay (s.replayBound d)) ∧
        (t.nvm.ckpt.map Ckpt.gDone) = some s.rg.gDone ∧ t.now % (250 * tMs) = 0 ∧ s.now ≤ t.now ∧ t.rg.returning = false ∧ (s.rg.returning = true → t.get RG_STATUS_ACTIVE = 0)) ∧
    (∀ c : Nat, (s.runs = true ∨ s.mode = mMUSTER) →
      (s.get PWR_CFG_THROTTLE_C < c → s.pwr.throttle = 0 →
        ∃ t : State, exec (.thermalThrottle c) s = .next t ∧ t.pwr.throttle = 1 ∧ t.get PWR_MODE_THROTTLED = 1 ∧
          ∀ i, i ∈ s.islands → t.islOp i = (if s.islOp i < 3 then s.islOp i + 1 else s.islOp i)) ∧
      (s.get PWR_CFG_THROTTLE_C < c → s.pwr.throttle ≠ 0 →
        ∃ t : State, exec (.throttleTimer c) s = .next t ∧ t.pwr.throttle = min 3 (s.pwr.throttle + 1) ∧ t.now = max s.now (s.timer tkThrottle + 10 * tSec) ∧
          ∀ i, i ∈ s.islands → t.islOp i = (if s.islOp i < 3 then s.islOp i + 1 else s.islOp i)) ∧
      (c + s.get PWR_CFG_HYST_C < s.get PWR_CFG_THROTTLE_C → s.pwr.throttle ≠ 0 →
        ∃ t : State, exec (.throttleTimer c) s = .next t ∧ t.pwr.throttle = max (s.pwr.throttle - 1) (b2n (s.dies.any s.blindDie)) ∧ t.pwr.raises = [] ∧
          t.get PWR_MODE_THROTTLED = (if t.pwr.throttle = 0 then 0 else 1))) ∧
    (∀ (r : SeqReq) (rest : List SeqReq) (reorder : Bool), s.pwr.seqQ = r :: rest → r.isl < 256 → s.mode ≠ mDORMANT → s.mode ≠ mRETAIN →
      (s.get SEQ_STATUS_BUSY = 0 → (r.governor = true ∨ s.get (ISL_OP_USED r.isl) ≤ r.op ∨ s.pwr.throttle = 0) →
        ∃ t : State, exec (.sequencerRequest reorder) s = .next t ∧ t.get SEQ_STATUS_BUSY = 1 ∧ t.get SEQ_STATUS_ISLAND = r.isl ∧ t.pwr.seqQ = s.pwr.seqQ ∧
          t.get (ISL_V_NOW_MV r.isl) = (if s.get (ISL_V_NOW_MV r.isl) < r.mv then r.mv % 2 ^ 10 else s.get (ISL_V_NOW_MV r.isl)) ∧
          t.get (ISL_F_NOW_MHZ r.isl) = (if s.get (ISL_V_NOW_MV r.isl) < r.mv then s.get (ISL_F_NOW_MHZ r.isl) else r.mhz % 2 ^ 12) ∧
          t.now = s.now + (r.mv - s.get (ISL_V_NOW_MV r.isl)) * tUs / 10) ∧
      (s.get SEQ_STATUS_BUSY = 0 → r.governor = false → r.op < s.get (ISL_OP_USED r.isl) → s.pwr.throttle ≠ 0 →
        ∃ t : State, exec (.sequencerRequest reorder) s = .next t ∧ t.pwr.seqQ = rest ∧ t.pwr.raises = s.pwr.raises ++ [r] ∧ s.get SEQ_STATUS_BUSY = t.get SEQ_STATUS_BUSY) ∧
      (s.get SEQ_STATUS_BUSY = 1 →
        ∃ t : State, exec .sequencerDone s = .next t ∧ t.pwr.seqQ = rest ∧ t.get SEQ_STATUS_BUSY = 0 ∧ t.get (ISL_V_NOW_MV r.isl) = r.mv % 2 ^ 10 ∧
          t.get (ISL_F_NOW_MHZ r.isl) = r.mhz % 2 ^ 12 ∧ t.get (ISL_OP_USED r.isl) = r.op % 4))

/-- Failover, self-tests, buckets, lost units and dies, the TRNG and the debug lock. When the registrar in control fails, the other takes control and commands wait; without a good other the device is DORMANT. A self-test that passes is kept, and lets A return; one that fails gives the registrar up, and the third in a row deaccessions it. A leak period after the last a bucket loses 1 and nothing else changes; an empty one, or one with period 0, does not leak. A core or tile that has not returned is deaccessioned for good, its loan permanent. A failed die is lost, and with it the work of a partner that it ran, or it is hosted by its partner under die-pair journalling. A failed health test makes requests wait for a reseed; a good reseed lets them go on. At its end an unlock is over and JTAG locks. (20_faults.md, R537; 20_faults.md, R542; 20_faults.md, R543; 20_faults.md, R544; 01_architecture.md, R28; 18_security.md, R510; 18_security.md, R511) -/
def Obligations.RegistrarSecurityAndFaultsAct : Prop :=
  ∀ s : State,
    (∀ cause, mMUSTER ≤ s.mode →
      (s.isDead (regUnit (1 - s.get RG_STATUS_ACTIVE)) = false → s.rg.passed (1 - s.get RG_STATUS_ACTIVE) = true →
        s.get (regBkt (s.get RG_STATUS_ACTIVE)) + 1 ≤ s.get (FLT_LIMITS_GIVEUP_THRESH 0) →
        ∃ t : State, exec (.regFailover cause) s = .next t ∧ t.get RG_STATUS_ACTIVE = 1 - s.get RG_STATUS_ACTIVE ∧ t.rg.failover = true ∧ t.mode = s.mode ∧
          t.get (regState (s.get RG_STATUS_ACTIVE)) = 1 ∧ t.get REG_FAULT_FAILOVERS = min (2 ^ 16 - 1) (s.get REG_FAULT_FAILOVERS + 1) ∧
          t.get (regBkt (s.get RG_STATUS_ACTIVE)) = s.get (regBkt (s.get RG_STATUS_ACTIVE)) + 1) ∧
      (s.isDead (regUnit (1 - s.get RG_STATUS_ACTIVE)) = true ∨ s.rg.passed (1 - s.get RG_STATUS_ACTIVE) = false →
        ∃ t : State, exec (.regFailover cause) s = .next t ∧ t.mode = mDORMANT ∧ t.get PWR_MODE_DORMANT_CAUSE = 2)) ∧
    (mMUSTER ≤ s.mode → s.isDead (regUnit (1 - s.get RG_STATUS_ACTIVE)) = false →
      (∃ t : State, exec (.registrarSelfTest true) s = .next t ∧ t.rg.passed (1 - s.get RG_STATUS_ACTIVE) = true ∧ t.rg.fails (1 - s.get RG_STATUS_ACTIVE) = 0 ∧
        (s.get (regState (1 - s.get RG_STATUS_ACTIVE)) = 1 → t.now = max s.now (s.timer tkRegTest + 60 * tSec)) ∧
        (s.get RG_STATUS_ACTIVE = 1 → s.get REG_FAULT_A_STATE = 1 → t.rg.returning = true)) ∧
      (∃ t : State, exec (.registrarSelfTest false) s = .next t ∧ t.rg.passed (1 - s.get RG_STATUS_ACTIVE) = false ∧
        t.rg.fails (1 - s.get RG_STATUS_ACTIVE) = s.rg.fails (1 - s.get RG_STATUS_ACTIVE) + 1 ∧
        t.isDead (regUnit (1 - s.get RG_STATUS_ACTIVE)) = decide (3 ≤ s.rg.fails (1 - s.get RG_STATUS_ACTIVE) + 1))) ∧
    (∀ (u : UnitId) (b : Nat), mMUSTER ≤ s.mode → s.unitHere u = true →
      (s.bucketLevel u (bucketNo u b) = 0 ∨ s.leakPeriod u (bucketNo u b) = 0 → exec (.bucketLeak u b) s = .next s) ∧
      (∀ f : RF, u.kind ≠ 10 → bucketOf u (bucketNo u b) = some f → s.get f ≠ 0 → s.leakPeriod u (bucketNo u b) ≠ 0 →
        ∃ t : State, exec (.bucketLeak u b) s = .next t ∧ t.get f = s.get f - 1 ∧ (∀ a, a ≠ f.addr → t.rd a = s.rd a) ∧
          t = { s with regs := t.regs, timers := t.timers, now := max s.now (s.timer (bktKey u (bucketNo u b)) + s.leakPeriod u (bucketNo u b)) }) ∧
      (u.kind = 10 → Store.get (fun _ => 0) s.pkf.bkt u.idx ≠ 0 → ∃ t : State, exec (.bucketLeak u b) s = .next t ∧ t = { s with pkf := t.pkf, timers := t.timers, now := t.now } ∧
        Store.get (fun _ => 0) t.pkf.bkt u.idx = Store.get (fun _ => 0) s.pkf.bkt u.idx - 1)) ∧
    (∀ d n, s.present d = true →
      (n < 18 → s.get (UNIT_BKT_STATE d (17 + n)) = 1 →
        ∃ t : State, exec (.giveupTimeout ⟨d, 4, n⟩) s = .next t ∧ t.isDead ⟨d, 4, n⟩ = true ∧ t.get (UNIT_BKT_STATE d (17 + n)) = 2 ∧ t.getBit (FC_STATUS_DEACC d) n = true ∧
          t.now = max s.now (s.timer (tkFcGave d n) + s.get (FLT_LIMITS_RETURN_MAX_H d) * 3600 * tSec) ∧
          (t.fc d).loans = (s.fc d).loans.map fun l => if l.core = n then { l with perm := true } else l) ∧
      (n < 17 → s.get (UNIT_BKT_STATE d n) = 1 →
        ∃ t : State, exec (.giveupTimeout ⟨d, 5, n⟩) s = .next t ∧ t.isDead ⟨d, 5, n⟩ = true ∧ t.get (UNIT_BKT_STATE d n) = 2 ∧ t.getBit (GAL_STATUS_DEACC d) n = true ∧
          t.get (TILE_STATUS_STATE d n) = tsDEACC ∧ t.now = max s.now ((s.tile d n).gaveUp + s.get (FLT_LIMITS_RETURN_MAX_H d) * 3600 * tSec))) ∧
    (∀ d, mMUSTER ≤ s.mode → s.present d = true → s.flt.hosted.contains d = false →
      ((s.paired d = false ∨ s.present (partner d) = false) → ∃ t : State, exec (.dieFailure d) s = .next t ∧ t.present d = false ∧
        (s.flt.hosted.contains (partner d) = false → t.flt.hosted = s.flt.hosted) ∧ (s.flt.hosted.contains (partner d) = true → t.present (partner d) = false)) ∧
      (s.paired d = true → s.present (partner d) = true → ∃ t : State, exec (.dieFailure d) s = .next t ∧ t.flt.hosted.contains d = true ∧ t.present d = true)) ∧
    (2 ≤ s.mode →
      (∃ t : State, exec .trngFail s = .next t ∧ t.sec.waitReseed = true ∧ t.get SEC_STATUS_TRNG_OK = 0 ∧ t.get SEC_COUNT_TRNG_FAILS = min (2 ^ 24 - 1) (s.get SEC_COUNT_TRNG_FAILS + 1)) ∧
      (∃ t : State, exec (.drbgReseed true) s = .next t ∧ t.sec.waitReseed = false ∧ t.get SEC_STATUS_TRNG_OK = 1 ∧ t.sec.chalDue = false ∧ t.sec.sealKey = s.sec.sealKey) ∧
      (∃ t : State, exec (.drbgReseed false) s = .next t ∧ t.sec.waitReseed = true ∧ t.get SEC_STATUS_TRNG_OK = 0)) ∧
    (s.sec.unlockEnd ≠ 0 →
      ∃ t : State, exec .debugExpiry s = .next t ∧ t.now = max s.now s.sec.unlockEnd ∧ t.sec.unlockEnd = 0 ∧ t.get SEC_STATUS_SCOPE = 0 ∧
        t.get SEC_STATUS_DEBUG = (if s.sec.debugLock then 1 else 0) ∧ t.out = .jtag 0 0 :: s.out)

/-- Calibration, trims, ageing and daily records. An item starts, alone and in ascending order, when it is due and marks what it holds stale. A plausible result waits to be put into force and clears the item's failures; another leaves the code and counts a failure, as does a calibration that runs past its time; LAST_RESULT is the result. At its point, a 1 ms boundary for bandgaps and temperature sensors, the accepted code is in force, a regulator's through the sequencer. Each AGE_PERIOD_S a measurement at the island's point gives the slowdown and buys back margin with trim and then with a cap, and lowers neither. A daily record takes the next generation, and once there is a baseline the day's margins join the history. (21_conservator.md, R559; 21_conservator.md, R560; 21_conservator.md, R561; 21_conservator.md, R562; 21_conservator.md, R565; 21_conservator.md, R566; 21_conservator.md, R570; 21_conservator.md, R571) -/
def Obligations.TheConservatorKeepsMargins : Prop :=
  ∀ (s : State) (d n : Nat),
    (∀ temp, s.csvOn d n = true → csvFree (s.csv d).busy n = true → s.itemBehind d n temp = false →
      ∃ t : State, exec (.calibrationDue d n temp) s = .next t ∧ t.now = s.itemDueAt d n temp ∧ s.now ≤ t.now ∧ (t.csv d).busy = (s.csv d).busy ++ [n] ∧ t.get (CSV_STATUS_BUSY d) = 1 ∧ t.get (CSV_STATUS_ITEM d) = n ∧
        (∀ m ∈ heldBy n, t.get (ITEM_STATE_STALE d m) = 1) ∧ ∀ m, m < 90 → t.get (ITEM_STATE_CODE d m) = s.get (ITEM_STATE_CODE d m)) ∧
    (s.present d = true → n < csvItems d → (s.csv d).busy.contains n = true →
      (∀ v temp, s.plausible d n (v % 256) = true →
        ∃ t : State, exec (.calibrationResult d n v temp none) s = .next t ∧ (t.csv d).busy = (s.csv d).busy.filter (· ≠ n) ∧
          Store.get (fun _ => 0) (t.csv d).code n = v % 256 ∧ t.get (ITEM_STATE_PENDING d n) = 1 ∧ t.get (ITEM_STATE_FAILS d n) = 0 ∧ t.get (ITEM_STATE_SUSPECT d n) = 0 ∧
          t.get (ITEM_STATE_LAST_RESULT d n) = v % 256 ∧ t.get (ITEM_STATE_CODE d n) = s.get (ITEM_STATE_CODE d n)) ∧
      (∀ v temp, s.plausible d n (v % 256) = false →
        ∃ t : State, exec (.calibrationResult d n v temp none) s = .next t ∧ (t.csv d).busy = (s.csv d).busy.filter (· ≠ n) ∧
          t.get (ITEM_STATE_FAILS d n) = min 3 (s.get (ITEM_STATE_FAILS d n) + 1) ∧ t.get (ITEM_STATE_FAIL_CNT d n) = min (2 ^ 20 - 1) (s.get (ITEM_STATE_FAIL_CNT d n) + 1) ∧
          t.get (ITEM_STATE_LAST_RESULT d n) = v % 256 ∧ t.get (ITEM_STATE_CODE d n) = s.get (ITEM_STATE_CODE d n) ∧
          (3 ≤ s.get (ITEM_STATE_FAILS d n) + 1 → t.get (ITEM_STATE_SUSPECT d n) = 1)) ∧
      (∃ t : State, exec (.calibrationTimeout d n) s = .next t ∧ (t.csv d).busy = (s.csv d).busy.filter (· ≠ n) ∧
        t.get (ITEM_STATE_FAILS d n) = min 3 (s.get (ITEM_STATE_FAILS d n) + 1) ∧ t.get (ITEM_STATE_CODE d n) = s.get (ITEM_STATE_CODE d n))) ∧
    (s.present d = true → n < csvItems d → s.get (ITEM_STATE_PENDING d n) = 1 → s.trimPoint d n = true →
      ∃ t : State, exec (.trimInForce d n) s = .next t ∧ (onMs n = true → t.now % tMs = 0) ∧ (onMs n = false → t.now = s.now) ∧ t.get (ITEM_STATE_CODE d n) = Store.get (fun _ => 0) (s.csv d).code n % 2 ^ 8 ∧ t.get (ITEM_STATE_PENDING d n) = 0 ∧
        (47 ≤ n → n ≤ 74 → t.pwr.seqQ.length = s.pwr.seqQ.length + 1 ∧ (t.pwr.seqQ.getLast?).map SeqReq.isl = some (32 * d + (n - 47))) ∧
        ((n < 47 ∨ 74 < n) → t.pwr.seqQ = s.pwr.seqQ)) ∧
    (s.csvOn d 0 = true →
      (∀ m p r, m < csvMons d → p = s.monPoint d m →
        ∃ t : State, exec (.ageingMeasurement d [(m, p, r)] [] []) s = .next t ∧ t.now = max s.now (s.timer (tkAge d) + s.get (CSV_CFG_AGE_PERIOD_S d) * tSec) ∧ t.get (MON_SLOW_PPM d m) = min (2 ^ 24 - 1) (s.slowPpm d m p r) ∧
          t.get (MON_TRIM_MV d m) = max (s.get (MON_TRIM_MV d m)) (min 60 (ceilDiv (s.slowPpm d m p r) (100 * max 1 (s.get (MON_BASE_SENS d m))))) ∧
          s.get (MON_F_CAP d m) ≤ t.get (MON_F_CAP d m) ∧ (28 ≤ m → t.get (MON_F_CAP d m) = s.get (MON_F_CAP d m))) ∧
      (∀ fail, fail < 3 → ∃ t : State, exec (.dailyRecord d fail) s = .next t ∧ t.now = max s.now (s.timer (tkDay d) + 86400 * tSec) ∧ t.csvGen = max s.topGen s.csvGen + 1 ∧ t.csvNext = s.csvNext + 1 ∧
        (s.get (CSV_STATUS_BASELINE d) = 1 → (t.csv d).days.length = (s.csv d).days.length + 1) ∧
        (s.get (CSV_STATUS_BASELINE d) = 0 → (t.csv d).days = (s.csv d).days)))

/-- What the commands of hosts and of the Griwano control leave unchanged. Each of these commands, whatever its operands and in every state, answers a next state, and that state differs from the one before at most in the components listed and, of the state map, at most in slots of the registers listed (of any die and index): the registrar commands that complete on the device, reads, doorbells, ports and the image update. (16_host.md; 08_griwano_link.md; 17_image_startup.md) -/
def Obligations.FramesOfHostCommands : Prop :=
  (∀ (c : CmdHdr), Frame (Instr.nop c) answerComps [answerSlots]) ∧
    (∀ (c : CmdHdr) (nonce : List Nat), Frame (Instr.attest c nonce) (answerComps ++ [Comp.sec]) [answerSlots, At0 SEC_STATUS]) ∧
    (∀ (c : CmdHdr) (dies ctrs : Nat), Frame (Instr.ctrSnap c dies ctrs) (answerComps ++ [Comp.draws, Comp.snaps]) [answerSlots, countSlots]) ∧
    (∀ (c : CmdHdr) (prog : Nat), Frame (Instr.progStart c prog) (answerComps ++ [Comp.nvm, Comp.rg]) [answerSlots]) ∧
    (∀ (c : CmdHdr), Frame (Instr.progStop c) (answerComps ++ [Comp.rg]) [answerSlots]) ∧
    (∀ (c : CmdHdr) (dies dset : Nat), Frame (Instr.dump c dies dset) (answerComps ++ [Comp.leds, Comp.rg]) [answerSlots, At2 DSET_LAST, At2 DSET_STATE, At1 LED_STATUS]) ∧
    (∀ (c : CmdHdr) (t pre post first count : Nat), Frame (Instr.vitrine c t pre post first count) (answerComps ++ [Comp.acc, Comp.acus]) [answerSlots, At1 ACU_EVENTS, At1 ACU_STATUS, At1 JNL_PTR, At2 VIT_FIRST, At2 VIT_LAST, At2 VIT_MASK0, At2 VIT_MASK1, At2 VIT_STATE]) ∧
    (∀ (c : CmdHdr) (d i l : Nat), Frame (Instr.fade c d i l) (answerComps ++ [Comp.dfus]) [answerSlots, At1 DFU_STATUS, At2 FADE_REQ, At2 IN_STATUS]) ∧
    (∀ (c : CmdHdr) (d i set : Nat), Frame (Instr.coefLoad c d i set) answerComps [answerSlots, At4 COEF]) ∧
    (∀ (c : CmdHdr) (d i : Nat) (p : Poly), Frame (Instr.polySet c d i p) answerComps [answerSlots, At3 PEND_C, At2 PEND_T0, At2 POLY_CTRL]) ∧
    (∀ (c : CmdHdr) (d b : Nat) (ws : List Word), Frame (Instr.beamSet c d b ws) answerComps [answerSlots, At3 PEND, At2 PEND_CTRL]) ∧
    (∀ (c : CmdHdr) (r : Nat), Frame (Instr.refForce c r) (answerComps ++ [Comp.rsc]) [answerSlots, At0 RSC_STATUS]) ∧
    (∀ (c : CmdHdr) (mask : Nat), Frame (Instr.sysrefBurst c mask) answerComps [answerSlots, At1 SYSREF_CFG]) ∧
    (∀ (c : CmdHdr) (ring k vec base cons prod : Nat) (mem : List HRead), Frame (Instr.landReg c ring k vec base cons prod mem) (answerComps ++ [Comp.draws, Comp.lands, Comp.rings]) [answerSlots, At3 LAND_ADDR, At2 LAND_STATE, At1 PR_COUNT1, At1 PR_EVENTS, At3 RING_CTL, At2 RING_T0, At2 RING_T1]) ∧
    (∀ (c : CmdHdr) (ring : Nat), Frame (Instr.landDrop c ring) (answerComps ++ [Comp.lands]) [answerSlots, At2 LAND_STATE]) ∧
    (∀ (c : CmdHdr), Frame (Instr.retain c) (answerComps ++ [Comp.acc, Comp.pwr, Comp.rings, Comp.sec]) [answerSlots, At1 PR_STATUS]) ∧
    (∀ (c : CmdHdr) (sec pps : Nat), Frame (Instr.setTime c sec pps) (answerComps ++ [Comp.acc, Comp.dfus, Comp.now, Comp.te]) [answerSlots, At1 DFU_EVENTS, At2 IN_STATUS, At0 TE_COUNT, At0 TE_EVENTS, At0 TE_STATUS, At0 TE_SYNTH]) ∧
    (∀ (c : CmdHdr) (chain n : Nat), Frame (Instr.asymCal c chain n) (answerComps ++ [Comp.rg, Comp.te]) [answerSlots]) ∧
    (∀ (c : CmdHdr) (dev addr len : Nat) (mem : List HRead), Frame (Instr.imageUpdate c dev addr len mem) (answerComps ++ [Comp.flash, Comp.nvm, Comp.rg]) [answerSlots, At0 NVM_STATUS]) ∧
    (∀ (port tail cplHead : Nat) (mem : List HRead), Frame (Instr.commandDoorbell port tail cplHead mem) (answerComps ++ [Comp.flash, Comp.rg]) [answerSlots, At0 ARB_STATE, At1 CMD_SRC, At1 HP_COUNT, At0 RG_STATUS, At0 SEC_COUNT, At0 SEC_EVENTS]) ∧
    (∀ (p : Pkt), Frame (Instr.griwanoCommand p) (answerComps ++ [Comp.flash, Comp.rg]) [answerSlots, At0 ARB_STATE, At1 CMD_SRC, At1 HP_COUNT, At0 RG_STATUS, At0 SEC_COUNT, At0 SEC_EVENTS]) ∧
    (∀ (p : Pkt), Frame (Instr.stateRead p) [Comp.chains, Comp.evtLost, Comp.evts, Comp.inbox, Comp.pkf, Comp.regs] [At1 CTE_EVENTS, At0 PKC_DROP, At2 ROUTE]) ∧
    (∀ (port ring data : Nat) (cons : Option (Nat × Nat)), Frame (Instr.ackDoorbell port ring data cons) [Comp.evtLost, Comp.evts, Comp.lands, Comp.regs, Comp.rg, Comp.rings] [At1 HP_COUNT, At1 HP_STATUS, At2 LAND_STATE, At0 PKC_DROP, At1 PR_COUNT1, At1 PR_EVENTS, At1 PR_STATUS, At3 RING_CTL, At2 RING_T0, At2 RING_T1]) ∧
    (∀ (port addr : Nat), Frame (Instr.partialWrite port addr) [Comp.regs] [At1 HP_STATUS]) ∧
    (∀ (port addr len : Nat), Frame (Instr.deniedRead port addr len) [Comp.out, Comp.regs] [At1 HP_STATUS]) ∧
    (∀ (port link : Nat), Frame (Instr.portUp port link) [Comp.out, Comp.ports, Comp.regs, Comp.rings, Comp.timers] [At1 HP_PTR, At1 HP_STATUS, At1 PR_COUNT1, At1 PR_EVENTS, At3 RING_CTL, At2 RING_T0, At2 RING_T1]) ∧
    (∀ (port : Nat) (lost testFail : Bool), Frame (Instr.portDown port lost testFail) (modeComps ++ [Comp.flash, Comp.flt, Comp.rg, Comp.rings]) [modeSlots, At1 FLT_EVENTS, At1 HP_STATUS, At1 PR_EVENTS, At1 PR_STATUS, At3 RING_CTL, At2 RING_T0, At2 RING_T1, At2 RING_TGT, At2 UNIT_BKT]) ∧
    (∀ (port vec : Nat), Frame (Instr.msixHoldoff port vec) [Comp.now, Comp.out, Comp.ports, Comp.timers] []) ∧
    (∀ (ioOk : Bool), Frame (Instr.updateDone ioOk) (answerComps ++ [Comp.flash, Comp.nvm, Comp.rg]) [answerSlots, At0 NVM_EVENTS, At0 NVM_STATUS, At0 SEC_COUNT])

/-- What ingest, filters, acceptance and the cores' own events leave unchanged. Each of these commands, whatever its operands and in every state, answers a next state, and that state differs from the one before at most in the components listed and, of the state map, at most in slots of the registers listed (of any die and index): lanes, links, filters, fades, intervals, read-back, vitrines, and the interrupts, buffers, saves and watchdogs of F-cores. (03_ingest_lanes.md; 04_delay_filter.md; 05_acceptance.md; 06_fcore_arch.md) -/
def Obligations.FramesOfTheSignalPath : Prop :=
  (∀ (d n : Nat) (pll : Bool), Frame (Instr.cdrLock d n pll) [Comp.regs] [At1 ING_STATUS, At2 LANE_STATUS, At2 QUAD_CFG]) ∧
    (∀ (d n : Nat), Frame (Instr.cgsAchieved d n) [Comp.regs] [At1 ING_STATUS, At2 LANE_STATUS]) ∧
    (∀ (d n : Nat) (cdr : Bool), Frame (Instr.cgsLoss d n cdr) (modeComps ++ [Comp.draws, Comp.flash, Comp.flt, Comp.ings]) [modeSlots, At1 FLT_EVENTS, At1 ING_EVENTS, At1 ING_STATUS, At2 LANE_ALIGNCNT, At2 LANE_EYE, At2 LANE_STATUS, At2 LINK_COUNT, At2 LINK_STATUS, At2 UNIT_BKT]) ∧
    (∀ (d n ch g : Nat) (pos : Bool), Frame (Instr.characterError d n ch g pos) (modeComps ++ [Comp.flash, Comp.flt, Comp.ings]) [modeSlots, At3 DELAY_LINE, At1 FLT_EVENTS, At1 ING_EVENTS, At1 ING_STATUS, At2 LANE_ALIGNCNT, At2 LANE_ERRCNT, At2 LANE_STATUS, At2 LINK_COUNT, At2 LINK_STATUS, At2 UNIT_BKT]) ∧
    (∀ (d n : Nat) (isA : Bool) (pos : Nat) (since : Bool), Frame (Instr.misplacedAlignment d n isA pos since) [Comp.draws, Comp.ings, Comp.regs] [At1 ING_EVENTS, At1 ING_STATUS, At2 LANE_ALIGNCNT, At2 LINK_COUNT, At2 LINK_STATUS]) ∧
    (∀ (d j : Nat), Frame (Instr.ilasStart d j) [Comp.ings, Comp.now, Comp.regs] [At1 ING_STATUS, At2 LINK_STATUS]) ∧
    (∀ (d j : Nat) (lanes : List IlasLane) (firsts : List Nat) (t : Nat), Frame (Instr.ilasComplete d j lanes firsts t) (modeComps ++ [Comp.flash, Comp.flt, Comp.ings, Comp.now]) [modeSlots, At1 FLT_EVENTS, At1 ING_EVENTS, At1 ING_STATUS, At2 LANE_ALIGNCNT, At2 LANE_ILAS0, At2 LANE_ILAS1, At2 LANE_STATUS, At2 LINK_COUNT, At2 LINK_LAT, At2 LINK_STATUS, At2 UNIT_BKT]) ∧
    (∀ (d j : Nat), Frame (Instr.ilasRetry d j) [Comp.draws, Comp.ings, Comp.now, Comp.regs] [At1 ING_STATUS, At2 LINK_STATUS]) ∧
    (∀ (d j : Nat) (q0 q1 q2 q3 : List (List Nat)), Frame (Instr.frameRelease d j q0 q1 q2 q3) [Comp.ings, Comp.now, Comp.regs, Comp.wraps] [countSlots, At3 DELAY_LINE]) ∧
    (∀ (d j : Nat), Frame (Instr.linkWait d j) [Comp.evtLost, Comp.evts, Comp.ings, Comp.now, Comp.regs] [At1 ING_EVENTS, At1 ING_STATUS, At2 LINK_STATUS, At0 PKC_DROP]) ∧
    (∀ (d n : Nat), Frame (Instr.updatePoint d n) [Comp.dfus, Comp.regs] [At1 DFU_EVENTS, At2 IN_STATUS, At3 POLY_C, At2 POLY_CTRL, At2 POLY_T0]) ∧
    (∀ (d i m : Nat), Frame (Instr.dfuOutput d i m) [Comp.acc, Comp.acus, Comp.dfus, Comp.evtLost, Comp.evts, Comp.regs, Comp.wraps] [countSlots, At1 DFU_EVENTS, At1 DRC_COUNT, At1 DRC_EVENTS, At1 DRC_STATUS, At2 IN_COUNT, At2 IN_STATUS, At0 PKC_DROP]) ∧
    (∀ (d : Nat), Frame (Instr.fadeStart d) [Comp.dfus, Comp.regs] [At1 DFU_STATUS, At2 IN_STATUS]) ∧
    (∀ (d i : Nat), Frame (Instr.fadeEnd d i) [Comp.dfus, Comp.regs] [At1 DFU_EVENTS, At1 DFU_STATUS, At2 IN_CFG, At2 IN_STATUS]) ∧
    (∀ (k : Nat), Frame (Instr.settling k) [Comp.acc] []) ∧
    (∀ (d i k : Nat) (pair : Bool) (outc : Nat) (data : List Word), Frame (Instr.folioReadBack d i k pair outc data) [Comp.acc, Comp.evtLost, Comp.evts, Comp.regs, Comp.wraps] [countSlots, At1 ACU_EVENTS, At1 ACU_RB, At1 DRC_EVENTS, At0 PKC_DROP]) ∧
    (Frame Instr.canNumbering [Comp.acc, Comp.acus, Comp.dram, Comp.evtLost, Comp.evts, Comp.mirrors, Comp.nvm, Comp.regs] [At1 ACU_CAN, At1 ACU_COUNT, At1 ACU_EVENTS, At1 ACU_LAST, At1 ACU_REFUSE0, At1 ACU_REFUSE1, At1 ACU_REFUSE2, At1 ACU_STATUS, At2 DIR0, At2 DIR1, At1 JNL_PTR, At0 PKC_DROP, At2 VIT_LAST, At2 VIT_STATE]) ∧
    (∀ (k : Nat), Frame (Instr.accWindowExpiry k) [Comp.acc, Comp.now] []) ∧
    (∀ (d v : Nat), Frame (Instr.vitrineHandover d v) [Comp.acus, Comp.regs, Comp.units] [At1 ACU_STATUS, At1 JNL_PTR, At2 VIT_STATE]) ∧
    (∀ (d c : Nat), Frame (Instr.iterationEnd d c) (modeComps ++ [Comp.fcs, Comp.flash, Comp.flt]) [modeSlots, At2 CORE_CFG, At1 FC_EVENTS, At1 FC_STATUS, At1 FLT_EVENTS, At2 UNIT_BKT]) ∧
    (∀ (d c : Nat), Frame (Instr.interruptTake d c) [Comp.fcs, Comp.regs, Comp.wraps] [countSlots]) ∧
    (∀ (d c : Nat), Frame (Instr.inputBufferComplete d c) (modeComps ++ [Comp.fcs, Comp.flt]) [modeSlots]) ∧
    (∀ (d c : Nat), Frame (Instr.outputFrameFreed d c) [Comp.fcs, Comp.regs] [At2 CORE_CFG]) ∧
    (∀ (d c code arg : Nat), Frame (Instr.doorbellMessage d c code arg) [Comp.fcs, Comp.regs] [At2 CORE_CFG]) ∧
    (∀ (d c : Nat), Frame (Instr.coreTimer d c) [Comp.fcs, Comp.now] []) ∧
    (∀ (d c : Nat), Frame (Instr.coreWatchdog d c) (modeComps ++ [Comp.fcs, Comp.flash, Comp.flt, Comp.nvm]) [modeSlots, At2 CORE_CFG, At2 CORE_FAULT, At1 FC_EVENTS, At1 FC_STATUS, At1 FLT_EVENTS, At2 UNIT_BKT]) ∧
    (∀ (d c us : Nat), Frame (Instr.ckptSave d c us) [Comp.evtLost, Comp.evts, Comp.fcs, Comp.regs] [At2 CORE_CFG, At1 FC_EVENTS, At1 FC_STATUS, At1 FLT_EVENTS, At1 FLT_STATUS, At0 PKC_DROP, At3 TD, At2 UNIT_BKT]) ∧
    (∀ (d c : Nat) (pass : Bool), Frame (Instr.fcRetest d c pass) [Comp.fcs, Comp.now, Comp.timers] [])

/-- What streams, gallery, ledger, beam engine, rings and counters leave unchanged. Each of these commands, whatever its operands and in every state, answers a next state, and that state differs from the one before at most in the components listed and, of the state map, at most in slots of the registers listed (of any die and index): packets and markers of the corner turn, work orders and tiles, headers and records of the ledger, beam updates, seals, sends and acknowledgements of products, and counters. (09_corner_turn.md; 10_gallery.md; 11_ledger.md; 12_beam_engine.md; 13_products.md; 22_counters.md) -/
def Obligations.FramesOfStreamsImagesAndProducts : Prop :=
  (∀ (d folio : Nat), Frame (Instr.sendFolio d folio) [Comp.chains, Comp.ctes, Comp.evtLost, Comp.evts, Comp.fcs, Comp.inbox, Comp.pkf, Comp.regs, Comp.wraps] [countSlots, At1 CTE_COUNT0, At1 CTE_EVENTS, At1 CTE_STATUS, At0 PKC_DROP, At2 ROUTE]) ∧
    (∀ (d : Nat), Frame (Instr.idleMarkerTimer d) [Comp.chains, Comp.ctes, Comp.evtLost, Comp.evts, Comp.inbox, Comp.now, Comp.pkf, Comp.regs] [At1 CTE_EVENTS, At0 PKC_DROP, At2 ROUTE]) ∧
    (∀ (d : Nat) (p : Pkt), Frame (Instr.dataPacket d p) [Comp.ctes, Comp.inbox, Comp.regs, Comp.wraps] [countSlots, At1 ASM_STATUS, At1 CTE_EVENTS, At2 CTE_SRC, At1 CTE_STATUS]) ∧
    (∀ (d : Nat) (p : Pkt), Frame (Instr.marker d p) [Comp.chains, Comp.ctes, Comp.dram, Comp.evtLost, Comp.evts, Comp.inbox, Comp.mirrors, Comp.pkf, Comp.regs, Comp.wraps] [countSlots, At1 ASM_STATUS, At1 CTE_COUNT0, At1 CTE_COUNT1, At1 CTE_EVENTS, At2 CTE_SRC, At1 CTE_STATUS, At0 PKC_DROP, At2 ROUTE, At1 STINT_STATE]) ∧
    (∀ (d : Nat) (p : Pkt), Frame (Instr.rewindReceived d p) [Comp.ctes, Comp.evtLost, Comp.evts, Comp.fcs, Comp.inbox, Comp.regs] [At1 CTE_COUNT1, At1 CTE_EVENTS, At1 CTE_STATUS, At2 GROUP, At0 PKC_DROP]) ∧
    (∀ (d : Nat), Frame (Instr.quietExpiry d) [Comp.chains, Comp.ctes, Comp.evtLost, Comp.evts, Comp.inbox, Comp.now, Comp.pkf, Comp.regs] [At1 CTE_EVENTS, At0 PKC_DROP, At2 ROUTE]) ∧
    (∀ (d : Nat), Frame (Instr.commitReportTimer d) [Comp.chains, Comp.ctes, Comp.evtLost, Comp.evts, Comp.inbox, Comp.now, Comp.pkf, Comp.regs] [At1 CTE_EVENTS, At0 PKC_DROP, At2 ROUTE]) ∧
    (∀ (d : Nat) (p : Pkt), Frame (Instr.reportReceived d p) [Comp.ctes, Comp.inbox, Comp.regs] [At2 GROUP]) ∧
    (∀ (d e : Nat), Frame (Instr.streamLost d e) [Comp.ctes, Comp.dram, Comp.evtLost, Comp.evts, Comp.mirrors, Comp.now, Comp.regs, Comp.wraps] [countSlots, At1 ASM_STATUS, At1 CTE_COUNT0, At1 CTE_EVENTS, At2 CTE_SRC, At1 CTE_STATUS, At0 PKC_DROP, At1 STINT_STATE]) ∧
    (∀ (d dev die : Nat), Frame (Instr.destLost d dev die) [Comp.ctes, Comp.evtLost, Comp.evts, Comp.now, Comp.regs] [At1 CTE_EVENTS, At1 CTE_STATUS, At2 GROUP, At0 PKC_DROP, At1 STINT_STATE]) ∧
    (∀ (d n : Nat), Frame (Instr.stintSlotRelease d n) [Comp.chains, Comp.ctes, Comp.evtLost, Comp.evts, Comp.inbox, Comp.pkf, Comp.regs] [At1 ASM_STATUS, At1 CTE_EVENTS, At1 CTE_STATUS, At0 PKC_DROP, At2 ROUTE, At1 STINT_STATE]) ∧
    (∀ (d lt : Nat), Frame (Instr.workOrderIssue d lt) [Comp.gals, Comp.regs] [At1 GAL_COUNT, At1 GAL_EVENTS, At3 TILE_POS, At2 TILE_STATUS, At3 TILE_WO0, At3 TILE_WO1]) ∧
    (∀ (d t : Nat), Frame (Instr.workOrderStart d t) [Comp.gals, Comp.regs] [At1 GAL_EVENTS, At1 GAL_STATUS, At3 TILE_POS, At2 TILE_STATUS, At3 TILE_WO0, At3 TILE_WO1]) ∧
    (∀ (d t : Nat) (err : Option (Nat × Int)), Frame (Instr.tileCycle d t err) [Comp.gals, Comp.regs, Comp.wraps] [countSlots, At2 TILE_COUNT, At3 TILE_POS, At2 TILE_STATUS, At3 TILE_WO0, At3 TILE_WO1]) ∧
    (∀ (d t b : Nat), Frame (Instr.sealBank d t b) (modeComps ++ [Comp.flash, Comp.flt, Comp.gals]) [modeSlots, At1 FLT_EVENTS, At1 GAL_COUNT, At1 GAL_EVENTS, At1 GAL_STATUS, At2 TILE_CFG, At2 TILE_FAULT, At3 TILE_POS, At2 TILE_STATUS, At3 TILE_WO0, At3 TILE_WO1, At2 UNIT_BKT]) ∧
    (∀ (d t : Nat) (pass : Bool), Frame (Instr.tileBistDone d t pass) (modeComps ++ [Comp.flash, Comp.flt, Comp.gals]) [modeSlots, At1 FLT_EVENTS, At1 GAL_COUNT, At1 GAL_EVENTS, At1 GAL_STATUS, At2 TILE_CFG, At2 TILE_FAULT, At3 TILE_POS, At2 TILE_STATUS, At3 TILE_WO0, At3 TILE_WO1, At2 UNIT_BKT]) ∧
    (∀ (d t b : Nat), Frame (Instr.drainAck d t b) (modeComps ++ [Comp.flt, Comp.gals, Comp.wraps]) [modeSlots, countSlots, At1 FLT_EVENTS, At1 GAL_EVENTS, At1 GAL_PROGRESS, At1 GAL_STATUS, At2 TILE_CFG, At2 TILE_COUNT, At3 TILE_POS, At2 TILE_STATUS, At3 TILE_WO0, At3 TILE_WO1]) ∧
    (∀ (d t : Nat) (off : Bool), Frame (Instr.tileWatchdog d t off) (modeComps ++ [Comp.flash, Comp.flt, Comp.gals, Comp.now]) [modeSlots, At1 FLT_EVENTS, At1 GAL_COUNT, At1 GAL_EVENTS, At1 GAL_STATUS, At2 TILE_CFG, At2 TILE_FAULT, At3 TILE_POS, At2 TILE_STATUS, At3 TILE_WO0, At3 TILE_WO1, At2 UNIT_BKT]) ∧
    (∀ (d t : Nat) (pass : Bool), Frame (Instr.tileRetest d t pass) [Comp.gals, Comp.now, Comp.regs] [At1 GAL_EVENTS, At2 TILE_FAULT, At3 TILE_POS, At2 TILE_STATUS, At3 TILE_WO0, At3 TILE_WO1]) ∧
    (∀ (d n : Nat), Frame (Instr.shortIntegrationBoundary d n) (modeComps ++ [Comp.bes, Comp.dram, Comp.flt, Comp.gals, Comp.leds, Comp.mirrors, Comp.now]) [modeSlots, At1 BE_STATUS, At2 DSET_LAST, At2 DSET_STATE, At1 FLT_EVENTS, At1 GAL_EVENTS, At1 GAL_PROGRESS, At1 GAL_STATUS, At1 LED_STATUS, At2 TILE_CFG, At2 TILE_FAULT, At3 TILE_POS, At2 TILE_STATUS, At3 TILE_WO0, At3 TILE_WO1, At2 UNIT_BKT]) ∧
    (∀ (d t b : Nat) (badHdr : Bool) (bad : List Nat), Frame (Instr.drainRecord d t b badHdr bad) [Comp.dram, Comp.evtLost, Comp.evts, Comp.gals, Comp.leds, Comp.mirrors, Comp.regs, Comp.wraps] [countSlots, At1 DRC_EVENTS, At1 LED_COUNT0, At1 LED_COUNT1, At1 LED_EVENTS, At1 LED_RATE, At1 LED_STATUS, At0 PKC_DROP, At3 TILE_POS, At2 TILE_STATUS, At3 TILE_WO0, At3 TILE_WO1]) ∧
    (∀ (d t b : Nat), Frame (Instr.gapTimeout d t b) [Comp.evtLost, Comp.evts, Comp.gals, Comp.leds, Comp.now, Comp.regs] [At1 LED_COUNT1, At1 LED_EVENTS, At1 LED_STATUS, At0 PKC_DROP, At3 TILE_POS, At2 TILE_STATUS, At3 TILE_WO0, At3 TILE_WO1]) ∧
    (∀ (d : Nat), Frame (Instr.headerWrite d) [Comp.dram, Comp.gals, Comp.leds, Comp.mirrors, Comp.regs] [At1 LED_COUNT0, At1 LED_PROGRESS, At1 LED_STATUS, At3 TILE_POS, At2 TILE_STATUS, At3 TILE_WO0, At3 TILE_WO1]) ∧
    (∀ (d dset : Nat) (badHdr : Bool) (bad : List Nat), Frame (Instr.dumpUnit d dset badHdr bad) (answerComps ++ [Comp.dram, Comp.leds, Comp.mirrors, Comp.rg, Comp.units]) [answerSlots, At1 DRC_EVENTS, At2 DSET_LAST, At2 DSET_STATE, At1 LED_COUNT1, At1 LED_EVENTS, At1 LED_STATUS]) ∧
    (∀ (d blk : Nat), Frame (Instr.ledgerClear d blk) [Comp.dram, Comp.leds, Comp.mirrors, Comp.regs] [At1 LED_STATUS]) ∧
    (∀ (d k : Nat), Frame (Instr.updateInterval d k) [Comp.bes, Comp.regs, Comp.wraps] [countSlots, At1 BE_LOAD, At3 DESC, At2 PEND_CTRL]) ∧
    (∀ (d m : Nat), Frame (Instr.triggerSample d m) (answerComps ++ [Comp.acc, Comp.acus, Comp.bes]) [answerSlots, At1 ACU_EVENTS, At1 ACU_STATUS, At1 BE_COUNT, At1 BE_EVENTS, At2 DET_STAT0, At2 DET_STAT1, At2 GRP_STATE, At1 JNL_PTR, At2 VIT_FIRST, At2 VIT_LAST, At2 VIT_MASK0, At2 VIT_MASK1, At2 VIT_STATE]) ∧
    (∀ (ring : Nat), Frame (Instr.sealTimer ring) [Comp.now, Comp.regs, Comp.rings, Comp.sec] [At1 PR_STATUS]) ∧
    (∀ (ring tgt : Nat) (bad : List Nat), Frame (Instr.targetSend ring tgt bad) [Comp.chains, Comp.evtLost, Comp.evts, Comp.inbox, Comp.lands, Comp.out, Comp.pkf, Comp.ports, Comp.regs, Comp.rings, Comp.sec, Comp.timers] [At1 CTE_EVENTS, At1 DRC_EVENTS, At2 LAND_STATE, At0 PKC_DROP, At1 PR_STATUS, At3 RING_CTL, At2 RING_T0, At2 RING_T1, At2 ROUTE]) ∧
    (∀ (p : Pkt), Frame (Instr.collectorAck p) [Comp.evtLost, Comp.evts, Comp.inbox, Comp.regs, Comp.rg, Comp.rings] [At0 PKC_DROP, At1 PR_COUNT1, At1 PR_EVENTS, At1 PR_STATUS, At3 RING_CTL, At2 RING_T0, At2 RING_T1]) ∧
    (∀ (ring tgt : Nat), Frame (Instr.ackTimeout ring tgt) [Comp.now, Comp.regs, Comp.rings] [At1 PR_COUNT1, At1 PR_EVENTS, At3 RING_CTL, At2 RING_T0, At2 RING_T1]) ∧
    (∀ (d k n : Nat), Frame (Instr.counterWrap d k n) [Comp.fcs, Comp.regs, Comp.wraps] [countSlots])

/-- What references, time messages, chains, DRAM and fabric leave unchanged. Each of these commands, whatever its operands and in every state, answers a next state, and that state differs from the one before at most in the components listed and, of the state map, at most in slots of the registers listed (of any die and index): the reference and DPLL events, Torveri messages, training and sleep of chains, DRAM writes, refresh, retraining and scrubbing, and fabric grants. (14_time.md; 08_griwano_link.md; 15_memory_fabric.md) -/
def Obligations.FramesOfTimeLinksAndMemory : Prop :=
  (∀ (r : Nat), Frame (Instr.refActivityFail r) [Comp.acc, Comp.evtLost, Comp.evts, Comp.out, Comp.regs, Comp.rsc, Comp.te, Comp.timers] [At0 PKC_DROP, At1 REF_STATUS, At0 RSC_CTRL, At0 RSC_EVENTS, At0 RSC_STATUS, At0 TE_EVENTS, At0 TE_STATUS, At0 TE_SYNTH]) ∧
    (∀ (r : Nat) (ppb : Int), Frame (Instr.frequencyGate r ppb) [Comp.acc, Comp.evtLost, Comp.evts, Comp.now, Comp.out, Comp.regs, Comp.rsc, Comp.te, Comp.timers] [At0 PKC_DROP, At1 REF_STATUS, At0 RSC_CTRL, At0 RSC_EVENTS, At0 RSC_STATUS, At0 TE_EVENTS, At0 TE_STATUS, At0 TE_SYNTH]) ∧
    (∀ (r : Nat), Frame (Instr.qualificationComplete r) [Comp.acc, Comp.evtLost, Comp.evts, Comp.out, Comp.regs, Comp.rsc, Comp.te, Comp.timers] [At0 PKC_DROP, At1 REF_STATUS, At0 RSC_CTRL, At0 RSC_EVENTS, At0 RSC_STATUS, At0 TE_EVENTS, At0 TE_STATUS, At0 TE_SYNTH]) ∧
    (Frame Instr.loLoss [Comp.acc, Comp.evtLost, Comp.evts, Comp.out, Comp.regs, Comp.rsc, Comp.te] [At0 PKC_DROP, At0 RSC_EVENTS, At0 RSC_LO, At0 RSC_STATUS, At0 TE_EVENTS, At0 TE_STATUS, At0 TE_SYNTH]) ∧
    (Frame Instr.loWarmTimer [Comp.now, Comp.regs] [At0 RSC_STATUS]) ∧
    (Frame Instr.dpllLock [Comp.acc, Comp.now, Comp.out, Comp.regs, Comp.te] [At0 RSC_STATUS, At0 TE_EVENTS, At0 TE_STATUS, At0 TE_SYNTH]) ∧
    (Frame Instr.ladderDwell [Comp.now, Comp.regs, Comp.timers] [At0 RSC_STATUS]) ∧
    (∀ (sec : Nat) (c : Int), Frame (Instr.historySecond sec c) [Comp.acc, Comp.now, Comp.out, Comp.regs, Comp.rsc, Comp.te] [At0 RSC_CTRL, At0 RSC_STATUS, At0 TE_EVENTS, At0 TE_STATUS, At0 TE_SYNTH]) ∧
    (Frame Instr.holdoverExpiry [Comp.acc, Comp.now, Comp.out, Comp.regs, Comp.te] [At0 RSC_STATUS, At0 TE_EVENTS, At0 TE_STATUS, At0 TE_SYNTH]) ∧
    (∀ (k : Nat) (p : Pkt) (tin tout : Nat), Frame (Instr.delayReq k p tin tout) [Comp.chains, Comp.inbox, Comp.regs, Comp.te] [At0 TE_COUNT]) ∧
    (∀ (k : Nat) (p : Pkt), Frame (Instr.delayResp k p) [Comp.chains, Comp.inbox, Comp.regs, Comp.te] [At0 TE_COUNT, At0 TE_OFFSET]) ∧
    (∀ (touts : List (Nat × Nat)), Frame (Instr.syncOriginate touts) [Comp.chains, Comp.now, Comp.te, Comp.timers] []) ∧
    (∀ (touts : List (Nat × Nat)), Frame (Instr.delayReqOriginate touts) [Comp.chains, Comp.now, Comp.te, Comp.timers] []) ∧
    (Frame Instr.syncTimeout [Comp.acc, Comp.now, Comp.out, Comp.regs, Comp.te] [At0 TE_EVENTS, At0 TE_RATE, At0 TE_STATUS, At0 TE_SYNTH]) ∧
    (∀ (k : Nat) (sumOut : Int) (nOut : Nat), Frame (Instr.calDone k sumOut nOut) (answerComps ++ [Comp.rg, Comp.te]) [answerSlots, At1 TE_ASYM_MEAS, At0 TE_EVENTS]) ∧
    (∀ (ppb : Int), Frame (Instr.crystalDiscipline ppb) [Comp.now, Comp.regs, Comp.timers] [At0 AOI_STATUS]) ∧
    (∀ (k : Nat), Frame (Instr.signalDetect k) [Comp.chains, Comp.out, Comp.regs] [At2 GWL_CH_STATUS, At1 GWL_STATUS, At2 LN_STATUS, At2 LN_TAPS]) ∧
    (∀ (k : Nat), Frame (Instr.trainRetry k) [Comp.chains, Comp.now, Comp.regs] [At2 GWL_CH_STATUS, At1 GWL_STATUS, At2 LN_STATUS]) ∧
    (∀ (k : Nat), Frame (Instr.aosSend k) [Comp.chains, Comp.out] []) ∧
    (∀ (k : Nat), Frame (Instr.transmitChoice k) [Comp.chains, Comp.evtLost, Comp.evts, Comp.inbox, Comp.out, Comp.pkf, Comp.regs, Comp.rings, Comp.wraps] [countSlots, At2 CH_COUNT0, At2 CH_CREDIT0, At2 CH_CREDIT1, At2 CH_SEQ, At1 CTE_EVENTS, At2 GWL_CH_STATUS, At1 GWL_EVENTS, At1 GWL_STATUS, At0 PKC_DROP, At1 PR_COUNT1, At1 PR_EVENTS, At3 RING_CTL, At2 RING_T0, At2 RING_T1, At2 ROUTE]) ∧
    (∀ (k : Nat), Frame (Instr.lcbSendTimer k) [Comp.chains, Comp.inbox, Comp.now, Comp.out, Comp.pkf, Comp.regs, Comp.rings] [At2 CH_CREDIT0, At2 CH_CREDIT1, At2 CH_SEQ, At2 GWL_CH_STATUS, At1 GWL_STATUS, At1 PR_COUNT1, At1 PR_EVENTS, At3 RING_CTL, At2 RING_T0, At2 RING_T1]) ∧
    (∀ (k vc : Nat), Frame (Instr.creditTimeout k vc) [Comp.chains, Comp.now, Comp.regs] [At2 CH_CREDIT0, At2 CH_CREDIT1, At2 CH_SEQ, At1 GWL_EVENTS]) ∧
    (∀ (k : Nat), Frame (Instr.sleepIdle k) [Comp.chains, Comp.now, Comp.out, Comp.regs] [At2 CH_SLEEP, At2 GWL_CH_STATUS, At1 GWL_STATUS]) ∧
    (∀ (k level : Nat), Frame (Instr.sleepReceived k level) [Comp.acc, Comp.evtLost, Comp.evts, Comp.out, Comp.regs, Comp.rsc, Comp.te, Comp.timers] [At2 GWL_CH_STATUS, At1 GWL_STATUS, At0 PKC_DROP, At1 REF_STATUS, At0 RSC_CTRL, At0 RSC_EVENTS, At0 RSC_STATUS, At0 TE_EVENTS, At0 TE_STATUS, At0 TE_SYNTH]) ∧
    (∀ (k ns : Nat), Frame (Instr.directionWake k ns) [Comp.chains, Comp.now, Comp.out, Comp.regs] [At2 CH_SLEEP, At2 GWL_CH_STATUS, At1 GWL_STATUS]) ∧
    (∀ (d burst : Nat) (ws : List Word), Frame (Instr.dramWrite d burst ws) [Comp.dram, Comp.draws, Comp.drcs, Comp.mirrors, Comp.regs, Comp.wraps] [countSlots]) ∧
    (∀ (d room : Nat) (bursts : List (Nat × List Word)), Frame (Instr.unitWrite d room bursts) [Comp.dram, Comp.draws, Comp.drcs, Comp.mirrors, Comp.regs, Comp.wraps] [countSlots]) ∧
    (∀ (d c u : Nat), Frame (Instr.refreshInterval d c u) [Comp.drcs, Comp.regs] [At1 DRC_COUNT, At1 DRC_EVENTS]) ∧
    (∀ (d c : Nat) (hits : List (Nat × Nat × Nat)), Frame (Instr.scrubPass d c hits) (modeComps ++ [Comp.drcs, Comp.flash, Comp.flt, Comp.now]) [modeSlots, At4 DRC_CH_ERR, At2 DRC_CH_STATUS, At1 DRC_EVENTS, At1 FLT_EVENTS, At2 UNIT_BKT]) ∧
    (∀ (d c u : Nat) (force moved : Bool), Frame (Instr.retrainStep d c u force moved) [Comp.drcs, Comp.evtLost, Comp.evts, Comp.now, Comp.regs, Comp.training] [At1 DRC_EVENTS, At0 PKC_DROP]) ∧
    (∀ (d : Nat), Frame (Instr.journalWrite d) [Comp.acus, Comp.dram, Comp.drcs, Comp.mirrors, Comp.regs] [At1 DRC_STATUS]) ∧
    (∀ (d t cyc : Nat) (reqs : List (Nat × Nat × Bool)), Frame (Instr.fabricRequest d t cyc reqs) [Comp.fabs, Comp.regs, Comp.wraps] [countSlots, At1 FAB_COUNT, At1 FAB_EVENTS, At2 TGT]) ∧
    (∀ (d m t : Nat), Frame (Instr.prioParityError d m t) [Comp.evtLost, Comp.evts, Comp.regs] [At1 FAB_COUNT, At1 FAB_EVENTS, At1 FAB_STATUS, At0 PKC_DROP])

/-- What power, registrar, fault and conservator commands leave unchanged. Each of these commands, whatever its operands and in every state, answers a next state, and that state differs from the one before at most in the components listed and, of the state map, at most in slots of the registers listed (of any die and index): wakes, rails, governor, sequencer, checkpoints, self-tests, deaccessions and the conservator. (19_power.md; 20_faults.md; 21_conservator.md; 18_security.md; 17_image_startup.md) -/
def Obligations.FramesOfPowerFaultsAndMargins : Prop :=
  (∀ (n g : Nat), Frame (Instr.calendarEntry n g) [Comp.nvm, Comp.rg] []) ∧
    (Frame Instr.porstNFall [Comp.chains, Comp.drcs, Comp.ings, Comp.pwr, Comp.regs] [At2 CH_SLEEP, At2 DRC_CH_STATUS, At2 GWL_CH_STATUS, At1 GWL_STATUS, At1 HP_STATUS, At1 ING_STATUS, At2 LANE_STATUS, At2 LINK_STATUS, At2 LN_STATUS]) ∧
    (Frame Instr.pwrdnNLow [Comp.acc, Comp.chains, Comp.dram, Comp.evtLost, Comp.evts, Comp.ings, Comp.mirrors, Comp.nvm, Comp.out, Comp.ports, Comp.pwr, Comp.regs, Comp.rsc, Comp.sec, Comp.timers, Comp.workAt, Comp.workT] [At0 AOI_STATUS, At2 CH_SLEEP, At2 GWL_CH_STATUS, At1 GWL_STATUS, At1 HP_STATUS, At1 ING_STATUS, At2 LANE_STATUS, At0 LAST_DORMANT, At2 LINK_STATUS, At2 LN_STATUS, At0 PKC_DROP, At0 PWR_EVENTS, At0 PWR_MODE, At1 RAIL, At1 REF_STATUS, At0 SEC_STATUS]) ∧
    (Frame Instr.pwrdnNRise [Comp.out, Comp.pwr, Comp.regs] [At0 AOI_STATUS, At1 ISL, At0 LAST_WAKE0, At0 LAST_WAKE1, At0 LAST_WAKE2, At1 RAIL, At0 SEQ_STATUS]) ∧
    (Frame Instr.wakePin [Comp.out, Comp.pwr, Comp.regs] [At1 ISL, At0 LAST_WAKE0, At0 LAST_WAKE1, At0 LAST_WAKE2, At1 RAIL, At0 SEQ_STATUS]) ∧
    (∀ (port : Nat), Frame (Instr.sidebandWake port) [Comp.out, Comp.pwr, Comp.regs] [At1 ISL, At0 LAST_WAKE0, At0 LAST_WAKE1, At0 LAST_WAKE2, At1 RAIL, At0 SEQ_STATUS]) ∧
    (∀ (k : Nat), Frame (Instr.activityWake k) [Comp.out, Comp.pwr, Comp.regs] [At1 ISL, At0 LAST_WAKE0, At0 LAST_WAKE1, At0 LAST_WAKE2, At1 RAIL, At0 SEQ_STATUS]) ∧
    (∀ (junction : Int), Frame (Instr.tempTrip junction) [Comp.acc, Comp.chains, Comp.dram, Comp.evtLost, Comp.evts, Comp.ings, Comp.mirrors, Comp.nvm, Comp.out, Comp.ports, Comp.pwr, Comp.regs, Comp.rsc, Comp.sec, Comp.timers, Comp.workAt, Comp.workT] [At0 AOI_STATUS, At2 CH_SLEEP, At2 GWL_CH_STATUS, At1 GWL_STATUS, At1 HP_STATUS, At1 ING_STATUS, At2 LANE_STATUS, At0 LAST_DORMANT, At2 LINK_STATUS, At2 LN_STATUS, At0 PKC_DROP, At0 PWR_EVENTS, At0 PWR_MODE, At1 RAIL, At1 REF_STATUS, At0 SEC_STATUS]) ∧
    (∀ (rail ms : Nat), Frame (Instr.railPowerGood rail ms) [Comp.now, Comp.out, Comp.pwr, Comp.regs] [At1 RAIL]) ∧
    (Frame Instr.railTimeout [Comp.evtLost, Comp.evts, Comp.now, Comp.out, Comp.ports, Comp.pwr, Comp.regs, Comp.timers] [At0 LAST_WAKE0, At0 PKC_DROP, At0 PWR_EVENTS, At0 PWR_MODE, At1 RAIL]) ∧
    (Frame Instr.wakeRetry [Comp.now, Comp.out, Comp.pwr, Comp.regs] [At0 LAST_WAKE0, At1 RAIL]) ∧
    (∀ (t : Nat), Frame (Instr.thermalThrottle t) [Comp.evtLost, Comp.evts, Comp.pwr, Comp.regs, Comp.timers] [At0 PKC_DROP, At0 PWR_EVENTS, At0 PWR_MODE, At0 SEQ_STATUS]) ∧
    (∀ (t : Nat), Frame (Instr.throttleTimer t) [Comp.evtLost, Comp.evts, Comp.now, Comp.pwr, Comp.regs, Comp.timers] [At0 PKC_DROP, At0 PWR_EVENTS, At0 PWR_MODE, At0 SEQ_STATUS]) ∧
    (∀ (reorder : Bool), Frame (Instr.sequencerRequest reorder) [Comp.evtLost, Comp.evts, Comp.now, Comp.out, Comp.pwr, Comp.regs] [At1 ISL, At0 PKC_DROP, At0 PWR_EVENTS, At1 RAIL, At0 SEQ_STATUS]) ∧
    (Frame Instr.sequencerDone [Comp.now, Comp.out, Comp.pwr, Comp.regs] [At1 ISL, At1 RAIL, At0 SEQ_STATUS]) ∧
    (Frame Instr.checkpoint (modeComps ++ [Comp.acus, Comp.fcs, Comp.flt, Comp.now, Comp.nvm, Comp.rg]) [modeSlots, At1 ACU_STATUS, At2 CORE_CFG, At1 FC_EVENTS, At1 FC_STATUS, At1 FLT_EVENTS, At1 JNL_PTR, At0 REG_FAULT, At0 RG_STATUS, At2 UNIT_BKT]) ∧
    (∀ (pass : Bool), Frame (Instr.registrarSelfTest pass) (modeComps ++ [Comp.flash, Comp.flt, Comp.now, Comp.rg]) [modeSlots, At1 FLT_EVENTS, At0 REG_FAULT, At2 UNIT_BKT]) ∧
    (Frame Instr.trngFail [Comp.evtLost, Comp.evts, Comp.regs, Comp.sec] [At0 PKC_DROP, At0 SEC_COUNT, At0 SEC_EVENTS, At0 SEC_STATUS]) ∧
    (Frame Instr.debugExpiry [Comp.now, Comp.out, Comp.regs, Comp.sec] [At0 SEC_STATUS]) ∧
    (∀ (u : UnitId) (bucket : Nat), Frame (Instr.bucketLeak u bucket) [Comp.now, Comp.pkf, Comp.regs, Comp.timers] [At2 GWL_CH_STATUS, At1 HP_STATUS, At2 LANE_ALIGNCNT, At0 REG_FAULT, At2 UNIT_BKT]) ∧
    (∀ (u : UnitId), Frame (Instr.giveupTimeout u) (modeComps ++ [Comp.fcs, Comp.flash, Comp.flt, Comp.gals, Comp.now]) [modeSlots, At1 FC_STATUS, At1 FLT_EVENTS, At1 GAL_STATUS, At2 TILE_STATUS, At2 UNIT_BKT]) ∧
    (∀ (d n temp : Nat), Frame (Instr.calibrationDue d n temp) [Comp.csvs, Comp.now, Comp.regs] [At1 CSV_STATUS, At2 ITEM_STATE, At2 LANE_EYE, At2 LN_EYE]) ∧
    (∀ (d n v temp : Nat) (eye : Option Nat), Frame (Instr.calibrationResult d n v temp eye) [Comp.acc, Comp.chains, Comp.csvs, Comp.draws, Comp.evtLost, Comp.evts, Comp.now, Comp.out, Comp.pwr, Comp.regs, Comp.rsc, Comp.te, Comp.timers] [At2 CH_COUNT1, At2 CH_SLEEP, At1 CSV_EVENTS, At1 CSV_STATUS, At2 GWL_CH_STATUS, At1 GWL_EVENTS, At1 GWL_STATUS, At1 ING_EVENTS, At2 ITEM_STATE, At2 LANE_EYE, At2 LN_EYE, At2 LN_STATUS, At0 PKC_DROP, At0 PWR_EVENTS, At0 PWR_MODE, At1 REF_STATUS, At0 RSC_CTRL, At0 RSC_EVENTS, At0 RSC_STATUS, At0 SEQ_STATUS, At0 TE_EVENTS, At0 TE_STATUS, At0 TE_SYNTH]) ∧
    (∀ (d n : Nat), Frame (Instr.trimInForce d n) [Comp.now, Comp.pwr, Comp.regs] [At2 ITEM_STATE, At0 SEQ_STATUS]) ∧
    (∀ (d : Nat) (mons : List (Nat × Nat × Nat)) (eyes dram : List (Nat × Nat)), Frame (Instr.ageingMeasurement d mons eyes dram) [Comp.acc, Comp.chains, Comp.csvGen, Comp.csvNext, Comp.csvs, Comp.draws, Comp.evtLost, Comp.evts, Comp.flash, Comp.now, Comp.out, Comp.pwr, Comp.regs, Comp.rsc, Comp.te, Comp.timers] [At2 CH_COUNT1, At2 CH_SLEEP, At1 CSV_EVENTS, At2 GWL_CH_STATUS, At1 GWL_EVENTS, At1 GWL_STATUS, At1 ING_EVENTS, At1 ISL, At2 LANE_EYE, At2 LN_EYE, At2 LN_STATUS, At2 MON, At0 PKC_DROP, At1 RAIL, At1 REF_STATUS, At0 RSC_CTRL, At0 RSC_EVENTS, At0 RSC_STATUS, At0 SEQ_STATUS, At0 TE_EVENTS, At0 TE_STATUS, At0 TE_SYNTH]) ∧
    (∀ (d fail : Nat), Frame (Instr.dailyRecord d fail) (modeComps ++ [Comp.csvGen, Comp.csvNext, Comp.csvs, Comp.flash, Comp.flt, Comp.now]) [modeSlots, At1 CSV_EVENTS, At1 CSV_PROJ, At1 CSV_STATUS, At1 FLT_EVENTS, At2 MON]) ∧
    (Frame Instr.revertHoldoff [Comp.acc, Comp.evtLost, Comp.evts, Comp.now, Comp.out, Comp.regs, Comp.rsc, Comp.te, Comp.timers] [At0 PKC_DROP, At0 RSC_CTRL, At0 RSC_EVENTS, At0 RSC_STATUS, At0 TE_EVENTS, At0 TE_STATUS, At0 TE_SYNTH]) ∧
    (Frame Instr.tempTripClear [Comp.out, Comp.pwr, Comp.regs] [At0 AOI_STATUS, At1 ISL, At0 LAST_WAKE0, At0 LAST_WAKE1, At0 LAST_WAKE2, At1 RAIL, At0 SEQ_STATUS]) ∧
    (∀ (d n : Nat), Frame (Instr.calibrationTimeout d n) [Comp.csvs, Comp.evtLost, Comp.evts, Comp.pwr, Comp.regs, Comp.timers] [At1 CSV_EVENTS, At1 CSV_STATUS, At2 ITEM_STATE, At2 LANE_EYE, At2 LN_EYE, At0 PKC_DROP, At0 PWR_EVENTS, At0 PWR_MODE, At0 SEQ_STATUS])
end

