-- ==== Sys2Proof/Laws/Store.lean ====
section
/-! SUPPORT. Laws of the sparse store: a read after a write, and the canonical form that every operation keeps. -/

namespace Sys2Proof.Machine

variable {α : Type}

theorem Store.get_del_same (d : Nat → α) (m : Store α) (k : Nat) : Store.get d (Store.del m k) k = d k := by
  induction m with
  | nil => rfl
  | cons e r ih => simp only [Store.del]; split <;> simp_all [Store.get]

theorem Store.get_del_other (d : Nat → α) (m : Store α) {k j : Nat} (h : j ≠ k) :
    Store.get d (Store.del m k) j = Store.get d m j := by
  induction m with
  | nil => rfl
  | cons e r ih => simp only [Store.del]; split <;> simp_all [Store.get]; rintro rfl; exact absurd rfl h

theorem Store.get_unlisted (d : Nat → α) (m : Store α) (k : Nat) (h : ∀ e ∈ m, e.1 ≠ k) : Store.get d m k = d k := by
  induction m with
  | nil => rfl
  | cons e r ih =>
    simp only [Store.get]
    rw [if_neg (h e (by simp)), ih (fun x hx => h x (by simp [hx]))]

theorem Store.mem_del {m : Store α} {k : Nat} {e : Nat × α} : e ∈ Store.del m k ↔ e ∈ m ∧ e.1 ≠ k := by
  induction m with
  | nil => simp [Store.del]
  | cons x r ih =>
    simp only [Store.del]
    split
    · rename_i h
      constructor
      · intro he; exact ⟨by simp [(ih.mp he).1], (ih.mp he).2⟩
      · rintro ⟨he, hk⟩
        rcases List.mem_cons.mp he with rfl | he
        · exact absurd h hk
        · exact ih.mpr ⟨he, hk⟩
    · rename_i h
      simp only [List.mem_cons, ih]
      constructor
      · rintro (rfl | ⟨he, hk⟩)
        · exact ⟨.inl rfl, h⟩
        · exact ⟨.inr he, hk⟩
      · rintro ⟨rfl | he, hk⟩
        · exact .inl rfl
        · exact .inr ⟨he, hk⟩

theorem Store.mem_ins {m : Store α} {k : Nat} {v : α} {e : Nat × α} : e ∈ Store.ins m k v ↔ e = (k, v) ∨ e ∈ m := by
  induction m with
  | nil => simp [Store.ins]
  | cons x r ih =>
    simp only [Store.ins]
    split <;> simp [ih]
    constructor
    · rintro (h | h | h) <;> simp [h]
    · rintro (h | h | h) <;> simp [h]

/-- A read of the key just inserted. -/
theorem Store.get_ins_same (d : Nat → α) (m : Store α) (k : Nat) (v : α) (h : ∀ e ∈ m, e.1 ≠ k) :
    Store.get d (Store.ins m k v) k = v := by
  induction m with
  | nil => simp [Store.ins, Store.get]
  | cons x r ih =>
    simp only [Store.ins]
    split
    · simp [Store.get]
    · simp only [Store.get]
      rw [if_neg (h x (by simp)), ih (fun e he => h e (by simp [he]))]

theorem Store.get_ins_other (d : Nat → α) (m : Store α) {k j : Nat} (v : α) (h : j ≠ k) :
    Store.get d (Store.ins m k v) j = Store.get d m j := by
  induction m with
  | nil => simp [Store.ins, Store.get, Ne.symm h]
  | cons x r ih =>
    simp only [Store.ins]
    split
    · simp [Store.get, Ne.symm h]
    · simp only [Store.get, ih]

variable [DecidableEq α]

/-- A read after a write to the same key gives the value written. -/
@[simp] theorem Store.get_put_same (d : Nat → α) (m : Store α) (k : Nat) (v : α) : Store.get d (Store.put d m k v) k = v := by
  simp only [Store.put]
  split
  · rename_i h; rw [Store.get_del_same, h]
  · exact Store.get_ins_same d _ k v fun e he => (Store.mem_del.mp he).2

/-- A write leaves every other key alone. -/
theorem Store.get_put_other (d : Nat → α) (m : Store α) {k j : Nat} (v : α) (h : j ≠ k) :
    Store.get d (Store.put d m k v) j = Store.get d m j := by
  simp only [Store.put]
  split
  · exact Store.get_del_other d m h
  · rw [Store.get_ins_other d _ v h, Store.get_del_other d m h]

theorem Store.wf_cons {d : Nat → α} {a : Nat} {x : α} {r : Store α} :
    Store.wf d ((a, x) :: r) ↔ x ≠ d a ∧ (∀ e ∈ r, a < e.1) ∧ Store.wf d r := by
  simp [Store.wf, Store.wfFrom, and_assoc]

theorem Store.wf_nil (d : Nat → α) : Store.wf d ([] : Store α) := rfl

theorem Store.wf_del {d : Nat → α} {m : Store α} (h : Store.wf d m) (k : Nat) : Store.wf d (Store.del m k) := by
  induction m with
  | nil => exact h
  | cons e r ih =>
    obtain ⟨a, x⟩ := e
    obtain ⟨h1, h2, h3⟩ := Store.wf_cons.mp h
    simp only [Store.del]
    split
    · exact ih h3
    · exact Store.wf_cons.mpr ⟨h1, fun e he => h2 e (Store.mem_del.mp he).1, ih h3⟩

theorem Store.wf_ins {d : Nat → α} {m : Store α} (h : Store.wf d m) {k : Nat} {v : α} (hv : v ≠ d k) (hk : ∀ e ∈ m, e.1 ≠ k) :
    Store.wf d (Store.ins m k v) := by
  induction m with
  | nil => exact Store.wf_cons.mpr ⟨hv, by simp, rfl⟩
  | cons e r ih =>
    obtain ⟨a, x⟩ := e
    obtain ⟨h1, h2, h3⟩ := Store.wf_cons.mp h
    simp only [Store.ins]
    split
    · rename_i hlt
      refine Store.wf_cons.mpr ⟨hv, fun e he => ?_, h⟩
      rcases List.mem_cons.mp he with rfl | he
      · exact hlt
      · exact Nat.lt_trans hlt (h2 e he)
    · rename_i hlt
      refine Store.wf_cons.mpr ⟨h1, fun e he => ?_, ih h3 fun e he => hk e (by simp [he])⟩
      rcases Store.mem_ins.mp he with rfl | he
      · have := hk (a, x) (by simp); simp only at this ⊢; omega
      · exact h2 e he

/-- Every write keeps the canonical form. -/
theorem Store.wf_put {d : Nat → α} {m : Store α} (h : Store.wf d m) (k : Nat) (v : α) : Store.wf d (Store.put d m k v) := by
  simp only [Store.put]
  split
  · exact Store.wf_del h k
  · rename_i hv; exact Store.wf_ins (Store.wf_del h k) hv fun e he => (Store.mem_del.mp he).2

theorem Store.wf_putList {d : Nat → α} (vs : List α) : ∀ {m : Store α}, Store.wf d m → ∀ k, Store.wf d (Store.putList d m k vs) := by
  induction vs with
  | nil => intro m h k; exact h
  | cons v vs ih => intro m h k; exact ih (Store.wf_put h k v) (k + 1)

/-- Entries left out keep the canonical form. -/
theorem Store.wf_filter {d : Nat → α} {m : Store α} (h : Store.wf d m) (p : Nat × α → Bool) : Store.wf d (m.filter p) := by
  induction m with
  | nil => exact h
  | cons e r ih =>
    obtain ⟨a, x⟩ := e
    obtain ⟨h1, h2, h3⟩ := Store.wf_cons.mp h
    simp only [List.filter]
    split
    · exact Store.wf_cons.mpr ⟨h1, fun e he => h2 e (List.mem_filter.mp he).1, ih h3⟩
    · exact ih h3

theorem Store.wf_keep {d : Nat → α} {m : Store α} (h : Store.wf d m) (p : Nat → Bool) : Store.wf d (Store.keep m p) :=
  Store.wf_filter h _

theorem Store.wf_foldl_put {d : Nat → α} (l : List (Nat × α)) :
    ∀ {m : Store α}, Store.wf d m → Store.wf d (l.foldl (fun m (e : Nat × α) => Store.put d m e.1 e.2) m) := by
  induction l with
  | nil => intro m h; exact h
  | cons e l ih => intro m h; exact ih (Store.wf_put h e.1 e.2)

/-- Keys outside a run of consecutive writes keep their values. -/
theorem Store.get_putList_other (d : Nat → α) (vs : List α) : ∀ (m : Store α) (k j : Nat), (j < k ∨ k + vs.length ≤ j) →
    Store.get d (Store.putList d m k vs) j = Store.get d m j := by
  induction vs with
  | nil => intro m k j _; rfl
  | cons v vs ih =>
    intro m k j h
    simp only [List.length_cons] at h
    rw [Store.putList, ih _ _ _ (by omega), Store.get_put_other d m v (by omega)]

/-- A run of consecutive writes reads back. -/
theorem Store.getList_putList (d : Nat → α) (vs : List α) : ∀ (m : Store α) (k : Nat),
    Store.getList d (Store.putList d m k vs) k vs.length = vs := by
  induction vs with
  | nil => intro m k; rfl
  | cons v vs ih =>
    intro m k
    simp only [List.length_cons, Store.getList, Store.putList, List.cons.injEq]
    refine ⟨?_, ih _ _⟩
    rw [Store.get_putList_other d vs _ _ _ (by omega), Store.get_put_same]

end Sys2Proof.Machine
end

