-- ==== Sys2Proof/Laws/State.lean ====
section
/-! SUPPORT. What each update of State leaves and sets: one lemma per field per update, and the laws of reading a register field
after a write. -/

namespace Sys2Proof.Machine

/-! ### Words and fields -/

theorem bitsOf_lt (x lo wid : Nat) : bitsOf x lo wid < 2 ^ wid := Nat.mod_lt _ (Nat.two_pow_pos wid)

theorem bitsOf_mod (x lo wid : Nat) : bitsOf x lo wid % 2 ^ wid = bitsOf x lo wid := Nat.mod_mod _ _

/-- A number as the bits above a field, the field, and the bits below it. -/
theorem bitsOf_split (x lo wid : Nat) :
    x = x / 2 ^ (lo + wid) * 2 ^ (lo + wid) + bitsOf x lo wid * 2 ^ lo + x % 2 ^ lo := by
  have h1 := Nat.div_add_mod x (2 ^ lo)
  have h2 := Nat.div_add_mod (x / 2 ^ lo) (2 ^ wid)
  rw [Nat.div_div_eq_div_mul, ← pow_add] at h2
  unfold bitsOf
  calc x = 2 ^ lo * (x / 2 ^ lo) + x % 2 ^ lo := h1.symm
    _ = 2 ^ lo * (2 ^ wid * (x / 2 ^ (lo + wid)) + x / 2 ^ lo % 2 ^ wid) + x % 2 ^ lo := by rw [h2]
    _ = _ := by rw [pow_add]; ring

theorem withBits_eq (x lo wid v : Nat) :
    withBits x lo wid v = x / 2 ^ (lo + wid) * 2 ^ (lo + wid) + v % 2 ^ wid * 2 ^ lo + x % 2 ^ lo := by
  have h := bitsOf_split x lo wid
  unfold withBits
  generalize x / 2 ^ (lo + wid) * 2 ^ (lo + wid) = a at *
  generalize bitsOf x lo wid * 2 ^ lo = b at *
  generalize v % 2 ^ wid * 2 ^ lo = c at *
  omega

theorem withBits_lt {x lo wid v n : Nat} (hx : x < 2 ^ n) (hf : lo + wid ≤ n) : withBits x lo wid v < 2 ^ n := by
  rw [withBits_eq]
  obtain ⟨k, rfl⟩ := Nat.exists_eq_add_of_le hf
  have h1 : x / 2 ^ (lo + wid) < 2 ^ k := by
    rw [Nat.div_lt_iff_lt_mul (Nat.two_pow_pos _), ← pow_add, Nat.add_comm k]; exact hx
  have h2 : v % 2 ^ wid < 2 ^ wid := Nat.mod_lt _ (Nat.two_pow_pos _)
  have h3 : x % 2 ^ lo < 2 ^ lo := Nat.mod_lt _ (Nat.two_pow_pos _)
  have h4 : v % 2 ^ wid * 2 ^ lo + x % 2 ^ lo < 2 ^ (lo + wid) := by
    calc _ < v % 2 ^ wid * 2 ^ lo + 2 ^ lo := by omega
      _ = (v % 2 ^ wid + 1) * 2 ^ lo := by ring
      _ ≤ 2 ^ wid * 2 ^ lo := Nat.mul_le_mul_right _ h2
      _ = 2 ^ (lo + wid) := by rw [pow_add]; ring
  calc _ < x / 2 ^ (lo + wid) * 2 ^ (lo + wid) + 2 ^ (lo + wid) := by omega
    _ = (x / 2 ^ (lo + wid) + 1) * 2 ^ (lo + wid) := by ring
    _ ≤ 2 ^ k * 2 ^ (lo + wid) := Nat.mul_le_mul_right _ h1
    _ = 2 ^ (lo + wid + k) := by rw [pow_add _ (lo + wid) k]; ring

theorem bitsOf_withBits_same (x lo wid v : Nat) : bitsOf (withBits x lo wid v) lo wid = v % 2 ^ wid := by
  have h3 : x % 2 ^ lo < 2 ^ lo := Nat.mod_lt _ (Nat.two_pow_pos _)
  rw [withBits_eq, bitsOf]
  have e : x / 2 ^ (lo + wid) * 2 ^ (lo + wid) + v % 2 ^ wid * 2 ^ lo + x % 2 ^ lo =
      x % 2 ^ lo + (x / 2 ^ (lo + wid) * 2 ^ wid + v % 2 ^ wid) * 2 ^ lo := by rw [pow_add]; ring
  rw [e, Nat.add_mul_div_right _ _ (Nat.two_pow_pos _), Nat.div_eq_of_lt h3, Nat.zero_add, Nat.mul_add_mod_self_right, Nat.mod_mod]

/-- A field written with its own value. -/
theorem withBits_self (x lo wid : Nat) : withBits x lo wid (bitsOf x lo wid) = x := by
  rw [withBits_eq, bitsOf_mod]; exact (bitsOf_split x lo wid).symm

theorem bitsOf_eq_testBit (x lo wid i : Nat) : (bitsOf x lo wid).testBit i = (decide (i < wid) && x.testBit (lo + i)) := by
  rw [bitsOf, Nat.testBit_mod_two_pow, Nat.testBit_div_two_pow, Nat.add_comm i lo]

theorem withBits_testBit (x lo wid v i : Nat) : (withBits x lo wid v).testBit i =
    if i < lo then x.testBit i else if i < lo + wid then v.testBit (i - lo) else x.testBit i := by
  have h3 : x % 2 ^ lo < 2 ^ lo := Nat.mod_lt _ (Nat.two_pow_pos _)
  have h4 : v % 2 ^ wid * 2 ^ lo + x % 2 ^ lo < 2 ^ (lo + wid) := by
    have h2 : v % 2 ^ wid < 2 ^ wid := Nat.mod_lt _ (Nat.two_pow_pos _)
    calc _ < v % 2 ^ wid * 2 ^ lo + 2 ^ lo := by omega
      _ = (v % 2 ^ wid + 1) * 2 ^ lo := by ring
      _ ≤ 2 ^ wid * 2 ^ lo := Nat.mul_le_mul_right _ h2
      _ = 2 ^ (lo + wid) := by rw [pow_add]; ring
  rw [withBits_eq, Nat.add_assoc, Nat.mul_comm, Nat.testBit_two_pow_mul_add _ h4, Nat.mul_comm,
    Nat.testBit_two_pow_mul_add _ h3, Nat.testBit_mod_two_pow, Nat.testBit_mod_two_pow, Nat.testBit_div_two_pow]
  by_cases h : i < lo
  · have : i < lo + wid := by omega
    simp [h, this]
  · by_cases h' : i < lo + wid
    · have : i - lo < wid := by omega
      simp [h, h', this]
    · have : i - (lo + wid) + (lo + wid) = i := by omega
      simp [h, h', this]

theorem bitsOf_withBits_disjoint (x : Nat) {lo wid lo' wid' : Nat} (v : Nat) (h : lo' + wid' ≤ lo ∨ lo + wid ≤ lo') :
    bitsOf (withBits x lo wid v) lo' wid' = bitsOf x lo' wid' := by
  apply Nat.eq_of_testBit_eq
  intro i
  rw [bitsOf_eq_testBit, bitsOf_eq_testBit, withBits_testBit]
  by_cases hi : i < wid'
  · rcases h with h | h
    · have : lo' + i < lo := by omega
      simp [this]
    · have h1 : ¬ lo' + i < lo := by omega
      have h2 : ¬ lo' + i < lo + wid := by omega
      simp [h1, h2]
  · simp [hi]

/-! ### Registers -/

@[simp] theorem State.rd_wr_same (s : State) (a : Nat) (v : Word) : (s.wr a v).rd a = v := Store.get_put_same _ _ _ _

theorem State.rd_wr_other (s : State) {a b : Nat} (v : Word) (h : b ≠ a) : (s.wr a v).rd b = s.rd b := Store.get_put_other _ _ _ h

theorem Word.toNat_upd (w : Word) {lo wid : Nat} (v : Nat) (h : lo + wid ≤ 72) : (Word.upd w lo wid v).toNat = withBits w.toNat lo wid v := by
  rw [Word.upd, BitVec.toNat_ofNat, Nat.mod_eq_of_lt (withBits_lt w.isLt h)]

/-- A field reads as the value written, modulo its width. -/
theorem State.get_put_same (s : State) {f : RF} (v : Nat) (h : f.lo + f.wid ≤ 72) : (s.put f v).get f = v % 2 ^ f.wid := by
  rw [State.get, State.put, State.rd_wr_same, Word.bits, Word.toNat_upd _ _ h, bitsOf_withBits_same]

/-- A field of another slot keeps its value. -/
theorem State.get_put_other (s : State) {f g : RF} (v : Nat) (h : g.addr ≠ f.addr) : (s.put f v).get g = s.get g := by
  rw [State.get, State.put, State.rd_wr_other _ _ h, State.get]

/-- A field of the same slot that shares no bit keeps its value. -/
theorem State.get_put_disjoint (s : State) {f g : RF} (v : Nat) (ha : g.addr = f.addr) (h : f.lo + f.wid ≤ 72)
    (hb : g.lo + g.wid ≤ f.lo ∨ f.lo + f.wid ≤ g.lo) : (s.put f v).get g = s.get g := by
  rw [State.get, State.put, ha, State.rd_wr_same, Word.bits, Word.toNat_upd _ _ h, bitsOf_withBits_disjoint _ _ hb, State.get, Word.bits, ha]

theorem State.get_lt (s : State) (f : RF) : s.get f < 2 ^ f.wid := bitsOf_lt _ _ _

theorem State.get_raise_same (s : State) {f : RF} (h : f.lo + f.wid ≤ 72) (hw : 0 < f.wid) : (s.raise f).get f = 1 := by
  rw [State.raise, State.get_put_same s 1 h, Nat.mod_eq_of_lt (Nat.one_lt_two_pow (by omega))]

theorem State.get_bump_same (s : State) {f : RF} (h : f.lo + f.wid ≤ 72) :
    (s.bump f).get f = min (2 ^ f.wid - 1) (s.get f + 1) := by
  rw [State.bump, State.bumpBy, State.get_put_same _ _ h, Nat.mod_eq_of_lt]
  have := Nat.two_pow_pos f.wid
  omega

/-! ### `wr` writes one slot -/

@[simp] theorem State.wr_part (s : State) (a : Nat) (v : Word) : (s.wr a v).part = s.part := (rfl)
@[simp] theorem State.wr_pending (s : State) (a : Nat) (v : Word) : (s.wr a v).pending = s.pending := (rfl)
@[simp] theorem State.wr_now (s : State) (a : Nat) (v : Word) : (s.wr a v).now = s.now := (rfl)
@[simp] theorem State.wr_draws (s : State) (a : Nat) (v : Word) : (s.wr a v).draws = s.draws := (rfl)
@[simp] theorem State.wr_dram (s : State) (a : Nat) (v : Word) : (s.wr a v).dram = s.dram := (rfl)
@[simp] theorem State.wr_mirrors (s : State) (a : Nat) (v : Word) : (s.wr a v).mirrors = s.mirrors := (rfl)
@[simp] theorem State.wr_flash (s : State) (a : Nat) (v : Word) : (s.wr a v).flash = s.flash := (rfl)
@[simp] theorem State.wr_out (s : State) (a : Nat) (v : Word) : (s.wr a v).out = s.out := (rfl)
@[simp] theorem State.wr_evts (s : State) (a : Nat) (v : Word) : (s.wr a v).evts = s.evts := (rfl)
@[simp] theorem State.wr_evtLost (s : State) (a : Nat) (v : Word) : (s.wr a v).evtLost = s.evtLost := (rfl)
@[simp] theorem State.wr_units (s : State) (a : Nat) (v : Word) : (s.wr a v).units = s.units := (rfl)
@[simp] theorem State.wr_rings (s : State) (a : Nat) (v : Word) : (s.wr a v).rings = s.rings := (rfl)
@[simp] theorem State.wr_ports (s : State) (a : Nat) (v : Word) : (s.wr a v).ports = s.ports := (rfl)
@[simp] theorem State.wr_lands (s : State) (a : Nat) (v : Word) : (s.wr a v).lands = s.lands := (rfl)
@[simp] theorem State.wr_rg (s : State) (a : Nat) (v : Word) : (s.wr a v).rg = s.rg := (rfl)
@[simp] theorem State.wr_sec (s : State) (a : Nat) (v : Word) : (s.wr a v).sec = s.sec := (rfl)
@[simp] theorem State.wr_nvm (s : State) (a : Nat) (v : Word) : (s.wr a v).nvm = s.nvm := (rfl)
@[simp] theorem State.wr_rsc (s : State) (a : Nat) (v : Word) : (s.wr a v).rsc = s.rsc := (rfl)
@[simp] theorem State.wr_te (s : State) (a : Nat) (v : Word) : (s.wr a v).te = s.te := (rfl)
@[simp] theorem State.wr_pwr (s : State) (a : Nat) (v : Word) : (s.wr a v).pwr = s.pwr := (rfl)
@[simp] theorem State.wr_flt (s : State) (a : Nat) (v : Word) : (s.wr a v).flt = s.flt := (rfl)
@[simp] theorem State.wr_pkf (s : State) (a : Nat) (v : Word) : (s.wr a v).pkf = s.pkf := (rfl)
@[simp] theorem State.wr_chains (s : State) (a : Nat) (v : Word) : (s.wr a v).chains = s.chains := (rfl)
@[simp] theorem State.wr_ctes (s : State) (a : Nat) (v : Word) : (s.wr a v).ctes = s.ctes := (rfl)
@[simp] theorem State.wr_inbox (s : State) (a : Nat) (v : Word) : (s.wr a v).inbox = s.inbox := (rfl)
@[simp] theorem State.wr_ings (s : State) (a : Nat) (v : Word) : (s.wr a v).ings = s.ings := (rfl)
@[simp] theorem State.wr_dfus (s : State) (a : Nat) (v : Word) : (s.wr a v).dfus = s.dfus := (rfl)
@[simp] theorem State.wr_acus (s : State) (a : Nat) (v : Word) : (s.wr a v).acus = s.acus := (rfl)
@[simp] theorem State.wr_acc (s : State) (a : Nat) (v : Word) : (s.wr a v).acc = s.acc := (rfl)
@[simp] theorem State.wr_fcs (s : State) (a : Nat) (v : Word) : (s.wr a v).fcs = s.fcs := (rfl)
@[simp] theorem State.wr_gals (s : State) (a : Nat) (v : Word) : (s.wr a v).gals = s.gals := (rfl)
@[simp] theorem State.wr_leds (s : State) (a : Nat) (v : Word) : (s.wr a v).leds = s.leds := (rfl)
@[simp] theorem State.wr_bes (s : State) (a : Nat) (v : Word) : (s.wr a v).bes = s.bes := (rfl)
@[simp] theorem State.wr_aside (s : State) (a : Nat) (v : Word) : (s.wr a v).aside = s.aside := (rfl)
@[simp] theorem State.wr_asidePkg (s : State) (a : Nat) (v : Word) : (s.wr a v).asidePkg = s.asidePkg := (rfl)
@[simp] theorem State.wr_drcs (s : State) (a : Nat) (v : Word) : (s.wr a v).drcs = s.drcs := (rfl)
@[simp] theorem State.wr_training (s : State) (a : Nat) (v : Word) : (s.wr a v).training = s.training := (rfl)
@[simp] theorem State.wr_fabs (s : State) (a : Nat) (v : Word) : (s.wr a v).fabs = s.fabs := (rfl)
@[simp] theorem State.wr_dmas (s : State) (a : Nat) (v : Word) : (s.wr a v).dmas = s.dmas := (rfl)
@[simp] theorem State.wr_scratch (s : State) (a : Nat) (v : Word) : (s.wr a v).scratch = s.scratch := (rfl)
@[simp] theorem State.wr_wraps (s : State) (a : Nat) (v : Word) : (s.wr a v).wraps = s.wraps := (rfl)
@[simp] theorem State.wr_snaps (s : State) (a : Nat) (v : Word) : (s.wr a v).snaps = s.snaps := (rfl)
@[simp] theorem State.wr_csvs (s : State) (a : Nat) (v : Word) : (s.wr a v).csvs = s.csvs := (rfl)
@[simp] theorem State.wr_csvNext (s : State) (a : Nat) (v : Word) : (s.wr a v).csvNext = s.csvNext := (rfl)
@[simp] theorem State.wr_csvGen (s : State) (a : Nat) (v : Word) : (s.wr a v).csvGen = s.csvGen := (rfl)
@[simp] theorem State.wr_temps (s : State) (a : Nat) (v : Word) : (s.wr a v).temps = s.temps := (rfl)
@[simp] theorem State.wr_telAt (s : State) (a : Nat) (v : Word) : (s.wr a v).telAt = s.telAt := (rfl)
@[simp] theorem State.wr_timers (s : State) (a : Nat) (v : Word) : (s.wr a v).timers = s.timers := (rfl)
@[simp] theorem State.wr_workT (s : State) (a : Nat) (v : Word) : (s.wr a v).workT = s.workT := (rfl)
@[simp] theorem State.wr_workAt (s : State) (a : Nat) (v : Word) : (s.wr a v).workAt = s.workAt := (rfl)

/-! ### `put` writes one slot -/

@[simp] theorem State.put_part (s : State) (f : RF) (v : Nat) : (s.put f v).part = s.part := (rfl)
@[simp] theorem State.put_pending (s : State) (f : RF) (v : Nat) : (s.put f v).pending = s.pending := (rfl)
@[simp] theorem State.put_now (s : State) (f : RF) (v : Nat) : (s.put f v).now = s.now := (rfl)
@[simp] theorem State.put_draws (s : State) (f : RF) (v : Nat) : (s.put f v).draws = s.draws := (rfl)
@[simp] theorem State.put_dram (s : State) (f : RF) (v : Nat) : (s.put f v).dram = s.dram := (rfl)
@[simp] theorem State.put_mirrors (s : State) (f : RF) (v : Nat) : (s.put f v).mirrors = s.mirrors := (rfl)
@[simp] theorem State.put_flash (s : State) (f : RF) (v : Nat) : (s.put f v).flash = s.flash := (rfl)
@[simp] theorem State.put_out (s : State) (f : RF) (v : Nat) : (s.put f v).out = s.out := (rfl)
@[simp] theorem State.put_evts (s : State) (f : RF) (v : Nat) : (s.put f v).evts = s.evts := (rfl)
@[simp] theorem State.put_evtLost (s : State) (f : RF) (v : Nat) : (s.put f v).evtLost = s.evtLost := (rfl)
@[simp] theorem State.put_units (s : State) (f : RF) (v : Nat) : (s.put f v).units = s.units := (rfl)
@[simp] theorem State.put_rings (s : State) (f : RF) (v : Nat) : (s.put f v).rings = s.rings := (rfl)
@[simp] theorem State.put_ports (s : State) (f : RF) (v : Nat) : (s.put f v).ports = s.ports := (rfl)
@[simp] theorem State.put_lands (s : State) (f : RF) (v : Nat) : (s.put f v).lands = s.lands := (rfl)
@[simp] theorem State.put_rg (s : State) (f : RF) (v : Nat) : (s.put f v).rg = s.rg := (rfl)
@[simp] theorem State.put_sec (s : State) (f : RF) (v : Nat) : (s.put f v).sec = s.sec := (rfl)
@[simp] theorem State.put_nvm (s : State) (f : RF) (v : Nat) : (s.put f v).nvm = s.nvm := (rfl)
@[simp] theorem State.put_rsc (s : State) (f : RF) (v : Nat) : (s.put f v).rsc = s.rsc := (rfl)
@[simp] theorem State.put_te (s : State) (f : RF) (v : Nat) : (s.put f v).te = s.te := (rfl)
@[simp] theorem State.put_pwr (s : State) (f : RF) (v : Nat) : (s.put f v).pwr = s.pwr := (rfl)
@[simp] theorem State.put_flt (s : State) (f : RF) (v : Nat) : (s.put f v).flt = s.flt := (rfl)
@[simp] theorem State.put_pkf (s : State) (f : RF) (v : Nat) : (s.put f v).pkf = s.pkf := (rfl)
@[simp] theorem State.put_chains (s : State) (f : RF) (v : Nat) : (s.put f v).chains = s.chains := (rfl)
@[simp] theorem State.put_ctes (s : State) (f : RF) (v : Nat) : (s.put f v).ctes = s.ctes := (rfl)
@[simp] theorem State.put_inbox (s : State) (f : RF) (v : Nat) : (s.put f v).inbox = s.inbox := (rfl)
@[simp] theorem State.put_ings (s : State) (f : RF) (v : Nat) : (s.put f v).ings = s.ings := (rfl)
@[simp] theorem State.put_dfus (s : State) (f : RF) (v : Nat) : (s.put f v).dfus = s.dfus := (rfl)
@[simp] theorem State.put_acus (s : State) (f : RF) (v : Nat) : (s.put f v).acus = s.acus := (rfl)
@[simp] theorem State.put_acc (s : State) (f : RF) (v : Nat) : (s.put f v).acc = s.acc := (rfl)
@[simp] theorem State.put_fcs (s : State) (f : RF) (v : Nat) : (s.put f v).fcs = s.fcs := (rfl)
@[simp] theorem State.put_gals (s : State) (f : RF) (v : Nat) : (s.put f v).gals = s.gals := (rfl)
@[simp] theorem State.put_leds (s : State) (f : RF) (v : Nat) : (s.put f v).leds = s.leds := (rfl)
@[simp] theorem State.put_bes (s : State) (f : RF) (v : Nat) : (s.put f v).bes = s.bes := (rfl)
@[simp] theorem State.put_aside (s : State) (f : RF) (v : Nat) : (s.put f v).aside = s.aside := (rfl)
@[simp] theorem State.put_asidePkg (s : State) (f : RF) (v : Nat) : (s.put f v).asidePkg = s.asidePkg := (rfl)
@[simp] theorem State.put_drcs (s : State) (f : RF) (v : Nat) : (s.put f v).drcs = s.drcs := (rfl)
@[simp] theorem State.put_training (s : State) (f : RF) (v : Nat) : (s.put f v).training = s.training := (rfl)
@[simp] theorem State.put_fabs (s : State) (f : RF) (v : Nat) : (s.put f v).fabs = s.fabs := (rfl)
@[simp] theorem State.put_dmas (s : State) (f : RF) (v : Nat) : (s.put f v).dmas = s.dmas := (rfl)
@[simp] theorem State.put_scratch (s : State) (f : RF) (v : Nat) : (s.put f v).scratch = s.scratch := (rfl)
@[simp] theorem State.put_wraps (s : State) (f : RF) (v : Nat) : (s.put f v).wraps = s.wraps := (rfl)
@[simp] theorem State.put_snaps (s : State) (f : RF) (v : Nat) : (s.put f v).snaps = s.snaps := (rfl)
@[simp] theorem State.put_csvs (s : State) (f : RF) (v : Nat) : (s.put f v).csvs = s.csvs := (rfl)
@[simp] theorem State.put_csvNext (s : State) (f : RF) (v : Nat) : (s.put f v).csvNext = s.csvNext := (rfl)
@[simp] theorem State.put_csvGen (s : State) (f : RF) (v : Nat) : (s.put f v).csvGen = s.csvGen := (rfl)
@[simp] theorem State.put_temps (s : State) (f : RF) (v : Nat) : (s.put f v).temps = s.temps := (rfl)
@[simp] theorem State.put_telAt (s : State) (f : RF) (v : Nat) : (s.put f v).telAt = s.telAt := (rfl)
@[simp] theorem State.put_timers (s : State) (f : RF) (v : Nat) : (s.put f v).timers = s.timers := (rfl)
@[simp] theorem State.put_workT (s : State) (f : RF) (v : Nat) : (s.put f v).workT = s.workT := (rfl)
@[simp] theorem State.put_workAt (s : State) (f : RF) (v : Nat) : (s.put f v).workAt = s.workAt := (rfl)

/-! ### `putI` writes one slot -/

@[simp] theorem State.putI_part (s : State) (f : RF) (v : Int) : (s.putI f v).part = s.part := (rfl)
@[simp] theorem State.putI_pending (s : State) (f : RF) (v : Int) : (s.putI f v).pending = s.pending := (rfl)
@[simp] theorem State.putI_now (s : State) (f : RF) (v : Int) : (s.putI f v).now = s.now := (rfl)
@[simp] theorem State.putI_draws (s : State) (f : RF) (v : Int) : (s.putI f v).draws = s.draws := (rfl)
@[simp] theorem State.putI_dram (s : State) (f : RF) (v : Int) : (s.putI f v).dram = s.dram := (rfl)
@[simp] theorem State.putI_mirrors (s : State) (f : RF) (v : Int) : (s.putI f v).mirrors = s.mirrors := (rfl)
@[simp] theorem State.putI_flash (s : State) (f : RF) (v : Int) : (s.putI f v).flash = s.flash := (rfl)
@[simp] theorem State.putI_out (s : State) (f : RF) (v : Int) : (s.putI f v).out = s.out := (rfl)
@[simp] theorem State.putI_evts (s : State) (f : RF) (v : Int) : (s.putI f v).evts = s.evts := (rfl)
@[simp] theorem State.putI_evtLost (s : State) (f : RF) (v : Int) : (s.putI f v).evtLost = s.evtLost := (rfl)
@[simp] theorem State.putI_units (s : State) (f : RF) (v : Int) : (s.putI f v).units = s.units := (rfl)
@[simp] theorem State.putI_rings (s : State) (f : RF) (v : Int) : (s.putI f v).rings = s.rings := (rfl)
@[simp] theorem State.putI_ports (s : State) (f : RF) (v : Int) : (s.putI f v).ports = s.ports := (rfl)
@[simp] theorem State.putI_lands (s : State) (f : RF) (v : Int) : (s.putI f v).lands = s.lands := (rfl)
@[simp] theorem State.putI_rg (s : State) (f : RF) (v : Int) : (s.putI f v).rg = s.rg := (rfl)
@[simp] theorem State.putI_sec (s : State) (f : RF) (v : Int) : (s.putI f v).sec = s.sec := (rfl)
@[simp] theorem State.putI_nvm (s : State) (f : RF) (v : Int) : (s.putI f v).nvm = s.nvm := (rfl)
@[simp] theorem State.putI_rsc (s : State) (f : RF) (v : Int) : (s.putI f v).rsc = s.rsc := (rfl)
@[simp] theorem State.putI_te (s : State) (f : RF) (v : Int) : (s.putI f v).te = s.te := (rfl)
@[simp] theorem State.putI_pwr (s : State) (f : RF) (v : Int) : (s.putI f v).pwr = s.pwr := (rfl)
@[simp] theorem State.putI_flt (s : State) (f : RF) (v : Int) : (s.putI f v).flt = s.flt := (rfl)
@[simp] theorem State.putI_pkf (s : State) (f : RF) (v : Int) : (s.putI f v).pkf = s.pkf := (rfl)
@[simp] theorem State.putI_chains (s : State) (f : RF) (v : Int) : (s.putI f v).chains = s.chains := (rfl)
@[simp] theorem State.putI_ctes (s : State) (f : RF) (v : Int) : (s.putI f v).ctes = s.ctes := (rfl)
@[simp] theorem State.putI_inbox (s : State) (f : RF) (v : Int) : (s.putI f v).inbox = s.inbox := (rfl)
@[simp] theorem State.putI_ings (s : State) (f : RF) (v : Int) : (s.putI f v).ings = s.ings := (rfl)
@[simp] theorem State.putI_dfus (s : State) (f : RF) (v : Int) : (s.putI f v).dfus = s.dfus := (rfl)
@[simp] theorem State.putI_acus (s : State) (f : RF) (v : Int) : (s.putI f v).acus = s.acus := (rfl)
@[simp] theorem State.putI_acc (s : State) (f : RF) (v : Int) : (s.putI f v).acc = s.acc := (rfl)
@[simp] theorem State.putI_fcs (s : State) (f : RF) (v : Int) : (s.putI f v).fcs = s.fcs := (rfl)
@[simp] theorem State.putI_gals (s : State) (f : RF) (v : Int) : (s.putI f v).gals = s.gals := (rfl)
@[simp] theorem State.putI_leds (s : State) (f : RF) (v : Int) : (s.putI f v).leds = s.leds := (rfl)
@[simp] theorem State.putI_bes (s : State) (f : RF) (v : Int) : (s.putI f v).bes = s.bes := (rfl)
@[simp] theorem State.putI_aside (s : State) (f : RF) (v : Int) : (s.putI f v).aside = s.aside := (rfl)
@[simp] theorem State.putI_asidePkg (s : State) (f : RF) (v : Int) : (s.putI f v).asidePkg = s.asidePkg := (rfl)
@[simp] theorem State.putI_drcs (s : State) (f : RF) (v : Int) : (s.putI f v).drcs = s.drcs := (rfl)
@[simp] theorem State.putI_training (s : State) (f : RF) (v : Int) : (s.putI f v).training = s.training := (rfl)
@[simp] theorem State.putI_fabs (s : State) (f : RF) (v : Int) : (s.putI f v).fabs = s.fabs := (rfl)
@[simp] theorem State.putI_dmas (s : State) (f : RF) (v : Int) : (s.putI f v).dmas = s.dmas := (rfl)
@[simp] theorem State.putI_scratch (s : State) (f : RF) (v : Int) : (s.putI f v).scratch = s.scratch := (rfl)
@[simp] theorem State.putI_wraps (s : State) (f : RF) (v : Int) : (s.putI f v).wraps = s.wraps := (rfl)
@[simp] theorem State.putI_snaps (s : State) (f : RF) (v : Int) : (s.putI f v).snaps = s.snaps := (rfl)
@[simp] theorem State.putI_csvs (s : State) (f : RF) (v : Int) : (s.putI f v).csvs = s.csvs := (rfl)
@[simp] theorem State.putI_csvNext (s : State) (f : RF) (v : Int) : (s.putI f v).csvNext = s.csvNext := (rfl)
@[simp] theorem State.putI_csvGen (s : State) (f : RF) (v : Int) : (s.putI f v).csvGen = s.csvGen := (rfl)
@[simp] theorem State.putI_temps (s : State) (f : RF) (v : Int) : (s.putI f v).temps = s.temps := (rfl)
@[simp] theorem State.putI_telAt (s : State) (f : RF) (v : Int) : (s.putI f v).telAt = s.telAt := (rfl)
@[simp] theorem State.putI_timers (s : State) (f : RF) (v : Int) : (s.putI f v).timers = s.timers := (rfl)
@[simp] theorem State.putI_workT (s : State) (f : RF) (v : Int) : (s.putI f v).workT = s.workT := (rfl)
@[simp] theorem State.putI_workAt (s : State) (f : RF) (v : Int) : (s.putI f v).workAt = s.workAt := (rfl)

/-! ### `bumpBy` writes one slot -/

@[simp] theorem State.bumpBy_part (s : State) (f : RF) (n : Nat) : (s.bumpBy f n).part = s.part := (rfl)
@[simp] theorem State.bumpBy_pending (s : State) (f : RF) (n : Nat) : (s.bumpBy f n).pending = s.pending := (rfl)
@[simp] theorem State.bumpBy_now (s : State) (f : RF) (n : Nat) : (s.bumpBy f n).now = s.now := (rfl)
@[simp] theorem State.bumpBy_draws (s : State) (f : RF) (n : Nat) : (s.bumpBy f n).draws = s.draws := (rfl)
@[simp] theorem State.bumpBy_dram (s : State) (f : RF) (n : Nat) : (s.bumpBy f n).dram = s.dram := (rfl)
@[simp] theorem State.bumpBy_mirrors (s : State) (f : RF) (n : Nat) : (s.bumpBy f n).mirrors = s.mirrors := (rfl)
@[simp] theorem State.bumpBy_flash (s : State) (f : RF) (n : Nat) : (s.bumpBy f n).flash = s.flash := (rfl)
@[simp] theorem State.bumpBy_out (s : State) (f : RF) (n : Nat) : (s.bumpBy f n).out = s.out := (rfl)
@[simp] theorem State.bumpBy_evts (s : State) (f : RF) (n : Nat) : (s.bumpBy f n).evts = s.evts := (rfl)
@[simp] theorem State.bumpBy_evtLost (s : State) (f : RF) (n : Nat) : (s.bumpBy f n).evtLost = s.evtLost := (rfl)
@[simp] theorem State.bumpBy_units (s : State) (f : RF) (n : Nat) : (s.bumpBy f n).units = s.units := (rfl)
@[simp] theorem State.bumpBy_rings (s : State) (f : RF) (n : Nat) : (s.bumpBy f n).rings = s.rings := (rfl)
@[simp] theorem State.bumpBy_ports (s : State) (f : RF) (n : Nat) : (s.bumpBy f n).ports = s.ports := (rfl)
@[simp] theorem State.bumpBy_lands (s : State) (f : RF) (n : Nat) : (s.bumpBy f n).lands = s.lands := (rfl)
@[simp] theorem State.bumpBy_rg (s : State) (f : RF) (n : Nat) : (s.bumpBy f n).rg = s.rg := (rfl)
@[simp] theorem State.bumpBy_sec (s : State) (f : RF) (n : Nat) : (s.bumpBy f n).sec = s.sec := (rfl)
@[simp] theorem State.bumpBy_nvm (s : State) (f : RF) (n : Nat) : (s.bumpBy f n).nvm = s.nvm := (rfl)
@[simp] theorem State.bumpBy_rsc (s : State) (f : RF) (n : Nat) : (s.bumpBy f n).rsc = s.rsc := (rfl)
@[simp] theorem State.bumpBy_te (s : State) (f : RF) (n : Nat) : (s.bumpBy f n).te = s.te := (rfl)
@[simp] theorem State.bumpBy_pwr (s : State) (f : RF) (n : Nat) : (s.bumpBy f n).pwr = s.pwr := (rfl)
@[simp] theorem State.bumpBy_flt (s : State) (f : RF) (n : Nat) : (s.bumpBy f n).flt = s.flt := (rfl)
@[simp] theorem State.bumpBy_pkf (s : State) (f : RF) (n : Nat) : (s.bumpBy f n).pkf = s.pkf := (rfl)
@[simp] theorem State.bumpBy_chains (s : State) (f : RF) (n : Nat) : (s.bumpBy f n).chains = s.chains := (rfl)
@[simp] theorem State.bumpBy_ctes (s : State) (f : RF) (n : Nat) : (s.bumpBy f n).ctes = s.ctes := (rfl)
@[simp] theorem State.bumpBy_inbox (s : State) (f : RF) (n : Nat) : (s.bumpBy f n).inbox = s.inbox := (rfl)
@[simp] theorem State.bumpBy_ings (s : State) (f : RF) (n : Nat) : (s.bumpBy f n).ings = s.ings := (rfl)
@[simp] theorem State.bumpBy_dfus (s : State) (f : RF) (n : Nat) : (s.bumpBy f n).dfus = s.dfus := (rfl)
@[simp] theorem State.bumpBy_acus (s : State) (f : RF) (n : Nat) : (s.bumpBy f n).acus = s.acus := (rfl)
@[simp] theorem State.bumpBy_acc (s : State) (f : RF) (n : Nat) : (s.bumpBy f n).acc = s.acc := (rfl)
@[simp] theorem State.bumpBy_fcs (s : State) (f : RF) (n : Nat) : (s.bumpBy f n).fcs = s.fcs := (rfl)
@[simp] theorem State.bumpBy_gals (s : State) (f : RF) (n : Nat) : (s.bumpBy f n).gals = s.gals := (rfl)
@[simp] theorem State.bumpBy_leds (s : State) (f : RF) (n : Nat) : (s.bumpBy f n).leds = s.leds := (rfl)
@[simp] theorem State.bumpBy_bes (s : State) (f : RF) (n : Nat) : (s.bumpBy f n).bes = s.bes := (rfl)
@[simp] theorem State.bumpBy_aside (s : State) (f : RF) (n : Nat) : (s.bumpBy f n).aside = s.aside := (rfl)
@[simp] theorem State.bumpBy_asidePkg (s : State) (f : RF) (n : Nat) : (s.bumpBy f n).asidePkg = s.asidePkg := (rfl)
@[simp] theorem State.bumpBy_drcs (s : State) (f : RF) (n : Nat) : (s.bumpBy f n).drcs = s.drcs := (rfl)
@[simp] theorem State.bumpBy_training (s : State) (f : RF) (n : Nat) : (s.bumpBy f n).training = s.training := (rfl)
@[simp] theorem State.bumpBy_fabs (s : State) (f : RF) (n : Nat) : (s.bumpBy f n).fabs = s.fabs := (rfl)
@[simp] theorem State.bumpBy_dmas (s : State) (f : RF) (n : Nat) : (s.bumpBy f n).dmas = s.dmas := (rfl)
@[simp] theorem State.bumpBy_scratch (s : State) (f : RF) (n : Nat) : (s.bumpBy f n).scratch = s.scratch := (rfl)
@[simp] theorem State.bumpBy_wraps (s : State) (f : RF) (n : Nat) : (s.bumpBy f n).wraps = s.wraps := (rfl)
@[simp] theorem State.bumpBy_snaps (s : State) (f : RF) (n : Nat) : (s.bumpBy f n).snaps = s.snaps := (rfl)
@[simp] theorem State.bumpBy_csvs (s : State) (f : RF) (n : Nat) : (s.bumpBy f n).csvs = s.csvs := (rfl)
@[simp] theorem State.bumpBy_csvNext (s : State) (f : RF) (n : Nat) : (s.bumpBy f n).csvNext = s.csvNext := (rfl)
@[simp] theorem State.bumpBy_csvGen (s : State) (f : RF) (n : Nat) : (s.bumpBy f n).csvGen = s.csvGen := (rfl)
@[simp] theorem State.bumpBy_temps (s : State) (f : RF) (n : Nat) : (s.bumpBy f n).temps = s.temps := (rfl)
@[simp] theorem State.bumpBy_telAt (s : State) (f : RF) (n : Nat) : (s.bumpBy f n).telAt = s.telAt := (rfl)
@[simp] theorem State.bumpBy_timers (s : State) (f : RF) (n : Nat) : (s.bumpBy f n).timers = s.timers := (rfl)
@[simp] theorem State.bumpBy_workT (s : State) (f : RF) (n : Nat) : (s.bumpBy f n).workT = s.workT := (rfl)
@[simp] theorem State.bumpBy_workAt (s : State) (f : RF) (n : Nat) : (s.bumpBy f n).workAt = s.workAt := (rfl)

/-! ### `bump` writes one slot -/

@[simp] theorem State.bump_part (s : State) (f : RF) : (s.bump f).part = s.part := (rfl)
@[simp] theorem State.bump_pending (s : State) (f : RF) : (s.bump f).pending = s.pending := (rfl)
@[simp] theorem State.bump_now (s : State) (f : RF) : (s.bump f).now = s.now := (rfl)
@[simp] theorem State.bump_draws (s : State) (f : RF) : (s.bump f).draws = s.draws := (rfl)
@[simp] theorem State.bump_dram (s : State) (f : RF) : (s.bump f).dram = s.dram := (rfl)
@[simp] theorem State.bump_mirrors (s : State) (f : RF) : (s.bump f).mirrors = s.mirrors := (rfl)
@[simp] theorem State.bump_flash (s : State) (f : RF) : (s.bump f).flash = s.flash := (rfl)
@[simp] theorem State.bump_out (s : State) (f : RF) : (s.bump f).out = s.out := (rfl)
@[simp] theorem State.bump_evts (s : State) (f : RF) : (s.bump f).evts = s.evts := (rfl)
@[simp] theorem State.bump_evtLost (s : State) (f : RF) : (s.bump f).evtLost = s.evtLost := (rfl)
@[simp] theorem State.bump_units (s : State) (f : RF) : (s.bump f).units = s.units := (rfl)
@[simp] theorem State.bump_rings (s : State) (f : RF) : (s.bump f).rings = s.rings := (rfl)
@[simp] theorem State.bump_ports (s : State) (f : RF) : (s.bump f).ports = s.ports := (rfl)
@[simp] theorem State.bump_lands (s : State) (f : RF) : (s.bump f).lands = s.lands := (rfl)
@[simp] theorem State.bump_rg (s : State) (f : RF) : (s.bump f).rg = s.rg := (rfl)
@[simp] theorem State.bump_sec (s : State) (f : RF) : (s.bump f).sec = s.sec := (rfl)
@[simp] theorem State.bump_nvm (s : State) (f : RF) : (s.bump f).nvm = s.nvm := (rfl)
@[simp] theorem State.bump_rsc (s : State) (f : RF) : (s.bump f).rsc = s.rsc := (rfl)
@[simp] theorem State.bump_te (s : State) (f : RF) : (s.bump f).te = s.te := (rfl)
@[simp] theorem State.bump_pwr (s : State) (f : RF) : (s.bump f).pwr = s.pwr := (rfl)
@[simp] theorem State.bump_flt (s : State) (f : RF) : (s.bump f).flt = s.flt := (rfl)
@[simp] theorem State.bump_pkf (s : State) (f : RF) : (s.bump f).pkf = s.pkf := (rfl)
@[simp] theorem State.bump_chains (s : State) (f : RF) : (s.bump f).chains = s.chains := (rfl)
@[simp] theorem State.bump_ctes (s : State) (f : RF) : (s.bump f).ctes = s.ctes := (rfl)
@[simp] theorem State.bump_inbox (s : State) (f : RF) : (s.bump f).inbox = s.inbox := (rfl)
@[simp] theorem State.bump_ings (s : State) (f : RF) : (s.bump f).ings = s.ings := (rfl)
@[simp] theorem State.bump_dfus (s : State) (f : RF) : (s.bump f).dfus = s.dfus := (rfl)
@[simp] theorem State.bump_acus (s : State) (f : RF) : (s.bump f).acus = s.acus := (rfl)
@[simp] theorem State.bump_acc (s : State) (f : RF) : (s.bump f).acc = s.acc := (rfl)
@[simp] theorem State.bump_fcs (s : State) (f : RF) : (s.bump f).fcs = s.fcs := (rfl)
@[simp] theorem State.bump_gals (s : State) (f : RF) : (s.bump f).gals = s.gals := (rfl)
@[simp] theorem State.bump_leds (s : State) (f : RF) : (s.bump f).leds = s.leds := (rfl)
@[simp] theorem State.bump_bes (s : State) (f : RF) : (s.bump f).bes = s.bes := (rfl)
@[simp] theorem State.bump_aside (s : State) (f : RF) : (s.bump f).aside = s.aside := (rfl)
@[simp] theorem State.bump_asidePkg (s : State) (f : RF) : (s.bump f).asidePkg = s.asidePkg := (rfl)
@[simp] theorem State.bump_drcs (s : State) (f : RF) : (s.bump f).drcs = s.drcs := (rfl)
@[simp] theorem State.bump_training (s : State) (f : RF) : (s.bump f).training = s.training := (rfl)
@[simp] theorem State.bump_fabs (s : State) (f : RF) : (s.bump f).fabs = s.fabs := (rfl)
@[simp] theorem State.bump_dmas (s : State) (f : RF) : (s.bump f).dmas = s.dmas := (rfl)
@[simp] theorem State.bump_scratch (s : State) (f : RF) : (s.bump f).scratch = s.scratch := (rfl)
@[simp] theorem State.bump_wraps (s : State) (f : RF) : (s.bump f).wraps = s.wraps := (rfl)
@[simp] theorem State.bump_snaps (s : State) (f : RF) : (s.bump f).snaps = s.snaps := (rfl)
@[simp] theorem State.bump_csvs (s : State) (f : RF) : (s.bump f).csvs = s.csvs := (rfl)
@[simp] theorem State.bump_csvNext (s : State) (f : RF) : (s.bump f).csvNext = s.csvNext := (rfl)
@[simp] theorem State.bump_csvGen (s : State) (f : RF) : (s.bump f).csvGen = s.csvGen := (rfl)
@[simp] theorem State.bump_temps (s : State) (f : RF) : (s.bump f).temps = s.temps := (rfl)
@[simp] theorem State.bump_telAt (s : State) (f : RF) : (s.bump f).telAt = s.telAt := (rfl)
@[simp] theorem State.bump_timers (s : State) (f : RF) : (s.bump f).timers = s.timers := (rfl)
@[simp] theorem State.bump_workT (s : State) (f : RF) : (s.bump f).workT = s.workT := (rfl)
@[simp] theorem State.bump_workAt (s : State) (f : RF) : (s.bump f).workAt = s.workAt := (rfl)

/-! ### `drop` writes one slot -/

@[simp] theorem State.drop_part (s : State) (f : RF) : (s.drop f).part = s.part := (rfl)
@[simp] theorem State.drop_pending (s : State) (f : RF) : (s.drop f).pending = s.pending := (rfl)
@[simp] theorem State.drop_now (s : State) (f : RF) : (s.drop f).now = s.now := (rfl)
@[simp] theorem State.drop_draws (s : State) (f : RF) : (s.drop f).draws = s.draws := (rfl)
@[simp] theorem State.drop_dram (s : State) (f : RF) : (s.drop f).dram = s.dram := (rfl)
@[simp] theorem State.drop_mirrors (s : State) (f : RF) : (s.drop f).mirrors = s.mirrors := (rfl)
@[simp] theorem State.drop_flash (s : State) (f : RF) : (s.drop f).flash = s.flash := (rfl)
@[simp] theorem State.drop_out (s : State) (f : RF) : (s.drop f).out = s.out := (rfl)
@[simp] theorem State.drop_evts (s : State) (f : RF) : (s.drop f).evts = s.evts := (rfl)
@[simp] theorem State.drop_evtLost (s : State) (f : RF) : (s.drop f).evtLost = s.evtLost := (rfl)
@[simp] theorem State.drop_units (s : State) (f : RF) : (s.drop f).units = s.units := (rfl)
@[simp] theorem State.drop_rings (s : State) (f : RF) : (s.drop f).rings = s.rings := (rfl)
@[simp] theorem State.drop_ports (s : State) (f : RF) : (s.drop f).ports = s.ports := (rfl)
@[simp] theorem State.drop_lands (s : State) (f : RF) : (s.drop f).lands = s.lands := (rfl)
@[simp] theorem State.drop_rg (s : State) (f : RF) : (s.drop f).rg = s.rg := (rfl)
@[simp] theorem State.drop_sec (s : State) (f : RF) : (s.drop f).sec = s.sec := (rfl)
@[simp] theorem State.drop_nvm (s : State) (f : RF) : (s.drop f).nvm = s.nvm := (rfl)
@[simp] theorem State.drop_rsc (s : State) (f : RF) : (s.drop f).rsc = s.rsc := (rfl)
@[simp] theorem State.drop_te (s : State) (f : RF) : (s.drop f).te = s.te := (rfl)
@[simp] theorem State.drop_pwr (s : State) (f : RF) : (s.drop f).pwr = s.pwr := (rfl)
@[simp] theorem State.drop_flt (s : State) (f : RF) : (s.drop f).flt = s.flt := (rfl)
@[simp] theorem State.drop_pkf (s : State) (f : RF) : (s.drop f).pkf = s.pkf := (rfl)
@[simp] theorem State.drop_chains (s : State) (f : RF) : (s.drop f).chains = s.chains := (rfl)
@[simp] theorem State.drop_ctes (s : State) (f : RF) : (s.drop f).ctes = s.ctes := (rfl)
@[simp] theorem State.drop_inbox (s : State) (f : RF) : (s.drop f).inbox = s.inbox := (rfl)
@[simp] theorem State.drop_ings (s : State) (f : RF) : (s.drop f).ings = s.ings := (rfl)
@[simp] theorem State.drop_dfus (s : State) (f : RF) : (s.drop f).dfus = s.dfus := (rfl)
@[simp] theorem State.drop_acus (s : State) (f : RF) : (s.drop f).acus = s.acus := (rfl)
@[simp] theorem State.drop_acc (s : State) (f : RF) : (s.drop f).acc = s.acc := (rfl)
@[simp] theorem State.drop_fcs (s : State) (f : RF) : (s.drop f).fcs = s.fcs := (rfl)
@[simp] theorem State.drop_gals (s : State) (f : RF) : (s.drop f).gals = s.gals := (rfl)
@[simp] theorem State.drop_leds (s : State) (f : RF) : (s.drop f).leds = s.leds := (rfl)
@[simp] theorem State.drop_bes (s : State) (f : RF) : (s.drop f).bes = s.bes := (rfl)
@[simp] theorem State.drop_aside (s : State) (f : RF) : (s.drop f).aside = s.aside := (rfl)
@[simp] theorem State.drop_asidePkg (s : State) (f : RF) : (s.drop f).asidePkg = s.asidePkg := (rfl)
@[simp] theorem State.drop_drcs (s : State) (f : RF) : (s.drop f).drcs = s.drcs := (rfl)
@[simp] theorem State.drop_training (s : State) (f : RF) : (s.drop f).training = s.training := (rfl)
@[simp] theorem State.drop_fabs (s : State) (f : RF) : (s.drop f).fabs = s.fabs := (rfl)
@[simp] theorem State.drop_dmas (s : State) (f : RF) : (s.drop f).dmas = s.dmas := (rfl)
@[simp] theorem State.drop_scratch (s : State) (f : RF) : (s.drop f).scratch = s.scratch := (rfl)
@[simp] theorem State.drop_wraps (s : State) (f : RF) : (s.drop f).wraps = s.wraps := (rfl)
@[simp] theorem State.drop_snaps (s : State) (f : RF) : (s.drop f).snaps = s.snaps := (rfl)
@[simp] theorem State.drop_csvs (s : State) (f : RF) : (s.drop f).csvs = s.csvs := (rfl)
@[simp] theorem State.drop_csvNext (s : State) (f : RF) : (s.drop f).csvNext = s.csvNext := (rfl)
@[simp] theorem State.drop_csvGen (s : State) (f : RF) : (s.drop f).csvGen = s.csvGen := (rfl)
@[simp] theorem State.drop_temps (s : State) (f : RF) : (s.drop f).temps = s.temps := (rfl)
@[simp] theorem State.drop_telAt (s : State) (f : RF) : (s.drop f).telAt = s.telAt := (rfl)
@[simp] theorem State.drop_timers (s : State) (f : RF) : (s.drop f).timers = s.timers := (rfl)
@[simp] theorem State.drop_workT (s : State) (f : RF) : (s.drop f).workT = s.workT := (rfl)
@[simp] theorem State.drop_workAt (s : State) (f : RF) : (s.drop f).workAt = s.workAt := (rfl)

/-! ### `raise` writes one slot -/

@[simp] theorem State.raise_part (s : State) (f : RF) : (s.raise f).part = s.part := (rfl)
@[simp] theorem State.raise_pending (s : State) (f : RF) : (s.raise f).pending = s.pending := (rfl)
@[simp] theorem State.raise_now (s : State) (f : RF) : (s.raise f).now = s.now := (rfl)
@[simp] theorem State.raise_draws (s : State) (f : RF) : (s.raise f).draws = s.draws := (rfl)
@[simp] theorem State.raise_dram (s : State) (f : RF) : (s.raise f).dram = s.dram := (rfl)
@[simp] theorem State.raise_mirrors (s : State) (f : RF) : (s.raise f).mirrors = s.mirrors := (rfl)
@[simp] theorem State.raise_flash (s : State) (f : RF) : (s.raise f).flash = s.flash := (rfl)
@[simp] theorem State.raise_out (s : State) (f : RF) : (s.raise f).out = s.out := (rfl)
@[simp] theorem State.raise_evts (s : State) (f : RF) : (s.raise f).evts = s.evts := (rfl)
@[simp] theorem State.raise_evtLost (s : State) (f : RF) : (s.raise f).evtLost = s.evtLost := (rfl)
@[simp] theorem State.raise_units (s : State) (f : RF) : (s.raise f).units = s.units := (rfl)
@[simp] theorem State.raise_rings (s : State) (f : RF) : (s.raise f).rings = s.rings := (rfl)
@[simp] theorem State.raise_ports (s : State) (f : RF) : (s.raise f).ports = s.ports := (rfl)
@[simp] theorem State.raise_lands (s : State) (f : RF) : (s.raise f).lands = s.lands := (rfl)
@[simp] theorem State.raise_rg (s : State) (f : RF) : (s.raise f).rg = s.rg := (rfl)
@[simp] theorem State.raise_sec (s : State) (f : RF) : (s.raise f).sec = s.sec := (rfl)
@[simp] theorem State.raise_nvm (s : State) (f : RF) : (s.raise f).nvm = s.nvm := (rfl)
@[simp] theorem State.raise_rsc (s : State) (f : RF) : (s.raise f).rsc = s.rsc := (rfl)
@[simp] theorem State.raise_te (s : State) (f : RF) : (s.raise f).te = s.te := (rfl)
@[simp] theorem State.raise_pwr (s : State) (f : RF) : (s.raise f).pwr = s.pwr := (rfl)
@[simp] theorem State.raise_flt (s : State) (f : RF) : (s.raise f).flt = s.flt := (rfl)
@[simp] theorem State.raise_pkf (s : State) (f : RF) : (s.raise f).pkf = s.pkf := (rfl)
@[simp] theorem State.raise_chains (s : State) (f : RF) : (s.raise f).chains = s.chains := (rfl)
@[simp] theorem State.raise_ctes (s : State) (f : RF) : (s.raise f).ctes = s.ctes := (rfl)
@[simp] theorem State.raise_inbox (s : State) (f : RF) : (s.raise f).inbox = s.inbox := (rfl)
@[simp] theorem State.raise_ings (s : State) (f : RF) : (s.raise f).ings = s.ings := (rfl)
@[simp] theorem State.raise_dfus (s : State) (f : RF) : (s.raise f).dfus = s.dfus := (rfl)
@[simp] theorem State.raise_acus (s : State) (f : RF) : (s.raise f).acus = s.acus := (rfl)
@[simp] theorem State.raise_acc (s : State) (f : RF) : (s.raise f).acc = s.acc := (rfl)
@[simp] theorem State.raise_fcs (s : State) (f : RF) : (s.raise f).fcs = s.fcs := (rfl)
@[simp] theorem State.raise_gals (s : State) (f : RF) : (s.raise f).gals = s.gals := (rfl)
@[simp] theorem State.raise_leds (s : State) (f : RF) : (s.raise f).leds = s.leds := (rfl)
@[simp] theorem State.raise_bes (s : State) (f : RF) : (s.raise f).bes = s.bes := (rfl)
@[simp] theorem State.raise_aside (s : State) (f : RF) : (s.raise f).aside = s.aside := (rfl)
@[simp] theorem State.raise_asidePkg (s : State) (f : RF) : (s.raise f).asidePkg = s.asidePkg := (rfl)
@[simp] theorem State.raise_drcs (s : State) (f : RF) : (s.raise f).drcs = s.drcs := (rfl)
@[simp] theorem State.raise_training (s : State) (f : RF) : (s.raise f).training = s.training := (rfl)
@[simp] theorem State.raise_fabs (s : State) (f : RF) : (s.raise f).fabs = s.fabs := (rfl)
@[simp] theorem State.raise_dmas (s : State) (f : RF) : (s.raise f).dmas = s.dmas := (rfl)
@[simp] theorem State.raise_scratch (s : State) (f : RF) : (s.raise f).scratch = s.scratch := (rfl)
@[simp] theorem State.raise_wraps (s : State) (f : RF) : (s.raise f).wraps = s.wraps := (rfl)
@[simp] theorem State.raise_snaps (s : State) (f : RF) : (s.raise f).snaps = s.snaps := (rfl)
@[simp] theorem State.raise_csvs (s : State) (f : RF) : (s.raise f).csvs = s.csvs := (rfl)
@[simp] theorem State.raise_csvNext (s : State) (f : RF) : (s.raise f).csvNext = s.csvNext := (rfl)
@[simp] theorem State.raise_csvGen (s : State) (f : RF) : (s.raise f).csvGen = s.csvGen := (rfl)
@[simp] theorem State.raise_temps (s : State) (f : RF) : (s.raise f).temps = s.temps := (rfl)
@[simp] theorem State.raise_telAt (s : State) (f : RF) : (s.raise f).telAt = s.telAt := (rfl)
@[simp] theorem State.raise_timers (s : State) (f : RF) : (s.raise f).timers = s.timers := (rfl)
@[simp] theorem State.raise_workT (s : State) (f : RF) : (s.raise f).workT = s.workT := (rfl)
@[simp] theorem State.raise_workAt (s : State) (f : RF) : (s.raise f).workAt = s.workAt := (rfl)

/-! ### `putBit` writes one slot -/

@[simp] theorem State.putBit_part (s : State) (f : RF) (i : Nat) (b : Bool) : (s.putBit f i b).part = s.part := (rfl)
@[simp] theorem State.putBit_pending (s : State) (f : RF) (i : Nat) (b : Bool) : (s.putBit f i b).pending = s.pending := (rfl)
@[simp] theorem State.putBit_now (s : State) (f : RF) (i : Nat) (b : Bool) : (s.putBit f i b).now = s.now := (rfl)
@[simp] theorem State.putBit_draws (s : State) (f : RF) (i : Nat) (b : Bool) : (s.putBit f i b).draws = s.draws := (rfl)
@[simp] theorem State.putBit_dram (s : State) (f : RF) (i : Nat) (b : Bool) : (s.putBit f i b).dram = s.dram := (rfl)
@[simp] theorem State.putBit_mirrors (s : State) (f : RF) (i : Nat) (b : Bool) : (s.putBit f i b).mirrors = s.mirrors := (rfl)
@[simp] theorem State.putBit_flash (s : State) (f : RF) (i : Nat) (b : Bool) : (s.putBit f i b).flash = s.flash := (rfl)
@[simp] theorem State.putBit_out (s : State) (f : RF) (i : Nat) (b : Bool) : (s.putBit f i b).out = s.out := (rfl)
@[simp] theorem State.putBit_evts (s : State) (f : RF) (i : Nat) (b : Bool) : (s.putBit f i b).evts = s.evts := (rfl)
@[simp] theorem State.putBit_evtLost (s : State) (f : RF) (i : Nat) (b : Bool) : (s.putBit f i b).evtLost = s.evtLost := (rfl)
@[simp] theorem State.putBit_units (s : State) (f : RF) (i : Nat) (b : Bool) : (s.putBit f i b).units = s.units := (rfl)
@[simp] theorem State.putBit_rings (s : State) (f : RF) (i : Nat) (b : Bool) : (s.putBit f i b).rings = s.rings := (rfl)
@[simp] theorem State.putBit_ports (s : State) (f : RF) (i : Nat) (b : Bool) : (s.putBit f i b).ports = s.ports := (rfl)
@[simp] theorem State.putBit_lands (s : State) (f : RF) (i : Nat) (b : Bool) : (s.putBit f i b).lands = s.lands := (rfl)
@[simp] theorem State.putBit_rg (s : State) (f : RF) (i : Nat) (b : Bool) : (s.putBit f i b).rg = s.rg := (rfl)
@[simp] theorem State.putBit_sec (s : State) (f : RF) (i : Nat) (b : Bool) : (s.putBit f i b).sec = s.sec := (rfl)
@[simp] theorem State.putBit_nvm (s : State) (f : RF) (i : Nat) (b : Bool) : (s.putBit f i b).nvm = s.nvm := (rfl)
@[simp] theorem State.putBit_rsc (s : State) (f : RF) (i : Nat) (b : Bool) : (s.putBit f i b).rsc = s.rsc := (rfl)
@[simp] theorem State.putBit_te (s : State) (f : RF) (i : Nat) (b : Bool) : (s.putBit f i b).te = s.te := (rfl)
@[simp] theorem State.putBit_pwr (s : State) (f : RF) (i : Nat) (b : Bool) : (s.putBit f i b).pwr = s.pwr := (rfl)
@[simp] theorem State.putBit_flt (s : State) (f : RF) (i : Nat) (b : Bool) : (s.putBit f i b).flt = s.flt := (rfl)
@[simp] theorem State.putBit_pkf (s : State) (f : RF) (i : Nat) (b : Bool) : (s.putBit f i b).pkf = s.pkf := (rfl)
@[simp] theorem State.putBit_chains (s : State) (f : RF) (i : Nat) (b : Bool) : (s.putBit f i b).chains = s.chains := (rfl)
@[simp] theorem State.putBit_ctes (s : State) (f : RF) (i : Nat) (b : Bool) : (s.putBit f i b).ctes = s.ctes := (rfl)
@[simp] theorem State.putBit_inbox (s : State) (f : RF) (i : Nat) (b : Bool) : (s.putBit f i b).inbox = s.inbox := (rfl)
@[simp] theorem State.putBit_ings (s : State) (f : RF) (i : Nat) (b : Bool) : (s.putBit f i b).ings = s.ings := (rfl)
@[simp] theorem State.putBit_dfus (s : State) (f : RF) (i : Nat) (b : Bool) : (s.putBit f i b).dfus = s.dfus := (rfl)
@[simp] theorem State.putBit_acus (s : State) (f : RF) (i : Nat) (b : Bool) : (s.putBit f i b).acus = s.acus := (rfl)
@[simp] theorem State.putBit_acc (s : State) (f : RF) (i : Nat) (b : Bool) : (s.putBit f i b).acc = s.acc := (rfl)
@[simp] theorem State.putBit_fcs (s : State) (f : RF) (i : Nat) (b : Bool) : (s.putBit f i b).fcs = s.fcs := (rfl)
@[simp] theorem State.putBit_gals (s : State) (f : RF) (i : Nat) (b : Bool) : (s.putBit f i b).gals = s.gals := (rfl)
@[simp] theorem State.putBit_leds (s : State) (f : RF) (i : Nat) (b : Bool) : (s.putBit f i b).leds = s.leds := (rfl)
@[simp] theorem State.putBit_bes (s : State) (f : RF) (i : Nat) (b : Bool) : (s.putBit f i b).bes = s.bes := (rfl)
@[simp] theorem State.putBit_aside (s : State) (f : RF) (i : Nat) (b : Bool) : (s.putBit f i b).aside = s.aside := (rfl)
@[simp] theorem State.putBit_asidePkg (s : State) (f : RF) (i : Nat) (b : Bool) : (s.putBit f i b).asidePkg = s.asidePkg := (rfl)
@[simp] theorem State.putBit_drcs (s : State) (f : RF) (i : Nat) (b : Bool) : (s.putBit f i b).drcs = s.drcs := (rfl)
@[simp] theorem State.putBit_training (s : State) (f : RF) (i : Nat) (b : Bool) : (s.putBit f i b).training = s.training := (rfl)
@[simp] theorem State.putBit_fabs (s : State) (f : RF) (i : Nat) (b : Bool) : (s.putBit f i b).fabs = s.fabs := (rfl)
@[simp] theorem State.putBit_dmas (s : State) (f : RF) (i : Nat) (b : Bool) : (s.putBit f i b).dmas = s.dmas := (rfl)
@[simp] theorem State.putBit_scratch (s : State) (f : RF) (i : Nat) (b : Bool) : (s.putBit f i b).scratch = s.scratch := (rfl)
@[simp] theorem State.putBit_wraps (s : State) (f : RF) (i : Nat) (b : Bool) : (s.putBit f i b).wraps = s.wraps := (rfl)
@[simp] theorem State.putBit_snaps (s : State) (f : RF) (i : Nat) (b : Bool) : (s.putBit f i b).snaps = s.snaps := (rfl)
@[simp] theorem State.putBit_csvs (s : State) (f : RF) (i : Nat) (b : Bool) : (s.putBit f i b).csvs = s.csvs := (rfl)
@[simp] theorem State.putBit_csvNext (s : State) (f : RF) (i : Nat) (b : Bool) : (s.putBit f i b).csvNext = s.csvNext := (rfl)
@[simp] theorem State.putBit_csvGen (s : State) (f : RF) (i : Nat) (b : Bool) : (s.putBit f i b).csvGen = s.csvGen := (rfl)
@[simp] theorem State.putBit_temps (s : State) (f : RF) (i : Nat) (b : Bool) : (s.putBit f i b).temps = s.temps := (rfl)
@[simp] theorem State.putBit_telAt (s : State) (f : RF) (i : Nat) (b : Bool) : (s.putBit f i b).telAt = s.telAt := (rfl)
@[simp] theorem State.putBit_timers (s : State) (f : RF) (i : Nat) (b : Bool) : (s.putBit f i b).timers = s.timers := (rfl)
@[simp] theorem State.putBit_workT (s : State) (f : RF) (i : Nat) (b : Bool) : (s.putBit f i b).workT = s.workT := (rfl)
@[simp] theorem State.putBit_workAt (s : State) (f : RF) (i : Nat) (b : Bool) : (s.putBit f i b).workAt = s.workAt := (rfl)

/-! ### `setBe` -/

@[simp] theorem State.setBe_part (s : State) (d : Nat) (v : BeSt) : (s.setBe d v).part = s.part := (rfl)
@[simp] theorem State.setBe_pending (s : State) (d : Nat) (v : BeSt) : (s.setBe d v).pending = s.pending := (rfl)
@[simp] theorem State.setBe_now (s : State) (d : Nat) (v : BeSt) : (s.setBe d v).now = s.now := (rfl)
@[simp] theorem State.setBe_draws (s : State) (d : Nat) (v : BeSt) : (s.setBe d v).draws = s.draws := (rfl)
@[simp] theorem State.setBe_regs (s : State) (d : Nat) (v : BeSt) : (s.setBe d v).regs = s.regs := (rfl)
@[simp] theorem State.setBe_dram (s : State) (d : Nat) (v : BeSt) : (s.setBe d v).dram = s.dram := (rfl)
@[simp] theorem State.setBe_mirrors (s : State) (d : Nat) (v : BeSt) : (s.setBe d v).mirrors = s.mirrors := (rfl)
@[simp] theorem State.setBe_flash (s : State) (d : Nat) (v : BeSt) : (s.setBe d v).flash = s.flash := (rfl)
@[simp] theorem State.setBe_out (s : State) (d : Nat) (v : BeSt) : (s.setBe d v).out = s.out := (rfl)
@[simp] theorem State.setBe_evts (s : State) (d : Nat) (v : BeSt) : (s.setBe d v).evts = s.evts := (rfl)
@[simp] theorem State.setBe_evtLost (s : State) (d : Nat) (v : BeSt) : (s.setBe d v).evtLost = s.evtLost := (rfl)
@[simp] theorem State.setBe_units (s : State) (d : Nat) (v : BeSt) : (s.setBe d v).units = s.units := (rfl)
@[simp] theorem State.setBe_rings (s : State) (d : Nat) (v : BeSt) : (s.setBe d v).rings = s.rings := (rfl)
@[simp] theorem State.setBe_ports (s : State) (d : Nat) (v : BeSt) : (s.setBe d v).ports = s.ports := (rfl)
@[simp] theorem State.setBe_lands (s : State) (d : Nat) (v : BeSt) : (s.setBe d v).lands = s.lands := (rfl)
@[simp] theorem State.setBe_rg (s : State) (d : Nat) (v : BeSt) : (s.setBe d v).rg = s.rg := (rfl)
@[simp] theorem State.setBe_sec (s : State) (d : Nat) (v : BeSt) : (s.setBe d v).sec = s.sec := (rfl)
@[simp] theorem State.setBe_nvm (s : State) (d : Nat) (v : BeSt) : (s.setBe d v).nvm = s.nvm := (rfl)
@[simp] theorem State.setBe_rsc (s : State) (d : Nat) (v : BeSt) : (s.setBe d v).rsc = s.rsc := (rfl)
@[simp] theorem State.setBe_te (s : State) (d : Nat) (v : BeSt) : (s.setBe d v).te = s.te := (rfl)
@[simp] theorem State.setBe_pwr (s : State) (d : Nat) (v : BeSt) : (s.setBe d v).pwr = s.pwr := (rfl)
@[simp] theorem State.setBe_flt (s : State) (d : Nat) (v : BeSt) : (s.setBe d v).flt = s.flt := (rfl)
@[simp] theorem State.setBe_pkf (s : State) (d : Nat) (v : BeSt) : (s.setBe d v).pkf = s.pkf := (rfl)
@[simp] theorem State.setBe_chains (s : State) (d : Nat) (v : BeSt) : (s.setBe d v).chains = s.chains := (rfl)
@[simp] theorem State.setBe_ctes (s : State) (d : Nat) (v : BeSt) : (s.setBe d v).ctes = s.ctes := (rfl)
@[simp] theorem State.setBe_inbox (s : State) (d : Nat) (v : BeSt) : (s.setBe d v).inbox = s.inbox := (rfl)
@[simp] theorem State.setBe_ings (s : State) (d : Nat) (v : BeSt) : (s.setBe d v).ings = s.ings := (rfl)
@[simp] theorem State.setBe_dfus (s : State) (d : Nat) (v : BeSt) : (s.setBe d v).dfus = s.dfus := (rfl)
@[simp] theorem State.setBe_acus (s : State) (d : Nat) (v : BeSt) : (s.setBe d v).acus = s.acus := (rfl)
@[simp] theorem State.setBe_acc (s : State) (d : Nat) (v : BeSt) : (s.setBe d v).acc = s.acc := (rfl)
@[simp] theorem State.setBe_fcs (s : State) (d : Nat) (v : BeSt) : (s.setBe d v).fcs = s.fcs := (rfl)
@[simp] theorem State.setBe_gals (s : State) (d : Nat) (v : BeSt) : (s.setBe d v).gals = s.gals := (rfl)
@[simp] theorem State.setBe_leds (s : State) (d : Nat) (v : BeSt) : (s.setBe d v).leds = s.leds := (rfl)
@[simp] theorem State.setBe_aside (s : State) (d : Nat) (v : BeSt) : (s.setBe d v).aside = s.aside := (rfl)
@[simp] theorem State.setBe_asidePkg (s : State) (d : Nat) (v : BeSt) : (s.setBe d v).asidePkg = s.asidePkg := (rfl)
@[simp] theorem State.setBe_drcs (s : State) (d : Nat) (v : BeSt) : (s.setBe d v).drcs = s.drcs := (rfl)
@[simp] theorem State.setBe_training (s : State) (d : Nat) (v : BeSt) : (s.setBe d v).training = s.training := (rfl)
@[simp] theorem State.setBe_fabs (s : State) (d : Nat) (v : BeSt) : (s.setBe d v).fabs = s.fabs := (rfl)
@[simp] theorem State.setBe_dmas (s : State) (d : Nat) (v : BeSt) : (s.setBe d v).dmas = s.dmas := (rfl)
@[simp] theorem State.setBe_scratch (s : State) (d : Nat) (v : BeSt) : (s.setBe d v).scratch = s.scratch := (rfl)
@[simp] theorem State.setBe_wraps (s : State) (d : Nat) (v : BeSt) : (s.setBe d v).wraps = s.wraps := (rfl)
@[simp] theorem State.setBe_snaps (s : State) (d : Nat) (v : BeSt) : (s.setBe d v).snaps = s.snaps := (rfl)
@[simp] theorem State.setBe_csvs (s : State) (d : Nat) (v : BeSt) : (s.setBe d v).csvs = s.csvs := (rfl)
@[simp] theorem State.setBe_csvNext (s : State) (d : Nat) (v : BeSt) : (s.setBe d v).csvNext = s.csvNext := (rfl)
@[simp] theorem State.setBe_csvGen (s : State) (d : Nat) (v : BeSt) : (s.setBe d v).csvGen = s.csvGen := (rfl)
@[simp] theorem State.setBe_temps (s : State) (d : Nat) (v : BeSt) : (s.setBe d v).temps = s.temps := (rfl)
@[simp] theorem State.setBe_telAt (s : State) (d : Nat) (v : BeSt) : (s.setBe d v).telAt = s.telAt := (rfl)
@[simp] theorem State.setBe_timers (s : State) (d : Nat) (v : BeSt) : (s.setBe d v).timers = s.timers := (rfl)
@[simp] theorem State.setBe_workT (s : State) (d : Nat) (v : BeSt) : (s.setBe d v).workT = s.workT := (rfl)
@[simp] theorem State.setBe_workAt (s : State) (d : Nat) (v : BeSt) : (s.setBe d v).workAt = s.workAt := (rfl)
@[simp] theorem State.rd_setBe (s : State) (d : Nat) (v : BeSt) (a : Nat) : (s.setBe d v).rd a = s.rd a := (rfl)
@[simp] theorem State.get_setBe (s : State) (d : Nat) (v : BeSt) (f : RF) : (s.setBe d v).get f = s.get f := (rfl)
@[simp] theorem State.be_set_same (s : State) (d : Nat) (v : BeSt) : (s.setBe d v).be d = v := Store.get_put_same _ _ _ _
theorem State.be_set_other (s : State) {d j : Nat} (v : BeSt) (h : j ≠ d) : (s.setBe d v).be j = s.be j :=
  Store.get_put_other _ _ _ h
@[simp] theorem State.be_put (s : State) (f : RF) (x d : Nat) : (s.put f x).be d = s.be d := (rfl)

/-! ### `setCsv` -/

@[simp] theorem State.setCsv_part (s : State) (d : Nat) (v : CsvSt) : (s.setCsv d v).part = s.part := (rfl)
@[simp] theorem State.setCsv_pending (s : State) (d : Nat) (v : CsvSt) : (s.setCsv d v).pending = s.pending := (rfl)
@[simp] theorem State.setCsv_now (s : State) (d : Nat) (v : CsvSt) : (s.setCsv d v).now = s.now := (rfl)
@[simp] theorem State.setCsv_draws (s : State) (d : Nat) (v : CsvSt) : (s.setCsv d v).draws = s.draws := (rfl)
@[simp] theorem State.setCsv_regs (s : State) (d : Nat) (v : CsvSt) : (s.setCsv d v).regs = s.regs := (rfl)
@[simp] theorem State.setCsv_dram (s : State) (d : Nat) (v : CsvSt) : (s.setCsv d v).dram = s.dram := (rfl)
@[simp] theorem State.setCsv_mirrors (s : State) (d : Nat) (v : CsvSt) : (s.setCsv d v).mirrors = s.mirrors := (rfl)
@[simp] theorem State.setCsv_flash (s : State) (d : Nat) (v : CsvSt) : (s.setCsv d v).flash = s.flash := (rfl)
@[simp] theorem State.setCsv_out (s : State) (d : Nat) (v : CsvSt) : (s.setCsv d v).out = s.out := (rfl)
@[simp] theorem State.setCsv_evts (s : State) (d : Nat) (v : CsvSt) : (s.setCsv d v).evts = s.evts := (rfl)
@[simp] theorem State.setCsv_evtLost (s : State) (d : Nat) (v : CsvSt) : (s.setCsv d v).evtLost = s.evtLost := (rfl)
@[simp] theorem State.setCsv_units (s : State) (d : Nat) (v : CsvSt) : (s.setCsv d v).units = s.units := (rfl)
@[simp] theorem State.setCsv_rings (s : State) (d : Nat) (v : CsvSt) : (s.setCsv d v).rings = s.rings := (rfl)
@[simp] theorem State.setCsv_ports (s : State) (d : Nat) (v : CsvSt) : (s.setCsv d v).ports = s.ports := (rfl)
@[simp] theorem State.setCsv_lands (s : State) (d : Nat) (v : CsvSt) : (s.setCsv d v).lands = s.lands := (rfl)
@[simp] theorem State.setCsv_rg (s : State) (d : Nat) (v : CsvSt) : (s.setCsv d v).rg = s.rg := (rfl)
@[simp] theorem State.setCsv_sec (s : State) (d : Nat) (v : CsvSt) : (s.setCsv d v).sec = s.sec := (rfl)
@[simp] theorem State.setCsv_nvm (s : State) (d : Nat) (v : CsvSt) : (s.setCsv d v).nvm = s.nvm := (rfl)
@[simp] theorem State.setCsv_rsc (s : State) (d : Nat) (v : CsvSt) : (s.setCsv d v).rsc = s.rsc := (rfl)
@[simp] theorem State.setCsv_te (s : State) (d : Nat) (v : CsvSt) : (s.setCsv d v).te = s.te := (rfl)
@[simp] theorem State.setCsv_pwr (s : State) (d : Nat) (v : CsvSt) : (s.setCsv d v).pwr = s.pwr := (rfl)
@[simp] theorem State.setCsv_flt (s : State) (d : Nat) (v : CsvSt) : (s.setCsv d v).flt = s.flt := (rfl)
@[simp] theorem State.setCsv_pkf (s : State) (d : Nat) (v : CsvSt) : (s.setCsv d v).pkf = s.pkf := (rfl)
@[simp] theorem State.setCsv_chains (s : State) (d : Nat) (v : CsvSt) : (s.setCsv d v).chains = s.chains := (rfl)
@[simp] theorem State.setCsv_ctes (s : State) (d : Nat) (v : CsvSt) : (s.setCsv d v).ctes = s.ctes := (rfl)
@[simp] theorem State.setCsv_inbox (s : State) (d : Nat) (v : CsvSt) : (s.setCsv d v).inbox = s.inbox := (rfl)
@[simp] theorem State.setCsv_ings (s : State) (d : Nat) (v : CsvSt) : (s.setCsv d v).ings = s.ings := (rfl)
@[simp] theorem State.setCsv_dfus (s : State) (d : Nat) (v : CsvSt) : (s.setCsv d v).dfus = s.dfus := (rfl)
@[simp] theorem State.setCsv_acus (s : State) (d : Nat) (v : CsvSt) : (s.setCsv d v).acus = s.acus := (rfl)
@[simp] theorem State.setCsv_acc (s : State) (d : Nat) (v : CsvSt) : (s.setCsv d v).acc = s.acc := (rfl)
@[simp] theorem State.setCsv_fcs (s : State) (d : Nat) (v : CsvSt) : (s.setCsv d v).fcs = s.fcs := (rfl)
@[simp] theorem State.setCsv_gals (s : State) (d : Nat) (v : CsvSt) : (s.setCsv d v).gals = s.gals := (rfl)
@[simp] theorem State.setCsv_leds (s : State) (d : Nat) (v : CsvSt) : (s.setCsv d v).leds = s.leds := (rfl)
@[simp] theorem State.setCsv_bes (s : State) (d : Nat) (v : CsvSt) : (s.setCsv d v).bes = s.bes := (rfl)
@[simp] theorem State.setCsv_aside (s : State) (d : Nat) (v : CsvSt) : (s.setCsv d v).aside = s.aside := (rfl)
@[simp] theorem State.setCsv_asidePkg (s : State) (d : Nat) (v : CsvSt) : (s.setCsv d v).asidePkg = s.asidePkg := (rfl)
@[simp] theorem State.setCsv_drcs (s : State) (d : Nat) (v : CsvSt) : (s.setCsv d v).drcs = s.drcs := (rfl)
@[simp] theorem State.setCsv_training (s : State) (d : Nat) (v : CsvSt) : (s.setCsv d v).training = s.training := (rfl)
@[simp] theorem State.setCsv_fabs (s : State) (d : Nat) (v : CsvSt) : (s.setCsv d v).fabs = s.fabs := (rfl)
@[simp] theorem State.setCsv_dmas (s : State) (d : Nat) (v : CsvSt) : (s.setCsv d v).dmas = s.dmas := (rfl)
@[simp] theorem State.setCsv_scratch (s : State) (d : Nat) (v : CsvSt) : (s.setCsv d v).scratch = s.scratch := (rfl)
@[simp] theorem State.setCsv_wraps (s : State) (d : Nat) (v : CsvSt) : (s.setCsv d v).wraps = s.wraps := (rfl)
@[simp] theorem State.setCsv_snaps (s : State) (d : Nat) (v : CsvSt) : (s.setCsv d v).snaps = s.snaps := (rfl)
@[simp] theorem State.setCsv_csvNext (s : State) (d : Nat) (v : CsvSt) : (s.setCsv d v).csvNext = s.csvNext := (rfl)
@[simp] theorem State.setCsv_csvGen (s : State) (d : Nat) (v : CsvSt) : (s.setCsv d v).csvGen = s.csvGen := (rfl)
@[simp] theorem State.setCsv_temps (s : State) (d : Nat) (v : CsvSt) : (s.setCsv d v).temps = s.temps := (rfl)
@[simp] theorem State.setCsv_telAt (s : State) (d : Nat) (v : CsvSt) : (s.setCsv d v).telAt = s.telAt := (rfl)
@[simp] theorem State.setCsv_timers (s : State) (d : Nat) (v : CsvSt) : (s.setCsv d v).timers = s.timers := (rfl)
@[simp] theorem State.setCsv_workT (s : State) (d : Nat) (v : CsvSt) : (s.setCsv d v).workT = s.workT := (rfl)
@[simp] theorem State.setCsv_workAt (s : State) (d : Nat) (v : CsvSt) : (s.setCsv d v).workAt = s.workAt := (rfl)
@[simp] theorem State.rd_setCsv (s : State) (d : Nat) (v : CsvSt) (a : Nat) : (s.setCsv d v).rd a = s.rd a := (rfl)
@[simp] theorem State.get_setCsv (s : State) (d : Nat) (v : CsvSt) (f : RF) : (s.setCsv d v).get f = s.get f := (rfl)
@[simp] theorem State.csv_set_same (s : State) (d : Nat) (v : CsvSt) : (s.setCsv d v).csv d = v := Store.get_put_same _ _ _ _
theorem State.csv_set_other (s : State) {d j : Nat} (v : CsvSt) (h : j ≠ d) : (s.setCsv d v).csv j = s.csv j :=
  Store.get_put_other _ _ _ h
@[simp] theorem State.csv_put (s : State) (f : RF) (x d : Nat) : (s.put f x).csv d = s.csv d := (rfl)

/-! ### `setDma` -/

@[simp] theorem State.setDma_part (s : State) (k : Nat) (v : DmaSt) : (s.setDma k v).part = s.part := (rfl)
@[simp] theorem State.setDma_pending (s : State) (k : Nat) (v : DmaSt) : (s.setDma k v).pending = s.pending := (rfl)
@[simp] theorem State.setDma_now (s : State) (k : Nat) (v : DmaSt) : (s.setDma k v).now = s.now := (rfl)
@[simp] theorem State.setDma_draws (s : State) (k : Nat) (v : DmaSt) : (s.setDma k v).draws = s.draws := (rfl)
@[simp] theorem State.setDma_regs (s : State) (k : Nat) (v : DmaSt) : (s.setDma k v).regs = s.regs := (rfl)
@[simp] theorem State.setDma_dram (s : State) (k : Nat) (v : DmaSt) : (s.setDma k v).dram = s.dram := (rfl)
@[simp] theorem State.setDma_mirrors (s : State) (k : Nat) (v : DmaSt) : (s.setDma k v).mirrors = s.mirrors := (rfl)
@[simp] theorem State.setDma_flash (s : State) (k : Nat) (v : DmaSt) : (s.setDma k v).flash = s.flash := (rfl)
@[simp] theorem State.setDma_out (s : State) (k : Nat) (v : DmaSt) : (s.setDma k v).out = s.out := (rfl)
@[simp] theorem State.setDma_evts (s : State) (k : Nat) (v : DmaSt) : (s.setDma k v).evts = s.evts := (rfl)
@[simp] theorem State.setDma_evtLost (s : State) (k : Nat) (v : DmaSt) : (s.setDma k v).evtLost = s.evtLost := (rfl)
@[simp] theorem State.setDma_units (s : State) (k : Nat) (v : DmaSt) : (s.setDma k v).units = s.units := (rfl)
@[simp] theorem State.setDma_rings (s : State) (k : Nat) (v : DmaSt) : (s.setDma k v).rings = s.rings := (rfl)
@[simp] theorem State.setDma_ports (s : State) (k : Nat) (v : DmaSt) : (s.setDma k v).ports = s.ports := (rfl)
@[simp] theorem State.setDma_lands (s : State) (k : Nat) (v : DmaSt) : (s.setDma k v).lands = s.lands := (rfl)
@[simp] theorem State.setDma_rg (s : State) (k : Nat) (v : DmaSt) : (s.setDma k v).rg = s.rg := (rfl)
@[simp] theorem State.setDma_sec (s : State) (k : Nat) (v : DmaSt) : (s.setDma k v).sec = s.sec := (rfl)
@[simp] theorem State.setDma_nvm (s : State) (k : Nat) (v : DmaSt) : (s.setDma k v).nvm = s.nvm := (rfl)
@[simp] theorem State.setDma_rsc (s : State) (k : Nat) (v : DmaSt) : (s.setDma k v).rsc = s.rsc := (rfl)
@[simp] theorem State.setDma_te (s : State) (k : Nat) (v : DmaSt) : (s.setDma k v).te = s.te := (rfl)
@[simp] theorem State.setDma_pwr (s : State) (k : Nat) (v : DmaSt) : (s.setDma k v).pwr = s.pwr := (rfl)
@[simp] theorem State.setDma_flt (s : State) (k : Nat) (v : DmaSt) : (s.setDma k v).flt = s.flt := (rfl)
@[simp] theorem State.setDma_pkf (s : State) (k : Nat) (v : DmaSt) : (s.setDma k v).pkf = s.pkf := (rfl)
@[simp] theorem State.setDma_chains (s : State) (k : Nat) (v : DmaSt) : (s.setDma k v).chains = s.chains := (rfl)
@[simp] theorem State.setDma_ctes (s : State) (k : Nat) (v : DmaSt) : (s.setDma k v).ctes = s.ctes := (rfl)
@[simp] theorem State.setDma_inbox (s : State) (k : Nat) (v : DmaSt) : (s.setDma k v).inbox = s.inbox := (rfl)
@[simp] theorem State.setDma_ings (s : State) (k : Nat) (v : DmaSt) : (s.setDma k v).ings = s.ings := (rfl)
@[simp] theorem State.setDma_dfus (s : State) (k : Nat) (v : DmaSt) : (s.setDma k v).dfus = s.dfus := (rfl)
@[simp] theorem State.setDma_acus (s : State) (k : Nat) (v : DmaSt) : (s.setDma k v).acus = s.acus := (rfl)
@[simp] theorem State.setDma_acc (s : State) (k : Nat) (v : DmaSt) : (s.setDma k v).acc = s.acc := (rfl)
@[simp] theorem State.setDma_fcs (s : State) (k : Nat) (v : DmaSt) : (s.setDma k v).fcs = s.fcs := (rfl)
@[simp] theorem State.setDma_gals (s : State) (k : Nat) (v : DmaSt) : (s.setDma k v).gals = s.gals := (rfl)
@[simp] theorem State.setDma_leds (s : State) (k : Nat) (v : DmaSt) : (s.setDma k v).leds = s.leds := (rfl)
@[simp] theorem State.setDma_bes (s : State) (k : Nat) (v : DmaSt) : (s.setDma k v).bes = s.bes := (rfl)
@[simp] theorem State.setDma_aside (s : State) (k : Nat) (v : DmaSt) : (s.setDma k v).aside = s.aside := (rfl)
@[simp] theorem State.setDma_asidePkg (s : State) (k : Nat) (v : DmaSt) : (s.setDma k v).asidePkg = s.asidePkg := (rfl)
@[simp] theorem State.setDma_drcs (s : State) (k : Nat) (v : DmaSt) : (s.setDma k v).drcs = s.drcs := (rfl)
@[simp] theorem State.setDma_training (s : State) (k : Nat) (v : DmaSt) : (s.setDma k v).training = s.training := (rfl)
@[simp] theorem State.setDma_fabs (s : State) (k : Nat) (v : DmaSt) : (s.setDma k v).fabs = s.fabs := (rfl)
@[simp] theorem State.setDma_scratch (s : State) (k : Nat) (v : DmaSt) : (s.setDma k v).scratch = s.scratch := (rfl)
@[simp] theorem State.setDma_wraps (s : State) (k : Nat) (v : DmaSt) : (s.setDma k v).wraps = s.wraps := (rfl)
@[simp] theorem State.setDma_snaps (s : State) (k : Nat) (v : DmaSt) : (s.setDma k v).snaps = s.snaps := (rfl)
@[simp] theorem State.setDma_csvs (s : State) (k : Nat) (v : DmaSt) : (s.setDma k v).csvs = s.csvs := (rfl)
@[simp] theorem State.setDma_csvNext (s : State) (k : Nat) (v : DmaSt) : (s.setDma k v).csvNext = s.csvNext := (rfl)
@[simp] theorem State.setDma_csvGen (s : State) (k : Nat) (v : DmaSt) : (s.setDma k v).csvGen = s.csvGen := (rfl)
@[simp] theorem State.setDma_temps (s : State) (k : Nat) (v : DmaSt) : (s.setDma k v).temps = s.temps := (rfl)
@[simp] theorem State.setDma_telAt (s : State) (k : Nat) (v : DmaSt) : (s.setDma k v).telAt = s.telAt := (rfl)
@[simp] theorem State.setDma_timers (s : State) (k : Nat) (v : DmaSt) : (s.setDma k v).timers = s.timers := (rfl)
@[simp] theorem State.setDma_workT (s : State) (k : Nat) (v : DmaSt) : (s.setDma k v).workT = s.workT := (rfl)
@[simp] theorem State.setDma_workAt (s : State) (k : Nat) (v : DmaSt) : (s.setDma k v).workAt = s.workAt := (rfl)
@[simp] theorem State.rd_setDma (s : State) (k : Nat) (v : DmaSt) (a : Nat) : (s.setDma k v).rd a = s.rd a := (rfl)
@[simp] theorem State.get_setDma (s : State) (k : Nat) (v : DmaSt) (f : RF) : (s.setDma k v).get f = s.get f := (rfl)
@[simp] theorem State.dma_set_same (s : State) (k : Nat) (v : DmaSt) : (s.setDma k v).dma k = v := Store.get_put_same _ _ _ _
theorem State.dma_set_other (s : State) {k j : Nat} (v : DmaSt) (h : j ≠ k) : (s.setDma k v).dma j = s.dma j :=
  Store.get_put_other _ _ _ h
@[simp] theorem State.dma_put (s : State) (f : RF) (x k : Nat) : (s.put f x).dma k = s.dma k := (rfl)

/-! ### `setFc` -/

@[simp] theorem State.setFc_part (s : State) (d : Nat) (v : FcSt) : (s.setFc d v).part = s.part := (rfl)
@[simp] theorem State.setFc_pending (s : State) (d : Nat) (v : FcSt) : (s.setFc d v).pending = s.pending := (rfl)
@[simp] theorem State.setFc_now (s : State) (d : Nat) (v : FcSt) : (s.setFc d v).now = s.now := (rfl)
@[simp] theorem State.setFc_draws (s : State) (d : Nat) (v : FcSt) : (s.setFc d v).draws = s.draws := (rfl)
@[simp] theorem State.setFc_regs (s : State) (d : Nat) (v : FcSt) : (s.setFc d v).regs = s.regs := (rfl)
@[simp] theorem State.setFc_dram (s : State) (d : Nat) (v : FcSt) : (s.setFc d v).dram = s.dram := (rfl)
@[simp] theorem State.setFc_mirrors (s : State) (d : Nat) (v : FcSt) : (s.setFc d v).mirrors = s.mirrors := (rfl)
@[simp] theorem State.setFc_flash (s : State) (d : Nat) (v : FcSt) : (s.setFc d v).flash = s.flash := (rfl)
@[simp] theorem State.setFc_out (s : State) (d : Nat) (v : FcSt) : (s.setFc d v).out = s.out := (rfl)
@[simp] theorem State.setFc_evts (s : State) (d : Nat) (v : FcSt) : (s.setFc d v).evts = s.evts := (rfl)
@[simp] theorem State.setFc_evtLost (s : State) (d : Nat) (v : FcSt) : (s.setFc d v).evtLost = s.evtLost := (rfl)
@[simp] theorem State.setFc_units (s : State) (d : Nat) (v : FcSt) : (s.setFc d v).units = s.units := (rfl)
@[simp] theorem State.setFc_rings (s : State) (d : Nat) (v : FcSt) : (s.setFc d v).rings = s.rings := (rfl)
@[simp] theorem State.setFc_ports (s : State) (d : Nat) (v : FcSt) : (s.setFc d v).ports = s.ports := (rfl)
@[simp] theorem State.setFc_lands (s : State) (d : Nat) (v : FcSt) : (s.setFc d v).lands = s.lands := (rfl)
@[simp] theorem State.setFc_rg (s : State) (d : Nat) (v : FcSt) : (s.setFc d v).rg = s.rg := (rfl)
@[simp] theorem State.setFc_sec (s : State) (d : Nat) (v : FcSt) : (s.setFc d v).sec = s.sec := (rfl)
@[simp] theorem State.setFc_nvm (s : State) (d : Nat) (v : FcSt) : (s.setFc d v).nvm = s.nvm := (rfl)
@[simp] theorem State.setFc_rsc (s : State) (d : Nat) (v : FcSt) : (s.setFc d v).rsc = s.rsc := (rfl)
@[simp] theorem State.setFc_te (s : State) (d : Nat) (v : FcSt) : (s.setFc d v).te = s.te := (rfl)
@[simp] theorem State.setFc_pwr (s : State) (d : Nat) (v : FcSt) : (s.setFc d v).pwr = s.pwr := (rfl)
@[simp] theorem State.setFc_flt (s : State) (d : Nat) (v : FcSt) : (s.setFc d v).flt = s.flt := (rfl)
@[simp] theorem State.setFc_pkf (s : State) (d : Nat) (v : FcSt) : (s.setFc d v).pkf = s.pkf := (rfl)
@[simp] theorem State.setFc_chains (s : State) (d : Nat) (v : FcSt) : (s.setFc d v).chains = s.chains := (rfl)
@[simp] theorem State.setFc_ctes (s : State) (d : Nat) (v : FcSt) : (s.setFc d v).ctes = s.ctes := (rfl)
@[simp] theorem State.setFc_inbox (s : State) (d : Nat) (v : FcSt) : (s.setFc d v).inbox = s.inbox := (rfl)
@[simp] theorem State.setFc_ings (s : State) (d : Nat) (v : FcSt) : (s.setFc d v).ings = s.ings := (rfl)
@[simp] theorem State.setFc_dfus (s : State) (d : Nat) (v : FcSt) : (s.setFc d v).dfus = s.dfus := (rfl)
@[simp] theorem State.setFc_acus (s : State) (d : Nat) (v : FcSt) : (s.setFc d v).acus = s.acus := (rfl)
@[simp] theorem State.setFc_acc (s : State) (d : Nat) (v : FcSt) : (s.setFc d v).acc = s.acc := (rfl)
@[simp] theorem State.setFc_gals (s : State) (d : Nat) (v : FcSt) : (s.setFc d v).gals = s.gals := (rfl)
@[simp] theorem State.setFc_leds (s : State) (d : Nat) (v : FcSt) : (s.setFc d v).leds = s.leds := (rfl)
@[simp] theorem State.setFc_bes (s : State) (d : Nat) (v : FcSt) : (s.setFc d v).bes = s.bes := (rfl)
@[simp] theorem State.setFc_aside (s : State) (d : Nat) (v : FcSt) : (s.setFc d v).aside = s.aside := (rfl)
@[simp] theorem State.setFc_asidePkg (s : State) (d : Nat) (v : FcSt) : (s.setFc d v).asidePkg = s.asidePkg := (rfl)
@[simp] theorem State.setFc_drcs (s : State) (d : Nat) (v : FcSt) : (s.setFc d v).drcs = s.drcs := (rfl)
@[simp] theorem State.setFc_training (s : State) (d : Nat) (v : FcSt) : (s.setFc d v).training = s.training := (rfl)
@[simp] theorem State.setFc_fabs (s : State) (d : Nat) (v : FcSt) : (s.setFc d v).fabs = s.fabs := (rfl)
@[simp] theorem State.setFc_dmas (s : State) (d : Nat) (v : FcSt) : (s.setFc d v).dmas = s.dmas := (rfl)
@[simp] theorem State.setFc_scratch (s : State) (d : Nat) (v : FcSt) : (s.setFc d v).scratch = s.scratch := (rfl)
@[simp] theorem State.setFc_wraps (s : State) (d : Nat) (v : FcSt) : (s.setFc d v).wraps = s.wraps := (rfl)
@[simp] theorem State.setFc_snaps (s : State) (d : Nat) (v : FcSt) : (s.setFc d v).snaps = s.snaps := (rfl)
@[simp] theorem State.setFc_csvs (s : State) (d : Nat) (v : FcSt) : (s.setFc d v).csvs = s.csvs := (rfl)
@[simp] theorem State.setFc_csvNext (s : State) (d : Nat) (v : FcSt) : (s.setFc d v).csvNext = s.csvNext := (rfl)
@[simp] theorem State.setFc_csvGen (s : State) (d : Nat) (v : FcSt) : (s.setFc d v).csvGen = s.csvGen := (rfl)
@[simp] theorem State.setFc_temps (s : State) (d : Nat) (v : FcSt) : (s.setFc d v).temps = s.temps := (rfl)
@[simp] theorem State.setFc_telAt (s : State) (d : Nat) (v : FcSt) : (s.setFc d v).telAt = s.telAt := (rfl)
@[simp] theorem State.setFc_timers (s : State) (d : Nat) (v : FcSt) : (s.setFc d v).timers = s.timers := (rfl)
@[simp] theorem State.setFc_workT (s : State) (d : Nat) (v : FcSt) : (s.setFc d v).workT = s.workT := (rfl)
@[simp] theorem State.setFc_workAt (s : State) (d : Nat) (v : FcSt) : (s.setFc d v).workAt = s.workAt := (rfl)
@[simp] theorem State.rd_setFc (s : State) (d : Nat) (v : FcSt) (a : Nat) : (s.setFc d v).rd a = s.rd a := (rfl)
@[simp] theorem State.get_setFc (s : State) (d : Nat) (v : FcSt) (f : RF) : (s.setFc d v).get f = s.get f := (rfl)
@[simp] theorem State.fc_set_same (s : State) (d : Nat) (v : FcSt) : (s.setFc d v).fc d = v := Store.get_put_same _ _ _ _
theorem State.fc_set_other (s : State) {d j : Nat} (v : FcSt) (h : j ≠ d) : (s.setFc d v).fc j = s.fc j :=
  Store.get_put_other _ _ _ h
@[simp] theorem State.fc_put (s : State) (f : RF) (x d : Nat) : (s.put f x).fc d = s.fc d := (rfl)

/-! ### `setGal` -/

@[simp] theorem State.setGal_part (s : State) (d : Nat) (v : GalSt) : (s.setGal d v).part = s.part := (rfl)
@[simp] theorem State.setGal_pending (s : State) (d : Nat) (v : GalSt) : (s.setGal d v).pending = s.pending := (rfl)
@[simp] theorem State.setGal_now (s : State) (d : Nat) (v : GalSt) : (s.setGal d v).now = s.now := (rfl)
@[simp] theorem State.setGal_draws (s : State) (d : Nat) (v : GalSt) : (s.setGal d v).draws = s.draws := (rfl)
@[simp] theorem State.setGal_regs (s : State) (d : Nat) (v : GalSt) : (s.setGal d v).regs = s.regs := (rfl)
@[simp] theorem State.setGal_dram (s : State) (d : Nat) (v : GalSt) : (s.setGal d v).dram = s.dram := (rfl)
@[simp] theorem State.setGal_mirrors (s : State) (d : Nat) (v : GalSt) : (s.setGal d v).mirrors = s.mirrors := (rfl)
@[simp] theorem State.setGal_flash (s : State) (d : Nat) (v : GalSt) : (s.setGal d v).flash = s.flash := (rfl)
@[simp] theorem State.setGal_out (s : State) (d : Nat) (v : GalSt) : (s.setGal d v).out = s.out := (rfl)
@[simp] theorem State.setGal_evts (s : State) (d : Nat) (v : GalSt) : (s.setGal d v).evts = s.evts := (rfl)
@[simp] theorem State.setGal_evtLost (s : State) (d : Nat) (v : GalSt) : (s.setGal d v).evtLost = s.evtLost := (rfl)
@[simp] theorem State.setGal_units (s : State) (d : Nat) (v : GalSt) : (s.setGal d v).units = s.units := (rfl)
@[simp] theorem State.setGal_rings (s : State) (d : Nat) (v : GalSt) : (s.setGal d v).rings = s.rings := (rfl)
@[simp] theorem State.setGal_ports (s : State) (d : Nat) (v : GalSt) : (s.setGal d v).ports = s.ports := (rfl)
@[simp] theorem State.setGal_lands (s : State) (d : Nat) (v : GalSt) : (s.setGal d v).lands = s.lands := (rfl)
@[simp] theorem State.setGal_rg (s : State) (d : Nat) (v : GalSt) : (s.setGal d v).rg = s.rg := (rfl)
@[simp] theorem State.setGal_sec (s : State) (d : Nat) (v : GalSt) : (s.setGal d v).sec = s.sec := (rfl)
@[simp] theorem State.setGal_nvm (s : State) (d : Nat) (v : GalSt) : (s.setGal d v).nvm = s.nvm := (rfl)
@[simp] theorem State.setGal_rsc (s : State) (d : Nat) (v : GalSt) : (s.setGal d v).rsc = s.rsc := (rfl)
@[simp] theorem State.setGal_te (s : State) (d : Nat) (v : GalSt) : (s.setGal d v).te = s.te := (rfl)
@[simp] theorem State.setGal_pwr (s : State) (d : Nat) (v : GalSt) : (s.setGal d v).pwr = s.pwr := (rfl)
@[simp] theorem State.setGal_flt (s : State) (d : Nat) (v : GalSt) : (s.setGal d v).flt = s.flt := (rfl)
@[simp] theorem State.setGal_pkf (s : State) (d : Nat) (v : GalSt) : (s.setGal d v).pkf = s.pkf := (rfl)
@[simp] theorem State.setGal_chains (s : State) (d : Nat) (v : GalSt) : (s.setGal d v).chains = s.chains := (rfl)
@[simp] theorem State.setGal_ctes (s : State) (d : Nat) (v : GalSt) : (s.setGal d v).ctes = s.ctes := (rfl)
@[simp] theorem State.setGal_inbox (s : State) (d : Nat) (v : GalSt) : (s.setGal d v).inbox = s.inbox := (rfl)
@[simp] theorem State.setGal_ings (s : State) (d : Nat) (v : GalSt) : (s.setGal d v).ings = s.ings := (rfl)
@[simp] theorem State.setGal_dfus (s : State) (d : Nat) (v : GalSt) : (s.setGal d v).dfus = s.dfus := (rfl)
@[simp] theorem State.setGal_acus (s : State) (d : Nat) (v : GalSt) : (s.setGal d v).acus = s.acus := (rfl)
@[simp] theorem State.setGal_acc (s : State) (d : Nat) (v : GalSt) : (s.setGal d v).acc = s.acc := (rfl)
@[simp] theorem State.setGal_fcs (s : State) (d : Nat) (v : GalSt) : (s.setGal d v).fcs = s.fcs := (rfl)
@[simp] theorem State.setGal_leds (s : State) (d : Nat) (v : GalSt) : (s.setGal d v).leds = s.leds := (rfl)
@[simp] theorem State.setGal_bes (s : State) (d : Nat) (v : GalSt) : (s.setGal d v).bes = s.bes := (rfl)
@[simp] theorem State.setGal_aside (s : State) (d : Nat) (v : GalSt) : (s.setGal d v).aside = s.aside := (rfl)
@[simp] theorem State.setGal_asidePkg (s : State) (d : Nat) (v : GalSt) : (s.setGal d v).asidePkg = s.asidePkg := (rfl)
@[simp] theorem State.setGal_drcs (s : State) (d : Nat) (v : GalSt) : (s.setGal d v).drcs = s.drcs := (rfl)
@[simp] theorem State.setGal_training (s : State) (d : Nat) (v : GalSt) : (s.setGal d v).training = s.training := (rfl)
@[simp] theorem State.setGal_fabs (s : State) (d : Nat) (v : GalSt) : (s.setGal d v).fabs = s.fabs := (rfl)
@[simp] theorem State.setGal_dmas (s : State) (d : Nat) (v : GalSt) : (s.setGal d v).dmas = s.dmas := (rfl)
@[simp] theorem State.setGal_scratch (s : State) (d : Nat) (v : GalSt) : (s.setGal d v).scratch = s.scratch := (rfl)
@[simp] theorem State.setGal_wraps (s : State) (d : Nat) (v : GalSt) : (s.setGal d v).wraps = s.wraps := (rfl)
@[simp] theorem State.setGal_snaps (s : State) (d : Nat) (v : GalSt) : (s.setGal d v).snaps = s.snaps := (rfl)
@[simp] theorem State.setGal_csvs (s : State) (d : Nat) (v : GalSt) : (s.setGal d v).csvs = s.csvs := (rfl)
@[simp] theorem State.setGal_csvNext (s : State) (d : Nat) (v : GalSt) : (s.setGal d v).csvNext = s.csvNext := (rfl)
@[simp] theorem State.setGal_csvGen (s : State) (d : Nat) (v : GalSt) : (s.setGal d v).csvGen = s.csvGen := (rfl)
@[simp] theorem State.setGal_temps (s : State) (d : Nat) (v : GalSt) : (s.setGal d v).temps = s.temps := (rfl)
@[simp] theorem State.setGal_telAt (s : State) (d : Nat) (v : GalSt) : (s.setGal d v).telAt = s.telAt := (rfl)
@[simp] theorem State.setGal_timers (s : State) (d : Nat) (v : GalSt) : (s.setGal d v).timers = s.timers := (rfl)
@[simp] theorem State.setGal_workT (s : State) (d : Nat) (v : GalSt) : (s.setGal d v).workT = s.workT := (rfl)
@[simp] theorem State.setGal_workAt (s : State) (d : Nat) (v : GalSt) : (s.setGal d v).workAt = s.workAt := (rfl)
@[simp] theorem State.rd_setGal (s : State) (d : Nat) (v : GalSt) (a : Nat) : (s.setGal d v).rd a = s.rd a := (rfl)
@[simp] theorem State.get_setGal (s : State) (d : Nat) (v : GalSt) (f : RF) : (s.setGal d v).get f = s.get f := (rfl)
@[simp] theorem State.gal_set_same (s : State) (d : Nat) (v : GalSt) : (s.setGal d v).gal d = v := Store.get_put_same _ _ _ _
theorem State.gal_set_other (s : State) {d j : Nat} (v : GalSt) (h : j ≠ d) : (s.setGal d v).gal j = s.gal j :=
  Store.get_put_other _ _ _ h
@[simp] theorem State.gal_put (s : State) (f : RF) (x d : Nat) : (s.put f x).gal d = s.gal d := (rfl)

/-! ### `setLed` -/

@[simp] theorem State.setLed_part (s : State) (d : Nat) (v : LedSt) : (s.setLed d v).part = s.part := (rfl)
@[simp] theorem State.setLed_pending (s : State) (d : Nat) (v : LedSt) : (s.setLed d v).pending = s.pending := (rfl)
@[simp] theorem State.setLed_now (s : State) (d : Nat) (v : LedSt) : (s.setLed d v).now = s.now := (rfl)
@[simp] theorem State.setLed_draws (s : State) (d : Nat) (v : LedSt) : (s.setLed d v).draws = s.draws := (rfl)
@[simp] theorem State.setLed_regs (s : State) (d : Nat) (v : LedSt) : (s.setLed d v).regs = s.regs := (rfl)
@[simp] theorem State.setLed_dram (s : State) (d : Nat) (v : LedSt) : (s.setLed d v).dram = s.dram := (rfl)
@[simp] theorem State.setLed_mirrors (s : State) (d : Nat) (v : LedSt) : (s.setLed d v).mirrors = s.mirrors := (rfl)
@[simp] theorem State.setLed_flash (s : State) (d : Nat) (v : LedSt) : (s.setLed d v).flash = s.flash := (rfl)
@[simp] theorem State.setLed_out (s : State) (d : Nat) (v : LedSt) : (s.setLed d v).out = s.out := (rfl)
@[simp] theorem State.setLed_evts (s : State) (d : Nat) (v : LedSt) : (s.setLed d v).evts = s.evts := (rfl)
@[simp] theorem State.setLed_evtLost (s : State) (d : Nat) (v : LedSt) : (s.setLed d v).evtLost = s.evtLost := (rfl)
@[simp] theorem State.setLed_units (s : State) (d : Nat) (v : LedSt) : (s.setLed d v).units = s.units := (rfl)
@[simp] theorem State.setLed_rings (s : State) (d : Nat) (v : LedSt) : (s.setLed d v).rings = s.rings := (rfl)
@[simp] theorem State.setLed_ports (s : State) (d : Nat) (v : LedSt) : (s.setLed d v).ports = s.ports := (rfl)
@[simp] theorem State.setLed_lands (s : State) (d : Nat) (v : LedSt) : (s.setLed d v).lands = s.lands := (rfl)
@[simp] theorem State.setLed_rg (s : State) (d : Nat) (v : LedSt) : (s.setLed d v).rg = s.rg := (rfl)
@[simp] theorem State.setLed_sec (s : State) (d : Nat) (v : LedSt) : (s.setLed d v).sec = s.sec := (rfl)
@[simp] theorem State.setLed_nvm (s : State) (d : Nat) (v : LedSt) : (s.setLed d v).nvm = s.nvm := (rfl)
@[simp] theorem State.setLed_rsc (s : State) (d : Nat) (v : LedSt) : (s.setLed d v).rsc = s.rsc := (rfl)
@[simp] theorem State.setLed_te (s : State) (d : Nat) (v : LedSt) : (s.setLed d v).te = s.te := (rfl)
@[simp] theorem State.setLed_pwr (s : State) (d : Nat) (v : LedSt) : (s.setLed d v).pwr = s.pwr := (rfl)
@[simp] theorem State.setLed_flt (s : State) (d : Nat) (v : LedSt) : (s.setLed d v).flt = s.flt := (rfl)
@[simp] theorem State.setLed_pkf (s : State) (d : Nat) (v : LedSt) : (s.setLed d v).pkf = s.pkf := (rfl)
@[simp] theorem State.setLed_chains (s : State) (d : Nat) (v : LedSt) : (s.setLed d v).chains = s.chains := (rfl)
@[simp] theorem State.setLed_ctes (s : State) (d : Nat) (v : LedSt) : (s.setLed d v).ctes = s.ctes := (rfl)
@[simp] theorem State.setLed_inbox (s : State) (d : Nat) (v : LedSt) : (s.setLed d v).inbox = s.inbox := (rfl)
@[simp] theorem State.setLed_ings (s : State) (d : Nat) (v : LedSt) : (s.setLed d v).ings = s.ings := (rfl)
@[simp] theorem State.setLed_dfus (s : State) (d : Nat) (v : LedSt) : (s.setLed d v).dfus = s.dfus := (rfl)
@[simp] theorem State.setLed_acus (s : State) (d : Nat) (v : LedSt) : (s.setLed d v).acus = s.acus := (rfl)
@[simp] theorem State.setLed_acc (s : State) (d : Nat) (v : LedSt) : (s.setLed d v).acc = s.acc := (rfl)
@[simp] theorem State.setLed_fcs (s : State) (d : Nat) (v : LedSt) : (s.setLed d v).fcs = s.fcs := (rfl)
@[simp] theorem State.setLed_gals (s : State) (d : Nat) (v : LedSt) : (s.setLed d v).gals = s.gals := (rfl)
@[simp] theorem State.setLed_bes (s : State) (d : Nat) (v : LedSt) : (s.setLed d v).bes = s.bes := (rfl)
@[simp] theorem State.setLed_aside (s : State) (d : Nat) (v : LedSt) : (s.setLed d v).aside = s.aside := (rfl)
@[simp] theorem State.setLed_asidePkg (s : State) (d : Nat) (v : LedSt) : (s.setLed d v).asidePkg = s.asidePkg := (rfl)
@[simp] theorem State.setLed_drcs (s : State) (d : Nat) (v : LedSt) : (s.setLed d v).drcs = s.drcs := (rfl)
@[simp] theorem State.setLed_training (s : State) (d : Nat) (v : LedSt) : (s.setLed d v).training = s.training := (rfl)
@[simp] theorem State.setLed_fabs (s : State) (d : Nat) (v : LedSt) : (s.setLed d v).fabs = s.fabs := (rfl)
@[simp] theorem State.setLed_dmas (s : State) (d : Nat) (v : LedSt) : (s.setLed d v).dmas = s.dmas := (rfl)
@[simp] theorem State.setLed_scratch (s : State) (d : Nat) (v : LedSt) : (s.setLed d v).scratch = s.scratch := (rfl)
@[simp] theorem State.setLed_wraps (s : State) (d : Nat) (v : LedSt) : (s.setLed d v).wraps = s.wraps := (rfl)
@[simp] theorem State.setLed_snaps (s : State) (d : Nat) (v : LedSt) : (s.setLed d v).snaps = s.snaps := (rfl)
@[simp] theorem State.setLed_csvs (s : State) (d : Nat) (v : LedSt) : (s.setLed d v).csvs = s.csvs := (rfl)
@[simp] theorem State.setLed_csvNext (s : State) (d : Nat) (v : LedSt) : (s.setLed d v).csvNext = s.csvNext := (rfl)
@[simp] theorem State.setLed_csvGen (s : State) (d : Nat) (v : LedSt) : (s.setLed d v).csvGen = s.csvGen := (rfl)
@[simp] theorem State.setLed_temps (s : State) (d : Nat) (v : LedSt) : (s.setLed d v).temps = s.temps := (rfl)
@[simp] theorem State.setLed_telAt (s : State) (d : Nat) (v : LedSt) : (s.setLed d v).telAt = s.telAt := (rfl)
@[simp] theorem State.setLed_timers (s : State) (d : Nat) (v : LedSt) : (s.setLed d v).timers = s.timers := (rfl)
@[simp] theorem State.setLed_workT (s : State) (d : Nat) (v : LedSt) : (s.setLed d v).workT = s.workT := (rfl)
@[simp] theorem State.setLed_workAt (s : State) (d : Nat) (v : LedSt) : (s.setLed d v).workAt = s.workAt := (rfl)
@[simp] theorem State.rd_setLed (s : State) (d : Nat) (v : LedSt) (a : Nat) : (s.setLed d v).rd a = s.rd a := (rfl)
@[simp] theorem State.get_setLed (s : State) (d : Nat) (v : LedSt) (f : RF) : (s.setLed d v).get f = s.get f := (rfl)
@[simp] theorem State.led_set_same (s : State) (d : Nat) (v : LedSt) : (s.setLed d v).led d = v := Store.get_put_same _ _ _ _
theorem State.led_set_other (s : State) {d j : Nat} (v : LedSt) (h : j ≠ d) : (s.setLed d v).led j = s.led j :=
  Store.get_put_other _ _ _ h
@[simp] theorem State.led_put (s : State) (f : RF) (x d : Nat) : (s.put f x).led d = s.led d := (rfl)

/-! ### `setDfu` -/

@[simp] theorem State.setDfu_part (s : State) (d : Nat) (v : DfuSt) : (s.setDfu d v).part = s.part := (rfl)
@[simp] theorem State.setDfu_pending (s : State) (d : Nat) (v : DfuSt) : (s.setDfu d v).pending = s.pending := (rfl)
@[simp] theorem State.setDfu_now (s : State) (d : Nat) (v : DfuSt) : (s.setDfu d v).now = s.now := (rfl)
@[simp] theorem State.setDfu_draws (s : State) (d : Nat) (v : DfuSt) : (s.setDfu d v).draws = s.draws := (rfl)
@[simp] theorem State.setDfu_regs (s : State) (d : Nat) (v : DfuSt) : (s.setDfu d v).regs = s.regs := (rfl)
@[simp] theorem State.setDfu_dram (s : State) (d : Nat) (v : DfuSt) : (s.setDfu d v).dram = s.dram := (rfl)
@[simp] theorem State.setDfu_mirrors (s : State) (d : Nat) (v : DfuSt) : (s.setDfu d v).mirrors = s.mirrors := (rfl)
@[simp] theorem State.setDfu_flash (s : State) (d : Nat) (v : DfuSt) : (s.setDfu d v).flash = s.flash := (rfl)
@[simp] theorem State.setDfu_out (s : State) (d : Nat) (v : DfuSt) : (s.setDfu d v).out = s.out := (rfl)
@[simp] theorem State.setDfu_evts (s : State) (d : Nat) (v : DfuSt) : (s.setDfu d v).evts = s.evts := (rfl)
@[simp] theorem State.setDfu_evtLost (s : State) (d : Nat) (v : DfuSt) : (s.setDfu d v).evtLost = s.evtLost := (rfl)
@[simp] theorem State.setDfu_units (s : State) (d : Nat) (v : DfuSt) : (s.setDfu d v).units = s.units := (rfl)
@[simp] theorem State.setDfu_rings (s : State) (d : Nat) (v : DfuSt) : (s.setDfu d v).rings = s.rings := (rfl)
@[simp] theorem State.setDfu_ports (s : State) (d : Nat) (v : DfuSt) : (s.setDfu d v).ports = s.ports := (rfl)
@[simp] theorem State.setDfu_lands (s : State) (d : Nat) (v : DfuSt) : (s.setDfu d v).lands = s.lands := (rfl)
@[simp] theorem State.setDfu_rg (s : State) (d : Nat) (v : DfuSt) : (s.setDfu d v).rg = s.rg := (rfl)
@[simp] theorem State.setDfu_sec (s : State) (d : Nat) (v : DfuSt) : (s.setDfu d v).sec = s.sec := (rfl)
@[simp] theorem State.setDfu_nvm (s : State) (d : Nat) (v : DfuSt) : (s.setDfu d v).nvm = s.nvm := (rfl)
@[simp] theorem State.setDfu_rsc (s : State) (d : Nat) (v : DfuSt) : (s.setDfu d v).rsc = s.rsc := (rfl)
@[simp] theorem State.setDfu_te (s : State) (d : Nat) (v : DfuSt) : (s.setDfu d v).te = s.te := (rfl)
@[simp] theorem State.setDfu_pwr (s : State) (d : Nat) (v : DfuSt) : (s.setDfu d v).pwr = s.pwr := (rfl)
@[simp] theorem State.setDfu_flt (s : State) (d : Nat) (v : DfuSt) : (s.setDfu d v).flt = s.flt := (rfl)
@[simp] theorem State.setDfu_pkf (s : State) (d : Nat) (v : DfuSt) : (s.setDfu d v).pkf = s.pkf := (rfl)
@[simp] theorem State.setDfu_chains (s : State) (d : Nat) (v : DfuSt) : (s.setDfu d v).chains = s.chains := (rfl)
@[simp] theorem State.setDfu_ctes (s : State) (d : Nat) (v : DfuSt) : (s.setDfu d v).ctes = s.ctes := (rfl)
@[simp] theorem State.setDfu_inbox (s : State) (d : Nat) (v : DfuSt) : (s.setDfu d v).inbox = s.inbox := (rfl)
@[simp] theorem State.setDfu_ings (s : State) (d : Nat) (v : DfuSt) : (s.setDfu d v).ings = s.ings := (rfl)
@[simp] theorem State.setDfu_acus (s : State) (d : Nat) (v : DfuSt) : (s.setDfu d v).acus = s.acus := (rfl)
@[simp] theorem State.setDfu_acc (s : State) (d : Nat) (v : DfuSt) : (s.setDfu d v).acc = s.acc := (rfl)
@[simp] theorem State.setDfu_fcs (s : State) (d : Nat) (v : DfuSt) : (s.setDfu d v).fcs = s.fcs := (rfl)
@[simp] theorem State.setDfu_gals (s : State) (d : Nat) (v : DfuSt) : (s.setDfu d v).gals = s.gals := (rfl)
@[simp] theorem State.setDfu_leds (s : State) (d : Nat) (v : DfuSt) : (s.setDfu d v).leds = s.leds := (rfl)
@[simp] theorem State.setDfu_bes (s : State) (d : Nat) (v : DfuSt) : (s.setDfu d v).bes = s.bes := (rfl)
@[simp] theorem State.setDfu_aside (s : State) (d : Nat) (v : DfuSt) : (s.setDfu d v).aside = s.aside := (rfl)
@[simp] theorem State.setDfu_asidePkg (s : State) (d : Nat) (v : DfuSt) : (s.setDfu d v).asidePkg = s.asidePkg := (rfl)
@[simp] theorem State.setDfu_drcs (s : State) (d : Nat) (v : DfuSt) : (s.setDfu d v).drcs = s.drcs := (rfl)
@[simp] theorem State.setDfu_training (s : State) (d : Nat) (v : DfuSt) : (s.setDfu d v).training = s.training := (rfl)
@[simp] theorem State.setDfu_fabs (s : State) (d : Nat) (v : DfuSt) : (s.setDfu d v).fabs = s.fabs := (rfl)
@[simp] theorem State.setDfu_dmas (s : State) (d : Nat) (v : DfuSt) : (s.setDfu d v).dmas = s.dmas := (rfl)
@[simp] theorem State.setDfu_scratch (s : State) (d : Nat) (v : DfuSt) : (s.setDfu d v).scratch = s.scratch := (rfl)
@[simp] theorem State.setDfu_wraps (s : State) (d : Nat) (v : DfuSt) : (s.setDfu d v).wraps = s.wraps := (rfl)
@[simp] theorem State.setDfu_snaps (s : State) (d : Nat) (v : DfuSt) : (s.setDfu d v).snaps = s.snaps := (rfl)
@[simp] theorem State.setDfu_csvs (s : State) (d : Nat) (v : DfuSt) : (s.setDfu d v).csvs = s.csvs := (rfl)
@[simp] theorem State.setDfu_csvNext (s : State) (d : Nat) (v : DfuSt) : (s.setDfu d v).csvNext = s.csvNext := (rfl)
@[simp] theorem State.setDfu_csvGen (s : State) (d : Nat) (v : DfuSt) : (s.setDfu d v).csvGen = s.csvGen := (rfl)
@[simp] theorem State.setDfu_temps (s : State) (d : Nat) (v : DfuSt) : (s.setDfu d v).temps = s.temps := (rfl)
@[simp] theorem State.setDfu_telAt (s : State) (d : Nat) (v : DfuSt) : (s.setDfu d v).telAt = s.telAt := (rfl)
@[simp] theorem State.setDfu_timers (s : State) (d : Nat) (v : DfuSt) : (s.setDfu d v).timers = s.timers := (rfl)
@[simp] theorem State.setDfu_workT (s : State) (d : Nat) (v : DfuSt) : (s.setDfu d v).workT = s.workT := (rfl)
@[simp] theorem State.setDfu_workAt (s : State) (d : Nat) (v : DfuSt) : (s.setDfu d v).workAt = s.workAt := (rfl)
@[simp] theorem State.rd_setDfu (s : State) (d : Nat) (v : DfuSt) (a : Nat) : (s.setDfu d v).rd a = s.rd a := (rfl)
@[simp] theorem State.get_setDfu (s : State) (d : Nat) (v : DfuSt) (f : RF) : (s.setDfu d v).get f = s.get f := (rfl)
@[simp] theorem State.dfu_set_same (s : State) (d : Nat) (v : DfuSt) : (s.setDfu d v).dfu d = v := Store.get_put_same _ _ _ _
theorem State.dfu_set_other (s : State) {d j : Nat} (v : DfuSt) (h : j ≠ d) : (s.setDfu d v).dfu j = s.dfu j :=
  Store.get_put_other _ _ _ h
@[simp] theorem State.dfu_put (s : State) (f : RF) (x d : Nat) : (s.put f x).dfu d = s.dfu d := (rfl)

/-! ### `setAcu` -/

@[simp] theorem State.setAcu_part (s : State) (d : Nat) (v : AcuSt) : (s.setAcu d v).part = s.part := (rfl)
@[simp] theorem State.setAcu_pending (s : State) (d : Nat) (v : AcuSt) : (s.setAcu d v).pending = s.pending := (rfl)
@[simp] theorem State.setAcu_now (s : State) (d : Nat) (v : AcuSt) : (s.setAcu d v).now = s.now := (rfl)
@[simp] theorem State.setAcu_draws (s : State) (d : Nat) (v : AcuSt) : (s.setAcu d v).draws = s.draws := (rfl)
@[simp] theorem State.setAcu_regs (s : State) (d : Nat) (v : AcuSt) : (s.setAcu d v).regs = s.regs := (rfl)
@[simp] theorem State.setAcu_dram (s : State) (d : Nat) (v : AcuSt) : (s.setAcu d v).dram = s.dram := (rfl)
@[simp] theorem State.setAcu_mirrors (s : State) (d : Nat) (v : AcuSt) : (s.setAcu d v).mirrors = s.mirrors := (rfl)
@[simp] theorem State.setAcu_flash (s : State) (d : Nat) (v : AcuSt) : (s.setAcu d v).flash = s.flash := (rfl)
@[simp] theorem State.setAcu_out (s : State) (d : Nat) (v : AcuSt) : (s.setAcu d v).out = s.out := (rfl)
@[simp] theorem State.setAcu_evts (s : State) (d : Nat) (v : AcuSt) : (s.setAcu d v).evts = s.evts := (rfl)
@[simp] theorem State.setAcu_evtLost (s : State) (d : Nat) (v : AcuSt) : (s.setAcu d v).evtLost = s.evtLost := (rfl)
@[simp] theorem State.setAcu_units (s : State) (d : Nat) (v : AcuSt) : (s.setAcu d v).units = s.units := (rfl)
@[simp] theorem State.setAcu_rings (s : State) (d : Nat) (v : AcuSt) : (s.setAcu d v).rings = s.rings := (rfl)
@[simp] theorem State.setAcu_ports (s : State) (d : Nat) (v : AcuSt) : (s.setAcu d v).ports = s.ports := (rfl)
@[simp] theorem State.setAcu_lands (s : State) (d : Nat) (v : AcuSt) : (s.setAcu d v).lands = s.lands := (rfl)
@[simp] theorem State.setAcu_rg (s : State) (d : Nat) (v : AcuSt) : (s.setAcu d v).rg = s.rg := (rfl)
@[simp] theorem State.setAcu_sec (s : State) (d : Nat) (v : AcuSt) : (s.setAcu d v).sec = s.sec := (rfl)
@[simp] theorem State.setAcu_nvm (s : State) (d : Nat) (v : AcuSt) : (s.setAcu d v).nvm = s.nvm := (rfl)
@[simp] theorem State.setAcu_rsc (s : State) (d : Nat) (v : AcuSt) : (s.setAcu d v).rsc = s.rsc := (rfl)
@[simp] theorem State.setAcu_te (s : State) (d : Nat) (v : AcuSt) : (s.setAcu d v).te = s.te := (rfl)
@[simp] theorem State.setAcu_pwr (s : State) (d : Nat) (v : AcuSt) : (s.setAcu d v).pwr = s.pwr := (rfl)
@[simp] theorem State.setAcu_flt (s : State) (d : Nat) (v : AcuSt) : (s.setAcu d v).flt = s.flt := (rfl)
@[simp] theorem State.setAcu_pkf (s : State) (d : Nat) (v : AcuSt) : (s.setAcu d v).pkf = s.pkf := (rfl)
@[simp] theorem State.setAcu_chains (s : State) (d : Nat) (v : AcuSt) : (s.setAcu d v).chains = s.chains := (rfl)
@[simp] theorem State.setAcu_ctes (s : State) (d : Nat) (v : AcuSt) : (s.setAcu d v).ctes = s.ctes := (rfl)
@[simp] theorem State.setAcu_inbox (s : State) (d : Nat) (v : AcuSt) : (s.setAcu d v).inbox = s.inbox := (rfl)
@[simp] theorem State.setAcu_ings (s : State) (d : Nat) (v : AcuSt) : (s.setAcu d v).ings = s.ings := (rfl)
@[simp] theorem State.setAcu_dfus (s : State) (d : Nat) (v : AcuSt) : (s.setAcu d v).dfus = s.dfus := (rfl)
@[simp] theorem State.setAcu_acc (s : State) (d : Nat) (v : AcuSt) : (s.setAcu d v).acc = s.acc := (rfl)
@[simp] theorem State.setAcu_fcs (s : State) (d : Nat) (v : AcuSt) : (s.setAcu d v).fcs = s.fcs := (rfl)
@[simp] theorem State.setAcu_gals (s : State) (d : Nat) (v : AcuSt) : (s.setAcu d v).gals = s.gals := (rfl)
@[simp] theorem State.setAcu_leds (s : State) (d : Nat) (v : AcuSt) : (s.setAcu d v).leds = s.leds := (rfl)
@[simp] theorem State.setAcu_bes (s : State) (d : Nat) (v : AcuSt) : (s.setAcu d v).bes = s.bes := (rfl)
@[simp] theorem State.setAcu_aside (s : State) (d : Nat) (v : AcuSt) : (s.setAcu d v).aside = s.aside := (rfl)
@[simp] theorem State.setAcu_asidePkg (s : State) (d : Nat) (v : AcuSt) : (s.setAcu d v).asidePkg = s.asidePkg := (rfl)
@[simp] theorem State.setAcu_drcs (s : State) (d : Nat) (v : AcuSt) : (s.setAcu d v).drcs = s.drcs := (rfl)
@[simp] theorem State.setAcu_training (s : State) (d : Nat) (v : AcuSt) : (s.setAcu d v).training = s.training := (rfl)
@[simp] theorem State.setAcu_fabs (s : State) (d : Nat) (v : AcuSt) : (s.setAcu d v).fabs = s.fabs := (rfl)
@[simp] theorem State.setAcu_dmas (s : State) (d : Nat) (v : AcuSt) : (s.setAcu d v).dmas = s.dmas := (rfl)
@[simp] theorem State.setAcu_scratch (s : State) (d : Nat) (v : AcuSt) : (s.setAcu d v).scratch = s.scratch := (rfl)
@[simp] theorem State.setAcu_wraps (s : State) (d : Nat) (v : AcuSt) : (s.setAcu d v).wraps = s.wraps := (rfl)
@[simp] theorem State.setAcu_snaps (s : State) (d : Nat) (v : AcuSt) : (s.setAcu d v).snaps = s.snaps := (rfl)
@[simp] theorem State.setAcu_csvs (s : State) (d : Nat) (v : AcuSt) : (s.setAcu d v).csvs = s.csvs := (rfl)
@[simp] theorem State.setAcu_csvNext (s : State) (d : Nat) (v : AcuSt) : (s.setAcu d v).csvNext = s.csvNext := (rfl)
@[simp] theorem State.setAcu_csvGen (s : State) (d : Nat) (v : AcuSt) : (s.setAcu d v).csvGen = s.csvGen := (rfl)
@[simp] theorem State.setAcu_temps (s : State) (d : Nat) (v : AcuSt) : (s.setAcu d v).temps = s.temps := (rfl)
@[simp] theorem State.setAcu_telAt (s : State) (d : Nat) (v : AcuSt) : (s.setAcu d v).telAt = s.telAt := (rfl)
@[simp] theorem State.setAcu_timers (s : State) (d : Nat) (v : AcuSt) : (s.setAcu d v).timers = s.timers := (rfl)
@[simp] theorem State.setAcu_workT (s : State) (d : Nat) (v : AcuSt) : (s.setAcu d v).workT = s.workT := (rfl)
@[simp] theorem State.setAcu_workAt (s : State) (d : Nat) (v : AcuSt) : (s.setAcu d v).workAt = s.workAt := (rfl)
@[simp] theorem State.rd_setAcu (s : State) (d : Nat) (v : AcuSt) (a : Nat) : (s.setAcu d v).rd a = s.rd a := (rfl)
@[simp] theorem State.get_setAcu (s : State) (d : Nat) (v : AcuSt) (f : RF) : (s.setAcu d v).get f = s.get f := (rfl)
@[simp] theorem State.acu_set_same (s : State) (d : Nat) (v : AcuSt) : (s.setAcu d v).acu d = v := Store.get_put_same _ _ _ _
theorem State.acu_set_other (s : State) {d j : Nat} (v : AcuSt) (h : j ≠ d) : (s.setAcu d v).acu j = s.acu j :=
  Store.get_put_other _ _ _ h
@[simp] theorem State.acu_put (s : State) (f : RF) (x d : Nat) : (s.put f x).acu d = s.acu d := (rfl)

/-! ### `setIng` -/

@[simp] theorem State.setIng_part (s : State) (d : Nat) (v : IngSt) : (s.setIng d v).part = s.part := (rfl)
@[simp] theorem State.setIng_pending (s : State) (d : Nat) (v : IngSt) : (s.setIng d v).pending = s.pending := (rfl)
@[simp] theorem State.setIng_now (s : State) (d : Nat) (v : IngSt) : (s.setIng d v).now = s.now := (rfl)
@[simp] theorem State.setIng_draws (s : State) (d : Nat) (v : IngSt) : (s.setIng d v).draws = s.draws := (rfl)
@[simp] theorem State.setIng_regs (s : State) (d : Nat) (v : IngSt) : (s.setIng d v).regs = s.regs := (rfl)
@[simp] theorem State.setIng_dram (s : State) (d : Nat) (v : IngSt) : (s.setIng d v).dram = s.dram := (rfl)
@[simp] theorem State.setIng_mirrors (s : State) (d : Nat) (v : IngSt) : (s.setIng d v).mirrors = s.mirrors := (rfl)
@[simp] theorem State.setIng_flash (s : State) (d : Nat) (v : IngSt) : (s.setIng d v).flash = s.flash := (rfl)
@[simp] theorem State.setIng_out (s : State) (d : Nat) (v : IngSt) : (s.setIng d v).out = s.out := (rfl)
@[simp] theorem State.setIng_evts (s : State) (d : Nat) (v : IngSt) : (s.setIng d v).evts = s.evts := (rfl)
@[simp] theorem State.setIng_evtLost (s : State) (d : Nat) (v : IngSt) : (s.setIng d v).evtLost = s.evtLost := (rfl)
@[simp] theorem State.setIng_units (s : State) (d : Nat) (v : IngSt) : (s.setIng d v).units = s.units := (rfl)
@[simp] theorem State.setIng_rings (s : State) (d : Nat) (v : IngSt) : (s.setIng d v).rings = s.rings := (rfl)
@[simp] theorem State.setIng_ports (s : State) (d : Nat) (v : IngSt) : (s.setIng d v).ports = s.ports := (rfl)
@[simp] theorem State.setIng_lands (s : State) (d : Nat) (v : IngSt) : (s.setIng d v).lands = s.lands := (rfl)
@[simp] theorem State.setIng_rg (s : State) (d : Nat) (v : IngSt) : (s.setIng d v).rg = s.rg := (rfl)
@[simp] theorem State.setIng_sec (s : State) (d : Nat) (v : IngSt) : (s.setIng d v).sec = s.sec := (rfl)
@[simp] theorem State.setIng_nvm (s : State) (d : Nat) (v : IngSt) : (s.setIng d v).nvm = s.nvm := (rfl)
@[simp] theorem State.setIng_rsc (s : State) (d : Nat) (v : IngSt) : (s.setIng d v).rsc = s.rsc := (rfl)
@[simp] theorem State.setIng_te (s : State) (d : Nat) (v : IngSt) : (s.setIng d v).te = s.te := (rfl)
@[simp] theorem State.setIng_pwr (s : State) (d : Nat) (v : IngSt) : (s.setIng d v).pwr = s.pwr := (rfl)
@[simp] theorem State.setIng_flt (s : State) (d : Nat) (v : IngSt) : (s.setIng d v).flt = s.flt := (rfl)
@[simp] theorem State.setIng_pkf (s : State) (d : Nat) (v : IngSt) : (s.setIng d v).pkf = s.pkf := (rfl)
@[simp] theorem State.setIng_chains (s : State) (d : Nat) (v : IngSt) : (s.setIng d v).chains = s.chains := (rfl)
@[simp] theorem State.setIng_ctes (s : State) (d : Nat) (v : IngSt) : (s.setIng d v).ctes = s.ctes := (rfl)
@[simp] theorem State.setIng_inbox (s : State) (d : Nat) (v : IngSt) : (s.setIng d v).inbox = s.inbox := (rfl)
@[simp] theorem State.setIng_dfus (s : State) (d : Nat) (v : IngSt) : (s.setIng d v).dfus = s.dfus := (rfl)
@[simp] theorem State.setIng_acus (s : State) (d : Nat) (v : IngSt) : (s.setIng d v).acus = s.acus := (rfl)
@[simp] theorem State.setIng_acc (s : State) (d : Nat) (v : IngSt) : (s.setIng d v).acc = s.acc := (rfl)
@[simp] theorem State.setIng_fcs (s : State) (d : Nat) (v : IngSt) : (s.setIng d v).fcs = s.fcs := (rfl)
@[simp] theorem State.setIng_gals (s : State) (d : Nat) (v : IngSt) : (s.setIng d v).gals = s.gals := (rfl)
@[simp] theorem State.setIng_leds (s : State) (d : Nat) (v : IngSt) : (s.setIng d v).leds = s.leds := (rfl)
@[simp] theorem State.setIng_bes (s : State) (d : Nat) (v : IngSt) : (s.setIng d v).bes = s.bes := (rfl)
@[simp] theorem State.setIng_aside (s : State) (d : Nat) (v : IngSt) : (s.setIng d v).aside = s.aside := (rfl)
@[simp] theorem State.setIng_asidePkg (s : State) (d : Nat) (v : IngSt) : (s.setIng d v).asidePkg = s.asidePkg := (rfl)
@[simp] theorem State.setIng_drcs (s : State) (d : Nat) (v : IngSt) : (s.setIng d v).drcs = s.drcs := (rfl)
@[simp] theorem State.setIng_training (s : State) (d : Nat) (v : IngSt) : (s.setIng d v).training = s.training := (rfl)
@[simp] theorem State.setIng_fabs (s : State) (d : Nat) (v : IngSt) : (s.setIng d v).fabs = s.fabs := (rfl)
@[simp] theorem State.setIng_dmas (s : State) (d : Nat) (v : IngSt) : (s.setIng d v).dmas = s.dmas := (rfl)
@[simp] theorem State.setIng_scratch (s : State) (d : Nat) (v : IngSt) : (s.setIng d v).scratch = s.scratch := (rfl)
@[simp] theorem State.setIng_wraps (s : State) (d : Nat) (v : IngSt) : (s.setIng d v).wraps = s.wraps := (rfl)
@[simp] theorem State.setIng_snaps (s : State) (d : Nat) (v : IngSt) : (s.setIng d v).snaps = s.snaps := (rfl)
@[simp] theorem State.setIng_csvs (s : State) (d : Nat) (v : IngSt) : (s.setIng d v).csvs = s.csvs := (rfl)
@[simp] theorem State.setIng_csvNext (s : State) (d : Nat) (v : IngSt) : (s.setIng d v).csvNext = s.csvNext := (rfl)
@[simp] theorem State.setIng_csvGen (s : State) (d : Nat) (v : IngSt) : (s.setIng d v).csvGen = s.csvGen := (rfl)
@[simp] theorem State.setIng_temps (s : State) (d : Nat) (v : IngSt) : (s.setIng d v).temps = s.temps := (rfl)
@[simp] theorem State.setIng_telAt (s : State) (d : Nat) (v : IngSt) : (s.setIng d v).telAt = s.telAt := (rfl)
@[simp] theorem State.setIng_timers (s : State) (d : Nat) (v : IngSt) : (s.setIng d v).timers = s.timers := (rfl)
@[simp] theorem State.setIng_workT (s : State) (d : Nat) (v : IngSt) : (s.setIng d v).workT = s.workT := (rfl)
@[simp] theorem State.setIng_workAt (s : State) (d : Nat) (v : IngSt) : (s.setIng d v).workAt = s.workAt := (rfl)
@[simp] theorem State.rd_setIng (s : State) (d : Nat) (v : IngSt) (a : Nat) : (s.setIng d v).rd a = s.rd a := (rfl)
@[simp] theorem State.get_setIng (s : State) (d : Nat) (v : IngSt) (f : RF) : (s.setIng d v).get f = s.get f := (rfl)
@[simp] theorem State.ing_set_same (s : State) (d : Nat) (v : IngSt) : (s.setIng d v).ing d = v := Store.get_put_same _ _ _ _
theorem State.ing_set_other (s : State) {d j : Nat} (v : IngSt) (h : j ≠ d) : (s.setIng d v).ing j = s.ing j :=
  Store.get_put_other _ _ _ h
@[simp] theorem State.ing_put (s : State) (f : RF) (x d : Nat) : (s.put f x).ing d = s.ing d := (rfl)

/-! ### `setRing` -/

@[simp] theorem State.setRing_part (s : State) (r : Nat) (v : RingSt) : (s.setRing r v).part = s.part := (rfl)
@[simp] theorem State.setRing_pending (s : State) (r : Nat) (v : RingSt) : (s.setRing r v).pending = s.pending := (rfl)
@[simp] theorem State.setRing_now (s : State) (r : Nat) (v : RingSt) : (s.setRing r v).now = s.now := (rfl)
@[simp] theorem State.setRing_draws (s : State) (r : Nat) (v : RingSt) : (s.setRing r v).draws = s.draws := (rfl)
@[simp] theorem State.setRing_regs (s : State) (r : Nat) (v : RingSt) : (s.setRing r v).regs = s.regs := (rfl)
@[simp] theorem State.setRing_dram (s : State) (r : Nat) (v : RingSt) : (s.setRing r v).dram = s.dram := (rfl)
@[simp] theorem State.setRing_mirrors (s : State) (r : Nat) (v : RingSt) : (s.setRing r v).mirrors = s.mirrors := (rfl)
@[simp] theorem State.setRing_flash (s : State) (r : Nat) (v : RingSt) : (s.setRing r v).flash = s.flash := (rfl)
@[simp] theorem State.setRing_out (s : State) (r : Nat) (v : RingSt) : (s.setRing r v).out = s.out := (rfl)
@[simp] theorem State.setRing_evts (s : State) (r : Nat) (v : RingSt) : (s.setRing r v).evts = s.evts := (rfl)
@[simp] theorem State.setRing_evtLost (s : State) (r : Nat) (v : RingSt) : (s.setRing r v).evtLost = s.evtLost := (rfl)
@[simp] theorem State.setRing_units (s : State) (r : Nat) (v : RingSt) : (s.setRing r v).units = s.units := (rfl)
@[simp] theorem State.setRing_ports (s : State) (r : Nat) (v : RingSt) : (s.setRing r v).ports = s.ports := (rfl)
@[simp] theorem State.setRing_lands (s : State) (r : Nat) (v : RingSt) : (s.setRing r v).lands = s.lands := (rfl)
@[simp] theorem State.setRing_rg (s : State) (r : Nat) (v : RingSt) : (s.setRing r v).rg = s.rg := (rfl)
@[simp] theorem State.setRing_sec (s : State) (r : Nat) (v : RingSt) : (s.setRing r v).sec = s.sec := (rfl)
@[simp] theorem State.setRing_nvm (s : State) (r : Nat) (v : RingSt) : (s.setRing r v).nvm = s.nvm := (rfl)
@[simp] theorem State.setRing_rsc (s : State) (r : Nat) (v : RingSt) : (s.setRing r v).rsc = s.rsc := (rfl)
@[simp] theorem State.setRing_te (s : State) (r : Nat) (v : RingSt) : (s.setRing r v).te = s.te := (rfl)
@[simp] theorem State.setRing_pwr (s : State) (r : Nat) (v : RingSt) : (s.setRing r v).pwr = s.pwr := (rfl)
@[simp] theorem State.setRing_flt (s : State) (r : Nat) (v : RingSt) : (s.setRing r v).flt = s.flt := (rfl)
@[simp] theorem State.setRing_pkf (s : State) (r : Nat) (v : RingSt) : (s.setRing r v).pkf = s.pkf := (rfl)
@[simp] theorem State.setRing_chains (s : State) (r : Nat) (v : RingSt) : (s.setRing r v).chains = s.chains := (rfl)
@[simp] theorem State.setRing_ctes (s : State) (r : Nat) (v : RingSt) : (s.setRing r v).ctes = s.ctes := (rfl)
@[simp] theorem State.setRing_inbox (s : State) (r : Nat) (v : RingSt) : (s.setRing r v).inbox = s.inbox := (rfl)
@[simp] theorem State.setRing_ings (s : State) (r : Nat) (v : RingSt) : (s.setRing r v).ings = s.ings := (rfl)
@[simp] theorem State.setRing_dfus (s : State) (r : Nat) (v : RingSt) : (s.setRing r v).dfus = s.dfus := (rfl)
@[simp] theorem State.setRing_acus (s : State) (r : Nat) (v : RingSt) : (s.setRing r v).acus = s.acus := (rfl)
@[simp] theorem State.setRing_acc (s : State) (r : Nat) (v : RingSt) : (s.setRing r v).acc = s.acc := (rfl)
@[simp] theorem State.setRing_fcs (s : State) (r : Nat) (v : RingSt) : (s.setRing r v).fcs = s.fcs := (rfl)
@[simp] theorem State.setRing_gals (s : State) (r : Nat) (v : RingSt) : (s.setRing r v).gals = s.gals := (rfl)
@[simp] theorem State.setRing_leds (s : State) (r : Nat) (v : RingSt) : (s.setRing r v).leds = s.leds := (rfl)
@[simp] theorem State.setRing_bes (s : State) (r : Nat) (v : RingSt) : (s.setRing r v).bes = s.bes := (rfl)
@[simp] theorem State.setRing_aside (s : State) (r : Nat) (v : RingSt) : (s.setRing r v).aside = s.aside := (rfl)
@[simp] theorem State.setRing_asidePkg (s : State) (r : Nat) (v : RingSt) : (s.setRing r v).asidePkg = s.asidePkg := (rfl)
@[simp] theorem State.setRing_drcs (s : State) (r : Nat) (v : RingSt) : (s.setRing r v).drcs = s.drcs := (rfl)
@[simp] theorem State.setRing_training (s : State) (r : Nat) (v : RingSt) : (s.setRing r v).training = s.training := (rfl)
@[simp] theorem State.setRing_fabs (s : State) (r : Nat) (v : RingSt) : (s.setRing r v).fabs = s.fabs := (rfl)
@[simp] theorem State.setRing_dmas (s : State) (r : Nat) (v : RingSt) : (s.setRing r v).dmas = s.dmas := (rfl)
@[simp] theorem State.setRing_scratch (s : State) (r : Nat) (v : RingSt) : (s.setRing r v).scratch = s.scratch := (rfl)
@[simp] theorem State.setRing_wraps (s : State) (r : Nat) (v : RingSt) : (s.setRing r v).wraps = s.wraps := (rfl)
@[simp] theorem State.setRing_snaps (s : State) (r : Nat) (v : RingSt) : (s.setRing r v).snaps = s.snaps := (rfl)
@[simp] theorem State.setRing_csvs (s : State) (r : Nat) (v : RingSt) : (s.setRing r v).csvs = s.csvs := (rfl)
@[simp] theorem State.setRing_csvNext (s : State) (r : Nat) (v : RingSt) : (s.setRing r v).csvNext = s.csvNext := (rfl)
@[simp] theorem State.setRing_csvGen (s : State) (r : Nat) (v : RingSt) : (s.setRing r v).csvGen = s.csvGen := (rfl)
@[simp] theorem State.setRing_temps (s : State) (r : Nat) (v : RingSt) : (s.setRing r v).temps = s.temps := (rfl)
@[simp] theorem State.setRing_telAt (s : State) (r : Nat) (v : RingSt) : (s.setRing r v).telAt = s.telAt := (rfl)
@[simp] theorem State.setRing_timers (s : State) (r : Nat) (v : RingSt) : (s.setRing r v).timers = s.timers := (rfl)
@[simp] theorem State.setRing_workT (s : State) (r : Nat) (v : RingSt) : (s.setRing r v).workT = s.workT := (rfl)
@[simp] theorem State.setRing_workAt (s : State) (r : Nat) (v : RingSt) : (s.setRing r v).workAt = s.workAt := (rfl)
@[simp] theorem State.rd_setRing (s : State) (r : Nat) (v : RingSt) (a : Nat) : (s.setRing r v).rd a = s.rd a := (rfl)
@[simp] theorem State.get_setRing (s : State) (r : Nat) (v : RingSt) (f : RF) : (s.setRing r v).get f = s.get f := (rfl)
@[simp] theorem State.ring_set_same (s : State) (r : Nat) (v : RingSt) : (s.setRing r v).ring r = v := Store.get_put_same _ _ _ _
theorem State.ring_set_other (s : State) {r j : Nat} (v : RingSt) (h : j ≠ r) : (s.setRing r v).ring j = s.ring j :=
  Store.get_put_other _ _ _ h
@[simp] theorem State.ring_put (s : State) (f : RF) (x r : Nat) : (s.put f x).ring r = s.ring r := (rfl)

/-! ### `setPort` -/

@[simp] theorem State.setPort_part (s : State) (p : Nat) (v : PortSt) : (s.setPort p v).part = s.part := (rfl)
@[simp] theorem State.setPort_pending (s : State) (p : Nat) (v : PortSt) : (s.setPort p v).pending = s.pending := (rfl)
@[simp] theorem State.setPort_now (s : State) (p : Nat) (v : PortSt) : (s.setPort p v).now = s.now := (rfl)
@[simp] theorem State.setPort_draws (s : State) (p : Nat) (v : PortSt) : (s.setPort p v).draws = s.draws := (rfl)
@[simp] theorem State.setPort_regs (s : State) (p : Nat) (v : PortSt) : (s.setPort p v).regs = s.regs := (rfl)
@[simp] theorem State.setPort_dram (s : State) (p : Nat) (v : PortSt) : (s.setPort p v).dram = s.dram := (rfl)
@[simp] theorem State.setPort_mirrors (s : State) (p : Nat) (v : PortSt) : (s.setPort p v).mirrors = s.mirrors := (rfl)
@[simp] theorem State.setPort_flash (s : State) (p : Nat) (v : PortSt) : (s.setPort p v).flash = s.flash := (rfl)
@[simp] theorem State.setPort_out (s : State) (p : Nat) (v : PortSt) : (s.setPort p v).out = s.out := (rfl)
@[simp] theorem State.setPort_evts (s : State) (p : Nat) (v : PortSt) : (s.setPort p v).evts = s.evts := (rfl)
@[simp] theorem State.setPort_evtLost (s : State) (p : Nat) (v : PortSt) : (s.setPort p v).evtLost = s.evtLost := (rfl)
@[simp] theorem State.setPort_units (s : State) (p : Nat) (v : PortSt) : (s.setPort p v).units = s.units := (rfl)
@[simp] theorem State.setPort_rings (s : State) (p : Nat) (v : PortSt) : (s.setPort p v).rings = s.rings := (rfl)
@[simp] theorem State.setPort_lands (s : State) (p : Nat) (v : PortSt) : (s.setPort p v).lands = s.lands := (rfl)
@[simp] theorem State.setPort_rg (s : State) (p : Nat) (v : PortSt) : (s.setPort p v).rg = s.rg := (rfl)
@[simp] theorem State.setPort_sec (s : State) (p : Nat) (v : PortSt) : (s.setPort p v).sec = s.sec := (rfl)
@[simp] theorem State.setPort_nvm (s : State) (p : Nat) (v : PortSt) : (s.setPort p v).nvm = s.nvm := (rfl)
@[simp] theorem State.setPort_rsc (s : State) (p : Nat) (v : PortSt) : (s.setPort p v).rsc = s.rsc := (rfl)
@[simp] theorem State.setPort_te (s : State) (p : Nat) (v : PortSt) : (s.setPort p v).te = s.te := (rfl)
@[simp] theorem State.setPort_pwr (s : State) (p : Nat) (v : PortSt) : (s.setPort p v).pwr = s.pwr := (rfl)
@[simp] theorem State.setPort_flt (s : State) (p : Nat) (v : PortSt) : (s.setPort p v).flt = s.flt := (rfl)
@[simp] theorem State.setPort_pkf (s : State) (p : Nat) (v : PortSt) : (s.setPort p v).pkf = s.pkf := (rfl)
@[simp] theorem State.setPort_chains (s : State) (p : Nat) (v : PortSt) : (s.setPort p v).chains = s.chains := (rfl)
@[simp] theorem State.setPort_ctes (s : State) (p : Nat) (v : PortSt) : (s.setPort p v).ctes = s.ctes := (rfl)
@[simp] theorem State.setPort_inbox (s : State) (p : Nat) (v : PortSt) : (s.setPort p v).inbox = s.inbox := (rfl)
@[simp] theorem State.setPort_ings (s : State) (p : Nat) (v : PortSt) : (s.setPort p v).ings = s.ings := (rfl)
@[simp] theorem State.setPort_dfus (s : State) (p : Nat) (v : PortSt) : (s.setPort p v).dfus = s.dfus := (rfl)
@[simp] theorem State.setPort_acus (s : State) (p : Nat) (v : PortSt) : (s.setPort p v).acus = s.acus := (rfl)
@[simp] theorem State.setPort_acc (s : State) (p : Nat) (v : PortSt) : (s.setPort p v).acc = s.acc := (rfl)
@[simp] theorem State.setPort_fcs (s : State) (p : Nat) (v : PortSt) : (s.setPort p v).fcs = s.fcs := (rfl)
@[simp] theorem State.setPort_gals (s : State) (p : Nat) (v : PortSt) : (s.setPort p v).gals = s.gals := (rfl)
@[simp] theorem State.setPort_leds (s : State) (p : Nat) (v : PortSt) : (s.setPort p v).leds = s.leds := (rfl)
@[simp] theorem State.setPort_bes (s : State) (p : Nat) (v : PortSt) : (s.setPort p v).bes = s.bes := (rfl)
@[simp] theorem State.setPort_aside (s : State) (p : Nat) (v : PortSt) : (s.setPort p v).aside = s.aside := (rfl)
@[simp] theorem State.setPort_asidePkg (s : State) (p : Nat) (v : PortSt) : (s.setPort p v).asidePkg = s.asidePkg := (rfl)
@[simp] theorem State.setPort_drcs (s : State) (p : Nat) (v : PortSt) : (s.setPort p v).drcs = s.drcs := (rfl)
@[simp] theorem State.setPort_training (s : State) (p : Nat) (v : PortSt) : (s.setPort p v).training = s.training := (rfl)
@[simp] theorem State.setPort_fabs (s : State) (p : Nat) (v : PortSt) : (s.setPort p v).fabs = s.fabs := (rfl)
@[simp] theorem State.setPort_dmas (s : State) (p : Nat) (v : PortSt) : (s.setPort p v).dmas = s.dmas := (rfl)
@[simp] theorem State.setPort_scratch (s : State) (p : Nat) (v : PortSt) : (s.setPort p v).scratch = s.scratch := (rfl)
@[simp] theorem State.setPort_wraps (s : State) (p : Nat) (v : PortSt) : (s.setPort p v).wraps = s.wraps := (rfl)
@[simp] theorem State.setPort_snaps (s : State) (p : Nat) (v : PortSt) : (s.setPort p v).snaps = s.snaps := (rfl)
@[simp] theorem State.setPort_csvs (s : State) (p : Nat) (v : PortSt) : (s.setPort p v).csvs = s.csvs := (rfl)
@[simp] theorem State.setPort_csvNext (s : State) (p : Nat) (v : PortSt) : (s.setPort p v).csvNext = s.csvNext := (rfl)
@[simp] theorem State.setPort_csvGen (s : State) (p : Nat) (v : PortSt) : (s.setPort p v).csvGen = s.csvGen := (rfl)
@[simp] theorem State.setPort_temps (s : State) (p : Nat) (v : PortSt) : (s.setPort p v).temps = s.temps := (rfl)
@[simp] theorem State.setPort_telAt (s : State) (p : Nat) (v : PortSt) : (s.setPort p v).telAt = s.telAt := (rfl)
@[simp] theorem State.setPort_timers (s : State) (p : Nat) (v : PortSt) : (s.setPort p v).timers = s.timers := (rfl)
@[simp] theorem State.setPort_workT (s : State) (p : Nat) (v : PortSt) : (s.setPort p v).workT = s.workT := (rfl)
@[simp] theorem State.setPort_workAt (s : State) (p : Nat) (v : PortSt) : (s.setPort p v).workAt = s.workAt := (rfl)
@[simp] theorem State.rd_setPort (s : State) (p : Nat) (v : PortSt) (a : Nat) : (s.setPort p v).rd a = s.rd a := (rfl)
@[simp] theorem State.get_setPort (s : State) (p : Nat) (v : PortSt) (f : RF) : (s.setPort p v).get f = s.get f := (rfl)
@[simp] theorem State.port_set_same (s : State) (p : Nat) (v : PortSt) : (s.setPort p v).port p = v := Store.get_put_same _ _ _ _
theorem State.port_set_other (s : State) {p j : Nat} (v : PortSt) (h : j ≠ p) : (s.setPort p v).port j = s.port j :=
  Store.get_put_other _ _ _ h
@[simp] theorem State.port_put (s : State) (f : RF) (x p : Nat) : (s.put f x).port p = s.port p := (rfl)

/-! ### `setChain` -/

@[simp] theorem State.setChain_part (s : State) (k : Nat) (v : ChainSt) : (s.setChain k v).part = s.part := (rfl)
@[simp] theorem State.setChain_pending (s : State) (k : Nat) (v : ChainSt) : (s.setChain k v).pending = s.pending := (rfl)
@[simp] theorem State.setChain_now (s : State) (k : Nat) (v : ChainSt) : (s.setChain k v).now = s.now := (rfl)
@[simp] theorem State.setChain_draws (s : State) (k : Nat) (v : ChainSt) : (s.setChain k v).draws = s.draws := (rfl)
@[simp] theorem State.setChain_regs (s : State) (k : Nat) (v : ChainSt) : (s.setChain k v).regs = s.regs := (rfl)
@[simp] theorem State.setChain_dram (s : State) (k : Nat) (v : ChainSt) : (s.setChain k v).dram = s.dram := (rfl)
@[simp] theorem State.setChain_mirrors (s : State) (k : Nat) (v : ChainSt) : (s.setChain k v).mirrors = s.mirrors := (rfl)
@[simp] theorem State.setChain_flash (s : State) (k : Nat) (v : ChainSt) : (s.setChain k v).flash = s.flash := (rfl)
@[simp] theorem State.setChain_out (s : State) (k : Nat) (v : ChainSt) : (s.setChain k v).out = s.out := (rfl)
@[simp] theorem State.setChain_evts (s : State) (k : Nat) (v : ChainSt) : (s.setChain k v).evts = s.evts := (rfl)
@[simp] theorem State.setChain_evtLost (s : State) (k : Nat) (v : ChainSt) : (s.setChain k v).evtLost = s.evtLost := (rfl)
@[simp] theorem State.setChain_units (s : State) (k : Nat) (v : ChainSt) : (s.setChain k v).units = s.units := (rfl)
@[simp] theorem State.setChain_rings (s : State) (k : Nat) (v : ChainSt) : (s.setChain k v).rings = s.rings := (rfl)
@[simp] theorem State.setChain_ports (s : State) (k : Nat) (v : ChainSt) : (s.setChain k v).ports = s.ports := (rfl)
@[simp] theorem State.setChain_lands (s : State) (k : Nat) (v : ChainSt) : (s.setChain k v).lands = s.lands := (rfl)
@[simp] theorem State.setChain_rg (s : State) (k : Nat) (v : ChainSt) : (s.setChain k v).rg = s.rg := (rfl)
@[simp] theorem State.setChain_sec (s : State) (k : Nat) (v : ChainSt) : (s.setChain k v).sec = s.sec := (rfl)
@[simp] theorem State.setChain_nvm (s : State) (k : Nat) (v : ChainSt) : (s.setChain k v).nvm = s.nvm := (rfl)
@[simp] theorem State.setChain_rsc (s : State) (k : Nat) (v : ChainSt) : (s.setChain k v).rsc = s.rsc := (rfl)
@[simp] theorem State.setChain_te (s : State) (k : Nat) (v : ChainSt) : (s.setChain k v).te = s.te := (rfl)
@[simp] theorem State.setChain_pwr (s : State) (k : Nat) (v : ChainSt) : (s.setChain k v).pwr = s.pwr := (rfl)
@[simp] theorem State.setChain_flt (s : State) (k : Nat) (v : ChainSt) : (s.setChain k v).flt = s.flt := (rfl)
@[simp] theorem State.setChain_pkf (s : State) (k : Nat) (v : ChainSt) : (s.setChain k v).pkf = s.pkf := (rfl)
@[simp] theorem State.setChain_ctes (s : State) (k : Nat) (v : ChainSt) : (s.setChain k v).ctes = s.ctes := (rfl)
@[simp] theorem State.setChain_inbox (s : State) (k : Nat) (v : ChainSt) : (s.setChain k v).inbox = s.inbox := (rfl)
@[simp] theorem State.setChain_ings (s : State) (k : Nat) (v : ChainSt) : (s.setChain k v).ings = s.ings := (rfl)
@[simp] theorem State.setChain_dfus (s : State) (k : Nat) (v : ChainSt) : (s.setChain k v).dfus = s.dfus := (rfl)
@[simp] theorem State.setChain_acus (s : State) (k : Nat) (v : ChainSt) : (s.setChain k v).acus = s.acus := (rfl)
@[simp] theorem State.setChain_acc (s : State) (k : Nat) (v : ChainSt) : (s.setChain k v).acc = s.acc := (rfl)
@[simp] theorem State.setChain_fcs (s : State) (k : Nat) (v : ChainSt) : (s.setChain k v).fcs = s.fcs := (rfl)
@[simp] theorem State.setChain_gals (s : State) (k : Nat) (v : ChainSt) : (s.setChain k v).gals = s.gals := (rfl)
@[simp] theorem State.setChain_leds (s : State) (k : Nat) (v : ChainSt) : (s.setChain k v).leds = s.leds := (rfl)
@[simp] theorem State.setChain_bes (s : State) (k : Nat) (v : ChainSt) : (s.setChain k v).bes = s.bes := (rfl)
@[simp] theorem State.setChain_aside (s : State) (k : Nat) (v : ChainSt) : (s.setChain k v).aside = s.aside := (rfl)
@[simp] theorem State.setChain_asidePkg (s : State) (k : Nat) (v : ChainSt) : (s.setChain k v).asidePkg = s.asidePkg := (rfl)
@[simp] theorem State.setChain_drcs (s : State) (k : Nat) (v : ChainSt) : (s.setChain k v).drcs = s.drcs := (rfl)
@[simp] theorem State.setChain_training (s : State) (k : Nat) (v : ChainSt) : (s.setChain k v).training = s.training := (rfl)
@[simp] theorem State.setChain_fabs (s : State) (k : Nat) (v : ChainSt) : (s.setChain k v).fabs = s.fabs := (rfl)
@[simp] theorem State.setChain_dmas (s : State) (k : Nat) (v : ChainSt) : (s.setChain k v).dmas = s.dmas := (rfl)
@[simp] theorem State.setChain_scratch (s : State) (k : Nat) (v : ChainSt) : (s.setChain k v).scratch = s.scratch := (rfl)
@[simp] theorem State.setChain_wraps (s : State) (k : Nat) (v : ChainSt) : (s.setChain k v).wraps = s.wraps := (rfl)
@[simp] theorem State.setChain_snaps (s : State) (k : Nat) (v : ChainSt) : (s.setChain k v).snaps = s.snaps := (rfl)
@[simp] theorem State.setChain_csvs (s : State) (k : Nat) (v : ChainSt) : (s.setChain k v).csvs = s.csvs := (rfl)
@[simp] theorem State.setChain_csvNext (s : State) (k : Nat) (v : ChainSt) : (s.setChain k v).csvNext = s.csvNext := (rfl)
@[simp] theorem State.setChain_csvGen (s : State) (k : Nat) (v : ChainSt) : (s.setChain k v).csvGen = s.csvGen := (rfl)
@[simp] theorem State.setChain_temps (s : State) (k : Nat) (v : ChainSt) : (s.setChain k v).temps = s.temps := (rfl)
@[simp] theorem State.setChain_telAt (s : State) (k : Nat) (v : ChainSt) : (s.setChain k v).telAt = s.telAt := (rfl)
@[simp] theorem State.setChain_timers (s : State) (k : Nat) (v : ChainSt) : (s.setChain k v).timers = s.timers := (rfl)
@[simp] theorem State.setChain_workT (s : State) (k : Nat) (v : ChainSt) : (s.setChain k v).workT = s.workT := (rfl)
@[simp] theorem State.setChain_workAt (s : State) (k : Nat) (v : ChainSt) : (s.setChain k v).workAt = s.workAt := (rfl)
@[simp] theorem State.rd_setChain (s : State) (k : Nat) (v : ChainSt) (a : Nat) : (s.setChain k v).rd a = s.rd a := (rfl)
@[simp] theorem State.get_setChain (s : State) (k : Nat) (v : ChainSt) (f : RF) : (s.setChain k v).get f = s.get f := (rfl)
@[simp] theorem State.chain_set_same (s : State) (k : Nat) (v : ChainSt) : (s.setChain k v).chain k = v := Store.get_put_same _ _ _ _
theorem State.chain_set_other (s : State) {k j : Nat} (v : ChainSt) (h : j ≠ k) : (s.setChain k v).chain j = s.chain j :=
  Store.get_put_other _ _ _ h
@[simp] theorem State.chain_put (s : State) (f : RF) (x k : Nat) : (s.put f x).chain k = s.chain k := (rfl)

/-! ### `setCte` -/

@[simp] theorem State.setCte_part (s : State) (d : Nat) (v : CteSt) : (s.setCte d v).part = s.part := (rfl)
@[simp] theorem State.setCte_pending (s : State) (d : Nat) (v : CteSt) : (s.setCte d v).pending = s.pending := (rfl)
@[simp] theorem State.setCte_now (s : State) (d : Nat) (v : CteSt) : (s.setCte d v).now = s.now := (rfl)
@[simp] theorem State.setCte_draws (s : State) (d : Nat) (v : CteSt) : (s.setCte d v).draws = s.draws := (rfl)
@[simp] theorem State.setCte_regs (s : State) (d : Nat) (v : CteSt) : (s.setCte d v).regs = s.regs := (rfl)
@[simp] theorem State.setCte_dram (s : State) (d : Nat) (v : CteSt) : (s.setCte d v).dram = s.dram := (rfl)
@[simp] theorem State.setCte_mirrors (s : State) (d : Nat) (v : CteSt) : (s.setCte d v).mirrors = s.mirrors := (rfl)
@[simp] theorem State.setCte_flash (s : State) (d : Nat) (v : CteSt) : (s.setCte d v).flash = s.flash := (rfl)
@[simp] theorem State.setCte_out (s : State) (d : Nat) (v : CteSt) : (s.setCte d v).out = s.out := (rfl)
@[simp] theorem State.setCte_evts (s : State) (d : Nat) (v : CteSt) : (s.setCte d v).evts = s.evts := (rfl)
@[simp] theorem State.setCte_evtLost (s : State) (d : Nat) (v : CteSt) : (s.setCte d v).evtLost = s.evtLost := (rfl)
@[simp] theorem State.setCte_units (s : State) (d : Nat) (v : CteSt) : (s.setCte d v).units = s.units := (rfl)
@[simp] theorem State.setCte_rings (s : State) (d : Nat) (v : CteSt) : (s.setCte d v).rings = s.rings := (rfl)
@[simp] theorem State.setCte_ports (s : State) (d : Nat) (v : CteSt) : (s.setCte d v).ports = s.ports := (rfl)
@[simp] theorem State.setCte_lands (s : State) (d : Nat) (v : CteSt) : (s.setCte d v).lands = s.lands := (rfl)
@[simp] theorem State.setCte_rg (s : State) (d : Nat) (v : CteSt) : (s.setCte d v).rg = s.rg := (rfl)
@[simp] theorem State.setCte_sec (s : State) (d : Nat) (v : CteSt) : (s.setCte d v).sec = s.sec := (rfl)
@[simp] theorem State.setCte_nvm (s : State) (d : Nat) (v : CteSt) : (s.setCte d v).nvm = s.nvm := (rfl)
@[simp] theorem State.setCte_rsc (s : State) (d : Nat) (v : CteSt) : (s.setCte d v).rsc = s.rsc := (rfl)
@[simp] theorem State.setCte_te (s : State) (d : Nat) (v : CteSt) : (s.setCte d v).te = s.te := (rfl)
@[simp] theorem State.setCte_pwr (s : State) (d : Nat) (v : CteSt) : (s.setCte d v).pwr = s.pwr := (rfl)
@[simp] theorem State.setCte_flt (s : State) (d : Nat) (v : CteSt) : (s.setCte d v).flt = s.flt := (rfl)
@[simp] theorem State.setCte_pkf (s : State) (d : Nat) (v : CteSt) : (s.setCte d v).pkf = s.pkf := (rfl)
@[simp] theorem State.setCte_chains (s : State) (d : Nat) (v : CteSt) : (s.setCte d v).chains = s.chains := (rfl)
@[simp] theorem State.setCte_inbox (s : State) (d : Nat) (v : CteSt) : (s.setCte d v).inbox = s.inbox := (rfl)
@[simp] theorem State.setCte_ings (s : State) (d : Nat) (v : CteSt) : (s.setCte d v).ings = s.ings := (rfl)
@[simp] theorem State.setCte_dfus (s : State) (d : Nat) (v : CteSt) : (s.setCte d v).dfus = s.dfus := (rfl)
@[simp] theorem State.setCte_acus (s : State) (d : Nat) (v : CteSt) : (s.setCte d v).acus = s.acus := (rfl)
@[simp] theorem State.setCte_acc (s : State) (d : Nat) (v : CteSt) : (s.setCte d v).acc = s.acc := (rfl)
@[simp] theorem State.setCte_fcs (s : State) (d : Nat) (v : CteSt) : (s.setCte d v).fcs = s.fcs := (rfl)
@[simp] theorem State.setCte_gals (s : State) (d : Nat) (v : CteSt) : (s.setCte d v).gals = s.gals := (rfl)
@[simp] theorem State.setCte_leds (s : State) (d : Nat) (v : CteSt) : (s.setCte d v).leds = s.leds := (rfl)
@[simp] theorem State.setCte_bes (s : State) (d : Nat) (v : CteSt) : (s.setCte d v).bes = s.bes := (rfl)
@[simp] theorem State.setCte_aside (s : State) (d : Nat) (v : CteSt) : (s.setCte d v).aside = s.aside := (rfl)
@[simp] theorem State.setCte_asidePkg (s : State) (d : Nat) (v : CteSt) : (s.setCte d v).asidePkg = s.asidePkg := (rfl)
@[simp] theorem State.setCte_drcs (s : State) (d : Nat) (v : CteSt) : (s.setCte d v).drcs = s.drcs := (rfl)
@[simp] theorem State.setCte_training (s : State) (d : Nat) (v : CteSt) : (s.setCte d v).training = s.training := (rfl)
@[simp] theorem State.setCte_fabs (s : State) (d : Nat) (v : CteSt) : (s.setCte d v).fabs = s.fabs := (rfl)
@[simp] theorem State.setCte_dmas (s : State) (d : Nat) (v : CteSt) : (s.setCte d v).dmas = s.dmas := (rfl)
@[simp] theorem State.setCte_scratch (s : State) (d : Nat) (v : CteSt) : (s.setCte d v).scratch = s.scratch := (rfl)
@[simp] theorem State.setCte_wraps (s : State) (d : Nat) (v : CteSt) : (s.setCte d v).wraps = s.wraps := (rfl)
@[simp] theorem State.setCte_snaps (s : State) (d : Nat) (v : CteSt) : (s.setCte d v).snaps = s.snaps := (rfl)
@[simp] theorem State.setCte_csvs (s : State) (d : Nat) (v : CteSt) : (s.setCte d v).csvs = s.csvs := (rfl)
@[simp] theorem State.setCte_csvNext (s : State) (d : Nat) (v : CteSt) : (s.setCte d v).csvNext = s.csvNext := (rfl)
@[simp] theorem State.setCte_csvGen (s : State) (d : Nat) (v : CteSt) : (s.setCte d v).csvGen = s.csvGen := (rfl)
@[simp] theorem State.setCte_temps (s : State) (d : Nat) (v : CteSt) : (s.setCte d v).temps = s.temps := (rfl)
@[simp] theorem State.setCte_telAt (s : State) (d : Nat) (v : CteSt) : (s.setCte d v).telAt = s.telAt := (rfl)
@[simp] theorem State.setCte_timers (s : State) (d : Nat) (v : CteSt) : (s.setCte d v).timers = s.timers := (rfl)
@[simp] theorem State.setCte_workT (s : State) (d : Nat) (v : CteSt) : (s.setCte d v).workT = s.workT := (rfl)
@[simp] theorem State.setCte_workAt (s : State) (d : Nat) (v : CteSt) : (s.setCte d v).workAt = s.workAt := (rfl)
@[simp] theorem State.rd_setCte (s : State) (d : Nat) (v : CteSt) (a : Nat) : (s.setCte d v).rd a = s.rd a := (rfl)
@[simp] theorem State.get_setCte (s : State) (d : Nat) (v : CteSt) (f : RF) : (s.setCte d v).get f = s.get f := (rfl)
@[simp] theorem State.cte_set_same (s : State) (d : Nat) (v : CteSt) : (s.setCte d v).cte d = v := Store.get_put_same _ _ _ _
theorem State.cte_set_other (s : State) {d j : Nat} (v : CteSt) (h : j ≠ d) : (s.setCte d v).cte j = s.cte j :=
  Store.get_put_other _ _ _ h
@[simp] theorem State.cte_put (s : State) (f : RF) (x d : Nat) : (s.put f x).cte d = s.cte d := (rfl)

/-! ### `setDrc` -/

@[simp] theorem State.setDrc_part (s : State) (d : Nat) (v : DrcSt) : (s.setDrc d v).part = s.part := (rfl)
@[simp] theorem State.setDrc_pending (s : State) (d : Nat) (v : DrcSt) : (s.setDrc d v).pending = s.pending := (rfl)
@[simp] theorem State.setDrc_now (s : State) (d : Nat) (v : DrcSt) : (s.setDrc d v).now = s.now := (rfl)
@[simp] theorem State.setDrc_draws (s : State) (d : Nat) (v : DrcSt) : (s.setDrc d v).draws = s.draws := (rfl)
@[simp] theorem State.setDrc_regs (s : State) (d : Nat) (v : DrcSt) : (s.setDrc d v).regs = s.regs := (rfl)
@[simp] theorem State.setDrc_dram (s : State) (d : Nat) (v : DrcSt) : (s.setDrc d v).dram = s.dram := (rfl)
@[simp] theorem State.setDrc_mirrors (s : State) (d : Nat) (v : DrcSt) : (s.setDrc d v).mirrors = s.mirrors := (rfl)
@[simp] theorem State.setDrc_flash (s : State) (d : Nat) (v : DrcSt) : (s.setDrc d v).flash = s.flash := (rfl)
@[simp] theorem State.setDrc_out (s : State) (d : Nat) (v : DrcSt) : (s.setDrc d v).out = s.out := (rfl)
@[simp] theorem State.setDrc_evts (s : State) (d : Nat) (v : DrcSt) : (s.setDrc d v).evts = s.evts := (rfl)
@[simp] theorem State.setDrc_evtLost (s : State) (d : Nat) (v : DrcSt) : (s.setDrc d v).evtLost = s.evtLost := (rfl)
@[simp] theorem State.setDrc_units (s : State) (d : Nat) (v : DrcSt) : (s.setDrc d v).units = s.units := (rfl)
@[simp] theorem State.setDrc_rings (s : State) (d : Nat) (v : DrcSt) : (s.setDrc d v).rings = s.rings := (rfl)
@[simp] theorem State.setDrc_ports (s : State) (d : Nat) (v : DrcSt) : (s.setDrc d v).ports = s.ports := (rfl)
@[simp] theorem State.setDrc_lands (s : State) (d : Nat) (v : DrcSt) : (s.setDrc d v).lands = s.lands := (rfl)
@[simp] theorem State.setDrc_rg (s : State) (d : Nat) (v : DrcSt) : (s.setDrc d v).rg = s.rg := (rfl)
@[simp] theorem State.setDrc_sec (s : State) (d : Nat) (v : DrcSt) : (s.setDrc d v).sec = s.sec := (rfl)
@[simp] theorem State.setDrc_nvm (s : State) (d : Nat) (v : DrcSt) : (s.setDrc d v).nvm = s.nvm := (rfl)
@[simp] theorem State.setDrc_rsc (s : State) (d : Nat) (v : DrcSt) : (s.setDrc d v).rsc = s.rsc := (rfl)
@[simp] theorem State.setDrc_te (s : State) (d : Nat) (v : DrcSt) : (s.setDrc d v).te = s.te := (rfl)
@[simp] theorem State.setDrc_pwr (s : State) (d : Nat) (v : DrcSt) : (s.setDrc d v).pwr = s.pwr := (rfl)
@[simp] theorem State.setDrc_flt (s : State) (d : Nat) (v : DrcSt) : (s.setDrc d v).flt = s.flt := (rfl)
@[simp] theorem State.setDrc_pkf (s : State) (d : Nat) (v : DrcSt) : (s.setDrc d v).pkf = s.pkf := (rfl)
@[simp] theorem State.setDrc_chains (s : State) (d : Nat) (v : DrcSt) : (s.setDrc d v).chains = s.chains := (rfl)
@[simp] theorem State.setDrc_ctes (s : State) (d : Nat) (v : DrcSt) : (s.setDrc d v).ctes = s.ctes := (rfl)
@[simp] theorem State.setDrc_inbox (s : State) (d : Nat) (v : DrcSt) : (s.setDrc d v).inbox = s.inbox := (rfl)
@[simp] theorem State.setDrc_ings (s : State) (d : Nat) (v : DrcSt) : (s.setDrc d v).ings = s.ings := (rfl)
@[simp] theorem State.setDrc_dfus (s : State) (d : Nat) (v : DrcSt) : (s.setDrc d v).dfus = s.dfus := (rfl)
@[simp] theorem State.setDrc_acus (s : State) (d : Nat) (v : DrcSt) : (s.setDrc d v).acus = s.acus := (rfl)
@[simp] theorem State.setDrc_acc (s : State) (d : Nat) (v : DrcSt) : (s.setDrc d v).acc = s.acc := (rfl)
@[simp] theorem State.setDrc_fcs (s : State) (d : Nat) (v : DrcSt) : (s.setDrc d v).fcs = s.fcs := (rfl)
@[simp] theorem State.setDrc_gals (s : State) (d : Nat) (v : DrcSt) : (s.setDrc d v).gals = s.gals := (rfl)
@[simp] theorem State.setDrc_leds (s : State) (d : Nat) (v : DrcSt) : (s.setDrc d v).leds = s.leds := (rfl)
@[simp] theorem State.setDrc_bes (s : State) (d : Nat) (v : DrcSt) : (s.setDrc d v).bes = s.bes := (rfl)
@[simp] theorem State.setDrc_aside (s : State) (d : Nat) (v : DrcSt) : (s.setDrc d v).aside = s.aside := (rfl)
@[simp] theorem State.setDrc_asidePkg (s : State) (d : Nat) (v : DrcSt) : (s.setDrc d v).asidePkg = s.asidePkg := (rfl)
@[simp] theorem State.setDrc_training (s : State) (d : Nat) (v : DrcSt) : (s.setDrc d v).training = s.training := (rfl)
@[simp] theorem State.setDrc_fabs (s : State) (d : Nat) (v : DrcSt) : (s.setDrc d v).fabs = s.fabs := (rfl)
@[simp] theorem State.setDrc_dmas (s : State) (d : Nat) (v : DrcSt) : (s.setDrc d v).dmas = s.dmas := (rfl)
@[simp] theorem State.setDrc_scratch (s : State) (d : Nat) (v : DrcSt) : (s.setDrc d v).scratch = s.scratch := (rfl)
@[simp] theorem State.setDrc_wraps (s : State) (d : Nat) (v : DrcSt) : (s.setDrc d v).wraps = s.wraps := (rfl)
@[simp] theorem State.setDrc_snaps (s : State) (d : Nat) (v : DrcSt) : (s.setDrc d v).snaps = s.snaps := (rfl)
@[simp] theorem State.setDrc_csvs (s : State) (d : Nat) (v : DrcSt) : (s.setDrc d v).csvs = s.csvs := (rfl)
@[simp] theorem State.setDrc_csvNext (s : State) (d : Nat) (v : DrcSt) : (s.setDrc d v).csvNext = s.csvNext := (rfl)
@[simp] theorem State.setDrc_csvGen (s : State) (d : Nat) (v : DrcSt) : (s.setDrc d v).csvGen = s.csvGen := (rfl)
@[simp] theorem State.setDrc_temps (s : State) (d : Nat) (v : DrcSt) : (s.setDrc d v).temps = s.temps := (rfl)
@[simp] theorem State.setDrc_telAt (s : State) (d : Nat) (v : DrcSt) : (s.setDrc d v).telAt = s.telAt := (rfl)
@[simp] theorem State.setDrc_timers (s : State) (d : Nat) (v : DrcSt) : (s.setDrc d v).timers = s.timers := (rfl)
@[simp] theorem State.setDrc_workT (s : State) (d : Nat) (v : DrcSt) : (s.setDrc d v).workT = s.workT := (rfl)
@[simp] theorem State.setDrc_workAt (s : State) (d : Nat) (v : DrcSt) : (s.setDrc d v).workAt = s.workAt := (rfl)
@[simp] theorem State.rd_setDrc (s : State) (d : Nat) (v : DrcSt) (a : Nat) : (s.setDrc d v).rd a = s.rd a := (rfl)
@[simp] theorem State.get_setDrc (s : State) (d : Nat) (v : DrcSt) (f : RF) : (s.setDrc d v).get f = s.get f := (rfl)
@[simp] theorem State.drc_set_same (s : State) (d : Nat) (v : DrcSt) : (s.setDrc d v).drc d = v := Store.get_put_same _ _ _ _
theorem State.drc_set_other (s : State) {d j : Nat} (v : DrcSt) (h : j ≠ d) : (s.setDrc d v).drc j = s.drc j :=
  Store.get_put_other _ _ _ h
@[simp] theorem State.drc_put (s : State) (f : RF) (x d : Nat) : (s.put f x).drc d = s.drc d := (rfl)

/-! ### Memory, time and what leaves -/

@[simp] theorem State.rdMem_wrMem_same (s : State) (d a : Nat) (v : Word) : (s.wrMem d a v).rdMem d a = v := Store.get_put_same _ _ _ _

/-- Another address of the same die, below 2^40. -/
theorem State.rdMem_wrMem_other (s : State) {d a d' a' : Nat} (v : Word) (h : dramKey d' a' ≠ dramKey d a) :
    (s.wrMem d a v).rdMem d' a' = s.rdMem d' a' := Store.get_put_other _ _ _ h

@[simp] theorem State.wrMem_part (s : State) (d a : Nat) (v : Word) : (s.wrMem d a v).part = s.part := (rfl)
@[simp] theorem State.wrMem_pending (s : State) (d a : Nat) (v : Word) : (s.wrMem d a v).pending = s.pending := (rfl)
@[simp] theorem State.wrMem_now (s : State) (d a : Nat) (v : Word) : (s.wrMem d a v).now = s.now := (rfl)
@[simp] theorem State.wrMem_draws (s : State) (d a : Nat) (v : Word) : (s.wrMem d a v).draws = s.draws := (rfl)
@[simp] theorem State.wrMem_regs (s : State) (d a : Nat) (v : Word) : (s.wrMem d a v).regs = s.regs := (rfl)
@[simp] theorem State.wrMem_flash (s : State) (d a : Nat) (v : Word) : (s.wrMem d a v).flash = s.flash := (rfl)
@[simp] theorem State.wrMem_out (s : State) (d a : Nat) (v : Word) : (s.wrMem d a v).out = s.out := (rfl)
@[simp] theorem State.wrMem_evts (s : State) (d a : Nat) (v : Word) : (s.wrMem d a v).evts = s.evts := (rfl)
@[simp] theorem State.wrMem_evtLost (s : State) (d a : Nat) (v : Word) : (s.wrMem d a v).evtLost = s.evtLost := (rfl)
@[simp] theorem State.wrMem_units (s : State) (d a : Nat) (v : Word) : (s.wrMem d a v).units = s.units := (rfl)
@[simp] theorem State.wrMem_rings (s : State) (d a : Nat) (v : Word) : (s.wrMem d a v).rings = s.rings := (rfl)
@[simp] theorem State.wrMem_ports (s : State) (d a : Nat) (v : Word) : (s.wrMem d a v).ports = s.ports := (rfl)
@[simp] theorem State.wrMem_lands (s : State) (d a : Nat) (v : Word) : (s.wrMem d a v).lands = s.lands := (rfl)
@[simp] theorem State.wrMem_rg (s : State) (d a : Nat) (v : Word) : (s.wrMem d a v).rg = s.rg := (rfl)
@[simp] theorem State.wrMem_sec (s : State) (d a : Nat) (v : Word) : (s.wrMem d a v).sec = s.sec := (rfl)
@[simp] theorem State.wrMem_nvm (s : State) (d a : Nat) (v : Word) : (s.wrMem d a v).nvm = s.nvm := (rfl)
@[simp] theorem State.wrMem_rsc (s : State) (d a : Nat) (v : Word) : (s.wrMem d a v).rsc = s.rsc := (rfl)
@[simp] theorem State.wrMem_te (s : State) (d a : Nat) (v : Word) : (s.wrMem d a v).te = s.te := (rfl)
@[simp] theorem State.wrMem_pwr (s : State) (d a : Nat) (v : Word) : (s.wrMem d a v).pwr = s.pwr := (rfl)
@[simp] theorem State.wrMem_flt (s : State) (d a : Nat) (v : Word) : (s.wrMem d a v).flt = s.flt := (rfl)
@[simp] theorem State.wrMem_pkf (s : State) (d a : Nat) (v : Word) : (s.wrMem d a v).pkf = s.pkf := (rfl)
@[simp] theorem State.wrMem_chains (s : State) (d a : Nat) (v : Word) : (s.wrMem d a v).chains = s.chains := (rfl)
@[simp] theorem State.wrMem_ctes (s : State) (d a : Nat) (v : Word) : (s.wrMem d a v).ctes = s.ctes := (rfl)
@[simp] theorem State.wrMem_inbox (s : State) (d a : Nat) (v : Word) : (s.wrMem d a v).inbox = s.inbox := (rfl)
@[simp] theorem State.wrMem_ings (s : State) (d a : Nat) (v : Word) : (s.wrMem d a v).ings = s.ings := (rfl)
@[simp] theorem State.wrMem_dfus (s : State) (d a : Nat) (v : Word) : (s.wrMem d a v).dfus = s.dfus := (rfl)
@[simp] theorem State.wrMem_acus (s : State) (d a : Nat) (v : Word) : (s.wrMem d a v).acus = s.acus := (rfl)
@[simp] theorem State.wrMem_acc (s : State) (d a : Nat) (v : Word) : (s.wrMem d a v).acc = s.acc := (rfl)
@[simp] theorem State.wrMem_fcs (s : State) (d a : Nat) (v : Word) : (s.wrMem d a v).fcs = s.fcs := (rfl)
@[simp] theorem State.wrMem_gals (s : State) (d a : Nat) (v : Word) : (s.wrMem d a v).gals = s.gals := (rfl)
@[simp] theorem State.wrMem_leds (s : State) (d a : Nat) (v : Word) : (s.wrMem d a v).leds = s.leds := (rfl)
@[simp] theorem State.wrMem_bes (s : State) (d a : Nat) (v : Word) : (s.wrMem d a v).bes = s.bes := (rfl)
@[simp] theorem State.wrMem_aside (s : State) (d a : Nat) (v : Word) : (s.wrMem d a v).aside = s.aside := (rfl)
@[simp] theorem State.wrMem_asidePkg (s : State) (d a : Nat) (v : Word) : (s.wrMem d a v).asidePkg = s.asidePkg := (rfl)
@[simp] theorem State.wrMem_drcs (s : State) (d a : Nat) (v : Word) : (s.wrMem d a v).drcs = s.drcs := (rfl)
@[simp] theorem State.wrMem_training (s : State) (d a : Nat) (v : Word) : (s.wrMem d a v).training = s.training := (rfl)
@[simp] theorem State.wrMem_fabs (s : State) (d a : Nat) (v : Word) : (s.wrMem d a v).fabs = s.fabs := (rfl)
@[simp] theorem State.wrMem_dmas (s : State) (d a : Nat) (v : Word) : (s.wrMem d a v).dmas = s.dmas := (rfl)
@[simp] theorem State.wrMem_scratch (s : State) (d a : Nat) (v : Word) : (s.wrMem d a v).scratch = s.scratch := (rfl)
@[simp] theorem State.wrMem_wraps (s : State) (d a : Nat) (v : Word) : (s.wrMem d a v).wraps = s.wraps := (rfl)
@[simp] theorem State.wrMem_snaps (s : State) (d a : Nat) (v : Word) : (s.wrMem d a v).snaps = s.snaps := (rfl)
@[simp] theorem State.wrMem_csvs (s : State) (d a : Nat) (v : Word) : (s.wrMem d a v).csvs = s.csvs := (rfl)
@[simp] theorem State.wrMem_csvNext (s : State) (d a : Nat) (v : Word) : (s.wrMem d a v).csvNext = s.csvNext := (rfl)
@[simp] theorem State.wrMem_csvGen (s : State) (d a : Nat) (v : Word) : (s.wrMem d a v).csvGen = s.csvGen := (rfl)
@[simp] theorem State.wrMem_temps (s : State) (d a : Nat) (v : Word) : (s.wrMem d a v).temps = s.temps := (rfl)
@[simp] theorem State.wrMem_telAt (s : State) (d a : Nat) (v : Word) : (s.wrMem d a v).telAt = s.telAt := (rfl)
@[simp] theorem State.wrMem_timers (s : State) (d a : Nat) (v : Word) : (s.wrMem d a v).timers = s.timers := (rfl)
@[simp] theorem State.wrMem_workT (s : State) (d a : Nat) (v : Word) : (s.wrMem d a v).workT = s.workT := (rfl)
@[simp] theorem State.wrMem_workAt (s : State) (d a : Nat) (v : Word) : (s.wrMem d a v).workAt = s.workAt := (rfl)
@[simp] theorem State.get_wrMem (s : State) (d a : Nat) (v : Word) (f : RF) : (s.wrMem d a v).get f = s.get f := (rfl)

@[simp] theorem State.wrMems_part (s : State) (d a : Nat) (v : List Word) : (s.wrMems d a v).part = s.part := (rfl)
@[simp] theorem State.wrMems_pending (s : State) (d a : Nat) (v : List Word) : (s.wrMems d a v).pending = s.pending := (rfl)
@[simp] theorem State.wrMems_now (s : State) (d a : Nat) (v : List Word) : (s.wrMems d a v).now = s.now := (rfl)
@[simp] theorem State.wrMems_draws (s : State) (d a : Nat) (v : List Word) : (s.wrMems d a v).draws = s.draws := (rfl)
@[simp] theorem State.wrMems_regs (s : State) (d a : Nat) (v : List Word) : (s.wrMems d a v).regs = s.regs := (rfl)
@[simp] theorem State.wrMems_flash (s : State) (d a : Nat) (v : List Word) : (s.wrMems d a v).flash = s.flash := (rfl)
@[simp] theorem State.wrMems_out (s : State) (d a : Nat) (v : List Word) : (s.wrMems d a v).out = s.out := (rfl)
@[simp] theorem State.wrMems_evts (s : State) (d a : Nat) (v : List Word) : (s.wrMems d a v).evts = s.evts := (rfl)
@[simp] theorem State.wrMems_evtLost (s : State) (d a : Nat) (v : List Word) : (s.wrMems d a v).evtLost = s.evtLost := (rfl)
@[simp] theorem State.wrMems_units (s : State) (d a : Nat) (v : List Word) : (s.wrMems d a v).units = s.units := (rfl)
@[simp] theorem State.wrMems_rings (s : State) (d a : Nat) (v : List Word) : (s.wrMems d a v).rings = s.rings := (rfl)
@[simp] theorem State.wrMems_ports (s : State) (d a : Nat) (v : List Word) : (s.wrMems d a v).ports = s.ports := (rfl)
@[simp] theorem State.wrMems_lands (s : State) (d a : Nat) (v : List Word) : (s.wrMems d a v).lands = s.lands := (rfl)
@[simp] theorem State.wrMems_rg (s : State) (d a : Nat) (v : List Word) : (s.wrMems d a v).rg = s.rg := (rfl)
@[simp] theorem State.wrMems_sec (s : State) (d a : Nat) (v : List Word) : (s.wrMems d a v).sec = s.sec := (rfl)
@[simp] theorem State.wrMems_nvm (s : State) (d a : Nat) (v : List Word) : (s.wrMems d a v).nvm = s.nvm := (rfl)
@[simp] theorem State.wrMems_rsc (s : State) (d a : Nat) (v : List Word) : (s.wrMems d a v).rsc = s.rsc := (rfl)
@[simp] theorem State.wrMems_te (s : State) (d a : Nat) (v : List Word) : (s.wrMems d a v).te = s.te := (rfl)
@[simp] theorem State.wrMems_pwr (s : State) (d a : Nat) (v : List Word) : (s.wrMems d a v).pwr = s.pwr := (rfl)
@[simp] theorem State.wrMems_flt (s : State) (d a : Nat) (v : List Word) : (s.wrMems d a v).flt = s.flt := (rfl)
@[simp] theorem State.wrMems_pkf (s : State) (d a : Nat) (v : List Word) : (s.wrMems d a v).pkf = s.pkf := (rfl)
@[simp] theorem State.wrMems_chains (s : State) (d a : Nat) (v : List Word) : (s.wrMems d a v).chains = s.chains := (rfl)
@[simp] theorem State.wrMems_ctes (s : State) (d a : Nat) (v : List Word) : (s.wrMems d a v).ctes = s.ctes := (rfl)
@[simp] theorem State.wrMems_inbox (s : State) (d a : Nat) (v : List Word) : (s.wrMems d a v).inbox = s.inbox := (rfl)
@[simp] theorem State.wrMems_ings (s : State) (d a : Nat) (v : List Word) : (s.wrMems d a v).ings = s.ings := (rfl)
@[simp] theorem State.wrMems_dfus (s : State) (d a : Nat) (v : List Word) : (s.wrMems d a v).dfus = s.dfus := (rfl)
@[simp] theorem State.wrMems_acus (s : State) (d a : Nat) (v : List Word) : (s.wrMems d a v).acus = s.acus := (rfl)
@[simp] theorem State.wrMems_acc (s : State) (d a : Nat) (v : List Word) : (s.wrMems d a v).acc = s.acc := (rfl)
@[simp] theorem State.wrMems_fcs (s : State) (d a : Nat) (v : List Word) : (s.wrMems d a v).fcs = s.fcs := (rfl)
@[simp] theorem State.wrMems_gals (s : State) (d a : Nat) (v : List Word) : (s.wrMems d a v).gals = s.gals := (rfl)
@[simp] theorem State.wrMems_leds (s : State) (d a : Nat) (v : List Word) : (s.wrMems d a v).leds = s.leds := (rfl)
@[simp] theorem State.wrMems_bes (s : State) (d a : Nat) (v : List Word) : (s.wrMems d a v).bes = s.bes := (rfl)
@[simp] theorem State.wrMems_aside (s : State) (d a : Nat) (v : List Word) : (s.wrMems d a v).aside = s.aside := (rfl)
@[simp] theorem State.wrMems_asidePkg (s : State) (d a : Nat) (v : List Word) : (s.wrMems d a v).asidePkg = s.asidePkg := (rfl)
@[simp] theorem State.wrMems_drcs (s : State) (d a : Nat) (v : List Word) : (s.wrMems d a v).drcs = s.drcs := (rfl)
@[simp] theorem State.wrMems_training (s : State) (d a : Nat) (v : List Word) : (s.wrMems d a v).training = s.training := (rfl)
@[simp] theorem State.wrMems_fabs (s : State) (d a : Nat) (v : List Word) : (s.wrMems d a v).fabs = s.fabs := (rfl)
@[simp] theorem State.wrMems_dmas (s : State) (d a : Nat) (v : List Word) : (s.wrMems d a v).dmas = s.dmas := (rfl)
@[simp] theorem State.wrMems_scratch (s : State) (d a : Nat) (v : List Word) : (s.wrMems d a v).scratch = s.scratch := (rfl)
@[simp] theorem State.wrMems_wraps (s : State) (d a : Nat) (v : List Word) : (s.wrMems d a v).wraps = s.wraps := (rfl)
@[simp] theorem State.wrMems_snaps (s : State) (d a : Nat) (v : List Word) : (s.wrMems d a v).snaps = s.snaps := (rfl)
@[simp] theorem State.wrMems_csvs (s : State) (d a : Nat) (v : List Word) : (s.wrMems d a v).csvs = s.csvs := (rfl)
@[simp] theorem State.wrMems_csvNext (s : State) (d a : Nat) (v : List Word) : (s.wrMems d a v).csvNext = s.csvNext := (rfl)
@[simp] theorem State.wrMems_csvGen (s : State) (d a : Nat) (v : List Word) : (s.wrMems d a v).csvGen = s.csvGen := (rfl)
@[simp] theorem State.wrMems_temps (s : State) (d a : Nat) (v : List Word) : (s.wrMems d a v).temps = s.temps := (rfl)
@[simp] theorem State.wrMems_telAt (s : State) (d a : Nat) (v : List Word) : (s.wrMems d a v).telAt = s.telAt := (rfl)
@[simp] theorem State.wrMems_timers (s : State) (d a : Nat) (v : List Word) : (s.wrMems d a v).timers = s.timers := (rfl)
@[simp] theorem State.wrMems_workT (s : State) (d a : Nat) (v : List Word) : (s.wrMems d a v).workT = s.workT := (rfl)
@[simp] theorem State.wrMems_workAt (s : State) (d a : Nat) (v : List Word) : (s.wrMems d a v).workAt = s.workAt := (rfl)
@[simp] theorem State.get_wrMems (s : State) (d a : Nat) (v : List Word) (f : RF) : (s.wrMems d a v).get f = s.get f := (rfl)

@[simp] theorem State.wrFlash_part (s : State) (d a : Nat) (v : List Nat) : (s.wrFlash d a v).part = s.part := (rfl)
@[simp] theorem State.wrFlash_pending (s : State) (d a : Nat) (v : List Nat) : (s.wrFlash d a v).pending = s.pending := (rfl)
@[simp] theorem State.wrFlash_now (s : State) (d a : Nat) (v : List Nat) : (s.wrFlash d a v).now = s.now := (rfl)
@[simp] theorem State.wrFlash_draws (s : State) (d a : Nat) (v : List Nat) : (s.wrFlash d a v).draws = s.draws := (rfl)
@[simp] theorem State.wrFlash_regs (s : State) (d a : Nat) (v : List Nat) : (s.wrFlash d a v).regs = s.regs := (rfl)
@[simp] theorem State.wrFlash_dram (s : State) (d a : Nat) (v : List Nat) : (s.wrFlash d a v).dram = s.dram := (rfl)
@[simp] theorem State.wrFlash_mirrors (s : State) (d a : Nat) (v : List Nat) : (s.wrFlash d a v).mirrors = s.mirrors := (rfl)
@[simp] theorem State.wrFlash_out (s : State) (d a : Nat) (v : List Nat) : (s.wrFlash d a v).out = s.out := (rfl)
@[simp] theorem State.wrFlash_evts (s : State) (d a : Nat) (v : List Nat) : (s.wrFlash d a v).evts = s.evts := (rfl)
@[simp] theorem State.wrFlash_evtLost (s : State) (d a : Nat) (v : List Nat) : (s.wrFlash d a v).evtLost = s.evtLost := (rfl)
@[simp] theorem State.wrFlash_units (s : State) (d a : Nat) (v : List Nat) : (s.wrFlash d a v).units = s.units := (rfl)
@[simp] theorem State.wrFlash_rings (s : State) (d a : Nat) (v : List Nat) : (s.wrFlash d a v).rings = s.rings := (rfl)
@[simp] theorem State.wrFlash_ports (s : State) (d a : Nat) (v : List Nat) : (s.wrFlash d a v).ports = s.ports := (rfl)
@[simp] theorem State.wrFlash_lands (s : State) (d a : Nat) (v : List Nat) : (s.wrFlash d a v).lands = s.lands := (rfl)
@[simp] theorem State.wrFlash_rg (s : State) (d a : Nat) (v : List Nat) : (s.wrFlash d a v).rg = s.rg := (rfl)
@[simp] theorem State.wrFlash_sec (s : State) (d a : Nat) (v : List Nat) : (s.wrFlash d a v).sec = s.sec := (rfl)
@[simp] theorem State.wrFlash_nvm (s : State) (d a : Nat) (v : List Nat) : (s.wrFlash d a v).nvm = s.nvm := (rfl)
@[simp] theorem State.wrFlash_rsc (s : State) (d a : Nat) (v : List Nat) : (s.wrFlash d a v).rsc = s.rsc := (rfl)
@[simp] theorem State.wrFlash_te (s : State) (d a : Nat) (v : List Nat) : (s.wrFlash d a v).te = s.te := (rfl)
@[simp] theorem State.wrFlash_pwr (s : State) (d a : Nat) (v : List Nat) : (s.wrFlash d a v).pwr = s.pwr := (rfl)
@[simp] theorem State.wrFlash_flt (s : State) (d a : Nat) (v : List Nat) : (s.wrFlash d a v).flt = s.flt := (rfl)
@[simp] theorem State.wrFlash_pkf (s : State) (d a : Nat) (v : List Nat) : (s.wrFlash d a v).pkf = s.pkf := (rfl)
@[simp] theorem State.wrFlash_chains (s : State) (d a : Nat) (v : List Nat) : (s.wrFlash d a v).chains = s.chains := (rfl)
@[simp] theorem State.wrFlash_ctes (s : State) (d a : Nat) (v : List Nat) : (s.wrFlash d a v).ctes = s.ctes := (rfl)
@[simp] theorem State.wrFlash_inbox (s : State) (d a : Nat) (v : List Nat) : (s.wrFlash d a v).inbox = s.inbox := (rfl)
@[simp] theorem State.wrFlash_ings (s : State) (d a : Nat) (v : List Nat) : (s.wrFlash d a v).ings = s.ings := (rfl)
@[simp] theorem State.wrFlash_dfus (s : State) (d a : Nat) (v : List Nat) : (s.wrFlash d a v).dfus = s.dfus := (rfl)
@[simp] theorem State.wrFlash_acus (s : State) (d a : Nat) (v : List Nat) : (s.wrFlash d a v).acus = s.acus := (rfl)
@[simp] theorem State.wrFlash_acc (s : State) (d a : Nat) (v : List Nat) : (s.wrFlash d a v).acc = s.acc := (rfl)
@[simp] theorem State.wrFlash_fcs (s : State) (d a : Nat) (v : List Nat) : (s.wrFlash d a v).fcs = s.fcs := (rfl)
@[simp] theorem State.wrFlash_gals (s : State) (d a : Nat) (v : List Nat) : (s.wrFlash d a v).gals = s.gals := (rfl)
@[simp] theorem State.wrFlash_leds (s : State) (d a : Nat) (v : List Nat) : (s.wrFlash d a v).leds = s.leds := (rfl)
@[simp] theorem State.wrFlash_bes (s : State) (d a : Nat) (v : List Nat) : (s.wrFlash d a v).bes = s.bes := (rfl)
@[simp] theorem State.wrFlash_aside (s : State) (d a : Nat) (v : List Nat) : (s.wrFlash d a v).aside = s.aside := (rfl)
@[simp] theorem State.wrFlash_asidePkg (s : State) (d a : Nat) (v : List Nat) : (s.wrFlash d a v).asidePkg = s.asidePkg := (rfl)
@[simp] theorem State.wrFlash_drcs (s : State) (d a : Nat) (v : List Nat) : (s.wrFlash d a v).drcs = s.drcs := (rfl)
@[simp] theorem State.wrFlash_training (s : State) (d a : Nat) (v : List Nat) : (s.wrFlash d a v).training = s.training := (rfl)
@[simp] theorem State.wrFlash_fabs (s : State) (d a : Nat) (v : List Nat) : (s.wrFlash d a v).fabs = s.fabs := (rfl)
@[simp] theorem State.wrFlash_dmas (s : State) (d a : Nat) (v : List Nat) : (s.wrFlash d a v).dmas = s.dmas := (rfl)
@[simp] theorem State.wrFlash_scratch (s : State) (d a : Nat) (v : List Nat) : (s.wrFlash d a v).scratch = s.scratch := (rfl)
@[simp] theorem State.wrFlash_wraps (s : State) (d a : Nat) (v : List Nat) : (s.wrFlash d a v).wraps = s.wraps := (rfl)
@[simp] theorem State.wrFlash_snaps (s : State) (d a : Nat) (v : List Nat) : (s.wrFlash d a v).snaps = s.snaps := (rfl)
@[simp] theorem State.wrFlash_csvs (s : State) (d a : Nat) (v : List Nat) : (s.wrFlash d a v).csvs = s.csvs := (rfl)
@[simp] theorem State.wrFlash_csvNext (s : State) (d a : Nat) (v : List Nat) : (s.wrFlash d a v).csvNext = s.csvNext := (rfl)
@[simp] theorem State.wrFlash_csvGen (s : State) (d a : Nat) (v : List Nat) : (s.wrFlash d a v).csvGen = s.csvGen := (rfl)
@[simp] theorem State.wrFlash_temps (s : State) (d a : Nat) (v : List Nat) : (s.wrFlash d a v).temps = s.temps := (rfl)
@[simp] theorem State.wrFlash_telAt (s : State) (d a : Nat) (v : List Nat) : (s.wrFlash d a v).telAt = s.telAt := (rfl)
@[simp] theorem State.wrFlash_timers (s : State) (d a : Nat) (v : List Nat) : (s.wrFlash d a v).timers = s.timers := (rfl)
@[simp] theorem State.wrFlash_workT (s : State) (d a : Nat) (v : List Nat) : (s.wrFlash d a v).workT = s.workT := (rfl)
@[simp] theorem State.wrFlash_workAt (s : State) (d a : Nat) (v : List Nat) : (s.wrFlash d a v).workAt = s.workAt := (rfl)
@[simp] theorem State.get_wrFlash (s : State) (d a : Nat) (v : List Nat) (f : RF) : (s.wrFlash d a v).get f = s.get f := (rfl)

@[simp] theorem State.setScr_part (s : State) (d a : Nat) (v : Word) : (s.setScr d a v).part = s.part := (rfl)
@[simp] theorem State.setScr_pending (s : State) (d a : Nat) (v : Word) : (s.setScr d a v).pending = s.pending := (rfl)
@[simp] theorem State.setScr_now (s : State) (d a : Nat) (v : Word) : (s.setScr d a v).now = s.now := (rfl)
@[simp] theorem State.setScr_draws (s : State) (d a : Nat) (v : Word) : (s.setScr d a v).draws = s.draws := (rfl)
@[simp] theorem State.setScr_regs (s : State) (d a : Nat) (v : Word) : (s.setScr d a v).regs = s.regs := (rfl)
@[simp] theorem State.setScr_dram (s : State) (d a : Nat) (v : Word) : (s.setScr d a v).dram = s.dram := (rfl)
@[simp] theorem State.setScr_mirrors (s : State) (d a : Nat) (v : Word) : (s.setScr d a v).mirrors = s.mirrors := (rfl)
@[simp] theorem State.setScr_flash (s : State) (d a : Nat) (v : Word) : (s.setScr d a v).flash = s.flash := (rfl)
@[simp] theorem State.setScr_out (s : State) (d a : Nat) (v : Word) : (s.setScr d a v).out = s.out := (rfl)
@[simp] theorem State.setScr_evts (s : State) (d a : Nat) (v : Word) : (s.setScr d a v).evts = s.evts := (rfl)
@[simp] theorem State.setScr_evtLost (s : State) (d a : Nat) (v : Word) : (s.setScr d a v).evtLost = s.evtLost := (rfl)
@[simp] theorem State.setScr_units (s : State) (d a : Nat) (v : Word) : (s.setScr d a v).units = s.units := (rfl)
@[simp] theorem State.setScr_rings (s : State) (d a : Nat) (v : Word) : (s.setScr d a v).rings = s.rings := (rfl)
@[simp] theorem State.setScr_ports (s : State) (d a : Nat) (v : Word) : (s.setScr d a v).ports = s.ports := (rfl)
@[simp] theorem State.setScr_lands (s : State) (d a : Nat) (v : Word) : (s.setScr d a v).lands = s.lands := (rfl)
@[simp] theorem State.setScr_rg (s : State) (d a : Nat) (v : Word) : (s.setScr d a v).rg = s.rg := (rfl)
@[simp] theorem State.setScr_sec (s : State) (d a : Nat) (v : Word) : (s.setScr d a v).sec = s.sec := (rfl)
@[simp] theorem State.setScr_nvm (s : State) (d a : Nat) (v : Word) : (s.setScr d a v).nvm = s.nvm := (rfl)
@[simp] theorem State.setScr_rsc (s : State) (d a : Nat) (v : Word) : (s.setScr d a v).rsc = s.rsc := (rfl)
@[simp] theorem State.setScr_te (s : State) (d a : Nat) (v : Word) : (s.setScr d a v).te = s.te := (rfl)
@[simp] theorem State.setScr_pwr (s : State) (d a : Nat) (v : Word) : (s.setScr d a v).pwr = s.pwr := (rfl)
@[simp] theorem State.setScr_flt (s : State) (d a : Nat) (v : Word) : (s.setScr d a v).flt = s.flt := (rfl)
@[simp] theorem State.setScr_pkf (s : State) (d a : Nat) (v : Word) : (s.setScr d a v).pkf = s.pkf := (rfl)
@[simp] theorem State.setScr_chains (s : State) (d a : Nat) (v : Word) : (s.setScr d a v).chains = s.chains := (rfl)
@[simp] theorem State.setScr_ctes (s : State) (d a : Nat) (v : Word) : (s.setScr d a v).ctes = s.ctes := (rfl)
@[simp] theorem State.setScr_inbox (s : State) (d a : Nat) (v : Word) : (s.setScr d a v).inbox = s.inbox := (rfl)
@[simp] theorem State.setScr_ings (s : State) (d a : Nat) (v : Word) : (s.setScr d a v).ings = s.ings := (rfl)
@[simp] theorem State.setScr_dfus (s : State) (d a : Nat) (v : Word) : (s.setScr d a v).dfus = s.dfus := (rfl)
@[simp] theorem State.setScr_acus (s : State) (d a : Nat) (v : Word) : (s.setScr d a v).acus = s.acus := (rfl)
@[simp] theorem State.setScr_acc (s : State) (d a : Nat) (v : Word) : (s.setScr d a v).acc = s.acc := (rfl)
@[simp] theorem State.setScr_fcs (s : State) (d a : Nat) (v : Word) : (s.setScr d a v).fcs = s.fcs := (rfl)
@[simp] theorem State.setScr_gals (s : State) (d a : Nat) (v : Word) : (s.setScr d a v).gals = s.gals := (rfl)
@[simp] theorem State.setScr_leds (s : State) (d a : Nat) (v : Word) : (s.setScr d a v).leds = s.leds := (rfl)
@[simp] theorem State.setScr_bes (s : State) (d a : Nat) (v : Word) : (s.setScr d a v).bes = s.bes := (rfl)
@[simp] theorem State.setScr_aside (s : State) (d a : Nat) (v : Word) : (s.setScr d a v).aside = s.aside := (rfl)
@[simp] theorem State.setScr_asidePkg (s : State) (d a : Nat) (v : Word) : (s.setScr d a v).asidePkg = s.asidePkg := (rfl)
@[simp] theorem State.setScr_drcs (s : State) (d a : Nat) (v : Word) : (s.setScr d a v).drcs = s.drcs := (rfl)
@[simp] theorem State.setScr_training (s : State) (d a : Nat) (v : Word) : (s.setScr d a v).training = s.training := (rfl)
@[simp] theorem State.setScr_fabs (s : State) (d a : Nat) (v : Word) : (s.setScr d a v).fabs = s.fabs := (rfl)
@[simp] theorem State.setScr_dmas (s : State) (d a : Nat) (v : Word) : (s.setScr d a v).dmas = s.dmas := (rfl)
@[simp] theorem State.setScr_wraps (s : State) (d a : Nat) (v : Word) : (s.setScr d a v).wraps = s.wraps := (rfl)
@[simp] theorem State.setScr_snaps (s : State) (d a : Nat) (v : Word) : (s.setScr d a v).snaps = s.snaps := (rfl)
@[simp] theorem State.setScr_csvs (s : State) (d a : Nat) (v : Word) : (s.setScr d a v).csvs = s.csvs := (rfl)
@[simp] theorem State.setScr_csvNext (s : State) (d a : Nat) (v : Word) : (s.setScr d a v).csvNext = s.csvNext := (rfl)
@[simp] theorem State.setScr_csvGen (s : State) (d a : Nat) (v : Word) : (s.setScr d a v).csvGen = s.csvGen := (rfl)
@[simp] theorem State.setScr_temps (s : State) (d a : Nat) (v : Word) : (s.setScr d a v).temps = s.temps := (rfl)
@[simp] theorem State.setScr_telAt (s : State) (d a : Nat) (v : Word) : (s.setScr d a v).telAt = s.telAt := (rfl)
@[simp] theorem State.setScr_timers (s : State) (d a : Nat) (v : Word) : (s.setScr d a v).timers = s.timers := (rfl)
@[simp] theorem State.setScr_workT (s : State) (d a : Nat) (v : Word) : (s.setScr d a v).workT = s.workT := (rfl)
@[simp] theorem State.setScr_workAt (s : State) (d a : Nat) (v : Word) : (s.setScr d a v).workAt = s.workAt := (rfl)
@[simp] theorem State.get_setScr (s : State) (d a : Nat) (v : Word) (f : RF) : (s.setScr d a v).get f = s.get f := (rfl)

@[simp] theorem State.advance_part (s : State) (t : Nat) : (s.advance t).part = s.part := (rfl)
@[simp] theorem State.advance_pending (s : State) (t : Nat) : (s.advance t).pending = s.pending := (rfl)
@[simp] theorem State.advance_draws (s : State) (t : Nat) : (s.advance t).draws = s.draws := (rfl)
@[simp] theorem State.advance_regs (s : State) (t : Nat) : (s.advance t).regs = s.regs := (rfl)
@[simp] theorem State.advance_dram (s : State) (t : Nat) : (s.advance t).dram = s.dram := (rfl)
@[simp] theorem State.advance_mirrors (s : State) (t : Nat) : (s.advance t).mirrors = s.mirrors := (rfl)
@[simp] theorem State.advance_flash (s : State) (t : Nat) : (s.advance t).flash = s.flash := (rfl)
@[simp] theorem State.advance_out (s : State) (t : Nat) : (s.advance t).out = s.out := (rfl)
@[simp] theorem State.advance_evts (s : State) (t : Nat) : (s.advance t).evts = s.evts := (rfl)
@[simp] theorem State.advance_evtLost (s : State) (t : Nat) : (s.advance t).evtLost = s.evtLost := (rfl)
@[simp] theorem State.advance_units (s : State) (t : Nat) : (s.advance t).units = s.units := (rfl)
@[simp] theorem State.advance_rings (s : State) (t : Nat) : (s.advance t).rings = s.rings := (rfl)
@[simp] theorem State.advance_ports (s : State) (t : Nat) : (s.advance t).ports = s.ports := (rfl)
@[simp] theorem State.advance_lands (s : State) (t : Nat) : (s.advance t).lands = s.lands := (rfl)
@[simp] theorem State.advance_rg (s : State) (t : Nat) : (s.advance t).rg = s.rg := (rfl)
@[simp] theorem State.advance_sec (s : State) (t : Nat) : (s.advance t).sec = s.sec := (rfl)
@[simp] theorem State.advance_nvm (s : State) (t : Nat) : (s.advance t).nvm = s.nvm := (rfl)
@[simp] theorem State.advance_rsc (s : State) (t : Nat) : (s.advance t).rsc = s.rsc := (rfl)
@[simp] theorem State.advance_te (s : State) (t : Nat) : (s.advance t).te = s.te := (rfl)
@[simp] theorem State.advance_pwr (s : State) (t : Nat) : (s.advance t).pwr = s.pwr := (rfl)
@[simp] theorem State.advance_flt (s : State) (t : Nat) : (s.advance t).flt = s.flt := (rfl)
@[simp] theorem State.advance_pkf (s : State) (t : Nat) : (s.advance t).pkf = s.pkf := (rfl)
@[simp] theorem State.advance_chains (s : State) (t : Nat) : (s.advance t).chains = s.chains := (rfl)
@[simp] theorem State.advance_ctes (s : State) (t : Nat) : (s.advance t).ctes = s.ctes := (rfl)
@[simp] theorem State.advance_inbox (s : State) (t : Nat) : (s.advance t).inbox = s.inbox := (rfl)
@[simp] theorem State.advance_ings (s : State) (t : Nat) : (s.advance t).ings = s.ings := (rfl)
@[simp] theorem State.advance_dfus (s : State) (t : Nat) : (s.advance t).dfus = s.dfus := (rfl)
@[simp] theorem State.advance_acus (s : State) (t : Nat) : (s.advance t).acus = s.acus := (rfl)
@[simp] theorem State.advance_acc (s : State) (t : Nat) : (s.advance t).acc = s.acc := (rfl)
@[simp] theorem State.advance_fcs (s : State) (t : Nat) : (s.advance t).fcs = s.fcs := (rfl)
@[simp] theorem State.advance_gals (s : State) (t : Nat) : (s.advance t).gals = s.gals := (rfl)
@[simp] theorem State.advance_leds (s : State) (t : Nat) : (s.advance t).leds = s.leds := (rfl)
@[simp] theorem State.advance_bes (s : State) (t : Nat) : (s.advance t).bes = s.bes := (rfl)
@[simp] theorem State.advance_aside (s : State) (t : Nat) : (s.advance t).aside = s.aside := (rfl)
@[simp] theorem State.advance_asidePkg (s : State) (t : Nat) : (s.advance t).asidePkg = s.asidePkg := (rfl)
@[simp] theorem State.advance_drcs (s : State) (t : Nat) : (s.advance t).drcs = s.drcs := (rfl)
@[simp] theorem State.advance_training (s : State) (t : Nat) : (s.advance t).training = s.training := (rfl)
@[simp] theorem State.advance_fabs (s : State) (t : Nat) : (s.advance t).fabs = s.fabs := (rfl)
@[simp] theorem State.advance_dmas (s : State) (t : Nat) : (s.advance t).dmas = s.dmas := (rfl)
@[simp] theorem State.advance_scratch (s : State) (t : Nat) : (s.advance t).scratch = s.scratch := (rfl)
@[simp] theorem State.advance_wraps (s : State) (t : Nat) : (s.advance t).wraps = s.wraps := (rfl)
@[simp] theorem State.advance_snaps (s : State) (t : Nat) : (s.advance t).snaps = s.snaps := (rfl)
@[simp] theorem State.advance_csvs (s : State) (t : Nat) : (s.advance t).csvs = s.csvs := (rfl)
@[simp] theorem State.advance_csvNext (s : State) (t : Nat) : (s.advance t).csvNext = s.csvNext := (rfl)
@[simp] theorem State.advance_csvGen (s : State) (t : Nat) : (s.advance t).csvGen = s.csvGen := (rfl)
@[simp] theorem State.advance_temps (s : State) (t : Nat) : (s.advance t).temps = s.temps := (rfl)
@[simp] theorem State.advance_telAt (s : State) (t : Nat) : (s.advance t).telAt = s.telAt := (rfl)
@[simp] theorem State.advance_timers (s : State) (t : Nat) : (s.advance t).timers = s.timers := (rfl)
@[simp] theorem State.advance_workT (s : State) (t : Nat) : (s.advance t).workT = s.workT := (rfl)
@[simp] theorem State.advance_workAt (s : State) (t : Nat) : (s.advance t).workAt = s.workAt := (rfl)
@[simp] theorem State.get_advance (s : State) (t : Nat) (f : RF) : (s.advance t).get f = s.get f := (rfl)

@[simp] theorem State.emitOut_part (s : State) (o : Output) : (s.emitOut o).part = s.part := (rfl)
@[simp] theorem State.emitOut_pending (s : State) (o : Output) : (s.emitOut o).pending = s.pending := (rfl)
@[simp] theorem State.emitOut_now (s : State) (o : Output) : (s.emitOut o).now = s.now := (rfl)
@[simp] theorem State.emitOut_draws (s : State) (o : Output) : (s.emitOut o).draws = s.draws := (rfl)
@[simp] theorem State.emitOut_regs (s : State) (o : Output) : (s.emitOut o).regs = s.regs := (rfl)
@[simp] theorem State.emitOut_dram (s : State) (o : Output) : (s.emitOut o).dram = s.dram := (rfl)
@[simp] theorem State.emitOut_mirrors (s : State) (o : Output) : (s.emitOut o).mirrors = s.mirrors := (rfl)
@[simp] theorem State.emitOut_flash (s : State) (o : Output) : (s.emitOut o).flash = s.flash := (rfl)
@[simp] theorem State.emitOut_evts (s : State) (o : Output) : (s.emitOut o).evts = s.evts := (rfl)
@[simp] theorem State.emitOut_evtLost (s : State) (o : Output) : (s.emitOut o).evtLost = s.evtLost := (rfl)
@[simp] theorem State.emitOut_units (s : State) (o : Output) : (s.emitOut o).units = s.units := (rfl)
@[simp] theorem State.emitOut_rings (s : State) (o : Output) : (s.emitOut o).rings = s.rings := (rfl)
@[simp] theorem State.emitOut_ports (s : State) (o : Output) : (s.emitOut o).ports = s.ports := (rfl)
@[simp] theorem State.emitOut_lands (s : State) (o : Output) : (s.emitOut o).lands = s.lands := (rfl)
@[simp] theorem State.emitOut_rg (s : State) (o : Output) : (s.emitOut o).rg = s.rg := (rfl)
@[simp] theorem State.emitOut_sec (s : State) (o : Output) : (s.emitOut o).sec = s.sec := (rfl)
@[simp] theorem State.emitOut_nvm (s : State) (o : Output) : (s.emitOut o).nvm = s.nvm := (rfl)
@[simp] theorem State.emitOut_rsc (s : State) (o : Output) : (s.emitOut o).rsc = s.rsc := (rfl)
@[simp] theorem State.emitOut_te (s : State) (o : Output) : (s.emitOut o).te = s.te := (rfl)
@[simp] theorem State.emitOut_pwr (s : State) (o : Output) : (s.emitOut o).pwr = s.pwr := (rfl)
@[simp] theorem State.emitOut_flt (s : State) (o : Output) : (s.emitOut o).flt = s.flt := (rfl)
@[simp] theorem State.emitOut_pkf (s : State) (o : Output) : (s.emitOut o).pkf = s.pkf := (rfl)
@[simp] theorem State.emitOut_chains (s : State) (o : Output) : (s.emitOut o).chains = s.chains := (rfl)
@[simp] theorem State.emitOut_ctes (s : State) (o : Output) : (s.emitOut o).ctes = s.ctes := (rfl)
@[simp] theorem State.emitOut_inbox (s : State) (o : Output) : (s.emitOut o).inbox = s.inbox := (rfl)
@[simp] theorem State.emitOut_ings (s : State) (o : Output) : (s.emitOut o).ings = s.ings := (rfl)
@[simp] theorem State.emitOut_dfus (s : State) (o : Output) : (s.emitOut o).dfus = s.dfus := (rfl)
@[simp] theorem State.emitOut_acus (s : State) (o : Output) : (s.emitOut o).acus = s.acus := (rfl)
@[simp] theorem State.emitOut_acc (s : State) (o : Output) : (s.emitOut o).acc = s.acc := (rfl)
@[simp] theorem State.emitOut_fcs (s : State) (o : Output) : (s.emitOut o).fcs = s.fcs := (rfl)
@[simp] theorem State.emitOut_gals (s : State) (o : Output) : (s.emitOut o).gals = s.gals := (rfl)
@[simp] theorem State.emitOut_leds (s : State) (o : Output) : (s.emitOut o).leds = s.leds := (rfl)
@[simp] theorem State.emitOut_bes (s : State) (o : Output) : (s.emitOut o).bes = s.bes := (rfl)
@[simp] theorem State.emitOut_aside (s : State) (o : Output) : (s.emitOut o).aside = s.aside := (rfl)
@[simp] theorem State.emitOut_asidePkg (s : State) (o : Output) : (s.emitOut o).asidePkg = s.asidePkg := (rfl)
@[simp] theorem State.emitOut_drcs (s : State) (o : Output) : (s.emitOut o).drcs = s.drcs := (rfl)
@[simp] theorem State.emitOut_training (s : State) (o : Output) : (s.emitOut o).training = s.training := (rfl)
@[simp] theorem State.emitOut_fabs (s : State) (o : Output) : (s.emitOut o).fabs = s.fabs := (rfl)
@[simp] theorem State.emitOut_dmas (s : State) (o : Output) : (s.emitOut o).dmas = s.dmas := (rfl)
@[simp] theorem State.emitOut_scratch (s : State) (o : Output) : (s.emitOut o).scratch = s.scratch := (rfl)
@[simp] theorem State.emitOut_wraps (s : State) (o : Output) : (s.emitOut o).wraps = s.wraps := (rfl)
@[simp] theorem State.emitOut_snaps (s : State) (o : Output) : (s.emitOut o).snaps = s.snaps := (rfl)
@[simp] theorem State.emitOut_csvs (s : State) (o : Output) : (s.emitOut o).csvs = s.csvs := (rfl)
@[simp] theorem State.emitOut_csvNext (s : State) (o : Output) : (s.emitOut o).csvNext = s.csvNext := (rfl)
@[simp] theorem State.emitOut_csvGen (s : State) (o : Output) : (s.emitOut o).csvGen = s.csvGen := (rfl)
@[simp] theorem State.emitOut_temps (s : State) (o : Output) : (s.emitOut o).temps = s.temps := (rfl)
@[simp] theorem State.emitOut_telAt (s : State) (o : Output) : (s.emitOut o).telAt = s.telAt := (rfl)
@[simp] theorem State.emitOut_timers (s : State) (o : Output) : (s.emitOut o).timers = s.timers := (rfl)
@[simp] theorem State.emitOut_workT (s : State) (o : Output) : (s.emitOut o).workT = s.workT := (rfl)
@[simp] theorem State.emitOut_workAt (s : State) (o : Output) : (s.emitOut o).workAt = s.workAt := (rfl)
@[simp] theorem State.get_emitOut (s : State) (o : Output) (f : RF) : (s.emitOut o).get f = s.get f := (rfl)

@[simp] theorem State.setTimer_part (s : State) (k v : Nat) : (s.setTimer k v).part = s.part := (rfl)
@[simp] theorem State.setTimer_pending (s : State) (k v : Nat) : (s.setTimer k v).pending = s.pending := (rfl)
@[simp] theorem State.setTimer_now (s : State) (k v : Nat) : (s.setTimer k v).now = s.now := (rfl)
@[simp] theorem State.setTimer_draws (s : State) (k v : Nat) : (s.setTimer k v).draws = s.draws := (rfl)
@[simp] theorem State.setTimer_regs (s : State) (k v : Nat) : (s.setTimer k v).regs = s.regs := (rfl)
@[simp] theorem State.setTimer_dram (s : State) (k v : Nat) : (s.setTimer k v).dram = s.dram := (rfl)
@[simp] theorem State.setTimer_mirrors (s : State) (k v : Nat) : (s.setTimer k v).mirrors = s.mirrors := (rfl)
@[simp] theorem State.setTimer_flash (s : State) (k v : Nat) : (s.setTimer k v).flash = s.flash := (rfl)
@[simp] theorem State.setTimer_out (s : State) (k v : Nat) : (s.setTimer k v).out = s.out := (rfl)
@[simp] theorem State.setTimer_evts (s : State) (k v : Nat) : (s.setTimer k v).evts = s.evts := (rfl)
@[simp] theorem State.setTimer_evtLost (s : State) (k v : Nat) : (s.setTimer k v).evtLost = s.evtLost := (rfl)
@[simp] theorem State.setTimer_units (s : State) (k v : Nat) : (s.setTimer k v).units = s.units := (rfl)
@[simp] theorem State.setTimer_rings (s : State) (k v : Nat) : (s.setTimer k v).rings = s.rings := (rfl)
@[simp] theorem State.setTimer_ports (s : State) (k v : Nat) : (s.setTimer k v).ports = s.ports := (rfl)
@[simp] theorem State.setTimer_lands (s : State) (k v : Nat) : (s.setTimer k v).lands = s.lands := (rfl)
@[simp] theorem State.setTimer_rg (s : State) (k v : Nat) : (s.setTimer k v).rg = s.rg := (rfl)
@[simp] theorem State.setTimer_sec (s : State) (k v : Nat) : (s.setTimer k v).sec = s.sec := (rfl)
@[simp] theorem State.setTimer_nvm (s : State) (k v : Nat) : (s.setTimer k v).nvm = s.nvm := (rfl)
@[simp] theorem State.setTimer_rsc (s : State) (k v : Nat) : (s.setTimer k v).rsc = s.rsc := (rfl)
@[simp] theorem State.setTimer_te (s : State) (k v : Nat) : (s.setTimer k v).te = s.te := (rfl)
@[simp] theorem State.setTimer_pwr (s : State) (k v : Nat) : (s.setTimer k v).pwr = s.pwr := (rfl)
@[simp] theorem State.setTimer_flt (s : State) (k v : Nat) : (s.setTimer k v).flt = s.flt := (rfl)
@[simp] theorem State.setTimer_pkf (s : State) (k v : Nat) : (s.setTimer k v).pkf = s.pkf := (rfl)
@[simp] theorem State.setTimer_chains (s : State) (k v : Nat) : (s.setTimer k v).chains = s.chains := (rfl)
@[simp] theorem State.setTimer_ctes (s : State) (k v : Nat) : (s.setTimer k v).ctes = s.ctes := (rfl)
@[simp] theorem State.setTimer_inbox (s : State) (k v : Nat) : (s.setTimer k v).inbox = s.inbox := (rfl)
@[simp] theorem State.setTimer_ings (s : State) (k v : Nat) : (s.setTimer k v).ings = s.ings := (rfl)
@[simp] theorem State.setTimer_dfus (s : State) (k v : Nat) : (s.setTimer k v).dfus = s.dfus := (rfl)
@[simp] theorem State.setTimer_acus (s : State) (k v : Nat) : (s.setTimer k v).acus = s.acus := (rfl)
@[simp] theorem State.setTimer_acc (s : State) (k v : Nat) : (s.setTimer k v).acc = s.acc := (rfl)
@[simp] theorem State.setTimer_fcs (s : State) (k v : Nat) : (s.setTimer k v).fcs = s.fcs := (rfl)
@[simp] theorem State.setTimer_gals (s : State) (k v : Nat) : (s.setTimer k v).gals = s.gals := (rfl)
@[simp] theorem State.setTimer_leds (s : State) (k v : Nat) : (s.setTimer k v).leds = s.leds := (rfl)
@[simp] theorem State.setTimer_bes (s : State) (k v : Nat) : (s.setTimer k v).bes = s.bes := (rfl)
@[simp] theorem State.setTimer_aside (s : State) (k v : Nat) : (s.setTimer k v).aside = s.aside := (rfl)
@[simp] theorem State.setTimer_asidePkg (s : State) (k v : Nat) : (s.setTimer k v).asidePkg = s.asidePkg := (rfl)
@[simp] theorem State.setTimer_drcs (s : State) (k v : Nat) : (s.setTimer k v).drcs = s.drcs := (rfl)
@[simp] theorem State.setTimer_training (s : State) (k v : Nat) : (s.setTimer k v).training = s.training := (rfl)
@[simp] theorem State.setTimer_fabs (s : State) (k v : Nat) : (s.setTimer k v).fabs = s.fabs := (rfl)
@[simp] theorem State.setTimer_dmas (s : State) (k v : Nat) : (s.setTimer k v).dmas = s.dmas := (rfl)
@[simp] theorem State.setTimer_scratch (s : State) (k v : Nat) : (s.setTimer k v).scratch = s.scratch := (rfl)
@[simp] theorem State.setTimer_wraps (s : State) (k v : Nat) : (s.setTimer k v).wraps = s.wraps := (rfl)
@[simp] theorem State.setTimer_snaps (s : State) (k v : Nat) : (s.setTimer k v).snaps = s.snaps := (rfl)
@[simp] theorem State.setTimer_csvs (s : State) (k v : Nat) : (s.setTimer k v).csvs = s.csvs := (rfl)
@[simp] theorem State.setTimer_csvNext (s : State) (k v : Nat) : (s.setTimer k v).csvNext = s.csvNext := (rfl)
@[simp] theorem State.setTimer_csvGen (s : State) (k v : Nat) : (s.setTimer k v).csvGen = s.csvGen := (rfl)
@[simp] theorem State.setTimer_temps (s : State) (k v : Nat) : (s.setTimer k v).temps = s.temps := (rfl)
@[simp] theorem State.setTimer_telAt (s : State) (k v : Nat) : (s.setTimer k v).telAt = s.telAt := (rfl)
@[simp] theorem State.setTimer_workT (s : State) (k v : Nat) : (s.setTimer k v).workT = s.workT := (rfl)
@[simp] theorem State.setTimer_workAt (s : State) (k v : Nat) : (s.setTimer k v).workAt = s.workAt := (rfl)
@[simp] theorem State.get_setTimer (s : State) (k v : Nat) (f : RF) : (s.setTimer k v).get f = s.get f := (rfl)

@[simp] theorem State.putFree_part (s : State) (f : RF) : (s.putFree f).part = s.part := (rfl)
@[simp] theorem State.putFree_pending (s : State) (f : RF) : (s.putFree f).pending = s.pending := (rfl)
@[simp] theorem State.putFree_now (s : State) (f : RF) : (s.putFree f).now = s.now := (rfl)
@[simp] theorem State.putFree_dram (s : State) (f : RF) : (s.putFree f).dram = s.dram := (rfl)
@[simp] theorem State.putFree_mirrors (s : State) (f : RF) : (s.putFree f).mirrors = s.mirrors := (rfl)
@[simp] theorem State.putFree_flash (s : State) (f : RF) : (s.putFree f).flash = s.flash := (rfl)
@[simp] theorem State.putFree_out (s : State) (f : RF) : (s.putFree f).out = s.out := (rfl)
@[simp] theorem State.putFree_evts (s : State) (f : RF) : (s.putFree f).evts = s.evts := (rfl)
@[simp] theorem State.putFree_evtLost (s : State) (f : RF) : (s.putFree f).evtLost = s.evtLost := (rfl)
@[simp] theorem State.putFree_units (s : State) (f : RF) : (s.putFree f).units = s.units := (rfl)
@[simp] theorem State.putFree_rings (s : State) (f : RF) : (s.putFree f).rings = s.rings := (rfl)
@[simp] theorem State.putFree_ports (s : State) (f : RF) : (s.putFree f).ports = s.ports := (rfl)
@[simp] theorem State.putFree_lands (s : State) (f : RF) : (s.putFree f).lands = s.lands := (rfl)
@[simp] theorem State.putFree_rg (s : State) (f : RF) : (s.putFree f).rg = s.rg := (rfl)
@[simp] theorem State.putFree_sec (s : State) (f : RF) : (s.putFree f).sec = s.sec := (rfl)
@[simp] theorem State.putFree_nvm (s : State) (f : RF) : (s.putFree f).nvm = s.nvm := (rfl)
@[simp] theorem State.putFree_rsc (s : State) (f : RF) : (s.putFree f).rsc = s.rsc := (rfl)
@[simp] theorem State.putFree_te (s : State) (f : RF) : (s.putFree f).te = s.te := (rfl)
@[simp] theorem State.putFree_pwr (s : State) (f : RF) : (s.putFree f).pwr = s.pwr := (rfl)
@[simp] theorem State.putFree_flt (s : State) (f : RF) : (s.putFree f).flt = s.flt := (rfl)
@[simp] theorem State.putFree_pkf (s : State) (f : RF) : (s.putFree f).pkf = s.pkf := (rfl)
@[simp] theorem State.putFree_chains (s : State) (f : RF) : (s.putFree f).chains = s.chains := (rfl)
@[simp] theorem State.putFree_ctes (s : State) (f : RF) : (s.putFree f).ctes = s.ctes := (rfl)
@[simp] theorem State.putFree_inbox (s : State) (f : RF) : (s.putFree f).inbox = s.inbox := (rfl)
@[simp] theorem State.putFree_ings (s : State) (f : RF) : (s.putFree f).ings = s.ings := (rfl)
@[simp] theorem State.putFree_dfus (s : State) (f : RF) : (s.putFree f).dfus = s.dfus := (rfl)
@[simp] theorem State.putFree_acus (s : State) (f : RF) : (s.putFree f).acus = s.acus := (rfl)
@[simp] theorem State.putFree_acc (s : State) (f : RF) : (s.putFree f).acc = s.acc := (rfl)
@[simp] theorem State.putFree_fcs (s : State) (f : RF) : (s.putFree f).fcs = s.fcs := (rfl)
@[simp] theorem State.putFree_gals (s : State) (f : RF) : (s.putFree f).gals = s.gals := (rfl)
@[simp] theorem State.putFree_leds (s : State) (f : RF) : (s.putFree f).leds = s.leds := (rfl)
@[simp] theorem State.putFree_bes (s : State) (f : RF) : (s.putFree f).bes = s.bes := (rfl)
@[simp] theorem State.putFree_aside (s : State) (f : RF) : (s.putFree f).aside = s.aside := (rfl)
@[simp] theorem State.putFree_asidePkg (s : State) (f : RF) : (s.putFree f).asidePkg = s.asidePkg := (rfl)
@[simp] theorem State.putFree_drcs (s : State) (f : RF) : (s.putFree f).drcs = s.drcs := (rfl)
@[simp] theorem State.putFree_training (s : State) (f : RF) : (s.putFree f).training = s.training := (rfl)
@[simp] theorem State.putFree_fabs (s : State) (f : RF) : (s.putFree f).fabs = s.fabs := (rfl)
@[simp] theorem State.putFree_dmas (s : State) (f : RF) : (s.putFree f).dmas = s.dmas := (rfl)
@[simp] theorem State.putFree_scratch (s : State) (f : RF) : (s.putFree f).scratch = s.scratch := (rfl)
@[simp] theorem State.putFree_wraps (s : State) (f : RF) : (s.putFree f).wraps = s.wraps := (rfl)
@[simp] theorem State.putFree_snaps (s : State) (f : RF) : (s.putFree f).snaps = s.snaps := (rfl)
@[simp] theorem State.putFree_csvs (s : State) (f : RF) : (s.putFree f).csvs = s.csvs := (rfl)
@[simp] theorem State.putFree_csvNext (s : State) (f : RF) : (s.putFree f).csvNext = s.csvNext := (rfl)
@[simp] theorem State.putFree_csvGen (s : State) (f : RF) : (s.putFree f).csvGen = s.csvGen := (rfl)
@[simp] theorem State.putFree_temps (s : State) (f : RF) : (s.putFree f).temps = s.temps := (rfl)
@[simp] theorem State.putFree_telAt (s : State) (f : RF) : (s.putFree f).telAt = s.telAt := (rfl)
@[simp] theorem State.putFree_timers (s : State) (f : RF) : (s.putFree f).timers = s.timers := (rfl)
@[simp] theorem State.putFree_workT (s : State) (f : RF) : (s.putFree f).workT = s.workT := (rfl)
@[simp] theorem State.putFree_workAt (s : State) (f : RF) : (s.putFree f).workAt = s.workAt := (rfl)

@[simp] theorem State.emitOut_out (s : State) (o : Output) : (s.emitOut o).out = o :: s.out := (rfl)
@[simp] theorem State.advance_now (s : State) (t : Nat) : (s.advance t).now = max s.now t := (rfl)
@[simp] theorem State.timer_setTimer_same (s : State) (k v : Nat) : (s.setTimer k v).timer k = v := Store.get_put_same _ _ _ _
@[simp] theorem State.timer_put (s : State) (f : RF) (v k : Nat) : (s.put f v).timer k = s.timer k := (rfl)
@[simp] theorem State.draw_fst (s : State) (w : Nat) : (s.draw w).1 = Config.freeValue s.draws % 2 ^ w := (rfl)
@[simp] theorem State.draw_snd (s : State) (w : Nat) : (s.draw w).2 = { s with draws := s.draws + 1 } := (rfl)

end Sys2Proof.Machine
end

