-- ==== Sys2Proof/Laws/Keeps.lean ====
section
/-! SUPPORT. `Keeps s t`: what every operation of the machine keeps from `s` to `t`, and the shared operations that keep it. Each
later lemma extends a chain that began at `s₀` by one operation. -/

namespace Sys2Proof.Machine

/-- `t` comes after `s` without undoing what no step undoes, and with the invariant where `s` has it. -/
def Keeps (s t : State) : Prop := s.Follows t ∧ (s.Inv → t.Inv)

theorem Keeps.refl (s : State) : Keeps s s :=
  ⟨⟨rfl, rfl, List.suffix_refl _, Nat.le_refl _, List.prefix_refl _, Nat.le_refl _, id, id⟩, id⟩

theorem Keeps.trans {a b c : State} (h : Keeps a b) (k : Keeps b c) : Keeps a c := by
  obtain ⟨⟨h1, h2, h3, h4, h5, h6, h7, h8⟩, hi⟩ := h
  obtain ⟨⟨k1, k2, k3, k4, k5, k6, k7, k8⟩, ki⟩ := k
  exact ⟨⟨k1.trans h1, k2.trans h2, h3.trans k3, h4.trans k4, h5.trans k5, h6.trans k6, k7 ∘ h7, k8 ∘ h8⟩, ki ∘ hi⟩

/-- A state that differs from `t` only where nothing that is kept is held. -/
theorem Keeps.same {s₀ t u : State} (h : Keeps s₀ t) (e1 : u.part = t.part) (e2 : u.pending = t.pending) (e3 : u.out = t.out)
    (e4 : u.draws = t.draws) (e5 : u.sec.slots = t.sec.slots) (e6 : u.sec.svn = t.sec.svn) (e7 : u.sec.storeInit = t.sec.storeInit)
    (e8 : u.sec.debugLock = t.sec.debugLock) (e9 : u.regs = t.regs) (e10 : u.dram = t.dram) (e11 : u.flash = t.flash)
    (e12 : u.scratch = t.scratch) (e13 : u.evts = t.evts) (e14 : u.rg.pend = t.rg.pend) (e15 : u.mirrors = t.mirrors) : Keeps s₀ u := by
  refine h.trans ⟨⟨e1, e2, by rw [e3], by rw [e4], by rw [e5], by rw [e6], by rw [e7]; exact id, by rw [e8]; exact id⟩, ?_⟩
  intro hi
  unfold State.Inv Memory.wf State.waitingCmds at hi ⊢
  rw [e1, e5, e9, e10, e11, e12, e13, e14, e15]
  exact hi

/-- A record update of anything but what is kept. -/
theorem keeps_mk {s₀ t : State} (h : Keeps s₀ t) {x_now : Nat} {x_evtLost : Nat} {x_units : List PUnit} {x_rings : Store RingSt}
    {x_ports : Store PortSt} {x_lands : Store LandSt} {x_rg : RgSt} {x_sec : SecSt} {x_nvm : NvmSt} {x_rsc : RscSt} {x_te :
    TeSt} {x_pwr : PwrSt} {x_flt : FltSt} {x_pkf : PkfSt} {x_chains : Store ChainSt} {x_ctes : Store CteSt} {x_inbox : List (Nat
    × Pkt)} {x_ings : Store IngSt} {x_dfus : Store DfuSt} {x_acus : Store AcuSt} {x_acc : AccSt} {x_fcs : Store FcSt} {x_gals :
    Store GalSt} {x_leds : Store LedSt} {x_bes : Store BeSt} {x_aside : List SetAside} {x_asidePkg : List AsidePkg} {x_drcs :
    Store DrcSt} {x_training : Store Nat} {x_fabs : Store (List FabReq)} {x_dmas : Store DmaSt} {x_wraps : List (Nat × Nat)}
    {x_snaps : List Snap} {x_csvs : Store CsvSt} {x_csvNext : Nat} {x_csvGen : Nat} {x_temps : Store Nat} {x_telAt : Nat}
    {x_timers : Store Nat} {x_workT : Nat} {x_workAt : Nat}
        (e1 : x_rg.pend = t.rg.pend) (e2 : x_sec.slots = t.sec.slots) (e3 : x_sec.svn = t.sec.svn) (e4 : x_sec.storeInit =
    t.sec.storeInit)
    (e5 : x_sec.debugLock = t.sec.debugLock) :
        Keeps s₀ ⟨t.part, t.pending, x_now, t.draws, t.regs, t.dram, t.mirrors, t.flash, t.out, t.evts, x_evtLost, x_units,
    x_rings, x_ports, x_lands, x_rg, x_sec, x_nvm, x_rsc, x_te, x_pwr, x_flt, x_pkf, x_chains, x_ctes, x_inbox, x_ings, x_dfus,
    x_acus, x_acc, x_fcs, x_gals, x_leds, x_bes, x_aside, x_asidePkg, x_drcs, x_training, x_fabs, x_dmas, t.scratch, x_wraps,
    x_snaps, x_csvs, x_csvNext, x_csvGen, x_temps, x_telAt, x_timers, x_workT, x_workAt⟩ :=
  h.same rfl rfl rfl rfl e2 e3 e4 e5 rfl rfl rfl rfl rfl e1 rfl

theorem keeps_wr {s₀ s : State} (h : Keeps s₀ s) (a : Nat) (v : Word) : Keeps s₀ (s.wr a v) := by
  refine h.trans ⟨(Keeps.refl s).1, ?_⟩
  rintro ⟨⟨h1, h2⟩, h3⟩
  exact ⟨⟨Store.wf_put h1 a v, h2⟩, h3⟩

theorem keeps_ite {s₀ s t : State} {c : Prop} [Decidable c] (h : Keeps s₀ s) (k : Keeps s₀ t) : Keeps s₀ (if c then s else t) := by
  split <;> assumption

theorem keeps_foldl {β : Type} {s₀ s : State} (h : Keeps s₀ s) (l : List β) {f : State → β → State}
    (hf : ∀ s x, Keeps s₀ s → Keeps s₀ (f s x)) : Keeps s₀ (l.foldl f s) := by
  induction l generalizing s with
  | nil => exact h
  | cons x l ih => exact ih (hf s x h)

theorem keeps_forAll {β : Type} {s₀ s : State} (h : Keeps s₀ s) (l : List β) {f : State → β → State}
    (hf : ∀ s x, Keeps s₀ s → Keeps s₀ (f s x)) : Keeps s₀ (forAll l s f) := keeps_foldl h l hf

theorem keeps_when {s₀ s : State} (h : Keeps s₀ s) (b : Bool) {f : State → State} (hf : ∀ s, Keeps s₀ s → Keeps s₀ (f s)) :
    Keeps s₀ (when b f s) := by
  unfold when; split
  · exact hf s h
  · exact h

/-- What a meaning answers keeps what is kept. -/
def KeepsO (s : State) (o : Host.Outcome State Fault Refusal) : Prop := ∀ t, o = .next t → Keeps s t

theorem keepsO_ok {s t : State} (h : Keeps s t) : KeepsO s (ok t) := by
  intro u hu; cases hu; exact h

theorem keepsO_ite {s : State} {a b : Host.Outcome State Fault Refusal} {c : Prop} [Decidable c] (h : KeepsO s a) (k : KeepsO s b) :
    KeepsO s (if c then a else b) := by split <;> assumption

end Sys2Proof.Machine
end

