-- ==== Sys2Proof/Laws/KeepsOps.lean ====
section
/-! SUPPORT. What the operations of Ops, Net, Rings, Hist, HostOps keep. -/

namespace Sys2Proof.Machine

/-! ### Ops -/

theorem State.wr_keeps {s₀ s : State} (h : Keeps s₀ s) (a : Nat) (v : Word) : Keeps s₀ (State.wr s a v) := keeps_wr h a v

theorem State.put_keeps {s₀ s : State} (h : Keeps s₀ s) (f : RF) (v : Nat) : Keeps s₀ (State.put s f v) := by
  unfold State.put
  with_reducible repeat' first
    | assumption | apply State.wr_keeps

theorem State.putI_keeps {s₀ s : State} (h : Keeps s₀ s) (f : RF) (v : Int) : Keeps s₀ (State.putI s f v) := by
  unfold State.putI
  with_reducible repeat' first
    | assumption | apply State.put_keeps

theorem State.bumpBy_keeps {s₀ s : State} (h : Keeps s₀ s) (f : RF) (n : Nat) : Keeps s₀ (State.bumpBy s f n) := by
  unfold State.bumpBy
  with_reducible repeat' first
    | assumption | apply State.put_keeps

theorem State.bump_keeps {s₀ s : State} (h : Keeps s₀ s) (f : RF) : Keeps s₀ (State.bump s f) := by
  unfold State.bump
  with_reducible repeat' first
    | assumption | apply State.bumpBy_keeps

theorem State.drop_keeps {s₀ s : State} (h : Keeps s₀ s) (f : RF) : Keeps s₀ (State.drop s f) := by
  unfold State.drop
  with_reducible repeat' first
    | assumption | apply State.put_keeps

theorem State.raise_keeps {s₀ s : State} (h : Keeps s₀ s) (f : RF) : Keeps s₀ (State.raise s f) := by
  unfold State.raise
  with_reducible repeat' first
    | assumption | apply State.put_keeps

theorem State.putBit_keeps {s₀ s : State} (h : Keeps s₀ s) (f : RF) (i : Nat) (b : Bool) : Keeps s₀ (State.putBit s f i b) := by
  unfold State.putBit
  with_reducible repeat' first
    | assumption | apply State.put_keeps

theorem State.softWrite_keeps {s₀ s : State} (h : Keeps s₀ s) (a data : Nat) : Keeps s₀ (State.softWrite s a data) := by
  unfold State.softWrite
  with_reducible repeat' first
    | assumption | apply State.wr_keeps | extract_lets

theorem State.count_keeps {s₀ s : State} (h : Keeps s₀ s) (d k n : Nat) : Keeps s₀ (State.count s d k n) := by
  unfold State.count
  with_reducible repeat' first
    | assumption | apply State.putBit_keeps | apply State.put_keeps | apply State.raise_keeps | apply keeps_ite
    | refine keeps_mk ?_ rfl rfl rfl rfl rfl | extract_lets

theorem State.pm_keeps {s₀ s : State} (h : Keeps s₀ s) (d ev i n : Nat) : Keeps s₀ (State.pm s d ev i n) := by
  unfold State.pm
  with_reducible repeat' first
    | assumption | (intro _) | apply State.count_keeps | apply keeps_ite | apply keeps_foldl

theorem State.pmU_keeps {s₀ s : State} (h : Keeps s₀ s) (d ev n : Nat) : Keeps s₀ (State.pmU s d ev n) := by
  unfold State.pmU
  with_reducible repeat' first
    | assumption | (intro _) | apply State.count_keeps | apply keeps_ite | apply keeps_foldl

theorem State.td_keeps {s₀ s : State} (h : Keeps s₀ s) (d c k n : Nat) : Keeps s₀ (State.td s d c k n) := by
  unfold State.td
  with_reducible repeat' first
    | assumption | apply State.put_keeps | apply keeps_ite | extract_lets

theorem State.advance_keeps {s₀ s : State} (h : Keeps s₀ s) (t : Nat) : Keeps s₀ (State.advance s t) := by
  unfold State.advance
  with_reducible repeat' first
    | assumption | refine keeps_mk ?_ rfl rfl rfl rfl rfl

theorem State.draw_keeps {s₀ s : State} (h : Keeps s₀ s) (w : Nat) : Keeps s₀ (State.draw s w).2 :=
  h.trans ⟨⟨rfl, rfl, List.suffix_refl _, Nat.le_succ _, List.prefix_refl _, Nat.le_refl _, id, id⟩, id⟩

theorem State.putFree_keeps {s₀ s : State} (h : Keeps s₀ s) (f : RF) : Keeps s₀ (State.putFree s f) := by
  unfold State.putFree
  with_reducible repeat' first
    | assumption | apply State.draw_keeps | apply State.put_keeps

theorem State.setTimer_keeps {s₀ s : State} (h : Keeps s₀ s) (k v : Nat) : Keeps s₀ (State.setTimer s k v) := by
  unfold State.setTimer
  with_reducible repeat' first
    | assumption | (intro _) | apply State.put_keeps | refine keeps_mk ?_ rfl rfl rfl rfl rfl

theorem State.tick_keeps {s₀ s : State} (h : Keeps s₀ s) (k per : Nat) : Keeps s₀ (State.tick s k per) := by
  unfold State.tick
  with_reducible repeat' first
    | assumption | apply State.advance_keeps | apply State.setTimer_keeps

theorem State.atMultiple_keeps {s₀ s : State} (h : Keeps s₀ s) (k per : Nat) : Keeps s₀ (State.atMultiple s k per) := by
  unfold State.atMultiple
  with_reducible repeat' first
    | assumption | apply State.advance_keeps | apply State.setTimer_keeps | extract_lets

theorem State.pace_keeps {s₀ s : State} (h : Keeps s₀ s) (k per : Nat) : Keeps s₀ (State.pace s k per) := by
  unfold State.pace
  with_reducible repeat' first
    | assumption | apply State.advance_keeps | apply State.setTimer_keeps | extract_lets

theorem State.emitOut_keeps {s₀ s : State} (h : Keeps s₀ s) (o : Output) : Keeps s₀ (State.emitOut s o) :=
  h.trans ⟨⟨rfl, rfl, List.suffix_cons _ _, Nat.le_refl _, List.prefix_refl _, Nat.le_refl _, id, id⟩, id⟩

theorem State.setRing_keeps {s₀ s : State} (h : Keeps s₀ s) (r : Nat) (v : RingSt) : Keeps s₀ (State.setRing s r v) := by
  unfold State.setRing
  with_reducible repeat' first
    | assumption | (intro _) | apply State.put_keeps | refine keeps_mk ?_ rfl rfl rfl rfl rfl

theorem State.setPort_keeps {s₀ s : State} (h : Keeps s₀ s) (p : Nat) (v : PortSt) : Keeps s₀ (State.setPort s p v) := by
  unfold State.setPort
  with_reducible repeat' first
    | assumption | (intro _) | apply State.put_keeps | refine keeps_mk ?_ rfl rfl rfl rfl rfl

theorem State.setLand_keeps {s₀ s : State} (h : Keeps s₀ s) (p r : Nat) (v : LandSt) : Keeps s₀ (State.setLand s p r v) := by
  unfold State.setLand
  with_reducible repeat' first
    | assumption | (intro _) | apply State.put_keeps | refine keeps_mk ?_ rfl rfl rfl rfl rfl

theorem State.setChain_keeps {s₀ s : State} (h : Keeps s₀ s) (k : Nat) (v : ChainSt) : Keeps s₀ (State.setChain s k v) := by
  unfold State.setChain
  with_reducible repeat' first
    | assumption | (intro _) | apply State.put_keeps | refine keeps_mk ?_ rfl rfl rfl rfl rfl

theorem State.setCte_keeps {s₀ s : State} (h : Keeps s₀ s) (d : Nat) (v : CteSt) : Keeps s₀ (State.setCte s d v) := by
  unfold State.setCte
  with_reducible repeat' first
    | assumption | (intro _) | apply State.put_keeps | refine keeps_mk ?_ rfl rfl rfl rfl rfl

theorem State.setRef_keeps {s₀ s : State} (h : Keeps s₀ s) (r : Nat) (v : RefSt) : Keeps s₀ (State.setRef s r v) := by
  unfold State.setRef
  with_reducible repeat' first
    | assumption | (intro _) | apply State.put_keeps | refine keeps_mk ?_ rfl rfl rfl rfl rfl

theorem State.wrMem_keeps {s₀ s : State} (h : Keeps s₀ s) (d a : Nat) (v : Word) : Keeps s₀ (State.wrMem s d a v) := by
  refine h.trans ⟨(Keeps.refl s).1, fun hi => ⟨⟨hi.1.1, Store.wf_put hi.1.2.1 _ _, hi.1.2.2.1, hi.1.2.2.2.1, ?_⟩, hi.2⟩⟩
  unfold State.wrMem
  split
  · exact Store.wf_put hi.1.2.2.2.2 _ _
  · exact hi.1.2.2.2.2

theorem State.wrMems_keeps {s₀ s : State} (h : Keeps s₀ s) (d a : Nat) (vs : List Word) : Keeps s₀ (State.wrMems s d a vs) := by
  refine h.trans ⟨(Keeps.refl s).1, fun hi => ⟨⟨hi.1.1, Store.wf_putList vs hi.1.2.1 _, hi.1.2.2.1, hi.1.2.2.2.1, ?_⟩, hi.2⟩⟩
  unfold State.wrMems
  split
  · exact Store.wf_putList vs hi.1.2.2.2.2 _
  · exact hi.1.2.2.2.2

theorem State.queueEvt_keeps {s₀ s : State} (h : Keeps s₀ s) (e : Evt) : Keeps s₀ (State.queueEvt s e) := by
  unfold State.queueEvt
  split
  · rename_i hl
    refine h.trans ⟨(Keeps.refl s).1, fun hi => ⟨hi.1, ?_, hi.2.2⟩⟩
    simp only [List.length_append, List.length_singleton]; omega
  · exact State.bump_keeps (keeps_mk h rfl rfl rfl rfl rfl) _

theorem State.emitC_keeps {s₀ s : State} (h : Keeps s₀ s) (perm : Bool) (code die kind unit a b : Nat) : Keeps s₀ (State.emitC s perm code die kind unit a b) := by
  unfold State.emitC
  with_reducible repeat' first
    | assumption | apply State.queueEvt_keeps

theorem State.emit_keeps {s₀ s : State} (h : Keeps s₀ s) (code die kind unit a b : Nat) : Keeps s₀ (State.emit s code die kind unit a b) := by
  unfold State.emit
  with_reducible repeat' first
    | assumption | apply State.emitC_keeps

theorem State.uncorr_keeps {s₀ s : State} (h : Keeps s₀ s) (d addr blk store : Nat) : Keeps s₀ (State.uncorr s d addr blk store) := by
  unfold State.uncorr
  with_reducible repeat' first
    | assumption | apply State.emit_keeps | apply State.raise_keeps

theorem State.setDrc_keeps {s₀ s : State} (h : Keeps s₀ s) (d : Nat) (v : DrcSt) : Keeps s₀ (State.setDrc s d v) := by
  unfold State.setDrc
  with_reducible repeat' first
    | assumption | (intro _) | apply State.put_keeps | refine keeps_mk ?_ rfl rfl rfl rfl rfl

theorem State.issueRefreshes_keeps {s₀ s : State} (h : Keeps s₀ s) (d : Nat) : Keeps s₀ (State.issueRefreshes s d) := by
  unfold State.issueRefreshes
  with_reducible repeat' first
    | assumption | (intro _) | apply State.setDrc_keeps | apply keeps_foldl | refine keeps_mk ?_ rfl rfl rfl rfl rfl
    | extract_lets

theorem State.portsDown_keeps {s₀ s : State} (h : Keeps s₀ s)  : Keeps s₀ (State.portsDown s) := by
  unfold State.portsDown
  with_reducible repeat' first
    | assumption | (intro _) | apply State.put_keeps | apply keeps_ite | apply keeps_forAll

theorem State.msix_keeps {s₀ s : State} (h : Keeps s₀ s) (p v : Nat) : Keeps s₀ (State.msix s p v) := by
  unfold State.msix
  with_reducible repeat' first
    | assumption | apply State.emitOut_keeps | apply State.setPort_keeps | apply State.setTimer_keeps | apply keeps_ite
    | refine keeps_mk ?_ rfl rfl rfl rfl rfl | extract_lets

theorem State.msixChange_keeps {s₀ s : State} (h : Keeps s₀ s)  : Keeps s₀ (State.msixChange s) := by
  unfold State.msixChange
  with_reducible repeat' first
    | assumption | apply State.msix_keeps

theorem State.setMarkOf_keeps {s₀ s : State} (h : Keeps s₀ s) (k : Nat) (v : FolMark) : Keeps s₀ (State.setMarkOf s k v) := by
  unfold State.setMarkOf
  with_reducible repeat' first
    | assumption | (intro _) | apply State.put_keeps | refine keeps_mk ?_ rfl rfl rfl rfl rfl

theorem State.markNow_keeps {s₀ s : State} (h : Keeps s₀ s) (bits : Nat) : Keeps s₀ (State.markNow s bits) := by
  unfold State.markNow
  with_reducible repeat' first
    | assumption | apply State.setMarkOf_keeps | split | refine keeps_mk ?_ rfl rfl rfl rfl rfl

theorem State.setMode_keeps {s₀ s : State} (h : Keeps s₀ s) (m : Nat) : Keeps s₀ (State.setMode s m) := by
  unfold State.setMode
  with_reducible repeat' first
    | assumption | apply State.emit_keeps | apply State.markNow_keeps | apply State.msixChange_keeps | apply State.put_keeps
    | apply State.raise_keeps | apply keeps_ite | refine keeps_mk ?_ rfl rfl rfl rfl rfl | extract_lets

theorem State.alert_keeps {s₀ s : State} (h : Keeps s₀ s)  : Keeps s₀ (State.alert s) := by
  unfold State.alert
  with_reducible repeat' first
    | assumption | apply State.msixChange_keeps | apply State.raise_keeps | apply keeps_ite

theorem State.wrFlash_keeps {s₀ s : State} (h : Keeps s₀ s) (dev off : Nat) (b : List Nat) :
    Keeps s₀ (State.wrFlash s dev off b) :=
  h.trans ⟨(Keeps.refl s).1, fun hi => ⟨⟨hi.1.1, hi.1.2.1, Store.wf_putList _ hi.1.2.2.1 _, hi.1.2.2.2⟩, hi.2⟩⟩

theorem State.appendRec_keeps {s₀ s : State} (h : Keeps s₀ s) (magic body : List Nat) : Keeps s₀ (State.appendRec s magic body) := by
  unfold State.appendRec
  with_reducible repeat' first
    | assumption | (intro _) | apply State.put_keeps | apply State.wrFlash_keeps | apply keeps_ite | extract_lets

theorem State.appendCounter_keeps {s₀ s : State} (h : Keeps s₀ s)  : Keeps s₀ (State.appendCounter s) := by
  unfold State.appendCounter
  with_reducible repeat' first
    | assumption | apply State.appendRec_keeps | apply State.put_keeps | extract_lets

theorem State.appendFault_keeps {s₀ s : State} (h : Keeps s₀ s) (u : UnitId) (dead serial : Nat) : Keeps s₀ (State.appendFault s u dead serial) := by
  unfold State.appendFault
  with_reducible repeat' first
    | assumption | apply State.appendRec_keeps

theorem State.chargeBy_keeps {s₀ s : State} (h : Keeps s₀ s) (u : UnitId) (bucket : Nat) (f : RF) (n : Nat) : Keeps s₀ (State.chargeBy s u bucket f n) := by
  unfold State.chargeBy
  with_reducible repeat' first
    | assumption | apply State.bumpBy_keeps | apply State.setTimer_keeps | apply keeps_ite

theorem State.charge_keeps {s₀ s : State} (h : Keeps s₀ s) (u : UnitId) (bucket : Nat) (f : RF) : Keeps s₀ (State.charge s u bucket f) := by
  unfold State.charge
  with_reducible repeat' first
    | assumption | apply State.chargeBy_keeps

theorem State.setUnitState_keeps {s₀ s : State} (h : Keeps s₀ s) (u : UnitId) (v : Nat) : Keeps s₀ (State.setUnitState s u v) := by
  unfold State.setUnitState
  with_reducible repeat' first
    | assumption | apply State.put_keeps | split | refine keeps_mk ?_ rfl rfl rfl rfl rfl

theorem State.evalRepl_keeps {s₀ s : State} (h : Keeps s₀ s)  : Keeps s₀ (State.evalRepl s) := by
  unfold State.evalRepl
  extract_lets conds adv lvl mask s1 s2 s3 s4
  have h_s1 : Keeps s₀ s1 := by
    with_reducible repeat' first
      | assumption | (intro _) | apply State.msixChange_keeps | apply State.put_keeps | apply State.setMode_keeps
      | apply keeps_ite | apply keeps_forAll | apply keeps_foldl
  have h_s2 : Keeps s₀ s2 := by
    with_reducible repeat' first
      | assumption | (intro _) | apply State.msixChange_keeps | apply State.put_keeps | apply State.setMode_keeps
      | apply keeps_ite | apply keeps_forAll | apply keeps_foldl
  have h_s3 : Keeps s₀ s3 := by
    with_reducible repeat' first
      | assumption | (intro _) | apply State.msixChange_keeps | apply State.put_keeps | apply State.setMode_keeps
      | apply keeps_ite | apply keeps_forAll | apply keeps_foldl
  have h_s4 : Keeps s₀ s4 := by
    with_reducible repeat' first
      | assumption | (intro _) | apply State.msixChange_keeps | apply State.put_keeps | apply State.setMode_keeps
      | apply keeps_ite | apply keeps_forAll | apply keeps_foldl
  with_reducible repeat' first
    | assumption | (intro _) | apply State.msixChange_keeps | apply State.put_keeps | apply State.setMode_keeps
    | apply keeps_ite | apply keeps_forAll | apply keeps_foldl

theorem State.request_keeps {s₀ s : State} (h : Keeps s₀ s) (code die days : Nat) : Keeps s₀ (State.request s code die days) := by
  unfold State.request
  with_reducible repeat' first
    | assumption | (intro _) | apply State.emit_keeps | apply State.evalRepl_keeps | apply State.raise_keeps
    | apply keeps_ite | apply keeps_when | refine keeps_mk ?_ rfl rfl rfl rfl rfl | extract_lets

theorem State.unrequest_keeps {s₀ s : State} (h : Keeps s₀ s) (code die : Nat) : Keeps s₀ (State.unrequest s code die) := by
  unfold State.unrequest
  with_reducible repeat' first
    | assumption | (intro _) | apply State.evalRepl_keeps | refine keeps_mk ?_ rfl rfl rfl rfl rfl

theorem State.advise_keeps {s₀ s : State} (h : Keeps s₀ s) (code die : Nat) : Keeps s₀ (State.advise s code die) := by
  unfold State.advise
  with_reducible repeat' first
    | assumption | (intro _) | apply State.emit_keeps | apply State.evalRepl_keeps | apply State.raise_keeps
    | apply keeps_when | refine keeps_mk ?_ rfl rfl rfl rfl rfl | extract_lets

/-! ### Net -/

theorem State.enqueue_keeps {s₀ s : State} (h : Keeps s₀ s) (k : Nat) (p : Pkt) : Keeps s₀ (State.enqueue s k p) := by
  unfold State.enqueue
  with_reducible repeat' first
    | assumption | apply State.setChain_keeps | split | refine keeps_mk ?_ rfl rfl rfl rfl rfl | extract_lets

theorem State.deliver_keeps {s₀ s : State} (h : Keeps s₀ s) (d : Nat) (p : Pkt) : Keeps s₀ (State.deliver s d p) := by
  unfold State.deliver
  with_reducible repeat' first
    | assumption | apply keeps_ite | refine keeps_mk ?_ rfl rfl rfl rfl rfl

theorem State.cross_keeps {s₀ s : State} (h : Keeps s₀ s) (d e : Nat) (k : Option Nat) (p : Pkt) : Keeps s₀ (State.cross s d e k p) := by
  unfold State.cross
  with_reducible repeat' first
    | assumption | apply State.deliver_keeps | apply State.enqueue_keeps | apply keeps_ite | split
    | refine keeps_mk ?_ rfl rfl rfl rfl rfl

theorem State.sendUni_keeps {s₀ s : State} (h : Keeps s₀ s) (d : Nat) (p : Pkt) (orig : Bool) : Keeps s₀ (State.sendUni s d p orig) := by
  unfold State.sendUni
  with_reducible repeat' first
    | assumption | (intro _) | apply State.cross_keeps | apply State.emit_keeps | apply State.put_keeps
    | apply State.raise_keeps | apply keeps_ite | apply keeps_when | split | refine keeps_mk ?_ rfl rfl rfl rfl rfl
    | extract_lets

theorem State.originate_keeps {s₀ s : State} (h : Keeps s₀ s) (d vc dst dstDie sub : Nat) (payload : List Word) : Keeps s₀ (State.originate s d vc dst dstDie sub payload) := by
  unfold State.originate
  with_reducible repeat' first
    | assumption | apply State.sendUni_keeps

theorem State.retryHeld_keeps {s₀ s : State} (h : Keeps s₀ s)  : Keeps s₀ (State.retryHeld s) := by
  unfold State.retryHeld
  with_reducible repeat' first
    | assumption | (intro _) | apply State.cross_keeps | apply keeps_ite | apply keeps_forAll | split
    | refine keeps_mk ?_ rfl rfl rfl rfl rfl

theorem State.arrive_keeps {s₀ s : State} (h : Keeps s₀ s) (x : PkfPkt) : Keeps s₀ (State.arrive s x) := by
  unfold State.arrive
  with_reducible repeat' first
    | assumption | apply State.deliver_keeps | apply State.enqueue_keeps | apply State.sendUni_keeps | apply keeps_ite
    | split | refine keeps_mk ?_ rfl rfl rfl rfl rfl

theorem State.pumpPkf_keeps {s₀ s : State} (h : Keeps s₀ s)  : Keeps s₀ (State.pumpPkf s) := by
  unfold State.pumpPkf
  with_reducible repeat' first
    | assumption | (intro _) | apply State.arrive_keeps | apply keeps_ite | apply keeps_forAll
    | refine keeps_mk ?_ rfl rfl rfl rfl rfl

theorem State.takeInbox_keeps {s₀ s : State} (h : Keeps s₀ s) (d : Nat) (p : Pkt) : Keeps s₀ (State.takeInbox s d p) := by
  unfold State.takeInbox
  with_reducible repeat' first
    | assumption | refine keeps_mk ?_ rfl rfl rfl rfl rfl

/-! ### Rings -/

theorem State.putOctets32_keeps {s₀ s : State} (h : Keeps s₀ s) (a : Nat) (h : List Nat) : Keeps s₀ (State.putOctets32 s a h) := by
  unfold State.putOctets32
  with_reducible repeat' first
    | assumption | apply State.wr_keeps | extract_lets

theorem State.setRingChain_keeps {s₀ s : State} (h : Keeps s₀ s) (r : Nat) (h : List Nat) : Keeps s₀ (State.setRingChain s r h) := by
  unfold State.setRingChain
  with_reducible repeat' first
    | assumption | apply State.putOctets32_keeps

theorem State.initRing_keeps {s₀ s : State} (h : Keeps s₀ s) (r : Nat) : Keeps s₀ (State.initRing s r) := by
  unfold State.initRing
  with_reducible repeat' first
    | assumption | (intro _) | apply State.setRingChain_keeps | apply State.setRing_keeps | apply State.wr_keeps
    | apply keeps_forAll | extract_lets

theorem State.extChanged_keeps {s₀ s : State} (h : Keeps s₀ s) (d : Nat) : Keeps s₀ (State.extChanged s d) := by
  unfold State.extChanged
  with_reducible repeat' first
    | assumption | (intro _) | apply State.emit_keeps | apply State.put_keeps | apply State.raise_keeps | apply keeps_ite
    | refine keeps_mk ?_ rfl rfl rfl rfl rfl | extract_lets

theorem State.checkLow_keeps {s₀ s : State} (h : Keeps s₀ s) (d : Nat) : Keeps s₀ (State.checkLow s d) := by
  unfold State.checkLow
  with_reducible repeat' first
    | assumption | (intro _) | apply State.emit_keeps | apply State.raise_keeps | apply keeps_ite
    | refine keeps_mk ?_ rfl rfl rfl rfl rfl

theorem State.storeWords_keeps {s₀ s : State} (h : Keeps s₀ s) (d : Nat) (addr : Nat → Nat) (i : Nat) (ws : List Word) :
    Keeps s₀ (State.storeWords s d addr i ws) := by
  induction ws generalizing s i with
  | nil => exact h
  | cons w ws ih => exact ih (State.wrMem_keeps h _ _ _) _

theorem State.triggerSeal_keeps {s₀ s : State} (h : Keeps s₀ s) (r : Nat) : Keeps s₀ (State.triggerSeal s r) := by
  unfold State.triggerSeal
  with_reducible repeat' first
    | assumption | apply State.put_keeps | apply State.setRing_keeps | refine keeps_mk ?_ rfl rfl rfl rfl rfl | extract_lets

theorem State.commit_keeps {s₀ s t : State} (h : Keeps s₀ s) {r typ flags code start canFirst canCnt : Nat} {payload : List Word}
    (e : State.commit s r typ flags code start canFirst canCnt payload = some t) : Keeps s₀ t := by
  unfold State.commit at e
  extract_lets d n seq pl ws q wr s1 src2 s2 s3 src4 s4 at e
  split at e
  · cases e
  · clear_value pl
    have h1 : Keeps s₀ s1 := by
      simp only [s1]
      split
      · exact State.put_keeps (keeps_when (State.extChanged_keeps (State.setRing_keeps (State.storeWords_keeps
          (State.setRing_keeps h _ _) _ _ _ _) _ _) _) _ fun s hs => State.raise_keeps hs _) _ _
      · exact State.put_keeps (State.setRing_keeps (State.storeWords_keeps h _ _ _ _) _ _) _ _
    have h2 : Keeps s₀ s2 :=
      keeps_ite h1 (State.setRing_keeps (State.bump_keeps (State.setRingChain_keeps h1 _ _) _) _ _)
    have h3 : Keeps s₀ s3 := State.pmU_keeps (State.pmU_keeps (State.bump_keeps (State.put_keeps h2 _ _) _) _ _ _) _ _ _
    have h4 : Keeps s₀ s4 :=
      keeps_ite (State.emit_keeps (State.raise_keeps (State.setRing_keeps h3 _ _) _) _ _ _ _ _ _) h3
    obtain rfl := Option.some.inj e
    exact keeps_ite (State.triggerSeal_keeps h4 _) h4

theorem State.stall_keeps {s₀ s : State} (h : Keeps s₀ s) (d : Nat) : Keeps s₀ (State.stall s d) := by
  unfold State.stall
  with_reducible repeat' first
    | assumption | apply State.bump_keeps | apply State.raise_keeps

theorem State.setMark_keeps {s₀ s : State} (h : Keeps s₀ s) (r keyA keyB fmt : Nat) : Keeps s₀ (State.setMark s r keyA keyB fmt) := by
  unfold State.setMark
  with_reducible repeat' first
    | assumption | apply State.put_keeps | apply State.setRing_keeps | refine keeps_mk ?_ rfl rfl rfl rfl rfl | extract_lets

theorem State.showTarget_keeps {s₀ s : State} (h : Keeps s₀ s) (r t : Nat) : Keeps s₀ (State.showTarget s r t) := by
  unfold State.showTarget
  with_reducible repeat' first
    | assumption | apply State.put_keeps | apply keeps_ite | extract_lets

theorem State.freeRing_keeps {s₀ s : State} (h : Keeps s₀ s) (r : Nat) : Keeps s₀ (State.freeRing s r) := by
  unfold State.freeRing
  with_reducible repeat' first
    | assumption | (intro _) | apply State.checkLow_keeps | apply State.extChanged_keeps | apply State.put_keeps
    | apply State.setRing_keeps | apply keeps_ite | apply keeps_foldl | split | refine keeps_mk ?_ rfl rfl rfl rfl rfl
    | extract_lets

theorem State.ackRing_keeps {s₀ s : State} (h : Keeps s₀ s) (r t seq epoch : Nat) : Keeps s₀ (State.ackRing s r t seq epoch) := by
  unfold State.ackRing
  with_reducible repeat' first
    | assumption | apply State.bump_keeps | apply State.freeRing_keeps | apply State.raise_keeps | apply State.setRing_keeps
    | apply State.showTarget_keeps | apply keeps_ite | refine keeps_mk ?_ rfl rfl rfl rfl rfl | extract_lets

theorem State.resend_keeps {s₀ s : State} (h : Keeps s₀ s) (r t : Nat) : Keeps s₀ (State.resend s r t) := by
  unfold State.resend
  with_reducible repeat' first
    | assumption | apply State.bump_keeps | apply State.raise_keeps | apply State.setRing_keeps
    | apply State.showTarget_keeps | apply keeps_ite | refine keeps_mk ?_ rfl rfl rfl rfl rfl | extract_lets

/-! ### Hist -/

theorem State.setDfu_keeps {s₀ s : State} (h : Keeps s₀ s) (d : Nat) (v : DfuSt) : Keeps s₀ (State.setDfu s d v) := by
  unfold State.setDfu
  with_reducible repeat' first
    | assumption | (intro _) | apply State.put_keeps | refine keeps_mk ?_ rfl rfl rfl rfl rfl

theorem State.setDfuIn_keeps {s₀ s : State} (h : Keeps s₀ s) (d i : Nat) (v : DfuIn) : Keeps s₀ (State.setDfuIn s d i v) := by
  unfold State.setDfuIn
  with_reducible repeat' first
    | assumption | (intro _) | apply State.put_keeps | apply State.setDfu_keeps | refine keeps_mk ?_ rfl rfl rfl rfl rfl

theorem State.setAcu_keeps {s₀ s : State} (h : Keeps s₀ s) (d : Nat) (v : AcuSt) : Keeps s₀ (State.setAcu s d v) := by
  unfold State.setAcu
  with_reducible repeat' first
    | assumption | (intro _) | apply State.put_keeps | refine keeps_mk ?_ rfl rfl rfl rfl rfl

theorem State.discardHist_keeps {s₀ s : State} (h : Keeps s₀ s) (d i : Nat) : Keeps s₀ (State.discardHist s d i) := by
  unfold State.discardHist
  with_reducible repeat' first
    | assumption | apply State.put_keeps | apply State.raise_keeps | apply State.setDfuIn_keeps | apply keeps_ite
    | refine keeps_mk ?_ rfl rfl rfl rfl rfl | extract_lets

theorem State.seekOutput_keeps {s₀ s : State} (h : Keeps s₀ s) (d i : Nat) : Keeps s₀ (State.seekOutput s d i) := by
  unfold State.seekOutput
  with_reducible repeat' first
    | assumption | apply State.setDfuIn_keeps | refine keeps_mk ?_ rfl rfl rfl rfl rfl

theorem State.discardAll_keeps {s₀ s : State} (h : Keeps s₀ s)  : Keeps s₀ (State.discardAll s) := by
  unfold State.discardAll
  with_reducible repeat' first
    | assumption | (intro _) | apply State.discardHist_keeps | apply State.seekOutput_keeps | apply keeps_ite
    | apply keeps_forAll

theorem State.discardLines_keeps {s₀ s : State} (h : Keeps s₀ s) (d : Nat) : Keeps s₀ (State.discardLines s d) := by
  refine h.trans ⟨(Keeps.refl s).1, fun hi => ⟨⟨?_, hi.1.2⟩, hi.2⟩⟩
  have hk := Store.wf_keep hi.1.1 fun a => decide (a < Reg.DELAY_LINE d 0 0 ∨ Reg.DELAY_LINE d 128 0 ≤ a)
  exact hk

theorem State.stepAcc_keeps {s₀ s : State} (h : Keeps s₀ s) (delta : Int) : Keeps s₀ (State.stepAcc s delta) := by
  unfold State.stepAcc
  with_reducible repeat' first
    | assumption | apply State.discardAll_keeps | apply State.markNow_keeps | apply keeps_ite
    | refine keeps_mk ?_ rfl rfl rfl rfl rfl | extract_lets

/-! ### HostOps -/

theorem State.flushCpl_keeps {s₀ s : State} (h : Keeps s₀ s) (p n : Nat) : Keeps s₀ (State.flushCpl s p n) := by
  induction n generalizing s with
  | zero => exact h
  | succ n ih =>
    unfold State.flushCpl
    split
    · exact h
    · split
      · exact ih (State.msix_keeps (State.setPort_keeps (State.put_keeps (State.emitOut_keeps h _) _ _) _ _) _ _)
      · exact h

theorem State.completeAt_keeps {s₀ s : State} (h : Keeps s₀ s) (c : CmdHdr) (code result grain : Nat) : Keeps s₀ (State.completeAt s c code result grain) := by
  unfold State.completeAt
  extract_lets s1 k q
  have h_s1 : Keeps s₀ s1 := by
    with_reducible repeat' first
      | assumption | apply State.flushCpl_keeps | apply State.originate_keeps | apply State.put_keeps
      | apply State.setPort_keeps | apply keeps_ite | refine keeps_mk ?_ rfl rfl rfl rfl rfl | extract_lets
  with_reducible repeat' first
    | assumption | apply State.flushCpl_keeps | apply State.originate_keeps | apply State.put_keeps
    | apply State.setPort_keeps | apply keeps_ite | refine keeps_mk ?_ rfl rfl rfl rfl rfl | extract_lets

theorem State.complete_keeps {s₀ s : State} (h : Keeps s₀ s) (c : CmdHdr) (code result : Nat) : Keeps s₀ (State.complete s c code result) := by
  unfold State.complete
  with_reducible repeat' first
    | assumption | apply State.completeAt_keeps

theorem State.run_keeps {s₀ s : State} (h : Keeps s₀ s) (c : CmdHdr) (k : RunKind) : Keeps s₀ (State.run s c k) := by
  unfold State.run
  with_reducible repeat' first
    | assumption | refine keeps_mk ?_ rfl rfl rfl rfl rfl

theorem State.finish_keeps {s₀ s : State} (h : Keeps s₀ s) (p : RunKind → Bool) (code result : Nat) : Keeps s₀ (State.finish s p code result) := by
  unfold State.finish
  with_reducible repeat' first
    | assumption | (intro _) | apply State.completeAt_keeps | apply keeps_forAll | refine keeps_mk ?_ rfl rfl rfl rfl rfl
    | extract_lets

theorem State.inMode_keeps {s₀ s : State} (h : Keeps s₀ s) (c : CmdHdr) (modes : Nat) {f : State → State}
    (hf : ∀ s, Keeps s₀ s → Keeps s₀ (f s)) : Keeps s₀ (State.inMode s c modes f) := by
  unfold State.inMode
  split
  · exact State.complete_keeps h _ _ _
  · exact hf s h

theorem State.showLand_keeps {s₀ s : State} (h : Keeps s₀ s) (p r : Nat) : Keeps s₀ (State.showLand s p r) := by
  unfold State.showLand
  with_reducible repeat' first
    | assumption | apply State.put_keeps

theorem State.consume_keeps {s₀ s : State} (h : Keeps s₀ s) (p r count : Nat) : Keeps s₀ (State.consume s p r count) := by
  unfold State.consume
  with_reducible repeat' first
    | assumption | apply State.count_keeps | apply State.raise_keeps | apply State.setLand_keeps | apply State.showLand_keeps
    | apply keeps_ite | refine keeps_mk ?_ rfl rfl rfl rfl rfl | extract_lets

theorem State.landProduct_keeps {s₀ s : State} (h : Keeps s₀ s) (p r seq : Nat) (ws : List Word) : Keeps s₀ (State.landProduct s p r seq ws) := by
  unfold State.landProduct
  with_reducible repeat' first
    | assumption | apply State.drop_keeps | apply State.emitOut_keeps | apply State.msix_keeps | apply State.setLand_keeps
    | apply State.showLand_keeps | apply keeps_ite | refine keeps_mk ?_ rfl rfl rfl rfl rfl | extract_lets

end Sys2Proof.Machine
end

