-- ==== Sys2Proof/Laws/KeepsClock.lean ====
section
/-! SUPPORT. What the operations of Clock, Coding, ChainState, Torveri, IngestState, Faults, Ingest, Formats, Acu keep. -/

namespace Sys2Proof.Machine

/-! ### Clock -/

theorem State.sendBurst_keeps {s₀ s : State} (h : Keeps s₀ s) (k grain : Nat) : Keeps s₀ (State.sendBurst s k grain) := by
  unfold State.sendBurst
  with_reducible repeat' first
    | assumption | (intro _) | apply State.emitOut_keeps

theorem State.runOutput_keeps {s₀ s : State} (h : Keeps s₀ s) (k : Nat) : Keeps s₀ (State.runOutput s k) := by
  unfold State.runOutput
  with_reducible repeat' first
    | assumption | (intro _) | apply State.emitOut_keeps | apply State.sendBurst_keeps | apply keeps_ite | apply keeps_when
    | extract_lets

theorem State.setAlignT_keeps {s₀ s : State} (h : Keeps s₀ s)  : Keeps s₀ (State.setAlignT s) := by
  unfold State.setAlignT
  with_reducible repeat' first
    | assumption | (intro _) | apply State.put_keeps | apply State.raise_keeps | apply State.runOutput_keeps
    | apply keeps_forAll | refine keeps_mk ?_ rfl rfl rfl rfl rfl | extract_lets

theorem State.refreshQual_keeps {s₀ s : State} (h : Keeps s₀ s)  : Keeps s₀ (State.refreshQual s) := by
  unfold State.refreshQual
  with_reducible repeat' first
    | assumption | apply State.markNow_keeps | apply State.put_keeps | apply State.raise_keeps | apply State.setAlignT_keeps
    | apply keeps_ite | refine keeps_mk ?_ rfl rfl rfl rfl rfl | extract_lets

theorem State.enterHoldover_keeps {s₀ s : State} (h : Keeps s₀ s)  : Keeps s₀ (State.enterHoldover s) := by
  unfold State.enterHoldover
  with_reducible repeat' first
    | assumption | (intro _) | apply State.emit_keeps | apply State.putI_keeps | apply State.put_keeps
    | apply State.raise_keeps | apply State.refreshQual_keeps | apply keeps_ite | apply keeps_foldl
    | refine keeps_mk ?_ rfl rfl rfl rfl rfl | extract_lets

theorem State.startSwitch_keeps {s₀ s : State} (h : Keeps s₀ s) (r : Nat) : Keeps s₀ (State.startSwitch s r) := by
  unfold State.startSwitch
  with_reducible repeat' first
    | assumption | apply State.raise_keeps | refine keeps_mk ?_ rfl rfl rfl rfl rfl

theorem State.acquire_keeps {s₀ s : State} (h : Keeps s₀ s) (r : Nat) : Keeps s₀ (State.acquire s r) := by
  unfold State.acquire
  with_reducible repeat' first
    | assumption | apply State.put_keeps | apply State.setTimer_keeps

theorem State.choose_keeps {s₀ s : State} (h : Keeps s₀ s)  : Keeps s₀ (State.choose s) := by
  unfold State.choose
  with_reducible repeat' first
    | assumption | apply State.acquire_keeps | apply State.enterHoldover_keeps | apply State.startSwitch_keeps
    | apply keeps_ite | split | refine keeps_mk ?_ rfl rfl rfl rfl rfl

theorem State.checkDisagree_keeps {s₀ s : State} (h : Keeps s₀ s)  : Keeps s₀ (State.checkDisagree s) := by
  unfold State.checkDisagree
  with_reducible repeat' first
    | assumption | apply State.emit_keeps | apply State.put_keeps | apply State.raise_keeps | apply keeps_ite | split
    | refine keeps_mk ?_ rfl rfl rfl rfl rfl

theorem State.refInvalid_keeps {s₀ s : State} (h : Keeps s₀ s) (r : Nat) : Keeps s₀ (State.refInvalid s r) := by
  unfold State.refInvalid
  with_reducible repeat' first
    | assumption | apply State.checkDisagree_keeps | apply State.choose_keeps | apply State.put_keeps
    | apply State.raise_keeps | apply State.refreshQual_keeps | apply State.setRef_keeps | apply keeps_ite
    | refine keeps_mk ?_ rfl rfl rfl rfl rfl | extract_lets

theorem execRefActivityFail_keeps {s : State} (r : Nat) : KeepsO s (execRefActivityFail r s) := by
  have h := Keeps.refl s
  unfold execRefActivityFail
  with_reducible repeat' first
    | assumption | apply State.put_keeps | apply State.refInvalid_keeps | apply State.setRef_keeps | apply keepsO_ok
    | apply keepsO_ite | apply keeps_ite | refine keeps_mk ?_ rfl rfl rfl rfl rfl | extract_lets

theorem execFrequencyGate_keeps {s : State} (r : Nat) (ppb : Int) : KeepsO s (execFrequencyGate r ppb s) := by
  have h := Keeps.refl s
  unfold execFrequencyGate
  with_reducible repeat' first
    | assumption | apply State.checkDisagree_keeps | apply State.pace_keeps | apply State.putI_keeps | apply State.put_keeps
    | apply State.refInvalid_keeps | apply State.setRef_keeps | apply keepsO_ok | apply keepsO_ite | apply keeps_ite
    | refine keeps_mk ?_ rfl rfl rfl rfl rfl | extract_lets

theorem execQualificationComplete_keeps {s : State} (r : Nat) : KeepsO s (execQualificationComplete r s) := by
  have h := Keeps.refl s
  unfold execQualificationComplete
  with_reducible repeat' first
    | assumption | apply State.checkDisagree_keeps | apply State.choose_keeps | apply State.put_keeps
    | apply State.raise_keeps | apply State.refreshQual_keeps | apply keepsO_ok | apply keepsO_ite | apply keeps_ite
    | extract_lets

theorem execLoLoss_keeps {s : State}  : KeepsO s (execLoLoss s) := by
  have h := Keeps.refl s
  unfold execLoLoss
  with_reducible repeat' first
    | assumption | (intro _) | apply State.emit_keeps | apply State.put_keeps | apply State.raise_keeps
    | apply State.refreshQual_keeps | apply State.setRef_keeps | apply keepsO_ok | apply keepsO_ite | apply keeps_ite
    | apply keeps_forAll | refine keeps_mk ?_ rfl rfl rfl rfl rfl | extract_lets

theorem execLoWarmTimer_keeps {s : State}  : KeepsO s (execLoWarmTimer s) := by
  have h := Keeps.refl s
  unfold execLoWarmTimer
  with_reducible repeat' first
    | assumption | apply State.advance_keeps | apply State.raise_keeps | apply keepsO_ok | apply keepsO_ite | apply keeps_ite

theorem State.loReturns_keeps {s₀ s : State} (h : Keeps s₀ s)  : Keeps s₀ (State.loReturns s) := by
  unfold State.loReturns
  with_reducible repeat' first
    | assumption | apply State.put_keeps | apply keeps_ite | refine keeps_mk ?_ rfl rfl rfl rfl rfl

theorem execDpllLock_keeps {s : State}  : KeepsO s (execDpllLock s) := by
  have h := Keeps.refl s
  unfold execDpllLock
  with_reducible repeat' first
    | assumption | apply State.advance_keeps | apply State.put_keeps | apply State.refreshQual_keeps | apply keepsO_ok
    | apply keepsO_ite | apply keeps_ite | extract_lets

theorem execLadderDwell_keeps {s : State}  : KeepsO s (execLadderDwell s) := by
  have h := Keeps.refl s
  unfold execLadderDwell
  with_reducible repeat' first
    | assumption | apply State.put_keeps | apply State.tick_keeps | apply keepsO_ok | apply keepsO_ite | apply keeps_ite

theorem State.ppsOut_keeps {s₀ s : State} (h : Keeps s₀ s) (sec : Nat) : Keeps s₀ (State.ppsOut s sec) := by
  unfold State.ppsOut
  with_reducible repeat' first
    | assumption | apply State.emitOut_keeps | apply keeps_ite

theorem execHistorySecond_keeps {s : State} (sec : Nat) (c : Int) : KeepsO s (execHistorySecond sec c s) := by
  have h := Keeps.refl s
  unfold execHistorySecond
  with_reducible repeat' first
    | assumption | apply State.advance_keeps | apply State.drop_keeps | apply State.ppsOut_keeps | apply State.putI_keeps
    | apply State.put_keeps | apply State.refreshQual_keeps | apply keepsO_ok | apply keepsO_ite | apply keeps_ite
    | refine keeps_mk ?_ rfl rfl rfl rfl rfl | extract_lets

theorem execHoldoverExpiry_keeps {s : State}  : KeepsO s (execHoldoverExpiry s) := by
  have h := Keeps.refl s
  unfold execHoldoverExpiry
  with_reducible repeat' first
    | assumption | apply State.advance_keeps | apply State.put_keeps | apply State.refreshQual_keeps | apply keepsO_ok
    | apply keepsO_ite | apply keeps_ite | extract_lets

theorem execRevertHoldoff_keeps {s : State}  : KeepsO s (execRevertHoldoff s) := by
  have h := Keeps.refl s
  unfold execRevertHoldoff
  with_reducible repeat' first
    | assumption | apply State.advance_keeps | apply State.choose_keeps | apply State.refreshQual_keeps | apply keepsO_ok
    | apply keepsO_ite | apply keeps_ite | extract_lets

theorem execCrystalDiscipline_keeps {s : State} (ppb : Int) : KeepsO s (execCrystalDiscipline ppb s) := by
  have h := Keeps.refl s
  unfold execCrystalDiscipline
  with_reducible repeat' first
    | assumption | apply State.pace_keeps | apply State.putI_keeps | apply keepsO_ok | apply keepsO_ite | apply keeps_ite

theorem State.doRefForce_keeps {s₀ s : State} (h : Keeps s₀ s) (c : CmdHdr) (r : Nat) : Keeps s₀ (State.doRefForce s c r) := by
  unfold State.doRefForce
  with_reducible repeat' first
    | assumption | (intro _) | apply State.acquire_keeps | apply State.complete_keeps | apply State.inMode_keeps
    | apply State.startSwitch_keeps | apply keeps_ite | extract_lets

theorem execRefForce_keeps {s : State} (c : CmdHdr) (r : Nat) : KeepsO s (execRefForce c r s) := by
  have h := Keeps.refl s
  unfold execRefForce
  with_reducible repeat' first
    | assumption | apply State.doRefForce_keeps | apply keepsO_ok | apply keepsO_ite

theorem State.doSysrefBurst_keeps {s₀ s : State} (h : Keeps s₀ s) (c : CmdHdr) (mask : Nat) : Keeps s₀ (State.doSysrefBurst s c mask) := by
  unfold State.doSysrefBurst
  with_reducible repeat' first
    | assumption | (intro _) | apply State.complete_keeps | apply State.inMode_keeps | apply State.put_keeps
    | apply State.sendBurst_keeps | apply keeps_ite | apply keeps_forAll | extract_lets

theorem execSysrefBurst_keeps {s : State} (c : CmdHdr) (mask : Nat) : KeepsO s (execSysrefBurst c mask s) := by
  have h := Keeps.refl s
  unfold execSysrefBurst
  with_reducible repeat' first
    | assumption | apply State.doSysrefBurst_keeps | apply keepsO_ok | apply keepsO_ite

theorem State.stepTime_keeps {s₀ s : State} (h : Keeps s₀ s) (delta : Int) : Keeps s₀ (State.stepTime s delta) := by
  unfold State.stepTime
  with_reducible repeat' first
    | assumption | apply State.stepAcc_keeps | refine keeps_mk ?_ rfl rfl rfl rfl rfl | extract_lets

theorem State.endSwitch_keeps {s₀ s : State} (h : Keeps s₀ s) (phase : Int) : Keeps s₀ (State.endSwitch s phase) := by
  unfold State.endSwitch
  with_reducible repeat' first
    | assumption | apply State.choose_keeps | apply State.emit_keeps | apply State.putI_keeps | apply State.put_keeps
    | apply State.raise_keeps | apply State.refreshQual_keeps | apply State.setTimer_keeps | apply State.stepTime_keeps
    | apply keeps_ite | split | refine keeps_mk ?_ rfl rfl rfl rfl rfl | extract_lets

theorem State.applySetTime_keeps {s₀ s : State} (h : Keeps s₀ s) (sec : Nat) : Keeps s₀ (State.applySetTime s sec) := by
  unfold State.applySetTime
  with_reducible repeat' first
    | assumption | apply State.bump_keeps | apply State.emit_keeps | apply State.raise_keeps | apply State.refreshQual_keeps
    | apply State.stepTime_keeps | refine keeps_mk ?_ rfl rfl rfl rfl rfl | extract_lets

/-! ### Coding -/


/-! ### ChainState -/

theorem State.setCh_keeps {s₀ s : State} (h : Keeps s₀ s) (k : Nat) (st : Nat) : Keeps s₀ (State.setCh s k st) := by
  unfold State.setCh
  with_reducible repeat' first
    | assumption | apply State.put_keeps

theorem State.showChain_keeps {s₀ s : State} (h : Keeps s₀ s) (k : Nat) : Keeps s₀ (State.showChain s k) := by
  unfold State.showChain
  with_reducible repeat' first
    | assumption | (intro _) | apply State.put_keeps | apply State.setChain_keeps | apply keeps_ite
    | refine keeps_mk ?_ rfl rfl rfl rfl rfl | extract_lets

theorem State.freshLink_keeps {s₀ s : State} (h : Keeps s₀ s) (k : Nat) : Keeps s₀ (State.freshLink s k) := by
  unfold State.freshLink
  with_reducible repeat' first
    | assumption | apply State.put_keeps | apply State.resend_keeps | apply State.setChain_keeps
    | apply State.showChain_keeps | refine keeps_mk ?_ rfl rfl rfl rfl rfl | extract_lets

theorem State.sendStream_keeps {s₀ s : State} (h : Keeps s₀ s) (k : Nat) (cs : List Chr) : Keeps s₀ (State.sendStream s k cs) := by
  unfold State.sendStream
  with_reducible repeat' first
    | assumption | apply State.emitOut_keeps | apply State.setChain_keeps | refine keeps_mk ?_ rfl rfl rfl rfl rfl
    | extract_lets

theorem State.fillTo_keeps {s₀ s : State} (h : Keeps s₀ s) (k dest : Nat) : Keeps s₀ (State.fillTo s k dest) := by
  unfold State.fillTo
  with_reducible repeat' first
    | assumption | (intro _) | apply State.emitOut_keeps | apply State.setChain_keeps | apply keeps_ite | apply keeps_foldl
    | refine keeps_mk ?_ rfl rfl rfl rfl rfl | extract_lets

theorem State.sendAosSet_keeps {s₀ s : State} (h : Keeps s₀ s) (k : Nat) : Keeps s₀ (State.sendAosSet s k) := by
  unfold State.sendAosSet
  with_reducible repeat' first
    | assumption | apply State.emitOut_keeps | apply State.fillTo_keeps | apply State.setChain_keeps | extract_lets

theorem State.sendTos_keeps {s₀ s : State} (h : Keeps s₀ s) (k lane : Nat) : Keeps s₀ (State.sendTos s k lane) := by
  unfold State.sendTos
  with_reducible repeat' first
    | assumption | apply State.emitOut_keeps | apply State.setChain_keeps | extract_lets

theorem State.lanesTo_keeps {s₀ s : State} (h : Keeps s₀ s) (k st : Nat) (free : Bool) : Keeps s₀ (State.lanesTo s k st free) := by
  unfold State.lanesTo
  with_reducible repeat' first
    | assumption | (intro _) | apply State.putBit_keeps | apply State.put_keeps | apply State.setChain_keeps
    | apply keeps_forAll | apply keeps_when | refine keeps_mk ?_ rfl rfl rfl rfl rfl | extract_lets

theorem State.chainTxAwake_keeps {s₀ s : State} (h : Keeps s₀ s) (k : Nat) : Keeps s₀ (State.chainTxAwake s k) := by
  unfold State.chainTxAwake
  with_reducible repeat' first
    | assumption | apply State.bumpBy_keeps | apply State.putBit_keeps | apply State.put_keeps | apply keeps_ite
    | extract_lets

theorem State.chainAwake_keeps {s₀ s : State} (h : Keeps s₀ s) (k : Nat) : Keeps s₀ (State.chainAwake s k) := by
  unfold State.chainAwake
  with_reducible repeat' first
    | assumption | apply State.chainTxAwake_keeps | apply State.putBit_keeps | apply State.put_keeps

theorem State.chainOff_keeps {s₀ s : State} (h : Keeps s₀ s) (k : Nat) : Keeps s₀ (State.chainOff s k) := by
  unfold State.chainOff
  with_reducible repeat' first
    | assumption | apply State.chainAwake_keeps | apply State.lanesTo_keeps | apply State.putBit_keeps
    | apply State.setCh_keeps | apply State.setChain_keeps | apply keeps_ite | refine keeps_mk ?_ rfl rfl rfl rfl rfl
    | extract_lets

theorem State.chainsOff_keeps {s₀ s : State} (h : Keeps s₀ s)  : Keeps s₀ (State.chainsOff s) := by
  unfold State.chainsOff
  with_reducible repeat' first
    | assumption | (intro _) | apply State.chainOff_keeps | apply keeps_forAll

/-! ### Torveri -/

theorem State.sendPtp_keeps {s₀ s : State} (h : Keeps s₀ s) (k : Nat) (m : Ptp) : Keeps s₀ (State.sendPtp s k m) := by
  unfold State.sendPtp
  with_reducible repeat' first
    | assumption | apply State.enqueue_keeps | apply keeps_ite

theorem State.takeTe_keeps {s₀ s : State} (h : Keeps s₀ s) {k : Nat} {p : Pkt} {x : Nat × State} (e : State.takeTe s k p = some x) :
    Keeps s₀ x.2 := by
  unfold State.takeTe at e
  split at e
  · split at e
    · cases e; exact keeps_mk h rfl rfl rfl rfl rfl
    · cases e
  · cases e

theorem State.dropPtp_keeps {s₀ s : State} (h : Keeps s₀ s)  : Keeps s₀ (State.dropPtp s) := by
  unfold State.dropPtp
  with_reducible repeat' first
    | assumption | apply State.bump_keeps

theorem State.servo_keeps {s₀ s : State} (h : Keeps s₀ s) (th : Int) : Keeps s₀ (State.servo s th) := by
  unfold State.servo
  with_reducible repeat' first
    | assumption | apply State.bump_keeps | apply State.emit_keeps | apply State.putI_keeps | apply State.put_keeps
    | apply State.raise_keeps | apply State.refreshQual_keeps | apply State.stepTime_keeps | apply keeps_ite
    | refine keeps_mk ?_ rfl rfl rfl rfl rfl | extract_lets

theorem State.timeHold_keeps {s₀ s : State} (h : Keeps s₀ s)  : Keeps s₀ (State.timeHold s) := by
  unfold State.timeHold
  with_reducible repeat' first
    | assumption | (intro _) | apply State.putI_keeps | apply State.put_keeps | apply State.raise_keeps
    | apply State.refreshQual_keeps | apply keeps_ite | apply keeps_when | refine keeps_mk ?_ rfl rfl rfl rfl rfl
    | extract_lets

theorem State.upstreamLost_keeps {s₀ s : State} (h : Keeps s₀ s) (k : Nat) : Keeps s₀ (State.upstreamLost s k) := by
  unfold State.upstreamLost
  with_reducible repeat' first
    | assumption | apply State.emit_keeps | apply State.put_keeps | apply State.raise_keeps | apply State.timeHold_keeps
    | apply keeps_ite | refine keeps_mk ?_ rfl rfl rfl rfl rfl | extract_lets

theorem State.forwardSync_keeps {s₀ s : State} (h : Keeps s₀ s) (k : Nat) (m : Ptp) (tin : Nat) (touts : List (Nat × Nat)) : Keeps s₀ (State.forwardSync s k m tin touts) := by
  unfold State.forwardSync
  with_reducible repeat' first
    | assumption | (intro _) | apply State.sendPtp_keeps | apply keeps_forAll | split
    | refine keeps_mk ?_ rfl rfl rfl rfl rfl

theorem State.consumeSync_keeps {s₀ s : State} (h : Keeps s₀ s) (k : Nat) (m : Ptp) (tin : Nat) : Keeps s₀ (State.consumeSync s k m tin) := by
  unfold State.consumeSync
  with_reducible repeat' first
    | assumption | apply State.bump_keeps | apply State.drop_keeps | apply State.putI_keeps | apply State.servo_keeps
    | refine keeps_mk ?_ rfl rfl rfl rfl rfl | extract_lets

theorem State.acceptSync_keeps {s₀ s : State} (h : Keeps s₀ s) (k : Nat) (p : Pkt) (tin : Nat) (touts : List (Nat × Nat)) : Keeps s₀ (State.acceptSync s k p tin touts) := by
  unfold State.acceptSync
  with_reducible repeat' first
    | assumption | apply State.consumeSync_keeps | apply State.dropPtp_keeps | apply State.forwardSync_keeps
    | apply keeps_ite | extract_lets

theorem State.takeSync_keeps {s₀ s : State} (h : Keeps s₀ s) (k : Nat) (p : Pkt) (tin : Nat) (touts : List (Nat × Nat)) : Keeps s₀ (State.takeSync s k p tin touts) := by
  unfold State.takeSync
  with_reducible repeat' first
    | assumption | apply State.acceptSync_keeps | apply State.takeTe_keeps | split | refine keeps_mk ?_ rfl rfl rfl rfl rfl

theorem State.calMeasure_keeps {s₀ s : State} (h : Keeps s₀ s) (k : Nat) (m : Ptp) (tin : Nat) : Keeps s₀ (State.calMeasure s k m tin) := by
  unfold State.calMeasure
  with_reducible repeat' first
    | assumption | (intro _) | apply keeps_ite | refine keeps_mk ?_ rfl rfl rfl rfl rfl

theorem State.acceptReq_keeps {s₀ s : State} (h : Keeps s₀ s) (k : Nat) (p : Pkt) (tin tout : Nat) : Keeps s₀ (State.acceptReq s k p tin tout) := by
  unfold State.acceptReq
  with_reducible repeat' first
    | assumption | (intro _) | apply State.calMeasure_keeps | apply State.dropPtp_keeps | apply State.put_keeps
    | apply State.sendPtp_keeps | apply keeps_ite | refine keeps_mk ?_ rfl rfl rfl rfl rfl | extract_lets

theorem execDelayReq_keeps {s : State} (k : Nat) (p : Pkt) (tin tout : Nat) : KeepsO s (execDelayReq k p tin tout s) := by
  have h := Keeps.refl s
  unfold execDelayReq
  with_reducible repeat' first
    | assumption | apply State.acceptReq_keeps | apply State.takeTe_keeps | apply keepsO_ok | apply keepsO_ite | split
    | refine keeps_mk ?_ rfl rfl rfl rfl rfl

theorem State.consumeResp_keeps {s₀ s : State} (h : Keeps s₀ s) (m : Ptp) : Keeps s₀ (State.consumeResp s m) := by
  unfold State.consumeResp
  with_reducible repeat' first
    | assumption | (intro _) | apply State.putI_keeps | apply keeps_ite | split | refine keeps_mk ?_ rfl rfl rfl rfl rfl
    | extract_lets

theorem State.acceptResp_keeps {s₀ s : State} (h : Keeps s₀ s) (k : Nat) (p : Pkt) : Keeps s₀ (State.acceptResp s k p) := by
  unfold State.acceptResp
  with_reducible repeat' first
    | assumption | (intro _) | apply State.consumeResp_keeps | apply State.dropPtp_keeps | apply State.sendPtp_keeps
    | apply keeps_ite | refine keeps_mk ?_ rfl rfl rfl rfl rfl | extract_lets

theorem execDelayResp_keeps {s : State} (k : Nat) (p : Pkt) : KeepsO s (execDelayResp k p s) := by
  have h := Keeps.refl s
  unfold execDelayResp
  with_reducible repeat' first
    | assumption | apply State.acceptResp_keeps | apply State.takeTe_keeps | apply keepsO_ok | apply keepsO_ite | split
    | refine keeps_mk ?_ rfl rfl rfl rfl rfl

theorem execSyncOriginate_keeps {s : State} (touts : List (Nat × Nat)) : KeepsO s (execSyncOriginate touts s) := by
  have h := Keeps.refl s
  unfold execSyncOriginate
  with_reducible repeat' first
    | assumption | (intro _) | apply State.pace_keeps | apply State.sendPtp_keeps | apply keepsO_ok | apply keepsO_ite
    | apply keeps_ite | apply keeps_forAll | split | refine keeps_mk ?_ rfl rfl rfl rfl rfl | extract_lets

theorem State.sendReq_keeps {s₀ s : State} (h : Keeps s₀ s) (k ts : Nat) : Keeps s₀ (State.sendReq s k ts) := by
  unfold State.sendReq
  with_reducible repeat' first
    | assumption | apply State.sendPtp_keeps

theorem execDelayReqOriginate_keeps {s : State} (touts : List (Nat × Nat)) : KeepsO s (execDelayReqOriginate touts s) := by
  have h := Keeps.refl s
  unfold execDelayReqOriginate
  with_reducible repeat' first
    | assumption | (intro _) | apply State.pace_keeps | apply State.sendReq_keeps | apply keepsO_ok | apply keepsO_ite
    | apply keeps_ite | apply keeps_forAll | split | refine keeps_mk ?_ rfl rfl rfl rfl rfl | extract_lets

theorem execSyncTimeout_keeps {s : State}  : KeepsO s (execSyncTimeout s) := by
  have h := Keeps.refl s
  unfold execSyncTimeout
  with_reducible repeat' first
    | assumption | apply State.advance_keeps | apply State.timeHold_keeps | apply keepsO_ok | apply keepsO_ite
    | apply keeps_ite

theorem State.doAsymCal_keeps {s₀ s : State} (h : Keeps s₀ s) (c : CmdHdr) (k n : Nat) : Keeps s₀ (State.doAsymCal s c k n) := by
  unfold State.doAsymCal
  with_reducible repeat' first
    | assumption | (intro _) | apply State.complete_keeps | apply State.inMode_keeps | apply State.run_keeps
    | apply keeps_ite | refine keeps_mk ?_ rfl rfl rfl rfl rfl

theorem execAsymCal_keeps {s : State} (c : CmdHdr) (chain n : Nat) : KeepsO s (execAsymCal c chain n s) := by
  have h := Keeps.refl s
  unfold execAsymCal
  with_reducible repeat' first
    | assumption | apply State.doAsymCal_keeps | apply keepsO_ok | apply keepsO_ite

theorem execCalDone_keeps {s : State} (k : Nat) (sumOut : Int) (nOut : Nat) : KeepsO s (execCalDone k sumOut nOut s) := by
  have h := Keeps.refl s
  unfold execCalDone
  with_reducible repeat' first
    | assumption | (intro _) | apply State.emit_keeps | apply State.finish_keeps | apply State.putI_keeps
    | apply State.put_keeps | apply State.raise_keeps | apply keepsO_ok | apply keepsO_ite | split
    | refine keeps_mk ?_ rfl rfl rfl rfl rfl | extract_lets

theorem State.doSetTime_keeps {s₀ s : State} (h : Keeps s₀ s) (c : CmdHdr) (sec pps : Nat) : Keeps s₀ (State.doSetTime s c sec pps) := by
  unfold State.doSetTime
  with_reducible repeat' first
    | assumption | (intro _) | apply State.applySetTime_keeps | apply State.complete_keeps | apply State.inMode_keeps
    | apply keeps_ite | refine keeps_mk ?_ rfl rfl rfl rfl rfl

/-! ### IngestState -/

theorem State.setIng_keeps {s₀ s : State} (h : Keeps s₀ s) (d : Nat) (v : IngSt) : Keeps s₀ (State.setIng s d v) := by
  unfold State.setIng
  with_reducible repeat' first
    | assumption | (intro _) | apply State.put_keeps | refine keeps_mk ?_ rfl rfl rfl rfl rfl

theorem State.setLaneSt_keeps {s₀ s : State} (h : Keeps s₀ s) (d n : Nat) (v : LaneSt) : Keeps s₀ (State.setLaneSt s d n v) := by
  unfold State.setLaneSt
  with_reducible repeat' first
    | assumption | (intro _) | apply State.put_keeps | apply State.setIng_keeps | refine keeps_mk ?_ rfl rfl rfl rfl rfl

theorem State.setLinkSt_keeps {s₀ s : State} (h : Keeps s₀ s) (d j : Nat) (v : LinkSt) : Keeps s₀ (State.setLinkSt s d j v) := by
  unfold State.setLinkSt
  with_reducible repeat' first
    | assumption | (intro _) | apply State.put_keeps | apply State.setIng_keeps | refine keeps_mk ?_ rfl rfl rfl rfl rfl

theorem State.setLane_keeps {s₀ s : State} (h : Keeps s₀ s) (d n st : Nat) : Keeps s₀ (State.setLane s d n st) := by
  unfold State.setLane
  with_reducible repeat' first
    | assumption | apply State.putBit_keeps | apply State.put_keeps

theorem State.drawList_keeps {s₀ s : State} (h : Keeps s₀ s) (w n : Nat) : Keeps s₀ (State.drawList s w n).2 := by
  induction n generalizing s with
  | zero => exact h
  | succ n ih => exact ih (State.draw_keeps h w)

theorem State.enterAcq_keeps {s₀ s : State} (h : Keeps s₀ s) (d n : Nat) : Keeps s₀ (State.enterAcq s d n) := by
  unfold State.enterAcq
  with_reducible repeat' first
    | assumption | apply State.drawList_keeps | apply State.putFree_keeps | apply State.put_keeps | apply State.setLane_keeps
    | apply State.setTimer_keeps | apply keeps_ite | extract_lets

theorem State.setLink_keeps {s₀ s : State} (h : Keeps s₀ s) (d j st : Nat) : Keeps s₀ (State.setLink s d j st) := by
  unfold State.setLink
  with_reducible repeat' first
    | assumption | apply State.putBit_keeps | apply State.put_keeps | apply State.setLinkSt_keeps | apply keeps_ite
    | refine keeps_mk ?_ rfl rfl rfl rfl rfl | extract_lets

theorem State.toSync_keeps {s₀ s : State} (h : Keeps s₀ s) (d j : Nat) : Keeps s₀ (State.toSync s d j) := by
  unfold State.toSync
  with_reducible repeat' first
    | assumption | apply State.draw_keeps | apply State.setLinkSt_keeps | apply State.setLink_keeps | apply keeps_ite
    | refine keeps_mk ?_ rfl rfl rfl rfl rfl | extract_lets

theorem State.reinit_keeps {s₀ s : State} (h : Keeps s₀ s) (d j : Nat) : Keeps s₀ (State.reinit s d j) := by
  unfold State.reinit
  with_reducible repeat' first
    | assumption | apply State.bump_keeps | apply State.raise_keeps | apply State.toSync_keeps | apply keeps_ite

theorem State.ingestStart_keeps {s₀ s : State} (h : Keeps s₀ s) (d : Nat) (bad : List Nat) : Keeps s₀ (State.ingestStart s d bad) := by
  unfold State.ingestStart
  with_reducible repeat' first
    | assumption | (intro _) | apply State.enterAcq_keeps | apply State.put_keeps | apply State.toSync_keeps
    | apply keeps_ite | apply keeps_forAll | extract_lets

theorem State.ingestStop_keeps {s₀ s : State} (h : Keeps s₀ s) (d : Nat) : Keeps s₀ (State.ingestStop s d) := by
  unfold State.ingestStop
  with_reducible repeat' first
    | assumption | (intro _) | apply State.put_keeps | apply State.setLane_keeps | apply State.setLinkSt_keeps
    | apply State.setLink_keeps | apply keeps_ite | apply keeps_forAll | refine keeps_mk ?_ rfl rfl rfl rfl rfl
    | extract_lets

theorem State.ingestStopAll_keeps {s₀ s : State} (h : Keeps s₀ s)  : Keeps s₀ (State.ingestStopAll s) := by
  unfold State.ingestStopAll
  with_reducible repeat' first
    | assumption | (intro _) | apply State.ingestStop_keeps | apply keeps_forAll

/-! ### Faults -/

theorem State.beginFault_keeps {s₀ s : State} (h : Keeps s₀ s) (u : UnitId) (code : Nat) : Keeps s₀ (State.beginFault s u code) := by
  unfold State.beginFault
  with_reducible repeat' first
    | assumption | (intro _) | apply State.emit_keeps | apply State.request_keeps | apply keeps_ite
    | refine keeps_mk ?_ rfl rfl rfl rfl rfl | extract_lets

theorem State.recoverFault_keeps {s₀ s : State} (h : Keeps s₀ s) (u : UnitId) : Keeps s₀ (State.recoverFault s u) := by
  unfold State.recoverFault
  with_reducible repeat' first
    | assumption | (intro _) | apply State.emit_keeps | apply State.unrequest_keeps | apply keeps_ite | split
    | refine keeps_mk ?_ rfl rfl rfl rfl rfl | extract_lets

theorem State.deaccUnit_keeps {s₀ s : State} (h : Keeps s₀ s) (u : UnitId) (code a b serial : Nat) : Keeps s₀ (State.deaccUnit s u code a b serial) := by
  unfold State.deaccUnit
  with_reducible repeat' first
    | assumption | (intro _) | apply State.appendFault_keeps | apply State.emit_keeps | apply State.raise_keeps
    | apply State.setUnitState_keeps | apply keeps_ite | apply keeps_when | refine keeps_mk ?_ rfl rfl rfl rfl rfl
    | extract_lets

theorem State.railDown_keeps {s₀ s : State} (h : Keeps s₀ s) (x : Nat) : Keeps s₀ (State.railDown s x) := by
  unfold State.railDown
  with_reducible repeat' first
    | assumption | apply State.emitOut_keeps | apply State.put_keeps

theorem State.railsDormant_keeps {s₀ s : State} (h : Keeps s₀ s)  : Keeps s₀ (State.railsDormant s) := by
  unfold State.railsDormant
  with_reducible repeat' first
    | assumption | (intro _) | apply State.railDown_keeps | apply keeps_forAll

theorem State.recordDormant_keeps {s₀ s : State} (h : Keeps s₀ s) (cause : Nat) : Keeps s₀ (State.recordDormant s cause) := by
  unfold State.recordDormant
  with_reducible repeat' first
    | assumption | apply State.put_keeps

theorem State.dropLive_keeps {s₀ s : State} (h : Keeps s₀ s)  : Keeps s₀ (State.dropLive s) := by
  unfold State.dropLive
  with_reducible repeat' first
    | assumption | refine keeps_mk ?_ rfl rfl rfl rfl rfl

theorem State.refsOff_keeps {s₀ s : State} (h : Keeps s₀ s)  : Keeps s₀ (State.refsOff s) := by
  unfold State.refsOff
  with_reducible repeat' first
    | assumption | (intro _) | apply State.put_keeps | apply State.setRef_keeps | apply keeps_forAll

theorem State.loseDram_keeps {s₀ s : State} (h : Keeps s₀ s) : Keeps s₀ (State.loseDram s) :=
  h.trans ⟨(Keeps.refl s).1, fun hi => ⟨⟨hi.1.1, rfl, hi.1.2.2.1, hi.1.2.2.2.1, rfl⟩, hi.2⟩⟩

theorem State.enterDormant_keeps {s₀ s : State} (h : Keeps s₀ s) (cause : Nat) : Keeps s₀ (State.enterDormant s cause) := by
  unfold State.enterDormant
  with_reducible repeat' first
    | assumption | (intro _) | apply State.chainsOff_keeps | apply State.dropLive_keeps | apply State.emitOut_keeps
    | apply State.ingestStopAll_keeps | apply State.loseDram_keeps | apply State.portsDown_keeps | apply State.put_keeps
    | apply State.railsDormant_keeps | apply State.recordDormant_keeps | apply State.refsOff_keeps
    | apply State.setMode_keeps | apply keeps_ite | apply keeps_when | extract_lets

theorem State.fatal_keeps {s₀ s : State} (h : Keeps s₀ s) (cause : Nat) : Keeps s₀ (State.fatal s cause) := by
  unfold State.fatal
  with_reducible repeat' first
    | assumption | apply State.alert_keeps | apply State.enterDormant_keeps

/-! ### Ingest -/

theorem State.deaccLink_keeps {s₀ s : State} (h : Keeps s₀ s) (d j : Nat) : Keeps s₀ (State.deaccLink s d j) := by
  unfold State.deaccLink
  with_reducible repeat' first
    | assumption | (intro _) | apply State.putBit_keeps | apply State.raise_keeps | apply State.setIng_keeps
    | apply State.setLink_keeps | refine keeps_mk ?_ rfl rfl rfl rfl rfl | extract_lets

theorem State.deaccLane_keeps {s₀ s : State} (h : Keeps s₀ s) (d n bucket : Nat) : Keeps s₀ (State.deaccLane s d n bucket) := by
  unfold State.deaccLane
  with_reducible repeat' first
    | assumption | apply State.beginFault_keeps | apply State.deaccLink_keeps | apply State.deaccUnit_keeps
    | apply State.putBit_keeps | apply State.setLane_keeps | apply keeps_ite | extract_lets

theorem State.charBucket_keeps {s₀ s : State} (h : Keeps s₀ s) (d n : Nat) : Keeps s₀ (State.charBucket s d n) := by
  unfold State.charBucket
  with_reducible repeat' first
    | assumption | apply State.charge_keeps | apply State.deaccLane_keeps | apply keeps_ite | extract_lets

theorem State.realBucket_keeps {s₀ s : State} (h : Keeps s₀ s) (d n : Nat) : Keeps s₀ (State.realBucket s d n) := by
  unfold State.realBucket
  with_reducible repeat' first
    | assumption | apply State.charge_keeps | apply State.deaccLane_keeps | apply keeps_ite | extract_lets

theorem execCdrLock_keeps {s : State} (d n : Nat) (pll : Bool) : KeepsO s (execCdrLock d n pll s) := by
  have h := Keeps.refl s
  unfold execCdrLock
  with_reducible repeat' first
    | assumption | apply State.put_keeps | apply State.setLane_keeps | apply keepsO_ok | apply keepsO_ite | apply keeps_ite

theorem execCgsAchieved_keeps {s : State} (d n : Nat) : KeepsO s (execCgsAchieved d n s) := by
  have h := Keeps.refl s
  unfold execCgsAchieved
  with_reducible repeat' first
    | assumption | apply State.setLane_keeps | apply keepsO_ok | apply keepsO_ite | apply keeps_ite

theorem execCgsLoss_keeps {s : State} (d n : Nat) (cdr : Bool) : KeepsO s (execCgsLoss d n cdr s) := by
  have h := Keeps.refl s
  unfold execCgsLoss
  with_reducible repeat' first
    | assumption | apply State.bump_keeps | apply State.enterAcq_keeps | apply State.realBucket_keeps
    | apply State.reinit_keeps | apply State.setLaneSt_keeps | apply State.setLane_keeps | apply keepsO_ok | apply keepsO_ite
    | apply keeps_ite | refine keeps_mk ?_ rfl rfl rfl rfl rfl | extract_lets

theorem State.lineWrite_keeps {s₀ s : State} (h : Keeps s₀ s) (d n x val : Nat) (flag : Bool) : Keeps s₀ (State.lineWrite s d n x val flag) := by
  unfold State.lineWrite
  with_reducible repeat' first
    | assumption | apply State.wr_keeps | apply keeps_ite | extract_lets

theorem State.lineFlag_keeps {s₀ s : State} (h : Keeps s₀ s) (d j a b : Nat) : Keeps s₀ (State.lineFlag s d j a b) := by
  unfold State.lineFlag
  with_reducible repeat' first
    | assumption | (intro _) | apply State.lineWrite_keeps | apply State.setLinkSt_keeps | apply keeps_ite
    | apply keeps_forAll | refine keeps_mk ?_ rfl rfl rfl rfl rfl | extract_lets

theorem State.flagFrame_keeps {s₀ s : State} (h : Keeps s₀ s) (d j f : Nat) : Keeps s₀ (State.flagFrame s d j f) := by
  unfold State.flagFrame
  with_reducible repeat' first
    | assumption | apply State.bump_keeps | apply State.lineFlag_keeps | apply State.setLinkSt_keeps | apply keeps_ite
    | refine keeps_mk ?_ rfl rfl rfl rfl rfl | extract_lets

theorem execCharacterError_keeps {s : State} (d n ch g : Nat) (pos : Bool) : KeepsO s (execCharacterError d n ch g s pos) := by
  have h := Keeps.refl s
  unfold execCharacterError
  refine keepsO_ite ?_ (keepsO_ok h)
  extract_lets j l k
  clear_value k
  split
  · exact keepsO_ok h
  · extract_lets s1 s2 s3
    have h2 : Keeps s s2 := State.setLaneSt_keeps (State.raise_keeps (State.bump_keeps h _) _) _ _ _
    have h3 : Keeps s s3 := by
      simp only [s3]
      split
      · exact h2
      · exact State.flagFrame_keeps (keeps_ite h2 (State.flagFrame_keeps h2 _ _ _)) _ _ _
    exact keepsO_ok (State.charBucket_keeps h3 _ _)

theorem execMisplacedAlignment_keeps {s : State} (d n : Nat) (isA : Bool) (pos : Nat) (since : Bool) : KeepsO s (execMisplacedAlignment d n isA pos since s) := by
  have h := Keeps.refl s
  unfold execMisplacedAlignment
  with_reducible repeat' first
    | assumption | apply State.bump_keeps | apply State.reinit_keeps | apply State.run_keeps | apply State.setLaneSt_keeps
    | apply keepsO_ok | apply keepsO_ite | apply keeps_ite | refine keeps_mk ?_ rfl rfl rfl rfl rfl | extract_lets

theorem execIlasStart_keeps {s : State} (d j : Nat) : KeepsO s (execIlasStart d j s) := by
  have h := Keeps.refl s
  unfold execIlasStart
  with_reducible repeat' first
    | assumption | (intro _) | apply State.advance_keeps | apply State.setLink_keeps | apply keepsO_ok | apply keepsO_ite
    | apply keeps_ite | extract_lets

theorem State.ilasFail_keeps {s₀ s : State} (h : Keeps s₀ s) (d j fld : Nat) : Keeps s₀ (State.ilasFail s d j fld) := by
  unfold State.ilasFail
  with_reducible repeat' first
    | assumption | (intro _) | apply State.bump_keeps | apply State.emit_keeps | apply State.put_keeps
    | apply State.raise_keeps | apply State.realBucket_keeps | apply State.setLinkSt_keeps | apply State.setLink_keeps
    | apply keeps_forAll | refine keeps_mk ?_ rfl rfl rfl rfl rfl | extract_lets

theorem State.linkData_keeps {s₀ s : State} (h : Keeps s₀ s) (d j : Nat) (ls : List IlasLane) (firsts : List Nat) :
    Keeps s₀ (State.linkData s d j ls firsts) := by
  unfold State.linkData
  with_reducible repeat' first
    | assumption | (intro _) | apply State.emit_keeps | apply State.put_keeps | apply State.setLaneSt_keeps
    | apply State.setLinkSt_keeps | apply State.setLink_keeps | apply keeps_forAll | apply keeps_foldl
    | refine keeps_mk ?_ rfl rfl rfl rfl rfl | extract_lets

theorem execIlasComplete_keeps {s : State} (d j : Nat) (lanes : List IlasLane) (firsts : List Nat) (t : Nat) :
    KeepsO s (execIlasComplete d j lanes firsts t s) := by
  have h := Keeps.refl s
  unfold execIlasComplete
  with_reducible repeat' first
    | assumption | (intro _) | apply State.advance_keeps | apply State.drop_keeps | apply State.ilasFail_keeps
    | apply State.linkData_keeps | apply State.put_keeps | apply keepsO_ok | apply keepsO_ite | apply keeps_ite
    | apply keeps_forAll | apply keeps_foldl | split | refine keeps_mk ?_ rfl rfl rfl rfl rfl | extract_lets

theorem execIlasRetry_keeps {s : State} (d j : Nat) : KeepsO s (execIlasRetry d j s) := by
  have h := Keeps.refl s
  unfold execIlasRetry
  with_reducible repeat' first
    | assumption | apply State.advance_keeps | apply State.toSync_keeps | apply keepsO_ok | apply keepsO_ite
    | apply keeps_ite

theorem execLinkWait_keeps {s : State} (d j : Nat) : KeepsO s (execLinkWait d j s) := by
  have h := Keeps.refl s
  unfold execLinkWait
  with_reducible repeat' first
    | assumption | apply State.advance_keeps | apply State.deaccLink_keeps | apply State.emit_keeps | apply State.raise_keeps
    | apply keepsO_ok | apply keepsO_ite | apply keeps_ite | extract_lets

theorem State.laneTake_keeps {s₀ s : State} (h : Keeps s₀ s) (d j n : Nat) (gs : List Nat) : Keeps s₀ (State.laneTake s d j n gs).2 :=
  State.setLaneSt_keeps h _ _ _

theorem State.lanesTake_keeps {s₀ s : State} (h : Keeps s₀ s) (d j : Nat) (l : List (Nat × List Nat)) :
    Keeps s₀ (State.lanesTake s d j l).2 := by
  induction l generalizing s with
  | nil => exact h
  | cons x l ih => exact ih (State.laneTake_keeps h _ _ _ _)

theorem State.releaseData_keeps {s₀ s : State} (h : Keeps s₀ s) (d j : Nat) (groups : List (List Nat)) : Keeps s₀ (State.releaseData s d j groups) := by
  unfold State.releaseData
  with_reducible repeat' first
    | assumption | (intro _) | apply State.advance_keeps | apply State.lanesTake_keeps | apply State.lineFlag_keeps
    | apply State.lineWrite_keeps | apply State.pm_keeps | apply State.setLinkSt_keeps | apply keeps_ite | apply keeps_forAll
    | refine keeps_mk ?_ rfl rfl rfl rfl rfl | extract_lets

theorem State.releaseFlagged_keeps {s₀ s : State} (h : Keeps s₀ s) (d j : Nat) : Keeps s₀ (State.releaseFlagged s d j) := by
  unfold State.releaseFlagged
  with_reducible repeat' first
    | assumption | (intro _) | apply State.advance_keeps | apply State.lineFlag_keeps | apply State.pm_keeps
    | apply State.setLinkSt_keeps | apply keeps_ite | refine keeps_mk ?_ rfl rfl rfl rfl rfl | extract_lets

theorem execFrameRelease_keeps {s : State} (d j : Nat) (q0 q1 q2 q3 : List (List Nat)) :
    KeepsO s (execFrameRelease d j q0 q1 q2 q3 s) := by
  have h := Keeps.refl s
  unfold execFrameRelease
  with_reducible repeat' first
    | assumption | (intro _) | apply State.releaseData_keeps | apply State.releaseFlagged_keeps | apply keepsO_ok
    | apply keepsO_ite | apply keeps_ite

/-! ### Formats -/


/-! ### Acu -/

theorem State.showAcu_keeps {s₀ s : State} (h : Keeps s₀ s) (d : Nat) : Keeps s₀ (State.showAcu s d) := by
  unfold State.showAcu
  with_reducible repeat' first
    | assumption | (intro _) | apply State.put_keeps | split | refine keeps_mk ?_ rfl rfl rfl rfl rfl | extract_lets

theorem State.modRec_keeps {s₀ s : State} (h : Keeps s₀ s) (k d : Nat) (f : RecSt → RecSt) : Keeps s₀ (State.modRec s k d f) := by
  unfold State.modRec
  with_reducible repeat' first
    | assumption | (intro _) | apply keeps_ite | refine keeps_mk ?_ rfl rfl rfl rfl rfl | extract_lets

theorem State.modCons_keeps {s₀ s : State} (h : Keeps s₀ s) (k : Nat) (f : Cons → Cons) : Keeps s₀ (State.modCons s k f) := by
  unfold State.modCons
  with_reducible repeat' first
    | assumption | (intro _) | apply keeps_ite | refine keeps_mk ?_ rfl rfl rfl rfl rfl

theorem State.failRec_keeps {s₀ s : State} (h : Keeps s₀ s) (k d code : Nat) : Keeps s₀ (State.failRec s k d code) := by
  unfold State.failRec
  with_reducible repeat' first
    | assumption | (intro _) | apply State.modRec_keeps | refine keeps_mk ?_ rfl rfl rfl rfl rfl

theorem State.failFolio_keeps {s₀ s : State} (h : Keeps s₀ s) (k d i code : Nat) : Keeps s₀ (State.failFolio s k d i code) := by
  unfold State.failFolio
  with_reducible repeat' first
    | assumption | (intro _) | apply State.modRec_keeps | apply State.pmU_keeps | apply keeps_ite
    | refine keeps_mk ?_ rfl rfl rfl rfl rfl | extract_lets

theorem State.checkPassed_keeps {s₀ s : State} (h : Keeps s₀ s) (k : Nat) : Keeps s₀ (State.checkPassed s k) := by
  unfold State.checkPassed
  with_reducible repeat' first
    | assumption | (intro _) | apply State.modCons_keeps | apply keeps_ite | refine keeps_mk ?_ rfl rfl rfl rfl rfl

theorem execSettling_keeps {s : State} (k : Nat) : KeepsO s (execSettling k s) := by
  have h := Keeps.refl s
  unfold execSettling
  with_reducible repeat' first
    | assumption | (intro _) | apply State.checkPassed_keeps | apply State.modCons_keeps | apply keepsO_ok | apply keepsO_ite
    | apply keeps_ite | refine keeps_mk ?_ rfl rfl rfl rfl rfl

theorem State.panicOn_keeps {s₀ s : State} (h : Keeps s₀ s) (d : Nat) : Keeps s₀ (State.panicOn s d) := by
  unfold State.panicOn
  with_reducible repeat' first
    | assumption | apply State.bump_keeps | apply State.put_keeps | apply State.raise_keeps | apply State.setAcu_keeps
    | apply keeps_ite | refine keeps_mk ?_ rfl rfl rfl rfl rfl | extract_lets

theorem State.portWord_keeps {s₀ s : State} (h : Keeps s₀ s) (k d i addr : Nat) (w : Word) : Keeps s₀ (State.portWord s k d i addr w) := by
  unfold State.portWord
  with_reducible repeat' first
    | assumption | (intro _) | apply State.bump_keeps | apply State.emit_keeps | apply State.failFolio_keeps
    | apply State.modRec_keeps | apply State.panicOn_keeps | apply State.put_keeps | apply State.raise_keeps
    | apply State.setAcu_keeps | apply keeps_ite | split | refine keeps_mk ?_ rfl rfl rfl rfl rfl | extract_lets

theorem State.journalWord_keeps {s₀ s : State} (h : Keeps s₀ s) (k d i addr : Nat) (w : Word) : Keeps s₀ (State.journalWord s k d i addr w) := by
  unfold State.journalWord
  with_reducible repeat' first
    | assumption | (intro _) | apply State.modRec_keeps | apply State.portWord_keeps | apply keeps_ite
    | refine keeps_mk ?_ rfl rfl rfl rfl rfl

theorem State.acceptSample_keeps {s₀ s : State} (h : Keeps s₀ s) (d i m : Nat) (x : Samp) (dirty : Bool) : Keeps s₀ (State.acceptSample s d i m x dirty) := by
  unfold State.acceptSample
  with_reducible repeat' first
    | assumption | (intro _) | apply State.failFolio_keeps | apply State.journalWord_keeps | apply State.modRec_keeps
    | apply State.put_keeps | apply State.setAcu_keeps | apply keeps_ite | split | refine keeps_mk ?_ rfl rfl rfl rfl rfl
    | extract_lets

theorem State.drainJournal_keeps {s₀ s : State} (h : Keeps s₀ s) (d n : Nat) : Keeps s₀ (State.drainJournal s d n) := by
  unfold State.drainJournal
  with_reducible repeat' first
    | assumption | (intro _) | apply State.drop_keeps | apply State.issueRefreshes_keeps | apply State.put_keeps
    | apply State.setAcu_keeps | apply State.wrMem_keeps | apply keeps_ite | apply keeps_forAll | apply keeps_foldl
    | refine keeps_mk ?_ rfl rfl rfl rfl rfl | extract_lets

theorem execJournalWrite_keeps {s : State} (d : Nat) : KeepsO s (execJournalWrite d s) := by
  have h := Keeps.refl s
  unfold execJournalWrite
  with_reducible repeat' first
    | assumption | apply State.drainJournal_keeps | apply keepsO_ok | apply keepsO_ite

theorem execFolioReadBack_keeps {s : State} (d i k : Nat) (mir : Bool) (outc : Nat) (data : List Word) : KeepsO s (execFolioReadBack d i k mir outc data s) := by
  have h := Keeps.refl s
  unfold execFolioReadBack
  with_reducible repeat' first
    | assumption | (intro _) | apply State.bump_keeps | apply State.checkPassed_keeps | apply State.failFolio_keeps
    | apply State.modRec_keeps | apply State.pmU_keeps | apply State.raise_keeps | apply State.uncorr_keeps | apply keepsO_ok
    | apply keepsO_ite | apply keeps_ite | apply keeps_when | split | refine keeps_mk ?_ rfl rfl rfl rfl rfl | extract_lets

theorem execAccWindowExpiry_keeps {s : State} (k : Nat) : KeepsO s (execAccWindowExpiry k s) := by
  have h := Keeps.refl s
  unfold execAccWindowExpiry
  with_reducible repeat' first
    | assumption | (intro _) | apply State.advance_keeps | apply State.failRec_keeps | apply keepsO_ok | apply keepsO_ite
    | apply keeps_forAll | apply keeps_foldl | split | refine keeps_mk ?_ rfl rfl rfl rfl rfl | extract_lets

theorem State.writeDir_keeps {s₀ s : State} (h : Keeps s₀ s) (d : Nat) (r : JRec) : Keeps s₀ (State.writeDir s d r) := by
  unfold State.writeDir
  with_reducible repeat' first
    | assumption | (intro _) | apply State.setAcu_keeps | apply State.wrMems_keeps | apply State.wr_keeps
    | refine keeps_mk ?_ rfl rfl rfl rfl rfl | extract_lets

theorem State.truncVit_keeps {s₀ s : State} (h : Keeps s₀ s) (d v last : Nat) : Keeps s₀ (State.truncVit s d v last) := by
  unfold State.truncVit
  with_reducible repeat' first
    | assumption | (intro _) | apply State.put_keeps | apply State.raise_keeps | apply State.setAcu_keeps
    | apply State.showAcu_keeps | apply keeps_ite | refine keeps_mk ?_ rfl rfl rfl rfl rfl | extract_lets

theorem State.limitVit_keeps {s₀ s : State} (h : Keeps s₀ s) (d v : Nat) : Keeps s₀ (State.limitVit s d v) := by
  unfold State.limitVit
  with_reducible repeat' first
    | assumption | (intro _) | apply State.drop_keeps | apply State.showAcu_keeps | apply State.truncVit_keeps | split
    | refine keeps_mk ?_ rfl rfl rfl rfl rfl | extract_lets

theorem State.decide1_keeps {s₀ s : State} (h : Keeps s₀ s) (c : Cons) (state reason seq : Nat) : Keeps s₀ (State.decide1 s c state reason seq) := by
  unfold State.decide1
  with_reducible repeat' first
    | assumption | (intro _) | apply State.bump_keeps | apply State.limitVit_keeps | apply State.put_keeps
    | apply State.raise_keeps | apply State.setMarkOf_keeps | apply State.showAcu_keeps | apply State.writeDir_keeps
    | apply keeps_ite | apply keeps_forAll | refine keeps_mk ?_ rfl rfl rfl rfl rfl | extract_lets

theorem execCanNumbering_keeps {s : State}  : KeepsO s (execCanNumbering s) := by
  have h := Keeps.refl s
  unfold execCanNumbering
  with_reducible repeat' first
    | assumption | (intro _) | apply State.decide1_keeps | apply State.emit_keeps | apply State.raise_keeps | apply keepsO_ok
    | apply keepsO_ite | apply keeps_ite | apply keeps_forAll | split | refine keeps_mk ?_ rfl rfl rfl rfl rfl | extract_lets

theorem State.openVitOn_keeps {s₀ s : State} (h : Keeps s₀ s) (d : Nat) (f l : Int) (src num : Nat) (sl : List Nat) : Keeps s₀ (State.openVitOn s d f l src num sl) := by
  unfold State.openVitOn
  with_reducible repeat' first
    | assumption | (intro _) | apply State.limitVit_keeps | apply State.put_keeps | apply State.raise_keeps
    | apply State.setAcu_keeps | apply keeps_ite | apply keeps_when | split | refine keeps_mk ?_ rfl rfl rfl rfl rfl
    | extract_lets

theorem State.trigger_keeps {s₀ s : State} (h : Keeps s₀ s) (t src : Nat) (f l : Int)
    (first count : Nat) : Keeps s₀ (State.trigger s t src f l first count).1 := by
  unfold State.trigger
  extract_lets ds hit num1 num2 a s1
  split
  · exact keeps_forAll h _ fun s e hs => State.limitVit_keeps (State.bump_keeps (State.put_keeps hs _ _) _) _ _
  · split
    · exact State.emit_keeps (keeps_forAll h _ fun s d hs => State.raise_keeps hs _) _ _ _ _ _ _
    · exact keeps_forAll (keeps_mk h rfl rfl rfl rfl rfl) _ fun s d hs => State.openVitOn_keeps hs _ _ _ _ _ _

theorem State.cmdVit_keeps {s₀ s : State} (h : Keeps s₀ s) (x : VitCmd) : Keeps s₀ (State.cmdVit s x) := by
  unfold State.cmdVit
  extract_lets w
  have hk := State.trigger_keeps h x.t 1 w.1 w.2 x.first x.count
  split <;> (rename_i heq; rw [heq] at hk; exact State.complete_keeps hk _ _ _)

theorem State.serveVits_keeps {s₀ s : State} (h : Keeps s₀ s) (g : Nat) : Keeps s₀ (State.serveVits s g) := by
  unfold State.serveVits
  with_reducible repeat' first
    | assumption | (intro _) | apply State.cmdVit_keeps | apply keeps_forAll | refine keeps_mk ?_ rfl rfl rfl rfl rfl

theorem State.doVitrine_keeps {s₀ s : State} (h : Keeps s₀ s) (c : CmdHdr) (t pre post first count : Nat) :
    Keeps s₀ (State.doVitrine s c t pre post first count) := by
  unfold State.doVitrine
  refine State.inMode_keeps h _ _ fun s hs => keeps_ite (State.complete_keeps hs _ _ _) (keeps_ite (State.complete_keeps hs _ _ _) ?_)
  extract_lets x
  exact keeps_ite (keeps_mk hs rfl rfl rfl rfl rfl) (State.cmdVit_keeps hs _)

theorem execVitrine_keeps {s : State} (c : CmdHdr) (t pre post first count : Nat) : KeepsO s (execVitrine c t pre post first count s) := by
  have h := Keeps.refl s
  unfold execVitrine
  with_reducible repeat' first
    | assumption | apply State.count_keeps | apply State.doVitrine_keeps | apply keepsO_ok | apply keepsO_ite

theorem State.handOver_keeps {s₀ s : State} (h : Keeps s₀ s) (d v : Nat) : Keeps s₀ (State.handOver s d v) := by
  unfold State.handOver
  with_reducible repeat' first
    | assumption | (intro _) | apply State.bump_keeps | apply State.put_keeps | apply State.setAcu_keeps
    | apply State.showAcu_keeps | apply keeps_ite | split | refine keeps_mk ?_ rfl rfl rfl rfl rfl | extract_lets

theorem execVitrineHandover_keeps {s : State} (d v : Nat) : KeepsO s (execVitrineHandover d v s) := by
  have h := Keeps.refl s
  unfold execVitrineHandover
  with_reducible repeat' first
    | assumption | apply State.handOver_keeps | apply keepsO_ok | apply keepsO_ite | apply keeps_ite

theorem State.vitWritten_keeps {s₀ s : State} (h : Keeps s₀ s) (d v folio : Nat) : Keeps s₀ (State.vitWritten s d v folio) := by
  unfold State.vitWritten
  with_reducible repeat' first
    | assumption | (intro _) | apply State.put_keeps | apply State.setAcu_keeps | apply State.showAcu_keeps
    | refine keeps_mk ?_ rfl rfl rfl rfl rfl | extract_lets

end Sys2Proof.Machine
end

