-- ==== Sys2Proof/Laws/KeepsCore.lean ====
section
/-! SUPPORT. What the operations of Fcore, FcoreOps, FcoreCtl, Corner keep. -/

namespace Sys2Proof.Machine

/-! ### Fcore -/

theorem State.setFc_keeps {s₀ s : State} (h : Keeps s₀ s) (d : Nat) (v : FcSt) : Keeps s₀ (State.setFc s d v) := by
  unfold State.setFc
  with_reducible repeat' first
    | assumption | (intro _) | apply State.put_keeps | refine keeps_mk ?_ rfl rfl rfl rfl rfl

theorem State.setCore_keeps {s₀ s : State} (h : Keeps s₀ s) (d c : Nat) (v : CoreSt) : Keeps s₀ (State.setCore s d c v) := by
  unfold State.setCore
  with_reducible repeat' first
    | assumption | (intro _) | apply State.put_keeps | apply State.setFc_keeps | refine keeps_mk ?_ rfl rfl rfl rfl rfl

theorem State.setSave_keeps {s₀ s : State} (h : Keeps s₀ s) (d l : Nat) (v : CoreSt) : Keeps s₀ (State.setSave s d l v) := by
  unfold State.setSave
  with_reducible repeat' first
    | assumption | (intro _) | apply State.put_keeps | apply State.setFc_keeps | refine keeps_mk ?_ rfl rfl rfl rfl rfl

theorem State.showLoans_keeps {s₀ s : State} (h : Keeps s₀ s) (d : Nat) : Keeps s₀ (State.showLoans s d) := by
  unfold State.showLoans
  with_reducible repeat' first
    | assumption | (intro _) | apply State.put_keeps | split | refine keeps_mk ?_ rfl rfl rfl rfl rfl | extract_lets

theorem State.restoreCore_keeps {s₀ s : State} (h : Keeps s₀ s) (d c l : Nat) : Keeps s₀ (State.restoreCore s d c l) := by
  unfold State.restoreCore
  with_reducible repeat' first
    | assumption | apply State.setCore_keeps | refine keeps_mk ?_ rfl rfl rfl rfl rfl

theorem State.coldCore_keeps {s₀ s : State} (h : Keeps s₀ s) (d c : Nat) : Keeps s₀ (State.coldCore s d c) := by
  unfold State.coldCore
  with_reducible repeat' first
    | assumption | apply State.put_keeps | apply State.setCore_keeps

theorem State.copyCfg_keeps {s₀ s : State} (h : Keeps s₀ s) (d c h : Nat) : Keeps s₀ (State.copyCfg s d c h) := by
  unfold State.copyCfg
  with_reducible repeat' first
    | assumption | apply State.put_keeps | apply State.wr_keeps

theorem State.spareless_keeps {s₀ s : State} (h : Keeps s₀ s) (d c l : Nat) : Keeps s₀ (State.spareless s d c l) := by
  unfold State.spareless
  with_reducible repeat' first
    | assumption | apply State.request_keeps | apply State.setCore_keeps | apply State.setFc_keeps | apply keeps_ite | split
    | refine keeps_mk ?_ rfl rfl rfl rfl rfl | extract_lets

theorem State.lend_keeps {s₀ s : State} (h : Keeps s₀ s) (d c l : Nat) : Keeps s₀ (State.lend s d c l) := by
  unfold State.lend
  with_reducible repeat' first
    | assumption | apply State.copyCfg_keeps | apply State.emit_keeps | apply State.put_keeps | apply State.raise_keeps
    | apply State.restoreCore_keeps | apply State.setCore_keeps | apply State.setFc_keeps | apply State.showLoans_keeps
    | apply State.spareless_keeps | split | refine keeps_mk ?_ rfl rfl rfl rfl rfl | extract_lets

theorem State.coreGivesUp_keeps {s₀ s : State} (h : Keeps s₀ s) (d c : Nat) : Keeps s₀ (State.coreGivesUp s d c) := by
  unfold State.coreGivesUp
  with_reducible repeat' first
    | assumption | (intro _) | apply State.advise_keeps | apply State.beginFault_keeps | apply State.charge_keeps
    | apply State.copyCfg_keeps | apply State.deaccUnit_keeps | apply State.lend_keeps | apply State.putBit_keeps
    | apply State.put_keeps | apply State.setCore_keeps | apply State.setFc_keeps | apply State.setTimer_keeps
    | apply State.setUnitState_keeps | apply State.showLoans_keeps | apply keeps_ite | split
    | refine keeps_mk ?_ rfl rfl rfl rfl rfl | extract_lets

theorem State.coreFault_keeps {s₀ s : State} (h : Keeps s₀ s) (d c cause : Nat) : Keeps s₀ (State.coreFault s d c cause) := by
  unfold State.coreFault
  with_reducible repeat' first
    | assumption | apply State.coreGivesUp_keeps | apply State.emitC_keeps | apply State.emit_keeps | apply State.put_keeps
    | apply State.raise_keeps | apply State.restoreCore_keeps | apply State.setCore_keeps | apply keeps_ite
    | refine keeps_mk ?_ rfl rfl rfl rfl rfl | extract_lets

theorem State.corrected_keeps {s₀ s : State} (h : Keeps s₀ s) (d c : Nat) : Keeps s₀ (State.corrected s d c) := by
  unfold State.corrected
  with_reducible repeat' first
    | assumption | apply State.bump_keeps | apply State.charge_keeps | apply State.raise_keeps | apply State.setCore_keeps
    | apply keeps_ite | refine keeps_mk ?_ rfl rfl rfl rfl rfl | extract_lets

theorem State.keepCore_keeps {s₀ s : State} (h : Keeps s₀ s) (d c : Nat) (q : CoreSt) : Keeps s₀ (State.keepCore s d c q) := by
  unfold State.keepCore
  with_reducible repeat' first
    | assumption | (intro _) | apply State.coreGivesUp_keeps | apply State.raise_keeps | apply State.setCore_keeps
    | apply keeps_ite | apply keeps_when | extract_lets

theorem State.markFolio_keeps {s₀ s : State} (h : Keeps s₀ s) (d c : Nat) (q : CoreSt) : Keeps s₀ (State.markFolio s d c q) := by
  unfold State.markFolio
  with_reducible repeat' first
    | assumption | (intro _) | apply State.setMarkOf_keeps | apply keeps_ite | refine keeps_mk ?_ rfl rfl rfl rfl rfl
    | extract_lets

theorem State.stallCore_keeps {s₀ s : State} (h : Keeps s₀ s) (d c : Nat) (q : CoreSt) (st : Nat) : Keeps s₀ (State.stallCore s d c q st) := by
  unfold State.stallCore
  with_reducible repeat' first
    | assumption | apply State.markFolio_keeps | apply State.pm_keeps | apply State.setCore_keeps | apply State.td_keeps
    | apply keeps_ite | refine keeps_mk ?_ rfl rfl rfl rfl rfl | extract_lets

theorem State.withFetch_keeps {s₀ s : State} (h : Keeps s₀ s) (d c ecc : Nat) {f : State → State}
    (hf : ∀ s, Keeps s₀ s → Keeps s₀ (f s)) : Keeps s₀ (State.withFetch s d c ecc f) := by
  unfold State.withFetch
  with_reducible repeat' first
    | assumption | apply hf | apply State.corrected_keeps | apply State.coreFault_keeps | apply keeps_ite | extract_lets

theorem State.issue_keeps {s₀ s : State} (h : Keeps s₀ s) (d c slot : Nat) (bad want : Bool) {f : CoreSt → State}
    (hf : ∀ q, Keeps s₀ (f q)) : Keeps s₀ (State.issue s d c slot bad want f) := by
  unfold State.issue
  with_reducible repeat' first
    | assumption | apply hf | apply State.coreFault_keeps | apply State.stallCore_keeps | apply keeps_ite | extract_lets

/-! ### FcoreOps -/

theorem State.mOp_keeps {s₀ s : State} (h : Keeps s₀ s) (d c ecc op sub : Nat) (f : CoreSt → MF → CoreSt) : Keeps s₀ (State.mOp s d c ecc op sub f) := by
  unfold State.mOp
  with_reducible repeat' first
    | assumption | (intro _) | apply State.issue_keeps | apply State.setCore_keeps | apply State.td_keeps
    | apply State.withFetch_keeps | refine keeps_mk ?_ rfl rfl rfl rfl rfl | extract_lets

theorem execMnop_keeps {s : State} (d c ecc : Nat) : KeepsO s (execMnop d c s ecc) := by
  have h := Keeps.refl s
  unfold execMnop
  with_reducible repeat' first
    | assumption | (intro _) | apply State.mOp_keeps | apply keepsO_ok | apply keepsO_ite

theorem execCmul_keeps {s : State} (d c ecc : Nat) : KeepsO s (execCmul d c s ecc) := by
  have h := Keeps.refl s
  unfold execCmul
  with_reducible repeat' first
    | assumption | (intro _) | apply State.mOp_keeps | apply keepsO_ok | apply keepsO_ite

theorem execCmulj_keeps {s : State} (d c ecc : Nat) : KeepsO s (execCmulj d c s ecc) := by
  have h := Keeps.refl s
  unfold execCmulj
  with_reducible repeat' first
    | assumption | (intro _) | apply State.mOp_keeps | apply keepsO_ok | apply keepsO_ite

theorem execCmulw_keeps {s : State} (d c ecc : Nat) : KeepsO s (execCmulw d c s ecc) := by
  have h := Keeps.refl s
  unfold execCmulw
  with_reducible repeat' first
    | assumption | (intro _) | apply State.mOp_keeps | apply keepsO_ok | apply keepsO_ite

theorem execRmul_keeps {s : State} (d c ecc : Nat) : KeepsO s (execRmul d c s ecc) := by
  have h := Keeps.refl s
  unfold execRmul
  with_reducible repeat' first
    | assumption | (intro _) | apply State.mOp_keeps | apply keepsO_ok | apply keepsO_ite

theorem execFtap_keeps {s : State} (d c ecc : Nat) : KeepsO s (execFtap d c s ecc) := by
  have h := Keeps.refl s
  unfold execFtap
  with_reducible repeat' first
    | assumption | (intro _) | apply State.mOp_keeps | apply keepsO_ok | apply keepsO_ite

theorem execCrot_keeps {s : State} (d c ecc : Nat) : KeepsO s (execCrot d c s ecc) := by
  have h := Keeps.refl s
  unfold execCrot
  with_reducible repeat' first
    | assumption | (intro _) | apply State.mOp_keeps | apply keepsO_ok | apply keepsO_ite | extract_lets

theorem execCmac_keeps {s : State} (d c ecc : Nat) : KeepsO s (execCmac d c s ecc) := by
  have h := Keeps.refl s
  unfold execCmac
  with_reducible repeat' first
    | assumption | (intro _) | apply State.mOp_keeps | apply keepsO_ok | apply keepsO_ite

theorem execCmacj_keeps {s : State} (d c ecc : Nat) : KeepsO s (execCmacj d c s ecc) := by
  have h := Keeps.refl s
  unfold execCmacj
  with_reducible repeat' first
    | assumption | (intro _) | apply State.mOp_keeps | apply keepsO_ok | apply keepsO_ite

theorem execAccrd_keeps {s : State} (d c ecc : Nat) : KeepsO s (execAccrd d c s ecc) := by
  have h := Keeps.refl s
  unfold execAccrd
  with_reducible repeat' first
    | assumption | (intro _) | apply State.mOp_keeps | apply keepsO_ok | apply keepsO_ite

theorem execAccclr_keeps {s : State} (d c ecc : Nat) : KeepsO s (execAccclr d c s ecc) := by
  have h := Keeps.refl s
  unfold execAccclr
  with_reducible repeat' first
    | assumption | (intro _) | apply State.mOp_keeps | apply keepsO_ok | apply keepsO_ite

theorem State.aOp_keeps {s₀ s : State} (h : Keeps s₀ s) (d c : Nat) (want : Nat → Bool) (f : CoreSt → AF → CoreSt) : Keeps s₀ (State.aOp s d c want f) := by
  unfold State.aOp
  with_reducible repeat' first
    | assumption | (intro _) | apply State.issue_keeps | apply State.setCore_keeps | apply State.td_keeps
    | refine keeps_mk ?_ rfl rfl rfl rfl rfl | extract_lets

theorem execAnop_keeps {s : State} (d c : Nat) : KeepsO s (execAnop d c s) := by
  have h := Keeps.refl s
  unfold execAnop
  with_reducible repeat' first
    | assumption | (intro _) | apply State.aOp_keeps | apply keepsO_ok | apply keepsO_ite

theorem execAdd_keeps {s : State} (d c : Nat) : KeepsO s (execAdd d c s) := by
  have h := Keeps.refl s
  unfold execAdd
  with_reducible repeat' first
    | assumption | (intro _) | apply State.aOp_keeps | apply keepsO_ok | apply keepsO_ite | apply keeps_ite

theorem execBf2_keeps {s : State} (d c : Nat) : KeepsO s (execBf2 d c s) := by
  have h := Keeps.refl s
  unfold execBf2
  with_reducible repeat' first
    | assumption | (intro _) | apply State.aOp_keeps | apply keepsO_ok | apply keepsO_ite | extract_lets

theorem execBf4_keeps {s : State} (d c : Nat) : KeepsO s (execBf4 d c s) := by
  have h := Keeps.refl s
  unfold execBf4
  with_reducible repeat' first
    | assumption | (intro _) | apply State.aOp_keeps | apply keepsO_ok | apply keepsO_ite | extract_lets

theorem execMov_keeps {s : State} (d c : Nat) : KeepsO s (execMov d c s) := by
  have h := Keeps.refl s
  unfold execMov
  with_reducible repeat' first
    | assumption | (intro _) | apply State.aOp_keeps | apply keepsO_ok | apply keepsO_ite

theorem execLogic_keeps {s : State} (d c : Nat) : KeepsO s (execLogic d c s) := by
  have h := Keeps.refl s
  unfold execLogic
  with_reducible repeat' first
    | assumption | (intro _) | apply State.aOp_keeps | apply keepsO_ok | apply keepsO_ite | split
    | refine keeps_mk ?_ rfl rfl rfl rfl rfl | extract_lets

theorem execShl_keeps {s : State} (d c : Nat) : KeepsO s (execShl d c s) := by
  have h := Keeps.refl s
  unfold execShl
  with_reducible repeat' first
    | assumption | (intro _) | apply State.aOp_keeps | apply keepsO_ok | apply keepsO_ite | extract_lets

theorem execRq4_keeps {s : State} (d c : Nat) : KeepsO s (execRq4 d c s) := by
  have h := Keeps.refl s
  unfold execRq4
  with_reducible repeat' first
    | assumption | (intro _) | apply State.aOp_keeps | apply keepsO_ok | apply keepsO_ite

theorem execRq8_keeps {s : State} (d c : Nat) : KeepsO s (execRq8 d c s) := by
  have h := Keeps.refl s
  unfold execRq8
  with_reducible repeat' first
    | assumption | (intro _) | apply State.aOp_keeps | apply keepsO_ok | apply keepsO_ite

theorem execPred_keeps {s : State} (d c : Nat) : KeepsO s (execPred d c s) := by
  have h := Keeps.refl s
  unfold execPred
  with_reducible repeat' first
    | assumption | (intro _) | apply State.aOp_keeps | apply keepsO_ok | apply keepsO_ite

theorem execBexp_keeps {s : State} (d c : Nat) : KeepsO s (execBexp d c s) := by
  have h := Keeps.refl s
  unfold execBexp
  with_reducible repeat' first
    | assumption | (intro _) | apply State.aOp_keeps | apply keepsO_ok | apply keepsO_ite

theorem execBclr_keeps {s : State} (d c : Nat) : KeepsO s (execBclr d c s) := by
  have h := Keeps.refl s
  unfold execBclr
  with_reducible repeat' first
    | assumption | (intro _) | apply State.aOp_keeps | apply keepsO_ok | apply keepsO_ite

/-! ### FcoreCtl -/

theorem State.take_keeps {s₀ s : State} (h : Keeps s₀ s) (d c : Nat) (r : CRes) : Keeps s₀ (State.take s d c r) := by
  unfold State.take
  with_reducible repeat' first
    | assumption | apply State.coreFault_keeps | apply State.keepCore_keeps | split | refine keeps_mk ?_ rfl rfl rfl rfl rfl

theorem State.countC_keeps {s₀ s : State} (h : Keeps s₀ s) (d c : Nat) (q : CoreSt) (w : CF) (r : CRes) : Keeps s₀ (State.countC s d c q w r) := by
  unfold State.countC
  with_reducible repeat' first
    | assumption | apply State.pm_keeps | apply State.td_keeps | apply keeps_ite | split
    | refine keeps_mk ?_ rfl rfl rfl rfl rfl | extract_lets

theorem State.cOp_keeps {s₀ s : State} (h : Keeps s₀ s) (d c op : Nat) (want : CF → Bool) (f : CoreSt → CF → CRes) : Keeps s₀ (State.cOp s d c op want f) := by
  unfold State.cOp
  with_reducible repeat' first
    | assumption | (intro _) | apply State.countC_keeps | apply State.issue_keeps | apply State.take_keeps | apply keeps_ite
    | extract_lets

theorem State.withEcc_keeps {s₀ s : State} (h : Keeps s₀ s) (d c ecc op : Nat) {f : State → State}
    (hf : ∀ s, Keeps s₀ s → Keeps s₀ (f s)) : Keeps s₀ (State.withEcc s d c ecc op f) := by
  unfold State.withEcc
  with_reducible repeat' first
    | assumption | apply hf | apply State.corrected_keeps | apply State.coreFault_keeps | apply keeps_ite | extract_lets

theorem execLd_keeps {s : State} (d c ecc : Nat) : KeepsO s (execLd d c ecc s) := by
  have h := Keeps.refl s
  unfold execLd
  with_reducible repeat' first
    | assumption | (intro _) | apply State.cOp_keeps | apply State.withEcc_keeps | apply keepsO_ok | apply keepsO_ite
    | extract_lets

theorem execLdu_keeps {s : State} (d c ecc : Nat) : KeepsO s (execLdu d c ecc s) := by
  have h := Keeps.refl s
  unfold execLdu
  with_reducible repeat' first
    | assumption | (intro _) | apply State.cOp_keeps | apply State.withEcc_keeps | apply keepsO_ok | apply keepsO_ite
    | apply keeps_ite | extract_lets

theorem execSt_keeps {s : State} (d c ecc : Nat) : KeepsO s (execSt d c ecc s) := by
  have h := Keeps.refl s
  unfold execSt
  with_reducible repeat' first
    | assumption | (intro _) | apply State.cOp_keeps | apply State.withEcc_keeps | apply keepsO_ok | apply keepsO_ite
    | extract_lets

theorem execDxlys_keeps {s : State} (d c ecc : Nat) : KeepsO s (execDxlys d c ecc s) := by
  have h := Keeps.refl s
  unfold execDxlys
  with_reducible repeat' first
    | assumption | (intro _) | apply State.cOp_keeps | apply State.withEcc_keeps | apply keepsO_ok | apply keepsO_ite

theorem execDxsyl_keeps {s : State} (d c ecc : Nat) : KeepsO s (execDxsyl d c ecc s) := by
  have h := Keeps.refl s
  unfold execDxsyl
  with_reducible repeat' first
    | assumption | (intro _) | apply State.cOp_keeps | apply State.withEcc_keeps | apply keepsO_ok | apply keepsO_ite

theorem execDxlyl_keeps {s : State} (d c ecc : Nat) : KeepsO s (execDxlyl d c ecc s) := by
  have h := Keeps.refl s
  unfold execDxlyl
  with_reducible repeat' first
    | assumption | (intro _) | apply State.cOp_keeps | apply State.withEcc_keeps | apply keepsO_ok | apply keepsO_ite

theorem execAadd_keeps {s : State} (d c : Nat) : KeepsO s (execAadd d c s) := by
  have h := Keeps.refl s
  unfold execAadd
  with_reducible repeat' first
    | assumption | (intro _) | apply State.cOp_keeps | apply keepsO_ok | apply keepsO_ite | extract_lets

theorem execAli_keeps {s : State} (d c : Nat) : KeepsO s (execAli d c s) := by
  have h := Keeps.refl s
  unfold execAli
  with_reducible repeat' first
    | assumption | (intro _) | apply State.cOp_keeps | apply keepsO_ok | apply keepsO_ite

theorem execMvts_keeps {s : State} (d c : Nat) : KeepsO s (execMvts d c s) := by
  have h := Keeps.refl s
  unfold execMvts
  with_reducible repeat' first
    | assumption | (intro _) | apply State.cOp_keeps | apply keepsO_ok | apply keepsO_ite

theorem execMvfs_keeps {s : State} (d c : Nat) : KeepsO s (execMvfs d c s) := by
  have h := Keeps.refl s
  unfold execMvfs
  with_reducible repeat' first
    | assumption | (intro _) | apply State.cOp_keeps | apply keepsO_ok | apply keepsO_ite | apply keeps_ite
    | refine keeps_mk ?_ rfl rfl rfl rfl rfl | extract_lets

theorem execBr_keeps {s : State} (d c : Nat) : KeepsO s (execBr d c s) := by
  have h := Keeps.refl s
  unfold execBr
  with_reducible repeat' first
    | assumption | (intro _) | apply State.cOp_keeps | apply keepsO_ok | apply keepsO_ite

theorem execCall_keeps {s : State} (d c : Nat) : KeepsO s (execCall d c s) := by
  have h := Keeps.refl s
  unfold execCall
  with_reducible repeat' first
    | assumption | (intro _) | apply State.cOp_keeps | apply keepsO_ok | apply keepsO_ite

theorem execRet_keeps {s : State} (d c : Nat) : KeepsO s (execRet d c s) := by
  have h := Keeps.refl s
  unfold execRet
  with_reducible repeat' first
    | assumption | (intro _) | apply State.cOp_keeps | apply keepsO_ok | apply keepsO_ite

theorem execRti_keeps {s : State} (d c : Nat) : KeepsO s (execRti d c s) := by
  have h := Keeps.refl s
  unfold execRti
  with_reducible repeat' first
    | assumption | (intro _) | apply State.cOp_keeps | apply keepsO_ok | apply keepsO_ite | apply keeps_ite

theorem execMiscNop_keeps {s : State} (d c : Nat) : KeepsO s (execMiscNop d c s) := by
  have h := Keeps.refl s
  unfold execMiscNop
  with_reducible repeat' first
    | assumption | (intro _) | apply State.cOp_keeps | apply keepsO_ok | apply keepsO_ite

theorem execHalt_keeps {s : State} (d c : Nat) : KeepsO s (execHalt d c s) := by
  have h := Keeps.refl s
  unfold execHalt
  with_reducible repeat' first
    | assumption | (intro _) | apply State.cOp_keeps | apply keepsO_ok | apply keepsO_ite
    | refine keeps_mk ?_ rfl rfl rfl rfl rfl

theorem execAtom_keeps {s : State} (d c : Nat) : KeepsO s (execAtom d c s) := by
  have h := Keeps.refl s
  unfold execAtom
  with_reducible repeat' first
    | assumption | (intro _) | apply State.cOp_keeps | apply keepsO_ok | apply keepsO_ite | apply keeps_ite

theorem execIwait_keeps {s : State} (d c : Nat) : KeepsO s (execIwait d c s) := by
  have h := Keeps.refl s
  unfold execIwait
  with_reducible repeat' first
    | assumption | (intro _) | apply State.cOp_keeps | apply keepsO_ok | apply keepsO_ite | split
    | refine keeps_mk ?_ rfl rfl rfl rfl rfl

theorem execIrel_keeps {s : State} (d c : Nat) : KeepsO s (execIrel d c s) := by
  have h := Keeps.refl s
  unfold execIrel
  with_reducible repeat' first
    | assumption | (intro _) | apply State.cOp_keeps | apply State.drop_keeps | apply keepsO_ok | apply keepsO_ite
    | apply keeps_ite | refine keeps_mk ?_ rfl rfl rfl rfl rfl

theorem execOput_keeps {s : State} (d c : Nat) : KeepsO s (execOput d c s) := by
  have h := Keeps.refl s
  unfold execOput
  with_reducible repeat' first
    | assumption | (intro _) | apply State.cOp_keeps | apply State.markFolio_keeps | apply keepsO_ok | apply keepsO_ite
    | apply keeps_ite | refine keeps_mk ?_ rfl rfl rfl rfl rfl | extract_lets

theorem execEi_keeps {s : State} (d c : Nat) : KeepsO s (execEi d c s) := by
  have h := Keeps.refl s
  unfold execEi
  with_reducible repeat' first
    | assumption | (intro _) | apply State.cOp_keeps | apply keepsO_ok | apply keepsO_ite

theorem execDi_keeps {s : State} (d c : Nat) : KeepsO s (execDi d c s) := by
  have h := Keeps.refl s
  unfold execDi
  with_reducible repeat' first
    | assumption | (intro _) | apply State.cOp_keeps | apply keepsO_ok | apply keepsO_ite

theorem execSoft_keeps {s : State} (d c : Nat) : KeepsO s (execSoft d c s) := by
  have h := Keeps.refl s
  unfold execSoft
  with_reducible repeat' first
    | assumption | (intro _) | apply State.cOp_keeps | apply keepsO_ok | apply keepsO_ite

theorem execLoop_keeps {s : State} (d c : Nat) : KeepsO s (execLoop d c s) := by
  have h := Keeps.refl s
  unfold execLoop
  with_reducible repeat' first
    | assumption | (intro _) | apply State.cOp_keeps | apply keepsO_ok | apply keepsO_ite

theorem execRep_keeps {s : State} (d c : Nat) : KeepsO s (execRep d c s) := by
  have h := Keeps.refl s
  unfold execRep
  with_reducible repeat' first
    | assumption | (intro _) | apply State.cOp_keeps | apply keepsO_ok | apply keepsO_ite

theorem execIterationEnd_keeps {s : State} (d c : Nat) : KeepsO s (execIterationEnd d c s) := by
  have h := Keeps.refl s
  unfold execIterationEnd
  with_reducible repeat' first
    | assumption | apply State.keepCore_keeps | apply keepsO_ok | apply keepsO_ite | apply keeps_ite | extract_lets

theorem execInterruptTake_keeps {s : State} (d c : Nat) : KeepsO s (execInterruptTake d c s) := by
  have h := Keeps.refl s
  unfold execInterruptTake
  with_reducible repeat' first
    | assumption | apply State.pm_keeps | apply State.setCore_keeps | apply keepsO_ok | apply keepsO_ite | apply keeps_ite
    | split | refine keeps_mk ?_ rfl rfl rfl rfl rfl | extract_lets

theorem State.irq_keeps {s₀ s : State} (h : Keeps s₀ s) (d c n : Nat) : Keeps s₀ (State.irq s d c n) := by
  unfold State.irq
  with_reducible repeat' first
    | assumption | apply State.setCore_keeps

theorem execCoreTimer_keeps {s : State} (d c : Nat) : KeepsO s (execCoreTimer d c s) := by
  have h := Keeps.refl s
  unfold execCoreTimer
  with_reducible repeat' first
    | assumption | apply State.advance_keeps | apply State.setCore_keeps | apply keepsO_ok | apply keepsO_ite
    | apply keeps_ite | refine keeps_mk ?_ rfl rfl rfl rfl rfl | extract_lets

theorem execDoorbellMessage_keeps {s : State} (d c code arg : Nat) : KeepsO s (execDoorbellMessage d c code arg s) := by
  have h := Keeps.refl s
  unfold execDoorbellMessage
  with_reducible repeat' first
    | assumption | apply State.put_keeps | apply State.setCore_keeps | apply keepsO_ok | apply keepsO_ite | apply keeps_ite
    | refine keeps_mk ?_ rfl rfl rfl rfl rfl | extract_lets

theorem State.caughtUp_keeps {s₀ s : State} (h : Keeps s₀ s) (d c : Nat) : Keeps s₀ (State.caughtUp s d c) := by
  unfold State.caughtUp
  with_reducible repeat' first
    | assumption | (intro _) | apply State.recoverFault_keeps | apply State.setFc_keeps | apply keeps_ite | split
    | refine keeps_mk ?_ rfl rfl rfl rfl rfl | extract_lets

theorem execInputBufferComplete_keeps {s : State} (d c : Nat) : KeepsO s (execInputBufferComplete d c s) := by
  have h := Keeps.refl s
  unfold execInputBufferComplete
  with_reducible repeat' first
    | assumption | apply State.caughtUp_keeps | apply State.setCore_keeps | apply State.take_keeps | apply keepsO_ok
    | apply keepsO_ite | apply keeps_ite | split | refine keeps_mk ?_ rfl rfl rfl rfl rfl | extract_lets

theorem State.hostBack_keeps {s₀ s : State} (h : Keeps s₀ s) (d c : Nat) : Keeps s₀ (State.hostBack s d c) := by
  unfold State.hostBack
  with_reducible repeat' first
    | assumption | (intro _) | apply State.restoreCore_keeps | apply State.setFc_keeps | apply State.wr_keeps
    | apply keeps_ite | split | refine keeps_mk ?_ rfl rfl rfl rfl rfl | extract_lets

theorem execOutputFrameFreed_keeps {s : State} (d c : Nat) : KeepsO s (execOutputFrameFreed d c s) := by
  have h := Keeps.refl s
  unfold execOutputFrameFreed
  with_reducible repeat' first
    | assumption | apply State.hostBack_keeps | apply State.setCore_keeps | apply keepsO_ok | apply keepsO_ite
    | apply keeps_ite | split | refine keeps_mk ?_ rfl rfl rfl rfl rfl | extract_lets

theorem execCoreWatchdog_keeps {s : State} (d c : Nat) : KeepsO s (execCoreWatchdog d c s) := by
  have h := Keeps.refl s
  unfold execCoreWatchdog
  with_reducible repeat' first
    | assumption | apply State.coreFault_keeps | apply keepsO_ok | apply keepsO_ite | apply keeps_ite

theorem State.saveCore_keeps {s₀ s : State} (h : Keeps s₀ s) (d c us : Nat) : Keeps s₀ (State.saveCore s d c us) := by
  unfold State.saveCore
  with_reducible repeat' first
    | assumption | (intro _) | apply State.raise_keeps | apply State.setCore_keeps | apply State.setSave_keeps
    | apply State.td_keeps | apply keeps_when | refine keeps_mk ?_ rfl rfl rfl rfl rfl | extract_lets

theorem State.takeBack_keeps {s₀ s : State} (h : Keeps s₀ s) (d c : Nat) : Keeps s₀ (State.takeBack s d c) := by
  unfold State.takeBack
  with_reducible repeat' first
    | assumption | (intro _) | apply State.coldCore_keeps | apply State.copyCfg_keeps | apply State.emit_keeps
    | apply State.put_keeps | apply State.raise_keeps | apply State.setCore_keeps | apply State.setFc_keeps
    | apply State.setUnitState_keeps | apply State.showLoans_keeps | split | refine keeps_mk ?_ rfl rfl rfl rfl rfl
    | extract_lets

theorem State.hostStart_keeps {s₀ s : State} (h : Keeps s₀ s) (d c : Nat) : Keeps s₀ (State.hostStart s d c) := by
  unfold State.hostStart
  with_reducible repeat' first
    | assumption | (intro _) | apply State.copyCfg_keeps | apply State.restoreCore_keeps | apply State.setFc_keeps
    | apply keeps_ite | split | refine keeps_mk ?_ rfl rfl rfl rfl rfl | extract_lets

theorem execCkptSave_keeps {s : State} (d c us : Nat) : KeepsO s (execCkptSave d c us s) := by
  have h := Keeps.refl s
  unfold execCkptSave
  with_reducible repeat' first
    | assumption | apply State.hostStart_keeps | apply State.saveCore_keeps | apply State.takeBack_keeps | apply keepsO_ok
    | apply keepsO_ite | apply keeps_ite | extract_lets

theorem State.requestSaves_keeps {s₀ s : State} (h : Keeps s₀ s) (d : Nat) : Keeps s₀ (State.requestSaves s d) := by
  unfold State.requestSaves
  with_reducible repeat' first
    | assumption | (intro _) | apply State.irq_keeps | apply keeps_ite | apply keeps_forAll

theorem execFcRetest_keeps {s : State} (d c : Nat) (pass : Bool) : KeepsO s (execFcRetest d c pass s) := by
  have h := Keeps.refl s
  unfold execFcRetest
  with_reducible repeat' first
    | assumption | apply State.put_keeps | apply State.setFc_keeps | apply State.tick_keeps | apply keepsO_ok
    | apply keepsO_ite | apply keeps_ite | refine keeps_mk ?_ rfl rfl rfl rfl rfl | extract_lets

theorem State.fcReturn_keeps {s₀ s : State} (h : Keeps s₀ s) (d : Nat) : Keeps s₀ (State.fcReturn s d) := by
  unfold State.fcReturn
  with_reducible repeat' first
    | assumption | (intro _) | apply State.emit_keeps | apply State.put_keeps | apply State.raise_keeps
    | apply State.restoreCore_keeps | apply State.setFc_keeps | apply State.setUnitState_keeps | apply State.showLoans_keeps
    | apply State.unrequest_keeps | apply keeps_ite | apply keeps_forAll | refine keeps_mk ?_ rfl rfl rfl rfl rfl
    | extract_lets

/-! ### Corner -/

theorem State.setStream_keeps {s₀ s : State} (h : Keeps s₀ s) (d e : Nat) (v : StreamSt) : Keeps s₀ (State.setStream s d e v) := by
  unfold State.setStream
  with_reducible repeat' first
    | assumption | (intro _) | apply State.put_keeps | apply State.setCte_keeps | refine keeps_mk ?_ rfl rfl rfl rfl rfl

theorem State.setDest_keeps {s₀ s : State} (h : Keeps s₀ s) (d : Nat) (v : DestSt) : Keeps s₀ (State.setDest s d v) := by
  unfold State.setDest
  with_reducible repeat' first
    | assumption | (intro _) | apply State.setCte_keeps | apply keeps_ite | refine keeps_mk ?_ rfl rfl rfl rfl rfl

theorem State.showCte_keeps {s₀ s : State} (h : Keeps s₀ s) (d : Nat) : Keeps s₀ (State.showCte s d) := by
  unfold State.showCte
  with_reducible repeat' first
    | assumption | (intro _) | apply State.put_keeps | apply keeps_foldl | split | refine keeps_mk ?_ rfl rfl rfl rfl rfl
    | extract_lets

theorem State.showAsm_keeps {s₀ s : State} (h : Keeps s₀ s) (d : Nat) : Keeps s₀ (State.showAsm s d) := by
  unfold State.showAsm
  with_reducible repeat' first
    | assumption | apply State.put_keeps | extract_lets

theorem State.evict_keeps {s₀ s : State} (h : Keeps s₀ s) (d n : Nat) : Keeps s₀ (State.evict s d n) := by
  induction n generalizing s with
  | zero => exact h
  | succ n ih =>
    unfold State.evict
    exact keeps_ite (ih (State.pmU_keeps (State.raise_keeps (State.raise_keeps (State.bump_keeps
      (State.setCte_keeps h _ _) _) _) _) _ _ _)) h

theorem State.fitAsm_keeps {s₀ s : State} (h : Keeps s₀ s) (d : Nat) : Keeps s₀ (State.fitAsm s d) := by
  unfold State.fitAsm
  with_reducible repeat' first
    | assumption | apply State.evict_keeps | apply State.put_keeps | apply State.showAsm_keeps

theorem State.sendMarker_keeps {s₀ s : State} (h : Keeps s₀ s) (d : Nat) (x : DestSt) (folio flags crc pkts : Nat) : Keeps s₀ (State.sendMarker s d x folio flags crc pkts) := by
  unfold State.sendMarker
  with_reducible repeat' first
    | assumption | (intro _) | apply State.originate_keeps | apply State.setDest_keeps | apply keeps_ite
    | refine keeps_mk ?_ rfl rfl rfl rfl rfl | extract_lets

theorem State.sendTo_keeps {s₀ s : State} (h : Keeps s₀ s) (d k : Nat) (refused : Bool) (x : DestSt) : Keeps s₀ (State.sendTo s d k refused x) := by
  unfold State.sendTo
  with_reducible repeat' first
    | assumption | (intro _) | apply State.bumpBy_keeps | apply State.originate_keeps | apply State.pmU_keeps
    | apply State.sendMarker_keeps | apply State.setDest_keeps | apply keeps_ite | apply keeps_forAll
    | refine keeps_mk ?_ rfl rfl rfl rfl rfl | extract_lets

theorem State.framesRead_keeps {s₀ s : State} (h : Keeps s₀ s) (d k : Nat) : Keeps s₀ (State.framesRead s d k) := by
  unfold State.framesRead
  with_reducible repeat' first
    | assumption | (intro _) | apply State.put_keeps | apply State.setCore_keeps | apply State.setFc_keeps | apply keeps_ite
    | apply keeps_forAll | split | refine keeps_mk ?_ rfl rfl rfl rfl rfl | extract_lets

theorem execSendFolio_keeps {s : State} (d folio : Nat) : KeepsO s (execSendFolio d folio s) := by
  have h := Keeps.refl s
  unfold execSendFolio
  with_reducible repeat' first
    | assumption | (intro _) | apply State.framesRead_keeps | apply State.put_keeps | apply State.sendTo_keeps
    | apply State.setCte_keeps | apply keepsO_ok | apply keepsO_ite | apply keeps_ite | apply keeps_forAll | split
    | refine keeps_mk ?_ rfl rfl rfl rfl rfl | extract_lets

theorem execIdleMarkerTimer_keeps {s : State} (d : Nat) : KeepsO s (execIdleMarkerTimer d s) := by
  have h := Keeps.refl s
  unfold execIdleMarkerTimer
  with_reducible repeat' first
    | assumption | (intro _) | apply State.advance_keeps | apply State.sendMarker_keeps | apply keepsO_ok | apply keepsO_ite
    | apply keeps_ite | apply keeps_forAll | apply keeps_foldl | split | refine keeps_mk ?_ rfl rfl rfl rfl rfl
    | extract_lets

theorem State.openStint_keeps {s₀ s : State} (h : Keeps s₀ s) (d n : Nat) : Keeps s₀ (State.openStint s d n) := by
  unfold State.openStint
  with_reducible repeat' first
    | assumption | (intro _) | apply State.setCte_keeps | apply State.wrMem_keeps | apply keeps_ite | apply keeps_forAll
    | refine keeps_mk ?_ rfl rfl rfl rfl rfl | extract_lets

theorem State.commitFolio_keeps {s₀ s : State} (h : Keeps s₀ s) (d e k : Nat) (data : Option (List Word)) : Keeps s₀ (State.commitFolio s d e k data) := by
  unfold State.commitFolio
  with_reducible repeat' first
    | assumption | (intro _) | apply State.bumpBy_keeps | apply State.drop_keeps | apply State.openStint_keeps
    | apply State.pmU_keeps | apply State.showCte_keeps | apply State.take_keeps | apply State.wrMem_keeps
    | apply State.wrMems_keeps | apply keeps_forAll | extract_lets

theorem State.commitAbsent_keeps {s₀ s : State} (h : Keeps s₀ s) (d e a b : Nat) : Keeps s₀ (State.commitAbsent s d e a b) := by
  unfold State.commitAbsent
  with_reducible repeat' first
    | assumption | (intro _) | apply State.commitFolio_keeps | apply keeps_forAll

theorem State.advanceSegs_keeps {s₀ s : State} (h : Keeps s₀ s) (d n : Nat) : Keeps s₀ (State.advanceSegs s d n) := by
  induction n generalizing s with
  | zero => exact h
  | succ n ih =>
    unfold State.advanceSegs
    exact keeps_ite (ih (State.setCte_keeps (keeps_forAll h _ fun s e hs => State.commitFolio_keeps hs _ _ _ _) _ _)) h

theorem State.segments_keeps {s₀ s : State} (h : Keeps s₀ s) (d : Nat) : Keeps s₀ (State.segments s d) := by
  unfold State.segments
  with_reducible repeat' first
    | assumption | (intro _) | apply State.advanceSegs_keeps | apply State.fitAsm_keeps | apply keeps_foldl | extract_lets

theorem execDataPacket_keeps {s : State} (d : Nat) (p : Pkt) : KeepsO s (execDataPacket d p s) := by
  have h := Keeps.refl s
  unfold execDataPacket
  with_reducible repeat' first
    | assumption | apply State.fitAsm_keeps | apply State.setStream_keeps | apply State.takeInbox_keeps | apply keepsO_ok
    | apply keepsO_ite | apply keeps_ite | split | refine keeps_mk ?_ rfl rfl rfl rfl rfl | extract_lets

theorem State.sendRewind_keeps {s₀ s : State} (h : Keeps s₀ s) (d e folio : Nat) : Keeps s₀ (State.sendRewind s d e folio) := by
  unfold State.sendRewind
  with_reducible repeat' first
    | assumption | apply State.originate_keeps | apply State.raise_keeps

theorem State.onMarker_keeps {s₀ s : State} (h : Keeps s₀ s) (d e : Nat) (m : List Word) : Keeps s₀ (State.onMarker s d e m) := by
  unfold State.onMarker
  with_reducible repeat' first
    | assumption | apply State.bump_keeps | apply State.commitAbsent_keeps | apply State.commitFolio_keeps
    | apply State.put_keeps | apply State.raise_keeps | apply State.segments_keeps | apply State.sendRewind_keeps
    | apply State.setStream_keeps | apply State.showCte_keeps | apply keeps_ite | refine keeps_mk ?_ rfl rfl rfl rfl rfl
    | extract_lets

theorem execMarker_keeps {s : State} (d : Nat) (p : Pkt) : KeepsO s (execMarker d p s) := by
  have h := Keeps.refl s
  unfold execMarker
  with_reducible repeat' first
    | assumption | apply State.onMarker_keeps | apply State.showAsm_keeps | apply State.takeInbox_keeps | apply keepsO_ok
    | apply keepsO_ite | apply keeps_ite | split | refine keeps_mk ?_ rfl rfl rfl rfl rfl | extract_lets

theorem State.sendReports_keeps {s₀ s : State} (h : Keeps s₀ s) (d : Nat) : Keeps s₀ (State.sendReports s d) := by
  unfold State.sendReports
  with_reducible repeat' first
    | assumption | (intro _) | apply State.originate_keeps | apply State.setCte_keeps | apply keeps_forAll
    | refine keeps_mk ?_ rfl rfl rfl rfl rfl | extract_lets

theorem execCommitReportTimer_keeps {s : State} (d : Nat) : KeepsO s (execCommitReportTimer d s) := by
  have h := Keeps.refl s
  unfold execCommitReportTimer
  with_reducible repeat' first
    | assumption | apply State.advance_keeps | apply State.sendReports_keeps | apply keepsO_ok | apply keepsO_ite
    | apply keeps_ite

theorem execReportReceived_keeps {s : State} (d : Nat) (p : Pkt) : KeepsO s (execReportReceived d p s) := by
  have h := Keeps.refl s
  unfold execReportReceived
  with_reducible repeat' first
    | assumption | (intro _) | apply State.put_keeps | apply State.setDest_keeps | apply State.takeInbox_keeps
    | apply keepsO_ok | apply keepsO_ite | apply keeps_ite | apply keeps_forAll | split
    | refine keeps_mk ?_ rfl rfl rfl rfl rfl | extract_lets

theorem execStreamLost_keeps {s : State} (d e : Nat) : KeepsO s (execStreamLost d e s) := by
  have h := Keeps.refl s
  unfold execStreamLost
  with_reducible repeat' first
    | assumption | apply State.advance_keeps | apply State.emit_keeps | apply State.put_keeps | apply State.raise_keeps
    | apply State.segments_keeps | apply State.setStream_keeps | apply State.showCte_keeps | apply keepsO_ok
    | apply keepsO_ite | apply keeps_ite | refine keeps_mk ?_ rfl rfl rfl rfl rfl | extract_lets

theorem execDestLost_keeps {s : State} (d dev die : Nat) : KeepsO s (execDestLost d dev die s) := by
  have h := Keeps.refl s
  unfold execDestLost
  with_reducible repeat' first
    | assumption | (intro _) | apply State.advance_keeps | apply State.emit_keeps | apply State.put_keeps
    | apply State.raise_keeps | apply State.setDest_keeps | apply State.showCte_keeps | apply keepsO_ok | apply keepsO_ite
    | apply keeps_forAll | split | refine keeps_mk ?_ rfl rfl rfl rfl rfl | extract_lets

theorem State.rewindDie_keeps {s₀ s : State} (h : Keeps s₀ s) (d : Nat) (k : Option Nat) : Keeps s₀ (State.rewindDie s d k) := by
  unfold State.rewindDie
  with_reducible repeat' first
    | assumption | (intro _) | apply State.put_keeps | apply State.restoreCore_keeps | apply State.setCore_keeps
    | apply State.setCte_keeps | apply State.setFc_keeps | apply keeps_ite | apply keeps_forAll
    | refine keeps_mk ?_ rfl rfl rfl rfl rfl | extract_lets

theorem execRewindReceived_keeps {s : State} (d : Nat) (p : Pkt) : KeepsO s (execRewindReceived d p s) := by
  have h := Keeps.refl s
  unfold execRewindReceived
  with_reducible repeat' first
    | assumption | apply State.bump_keeps | apply State.emit_keeps | apply State.raise_keeps | apply State.rewindDie_keeps
    | apply State.setCte_keeps | apply State.takeInbox_keeps | apply keepsO_ok | apply keepsO_ite | apply keeps_ite | split
    | refine keeps_mk ?_ rfl rfl rfl rfl rfl | extract_lets

theorem State.syncStreams_keeps {s₀ s : State} (h : Keeps s₀ s) (d : Nat) : Keeps s₀ (State.syncStreams s d) := by
  unfold State.syncStreams
  with_reducible repeat' first
    | assumption | (intro _) | apply State.sendMarker_keeps | apply State.setCte_keeps | apply keeps_ite | apply keeps_forAll
    | refine keeps_mk ?_ rfl rfl rfl rfl rfl | extract_lets

theorem execQuietExpiry_keeps {s : State} (d : Nat) : KeepsO s (execQuietExpiry d s) := by
  have h := Keeps.refl s
  unfold execQuietExpiry
  with_reducible repeat' first
    | assumption | apply State.advance_keeps | apply State.syncStreams_keeps | apply keepsO_ok | apply keepsO_ite
    | apply keeps_ite

theorem State.cteWarm_keeps {s₀ s : State} (h : Keeps s₀ s) (d : Nat) : Keeps s₀ (State.cteWarm s d) := by
  unfold State.cteWarm
  with_reducible repeat' first
    | assumption | (intro _) | apply State.fitAsm_keeps | apply State.put_keeps | apply State.rewindDie_keeps
    | apply State.sendRewind_keeps | apply State.setCte_keeps | apply State.setStream_keeps | apply State.syncStreams_keeps
    | apply keeps_forAll | refine keeps_mk ?_ rfl rfl rfl rfl rfl | extract_lets

theorem State.cteStart_keeps {s₀ s : State} (h : Keeps s₀ s) (d k : Nat) : Keeps s₀ (State.cteStart s d k) := by
  unfold State.cteStart
  with_reducible repeat' first
    | assumption | (intro _) | apply State.put_keeps | apply State.setCte_keeps | apply State.setStream_keeps
    | apply State.showAsm_keeps | apply State.showCte_keeps | apply keeps_forAll | refine keeps_mk ?_ rfl rfl rfl rfl rfl
    | extract_lets

theorem State.cteResume_keeps {s₀ s : State} (h : Keeps s₀ s) (d k last : Nat) : Keeps s₀ (State.cteResume s d k last) := by
  unfold State.cteResume
  with_reducible repeat' first
    | assumption | (intro _) | apply State.put_keeps | apply State.segments_keeps | apply State.setCte_keeps
    | apply State.setStream_keeps | apply State.showAsm_keeps | apply State.showCte_keeps | apply keeps_ite
    | apply keeps_forAll | refine keeps_mk ?_ rfl rfl rfl rfl rfl | extract_lets

theorem State.endStreams_keeps {s₀ s : State} (h : Keeps s₀ s) (d : Nat) : Keeps s₀ (State.endStreams s d) := by
  unfold State.endStreams
  with_reducible repeat' first
    | assumption | (intro _) | apply State.put_keeps | apply State.sendMarker_keeps | apply keeps_forAll | extract_lets

theorem State.releaseStint_keeps {s₀ s : State} (h : Keeps s₀ s) (d n : Nat) : Keeps s₀ (State.releaseStint s d n) := by
  unfold State.releaseStint
  with_reducible repeat' first
    | assumption | (intro _) | apply State.sendReports_keeps | apply State.setCte_keeps | apply State.showAsm_keeps
    | apply State.showCte_keeps | refine keeps_mk ?_ rfl rfl rfl rfl rfl | extract_lets

end Sys2Proof.Machine
end

