-- ==== Sys2Proof/Laws/KeepsGallery.lean ====
section
/-! SUPPORT. What the operations of Gallery, Ledger, Trig, Beam keep. -/

namespace Sys2Proof.Machine

/-! ### Gallery -/

theorem State.setGal_keeps {s₀ s : State} (h : Keeps s₀ s) (d : Nat) (v : GalSt) : Keeps s₀ (State.setGal s d v) := by
  unfold State.setGal
  with_reducible repeat' first
    | assumption | (intro _) | apply State.put_keeps | refine keeps_mk ?_ rfl rfl rfl rfl rfl

theorem State.setLed_keeps {s₀ s : State} (h : Keeps s₀ s) (d : Nat) (v : LedSt) : Keeps s₀ (State.setLed s d v) := by
  unfold State.setLed
  with_reducible repeat' first
    | assumption | (intro _) | apply State.put_keeps | refine keeps_mk ?_ rfl rfl rfl rfl rfl

theorem State.showBank_keeps {s₀ s : State} (h : Keeps s₀ s) (d t b : Nat) (k : Bank) : Keeps s₀ (State.showBank s d t b k) := by
  unfold State.showBank
  with_reducible repeat' first
    | assumption | apply State.put_keeps | apply keeps_ite | split | refine keeps_mk ?_ rfl rfl rfl rfl rfl | extract_lets

theorem State.setTile_keeps {s₀ s : State} (h : Keeps s₀ s) (d t : Nat) (q : TileSt) : Keeps s₀ (State.setTile s d t q) := by
  unfold State.setTile
  with_reducible repeat' first
    | assumption | (intro _) | apply State.put_keeps | apply State.setGal_keeps | apply State.showBank_keeps
    | apply keeps_ite | refine keeps_mk ?_ rfl rfl rfl rfl rfl | extract_lets

theorem State.setLedHdr_keeps {s₀ s : State} (h : Keeps s₀ s) (d b : Nat) (w : Word) : Keeps s₀ (State.setLedHdr s d b w) := by
  unfold State.setLedHdr
  with_reducible repeat' first
    | assumption | (intro _) | apply State.put_keeps | apply State.setLed_keeps | apply State.wrMem_keeps | apply keeps_ite
    | refine keeps_mk ?_ rfl rfl rfl rfl rfl | extract_lets

theorem State.issueTo_keeps {s₀ s t : State} (h : Keeps s₀ s) {d lt : Nat} {o : WOrder} (e : State.issueTo s d lt o = some t) :
    Keeps s₀ t := by
  unfold State.issueTo at e
  split at e
  · cases e
  · extract_lets q at e
    split at e
    · cases e; exact State.setTile_keeps h _ _ _
    · cases e

theorem execWorkOrderIssue_keeps {s : State} (d lt : Nat) : KeepsO s (execWorkOrderIssue d lt s) := by
  have h := Keeps.refl s
  unfold execWorkOrderIssue
  refine keepsO_ite (keepsO_ok h) ?_
  split
  · split
    · exact keepsO_ok h
    · exact keepsO_ite (keepsO_ok (State.raise_keeps (State.bump_keeps (State.setTile_keeps (State.setGal_keeps h _ _) _ _ _) _) _))
        (keepsO_ok h)
  · split
    · split
      · exact keepsO_ok h
      · rename_i heq
        exact keepsO_ok (State.setGal_keeps (State.issueTo_keeps h heq) _ _)
    · extract_lets n i l
      split
      · exact keepsO_ok h
      · split
        · exact keepsO_ok h
        · rename_i heq
          have hk := State.issueTo_keeps h heq
          exact keepsO_ok (State.setGal_keeps hk _ _)

theorem execWorkOrderStart_keeps {s : State} (d t : Nat) : KeepsO s (execWorkOrderStart d t s) := by
  have h := Keeps.refl s
  unfold execWorkOrderStart
  with_reducible repeat' first
    | assumption | apply State.putBit_keeps | apply State.raise_keeps | apply State.setTile_keeps | apply keepsO_ok
    | apply keepsO_ite | apply keeps_ite | split | refine keeps_mk ?_ rfl rfl rfl rfl rfl | extract_lets

theorem State.countBusy_keeps {s₀ s : State} (h : Keeps s₀ s) (d t cyc : Nat) : Keeps s₀ (State.countBusy s d t cyc) := by
  unfold State.countBusy
  with_reducible repeat' first
    | assumption | apply State.bumpBy_keeps | apply State.pm_keeps | apply State.setTile_keeps
    | refine keeps_mk ?_ rfl rfl rfl rfl rfl | extract_lets

theorem execTileCycle_keeps {s : State} (d t : Nat) (err : Option (Nat × Int)) : KeepsO s (execTileCycle d t err s) := by
  have h := Keeps.refl s
  unfold execTileCycle
  with_reducible repeat' first
    | assumption | apply State.countBusy_keeps | apply State.setTile_keeps | apply keepsO_ok | apply keepsO_ite
    | apply keeps_ite | split | refine keeps_mk ?_ rfl rfl rfl rfl rfl | extract_lets

theorem State.requeue_keeps {s₀ s : State} (h : Keeps s₀ s) (d t lt : Nat) (os : List WOrder) : Keeps s₀ (State.requeue s d t lt os) := by
  unfold State.requeue
  with_reducible repeat' first
    | assumption | (intro _) | apply State.drop_keeps | apply State.setGal_keeps | apply State.setTile_keeps
    | apply State.take_keeps | refine keeps_mk ?_ rfl rfl rfl rfl rfl | extract_lets

theorem State.loseLt_keeps {s₀ s : State} (h : Keeps s₀ s) (d lt t : Nat) (os : List WOrder) : Keeps s₀ (State.loseLt s d lt t os) := by
  unfold State.loseLt
  with_reducible repeat' first
    | assumption | apply State.emit_keeps | apply State.raise_keeps | apply State.request_keeps | apply State.setGal_keeps
    | apply keeps_ite | refine keeps_mk ?_ rfl rfl rfl rfl rfl | extract_lets

theorem State.showGt_keeps {s₀ s : State} (h : Keeps s₀ s) (d : Nat) : Keeps s₀ (State.showGt s d) := by
  unfold State.showGt
  with_reducible repeat' first
    | assumption | apply State.put_keeps | apply keeps_ite | split | refine keeps_mk ?_ rfl rfl rfl rfl rfl

theorem State.lendTile_keeps {s₀ s : State} (h : Keeps s₀ s) (d t lt : Nat) : Keeps s₀ (State.lendTile s d t lt) := by
  unfold State.lendTile
  with_reducible repeat' first
    | assumption | (intro _) | apply State.loseLt_keeps | apply State.put_keeps | apply State.setGal_keeps
    | apply State.setTile_keeps | apply State.showGt_keeps | apply keeps_ite | refine keeps_mk ?_ rfl rfl rfl rfl rfl
    | extract_lets

theorem State.tileGivesUp_keeps {s₀ s : State} (h : Keeps s₀ s) (d t code : Nat) : Keeps s₀ (State.tileGivesUp s d t code) := by
  unfold State.tileGivesUp
  with_reducible repeat' first
    | assumption | (intro _) | apply State.advise_keeps | apply State.beginFault_keeps | apply State.charge_keeps
    | apply State.deaccUnit_keeps | apply State.lendTile_keeps | apply State.loseLt_keeps | apply State.putBit_keeps
    | apply State.put_keeps | apply State.setGal_keeps | apply State.setTile_keeps | apply State.setUnitState_keeps
    | apply State.showGt_keeps | apply keeps_ite | split | refine keeps_mk ?_ rfl rfl rfl rfl rfl | extract_lets

theorem State.sealBank_keeps {s₀ s : State} (h : Keeps s₀ s) (d t b : Nat) : Keeps s₀ (State.sealBank s d t b) := by
  unfold State.sealBank
  with_reducible repeat' first
    | assumption | apply State.bump_keeps | apply State.emitC_keeps | apply State.put_keeps | apply State.raise_keeps
    | apply State.setTile_keeps | apply State.tileGivesUp_keeps | apply keeps_ite | split
    | refine keeps_mk ?_ rfl rfl rfl rfl rfl | extract_lets

theorem execSealBank_keeps {s : State} (d t b : Nat) : KeepsO s (execSealBank d t b s) := by
  have h := Keeps.refl s
  unfold execSealBank
  with_reducible repeat' first
    | assumption | apply State.sealBank_keeps | apply keepsO_ok | apply keepsO_ite | apply keeps_ite

theorem State.takeOver_keeps {s₀ s : State} (h : Keeps s₀ s) (d : Nat) (l : GtLoan) : Keeps s₀ (State.takeOver s d l) := by
  unfold State.takeOver
  with_reducible repeat' first
    | assumption | (intro _) | apply State.bumpBy_keeps | apply State.bump_keeps | apply State.emit_keeps
    | apply State.put_keeps | apply State.raise_keeps | apply State.recoverFault_keeps | apply State.requeue_keeps
    | apply State.setGal_keeps | apply State.setTile_keeps | apply State.showGt_keeps | apply keeps_ite
    | refine keeps_mk ?_ rfl rfl rfl rfl rfl | extract_lets

theorem execTileBistDone_keeps {s : State} (d t : Nat) (pass : Bool) : KeepsO s (execTileBistDone d t pass s) := by
  have h := Keeps.refl s
  unfold execTileBistDone
  with_reducible repeat' first
    | assumption | (intro _) | apply State.bumpBy_keeps | apply State.emit_keeps | apply State.put_keeps
    | apply State.raise_keeps | apply State.requeue_keeps | apply State.setTile_keeps | apply State.takeOver_keeps
    | apply State.tileGivesUp_keeps | apply keepsO_ok | apply keepsO_ite | apply keeps_ite | apply keeps_forAll
    | apply keeps_when | split | refine keeps_mk ?_ rfl rfl rfl rfl rfl | extract_lets

theorem execTileWatchdog_keeps {s : State} (d t : Nat) (off : Bool) : KeepsO s (execTileWatchdog d t s off) := by
  have h := Keeps.refl s
  unfold execTileWatchdog
  with_reducible repeat' first
    | assumption | (intro _) | apply State.advance_keeps | apply State.raise_keeps | apply State.sealBank_keeps
    | apply State.tileGivesUp_keeps | apply keepsO_ok | apply keepsO_ite | apply keeps_ite | apply keeps_forAll
    | apply keeps_when | extract_lets

theorem execTileRetest_keeps {s : State} (d t : Nat) (pass : Bool) : KeepsO s (execTileRetest d t pass s) := by
  have h := Keeps.refl s
  unfold execTileRetest
  with_reducible repeat' first
    | assumption | apply State.advance_keeps | apply State.bump_keeps | apply State.put_keeps | apply State.raise_keeps
    | apply State.setTile_keeps | apply keepsO_ok | apply keepsO_ite | apply keeps_ite
    | refine keeps_mk ?_ rfl rfl rfl rfl rfl | extract_lets

theorem State.showDone_keeps {s₀ s : State} (h : Keeps s₀ s) (d n : Nat) : Keeps s₀ (State.showDone s d n) := by
  induction n generalizing s with
  | zero => exact h
  | succ n ih =>
    unfold State.showDone
    exact keeps_ite (ih (State.put_keeps (State.setGal_keeps h _ _) _ _)) h

theorem State.endReturn_keeps {s₀ s : State} (h : Keeps s₀ s) (d : Nat) : Keeps s₀ (State.endReturn s d) := by
  unfold State.endReturn
  with_reducible repeat' first
    | assumption | (intro _) | apply State.emit_keeps | apply State.put_keeps | apply State.raise_keeps
    | apply State.setGal_keeps | apply State.showGt_keeps | apply keeps_ite | split | refine keeps_mk ?_ rfl rfl rfl rfl rfl
    | extract_lets

theorem State.rerunDone_keeps {s₀ s : State} (h : Keeps s₀ s) (d : Nat) : Keeps s₀ (State.rerunDone s d) := by
  unfold State.rerunDone
  with_reducible repeat' first
    | assumption | apply State.recoverFault_keeps | apply State.setGal_keeps | apply keeps_ite | split
    | refine keeps_mk ?_ rfl rfl rfl rfl rfl

theorem execDrainAck_keeps {s : State} (d t b : Nat) : KeepsO s (execDrainAck d t b s) := by
  have h := Keeps.refl s
  unfold execDrainAck
  with_reducible repeat' first
    | assumption | apply State.bump_keeps | apply State.endReturn_keeps | apply State.pm_keeps | apply State.rerunDone_keeps
    | apply State.setTile_keeps | apply State.showDone_keeps | apply keepsO_ok | apply keepsO_ite | apply keeps_ite | split
    | refine keeps_mk ?_ rfl rfl rfl rfl rfl | extract_lets

theorem State.tileBack_keeps {s₀ s : State} (h : Keeps s₀ s) (d t : Nat) : Keeps s₀ (State.tileBack s d t) := by
  unfold State.tileBack
  with_reducible repeat' first
    | assumption | apply State.put_keeps | apply State.setUnitState_keeps

theorem State.startReturn_keeps {s₀ s : State} (h : Keeps s₀ s) (d n : Nat) : Keeps s₀ (State.startReturn s d n) := by
  unfold State.startReturn
  with_reducible repeat' first
    | assumption | (intro _) | apply State.endReturn_keeps | apply State.setGal_keeps | apply State.setTile_keeps
    | apply State.tileBack_keeps | apply keeps_ite | apply keeps_foldl | split | refine keeps_mk ?_ rfl rfl rfl rfl rfl
    | extract_lets

theorem State.spareCheck_keeps {s₀ s : State} (h : Keeps s₀ s) (d : Nat) : Keeps s₀ (State.spareCheck s d) := by
  unfold State.spareCheck
  with_reducible repeat' first
    | assumption | apply State.unrequest_keeps | apply keeps_ite

theorem State.retireBlock_keeps {s₀ s : State} (h : Keeps s₀ s) (d b n : Nat) (force : Bool) : Keeps s₀ (State.retireBlock s d b n force) := by
  unfold State.retireBlock
  with_reducible repeat' first
    | assumption | apply State.setLedHdr_keeps | apply keeps_ite | extract_lets

theorem State.settleLost_keeps {s₀ s : State} (h : Keeps s₀ s) (d n : Nat) (x : LostTile) : Keeps s₀ (State.settleLost s d n x) := by
  unfold State.settleLost
  with_reducible repeat' first
    | assumption | (intro _) | apply State.emit_keeps | apply State.put_keeps | apply State.raise_keeps
    | apply State.recoverFault_keeps | apply State.retireBlock_keeps | apply State.setGal_keeps | apply State.setLed_keeps
    | apply keeps_ite | apply keeps_forAll | split | refine keeps_mk ?_ rfl rfl rfl rfl rfl | extract_lets

theorem State.unlose_keeps {s₀ s : State} (h : Keeps s₀ s) (d n : Nat) (x : LostTile) : Keeps s₀ (State.unlose s d n x) := by
  unfold State.unlose
  with_reducible repeat' first
    | assumption | (intro _) | apply State.emit_keeps | apply State.put_keeps | apply State.raise_keeps
    | apply State.setGal_keeps | apply State.setLed_keeps | apply State.setTile_keeps | apply State.spareCheck_keeps
    | apply State.tileBack_keeps | apply keeps_forAll | refine keeps_mk ?_ rfl rfl rfl rfl rfl | extract_lets

theorem State.galBoundary_keeps {s₀ s : State} (h : Keeps s₀ s) (d n : Nat) : Keeps s₀ (State.galBoundary s d n) := by
  unfold State.galBoundary
  with_reducible repeat' first
    | assumption | (intro _) | apply State.put_keeps | apply State.setGal_keeps | apply State.setUnitState_keeps
    | apply State.settleLost_keeps | apply State.showDone_keeps | apply State.showGt_keeps | apply State.startReturn_keeps
    | apply State.unlose_keeps | apply keeps_ite | apply keeps_forAll | refine keeps_mk ?_ rfl rfl rfl rfl rfl | extract_lets

theorem State.galStart_keeps {s₀ s : State} (h : Keeps s₀ s) (d n : Nat) : Keeps s₀ (State.galStart s d n) := by
  unfold State.galStart
  with_reducible repeat' first
    | assumption | (intro _) | apply State.put_keeps | apply State.setGal_keeps | apply State.setTile_keeps | apply keeps_ite
    | apply keeps_forAll | apply keeps_foldl | refine keeps_mk ?_ rfl rfl rfl rfl rfl | extract_lets

theorem State.galResume_keeps {s₀ s : State} (h : Keeps s₀ s) (d : Nat) : Keeps s₀ (State.galResume s d) := by
  unfold State.galResume
  with_reducible repeat' first
    | assumption | (intro _) | apply State.put_keeps | apply State.setGal_keeps | apply keeps_foldl
    | refine keeps_mk ?_ rfl rfl rfl rfl rfl | extract_lets

theorem State.galWarm_keeps {s₀ s : State} (h : Keeps s₀ s) (d : Nat) : Keeps s₀ (State.galWarm s d) := by
  unfold State.galWarm
  with_reducible repeat' first
    | assumption | apply State.galStart_keeps | apply State.setGal_keeps | refine keeps_mk ?_ rfl rfl rfl rfl rfl
    | extract_lets

/-! ### Ledger -/

theorem State.setGroup_keeps {s₀ s : State} (h : Keeps s₀ s) (d b g : Nat) (es : List LedEntry) : Keeps s₀ (State.setGroup s d b g es) := by
  unfold State.setGroup
  with_reducible repeat' first
    | assumption | apply State.wrMems_keeps | extract_lets

theorem State.poisonGroup_keeps {s₀ s : State} (h : Keeps s₀ s) (d b g nsi : Nat) : Keeps s₀ (State.poisonGroup s d b g nsi) := by
  unfold State.poisonGroup
  with_reducible repeat' first
    | assumption | apply State.bump_keeps | apply State.raise_keeps | apply State.setGroup_keeps

theorem State.countUpdates_keeps {s₀ s : State} (h : Keeps s₀ s) (d n : Nat) : Keeps s₀ (State.countUpdates s d n) := by
  unfold State.countUpdates
  with_reducible repeat' first
    | assumption | apply State.pmU_keeps | apply State.put_keeps | apply State.setLed_keeps | apply keeps_ite
    | refine keeps_mk ?_ rfl rfl rfl rfl rfl | extract_lets

theorem State.applyGroup_keeps {s₀ s : State} (h : Keeps s₀ s) (d b k : Nat) (cell : Nat → Acc3) (bad : List Nat) (g : Nat)
    (fl : Bool × Bool) : Keeps s₀ (State.applyGroup s d b k cell bad g fl).1 := by
  unfold State.applyGroup
  split
  · exact State.emit_keeps (State.poisonGroup_keeps (State.uncorr_keeps h _ _ _ _) _ _ _ _) _ _ _ _ _ _
  · extract_lets e es w
    split
    · exact State.raise_keeps (State.bump_keeps h _) _
    · split
      · exact State.emit_keeps (State.poisonGroup_keeps h _ _ _ _) _ _ _ _ _ _
      · exact State.countUpdates_keeps (keeps_when (State.setGroup_keeps h _ _ _ _) _ fun s hs => State.raise_keeps hs _) _ _

theorem State.ackRecord_keeps {s₀ s : State} (h : Keeps s₀ s) (d t b : Nat) : Keeps s₀ (State.ackRecord s d t b) := by
  unfold State.ackRecord
  with_reducible repeat' first
    | assumption | apply State.drop_keeps | apply State.setLed_keeps | apply State.setTile_keeps | apply keeps_ite
    | refine keeps_mk ?_ rfl rfl rfl rfl rfl | extract_lets

theorem State.skipRecord_keeps {s₀ s : State} (h : Keeps s₀ s) (d t b : Nat) : Keeps s₀ (State.skipRecord s d t b) := by
  unfold State.skipRecord
  with_reducible repeat' first
    | assumption | apply State.ackRecord_keeps | apply State.bump_keeps | apply State.pmU_keeps | apply State.raise_keeps

theorem State.hdrWaits_keeps {s₀ s : State} (h : Keeps s₀ s) (d t b blk : Nat) (w : Word) : Keeps s₀ (State.hdrWaits s d t b blk w) := by
  unfold State.hdrWaits
  with_reducible repeat' first
    | assumption | apply State.setLed_keeps | refine keeps_mk ?_ rfl rfl rfl rfl rfl

theorem State.poisonBlock_keeps {s₀ s : State} (h : Keeps s₀ s) (d blk : Nat) : Keeps s₀ (State.poisonBlock s d blk) := by
  unfold State.poisonBlock
  with_reducible repeat' first
    | assumption | (intro _) | apply State.emit_keeps | apply State.poisonGroup_keeps | apply State.uncorr_keeps
    | apply keeps_forAll

theorem State.firstRecord_keeps {s₀ s : State} (h : Keeps s₀ s) (d blk : Nat) (cell : Nat → Acc3) : Keeps s₀ (State.firstRecord s d blk cell) := by
  unfold State.firstRecord
  with_reducible repeat' first
    | assumption | (intro _) | apply State.countUpdates_keeps | apply State.setGroup_keeps | apply keeps_forAll

theorem State.applyGroups_keeps {s₀ s : State} (h : Keeps s₀ s) (d blk lo : Nat) (bad : List Nat) (cell : Nat → Acc3) :
    Keeps s₀ (State.applyGroups s d blk lo bad cell).1 := by
  unfold State.applyGroups
  generalize (false, false) = fl
  generalize List.range 128 = l
  induction l generalizing s fl with
  | nil => exact h
  | cons g l ih => exact ih (State.applyGroup_keeps h _ _ _ _ _ _ _) _

theorem State.blockFull_keeps {s₀ s : State} (h : Keeps s₀ s) (d t b blk : Nat) (h : Word) : Keeps s₀ (State.blockFull s d t b blk h) := by
  unfold State.blockFull
  with_reducible repeat' first
    | assumption | apply State.ackRecord_keeps | apply State.bump_keeps | apply State.emit_keeps | apply State.pmU_keeps
    | apply State.raise_keeps | apply State.setLedHdr_keeps

theorem State.applyRecord_keeps {s₀ s : State} (h : Keeps s₀ s) (d t b blk n : Nat) (subst badHdr : Bool) (bad : List Nat) (cell : Nat → Acc3) : Keeps s₀ (State.applyRecord s d t b blk n subst badHdr bad cell) := by
  unfold State.applyRecord
  with_reducible repeat' first
    | assumption | apply State.applyGroups_keeps | apply State.blockFull_keeps | apply State.firstRecord_keeps
    | apply State.hdrWaits_keeps | apply State.poisonBlock_keeps | apply keeps_ite | extract_lets

theorem State.ledState_keeps {s₀ s : State} (h : Keeps s₀ s) (d v : Nat) : Keeps s₀ (State.ledState s d v) := by
  unfold State.ledState
  with_reducible repeat' first
    | assumption | apply State.put_keeps

theorem execDrainRecord_keeps {s : State} (d t b : Nat) (badHdr : Bool) (bad : List Nat) : KeepsO s (execDrainRecord d t b badHdr bad s) := by
  have h := Keeps.refl s
  unfold execDrainRecord
  with_reducible repeat' first
    | assumption | (intro _) | apply State.applyRecord_keeps | apply State.ledState_keeps | apply State.setLed_keeps
    | apply State.skipRecord_keeps | apply keepsO_ok | apply keepsO_ite | apply keeps_ite | split
    | refine keeps_mk ?_ rfl rfl rfl rfl rfl | extract_lets

theorem execGapTimeout_keeps {s : State} (d t b : Nat) : KeepsO s (execGapTimeout d t b s) := by
  have h := Keeps.refl s
  unfold execGapTimeout
  with_reducible repeat' first
    | assumption | (intro _) | apply State.advance_keeps | apply State.bump_keeps | apply State.drop_keeps
    | apply State.emit_keeps | apply State.ledState_keeps | apply State.raise_keeps | apply State.setGal_keeps
    | apply State.setLed_keeps | apply State.setTile_keeps | apply State.take_keeps | apply keepsO_ok | apply keepsO_ite
    | apply keeps_ite | split | refine keeps_mk ?_ rfl rfl rfl rfl rfl | extract_lets

theorem State.showApplied_keeps {s₀ s : State} (h : Keeps s₀ s) (d : Nat) : Keeps s₀ (State.showApplied s d) := by
  unfold State.showApplied
  with_reducible repeat' first
    | assumption | (intro _) | apply State.put_keeps | apply keeps_ite | apply keeps_foldl | extract_lets

theorem execHeaderWrite_keeps {s : State} (d : Nat) : KeepsO s (execHeaderWrite d s) := by
  have h := Keeps.refl s
  unfold execHeaderWrite
  with_reducible repeat' first
    | assumption | (intro _) | apply State.ackRecord_keeps | apply State.bump_keeps | apply State.ledState_keeps
    | apply State.retireBlock_keeps | apply State.setLedHdr_keeps | apply State.setLed_keeps | apply State.showApplied_keeps
    | apply keepsO_ok | apply keepsO_ite | split | refine keeps_mk ?_ rfl rfl rfl rfl rfl | extract_lets

theorem State.showDumps_keeps {s₀ s : State} (h : Keeps s₀ s) (d : Nat) : Keeps s₀ (State.showDumps s d) := by
  unfold State.showDumps
  with_reducible repeat' first
    | assumption | (intro _) | apply State.putBit_keeps | apply State.put_keeps | apply keeps_forAll | extract_lets

theorem State.closeSet_keeps {s₀ s : State} (h : Keeps s₀ s) (d x n : Nat) : Keeps s₀ (State.closeSet s d x n) := by
  unfold State.closeSet
  with_reducible repeat' first
    | assumption | apply State.put_keeps | apply State.setLed_keeps | apply State.showDumps_keeps | apply keeps_ite | split
    | refine keeps_mk ?_ rfl rfl rfl rfl rfl | extract_lets

theorem State.ledBoundary_keeps {s₀ s : State} (h : Keeps s₀ s) (d n : Nat) : Keeps s₀ (State.ledBoundary s d n) := by
  unfold State.ledBoundary
  with_reducible repeat' first
    | assumption | (intro _) | apply State.closeSet_keeps | apply keeps_ite | apply keeps_forAll

theorem State.endDump_keeps {s₀ s : State} (h : Keeps s₀ s) (d : Nat) (r : DumpRun) : Keeps s₀ (State.endDump s d r) := by
  unfold State.endDump
  with_reducible repeat' first
    | assumption | (intro _) | apply State.closeSet_keeps | apply State.finish_keeps | apply State.put_keeps
    | apply State.raise_keeps | apply State.setLed_keeps | apply State.showDumps_keeps | apply keeps_ite | split
    | refine keeps_mk ?_ rfl rfl rfl rfl rfl | extract_lets

theorem State.dumpPoison_keeps {s₀ s : State} (h : Keeps s₀ s) (d blk n : Nat) (badHdr : Bool) (bad : List Nat) : Keeps s₀ (State.dumpPoison s d blk n badHdr bad) := by
  unfold State.dumpPoison
  with_reducible repeat' first
    | assumption | (intro _) | apply State.emit_keeps | apply State.poisonGroup_keeps | apply State.setLedHdr_keeps
    | apply State.uncorr_keeps | apply keeps_ite | apply keeps_forAll | extract_lets

theorem execDumpUnit_keeps {s : State} (d dset : Nat) (badHdr : Bool) (bad : List Nat) : KeepsO s (execDumpUnit d dset badHdr bad s) := by
  have h := Keeps.refl s
  unfold execDumpUnit
  with_reducible repeat' first
    | assumption | (intro _) | apply State.dumpPoison_keeps | apply State.endDump_keeps | apply State.put_keeps
    | apply State.setLed_keeps | apply keepsO_ok | apply keepsO_ite | apply keeps_ite | split
    | refine keeps_mk ?_ rfl rfl rfl rfl rfl | extract_lets

theorem State.dumpCommitted_keeps {s₀ s : State} (h : Keeps s₀ s) (d set n blk : Nat) : Keeps s₀ (State.dumpCommitted s d set n blk) := by
  unfold State.dumpCommitted
  with_reducible repeat' first
    | assumption | (intro _) | apply State.setLed_keeps | apply keeps_ite | refine keeps_mk ?_ rfl rfl rfl rfl rfl
    | extract_lets

theorem execLedgerClear_keeps {s : State} (d blk : Nat) : KeepsO s (execLedgerClear d blk s) := by
  have h := Keeps.refl s
  unfold execLedgerClear
  with_reducible repeat' first
    | assumption | (intro _) | apply State.setLedHdr_keeps | apply State.setLed_keeps | apply keepsO_ok | apply keepsO_ite
    | split | refine keeps_mk ?_ rfl rfl rfl rfl rfl | extract_lets

theorem State.doDump_keeps {s₀ s : State} (h : Keeps s₀ s) (c : CmdHdr) (dies dset : Nat) : Keeps s₀ (State.doDump s c dies dset) := by
  unfold State.doDump
  with_reducible repeat' first
    | assumption | (intro _) | apply State.closeSet_keeps | apply State.complete_keeps | apply State.inMode_keeps
    | apply State.run_keeps | apply keeps_ite | apply keeps_forAll | split | refine keeps_mk ?_ rfl rfl rfl rfl rfl
    | extract_lets

theorem execDump_keeps {s : State} (c : CmdHdr) (dies dset : Nat) : KeepsO s (execDump c dies dset s) := by
  have h := Keeps.refl s
  unfold execDump
  with_reducible repeat' first
    | assumption | apply State.doDump_keeps | apply keepsO_ok | apply keepsO_ite

theorem State.ledInit_keeps {s₀ s : State} (h : Keeps s₀ s) (d : Nat) : Keeps s₀ (State.ledInit s d) := by
  unfold State.ledInit
  with_reducible repeat' first
    | assumption | (intro _) | apply State.setLedHdr_keeps | apply State.setLed_keeps | apply keeps_forAll

theorem State.ledStart_keeps {s₀ s : State} (h : Keeps s₀ s) (d n : Nat) (first : Bool) : Keeps s₀ (State.ledStart s d n first) := by
  unfold State.ledStart
  with_reducible repeat' first
    | assumption | (intro _) | apply State.put_keeps | apply keeps_ite | apply keeps_forAll | extract_lets

theorem State.ledWarm_keeps {s₀ s : State} (h : Keeps s₀ s) (d : Nat) : Keeps s₀ (State.ledWarm s d) := by
  unfold State.ledWarm
  with_reducible repeat' first
    | assumption | apply State.setLed_keeps | refine keeps_mk ?_ rfl rfl rfl rfl rfl

theorem State.dumpOnSwitch_keeps {s₀ s : State} (h : Keeps s₀ s) (d n : Nat) : Keeps s₀ (State.dumpOnSwitch s d n) := by
  unfold State.dumpOnSwitch
  with_reducible repeat' first
    | assumption | (intro _) | apply State.closeSet_keeps | apply keeps_ite | apply keeps_forAll

/-! ### Trig -/


/-! ### Beam -/

theorem State.setBe_keeps {s₀ s : State} (h : Keeps s₀ s) (d : Nat) (v : BeSt) : Keeps s₀ (State.setBe s d v) := by
  unfold State.setBe
  with_reducible repeat' first
    | assumption | (intro _) | apply State.put_keeps | refine keeps_mk ?_ rfl rfl rfl rfl rfl

theorem State.setPendDesc_keeps {s₀ s : State} (h : Keeps s₀ s) (d b grain : Nat) (ws : List Word) : Keeps s₀ (State.setPendDesc s d b grain ws) := by
  unfold State.setPendDesc
  with_reducible repeat' first
    | assumption | (intro _) | apply State.put_keeps | apply keeps_forAll | extract_lets

theorem State.doBeamSet_keeps {s₀ s : State} (h : Keeps s₀ s) (c : CmdHdr) (d b : Nat) (ws : List Word) : Keeps s₀ (State.doBeamSet s c d b ws) := by
  unfold State.doBeamSet
  with_reducible repeat' first
    | assumption | (intro _) | apply State.complete_keeps | apply State.inMode_keeps | apply State.setPendDesc_keeps
    | apply keeps_ite

theorem execBeamSet_keeps {s : State} (c : CmdHdr) (d b : Nat) (ws : List Word) : KeepsO s (execBeamSet c d b ws s) := by
  have h := Keeps.refl s
  unfold execBeamSet
  with_reducible repeat' first
    | assumption | apply State.doBeamSet_keeps | apply keepsO_ok | apply keepsO_ite

theorem State.beDrop_keeps {s₀ s : State} (h : Keeps s₀ s) (e i k : Nat) : Keeps s₀ (State.beDrop s e i k) := by
  unfold State.beDrop
  with_reducible repeat' first
    | assumption | (intro _) | apply State.raise_keeps | apply State.setBe_keeps | apply keeps_ite | apply keeps_forAll
    | apply keeps_when | refine keeps_mk ?_ rfl rfl rfl rfl rfl | extract_lets

theorem State.beJoin_keeps {s₀ s : State} (h : Keeps s₀ s) (e i k : Nat) : Keeps s₀ (State.beJoin s e i k) := by
  unfold State.beJoin
  with_reducible repeat' first
    | assumption | (intro _) | apply State.setBe_keeps | apply keeps_ite | apply keeps_forAll
    | refine keeps_mk ?_ rfl rfl rfl rfl rfl | extract_lets

theorem State.beRate_keeps {s₀ s : State} (h : Keeps s₀ s) (d delays cycles : Nat) : Keeps s₀ (State.beRate s d delays cycles) := by
  unfold State.beRate
  with_reducible repeat' first
    | assumption | apply State.put_keeps | apply State.setBe_keeps | apply keeps_ite | refine keeps_mk ?_ rfl rfl rfl rfl rfl
    | extract_lets

theorem State.activate_keeps {s₀ s : State} (h : Keeps s₀ s) (d f b : Nat) : Keeps s₀ (State.activate s d f b) := by
  unfold State.activate
  with_reducible repeat' first
    | assumption | (intro _) | apply State.put_keeps | apply keeps_ite | apply keeps_forAll | extract_lets

theorem execUpdateInterval_keeps {s : State} (d k : Nat) : KeepsO s (execUpdateInterval d k s) := by
  have h := Keeps.refl s
  unfold execUpdateInterval
  with_reducible repeat' first
    | assumption | (intro _) | apply State.activate_keeps | apply State.beRate_keeps | apply State.pmU_keeps
    | apply State.put_keeps | apply State.setBe_keeps | apply keepsO_ok | apply keepsO_ite | apply keeps_ite
    | apply keeps_forAll | apply keeps_foldl | refine keeps_mk ?_ rfl rfl rfl rfl rfl | extract_lets

theorem State.feedDets_keeps {s₀ s : State} (h : Keeps s₀ s) (d b j k t val : Nat) (bad : Bool) : Keeps s₀ (State.feedDets s d b j k t val bad) := by
  unfold State.feedDets
  with_reducible repeat' first
    | assumption | (intro _) | apply State.put_keeps | apply State.setBe_keeps | apply keeps_ite | apply keeps_forAll
    | refine keeps_mk ?_ rfl rfl rfl rfl rfl | extract_lets

theorem State.detect_keeps {s₀ s : State} (h : Keeps s₀ s) (d j : Nat) (w : List Word) (val n : Nat) : Keeps s₀ (State.detect s d j w val n) := by
  unfold State.detect
  with_reducible repeat' first
    | assumption | (intro _) | apply State.put_keeps | apply State.setBe_keeps | refine keeps_mk ?_ rfl rfl rfl rfl rfl
    | extract_lets

theorem State.flagBeam_keeps {s₀ s : State} (h : Keeps s₀ s) (d j : Nat) (w : List Word) : Keeps s₀ (State.flagBeam s d j w) := by
  unfold State.flagBeam
  with_reducible repeat' first
    | assumption | apply State.setBe_keeps | apply keeps_ite | refine keeps_mk ?_ rfl rfl rfl rfl rfl | extract_lets

theorem State.voltSample_keeps {s₀ s : State} (h : Keeps s₀ s) (d b k : Nat) (w : List Word) (x : Samp) (last : Bool) : Keeps s₀ (State.voltSample s d b k w x last) := by
  unfold State.voltSample
  with_reducible repeat' first
    | assumption | (intro _) | apply State.put_keeps | apply State.setBe_keeps | apply keeps_ite
    | refine keeps_mk ?_ rfl rfl rfl rfl rfl | extract_lets

theorem State.formBeam_keeps {s₀ s : State} (h : Keeps s₀ s) (d k j t : Nat) (last : Bool) (taus : Store Int) (b : Nat) (w : List Word) : Keeps s₀ (State.formBeam s d k j t last taus b w) := by
  unfold State.formBeam
  with_reducible repeat' first
    | assumption | (intro _) | apply State.detect_keeps | apply State.feedDets_keeps | apply State.flagBeam_keeps
    | apply State.raise_keeps | apply State.voltSample_keeps | apply keeps_ite | apply keeps_foldl | apply keeps_when
    | extract_lets

theorem State.beSave_keeps {s₀ s : State} (h : Keeps s₀ s) (d : Nat) : Keeps s₀ (State.beSave s d) := by
  unfold State.beSave
  with_reducible repeat' first
    | assumption | apply State.setBe_keeps | refine keeps_mk ?_ rfl rfl rfl rfl rfl | extract_lets

theorem State.beRestart_keeps {s₀ s : State} (h : Keeps s₀ s) (d : Nat) : Keeps s₀ (State.beRestart s d) := by
  unfold State.beRestart
  with_reducible repeat' first
    | assumption | (intro _) | apply State.setBe_keeps | apply State.wr_keeps | apply keeps_forAll
    | refine keeps_mk ?_ rfl rfl rfl rfl rfl | extract_lets

theorem State.beMismatch_keeps {s₀ s : State} (h : Keeps s₀ s) (d : Nat) : Keeps s₀ (State.beMismatch s d) := by
  unfold State.beMismatch
  with_reducible repeat' first
    | assumption | apply State.beRestart_keeps | apply State.beginFault_keeps | apply State.bump_keeps
    | apply State.charge_keeps | apply State.deaccUnit_keeps | apply State.emitC_keeps | apply State.emit_keeps
    | apply State.put_keeps | apply State.raise_keeps | apply State.recoverFault_keeps | apply State.request_keeps
    | apply State.setBe_keeps | apply keeps_ite | refine keeps_mk ?_ rfl rfl rfl rfl rfl | extract_lets

theorem execBeamPass_keeps {s : State} (d p : Nat) (bad : Bool) : KeepsO s (execBeamPass d p bad s) := by
  have h := Keeps.refl s
  unfold execBeamPass
  with_reducible repeat' first
    | assumption | (intro _) | apply State.beMismatch_keeps | apply State.beRate_keeps | apply State.formBeam_keeps
    | apply State.put_keeps | apply State.setBe_keeps | apply keepsO_ok | apply keepsO_ite | apply keeps_ite
    | apply keeps_forAll | split | refine keeps_mk ?_ rfl rfl rfl rfl rfl | extract_lets

theorem State.beBoundary_keeps {s₀ s : State} (h : Keeps s₀ s) (d n : Nat) : Keeps s₀ (State.beBoundary s d n) := by
  unfold State.beBoundary
  with_reducible repeat' first
    | assumption | (intro _) | apply State.beSave_keeps | apply State.put_keeps | apply State.setBe_keeps
    | apply State.setLed_keeps | apply keeps_ite | refine keeps_mk ?_ rfl rfl rfl rfl rfl | extract_lets

theorem State.useCrossings_keeps {s₀ s : State} (h : Keeps s₀ s) (d g : Nat) (used : List Crossing) : Keeps s₀ (State.useCrossings s d g used) := by
  unfold State.useCrossings
  with_reducible repeat' first
    | assumption | (intro _) | apply State.put_keeps | apply State.setBe_keeps | refine keeps_mk ?_ rfl rfl rfl rfl rfl
    | extract_lets

theorem State.countFire_keeps {s₀ s : State} (h : Keeps s₀ s) (d g time : Nat) : Keeps s₀ (State.countFire s d g time) := by
  unfold State.countFire
  with_reducible repeat' first
    | assumption | apply State.bump_keeps | apply State.raise_keeps | apply State.setBe_keeps
    | refine keeps_mk ?_ rfl rfl rfl rfl rfl

theorem State.fireVit_keeps {s₀ s : State} (h : Keeps s₀ s) (d g time : Nat) : Keeps s₀ (State.fireVit s d g time).1 := by
  unfold State.fireVit
  extract_lets w s1 t
  have ht : Keeps s₀ t.1 := State.trigger_keeps (State.serveVits_keeps h _) _ _ _ _ _ _
  split
  · split
    · exact State.put_keeps ht _ _
    · exact ht
  · exact h

theorem State.fire_keeps {s₀ s : State} (h : Keeps s₀ s) (d g : Nat) (used : List Crossing) : Keeps s₀ (State.fire s d g used) := by
  unfold State.fire
  with_reducible repeat' first
    | assumption | (intro _) | apply State.countFire_keeps | apply State.fireVit_keeps | apply State.queueEvt_keeps
    | apply State.useCrossings_keeps | apply keeps_ite | apply keeps_foldl | split | refine keeps_mk ?_ rfl rfl rfl rfl rfl
    | extract_lets

theorem State.crossing_keeps {s₀ s : State} (h : Keeps s₀ s) (d m : Nat) (c : Crossing) : Keeps s₀ (State.crossing s d m c) := by
  unfold State.crossing
  with_reducible repeat' first
    | assumption | (intro _) | apply State.bump_keeps | apply State.fire_keeps | apply State.put_keeps
    | apply State.setBe_keeps | apply keeps_ite | refine keeps_mk ?_ rfl rfl rfl rfl rfl | extract_lets

theorem execTriggerSample_keeps {s : State} (d m : Nat) : KeepsO s (execTriggerSample d m s) := by
  have h := Keeps.refl s
  unfold execTriggerSample
  with_reducible repeat' first
    | assumption | (intro _) | apply State.crossing_keeps | apply State.put_keeps | apply State.setBe_keeps | apply keepsO_ok
    | apply keepsO_ite | apply keeps_ite | split | refine keeps_mk ?_ rfl rfl rfl rfl rfl | extract_lets

theorem execShortIntegrationBoundary_keeps {s : State} (d n : Nat) : KeepsO s (execShortIntegrationBoundary d n s) := by
  have h := Keeps.refl s
  unfold execShortIntegrationBoundary
  with_reducible repeat' first
    | assumption | apply State.advance_keeps | apply State.beBoundary_keeps | apply State.galBoundary_keeps
    | apply State.ledBoundary_keeps | apply keepsO_ok | apply keepsO_ite | apply keeps_ite | extract_lets

theorem execStintSlotRelease_keeps {s : State} (d n : Nat) : KeepsO s (execStintSlotRelease d n s) := by
  have h := Keeps.refl s
  unfold execStintSlotRelease
  with_reducible repeat' first
    | assumption | apply State.releaseStint_keeps | apply keepsO_ok | apply keepsO_ite | apply keeps_ite

theorem State.beStart_keeps {s₀ s : State} (h : Keeps s₀ s) (d k : Nat) : Keeps s₀ (State.beStart s d k) := by
  unfold State.beStart
  with_reducible repeat' first
    | assumption | (intro _) | apply State.beSave_keeps | apply State.put_keeps | apply State.setBe_keeps
    | apply keeps_forAll | refine keeps_mk ?_ rfl rfl rfl rfl rfl | extract_lets

theorem State.beResume_keeps {s₀ s : State} (h : Keeps s₀ s) (d : Nat) : Keeps s₀ (State.beResume s d) := by
  unfold State.beResume
  with_reducible repeat' first
    | assumption | (intro _) | apply State.setBe_keeps | refine keeps_mk ?_ rfl rfl rfl rfl rfl | extract_lets

theorem State.beWarm_keeps {s₀ s : State} (h : Keeps s₀ s) (d : Nat) : Keeps s₀ (State.beWarm s d) := by
  unfold State.beWarm
  with_reducible repeat' first
    | assumption | apply State.beRestart_keeps | apply State.setBe_keeps | refine keeps_mk ?_ rfl rfl rfl rfl rfl
    | extract_lets

end Sys2Proof.Machine
end

