-- ==== Sys2Proof/Laws/KeepsMemory.lean ====
section
/-! SUPPORT. What the operations of Memory, Slots, Dma, Islands, Link, Conserv keep. -/

namespace Sys2Proof.Machine

/-! ### Memory -/

theorem State.activateRow_keeps {s₀ s : State} (h : Keeps s₀ s) (d : Nat) : Keeps s₀ (State.activateRow s d) := by
  unfold State.activateRow
  with_reducible repeat' first
    | assumption | apply State.draw_keeps | apply State.setDrc_keeps | apply keeps_ite
    | refine keeps_mk ?_ rfl rfl rfl rfl rfl | extract_lets

theorem State.dropFaults_keeps {s₀ s : State} (h : Keeps s₀ s) (d : Nat) : Keeps s₀ (State.dropFaults s d) := by
  unfold State.dropFaults
  with_reducible repeat' first
    | assumption | (intro _) | apply State.emit_keeps | apply State.unrequest_keeps | split
    | refine keeps_mk ?_ rfl rfl rfl rfl rfl | extract_lets

theorem State.dropWaits_keeps {s₀ s : State} (h : Keeps s₀ s) (d : Nat) : Keeps s₀ (State.dropWaits s d) := by
  unfold State.dropWaits
  with_reducible repeat' first
    | assumption | (intro _) | apply State.finish_keeps | apply keeps_ite | split | refine keeps_mk ?_ rfl rfl rfl rfl rfl
    | extract_lets

theorem State.tellLost_keeps {s₀ s : State} (h : Keeps s₀ s) (d : Nat) : Keeps s₀ (State.tellLost s d) := by
  unfold State.tellLost
  with_reducible repeat' first
    | assumption | apply State.emit_keeps | apply keeps_ite | refine keeps_mk ?_ rfl rfl rfl rfl rfl

theorem State.refuseWith_keeps {s₀ s : State} (h : Keeps s₀ s) (d : Nat) : Keeps s₀ (State.refuseWith s d) := by
  unfold State.refuseWith
  with_reducible repeat' first
    | assumption | (intro _) | apply State.failRec_keeps | apply keeps_forAll

theorem State.dieOff_keeps {s₀ s : State} (h : Keeps s₀ s) (d : Nat) : Keeps s₀ (State.dieOff s d) := by
  unfold State.dieOff
  with_reducible repeat' first
    | assumption | apply State.chainOff_keeps | apply State.ingestStop_keeps

theorem State.endDie_keeps {s₀ s : State} (h : Keeps s₀ s) (d : Nat) : Keeps s₀ (State.endDie s d) := by
  unfold State.endDie
  with_reducible repeat' first
    | assumption | apply State.dieOff_keeps | apply State.dropFaults_keeps | apply State.dropWaits_keeps
    | apply State.refuseWith_keeps | apply State.request_keeps | apply State.tellLost_keeps
    | refine keeps_mk ?_ rfl rfl rfl rfl rfl | extract_lets

theorem State.fromMirror_keeps {s₀ s : State} (h : Keeps s₀ s) (d : Nat) : Keeps s₀ (State.fromMirror s d) := by
  refine h.trans ⟨(Keeps.refl s).1, fun hi => ⟨⟨hi.1.1, ?_, hi.1.2.2.1, hi.1.2.2.2.1, ?_⟩, hi.2⟩⟩
  · have hk := Store.wf_keep hi.1.2.1 fun k => !(k / 2 ^ 40 == d)
    exact Store.wf_foldl_put _ hk
  · have hk := Store.wf_keep hi.1.2.2.2.2 fun k => !(k / 2 ^ 40 == d) && !(k / 2 ^ 40 == partner d)
    exact hk

theorem State.hostDie_keeps {s₀ s : State} (h : Keeps s₀ s) (d : Nat) : Keeps s₀ (State.hostDie s d) := by
  unfold State.hostDie
  with_reducible repeat' first
    | assumption | apply State.dieOff_keeps | apply State.dropFaults_keeps | apply State.fromMirror_keeps
    | apply State.put_keeps | apply State.refuseWith_keeps | apply State.request_keeps | apply State.rewindDie_keeps
    | refine keeps_mk ?_ rfl rfl rfl rfl rfl | extract_lets

theorem State.loseDie_keeps {s₀ s : State} (h : Keeps s₀ s) (cut : Bool) (others : List Nat) (d : Nat) : Keeps s₀ (State.loseDie s cut others d) := by
  unfold State.loseDie
  with_reducible repeat' first
    | assumption | (intro _) | apply State.endDie_keeps | apply State.hostDie_keeps | apply State.tellLost_keeps
    | apply keeps_ite | apply keeps_when

theorem State.loseCut_keeps {s₀ s : State} (h : Keeps s₀ s) (ds : List Nat) : Keeps s₀ (State.loseCut s ds) := by
  unfold State.loseCut
  with_reducible repeat' first
    | assumption | (intro _) | apply State.loseDie_keeps | apply keeps_forAll

theorem State.deaccDram_keeps {s₀ s : State} (h : Keeps s₀ s) (d c u n : Nat) : Keeps s₀ (State.deaccDram s d c u n) := by
  unfold State.deaccDram
  with_reducible repeat' first
    | assumption | (intro _) | apply State.advise_keeps | apply State.beginFault_keeps | apply State.bump_keeps
    | apply State.deaccUnit_keeps | apply State.put_keeps | apply State.recoverFault_keeps | apply State.request_keeps
    | apply keeps_ite | extract_lets

theorem State.corrections_keeps {s₀ s : State} (h : Keeps s₀ s) (d c u n k : Nat) (scrub : Bool) : Keeps s₀ (State.corrections s d c u n k scrub) := by
  unfold State.corrections
  with_reducible repeat' first
    | assumption | apply State.bumpBy_keeps | apply State.chargeBy_keeps | apply State.deaccDram_keeps
    | apply State.raise_keeps | apply keeps_ite | extract_lets

theorem State.flagBurst_keeps {s₀ s : State} (h : Keeps s₀ s) (d a : Nat) (f : Nat → Nat) : Keeps s₀ (State.flagBurst s d a f) := by
  unfold State.flagBurst
  with_reducible repeat' first
    | assumption | (intro _) | apply State.wrMem_keeps | apply keeps_forAll

theorem State.flagCopy_keeps {s₀ s : State} (h : Keeps s₀ s) (d a : Nat) : Keeps s₀ (State.flagCopy s d a) := by
  unfold State.flagCopy
  with_reducible repeat' first
    | assumption | (intro _) | apply State.flagBurst_keeps | apply State.setCte_keeps | apply keeps_ite
    | refine keeps_mk ?_ rfl rfl rfl rfl rfl | extract_lets

theorem State.poisoned_keeps {s₀ s : State} (h : Keeps s₀ s) (d a k : Nat) : Keeps s₀ (State.poisoned s d a k) := by
  unfold State.poisoned
  with_reducible repeat' first
    | assumption | (intro _) | apply State.emit_keeps | apply State.flagBurst_keeps | apply State.flagCopy_keeps
    | apply State.poisonGroup_keeps | apply State.setAcu_keeps | apply State.setBe_keeps | apply State.uncorr_keeps
    | apply keeps_ite | split | refine keeps_mk ?_ rfl rfl rfl rfl rfl | extract_lets

theorem execDramRead_keeps {s : State} (d burst store : Nat) (errs : List (Nat × Nat)) :
    KeepsO s (execDramRead d burst store errs s) := by
  have h := Keeps.refl s
  unfold execDramRead
  extract_lets c u q s1 es syn er dec old
  split
  case isFalse => exact keepsO_ok h
  case isTrue =>
    have h1 : Keeps s (((s.setDrc d { s.drc d with queue := (s.drc d).queue.filter (· != burst) }).pm d 0x60 (burstChan burst)
        1).activateRow d) :=
      State.activateRow_keeps (State.pm_keeps (State.setDrc_keeps h _ _) _ _ _ _) _
    clear_value dec old
    have h1 : Keeps s s1 := h1
    split
    · exact keepsO_ok (State.poisoned_keeps h1 _ _ _)
    · exact keepsO_ok (keeps_ite h1 (State.wrMems_keeps h1 _ _ _))
    · extract_lets new s2
      have h2 : Keeps s s2 := keeps_ite h1 (State.wrMems_keeps h1 _ _ _)
      exact keepsO_ite (keepsO_ok (State.pm_keeps (keeps_forAll h2 _ fun s n hs => State.corrections_keeps hs _ _ _ _ _ _) _ _ _ _))
        (keepsO_ok h2)

theorem State.queueWrite_keeps {s₀ s : State} (h : Keeps s₀ s) (d burst : Nat) (ws : List Word) : Keeps s₀ (State.queueWrite s d burst ws) := by
  unfold State.queueWrite
  with_reducible repeat' first
    | assumption | apply State.activateRow_keeps | apply State.pm_keeps | apply State.setDrc_keeps | apply State.take_keeps
    | apply State.wrMems_keeps | refine keeps_mk ?_ rfl rfl rfl rfl rfl | extract_lets

theorem execDramWrite_keeps {s : State} (d burst : Nat) (ws : List Word) : KeepsO s (execDramWrite d burst ws s) := by
  have h := Keeps.refl s
  unfold execDramWrite
  with_reducible repeat' first
    | assumption | apply State.queueWrite_keeps | apply keepsO_ok | apply keepsO_ite | apply keeps_ite

theorem execUnitWrite_keeps {s : State} (d room : Nat) (bursts : List (Nat × List Word)) : KeepsO s (execUnitWrite d room bursts s) := by
  have h := Keeps.refl s
  unfold execUnitWrite
  with_reducible repeat' first
    | assumption | (intro _) | apply State.queueWrite_keeps | apply keepsO_ok | apply keepsO_ite | apply keeps_ite
    | apply keeps_forAll

theorem execRefreshInterval_keeps {s : State} (d c u : Nat) : KeepsO s (execRefreshInterval d c u s) := by
  have h := Keeps.refl s
  unfold execRefreshInterval
  with_reducible repeat' first
    | assumption | (intro _) | apply State.bump_keeps | apply State.put_keeps | apply State.raise_keeps
    | apply State.setDrc_keeps | apply keepsO_ok | apply keepsO_ite | apply keeps_ite
    | refine keeps_mk ?_ rfl rfl rfl rfl rfl | extract_lets

theorem execScrubPass_keeps {s : State} (d c : Nat) (hits : List (Nat × Nat × Nat)) : KeepsO s (execScrubPass d c hits s) := by
  have h := Keeps.refl s
  unfold execScrubPass
  with_reducible repeat' first
    | assumption | (intro _) | apply State.advance_keeps | apply State.corrections_keeps | apply State.put_keeps
    | apply State.setDrc_keeps | apply keepsO_ok | apply keepsO_ite | apply keeps_ite | apply keeps_forAll
    | refine keeps_mk ?_ rfl rfl rfl rfl rfl | extract_lets

theorem execRetrainStep_keeps {s : State} (d c u : Nat) (force moved : Bool) : KeepsO s (execRetrainStep d c u force moved s) := by
  have h := Keeps.refl s
  unfold execRetrainStep
  with_reducible repeat' first
    | assumption | (intro _) | apply State.advance_keeps | apply State.emit_keeps | apply State.put_keeps
    | apply State.raise_keeps | apply State.setDrc_keeps | apply keepsO_ok | apply keepsO_ite | apply keeps_ite
    | refine keeps_mk ?_ rfl rfl rfl rfl rfl | extract_lets

theorem State.captureDram_keeps {s₀ s : State} (h : Keeps s₀ s) (d c : Nat) : Keeps s₀ (State.captureDram s d c) := by
  unfold State.captureDram
  with_reducible repeat' first
    | assumption | (intro _) | apply State.draw_keeps | apply State.put_keeps | apply keeps_forAll
    | refine keeps_mk ?_ rfl rfl rfl rfl rfl | extract_lets

theorem State.train_keeps {s₀ s : State} (h : Keeps s₀ s) (e : DimmEnv) : Keeps s₀ (State.train s e) := by
  unfold State.train
  with_reducible repeat' first
    | assumption | (intro _) | apply State.captureDram_keeps | apply State.emit_keeps | apply State.loseDie_keeps
    | apply State.put_keeps | apply State.raise_keeps | apply State.setDrc_keeps | apply keeps_ite
    | refine keeps_mk ?_ rfl rfl rfl rfl rfl | extract_lets

theorem execDramTraining_keeps {s : State} (e : DimmEnv) : KeepsO s (execDramTraining e s) := by
  have h := Keeps.refl s
  unfold execDramTraining
  with_reducible repeat' first
    | assumption | apply State.train_keeps | apply keepsO_ok | apply keepsO_ite | apply keeps_ite

theorem State.setFab_keeps {s₀ s : State} (h : Keeps s₀ s) (d t : Nat) (v : List FabReq) : Keeps s₀ (State.setFab s d t v) := by
  unfold State.setFab
  with_reducible repeat' first
    | assumption | (intro _) | apply State.put_keeps | refine keeps_mk ?_ rfl rfl rfl rfl rfl

theorem execFabricRequest_keeps {s : State} (d t cyc : Nat) (reqs : List (Nat × Nat × Bool)) : KeepsO s (execFabricRequest d t cyc reqs s) := by
  have h := Keeps.refl s
  unfold execFabricRequest
  with_reducible repeat' first
    | assumption | (intro _) | apply State.bump_keeps | apply State.pm_keeps | apply State.put_keeps
    | apply State.raise_keeps | apply State.setFab_keeps | apply keepsO_ok | apply keepsO_ite | apply keeps_ite
    | apply keeps_when | split | refine keeps_mk ?_ rfl rfl rfl rfl rfl | extract_lets

theorem execPrioParityError_keeps {s : State} (d m t : Nat) : KeepsO s (execPrioParityError d m t s) := by
  have h := Keeps.refl s
  unfold execPrioParityError
  with_reducible repeat' first
    | assumption | apply State.bump_keeps | apply State.emit_keeps | apply State.put_keeps | apply State.raise_keeps
    | apply keepsO_ok | apply keepsO_ite | apply keeps_ite

theorem State.fabRewritten_keeps {s₀ s : State} (h : Keeps s₀ s)  : Keeps s₀ (State.fabRewritten s) := by
  unfold State.fabRewritten
  with_reducible repeat' first
    | assumption | (intro _) | apply State.put_keeps | apply keeps_forAll

/-! ### Slots -/

theorem State.syncOvf_keeps {s₀ s : State} (h : Keeps s₀ s) (a : Nat) : Keeps s₀ (State.syncOvf s a) := by
  unfold State.syncOvf
  with_reducible repeat' first
    | assumption | apply State.putBit_keeps | apply keeps_ite | extract_lets

theorem State.writeSlot_keeps {s₀ s : State} (h : Keeps s₀ s) (a : Nat) (w : Word) : Keeps s₀ (State.writeSlot s a w) := by
  unfold State.writeSlot
  with_reducible repeat' first
    | assumption | apply State.softWrite_keeps | apply State.syncOvf_keeps | apply keeps_ite

theorem State.writeClr_keeps {s₀ s : State} (h : Keeps s₀ s) (a : Nat) (w : Word) : Keeps s₀ (State.writeClr s a w) := by
  unfold State.writeClr
  with_reducible repeat' first
    | assumption | apply State.syncOvf_keeps | apply State.wr_keeps | apply keeps_ite

/-! ### Dma -/

theorem State.setDma_keeps {s₀ s : State} (h : Keeps s₀ s) (k : Nat) (v : DmaSt) : Keeps s₀ (State.setDma s k v) := by
  unfold State.setDma
  with_reducible repeat' first
    | assumption | (intro _) | apply State.put_keeps | refine keeps_mk ?_ rfl rfl rfl rfl rfl

theorem State.paceWait_keeps {s₀ s : State} (h : Keeps s₀ s) (k : Nat) (b : Bool) : Keeps s₀ (State.paceWait s k b) := by
  unfold State.paceWait
  with_reducible repeat' first
    | assumption | (intro _) | apply State.putBit_keeps | apply keeps_ite

theorem State.setScr_keeps {s₀ s : State} (h : Keeps s₀ s) (d a : Nat) (w : Word) : Keeps s₀ (State.setScr s d a w) :=
  h.trans ⟨(Keeps.refl s).1, fun hi => ⟨⟨hi.1.1, hi.1.2.1, hi.1.2.2.1, Store.wf_put hi.1.2.2.2.1 _ _, hi.1.2.2.2.2⟩, hi.2⟩⟩

theorem State.setDescWord_keeps {s₀ s : State} (h : Keeps s₀ s) (k c w : Nat) (x : Word) : Keeps s₀ (State.setDescWord s k c w x) := by
  unfold State.setDescWord
  with_reducible repeat' first
    | assumption | (intro _) | apply State.setScr_keeps | apply State.wrMem_keeps | apply keeps_ite

theorem State.dstWord_keeps {s₀ s : State} (h : Keeps s₀ s) (k a i : Nat) (w : Word) : Keeps s₀ (State.dstWord s k a i w) := by
  unfold State.dstWord
  with_reducible repeat' first
    | assumption | apply State.emitOut_keeps | apply State.setScr_keeps | apply State.wrMem_keeps
    | apply State.writeSlot_keeps | apply keeps_ite | split | refine keeps_mk ?_ rfl rfl rfl rfl rfl | extract_lets

theorem State.startChan_keeps {s₀ s : State} (h : Keeps s₀ s) (k c : Nat) : Keeps s₀ (State.startChan s k c) := by
  unfold State.startChan
  with_reducible repeat' first
    | assumption | apply State.paceWait_keeps | apply State.pace_keeps | apply State.put_keeps | apply State.setDma_keeps
    | apply keeps_ite | refine keeps_mk ?_ rfl rfl rfl rfl rfl | extract_lets

theorem State.serve_keeps {s₀ s : State} (h : Keeps s₀ s) (k : Nat) : Keeps s₀ (State.serve s k) := by
  unfold State.serve
  with_reducible repeat' first
    | assumption | (intro _) | apply State.startChan_keeps | apply keeps_ite | split | refine keeps_mk ?_ rfl rfl rfl rfl rfl
    | extract_lets

theorem State.descPoisoned_keeps {s₀ s : State} (h : Keeps s₀ s) (k c : Nat) : Keeps s₀ (State.descPoisoned s k c) := by
  unfold State.descPoisoned
  with_reducible repeat' first
    | assumption | apply State.put_keeps | apply State.raise_keeps | apply State.uncorr_keeps

theorem State.examine_keeps {s₀ s : State} (h : Keeps s₀ s) (k c : Nat) (bad : Bool) : Keeps s₀ (State.examine s k c bad) := by
  unfold State.examine
  with_reducible repeat' first
    | assumption | apply State.descPoisoned_keeps | apply State.put_keeps | apply keeps_ite

theorem execDmaDoorbell_keeps {s : State} (d e c : Nat) (bad : Bool) : KeepsO s (execDmaDoorbell d e c bad s) := by
  have h := Keeps.refl s
  unfold execDmaDoorbell
  with_reducible repeat' first
    | assumption | (intro _) | apply State.examine_keeps | apply State.put_keeps | apply State.serve_keeps | apply keepsO_ok
    | apply keepsO_ite | apply keeps_ite | extract_lets

theorem State.endDesc_keeps {s₀ s : State} (h : Keeps s₀ s) (k c code ofs : Nat) (nextBad : Bool) : Keeps s₀ (State.endDesc s k c code ofs nextBad) := by
  unfold State.endDesc
  with_reducible repeat' first
    | assumption | (intro _) | apply State.bump_keeps | apply State.examine_keeps | apply State.irq_keeps
    | apply State.paceWait_keeps | apply State.pm_keeps | apply State.put_keeps | apply State.raise_keeps
    | apply State.serve_keeps | apply State.setDescWord_keeps | apply State.setDma_keeps | apply keeps_ite | apply keeps_when
    | refine keeps_mk ?_ rfl rfl rfl rfl rfl | extract_lets

theorem State.copyWords_keeps {s₀ s : State} (h : Keeps s₀ s) (k src dst : Nat) (mem : List HRead) (n i : Nat) :
    Keeps s₀ (State.copyWords s k src dst mem n i).1 := by
  induction n generalizing s i with
  | zero => exact h
  | succ n ih =>
    unfold State.copyWords
    split
    · exact ih (State.dstWord_keeps h _ _ _ _) _
    · exact h

theorem State.scramble_keeps {s₀ s : State} (h : Keeps s₀ s) (k dst len : Nat) : Keeps s₀ (State.scramble s k dst len) := by
  unfold State.scramble
  with_reducible repeat' first
    | assumption | (intro _) | apply State.draw_keeps | apply State.dstWord_keeps | apply keeps_ite | apply keeps_forAll

theorem execDescriptorComplete_keeps {s : State} (d e : Nat) (mem : List HRead) (bad : Option Nat) (hostErr nextBad : Bool) : KeepsO s (execDescriptorComplete d e mem bad hostErr nextBad s) := by
  have h := Keeps.refl s
  unfold execDescriptorComplete
  with_reducible repeat' first
    | assumption | (intro _) | apply State.copyWords_keeps | apply State.dstWord_keeps | apply State.endDesc_keeps
    | apply State.scramble_keeps | apply State.uncorr_keeps | apply keepsO_ok | apply keepsO_ite | apply keeps_ite
    | apply keeps_forAll | split | refine keeps_mk ?_ rfl rfl rfl rfl rfl | extract_lets

theorem State.pacedBurst_keeps {s₀ s : State} (h : Keeps s₀ s) (k c good : Nat) (data : List Word) : Keeps s₀ (State.pacedBurst s k c good data) := by
  unfold State.pacedBurst
  with_reducible repeat' first
    | assumption | (intro _) | apply State.dstWord_keeps | apply State.emitOut_keeps | apply State.endDesc_keeps
    | apply State.put_keeps | apply State.setDma_keeps | apply keeps_ite | apply keeps_forAll
    | refine keeps_mk ?_ rfl rfl rfl rfl rfl | extract_lets

theorem State.drbgUsed_keeps {s₀ s : State} (h : Keeps s₀ s)  : Keeps s₀ (State.drbgUsed s) := by
  unfold State.drbgUsed
  with_reducible repeat' first
    | assumption | refine keeps_mk ?_ rfl rfl rfl rfl rfl

theorem execPacedRequest_keeps {s : State} (d e : Nat) (data : List Word) : KeepsO s (execPacedRequest d e data s) := by
  have h := Keeps.refl s
  unfold execPacedRequest
  with_reducible repeat' first
    | assumption | (intro _) | apply State.drbgUsed_keeps | apply State.pacedBurst_keeps | apply keepsO_ok | apply keepsO_ite
    | apply keeps_ite | apply keeps_when | extract_lets

theorem execPacedWithdraw_keeps {s : State} (d e n : Nat) (data : List Word) : KeepsO s (execPacedWithdraw d e n data s) := by
  have h := Keeps.refl s
  unfold execPacedWithdraw
  with_reducible repeat' first
    | assumption | (intro _) | apply State.drbgUsed_keeps | apply State.pacedBurst_keeps | apply State.put_keeps
    | apply State.raise_keeps | apply State.setDma_keeps | apply keepsO_ok | apply keepsO_ite | apply keeps_ite
    | apply keeps_when | refine keeps_mk ?_ rfl rfl rfl rfl rfl | extract_lets

theorem execPaceTimeout_keeps {s : State} (d e : Nat) : KeepsO s (execPaceTimeout d e s) := by
  have h := Keeps.refl s
  unfold execPaceTimeout
  with_reducible repeat' first
    | assumption | (intro _) | apply State.advance_keeps | apply State.endDesc_keeps | apply keepsO_ok | apply keepsO_ite
    | apply keeps_ite | extract_lets

theorem State.dmaWarm_keeps {s₀ s : State} (h : Keeps s₀ s)  : Keeps s₀ (State.dmaWarm s) := by
  unfold State.dmaWarm
  with_reducible repeat' first
    | assumption | (intro _) | apply State.paceWait_keeps | apply State.put_keeps | apply State.setDma_keeps
    | apply keeps_forAll | extract_lets

theorem State.dmaEnable_keeps {s₀ s : State} (h : Keeps s₀ s)  : Keeps s₀ (State.dmaEnable s) := by
  unfold State.dmaEnable
  with_reducible repeat' first
    | assumption | (intro _) | apply State.examine_keeps | apply State.serve_keeps | apply keeps_ite | apply keeps_forAll

/-! ### Islands -/

theorem State.showSeq_keeps {s₀ s : State} (h : Keeps s₀ s)  : Keeps s₀ (State.showSeq s) := by
  unfold State.showSeq
  with_reducible repeat' first
    | assumption | apply State.put_keeps

theorem State.seqRequest_keeps {s₀ s : State} (h : Keeps s₀ s) (i op : Nat) (gov : Bool) : Keeps s₀ (State.seqRequest s i op gov) := by
  unfold State.seqRequest
  with_reducible repeat' first
    | assumption | apply State.showSeq_keeps | refine keeps_mk ?_ rfl rfl rfl rfl rfl

theorem State.setGalRail_keeps {s₀ s : State} (h : Keeps s₀ s) (mv : Nat) : Keeps s₀ (State.setGalRail s mv) := by
  unfold State.setGalRail
  with_reducible repeat' first
    | assumption | apply State.emitOut_keeps | apply State.put_keeps | apply keeps_ite

theorem State.slew_keeps {s₀ s : State} (h : Keeps s₀ s) (i mv : Nat) : Keeps s₀ (State.slew s i mv) := by
  unfold State.slew
  with_reducible repeat' first
    | assumption | apply State.advance_keeps | apply State.put_keeps | extract_lets

theorem execSequencerRequest_keeps {s : State} (reorder : Bool) : KeepsO s (execSequencerRequest reorder s) := by
  have h := Keeps.refl s
  unfold execSequencerRequest
  with_reducible repeat' first
    | assumption | apply State.bump_keeps | apply State.emit_keeps | apply State.put_keeps | apply State.raise_keeps
    | apply State.setGalRail_keeps | apply State.showSeq_keeps | apply State.slew_keeps | apply keepsO_ok | apply keepsO_ite
    | apply keeps_ite | split | refine keeps_mk ?_ rfl rfl rfl rfl rfl | extract_lets

theorem execSequencerDone_keeps {s : State}  : KeepsO s (execSequencerDone s) := by
  have h := Keeps.refl s
  unfold execSequencerDone
  with_reducible repeat' first
    | assumption | apply State.put_keeps | apply State.setGalRail_keeps | apply State.showSeq_keeps | apply State.slew_keeps
    | apply keepsO_ok | apply keepsO_ite | apply keeps_ite | split | refine keeps_mk ?_ rfl rfl rfl rfl rfl | extract_lets

theorem State.islandsLow_keeps {s₀ s : State} (h : Keeps s₀ s)  : Keeps s₀ (State.islandsLow s) := by
  unfold State.islandsLow
  with_reducible repeat' first
    | assumption | (intro _) | apply State.put_keeps | apply keeps_forAll | refine keeps_mk ?_ rfl rfl rfl rfl rfl
    | extract_lets

theorem State.applyPoints_keeps {s₀ s : State} (h : Keeps s₀ s)  : Keeps s₀ (State.applyPoints s) := by
  unfold State.applyPoints
  with_reducible repeat' first
    | assumption | (intro _) | apply State.seqRequest_keeps | apply keeps_ite | apply keeps_forAll

theorem State.throttleIsland_keeps {s₀ s : State} (h : Keeps s₀ s) (i : Nat) : Keeps s₀ (State.throttleIsland s i) := by
  unfold State.throttleIsland
  with_reducible repeat' first
    | assumption | apply State.emit_keeps | apply State.seqRequest_keeps | apply keeps_ite | extract_lets

theorem State.throttleDown_keeps {s₀ s : State} (h : Keeps s₀ s)  : Keeps s₀ (State.throttleDown s) := by
  unfold State.throttleDown
  with_reducible repeat' first
    | assumption | (intro _) | apply State.put_keeps | apply State.raise_keeps | apply State.throttleIsland_keeps
    | apply keeps_forAll | refine keeps_mk ?_ rfl rfl rfl rfl rfl | extract_lets

theorem execThermalThrottle_keeps {s : State} (t : Nat) : KeepsO s (execThermalThrottle t s) := by
  have h := Keeps.refl s
  unfold execThermalThrottle
  with_reducible repeat' first
    | assumption | apply State.setTimer_keeps | apply State.throttleDown_keeps | apply keepsO_ok | apply keepsO_ite
    | apply keeps_ite

theorem State.blindDown_keeps {s₀ s : State} (h : Keeps s₀ s) (d : Nat) : Keeps s₀ (State.blindDown s d) := by
  unfold State.blindDown
  with_reducible repeat' first
    | assumption | (intro _) | apply State.emit_keeps | apply State.put_keeps | apply State.raise_keeps
    | apply State.seqRequest_keeps | apply State.setTimer_keeps | apply keeps_ite | apply keeps_forAll
    | refine keeps_mk ?_ rfl rfl rfl rfl rfl | extract_lets

theorem State.throttleUp_keeps {s₀ s : State} (h : Keeps s₀ s)  : Keeps s₀ (State.throttleUp s) := by
  unfold State.throttleUp
  with_reducible repeat' first
    | assumption | (intro _) | apply State.put_keeps | apply State.seqRequest_keeps | apply State.showSeq_keeps
    | apply keeps_ite | apply keeps_forAll | refine keeps_mk ?_ rfl rfl rfl rfl rfl | extract_lets

theorem execThrottleTimer_keeps {s : State} (t : Nat) : KeepsO s (execThrottleTimer t s) := by
  have h := Keeps.refl s
  unfold execThrottleTimer
  with_reducible repeat' first
    | assumption | apply State.pace_keeps | apply State.throttleDown_keeps | apply State.throttleUp_keeps | apply keepsO_ok
    | apply keepsO_ite | apply keeps_ite | extract_lets

/-! ### Link -/

theorem State.lineFail_keeps {s₀ s : State} (h : Keeps s₀ s) (k : Nat) : Keeps s₀ (State.lineFail s k) := by
  unfold State.lineFail
  with_reducible repeat' first
    | assumption | apply State.put_keeps | apply State.refInvalid_keeps | apply State.setRef_keeps | apply keeps_ite
    | refine keeps_mk ?_ rfl rfl rfl rfl rfl

theorem State.resendAll_keeps {s₀ s : State} (h : Keeps s₀ s) (l : List (Nat × Nat)) : Keeps s₀ (State.resendAll s l) := by
  unfold State.resendAll
  with_reducible repeat' first
    | assumption | (intro _) | apply State.resend_keeps | apply keeps_forAll

theorem State.deaccChain_keeps {s₀ s : State} (h : Keeps s₀ s) (k bucket : Nat) : Keeps s₀ (State.deaccChain s k bucket) := by
  unfold State.deaccChain
  with_reducible repeat' first
    | assumption | (intro _) | apply State.beginFault_keeps | apply State.deaccUnit_keeps | apply State.lineFail_keeps
    | apply State.putBit_keeps | apply State.raise_keeps | apply State.recoverFault_keeps | apply State.resendAll_keeps
    | apply State.resend_keeps | apply State.sendUni_keeps | apply State.setCh_keeps | apply State.setChain_keeps
    | apply State.showChain_keeps | apply State.upstreamLost_keeps | apply keeps_ite | apply keeps_forAll
    | refine keeps_mk ?_ rfl rfl rfl rfl rfl | extract_lets

theorem State.rtBucket_keeps {s₀ s : State} (h : Keeps s₀ s) (k : Nat) : Keeps s₀ (State.rtBucket s k) := by
  unfold State.rtBucket
  with_reducible repeat' first
    | assumption | apply State.charge_keeps | apply State.deaccChain_keeps | apply keeps_ite | extract_lets

theorem State.crcBucket_keeps {s₀ s : State} (h : Keeps s₀ s) (k : Nat) : Keeps s₀ (State.crcBucket s k) := by
  unfold State.crcBucket
  with_reducible repeat' first
    | assumption | apply State.charge_keeps | apply State.deaccChain_keeps | apply keeps_ite | extract_lets

theorem State.sendTosAll_keeps {s₀ s : State} (h : Keeps s₀ s) (k : Nat) : Keeps s₀ (State.sendTosAll s k) := by
  unfold State.sendTosAll
  with_reducible repeat' first
    | assumption | (intro _) | apply State.sendTos_keeps | apply keeps_forAll

theorem State.wakeTx_keeps {s₀ s : State} (h : Keeps s₀ s) (k ns : Nat) : Keeps s₀ (State.wakeTx s k ns) := by
  unfold State.wakeTx
  with_reducible repeat' first
    | assumption | apply State.advance_keeps | apply State.chainTxAwake_keeps | apply State.emitOut_keeps
    | apply State.put_keeps | apply State.sendAosSet_keeps | extract_lets

theorem State.retrainFree_keeps {s₀ s : State} (h : Keeps s₀ s) (k : Nat) : Keeps s₀ (State.retrainFree s k) := by
  unfold State.retrainFree
  with_reducible repeat' first
    | assumption | apply State.bump_keeps | apply State.draw_keeps | apply State.lanesTo_keeps | apply State.lineFail_keeps
    | apply State.putBit_keeps | apply State.put_keeps | apply State.raise_keeps | apply State.resend_keeps
    | apply State.sendTosAll_keeps | apply State.setCh_keeps | apply State.setChain_keeps | apply State.wakeTx_keeps
    | apply keeps_ite | refine keeps_mk ?_ rfl rfl rfl rfl rfl | extract_lets

theorem State.retrain_keeps {s₀ s : State} (h : Keeps s₀ s) (k : Nat) : Keeps s₀ (State.retrain s k) := by
  unfold State.retrain
  with_reducible repeat' first
    | assumption | apply State.retrainFree_keeps | apply State.rtBucket_keeps

theorem State.protoError_keeps {s₀ s : State} (h : Keeps s₀ s) (k : Nat) : Keeps s₀ (State.protoError s k) := by
  unfold State.protoError
  with_reducible repeat' first
    | assumption | apply State.raise_keeps | apply State.retrain_keeps

theorem State.chainStart_keeps {s₀ s : State} (h : Keeps s₀ s) (k : Nat) : Keeps s₀ (State.chainStart s k) := by
  unfold State.chainStart
  with_reducible repeat' first
    | assumption | apply State.lanesTo_keeps | apply State.setCh_keeps | apply keeps_ite

theorem State.laneErrs_keeps {s₀ s : State} (h : Keeps s₀ s) (k lane code disp : Nat) : Keeps s₀ (State.laneErrs s k lane code disp) := by
  unfold State.laneErrs
  with_reducible repeat' first
    | assumption | apply State.bumpBy_keeps

theorem State.readStream_keeps {s₀ s : State} (h : Keeps s₀ s) (k start : Nat) (x : RxLine) : Keeps s₀ (State.readStream s k start x).2 :=
  keeps_forAll h _ fun _ _ hs => State.laneErrs_keeps hs _ _ _ _

theorem execSignalDetect_keeps {s : State} (k : Nat) : KeepsO s (execSignalDetect k s) := by
  have h := Keeps.refl s
  unfold execSignalDetect
  with_reducible repeat' first
    | assumption | (intro _) | apply State.lanesTo_keeps | apply State.put_keeps | apply State.sendTosAll_keeps
    | apply State.setCh_keeps | apply State.setChain_keeps | apply keepsO_ok | apply keepsO_ite | apply keeps_ite
    | apply keeps_forAll | refine keeps_mk ?_ rfl rfl rfl rfl rfl | extract_lets

theorem State.laneFailed_keeps {s₀ s : State} (h : Keeps s₀ s) (k lane : Nat) : Keeps s₀ (State.laneFailed s k lane) := by
  unfold State.laneFailed
  with_reducible repeat' first
    | assumption | (intro _) | apply State.deaccChain_keeps | apply State.put_keeps | apply State.rtBucket_keeps
    | apply State.setChain_keeps | apply keeps_ite | refine keeps_mk ?_ rfl rfl rfl rfl rfl | extract_lets

theorem State.checkTrained_keeps {s₀ s : State} (h : Keeps s₀ s) (k : Nat) : Keeps s₀ (State.checkTrained s k) := by
  unfold State.checkTrained
  with_reducible repeat' first
    | assumption | (intro _) | apply State.setCh_keeps | apply State.setChain_keeps | apply keeps_ite | split
    | refine keeps_mk ?_ rfl rfl rfl rfl rfl | extract_lets

theorem State.takeTos_keeps {s₀ s : State} (h : Keeps s₀ s) (k lane : Nat) (t : Tos) : Keeps s₀ (State.takeTos s k lane t) := by
  unfold State.takeTos
  with_reducible repeat' first
    | assumption | apply State.checkTrained_keeps | apply State.laneFailed_keeps | apply State.put_keeps
    | apply State.sendTos_keeps | apply State.setChain_keeps | apply keeps_ite | refine keeps_mk ?_ rfl rfl rfl rfl rfl
    | extract_lets

theorem execTosReceived_keeps {s : State} (k lane : Nat) (groups : List Nat) (pos inv : Bool) :
    KeepsO s (execTosReceived k lane groups s pos inv) := by
  have h := Keeps.refl s
  unfold execTosReceived
  with_reducible repeat' first
    | assumption | (intro _) | apply State.laneErrs_keeps | apply State.takeTos_keeps | apply keepsO_ok | apply keepsO_ite
    | apply keeps_ite | split | refine keeps_mk ?_ rfl rfl rfl rfl rfl | extract_lets

theorem State.laneTrained_keeps {s₀ s : State} (h : Keeps s₀ s) (k lane : Nat) : Keeps s₀ (State.laneTrained s k lane) := by
  unfold State.laneTrained
  with_reducible repeat' first
    | assumption | (intro _) | apply State.checkTrained_keeps | apply State.putBit_keeps | apply State.put_keeps
    | apply State.sendTos_keeps | apply State.setChain_keeps | refine keeps_mk ?_ rfl rfl rfl rfl rfl | extract_lets

theorem execEyeMeasure_keeps {s : State} (k lane h w : Nat) : KeepsO s (execEyeMeasure k lane h w s) := by
  have h := Keeps.refl s
  unfold execEyeMeasure
  with_reducible repeat' first
    | assumption | apply State.advance_keeps | apply State.emit_keeps | apply State.laneFailed_keeps
    | apply State.laneTrained_keeps | apply State.put_keeps | apply State.raise_keeps | apply State.request_keeps
    | apply State.sendTos_keeps | apply State.setChain_keeps | apply State.setTimer_keeps | apply keepsO_ok
    | apply keepsO_ite | apply keeps_ite | split | refine keeps_mk ?_ rfl rfl rfl rfl rfl | extract_lets

theorem execTrainRetry_keeps {s : State} (k : Nat) : KeepsO s (execTrainRetry k s) := by
  have h := Keeps.refl s
  unfold execTrainRetry
  with_reducible repeat' first
    | assumption | apply State.advance_keeps | apply State.lanesTo_keeps | apply State.setCh_keeps | apply keepsO_ok
    | apply keepsO_ite | apply keeps_ite

theorem State.checkInit_keeps {s₀ s : State} (h : Keeps s₀ s) (k : Nat) : Keeps s₀ (State.checkInit s k) := by
  unfold State.checkInit
  with_reducible repeat' first
    | assumption | apply State.putBit_keeps | apply State.put_keeps | apply State.resendAll_keeps
    | apply State.retryHeld_keeps | apply State.setCh_keeps | apply State.setChain_keeps | apply State.showChain_keeps
    | apply keeps_ite | refine keeps_mk ?_ rfl rfl rfl rfl rfl | extract_lets

theorem State.sendLcb_keeps {s₀ s : State} (h : Keeps s₀ s) (k : Nat) : Keeps s₀ (State.sendLcb s k) := by
  unfold State.sendLcb
  with_reducible repeat' first
    | assumption | apply State.checkInit_keeps | apply State.emitOut_keeps | apply State.fillTo_keeps
    | apply State.sendAosSet_keeps | apply State.sendStream_keeps | apply State.setChain_keeps | apply keeps_ite
    | refine keeps_mk ?_ rfl rfl rfl rfl rfl | extract_lets

theorem execLcbSendTimer_keeps {s : State} (k : Nat) : KeepsO s (execLcbSendTimer k s) := by
  have h := Keeps.refl s
  unfold execLcbSendTimer
  with_reducible repeat' first
    | assumption | apply State.advance_keeps | apply State.sendLcb_keeps | apply keepsO_ok | apply keepsO_ite
    | apply keeps_ite

theorem State.enterInit_keeps {s₀ s : State} (h : Keeps s₀ s) (k : Nat) : Keeps s₀ (State.enterInit s k) := by
  unfold State.enterInit
  with_reducible repeat' first
    | assumption | apply State.freshLink_keeps | apply State.put_keeps | apply State.setCh_keeps | apply State.setChain_keeps
    | apply keeps_ite | refine keeps_mk ?_ rfl rfl rfl rfl rfl | extract_lets

theorem State.replayAll_keeps {s₀ s : State} (h : Keeps s₀ s) (k : Nat) : Keeps s₀ (State.replayAll s k) := by
  unfold State.replayAll
  with_reducible repeat' first
    | assumption | apply State.bump_keeps | apply State.raise_keeps | apply State.resend_keeps | apply State.retrain_keeps
    | apply State.setChain_keeps | apply keeps_ite | refine keeps_mk ?_ rfl rfl rfl rfl rfl | extract_lets

theorem State.takeAck_keeps {s₀ s : State} (h : Keeps s₀ s) (k ack : Nat) (nak : Bool) : Keeps s₀ (State.takeAck s k ack nak) := by
  unfold State.takeAck
  with_reducible repeat' first
    | assumption | (intro _) | apply State.drop_keeps | apply State.protoError_keeps | apply State.put_keeps
    | apply State.replayAll_keeps | apply State.resend_keeps | apply State.setChain_keeps | apply keeps_ite
    | refine keeps_mk ?_ rfl rfl rfl rfl rfl | extract_lets

theorem execAosSend_keeps {s : State} (k : Nat) : KeepsO s (execAosSend k s) := by
  have h := Keeps.refl s
  unfold execAosSend
  with_reducible repeat' first
    | assumption | apply State.fillTo_keeps | apply State.sendAosSet_keeps | apply keepsO_ok | apply keepsO_ite
    | apply keeps_ite

theorem State.noteLanes_keeps {s₀ s : State} (h : Keeps s₀ s) (k : Nat) (ls : List AosLane) (ms : List (Nat × Nat)) : Keeps s₀ (State.noteLanes s k ls ms) := by
  unfold State.noteLanes
  with_reducible repeat' first
    | assumption | (intro _) | apply State.putBit_keeps | apply State.put_keeps | apply keeps_forAll | apply keeps_foldl
    | split | refine keeps_mk ?_ rfl rfl rfl rfl rfl | extract_lets

theorem State.alignCheck_keeps {s₀ s : State} (h : Keeps s₀ s) (k : Nat) (ls : List AosLane) (ms : List (Nat × Nat)) : Keeps s₀ (State.alignCheck s k ls ms) := by
  unfold State.alignCheck
  with_reducible repeat' first
    | assumption | apply State.emit_keeps | apply State.enterInit_keeps | apply State.noteLanes_keeps
    | apply State.raise_keeps | apply State.setChain_keeps | apply keeps_ite | split | refine keeps_mk ?_ rfl rfl rfl rfl rfl
    | extract_lets

theorem State.aosCheck_keeps {s₀ s : State} (h : Keeps s₀ s) (k : Nat) (ms : List (Nat × Nat)) : Keeps s₀ (State.aosCheck s k ms) := by
  unfold State.aosCheck
  with_reducible repeat' first
    | assumption | apply State.putBit_keeps | apply State.put_keeps | apply State.retrain_keeps | apply State.setChain_keeps
    | apply keeps_ite | refine keeps_mk ?_ rfl rfl rfl rfl rfl | extract_lets

theorem execAosReceived_keeps {s : State} (k : Nat) (lanes : List AosLane) : KeepsO s (execAosReceived k lanes s) := by
  have h := Keeps.refl s
  unfold execAosReceived
  with_reducible repeat' first
    | assumption | (intro _) | apply State.alignCheck_keeps | apply State.aosCheck_keeps | apply State.bump_keeps
    | apply State.laneErrs_keeps | apply keepsO_ok | apply keepsO_ite | apply keeps_ite | apply keeps_forAll
    | apply keeps_when | split | refine keeps_mk ?_ rfl rfl rfl rfl rfl | extract_lets

theorem execSymbolLockLoss_keeps {s : State} (k lane : Nat) : KeepsO s (execSymbolLockLoss k lane s) := by
  have h := Keeps.refl s
  unfold execSymbolLockLoss
  with_reducible repeat' first
    | assumption | apply State.lineFail_keeps | apply State.put_keeps | apply State.retrain_keeps | apply keepsO_ok
    | apply keepsO_ite | apply keeps_ite | extract_lets

theorem State.discardPkt_keeps {s₀ s : State} (h : Keeps s₀ s) (k : Nat) : Keeps s₀ (State.discardPkt s k) := by
  unfold State.discardPkt
  with_reducible repeat' first
    | assumption | apply State.bump_keeps | apply State.crcBucket_keeps | apply State.raise_keeps
    | apply State.setChain_keeps | apply keeps_ite | refine keeps_mk ?_ rfl rfl rfl rfl rfl | extract_lets

theorem State.hopDrop_keeps {s₀ s : State} (h : Keeps s₀ s) (k : Nat) (p : Pkt) : Keeps s₀ (State.hopDrop s k p) := by
  unfold State.hopDrop
  with_reducible repeat' first
    | assumption | apply State.emit_keeps | apply State.raise_keeps | apply State.setChain_keeps
    | refine keeps_mk ?_ rfl rfl rfl rfl rfl

theorem State.actPacket_keeps {s₀ s : State} (h : Keeps s₀ s) (k lane : Nat) (p : Pkt) : Keeps s₀ (State.actPacket s k lane p) := by
  unfold State.actPacket
  with_reducible repeat' first
    | assumption | (intro _) | apply State.cross_keeps | apply State.deliver_keeps | apply State.hopDrop_keeps
    | apply State.sendUni_keeps | apply keeps_ite | apply keeps_forAll | refine keeps_mk ?_ rfl rfl rfl rfl rfl
    | extract_lets

theorem State.leaveRx_keeps {s₀ s : State} (h : Keeps s₀ s) (k : Nat) (e : Nat × Pkt) : Keeps s₀ (State.leaveRx s k e) := by
  unfold State.leaveRx
  with_reducible repeat' first
    | assumption | (intro _) | apply State.actPacket_keeps | apply State.setChain_keeps
    | refine keeps_mk ?_ rfl rfl rfl rfl rfl | extract_lets

theorem State.drainRx_keeps {s₀ s : State} (h : Keeps s₀ s) (k : Nat) : Keeps s₀ (State.drainRx s k) := by
  unfold State.drainRx
  generalize ([] : List Nat) = vs
  generalize (s.chain k).rx = l
  induction l generalizing s vs with
  | nil => exact h
  | cons e l ih =>
    simp only [List.foldl_cons]
    split
    · exact ih h _
    · split
      · exact ih (State.leaveRx_keeps h _ _) _
      · exact ih h _

theorem State.pump_keeps {s₀ s : State} (h : Keeps s₀ s)  : Keeps s₀ (State.pump s) := by
  unfold State.pump
  with_reducible repeat' first
    | assumption | (intro _) | apply State.drainRx_keeps | apply State.pumpPkf_keeps | apply keeps_forAll | extract_lets

theorem State.acceptPkt_keeps {s₀ s : State} (h : Keeps s₀ s) (k lane : Nat) (p : Pkt) : Keeps s₀ (State.acceptPkt s k lane p) := by
  unfold State.acceptPkt
  with_reducible repeat' first
    | assumption | (intro _) | apply State.bump_keeps | apply State.put_keeps | apply State.setChain_keeps
    | refine keeps_mk ?_ rfl rfl rfl rfl rfl | extract_lets

theorem State.nullify_keeps {s₀ s : State} (h : Keeps s₀ s) (k : Nat) (o : List Nat) : Keeps s₀ (State.nullify s k o) := by
  unfold State.nullify
  with_reducible repeat' first
    | assumption | (intro _) | apply State.drop_keeps | apply State.sendStream_keeps | apply keeps_ite | apply keeps_forAll
    | refine keeps_mk ?_ rfl rfl rfl rfl rfl | extract_lets

theorem execPacketReceived_keeps {s : State} (k start : Nat) (x : RxLine) (begun : Bool) :
    KeepsO s (execPacketReceived k start x begun s) := by
  have h := Keeps.refl s
  unfold execPacketReceived
  with_reducible repeat' first
    | assumption | (intro _) | apply State.acceptPkt_keeps | apply State.discardPkt_keeps | apply State.drop_keeps
    | apply State.nullify_keeps | apply State.protoError_keeps | apply State.pump_keeps | apply State.readStream_keeps
    | apply State.setChain_keeps | apply keepsO_ok | apply keepsO_ite | apply keeps_ite | apply keeps_when | split
    | refine keeps_mk ?_ rfl rfl rfl rfl rfl | extract_lets

theorem State.takeLcb_keeps {s₀ s : State} (h : Keeps s₀ s) (k : Nat) (l : Lcb) : Keeps s₀ (State.takeLcb s k l) := by
  unfold State.takeLcb
  with_reducible repeat' first
    | assumption | (intro _) | apply State.checkInit_keeps | apply State.freshLink_keeps | apply State.leaveRx_keeps
    | apply State.raise_keeps | apply State.resendAll_keeps | apply State.setChain_keeps | apply State.showChain_keeps
    | apply State.takeAck_keeps | apply keeps_ite | apply keeps_forAll | refine keeps_mk ?_ rfl rfl rfl rfl rfl
    | extract_lets

theorem execLcbReceived_keeps {s : State} (k start : Nat) (x : RxLine) : KeepsO s (execLcbReceived k start x s) := by
  have h := Keeps.refl s
  unfold execLcbReceived
  with_reducible repeat' first
    | assumption | apply State.readStream_keeps | apply State.takeLcb_keeps | apply keepsO_ok | apply keepsO_ite
    | apply keeps_ite | split | refine keeps_mk ?_ rfl rfl rfl rfl rfl | extract_lets

theorem State.sendPkt_keeps {s₀ s : State} (h : Keeps s₀ s) (k : Nat) (p : Pkt) : Keeps s₀ (State.sendPkt s k p) := by
  unfold State.sendPkt
  with_reducible repeat' first
    | assumption | apply State.emitOut_keeps | apply State.sendStream_keeps

theorem State.sendNew_keeps {s₀ s : State} (h : Keeps s₀ s) (k v : Nat) : Keeps s₀ (State.sendNew s k v) := by
  unfold State.sendNew
  with_reducible repeat' first
    | assumption | (intro _) | apply State.bump_keeps | apply State.pm_keeps | apply State.put_keeps
    | apply State.sendPkt_keeps | apply State.setChain_keeps | apply State.showChain_keeps | apply keeps_ite | split
    | refine keeps_mk ?_ rfl rfl rfl rfl rfl | extract_lets

theorem execTransmitChoice_keeps {s : State} (k : Nat) : KeepsO s (execTransmitChoice k s) := by
  have h := Keeps.refl s
  unfold execTransmitChoice
  with_reducible repeat' first
    | assumption | apply State.pm_keeps | apply State.pump_keeps | apply State.resend_keeps | apply State.sendLcb_keeps
    | apply State.sendNew_keeps | apply State.sendPkt_keeps | apply State.setChain_keeps | apply State.showChain_keeps
    | apply keepsO_ok | apply keepsO_ite | apply keeps_ite | split | refine keeps_mk ?_ rfl rfl rfl rfl rfl | extract_lets

theorem execReplayTimeout_keeps {s : State} (k : Nat) : KeepsO s (execReplayTimeout k s) := by
  have h := Keeps.refl s
  unfold execReplayTimeout
  with_reducible repeat' first
    | assumption | apply State.advance_keeps | apply State.replayAll_keeps | apply keepsO_ok | apply keepsO_ite
    | apply keeps_ite

theorem execCreditTimeout_keeps {s : State} (k vc : Nat) : KeepsO s (execCreditTimeout k vc s) := by
  have h := Keeps.refl s
  unfold execCreditTimeout
  with_reducible repeat' first
    | assumption | apply State.advance_keeps | apply State.raise_keeps | apply State.setChain_keeps
    | apply State.showChain_keeps | apply keepsO_ok | apply keepsO_ite | apply keeps_ite
    | refine keeps_mk ?_ rfl rfl rfl rfl rfl | extract_lets

theorem State.sendSlp_keeps {s₀ s : State} (h : Keeps s₀ s) (k lv : Nat) : Keeps s₀ (State.sendSlp s k lv) := by
  unfold State.sendSlp
  with_reducible repeat' first
    | assumption | (intro _) | apply State.emitOut_keeps | apply State.fillTo_keeps | apply State.setChain_keeps
    | refine keeps_mk ?_ rfl rfl rfl rfl rfl | extract_lets

theorem execSleepIdle_keeps {s : State} (k : Nat) : KeepsO s (execSleepIdle k s) := by
  have h := Keeps.refl s
  unfold execSleepIdle
  with_reducible repeat' first
    | assumption | apply State.advance_keeps | apply State.bump_keeps | apply State.emitOut_keeps | apply State.putBit_keeps
    | apply State.put_keeps | apply State.sendSlp_keeps | apply keepsO_ok | apply keepsO_ite | apply keeps_ite | extract_lets

theorem execSleepReceived_keeps {s : State} (k level : Nat) : KeepsO s (execSleepReceived k level s) := by
  have h := Keeps.refl s
  unfold execSleepReceived
  with_reducible repeat' first
    | assumption | apply State.lineFail_keeps | apply State.putBit_keeps | apply State.put_keeps | apply keepsO_ok
    | apply keepsO_ite | apply keeps_ite

theorem execDirectionWake_keeps {s : State} (k ns : Nat) : KeepsO s (execDirectionWake k ns s) := by
  have h := Keeps.refl s
  unfold execDirectionWake
  with_reducible repeat' first
    | assumption | apply State.wakeTx_keeps | apply keepsO_ok | apply keepsO_ite | apply keeps_ite | extract_lets

/-! ### Conserv -/

theorem State.setCsv_keeps {s₀ s : State} (h : Keeps s₀ s) (d : Nat) (v : CsvSt) : Keeps s₀ (State.setCsv s d v) := by
  unfold State.setCsv
  with_reducible repeat' first
    | assumption | (intro _) | apply State.put_keeps | refine keeps_mk ?_ rfl rfl rfl rfl rfl

theorem State.setHeld_keeps {s₀ s : State} (h : Keeps s₀ s) (d n : Nat) (b : Bool) : Keeps s₀ (State.setHeld s d n b) := by
  unfold State.setHeld
  with_reducible repeat' first
    | assumption | (intro _) | apply State.put_keeps | apply keeps_ite | apply keeps_forAll | extract_lets

theorem State.showBusy_keeps {s₀ s : State} (h : Keeps s₀ s) (d : Nat) : Keeps s₀ (State.showBusy s d) := by
  unfold State.showBusy
  with_reducible repeat' first
    | assumption | apply State.put_keeps | split | refine keeps_mk ?_ rfl rfl rfl rfl rfl

theorem execCalibrationDue_keeps {s : State} (d n temp : Nat) : KeepsO s (execCalibrationDue d n temp s) := by
  have h := Keeps.refl s
  unfold execCalibrationDue
  with_reducible repeat' first
    | assumption | apply State.advance_keeps | apply State.setCsv_keeps | apply State.setHeld_keeps
    | apply State.showBusy_keeps | apply keepsO_ok | apply keepsO_ite | apply keeps_ite
    | refine keeps_mk ?_ rfl rfl rfl rfl rfl | extract_lets

theorem State.calEnds_keeps {s₀ s : State} (h : Keeps s₀ s) (d n : Nat) : Keeps s₀ (State.calEnds s d n) := by
  unfold State.calEnds
  with_reducible repeat' first
    | assumption | (intro _) | apply State.setCsv_keeps | apply State.setHeld_keeps | apply State.showBusy_keeps
    | refine keeps_mk ?_ rfl rfl rfl rfl rfl | extract_lets

theorem State.showSuspects_keeps {s₀ s : State} (h : Keeps s₀ s) (d : Nat) : Keeps s₀ (State.showSuspects s d) := by
  unfold State.showSuspects
  with_reducible repeat' first
    | assumption | (intro _) | apply State.blindDown_keeps | apply State.put_keeps | apply keeps_ite | extract_lets

theorem State.rejectCal_keeps {s₀ s : State} (h : Keeps s₀ s) (d n : Nat) : Keeps s₀ (State.rejectCal s d n) := by
  unfold State.rejectCal
  with_reducible repeat' first
    | assumption | apply State.bump_keeps | apply State.emit_keeps | apply State.put_keeps | apply State.raise_keeps
    | apply State.showSuspects_keeps | apply keeps_ite | extract_lets

theorem State.eyeSeen_keeps {s₀ s : State} (h : Keeps s₀ s) (d l h : Nat) : Keeps s₀ (State.eyeSeen s d l h) := by
  unfold State.eyeSeen
  with_reducible repeat' first
    | assumption | (intro _) | apply State.putFree_keeps | apply State.put_keeps | apply State.raise_keeps
    | apply State.retrainFree_keeps | apply State.setCsv_keeps | apply State.setTimer_keeps | apply keeps_ite
    | refine keeps_mk ?_ rfl rfl rfl rfl rfl | extract_lets

theorem execCalibrationResult_keeps {s : State} (d n v temp : Nat) (eye : Option Nat) : KeepsO s (execCalibrationResult d n v temp eye s) := by
  have h := Keeps.refl s
  unfold execCalibrationResult
  with_reducible repeat' first
    | assumption | (intro _) | apply State.calEnds_keeps | apply State.eyeSeen_keeps | apply State.put_keeps
    | apply State.rejectCal_keeps | apply State.setCsv_keeps | apply State.showSuspects_keeps | apply keepsO_ok
    | apply keepsO_ite | apply keeps_ite | split | refine keeps_mk ?_ rfl rfl rfl rfl rfl | extract_lets

theorem execCalibrationTimeout_keeps {s : State} (d n : Nat) : KeepsO s (execCalibrationTimeout d n s) := by
  have h := Keeps.refl s
  unfold execCalibrationTimeout
  with_reducible repeat' first
    | assumption | apply State.calEnds_keeps | apply State.rejectCal_keeps | apply keepsO_ok | apply keepsO_ite
    | apply keeps_ite

theorem execTrimInForce_keeps {s : State} (d n : Nat) : KeepsO s (execTrimInForce d n s) := by
  have h := Keeps.refl s
  unfold execTrimInForce
  with_reducible repeat' first
    | assumption | (intro _) | apply State.advance_keeps | apply State.put_keeps | apply State.seqRequest_keeps
    | apply keepsO_ok | apply keepsO_ite | apply keeps_ite | extract_lets

theorem State.writeRecord_keeps {s₀ s : State} (h : Keeps s₀ s) (d kind fail : Nat) : Keeps s₀ (State.writeRecord s d kind fail) := by
  unfold State.writeRecord
  with_reducible repeat' first
    | assumption | apply State.raise_keeps | apply State.setCsv_keeps | apply State.wrFlash_keeps | apply keeps_ite
    | refine keeps_mk ?_ rfl rfl rfl rfl rfl | extract_lets

theorem State.coreTrim_keeps {s₀ s : State} (h : Keeps s₀ s)  : Keeps s₀ (State.coreTrim s) := by
  unfold State.coreTrim
  with_reducible repeat' first
    | assumption | (intro _) | apply State.put_keeps | apply keeps_ite | apply keeps_foldl | extract_lets

theorem State.monSeen_keeps {s₀ s : State} (h : Keeps s₀ s) (d m p r : Nat) : Keeps s₀ (State.monSeen s d m p r) := by
  unfold State.monSeen
  with_reducible repeat' first
    | assumption | apply State.coreTrim_keeps | apply State.put_keeps | apply State.raise_keeps
    | apply State.seqRequest_keeps | apply State.writeRecord_keeps | apply keeps_ite | extract_lets

theorem execAgeingMeasurement_keeps {s : State} (d : Nat) (mons : List (Nat × Nat × Nat)) (eyes dram : List (Nat × Nat)) : KeepsO s (execAgeingMeasurement d mons eyes dram s) := by
  have h := Keeps.refl s
  unfold execAgeingMeasurement
  with_reducible repeat' first
    | assumption | (intro _) | apply State.eyeSeen_keeps | apply State.monSeen_keeps | apply State.pace_keeps
    | apply State.put_keeps | apply State.setCsv_keeps | apply keepsO_ok | apply keepsO_ite | apply keeps_ite
    | apply keeps_forAll | refine keeps_mk ?_ rfl rfl rfl rfl rfl | extract_lets

theorem State.captureBaseline_keeps {s₀ s : State} (h : Keeps s₀ s) (d : Nat) (r0 : List (Nat × Nat × Nat)) (eyes dram : List (Nat × Nat)) : Keeps s₀ (State.captureBaseline s d r0 eyes dram) := by
  unfold State.captureBaseline
  with_reducible repeat' first
    | assumption | (intro _) | apply State.coreTrim_keeps | apply State.put_keeps | apply State.raise_keeps
    | apply State.seqRequest_keeps | apply State.setCsv_keeps | apply State.writeRecord_keeps | apply keeps_ite
    | apply keeps_forAll | apply keeps_foldl | refine keeps_mk ?_ rfl rfl rfl rfl rfl | extract_lets

theorem State.showProj_keeps {s₀ s : State} (h : Keeps s₀ s) (d : Nat) (p : Option (Nat × Nat)) : Keeps s₀ (State.showProj s d p) := by
  unfold State.showProj
  with_reducible repeat' first
    | assumption | apply State.put_keeps | apply keeps_ite | split | refine keeps_mk ?_ rfl rfl rfl rfl rfl

theorem State.judgeMargin_keeps {s₀ s : State} (h : Keeps s₀ s) (d : Nat) (was : Nat) (now1 : Option (Nat × Nat)) : Keeps s₀ (State.judgeMargin s d was now1) := by
  unfold State.judgeMargin
  with_reducible repeat' first
    | assumption | apply State.emit_keeps | apply State.put_keeps | apply State.raise_keeps | apply State.request_keeps
    | apply State.setCsv_keeps | apply State.unrequest_keeps | apply keeps_ite | split
    | refine keeps_mk ?_ rfl rfl rfl rfl rfl | extract_lets

theorem execDailyRecord_keeps {s : State} (d fail : Nat) : KeepsO s (execDailyRecord d fail s) := by
  have h := Keeps.refl s
  unfold execDailyRecord
  with_reducible repeat' first
    | assumption | (intro _) | apply State.judgeMargin_keeps | apply State.pace_keeps | apply State.put_keeps
    | apply State.setCsv_keeps | apply State.showProj_keeps | apply State.writeRecord_keeps | apply keepsO_ok
    | apply keepsO_ite | apply keeps_ite | apply keeps_forAll | refine keeps_mk ?_ rfl rfl rfl rfl rfl | extract_lets

theorem State.loadBaseline_keeps {s₀ s : State} (h : Keeps s₀ s) (d : Nat) : Keeps s₀ (State.loadBaseline s d) := by
  unfold State.loadBaseline
  with_reducible repeat' first
    | assumption | (intro _) | apply State.drop_keeps | apply State.put_keeps | apply State.take_keeps | apply keeps_forAll
    | split | refine keeps_mk ?_ rfl rfl rfl rfl rfl

theorem State.loadTrims_keeps {s₀ s : State} (h : Keeps s₀ s) (d : Nat) : Keeps s₀ (State.loadTrims s d) := by
  unfold State.loadTrims
  with_reducible repeat' first
    | assumption | (intro _) | apply State.drop_keeps | apply State.put_keeps | apply State.setCsv_keeps
    | apply State.take_keeps | apply keeps_ite | apply keeps_forAll | apply keeps_foldl
    | refine keeps_mk ?_ rfl rfl rfl rfl rfl | extract_lets

theorem State.csvLoad_keeps {s₀ s : State} (h : Keeps s₀ s) (d : Nat) : Keeps s₀ (State.csvLoad s d) := by
  unfold State.csvLoad
  with_reducible repeat' first
    | assumption | apply State.loadBaseline_keeps | apply State.loadTrims_keeps | apply State.put_keeps
    | apply State.showProj_keeps | apply keeps_ite | split | refine keeps_mk ?_ rfl rfl rfl rfl rfl | extract_lets

theorem State.csvStop_keeps {s₀ s : State} (h : Keeps s₀ s) (d : Nat) : Keeps s₀ (State.csvStop s d) := by
  unfold State.csvStop
  with_reducible repeat' first
    | assumption | (intro _) | apply State.calEnds_keeps | apply keeps_forAll

end Sys2Proof.Machine
end

