-- ==== Sys2Proof/Laws/KeepsStart.lean ====
section
/-! SUPPORT. What the operations of Dfu, Products, Security, Image, Inputs, Switch, Telemetry, Start keep. -/

namespace Sys2Proof.Machine

/-! ### Dfu -/

theorem State.takePending_keeps {s₀ s : State} (h : Keeps s₀ s) (d i : Nat) : Keeps s₀ (State.takePending s d i) := by
  unfold State.takePending
  with_reducible repeat' first
    | assumption | (intro _) | apply State.put_keeps | apply State.wr_keeps | apply keeps_forAll | extract_lets

theorem State.updateInput_keeps {s₀ s : State} (h : Keeps s₀ s) (d i n : Nat) : Keeps s₀ (State.updateInput s d i n) := by
  unfold State.updateInput
  with_reducible repeat' first
    | assumption | (intro _) | apply State.put_keeps | apply State.raise_keeps | apply State.setDfuIn_keeps
    | apply State.takePending_keeps | apply keeps_ite | apply keeps_when | refine keeps_mk ?_ rfl rfl rfl rfl rfl
    | extract_lets

theorem execUpdatePoint_keeps {s : State} (d n : Nat) : KeepsO s (execUpdatePoint d n s) := by
  have h := Keeps.refl s
  unfold execUpdatePoint
  with_reducible repeat' first
    | assumption | (intro _) | apply State.updateInput_keeps | apply keepsO_ok | apply keepsO_ite | apply keeps_ite
    | apply keeps_forAll

theorem State.finishOutput_keeps {s₀ s : State} (h : Keeps s₀ s) (d i m : Nat) (a : ZSamp) : Keeps s₀ (State.finishOutput s d i m a) := by
  unfold State.finishOutput
  with_reducible repeat' first
    | assumption | apply State.acceptSample_keeps | apply State.bumpBy_keeps | apply State.bump_keeps | apply State.pmU_keeps
    | apply State.put_keeps | apply State.raise_keeps | apply keeps_ite | extract_lets

theorem State.firOutput_keeps {s₀ s : State} (h : Keeps s₀ s) (d i m : Nat) : Keeps s₀ (State.firOutput s d i m) := by
  unfold State.firOutput
  with_reducible repeat' first
    | assumption | (intro _) | apply State.finishOutput_keeps | apply State.put_keeps | apply State.setDfuIn_keeps
    | apply State.take_keeps | apply keeps_ite | refine keeps_mk ?_ rfl rfl rfl rfl rfl | extract_lets

theorem State.gainOutput_keeps {s₀ s : State} (h : Keeps s₀ s) (d i m : Nat) : Keeps s₀ (State.gainOutput s d i m) := by
  unfold State.gainOutput
  with_reducible repeat' first
    | assumption | apply State.finishOutput_keeps | apply keeps_ite | extract_lets

theorem execDfuOutput_keeps {s : State} (d i m : Nat) : KeepsO s (execDfuOutput d i m s) := by
  have h := Keeps.refl s
  unfold execDfuOutput
  with_reducible repeat' first
    | assumption | apply State.finishOutput_keeps | apply State.firOutput_keeps | apply State.gainOutput_keeps
    | apply State.setDfuIn_keeps | apply keepsO_ok | apply keepsO_ite | apply keeps_ite
    | refine keeps_mk ?_ rfl rfl rfl rfl rfl | extract_lets

theorem State.showFades_keeps {s₀ s : State} (h : Keeps s₀ s) (d : Nat) : Keeps s₀ (State.showFades s d) := by
  unfold State.showFades
  with_reducible repeat' first
    | assumption | apply State.put_keeps

theorem State.doFade_keeps {s₀ s : State} (h : Keeps s₀ s) (c : CmdHdr) (d i l : Nat) : Keeps s₀ (State.doFade s c d i l) := by
  unfold State.doFade
  with_reducible repeat' first
    | assumption | (intro _) | apply State.complete_keeps | apply State.inMode_keeps | apply State.put_keeps
    | apply State.setDfu_keeps | apply State.showFades_keeps | apply keeps_ite | refine keeps_mk ?_ rfl rfl rfl rfl rfl
    | extract_lets

theorem execFade_keeps {s : State} (c : CmdHdr) (d i l : Nat) : KeepsO s (execFade c d i l s) := by
  have h := Keeps.refl s
  unfold execFade
  with_reducible repeat' first
    | assumption | apply State.doFade_keeps | apply keepsO_ok | apply keepsO_ite

theorem execFadeStart_keeps {s : State} (d : Nat) : KeepsO s (execFadeStart d s) := by
  have h := Keeps.refl s
  unfold execFadeStart
  with_reducible repeat' first
    | assumption | apply State.put_keeps | apply State.setDfuIn_keeps | apply State.setDfu_keeps
    | apply State.showFades_keeps | apply keepsO_ok | apply keepsO_ite | apply keeps_ite | split
    | refine keeps_mk ?_ rfl rfl rfl rfl rfl | extract_lets

theorem State.endFade_keeps {s₀ s : State} (h : Keeps s₀ s) (d i : Nat) : Keeps s₀ (State.endFade s d i) := by
  unfold State.endFade
  with_reducible repeat' first
    | assumption | apply State.put_keeps | apply State.setDfuIn_keeps | refine keeps_mk ?_ rfl rfl rfl rfl rfl | extract_lets

theorem execFadeEnd_keeps {s : State} (d i : Nat) : KeepsO s (execFadeEnd d i s) := by
  have h := Keeps.refl s
  unfold execFadeEnd
  with_reducible repeat' first
    | assumption | apply State.endFade_keeps | apply State.put_keeps | apply State.raise_keeps | apply keepsO_ok
    | apply keepsO_ite | apply keeps_ite | extract_lets

theorem State.abandonFade_keeps {s₀ s : State} (h : Keeps s₀ s) (d i : Nat) : Keeps s₀ (State.abandonFade s d i) := by
  unfold State.abandonFade
  with_reducible repeat' first
    | assumption | (intro _) | apply State.emit_keeps | apply State.endFade_keeps | apply State.put_keeps
    | apply State.raise_keeps | apply State.setDfu_keeps | apply State.showFades_keeps | apply keeps_ite
    | refine keeps_mk ?_ rfl rfl rfl rfl rfl | extract_lets

theorem State.completeOpt_keeps {s₀ s : State} (h : Keeps s₀ s) (c : Option CmdHdr) (code : Nat) : Keeps s₀ (State.completeOpt s c code) := by
  unfold State.completeOpt
  with_reducible repeat' first
    | assumption | apply State.complete_keeps | split | refine keeps_mk ?_ rfl rfl rfl rfl rfl

theorem execDfuChange_keeps {s : State} (d i cfg cplx : Nat) (c : Option CmdHdr) : KeepsO s (execDfuChange d i cfg s cplx c) := by
  have h := Keeps.refl s
  unfold execDfuChange
  with_reducible repeat' first
    | assumption | apply State.completeOpt_keeps | apply State.discardHist_keeps | apply State.put_keeps
    | apply State.softWrite_keeps | apply keepsO_ok | apply keepsO_ite | apply keeps_ite

theorem State.doCoefLoad_keeps {s₀ s : State} (h : Keeps s₀ s) (c : CmdHdr) (d i set : Nat) : Keeps s₀ (State.doCoefLoad s c d i set) := by
  unfold State.doCoefLoad
  with_reducible repeat' first
    | assumption | (intro _) | apply State.complete_keeps | apply State.inMode_keeps | apply State.wr_keeps | apply keeps_ite
    | apply keeps_forAll | extract_lets

theorem execCoefLoad_keeps {s : State} (c : CmdHdr) (d i set : Nat) : KeepsO s (execCoefLoad c d i set s) := by
  have h := Keeps.refl s
  unfold execCoefLoad
  with_reducible repeat' first
    | assumption | apply State.doCoefLoad_keeps | apply keepsO_ok | apply keepsO_ite

theorem State.doPolySet_keeps {s₀ s : State} (h : Keeps s₀ s) (c : CmdHdr) (d i : Nat) (p : Poly) : Keeps s₀ (State.doPolySet s c d i p) := by
  unfold State.doPolySet
  with_reducible repeat' first
    | assumption | (intro _) | apply State.complete_keeps | apply State.inMode_keeps | apply State.put_keeps
    | apply State.wr_keeps | apply keeps_ite | extract_lets

theorem execPolySet_keeps {s : State} (c : CmdHdr) (d i : Nat) (p : Poly) : KeepsO s (execPolySet c d i p s) := by
  have h := Keeps.refl s
  unfold execPolySet
  with_reducible repeat' first
    | assumption | apply State.doPolySet_keeps | apply keepsO_ok | apply keepsO_ite

/-! ### Products -/

theorem State.unitDone_keeps {s₀ s : State} (h : Keeps s₀ s) (u : PUnit) (seq : Nat) : Keeps s₀ (State.unitDone s u seq) := by
  unfold State.unitDone
  with_reducible repeat' first
    | assumption | (intro _) | apply State.complete_keeps | apply State.dumpCommitted_keeps | apply State.vitWritten_keeps
    | apply keeps_ite | split | refine keeps_mk ?_ rfl rfl rfl rfl rfl

theorem State.overflowEvt_keeps {s₀ s : State} (h : Keeps s₀ s)  : Keeps s₀ (State.overflowEvt s) := by
  unfold State.overflowEvt
  with_reducible repeat' first
    | assumption | apply State.emit_keeps | apply keeps_ite | refine keeps_mk ?_ rfl rfl rfl rfl rfl

theorem State.enterEvt_keeps {s₀ s : State} (h : Keeps s₀ s) (r : Nat) : Keeps s₀ (State.enterEvt s r) := by
  unfold State.enterEvt
  split
  · exact h
  · split
    · rename_i t heq
      have ht := State.commit_keeps h heq
      refine State.overflowEvt_keeps (ht.trans ⟨(Keeps.refl t).1, fun hi => ⟨hi.1, ?_, hi.2.2⟩⟩)
      have hl := hi.2.1
      simp only [List.length_tail]
      omega
    · exact keeps_ite (State.stall_keeps h _) h

theorem State.enterUnit_keeps {s₀ s : State} (h : Keeps s₀ s) (r : Nat) (u : PUnit) : Keeps s₀ (State.enterUnit s r u) := by
  unfold State.enterUnit
  extract_lets d
  split
  · exact State.unitDone_keeps (State.bump_keeps (keeps_mk h rfl rfl rfl rfl rfl) _) _ _
  · split
    · rename_i t heq
      have ht := State.commit_keeps h heq
      extract_lets s2
      have h2 : Keeps s₀ s2 := keeps_mk ht rfl rfl rfl rfl rfl
      exact State.unitDone_keeps (keeps_ite (State.setMark_keeps h2 _ _ _ _) h2) _ _
    · have h1 := State.stall_keeps h d
      exact keeps_ite h (keeps_ite (State.raise_keeps h1 _) h1)

theorem execUnitEntry_keeps {s : State} (ring : Nat) : KeepsO s (execUnitEntry ring s) := by
  have h := Keeps.refl s
  unfold execUnitEntry
  with_reducible repeat' first
    | assumption | apply State.enterEvt_keeps | apply State.enterUnit_keeps | apply keepsO_ok | apply keepsO_ite
    | apply keeps_ite | split | refine keeps_mk ?_ rfl rfl rfl rfl rfl

theorem execSealTimer_keeps {s : State} (ring : Nat) : KeepsO s (execSealTimer ring s) := by
  have h := Keeps.refl s
  unfold execSealTimer
  with_reducible repeat' first
    | assumption | apply State.advance_keeps | apply State.triggerSeal_keeps | apply keepsO_ok | apply keepsO_ite
    | apply keeps_ite | extract_lets

theorem State.voidSeal_keeps {s₀ s : State} (h : Keeps s₀ s) (r : Nat) : Keeps s₀ (State.voidSeal s r) := by
  unfold State.voidSeal
  with_reducible repeat' first
    | assumption | apply State.put_keeps | apply State.triggerSeal_keeps | apply keeps_ite
    | refine keeps_mk ?_ rfl rfl rfl rfl rfl

theorem State.signSeal_keeps {s₀ s : State} (h : Keeps s₀ s)  : Keeps s₀ (State.signSeal s) := by
  unfold State.signSeal
  with_reducible repeat' first
    | assumption | apply State.bump_keeps | apply State.drop_keeps | apply State.enterUnit_keeps | apply State.put_keeps
    | apply keeps_ite | split | refine keeps_mk ?_ rfl rfl rfl rfl rfl | extract_lets

theorem execSealSign_keeps {s : State}  : KeepsO s (execSealSign s) := by
  have h := Keeps.refl s
  unfold execSealSign
  with_reducible repeat' first
    | assumption | apply State.signSeal_keeps | apply keepsO_ok | apply keepsO_ite

theorem State.signSeals_keeps {s₀ s : State} (h : Keeps s₀ s)  : Keeps s₀ (State.signSeals s) := by
  unfold State.signSeals
  with_reducible repeat' first
    | assumption | (intro _) | apply State.signSeal_keeps | apply keeps_forAll | split
    | refine keeps_mk ?_ rfl rfl rfl rfl rfl | extract_lets

theorem State.sent_keeps {s₀ s : State} (h : Keeps s₀ s) (r t : Nat) : Keeps s₀ (State.sent s r t) := by
  unfold State.sent
  with_reducible repeat' first
    | assumption | apply State.setRing_keeps | apply State.showTarget_keeps | apply keeps_ite
    | refine keeps_mk ?_ rfl rfl rfl rfl rfl | extract_lets

theorem State.sendCollector_keeps {s₀ s : State} (h : Keeps s₀ s) (r dev : Nat) (first : Bool) (n : Nat) (ws : List Word) :
    Keeps s₀ (State.sendCollector s r dev first n ws) := by
  induction n generalizing s first ws with
  | zero => exact h
  | succ n ih =>
    unfold State.sendCollector
    exact keeps_ite h (ih (State.originate_keeps h _ _ _ _ _ _) _ _)

theorem State.noteVoid_keeps {s₀ s : State} (h : Keeps s₀ s) (r : Nat) (p : RProd) : Keeps s₀ (State.noteVoid s r p) := by
  unfold State.noteVoid
  with_reducible repeat' first
    | assumption | apply State.emit_keeps | apply State.setRing_keeps | apply State.voidSeal_keeps | apply keeps_ite
    | refine keeps_mk ?_ rfl rfl rfl rfl rfl | extract_lets

theorem State.prodRead_keeps {s₀ s : State} (h : Keeps s₀ s) (r : Nat) (p : RProd) (bad : List Nat) :
    Keeps s₀ (State.prodRead s r p bad).1 := by
  unfold State.prodRead
  extract_lets hit ws
  split
  · exact h
  · exact State.noteVoid_keeps (keeps_forAll h _ fun s b hs => State.uncorr_keeps hs _ _ _ _) _ _

theorem execTargetSend_keeps {s : State} (ring tgt : Nat) (bad : List Nat) : KeepsO s (execTargetSend ring tgt bad s) := by
  have h := Keeps.refl s
  unfold execTargetSend
  with_reducible repeat' first
    | assumption | apply State.landProduct_keeps | apply State.prodRead_keeps | apply State.sendCollector_keeps
    | apply State.sent_keeps | apply keepsO_ok | apply keepsO_ite | apply keeps_ite | split
    | refine keeps_mk ?_ rfl rfl rfl rfl rfl | extract_lets

theorem execCollectorAck_keeps {s : State} (p : Pkt) : KeepsO s (execCollectorAck p s) := by
  have h := Keeps.refl s
  unfold execCollectorAck
  with_reducible repeat' first
    | assumption | (intro _) | apply State.ackRing_keeps | apply State.takeInbox_keeps | apply keepsO_ok | apply keepsO_ite
    | apply keeps_ite | split | refine keeps_mk ?_ rfl rfl rfl rfl rfl | extract_lets

theorem execAckTimeout_keeps {s : State} (ring tgt : Nat) : KeepsO s (execAckTimeout ring tgt s) := by
  have h := Keeps.refl s
  unfold execAckTimeout
  with_reducible repeat' first
    | assumption | apply State.advance_keeps | apply State.resend_keeps | apply keepsO_ok | apply keepsO_ite
    | apply keeps_ite | extract_lets

theorem State.retarget_keeps {s₀ s : State} (h : Keeps s₀ s) (r : Nat) : Keeps s₀ (State.retarget s r) := by
  unfold State.retarget
  with_reducible repeat' first
    | assumption | apply State.emit_keeps | apply State.freeRing_keeps | apply State.put_keeps | apply State.raise_keeps
    | apply State.setRing_keeps | apply State.showTarget_keeps | apply keeps_ite | refine keeps_mk ?_ rfl rfl rfl rfl rfl
    | extract_lets

theorem State.retargetAll_keeps {s₀ s : State} (h : Keeps s₀ s)  : Keeps s₀ (State.retargetAll s) := by
  unfold State.retargetAll
  with_reducible repeat' first
    | assumption | (intro _) | apply State.retarget_keeps | apply keeps_forAll

theorem State.resendEvery_keeps {s₀ s : State} (h : Keeps s₀ s)  : Keeps s₀ (State.resendEvery s) := by
  unfold State.resendEvery
  with_reducible repeat' first
    | assumption | (intro _) | apply State.resend_keeps | apply keeps_forAll

theorem State.sealAll_keeps {s₀ s : State} (h : Keeps s₀ s)  : Keeps s₀ (State.sealAll s) := by
  unfold State.sealAll
  with_reducible repeat' first
    | assumption | (intro _) | apply State.triggerSeal_keeps | apply keeps_ite | apply keeps_forAll

/-! ### Security -/

theorem State.appendOwner_keeps {s₀ s : State} (h : Keeps s₀ s) (h : List Nat) : Keeps s₀ (State.appendOwner s h) := by
  unfold State.appendOwner
  with_reducible repeat' first
    | assumption | apply State.appendRec_keeps

theorem State.showPending_keeps {s₀ s : State} (h : Keeps s₀ s)  : Keeps s₀ (State.showPending s) := by
  unfold State.showPending
  with_reducible repeat' first
    | assumption | apply State.putOctets32_keeps | apply State.put_keeps

theorem State.showOwner_keeps {s₀ s : State} (h : Keeps s₀ s)  : Keeps s₀ (State.showOwner s) := by
  unfold State.showOwner
  with_reducible repeat' first
    | assumption | apply State.putOctets32_keeps | apply State.put_keeps

theorem State.lockDebug_keeps {s₀ s : State} (h : Keeps s₀ s)  : Keeps s₀ (State.lockDebug s) := by
  unfold State.lockDebug
  with_reducible repeat' first
    | assumption | (intro _) | apply State.emitOut_keeps | apply State.put_keeps | apply keeps_ite | apply keeps_when
    | refine keeps_mk ?_ rfl rfl rfl rfl rfl | extract_lets

theorem State.burnSlot_keeps {s₀ s : State} (h : Keeps s₀ s) (hl : s.sec.slots.length < 8) (k : List Nat) :
    Keeps s₀ (State.burnSlot s k) := by
  refine h.trans ⟨⟨rfl, rfl, List.suffix_refl _, Nat.le_refl _, List.prefix_append _ _, Nat.le_refl _, id, ?_⟩, ?_⟩
  · intro hd; simp only [State.burnSlot, hd, Bool.true_or]
  · intro hi
    refine ⟨hi.1, hi.2.1, hi.2.2.1, ?_⟩
    simp only [State.burnSlot, List.length_append, List.length_singleton]
    omega

theorem State.burnOwner_keeps {s₀ s : State} (h : Keeps s₀ s) (base : List Baseline) : Keeps s₀ (State.burnOwner s base) := by
  unfold State.burnOwner
  split
  · exact h
  · split
    · exact h
    · rename_i hn
      have h1 := State.burnSlot_keeps h (by omega) ‹List Nat›
      with_reducible repeat' first
        | assumption | (intro _) | apply State.captureBaseline_keeps | apply State.emit_keeps | apply State.lockDebug_keeps
        | apply State.raise_keeps | apply State.showOwner_keeps | apply State.showPending_keeps | apply keeps_ite
        | apply keeps_forAll | extract_lets

theorem State.doOwnerTransfer_keeps {s₀ s : State} (h : Keeps s₀ s) (c : CmdHdr) (hash : List Nat) (base : List Baseline) : Keeps s₀ (State.doOwnerTransfer s c hash base) := by
  unfold State.doOwnerTransfer
  with_reducible repeat' first
    | assumption | (intro _) | apply State.appendOwner_keeps | apply State.burnOwner_keeps | apply State.complete_keeps
    | apply State.emit_keeps | apply State.inMode_keeps | apply State.raise_keeps | apply State.showPending_keeps
    | apply keeps_ite | refine keeps_mk ?_ rfl rfl rfl rfl rfl | extract_lets

theorem execOwnerTransfer_keeps {s : State} (c : CmdHdr) (hash : List Nat) (base : List Baseline) : KeepsO s (execOwnerTransfer c hash base s) := by
  have h := Keeps.refl s
  unfold execOwnerTransfer
  with_reducible repeat' first
    | assumption | apply State.doOwnerTransfer_keeps | apply keepsO_ok | apply keepsO_ite

theorem State.drawOctets_keeps {s₀ s : State} (h : Keeps s₀ s) (n : Nat) : Keeps s₀ (State.drawOctets s n).2 :=
  keeps_mk (State.draw_keeps h _) rfl rfl rfl rfl rfl

theorem State.newChallenge_keeps {s₀ s : State} (h : Keeps s₀ s)  : Keeps s₀ (State.newChallenge s) := by
  unfold State.newChallenge
  with_reducible repeat' first
    | assumption | apply State.drawOctets_keeps | apply State.putOctets32_keeps | apply keeps_ite
    | refine keeps_mk ?_ rfl rfl rfl rfl rfl | extract_lets

theorem State.trngFails_keeps {s₀ s : State} (h : Keeps s₀ s)  : Keeps s₀ (State.trngFails s) := by
  unfold State.trngFails
  with_reducible repeat' first
    | assumption | apply State.bump_keeps | apply State.emit_keeps | apply State.put_keeps | apply State.raise_keeps
    | refine keeps_mk ?_ rfl rfl rfl rfl rfl

theorem execTrngFail_keeps {s : State}  : KeepsO s (execTrngFail s) := by
  have h := Keeps.refl s
  unfold execTrngFail
  with_reducible repeat' first
    | assumption | apply State.trngFails_keeps | apply keepsO_ok | apply keepsO_ite | apply keeps_ite

theorem execDrbgReseed_keeps {s : State} (pass : Bool) : KeepsO s (execDrbgReseed pass s) := by
  have h := Keeps.refl s
  unfold execDrbgReseed
  with_reducible repeat' first
    | assumption | apply State.newChallenge_keeps | apply State.put_keeps | apply State.trngFails_keeps | apply keepsO_ok
    | apply keepsO_ite | apply keeps_ite | refine keeps_mk ?_ rfl rfl rfl rfl rfl | extract_lets

theorem State.newSealKey_keeps {s₀ s : State} (h : Keeps s₀ s)  : Keeps s₀ (State.newSealKey s) := by
  unfold State.newSealKey
  with_reducible repeat' first
    | assumption | apply State.bump_keeps | apply State.draw_keeps | apply State.putOctets32_keeps | apply State.put_keeps
    | apply State.raise_keeps | refine keeps_mk ?_ rfl rfl rfl rfl rfl | extract_lets

theorem State.eraseSealKey_keeps {s₀ s : State} (h : Keeps s₀ s)  : Keeps s₀ (State.eraseSealKey s) := by
  unfold State.eraseSealKey
  with_reducible repeat' first
    | assumption | apply State.put_keeps | refine keeps_mk ?_ rfl rfl rfl rfl rfl

theorem State.queueAttest_keeps {s₀ s : State} (h : Keeps s₀ s) (nonce : List Nat) (c : Option CmdHdr) : Keeps s₀ (State.queueAttest s nonce c) := by
  unfold State.queueAttest
  with_reducible repeat' first
    | assumption | apply State.put_keeps | refine keeps_mk ?_ rfl rfl rfl rfl rfl | extract_lets

theorem State.doAttest_keeps {s₀ s : State} (h : Keeps s₀ s) (c : CmdHdr) (nonce : List Nat) : Keeps s₀ (State.doAttest s c nonce) := by
  unfold State.doAttest
  with_reducible repeat' first
    | assumption | (intro _) | apply State.complete_keeps | apply State.inMode_keeps | apply State.queueAttest_keeps
    | apply keeps_ite

theorem execAttest_keeps {s : State} (c : CmdHdr) (nonce : List Nat) : KeepsO s (execAttest c nonce s) := by
  have h := Keeps.refl s
  unfold execAttest
  with_reducible repeat' first
    | assumption | apply State.doAttest_keeps | apply keepsO_ok | apply keepsO_ite

theorem execAttestationSign_keeps {s : State}  : KeepsO s (execAttestationSign s) := by
  have h := Keeps.refl s
  unfold execAttestationSign
  with_reducible repeat' first
    | assumption | apply State.bump_keeps | apply State.enterUnit_keeps | apply State.put_keeps | apply keepsO_ok
    | apply keepsO_ite | apply keeps_ite | split | refine keeps_mk ?_ rfl rfl rfl rfl rfl | extract_lets

theorem State.unlock_keeps {s₀ s : State} (h : Keeps s₀ s) (scope secs : Nat) : Keeps s₀ (State.unlock s scope secs) := by
  unfold State.unlock
  with_reducible repeat' first
    | assumption | apply State.bump_keeps | apply State.emitOut_keeps | apply State.emit_keeps | apply State.put_keeps
    | apply State.raise_keeps | apply keeps_ite | refine keeps_mk ?_ rfl rfl rfl rfl rfl | extract_lets

theorem State.doDebugUnlock_keeps {s₀ s : State} (h : Keeps s₀ s) (c : CmdHdr) (resp : List Nat) : Keeps s₀ (State.doDebugUnlock s c resp) := by
  unfold State.doDebugUnlock
  with_reducible repeat' first
    | assumption | (intro _) | apply State.bump_keeps | apply State.complete_keeps | apply State.drop_keeps
    | apply State.emit_keeps | apply State.eraseSealKey_keeps | apply State.inMode_keeps | apply State.newChallenge_keeps
    | apply State.raise_keeps | apply State.take_keeps | apply State.unlock_keeps | apply keeps_ite | apply keeps_when
    | extract_lets

theorem execDebugUnlock_keeps {s : State} (c : CmdHdr) (resp : List Nat) : KeepsO s (execDebugUnlock c resp s) := by
  have h := Keeps.refl s
  unfold execDebugUnlock
  with_reducible repeat' first
    | assumption | apply State.doDebugUnlock_keeps | apply keepsO_ok | apply keepsO_ite

theorem execDebugExpiry_keeps {s : State}  : KeepsO s (execDebugExpiry s) := by
  have h := Keeps.refl s
  unfold execDebugExpiry
  with_reducible repeat' first
    | assumption | apply State.advance_keeps | apply State.lockDebug_keeps | apply keepsO_ok | apply keepsO_ite
    | apply keeps_ite

/-! ### Image -/

theorem State.loadCoreMem_keeps {s₀ s : State} (h : Keeps s₀ s) (d c o : Nat) (w : Word) : Keeps s₀ (State.loadCoreMem s d c o w) := by
  unfold State.loadCoreMem
  with_reducible repeat' first
    | assumption | apply State.pm_keeps | apply State.put_keeps | apply State.setCore_keeps | apply keeps_ite
    | refine keeps_mk ?_ rfl rfl rfl rfl rfl | extract_lets

theorem State.loadSlot_keeps {s₀ s : State} (h : Keeps s₀ s) (x : Nat × Word) : Keeps s₀ (State.loadSlot s x) := by
  unfold State.loadSlot
  with_reducible repeat' first
    | assumption | apply State.loadCoreMem_keeps | apply State.put_keeps | apply State.softWrite_keeps | apply keeps_ite
    | extract_lets

theorem State.loadAll_keeps {s₀ s : State} (h : Keeps s₀ s) (ws : List (Nat × Word)) : Keeps s₀ (State.loadAll s ws) := by
  unfold State.loadAll
  with_reducible repeat' first
    | assumption | (intro _) | apply State.loadSlot_keeps | apply keeps_forAll

theorem State.applyDevice_keeps {s₀ s : State} (h : Keeps s₀ s) (dev : Nat) : Keeps s₀ (State.applyDevice s dev) := by
  unfold State.applyDevice
  with_reducible repeat' first
    | assumption | (intro _) | apply State.loadAll_keeps | apply keeps_forAll

theorem State.copyStore_keeps {s₀ s : State} (h : Keeps s₀ s) (dev : Nat) : Keeps s₀ (State.copyStore s dev) := by
  unfold State.copyStore
  with_reducible repeat' first
    | assumption | (intro _) | split | refine keeps_mk ?_ rfl rfl rfl rfl rfl | extract_lets

theorem State.setPair_keeps {s₀ s : State} (h : Keeps s₀ s) (d : Nat) : Keeps s₀ (State.setPair s d) := by
  unfold State.setPair
  extract_lets p on rest own
  have hk : ∀ m : Store Word, Store.wf dramInit m → Store.wf dramInit (Store.keep m fun k => k / 2 ^ 40 != d) := fun m hm =>
    Store.wf_keep hm _
  have h1 : Keeps s₀ { s with mirrors := own.foldl (fun m (e : Nat × Word) => Store.put dramInit m e.1 e.2) rest } :=
    h.trans ⟨(Keeps.refl s).1, fun hi => ⟨⟨hi.1.1, hi.1.2.1, hi.1.2.2.1, hi.1.2.2.2.1,
      Store.wf_foldl_put own (hk s.mirrors hi.1.2.2.2.2)⟩, hi.2⟩⟩
  exact keeps_ite h (State.put_keeps h1 _ _)

theorem State.startCores_keeps {s₀ s : State} (h : Keeps s₀ s) (d : Nat) : Keeps s₀ (State.startCores s d) := by
  unfold State.startCores
  with_reducible repeat' first
    | assumption | (intro _) | apply State.setFc_keeps | apply State.setSave_keeps | apply keeps_ite | apply keeps_forAll
    | refine keeps_mk ?_ rfl rfl rfl rfl rfl | extract_lets

theorem State.applyProg_keeps {s₀ s : State} (h : Keeps s₀ s) (p : Nat) : Keeps s₀ (State.applyProg s p) := by
  unfold State.applyProg
  with_reducible repeat' first
    | assumption | (intro _) | apply State.loadAll_keeps | apply State.setPair_keeps | apply State.startCores_keeps
    | apply keeps_forAll | extract_lets

theorem State.fuseSvn_keeps {s₀ s : State} (h : Keeps s₀ s) (n : Nat) : Keeps s₀ (State.fuseSvn s n) := by
  have h1 : Keeps s₀ { s with sec := { s.sec with svn := max s.sec.svn n } } :=
    h.trans ⟨⟨rfl, rfl, List.suffix_refl _, Nat.le_refl _, List.prefix_refl _, Nat.le_max_left _ _, id, id⟩, id⟩
  exact State.put_keeps h1 _ _

theorem State.raiseFloor_keeps {s₀ s : State} (h : Keeps s₀ s)  : Keeps s₀ (State.raiseFloor s) := by
  unfold State.raiseFloor
  with_reducible repeat' first
    | assumption | apply State.appendCounter_keeps | apply State.emit_keeps | apply State.fuseSvn_keeps
    | apply State.put_keeps | apply State.raise_keeps | apply keeps_ite | refine keeps_mk ?_ rfl rfl rfl rfl rfl
    | extract_lets

theorem State.setPassed_keeps {s₀ s : State} (h : Keeps s₀ s) (dev : Nat) (b : Bool) : Keeps s₀ (State.setPassed s dev b) := by
  unfold State.setPassed
  with_reducible repeat' first
    | assumption | apply State.put_keeps | apply keeps_ite | refine keeps_mk ?_ rfl rfl rfl rfl rfl | extract_lets

theorem State.eraseFlash_keeps {s₀ s : State} (h : Keeps s₀ s) (dev off n : Nat) : Keeps s₀ (State.eraseFlash s dev off n) := by
  refine h.trans ⟨(Keeps.refl s).1, fun hi => ⟨⟨hi.1.1, hi.1.2.1, ?_, hi.1.2.2.2⟩, hi.2⟩⟩
  have hk := Store.wf_keep hi.1.2.2.1 fun k => !(decide (flashKey dev off ≤ k) && decide (k < flashKey dev off + n))
  exact hk

theorem State.doImageUpdate_keeps {s₀ s : State} (h : Keeps s₀ s) (c : CmdHdr) (dev addr len : Nat) (mem : List HRead) : Keeps s₀ (State.doImageUpdate s c dev addr len mem) := by
  unfold State.doImageUpdate
  with_reducible repeat' first
    | assumption | (intro _) | apply State.complete_keeps | apply State.drop_keeps | apply State.eraseFlash_keeps
    | apply State.inMode_keeps | apply State.put_keeps | apply State.run_keeps | apply State.setPassed_keeps
    | apply State.take_keeps | apply State.wrFlash_keeps | apply keeps_ite | split | refine keeps_mk ?_ rfl rfl rfl rfl rfl
    | extract_lets

theorem execImageUpdate_keeps {s : State} (c : CmdHdr) (dev addr len : Nat) (mem : List HRead) : KeepsO s (execImageUpdate c dev addr len mem s) := by
  have h := Keeps.refl s
  unfold execImageUpdate
  with_reducible repeat' first
    | assumption | apply State.doImageUpdate_keeps | apply keepsO_ok | apply keepsO_ite

theorem State.endUpdate_keeps {s₀ s : State} (h : Keeps s₀ s) (dev code : Nat) : Keeps s₀ (State.endUpdate s dev code) := by
  unfold State.endUpdate
  with_reducible repeat' first
    | assumption | (intro _) | apply State.finish_keeps | apply State.put_keeps | apply State.raise_keeps
    | apply State.setPassed_keeps | apply keeps_ite | refine keeps_mk ?_ rfl rfl rfl rfl rfl | extract_lets

theorem execUpdateDone_keeps {s : State} (ioOk : Bool) : KeepsO s (execUpdateDone ioOk s) := by
  have h := Keeps.refl s
  unfold execUpdateDone
  with_reducible repeat' first
    | assumption | apply State.bump_keeps | apply State.endUpdate_keeps | apply State.eraseFlash_keeps
    | apply State.wrFlash_keeps | apply keepsO_ok | apply keepsO_ite | apply keeps_ite | split
    | refine keeps_mk ?_ rfl rfl rfl rfl rfl | extract_lets

/-! ### Inputs -/

theorem State.rejectLink_keeps {s₀ s : State} (h : Keeps s₀ s) (d j : Nat) : Keeps s₀ (State.rejectLink s d j) := by
  unfold State.rejectLink
  with_reducible repeat' first
    | assumption | (intro _) | apply State.emit_keeps | apply State.put_keeps | apply State.raise_keeps | apply keeps_forAll
    | split | refine keeps_mk ?_ rfl rfl rfl rfl rfl | extract_lets

theorem State.checkInput_keeps {s₀ s : State} (h : Keeps s₀ s) (d i : Nat) : Keeps s₀ (State.checkInput s d i) := by
  unfold State.checkInput
  with_reducible repeat' first
    | assumption | (intro _) | apply State.emit_keeps | apply State.put_keeps | apply keeps_ite | extract_lets

theorem State.checkLanes_keeps {s₀ s : State} (h : Keeps s₀ s) (d : Nat) : Keeps s₀ (State.checkLanes s d) := by
  unfold State.checkLanes
  with_reducible repeat' first
    | assumption | (intro _) | apply State.checkInput_keeps | apply State.rejectLink_keeps | apply keeps_forAll
    | extract_lets

/-! ### Switch -/

theorem State.seatCore_keeps {s₀ s : State} (h : Keeps s₀ s) (d c : Nat) : Keeps s₀ (State.seatCore s d c) := by
  unfold State.seatCore
  with_reducible repeat' first
    | assumption | (intro _) | apply State.advise_keeps | apply State.copyCfg_keeps | apply State.put_keeps
    | apply State.request_keeps | apply State.setCore_keeps | apply State.setFc_keeps | apply keeps_ite | split
    | refine keeps_mk ?_ rfl rfl rfl rfl rfl | extract_lets

theorem State.seatTile_keeps {s₀ s : State} (h : Keeps s₀ s) (d t : Nat) : Keeps s₀ (State.seatTile s d t) := by
  unfold State.seatTile
  with_reducible repeat' first
    | assumption | (intro _) | apply State.advise_keeps | apply State.loseLt_keeps | apply State.put_keeps
    | apply State.serve_keeps | apply State.setGal_keeps | apply keeps_ite | split | refine keeps_mk ?_ rfl rfl rfl rfl rfl
    | extract_lets

theorem State.reseat_keeps {s₀ s : State} (h : Keeps s₀ s) (d : Nat) : Keeps s₀ (State.reseat s d) := by
  unfold State.reseat
  with_reducible repeat' first
    | assumption | (intro _) | apply State.seatCore_keeps | apply State.seatTile_keeps | apply State.setFc_keeps
    | apply State.showGt_keeps | apply State.showLoans_keeps | apply keeps_ite | apply keeps_forAll
    | refine keeps_mk ?_ rfl rfl rfl rfl rfl | extract_lets

theorem State.checkExhausted_keeps {s₀ s : State} (h : Keeps s₀ s) (d : Nat) : Keeps s₀ (State.checkExhausted s d) := by
  unfold State.checkExhausted
  with_reducible repeat' first
    | assumption | apply State.unrequest_keeps | apply keeps_ite

theorem State.rejoinUnit_keeps {s₀ s : State} (h : Keeps s₀ s) (u : UnitId) : Keeps s₀ (State.rejoinUnit s u) := by
  unfold State.rejoinUnit
  with_reducible repeat' first
    | assumption | (intro _) | apply State.chainStart_keeps | apply State.putBit_keeps | apply State.put_keeps
    | apply State.retargetAll_keeps | apply State.setCh_keeps | apply State.setChain_keeps | apply State.setGal_keeps
    | apply State.setUnitState_keeps | apply State.showGt_keeps | apply State.unrequest_keeps | split
    | refine keeps_mk ?_ rfl rfl rfl rfl rfl | extract_lets

theorem State.rejoinAll_keeps {s₀ s : State} (h : Keeps s₀ s)  : Keeps s₀ (State.rejoinAll s) := by
  unfold State.rejoinAll
  with_reducible repeat' first
    | assumption | (intro _) | apply State.rejoinUnit_keeps | apply keeps_forAll | refine keeps_mk ?_ rfl rfl rfl rfl rfl

theorem State.putWords_keeps {s₀ s : State} (h : Keeps s₀ s) (d : Nat) (ws : List (Nat × Word)) :
    Keeps s₀ (State.putWords s d ws) := by
  unfold State.putWords
  extract_lets s1
  have hk : ∀ m : Store Word, Store.wf dramInit m → Store.wf dramInit (Store.keep m fun k => !s.progWord d k) := fun m hm =>
    Store.wf_keep hm _
  have h1 : Keeps s₀ s1 := h.trans ⟨(Keeps.refl s).1, fun hi =>
    ⟨⟨hi.1.1, hk s.dram hi.1.2.1, hi.1.2.2.1, hi.1.2.2.2.1, hk s.mirrors hi.1.2.2.2.2⟩, hi.2⟩⟩
  exact keeps_forAll h1 _ fun s e hs => State.wrMem_keeps hs _ _ _

theorem State.dropProgSlots_keeps {s₀ s : State} (h : Keeps s₀ s) (d : Nat) : Keeps s₀ (State.dropProgSlots s d) :=
  h.trans ⟨(Keeps.refl s).1, fun hi => ⟨⟨Store.wf_filter hi.1.1 _, hi.1.2⟩, hi.2⟩⟩

theorem State.putRegs_keeps {s₀ s : State} (h : Keeps s₀ s) (l : List (Nat × Word)) : Keeps s₀ (State.putRegs s l) :=
  h.trans ⟨(Keeps.refl s).1, fun hi => ⟨⟨Store.wf_foldl_put l hi.1.1, hi.1.2⟩, hi.2⟩⟩

theorem State.saveBanks_keeps {s₀ s : State} (h : Keeps s₀ s) (d : Nat) : Keeps s₀ (State.saveBanks s d) := by
  unfold State.saveBanks
  with_reducible repeat' first
    | assumption | (intro _) | apply State.setTile_keeps | apply keeps_forAll | refine keeps_mk ?_ rfl rfl rfl rfl rfl
    | extract_lets

theorem State.setAside_keeps {s₀ s : State} (h : Keeps s₀ s) (p d : Nat) : Keeps s₀ (State.setAside s p d) := by
  unfold State.setAside
  with_reducible repeat' first
    | assumption | (intro _) | apply State.dropProgSlots_keeps | apply State.put_keeps | apply State.setAcu_keeps
    | apply State.setBe_keeps | apply State.setCte_keeps | apply State.setDfu_keeps | apply State.setFc_keeps
    | apply State.setGal_keeps | apply State.setLed_keeps | apply keeps_forAll | refine keeps_mk ?_ rfl rfl rfl rfl rfl
    | extract_lets

theorem State.discardAside_keeps {s₀ s : State} (h : Keeps s₀ s) (d k : Nat) : Keeps s₀ (State.discardAside s d k) := by
  unfold State.discardAside
  with_reducible repeat' first
    | assumption | (intro _) | apply State.discardHist_keeps | apply State.galWarm_keeps | apply State.setCore_keeps
    | apply State.setCte_keeps | apply State.setFc_keeps | apply keeps_forAll | refine keeps_mk ?_ rfl rfl rfl rfl rfl
    | extract_lets

theorem State.bringBack_keeps {s₀ s : State} (h : Keeps s₀ s) (x : SetAside) : Keeps s₀ (State.bringBack s x) := by
  unfold State.bringBack
  with_reducible repeat' first
    | assumption | (intro _) | apply State.discardAside_keeps | apply State.putRegs_keeps | apply State.putWords_keeps
    | apply State.setAcu_keeps | apply State.setBe_keeps | apply State.setCte_keeps | apply State.setDfu_keeps
    | apply State.setFc_keeps | apply State.setGal_keeps | apply State.setLed_keeps | apply keeps_when
    | refine keeps_mk ?_ rfl rfl rfl rfl rfl | extract_lets

theorem State.seatSaved_keeps {s₀ s : State} (h : Keeps s₀ s) (x : SetAside) : Keeps s₀ (State.seatSaved s x) := by
  unfold State.seatSaved
  with_reducible repeat' first
    | assumption | (intro _) | apply State.put_keeps | apply State.setCore_keeps | apply State.setTile_keeps
    | apply keeps_ite | apply keeps_forAll | refine keeps_mk ?_ rfl rfl rfl rfl rfl | extract_lets

theorem State.closeVits_keeps {s₀ s : State} (h : Keeps s₀ s) (d : Nat) : Keeps s₀ (State.closeVits s d) := by
  unfold State.closeVits
  with_reducible repeat' first
    | assumption | (intro _) | apply State.truncVit_keeps | apply keeps_forAll | apply keeps_foldl | extract_lets

theorem State.leaveProg_keeps {s₀ s : State} (h : Keeps s₀ s) (last : Nat) : Keeps s₀ (State.leaveProg s last) := by
  unfold State.leaveProg
  with_reducible repeat' first
    | assumption | (intro _) | apply State.closeVits_keeps | apply State.dumpOnSwitch_keeps | apply keeps_forAll
    | refine keeps_mk ?_ rfl rfl rfl rfl rfl | extract_lets

theorem State.markSuspended_keeps {s₀ s : State} (h : Keeps s₀ s) (p : Nat) (b : Bool) : Keeps s₀ (State.markSuspended s p b) := by
  unfold State.markSuspended
  with_reducible repeat' first
    | assumption | apply State.putBit_keeps

theorem State.switchOut_keeps {s₀ s : State} (h : Keeps s₀ s)  : Keeps s₀ (State.switchOut s) := by
  unfold State.switchOut
  with_reducible repeat' first
    | assumption | (intro _) | apply State.endStreams_keeps | apply State.markSuspended_keeps | apply State.setAside_keeps
    | apply keeps_forAll | apply keeps_when | refine keeps_mk ?_ rfl rfl rfl rfl rfl | extract_lets

theorem State.powerUpDfu_keeps {s₀ s : State} (h : Keeps s₀ s) (d : Nat) : Keeps s₀ (State.powerUpDfu s d) := by
  unfold State.powerUpDfu
  with_reducible repeat' first
    | assumption | (intro _) | apply State.discardHist_keeps | apply keeps_forAll

theorem State.switchIn_keeps {s₀ s : State} (h : Keeps s₀ s) (p : Nat) : Keeps s₀ (State.switchIn s p) := by
  unfold State.switchIn
  with_reducible repeat' first
    | assumption | (intro _) | apply State.applyPoints_keeps | apply State.applyProg_keeps | apply State.bringBack_keeps
    | apply State.checkExhausted_keeps | apply State.ledInit_keeps | apply State.markSuspended_keeps
    | apply State.powerUpDfu_keeps | apply State.put_keeps | apply State.rejoinAll_keeps | apply State.reseat_keeps
    | apply State.seatSaved_keeps | apply keeps_ite | apply keeps_forAll | split | refine keeps_mk ?_ rfl rfl rfl rfl rfl
    | extract_lets

theorem State.resumeInPlace_keeps {s₀ s : State} (h : Keeps s₀ s)  : Keeps s₀ (State.resumeInPlace s) := by
  unfold State.resumeInPlace
  with_reducible repeat' first
    | assumption | (intro _) | apply State.applyPoints_keeps | apply State.checkExhausted_keeps
    | apply State.markSuspended_keeps | apply State.rejoinAll_keeps | apply State.reseat_keeps | apply keeps_forAll
    | refine keeps_mk ?_ rfl rfl rfl rfl rfl | extract_lets

theorem State.startDone_keeps {s₀ s : State} (h : Keeps s₀ s) (p code : Nat) : Keeps s₀ (State.startDone s p code) := by
  unfold State.startDone
  with_reducible repeat' first
    | assumption | (intro _) | apply State.finish_keeps | split | refine keeps_mk ?_ rfl rfl rfl rfl rfl

theorem State.storeBad_keeps {s₀ s : State} (h : Keeps s₀ s) (p : Nat) (e : ProgSec) : Keeps s₀ (State.storeBad s p e) := by
  unfold State.storeBad
  with_reducible repeat' first
    | assumption | apply State.emit_keeps | apply State.raise_keeps | apply State.startDone_keeps
    | refine keeps_mk ?_ rfl rfl rfl rfl rfl | extract_lets

theorem State.toBoundary_keeps {s₀ s : State} (h : Keeps s₀ s)  : Keeps s₀ (State.toBoundary s) := by
  unfold State.toBoundary
  with_reducible repeat' first
    | assumption | apply State.advance_keeps | split | refine keeps_mk ?_ rfl rfl rfl rfl rfl

theorem execProgrammeSwitch_keeps {s : State} (badDies : List Nat) : KeepsO s (execProgrammeSwitch badDies s) := by
  have h := Keeps.refl s
  unfold execProgrammeSwitch
  with_reducible repeat' first
    | assumption | (intro _) | apply State.leaveProg_keeps | apply State.resumeInPlace_keeps | apply State.saveBanks_keeps
    | apply State.startDone_keeps | apply State.storeBad_keeps | apply State.switchIn_keeps | apply State.switchOut_keeps
    | apply State.toBoundary_keeps | apply keepsO_ok | apply keepsO_ite | apply keeps_ite | apply keeps_forAll | split
    | refine keeps_mk ?_ rfl rfl rfl rfl rfl | extract_lets

theorem State.doProgStart_keeps {s₀ s : State} (h : Keeps s₀ s) (c : CmdHdr) (p : Nat) : Keeps s₀ (State.doProgStart s c p) := by
  unfold State.doProgStart
  with_reducible repeat' first
    | assumption | (intro _) | apply State.complete_keeps | apply State.inMode_keeps | apply State.run_keeps
    | apply keeps_ite | refine keeps_mk ?_ rfl rfl rfl rfl rfl | extract_lets

theorem execProgStart_keeps {s : State} (c : CmdHdr) (prog : Nat) : KeepsO s (execProgStart c prog s) := by
  have h := Keeps.refl s
  unfold execProgStart
  with_reducible repeat' first
    | assumption | apply State.doProgStart_keeps | apply keepsO_ok | apply keepsO_ite

theorem State.doProgStop_keeps {s₀ s : State} (h : Keeps s₀ s) (c : CmdHdr) : Keeps s₀ (State.doProgStop s c) := by
  unfold State.doProgStop
  with_reducible repeat' first
    | assumption | (intro _) | apply State.complete_keeps | apply State.inMode_keeps | apply State.run_keeps
    | apply keeps_ite

theorem execProgStop_keeps {s : State} (c : CmdHdr) : KeepsO s (execProgStop c s) := by
  have h := Keeps.refl s
  unfold execProgStop
  with_reducible repeat' first
    | assumption | apply State.doProgStop_keeps | apply keepsO_ok | apply keepsO_ite

theorem State.suspend_keeps {s₀ s : State} (h : Keeps s₀ s) (last : Nat) : Keeps s₀ (State.suspend s last) := by
  unfold State.suspend
  with_reducible repeat' first
    | assumption | (intro _) | apply State.endStreams_keeps | apply State.finish_keeps | apply State.leaveProg_keeps
    | apply State.markSuspended_keeps | apply keeps_forAll | refine keeps_mk ?_ rfl rfl rfl rfl rfl | extract_lets

theorem State.pendCalendar_keeps {s₀ s : State} (h : Keeps s₀ s) (g p : Nat) : Keeps s₀ (State.pendCalendar s g p) := by
  refine h.trans ⟨(Keeps.refl s).1, fun hi => ⟨hi.1, hi.2.1, ?_, hi.2.2.2⟩⟩
  have hw := hi.2.2.1
  simpa [State.waitingCmds, State.pendCalendar, List.filter_append] using hw

theorem execCalendarEntry_keeps {s : State} (n g : Nat) : KeepsO s (execCalendarEntry n g s) := by
  have h := Keeps.refl s
  unfold execCalendarEntry
  with_reducible repeat' first
    | assumption | (intro _) | apply State.pendCalendar_keeps | apply keepsO_ok | apply keepsO_ite | apply keeps_ite | split
    | refine keeps_mk ?_ rfl rfl rfl rfl rfl | extract_lets

/-! ### Telemetry -/

theorem State.snapRead_keeps {s₀ s : State} (h : Keeps s₀ s) (d k p t : Nat) : Keeps s₀ (State.snapRead s d k p t).2 :=
  State.putBit_keeps (State.put_keeps (State.draw_keeps h _) _ _) _ _ _

theorem State.snapDie_keeps {s₀ s : State} (h : Keeps s₀ s) (d t p : Nat) (ks : List Nat) :
    Keeps s₀ (State.snapDie s d t p ks).2 := by
  induction ks generalizing s p with
  | nil => exact State.raise_keeps h _
  | cons k ks ih => exact ih (State.snapRead_keeps h _ _ _ _) _

theorem State.snapDies_keeps {s₀ s : State} (h : Keeps s₀ s) (c : CmdHdr) (ctrs : Nat) (ds : List Nat) :
    Keeps s₀ (State.snapDies s c ctrs ds).2 := by
  induction ds generalizing s with
  | nil => exact h
  | cons d ds ih =>
    unfold State.snapDies
    extract_lets ks r q
    refine ih ?_
    simp only [r]
    split
    · exact State.snapDie_keeps h _ _ _ _
    · exact h

theorem State.doCtrSnap_keeps {s₀ s : State} (h : Keeps s₀ s) (c : CmdHdr) (dies ctrs : Nat) : Keeps s₀ (State.doCtrSnap s c dies ctrs) := by
  unfold State.doCtrSnap
  with_reducible repeat' first
    | assumption | (intro _) | apply State.complete_keeps | apply State.inMode_keeps | apply State.snapDies_keeps
    | apply keeps_ite | refine keeps_mk ?_ rfl rfl rfl rfl rfl | extract_lets

theorem execCtrSnap_keeps {s : State} (c : CmdHdr) (dies ctrs : Nat) : KeepsO s (execCtrSnap c dies ctrs s) := by
  have h := Keeps.refl s
  unfold execCtrSnap
  with_reducible repeat' first
    | assumption | apply State.doCtrSnap_keeps | apply keepsO_ok | apply keepsO_ite

theorem execSnapshotComplete_keeps {s : State} : KeepsO s (execSnapshotComplete s) := by
  have h := Keeps.refl s
  unfold execSnapshotComplete
  split
  · exact keepsO_ok h
  · extract_lets s1 t pay r seq
    have h1 : Keeps s s1 := keeps_mk h rfl rfl rfl rfl rfl
    split
    · rename_i heq
      exact keepsO_ok (State.complete_keeps (State.commit_keeps h1 heq) _ _ _)
    · exact keepsO_ok (State.complete_keeps (State.bump_keeps h1 _) _ _ _)

theorem execCounterWrap_keeps {s : State} (d k n : Nat) : KeepsO s (execCounterWrap d k n s) := by
  have h := Keeps.refl s
  unfold execCounterWrap
  with_reducible repeat' first
    | assumption | (intro _) | apply State.count_keeps | apply State.irq_keeps | apply keepsO_ok | apply keepsO_ite
    | apply keeps_ite | refine keeps_mk ?_ rfl rfl rfl rfl rfl | extract_lets

theorem State.clearCounters_keeps {s₀ s : State} (h : Keeps s₀ s) (d : Nat) : Keeps s₀ (State.clearCounters s d) := by
  unfold State.clearCounters
  with_reducible repeat' first
    | assumption | (intro _) | apply State.put_keeps | apply State.wr_keeps | apply keeps_forAll
    | refine keeps_mk ?_ rfl rfl rfl rfl rfl | extract_lets

theorem State.takeTemps_keeps {s₀ s : State} (h : Keeps s₀ s) (d n : Nat) (xs : List Int) : Keeps s₀ (State.takeTemps s d n xs) := by
  unfold State.takeTemps
  with_reducible repeat' first
    | assumption | (intro _) | apply State.put_keeps | apply keeps_ite | apply keeps_forAll
    | refine keeps_mk ?_ rfl rfl rfl rfl rfl

theorem execTelemetryTimer_keeps {s : State} (temps : List (Nat × List Int)) (vddAo total : Nat) (watts : List Nat) :
    KeepsO s (execTelemetryTimer temps vddAo total watts s) := by
  have h := Keeps.refl s
  unfold execTelemetryTimer
  extract_lets per s0 of x1 s1 s2 k mask rails pay stale
  refine keepsO_ite (keepsO_ok h) ?_
  have h0 : Keeps s s0 := State.advance_keeps h _
  have h1 : Keeps s s1 := keeps_mk (keeps_forAll (State.takeTemps_keeps h0 _ _ _) _ fun s d hs => State.takeTemps_keeps hs _ _ _)
    rfl rfl rfl rfl rfl
  have h2 : Keeps s s2 := keeps_forAll h1 _ fun s x hs => State.put_keeps hs _ _
  split
  · rename_i heq
    exact keepsO_ok (State.commit_keeps h2 heq)
  · exact keepsO_ok (State.bump_keeps h2 _)

/-! ### Start -/

theorem State.loadStore_keeps {s₀ s : State} (h : Keeps s₀ s)  : Keeps s₀ (State.loadStore s) := by
  unfold State.loadStore
  with_reducible repeat' first
    | assumption | (intro _) | apply State.put_keeps | split | refine keeps_mk ?_ rfl rfl rfl rfl rfl | extract_lets

theorem State.resetRegs_keeps {s₀ s : State} (h : Keeps s₀ s) (warm clocks : Bool) : Keeps s₀ (State.resetRegs s warm clocks) := by
  have h1 : Keeps s₀ { s with regs := [] } := h.trans ⟨(Keeps.refl s).1, fun hi => ⟨⟨rfl, hi.1.2⟩, hi.2⟩⟩
  exact State.putRegs_keeps h1 _

theorem State.chainFresh_keeps {s₀ s : State} (h : Keeps s₀ s) (k : Nat) : Keeps s₀ (State.chainFresh s k) := by
  unfold State.chainFresh
  with_reducible repeat' first
    | assumption | apply State.chainOff_keeps | apply State.freshLink_keeps | apply State.setCh_keeps
    | apply State.setChain_keeps | extract_lets

theorem State.dropHeld_keeps {s₀ s : State} (h : Keeps s₀ s) : Keeps s₀ (State.dropHeld s) :=
  h.trans ⟨(Keeps.refl s).1, fun hi => ⟨hi.1, hi.2.1, Nat.zero_le _, hi.2.2.2⟩⟩

theorem State.startCommon_keeps {s₀ s : State} (h : Keeps s₀ s)  : Keeps s₀ (State.startCommon s) := by
  unfold State.startCommon
  with_reducible repeat' first
    | assumption | (intro _) | apply State.chainFresh_keeps | apply State.csvStop_keeps | apply State.dropHeld_keeps
    | apply State.ingestStop_keeps | apply State.lockDebug_keeps | apply State.put_keeps | apply State.setAcu_keeps
    | apply State.setDrc_keeps | apply keeps_forAll | refine keeps_mk ?_ rfl rfl rfl rfl rfl | extract_lets

theorem State.startWarm_keeps {s₀ s : State} (h : Keeps s₀ s)  : Keeps s₀ (State.startWarm s) := by
  unfold State.startWarm
  with_reducible repeat' first
    | assumption | (intro _) | apply State.dmaWarm_keeps | apply State.put_keeps | split
    | refine keeps_mk ?_ rfl rfl rfl rfl rfl | extract_lets

theorem State.dropVolatile_keeps {s₀ s : State} (h : Keeps s₀ s) : Keeps s₀ (State.dropVolatile s) :=
  h.trans ⟨(Keeps.refl s).1, fun hi => ⟨⟨hi.1.1, hi.1.2.1, hi.1.2.2.1, rfl, hi.1.2.2.2.2⟩, Nat.zero_le _, Nat.zero_le _, hi.2.2.2⟩⟩

theorem State.startCold_keeps {s₀ s : State} (h : Keeps s₀ s)  : Keeps s₀ (State.startCold s) := by
  unfold State.startCold
  with_reducible repeat' first
    | assumption | (intro _) | apply State.dropVolatile_keeps | apply State.eraseSealKey_keeps | apply State.put_keeps
    | apply keeps_forAll | refine keeps_mk ?_ rfl rfl rfl rfl rfl | extract_lets

theorem State.startReset_keeps {s₀ s : State} (h : Keeps s₀ s) (warm porst : Bool) : Keeps s₀ (State.startReset s warm porst) := by
  unfold State.startReset
  with_reducible repeat' first
    | assumption | apply State.islandsLow_keeps | apply State.put_keeps | apply State.resetRegs_keeps
    | apply State.startCold_keeps | apply State.startCommon_keeps | apply State.startWarm_keeps | apply keeps_ite
    | refine keeps_mk ?_ rfl rfl rfl rfl rfl | extract_lets

theorem State.applyDead_keeps {s₀ s : State} (h : Keeps s₀ s) (u : UnitId) : Keeps s₀ (State.applyDead s u) := by
  unfold State.applyDead
  with_reducible repeat' first
    | assumption | (intro _) | apply State.advise_keeps | apply State.loseCut_keeps | apply State.putBit_keeps
    | apply State.put_keeps | apply State.request_keeps | apply State.setCh_keeps | apply State.setLane_keeps
    | apply State.setUnitState_keeps | apply keeps_ite | split | refine keeps_mk ?_ rfl rfl rfl rfl rfl | extract_lets

theorem State.bistDead_keeps {s₀ s : State} (h : Keeps s₀ s) (u : UnitId) : Keeps s₀ (State.bistDead s u) := by
  unfold State.bistDead
  with_reducible repeat' first
    | assumption | (intro _) | apply State.applyDead_keeps | apply State.deaccUnit_keeps | apply keeps_ite | extract_lets

theorem State.deaccStep_keeps {s₀ s : State} (h : Keeps s₀ s) (dead : List UnitId) (env : MusterEnv) : Keeps s₀ (State.deaccStep s dead env) := by
  unfold State.deaccStep
  with_reducible repeat' first
    | assumption | (intro _) | apply State.applyDead_keeps | apply State.bistDead_keeps | apply State.put_keeps
    | apply keeps_forAll | refine keeps_mk ?_ rfl rfl rfl rfl rfl | extract_lets

theorem State.showImage_keeps {s₀ s : State} (h : Keeps s₀ s) (dev : Nat) : Keeps s₀ (State.showImage s dev) := by
  unfold State.showImage
  with_reducible repeat' first
    | assumption | apply State.putOctets32_keeps | apply State.put_keeps | refine keeps_mk ?_ rfl rfl rfl rfl rfl
    | extract_lets

theorem State.deadLinks_keeps {s₀ s : State} (h : Keeps s₀ s)  : Keeps s₀ (State.deadLinks s) := by
  unfold State.deadLinks
  with_reducible repeat' first
    | assumption | (intro _) | apply State.putBit_keeps | apply State.setLink_keeps | apply keeps_forAll

theorem State.applyImage_keeps {s₀ s : State} (h : Keeps s₀ s) (dev : Nat) (env : MusterEnv) : Keeps s₀ (State.applyImage s dev env) := by
  unfold State.applyImage
  with_reducible repeat' first
    | assumption | (intro _) | apply State.applyDevice_keeps | apply State.checkLanes_keeps | apply State.deadLinks_keeps
    | apply State.ingestStart_keeps | apply State.showImage_keeps | apply State.train_keeps | apply keeps_ite
    | apply keeps_forAll | refine keeps_mk ?_ rfl rfl rfl rfl rfl | extract_lets

theorem State.startSec_keeps {s₀ s : State} (h : Keeps s₀ s) (env : MusterEnv) (fw : Nat × FwBundle) : Keeps s₀ (State.startSec s env fw) := by
  unfold State.startSec
  with_reducible repeat' first
    | assumption | (intro _) | apply State.newChallenge_keeps | apply State.putOctets32_keeps | apply State.put_keeps
    | apply State.showOwner_keeps | apply State.showPending_keeps | apply State.trngFails_keeps | apply keeps_ite
    | refine keeps_mk ?_ rfl rfl rfl rfl rfl | extract_lets

theorem State.stopStart_keeps {s₀ s : State} (h : Keeps s₀ s) (r : MusterStop) : Keeps s₀ (State.stopStart s r) := by
  unfold State.stopStart
  with_reducible repeat' first
    | assumption | apply State.alert_keeps | refine keeps_mk ?_ rfl rfl rfl rfl rfl

theorem State.storeInited_keeps {s₀ s : State} (h : Keeps s₀ s) : Keeps s₀ (State.storeInited s) :=
  h.trans ⟨⟨rfl, rfl, List.suffix_refl _, Nat.le_refl _, List.prefix_refl _, Nat.le_refl _, fun _ => rfl, id⟩, id⟩

theorem State.newEpoch_keeps {s₀ s : State} (h : Keeps s₀ s) (prev lastCan : Nat) : Keeps s₀ (State.newEpoch s prev lastCan) := by
  unfold State.newEpoch
  with_reducible repeat' first
    | assumption | (intro _) | apply State.appendCounter_keeps | apply State.csvLoad_keeps | apply State.emit_keeps
    | apply State.initRing_keeps | apply State.newSealKey_keeps | apply State.put_keeps | apply State.queueAttest_keeps
    | apply State.storeInited_keeps | apply keeps_forAll | refine keeps_mk ?_ rfl rfl rfl rfl rfl | extract_lets

theorem State.marginStep_keeps {s₀ s : State} (h : Keeps s₀ s)  : Keeps s₀ (State.marginStep s) := by
  unfold State.marginStep
  with_reducible repeat' first
    | assumption | (intro _) | apply State.request_keeps | apply keeps_ite | apply keeps_forAll

theorem State.coldProg_keeps {s₀ s : State} (h : Keeps s₀ s) (dev : Nat) (bad : List Nat) : Keeps s₀ (State.coldProg s dev bad) := by
  unfold State.coldProg
  with_reducible repeat' first
    | assumption | apply State.copyStore_keeps | apply State.emit_keeps | apply State.raise_keeps
    | apply State.switchIn_keeps | split | refine keeps_mk ?_ rfl rfl rfl rfl rfl | extract_lets

theorem State.coldStep_keeps {s₀ s : State} (h : Keeps s₀ s) (dev : Nat) (env : MusterEnv) (prev lastCan : Nat) : Keeps s₀ (State.coldStep s dev env prev lastCan) := by
  unfold State.coldStep
  with_reducible repeat' first
    | assumption | apply State.coldProg_keeps | apply State.emit_keeps | apply State.newEpoch_keeps
    | apply State.stopStart_keeps | apply State.trngFails_keeps | apply keeps_ite

theorem State.headAfter_keeps {s₀ s : State} (h : Keeps s₀ s) (d : Nat) : Keeps s₀ (State.headAfter s d) := by
  unfold State.headAfter
  with_reducible repeat' first
    | assumption | apply State.put_keeps | split | refine keeps_mk ?_ rfl rfl rfl rfl rfl

theorem State.warmDie_keeps {s₀ s : State} (h : Keeps s₀ s) (d : Nat) : Keeps s₀ (State.warmDie s d) := by
  unfold State.warmDie
  with_reducible repeat' first
    | assumption | apply State.beWarm_keeps | apply State.cteWarm_keeps | apply State.galWarm_keeps
    | apply State.headAfter_keeps | apply State.ledWarm_keeps | apply State.showAcu_keeps | extract_lets

theorem State.markReplay_keeps {s₀ s : State} (h : Keeps s₀ s)  : Keeps s₀ (State.markReplay s) := by
  unfold State.markReplay
  with_reducible repeat' first
    | assumption | (intro _) | apply keeps_ite | apply keeps_foldl | refine keeps_mk ?_ rfl rfl rfl rfl rfl | extract_lets

theorem State.warmProg_keeps {s₀ s : State} (h : Keeps s₀ s) (dev : Nat) (bad : List Nat) (run : List (List (Nat × Word))) : Keeps s₀ (State.warmProg s dev bad run) := by
  unfold State.warmProg
  with_reducible repeat' first
    | assumption | (intro _) | apply State.applyProg_keeps | apply State.checkExhausted_keeps | apply State.copyStore_keeps
    | apply State.emit_keeps | apply State.putRegs_keeps | apply State.raise_keeps | apply State.rejoinAll_keeps
    | apply State.reseat_keeps | apply State.run_keeps | apply State.switchIn_keeps | apply State.switchOut_keeps
    | apply keeps_ite | apply keeps_forAll | split | refine keeps_mk ?_ rfl rfl rfl rfl rfl | extract_lets

theorem State.fadesBack_keeps {s₀ s : State} (h : Keeps s₀ s)  : Keeps s₀ (State.fadesBack s) := by
  unfold State.fadesBack
  with_reducible repeat' first
    | assumption | (intro _) | apply State.put_keeps | apply State.setDfuIn_keeps | apply keeps_forAll | split
    | refine keeps_mk ?_ rfl rfl rfl rfl rfl | extract_lets

theorem State.warmStep_keeps {s₀ s : State} (h : Keeps s₀ s) (dev : Nat) (env : MusterEnv) (cause : Nat) (run : List (List (Nat × Word))) : Keeps s₀ (State.warmStep s dev env cause run) := by
  unfold State.warmStep
  with_reducible repeat' first
    | assumption | (intro _) | apply State.discardAll_keeps | apply State.discardLines_keeps | apply State.emit_keeps
    | apply State.fadesBack_keeps | apply State.markReplay_keeps | apply State.put_keeps | apply State.resendEvery_keeps
    | apply State.run_keeps | apply State.warmDie_keeps | apply State.warmProg_keeps | apply keeps_forAll | extract_lets

theorem State.resetFlash_keeps {s₀ s : State} (h : Keeps s₀ s)  : Keeps s₀ (State.resetFlash s) := by
  unfold State.resetFlash
  with_reducible repeat' first
    | assumption | apply State.emitOut_keeps

theorem State.muster_keeps {s₀ s : State} (h : Keeps s₀ s) (env : MusterEnv) (cause : Nat) : Keeps s₀ (State.muster s env cause) := by
  unfold State.muster
  with_reducible repeat' first
    | assumption | apply State.advance_keeps | apply State.applyImage_keeps | apply State.bumpBy_keeps
    | apply State.coldStep_keeps | apply State.deaccStep_keeps | apply State.draw_keeps | apply State.emit_keeps
    | apply State.evalRepl_keeps | apply State.fatal_keeps | apply State.loadStore_keeps | apply State.marginStep_keeps
    | apply State.put_keeps | apply State.raise_keeps | apply State.resetFlash_keeps | apply State.run_keeps
    | apply State.setMode_keeps | apply State.startReset_keeps | apply State.startSec_keeps | apply State.warmStep_keeps
    | apply keeps_ite | split | refine keeps_mk ?_ rfl rfl rfl rfl rfl | extract_lets

theorem State.enterAlign_keeps {s₀ s : State} (h : Keeps s₀ s)  : Keeps s₀ (State.enterAlign s) := by
  unfold State.enterAlign
  with_reducible repeat' first
    | assumption | (intro _) | apply State.applyPoints_keeps | apply State.chainStart_keeps | apply State.choose_keeps
    | apply State.msixChange_keeps | apply State.put_keeps | apply State.refreshQual_keeps | apply State.setMode_keeps
    | apply State.setTimer_keeps | apply keeps_ite | apply keeps_forAll | refine keeps_mk ?_ rfl rfl rfl rfl rfl
    | extract_lets

theorem State.reportKeeper_keeps {s₀ s : State} (h : Keeps s₀ s)  : Keeps s₀ (State.reportKeeper s) := by
  unfold State.reportKeeper
  with_reducible repeat' first
    | assumption | apply State.emit_keeps | apply State.put_keeps | apply keeps_ite

theorem execMusterEnd_keeps {s : State}  : KeepsO s (execMusterEnd s) := by
  have h := Keeps.refl s
  unfold execMusterEnd
  with_reducible repeat' first
    | assumption | apply State.dmaEnable_keeps | apply State.enterAlign_keeps | apply State.reportKeeper_keeps
    | apply State.setPassed_keeps | apply keepsO_ok | apply keepsO_ite | apply keeps_ite | extract_lets

theorem execAlignExit_keeps {s : State} (base : List Baseline) : KeepsO s (execAlignExit base s) := by
  have h := Keeps.refl s
  unfold execAlignExit
  with_reducible repeat' first
    | assumption | apply State.advance_keeps | apply State.burnOwner_keeps | apply State.evalRepl_keeps
    | apply State.put_keeps | apply State.raiseFloor_keeps | apply State.setMode_keeps | apply keepsO_ok | apply keepsO_ite
    | apply keeps_ite | extract_lets

theorem State.doEpochReset_keeps {s₀ s : State} (h : Keeps s₀ s) (c : CmdHdr) (scc floor : Nat) (env : MusterEnv) : Keeps s₀ (State.doEpochReset s c scc floor env) := by
  unfold State.doEpochReset
  with_reducible repeat' first
    | assumption | (intro _) | apply State.appendCounter_keeps | apply State.coldStep_keeps | apply State.complete_keeps
    | apply State.draw_keeps | apply State.inMode_keeps | apply State.put_keeps | apply keeps_ite | split
    | refine keeps_mk ?_ rfl rfl rfl rfl rfl | extract_lets

theorem execEpochReset_keeps {s : State} (c : CmdHdr) (scc floor : Nat) (env : MusterEnv) : KeepsO s (execEpochReset c scc floor env s) := by
  have h := Keeps.refl s
  unfold execEpochReset
  with_reducible repeat' first
    | assumption | apply State.doEpochReset_keeps | apply keepsO_ok | apply keepsO_ite

end Sys2Proof.Machine
end

