-- ==== Sys2Proof/Laws/KeepsHost.lean ====
section
/-! SUPPORT. What the operations of Registrar, Host, Interval, Power, Grain keep. -/

namespace Sys2Proof.Machine

/-! ### Registrar -/

theorem State.ckptDie_keeps {s₀ s : State} (h : Keeps s₀ s) (d : Nat) : Keeps s₀ (State.ckptDie s d) := by
  unfold State.ckptDie
  with_reducible repeat' first
    | assumption | apply State.fcReturn_keeps | apply State.put_keeps | apply State.requestSaves_keeps
    | apply State.setAcu_keeps | apply State.showAcu_keeps | refine keeps_mk ?_ rfl rfl rfl rfl rfl | extract_lets

theorem State.regReturn_keeps {s₀ s : State} (h : Keeps s₀ s)  : Keeps s₀ (State.regReturn s) := by
  unfold State.regReturn
  with_reducible repeat' first
    | assumption | apply State.emit_keeps | apply State.put_keeps | apply keeps_ite | refine keeps_mk ?_ rfl rfl rfl rfl rfl

theorem execCheckpoint_keeps {s : State}  : KeepsO s (execCheckpoint s) := by
  have h := Keeps.refl s
  unfold execCheckpoint
  with_reducible repeat' first
    | assumption | (intro _) | apply State.atMultiple_keeps | apply State.ckptDie_keeps | apply State.regReturn_keeps
    | apply keepsO_ok | apply keepsO_ite | apply keeps_ite | apply keeps_forAll | refine keeps_mk ?_ rfl rfl rfl rfl rfl
    | extract_lets

theorem State.testedReg_keeps {s₀ s : State} (h : Keeps s₀ s) (x : Nat) (pass : Bool) (fails : Nat) (ret : Bool) :
    Keeps s₀ (State.testedReg s x pass fails ret) := by
  unfold State.testedReg
  split <;> exact keeps_mk h rfl rfl rfl rfl rfl

theorem State.inFailover_keeps {s₀ s : State} (h : Keeps s₀ s)  : Keeps s₀ (State.inFailover s) := by
  unfold State.inFailover
  with_reducible repeat' first
    | assumption | refine keeps_mk ?_ rfl rfl rfl rfl rfl

theorem State.deaccReg_keeps {s₀ s : State} (h : Keeps s₀ s) (x : Nat) : Keeps s₀ (State.deaccReg s x) := by
  unfold State.deaccReg
  with_reducible repeat' first
    | assumption | apply State.advise_keeps | apply State.deaccUnit_keeps | apply State.put_keeps

theorem State.failover_keeps {s₀ s : State} (h : Keeps s₀ s) (cause : Nat) : Keeps s₀ (State.failover s cause) := by
  unfold State.failover
  with_reducible repeat' first
    | assumption | apply State.beginFault_keeps | apply State.bump_keeps | apply State.charge_keeps
    | apply State.deaccReg_keeps | apply State.emit_keeps | apply State.fatal_keeps | apply State.inFailover_keeps
    | apply State.put_keeps | apply State.setTimer_keeps | apply State.testedReg_keeps | apply keeps_ite | extract_lets

theorem execRegFailover_keeps {s : State} (cause : Nat) : KeepsO s (execRegFailover cause s) := by
  have h := Keeps.refl s
  unfold execRegFailover
  with_reducible repeat' first
    | assumption | apply State.failover_keeps | apply keepsO_ok | apply keepsO_ite | apply keeps_ite

theorem execRegistrarSelfTest_keeps {s : State} (pass : Bool) : KeepsO s (execRegistrarSelfTest pass s) := by
  have h := Keeps.refl s
  unfold execRegistrarSelfTest
  with_reducible repeat' first
    | assumption | (intro _) | apply State.deaccReg_keeps | apply State.put_keeps | apply State.testedReg_keeps
    | apply State.tick_keeps | apply keepsO_ok | apply keepsO_ite | apply keeps_ite | apply keeps_when | extract_lets

theorem execBucketLeak_keeps {s : State} (u : UnitId) (bucket : Nat) : KeepsO s (execBucketLeak u bucket s) := by
  have h := Keeps.refl s
  unfold execBucketLeak
  with_reducible repeat' first
    | assumption | (intro _) | apply State.drop_keeps | apply State.put_keeps | apply State.tick_keeps | apply keepsO_ok
    | apply keepsO_ite | apply keeps_ite | split | refine keeps_mk ?_ rfl rfl rfl rfl rfl | extract_lets

theorem State.clearBuckets_keeps {s₀ s : State} (h : Keeps s₀ s) (u : UnitId) : Keeps s₀ (State.clearBuckets s u) := by
  unfold State.clearBuckets
  with_reducible repeat' first
    | assumption | (intro _) | apply State.put_keeps | apply keeps_ite | split | refine keeps_mk ?_ rfl rfl rfl rfl rfl
    | extract_lets

theorem execGiveupTimeout_keeps {s : State} (u : UnitId) : KeepsO s (execGiveupTimeout u s) := by
  have h := Keeps.refl s
  unfold execGiveupTimeout
  with_reducible repeat' first
    | assumption | (intro _) | apply State.advance_keeps | apply State.advise_keeps | apply State.deaccUnit_keeps
    | apply State.putBit_keeps | apply State.put_keeps | apply State.setFc_keeps | apply State.setGal_keeps | apply keepsO_ok
    | apply keepsO_ite | apply keeps_ite | split | refine keeps_mk ?_ rfl rfl rfl rfl rfl | extract_lets

theorem execDieFailure_keeps {s : State} (d : Nat) : KeepsO s (execDieFailure d s) := by
  have h := Keeps.refl s
  unfold execDieFailure
  with_reducible repeat' first
    | assumption | apply State.loseDie_keeps | apply keepsO_ok | apply keepsO_ite | apply keeps_ite

theorem State.reroute_keeps {s₀ s : State} (h : Keeps s₀ s)  : Keeps s₀ (State.reroute s) := by
  unfold State.reroute
  with_reducible repeat' first
    | assumption | (intro _) | apply keeps_ite | split | refine keeps_mk ?_ rfl rfl rfl rfl rfl | extract_lets

theorem State.failHop_keeps {s₀ s : State} (h : Keeps s₀ s) (h : Nat) : Keeps s₀ (State.failHop s h) := by
  unfold State.failHop
  with_reducible repeat' first
    | assumption | (intro _) | apply State.advise_keeps | apply State.beginFault_keeps | apply State.deaccUnit_keeps
    | apply State.loseCut_keeps | apply State.putBit_keeps | apply State.recoverFault_keeps | apply State.reroute_keeps
    | split | refine keeps_mk ?_ rfl rfl rfl rfl rfl | extract_lets

theorem execPkfPacket_keeps {s : State} (hop : Nat) (p : Pkt) (toDie : Nat) (good : Bool) : KeepsO s (execPkfPacket hop p toDie good s) := by
  have h := Keeps.refl s
  unfold execPkfPacket
  with_reducible repeat' first
    | assumption | (intro _) | apply State.failHop_keeps | apply State.pump_keeps | apply State.put_keeps
    | apply State.setTimer_keeps | apply keepsO_ok | apply keepsO_ite | apply keeps_ite | split
    | refine keeps_mk ?_ rfl rfl rfl rfl rfl | extract_lets

theorem State.reinstated_keeps {s₀ s : State} (h : Keeps s₀ s) (u : UnitId) : Keeps s₀ (State.reinstated s u) := by
  unfold State.reinstated
  with_reducible repeat' first
    | assumption | (intro _) | apply State.appendFault_keeps | apply State.clearBuckets_keeps | apply State.emit_keeps
    | apply State.raise_keeps | apply keeps_ite | apply keeps_when | refine keeps_mk ?_ rfl rfl rfl rfl rfl | extract_lets

theorem State.toRejoin_keeps {s₀ s : State} (h : Keeps s₀ s) (u : UnitId) : Keeps s₀ (State.toRejoin s u) := by
  unfold State.toRejoin
  with_reducible repeat' first
    | assumption | apply keeps_ite | refine keeps_mk ?_ rfl rfl rfl rfl rfl

theorem State.linkReturns_keeps {s₀ s : State} (h : Keeps s₀ s) (d j : Nat) : Keeps s₀ (State.linkReturns s d j) := by
  unfold State.linkReturns
  with_reducible repeat' first
    | assumption | (intro _) | apply State.ingestStart_keeps | apply State.putBit_keeps | apply State.reinstated_keeps
    | apply State.setIng_keeps | apply State.setLink_keeps | apply State.toRejoin_keeps | apply keeps_ite
    | apply keeps_forAll | refine keeps_mk ?_ rfl rfl rfl rfl rfl | extract_lets

theorem State.reinstateUnit_keeps {s₀ s : State} (h : Keeps s₀ s) (u : UnitId) (b : Bool) :
    Keeps s₀ (State.reinstateUnit s u b).1 := by
  have hr := State.reinstated_keeps h u
  unfold State.reinstateUnit
  extract_lets d n a1 a2 b1 f b2 b3
  have h1 : Keeps s₀ a1 := State.putBit_keeps (State.setLane_keeps hr _ _ _) _ _ _
  have h2 : Keeps s₀ a2 := keeps_ite (State.enterAcq_keeps h1 _ _) h1
  have hb : Keeps s₀ b1 := hr
  have hf : Keeps s₀ b2 := State.setFc_keeps hb _ _
  clear_value a2 b1 b2
  split
  · exact State.linkReturns_keeps h2 _ _
  · exact State.linkReturns_keeps (State.toRejoin_keeps hr _) _ _
  · exact hr
  · split
    · exact State.deaccUnit_keeps hr _ _ _ _ _
    · split
      · exact State.putBit_keeps (State.setUnitState_keeps hf _ _) _ _ _
      · split
        · split
          · exact State.put_keeps (State.put_keeps (State.putBit_keeps (State.setUnitState_keeps (State.setGal_keeps hb _ _) _ _) _ _ _)
              _ _) _ _
          · exact State.toRejoin_keeps hb _
        · exact State.toRejoin_keeps hb _

theorem State.doReinstate_keeps {s₀ s : State} (h : Keeps s₀ s) (c : CmdHdr) (u : UnitId) (bistOk : Bool) : Keeps s₀ (State.doReinstate s c u bistOk) := by
  unfold State.doReinstate
  with_reducible repeat' first
    | assumption | (intro _) | apply State.clearBuckets_keeps | apply State.complete_keeps | apply State.inMode_keeps
    | apply State.reinstateUnit_keeps | apply keeps_ite | extract_lets

theorem execReinstate_keeps {s : State} (c : CmdHdr) (u : UnitId) (bistOk : Bool) : KeepsO s (execReinstate c u bistOk s) := by
  have h := Keeps.refl s
  unfold execReinstate
  with_reducible repeat' first
    | assumption | apply State.doReinstate_keeps | apply keepsO_ok | apply keepsO_ite

/-! ### Host -/

theorem State.reachWrite_keeps {s₀ s : State} (h : Keeps s₀ s) (src a : Nat) (w : Word) : Keeps s₀ (State.reachWrite s src a w) := by
  unfold State.reachWrite
  with_reducible repeat' first
    | assumption | apply State.writeClr_keeps | apply State.writeSlot_keeps | split | refine keeps_mk ?_ rfl rfl rfl rfl rfl

theorem execRegisterWrite_keeps {s : State} (port addr data : Nat) : KeepsO s (execRegisterWrite port addr data s) := by
  have h := Keeps.refl s
  unfold execRegisterWrite
  with_reducible repeat' first
    | assumption | apply State.raise_keeps | apply State.reachWrite_keeps | apply keepsO_ok | apply keepsO_ite
    | apply keeps_ite | extract_lets

theorem execPartialWrite_keeps {s : State} (port addr : Nat) : KeepsO s (execPartialWrite port addr s) := by
  have h := Keeps.refl s
  unfold execPartialWrite
  with_reducible repeat' first
    | assumption | apply State.raise_keeps | apply keepsO_ok | apply keepsO_ite | apply keeps_ite

theorem execDeniedRead_keeps {s : State} (port addr len : Nat) : KeepsO s (execDeniedRead port addr s len) := by
  have h := Keeps.refl s
  unfold execDeniedRead
  with_reducible repeat' first
    | assumption | (intro _) | apply State.emitOut_keeps | apply State.raise_keeps | apply keepsO_ok | apply keepsO_ite
    | apply keeps_ite | apply keeps_when | extract_lets

theorem execStateRead_keeps {s : State} (p : Pkt) : KeepsO s (execStateRead p s) := by
  have h := Keeps.refl s
  unfold execStateRead
  with_reducible repeat' first
    | assumption | (intro _) | apply State.originate_keeps | apply State.takeInbox_keeps | apply keepsO_ok | apply keepsO_ite
    | apply keeps_ite | extract_lets

theorem execStateWrite_keeps {s : State} (p : Pkt) : KeepsO s (execStateWrite p s) := by
  have h := Keeps.refl s
  unfold execStateWrite
  with_reducible repeat' first
    | assumption | (intro _) | apply State.originate_keeps | apply State.reachWrite_keeps | apply State.takeInbox_keeps
    | apply keepsO_ok | apply keepsO_ite | apply keeps_ite | apply keeps_forAll | extract_lets

theorem State.showCmds_keeps {s₀ s : State} (h : Keeps s₀ s)  : Keeps s₀ (State.showCmds s) := by
  unfold State.showCmds
  with_reducible repeat' first
    | assumption | (intro _) | apply State.put_keeps | apply keeps_ite | apply keeps_forAll | extract_lets

theorem State.logRec_keeps {s₀ s : State} (h : Keeps s₀ s) (src g : Nat) (r : CmdRec) : Keeps s₀ (State.logRec s src g r) := by
  unfold State.logRec
  with_reducible repeat' first
    | assumption | apply State.put_keeps | apply keeps_ite | extract_lets

theorem State.takeSeq_keeps {s₀ s : State} (h : Keeps s₀ s) (n : Nat) (r : CmdRec) : Keeps s₀ (State.takeSeq s n r) := by
  unfold State.takeSeq
  with_reducible repeat' first
    | assumption | apply State.appendCounter_keeps | apply State.put_keeps | apply keeps_ite | extract_lets

theorem State.countNoRight_keeps {s₀ s : State} (h : Keeps s₀ s) (src : Nat) : Keeps s₀ (State.countNoRight s src) := by
  unfold State.countNoRight
  with_reducible repeat' first
    | assumption | apply State.bump_keeps | apply keeps_ite

theorem State.pendCmd_keeps {s₀ s : State} (h : Keeps s₀ s) (hl : s.waitingCmds.length < 1024) (x : PCmd) :
    Keeps s₀ (State.pendCmd s x) := by
  refine h.trans ⟨(Keeps.refl s).1, fun hi => ⟨hi.1, hi.2.1, ?_, hi.2.2.2⟩⟩
  have h1 : ([x].filter fun x => x.hdr.src != 255).length ≤ 1 := List.length_filter_le _ [x]
  unfold State.waitingCmds at hl ⊢
  simp only [State.pendCmd, List.filter_append, List.length_append]
  omega

theorem State.waitCmd_keeps {s₀ s : State} (h : Keeps s₀ s) (hl : s.waitingCmds.length < 1024) (c : CmdHdr) (r : CmdRec) :
    Keeps s₀ (State.waitCmd s c r) :=
  State.showCmds_keeps (State.pendCmd_keeps h hl _)

theorem State.sigFails_keeps {s₀ s : State} (h : Keeps s₀ s)  : Keeps s₀ (State.sigFails s) := by
  unfold State.sigFails
  with_reducible repeat' first
    | assumption | apply State.bump_keeps | apply State.raise_keeps

theorem State.refuseRec_keeps {s₀ s : State} (h : Keeps s₀ s) (h : CmdHdr) (c : Nat) (badSig : Bool) : Keeps s₀ (State.refuseRec s h c badSig) := by
  unfold State.refuseRec
  with_reducible repeat' first
    | assumption | (intro _) | apply State.complete_keeps | apply State.countNoRight_keeps | apply State.sigFails_keeps
    | apply keeps_when

theorem State.logRec_rg (s : State) (src g : Nat) (r : CmdRec) : (s.logRec src g r).rg = s.rg := by
  simp only [State.logRec, State.put_rg]

theorem State.appendRec_rg (s : State) (magic body : List Nat) : (s.appendRec magic body).rg = s.rg := by
  unfold State.appendRec
  extract_lets g r r put
  have hp : ∀ s dev, (put s dev).rg = s.rg := by
    intro s dev
    simp only [put]
    split
    · rw [State.wrFlash_rg]
    · rfl
  rw [hp, hp]

theorem State.appendCounter_rg (s : State) : (s.appendCounter).rg = s.rg := by
  simp only [State.appendCounter, State.put_rg, State.appendRec_rg]

theorem State.takeSeq_rg (s : State) (n : Nat) (r : CmdRec) : (s.takeSeq n r).rg = s.rg := by
  unfold State.takeSeq
  split
  · rfl
  · split
    · rw [State.put_rg]
    · rw [State.appendCounter_rg, State.put_rg, State.put_rg]

/-- Check 7 passed: there is room. -/
theorem State.checkLast_room {s : State} {src : Nat} {row : CmdRow} {r : CmdRec} (h : s.checkLast src row r = none) :
    s.waitingCmds.length < 1024 := by
  unfold State.checkLast at h
  extract_lets g at h
  split at h
  · cases h
  · split at h
    · cases h
    · split at h
      · cases h
      · split at h
        · cases h
        · omega

theorem State.takeRec_keeps {s₀ s : State} (h : Keeps s₀ s) (src : Nat) (r : CmdRec) : Keeps s₀ (State.takeRec s src r) := by
  unfold State.takeRec
  extract_lets g n c s1
  have h1 : Keeps s₀ s1 := State.logRec_keeps h _ _ _
  split
  · exact State.complete_keeps h1 _ _ _
  · split
    · exact State.refuseRec_keeps h1 _ _ _
    · split
      · exact State.complete_keeps (State.takeSeq_keeps h1 _ _) _ _ _
      · rename_i heq
        refine State.waitCmd_keeps (State.takeSeq_keeps h1 _ _) ?_ _ _
        have e : (s1.takeSeq n r).rg = s.rg := (State.takeSeq_rg _ _ _).trans (State.logRec_rg _ _ _ _)
        unfold State.waitingCmds
        rw [e]
        exact State.checkLast_room heq

theorem State.readRecs_keeps {s₀ s : State} (h : Keeps s₀ s) (p : Nat) (mem : List HRead) (n : Nat) :
    Keeps s₀ (State.readRecs s p mem n) := by
  induction n generalizing s with
  | zero => exact h
  | succ n ih =>
    unfold State.readRecs
    refine keeps_ite h ?_
    split
    · exact h
    · exact ih (State.takeRec_keeps (State.bump_keeps (State.put_keeps h _ _) _) _ _)

theorem execCommandDoorbell_keeps {s : State} (port tail cplHead : Nat) (mem : List HRead) :
    KeepsO s (execCommandDoorbell port tail cplHead mem s) := by
  unfold execCommandDoorbell
  refine keepsO_ite (keepsO_ok (Keeps.refl s)) (keepsO_ok ?_)
  exact State.readRecs_keeps (State.flushCpl_keeps (State.setPort_keeps (Keeps.refl s) _ _) _ _) _ _ _

theorem execGriwanoCommand_keeps {s : State} (p : Pkt) : KeepsO s (execGriwanoCommand p s) := by
  have h := Keeps.refl s
  unfold execGriwanoCommand
  with_reducible repeat' first
    | assumption | apply State.drop_keeps | apply State.takeInbox_keeps | apply State.takeRec_keeps | apply State.take_keeps
    | apply keepsO_ok | apply keepsO_ite | apply keeps_ite | extract_lets

theorem execAckDoorbell_keeps {s : State} (port ring data : Nat) (cons : Option (Nat × Nat)) : KeepsO s (execAckDoorbell port ring data cons s) := by
  have h := Keeps.refl s
  unfold execAckDoorbell
  with_reducible repeat' first
    | assumption | (intro _) | apply State.ackRing_keeps | apply State.bump_keeps | apply State.consume_keeps
    | apply keepsO_ok | apply keepsO_ite | apply keeps_ite | apply keeps_forAll | split
    | refine keeps_mk ?_ rfl rfl rfl rfl rfl | extract_lets

theorem State.doLandReg_keeps {s₀ s : State} (h : Keeps s₀ s) (c : CmdHdr) (r k vec base cons prod : Nat) (mem : List HRead) : Keeps s₀ (State.doLandReg s c r k vec base cons prod mem) := by
  unfold State.doLandReg
  with_reducible repeat' first
    | assumption | (intro _) | apply State.complete_keeps | apply State.draw_keeps | apply State.inMode_keeps
    | apply State.put_keeps | apply State.resend_keeps | apply State.setLand_keeps | apply State.showLand_keeps
    | apply keeps_ite | apply keeps_forAll | split | refine keeps_mk ?_ rfl rfl rfl rfl rfl | extract_lets

theorem execLandReg_keeps {s : State} (c : CmdHdr) (ring k vec base cons prod : Nat) (mem : List HRead) : KeepsO s (execLandReg c ring k vec base cons prod mem s) := by
  have h := Keeps.refl s
  unfold execLandReg
  with_reducible repeat' first
    | assumption | apply State.doLandReg_keeps | apply keepsO_ok | apply keepsO_ite

theorem State.doLandDrop_keeps {s₀ s : State} (h : Keeps s₀ s) (c : CmdHdr) (r : Nat) : Keeps s₀ (State.doLandDrop s c r) := by
  unfold State.doLandDrop
  with_reducible repeat' first
    | assumption | (intro _) | apply State.complete_keeps | apply State.inMode_keeps | apply State.put_keeps
    | apply State.setLand_keeps | apply keeps_ite | refine keeps_mk ?_ rfl rfl rfl rfl rfl | extract_lets

theorem execLandDrop_keeps {s : State} (c : CmdHdr) (ring : Nat) : KeepsO s (execLandDrop c ring s) := by
  have h := Keeps.refl s
  unfold execLandDrop
  with_reducible repeat' first
    | assumption | apply State.doLandDrop_keeps | apply keepsO_ok | apply keepsO_ite

theorem execPortUp_keeps {s : State} (port link : Nat) : KeepsO s (execPortUp port link s) := by
  have h := Keeps.refl s
  unfold execPortUp
  with_reducible repeat' first
    | assumption | (intro _) | apply State.emitOut_keeps | apply State.flushCpl_keeps | apply State.put_keeps
    | apply State.resend_keeps | apply keepsO_ok | apply keepsO_ite | apply keeps_ite | apply keeps_forAll | extract_lets

theorem State.losePort_keeps {s₀ s : State} (h : Keeps s₀ s) (p : Nat) : Keeps s₀ (State.losePort s p) := by
  unfold State.losePort
  with_reducible repeat' first
    | assumption | apply State.beginFault_keeps | apply State.deaccUnit_keeps | apply State.put_keeps
    | apply State.recoverFault_keeps | apply State.retargetAll_keeps | extract_lets

theorem execPortDown_keeps {s : State} (port : Nat) (lost testFail : Bool) : KeepsO s (execPortDown port lost testFail s) := by
  have h := Keeps.refl s
  unfold execPortDown
  with_reducible repeat' first
    | assumption | apply State.charge_keeps | apply State.losePort_keeps | apply State.put_keeps | apply keepsO_ok
    | apply keepsO_ite | apply keeps_ite | extract_lets

theorem execMsixHoldoff_keeps {s : State} (port vec : Nat) : KeepsO s (execMsixHoldoff port vec s) := by
  have h := Keeps.refl s
  unfold execMsixHoldoff
  with_reducible repeat' first
    | assumption | apply State.advance_keeps | apply State.msix_keeps | apply State.setPort_keeps | apply keepsO_ok
    | apply keepsO_ite | apply keeps_ite | refine keeps_mk ?_ rfl rfl rfl rfl rfl | extract_lets

/-! ### Interval -/

theorem State.narrow_keeps {s₀ s : State} (h : Keeps s₀ s) (k d : Nat) : Keeps s₀ (State.narrow s k d) := by
  unfold State.narrow
  with_reducible repeat' first
    | assumption | (intro _) | apply State.beDrop_keeps | apply State.beJoin_keeps | apply State.emit_keeps
    | apply State.put_keeps | apply State.raise_keeps | apply keeps_ite | apply keeps_forAll | extract_lets

theorem State.leaveInput_keeps {s₀ s : State} (h : Keeps s₀ s) (k d i : Nat) : Keeps s₀ (State.leaveInput s k d i) := by
  unfold State.leaveInput
  with_reducible repeat' first
    | assumption | apply State.abandonFade_keeps | apply State.appendFault_keeps | apply State.beDrop_keeps
    | apply State.put_keeps | apply State.raise_keeps | apply keeps_ite | refine keeps_mk ?_ rfl rfl rfl rfl rfl
    | extract_lets

theorem State.leaveInputs_keeps {s₀ s : State} (h : Keeps s₀ s) (k d : Nat) : Keeps s₀ (State.leaveInputs s k d) := by
  unfold State.leaveInputs
  with_reducible repeat' first
    | assumption | (intro _) | apply State.leaveInput_keeps | apply State.recoverFault_keeps | apply State.setIng_keeps
    | apply keeps_forAll | refine keeps_mk ?_ rfl rfl rfl rfl rfl | extract_lets

theorem State.rejoinInputs_keeps {s₀ s : State} (h : Keeps s₀ s) (k : Nat) : Keeps s₀ (State.rejoinInputs s k) := by
  unfold State.rejoinInputs
  with_reducible repeat' first
    | assumption | (intro _) | apply State.beJoin_keeps | apply State.discardHist_keeps | apply State.put_keeps
    | apply keeps_ite | apply keeps_forAll | refine keeps_mk ?_ rfl rfl rfl rfl rfl | extract_lets

theorem State.recorded_keeps {s₀ s : State} (h : Keeps s₀ s) (k : Nat) : Keeps s₀ (State.recorded s k) := by
  unfold State.recorded
  with_reducible repeat' first
    | assumption | (intro _) | apply State.setAcu_keeps | apply keeps_forAll | refine keeps_mk ?_ rfl rfl rfl rfl rfl

theorem State.firstStart_keeps {s₀ s : State} (h : Keeps s₀ s) (k d : Nat) : Keeps s₀ (State.firstStart s k d) := by
  unfold State.firstStart
  with_reducible repeat' first
    | assumption | (intro _) | apply State.beStart_keeps | apply State.cteStart_keeps | apply State.galStart_keeps
    | apply State.ledStart_keeps | apply State.setCore_keeps | apply State.setSave_keeps | apply keeps_forAll
    | refine keeps_mk ?_ rfl rfl rfl rfl rfl | extract_lets

theorem State.goOn_keeps {s₀ s : State} (h : Keeps s₀ s) (k d last : Nat) : Keeps s₀ (State.goOn s k d last) := by
  unfold State.goOn
  with_reducible repeat' first
    | assumption | apply State.beResume_keeps | apply State.cteResume_keeps | apply State.galResume_keeps
    | apply State.ledStart_keeps

theorem State.beginRun_keeps {s₀ s : State} (h : Keeps s₀ s) (k : Nat) : Keeps s₀ (State.beginRun s k) := by
  unfold State.beginRun
  with_reducible repeat' first
    | assumption | (intro _) | apply State.firstStart_keeps | apply State.goOn_keeps | apply keeps_ite | apply keeps_forAll
    | split | refine keeps_mk ?_ rfl rfl rfl rfl rfl | extract_lets

theorem State.dropCons_keeps {s₀ s : State} (h : Keeps s₀ s) (c : Cons) : Keeps s₀ (State.dropCons s c) := by
  unfold State.dropCons
  with_reducible repeat' first
    | assumption | (intro _) | apply State.setMarkOf_keeps | apply State.showAcu_keeps | apply keeps_forAll
    | refine keeps_mk ?_ rfl rfl rfl rfl rfl | extract_lets

theorem State.takeSlot_keeps {s₀ s : State} (h : Keeps s₀ s) (r : RecSt) : Keeps s₀ (State.takeSlot s r) := by
  unfold State.takeSlot
  with_reducible repeat' first
    | assumption | (intro _) | apply State.put_keeps | apply State.raise_keeps | apply State.setAcu_keeps | split
    | refine keeps_mk ?_ rfl rfl rfl rfl rfl | extract_lets

theorem State.keepCons_keeps {s₀ s : State} (h : Keeps s₀ s) (c : Cons) : Keeps s₀ (State.keepCons s c) := by
  unfold State.keepCons
  with_reducible repeat' first
    | assumption | (intro _) | apply State.modCons_keeps | apply State.takeSlot_keeps | apply State.wrMem_keeps
    | apply keeps_forAll | refine keeps_mk ?_ rfl rfl rfl rfl rfl | extract_lets

theorem State.closeInterval_keeps {s₀ s : State} (h : Keeps s₀ s)  : Keeps s₀ (State.closeInterval s) := by
  unfold State.closeInterval
  with_reducible repeat' first
    | assumption | (intro _) | apply State.beginRun_keeps | apply State.dropCons_keeps | apply State.keepCons_keeps
    | apply State.modCons_keeps | apply State.recorded_keeps | apply keeps_ite | split
    | refine keeps_mk ?_ rfl rfl rfl rfl rfl | extract_lets

theorem State.openCons_keeps {s₀ s : State} (h : Keeps s₀ s) (k : Nat) : Keeps s₀ (State.openCons s k) := by
  unfold State.openCons
  with_reducible repeat' first
    | assumption | (intro _) | apply State.setMarkOf_keeps | apply State.showAcu_keeps | apply State.takeSlot_keeps
    | apply keeps_ite | apply keeps_forAll | refine keeps_mk ?_ rfl rfl rfl rfl rfl | extract_lets

theorem State.uncurtail_keeps {s₀ s : State} (h : Keeps s₀ s)  : Keeps s₀ (State.uncurtail s) := by
  unfold State.uncurtail
  with_reducible repeat' first
    | assumption | apply State.burnOwner_keeps | apply State.setMode_keeps | apply keeps_ite

theorem State.stopHere_keeps {s₀ s : State} (h : Keeps s₀ s) (last : Nat) : Keeps s₀ (State.stopHere s last) := by
  unfold State.stopHere
  with_reducible repeat' first
    | assumption | (intro _) | apply State.suspend_keeps | apply keeps_ite

theorem State.startInterval_keeps {s₀ s : State} (h : Keeps s₀ s) (k : Nat) : Keeps s₀ (State.startInterval s k) := by
  unfold State.startInterval
  with_reducible repeat' first
    | assumption | (intro _) | apply State.advance_keeps | apply State.beginRun_keeps | apply State.closeInterval_keeps
    | apply State.leaveInputs_keeps | apply State.narrow_keeps | apply State.openCons_keeps | apply State.recorded_keeps
    | apply State.rejoinInputs_keeps | apply State.stopHere_keeps | apply State.uncurtail_keeps | apply keeps_ite
    | apply keeps_forAll | refine keeps_mk ?_ rfl rfl rfl rfl rfl | extract_lets

theorem execIntervalStart_keeps {s : State} (k : Nat) : KeepsO s (execIntervalStart k s) := by
  have h := Keeps.refl s
  unfold execIntervalStart
  with_reducible repeat' first
    | assumption | apply State.startInterval_keeps | apply keepsO_ok | apply keepsO_ite | apply keeps_ite

/-! ### Power -/

theorem State.enableRail_keeps {s₀ s : State} (h : Keeps s₀ s) (x : Nat) : Keeps s₀ (State.enableRail s x) := by
  unfold State.enableRail
  with_reducible repeat' first
    | assumption | apply State.emitOut_keeps | apply State.put_keeps | apply keeps_ite | extract_lets

theorem State.railUp_keeps {s₀ s : State} (h : Keeps s₀ s) (x : Nat) : Keeps s₀ (State.railUp s x) := by
  unfold State.railUp
  with_reducible repeat' first
    | assumption | apply State.enableRail_keeps | apply State.put_keeps

theorem State.railsRetain_keeps {s₀ s : State} (h : Keeps s₀ s)  : Keeps s₀ (State.railsRetain s) := by
  unfold State.railsRetain
  with_reducible repeat' first
    | assumption | (intro _) | apply State.emitOut_keeps | apply State.put_keeps | apply State.railDown_keeps
    | apply keeps_forAll | extract_lets

theorem State.railsBack_keeps {s₀ s : State} (h : Keeps s₀ s) (fromRetain : Bool) : Keeps s₀ (State.railsBack s fromRetain) := by
  unfold State.railsBack
  with_reducible repeat' first
    | assumption | apply State.railsDormant_keeps | apply State.railsRetain_keeps | apply keeps_ite

theorem State.recordWake_keeps {s₀ s : State} (h : Keeps s₀ s) (src mask : Nat) : Keeps s₀ (State.recordWake s src mask) := by
  unfold State.recordWake
  with_reducible repeat' first
    | assumption | apply State.put_keeps | extract_lets

theorem State.beginWake_keeps {s₀ s : State} (h : Keeps s₀ s) (src mask : Nat) : Keeps s₀ (State.beginWake s src mask) := by
  unfold State.beginWake
  with_reducible repeat' first
    | assumption | apply State.enableRail_keeps | apply State.islandsLow_keeps | apply State.recordWake_keeps
    | refine keeps_mk ?_ rfl rfl rfl rfl rfl | extract_lets

theorem State.pendBit_keeps {s₀ s : State} (h : Keeps s₀ s) (k : Nat) : Keeps s₀ (State.pendBit s k) := by
  unfold State.pendBit
  with_reducible repeat' first
    | assumption | apply State.putBit_keeps

theorem State.holdWake_keeps {s₀ s : State} (h : Keeps s₀ s) (k : Nat) : Keeps s₀ (State.holdWake s k) := by
  unfold State.holdWake
  with_reducible repeat' first
    | assumption | apply State.pendBit_keeps | apply keeps_ite | refine keeps_mk ?_ rfl rfl rfl rfl rfl | extract_lets

theorem State.releaseHeld_keeps {s₀ s : State} (h : Keeps s₀ s)  : Keeps s₀ (State.releaseHeld s) := by
  unfold State.releaseHeld
  with_reducible repeat' first
    | assumption | (intro _) | apply State.beginWake_keeps | apply keeps_foldl | split
    | refine keeps_mk ?_ rfl rfl rfl rfl rfl | extract_lets

theorem State.wakeOn_keeps {s₀ s : State} (h : Keeps s₀ s) (k : Nat) : Keeps s₀ (State.wakeOn s k) := by
  unfold State.wakeOn
  with_reducible repeat' first
    | assumption | apply State.beginWake_keeps | apply State.holdWake_keeps | apply State.pendBit_keeps
    | apply State.put_keeps | apply keeps_ite | split | refine keeps_mk ?_ rfl rfl rfl rfl rfl | extract_lets

theorem State.condition_keeps {s₀ s : State} (h : Keeps s₀ s) (k : Nat) : Keeps s₀ (State.condition s k) := by
  unfold State.condition
  with_reducible repeat' first
    | assumption | apply State.pendBit_keeps | apply State.wakeOn_keeps | apply keeps_ite

theorem execWakePin_keeps {s : State}  : KeepsO s (execWakePin s) := by
  have h := Keeps.refl s
  unfold execWakePin
  with_reducible repeat' first
    | assumption | apply State.condition_keeps | apply keepsO_ok | apply keepsO_ite

theorem execSidebandWake_keeps {s : State} (port : Nat) : KeepsO s (execSidebandWake port s) := by
  have h := Keeps.refl s
  unfold execSidebandWake
  with_reducible repeat' first
    | assumption | apply State.condition_keeps | apply keepsO_ok | apply keepsO_ite | apply keeps_ite

theorem execActivityWake_keeps {s : State} (k : Nat) : KeepsO s (execActivityWake k s) := by
  have h := Keeps.refl s
  unfold execActivityWake
  with_reducible repeat' first
    | assumption | apply State.condition_keeps | apply keepsO_ok | apply keepsO_ite | apply keeps_ite

theorem State.wakeRetain_keeps {s₀ s : State} (h : Keeps s₀ s) (env : MusterEnv) : Keeps s₀ (State.wakeRetain s env) := by
  unfold State.wakeRetain
  with_reducible repeat' first
    | assumption | (intro _) | apply State.enterAlign_keeps | apply State.ingestStart_keeps | apply State.resendEvery_keeps
    | apply State.train_keeps | apply keeps_ite | apply keeps_forAll | refine keeps_mk ?_ rfl rfl rfl rfl rfl | extract_lets

theorem State.wakeDone_keeps {s₀ s : State} (h : Keeps s₀ s) (fromRetain porst : Bool) (env : MusterEnv) : Keeps s₀ (State.wakeDone s fromRetain porst env) := by
  unfold State.wakeDone
  with_reducible repeat' first
    | assumption | apply State.loReturns_keeps | apply State.muster_keeps | apply State.wakeRetain_keeps | apply keeps_ite
    | refine keeps_mk ?_ rfl rfl rfl rfl rfl | extract_lets

theorem State.wakeFails_keeps {s₀ s : State} (h : Keeps s₀ s) (fromRetain : Bool) (item : Nat) : Keeps s₀ (State.wakeFails s fromRetain item) := by
  unfold State.wakeFails
  with_reducible repeat' first
    | assumption | apply State.alert_keeps | apply State.emit_keeps | apply State.put_keeps | apply State.railsBack_keeps
    | apply State.raise_keeps | refine keeps_mk ?_ rfl rfl rfl rfl rfl | extract_lets

theorem execRailPowerGood_keeps {s : State} (rail ms : Nat) : KeepsO s (execRailPowerGood rail ms s) := by
  have h := Keeps.refl s
  unfold execRailPowerGood
  with_reducible repeat' first
    | assumption | (intro _) | apply State.advance_keeps | apply State.enableRail_keeps | apply State.put_keeps
    | apply keepsO_ok | apply keepsO_ite | apply keeps_ite | split | refine keeps_mk ?_ rfl rfl rfl rfl rfl | extract_lets

theorem execRailTimeout_keeps {s : State}  : KeepsO s (execRailTimeout s) := by
  have h := Keeps.refl s
  unfold execRailTimeout
  with_reducible repeat' first
    | assumption | apply State.advance_keeps | apply State.railsBack_keeps | apply State.wakeFails_keeps | apply keepsO_ok
    | apply keepsO_ite | apply keeps_ite | split | refine keeps_mk ?_ rfl rfl rfl rfl rfl | extract_lets

theorem execWakeRetry_keeps {s : State}  : KeepsO s (execWakeRetry s) := by
  have h := Keeps.refl s
  unfold execWakeRetry
  with_reducible repeat' first
    | assumption | apply State.advance_keeps | apply State.enableRail_keeps | apply State.put_keeps | apply keepsO_ok
    | apply keepsO_ite | apply keeps_ite | split | refine keeps_mk ?_ rfl rfl rfl rfl rfl | extract_lets

theorem execLoInActivity_keeps {s : State} (env : MusterEnv) : KeepsO s (execLoInActivity env s) := by
  have h := Keeps.refl s
  unfold execLoInActivity
  with_reducible repeat' first
    | assumption | apply State.loReturns_keeps | apply State.wakeDone_keeps | apply keepsO_ok | apply keepsO_ite
    | apply keeps_ite | split | refine keeps_mk ?_ rfl rfl rfl rfl rfl

theorem State.wakeAtOnce_keeps {s₀ s : State} (h : Keeps s₀ s) (fromRetain porst : Bool) (env : MusterEnv) (fail : Option Nat) : Keeps s₀ (State.wakeAtOnce s fromRetain porst env fail) := by
  unfold State.wakeAtOnce
  with_reducible repeat' first
    | assumption | (intro _) | apply State.advance_keeps | apply State.islandsLow_keeps | apply State.railUp_keeps
    | apply State.wakeDone_keeps | apply State.wakeFails_keeps | apply keeps_ite | apply keeps_forAll | split
    | refine keeps_mk ?_ rfl rfl rfl rfl rfl | extract_lets

theorem execPowerApplied_keeps {s : State} (env : MusterEnv) (fail : Option Nat) : KeepsO s (execPowerApplied env fail s) := by
  have h := Keeps.refl s
  unfold execPowerApplied
  with_reducible repeat' first
    | assumption | apply State.recordWake_keeps | apply State.wakeAtOnce_keeps | apply keepsO_ok | apply keepsO_ite
    | apply keeps_ite | refine keeps_mk ?_ rfl rfl rfl rfl rfl | extract_lets

theorem State.selfRefresh_keeps {s₀ s : State} (h : Keeps s₀ s)  : Keeps s₀ (State.selfRefresh s) := by
  unfold State.selfRefresh
  with_reducible repeat' first
    | assumption | (intro _) | apply State.issueRefreshes_keeps | apply State.put_keeps | apply State.setDrc_keeps
    | apply keeps_ite | apply keeps_forAll | refine keeps_mk ?_ rfl rfl rfl rfl rfl | extract_lets

theorem execPorstNFall_keeps {s : State}  : KeepsO s (execPorstNFall s) := by
  have h := Keeps.refl s
  unfold execPorstNFall
  with_reducible repeat' first
    | assumption | (intro _) | apply State.chainsOff_keeps | apply State.ingestStopAll_keeps | apply State.portsDown_keeps
    | apply State.selfRefresh_keeps | apply keepsO_ok | apply keepsO_ite | apply keeps_ite
    | refine keeps_mk ?_ rfl rfl rfl rfl rfl | extract_lets

theorem execPorstNRelease_keeps {s : State} (env : MusterEnv) (fail : Option Nat) : KeepsO s (execPorstNRelease env fail s) := by
  have h := Keeps.refl s
  unfold execPorstNRelease
  with_reducible repeat' first
    | assumption | apply State.holdWake_keeps | apply State.muster_keeps | apply State.recordWake_keeps
    | apply State.wakeAtOnce_keeps | apply keepsO_ok | apply keepsO_ite | apply keeps_ite | split
    | refine keeps_mk ?_ rfl rfl rfl rfl rfl | extract_lets

theorem State.powerLost_keeps {s₀ s : State} (h : Keeps s₀ s) : Keeps s₀ (State.powerLost s) :=
  h.trans ⟨⟨rfl, rfl, List.suffix_refl _, Nat.le_refl _, List.prefix_refl _, Nat.le_refl _, id, id⟩,
    fun hi => ⟨⟨rfl, rfl, hi.1.2.2.1, rfl, rfl⟩, Nat.zero_le _, Nat.zero_le _, hi.2.2.2⟩⟩

theorem execUvTrip_keeps {s : State}  : KeepsO s (execUvTrip s) := by
  have h := Keeps.refl s
  unfold execUvTrip
  with_reducible repeat' first
    | assumption | (intro _) | apply State.emitOut_keeps | apply State.pendBit_keeps | apply State.powerLost_keeps
    | apply State.put_keeps | apply keepsO_ok | apply keepsO_ite | apply keeps_ite | apply keeps_forAll | extract_lets

theorem execPwrdnNLow_keeps {s : State}  : KeepsO s (execPwrdnNLow s) := by
  have h := Keeps.refl s
  unfold execPwrdnNLow
  with_reducible repeat' first
    | assumption | apply State.enterDormant_keeps | apply State.putBit_keeps | apply State.railsDormant_keeps
    | apply keepsO_ok | apply keepsO_ite | apply keeps_ite | split | refine keeps_mk ?_ rfl rfl rfl rfl rfl | extract_lets

theorem execPwrdnNRise_keeps {s : State}  : KeepsO s (execPwrdnNRise s) := by
  have h := Keeps.refl s
  unfold execPwrdnNRise
  with_reducible repeat' first
    | assumption | apply State.pendBit_keeps | apply State.putBit_keeps | apply State.wakeOn_keeps | apply keepsO_ok
    | apply keepsO_ite | apply keeps_ite | refine keeps_mk ?_ rfl rfl rfl rfl rfl | extract_lets

theorem execTempTrip_keeps {s : State} (junction : Int) : KeepsO s (execTempTrip junction s) := by
  have h := Keeps.refl s
  unfold execTempTrip
  with_reducible repeat' first
    | assumption | apply State.emit_keeps | apply State.fatal_keeps | apply State.putBit_keeps | apply State.raise_keeps
    | apply keepsO_ok | apply keepsO_ite | apply keeps_ite | refine keeps_mk ?_ rfl rfl rfl rfl rfl | extract_lets

theorem execTempTripClear_keeps {s : State}  : KeepsO s (execTempTripClear s) := by
  have h := Keeps.refl s
  unfold execTempTripClear
  with_reducible repeat' first
    | assumption | apply State.putBit_keeps | apply State.releaseHeld_keeps | apply keepsO_ok | apply keepsO_ite
    | apply keeps_ite | refine keeps_mk ?_ rfl rfl rfl rfl rfl | extract_lets

theorem State.doDormant_keeps {s₀ s : State} (h : Keeps s₀ s) (c : CmdHdr) : Keeps s₀ (State.doDormant s c) := by
  unfold State.doDormant
  with_reducible repeat' first
    | assumption | (intro _) | apply State.complete_keeps | apply State.enterDormant_keeps | apply State.inMode_keeps
    | apply State.sealAll_keeps | apply State.signSeals_keeps

theorem execDormant_keeps {s : State} (c : CmdHdr) : KeepsO s (execDormant c s) := by
  have h := Keeps.refl s
  unfold execDormant
  with_reducible repeat' first
    | assumption | apply State.doDormant_keeps | apply keepsO_ok | apply keepsO_ite

theorem State.doRetain_keeps {s₀ s : State} (h : Keeps s₀ s) (c : CmdHdr) : Keeps s₀ (State.doRetain s c) := by
  unfold State.doRetain
  with_reducible repeat' first
    | assumption | (intro _) | apply State.complete_keeps | apply State.inMode_keeps | apply State.sealAll_keeps
    | apply State.setTimer_keeps | refine keeps_mk ?_ rfl rfl rfl rfl rfl | extract_lets

theorem execRetain_keeps {s : State} (c : CmdHdr) : KeepsO s (execRetain c s) := by
  have h := Keeps.refl s
  unfold execRetain
  with_reducible repeat' first
    | assumption | apply State.doRetain_keeps | apply keepsO_ok | apply keepsO_ite

theorem State.clocksRetain_keeps {s₀ s : State} (h : Keeps s₀ s)  : Keeps s₀ (State.clocksRetain s) := by
  unfold State.clocksRetain
  with_reducible repeat' first
    | assumption | (intro _) | apply State.enterHoldover_keeps | apply State.put_keeps | apply State.setRef_keeps
    | apply State.timeHold_keeps | apply keeps_ite | apply keeps_forAll | apply keeps_when
    | refine keeps_mk ?_ rfl rfl rfl rfl rfl | extract_lets

theorem State.quiesce_keeps {s₀ s : State} (h : Keeps s₀ s)  : Keeps s₀ (State.quiesce s) := by
  unfold State.quiesce
  with_reducible repeat' first
    | assumption | (intro _) | apply State.chainOff_keeps | apply State.clocksRetain_keeps | apply State.csvStop_keeps
    | apply State.ingestStop_keeps | apply State.lockDebug_keeps | apply State.modCons_keeps | apply State.portsDown_keeps
    | apply State.railsRetain_keeps | apply State.selfRefresh_keeps | apply State.setMode_keeps | apply keeps_forAll | split
    | refine keeps_mk ?_ rfl rfl rfl rfl rfl | extract_lets

theorem execRetainQuiesce_keeps {s : State}  : KeepsO s (execRetainQuiesce s) := by
  have h := Keeps.refl s
  unfold execRetainQuiesce
  with_reducible repeat' first
    | assumption | (intro _) | apply State.advance_keeps | apply State.quiesce_keeps | apply State.releaseHeld_keeps
    | apply keepsO_ok | apply keepsO_ite | apply keeps_ite | split | refine keeps_mk ?_ rfl rfl rfl rfl rfl

theorem State.doWarmReset_keeps {s₀ s : State} (h : Keeps s₀ s) (c : CmdHdr) (env : MusterEnv) : Keeps s₀ (State.doWarmReset s c env) := by
  unfold State.doWarmReset
  with_reducible repeat' first
    | assumption | (intro _) | apply State.complete_keeps | apply State.inMode_keeps | apply State.muster_keeps

theorem execWarmReset_keeps {s : State} (c : CmdHdr) (env : MusterEnv) : KeepsO s (execWarmReset c env s) := by
  have h := Keeps.refl s
  unfold execWarmReset
  with_reducible repeat' first
    | assumption | apply State.doWarmReset_keeps | apply keepsO_ok | apply keepsO_ite

theorem execRegistrarWatchdog_keeps {s : State} (env : MusterEnv) : KeepsO s (execRegistrarWatchdog env s) := by
  have h := Keeps.refl s
  unfold execRegistrarWatchdog
  with_reducible repeat' first
    | assumption | apply State.muster_keeps | apply keepsO_ok | apply keepsO_ite | apply keeps_ite

/-! ### Grain -/

theorem State.doNop_keeps {s₀ s : State} (h : Keeps s₀ s) (c : CmdHdr) : Keeps s₀ (State.doNop s c) := by
  unfold State.doNop
  with_reducible repeat' first
    | assumption | (intro _) | apply State.complete_keeps | apply State.inMode_keeps

theorem execNop_keeps {s : State} (c : CmdHdr) : KeepsO s (execNop c s) := by
  have h := Keeps.refl s
  unfold execNop
  with_reducible repeat' first
    | assumption | apply State.doNop_keeps | apply keepsO_ok | apply keepsO_ite

theorem execSetTime_keeps {s : State} (c : CmdHdr) (sec pps : Nat) : KeepsO s (execSetTime c sec pps s) := by
  have h := Keeps.refl s
  unfold execSetTime
  with_reducible repeat' first
    | assumption | apply State.doSetTime_keeps | apply keepsO_ok | apply keepsO_ite

theorem State.runCmd_keeps {s₀ s : State} (h : Keeps s₀ s) (ge : GrainEnv) (c : CmdHdr) (a e : List Nat) : Keeps s₀ (State.runCmd s ge c a e) := by
  unfold State.runCmd
  with_reducible repeat' first
    | assumption | (intro _) | apply State.complete_keeps | apply State.doAsymCal_keeps | apply State.doAttest_keeps
    | apply State.doBeamSet_keeps | apply State.doCoefLoad_keeps | apply State.doCtrSnap_keeps
    | apply State.doDebugUnlock_keeps | apply State.doDormant_keeps | apply State.doDump_keeps
    | apply State.doEpochReset_keeps | apply State.doFade_keeps | apply State.doImageUpdate_keeps
    | apply State.doLandDrop_keeps | apply State.doLandReg_keeps | apply State.doNop_keeps
    | apply State.doOwnerTransfer_keeps | apply State.doPolySet_keeps | apply State.doProgStart_keeps
    | apply State.doProgStop_keeps | apply State.doRefForce_keeps | apply State.doReinstate_keeps
    | apply State.doRetain_keeps | apply State.doSetTime_keeps | apply State.doSysrefBurst_keeps
    | apply State.doVitrine_keeps | apply State.doWarmReset_keeps | split | refine keeps_mk ?_ rfl rfl rfl rfl rfl
    | extract_lets

theorem State.unpend_keeps {s₀ s : State} (h : Keeps s₀ s) (x : PCmd) : Keeps s₀ (State.unpend s x) := by
  refine h.trans ⟨(Keeps.refl s).1, fun hi => ⟨hi.1, hi.2.1, ?_, hi.2.2.2⟩⟩
  have hs : ((s.rg.pend.erase x).filter fun x => x.hdr.src != 255).length ≤ s.waitingCmds.length :=
    (List.Sublist.filter _ List.erase_sublist).length_le
  exact Nat.le_trans hs hi.2.2.1

theorem State.grainDone_keeps {s₀ s : State} (h : Keeps s₀ s) (g : Nat) : Keeps s₀ (State.grainDone s g) := by
  unfold State.grainDone
  with_reducible repeat' first
    | assumption | refine keeps_mk ?_ rfl rfl rfl rfl rfl

theorem State.takeCmd_keeps {s₀ s : State} (h : Keeps s₀ s) (ge : GrainEnv) (cg : Nat) (won : List PCmd) (x : PCmd) : Keeps s₀ (State.takeCmd s ge cg won x) := by
  unfold State.takeCmd
  with_reducible repeat' first
    | assumption | apply State.complete_keeps | apply State.runCmd_keeps | apply State.showCmds_keeps
    | apply State.unpend_keeps | apply keeps_ite | refine keeps_mk ?_ rfl rfl rfl rfl rfl | extract_lets

theorem State.runGrain_keeps {s₀ s : State} (h : Keeps s₀ s) (ge : GrainEnv) (g cg : Nat) : Keeps s₀ (State.runGrain s ge g cg) := by
  unfold State.runGrain
  with_reducible repeat' first
    | assumption | (intro _) | apply State.takeCmd_keeps | apply keeps_forAll | extract_lets

theorem State.runDue_keeps {s₀ s : State} (h : Keeps s₀ s) (ge : GrainEnv) (late : Bool) (g n : Nat) :
    Keeps s₀ (State.runDue s ge late g n) := by
  induction n generalizing s g with
  | zero => exact h
  | succ n ih =>
    unfold State.runDue
    split
    · exact h
    · exact ih (State.runGrain_keeps h _ _ _) _

theorem State.runTo_keeps {s₀ s : State} (h : Keeps s₀ s) (ge : GrainEnv) (late : Bool) (g : Nat) : Keeps s₀ (State.runTo s ge late g) := by
  unfold State.runTo
  with_reducible repeat' first
    | assumption | apply State.grainDone_keeps | apply State.runDue_keeps | apply State.showCmds_keeps | apply keeps_ite
    | extract_lets

theorem State.handLoans_keeps {s₀ s : State} (h : Keeps s₀ s) (d : Nat) : Keeps s₀ (State.handLoans s d) := by
  unfold State.handLoans
  with_reducible repeat' first
    | assumption | (intro _) | apply State.lendTile_keeps | apply State.lend_keeps | apply State.setFc_keeps
    | apply State.setGal_keeps | apply keeps_forAll | refine keeps_mk ?_ rfl rfl rfl rfl rfl | extract_lets

theorem State.endFailover_keeps {s₀ s : State} (h : Keeps s₀ s)  : Keeps s₀ (State.endFailover s) := by
  unfold State.endFailover
  with_reducible repeat' first
    | assumption | (intro _) | apply State.failover_keeps | apply State.handLoans_keeps | apply State.recoverFault_keeps
    | apply keeps_ite | apply keeps_forAll | refine keeps_mk ?_ rfl rfl rfl rfl rfl | extract_lets

theorem State.startGrain_keeps {s₀ s : State} (h : Keeps s₀ s) (g : Nat) (ge : GrainEnv) : Keeps s₀ (State.startGrain s g ge) := by
  unfold State.startGrain
  with_reducible repeat' first
    | assumption | (intro _) | apply State.advance_keeps | apply State.endFailover_keeps | apply State.fabRewritten_keeps
    | apply State.failover_keeps | apply State.pmU_keeps | apply State.runTo_keeps | apply State.serveVits_keeps
    | apply keeps_ite | apply keeps_forAll | extract_lets

theorem execGrainStart_keeps {s : State} (g : Nat) (ge : GrainEnv) : KeepsO s (execGrainStart g ge s) := by
  have h := Keeps.refl s
  unfold execGrainStart
  with_reducible repeat' first
    | assumption | apply State.startGrain_keeps | apply keepsO_ok | apply keepsO_ite | apply keeps_ite

theorem State.catchUp_keeps {s₀ s : State} (h : Keeps s₀ s) (ge : GrainEnv) : Keeps s₀ (State.catchUp s ge) := by
  unfold State.catchUp
  with_reducible repeat' first
    | assumption | apply State.failover_keeps | apply State.runTo_keeps | apply keeps_ite

theorem execSwitchEnd_keeps {s : State} (phase : Int) (ge : GrainEnv) : KeepsO s (execSwitchEnd phase ge s) := by
  have h := Keeps.refl s
  unfold execSwitchEnd
  with_reducible repeat' first
    | assumption | apply State.catchUp_keeps | apply State.endSwitch_keeps | apply keepsO_ok | apply keepsO_ite
    | apply keeps_ite

theorem execSyncMessage_keeps {s : State} (k : Nat) (p : Pkt) (tin : Nat) (touts : List (Nat × Nat)) (ge : GrainEnv) : KeepsO s (execSyncMessage k p tin touts ge s) := by
  have h := Keeps.refl s
  unfold execSyncMessage
  with_reducible repeat' first
    | assumption | apply State.catchUp_keeps | apply State.takeSync_keeps | apply keepsO_ok | apply keepsO_ite
    | apply keeps_ite

theorem execPpsEdge_keeps {s : State} (r : Nat) (ge : GrainEnv) : KeepsO s (execPpsEdge r ge s) := by
  have h := Keeps.refl s
  unfold execPpsEdge
  with_reducible repeat' first
    | assumption | apply State.applySetTime_keeps | apply State.catchUp_keeps | apply keepsO_ok | apply keepsO_ite
    | apply keeps_ite | split | refine keeps_mk ?_ rfl rfl rfl rfl rfl

end Sys2Proof.Machine
end

