-- ==== Sys2Proof/WellFormed.lean ====
section
/-! DEFINITION. Well-formed commands: every operand within the range the rule of its row gives it. exec is total and gives a
command outside these ranges no effect or that of its lowest bits; the statements do not rest on this predicate. -/

namespace Sys2Proof

/-- The ranges of indices: span dies (R12); lanes, inputs, cores, tiles, host ports and DRAM channels (R540); rings (R341); links,
references, chains, DMA engines, conservator items and dump sets (the register tables of chapters 3, 14, 8, 15, 21 and 11). -/
def okDie (d : Nat) : Bool := decide (d < 8)
def okLane (d n : Nat) : Bool := okDie d && decide (n < 16)
def okLink (d j : Nat) : Bool := okDie d && decide (j < 8)
def okInput (d i : Nat) : Bool := okDie d && decide (i < 128)
def okCore (d c : Nat) : Bool := okDie d && decide (c < 18)
def okTile (d t : Nat) : Bool := okDie d && decide (t < 17)
def okBank (d t b : Nat) : Bool := okTile d t && decide (b < 2)
def okChain (k : Nat) : Bool := decide (k < 16)
def okChainLane (k l : Nat) : Bool := okChain k && decide (l < 4)
def okRef (r : Nat) : Bool := decide (r < 20)
def okRing (r : Nat) : Bool := decide (r < 8192)
def okTarget (r t : Nat) : Bool := okRing r && decide (t < 2)
def okPort (p : Nat) : Bool := decide (p < 2)
def okSlot (p a : Nat) : Bool := okPort p && decide (a < 2 ^ 28)
def okEngine (d e : Nat) : Bool := (okDie d && decide (e < 2)) || (d == 15 && e == 0)
def okChan (d c u : Nat) : Bool := okDie d && decide (c < 2) && decide (u < 2)
def okItem (d n : Nat) : Bool := okDie d && decide (n < (if d = 0 then 90 else 75))
def okSet (d x : Nat) : Bool := okDie d && decide (x < 16)

/-- A completion header (R452, R456, R467): a port, the calendar or a Griwano source; a 32-bit tag, a 16-bit opcode, a 48-bit
sequence number, a 64-bit grain, an entry of the command ledger. -/
def okHdr (c : CmdHdr) : Bool :=
  decide (c.src < 256 + 2 ^ 16) && decide (c.tag < 2 ^ 32) && decide (c.opcode < 2 ^ 16) && decide (c.seq < 2 ^ 48) && decide (c.grain < 2 ^ 64) &&
    decide (c.log < 4096)

/-- Octets. -/
def okOctets (l : List Nat) : Bool := l.all fun x => decide (x < 256)


/-- A packet (R209): every field within its bits, one to 32 payload words. -/
def okPkt (p : Pkt) : Bool :=
  decide (p.typ < 16) && decide (p.vc < 4) && decide (p.dst < 2 ^ 16) && decide (p.src < 2 ^ 16) && decide (p.dstDie < 8) &&
    decide (p.sub < 16) && decide (p.hops < 64) && decide (p.seq < 2 ^ 16) && decide (1 ≤ p.payload.length) && decide (p.payload.length ≤ 32)

/-- Ten-bit groups of the 8b/10b code (R197). -/
def okGroups (l : List Nat) : Bool := l.all fun x => decide (x < 1024)

/-- Characters received as one stream of four logical lanes (R198). -/
def okLine (x : RxLine) : Bool := decide (x.rd.length = 4) && okGroups x.groups

/-- A unit of the table of R540 (0 to 11), with its index. -/
def okUnit (u : UnitId) : Bool :=
  decide (u.die < 16) && decide (u.idx < [1, 16, 128, 2, 18, 17, 1, 40, 2, 2, 8, 1].getD u.kind 0)

/-- What a host read returned: a port's, of octets. -/
def okRead (h : HRead) : Bool := okPort h.port && decide (h.addr < 2 ^ 64) && okOctets h.data

/-- The command is well formed. -/
def Instr.wf : Instr → Bool
  | .nop c | .attest c _ | .ctrSnap c _ _ | .progStop c | .vitrine c _ _ _ _ _ | .sysrefBurst c _ | .retain c | .setTime c _ _
  | .warmReset c _ | .dormant c | .epochReset c _ _ _ | .ownerTransfer c _ _ | .debugUnlock c _ => okHdr c
  | .progStart c p => okHdr c && decide (p < 16)
  | .dump c ds x => okHdr c && decide (ds < 256) && decide (x < 16)
  | .fade c d i l => okHdr c && okInput d i && decide (64 ≤ l) && decide (l ≤ 65536)
  | .coefLoad c d i _ | .polySet c d i _ => okHdr c && okInput d i
  | .beamSet c d b ws => okHdr c && okDie d && decide (b < 1024) && decide (ws.length = 9)
  | .refForce c r => okHdr c && okRef r
  | .landReg c r k v _ _ _ mem => okHdr c && okRing r && decide (k < 32) && decide (v < 64) && mem.all okRead
  | .landDrop c r => okHdr c && okRing r
  | .asymCal c k n => okHdr c && okChain k && decide (16 ≤ n) && decide (n < 2 ^ 24)
  | .reinstate c u _ => okHdr c && okUnit u
  | .imageUpdate c dev _ _ mem => okHdr c && decide (dev < 2) && mem.all okRead
  | .commandDoorbell p tail hd rs => okPort p && decide (tail < 2 ^ 32) && decide (hd < 2 ^ 32) && rs.all okRead
  | .griwanoCommand p | .stateRead p | .stateWrite p | .collectorAck p => okPkt p
  | .grainStart g _ => decide (g < 2 ^ 64)
  | .ackDoorbell p r _ _ => okPort p && okRing r
  | .registerWrite p a v => okSlot p a && decide (v < 2 ^ 72)
  | .partialWrite p a => okSlot p a
  | .deniedRead p a n => okPort p && decide (1 ≤ n) && decide (n ≤ 512) && decide (a + n ≤ 2 ^ 28)
  | .dmaDoorbell d e c _ => okEngine d e && decide (c < 16)
  | .portUp p _ | .portDown p _ _ | .sidebandWake p => okPort p
  | .msixHoldoff p v => okPort p && decide (v < 64)
  | .cdrLock d n _ | .cgsAchieved d n | .cgsLoss d n _ | .misplacedAlignment d n _ _ _ => okLane d n
  | .characterError d n _ g _ => okLane d n && decide (g < 1024)
  | .frameRelease d j q0 q1 q2 q3 => okLink d j && (q0 ++ q1 ++ q2 ++ q3).all okGroups
  | .ilasStart d j | .ilasRetry d j | .linkWait d j => okLink d j
  | .ilasComplete d j ls _ _ => okLink d j && ls.all fun l => decide (l.lane < 16) && okOctets l.octs
  | .updatePoint d _ | .fadeStart d | .sendFolio d _ | .idleMarkerTimer d | .quietExpiry d | .commitReportTimer d | .shortIntegrationBoundary d _
  | .headerWrite d | .updateInterval d _ | .beamPass d _ _ | .triggerSample d _ | .journalWrite d | .dieFailure d | .ledgerClear d _
  | .ageingMeasurement d _ _ _ | .dailyRecord d _ | .dramRead d _ _ _ | .dramWrite d _ _ | .unitWrite d _ _ => okDie d
  | .dfuOutput d i _ | .fadeEnd d i | .dfuChange d i _ _ _ | .folioReadBack d i _ _ _ _ => okInput d i
  | .intervalStart k | .settling k | .accWindowExpiry k => decide (k < 2 ^ 48)
  | .vitrineHandover d v => okDie d && decide (v < 16)
  | .mnop d c _ | .cmul d c _ | .cmulj d c _ | .cmulw d c _ | .rmul d c _ | .ftap d c _ | .crot d c _ | .cmac d c _ | .cmacj d c _
  | .accrd d c _ | .accclr d c _
  | .anop d c | .add d c | .bf2 d c | .bf4 d c | .mov d c | .logic d c | .shl d c | .rq4 d c | .rq8 d c | .pred d c | .bexp d c | .bclr d c
  | .ld d c _ | .ldu d c _ | .st d c _ | .dxlys d c _ | .dxsyl d c _ | .dxlyl d c _ | .aadd d c | .ali d c | .mvts d c | .mvfs d c
  | .br d c | .call d c | .miscNop d c | .halt d c | .atom d c | .iwait d c | .irel d c | .oput d c | .ei d c | .di d c | .soft d c
  | .ret d c | .rti d c | .loop d c | .rep d c | .iterationEnd d c | .interruptTake d c | .inputBufferComplete d c | .outputFrameFreed d c
  | .coreTimer d c | .coreWatchdog d c | .ckptSave d c _ | .fcRetest d c _ => okCore d c
  | .doorbellMessage d c code _ => okCore d c && decide (1 ≤ code) && decide (code ≤ 4)
  | .dataPacket d p | .marker d p | .rewindReceived d p | .reportReceived d p => okDie d && okPkt p
  | .streamLost d e => okDie d && decide (e < 4096)
  | .destLost d dev x => okDie d && decide (dev < 2 ^ 16) && okDie x
  | .stintSlotRelease d n => okDie d && decide (n < 2 ^ 48)
  | .workOrderIssue d t | .workOrderStart d t | .tileCycle d t _ | .tileBistDone d t _ | .tileWatchdog d t _ | .tileRetest d t _ => okTile d t
  | .sealBank d t b | .drainAck d t b | .drainRecord d t b _ _ | .gapTimeout d t b => okBank d t b
  | .dumpUnit d x _ _ => okSet d x
  | .unitEntry r | .sealTimer r => okRing r
  | .targetSend r t _ | .ackTimeout r t => okTarget r t
  | .counterWrap d k _ => okDie d && decide (k < 64)
  | .refActivityFail r | .frequencyGate r _ | .qualificationComplete r | .ppsEdge r _ => okRef r
  | .syncMessage k p _ _ _ | .delayReq k p _ _ | .delayResp k p => okChain k && okPkt p
  | .packetReceived k n x _ | .lcbReceived k n x => okChain k && decide (n < 4) && okLine x
  | .calDone k _ _ | .signalDetect k | .trainRetry k | .aosSend k | .transmitChoice k | .lcbSendTimer k | .replayTimeout k | .sleepIdle k
  | .directionWake k _ | .activityWake k => okChain k
  | .aosReceived k ls => okChain k && ls.all fun x => okGroups x.groups
  | .tosReceived k l gs _ _ => okChainLane k l && okGroups gs
  | .eyeMeasure k l _ _ | .symbolLockLoss k l => okChainLane k l
  | .creditTimeout k vc => okChain k && decide (vc < 4)
  | .sleepReceived k v => okChain k && decide (v < 2)
  | .pkfPacket h p x _ => decide (h < 8) && okPkt p && okDie x
  | .refreshInterval d c u | .retrainStep d c u _ _ => okChan d c u
  | .scrubPass d c _ => okChan d c 0
  | .dramTraining e => okChan e.die e.chan 0
  | .fabricRequest d t _ _ => okDie d && decide (t < 12)
  | .prioParityError d m t => okDie d && decide (m < 26) && decide (t < 12)
  | .descriptorComplete d e mem _ _ _ => okEngine d e && mem.all okRead
  | .pacedRequest d e _ | .paceTimeout d e => okEngine d e
  | .pacedWithdraw d e n _ => okEngine d e && decide (1 ≤ n) && decide (n ≤ 7)
  | .calendarEntry n g => decide (n < 256) && decide (g < 2 ^ 64)
  | .programmeSwitch ds => ds.all okDie
  | .railPowerGood r _ => decide (r < 8)
  | .regFailover c => decide (c < 2)
  | .bucketLeak u b => okUnit u && decide (b < 2)
  | .giveupTimeout u => okUnit u
  | .calibrationDue d n _ | .calibrationResult d n _ _ _ | .trimInForce d n | .calibrationTimeout d n => okItem d n
  | .canNumbering | .sealSign | .telemetryTimer _ _ _ _ | .snapshotComplete | .loLoss | .loWarmTimer | .switchEnd _ _ | .dpllLock | .ladderDwell
  | .historySecond _ _ | .holdoverExpiry | .syncOriginate _ | .delayReqOriginate _ | .syncTimeout | .crystalDiscipline _ | .powerApplied _ _
  | .musterEnd | .alignExit _ | .porstNFall | .porstNRelease _ _ | .pwrdnNLow | .pwrdnNRise | .wakePin | .uvTrip | .tempTrip _ | .railTimeout
  | .loInActivity _ | .wakeRetry | .retainQuiesce | .thermalThrottle _ | .throttleTimer _ | .sequencerRequest _ | .sequencerDone
  | .registrarWatchdog _ | .checkpoint | .registrarSelfTest _ | .trngFail | .drbgReseed _ | .debugExpiry | .revertHoldoff | .tempTripClear
  | .updateDone _ | .attestationSign => true

end Sys2Proof
end

