-- ==== Sys2Proof/Tests/Slice0.lean ====
section
/-! SUPPORT. Small tests, and for every statement that has hypotheses a state and operands that meet them. -/

set_option Elab.async false

open Sys2Proof Sys2Proof.Machine Sys2Proof.Machine.Reg

/-! ### States that the tests start from -/

/-- What a step's answer holds. -/
def after (o : Host.Outcome State Fault Refusal) (p : State → Bool) : Bool :=
  match o with
  | .next t => p t
  | _ => false

/-- Fields set one after another. -/
def puts (s : State) (l : List (RF × Nat)) : State := l.foldl (fun s e => s.put e.1 e.2) s

/-- The device in a mode, all else at reset. -/
def inM (m : Nat) : State := State.reset.put PWR_MODE_MODE m

/-- OBSERVE, host port B UP with its rings enabled and level OBSERVER. -/
def hostUp : State := puts (inM mOBSERVE) [(HP_STATUS_STATE 1, 1), (HP_RINGCFG_EN 1, 1), (CMD_SRC_VALID 1, 1), (CMD_SRC_LEVEL 1, 1)]

/-- OBSERVE, host port B UP without any right. -/
def strangerUp : State := puts (inM mOBSERVE) [(HP_STATUS_STATE 1, 1), (HP_WIN_BASE 1 2, 0xF02000)]

/-- A control packet of Griwano device 9 to the keeper, and a state where it has come. -/
def ctrlPkt (sub : Nat) (w : List Word) : Pkt := ⟨1, 2, 0, 9, 0, sub, 0, 0, w⟩
def withCtrl (sub : Nat) (w : List Word) : State := { hostUp with inbox := [(8, ctrlPkt sub w)] }

/-- A NOP record for grain 100, one that is signed and has its extension at address 0, and a NOP from Griwano device 9, and a state whose source 2 is that device. -/
def nopOcts : List Nat := [1, 0, 0, 0, 0, 0, 0, 0, 100] ++ List.replicate 55 0
def signedOcts : List Nat := [1, 0, 1] ++ List.replicate 61 0
def nopPkt : Pkt := ctrlPkt 1 (packOctets 8 nopOcts)
def cmdWaits : State := { puts (inM mOBSERVE) [(CMD_SRC_VALID 2, 1), (CMD_SRC_LEVEL 2, 1), (CMD_SRC_DEV 2, 9)] with inbox := [(8, nopPkt)] }

/-- Port B at level OPERATOR, the last ring of the part bound to it with an enabled landing ring. -/
def ringHost : State := puts (inM mOBSERVE) [(HP_STATUS_STATE 1, 1), (CMD_SRC_VALID 1, 1), (CMD_SRC_LEVEL 1, 2), (RING_TGT_T0 7 1023, 2),
  (LAND_STATE_EN 1 8191, 1), (HP_CFG_ERR_THRESH 1, 3)]

theorem reset_inv : State.reset.Inv := by
  refine ⟨⟨rfl, rfl, rfl, rfl, rfl⟩, ?_, ?_, ?_⟩ <;> decide

/-- OBSERVE with programme 0 running and every dump set of SD7 enabled; programmes 0 and 15 defined. -/
def runningP : State := { puts (inM mOBSERVE) [(DSET_CFG_EN 7 15, 1), (IMG_HDR_PROGS, 0x8001), (GRID_RATE_FS_NUM 7, 1000000)] with nvm := { NvmSt.reset with progOn := true } }

/-- OBSERVE with every vitrine of SD7 open. -/
def vitFull : State := (List.range 16).foldl (fun s v => s.put (VIT_STATE_STATE 7 v) 1) (inM mOBSERVE)

/-- OBSERVE with references 0 and 19 qualified at rank 0. -/
def refReady : State := puts (inM mOBSERVE) [(REF_STATUS_STATE 0, rfQUALIFIED), (REF_STATUS_STATE 19, rfQUALIFIED), (REF_CFG_RANK 0, 1), (REF_CFG_RANK 19, 2), (RSC_STATUS_SEL, 0)]

/-- A powered device in OBSERVE; one in DORMANT; and one in DORMANT with a wake under way. -/
def awake : State := { inM mOBSERVE with pwr := { PwrSt.reset with powered := true } }
def asleep : State := { puts State.reset [(AOI_CMP_ACTION 4, 1), (AOI_CMP_ACTION 6, 1), (AOI_CMP_ACTION 7, 3)] with pwr := { PwrSt.reset with powered := true } }
def waking (w : WakeSt) : State := { asleep with pwr := { asleep.pwr with wake := some w } }

/-- OBSERVE, lane 15 and link 7 of SD7 in given states; slot 127 is fed by converter 15 of that link. -/
def laneIn (ln lk : Nat) : State := puts (inM mOBSERVE) [(LANE_CFG_EN 7 15, 1), (LANE_CFG_LINK 7 15, 7), (LANE_STATUS_STATE 7 15, ln), (LANE_CFG_CTLE_MODE 7 15, 0),
  (LINK_CFG_EN 7 7, 1), (LINK_STATUS_STATE 7 7, lk), (LINK_CFG_K_M1 7 7, 31), (INPUT_MAP_EN 7 127, 1), (INPUT_MAP_LINK 7 127, 7), (INPUT_MAP_I_CONV 7 127, 15),
  (LINK_CFG_SUBCLASS 7 7, 0), (LINK_CFG_SCR 7 7, 0)]

/-- That link in DATA on its one lane, with two octets a frame and one converter of 16-bit words; its first release to come or behind it. -/
def laneData (first : Bool) : State := (puts (laneIn lnCGS lkDATA) [(LINK_CFG_F_M1 7 7, 1), (LINK_CFG_NP 7 7, 1), (LINK_CFG_N_M1 7 7, 13), (INPUT_MAP_I_CONV 7 127, 0),
  (LANE_CFG_LOGICAL 7 15, 0), (LANE_CFG_INV 7 15, 0)]).setLinkSt 7 7 { LinkSt.reset with first := first, live := true, mf := 1 }

/-- OBSERVE, slot 127 of SD7 in a DFU mode with one tap and output 4 next; its folio 0 is being recorded in slot 0. -/
def dfuIn (m : Nat) : State :=
  { (puts (inM mOBSERVE) [(INPUT_MAP_EN 7 127, 1), (IN_CFG_MODE 7 127, m), (IN_CFG_TAPS_A_M1 7 127, 0), (IN_CFG_D_M1 7 127, 15),
  (DELAY_LINE_SAMPLES 7 0 12, 0), (DELAY_LINE_SAMPLES 7 0 13, 0), (DELAY_LINE_SAMPLES 7 0 14, 0), (DELAY_LINE_SAMPLES 7 0 15, 0),
  (DELAY_LINE_SAMPLES 7 0 16, 0)]).setDfuIn 7 127
      { DfuIn.reset with next := some 4 } with
    acc := { AccSt.reset with cons := [⟨0, 0, [⟨7, some 0, [127], [], [], [], 0, false, [], []⟩], 0, false⟩] } }

/-- Two fades queued on SD7. -/
def fadeIn : State := (puts (inM mOBSERVE) [(FADE_REQ_LEN_M1 7 127, 63)]).setDfu 7 { DfuSt.reset with queue := [127, 0] }

/-- One undecided consignment, of folio 5, in a state and with reasons. -/
def consOf (st rs : Nat) : Cons := ⟨5, st, [⟨7, some 0, [127], [127], [], [], 0, false, [], []⟩], rs, false⟩
def consIn (st rs : Nat) : State := { inM mOBSERVE with acc := { AccSt.reset with cons := [consOf st rs] } }

/-- Vitrine 15 of SD7 open over folio 5, whose record is in the journal. -/
def vitReady : State :=
  (puts (inM mOBSERVE) [(VIT_STATE_STATE 7 15, 1), (VIT_FIRST_FOLIO 7 15, 5), (VIT_LAST_FOLIO 7 15, 5), (VIT_MASK1_INPUTS 7 15, 2 ^ 63)]).setAcu 7
    { AcuSt.reset with dir := [⟨0, 5, some 0, 1, 0, 9, 0, [127]⟩] }

/-- OBSERVE, core 15 of SD7 running with one bundle in its program memory, at a phase of that bundle. -/
def coreAt (phase : Nat) (m a c : Nat) : State :=
  (puts (inM mOBSERVE) [(CORE_CFG_EN 7 15, 1), (CORE_CFG_IN_BUFS 7 15, 2), (CORE_CFG_OUT_BUFS 7 15, 2), (CORE_CFG_INPUTS 7 15, 1)]).setCore 7 15
    { CoreSt.reset with st := 1, phase := phase, pm := [⟨0, BitVec.ofNat 72 (m + a * 2 ^ 26 + c * 2 ^ 50)⟩] }

/-- The words of the three slots by their fields. -/
def mWord (t op pg d s tt : Nat) : Nat := t * 2 ^ 25 + op * 2 ^ 22 + pg * 2 ^ 18 + d * 2 ^ 12 + s * 2 ^ 6 + tt
def aWord (op pg d s x : Nat) : Nat := op * 2 ^ 20 + pg * 2 ^ 16 + d * 2 ^ 10 + s * 2 ^ 4 + x
def cWord (op pg x : Nat) : Nat := op * 2 ^ 18 + pg * 2 ^ 14 + x

/-- What the statements about an M slot, an A slot and a C slot assume of the core. -/
def mReady (w : Nat) : Bool :=
  let s := coreAt 0 w 0 0
  s.coreRuns 7 15 && !(s.core 7 15).iterDue && (s.core 7 15).phase == 0 && s.stallOf 7 15 (s.core 7 15) == 0 && (s.core 7 15).mSlot == w && !mIllegal w
def aReady (w : Nat) : Bool :=
  let s := coreAt 1 0 w 0
  s.coreRuns 7 15 && !(s.core 7 15).iterDue && (s.core 7 15).phase == 1 && (s.core 7 15).aSlot == w && !aIllegal w && !(s.core 7 15).isLoop
def cReady (w : Nat) : Bool :=
  let q := (coreAt 2 0 0 w).core 7 15
  (coreAt 2 0 0 w).coreRuns 7 15 && !q.iterDue && q.phase == 2 && q.cSlot == w && !cIllegal q.bundle && !q.giveDue && q.cGuard &&
    !q.inRep && q.delay == 0 && q.atom == 0 && !q.lateInLoop

/-- The feeder of that core has a decided record of slot 127 to deliver. -/
def coreFed : State := ((puts (coreAt 0 0 0 0) [(INPUT_MAP_EN 7 127, 1), (CORE_CFG_LOGICAL 7 15, 0)]).setFc 7 { (coreAt 0 0 0 0).fc 7 with inputs := [1] }).setAcu 7 { AcuSt.reset with dir := [⟨0, 5, some 0, 1, 0, 9, 0, [127]⟩] }

/-- SD7 with a decided record of folio 5 to send; the same with one destination that has released nothing; packets of and for it. -/
def cteRun : State :=
  ({ inM mOBSERVE with now := 5 * 4096 * tSec, nvm := { NvmSt.reset with progOn := true } }.setAcu 7 { AcuSt.reset with dir := [⟨0, 5, none, 1, 0, 9, 0, []⟩] }).setCte 7
    { CteSt.reset with synced := true }
def cteDest : DestSt := ⟨9, 3, 0, 0, 0, false, 0, 0, 0⟩
def cteHeld : State := (cteRun.put (CTE_CFG_NSI 7) 1).setCte 7 { CteSt.reset with synced := true, dests := [cteDest] }
def rewindPkt : Pkt := ⟨1, 2, 1, 9, 7, 0xD, 0, 0, [3, 0]⟩
def reportPkt : Pkt := ⟨1, 2, 1, 9, 7, 0xC, 0, 0, [BitVec.ofNat 72 (4 + 3 * 2 ^ 51), 0]⟩
def dataPkt : Pkt := ⟨1, 0, 1, 9, 7, 3, 0, 0, [1, 2]⟩
def markPkt (flags folio pkts : Nat) : Pkt := ⟨1, 0, 1, 9, 7, 11, 0, 0, markerWords folio flags 0 pkts 0⟩

/-- SD7's entry 0 is the stream from die 3 of device 9, whose next folio is 6; a packet has come. -/
def cteIn (p : Pkt) : State :=
  { (puts (inM mOBSERVE) [(CTE_SRC_VALID 7 0, 1), (CTE_SRC_DEV 7 0, 9), (CTE_SRC_DIE 7 0, 3)]).setStream 7 0 ⟨[], 0, 6, 0, false⟩ with inbox := [(7, p)] }

/-- A die whose gallery and beam engine have passed short integration 0. -/
def drained (d : Nat) (s : State) : State :=
  (s.setBe d { BeSt.reset with si := 1 }).setGal d { GalSt.reset with doneNext := 1 }

/-- SD7 with one work-table entry, for logical tile 15 in bank 1; tile 15 with its order in a bank of a given state. -/
def galEntry : Nat := 15 * 2 ^ 42 + 2 ^ 46
def galOrder : WOrder := ⟨galEntry, 0, 0, 15⟩
def galIn : State := puts (inM mOBSERVE) [(GAL_GEOM_WT_LEN 7, 1), (WT_ENTRY 7 0, galEntry), (TILE_CFG_EN 7 15, 1), (TILE_CFG_LOGICAL 7 15, 15),
  (TILE_STATUS_STATE 7 15, tsIDLE)]
def tileQ (st : Nat) : TileSt := { TileSt.reset with b1 := ⟨st, some galOrder, 0, 0, 0, [], 1⟩, queue := [galOrder] }
def tileIn (st : Nat) : State := (galIn.setCte 7 { CteSt.reset with segNext := 1 }).setTile 7 15 (tileQ st)

/-- That tile drains short integration `n` into block 0 of SD7, whose header is `h`. -/
def ledIn (h n : Nat) : State :=
  ((puts galIn [(CHMAP_OWNED 7 0, 1), (LED_GEOM_VIS_BLOCKS 7, 1), (LED_GEOM_NLOC 7, 1), (LED_REGION_HDR_BASE 7, 1000), (DSET_CFG_CLEAR 7 15, 1)]).setTile 7 15
    { TileSt.reset with b1 := ⟨bkDRAIN, some { galOrder with si := n }, 0, 0, 0, [], 0⟩ }).setLedHdr 7 0 (BitVec.ofNat 72 h)

/-- SD7's beam engine with a descriptor of batch 63 in update interval 0; a detector with one complete sample. -/
def detIn (bad : Bool) : DetSt := { DetSt.reset with sums := [(0, ⟨100, 1, bad⟩)] }
def beIn : State :=
  ((puts (inM mOBSERVE) [(BE_CFG_UPD_FOLIOS 7, 1), (CTE_CFG_NSI 7, 4096), (CTE_CFG_NCH_LOG2 7, 0), (DET_CFG0_EN 7 63, 1), (DET_CFG0_TAVG_M1 7 63, 0),
    (DET_CFG0_DCH_CNT_M1 7 63, 0)]).setCte 7 { CteSt.reset with segNext := 1 }).setBe 7
    { BeSt.reset with ints := [⟨0, [(0, [BitVec.ofNat 72 (1 + 63 * 2 ^ 63)])], []⟩], dets := [(63, detIn false)] }

/-- SD7's last ring enabled over 1,000 words, with room; a unit of a type for it; one product committed there and sent to
collector 9, or due to landing ring on host port B. -/
def ringUp : State := puts (inM mOBSERVE) [(RING_CFG_EN 7 1023, 1), (RING_CFG_PRODUCER 7 1023, 4), (RING_REGION_WORDS 7 1023, 1000), (RING_CFG_SEAL_S 7 1023, 1), (PR_CFG_ACK_TO_MS 7, 100),
  (RING_TGT_T0 7 1023, 3), (RING_TGT_T0_DEV 7 1023, 9), (RING_TGT_T1 7 1023, 2), (HP_STATUS_STATE 1, 1), (LAND_STATE_EN 1 8191, 1),
  (LAND_STATE_SLOTS_LOG2 1 8191, 10), (LAND_STATE_FREE 1 8191, 1024), (PKC_RINGS_ATT_RING, 8191)]
def unitOf (typ : Nat) : Sys2Proof.Machine.PUnit := ⟨typ, 8191, 0, 0, 0, 0, 0, 5, 0, [1], .service⟩
def unitIn (typ : Nat) : State := { ringUp with units := [unitOf typ] }
def ringSent (n : Nat) : State :=
  { ringUp.setRing 8191 { RingSt.reset with prods := [⟨0, 5, 5, false, 0⟩], nSent0 := n, sinceTrig := 1 } with
    inbox := [(7, ⟨1, 2, 0, 9, 7, 0xA, 0, 0, [0, 8191]⟩)] }
/-- SD7's beam engine whose one pass of the interval is past folio 0. -/
def beTurn : State := beIn.setBe 7 { beIn.be 7 with pos := [(63, ⟨1, 0, 0⟩)] }

def secIn (q : SecReq) : State := { ringUp with sec := { ringUp.sec with queue := [q], sealKey := some 1 } }

/-- Reference 19 in a state, LO_IN active, the DPLL in a state that follows reference 19. -/
def refIn (st dp : Nat) : State := { puts (inM mOBSERVE) [(REF_STATUS_STATE 19, st), (RSC_STATUS_STATE, dp), (RSC_STATUS_SEL, 19), (RSC_STATUS_LADDER, 1),
    (RSC_LADDER1_NSTEPS, 3), (RSC_CFG_ACCEPT_PPB, 500), (RSC_CFG_REJECT_PPB, 1000), (RSC_CFG_QUAL_S, 10), (RSC_STATUS_LO_WARM, 1)] with
  rsc := { RscSt.reset with refs := [(19, ⟨true, 10, false⟩)], loActive := true, target := some 19, hoEntry := tSec } }

/-- The line that reference r is recovered from is good. -/
def refLine (r : Nat) : State := puts (refIn rfINVALID dpLOCKED) [(GWL_CH_STATUS_STATE (kDie (r - 4)) (kIdx (r - 4)), csACTIVE),
  (LN_STATUS_SYMLOCK (kDie (r - 4)) (4 * kIdx (r - 4)), 1), (LN_STATUS_SYMLOCK (kDie (r - 4)) (4 * kIdx (r - 4) + 1), 1),
  (LN_STATUS_SYMLOCK (kDie (r - 4)) (4 * kIdx (r - 4) + 2), 1), (LN_STATUS_SYMLOCK (kDie (r - 4)) (4 * kIdx (r - 4) + 3), 1)]

/-- A better reference 0 beside the selected 19, with reverting on. -/
def revertIn : State := puts (refIn rfQUALIFIED dpLOCKED) [(REF_STATUS_STATE 0, rfQUALIFIED), (REF_CFG_RANK 0, 0), (REF_CFG_RANK 19, 1), (RSC_CFG_REVERT, 1)]

/-- A follower whose upstream chain is 15 and whose lead is device 9; a lead; messages. -/
def followIn (sv : Nat) : State := { puts (inM mOBSERVE) [(TE_CFG_ROLE, 2), (TE_CFG_LEAD_DEV, 9), (TE_TREE_UP_PRI, 15), (TE_TREE_DOWN, 2 ^ 14), (TE_STATUS_SERVO, sv),
    (TE_LIMITS_STEP_NS, 1000)] with
  te := { TeSt.reset with t3 := some 200, syncs := [⟨100, 50⟩], table := [(10, 15)], setTime := some (5, 2) } }
def leadIn : State := { puts (inM mOBSERVE) [(TE_CFG_ROLE, 1), (TE_TREE_DOWN, 2 ^ 14)] with te := { TeSt.reset with cal := [⟨15, 16, 0, 16, 800⟩] } }
def ptpPkt (m : Ptp) : Pkt := ⟨3, 1, 0, m.dev, 0, m.typ, 0, 0, packOctets (if m.typ = 9 then 6 else 5) (ptpOctets 0 m)⟩

/-- A message waits from chain k, its SOP on logical lane 2. -/
def teIn (k : Nat) (p : Pkt) (s : State) : State := { s with inbox := [(teKey k 2, p)] }
def syncMsg : Ptp := ⟨0, 0, 9, 1, 0, 0, 0, 0, 0⟩
def reqMsg : Ptp := ⟨1, 0, 10, 1, 0, 0, 0, 0, 0⟩
def respMsg (dev : Nat) : Ptp := ⟨9, 0, 9, 1, 0, 1, 65535, dev, 1⟩

/-- Chain 15 (chain 1 of SD7) in a state, its buckets with room; a trained lane; a received ordered set; four good markers. -/
def trainedLane : LaneTrain := { LaneTrain.reset with trained := true, ready := true }
def chainIn (st : Nat) (q : ChainSt) : State := (puts (inM mOBSERVE) [(GWL_CH_STATUS_STATE 7 1, st), (GWL_BUCKET_CFG_CRC_THRESH 7, 10), (GWL_BUCKET_CFG_RT_THRESH 7, 10),
    (GWL_TIMERS_TRAIN_TRIES 7, 4), (GWL_TIMERS_REPLAY_NUM 7, 3), (CH_VCBUF_VC0 7 1, 64), (CH_VCBUF_VC1 7 1, 64), (GWL_CH_CFG_SLEEP_TX 7 1, 1),
    (GWL_CH_CFG_W_VC0 7 1, 4), (GWL_CH_CFG_W_VC3 7 1, 4)]).setChain 15 q
def chainQ : ChainSt := { ChainSt.reset with fresh := false }
def lanesQ (x : LaneTrain) : ChainSt := { chainQ with lanes := [trainedLane, trainedLane, trainedLane, x] }
def tosOf (rate : Nat) : Tos := ⟨3, 64, 64, rate, 9, 0, 1, 0, 0, 0⟩
def aosL (n mc : Nat) : AosLane := ⟨(encAll false (aosChars mc n)).1, false, 0⟩
def nbPkt (vc seq : Nat) : Pkt := ⟨3, vc, 0, 9, 0, 0, 0, seq, [1]⟩
def lcbOf (ack pair : Nat) (init : Bool) : Lcb := ⟨ack, false, false, pair, init, 100, 200, false, false⟩
def pkfIn (dest : Nat) : State := { inM mOBSERVE with pkf := { PkfSt.reset with transit := [⟨7, 7, dest, true, none, nbPkt 1 0⟩] } }

/-- The groups of characters sent from the start of a stream. -/
def rxOf (cs : List Chr) : RxLine := ⟨[false, false, false, false], (({ chainQ with aosNext := 100, rd := [false, false, false, false] } : ChainSt).stream cs).1.map Prod.snd⟩

/-- Channel 1 of SD7 serves; two code symbols of an error pattern that the code cannot correct; a DIMM's answer. -/
def memIn : State := puts (inM mOBSERVE) [(DRC_CH_STATUS_STATE 7 1, 2), (DRC_CH_CFG_CAP_GIB 7 0, 32), (FLT_LIMITS2_DRAM_THRESH 7, 100),
  (DRC_QOS_REF_POST_MAX 7, 4), (FAB_STATUS_FALLBACK 7, 0), (DRC_CH_STATUS_ERASED0 7 1, 15), (DRC_CH_STATUS_ERASED1 7 1, 15), (DRC_CH_CFG_EN 7 1, 1)]
def badBurst : List (Nat × Nat) := [(0, 1), (1, 1), (2, 1)]
def dimmOf (spd fast full : Bool) : DimmEnv := ⟨7, 1, spd, 77, 5, false, fast, full, 3⟩
def musterMem : State := (memIn.put PWR_MODE_MODE mMUSTER).put (DRC_CH_STATUS_STATE 7 1) 0

/-- Engine 1 of SD7 with channel 15's ring of one descriptor in the scratch memory, whose word 0 is w and whose words 1 and 2 are
addresses; the channel's state and whether it runs. -/
def dmaIn (st run w src dst : Nat) : State := { puts memIn [(DMA_CH_CFG_EN 7 1 15, 1), (DMA_CH_CFG_RING_SPACE 7 1 15, 1), (DMA_CH_CFG_RING_LEN 7 1 15, 1),
    (DMA_CH_STATE_STATE 7 1 15, st), (DMA_STATUS_RUN1 7, run)] with
  scratch := (((([] : Store Word)|> fun m => Store.put (fun _ => 0) m (65536 * 7) (BitVec.ofNat 72 w)) |> fun m => Store.put (fun _ => 0) m (65536 * 7 + 1)
    (BitVec.ofNat 72 src)) |> fun m => Store.put (fun _ => 0) m (65536 * 7 + 2) (BitVec.ofNat 72 dst)) }
/-- Word 0 of a descriptor: owned, an operation, paced or not, a length. -/
def dWord (op pace len : Nat) : Nat := 1 + op * 2 + pace * 16 + len * 32

/-- The last ring of SD7 serves telemetry and snapshots; a snapshot complete; counter 63 of SD7 has wrapped for core 17. -/
def telIn : State := { puts ringUp [(TEL_CFG_TEL_PERIOD_S, 10), (PKC_RINGS_TEL_RING, 8191), (PKC_RINGS_CTR_RING, 8191), (PMON_SEL_IRQ_CORE 7 63, 17),
    (CORE_CFG_CTR_ACC 7 17, 1), (PMON_SEL_EVENT 7 63, 2), (PMON_SEL_EVENT 7 62, 1)] with
  snaps := [⟨⟨255, 0, 3, 0, 0, 0⟩, 128, 1, [(7, [0])]⟩], wraps := [(7, 63)] }

/-- Calendar entry 255 due at grain 10; a switch to programme 3 asked for, under way, or back to the stopped programme 0. -/
def calIn : State := { puts (inM mOBSERVE) [(CAL1_EN 255, 1), (CAL0_GRAIN 255, 10), (CAL1_PROG 255, 3)] with now := 10 * tUs }
def switchIn (going stopped : Bool) (p : Nat) (cons : List Cons) : State :=
  { inM mOBSERVE with nvm := { NvmSt.reset with switchTo := some p, switching := going, suspended := stopped }, acc := { AccSt.reset with cons := cons } }

/-- The governor at a step; the sequencer with a request for island 255. -/
def hotIn (n : Nat) : State := { puts (inM mOBSERVE) [(PWR_CFG_THROTTLE_C, 90), (PWR_CFG_HYST_C, 5)] with pwr := { PwrSt.reset with throttle := n } }
def seqIn (busy op thr : Nat) : State := { puts (inM mOBSERVE) [(SEQ_STATUS_BUSY, busy), (ISL_OP_USED 255, 2), (ISL_V_NOW_MV 255, 600)] with
  pwr := { PwrSt.reset with seqQ := [⟨255, 700, 1300, op, false⟩], throttle := thr } }

/-- Registrar A in control; an unlock under way; units that gave up their work; an item in calibration; a commissioned die. -/
def regIn : State := puts (inM mOBSERVE) [(FLT_LIMITS_GIVEUP_THRESH 0, 2), (UNIT_BKT_BKT_B 7 34, 3), (UNIT_BKT_STATE 7 34, 1), (UNIT_BKT_STATE 7 16, 1)]
def unlockedIn : State := { inM mOBSERVE with sec := { SecSt.reset with unlockEnd := 5 } }
def calibIn (busy : List Nat) (pend base : Nat) (step : Nat := 4) : State :=
  let s := puts (inM mOBSERVE) [(CSV_STATUS_BASELINE 7, base)]
  { s with regs := s.regs.filter (fun (e : Nat × Word) => e.1 < ITEM_CFG 7 74) ++
      [(ITEM_CFG 7 74, BitVec.ofNat 72 (0x80E100FF00 + step * 2 ^ 16)), (ITEM_STATE 7 74, BitVec.ofNat 72 (40 + pend * 2 ^ 20))] ++ s.regs.filter (fun (e : Nat × Word) => ITEM_CFG 7 74 < e.1) }.setCsv 7
    { CsvSt.reset with busy := busy }

theorem witness_StepRunsTheFrontCommand : ({ State.reset with pending := [.pwrdnNRise] } : State).pending = .pwrdnNRise :: [] := rfl
theorem witness_EmptyQueueIdles : State.reset.pending = [] := rfl

theorem witness_StepKeepsInvariant : State.reset.Inv ∧ step State.reset = .next State.reset := ⟨reset_inv, rfl⟩

theorem witness_StepUndoesNothing : step State.reset = .next State.reset := rfl

theorem witness_OutsideItsModesACommandIsRefused : State.reset.modeBit &&& 7 = 0 ∧ State.reset.modeBit &&& 4 = 0 ∧ State.reset.modeBit &&& 6 = 0 ∧
    State.reset.modeBit &&& 1 = 0 := by decide +kernel

theorem witness_NopWritesItsCompletion : hostUp.modeBit &&& 7 ≠ 0 ∧ (⟨1, 5, 1, 0, 9, 4095⟩ : CmdHdr).src < 2 ∧ (⟨1, 5, 1, 0, 9, 4095⟩ : CmdHdr).log < 4096 ∧
    hostUp.portState 1 = 1 ∧ hostUp.get (Reg.HP_RINGCFG_EN 1) = 1 ∧ (hostUp.port 1).waiting = [] ∧ hostUp.cplRoom 1 = true := by decide +kernel

theorem witness_PartialWritesDoNothing : (1 : Nat) < 2 ∧ hostUp.portState 1 = 1 ∧ (2 ^ 28 - 1 : Nat) < 2 ^ 28 ∧ (2 ^ 28 - 1 : Nat) % 16 ≠ 0 := by decide +kernel

theorem witness_HostWritesReachOnlyTheirFields : hostUp.portState 1 = 1 ∧
    hostUp.writeReach 1 (hostUp.barAddr 1 0xF000230) = .none ∧
    hostUp.writeReach 1 (hostUp.barAddr 1 0xF000010) = .clear ∧ shownSlot (hostUp.barAddr 1 0xF000010) = false ∧ addrBlock (hostUp.barAddr 1 0xF000010) ≠ 0x1D ∧
    hostUp.writeReach 1 (hostUp.barAddr 1 0xF000220) = .whole ∧ shownSlot (hostUp.barAddr 1 0xF000220) = false ∧ addrBlock (hostUp.barAddr 1 0xF000220) ≠ 0x1D := by
  decide +kernel

theorem witness_ReadsHaveNoSideEffect : hostUp.portState 1 = 1 ∧ hostUp.readDenied 1 (hostUp.barAddr 1 0) = false ∧
    strangerUp.portState 1 = 1 ∧ strangerUp.readDenied 1 (strangerUp.barAddr 1 0x2000010) = true ∧
    mMUSTER ≤ hostUp.mode ∧ (withCtrl 3 [BitVec.ofNat 72 (30 * 2 ^ 48)]).inboxHead 8 (ctrlPkt 3 [BitVec.ofNat 72 (30 * 2 ^ 48)]) = true ∧
    Word.bits (BitVec.ofNat 72 (30 * 2 ^ 48)) 48 5 ≠ 31 ∧ (ctrlPkt 5 [0]).payload.length < 1 + 1 ∧ 1 + 1 ≤ (ctrlPkt 5 [0, 7]).payload.length ∧
    (withCtrl 5 [0, 7]).inboxHead 8 (ctrlPkt 5 [0, 7]) = true := by decide +kernel

theorem witness_GrainsSettleConflicts : let x : PCmd := ⟨⟨0, 0, 0x10, 0, 7, 0⟩, 3, 0, [1], []⟩
    let y : PCmd := ⟨⟨1, 0, 0x11, 0, 7, 0⟩, 4, 1, [], []⟩
    x ∈ [x, y] ∧ x ∉ winners [x, y] := by decide +kernel

theorem witness_GrainsRunOnce : (0 : Nat) ≤ hostUp.rg.gDone ∧ mMUSTER ≤ hostUp.mode ∧ hostUp.rg.gDone < 1 := by decide +kernel

theorem witness_OnlyRightfulCommandsWait : after (exec (.griwanoCommand nopPkt) cmdWaits) (fun t => t.rg.pend.length == 1) = true := by decide +kernel

theorem witness_RecordsAreReadInOrder : hostUp.portState 1 = 1 ∧ mMUSTER ≤ hostUp.mode ∧ hostUp.get (HP_RINGCFG_EN 1) = 1 ∧
    ahead (hostUp.port 1).cmdTail 1 = true ∧ ahead (hostUp.port 1).cplHead 0 = true ∧ (hostUp.port 1).waiting = [] ∧
    hostUp.get (HP_PTR_CMD_READ 1) ≠ 1 % 2 ^ 32 ∧
    (hostUp.setPort 1 { hostUp.port 1 with cmdTail := 1 % 2 ^ 32, cplHead := 0 % 2 ^ 32 }).cplRoom 1 = true ∧
    cmdWaits.inboxHead 8 nopPkt = true ∧
    hostOctets [] 1 (hostUp.get (HP_CMD_BASE_ADDR 1) * 64) 64 = none ∧ hostOctets [⟨1, 0, nopOcts⟩] 1 (hostUp.get (HP_CMD_BASE_ADDR 1) * 64) 64 = some nopOcts ∧
    (CmdRec.mk nopOcts []).signed = false ∧ (CmdRec.mk nopOcts []).extLen = 0 ∧
    hostOctets [⟨1, 0, signedOcts⟩] 1 (hostUp.get (HP_CMD_BASE_ADDR 1) * 64) 64 = some signedOcts ∧ (CmdRec.mk signedOcts []).signed = true ∧
    (hostOctets [⟨1, 0, signedOcts⟩] 1 (recNum signedOcts 56 8) (64 + (CmdRec.mk signedOcts []).extLen)).isSome = true ∧ nopPkt.vc = 2 ∧ nopPkt.sub = 1 ∧ 64 ≤ (nopPkt.payload.flatMap Word.octets).length := by decide +kernel

theorem witness_AcknowledgementsAreCumulative : let s := State.reset.setRing 1023 { RingSt.reset with nAck1 := 2, nSent1 := 4 }
    (s.ring 1023).nAck 1 ≤ 2 ∧ 2 < (s.ring 1023).nSent 1 ∧ 1 < (s.ring 1023).nAck 1 ∧ 1 < (s.ring 1023).nSent 1 ∧ (s.ring 1023).nSent 1 ≤ 4 ∧
    (1 : Nat) ≠ s.nvm.epoch ∧ 0 = s.nvm.epoch := by decide +kernel

theorem witness_PortsAndRings : strangerUp.portState 1 = 1 ∧ strangerUp.level 1 < lvOPERATOR ∧
    lvOPERATOR ≤ ringHost.level 1 ∧ ringHost.portState 1 = 1 ∧ ((ringHost.liveTargets 8191).filter fun t => (ringHost.targetOf 8191 t).1 == 1 + 1) ≠ [] ∧
    ringHost.get (LAND_STATE_EN 1 8191) = 1 ∧ mMUSTER ≤ hostUp.mode ∧ hostUp.portState 1 = 1 ∧ hostUp.portState 0 = 0 ∧
    (ringHost.get (HP_STATUS_BUCKET 1) < ringHost.get (HP_CFG_ERR_THRESH 1)) ∧
    (hostUp.put (HP_CFG_ERR_THRESH 1) 0).get (HP_CFG_ERR_THRESH 1) < hostUp.get (HP_STATUS_BUCKET 1) + 1 ∧
    5 ∈ ((hostUp.setPort 1 { PortSt.reset with holdoff := [5], merged := [5] }).port 1).holdoff ∧
    5 ∈ ((hostUp.setPort 1 { PortSt.reset with holdoff := [5], merged := [5] }).port 1).merged ∧
    5 ∉ ((hostUp.setPort 1 { PortSt.reset with holdoff := [5] }).port 1).merged := by decide +kernel

theorem witness_CommandsThatSetUpTheSignalPath : hostUp.modeBit &&& 6 ≠ 0 ∧ hostUp.modeBit &&& 4 ≠ 0 ∧ 7 < hostUp.part.dies ∧ (127 : Nat) < 128 ∧ (1023 : Nat) < 1024 ∧
    (64 : Nat) ≤ 65536 ∧ hostUp.fadeBusy 7 127 = false ∧ (hostUp.dfu 7).queue.length < 128 ∧ (hostUp.put (IN_CFG_MODE 7 127) 1).get (IN_CFG_MODE 7 127) = 1 := by
  decide +kernel

theorem witness_CommandsThatStayInExecution : runningP.modeBit &&& 4 ≠ 0 ∧ runningP.modeBit &&& 6 ≠ 0 ∧ runningP.modeBit &&& 7 ≠ 0 ∧
    runningP.progDefined 15 = true ∧ runningP.nvm.switchTo = none ∧ 15 ≠ runningP.get PROG_STATE_RUNNING ∧ runningP.progDefined 0 = true ∧
    0 = runningP.get PROG_STATE_RUNNING ∧ runningP.nvm.progOn = true ∧ (runningP.rg.running.any fun r => r.kind == .progStop) = false ∧
    runningP.rg.running = [] ∧ runningP.nvm.switching = false ∧ runningP.nextInterval 1 = true ∧
    runningP.attWaiting < 16 ∧ 15 < 2 * runningP.part.dies ∧ (∀ d ∈ setBitsOf 128 8, runningP.present d = true ∧ runningP.get (DSET_CFG_EN d 15) = 1 ∧
      runningP.dumpRun d 15 = none) ∧ setBitsOf 128 8 ≠ [] ∧
    (∀ d ∈ setBitsOf 128 8, (runningP.get (DSET_STATE_FIRST_SI d 15) : Int) ≤ (runningP.siOf d (runningP.folioAt d (10 ^ 9 * tUs : Nat)).toNat : Int) - 1) ∧
    (∀ d ∈ setBitsOf 128 8, (runningP.siOf d (runningP.folioAt d (0 * tUs : Nat)).toNat : Int) - 1 < (runningP.get (DSET_STATE_FIRST_SI d 15) : Int)) := by
  decide +kernel
theorem witness_ProgrammesStartOnCommand :
    let s : State := { runningP with nvm := { runningP.nvm with progOn := false }, flt := { runningP.flt with lost := [0, 1, 2, 3, 4, 5, 6] } }
    let t := ({ s with nvm := { s.nvm with switchTo := some 15 } }).run ⟨1, 0, 0x10, 0, 0, 0⟩ (.progStart 15 false)
    s.nvm.suspended = false ∧ t.toBoundary.storeFails 15 [] = [] ∧
    (forAll t.toBoundary.dies { t.toBoundary with nvm := { t.toBoundary.nvm with switching := true } } State.saveBanks).drainedAll = true ∧
    ({ s with nvm := { s.nvm with suspended := true } } : State).nvm.suspended = true := by decide +kernel
theorem witness_SnapshotsAndVitrinesOnCommand : hostUp.modeBit &&& 4 ≠ 0 ∧ setBitsOf 128 8 ≠ [] ∧ (2 ^ 63 : Nat) % 2 ^ 64 ≠ 0 ∧
    (∀ d ∈ setBitsOf 128 8, d < hostUp.part.dies ∧ d ∉ hostUp.flt.absent) ∧ 1023 + 1 ≤ 128 * hostUp.part.dies ∧
    (vitFull.trigger 0 1 0 0 1023 1).2 = none ∧ vitFull.vitRace = false ∧ vitFull.modeBit &&& 4 ≠ 0 ∧ (hostUp.trigger 0 1 0 0 0 1).2 = some 0 ∧
    (hostUp.put (GRP_CFG_VIT_EN 7 15) 1).vitRace = true ∧ (∀ v, v < 16 → hostUp.vitOpen 7 v = false) ∧ hostUp.present 7 = true ∧ 7 ∉ hostUp.flt.absent ∧
    hostUp.snaps = [] := by decide +kernel
theorem witness_ReportsAndSnapshotsEnterTheirRings : let s : State := secIn (.attest [] (some ⟨1, 0, 2, 0, 0, 0⟩))
    let v : State := s.put (RING_REGION_WORDS 7 1023) 10000
    v.packerOn = true ∧ v.get PKC_RINGS_ATT_RING = 8191 ∧ (v.put (RING_CFG_PRODUCER 7 1023) (producerOf 8)).ringTakes 8191 8 = true ∧
    (∀ n, n ≤ 200 → v.place 8191 n = .ring) ∧ (v.ring 8191).full = false ∧ (v.reportHead []).length = 210 ∧
    (telIn.put (RING_CFG_PRODUCER 7 1023) (producerOf 9)).ringTakes (telIn.get PKC_RINGS_CTR_RING) 9 = true := by decide +kernel
/-- The report's words are among those for which the ring has room. -/
theorem witness_ReportsAndSnapshotsEnterTheirRings_length (v : State) (h : (v.reportHead []).length = 210) : 4 + wordsFor (v.report []).length ≤ 200 := by
  have h1 : (Config.deviceCert.take 1024).length ≤ 1024 := List.length_take_le ..
  have h2 : (v.report []).length = (v.reportHead []).length + 149 + (Config.deviceCert.take 1024).length + 64 := by
    simp [State.report, beOctets, toOctets]; omega
  simp only [wordsFor, ceilDiv, h2, h]; omega

theorem witness_CommandsOfTimeAndReferences : refReady.modeBit &&& 6 ≠ 0 ∧ refReady.get RSC_STATUS_SWITCHING = 0 ∧ 0 ∈ refReady.candidates ∧ 19 ∈ refReady.candidates ∧
    0 = refReady.get RSC_STATUS_SEL ∧ 19 ≠ refReady.get RSC_STATUS_SEL ∧ refReady.get RSC_STATUS_STATE = dpFREERUN ∧
    (refReady.put RSC_STATUS_STATE dpLOCKED).get RSC_STATUS_STATE ≠ dpFREERUN ∧ 19 ∈ (refReady.put RSC_STATUS_STATE dpLOCKED).candidates ∧
    bit 128 7 = true ∧ (refReady.put (SYSREF_CFG_MODE 7) 2).get (SYSREF_CFG_MODE 7) = 2 := by decide +kernel
theorem witness_TimeIsSetAndAsymmetryMeasured : (followIn svFREE).te.setTime = some (5, 2) ∧ (followIn svFREE).runs = true ∧
    (0 : Nat) < 16 ∧ (leadIn.te.cal.find? fun q => q.chain == 15 && q.left == 0 && q.got == q.n) = some ⟨15, 16, 0, 16, 800⟩ ∧
    (∀ x ∈ leadIn.rg.running, x.kind = .asymCal 15 → x.hdr.src ≤ 1 ∧ x.hdr.log < 4096) := by decide +kernel

theorem witness_LandingRingsOnCommand : ringHost.modeBit &&& 6 ≠ 0 ∧ (8191 : Nat) < 8192 ∧ ringHost.landOk 1 8191 30 63 4096 = true ∧
    hostOctets [⟨1, 64, [1, 2, 3, 4, 5, 6, 7, 8]⟩] 1 64 8 = some [1, 2, 3, 4, 5, 6, 7, 8] ∧ ringHost.get (LAND_STATE_EN 1 8191) = 1 := by decide +kernel

theorem witness_OwnerCommands : hostUp.modeBit &&& 6 ≠ 0 ∧ hostUp.unitExists ⟨14, 10, 8⟩ = true ∧ hostUp.isDead ⟨14, 10, 8⟩ = false ∧
    ({ hostUp with flt := { hostUp.flt with dead := [⟨7, 1, 15⟩] } } : State).isDead ⟨7, 1, 15⟩ = true ∧ hostUp.unitExists ⟨7, 1, 15⟩ = true ∧
    hostUp.sec.slots.length < 8 ∧ [1] ≠ noHash ∧ hostUp.ownerHash ≠ some [1] ∧ hostUp.sec.imageKey = [] ∧
    ({ hostUp with sec := { hostUp.sec with slots := [[1]] } } : State).ownerHash = some [1] ∧
    (let r := List.replicate 65 0 ++ [1, 0, 0, 0] ++ List.replicate 59 0
     r.length = 128 ∧ r.getD 64 0 < 8 ∧ bit (r.getD 64 0) 0 = false ∧ hostUp.accepts = true ∧ (inM mALIGN).accepts = false ∧ 1 ≤ recNum r 65 4 ∧ recNum r 65 4 ≤ 86400 ∧ (r.drop 69).all (· == 0) = true ∧
     (hostUp.unlockKey.any fun k => sigOk k (hostUp.unlockMsg r) (r.take 64)) = false) ∧
    ({ inM mMUSTER with nvm := { NvmSt.reset with musterDone := true, stop := .epoch } } : State).modeBit &&& 1 ≠ 0 ∧
    ({ inM mMUSTER with nvm := { NvmSt.reset with musterDone := true, stop := .store } } : State).modeBit &&& 1 ≠ 0 ∧ 0 ≤ (inM mMUSTER).get IMG_HDR_ARB ∧
    (({ inM mMUSTER with nvm := { NvmSt.reset with musterDone := true } } : State).appendCounter.draw 48).2.storeLost = false := by decide +kernel
theorem witness_OwnersChange : let s : State := { hostUp with sec := { hostUp.sec with imageKey := [7] } }
    sha256 [7] ≠ noHash ∧ s.ownerHash ≠ some (sha256 [7]) ∧ s.sec.imageKey ≠ [] ∧ sha256 s.sec.imageKey ≠ [1] ∧
    ({ hostUp with flt := { hostUp.flt with dead := [⟨7, 6, 0⟩] } } : State).isDead ⟨7, 6, 0⟩ = true ∧ hostUp.unitExists ⟨7, 6, 0⟩ = true ∧
    (hostUp.fc 7).loans = [] ∧ (hostUp.gal 7).loan = none ∧ hostUp.unitExists ⟨7, 2, 127⟩ = true ∧ hostUp.unitExists ⟨7, 7, 39⟩ = true := by decide +kernel

theorem witness_ImageUpdateWritesTheImageArea : hostUp.modeBit &&& 6 ≠ 0 ∧ hostUp.nvm.updating = none ∧ hostUp.get NVM_STATUS_SOURCE ≠ 1 ∧
    (hostOctets [⟨1, 0, List.replicate 288 7⟩] 1 0 288).isSome = true ∧
    ({ hostUp with nvm := { hostUp.nvm with updating := some 1 } } : State).nvm.updating = some 1 ∧ hostUp.nvm.updBad = false := by decide +kernel

theorem witness_DormantIsEntered : hostUp.modeBit &&& 7 ≠ 0 ∧ awake.pwr.powered = true ∧ 2 ≤ awake.get (AOI_CMP_ACTION 7) ∧ awake.mode ≠ mDORMANT ∧
    (awake.get PWR_CFG_TRIP_C : Int) < awake.get PWR_CFG_TRIP_C + 1 := by decide +kernel

theorem witness_PowerLossLosesAllButNonVolatile : awake.pwr.powered = true := by decide +kernel

theorem witness_StartsAndResets : State.reset.pwr.powered = false ∧ State.reset.pwr.porstLow = false ∧ awake.pwr.powered = true ∧ mMUSTER ≤ awake.mode ∧
    ({ awake with pwr := { awake.pwr with porstLow := true } } : State).pwr.porstLow = true ∧ mMUSTER ≤ awake.get PWR_MODE_MODE ∧ awake.modeBit &&& 6 ≠ 0 ∧ awake.runs = true ∧
    (inM mMUSTER).mode = mMUSTER ∧ ({ inM mMUSTER with nvm := { NvmSt.reset with musterDone := true } } : State).nvm.stop = .none ∧
    (inM mALIGN).mode = mALIGN ∧ (inM mALIGN).sec.pendOwner = none ∧ ({ inM mALIGN with nvm := { NvmSt.reset with firstObs := false } } : State).nvm.firstObs = false ∧
    (inM mALIGN).flt.conds = [] := by decide +kernel

theorem witness_WakesBringTheRailsUp : asleep.pwr.powered = true ∧ asleep.mode = mDORMANT ∧ asleep.pwr.wake = none ∧ asleep.pwr.tempBlock = false ∧ asleep.pwr.porstLow = false ∧
    asleep.pwr.pwrdnLow = false ∧ asleep.get (AOI_CMP_ACTION 4) = 1 ∧ asleep.get (AOI_CMP_ACTION (5 + 1)) = 1 ∧
    (asleep.put (AOI_CMP_ACTION 3) 1).get (AOI_CMP_ACTION 3) = 1 ∧ asleep.get (AOI_CMP_ACTION 7) = 3 ∧
    (waking ⟨1, 7, false, false, false⟩).pwr.wake = some ⟨1, 7, false, false, false⟩ ∧ (waking ⟨4, 8, false, true, false⟩).pwr.wake = some ⟨4, 8, false, true, false⟩ ∧ (waking ⟨1, 8, false, true, false⟩).pwr.porstLow = false ∧
    (waking ⟨3, 0, true, false, false⟩).pwr.wake = some ⟨3, 0, true, false, false⟩ ∧
    ({ asleep with pwr := { asleep.pwr with held := [8] } } : State).pwr.held = [8] := by decide +kernel
theorem mem_allRings_zero : 0 ∈ (hostUp.put (RING_CFG_EN 0 0) 1).allRings :=
  List.mem_flatMap.mpr ⟨0, by decide +kernel, List.mem_map.mpr ⟨0, List.mem_filter.mpr ⟨by simp, by decide +kernel⟩, rfl⟩⟩

theorem witness_RetainIsEntered : (hostUp.put (RING_CFG_EN 0 0) 1).modeBit &&& 4 ≠ 0 ∧ 0 ∈ (hostUp.put (RING_CFG_EN 0 0) 1).allRings ∧
    0 < (((hostUp.put (RING_CFG_EN 0 0) 1).setRing 0 { RingSt.reset with sinceTrig := 2 }).ring 0).sinceTrig ∧
    ({ awake with pwr := { awake.pwr with retaining := true } } : State).accepts = true ∧ awake.sec.queue = [] ∧ awake.pwr.held = [] :=
  ⟨by decide +kernel, mem_allRings_zero, by decide +kernel, by decide +kernel, by decide +kernel, by decide +kernel⟩

theorem witness_LanesFollowTheirStates : (laneIn lnACQ lkSYNC).present 7 = true ∧ (15 : Nat) < 16 ∧ (laneIn lnACQ lkSYNC).laneState 7 15 = lnACQ ∧
    (laneIn lnACQ lkSYNC).get (LANE_CFG_CTLE_MODE 7 15) = 0 ∧ (laneIn lnHUNT lkSYNC).laneState 7 15 = lnHUNT ∧ (laneIn lnCGS lkDATA).laneState 7 15 = lnCGS ∧
    (laneIn lnCGS lkDATA).linkState 7 ((laneIn lnCGS lkDATA).linkOf 7 15) = lkDATA ∧
    (LaneSt.fourInSixteen { LaneSt.reset with errs := [20, 18, 10, 5] }) = true ∧
    (laneIn lnCGS lkDATA).get (LANE_ALIGNCNT_REAL_BKT 7 15) < (laneIn lnCGS lkDATA).get (ING_BUCKET_CFG_REAL_THRESH 7) ∧
    (laneIn lnCGS lkDATA).laneState 7 15 ≠ lnOFF ∧ (laneIn lnCGS lkDATA).laneState 7 15 ≠ lnDEACC ∧
    (laneIn lnCGS lkDATA).get (LANE_ALIGNCNT_CHAR_BKT 7 15) < (laneIn lnCGS lkDATA).get (ING_BUCKET_CFG_CHAR_THRESH 7) ∧
    dec10 ((laneIn lnCGS lkDATA).groupOf 7 15 0) = none ∧ (laneIn lnCGS lkDATA).charFault 7 15 (enc10 false (dChr 0)) (some 5) true = some 1 ∧
    (laneIn lnCGS lkDATA).charFault 7 15 (enc10 false (kChr 0x1C)) (some 5) false = some 2 ∧
    (laneIn lnCGS lkDATA).charFault 7 15 (enc10 false (dChr 0)) (some 5) false = none ∧
    3 + 1 < (laneIn lnCGS lkDATA).lkF 7 7 * (laneIn lnCGS lkDATA).lkK 7 7 ∧ ((laneIn lnCGS lkDATA).put (LINK_CFG_F_M1 7 7) 7).lkF 7 7 = 8 ∧
    ((laneIn lnCGS lkDATA).laneSt 7 15).runA ≠ some 3 ∧ (((laneIn lnCGS lkDATA).setLaneSt 7 15 { LaneSt.reset with runA := some 3 }).laneSt 7 15).runA = some 3 ∧
    ((laneIn lnCGS lkDATA).setLaneSt 7 15 { LaneSt.reset with runA := some 3 }).laneState 7 15 = lnCGS ∧
    ((laneIn lnCGS lkDATA).setLaneSt 7 15 { LaneSt.reset with runA := some 3 }).linkState 7
      (((laneIn lnCGS lkDATA).setLaneSt 7 15 { LaneSt.reset with runA := some 3 }).linkOf 7 15) = lkDATA := by
  decide +kernel

theorem witness_LinksInitialise : (laneIn lnCGS lkSYNC).present 7 = true ∧ (laneIn lnCGS lkSYNC).linkState 7 7 = lkSYNC ∧ (laneIn lnCGS lkSYNC).linkLanes 7 7 ≠ [] ∧
    (∀ n ∈ (laneIn lnCGS lkSYNC).linkLanes 7 7, (laneIn lnCGS lkSYNC).laneState 7 n = lnCGS) ∧ (laneIn lnCGS lkSYNC).get (LINK_CFG_SUBCLASS 7 7) = 0 ∧
    (laneIn lnCGS lkILAS).linkState 7 7 = lkILAS ∧ ([9] : List Nat).length = [(⟨15, List.replicate 14 0, 0⟩ : IlasLane)].length ∧ [(⟨15, List.replicate 14 0, 0⟩ : IlasLane)].map IlasLane.lane = (laneIn lnCGS lkILAS).linkLanes 7 7 ∧
    ((laneIn lnCGS lkILAS).put (LINK_CHECK_MASK 7 7) 0).ilasCheck 7 7 [⟨15, List.replicate 14 0, 0⟩] = none ∧
    ((laneIn lnCGS lkILAS).put (LINK_CHECK_MASK 7 7) 1).ilasCheck 7 7 [⟨15, List.replicate 14 1, 0⟩] = some 0 ∧
    (∀ n ∈ (laneIn lnCGS lkILAS).linkLanes 7 7, (laneIn lnCGS lkILAS).get (LANE_ALIGNCNT_REAL_BKT 7 n) < (laneIn lnCGS lkILAS).get (ING_BUCKET_CFG_REAL_THRESH 7)) ∧
    (laneIn lnCGS lkFAIL).linkState 7 7 = lkFAIL ∧ (laneIn lnHUNT lkSYNC).accepts = true ∧ (laneIn lnHUNT lkSYNC).get (LINK_CFG_EN 7 7) = 1 ∧
    ((laneIn lnHUNT lkSYNC).put (ING_TIMERS_LINK_WAIT_S 7) 1).get (ING_TIMERS_LINK_WAIT_S 7) ≠ 0 ∧ 127 ∈ (laneIn lnHUNT lkSYNC).inputsOfLink 7 7 ∧
    (laneIn lnHUNT lkSYNC).get (INPUT_MAP_DEACC 7 127) = 0 := by decide +kernel

theorem witness_FramesEnterTheDelayLine : (laneData false).present 7 = true ∧ (laneData false).get (LINK_CFG_EN 7 7) = 1 ∧ (laneData false).ingestMode = true ∧
    (laneData false).quadsFit 7 7 [[], [], [], [[]]] = true ∧ (laneData false).linkStreams 7 7 = [(0, 0)] ∧ (0 : Nat) < 256 ∧ 31 < (laneData false).lkK 7 7 * (laneData false).lkS 7 7 ∧
    (laneData false).linkState 7 7 = lkDATA ∧ (laneData false).get (LINK_CFG_SCR 7 7) = 0 ∧ ((laneData false).linkSt 7 7).flagged = [] ∧
    (laneData false).linkLanes 7 7 = [15] ∧ (laneData false).get (LANE_CFG_LOGICAL 7 15) = 0 ∧ ((laneData false).laneSt 7 15).buf = [] ∧
    (laneData false).lkNP 7 7 = 16 ∧ 2 * (0 * (laneData false).lkS 7 7 + 31 % (laneData false).lkS 7 7) + 1 < (laneData false).lkF 7 7 ∧
    (List.range 64).length = (laneData false).lkF 7 7 * (laneData false).lkK 7 7 ∧ (∀ o ∈ List.range 64, o < 256) ∧
    ((encAll false ((List.range 64).map dChr)).1.map fun g => dec10 ((laneData false).groupOf 7 15 g)) = (List.range 64).map (fun o => some (dChr o)) ∧
    ((laneData false).linkSt 7 7).first = false ∧ 0 ≤ ((laneData false).linkSt 7 7).base + (((laneData false).linkSt 7 7).mf * 32 + 31 : Nat) ∧
    ((laneData true).linkSt 7 7).first = true ∧ (laneData true).get (LINK_CFG_SUBCLASS 7 7) = 0 ∧
    (((laneIn lnCGS lkILAS).setLinkSt 7 7 { LinkSt.reset with live := true }).linkSt 7 7).live = true ∧ (laneIn lnCGS lkILAS).linkState 7 7 ≠ lkDATA := by
  decide +kernel

theorem witness_OutputsOfTheFilters : (dfuIn 2).inputRuns 7 127 = true ∧ (dfuIn 2).get (POLY_CTRL_PENDING 7 127) = 0 ∧ (dfuIn 2).outputDue 7 127 4 = true ∧
    ((dfuIn 2).put (POLY_CTRL_PENDING 7 127) 1).get (POLY_CTRL_PENDING 7 127) = 1 ∧ grainCome (grainOf ((dfuIn 2).gridTime 7 1024)) 0 = true ∧
    grainCome (grainOf ((dfuIn 2).gridTime 7 1024)) (2 ^ 40) = false ∧ (dfuIn 2).fadeBusy 7 127 = false ∧ fadeIn.get (IN_STATUS_QUEUED 7 127) = 0 ∧
    ((fadeIn.put (IN_STATUS_QUEUED 7 127) 1).fadeBusy 7 127) = true ∧ ((dfuIn 2).dfuIn 7 0).next.getD 0 % 4096 = 0 ∧
    (dfuIn 2).get (IN_CFG_MODE 7 127) = 2 ∧ (dfuIn 1).get (IN_CFG_MODE 7 127) = 1 ∧ (dfuIn 2).get (IN_STATUS_HIST_FLAG 7 127) = 0 ∧ (dfuIn 2).get (INPUT_MAP_CPLX 7 127) = 0 ∧
    ((dfuIn 2).consRec (4 / 4096) 7 = some ⟨7, some 0, [127], [], [], [], 0, false, [], []⟩) ∧ 4 % fmtQ ((dfuIn 2).get (IN_CFG_FMT 7 127) + 1) = 0 ∧
    ((dfuIn 2).delayAt 7 127 (4 * (dfuIn 2).inD 7 127)).2 = false ∧
    ((dfuIn 2).sampleAt 7 ((dfuIn 2).streamBase 7 127) (((4 * (dfuIn 2).inD 7 127 : Nat) : Int) - (((dfuIn 2).delayAt 7 127 (4 * (dfuIn 2).inD 7 127)).1 / 2 ^ 32 : Nat))).2 = false ∧
    ((dfuIn 1).dfuIn 7 127).fadeLen = 0 ∧
    (let z := (dfuIn 1).fir 7 127 ((dfuIn 1).get (IN_CFG_LIVE 7 127)) ((dfuIn 1).liveTaps 7 127)
        (((List.range ((dfuIn 1).inD 7 127)).map (fun x => (dfuIn 1).zAt 7 127 (4 * (dfuIn 1).inD 7 127 - x)) ++ ((dfuIn 1).dfuIn 7 127).hist).take 320)
     z.flag = false ∧ z.clamp = false) ∧ (dfuIn 1).present 7 = true ∧ (dfuIn 1).fadeBusy 7 127 = false := by decide +kernel
theorem witness_FadesRunInOrder : (fadeIn.dfu 7).queue = 127 :: [0] ∧ fadeIn.get (DFU_STATUS_UNITS_USED 7) + fadeIn.fadeUnits 7 127 ≤ 16 ∧
    grainCome (grainOf (fadeIn.outputTime 7 127)) (fadeIn.get (FADE_REQ_GRAIN 7 127)) = true ∧ ((fadeIn.setDfuIn 7 127 { DfuIn.reset with fadeLen := 64, pos := 64 }).dfuIn 7 127).fadeLen ≠ 0 ∧
    ((fadeIn.setDfuIn 7 127 { DfuIn.reset with fadeLen := 64, pos := 64 }).dfuIn 7 127).pos =
      ((fadeIn.setDfuIn 7 127 { DfuIn.reset with fadeLen := 64, pos := 64 }).dfuIn 7 127).fadeLen := by decide +kernel

theorem witness_ConsignmentsAreDecided : (inM mOBSERVE).runs = true ∧ (inM mOBSERVE).nextInterval 0 = true ∧ consOf 0 0 ∈ (consIn 0 0).acc.cons ∧
    (consIn 0 0).acc.cur ≠ some (consOf 0 0).k ∧ (consOf 0 0).state = 0 ∧ (∀ r ∈ (consOf 0 0).recs, ∀ i ∈ r.inputs, i ∈ r.done) ∧
    (consIn 0 0).consRec 5 7 = some ⟨7, some 0, [127], [127], [], [], 0, false, [], []⟩ ∧ (consIn 0 0).folioPending 7 127 0 = false ∧
    ((consIn 1 0).unread 5).map (fun r => (consIn 1 0).accDeadline 5 r.die) ≠ [] ∧ (consIn 2 0).nvm.nextCan < 2 ^ 48 ∧ (consIn 2 0).acc.cons = [consOf 2 0] ∧ (consIn 2 0).rg.failover = false ∧
    (consOf 2 0).allReasons = 0 ∧ (consOf 1 64).allReasons ≠ 0 ∧ vitReady.present 7 = true ∧ vitReady.vitTurn 7 15 5 = true ∧ vitReady.vitSlots 7 15 ≠ [] ∧
    vitReady.vitNext 7 15 = some ⟨0, 5, some 0, 1, 0, 9, 0, [127]⟩ ∧ vitReady.get (VIT_LAST_FOLIO 7 15) ≤ 5 := by decide +kernel

theorem witness_MultiplySlotResults : (mReady 0 = true ∧ ∀ op, op ∈ [1, 2, 3, 4, 5, 6] → mReady (mWord 1 op 0 52 60 60) = true) ∧
    (∀ sub, sub ∈ [0, 1, 2] → mReady (mWord 0 7 0 (8 * sub) 62 46) = true) ∧ mReady (mWord 0 7 15 31 0 0) = true ∧
    (mFields (mWord 1 6 0 52 60 60)).op = 6 ∧ (mFields (mWord 1 6 0 52 60 60)).t = true ∧ ((coreAt 0 0 0 0).core 7 15).pget 0 = 3 ∧
    (mFields (mWord 0 7 15 31 0 0)).d / 8 = 3 ∧ ((coreAt 0 0 0 0).core 7 15).cached = none := by decide +kernel

theorem witness_ArithmeticSlotResults : aReady 0 = true ∧ (∀ op, op ∈ [1, 2] → aReady (aWord op 0 62 62 2) = true) ∧ aReady (aWord 3 0 51 60 2) = true ∧
    aReady (aWord 3 0 51 60 3) = true ∧ aReady (aWord 4 0 56 56 15) = true ∧ aReady (aWord 5 0 63 63 4) = true ∧ aReady (aWord 6 15 63 63 15) = true ∧
    aReady (aWord 7 12 63 60 15) = true ∧ aReady (aWord 8 14 63 62 15) = true ∧ aReady (aWord 9 0 15 15 7) = true ∧ aReady (aWord 10 0 0 0 0) = true ∧
    aReady (aWord 10 0 0 0 1) = true ∧ (aFields (aWord 10 0 0 0 1)).x = 1 ∧ ((coreAt 1 0 0 0).core 7 15).pget 0 = 3 ∧
    (aFields (aWord 3 0 51 60 3)).x % 2 = 1 := by decide +kernel

theorem witness_ControlSlotMovesData : (∀ op, op ∈ [1, 3] → cReady (cWord op 0 (2 ^ 13 + 3 * 2 ^ 11 + 56 * 2 ^ 5 + 30)) = true) ∧
    cReady (cWord 2 0 (2 ^ 13 + 59 * 2 ^ 5)) = true ∧ (∀ op, op ∈ [4, 5, 6, 7, 8] → cReady (cWord op 0 (2 ^ 14 - 1)) = true) ∧
    cReady (cWord 9 0 (47 * 2 ^ 8 + 63 * 4)) = true ∧ (∀ k, k ∈ [44, 45, 46] → cReady (cWord 10 0 (k * 2 ^ 8 + 63 * 4)) = true) ∧
    access (((coreAt 2 0 0 0).core 7 15).areg 15) (((coreAt 2 0 0 0).core 7 15).mreg 15) 8 = some 0 ∧
    ((coreAt 2 0 0 0).put (CORE_CFG_IN_FMT 7 15) 1).get (CORE_CFG_IN_FMT 7 15) = 1 ∧ ((coreAt 2 0 0 0).put (CORE_CFG_IN_FMT 7 15) 0).get (CORE_CFG_IN_FMT 7 15) = 0 ∧
    ((coreAt 2 0 0 0).put (CORE_CFG_CTR_ACC 7 15) 1).get (CORE_CFG_CTR_ACC 7 15) = 1 := by decide +kernel

theorem witness_ControlSlotSteersTheProgram : (∀ op, op ∈ [11, 12] → cReady (cWord op 0 8191) = true) ∧
    (∀ e, e ∈ [1024, 2063, 3087, 4096, 5135, 6271, 7295, 8192, 9216, 10240] → cReady (cWord 0 0 e) = true) ∧ cReady 0 = true ∧
    ({ (coreAt 2 0 0 10240).core 7 15 with handler := some ⟨0, 0, 0, 0, [], []⟩ } : CoreSt).handler ≠ none ∧
    ({ (coreAt 2 0 0 3087).core 7 15 with ins := [⟨0, 0, 1⟩] } : CoreSt).ins[0]? = some ⟨0, 0, 1⟩ ∧
    bitsOf (bitsOf (cWord 0 0 5135) 0 14) 4 3 < (coreAt 2 0 0 5135).get (CORE_CFG_INPUTS 7 15) ∧
    (∀ op, op ∈ [13, 14] → (let q := (coreAt 1 0 2 (cWord op 0 4)).core 7 15
      q.iterDue = false ∧ q.phase = 1 ∧ cIllegal q.bundle = false ∧ q.inRep = false ∧ q.cOp = op ∧ q.loops = [] ∧ bit q.bundle 51 = false ∧
        bitsOf q.bundle 27 24 + bitsOf q.bundle 62 3 < 2 ^ 24)) ∧
    (let q : CoreSt := { (coreAt 0 0 0 0).core 7 15 with iterDue := true, loops := [⟨3, 1, 2, true, 5, 2, false⟩], lc := [⟨3, 2⟩] }
     ((coreAt 0 0 0 0).setCore 7 15 q).coreRuns 7 15 = true ∧ q.lreg 3 = 2) := by decide +kernel

theorem witness_CoresServeTheirSources : (coreAt 0 0 0 0).present 7 = true ∧ (15 : Nat) < 18 ∧ (coreAt 0 0 0 0).get (CORE_CFG_EN 7 15) = 1 ∧ (coreAt 0 0 0 0).runs = true ∧
    ((coreAt 0 0 0 0).core 7 15).st = 1 ∧ ((coreAt 0 0 0 0).core 7 15).handler = none ∧ ((coreAt 0 0 0 0).core 7 15).takePoint = true ∧
    ({ (coreAt 0 0 0 0).core 7 15 with pend := 64, enable := 127 } : CoreSt).source = some 6 ∧ coreFed.nextRecord 7 15 = some ⟨0, 5, some 0, 1, 0, 9, 0, [127]⟩ ∧
    (coreFed.core 7 15).ins.length < coreFed.get (CORE_CFG_IN_BUFS 7 15) ∧ (coreFed.dealt 7 (coreFed.logicalOf 7 15))[(coreFed.core 7 15).feedIn]? = some 127 ∧
    ({ (coreAt 0 0 0 0).core 7 15 with outs := [⟨0, 5, 0, true⟩] } : CoreSt).outs = [⟨0, 5, 0, true⟩] ∧ ((coreAt 0 0 0 0).fc 7).hosts = [] ∧ ((coreAt 0 0 0 0).fc 7).loans = [] ∧
    ((coreAt 0 0 0 0).core 7 15).dbUnread = false ∧ ({ (coreAt 0 0 0 0).core 7 15 with timerOn := true } : CoreSt).timerOn = true ∧
    bit ({ (coreAt 0 0 0 0).core 7 15 with pend := 65, enable := 127 } : CoreSt).pend 0 = true ∧
    ((coreAt 0 0 0 0).put (UNIT_BKT_STATE 7 32) 1).get (UNIT_BKT_STATE 7 (17 + 15)) = 1 ∧ ((coreAt 0 0 0 0).core 7 15).st ≠ 0 := by decide +kernel

theorem witness_StreamsAreSentAndReplayed : cteRun.present 7 = true ∧ ((cteRun.acu 7).dir.find? fun r => decide ((cteRun.cte 7).sentNext ≤ r.folio)) = some ⟨0, 5, none, 1, 0, 9, 0, []⟩ ∧
    (cteRun.cte 7).synced = true ∧ cteRun.framesDone 7 5 = true ∧ cteRun.holding 7 5 = [] ∧ cteHeld.holding 7 5 ≠ [] ∧
    ((cteHeld.acu 7).dir.find? fun r => decide ((cteHeld.cte 7).sentNext ≤ r.folio)) = some ⟨0, 5, none, 1, 0, 9, 0, []⟩ ∧ cteHeld.framesDone 7 5 = true ∧
    (cteHeld.cte 7).dests = [cteDest] ∧ cteDest.lost = false ∧ cteHeld.nvm.progOn = true ∧
    (cteHeld.advance (cteDest.lastMark + cteHeld.get (CTE_TIMERS_IDLE_MARK_US 7) * tUs)).idleFolio 7 = some 4 ∧
    ({ cteRun with inbox := [(7, rewindPkt)] } : State).inboxHead 7 rewindPkt = true ∧ rewindPkt.vc = 2 ∧ rewindPkt.sub = 0xD ∧
    (∀ r ∈ (cteRun.cte 7).rewind, (rewindPkt.payload.getD 0 0).bits 0 48 < r) ∧ (cteRun.acu 7).replay ≤ (rewindPkt.payload.getD 0 0).bits 0 48 ∧
    ((cteRun.setCte 7 { CteSt.reset with synced := false }).cte 7).synced = false ∧ cteRun.runs = true ∧
    (drained 7 cteRun).stintFree 7 ((drained 7 cteRun).cte 7).relNext = true := by decide +kernel

theorem witness_StreamsAreReceived : (cteIn dataPkt).inboxHead 7 dataPkt = true ∧ ((cteIn dataPkt).takeInbox 7 dataPkt).srcOf 7 dataPkt = some 0 ∧ dataPkt.sub < 8 ∧
    (cteIn dataPkt).get (CTE_SRC_QUIET 7 0) = 0 ∧ (cteIn dataPkt).get (CTE_SRC_LOST 7 0) = 0 ∧
    (∀ m, m ∈ [markPkt 2 0 0, markPkt 0 5 0, markPkt 0 6 1, markPkt 0 6 0] → (cteIn m).inboxHead 7 m = true ∧ ((cteIn m).takeInbox 7 m).srcOf 7 m = some 0 ∧ 8 ≤ m.sub) ∧
    bit (((markPkt 2 0 0).payload.getD 0 0).bits 48 5) 1 = true ∧ ((markPkt 0 5 0).payload.getD 0 0).bits 0 48 < ((cteIn dataPkt).stream 7 0).next ∧
    ((markPkt 0 6 1).payload.getD 1 0).bits 32 16 ≠ ((cteIn dataPkt).stream 7 0).pkts ∧ ((markPkt 0 6 0).payload.getD 1 0).bits 32 16 = ((cteIn dataPkt).stream 7 0).pkts ∧
    ((markPkt 0 6 0).payload.getD 2 0).bits 0 48 < max ((cteIn dataPkt).stream 7 0).next 1 ∧ ((cteIn dataPkt).stream 7 0).pend = [] ∧
    ((markPkt 0 6 0).payload.getD 1 0).bits 0 32 = 0 ∧ cteDest ∈ (cteHeld.cte 7).dests ∧ reportPkt.vc = 2 ∧ reportPkt.sub = 0xC ∧ cteDest.dev = reportPkt.src ∧
    cteDest.die = (reportPkt.payload.getD 0 0).bits 51 3 ∧ ((cteIn dataPkt).stream 7 0).ended = false ∧ (cteIn dataPkt).get (CTE_SRC_VALID 7 0) = 1 := by decide +kernel

theorem witness_GalleryRunsOrders : galIn.present 7 = true ∧ galIn.runs = true ∧ galIn.ltLost 7 15 = false ∧ (galIn.gal 7).gapWait = [] ∧
    (galIn.workList 7 (galIn.gal 7).moves 15 (Store.get (fun _ => 0) (galIn.gal 7).nextSi 15))[Store.get (fun _ => 0) (galIn.gal 7).nextIdx 15]? = some (galEntry, 15) ∧
    galIn.server 7 15 0 = some 15 ∧ (galIn.tile 7 15).queue.length < 4 ∧ (tileIn bkFREE).tileServes 7 15 = true ∧ (tileIn bkFREE).tile 7 15 = tileQ bkFREE ∧
    (tileQ bkFREE).queue = [galOrder] ∧ woBank galOrder.entry = 1 ∧ ((tileQ bkFREE).bank 1).st = bkFREE ∧ (tileIn bkFREE).nvm.switching = false ∧ ((tileQ bkFREE).bank 0).st ≠ bkACCUM ∧
    ((tileQ bkDRAIN).bank 1).st ≠ bkFREE ∧ (tileIn bkACCUM).tileServes 7 15 = true ∧ (tileIn bkACCUM).tile 7 15 = tileQ bkACCUM ∧
    (tileQ bkACCUM).accum = some 1 ∧ ((tileQ bkACCUM).bank 1).order = some galOrder ∧ (tileIn bkACCUM).segReady 7 ((tileQ bkACCUM).bank 1).folio = true ∧
    (tileIn bkSEAL).tile 7 15 = tileQ bkSEAL ∧ ((tileQ bkSEAL).bank 1).st = bkSEAL ∧ firstBad ((tileQ bkSEAL).bank 1).cells (woNc galOrder.entry) = none ∧
    firstBad [⟨0, ⟨1, 0, 1⟩⟩] (woNc galOrder.entry) = some (0, 0, 0) ∧ (tileQ bkSEAL).lastMis = none ∧ ((tileQ bkDRAIN).bank 1).st = bkDRAIN ∧
    woNc galOrder.entry ≤ ((tileQ bkDRAIN).bank 1).acked := by decide +kernel

theorem witness_GallerySurvivesFaults : (tileIn bkACCUM).present 7 = true ∧ ((tileIn bkACCUM).put (TILE_STATUS_STATE 7 15) tsBIST).get (TILE_STATUS_STATE 7 15) = tsBIST ∧
    ((tileIn bkACCUM).gal 7).loan = none ∧ (tileIn bkACCUM).get (UNIT_BKT_BKT_B 7 15) < (tileIn bkACCUM).get (FLT_LIMITS_GIVEUP_THRESH 7) ∧
    (tileIn bkACCUM).tileServes 7 15 = true ∧ ((tileIn bkACCUM).tile 7 15).accum = some 1 ∧ (tileIn bkACCUM).segReady 7 (((tileIn bkACCUM).tile 7 15).bank 1).folio = true ∧
    (((tileIn bkACCUM).tile 7 15).bank 0).st ≠ bkSEAL ∧ (tileIn bkACCUM).get (UNIT_BKT_STATE 7 15) = 0 ∧
    ((tileIn bkACCUM).put (UNIT_BKT_STATE 7 15) 1).get (UNIT_BKT_STATE 7 15) = 1 ∧ galIn.runs = true ∧ 0 = (galIn.gal 7).bound ∧
    ({ galIn with nvm := { NvmSt.reset with progOn := true } } : State).nvm.progOn = true ∧ 0 ≠ ((galIn.setGal 7 { GalSt.reset with bound := 1 }).gal 7).bound ∧
    (galIn.be 7).si = 0 ∧ (galIn.put (BE_CFG_UPD_FOLIOS 7) 0).passesDone 7 = true ∧ galIn.get (BE_STATUS_STATE 7) ≠ 3 := by decide +kernel

theorem witness_LedgerAppliesRecords : (ledIn 0 5).present 7 = true ∧ (ledIn 0 5).runs = true ∧ (ledIn 0 5).ledHeld 7 0 5 = false ∧
    ((ledIn 0 5).offered 7 15 1).map (fun o => (o.1, o.2.1)) = some (some 0, 5) ∧
    ledDecide ((ledIn (2 ^ hbZERO + 2 ^ hbFRESH) 5).ledHdr 7 0) ((ledIn 0 5).get (LED_FLOOR_SI_FLOOR 7)) 5 = .apply ∧
    hdBit ((ledIn (2 ^ hbZERO + 2 ^ hbFRESH) 5).ledHdr 7 0) hbZERO = true ∧ ledDecide ((ledIn 4 5).ledHdr 7 0) 0 5 = .apply ∧ hdBit ((ledIn 4 5).ledHdr 7 0) hbZERO = false ∧
    (∀ g, g < 128 → ((ledIn 4 5).groupNsi 7 0 g + 2 ^ 16 - hdNSI ((ledIn 4 5).ledHdr 7 0)) % 2 ^ 16 = 0) ∧ (ledIn 4 5).atLimit 7 0 0 [] = false ∧
    ledDecide ((ledIn 5 5).ledHdr 7 0) 0 5 = .skip ∧ ledDecide ((ledIn 3 5).ledHdr 7 0) 0 5 = .gap ∧ ((ledIn 3 5).gapOf 7 15 1).isSome = false ∧
    (((ledIn 3 5).setLed 7 { LedSt.reset with gaps := [⟨15, 1, 0⟩] }).gapOf 7 15 1) = some ⟨15, 1, 0⟩ ∧
    (((ledIn 4 5).setLed 7 { LedSt.reset with hdrs := [⟨0, 5, 15, 1⟩] }).led 7).hdrs = [⟨0, 5, 15, 1⟩] ∧
    (((ledIn 4 5).setLed 7 { LedSt.reset with runs := [⟨15, 0, 4, 0⟩] }).dumpRun 7 15) = some ⟨15, 0, 4, 0⟩ ∧
    0 + 1 < ((ledIn 4 5).put (DSET_CFG_NBLK 7 15) 2).get (DSET_CFG_NBLK 7 15) ∧ 0 + 1 = ((ledIn 4 5).put (DSET_CFG_NBLK 7 15) 1).get (DSET_CFG_NBLK 7 15) ∧ hdLAST ((ledIn 4 5).ledHdr 7 0) = 4 ∧ hdBit ((ledIn 4 5).ledHdr 7 0) hbFRESH = false ∧
    ((((ledIn 4 5).setLed 7 { LedSt.reset with clears := [⟨0, 15, 4, true⟩] }).led 7).clears.find? fun c => c.blk == 0 && c.committed) = some ⟨0, 15, 4, true⟩ := by
  decide +kernel

theorem witness_BeamEngineForms : beIn.present 7 = true ∧ beIn.runs = true ∧ beIn.get (BE_CFG_UPD_FOLIOS 7) ≠ 0 ∧ 1 = beIn.nextInt 7 ∧ beIn.get (BE_STATUS_STATE 7) = 0 ∧
    (∀ b, b < 1024 → beIn.get (PEND_CTRL_PENDING 7 b) = 0) ∧ (beIn.passPos 7 63).folio < beIn.siFirst 7 ((beIn.be 7).si + 1) ∧
    beIn.segReady 7 (beIn.passPos 7 63).folio = true ∧ (beIn.intOf 7 (beIn.passPos 7 63).folio).isSome = true ∧ beIn.passDescs 7 63 (beIn.passPos 7 63).folio ≠ [] ∧
    beIn.get (UNIT_BKT_BKT_A 7 35) < beIn.get (FLT_LIMITS2_BE_THRESH 7) ∧ beIn.get (DET_CFG0_EN 7 63) = 1 ∧
    (∀ bad, beIn.trigReady 7 63 (detIn bad) = some (0, ⟨100, 1, bad⟩)) ∧ (beIn.setBe 7 { BeSt.reset with dets := [⟨63, detIn false⟩] }).get (DET_STAT0_ARMED 7 63) = 0 ∧
    (beIn.put (DET_STAT0_ARMED 7 63) 1).get (DET_STAT0_ARMED 7 63) = 1 ∧ beTurn.trigTurn 7 63 0 = true ∧ beIn.get (DET_STAT0_ABOVE 7 63) = 0 ∧ (detIn false).last = none ∧
    (trigStats 100 0 0 0 0 0 0).1 = true ∧ beIn.get (GRP_CFG_EN 7 (beIn.get (DET_CFG1_GROUP 7 63))) = 0 ∧ ({ detIn false with valid := 1 } : DetSt).valid ≠ 0 ∧
    (detIn false).valid = 0 := by decide +kernel

theorem witness_ProductsEnterAndAreSealed : (unitIn 5).packerOn = true ∧ ringDie 8191 = 7 ∧ ringLoc 8191 = 1023 ∧ (unitIn 5).present 7 = true ∧
    (unitIn 5).nextUnit 8191 = some (unitOf 5) ∧ (unitIn 5).ringTakes 8191 5 = true ∧ ((secIn (.attest [] none)).put (RING_CFG_PRODUCER 7 1023) 6).ringTakes 8191 8 = true ∧ (unitIn 5).place 8191 5 = .ring ∧ ((unitIn 5).ring 8191).full = false ∧
    ((unitIn 5).put (RING_REGION_WORDS 7 1023) 4).place 8191 5 = .none ∧ (((unitIn 3).put (rcVALID 8191) 1).put (rcMARKA 8191) 5).belowMark 8191 5 0 0 = true ∧
    (unitIn 3).nextUnit 8191 = some (unitOf 3) ∧ (ringSent 1).get (RING_CFG_SEAL_S 7 1023) = 1 ∧ ((ringSent 1).ring 8191).sinceTrig = 1 ∧
    (secIn (.sealRing 8191 0 0 [])).sec.sealKey = some 1 ∧ (secIn (.attest [] none)).get PKC_RINGS_ATT_RING = 8191 ∧
    ((secIn (.attest [] none)).put (RING_REGION_WORDS 7 1023) 10000).place 8191 200 = .ring := by decide +kernel

theorem witness_ProductsLeave : (ringSent 0).present 7 = true ∧ (ringSent 0).packerOn = true ∧ (ringSent 0).toSend 8191 0 = some ⟨0, 5, 5, false, 0⟩ ∧
    (ringSent 0).toSend 8191 1 = some ⟨0, 5, 5, false, 0⟩ ∧ (ringSent 0).liveTargets 8191 = [0, 1] ∧ (ringSent 0).targetOf 8191 0 = (3, 9) ∧
    (ringSent 0).targetOf 8191 1 = (2, 0) ∧ (ringSent 0).portState 1 = 1 ∧ (ringSent 0).get (LAND_STATE_EN 1 8191) = 1 ∧ ((ringSent 0).land 1 8191).stopped = false ∧
    5 ≤ (ringSent 0).get (LAND_STATE_FREE 1 8191) ∧ (ringSent 1).inboxHead 7 ⟨1, 2, 0, 9, 7, 0xA, 0, 0, [0, 8191]⟩ = true ∧ (8191 : Word).bits 0 13 = 8191 ∧
    (((ringSent 1).liveTargets 8191).find? fun t => (ringSent 1).targetOf 8191 t == (3, 9)) = some 0 ∧ (ringSent 1).nvm.epoch = 0 ∧
    ((ringSent 1).ring 8191).nAck 0 = 0 ∧ ((ringSent 1).ring 8191).nSent 0 = 1 := by decide +kernel

theorem witness_ReferencesAreMonitored : (refIn rfQUALIFIED dpLOCKED).refExists 19 = true ∧ (refIn rfQUALIFIED dpLOCKED).refState 19 = rfQUALIFIED ∧
    (refIn rfQUALIFIED dpLOCKED).get RSC_STATUS_SEL = 19 ∧ (refIn rfQUALIFIED dpLOCKED).candidates = [19] ∧ (refIn rfQUALIFIED dpLOCKED).get RSC_STATUS_SWITCHING = 0 ∧
    (refIn rfQUALIFIED dpLOCKED).get RSC_STATUS_STATE = dpLOCKED ∧ (refIn rfINVALID dpLOCKED).refState 19 = rfINVALID ∧ (refIn rfINVALID dpLOCKED).rsc.loActive = true ∧ (refLine 19).lineGood 19 = true ∧ (refLine 19).rsc.loActive = true ∧
    (500 : Int).natAbs ≤ (refIn rfINVALID dpLOCKED).get RSC_CFG_ACCEPT_PPB ∧ (refIn rfINVALID dpLOCKED).get RSC_CFG_ACCEPT_PPB < (-501 : Int).natAbs ∧
    (-1000 : Int).natAbs ≤ (refIn rfQUALIFIED dpLOCKED).get RSC_CFG_REJECT_PPB ∧ (refIn rfQUALIFIED dpLOCKED).get RSC_CFG_REJECT_PPB < (1001 : Int).natAbs ∧
    (refIn rfQUALIFYING dpLOCKED).refState 19 = rfQUALIFYING ∧ (refIn rfQUALIFYING dpLOCKED).ref 19 = ⟨true, 10, false⟩ ∧
    (refIn rfQUALIFYING dpLOCKED).get RSC_CFG_QUAL_S = 10 ∧ (refIn rfQUALIFYING dpHOLDOVER).get RSC_STATUS_STATE = dpHOLDOVER := by decide +kernel

theorem witness_TheDpllSwitchesLocksAndHolds : (refIn rfQUALIFIED dpHOLDOVER).rsc.target = some 19 ∧ (refIn rfQUALIFIED dpHOLDOVER).refState 19 = rfQUALIFIED ∧
    (refIn rfQUALIFIED dpHOLDOVER).get RSC_STATUS_STATE = dpHOLDOVER ∧ (refIn rfQUALIFIED dpACQUIRE).get RSC_STATUS_STATE = dpACQUIRE ∧
    (refIn rfQUALIFIED dpACQUIRE).get RSC_STATUS_LADDER = 1 ∧ (refIn rfQUALIFIED dpACQUIRE).get RSC_LADDER1_NSTEPS = 3 ∧
    (refIn rfQUALIFIED dpLOCKED).get RSC_STATUS_STATE = dpLOCKED ∧ ({ revertIn with now := tSec } : State).revertDue = true ∧
    ({ revertIn with now := tSec } : State).choice = some 0 ∧ revertIn.get RSC_STATUS_STATE ≠ dpFREERUN ∧ ({ revertIn with now := tSec } : State).rsc.lastSwitch + tSec ≤ tSec ∧
    State.reset.revertDue = false ∧ ({ State.reset with now := tSec } : State).rsc.lastSwitch + tSec ≤ tSec ∧ 2 ≤ revertIn.mode := by decide +kernel

theorem witness_TorveriMessagesCarryTime : (followIn svFREE).runs = true ∧ (followIn svFREE).follows = true ∧ (followIn svFREE).upstream = 15 ∧
    (((teIn 15 (ptpPkt syncMsg) (followIn svFREE)).takeTe 15 (ptpPkt syncMsg)).map fun r => r.1) = some 2 ∧
    ptpOf (ptpPkt syncMsg) = syncMsg ∧ ptpZn (ptpPkt syncMsg) = true ∧ (followIn svFREE).get TE_CFG_DOMAIN = 0 ∧ (followIn svFREE).get TE_CFG_LEAD_DEV = 9 ∧
    (followIn svFREE).get TE_STATUS_SERVO = svFREE ∧ (followIn svLOCKED).get TE_STATUS_SERVO = svLOCKED ∧ (followIn svLOCKED).get TE_LIMITS_STEP_NS = 1000 ∧
    ptpOf (ptpPkt reqMsg) = reqMsg ∧ ptpZn (ptpPkt reqMsg) = true ∧ (followIn svFREE).isDown 14 = true ∧ leadIn.follows = false ∧
    ptpOf (ptpPkt (respMsg 0)) = respMsg 0 ∧ ptpZn (ptpPkt (respMsg 0)) = true ∧ (followIn svFREE).ownDev = 0 ∧ (followIn svFREE).te.t3 = some 200 ∧
    (respMsg 0).seq = ((followIn svFREE).te.dreq + 65535) % 65536 ∧
    ((followIn svFREE).te.syncs.filter fun r => decide (r.t2 ≤ 200)).getLast? = some ⟨100, 50⟩ ∧ ptpOf (ptpPkt (respMsg 10)) = respMsg 10 ∧
    Store.get (fun _ => 0) (followIn svFREE).te.table 10 = 14 + 1 ∧ leadIn.get TE_CFG_ROLE = 1 ∧ leadIn.runs = true ∧ leadIn.isDown 14 = true ∧
    egressOf [(14, 7)] 14 = some 7 ∧ egressOf [(15, 7)] (followIn svFREE).upstream = some 7 ∧ (followIn svFREE).te.cal = [] ∧ (let s : State := { leadIn with te := { leadIn.te with cal := [⟨15, 16, 16, 0, 0⟩] } }; s.runs = true ∧ s.follows = false ∧ s.te.cal = [⟨15, 16, 16, 0, 0⟩]) ∧
    egressOf [(15, 7)] 15 = some 7 := by decide +kernel

theorem witness_ChainsTrainAndAlign : (chainIn csDETECT .reset).chState 15 = csDETECT ∧ (chainIn csDETECT .reset).chain 15 = .reset ∧ ChainSt.reset.firstTrain = true ∧
    (chainIn csTRAIN (lanesQ .reset)).chState 15 = csTRAIN ∧ (chainIn csTRAIN (lanesQ .reset)).chain 15 = lanesQ .reset ∧
    readTos (readLane false ((encAll false (tosChars (tosOf 1))).1.map fun g => if false then 1023 - g else g)).1 = some (tosOf 1) ∧
    readTos (readLane true ((encAll true (tosChars (tosOf 0))).1.map fun g => if false then 1023 - g else g)).1 = some (tosOf 0) ∧
    (lanesQ .reset).lanes.length = 4 ∧ (chainIn csTRAIN chainQ).get (GWL_CH_CFG_RATE 7 1) = 0 ∧ ((lanesQ .reset).lanes.all fun l => !l.failed) = true ∧
    (chainIn csTRAIN chainQ).get (GWL_CH_STATUS_RT_BKT 7 1) + 1 ≤ (chainIn csTRAIN chainQ).get (GWL_BUCKET_CFG_RT_THRESH 7) ∧
    chainQ.tries + 1 < (chainIn csTRAIN chainQ).get (GWL_TIMERS_TRAIN_TRIES 7) ∧ (tosOf 0).rate = 0 ∧
    eyeStep { LaneTrain.reset with echoed := true } (eyeMetric 10 10) = .request { LaneTrain.reset with echoed := true, best := eyeMetric 10 10, phase := 1, reqs := 1 } 16 ∧
    eyeStep { LaneTrain.reset with echoed := true } (eyeMetric 60 102) = .done ∧ ((lanesQ { LaneTrain.reset with failed := true }).lanes.any LaneTrain.failed) = true ∧
    (chainIn csALIGN chainQ).chState 15 = csALIGN ∧ (chainIn csALIGN chainQ).get (GWL_CH_STATUS_TX_SLEEP 7 1) = 0 ∧
    lanesAligned [aosL 3 5, aosL 2 5, aosL 1 5, aosL 0 5] ([aosL 3 5, aosL 2 5, aosL 1 5, aosL 0 5].filterMap readAos) = true ∧ (chainIn csALIGN chainQ).get (CH_PEER_RX_DEV 7 1) = (chainIn csALIGN chainQ).get (CH_PEER_PEER_DEV 7 1) ∧
    ((chainIn csALIGN chainQ).put (CH_PEER_RX_DEV 7 1) 9).get (CH_PEER_RX_DEV 7 1) ≠ ((chainIn csALIGN chainQ).put (CH_PEER_RX_DEV 7 1) 9).get (CH_PEER_PEER_DEV 7 1) ∧
    (chainIn csACTIVE chainQ).chState 15 = csACTIVE ∧ mcAgree ([aosL 0 5, aosL 1 6].filterMap readAos) = false ∧
    (chainIn csACTIVE { chainQ with aosBad := 1 }).chain 15 = { chainQ with aosBad := 1 } := by decide +kernel

theorem witness_LinksCarryPackets : (chainIn csACTIVE chainQ).chState 15 = csACTIVE ∧
    ((chainIn csACTIVE chainQ).readStream 15 0 (rxOf (packetChars (nbPkt 1 0)))).1.head? = some (some gSOP) ∧
    (readPacket (dropAos 24 (((chainIn csACTIVE chainQ).readStream 15 0 (rxOf (packetChars (nbPkt 1 0)))).1.drop 1)) = .whole (nbPkt 1 0)) ∧
    ((chainIn csACTIVE chainQ).readStream 15 0 (rxOf (packetChars (nbPkt 1 0)))).1.length = 24 ∧
    (nbPkt 1 0).seq = (chainIn csACTIVE chainQ).get (CH_SEQ_RX_EXPECT 7 1) ∧ { chainQ with granted := [9, 9, 9, 9] }.overdrawn (nbPkt 1 0) = false ∧
    chainQ.overdrawn (nbPkt 1 0) = true ∧ 15 < 2 * (chainIn csACTIVE chainQ).part.dies ∧ (chainIn csACTIVE chainQ).pkf.transit = [] ∧
    (readPacket ((((chainIn csACTIVE chainQ).readStream 15 0 (rxOf (packetChars (nbPkt 1 0)))).1.drop 1).take 22) =
      .bad ((pktOctets (nbPkt 1 0) ++ toOctets 4 (pktCrc (nbPkt 1 0))).take 22)) ∧
    32768 ≤ ((chainIn csACTIVE chainQ).get (CH_SEQ_RX_EXPECT 7 1) + 65535 - (nbPkt 1 5).seq) % 65536 ∧
    (chainIn csACTIVE chainQ).get (GWL_CH_STATUS_CRC_BKT 7 1) + 1 ≤ (chainIn csACTIVE chainQ).get (GWL_BUCKET_CFG_CRC_THRESH 7) ∧
    ((chainIn csACTIVE chainQ).get (CH_SEQ_RX_EXPECT 7 1) + 65535 - (nbPkt 1 65535).seq) % 65536 < 32768 ∧
    readLcb ((chainIn csACTIVE chainQ).readStream 15 0 (rxOf (lcbChars (lcbOf 65535 0 false)))).1 = some (lcbOf 65535 0 false) ∧
    readLcb ((chainIn csACTIVE chainQ).readStream 15 0 (rxOf (packetChars (nbPkt 1 0)))).1 = none ∧ (lcbOf 65535 0 false).init = false ∧
    (65535 + 1 + 65536 - ((chainIn csACTIVE chainQ).get (CH_SEQ_TX_NEXT 7 1) + 65536 - chainQ.replay.length) % 65536) % 65536 ≤ chainQ.replay.length ∧
    (chainIn csACTIVE chainQ).txAwake 15 = true ∧ (chainIn csACTIVE { chainQ with lcbDue := true }).chain 15 = { chainQ with lcbDue := true } ∧
    (chainIn csACTIVE chainQ).lcbChanged 15 = true ∧ (chainIn csACTIVE { chainQ with resend := [nbPkt 1 0] }).chain 15 = { chainQ with resend := [nbPkt 1 0] } ∧
    ({ chainQ with vc3 := [nbPkt 3 0], limit := [9, 9, 9, 9] } : ChainSt).canSend 3 = true ∧
    (({ chainQ with vc3 := [nbPkt 3 0], limit := [9, 9, 9, 9] } : ChainSt).roundRobin 4 4).1 = 3 ∧ ({ chainQ with vc3 := [nbPkt 3 0] } : ChainSt).stalled 3 = true ∧
    ({ chainQ with replay := [nbPkt 1 0] } : ChainSt).replay ≠ [] ∧ (chainIn csACTIVE chainQ).get (GWL_CH_STATUS_REPLAYS 7 1) < (chainIn csACTIVE chainQ).get (GWL_TIMERS_REPLAY_NUM 7) ∧
    ((chainIn csACTIVE chainQ).put (GWL_CH_STATUS_REPLAYS 7 1) 3).get (GWL_TIMERS_REPLAY_NUM 7) ≤ ((chainIn csACTIVE chainQ).put (GWL_CH_STATUS_REPLAYS 7 1) 3).get (GWL_CH_STATUS_REPLAYS 7 1) ∧
    (chainIn csACTIVE chainQ).get (GWL_CH_STATUS_RT_BKT 7 1) + 1 ≤ (chainIn csACTIVE chainQ).get (GWL_BUCKET_CFG_RT_THRESH 7) ∧
    (chainIn csACTIVE chainQ).get (GWL_CH_CFG_SLEEP_TX 7 1) = 1 ∧ chainQ.waiting = false ∧ chainQ.holdAwake = false ∧
    ((chainIn csACTIVE { chainQ with holdAwake := true }).put (GWL_CH_STATUS_TX_SLEEP 7 1) 1).get (GWL_CH_STATUS_TX_SLEEP 7 1) ≠ 0 ∧
    (pkfIn 8).nextHop ⟨7, 7, 8, true, none, nbPkt 1 0⟩ = 7 ∧ 8 = ringPos 7 ∧ unitTakes (nbPkt 1 0) = true ∧
    (pkfIn 8).ringLen = 9 ∧ mMUSTER ≤ (pkfIn 8).mode ∧ Store.get (fun _ => 0) (pkfIn 8).pkf.bkt 7 < 1000 := by decide +kernel

/-- No chain of these states has a packet in its receive buffer. -/
theorem witness_LinksCarryPackets_rx : (∀ j, ((pkfIn 8).chain j).rx = []) ∧ ((pkfIn 8).pkf.transit = [⟨7, 7, 8, true, none, nbPkt 1 0⟩]) :=
  ⟨fun _ => rfl, rfl⟩

theorem witness_MemoryIsReadAndWritten : burstChan 3 = 1 ∧ burstSub 3 = 1 ∧ memIn.chanReady 7 1 = true ∧ 3 < memIn.dieBursts 7 ∧ memIn.get (erasedF 7 1 1) = 15 ∧
    decodeBurst (readSyndromes (memIn.rdMems 7 24 8) []) = .clean ∧ (memIn.put (erasedF 7 1 1) 9).get (erasedF 7 1 1) ≠ 15 ∧
    decodeErased (readSyndromes (memIn.rdMems 7 24 8) []) 9 = .fix [] ∧ decodeBurst (readSyndromes (memIn.rdMems 7 24 8) [(39, 65535)]) = .fix [(39, 65535)] ∧
    memIn.get (UNIT_BKT_BKT_A 7 (36 + 20 + 10 + symDevice 39)) + 1 ≤ memIn.get (FLT_LIMITS2_DRAM_THRESH 7) ∧ (∀ e ∈ badBurst, e.1 < 40 ∧ e.2 % 2 ^ 16 ≠ 0) ∧
    decodeBurst (readSyndromes (memIn.rdMems 7 24 8) badBurst) = .uncorr ∧
    ([(1, []), (3, [])] : List (Nat × List Word)).all (fun b => memIn.chanReady 7 (burstChan b.1) && bit 2 (burstChan b.1) && decide (b.1 < memIn.dieBursts 7)) = true ∧
    ([(1, []), (3, [])] : List (Nat × List Word)).any (fun b => !bit 1 (burstChan b.1)) = true ∧ (memIn.acu 7).panic = false ∧
    ((memIn.setAcu 7 { AcuSt.reset with panic := true, jbuf := [(5, 1)] }).acu 7).panic = true ∧
    ((memIn.setAcu 7 { AcuSt.reset with panic := true, jbuf := [(5, 1)] }).acu 7).jbuf.take 8 = [(5, 1)] ∧
    Store.get (fun _ => 0) (memIn.drc 7).postponed 3 < memIn.get (DRC_QOS_REF_POST_MAX 7) := by decide +kernel

theorem witness_MemoryTrainsAndTheFabricArbitrates : musterMem.present 7 = true ∧ musterMem.mode = mMUSTER ∧ musterMem.get (DRC_CH_CFG_EN 7 1) = 1 ∧
    musterMem.get (DRC_CH_STATUS_STATE 7 1) ≠ 2 ∧ musterMem.get (DRC_CH_STATUS_STATE 7 1) ≠ 5 ∧ (dimmOf false true true).spdOk = false ∧
    Store.get (fun _ => 0) ({ musterMem with training := [(15, 78)] } : State).training 15 = (dimmOf true true true).serial + 1 ∧
    Store.get (fun _ => 0) musterMem.training 15 ≠ (dimmOf true true true).serial + 1 ∧ (dimmOf true true false).fullOk = false ∧ memIn.chanReady 7 1 = true ∧
    memIn.accepts = true ∧ (memIn.acu 7).panic = false ∧
    memIn.runs = true ∧ memIn.fab 7 11 = [] ∧ 0 < memIn.get (FAB_CFG_AGE_LIMIT 7) ∧ memIn.fabFixed 7 = false ∧ musterMem.fabFixed 7 = true ∧
    bitsOf (memIn.get (PRIO_P 7 25)) (4 * 11) 4 = bitsOf (memIn.get (PRIO_P 7 24)) (4 * 11) 4 := by decide +kernel
theorem witness_DmaEnginesRun : dmaKey 7 1 = 15 ∧ (dmaIn 0 31 (dWord 1 0 4) 9 1000).dmaOn 15 = true ∧ (dmaIn 0 31 (dWord 1 0 4) 9 1000).get (dmaEN 15 15) = 1 ∧
    (dmaIn 0 31 (dWord 1 0 4) 9 1000).get (dmaSTATE 15 15) = 0 ∧ (dmaIn 0 31 (dWord 1 0 4) 9 1000).get (dmaRUN 15) = 31 ∧
    ((List.range 16).all fun x => (dmaIn 0 31 (dWord 1 0 4) 9 1000).get (dmaSTATE 15 x) != 1) = true ∧ ((dmaIn 0 31 (dWord 1 0 4) 9 1000).desc 15 15).own = true ∧
    ((dmaIn 0 31 0 9 1000).desc 15 15).own = false ∧ (dmaIn 2 15 (dWord 1 0 4) 9 1000).get (dmaRUN 15) = 15 ∧ (dmaIn 2 15 (dWord 1 0 4) 9 1000).get (dmaSTATE 15 15) = 2 ∧
    (dmaIn 2 15 (dWord 3 0 4) 9 1000).addrErr 15 15 ((dmaIn 2 15 (dWord 3 0 4) 9 1000).desc 15 15) = true ∧
    (dmaIn 2 15 (dWord 1 0 4) 9 1000).get (dmaF 15 fun d e => DMA_CH_CFG_RING_SPACE d e 15) = 1 ∧
    (dmaIn 2 15 (dWord 1 0 4) 9 1000).addrErr 15 15 ((dmaIn 2 15 (dWord 1 0 4) 9 1000).desc 15 15) = false ∧
    spaceOf ((dmaIn 2 15 (dWord 1 0 4) 9 1000).desc 15 15).dst = 0 ∧ ((dmaIn 2 15 (dWord 1 0 4) 9 1000).desc 15 15).op = 1 ∧
    (dmaIn 2 15 (dWord 0 0 4) 9 1000).addrErr 15 15 ((dmaIn 2 15 (dWord 0 0 4) 9 1000).desc 15 15) = false ∧
    (dmaIn 2 15 (dWord 2 0 4) 9 1000).addrErr 15 15 ((dmaIn 2 15 (dWord 2 0 4) 9 1000).desc 15 15) = false ∧
    (dmaIn 3 15 (dWord 0 1 64) (5 * 2 ^ 60 + 2) 1000).get (dmaSTATE 15 15) = 3 ∧ (dmaIn 3 15 (dWord 0 1 64) (5 * 2 ^ 60 + 2) 1000).trngDry 15 15 = false ∧ spaceOf ((dmaIn 3 15 (dWord 0 1 64) (5 * 2 ^ 60 + 2) 1000).desc 15 15).src = 5 ∧
    (dmaIn 3 15 (dWord 0 1 64) (5 * 2 ^ 60 + 2) 1000).get (dmaOFS 15 15) + 8 < ((dmaIn 3 15 (dWord 0 1 64) (5 * 2 ^ 60 + 2) 1000).desc 15 15).len := by decide +kernel

theorem witness_CountersAndTelemetryAreKept : telIn.get TEL_CFG_TEL_PERIOD_S ≠ 0 ∧ telIn.runs = true ∧ telIn.rg.failover = false ∧
    telIn.ringTakes (telIn.get PKC_RINGS_TEL_RING) 5 = true ∧ (telIn.put (RING_CFG_PRODUCER 7 1023) 7).ringTakes (telIn.get PKC_RINGS_CTR_RING) 9 = true ∧
    telIn.place (telIn.get PKC_RINGS_TEL_RING) (8 + 2 * telIn.dies.length) = .ring ∧ (telIn.ring (telIn.get PKC_RINGS_TEL_RING)).full = false ∧
    (telIn.put (RING_CFG_EN 7 1023) 0).ringTakes 8191 5 = false ∧ telIn.snaps = [⟨⟨255, 0, 3, 0, 0, 0⟩, 128, 1, [(7, [0])]⟩] ∧
    telIn.get PKC_RINGS_CTR_RING = 8191 ∧ (telIn.put (RING_CFG_PRODUCER 7 1023) 7).place 8191 9 = .ring ∧ telIn.present 7 = true ∧ telIn.mode = mOBSERVE ∧
    cycleEvent (telIn.get (PMON_SEL_EVENT 7 63)) = false ∧ telIn.wraps.contains (7, 63) = true ∧ telIn.get (PMON_SEL_IRQ_CORE 7 63) = 17 ∧
    telIn.get (CORE_CFG_CTR_ACC 7 17) = 1 ∧ cycleEvent (telIn.get (PMON_SEL_EVENT 7 62)) = true := by decide +kernel

theorem witness_ProgrammesAndPointsChange : calIn.accepts = true ∧ calIn.calLatest 255 10 = some 10 ∧ (calIn.nvm.calDone.find? fun e => e.1 == 255) = none ∧
    calIn.calDue (max 10 (grainOf calIn.now)) = some (255, 10) ∧ (switchIn false true 0 []).nvm.switchTo = some 0 ∧ (switchIn false true 0 []).accepts = true ∧
    (switchIn false true 0 []).get PROG_STATE_RUNNING = 0 ∧ (switchIn false false 3 [consOf 0 0]).storeFails 3 [] = [] ∧ (switchIn false false 3 [consOf 0 0]).acc.cons ≠ [] ∧
    ({ switchIn false false 3 [] with nvm := { (switchIn false false 3 []).nvm with store := [⟨3, 7, 1, [], []⟩] } } : State).storeFails 3 [7] ≠ [] ∧
    (switchIn true false 3 []).drainedAll = true ∧ calIn.runs = true ∧ calIn.rg.failover = false ∧ (hotIn 0).get PWR_CFG_THROTTLE_C < 91 ∧ (hotIn 0).pwr.throttle = 0 ∧
    (hotIn 0).islands.contains 251 = true ∧ (hotIn 0).islOp 251 < 3 ∧ (hotIn 2).pwr.throttle ≠ 0 ∧ 84 + (hotIn 2).get PWR_CFG_HYST_C < (hotIn 2).get PWR_CFG_THROTTLE_C ∧
    (seqIn 0 1 0).pwr.seqQ = [⟨255, 700, 1300, 1, false⟩] ∧ (seqIn 0 1 0).mode = mOBSERVE ∧ (seqIn 0 1 0).get SEQ_STATUS_BUSY = 0 ∧
    1 < (seqIn 0 1 1).get (ISL_OP_USED 255) ∧ (seqIn 0 1 1).pwr.throttle ≠ 0 ∧ (seqIn 1 1 0).get SEQ_STATUS_BUSY = 1 := by decide +kernel

theorem witness_RegistrarSecurityAndFaultsAct : mMUSTER ≤ regIn.mode ∧ regIn.get RG_STATUS_ACTIVE = 0 ∧ regIn.isDead (regUnit 1) = false ∧ regIn.rg.passed 1 = true ∧
    regIn.get (regBkt 0) + 1 ≤ regIn.get (FLT_LIMITS_GIVEUP_THRESH 0) ∧ ({ regIn with rg := { RgSt.reset with passedB := false } } : State).rg.passed 1 = false ∧
    (puts regIn [(RG_STATUS_ACTIVE, 1), (REG_FAULT_A_STATE, 1)]).get RG_STATUS_ACTIVE = 1 ∧ (puts regIn [(RG_STATUS_ACTIVE, 1), (REG_FAULT_A_STATE, 1)]).get REG_FAULT_A_STATE = 1 ∧
    (puts regIn [(RG_STATUS_ACTIVE, 1)]).isDead (regUnit 0) = false ∧ regIn.unitHere ⟨7, 4, 17⟩ = true ∧ bucketOf ⟨7, 4, 17⟩ 1 = some (UNIT_BKT_BKT_B 7 34) ∧
    bucketNo ⟨7, 4, 17⟩ 1 = 1 ∧ regIn.get (UNIT_BKT_BKT_B 7 34) = 3 ∧ (regIn.put (FLT_LIMITS_GIVEUP_LEAK_H 7) 24).leakPeriod ⟨7, 4, 17⟩ 1 ≠ 0 ∧
    Store.get (fun _ => 0) { PkfSt.reset with bkt := [(8, 2)] }.bkt 8 ≠ 0 ∧ regIn.unitHere ⟨14, 10, 8⟩ = true ∧ regIn.present 7 = true ∧ regIn.get (UNIT_BKT_STATE 7 (17 + 17)) = 1 ∧ regIn.get (UNIT_BKT_STATE 7 16) = 1 ∧
    regIn.flt.hosted.contains 7 = false ∧ regIn.paired 7 = false ∧ (regIn.put (ACU_STATUS_PAIR_ACTIVE 7) 1).paired 7 = true ∧ regIn.present (partner 7) = true ∧
    2 ≤ regIn.mode ∧ unlockedIn.sec.unlockEnd ≠ 0 := by decide +kernel

theorem witness_TheConservatorKeepsMargins : (calibIn [] 0 0).csvOn 7 74 = true ∧ csvFree ((calibIn [] 0 0).csv 7).busy 74 = true ∧
    (calibIn [] 0 0).itemBehind 7 0 0 = false ∧ (calibIn [] 0 0).csvOn 7 0 = true ∧ csvFree ((calibIn [] 0 0).csv 7).busy 0 = true ∧ (calibIn [] 1 0).trimPoint 7 74 = true ∧
    (calibIn [] 0 0).monPoint 7 28 = 0 ∧ (calibIn [74] 0 0).present 7 = true ∧ 74 < csvItems 7 ∧
    ((calibIn [74] 0 0).csv 7).busy.contains 74 = true ∧ (calibIn [74] 0 0).plausible 7 74 ((calibIn [74] 0 0).get (ITEM_STATE_CODE 7 74) % 256) = true ∧
    (calibIn [74] 0 0 0).plausible 7 74 41 = false ∧
    (calibIn [] 1 0).get (ITEM_STATE_PENDING 7 74) = 1 ∧ (calibIn [] 0 1).csvOn 7 0 = true ∧ 28 < csvMons 7 ∧ (calibIn [] 0 1).get (CSV_STATUS_BASELINE 7) = 1 ∧
    (calibIn [] 0 0).get (CSV_STATUS_BASELINE 7) = 0 := by decide +kernel

/-! Ill-formed commands: one term for each check. -/

def env0 : MusterEnv := ⟨[], ⟨true, 0, 0⟩, ⟨true, 0, 0⟩, none, none, true, true, [], false, false, [], 0⟩
def hdr0 : CmdHdr := ⟨0, 0, 1, 0, 0, 0⟩
def pkt0 : Pkt := ⟨1, 0, 0, 0, 0, 0, 0, 0, [0]⟩

theorem test_wf_header : (Instr.nop hdr0).wf = true ∧ (Instr.nop { hdr0 with src := 256 + 2 ^ 16 }).wf = false ∧ (Instr.nop { hdr0 with tag := 2 ^ 32 }).wf = false ∧
    (Instr.nop { hdr0 with opcode := 2 ^ 16 }).wf = false ∧ (Instr.nop { hdr0 with seq := 2 ^ 48 }).wf = false ∧ (Instr.nop { hdr0 with grain := 2 ^ 64 }).wf = false ∧
    (Instr.nop { hdr0 with log := 4096 }).wf = false := by decide +kernel
theorem test_wf_command_operands : (Instr.progStart hdr0 16).wf = false ∧ (Instr.dump hdr0 256 0).wf = false ∧ (Instr.dump hdr0 255 16).wf = false ∧
    (Instr.fade hdr0 0 128 64).wf = false ∧ (Instr.fade hdr0 7 127 63).wf = false ∧ (Instr.fade hdr0 7 127 65537).wf = false ∧
    (Instr.coefLoad hdr0 8 0 0).wf = false ∧ (Instr.beamSet hdr0 0 1024 (List.replicate 9 0)).wf = false ∧ (Instr.beamSet hdr0 0 0 []).wf = false ∧
    (Instr.refForce hdr0 20).wf = false ∧ (Instr.landReg hdr0 0 32 0 0 0 0 []).wf = false ∧ (Instr.landReg hdr0 0 0 64 0 0 0 []).wf = false ∧
    (Instr.landDrop hdr0 8192).wf = false ∧ (Instr.asymCal hdr0 16 16).wf = false ∧ (Instr.asymCal hdr0 0 15).wf = false ∧ (Instr.asymCal hdr0 0 (2 ^ 24)).wf = false ∧
    (Instr.imageUpdate hdr0 2 0 0 []).wf = false ∧ (Instr.imageUpdate hdr0 0 0 0 [⟨2, 0, []⟩]).wf = false ∧ (Instr.imageUpdate hdr0 0 0 0 [⟨0, 0, [256]⟩]).wf = false := by
  decide +kernel
theorem test_wf_units : (Instr.reinstate hdr0 ⟨7, 7, 39⟩ true).wf = true ∧ (Instr.reinstate hdr0 ⟨7, 7, 40⟩ true).wf = false ∧ (Instr.reinstate hdr0 ⟨16, 1, 0⟩ true).wf = false ∧
    (Instr.giveupTimeout ⟨0, 5, 17⟩).wf = false ∧ (Instr.giveupTimeout ⟨0, 12, 0⟩).wf = false ∧ (Instr.bucketLeak ⟨0, 1, 15⟩ 2).wf = false := by decide +kernel
theorem test_wf_packets : (Instr.stateRead pkt0).wf = true ∧ (Instr.stateRead { pkt0 with typ := 16 }).wf = false ∧ (Instr.stateRead { pkt0 with vc := 4 }).wf = false ∧
    (Instr.stateRead { pkt0 with dst := 2 ^ 16 }).wf = false ∧ (Instr.stateRead { pkt0 with src := 2 ^ 16 }).wf = false ∧ (Instr.stateRead { pkt0 with dstDie := 8 }).wf = false ∧
    (Instr.stateRead { pkt0 with sub := 16 }).wf = false ∧ (Instr.stateRead { pkt0 with hops := 64 }).wf = false ∧ (Instr.stateRead { pkt0 with seq := 2 ^ 16 }).wf = false ∧
    (Instr.stateRead { pkt0 with payload := [] }).wf = false ∧ (Instr.stateRead { pkt0 with payload := List.replicate 33 0 }).wf = false := by decide +kernel
theorem test_wf_ports_and_records : (Instr.registerWrite 1 (2 ^ 28 - 1) (2 ^ 72 - 1)).wf = true ∧ (Instr.registerWrite 2 0 0).wf = false ∧ (Instr.registerWrite 0 (2 ^ 28) 0).wf = false ∧
    (Instr.registerWrite 0 0 (2 ^ 72)).wf = false ∧ (Instr.commandDoorbell 0 (2 ^ 32) 0 []).wf = false ∧ (Instr.commandDoorbell 0 0 (2 ^ 32) []).wf = false ∧
    (Instr.commandDoorbell 0 0 0 [⟨2, 0, []⟩]).wf = false ∧ (Instr.commandDoorbell 0 0 0 [⟨0, 2 ^ 64, []⟩]).wf = false ∧ (Instr.commandDoorbell 0 0 0 [⟨0, 0, [256]⟩]).wf = false ∧
    (Instr.deniedRead 1 (2 ^ 28 - 16) 16).wf = true ∧ (Instr.deniedRead 0 0 0).wf = false ∧ (Instr.deniedRead 0 0 513).wf = false ∧ (Instr.deniedRead 0 (2 ^ 28 - 15) 16).wf = false ∧
    (Instr.ackDoorbell 0 8192 0 none).wf = false ∧ (Instr.msixHoldoff 0 64).wf = false ∧ (Instr.grainStart (2 ^ 64) ⟨[], env0, [], []⟩).wf = false := by
  decide +kernel
theorem test_wf_indices : (Instr.cdrLock 7 15 true).wf = true ∧ (Instr.cdrLock 8 0 true).wf = false ∧ (Instr.cdrLock 0 16 true).wf = false ∧ (Instr.characterError 0 0 0 1024 false).wf = false ∧
    (Instr.frameRelease 0 0 [] [[1024]] [] []).wf = false ∧
    (Instr.ilasStart 0 8).wf = false ∧ (Instr.ilasComplete 0 0 [⟨16, [], 0⟩] [0] 0).wf = false ∧ (Instr.ilasComplete 0 0 [⟨0, [256], 0⟩] [0] 0).wf = false ∧ (Instr.dfuOutput 0 128 0).wf = false ∧ (Instr.updatePoint 8 0).wf = false ∧
    (Instr.intervalStart (2 ^ 48)).wf = false ∧ (Instr.vitrineHandover 0 16).wf = false ∧ (Instr.cmul 0 18 0).wf = false ∧ (Instr.doorbellMessage 0 0 0 0).wf = false ∧
    (Instr.doorbellMessage 0 0 5 0).wf = false ∧ (Instr.streamLost 0 4096).wf = false ∧ (Instr.destLost 0 (2 ^ 16) 0).wf = false ∧ (Instr.stintSlotRelease 0 (2 ^ 48)).wf = false ∧
    (Instr.tileWatchdog 0 17 false).wf = false ∧ (Instr.sealBank 0 0 2).wf = false ∧ (Instr.dumpUnit 0 16 false []).wf = false ∧ (Instr.unitEntry 8192).wf = false ∧
    (Instr.targetSend 0 2 []).wf = false ∧ (Instr.counterWrap 0 64 0).wf = false := by decide +kernel
theorem test_wf_indices_2 : (Instr.loInActivity env0).wf = true ∧ (Instr.refActivityFail 20).wf = false ∧ (Instr.delayResp 16 pkt0).wf = false ∧
    (Instr.eyeMeasure 0 4 0 0).wf = false ∧ (Instr.lcbReceived 0 3 ⟨[false, false, false, true], [1023]⟩).wf = true ∧ (Instr.lcbReceived 0 4 ⟨[false, false, false, true], []⟩).wf = false ∧
    (Instr.lcbReceived 0 0 ⟨[], []⟩).wf = false ∧ (Instr.packetReceived 0 0 ⟨[false, false, false, true], [1024]⟩ false).wf = false ∧
    (Instr.aosReceived 0 [⟨[1024], false, 0⟩]).wf = false ∧ (Instr.tosReceived 0 3 [1024] true false).wf = false ∧ (Instr.creditTimeout 0 4).wf = false ∧ (Instr.sleepReceived 0 2).wf = false ∧
    (Instr.pkfPacket 8 pkt0 0 true).wf = false ∧ (Instr.refreshInterval 0 2 0).wf = false ∧ (Instr.refreshInterval 0 0 2).wf = false ∧ (Instr.fabricRequest 0 12 0 []).wf = false ∧
    (Instr.prioParityError 0 26 0).wf = false ∧ (Instr.dmaDoorbell 15 1 0 false).wf = false ∧ (Instr.dmaDoorbell 15 0 16 false).wf = false ∧ (Instr.pacedWithdraw 0 0 8 []).wf = false ∧
    (Instr.calendarEntry 256 0).wf = false ∧ (Instr.programmeSwitch [8]).wf = false ∧ (Instr.railPowerGood 8 0).wf = false ∧ (Instr.regFailover 2).wf = false ∧
    (Instr.trimInForce 1 75).wf = false ∧ (Instr.trimInForce 0 90).wf = false := by decide +kernel

/-! The table's rows give no bits. -/
theorem test_no_word_spells_a_command : decodeTableWord 32 0xFFFFFFFF = none := rfl
theorem test_withFetchWord_changes_nothing : State.reset.withFetchWord 32 5 = State.reset := rfl

/-! Worked values of the spec and of the functions it names. -/

/-- R38's example word. -/
theorem test_c4_word : packWord 0 ([⟨1, -1, false⟩, .stale, ⟨-7, 7, false⟩] ++ List.replicate 5 ⟨0, 0, false⟩) = 0x1E600F1 := by decide
/-- R47's example rows. -/
theorem test_requant : requant 7 14 24576 = 2 ∧ requant 7 14 (-24576) = -1 ∧ requant 7 14 (-20480) = -1 ∧ requant 7 14 131071 = 7 := by decide
/-- R44's example encodings. -/
theorem test_f36 : (F36.ofInt 1).bits = 0x3F8000000 ∧ (F36.round true 7 (-1)).bits = 0xC06000000 := by decide
/-- R48's example split. -/
theorem test_split : ((splitPart 17179869377).1.bits, (splitPart 17179869377).2.bits) = (0x508000002, 0xC27C00000) := by decide
/-- R297's example: three short integrations in one part. -/
theorem test_ledger_part :
    (let a := splitPart 17179869377
     let b := updPart a.1 a.2 1000
     let c := updPart b.1 b.2 (-17179869184)
     (b.1.toInt, b.2.toInt, c.1.toInt, c.2.toInt)) = (17179870336, 41, 1193, 0) := by decide
/-- R12's and R441's example addresses. -/
theorem test_state_address : GAL_STATUS 5 = 0x516000000010 := by decide
/-- R209's example header. -/
theorem test_packet_header : pktHeader ⟨1, 0, 5, 2, 3, 0, 62, 0x123, List.replicate 32 0⟩ = 0xF8048FEC000800141 := by decide
/-- R178's example slots. -/
theorem test_slot_fields : mFields 0x2C0C338 = ⟨true, 3, 0, 12, 12, 56⟩ ∧ aFields 0x304202 = ⟨3, 0, 16, 32, 2⟩ := by decide
/-- The check value of the CRC-32 of R470. -/
theorem test_crc32 : crc32 [0x31, 0x32, 0x33, 0x34, 0x35, 0x36, 0x37, 0x38, 0x39] = 0xCBF43926 := by decide +kernel

/-! Single steps. -/

/-- R51: a write narrower than a slot sets PARTIAL_WR and nothing else. -/
theorem test_partial_write : after (step { hostUp with pending := [.partialWrite 1 0x10] }) (fun t => t.get (HP_STATUS_PARTIAL_WR 1) == 1 && t.pending == []) = true := by
  decide +kernel
/-- R70: a lane in ACQ that locks goes to HUNT. -/
theorem test_cdr_lock : after (exec (.cdrLock 7 15 true) ((inM mOBSERVE).put (LANE_STATUS_STATE 7 15) 1)) (fun t => t.get (LANE_STATUS_STATE 7 15) == 2) = true := by
  decide +kernel
end

/-! ### Octets of a slot (R49, R52) -/

namespace Sys2Proof

theorem toOctets_length : ∀ n x : Nat, (toOctets n x).length = n
  | 0, _ => rfl
  | n + 1, x => by rw [toOctets, List.length_cons, toOctets_length n]

/-- Octet `j` of a number holds its bits `[8j+7:8j]`. -/
theorem toOctets_getD : ∀ {n j : Nat} (x : Nat), j < n → (toOctets n x).getD j 0 = bitsOf x (8 * j) 8
  | n + 1, 0, x, _ => by simp [toOctets, bitsOf]
  | n + 1, j + 1, x, h => by
    rw [toOctets, List.getD_cons_succ, toOctets_getD (x / 256) (by omega), bitsOf, bitsOf, Nat.div_div_eq_div_mul,
      show 8 * (j + 1) = 8 + 8 * j by omega, Nat.pow_add]

/-- A slot's octets: the span word in bytes 0 to 8, then zero. -/
theorem slotOctets_singleton_getD (w : Word) (j : Nat) :
    (slotOctets [w]).getD j 0 = if 9 ≤ j then 0 else bitsOf w.toNat (8 * j) 8 := by
  have hlen : w.octets.length = 9 := toOctets_length 9 _
  rw [slotOctets, List.flatMap_singleton]
  split
  · rw [List.getD_append_right _ _ _ _ (by omega)]
    simp only [List.getD_eq_getElem?_getD, List.getElem?_replicate]
    split <;> rfl
  · rw [List.getD_append _ _ _ _ (by omega)]
    exact toOctets_getD _ (by omega)

end Sys2Proof

namespace Sys2Proof.Machine

open Reg

/-! ### Setting a sticky bit -/

theorem State.rd_raise_other (s : State) {f : RF} {a : Nat} (h : a ≠ f.addr) : (s.raise f).rd a = s.rd a :=
  State.rd_wr_other s _ h

/-! ### Reads through BAR0 (R11, R49, R50, R444) -/

/-- What a source reads at a BAR0 offset. -/
theorem State.barOctet_eq (s : State) (p off : Nat) : s.barOctet p off =
    if 9 ≤ off % 16 ∨ s.readDenied p (s.barAddr p (off / 16 * 16)) = true then 0
    else bitsOf (s.readSlot (s.barAddr p (off / 16 * 16))).toNat (8 * (off % 16)) 8 := by
  rw [State.barOctet, slotOctets_singleton_getD]
  by_cases hd : s.readDenied p (s.barAddr p (off / 16 * 16)) = true <;> simp [hd]

/-- R444 refuses the read of some slot of the `len` octets from BAR0 offset `addr` on. -/
def State.refusesRead (s : State) (p addr len : Nat) : Bool :=
  (List.range len).any fun i => s.readDenied p (s.barAddr p ((addr + i) / 16 * 16))

theorem State.refusesRead_eq_true_iff {s : State} {p addr len : Nat} : s.refusesRead p addr len = true ↔
    ∃ i, i < len ∧ s.readDenied p (s.barAddr p ((addr + i) / 16 * 16)) = true := by
  simp [State.refusesRead]

/-- A read of octets that lie in BAR0 through a port that is UP: the octets leave the block, and DENIED is set when R444 refuses
a slot among them. -/
theorem exec_deniedRead_of_up {s : State} {p addr len : Nat} (hp : p < 2) (hup : s.portState p = 1) (hlen : 1 ≤ len)
    (hend : addr + len ≤ 2 ^ 28) : exec (.deniedRead p addr len) s =
      .next (when (s.refusesRead p addr len) (·.raise (HP_STATUS_DENIED p))
        (s.emitOut (.hostRead p addr ((List.range len).map fun i => s.barOctet p (addr + i))))) := by
  have hguard : ¬ (2 ≤ p ∨ s.portState p ≠ 1 ∨ len = 0 ∨ 2 ^ 28 < addr + len) := by omega
  change execDeniedRead p addr s len = _
  rw [execDeniedRead, if_neg hguard]
  simp only [State.refusesRead, List.any_map, List.map_map, Function.comp_def, ok]

/-! ### State packets (R459, R460) -/

theorem State.hasCtrl_of_head {s : State} {p : Pkt} {sub : Nat} (hm : mMUSTER ≤ s.mode) (hi : s.inboxHead 8 p = true)
    (hv : p.vc = 2) (hs : p.sub = sub) : s.hasCtrl p sub = true := by
  simp [State.hasCtrl, hm, hi, hv, hs]

/-- A state packet whose count is not the reserved 31 names one slot more than its count. -/
theorem statePkt_of_count {p : Pkt} (hn : (p.payload.headD 0).bits 48 5 ≠ 31) :
    statePkt p = ((p.payload.headD 0).bits 0 48, (p.payload.headD 0).bits 48 5 + 1, (p.payload.headD 0).bits 53 16) := by
  rw [statePkt, if_neg hn]

/-- A state-read packet is answered slot by slot, and the answer's header tells of a refusal. -/
theorem exec_stateRead_of_head {s : State} {p : Pkt} (hc : s.hasCtrl p 3 = true) {a n tag : Nat}
    (hp : statePkt p = (a, n + 1, tag)) : exec (.stateRead p) s =
      let u := s.takeInbox 8 p
      let slots := (List.range (n + 1)).map fun i => a + 16 * i
      .next (u.originate 8 2 p.src 0 4
        (BitVec.ofNat 72 (tag + b2n (slots.any (u.readDenied (u.srcOfDev p.src))) * 2 ^ 16) ::
          slots.map fun x => if u.readDenied (u.srcOfDev p.src) x then 0 else u.readSlot x)) := by
  change execStateRead p s = _
  simp only [execStateRead, hc, hp, ok, Bool.true_eq_false, Nat.add_one_ne_zero, if_false]

/-- A state-write packet with too few words writes nothing and is answered with IGNORED. -/
theorem exec_stateWrite_of_short {s : State} {p : Pkt} (hc : s.hasCtrl p 5 = true) {a n tag : Nat}
    (hp : statePkt p = (a, n + 1, tag)) (hw : p.payload.length < n + 1 + 1) : exec (.stateWrite p) s =
      .next ((s.takeInbox 8 p).originate 8 2 p.src 0 6 [BitVec.ofNat 72 (tag + 2 ^ 16)]) := by
  change execStateWrite p s = _
  simp only [execStateWrite, hc, hp, hw, ok, Bool.true_eq_false, Nat.add_one_ne_zero, if_false, decide_true, Bool.true_or,
    if_true, b2n, Nat.one_mul]

/-- A state-write packet with a word for every slot writes each as far as its source reaches it, in ascending address. -/
theorem exec_stateWrite_of_full {s : State} {p : Pkt} (hc : s.hasCtrl p 5 = true) {a n tag : Nat}
    (hp : statePkt p = (a, n + 1, tag)) (hw : n + 1 + 1 ≤ p.payload.length) : exec (.stateWrite p) s =
      let u := s.takeInbox 8 p
      .next ((forAll (List.range (n + 1)) u fun v i =>
          v.reachWrite (u.srcOfDev p.src) (a + 16 * i) (p.payload.getD (i + 1) 0)).originate 8 2 p.src 0 6
        [BitVec.ofNat 72 (tag + b2n ((List.range (n + 1)).any fun i =>
          u.writeReach (u.srcOfDev p.src) (a + 16 * i) == .none) * 2 ^ 16)]) := by
  have hw' : ¬ p.payload.length < n + 1 + 1 := by omega
  change execStateWrite p s = _
  simp only [execStateWrite, hc, hp, hw', ok, Bool.true_eq_false, Nat.add_one_ne_zero, if_false, decide_false, Bool.false_or,
    Bool.false_eq_true]

/-- Settles O10. The octets are those of `State.barOctet_eq`; whether DENIED is set turns on `State.refusesRead`; the packets
are answered as `exec_stateRead_of_head` and the two lemmas of `exec (.stateWrite p)` say. -/
theorem readsHaveNoSideEffect : Obligations.ReadsHaveNoSideEffect := by
  unfold Obligations.ReadsHaveNoSideEffect
  refine ⟨?read, ?stateRead, ?stateWrite⟩
  case read =>
    intro s p addr len hp hup hlen hend slot
    refine ⟨_, (List.range len).map fun i => s.barOctet p (addr + i), exec_deniedRead_of_up hp hup hlen hend,
      ?_, by simp, ?_, ?_, ?_⟩
    · cases s.refusesRead p addr len <;> rfl
    · intro i hi
      simpa [List.getD_eq_getElem?_getD, hi] using s.barOctet_eq p (addr + i)
    · intro hnone
      have hr : s.refusesRead p addr len = false := by
        rw [← Bool.not_eq_true, State.refusesRead_eq_true_iff]
        rintro ⟨i, hi, hd⟩
        exact absurd hd (by simpa using hnone i hi)
      rw [hr]; rfl
    · intro hsome
      rw [State.refusesRead_eq_true_iff.mpr hsome]
      exact ⟨State.get_raise_same _ (by simp [HP_STATUS_DENIED]) (by simp [HP_STATUS_DENIED]), rfl, fun a ha => State.rd_raise_other _ ha⟩
  case stateRead =>
    intro s p hm hi hv hs hn
    exact exec_stateRead_of_head (State.hasCtrl_of_head hm hi hv hs) (statePkt_of_count hn)
  case stateWrite =>
    intro s p hm hi hv hs hn
    have hc := State.hasCtrl_of_head hm hi hv hs
    exact ⟨exec_stateWrite_of_short hc (statePkt_of_count hn), exec_stateWrite_of_full hc (statePkt_of_count hn)⟩

end Sys2Proof.Machine

namespace Sys2Proof.Machine

open Reg

/-! ### Writes that do not cover a slot (R51) -/

/-- A write to a field leaves the slot's other bits. -/
theorem State.getLsbD_rd_put_outside (s : State) {f : RF} (v : Nat) (hf : f.lo + f.wid ≤ 72) {i : Nat}
    (hi : i < f.lo ∨ f.lo + f.wid ≤ i) : ((s.put f v).rd f.addr).getLsbD i = (s.rd f.addr).getLsbD i := by
  rw [State.put, State.rd_wr_same, BitVec.getLsbD, BitVec.getLsbD, Word.toNat_upd _ _ hf, withBits_testBit]
  rcases hi with hi | hi
  · rw [if_pos hi]
  · rw [if_neg (by omega), if_neg (by omega)]

theorem exec_partialWrite_of_up {s : State} {p addr : Nat} (hp : p < 2) (hup : s.portState p = 1) (ha : addr < 2 ^ 28) :
    exec (.partialWrite p addr) s = .next (s.raise (HP_STATUS_PARTIAL_WR p)) := by
  have hguard : ¬ (2 ≤ p ∨ s.portState p ≠ 1 ∨ 2 ^ 28 ≤ addr) := by omega
  change execPartialWrite p addr s = _
  rw [execPartialWrite, if_neg hguard, ok]

theorem exec_registerWrite_of_unaligned {s : State} {p addr data : Nat} (hp : p < 2) (hup : s.portState p = 1) (ha : addr < 2 ^ 28)
    (hal : addr % 16 ≠ 0) : exec (.registerWrite p addr data) s = .next (s.raise (HP_STATUS_PARTIAL_WR p)) := by
  have hguard : ¬ (2 ≤ p ∨ s.portState p ≠ 1 ∨ 2 ^ 28 ≤ addr) := by omega
  change execRegisterWrite p addr data s = _
  rw [execRegisterWrite, if_neg hguard, if_pos hal, ok]

/-- Settles O8: both writes raise PARTIAL_WR of the port's HP_STATUS, a field of one bit, and do nothing else. -/
theorem partialWritesDoNothing : Obligations.PartialWritesDoNothing := by
  unfold Obligations.PartialWritesDoNothing
  intro s p addr data hp hup ha
  have hf : (HP_STATUS_PARTIAL_WR p).lo + (HP_STATUS_PARTIAL_WR p).wid ≤ 72 := by simp [HP_STATUS_PARTIAL_WR]
  refine ⟨⟨_, exec_partialWrite_of_up hp hup ha, ?set, fun a hne => State.rd_raise_other s hne, fun i hi => ?otherBits, rfl⟩,
    fun hal => ?unaligned⟩
  case set => exact State.get_raise_same s hf (by simp [HP_STATUS_PARTIAL_WR])
  case otherBits =>
    exact State.getLsbD_rd_put_outside s (f := HP_STATUS_PARTIAL_WR p) 1 hf (by simp only [HP_STATUS_PARTIAL_WR] at hi ⊢; omega)
  case unaligned => rw [exec_registerWrite_of_unaligned hp hup ha hal, exec_partialWrite_of_up hp hup ha]

end Sys2Proof.Machine

namespace Sys2Proof

/-! ### A fold that leaves a part of the state, and a fold taken twice -/

/-- What every step of a fold leaves, the fold leaves. -/
theorem foldl_leaves {σ β γ : Type} (π : σ → γ) {f : σ → β → σ} {l : List β} (h : ∀ s, ∀ x ∈ l, π (f s x) = π s) (s : σ) :
    π (l.foldl f s) = π s := by
  induction l generalizing s with
  | nil => rfl
  | cons x l ih => exact (ih (fun s y hy => h s y (List.mem_cons_of_mem x hy)) _).trans (h s x List.mem_cons_self)

/-- Steps that commute and each undo themselves undo themselves as a whole. -/
theorem foldl_append_self {σ β : Type} {f : σ → β → σ} [RightCommutative f] (hinv : ∀ s x, f (f s x) x = s) (l : List β) (s : σ) :
    (l ++ l).foldl f s = s := by
  induction l generalizing s with
  | nil => rfl
  | cons x l ih =>
    have hp : (x :: l ++ x :: l).Perm (x :: x :: (l ++ l)) := List.perm_middle.cons x
    rw [hp.foldl_eq, List.foldl_cons, List.foldl_cons, hinv, ih]

end Sys2Proof

namespace Sys2Proof.Machine

open Reg

/-! ### Slots of different blocks -/

theorem addrBlock_spanSlot (d : Nat) {b o : Nat} (hb : b < 2 ^ 8) (ho : o < 2 ^ 36) : addrBlock (spanSlot d b o) = b := by
  simp only [addrBlock, bitsOf, spanSlot]; omega

theorem State.get_put_of_block (s : State) {f g : RF} (v : Nat) (h : addrBlock g.addr ≠ addrBlock f.addr) :
    (s.put f v).get g = s.get g := State.get_put_other s v fun e => h (by rw [e])

theorem addrBlock_DRC_EVENTS (d : Nat) : addrBlock (DRC_EVENTS d) = 0x19 := addrBlock_spanSlot d (by omega) (by omega)

theorem addrBlock_DRC_CH_STATUS (d : Nat) {c : Nat} (hc : c < 2) : addrBlock (DRC_CH_STATUS d c) = 0x19 :=
  addrBlock_spanSlot d (by omega) (by omega)

theorem addrBlock_DRC_CH_ERR (d : Nat) {c u n : Nat} (hc : c < 2) (hu : u < 2) (hn : n ≤ 9) : addrBlock (DRC_CH_ERR d c u n) = 0x19 :=
  addrBlock_spanSlot d (by omega) (by omega)

theorem addrBlock_FLT_LIMITS2 (d : Nat) : addrBlock (FLT_LIMITS2 d) = 0x1E := addrBlock_spanSlot d (by omega) (by omega)

theorem addrBlock_UNIT_BKT (d : Nat) {u : Nat} (hu : u < 76) : addrBlock (UNIT_BKT d u) = 0x1E :=
  addrBlock_spanSlot d (by omega) (by omega)

theorem erasedF_addr (d c u : Nat) : (erasedF d c u).addr = DRC_CH_STATUS d c := by
  rw [erasedF]; split <;> rfl

/-! ### Performance counters change slots of block 0x1D only -/

/-- The list of wrapped counters is no register. -/
theorem State.get_set_wraps (s : State) (w : List (Nat × Nat)) (f : RF) : ({ s with wraps := w } : State).get f = s.get f := rfl

theorem State.get_count (s : State) (d n : Nat) {k : Nat} (hk : k < 64) {f : RF} (hf : addrBlock f.addr ≠ 0x1D) :
    (s.count d k n).get f = s.get f := by
  have hctr : addrBlock (PMON_CTR d k) = 0x1D := addrBlock_spanSlot d (by omega) (by omega)
  have hstatus : addrBlock (PMON_STATUS d) = 0x1D := addrBlock_spanSlot d (by omega) (by omega)
  have hevents : addrBlock (PMON_EVENTS d) = 0x1D := addrBlock_spanSlot d (by omega) (by omega)
  rw [State.count]
  have hvalue := State.get_put_of_block s (f := PMON_CTR_VALUE d k) (g := f) (s.get (PMON_CTR_VALUE d k) + n) (by rw [PMON_CTR_VALUE, hctr]; exact hf)
  split
  · exact hvalue
  · rw [State.raise, State.get_put_of_block _ _ (by rw [PMON_EVENTS_WRAP, hevents]; exact hf), State.putBit,
      State.get_put_of_block _ _ (by rw [PMON_STATUS_OVF, hstatus]; exact hf),
      State.get_put_of_block _ _ (by rw [PMON_CTR_OVF, hctr]; exact hf), State.get_set_wraps, hvalue]

@[simp] theorem State.count_dram (s : State) (d k n : Nat) : (s.count d k n).dram = s.dram := by
  rw [State.count]; split <;> simp

@[simp] theorem State.count_drcs (s : State) (d k n : Nat) : (s.count d k n).drcs = s.drcs := by
  rw [State.count]; split <;> simp

theorem State.get_pm (s : State) (d ev i n : Nat) {f : RF} (hf : addrBlock f.addr ≠ 0x1D) : (s.pm d ev i n).get f = s.get f := by
  rw [State.pm]
  split
  · rfl
  · refine foldl_leaves (State.get · f) (fun s k hk => State.get_count s d n ?_ hf) s
    exact List.mem_range.mp (List.mem_filter.mp hk).1

@[simp] theorem State.pm_dram (s : State) (d ev i n : Nat) : (s.pm d ev i n).dram = s.dram := by
  rw [State.pm]
  split
  · rfl
  · exact foldl_leaves State.dram (fun s k _ => State.count_dram s d k n) s

@[simp] theorem State.pm_drcs (s : State) (d ev i n : Nat) : (s.pm d ev i n).drcs = s.drcs := by
  rw [State.pm]
  split
  · rfl
  · exact foldl_leaves State.drcs (fun s k _ => State.count_drcs s d k n) s

@[simp] theorem State.drc_pm (s : State) (d ev i n j : Nat) : (s.pm d ev i n).drc j = s.drc j := by
  rw [State.drc, State.pm_drcs, State.drc]

/-! ### An ACTIVATE changes the count of neighbour refreshes only -/

@[simp] theorem State.activateRow_dram (s : State) (d : Nat) : (s.activateRow d).dram = s.dram := by
  rw [State.activateRow]; split <;> rfl

@[simp] theorem State.get_activateRow (s : State) (d : Nat) (f : RF) : (s.activateRow d).get f = s.get f := by
  rw [State.activateRow]; split <;> rfl

@[simp] theorem State.activateRow_queue (s : State) (d : Nat) : ((s.activateRow d).drc d).queue = (s.drc d).queue := by
  rw [State.activateRow]
  split
  · rw [State.drc_set_same]; rfl
  · rfl

/-! ### Saturating counters and buckets -/

theorem State.get_bumpBy_same (s : State) {f : RF} (n : Nat) (h : f.lo + f.wid ≤ 72) :
    (s.bumpBy f n).get f = min (2 ^ f.wid - 1) (s.get f + n) := by
  rw [State.bumpBy, State.get_put_same _ _ h, Nat.mod_eq_of_lt]
  have := Nat.two_pow_pos f.wid
  omega

theorem State.get_chargeBy_same (s : State) (x : UnitId) (i n : Nat) {f : RF} (h : f.lo + f.wid ≤ 72) :
    (s.chargeBy x i f n).get f = min (2 ^ f.wid - 1) (s.get f + n) := by
  rw [State.chargeBy, State.get_bumpBy_same _ _ h]
  split <;> rfl

theorem State.get_chargeBy_other (s : State) (x : UnitId) (i n : Nat) {f g : RF} (h : g.addr ≠ f.addr) :
    (s.chargeBy x i f n).get g = s.get g := by
  rw [State.chargeBy, State.bumpBy, State.get_put_other _ _ h]
  split <;> rfl

/-! ### Corrections that stay within the bucket (R419, R537) -/

/-- The counter of a device's corrections: those of reads or those of scrubbing. -/
def corrCounter (scrub : Bool) (d c u n : Nat) : RF := if scrub then DRC_CH_ERR_SCRUB_CORR d c u n else DRC_CH_ERR_CORR d c u n

theorem corrCounter_addr (scrub : Bool) (d c u n : Nat) : (corrCounter scrub d c u n).addr = DRC_CH_ERR d c u n := by
  cases scrub <;> rfl

theorem corrCounter_wid (scrub : Bool) (d c u n : Nat) : (corrCounter scrub d c u n).wid = 24 := by cases scrub <;> rfl

theorem corrCounter_fits (scrub : Bool) (d c u n : Nat) : (corrCounter scrub d c u n).lo + (corrCounter scrub d c u n).wid ≤ 72 := by
  cases scrub <;> simp [corrCounter, DRC_CH_ERR_CORR, DRC_CH_ERR_SCRUB_CORR]

/-- Corrections of a device counted, charged to its bucket and told. -/
def State.correctionsCounted (s : State) (d c u n k : Nat) (scrub : Bool) : State :=
  ((s.bumpBy (corrCounter scrub d c u n) k).chargeBy ⟨d, 7, 20 * c + 10 * u + n⟩ 0 (UNIT_BKT_BKT_A d (36 + 20 * c + 10 * u + n)) k).raise
    (DRC_EVENTS_CORR d)

section
variable {s : State} {d c u n k : Nat} {scrub : Bool}

theorem State.correctionsCounted_dram : (s.correctionsCounted d c u n k scrub).dram = s.dram := by
  rw [State.correctionsCounted, State.chargeBy]; split <;> simp

theorem State.correctionsCounted_now : (s.correctionsCounted d c u n k scrub).now = s.now := by
  rw [State.correctionsCounted, State.chargeBy]; split <;> simp

theorem State.correctionsCounted_drcs : (s.correctionsCounted d c u n k scrub).drcs = s.drcs := by
  rw [State.correctionsCounted, State.chargeBy]; split <;> simp

theorem State.get_correctionsCounted_event : (s.correctionsCounted d c u n k scrub).get (DRC_EVENTS_CORR d) = 1 :=
  State.get_raise_same _ (by simp [DRC_EVENTS_CORR]) (by simp [DRC_EVENTS_CORR])

variable (hc : c < 2) (hu : u < 2) (hn : n ≤ 9)
include hc hu hn

/-- A field of the device's slot of corrections: only the counter that is raised changes it. -/
theorem State.get_correctionsCounted_of_addr {g : RF} (hg : g.addr = DRC_CH_ERR d c u n) :
    (s.correctionsCounted d c u n k scrub).get g = (s.bumpBy (corrCounter scrub d c u n) k).get g := by
  have hevents : g.addr ≠ (DRC_EVENTS_CORR d).addr := by
    rw [hg]; simp only [DRC_CH_ERR, DRC_EVENTS_CORR, DRC_EVENTS, spanSlot]; omega
  have hbucket : addrBlock g.addr ≠ addrBlock (UNIT_BKT d (36 + 20 * c + 10 * u + n)) := by
    rw [hg, addrBlock_DRC_CH_ERR d hc hu hn, addrBlock_UNIT_BKT d (by omega)]; omega
  rw [State.correctionsCounted, State.raise, State.get_put_other _ _ hevents,
    State.get_chargeBy_other _ _ _ _ fun e => hbucket (by rw [e]; rfl)]

theorem State.get_correctionsCounted_counter : (s.correctionsCounted d c u n k scrub).get (corrCounter scrub d c u n) =
    min (2 ^ 24 - 1) (s.get (corrCounter scrub d c u n) + k) := by
  rw [State.get_correctionsCounted_of_addr hc hu hn (corrCounter_addr scrub d c u n),
    State.get_bumpBy_same _ _ (corrCounter_fits scrub d c u n), corrCounter_wid]

/-- Scrubbing leaves the count of the corrections of reads. -/
theorem State.get_correctionsCounted_scrub_corr : (s.correctionsCounted d c u n k true).get (DRC_CH_ERR_CORR d c u n) =
    s.get (DRC_CH_ERR_CORR d c u n) := by
  rw [State.get_correctionsCounted_of_addr hc hu hn rfl, State.bumpBy]
  exact State.get_put_disjoint s (f := DRC_CH_ERR_SCRUB_CORR d c u n) _ rfl (by simp [DRC_CH_ERR_SCRUB_CORR])
    (by simp [DRC_CH_ERR_SCRUB_CORR, DRC_CH_ERR_CORR])

/-- Corrections that leave the device's bucket within the limit are counted, and no device is deaccessioned. -/
theorem State.corrections_of_below (hk : 0 < k) (he : s.get (erasedF d c u) = 15)
    (hb : s.get (UNIT_BKT_BKT_A d (36 + 20 * c + 10 * u + n)) + k ≤ s.get (FLT_LIMITS2_DRAM_THRESH d)) :
    s.corrections d c u n k scrub = s.correctionsCounted d c u n k scrub := by
  have hguard : ¬ (n > 9 ∨ k = 0 ∨ s.get (erasedF d c u) ≠ 15) := by omega
  have hlevel : (s.correctionsCounted d c u n k scrub).get (UNIT_BKT_BKT_A d (36 + 20 * c + 10 * u + n)) ≤
      s.get (UNIT_BKT_BKT_A d (36 + 20 * c + 10 * u + n)) + k := by
    have hblock : addrBlock (UNIT_BKT_BKT_A d (36 + 20 * c + 10 * u + n)).addr = 0x1E := addrBlock_UNIT_BKT d (by omega)
    rw [State.correctionsCounted, State.raise,
      State.get_put_of_block _ _ (by rw [hblock, DRC_EVENTS_CORR, addrBlock_DRC_EVENTS]; omega),
      State.get_chargeBy_same _ _ _ _ (by simp [UNIT_BKT_BKT_A]), State.bumpBy,
      State.get_put_of_block _ _ (by rw [hblock, corrCounter_addr, addrBlock_DRC_CH_ERR d hc hu hn]; omega)]
    exact Nat.min_le_right _ _
  rw [State.corrections, if_neg hguard]
  exact if_neg (Nat.not_lt.mpr (hlevel.trans hb))

end

/-! ### Wrong bits taken out of a burst (R54, R56) -/

theorem set_getD_xor_eq_modify (ws : List Word) (i : Nat) (m : Word) : ws.set i (ws.getD i 0 ^^^ m) = ws.modify i (· ^^^ m) := by
  rw [List.modify_eq_set, List.getD_eq_getElem?_getD]; rfl

/-- The word of a burst in which nibble `k` of code symbol `p` travels (R54). -/
def nibbleWord (p k : Nat) : Nat := (4 * ((p - 4) % 4) + k) / 2

/-- Nibble `k` of `v` at the place of code symbol `p` in its word. -/
def nibbleMask (p v k : Nat) : Word :=
  BitVec.ofNat 72 (bitsOf v (4 * k) 4 * 2 ^ (36 * ((4 * ((p - 4) % 4) + k) % 2) + 4 * ((p - 4) / 4)))

/-- Nibble `k` of code symbol `p` of a burst changed by that of `v`. -/
def flipNibble (p v : Nat) (ws : List Word) (k : Nat) : List Word := ws.modify (nibbleWord p k) (· ^^^ nibbleMask p v k)

theorem flipNibble_flipNibble_self (p v k : Nat) (ws : List Word) : flipNibble p v (flipNibble p v ws k) k = ws := by
  have hid : (· ^^^ nibbleMask p v k) ∘ (· ^^^ nibbleMask p v k) = id := by
    funext x; simp
  rw [flipNibble, flipNibble, List.modify_modify_eq, hid, List.modify_id]

theorem flipNibble_comm (p v k l : Nat) (ws : List Word) :
    flipNibble p v (flipNibble p v ws k) l = flipNibble p v (flipNibble p v ws l) k := by
  simp only [flipNibble]
  by_cases h : nibbleWord p k = nibbleWord p l
  · have hcomm : (· ^^^ nibbleMask p v l) ∘ (· ^^^ nibbleMask p v k) = (· ^^^ nibbleMask p v k) ∘ (· ^^^ nibbleMask p v l) := by
      funext x; simp only [Function.comp_apply, BitVec.xor_assoc, BitVec.xor_comm (nibbleMask p v k)]
    rw [h, List.modify_modify_eq, List.modify_modify_eq, hcomm]
  · rw [List.modify_modify_ne _ _ _ h]

theorem flipWords_singleton {p : Nat} (hp : 4 ≤ p) (v : Nat) (ws : List Word) :
    flipWords [(p, v)] ws = (List.range 4).foldl (flipNibble p v) ws := by
  rw [flipWords, List.filter_cons_of_pos (by simpa using hp), List.filter_nil, List.foldl_cons, List.foldl_nil]
  simp only [set_getD_xor_eq_modify]
  rfl

theorem flipWords_append (es xs : List (Nat × Nat)) (ws : List Word) : flipWords (es ++ xs) ws = flipWords xs (flipWords es ws) := by
  rw [flipWords, List.filter_append, List.foldl_append]; rfl

/-- The same wrong symbol taken out again. -/
theorem flipWords_pair_self (p v : Nat) (ws : List Word) : flipWords ([(p, v)] ++ [(p, v)]) ws = ws := by
  have hcomm : RightCommutative (flipNibble p v) := ⟨fun ws k l => flipNibble_comm p v k l ws⟩
  by_cases hp : 4 ≤ p
  · rw [flipWords_append, flipWords_singleton hp, flipWords_singleton hp, ← List.foldl_append]
    exact foldl_append_self (fun ws k => flipNibble_flipNibble_self p v k ws) _ ws
  · simp [flipWords, hp]

/-! ### A controller reads a burst (R56 to R58, R414) -/

/-- The state in which a burst's words are read: its pending writes have issued. -/
def State.atRead (s : State) (d burst : Nat) : State :=
  ((s.setDrc d { s.drc d with queue := (s.drc d).queue.filter (· != burst) }).pm d 0x60 (burstChan burst) 1).activateRow d

theorem State.atRead_dram (s : State) (d burst : Nat) : (s.atRead d burst).dram = s.dram := by
  rw [State.atRead, State.activateRow_dram, State.pm_dram, State.setDrc_dram]

theorem State.atRead_rdMems (s : State) (d burst a n : Nat) : (s.atRead d burst).rdMems d a n = s.rdMems d a n := by
  rw [State.rdMems, State.atRead_dram, State.rdMems]

theorem State.atRead_queue (s : State) (d burst : Nat) : ((s.atRead d burst).drc d).queue = (s.drc d).queue.filter (· ≠ burst) := by
  rw [State.atRead, State.activateRow_queue, State.drc_pm, State.drc_set_same]
  simp only [bne, decide_not, beq_eq_decide]

theorem State.get_atRead (s : State) (d burst : Nat) {f : RF} (hf : addrBlock f.addr ≠ 0x1D) : (s.atRead d burst).get f = s.get f := by
  rw [State.atRead, State.get_activateRow, State.get_pm _ _ _ _ _ hf, State.get_setDrc]

theorem burstChan_lt (burst : Nat) : burstChan burst < 2 := Nat.mod_lt _ (by omega)

theorem burstSub_lt (burst : Nat) : burstSub burst < 2 := Nat.mod_lt _ (by omega)

/-- The device of a subchannel that a read takes for erased. -/
theorem State.get_atRead_erasedF (s : State) (d burst : Nat) :
    (s.atRead d burst).get (erasedF d (burstChan burst) (burstSub burst)) = s.get (erasedF d (burstChan burst) (burstSub burst)) :=
  State.get_atRead s d burst (by rw [erasedF_addr, addrBlock_DRC_CH_STATUS d (burstChan_lt burst)]; omega)

theorem symDevice_le {p : Nat} (hp : p < 40) : symDevice p ≤ 9 := by
  rw [symDevice]; split <;> omega

/-- The correction of a read, where the bucket stays within its limit. -/
theorem State.corrections_atRead {s : State} {d burst n : Nat} (hn : n ≤ 9)
    (he : s.get (erasedF d (burstChan burst) (burstSub burst)) = 15)
    (hlimit : s.get (UNIT_BKT_BKT_A d (36 + 20 * burstChan burst + 10 * burstSub burst + n)) + 1 ≤ s.get (FLT_LIMITS2_DRAM_THRESH d)) :
    (s.atRead d burst).corrections d (burstChan burst) (burstSub burst) n 1 false =
      (s.atRead d burst).correctionsCounted d (burstChan burst) (burstSub burst) n 1 false := by
  have hc := burstChan_lt burst
  have hu := burstSub_lt burst
  have hbucket : addrBlock (UNIT_BKT_BKT_A d (36 + 20 * burstChan burst + 10 * burstSub burst + n)).addr ≠ 0x1D := by
    rw [UNIT_BKT_BKT_A, addrBlock_UNIT_BKT d (by omega)]; omega
  have hthresh : addrBlock (FLT_LIMITS2_DRAM_THRESH d).addr ≠ 0x1D := by
    rw [FLT_LIMITS2_DRAM_THRESH, addrBlock_FLT_LIMITS2]; omega
  exact State.corrections_of_below hc hu hn Nat.one_pos ((State.get_atRead_erasedF s d burst).trans he)
    (by rw [State.get_atRead _ _ _ hbucket, State.get_atRead _ _ _ hthresh]; exact hlimit)

section
variable {s : State} {d burst store : Nat} (hready : s.chanReady d (burstChan burst) = true) (hburst : burst < s.dieBursts d)
include hready hburst

/-- A read without wrong symbols changes no word. -/
theorem exec_dramRead_of_clean (he : s.get (erasedF d (burstChan burst) (burstSub burst)) = 15)
    (hdec : decodeBurst (readSyndromes (s.rdMems d (8 * burst) 8) []) = .clean) :
    exec (.dramRead d burst store []) s = .next (s.atRead d burst) := by
  change execDramRead d burst store [] s = _
  rw [execDramRead, if_pos ⟨hready, hburst⟩]
  simp only [← State.atRead.eq_def, State.get_atRead_erasedF, State.atRead_rdMems, he, List.filter_nil, hdec, if_true, ok]

/-- A read of right words with a device erased changes no word and counts nothing. -/
theorem exec_dramRead_of_erased (he : s.get (erasedF d (burstChan burst) (burstSub burst)) ≠ 15)
    (hdec : decodeErased (readSyndromes (s.rdMems d (8 * burst) 8) []) (s.get (erasedF d (burstChan burst) (burstSub burst))) = .fix []) :
    exec (.dramRead d burst store []) s = .next (s.atRead d burst) := by
  have hnone : flipWords ([] ++ []) (s.rdMems d (8 * burst) 8) = s.rdMems d (8 * burst) 8 := rfl
  change execDramRead d burst store [] s = _
  rw [execDramRead, if_pos ⟨hready, hburst⟩]
  simp only [← State.atRead.eq_def, State.get_atRead_erasedF, State.atRead_rdMems, he, List.filter_nil, hdec, hnone, if_true, if_false, ok]

/-- One wrong symbol that the decoder locates is taken out again and counted against its device. -/
theorem exec_dramRead_of_located {p v : Nat} (hp : p < 40) (hv : v % 2 ^ 16 ≠ 0) (he : s.get (erasedF d (burstChan burst) (burstSub burst)) = 15)
    (hdec : decodeBurst (readSyndromes (s.rdMems d (8 * burst) 8) [(p, v)]) = .fix [(p, v)]) :
    exec (.dramRead d burst store [(p, v)]) s =
      .next (((s.atRead d burst).corrections d (burstChan burst) (burstSub burst) (symDevice p) 1 false).pm d 0x63 (burstChan burst) 1) := by
  have hes : [(p, v)].filter (fun e => decide (e.1 < 40) && e.2 % 2 ^ 16 != 0) = [(p, v)] := by
    simpa [hp] using hv
  have hdevs : ([(p, v)].map fun e => symDevice e.1).dedup = [symDevice p] := rfl
  change execDramRead d burst store [(p, v)] s = _
  rw [execDramRead, if_pos ⟨hready, hburst⟩]
  simp only [← State.atRead.eq_def, State.get_atRead_erasedF, State.atRead_rdMems, he, hes, hdec, flipWords_pair_self, hdevs, forAll,
    List.foldl_cons, List.foldl_nil, if_true, ok]

/-- A read of wrong symbols that the decoder cannot correct is poisoned. -/
theorem exec_dramRead_of_uncorr {errs : List (Nat × Nat)} (herrs : ∀ e ∈ errs, e.1 < 40 ∧ e.2 % 2 ^ 16 ≠ 0)
    (he : s.get (erasedF d (burstChan burst) (burstSub burst)) = 15)
    (hdec : decodeBurst (readSyndromes (s.rdMems d (8 * burst) 8) errs) = .uncorr) :
    exec (.dramRead d burst store errs) s = .next ((s.atRead d burst).poisoned d burst store) := by
  have hes : errs.filter (fun e => decide (e.1 < 40) && e.2 % 2 ^ 16 != 0) = errs :=
    List.filter_eq_self.mpr fun e h => by simpa [(herrs e h).1] using (herrs e h).2
  change execDramRead d burst store errs s = _
  rw [execDramRead, if_pos ⟨hready, hburst⟩]
  simp only [← State.atRead.eq_def, State.get_atRead_erasedF, State.atRead_rdMems, he, hes, hdec, if_true, ok]

end

/-! ### An uncorrectable read stays reported (R546) -/

theorem State.get_queueEvt (s : State) (e : Evt) {f : RF} (hf : f.addr ≠ PKC_DROP) : (s.queueEvt e).get f = s.get f := by
  rw [State.queueEvt]
  split
  · rfl
  · exact State.get_put_other _ (f := PKC_DROP_EVT_DROPPED) _ hf

theorem State.get_emit (s : State) (code die kind unit a b : Nat) {f : RF} (hf : f.addr ≠ PKC_DROP) :
    (s.emit code die kind unit a b).get f = s.get f := State.get_queueEvt s _ hf

theorem DRC_EVENTS_ne_PKC_DROP (d : Nat) : DRC_EVENTS d ≠ PKC_DROP := by
  simp only [DRC_EVENTS, PKC_DROP, spanSlot, keepSlot]; omega

theorem State.get_uncorr (s : State) (d addr blk store : Nat) : (s.uncorr d addr blk store).get (DRC_EVENTS_UNCORR d) = 1 := by
  rw [State.uncorr, State.get_emit _ _ _ _ _ _ _ (DRC_EVENTS_ne_PKC_DROP d)]
  exact State.get_raise_same s (by simp [DRC_EVENTS_UNCORR]) (by simp [DRC_EVENTS_UNCORR])

theorem State.get_flagBurst (s : State) (d a : Nat) (g : Nat → Nat) (f : RF) : (s.flagBurst d a g).get f = s.get f :=
  foldl_leaves (State.get · f) (fun s _ _ => State.get_wrMem s _ _ _ f) s

theorem State.get_flagCopy (s : State) (d a : Nat) (f : RF) : (s.flagCopy d a).get f = s.get f := by
  rw [State.flagCopy]
  split
  · exact State.get_setCte _ _ _ f
  · exact State.get_flagBurst _ _ _ _ f

theorem State.get_poisonGroup (s : State) (d b g nsi : Nat) {f : RF} (hf : addrBlock f.addr ≠ 0x17) :
    (s.poisonGroup d b g nsi).get f = s.get f := by
  have hevents : addrBlock (LED_EVENTS d) = 0x17 := addrBlock_spanSlot d (by omega) (by omega)
  have hcount : addrBlock (LED_COUNT1 d) = 0x17 := addrBlock_spanSlot d (by omega) (by omega)
  rw [State.poisonGroup, State.raise, State.get_put_of_block _ _ (by rw [LED_EVENTS_SAT, hevents]; exact hf), State.raise,
    State.get_put_of_block _ _ (by rw [LED_EVENTS_POISON, hevents]; exact hf), State.bump, State.bumpBy,
    State.get_put_of_block _ _ (by rw [LED_COUNT1_POISONED, hcount]; exact hf)]
  simp only [State.setGroup, State.get_wrMems]

theorem State.get_poisoned (s : State) (d a k : Nat) : (s.poisoned d a k).get (DRC_EVENTS_UNCORR d) = 1 := by
  have huncorr := State.get_uncorr s d (8 * a) (storeCode k).1 (storeCode k).2
  unfold State.poisoned
  generalize s.uncorr d (8 * a) (storeCode k).1 (storeCode k).2 = s1 at huncorr ⊢
  split
  · rw [State.get_flagBurst, huncorr]
  · rw [State.get_flagBurst, huncorr]
  · rw [State.get_flagCopy, huncorr]
  · rw [State.get_flagBurst, huncorr]
  · rw [State.get_setAcu, huncorr]
  · dsimp only
    split
    · rw [State.get_emit _ _ _ _ _ _ _ (DRC_EVENTS_ne_PKC_DROP d),
        State.get_poisonGroup _ _ _ _ _ (by rw [DRC_EVENTS_UNCORR, addrBlock_DRC_EVENTS]; omega), huncorr]
    · exact huncorr
  · rw [State.get_setBe, huncorr]
  · exact huncorr
  · exact huncorr

/-! ### Writes enter the queue with their words (R414, R415, R435) -/

/-- A word of a run of consecutive writes reads back. -/
theorem Store.get_putList_getD {α : Type} [DecidableEq α] (d : Nat → α) (x : α) (vs : List α) :
    ∀ (m : Store α) (k i : Nat), i < vs.length → Store.get d (Store.putList d m k vs) (k + i) = vs.getD i x := by
  induction vs with
  | nil => intro m k i h; exact absurd h (Nat.not_lt_zero i)
  | cons v vs ih =>
    intro m k i h
    cases i with
    | zero => rw [Store.putList, Store.get_putList_other _ _ _ _ _ (by omega), Nat.add_zero, Store.get_put_same, List.getD_cons_zero]
    | succ i =>
      rw [Store.putList, List.getD_cons_succ, ← ih (Store.put d m k v) (k + 1) i (Nat.lt_of_succ_lt_succ h), Nat.add_assoc, Nat.add_comm 1]

theorem dramKey_add (d a i : Nat) : dramKey d (a + i) = dramKey d a + i := (Nat.add_assoc _ _ _).symm

theorem State.queueWrite_dram (s : State) (d burst : Nat) (ws : List Word) :
    (s.queueWrite d burst ws).dram = Store.putList dramInit s.dram (dramKey d (8 * burst)) (ws.take 8) := by
  rw [State.queueWrite, State.activateRow_dram, State.pm_dram, State.setDrc_dram, State.wrMems]

theorem State.queueWrite_queue (s : State) (d burst : Nat) (ws : List Word) :
    ((s.queueWrite d burst ws).drc d).queue = (s.drc d).queue ++ [burst] := by
  rw [State.queueWrite, State.activateRow_queue, State.drc_pm, State.drc_set_same, State.drc, State.wrMems_drcs, State.drc]

/-- Only the words of the burst change. -/
theorem State.queueWrite_other (s : State) {d burst : Nat} (ws : List Word) {key : Nat}
    (h : key < dramKey d (8 * burst) ∨ dramKey d (8 * burst) + 8 ≤ key) :
    Store.get dramInit (s.queueWrite d burst ws).dram key = Store.get dramInit s.dram key := by
  have hlen : (ws.take 8).length ≤ 8 := List.length_take_le 8 ws
  rw [State.queueWrite_dram, Store.get_putList_other _ _ _ _ _ (by omega)]

theorem State.queueWrite_same (s : State) (d burst : Nat) {ws : List Word} (hlen : ws.length = 8) {i : Nat} (hi : i < 8) :
    (s.queueWrite d burst ws).rdMem d (8 * burst + i) = ws.getD i 0 := by
  have hall : ws.take 8 = ws := List.take_of_length_le (by omega)
  rw [State.rdMem, State.queueWrite_dram, hall, dramKey_add]
  exact Store.get_putList_getD _ 0 ws _ _ i (by omega)

theorem State.rdMem_queueWrite_other (s : State) {d burst b : Nat} (ws : List Word) (h : b ≠ burst) {i : Nat} (hi : i < 8) :
    (s.queueWrite d burst ws).rdMem d (8 * b + i) = s.rdMem d (8 * b + i) := by
  rw [State.rdMem, State.queueWrite_other s ws (by simp only [dramKey]; omega), State.rdMem]

/-- The bursts of a unit write taken one after the other. -/
def State.queueWrites (s : State) (d : Nat) (bursts : List (Nat × List Word)) : State :=
  forAll bursts s fun s b => s.queueWrite d b.1 b.2

theorem State.queueWrites_queue (d : Nat) (bursts : List (Nat × List Word)) : ∀ s : State,
    ((s.queueWrites d bursts).drc d).queue = (s.drc d).queue ++ bursts.map Prod.fst := by
  induction bursts with
  | nil => intro s; exact (List.append_nil _).symm
  | cons b bs ih =>
    intro s
    have h := ih (s.queueWrite d b.1 b.2)
    rwa [State.queueWrite_queue, List.append_assoc] at h

/-- A burst that is not among those written keeps its words. -/
theorem State.queueWrites_other (s : State) {d b : Nat} {bursts : List (Nat × List Word)} (hb : b ∉ bursts.map Prod.fst) {i : Nat}
    (hi : i < 8) : (s.queueWrites d bursts).rdMem d (8 * b + i) = s.rdMem d (8 * b + i) := by
  refine foldl_leaves (State.rdMem · d (8 * b + i)) (fun s x hx => ?_) s
  exact State.rdMem_queueWrite_other s x.2 (fun e => hb (List.mem_map.mpr ⟨x, hx, e.symm⟩)) hi

theorem State.queueWrites_same {d : Nat} {bursts : List (Nat × List Word)} (hnd : (bursts.map Prod.fst).Nodup) {b : Nat × List Word}
    (hb : b ∈ bursts) (hlen : b.2.length = 8) {i : Nat} (hi : i < 8) (s : State) :
    (s.queueWrites d bursts).rdMem d (8 * b.1 + i) = b.2.getD i 0 := by
  induction bursts generalizing s with
  | nil => exact absurd hb List.not_mem_nil
  | cons x xs ih =>
    obtain ⟨hx, hxs⟩ := List.nodup_cons.mp hnd
    rcases List.mem_cons.mp hb with rfl | hb
    · exact (State.queueWrites_other _ hx hi).trans (State.queueWrite_same s d b.1 hlen hi)
    · exact ih hxs hb _

theorem exec_dramWrite_of_ready {s : State} {d burst : Nat} (hready : s.chanReady d (burstChan burst) = true)
    (hburst : burst < s.dieBursts d) (ws : List Word) : exec (.dramWrite d burst ws) s = .next (s.queueWrite d burst ws) := by
  change execDramWrite d burst ws s = _
  rw [execDramWrite, if_pos ⟨hready, hburst⟩, ok]

/-- Every controller that a unit write needs serves writes and has room. -/
def State.unitRoom (s : State) (d room : Nat) (bursts : List (Nat × List Word)) : Bool :=
  bursts.all fun b => s.chanReady d (burstChan b.1) && bit room (burstChan b.1) && decide (b.1 < s.dieBursts d)

theorem State.unitRoom_eq_false {s : State} {d room : Nat} {bursts : List (Nat × List Word)}
    (h : (bursts.any fun b => !bit room (burstChan b.1)) = true) : s.unitRoom d room bursts = false := by
  obtain ⟨b, hb, hroom⟩ := List.any_eq_true.mp h
  refine List.all_eq_false.mpr ⟨b, hb, ?_⟩
  simp only [Bool.not_eq_true'] at hroom
  simp [hroom]

theorem exec_unitWrite_of_room {s : State} {d room : Nat} {bursts : List (Nat × List Word)}
    (hlen : bursts.length = 2 ∨ bursts.length = 3) (h : s.unitRoom d room bursts = true) :
    exec (.unitWrite d room bursts) s = .next (s.queueWrites d bursts) := by
  change execUnitWrite d room bursts s = _
  rw [execUnitWrite, if_pos ⟨hlen, h⟩, ok, State.queueWrites]

theorem exec_unitWrite_of_full {s : State} {d room : Nat} {bursts : List (Nat × List Word)}
    (h : s.unitRoom d room bursts = false) : exec (.unitWrite d room bursts) s = .next s := by
  have hguard : ¬ ((bursts.length = 2 ∨ bursts.length = 3) ∧ s.unitRoom d room bursts = true) := by simp [h]
  change execUnitWrite d room bursts s = _
  exact if_neg hguard

theorem State.chan_lt_of_chanReady {s : State} {d c : Nat} (h : s.chanReady d c = true) : c < 2 := by
  simp only [State.chanReady, Bool.and_eq_true, decide_eq_true_eq] at h
  exact h.1.2

/-! ### Refresh and scrubbing (R417, R419, R420) -/

/-- Refreshes postponed on a subchannel. -/
def State.postponed (s : State) (d c u : Nat) : Nat := Store.get (fun _ => 0) (s.drc d).postponed (2 * c + u)

section
variable {s : State} {d c : Nat} (hready : s.chanReady d c = true)
include hready

theorem exec_refreshInterval_of_postpone {u : Nat} (hu : u < 2) (hpanic : (s.acu d).panic = true)
    (hroom : s.postponed d c u < s.get (DRC_QOS_REF_POST_MAX d)) : exec (.refreshInterval d c u) s =
      .next (((s.setDrc d { s.drc d with postponed := Store.put (fun _ => 0) (s.drc d).postponed (2 * c + u) (s.postponed d c u + 1) }).bump
        (DRC_COUNT_REF_POSTPONED d)).raise (DRC_EVENTS_REF_POSTPONED d)) := by
  change execRefreshInterval d c u s = _
  rw [execRefreshInterval, if_pos ⟨hready, hu⟩]
  exact if_pos ⟨hpanic, hroom⟩

theorem exec_refreshInterval_of_issue {u : Nat} (hu : u < 2)
    (h : (s.acu d).panic = false ∨ s.get (DRC_QOS_REF_POST_MAX d) ≤ s.postponed d c u) : exec (.refreshInterval d c u) s =
      .next (s.setDrc d { s.drc d with refreshes := (s.drc d).refreshes + 1 }) := by
  have hguard : ¬ ((s.acu d).panic = true ∧ s.postponed d c u < s.get (DRC_QOS_REF_POST_MAX d)) := by
    rintro ⟨hp, hr⟩
    rcases h with h | h
    · rw [h] at hp; exact absurd hp (by decide)
    · omega
  change execRefreshInterval d c u s = _
  rw [execRefreshInterval, if_pos ⟨hready, hu⟩]
  exact if_neg hguard

/-- The scrub pass of a channel at its time, and the time of the next. -/
def State.scrubbed (s : State) (d c : Nat) : State :=
  let s1 := s.advance (Store.get (fun _ => 0) (s.drc d).scrubAt c)
  s1.setDrc d { s1.drc d with
    scrubAt := Store.put (fun _ => 0) (s1.drc d).scrubAt c (s1.now + s.get (DRC_MAINT_SCRUB_H d) * 3600 * tSec) }

theorem exec_scrubPass_of_one {u n k : Nat} (hu : u < 2) :
    exec (.scrubPass d c [(u, n, k)]) s = .next ((s.scrubbed d c).corrections d c u n k true) := by
  change execScrubPass d c [(u, n, k)] s = _
  rw [execScrubPass, if_pos hready]
  simp only [forAll, List.foldl_cons, List.foldl_nil, hu, if_true, ok, State.scrubbed]

end

theorem State.get_scrubbed (s : State) (d c : Nat) (f : RF) : (s.scrubbed d c).get f = s.get f := by
  rw [State.scrubbed, State.get_setDrc, State.get_advance]

theorem State.scrubbed_now (s : State) (d c : Nat) : (s.scrubbed d c).now = max s.now (Store.get (fun _ => 0) (s.drc d).scrubAt c) := rfl

theorem State.scrubbed_scrubAt (s : State) (d c : Nat) : Store.get (fun _ => 0) ((s.scrubbed d c).drc d).scrubAt c =
    (s.scrubbed d c).now + s.get (DRC_MAINT_SCRUB_H d) * 3600 * tSec := by
  rw [State.scrubbed, State.drc_set_same]
  exact Store.get_put_same _ _ _ _

/-- The corrections of a pass, where the bucket stays within its limit. -/
theorem State.corrections_scrubbed {s : State} {d c u n k : Nat} (hc : c < 2) (hu : u < 2) (hn : n ≤ 9) (hk : 0 < k)
    (he : s.get (erasedF d c u) = 15)
    (hlimit : s.get (UNIT_BKT_BKT_A d (36 + 20 * c + 10 * u + n)) + k ≤ s.get (FLT_LIMITS2_DRAM_THRESH d)) :
    (s.scrubbed d c).corrections d c u n k true = (s.scrubbed d c).correctionsCounted d c u n k true :=
  State.corrections_of_below hc hu hn hk ((State.get_scrubbed s d c _).trans he)
    (by rw [State.get_scrubbed, State.get_scrubbed]; exact hlimit)

/-! ### The journal port drains (R420) -/

theorem dramKey_inj {d a b : Nat} : dramKey d a = dramKey d b ↔ a = b := by simp only [dramKey]; omega

/-- Words of a die written one after the other. -/
def State.wrEach (s : State) (d : Nat) (es : List (Nat × Word)) : State := forAll es s fun s e => s.wrMem d e.1 e.2

theorem State.wrEach_other (s : State) {d key : Nat} {es : List (Nat × Word)} (h : ∀ e ∈ es, dramKey d e.1 ≠ key) :
    Store.get dramInit (s.wrEach d es).dram key = Store.get dramInit s.dram key :=
  foldl_leaves (fun t : State => Store.get dramInit t.dram key) (fun _ e he => Store.get_put_other _ _ _ (h e he).symm) s

/-- A word reads back when no other is written to its address. -/
theorem State.wrEach_same {d : Nat} {es : List (Nat × Word)} {e : Nat × Word} (he : e ∈ es) (hone : ∀ x ∈ es, x.1 = e.1 → x = e)
    (s : State) : (s.wrEach d es).rdMem d e.1 = e.2 := by
  induction es generalizing s with
  | nil => exact absurd he List.not_mem_nil
  | cons x xs ih =>
    by_cases hxs : e ∈ xs
    · exact ih hxs (fun y hy => hone y (List.mem_cons_of_mem x hy)) _
    · obtain rfl : e = x := (List.mem_cons.mp he).resolve_right hxs
      have hother : ∀ y ∈ xs, dramKey d y.1 ≠ dramKey d e.1 := fun y hy hk =>
        hxs (hone y (List.mem_cons_of_mem e hy) (dramKey_inj.mp hk) ▸ hy)
      exact (State.wrEach_other _ hother).trans (State.rdMem_wrMem_same s d e.1 e.2)

@[simp] theorem State.acu_issueRefreshes (s : State) (d j : Nat) : (s.issueRefreshes d).acu j = s.acu j := rfl

@[simp] theorem State.issueRefreshes_dram (s : State) (d : Nat) : (s.issueRefreshes d).dram = s.dram := rfl

/-- The journal port writes the words that leave it, and no others. -/
theorem State.drainJournal_dram (s : State) (d n : Nat) : (s.drainJournal d n).dram = (s.wrEach d ((s.acu d).jbuf.take n)).dram := by
  simp only [State.drainJournal, apply_ite State.dram, State.issueRefreshes_dram, State.put_dram, State.setAcu_dram, ite_self, State.wrEach]

theorem State.drainJournal_jbuf (s : State) (d n : Nat) : ((s.drainJournal d n).acu d).jbuf = (s.acu d).jbuf.drop n := by
  simp only [State.drainJournal, apply_ite (fun t : State => (t.acu d).jbuf), State.acu_issueRefreshes, State.acu_put, State.acu_set_same,
    ite_self]

theorem exec_journalWrite (d : Nat) (s : State) : exec (.journalWrite d) s = .next (s.drainJournal d 8) := by
  change execJournalWrite d s = _
  rw [execJournalWrite, ok]

/-! ### The obligation -/

/-- Settles O50, clause by clause: what each command answers is a lemma about `exec` above, and what that state holds follows
from the laws of the operations it is made of. -/
theorem memoryIsReadAndWritten : Obligations.MemoryIsReadAndWritten := by
  unfold Obligations.MemoryIsReadAndWritten
  intro s d burst
  refine ⟨fun hready hburst => ⟨?clean, ?erased, ?located, ?uncorrectable, ?write⟩, fun room bursts hlen => ⟨?unit, ?unitWaits⟩,
    fun c u hready hu => ⟨?postpone, ?issue, ?scrub⟩, ?journal⟩
  case clean =>
    intro store he hdec
    exact ⟨_, exec_dramRead_of_clean hready hburst he hdec, State.atRead_dram s d burst, State.atRead_queue s d burst⟩
  case erased =>
    intro store he hdec
    exact ⟨_, exec_dramRead_of_erased hready hburst he hdec, State.atRead_dram s d burst,
      State.get_atRead s d burst (by rw [DRC_EVENTS_CORR, addrBlock_DRC_EVENTS]; omega)⟩
  case located =>
    intro store p v hp hv0 hv he hdec hlimit
    have hc := burstChan_lt burst
    have hu := burstSub_lt burst
    have hn := symDevice_le hp
    have hcorr := State.corrections_atRead (s := s) hn he hlimit
    refine ⟨_, exec_dramRead_of_located hready hburst hp (by omega) he hdec, ?_, ?_, ?_⟩
    · rw [State.pm_dram, hcorr, State.correctionsCounted_dram, State.atRead_dram]
    · rw [State.get_pm _ _ _ _ _ (by rw [DRC_EVENTS_CORR, addrBlock_DRC_EVENTS]; omega), hcorr, State.get_correctionsCounted_event]
    · have hblock : addrBlock (DRC_CH_ERR_CORR d (burstChan burst) (burstSub burst) (symDevice p)).addr ≠ 0x1D := by
        rw [DRC_CH_ERR_CORR, addrBlock_DRC_CH_ERR d hc hu hn]; omega
      rw [State.get_pm _ _ _ _ _ hblock, hcorr, ← State.get_atRead s d burst hblock]
      exact State.get_correctionsCounted_counter (scrub := false) hc hu hn
  case uncorrectable =>
    intro store errs herrs he hdec
    exact ⟨_, exec_dramRead_of_uncorr hready hburst herrs he hdec, State.get_poisoned _ d burst store⟩
  case write =>
    intro ws hlen
    exact ⟨_, exec_dramWrite_of_ready hready hburst ws, fun i hi => State.queueWrite_same s d burst hlen hi,
      State.queueWrite_queue s d burst ws, fun key hkey => State.queueWrite_other s ws hkey⟩
  case unit =>
    intro hroom
    exact ⟨_, exec_unitWrite_of_room hlen hroom, State.queueWrites_queue d bursts s,
      fun hnd b hb hlen i hi => State.queueWrites_same hnd hb hlen hi s⟩
  case unitWaits =>
    intro hfull
    exact ⟨s, exec_unitWrite_of_full (State.unitRoom_eq_false hfull), rfl⟩
  case postpone =>
    intro hpanic hroom
    refine ⟨_, exec_refreshInterval_of_postpone hready hu hpanic hroom, ?_, ?_⟩ <;>
      rw [State.raise, State.drc_put, State.bump, State.bumpBy, State.drc_put, State.drc_set_same]
    dsimp only
    exact Store.get_put_same (fun _ => 0) _ _ _
  case issue =>
    intro h
    refine ⟨_, exec_refreshInterval_of_issue hready hu h, ?_, ?_, State.setDrc_regs _ _ _⟩ <;> rw [State.drc_set_same]
  case scrub =>
    intro n k hn hk he hlimit
    have hc := State.chan_lt_of_chanReady hready
    have hcorr := State.corrections_scrubbed hc hu hn hk he hlimit
    refine ⟨_, exec_scrubPass_of_one hready hu, ?_, ?_, ?_, ?_, ?_⟩ <;> rw [hcorr]
    · exact State.correctionsCounted_dram
    · exact State.correctionsCounted_now
    · rw [State.drc, State.correctionsCounted_drcs, State.correctionsCounted_now]
      exact State.scrubbed_scrubAt s d c
    · rw [← State.get_scrubbed s d c]
      exact State.get_correctionsCounted_counter (scrub := true) hc hu hn
    · rw [State.get_correctionsCounted_scrub_corr hc hu hn, State.get_scrubbed]
  case journal =>
    refine ⟨_, exec_journalWrite d s, State.drainJournal_jbuf s d 8, fun key hkey => ?_, fun e he hone => ?_⟩
    · rw [State.drainJournal_dram, State.wrEach_other s hkey]
    · rw [State.rdMem, State.drainJournal_dram]
      exact State.wrEach_same he hone s

end Sys2Proof.Machine

namespace Sys2Proof

/-- Two fields share no bit of a slot. -/
def RF.Apart (f g : RF) : Prop := f.addr ≠ g.addr ∨ f.lo + f.wid ≤ g.lo ∨ g.lo + g.wid ≤ f.lo

end Sys2Proof

namespace Sys2Proof.Machine

open Reg

/-! ### Fields that share no bit

Conditions on named fields are met by the fields' offsets and bits (`RF.apart`, `RF.fits`). -/

/-- Fields of one block of a die, by their offsets and bits. -/
theorem RF.apart {f g : RF} {d b o p l w m v : Nat} (hf : f = ⟨spanSlot d b o, l, w⟩) (hg : g = ⟨spanSlot d b p, m, v⟩)
    (h : o ≠ p ∨ l + w ≤ m ∨ m + v ≤ l) : RF.Apart f g := by
  subst hf hg
  simp only [RF.Apart, spanSlot]; omega

theorem RF.fits {f : RF} {a l w : Nat} (hf : f = ⟨a, l, w⟩) (h : l + w ≤ 72) : f.lo + f.wid ≤ 72 := by subst hf; exact h

theorem spanSlot_ne {a a' d b o p : Nat} (ha : a = spanSlot d b o) (ha' : a' = spanSlot d b p) (h : o ≠ p) : a ≠ a' := by
  subst ha ha'
  simp only [spanSlot]; omega

theorem Word.bits_upd_apart (w : Word) {lo wid lo' wid' : Nat} (v : Nat) (h : lo + wid ≤ lo' ∨ lo' + wid' ≤ lo) :
    (w.upd lo wid v).bits lo' wid' = w.bits lo' wid' := by
  apply Nat.eq_of_testBit_eq
  intro i
  rw [Word.bits, Word.bits, bitsOf_eq_testBit, bitsOf_eq_testBit, Word.upd, BitVec.toNat_ofNat, Nat.testBit_mod_two_pow, withBits_testBit]
  by_cases hi : i < wid'
  · by_cases hw : lo' + i < 72
    · rcases h with h | h
      · rw [if_neg (by omega), if_neg (by omega)]; simp [hw]
      · rw [if_pos (by omega)]; simp [hw]
    · have : w.toNat.testBit (lo' + i) = false := Nat.testBit_lt_two_pow (w.isLt.trans_le (Nat.pow_le_pow_right (by omega) (by omega)))
      simp [hw, this]
  · simp [hi]

section
variable {s : State} {f g : RF}

/-- A field that shares no bit with the one written keeps its value. -/
theorem State.get_put_apart {v : Nat} (h : RF.Apart f g) : (s.put f v).get g = s.get g := by
  by_cases ha : g.addr = f.addr
  · rw [State.get, State.put, ha, State.rd_wr_same, State.get, ha]
    exact Word.bits_upd_apart _ _ (h.resolve_left fun hne => hne ha.symm)
  · exact State.get_put_other s _ ha

theorem State.get_raise_apart (h : RF.Apart f g) : (s.raise f).get g = s.get g :=
  State.get_put_apart h

theorem State.get_bump_apart (h : RF.Apart f g) : (s.bump f).get g = s.get g :=
  State.get_put_apart h

theorem State.get_putBit_apart {i : Nat} {b : Bool} (h : RF.Apart f g) :
    (s.putBit f i b).get g = s.get g :=
  State.get_put_apart h

theorem State.get_charge_apart {x : UnitId} {i : Nat} (h : RF.Apart f g) :
    (s.charge x i f).get g = s.get g := by
  rw [State.charge, State.chargeBy, State.bumpBy, State.get_put_apart h]
  split <;> rfl

theorem State.rd_put_other {a v : Nat} (h : a ≠ f.addr) : (s.put f v).rd a = s.rd a := State.rd_wr_other s _ h

/-- A field of a slot reads the value written, modulo its width. -/
theorem State.get_put_fits {v : Nat} (h : f.lo + f.wid ≤ 72) : (s.put f v).get f = v % 2 ^ f.wid :=
  State.get_put_same s _ h

theorem State.get_bump_fits (h : f.lo + f.wid ≤ 72) :
    (s.bump f).get f = min (2 ^ f.wid - 1) (s.get f + 1) :=
  State.get_bump_same s h

/-- A bucket below its full count gains 1. -/
theorem State.get_charge_of_lt {x : UnitId} {i m : Nat} (hlt : s.get f < m) (hm : m < 2 ^ f.wid)
    (h : f.lo + f.wid ≤ 72) : (s.charge x i f).get f = s.get f + 1 := by
  rw [State.charge, State.get_chargeBy_same s _ _ 1 h]
  omega

theorem bit_withBits_one (x i : Nat) : bit (withBits x i 1 1) i = true := by
  have h : bitsOf (withBits x i 1 1) i 1 = 1 := bitsOf_withBits_same x i 1 1
  simpa [bit, bitsOf] using h

theorem State.getBit_putBit_same_true {i : Nat} (hi : i < f.wid) (h : f.lo + f.wid ≤ 72) :
    (s.putBit f i true).getBit f i = true := by
  have hlt : withBits (s.get f) i 1 1 < 2 ^ f.wid := withBits_lt (State.get_lt s f) (by omega)
  rw [State.getBit, State.putBit, State.get_put_same s _ h]
  exact (Nat.mod_eq_of_lt hlt).symm ▸ bit_withBits_one _ i

end

/-! ### What a lane and a link hold beside their registers -/

section
variable (s : State) (d n j : Nat)

@[simp] theorem State.get_setLaneSt (v : LaneSt) (f : RF) : (s.setLaneSt d n v).get f = s.get f := rfl
@[simp] theorem State.get_setLinkSt (v : LinkSt) (f : RF) : (s.setLinkSt d j v).get f = s.get f := rfl

@[simp] theorem State.laneSt_setLaneSt_same (v : LaneSt) : (s.setLaneSt d n v).laneSt d n = v := by
  rw [State.laneSt, State.setLaneSt, State.ing_set_same]
  exact Store.get_put_same _ _ _ _

theorem State.laneSt_setLaneSt_other {m : Nat} (v : LaneSt) (h : m ≠ n) : (s.setLaneSt d n v).laneSt d m = s.laneSt d m := by
  rw [State.laneSt, State.setLaneSt, State.ing_set_same]
  exact Store.get_put_other _ _ _ h

@[simp] theorem State.linkSt_setLinkSt_same (v : LinkSt) : (s.setLinkSt d j v).linkSt d j = v := by
  rw [State.linkSt, State.setLinkSt, State.ing_set_same]
  exact Store.get_put_same _ _ _ _

@[simp] theorem State.linkSt_setLaneSt (v : LaneSt) : (s.setLaneSt d n v).linkSt d j = s.linkSt d j := by
  rw [State.linkSt, State.setLaneSt, State.ing_set_same, State.linkSt]

@[simp] theorem State.laneSt_setLinkSt (v : LinkSt) : (s.setLinkSt d j v).laneSt d n = s.laneSt d n := by
  rw [State.laneSt, State.setLinkSt, State.ing_set_same, State.laneSt]

variable {s} {t : State}

theorem State.laneSt_of_ings (h : t.ings = s.ings) : t.laneSt d n = s.laneSt d n := by
  rw [State.laneSt, State.ing, h, State.laneSt, State.ing]

theorem State.linkSt_of_ings (h : t.ings = s.ings) : t.linkSt d j = s.linkSt d j := by
  rw [State.linkSt, State.ing, h, State.linkSt, State.ing]

end

/-! ### Lanes change their state (R64, R70) -/

section
variable {s : State} {d n : Nat}

theorem State.get_setLane_apart {st : Nat} {f : RF} (h : RF.Apart (LANE_STATUS_STATE d n) f)
    (h' : RF.Apart (ING_STATUS_LANE_CGS d) f) : (s.setLane d n st).get f = s.get f := by
  rw [State.setLane, State.get_putBit_apart h', State.get_put_apart h]

theorem State.laneState_setLane {st : Nat} : (s.setLane d n st).laneState d n = st % 8 := by
  rw [State.laneState, State.setLane, State.get_putBit_apart, State.get_put_fits (by exact RF.fits rfl (by omega))]; rfl
  all_goals exact RF.apart rfl rfl (by omega)

@[simp] theorem State.draw_ings (w : Nat) : (s.draw w).2.ings = s.ings := (rfl)

theorem State.get_draw (w : Nat) (f : RF) : (s.draw w).2.get f = s.get f := (rfl)

theorem State.get_drawList (w : Nat) (f : RF) : ∀ (k : Nat) (s : State), (s.drawList w k).2.get f = s.get f
  | 0, _ => rfl
  | k + 1, s => State.get_drawList w f k (s.draw w).2

/-- A lane in ACQ, without CDR lock. -/
def State.unlocked (s : State) (d n : Nat) : State := (s.setLane d n lnACQ).put (LANE_STATUS_CDR_LOCK d n) 0

theorem State.enterAcq_of_fixed (h : s.get (LANE_CFG_CTLE_MODE d n) ≠ 1) :
    s.enterAcq d n = (s.unlocked d n).put (LANE_STATUS_PEAK_USED d n) (s.get (LANE_CFG_CTLE_PEAK d n)) := if_neg h

theorem State.get_enterAcq_of_sweep (h : s.get (LANE_CFG_CTLE_MODE d n) = 1) {f : RF}
    (hpk : RF.Apart (LANE_STATUS_PEAK_USED d n) f) (hht : RF.Apart (LANE_EYE_HEIGHT_MV d n) f)
    (hwd : RF.Apart (LANE_EYE_WIDTH d n) f) :
    (s.enterAcq d n).get f = (s.unlocked d n).get f := by
  simp only [State.enterAcq, if_pos h]
  rw [State.putFree, State.get_put_apart hwd, State.get_draw, State.get_setTimer, State.get_put_apart hht,
    State.get_put_apart hpk, State.get_drawList, State.unlocked]

/-- Registers of a lane that enters ACQ, but for those of its equaliser and its eye. -/
theorem State.get_enterAcq {f : RF} (hpk : RF.Apart (LANE_STATUS_PEAK_USED d n) f) (hht : RF.Apart (LANE_EYE_HEIGHT_MV d n) f)
    (hwd : RF.Apart (LANE_EYE_WIDTH d n) f) :
    (s.enterAcq d n).get f = (s.unlocked d n).get f := by
  by_cases h : s.get (LANE_CFG_CTLE_MODE d n) = 1
  · exact State.get_enterAcq_of_sweep h hpk hht hwd
  · rw [State.enterAcq_of_fixed h, State.get_put_apart hpk]

theorem State.get_enterAcq_apart {f : RF} (hst : RF.Apart (LANE_STATUS_STATE d n) f) (hcgs : RF.Apart (ING_STATUS_LANE_CGS d) f)
    (hcdr : RF.Apart (LANE_STATUS_CDR_LOCK d n) f) (hpk : RF.Apart (LANE_STATUS_PEAK_USED d n) f)
    (hht : RF.Apart (LANE_EYE_HEIGHT_MV d n) f) (hwd : RF.Apart (LANE_EYE_WIDTH d n) f) :
    (s.enterAcq d n).get f = s.get f := by
  rw [State.get_enterAcq hpk hht hwd, State.unlocked, State.get_put_apart hcdr, State.get_setLane_apart hst hcgs]

theorem State.laneState_enterAcq : (s.enterAcq d n).laneState d n = lnACQ := by
  rw [State.laneState, State.get_enterAcq, State.unlocked, State.get_put_apart]
  exact State.laneState_setLane
  all_goals exact RF.apart rfl rfl (by omega)

/-- A FIXED equaliser takes the lane's own setting. -/
theorem State.peakUsed_enterAcq_fixed (h : s.get (LANE_CFG_CTLE_MODE d n) = 0) :
    (s.enterAcq d n).get (LANE_STATUS_PEAK_USED d n) = s.get (LANE_CFG_CTLE_PEAK d n) := by
  rw [State.enterAcq_of_fixed (by omega), State.get_put_fits (by exact RF.fits rfl (by omega))]
  exact Nat.mod_eq_of_lt (State.get_lt s (LANE_CFG_CTLE_PEAK d n))

end

/-! ### Links change their state (R71, R72) -/

section
variable {s : State} {d j : Nat}

theorem State.get_setLink_apart {st : Nat} {f : RF} (hst : RF.Apart (LINK_STATUS_STATE d j) f)
    (hsync : RF.Apart (LINK_STATUS_SYNC_ASSERTED d j) f) (hdata : RF.Apart (ING_STATUS_LINK_DATA d) f) :
    (s.setLink d j st).get f = s.get f := by
  rw [State.setLink, State.get_putBit_apart hdata, State.get_put_apart hsync, State.get_put_apart hst,
    State.get_setLinkSt]

theorem State.linkState_setLink {st : Nat} : (s.setLink d j st).linkState d j = st % 8 := by
  rw [State.linkState, State.setLink, State.get_putBit_apart, State.get_put_apart,
    State.get_put_fits (by exact RF.fits rfl (by omega))]; rfl
  all_goals exact RF.apart rfl rfl (by omega)

theorem State.syncAsserted_setLink {st : Nat} : (s.setLink d j st).get (LINK_STATUS_SYNC_ASSERTED d j) = b2n (!syncOff st) := by
  rw [State.setLink, State.get_putBit_apart, State.get_put_fits (by exact RF.fits rfl (by omega))]
  cases syncOff st <;> rfl
  all_goals exact RF.apart rfl rfl (by omega)

/-- What a link keeps beside its registers when its state changes: only two times may change. -/
@[simp] theorem State.setLink_ings {st : Nat} : (s.setLink d j st).ings = (s.setLinkSt d j { s.linkSt d j with
    syncAt := if syncOff (s.linkState d j) && !syncOff st then s.now else (s.linkSt d j).syncAt,
    waitAt := if s.linkState d j == lkDATA && st != lkDATA then s.worked else (s.linkSt d j).waitAt }).ings := by
  simp only [State.setLink, State.putBit_ings, State.put_ings]

theorem State.laneSt_setLink {n st : Nat} : (s.setLink d j st).laneSt d n = s.laneSt d n :=
  (State.laneSt_of_ings d n (State.setLink_ings)).trans (State.laneSt_setLinkSt s d n j _)

/-- Entering SYNC changes the registers as any change of state does. -/
theorem State.get_toSync {f : RF} : (s.toSync d j).get f = (s.setLink d j lkSYNC).get f := by
  simp only [State.toSync]
  split
  · rw [State.get_setLinkSt, State.get_draw]
  · rfl

theorem State.setLink_now {st : Nat} : (s.setLink d j st).now = s.now := by
  simp only [State.setLink, State.putBit_now, State.put_now, State.setLinkSt, State.setIng_now]

theorem State.toSync_now : (s.toSync d j).now = s.now := by
  simp only [State.toSync]
  split
  · simp only [State.setLinkSt, State.setIng_now, State.draw, State.setLink_now]
  · exact State.setLink_now

theorem State.laneSt_toSync {n : Nat} : (s.toSync d j).laneSt d n = s.laneSt d n := by
  simp only [State.toSync]
  split
  · rw [State.laneSt_setLinkSt, State.laneSt_of_ings d n (State.draw_ings _), State.laneSt_setLink]
  · exact State.laneSt_setLink

theorem State.reinit_of_up (h : s.linkState d j = lkILAS ∨ s.linkState d j = lkDATA) :
    s.reinit d j = ((s.toSync d j).bump (LINK_COUNT_REINIT d j)).raise (ING_EVENTS_REINIT d) := if_pos h

theorem State.linkState_reinit (h : s.linkState d j = lkILAS ∨ s.linkState d j = lkDATA) : (s.reinit d j).linkState d j = lkSYNC := by
  rw [State.reinit_of_up h, State.linkState, State.get_raise_apart, State.get_bump_apart, State.get_toSync]
  exact State.linkState_setLink
  all_goals exact RF.apart rfl rfl (by omega)

theorem State.syncAsserted_reinit (h : s.linkState d j = lkILAS ∨ s.linkState d j = lkDATA) :
    (s.reinit d j).get (LINK_STATUS_SYNC_ASSERTED d j) = 1 := by
  rw [State.reinit_of_up h, State.get_raise_apart, State.get_bump_apart, State.get_toSync, State.syncAsserted_setLink]; rfl
  all_goals exact RF.apart rfl rfl (by omega)

theorem State.reinitCount_reinit (h : s.linkState d j = lkILAS ∨ s.linkState d j = lkDATA) :
    (s.reinit d j).get (LINK_COUNT_REINIT d j) = min (2 ^ 24 - 1) (s.get (LINK_COUNT_REINIT d j) + 1) := by
  rw [State.reinit_of_up h, State.get_raise_apart, State.get_bump_fits (by exact RF.fits rfl (by omega)), State.get_toSync,
    State.get_setLink_apart]; rfl
  all_goals exact RF.apart rfl rfl (by omega)

theorem State.get_reinit_apart {f : RF} (hst : RF.Apart (LINK_STATUS_STATE d j) f)
    (hsync : RF.Apart (LINK_STATUS_SYNC_ASSERTED d j) f) (hdata : RF.Apart (ING_STATUS_LINK_DATA d) f)
    (hcnt : RF.Apart (LINK_COUNT_REINIT d j) f) (hev : RF.Apart (ING_EVENTS_REINIT d) f) :
    (s.reinit d j).get f = s.get f := by
  rw [State.reinit]
  split
  · rw [State.get_raise_apart hev, State.get_bump_apart hcnt, State.get_toSync, State.get_setLink_apart hst hsync hdata]
  · rfl

theorem State.laneSt_reinit {n : Nat} : (s.reinit d j).laneSt d n = s.laneSt d n := by
  rw [State.reinit]
  split
  · rw [State.laneSt_of_ings d n (State.raise_ings _ _), State.laneSt_of_ings d n (State.bump_ings _ _), State.laneSt_toSync]
  · rfl

end

/-! ### Buckets that stay within their thresholds (R82) -/

/-- A lane's CHAR bucket is below its threshold. -/
def State.CharBelow (s : State) (d n : Nat) : Prop := s.get (LANE_ALIGNCNT_CHAR_BKT d n) < s.get (ING_BUCKET_CFG_CHAR_THRESH d)

/-- A lane's REALIGN bucket is below its threshold. -/
def State.RealBelow (s : State) (d n : Nat) : Prop := s.get (LANE_ALIGNCNT_REAL_BKT d n) < s.get (ING_BUCKET_CFG_REAL_THRESH d)

section
variable {s : State} {d n : Nat}

theorem State.charBucket_of_below (h : s.CharBelow d n) :
    s.charBucket d n = s.charge ⟨d, 1, n⟩ 0 (LANE_ALIGNCNT_CHAR_BKT d n) := by
  have hv := State.get_charge_of_lt (x := ⟨d, 1, n⟩) (i := 0) h (State.get_lt s (ING_BUCKET_CFG_CHAR_THRESH d))
    (RF.fits rfl (by omega))
  exact if_neg (by rw [State.CharBelow] at h; rw [hv]; omega)

theorem State.realBucket_of_below (h : s.RealBelow d n) :
    s.realBucket d n = s.charge ⟨d, 1, n⟩ 1 (LANE_ALIGNCNT_REAL_BKT d n) := by
  have hv := State.get_charge_of_lt (x := ⟨d, 1, n⟩) (i := 1) h (State.get_lt s (ING_BUCKET_CFG_REAL_THRESH d))
    (RF.fits rfl (by omega))
  exact if_neg (by rw [State.RealBelow] at h; rw [hv]; omega)

theorem State.get_charBucket_apart (h : s.CharBelow d n) {f : RF}
    (hf : RF.Apart (LANE_ALIGNCNT_CHAR_BKT d n) f) : (s.charBucket d n).get f = s.get f := by
  rw [State.charBucket_of_below h, State.get_charge_apart hf]

theorem State.get_charBucket_same (h : s.CharBelow d n) :
    (s.charBucket d n).get (LANE_ALIGNCNT_CHAR_BKT d n) = s.get (LANE_ALIGNCNT_CHAR_BKT d n) + 1 := by
  rw [State.charBucket_of_below h]
  exact State.get_charge_of_lt h (State.get_lt s (ING_BUCKET_CFG_CHAR_THRESH d)) (RF.fits rfl (by omega))

theorem State.get_realBucket_apart (h : s.RealBelow d n) {f : RF}
    (hf : RF.Apart (LANE_ALIGNCNT_REAL_BKT d n) f) : (s.realBucket d n).get f = s.get f := by
  rw [State.realBucket_of_below h, State.get_charge_apart hf]

theorem State.get_realBucket_same (h : s.RealBelow d n) :
    (s.realBucket d n).get (LANE_ALIGNCNT_REAL_BKT d n) = s.get (LANE_ALIGNCNT_REAL_BKT d n) + 1 := by
  rw [State.realBucket_of_below h]
  exact State.get_charge_of_lt h (State.get_lt s (ING_BUCKET_CFG_REAL_THRESH d)) (RF.fits rfl (by omega))

theorem State.charge_ings (x : UnitId) (i : Nat) (f : RF) : (s.charge x i f).ings = s.ings := by
  rw [State.charge, State.chargeBy, State.bumpBy_ings]; split <;> rfl

end

end Sys2Proof.Machine

namespace Sys2Proof.Machine

open Reg

/-! ### Samples entering a delay line (R96, R97) -/

/-- The field of a stream's delay line that holds the sample of index x. -/
def lineField (d b x : Nat) : RF := ⟨DELAY_LINE d b (x % 65536 / 4), 18 * (x % 4), 18⟩

theorem State.lineWrite_eq_put (s : State) (d b x val : Nat) (flag : Bool) :
    s.lineWrite d b x val flag = s.put (lineField d b x) (if flag then 65536 else val % 65536) := rfl

theorem addrBlock_lineField (d x : Nat) {b : Nat} (hb : b < 258) : addrBlock (lineField d b x).addr = 0x11 :=
  addrBlock_spanSlot d (by omega) (by omega)

theorem State.lineWrite_ings (s : State) (d b x val : Nat) (flag : Bool) : (s.lineWrite d b x val flag).ings = s.ings := by
  rw [State.lineWrite_eq_put, State.put_ings]

theorem State.get_lineWrite {s : State} {d b x val : Nat} {flag : Bool} (hb : b < 258) {f : RF} (hf : addrBlock f.addr ≠ 0x11) :
    (s.lineWrite d b x val flag).get f = s.get f := by
  rw [State.lineWrite_eq_put]
  exact State.get_put_of_block s _ (by rwa [addrBlock_lineField d x hb])

/-- A slot is preceded by at most two streams for each of the 128 slots. -/
theorem State.streamBase_le (s : State) (d i : Nat) : s.streamBase d i ≤ 256 := by
  have hlen : (((s.enabledSlots d).filter fun k => decide (k < i)).map fun k => 1 + s.get (INPUT_MAP_CPLX d k)).length ≤ 128 := by
    rw [List.length_map]
    exact (List.length_filter_le _ _).trans ((List.length_filter_le _ _).trans (List.length_range).le)
  have hsum := List.sum_le_card_nsmul (((s.enabledSlots d).filter fun k => decide (k < i)).map fun k => 1 + s.get (INPUT_MAP_CPLX d k)) 2 ?_
  · rw [State.streamBase, ← List.sum_eq_foldl]
    rw [smul_eq_mul] at hsum
    omega
  · intro x hx
    obtain ⟨k, _, rfl⟩ := List.mem_map.mp hx
    have : s.get (INPUT_MAP_CPLX d k) < 2 ^ 1 := State.get_lt s _
    omega

theorem State.linkStreams_lt {s : State} {d j : Nat} {e : Nat × Nat} (h : e ∈ s.linkStreams d j) : e.1 < 258 := by
  obtain ⟨i, _, hi⟩ := List.mem_flatMap.mp h
  have hle := State.streamBase_le s d i
  simp only at hi
  split at hi
  · rcases List.mem_cons.mp hi with rfl | hi
    · simp only; omega
    · obtain rfl := List.mem_singleton.mp hi
      simp only; omega
  · obtain rfl := List.mem_singleton.mp hi
    simp only; omega

/-- The flagged zeros that a link's streams take. -/
def State.flagLines (s : State) (d j a b : Nat) : State :=
  forAll (s.linkStreams d j) s fun s e => forAll (List.range (b - a)) s fun s x => s.lineWrite d e.1 (a + x) 0 true

theorem State.get_flagLines {s : State} {d j a b : Nat} {f : RF} (hf : addrBlock f.addr ≠ 0x11) :
    (s.flagLines d j a b).get f = s.get f :=
  foldl_leaves (State.get · f) (fun s _ he => foldl_leaves (State.get · f)
    (fun _ _ _ => State.get_lineWrite (State.linkStreams_lt he) hf) s) s

theorem State.flagLines_ings (s : State) (d j a b : Nat) : (s.flagLines d j a b).ings = s.ings :=
  foldl_leaves State.ings (fun s _ _ => foldl_leaves State.ings (fun s _ _ => State.lineWrite_ings s _ _ _ _ _) s) s

theorem State.lineFlag_of_lt {s : State} {d j a b : Nat} (h : a < b) : s.lineFlag d j a b =
    (s.flagLines d j a b).setLinkSt d j { (s.flagLines d j a b).linkSt d j with
      dirty := ((s.flagLines d j a b).linkSt d j).dirty ++ [(a, b - 1)] } := if_pos h

theorem State.lineFlag_of_not_lt {s : State} {d j a b : Nat} (h : ¬ a < b) : s.lineFlag d j a b = s.flagLines d j a b := if_neg h

theorem State.get_lineFlag {s : State} {d j a b : Nat} {f : RF} (hf : addrBlock f.addr ≠ 0x11) :
    (s.lineFlag d j a b).get f = s.get f := by
  by_cases h : a < b
  · rw [State.lineFlag_of_lt h, State.get_setLinkSt, State.get_flagLines hf]
  · rw [State.lineFlag_of_not_lt h, State.get_flagLines hf]

theorem State.linkSt_flagLines {s : State} {d j a b : Nat} : (s.flagLines d j a b).linkSt d j = s.linkSt d j :=
  State.linkSt_of_ings d j (State.flagLines_ings s d j a b)

theorem State.flagged_lineFlag {s : State} {d j a b : Nat} : ((s.lineFlag d j a b).linkSt d j).flagged = (s.linkSt d j).flagged := by
  by_cases h : a < b
  · rw [State.lineFlag_of_lt h, State.linkSt_setLinkSt_same, State.linkSt_flagLines]
  · rw [State.lineFlag_of_not_lt h, State.linkSt_flagLines]

/-! ### Frames flagged for an error (R67) -/

/-- Frame f joins those to flag, and the count of flagged frames follows. -/
def State.noteFrame (s : State) (d j f : Nat) : State :=
  (s.setLinkSt d j { s.linkSt d j with flagged := (s.linkSt d j).flagged ++ [f] }).bump (LINK_COUNT_FLAGGED d j)

section
variable {s : State} {d j f : Nat}

theorem State.flagFrame_of_flagged (h : (s.linkSt d j).flagged.contains f = true) : s.flagFrame d j f = s := if_pos h

/-- A frame not yet flagged is noted, and the delay lines change at most. -/
theorem State.flagFrame_of_new (h : (s.linkSt d j).flagged.contains f ≠ true) :
    s.flagFrame d j f = s.noteFrame d j f ∨ ∃ a b, s.flagFrame d j f = (s.noteFrame d j f).lineFlag d j a b := by
  simp only [State.flagFrame, if_neg h]
  split
  · exact .inr ⟨_, _, rfl⟩
  · exact .inl rfl

theorem State.flagged_noteFrame : ((s.noteFrame d j f).linkSt d j).flagged = (s.linkSt d j).flagged ++ [f] := by
  rw [State.noteFrame, State.linkSt_of_ings d j (State.bump_ings _ _), State.linkSt_setLinkSt_same]

theorem State.get_flagFrame {g : RF} (hb : addrBlock g.addr ≠ 0x11) (hg : RF.Apart (LINK_COUNT_FLAGGED d j) g) :
    (s.flagFrame d j f).get g = s.get g := by
  have hnote : (s.noteFrame d j f).get g = s.get g := by rw [State.noteFrame, State.get_bump_apart hg, State.get_setLinkSt]
  by_cases h : (s.linkSt d j).flagged.contains f = true
  · rw [State.flagFrame_of_flagged h]
  · obtain hnew | ⟨a, b, hnew⟩ := State.flagFrame_of_new h
    · rw [hnew, hnote]
    · rw [hnew, State.get_lineFlag hb, hnote]

theorem State.mem_flagged_flagFrame {x : Nat} :
    x ∈ ((s.flagFrame d j f).linkSt d j).flagged ↔ x ∈ (s.linkSt d j).flagged ∨ x = f := by
  by_cases h : (s.linkSt d j).flagged.contains f = true
  · rw [State.flagFrame_of_flagged h]
    exact ⟨.inl, fun hx => hx.elim id fun e => e ▸ List.contains_iff_mem.mp h⟩
  · obtain hnew | ⟨a, b, hnew⟩ := State.flagFrame_of_new h <;> rw [hnew]
    · rw [State.flagged_noteFrame, List.mem_append, List.mem_singleton]
    · rw [State.flagged_lineFlag, State.flagged_noteFrame, List.mem_append, List.mem_singleton]

end

/-- The frame of an error in DATA and the one before it are flagged; an error before DATA flags none. -/
def State.flagAround (s : State) (d j f : Nat) : Option Nat → State
  | none => s
  | some k => (if k / f = 0 then s else s.flagFrame d j (k / f - 1)).flagFrame d j (k / f)

section
variable {s : State} {d j f : Nat}

theorem State.get_flagAround {k : Option Nat} {g : RF} (hb : addrBlock g.addr ≠ 0x11) (hg : RF.Apart (LINK_COUNT_FLAGGED d j) g) :
    (s.flagAround d j f k).get g = s.get g := by
  cases k with
  | none => rfl
  | some k =>
    rw [State.flagAround, State.get_flagFrame hb hg]
    split
    · rfl
    · exact State.get_flagFrame hb hg

theorem State.flagged_flagAround (k : Nat) : k / f ∈ ((s.flagAround d j f (some k)).linkSt d j).flagged ∧
    (k / f ≠ 0 → k / f - 1 ∈ ((s.flagAround d j f (some k)).linkSt d j).flagged) := by
  rw [State.flagAround, State.mem_flagged_flagFrame, State.mem_flagged_flagFrame]
  refine ⟨.inr rfl, fun h => .inl ?_⟩
  rw [if_neg h, State.mem_flagged_flagFrame]
  exact .inr rfl

end

/-! ### Only registers change -/

theorem State.onlyRegs_refl (s : State) (as : List Nat) : s.OnlyRegs s as := ⟨rfl, fun _ _ => rfl⟩

section
variable {s t : State} {as : List Nat}

/-- One more field written, in a slot that may change. -/
theorem State.OnlyRegs.put (h : s.OnlyRegs t as) {f : RF} {v : Nat} (hf : f.addr ∈ as) : s.OnlyRegs (t.put f v) as := by
  obtain ⟨heq, hrd⟩ := h
  refine ⟨?_, fun a ha => (State.rd_put_other (ne_of_mem_of_not_mem hf ha).symm).trans (hrd a ha)⟩
  generalize t.regs = r at heq
  subst heq
  rfl

theorem State.OnlyRegs.setLane (h : s.OnlyRegs t as) {d n st : Nat} (hlane : LANE_STATUS d n ∈ as) (hing : ING_STATUS d ∈ as) :
    s.OnlyRegs (t.setLane d n st) as := by
  rw [State.setLane, State.putBit]
  exact (h.put hlane).put hing

end

/-! ### CDR lock and code groups come (R70) -/

/-- A lane in HUNT with its CDR locked, and its quad as its PLL shows it. -/
def State.locked (s : State) (d n : Nat) (pll : Bool) : State :=
  ((s.setLane d n lnHUNT).put (LANE_STATUS_CDR_LOCK d n) 1).put (QUAD_CFG_LOCK d (n / 4)) (b2n pll)

theorem exec_cdrLock_of_acq {s : State} {d n : Nat} {pll : Bool} (hd : s.present d = true) (hst : s.laneState d n = lnACQ) :
    exec (.cdrLock d n pll) s = .next (s.locked d n pll) := by
  change execCdrLock d n pll s = _
  rw [execCdrLock, if_pos ⟨hd, hst⟩, ok, State.locked]

section
variable {s : State} {d n : Nat} {pll : Bool}

theorem State.laneState_locked : (s.locked d n pll).laneState d n = lnHUNT := by
  rw [State.laneState, State.locked, State.get_put_apart, State.get_put_apart]
  exact State.laneState_setLane
  all_goals exact RF.apart rfl rfl (by omega)

theorem State.cdrLock_locked : (s.locked d n pll).get (LANE_STATUS_CDR_LOCK d n) = 1 := by
  rw [State.locked, State.get_put_apart, State.get_put_fits (by exact RF.fits rfl (by omega))]; rfl
  all_goals exact RF.apart rfl rfl (by omega)

theorem State.quadLock_locked : (s.locked d n pll).get (QUAD_CFG_LOCK d (n / 4)) = b2n pll := by
  rw [State.locked, State.get_put_fits (by exact RF.fits rfl (by omega))]; cases pll <;> rfl

end

theorem State.onlyRegs_locked (s : State) (d n : Nat) (pll : Bool) :
    s.OnlyRegs (s.locked d n pll) [LANE_STATUS d n, QUAD_CFG d (n / 4), ING_STATUS d] := by
  have h := (s.onlyRegs_refl [LANE_STATUS d n, QUAD_CFG d (n / 4), ING_STATUS d]).setLane
    (d := d) (n := n) (st := lnHUNT) (by simp) (by simp)
  exact (h.put (by simp [LANE_STATUS_CDR_LOCK])).put (by simp [QUAD_CFG_LOCK])

theorem exec_cgsAchieved_of_hunt {s : State} {d n : Nat} (hd : s.present d = true) (hst : s.laneState d n = lnHUNT) :
    exec (.cgsAchieved d n) s = .next (s.setLane d n lnCGS) := by
  change execCgsAchieved d n s = _
  rw [execCgsAchieved, if_pos ⟨hd, hst⟩, ok]

theorem State.getBit_laneCgs_setLane {s : State} {d n : Nat} (hn : n < 16) :
    (s.setLane d n lnCGS).getBit (ING_STATUS_LANE_CGS d) n = true :=
  State.getBit_putBit_same_true hn (RF.fits rfl (by omega))

/-! ### Synchronisation is lost (R64, R66, R70) -/

/-- A lane out of synchronisation: in HUNT while its CDR is locked, in ACQ without. -/
def State.unsynced (s : State) (d n : Nat) (cdr : Bool) : State := if cdr then s.setLane d n lnHUNT else s.enterAcq d n

/-- The same lane with its errors forgotten and the loss counted. -/
def State.lossCounted (s : State) (d n : Nat) (cdr : Bool) : State :=
  ((s.unsynced d n cdr).setLaneSt d n { (s.unsynced d n cdr).laneSt d n with errs := [] }).bump (LANE_ALIGNCNT_CGS_LOSS d n)

/-- A lane that has lost its synchronisation, with its link re-initialised. -/
def State.lost (s : State) (d n : Nat) (cdr : Bool) : State := (s.lossCounted d n cdr).reinit d (s.linkOf d n)

section
variable {s : State} {d n : Nat} {cdr : Bool}

theorem State.laneState_unsynced : (s.unsynced d n cdr).laneState d n = if cdr then lnHUNT else lnACQ := by
  cases cdr
  · exact State.laneState_enterAcq
  · exact State.laneState_setLane

theorem State.get_unsynced_apart {f : RF} (hst : RF.Apart (LANE_STATUS_STATE d n) f) (hcgs : RF.Apart (ING_STATUS_LANE_CGS d) f)
    (hcdr : RF.Apart (LANE_STATUS_CDR_LOCK d n) f) (hpk : RF.Apart (LANE_STATUS_PEAK_USED d n) f)
    (hht : RF.Apart (LANE_EYE_HEIGHT_MV d n) f) (hwd : RF.Apart (LANE_EYE_WIDTH d n) f) :
    (s.unsynced d n cdr).get f = s.get f := by
  cases cdr
  · exact State.get_enterAcq_apart hst hcgs hcdr hpk hht hwd
  · exact State.get_setLane_apart hst hcgs

theorem State.get_lossCounted_apart {f : RF} (h : RF.Apart (LANE_ALIGNCNT_CGS_LOSS d n) f) :
    (s.lossCounted d n cdr).get f = (s.unsynced d n cdr).get f := by
  rw [State.lossCounted, State.get_bump_apart h, State.get_setLaneSt]

theorem State.get_lossCounted_count : (s.lossCounted d n cdr).get (LANE_ALIGNCNT_CGS_LOSS d n) =
    min (2 ^ 16 - 1) (s.get (LANE_ALIGNCNT_CGS_LOSS d n) + 1) := by
  rw [State.lossCounted, State.get_bump_fits (by exact RF.fits rfl (by omega)), State.get_setLaneSt, State.get_unsynced_apart]; rfl
  all_goals exact RF.apart rfl rfl (by omega)

theorem State.linkState_lossCounted {j : Nat} : (s.lossCounted d n cdr).linkState d j = s.linkState d j := by
  rw [State.linkState, State.get_lossCounted_apart, State.get_unsynced_apart, State.linkState]
  all_goals exact RF.apart rfl rfl (by omega)

theorem exec_cgsLoss_of_lost (hd : s.present d = true) (hst : s.laneState d n = lnCGS ∨ s.laneState d n = lnHUNT)
    (hcdr : cdr = true → (s.laneSt d n).fourInSixteen = true) :
    exec (.cgsLoss d n cdr) s = .next ((s.lost d n cdr).realBucket d n) := by
  have hguard : (!cdr || (s.laneSt d n).fourInSixteen) = true := by
    cases cdr
    · rfl
    · simpa using hcdr
  change execCgsLoss d n cdr s = _
  rw [execCgsLoss, if_pos ⟨hd, hst, hguard⟩, ok]
  rfl

end

/-! ### Characters in error (R66, R67, R82) -/

/-- The counter of a kind of error, as `State.charFault` numbers them. -/
def errCounter (d n kind : Nat) : RF :=
  if kind = 0 then LANE_ERRCNT_CODE d n else if kind = 1 then LANE_ERRCNT_DISP d n else LANE_ERRCNT_CTRL d n

theorem errCounter_eq (d n kind : Nat) : ∃ lo, errCounter d n kind = ⟨LANE_ERRCNT d n, lo, 24⟩ ∧ lo + 24 ≤ 72 := by
  simp only [errCounter]
  split
  · exact ⟨0, rfl, by omega⟩
  · split
    · exact ⟨24, rfl, by omega⟩
    · exact ⟨48, rfl, by omega⟩

/-- The place in DATA of a lane's character number ch. -/
def State.dataPlace (s : State) (d n ch : Nat) : Option Nat :=
  if s.linkState d (s.linkOf d n) = lkDATA ∧ (s.laneSt d n).first ≤ ch then some (ch - (s.laneSt d n).first) else none

/-- An error counted, told and kept with the lane's last ones. -/
def State.errCounted (s : State) (d n ch kind : Nat) : State :=
  ((s.bump (errCounter d n kind)).raise (ING_EVENTS_CHAR_ERR d)).setLaneSt d n
    { s.laneSt d n with errs := (ch :: (s.laneSt d n).errs).take 4 }

/-- A lane with an error of a kind counted and the frames around its place in DATA flagged. -/
def State.errHandled (s : State) (d n ch kind : Nat) : State :=
  (s.errCounted d n ch kind).flagAround d (s.linkOf d n) (s.lkF d (s.linkOf d n)) (s.dataPlace d n ch)

section
variable {s : State} {d n ch g kind : Nat} {pos : Bool}

theorem State.charFault_of_undecoded {k : Option Nat} (h : dec10 (s.groupOf d n g) = none) : s.charFault d n g k pos = some 0 := by
  simp only [State.charFault, h]

theorem exec_characterError_of_clean (h : s.charFault d n g (s.dataPlace d n ch) pos = none) :
    exec (.characterError d n ch g pos) s = .next s := by
  change execCharacterError d n ch g s pos = _
  rw [State.dataPlace] at h
  simp only [execCharacterError, h, ok, ite_self]

theorem exec_characterError_of_fault (hd : s.present d = true) (hoff : s.laneState d n ≠ lnOFF) (hdead : s.laneState d n ≠ lnDEACC)
    (hn : n < 16) (h : s.charFault d n g (s.dataPlace d n ch) pos = some kind) :
    exec (.characterError d n ch g pos) s = .next ((s.errHandled d n ch kind).charBucket d n) := by
  change execCharacterError d n ch g s pos = _
  rw [execCharacterError, if_pos ⟨hd, hoff, hdead, hn⟩]
  simp only [State.errHandled, State.dataPlace] at h ⊢
  rw [h]
  split_ifs <;> rfl

theorem State.get_errCounted_apart {f : RF} (h : RF.Apart (errCounter d n kind) f)
    (h' : RF.Apart (ING_EVENTS_CHAR_ERR d) f) : (s.errCounted d n ch kind).get f = s.get f := by
  rw [State.errCounted, State.get_setLaneSt, State.get_raise_apart h', State.get_bump_apart h]

theorem errCounter_apart {f : RF} {o l w : Nat} (hf : f = ⟨spanSlot d 0x10 o, l, w⟩) (ho : 0x1020 + 0x100 * n ≠ o) :
    RF.Apart (errCounter d n kind) f := by
  obtain ⟨lo, he, -⟩ := errCounter_eq d n kind
  exact RF.apart he hf (.inl ho)

theorem State.get_errCounted_count : (s.errCounted d n ch kind).get (errCounter d n kind) =
    min (2 ^ 24 - 1) (s.get (errCounter d n kind) + 1) := by
  obtain ⟨lo, he, hlo⟩ := errCounter_eq d n kind
  rw [State.errCounted, State.get_setLaneSt, he, State.get_raise_apart, State.get_bump_same s hlo]
  all_goals exact RF.apart rfl rfl (by omega)

end

/-! ### Misplaced alignment characters (R66) -/

/-- The counter of misplaced /A/ or /F/. -/
def alignCounter (d n : Nat) (isA : Bool) : RF := if isA then LANE_ALIGNCNT_A_ERR d n else LANE_ALIGNCNT_F_ERR d n

/-- The position of a lane's last misplaced /A/ or /F/. -/
def State.lastMisplaced (s : State) (d n : Nat) (isA : Bool) : Option Nat := if isA then (s.laneSt d n).runA else (s.laneSt d n).runF

/-- A misplaced character counted, with the position remembered for the next. -/
def State.misplaced (s : State) (d n : Nat) (isA : Bool) (run : Option Nat) : State :=
  (s.bump (alignCounter d n isA)).setLaneSt d n (if isA then { s.laneSt d n with runA := run } else { s.laneSt d n with runF := run })

section
variable {s : State} {d n pos : Nat} {isA : Bool} {run : Option Nat}

theorem State.lastMisplaced_misplaced : (s.misplaced d n isA run).lastMisplaced d n isA = run := by
  cases isA <;> simp [State.lastMisplaced, State.misplaced]

theorem alignCounter_eq (d n : Nat) (isA : Bool) : ∃ lo, alignCounter d n isA = ⟨LANE_ALIGNCNT d n, lo, 16⟩ ∧ lo + 16 ≤ 72 := by
  cases isA
  · exact ⟨16, rfl, by omega⟩
  · exact ⟨0, rfl, by omega⟩

theorem State.get_misplaced_count : (s.misplaced d n isA run).get (alignCounter d n isA) =
    min (2 ^ 16 - 1) (s.get (alignCounter d n isA) + 1) := by
  obtain ⟨lo, he, hlo⟩ := alignCounter_eq d n isA
  rw [State.misplaced, State.get_setLaneSt, he, State.get_bump_fits hlo]

theorem State.linkState_misplaced {j : Nat} : (s.misplaced d n isA run).linkState d j = s.linkState d j := by
  obtain ⟨lo, he, -⟩ := alignCounter_eq d n isA
  rw [State.misplaced, State.linkState, State.get_setLaneSt, State.get_bump_apart, State.linkState]
  exact RF.apart he rfl (by omega)

theorem State.get_alignCounter_reinit {j : Nat} (hn : n < 16) :
    (s.reinit d j).get (alignCounter d n isA) = s.get (alignCounter d n isA) := by
  obtain ⟨lo, he, -⟩ := alignCounter_eq d n isA
  rw [State.get_reinit_apart]
  all_goals exact RF.apart rfl he (by omega)

variable (hd : s.present d = true) (hn : n < 16) (hst : s.laneState d n = lnCGS)
  (hpos : pos + 1 < s.lkF d (s.linkOf d n) * (if isA then s.lkK d (s.linkOf d n) else 1))
include hd hn hst hpos

theorem exec_misplacedAlignment_of_first {since : Bool} (h : since = true ∨ s.lastMisplaced d n isA ≠ some pos) :
    exec (.misplacedAlignment d n isA pos since) s = .next (s.misplaced d n isA (some pos)) := by
  have hrun : ¬ (if since then none else if isA then (s.laneSt d n).runA else (s.laneSt d n).runF) = some pos := by
    cases since
    · exact h.resolve_left Bool.false_ne_true
    · simp
  change execMisplacedAlignment d n isA pos since s = _
  rw [execMisplacedAlignment, if_pos ⟨hd, hn, hst, hpos⟩]
  simp only [if_neg hrun, ok, State.misplaced, alignCounter]

theorem exec_misplacedAlignment_of_repeat (h : s.lastMisplaced d n isA = some pos) :
    exec (.misplacedAlignment d n isA pos false) s = .next ((s.misplaced d n isA none).reinit d (s.linkOf d n)) := by
  change execMisplacedAlignment d n isA pos false s = _
  rw [execMisplacedAlignment, if_pos ⟨hd, hn, hst, hpos⟩]
  rw [State.lastMisplaced] at h
  simp only [h, ok, State.misplaced, alignCounter, if_true, Bool.false_eq_true, if_false]

end

end Sys2Proof.Machine

namespace Sys2Proof.Machine

open Reg

/-! ### Lanes follow their states -/

theorem State.linkOf_lt (s : State) (d n : Nat) : s.linkOf d n < 8 := State.get_lt s (LANE_CFG_LINK d n)

section
variable {s : State} {d n ch kind : Nat} {cdr : Bool} (hn : n < 16)
include hn

theorem State.realBkt_lost : (s.lost d n cdr).get (LANE_ALIGNCNT_REAL_BKT d n) = s.get (LANE_ALIGNCNT_REAL_BKT d n) := by
  have hj := s.linkOf_lt d n
  rw [State.lost, State.get_reinit_apart, State.get_lossCounted_apart, State.get_unsynced_apart]
  all_goals exact RF.apart rfl rfl (by omega)

theorem State.realBelow_lost (h : s.RealBelow d n) :
    (s.lost d n cdr).RealBelow d n := by
  have hj := s.linkOf_lt d n
  have hthresh : (s.lost d n cdr).get (ING_BUCKET_CFG_REAL_THRESH d) = s.get (ING_BUCKET_CFG_REAL_THRESH d) := by
    rw [State.lost, State.get_reinit_apart, State.get_lossCounted_apart, State.get_unsynced_apart]
    all_goals exact RF.apart rfl rfl (by omega)
  rwa [State.RealBelow, State.realBkt_lost hn, hthresh]

omit hn in
/-- An error leaves the die's other registers of the ingest: all but its counter, its event and the count of flagged frames. -/
theorem State.get_errHandled {f : RF} {o l w : Nat} (hf : f = ⟨spanSlot d 0x10 o, l, w⟩)
    (ho : o < 0x10000 ∧ o ≠ 0x1020 + 0x100 * n) (hev : RF.Apart (ING_EVENTS_CHAR_ERR d) f)
    (hcnt : RF.Apart (LINK_COUNT_FLAGGED d (s.linkOf d n)) f) : (s.errHandled d n ch kind).get f = s.get f := by
  have hb : addrBlock f.addr = 0x10 := hf ▸ addrBlock_spanSlot d (by omega) (by omega)
  rw [State.errHandled, State.get_flagAround (by omega) hcnt, State.get_errCounted_apart (errCounter_apart hf (by omega)) hev]

theorem State.charBkt_errHandled :
    (s.errHandled d n ch kind).get (LANE_ALIGNCNT_CHAR_BKT d n) = s.get (LANE_ALIGNCNT_CHAR_BKT d n) := by
  have hj := s.linkOf_lt d n
  rw [State.get_errHandled (by exact rfl) (by omega)]
  all_goals exact RF.apart rfl rfl (by omega)

theorem State.charBelow_errHandled (h : s.CharBelow d n) :
    (s.errHandled d n ch kind).CharBelow d n := by
  have hj := s.linkOf_lt d n
  rw [State.CharBelow, State.charBkt_errHandled hn, State.get_errHandled (by exact rfl) (by omega)]
  · exact h
  all_goals exact RF.apart rfl rfl (by omega)

theorem State.laneState_errHandled : (s.errHandled d n ch kind).laneState d n = s.laneState d n := by
  have hj := s.linkOf_lt d n
  rw [State.laneState, State.get_errHandled (by exact rfl) (by omega), State.laneState]
  all_goals exact RF.apart rfl rfl (by omega)

theorem State.get_errHandled_count :
    (s.errHandled d n ch kind).get (errCounter d n kind) = min (2 ^ 24 - 1) (s.get (errCounter d n kind) + 1) := by
  have hj := s.linkOf_lt d n
  obtain ⟨lo, he, -⟩ := errCounter_eq d n kind
  have hb : addrBlock (errCounter d n kind).addr ≠ 0x11 := by
    rw [he, LANE_ERRCNT, addrBlock_spanSlot d (by omega) (by omega)]; omega
  rw [State.errHandled, State.get_flagAround hb (RF.apart rfl he (.inl (by omega))), State.get_errCounted_count]

end

theorem State.linkSt_charBucket {s : State} {d n j : Nat} (h : s.CharBelow d n) :
    (s.charBucket d n).linkSt d j = s.linkSt d j := by
  rw [State.charBucket_of_below h, State.linkSt_of_ings d j (State.charge_ings _ _ _)]

/-- Settles O27: each command's answer is a lemma about `exec` above; what its state shows follows from the laws of the
operations it is made of, which say what each leaves. -/
theorem lanesFollowTheirStates : Obligations.LanesFollowTheirStates := by
  unfold Obligations.LanesFollowTheirStates
  intro s d n hd hn
  have hj := State.linkOf_lt s d n
  refine ⟨fun pll hst => ?lock, fun hst => ?groups, fun cdr hst herrs hb => ?loss,
    fun ch g pos hoff hdead hb => ⟨State.charFault_of_undecoded, exec_characterError_of_clean, fun kind hk => ?fault⟩,
    fun isA pos hst hpos => ⟨fun since h => ?misplaced, fun h hlink => ?again⟩⟩
  case lock =>
    exact ⟨_, exec_cdrLock_of_acq hd hst, State.laneState_locked, State.cdrLock_locked, State.quadLock_locked,
      State.onlyRegs_locked s d n pll⟩
  case groups =>
    exact ⟨_, exec_cgsAchieved_of_hunt hd hst, State.laneState_setLane, State.getBit_laneCgs_setLane hn,
      (s.onlyRegs_refl _).setLane (by simp) (by simp)⟩
  case loss =>
    have hbelow := State.realBelow_lost (cdr := cdr) hn hb
    refine ⟨_, exec_cgsLoss_of_lost hd hst herrs, ?_, fun hc hmode => ?_, fun hlink => ?_, ?_, ?_⟩
    · rw [State.laneState, State.get_realBucket_apart hbelow, State.lost, State.get_reinit_apart, State.get_lossCounted_apart]
      exact State.laneState_unsynced
      all_goals exact RF.apart rfl rfl (by omega)
    · rw [State.get_realBucket_apart hbelow, State.lost, State.get_reinit_apart, State.get_lossCounted_apart, hc]
      exact State.peakUsed_enterAcq_fixed hmode
      all_goals exact RF.apart rfl rfl (by omega)
    · rw [← State.linkState_lossCounted (cdr := cdr)] at hlink
      refine ⟨?_, ?_, ?_⟩
      · rw [State.linkState, State.get_realBucket_apart hbelow]; exact State.linkState_reinit hlink
        all_goals exact RF.apart rfl rfl (by omega)
      · rw [State.get_realBucket_apart hbelow]; exact State.syncAsserted_reinit hlink
        all_goals exact RF.apart rfl rfl (by omega)
      · rw [State.get_realBucket_apart hbelow, State.lost, State.reinitCount_reinit hlink, State.get_lossCounted_apart,
          State.get_unsynced_apart]
        all_goals exact RF.apart rfl rfl (by omega)
    · rw [State.get_realBucket_apart hbelow, State.lost, State.get_reinit_apart, State.get_lossCounted_count]
      all_goals exact RF.apart rfl rfl (by omega)
    · rw [State.get_realBucket_same hbelow, State.realBkt_lost hn]
  case fault =>
    have hbelow := State.charBelow_errHandled (ch := ch) (kind := kind) hn hb
    obtain ⟨lo, he, -⟩ := errCounter_eq d n kind
    refine ⟨_, exec_characterError_of_fault hd hoff hdead hn hk, ?_, ?_, ?_, fun x hx => ?_⟩
    · exact (State.get_charBucket_apart hbelow (RF.apart rfl he (.inl (by omega)))).trans (State.get_errHandled_count hn)
    · rw [State.get_charBucket_same hbelow, State.charBkt_errHandled hn]
    · rw [State.laneState, State.get_charBucket_apart hbelow]; exact State.laneState_errHandled hn
      all_goals exact RF.apart rfl rfl (by omega)
    · rw [State.linkSt_charBucket hbelow, State.errHandled, State.dataPlace, hx]
      exact State.flagged_flagAround x
  case misplaced =>
    exact ⟨_, exec_misplacedAlignment_of_first hd hn hst hpos h, State.lastMisplaced_misplaced, State.get_misplaced_count,
      State.linkState_misplaced⟩
  case again =>
    refine ⟨_, exec_misplacedAlignment_of_repeat hd hn hst hpos h, ?_, ?_, ?_⟩
    · refine Eq.trans ?_ (State.lastMisplaced_misplaced (s := s) (d := d) (n := n) (isA := isA) (run := none))
      simp only [State.lastMisplaced, State.laneSt_reinit]
    · exact (State.get_alignCounter_reinit hn).trans State.get_misplaced_count
    · exact State.linkState_reinit (.inr (State.linkState_misplaced.trans hlink))

end Sys2Proof.Machine

namespace Sys2Proof.Machine

open Reg

/-! ### Events, folds and lanes of a link -/

/-- A slot of a die's ingest block is not the keeper's slot of dropped events. -/
theorem ne_PKC_DROP {a d o : Nat} (ha : a = spanSlot d 0x10 o) (ho : o < 2 ^ 36) : a ≠ PKC_DROP := by
  subst ha
  simp only [PKC_DROP, spanSlot, keepSlot]; omega

theorem State.get_emit_ing {s : State} {code die kind unit a b : Nat} {f : RF}
    (hf : f.addr ≠ PKC_DROP) : (s.emit code die kind unit a b).get f = s.get f :=
  State.get_emit s code die kind unit a b hf

theorem State.emit_ings (s : State) (code die kind unit a b : Nat) : (s.emit code die kind unit a b).ings = s.ings := by
  simp only [State.emit, State.emitC, State.queueEvt]
  split
  · rfl
  · rw [State.bump_ings]

theorem State.emit_now (s : State) (code die kind unit a b : Nat) : (s.emit code die kind unit a b).now = s.now := by
  simp only [State.emit, State.emitC, State.queueEvt]
  split
  · rfl
  · rw [State.bump_now]

theorem State.linkLanes_lt {s : State} {d j n : Nat} (h : n ∈ s.linkLanes d j) : n < 16 :=
  List.mem_range.mp (List.mem_filter.mp h).1

theorem State.linkLanes_nodup (s : State) (d j : Nat) : (s.linkLanes d j).Nodup := List.nodup_range.filter _

/-! ### SYNC to ILAS, and back from ILAS_FAIL (R71, R72) -/

section
variable {s : State} {d j : Nat} (hd : s.present d = true) (hj : j < 8)
include hd hj

theorem exec_ilasStart_of_sync (hst : s.linkState d j = lkSYNC) (hne : s.linkLanes d j ≠ [])
    (hcgs : ∀ n ∈ s.linkLanes d j, s.laneState d n = lnCGS) (hsub : s.get (LINK_CFG_SUBCLASS d j) = 0 ∨ s.te.alignT ≠ none) :
    exec (.ilasStart d j) s = .next ((s.advance (s.syncEdge d j
      (max s.now ((s.linkSt d j).syncAt + s.get (ING_TIMERS_SYNC_MIN_MF d) * s.mfTime d j)))).setLink d j lkILAS) := by
  have hall : ((s.linkLanes d j).all fun n => s.laneState d n == lnCGS) = true := List.all_eq_true.mpr fun n hn => by simp [hcgs n hn]
  change execIlasStart d j s = _
  simp only [execIlasStart, ok]
  exact if_pos ⟨hd, hj, hst, hne, hall, hsub⟩

theorem exec_ilasRetry_of_fail (hst : s.linkState d j = lkFAIL) : exec (.ilasRetry d j) s =
    .next ((s.advance ((s.linkSt d j).failAt + s.get (ING_TIMERS_ILAS_RETRY_MS d) * tMs)).toSync d j) := by
  change execIlasRetry d j s = _
  rw [execIlasRetry, if_pos ⟨hd, hj, hst⟩, ok]

/-- The wait limit has passed, and is told. -/
def State.waited (s : State) (d j : Nat) : State :=
  ((s.advance (s.now + ((s.linkSt d j).waitAt + s.get (ING_TIMERS_LINK_WAIT_S d) * tSec - s.worked))).raise
    (ING_EVENTS_LINK_WAIT d)).emit 0x43 d 0 0 j 0

theorem exec_linkWait_of_limit (hacc : s.accepts = true) (hen : s.get (LINK_CFG_EN d j) = 1) (hw : s.get (ING_TIMERS_LINK_WAIT_S d) ≠ 0)
    (hdata : s.linkState d j ≠ lkDATA) (hdead : s.linkState d j ≠ lkDEACC) :
    exec (.linkWait d j) s = .next ((s.waited d j).deaccLink d j) := by
  change execLinkWait d j s = _
  simp only [execLinkWait, ok, State.waited]
  exact if_pos ⟨hd, hj, hw, hacc, hen, hdata, hdead⟩

end

/-! ### A link is deaccessioned (R83) -/

/-- The registers and times of a link that goes to DEACC. -/
def State.linkDead (s : State) (d j : Nat) : State :=
  ((s.setLink d j lkDEACC).putBit (ING_STATUS_LINK_DEACC d) j true).raise (ING_EVENTS_DEACC d)

section
variable {s : State} {d j : Nat}

theorem State.deaccLink_eq : s.deaccLink d j = (s.linkDead d j).setIng d { (s.linkDead d j).ing d with
    leaving := ((s.linkDead d j).ing d).leaving ++
      (s.inputsOfLink d j).filter fun i => s.get (INPUT_MAP_DEACC d i) == 0 && !((s.linkDead d j).ing d).leaving.contains i } := rfl

theorem State.linkState_deaccLink : (s.deaccLink d j).linkState d j = lkDEACC := by
  rw [State.deaccLink_eq, State.linkState, State.get_setIng, State.linkDead, State.get_raise_apart, State.get_putBit_apart]
  exact State.linkState_setLink
  all_goals exact RF.apart rfl rfl (by omega)

theorem State.deaccLink_now : (s.deaccLink d j).now = s.now := by
  rw [State.deaccLink_eq, State.setIng_now, State.linkDead, State.raise_now, State.putBit_now, State.setLink_now]

/-- Every input of the link that is not deaccessioned leaves. -/
theorem State.mem_leaving_deaccLink {i : Nat} (hi : i ∈ s.inputsOfLink d j) (hin : s.get (INPUT_MAP_DEACC d i) = 0) :
    i ∈ ((s.deaccLink d j).ing d).leaving := by
  rw [State.deaccLink_eq, State.ing_set_same, List.mem_append]
  by_cases h : i ∈ ((s.linkDead d j).ing d).leaving
  · exact .inl h
  · exact .inr (List.mem_filter.mpr ⟨hi, by simp [hin, h]⟩)

end

section
variable {s : State} {d j : Nat}

theorem State.waited_now : (s.waited d j).now =
    s.now + ((s.linkSt d j).waitAt + s.get (ING_TIMERS_LINK_WAIT_S d) * tSec - s.worked) := by
  rw [State.waited, State.emit_now, State.raise_now, State.advance]
  exact max_eq_right (Nat.le_add_right _ _)

/-- The event of the wait limit changes no field of the inputs. -/
theorem State.get_waited_inputMap {i : Nat} {f : RF} {l w : Nat} (hi : i < 128) (hf : f = ⟨INPUT_MAP d i, l, w⟩) :
    (s.waited d j).get f = s.get f := by
  subst hf
  rw [State.waited, State.get_emit_ing (by exact ne_PKC_DROP rfl (by omega)), State.get_raise_apart, State.get_advance]
  all_goals exact RF.apart rfl rfl (by omega)

theorem State.inputsOfLink_waited : (s.waited d j).inputsOfLink d j = s.inputsOfLink d j := by
  have henabled : (s.waited d j).enabledSlots d = s.enabledSlots d :=
    List.filter_congr fun i hi => by rw [State.get_waited_inputMap (List.mem_range.mp hi) (f := INPUT_MAP_EN d i) rfl]
  rw [State.inputsOfLink, henabled, State.inputsOfLink]
  refine List.filter_congr fun i hi => ?_
  rw [State.get_waited_inputMap (List.mem_range.mp (List.mem_filter.mp hi).1) (f := INPUT_MAP_LINK d i) rfl]

end

end Sys2Proof.Machine

namespace Sys2Proof.Machine

open Reg

/-! ### What a link's clock and its lanes rest on (R72, R75) -/

/-- The fields that a link's clock, its multiframe and its set of lanes are read from. -/
def clockFields (d j : Nat) : List RF :=
  [LINK_ANCHOR_OFS (8 * d + j), TE_SYNTH_FVCO_HZ, LINK_CFG_F_M1 d j, LINK_CFG_K_M1 d j] ++
    (List.range 16).flatMap fun n => [LANE_CFG_EN d n, LANE_CFG_LINK d n, QUAD_CFG_RATE_KBD d (n / 4)]

/-- Two states agree on a link's clock. -/
structure State.SameClock (s t : State) (d j : Nat) : Prop where
  te : t.te = s.te
  link : t.linkSt d j = s.linkSt d j
  get : ∀ f ∈ clockFields d j, t.get f = s.get f

namespace State.SameClock

variable {s t : State} {d j : Nat} (h : s.SameClock t d j)
include h

theorem get_link {f : RF} (hf : f ∈ [LINK_ANCHOR_OFS (8 * d + j), TE_SYNTH_FVCO_HZ, LINK_CFG_F_M1 d j, LINK_CFG_K_M1 d j]) :
    t.get f = s.get f := h.get f (List.mem_append_left _ hf)

theorem get_lane {n : Nat} (hn : n < 16) {f : RF} (hf : f ∈ [LANE_CFG_EN d n, LANE_CFG_LINK d n, QUAD_CFG_RATE_KBD d (n / 4)]) :
    t.get f = s.get f := h.get f (List.mem_append_right _ (List.mem_flatMap.mpr ⟨n, List.mem_range.mpr hn, hf⟩))

theorem linkLanes : t.linkLanes d j = s.linkLanes d j :=
  List.filter_congr fun n hn => by
    rw [h.get_lane (List.mem_range.mp hn) (f := LANE_CFG_EN d n) (by simp),
      h.get_lane (List.mem_range.mp hn) (f := LANE_CFG_LINK d n) (by simp)]

theorem lkRate : t.lkRate d j = s.lkRate d j := by
  rw [State.lkRate, h.linkLanes, State.lkRate]
  split
  · rfl
  · rename_i n ns hl
    have hn : n < 16 := State.linkLanes_lt (s := s) (d := d) (j := j) (by rw [hl]; exact List.mem_cons_self)
    rw [h.get_lane hn (f := QUAD_CFG_RATE_KBD d (n / 4)) (by simp)]

theorem lmfcAnchor : t.lmfcAnchor d j = s.lmfcAnchor d j := by
  rw [State.lmfcAnchor, h.te, State.getI, h.get_link (f := LINK_ANCHOR_OFS (8 * d + j)) (by simp),
    h.get_link (f := TE_SYNTH_FVCO_HZ) (by simp), State.lmfcAnchor, State.getI]

theorem arrivalOcts (x : Nat) : t.arrivalOcts d j x = s.arrivalOcts d j x := by
  simp only [State.arrivalOcts, h.lmfcAnchor, h.link, h.lkRate, State.lkF, State.lkK,
    h.get_link (f := LINK_CFG_F_M1 d j) (by simp), h.get_link (f := LINK_CFG_K_M1 d j) (by simp)]

end State.SameClock

/-! ### The received ILAS is kept (R73, R74) -/

/-- What a lane received in ILAS, in its registers. -/
def State.ilasKept (s : State) (d : Nat) (l : IlasLane) : State :=
  (((s.put (LANE_ILAS0_OCT0_8 d l.lane) (ofOctets (l.octs.take 9))).put (LANE_ILAS1_OCT9_13 d l.lane)
    (ofOctets ((l.octs.drop 9).take 5))).put (LANE_STATUS_SKEW d l.lane) (min l.skew 255)).put (LANE_STATUS_RX_LID d l.lane)
    (ilasField l.octs 2)

/-- What every lane received in ILAS by time t, with the greatest skew. -/
def State.ilasRead (s : State) (d j : Nat) (ls : List IlasLane) (t : Nat) : State :=
  (forAll ls (s.advance t) fun s l => s.ilasKept d l).put (LINK_STATUS_DESKEW_SPAN d j) (min 255 ((ls.map IlasLane.skew).foldl max 0))

/-- A slot in which nothing received in ILAS is kept. -/
def offIlas (d j a : Nat) : Prop :=
  (∀ n < 16, a ≠ LANE_ILAS0 d n ∧ a ≠ LANE_ILAS1 d n ∧ a ≠ LANE_STATUS d n) ∧ a ≠ LINK_STATUS d j

section
variable {s : State} {d j t : Nat} {ls : List IlasLane}

theorem State.get_ilasRead (hls : ∀ l ∈ ls, l.lane < 16) {f : RF} (hf : offIlas d j f.addr) :
    (s.ilasRead d j ls t).get f = s.get f := by
  rw [State.ilasRead, State.get_put_other _ (f := LINK_STATUS_DESKEW_SPAN d j) _ hf.2]
  refine foldl_leaves (State.get · f) (fun s l hl => ?_) (s.advance t)
  obtain ⟨h0, h1, hst⟩ := hf.1 l.lane (hls l hl)
  rw [State.ilasKept, State.get_put_other _ (f := LANE_STATUS_RX_LID d l.lane) _ hst,
    State.get_put_other _ (f := LANE_STATUS_SKEW d l.lane) _ hst,
    State.get_put_other _ (f := LANE_ILAS1_OCT9_13 d l.lane) _ h1, State.get_put_other _ (f := LANE_ILAS0_OCT0_8 d l.lane) _ h0]

/-- What a fold over the lanes leaves beside the registers. -/
theorem State.ilasRead_leaves {γ : Type} {π : State → γ} (hput : ∀ s f v, π (s.put f v) = π s) :
    π (s.ilasRead d j ls t) = π (s.advance t) := by
  rw [State.ilasRead, hput]
  refine foldl_leaves π (fun s l _ => ?_) (s.advance t)
  rw [State.ilasKept, hput, hput, hput, hput]

theorem offIlas_of_off {a o : Nat} (ha : a = spanSlot d 0x10 o)
    (hlane : ∀ n < 16, o ≠ 0x1050 + 0x100 * n ∧ o ≠ 0x1060 + 0x100 * n ∧ o ≠ 0x1010 + 0x100 * n) (hlink : o ≠ 0x2020 + 0x100 * j) :
    offIlas d j a := by
  subst ha
  refine ⟨fun n hn => ?_, spanSlot_ne rfl rfl hlink⟩
  obtain ⟨h0, h1, hst⟩ := hlane n hn
  exact ⟨spanSlot_ne rfl rfl h0, spanSlot_ne rfl rfl h1, spanSlot_ne rfl rfl hst⟩

theorem offIlas_of_config {a o : Nat} (ha : a = spanSlot d 0x10 o) (ho : o % 0x100 = 0 ∨ o < 0x1000) : offIlas d j a :=
  offIlas_of_off ha (fun n _ => by omega) (by omega)

/-- The keeper's timing block, as far as the anchors of a die's links, lies apart from the ingest block of that die. -/
theorem keepSlot_timing_ne {o p : Nat} (ho : o ≤ 0x3070 + 0x80 * d) (hp : p < 0x4000) : keepSlot 0x05 o ≠ spanSlot d 0x10 p := by
  simp only [keepSlot, spanSlot]
  rcases Nat.lt_or_ge d 15 with h | h
  · refine Nat.ne_of_gt ?_; omega
  · refine Nat.ne_of_lt ?_; omega

theorem offIlas_keeper {o : Nat} (hj : j < 8) (ho : o ≤ 0x3070 + 0x80 * d) : offIlas d j (keepSlot 0x05 o) :=
  ⟨fun _ _ => ⟨keepSlot_timing_ne ho (by omega), keepSlot_timing_ne ho (by omega), keepSlot_timing_ne ho (by omega)⟩,
    keepSlot_timing_ne ho (by omega)⟩

theorem offIlas_clockFields (hj : j < 8) {f : RF} (hf : f ∈ clockFields d j) : offIlas d j f.addr := by
  simp only [clockFields, List.mem_append, List.mem_flatMap, List.mem_cons, List.not_mem_nil, or_false, List.mem_range] at hf
  obtain (rfl | rfl | rfl | rfl) | ⟨n, hn, rfl | rfl | rfl⟩ := hf
  · exact offIlas_keeper (o := 0x3000 + 0x10 * (8 * d + j)) hj (by omega)
  · exact offIlas_keeper (o := 0xB0) hj (by omega)
  · exact offIlas_of_config (o := 0x2000 + 0x100 * j) rfl (by omega)
  · exact offIlas_of_config (o := 0x2000 + 0x100 * j) rfl (by omega)
  · exact offIlas_of_config (o := 0x1000 + 0x100 * n) rfl (by omega)
  · exact offIlas_of_config (o := 0x1000 + 0x100 * n) rfl (by omega)
  · exact offIlas_of_config (o := 0x100 + 0x10 * (n / 4)) rfl (by omega)

theorem State.sameClock_ilasRead (hj : j < 8) (hls : ∀ l ∈ ls, l.lane < 16) : s.SameClock (s.ilasRead d j ls t) d j where
  te := State.ilasRead_leaves (π := State.te) State.put_te
  link := State.linkSt_of_ings d j (State.ilasRead_leaves (π := State.ings) State.put_ings)
  get := fun _ hf => State.get_ilasRead hls (offIlas_clockFields hj hf)

theorem State.ilasRead_now : (s.ilasRead d j ls t).now = max s.now t := State.ilasRead_leaves (π := State.now) State.put_now

end

/-! ### ILAS ends (R71, R74, R77) -/

section
variable {s : State} {d j t : Nat} {ls : List IlasLane} {firsts : List Nat} (hd : s.present d = true) (hj : j < 8)
  (hst : s.linkState d j = lkILAS) (hls : ls.map IlasLane.lane = s.linkLanes d j) (hlen : firsts.length = ls.length)
include hd hj hst hls hlen

theorem exec_ilasComplete_of_pass (h : s.ilasCheck d j ls = none) :
    exec (.ilasComplete d j ls firsts t) s = .next ((s.ilasRead d j ls t).linkData d j ls firsts) := by
  change execIlasComplete d j ls firsts t s = _
  rw [execIlasComplete, if_pos ⟨hd, hj, hst, hls, hlen⟩, h]
  rfl

theorem exec_ilasComplete_of_field {f : Nat} (h : s.ilasCheck d j ls = some f) :
    exec (.ilasComplete d j ls firsts t) s = .next ((s.ilasRead d j ls t).ilasFail d j f) := by
  change execIlasComplete d j ls firsts t s = _
  rw [execIlasComplete, if_pos ⟨hd, hj, hst, hls, hlen⟩, h]
  rfl

end

/-! ### DATA begins -/

/-- A link in DATA, nothing of it released yet. -/
def State.dataEntered (s : State) (d j : Nat) : State :=
  (((s.setLink d j lkDATA).put (LINK_STATUS_DATA_SINCE_S d j) s.secs).put (LINK_STATUS_FAIL_FIELD d j) 0).setLinkSt d j
    { (((s.setLink d j lkDATA).put (LINK_STATUS_DATA_SINCE_S d j) s.secs).put (LINK_STATUS_FAIL_FIELD d j) 0).linkSt d j with
      first := true, flagged := [], mf := 0, arr := s.now }

/-- Each lane begins DATA at its own character, its buffer empty. -/
def State.lanesAligned (s : State) (d : Nat) (es : List (IlasLane × Nat)) : State :=
  forAll es s fun s e => s.setLaneSt d e.1.lane { s.laneSt d e.1.lane with first := e.2, buf := [], scr := 0 }

section
variable {s : State} {d j : Nat} {ls : List IlasLane} {firsts : List Nat} {es : List (IlasLane × Nat)}

/-- How a link enters DATA: what its lanes hold and its latency, and the event. -/
theorem State.linkData_eq : ∃ fill word, s.linkData d j ls firsts =
    ((((s.dataEntered d j).lanesAligned d (ls.zip firsts)).put (LINK_LAT_ARRIVAL d j) (min 65535 (s.arrivalOcts d j s.now))).put
      (LINK_LAT_BUF_FILL d j) fill).emit 0x40 d 0 0 j word := ⟨_, _, rfl⟩

theorem State.get_lanesAligned {f : RF} : (s.lanesAligned d es).get f = s.get f :=
  foldl_leaves (State.get · f) (fun s _ _ => State.get_setLaneSt s d _ _ f) s

theorem State.linkSt_lanesAligned : (s.lanesAligned d es).linkSt d j = s.linkSt d j :=
  foldl_leaves (State.linkSt · d j) (fun s _ _ => State.linkSt_setLaneSt s d _ j _) s

theorem State.lanesAligned_now : (s.lanesAligned d es).now = s.now :=
  foldl_leaves State.now (fun s _ _ => State.setIng_now s d _) s

theorem State.laneSt_lanesAligned_other {n : Nat} (h : ∀ e ∈ es, e.1.lane ≠ n) : (s.lanesAligned d es).laneSt d n = s.laneSt d n :=
  foldl_leaves (State.laneSt · d n) (fun s e he => State.laneSt_setLaneSt_other s d _ _ (h e he).symm) s

/-- Lanes named once each begin DATA as their entries say. -/
theorem State.laneSt_lanesAligned (hnd : (es.map fun e => e.1.lane).Nodup) {e : IlasLane × Nat} (he : e ∈ es) :
    ((s.lanesAligned d es).laneSt d e.1.lane).first = e.2 ∧ ((s.lanesAligned d es).laneSt d e.1.lane).buf = [] := by
  induction es generalizing s with
  | nil => exact absurd he List.not_mem_nil
  | cons x xs ih =>
    obtain ⟨hx, hxs⟩ := List.nodup_cons.mp hnd
    rcases List.mem_cons.mp he with rfl | he
    · have hother : ∀ y ∈ xs, y.1.lane ≠ e.1.lane := fun y hy hyx => hx (List.mem_map.mpr ⟨y, hy, hyx⟩)
      have h := State.laneSt_lanesAligned_other (s := s.setLaneSt d e.1.lane { s.laneSt d e.1.lane with first := e.2, buf := [], scr := 0 })
        (d := d) hother
      rw [State.laneSt_setLaneSt_same] at h
      exact ⟨congrArg LaneSt.first h, congrArg LaneSt.buf h⟩
    · exact ih hxs he

theorem State.linkState_dataEntered : (s.dataEntered d j).linkState d j = lkDATA := by
  rw [State.linkState, State.dataEntered, State.get_setLinkSt, State.get_put_apart, State.get_put_apart]
  exact State.linkState_setLink
  all_goals exact RF.apart rfl rfl (by omega)

theorem State.syncAsserted_dataEntered : (s.dataEntered d j).get (LINK_STATUS_SYNC_ASSERTED d j) = 0 := by
  rw [State.dataEntered, State.get_setLinkSt, State.get_put_apart, State.get_put_apart, State.syncAsserted_setLink]
  rfl
  all_goals exact RF.apart rfl rfl (by omega)

theorem State.failField_dataEntered : (s.dataEntered d j).get (LINK_STATUS_FAIL_FIELD d j) = 0 := by
  rw [State.dataEntered, State.get_setLinkSt, State.get_put_fits (by exact RF.fits rfl (by omega)), Nat.zero_mod]

theorem State.dataEntered_now : (s.dataEntered d j).now = s.now := by
  rw [State.dataEntered, State.setLinkSt, State.setIng_now, State.put_now, State.put_now, State.setLink_now]

theorem State.linkSt_dataEntered : ((s.dataEntered d j).linkSt d j).first = true ∧ ((s.dataEntered d j).linkSt d j).arr = s.now ∧
    ((s.dataEntered d j).linkSt d j).mf = 0 := by
  rw [State.dataEntered, State.linkSt_setLinkSt_same]
  exact ⟨rfl, rfl, rfl⟩

/-- A link that enters DATA shows its state there as `State.dataEntered` has it. -/
theorem State.get_linkData {f : RF} {l w : Nat} (hj : j < 8) (hf : f = ⟨LINK_STATUS d j, l, w⟩) :
    (s.linkData d j ls firsts).get f = (s.dataEntered d j).get f := by
  subst hf
  obtain ⟨fill, word, h⟩ := State.linkData_eq (s := s) (d := d) (j := j) (ls := ls) (firsts := firsts)
  rw [h, State.get_emit_ing (by exact ne_PKC_DROP rfl (by omega)), State.get_put_apart, State.get_put_apart, State.get_lanesAligned]
  all_goals exact RF.apart rfl rfl (by omega)

theorem State.arrival_linkData (hj : j < 8) :
    (s.linkData d j ls firsts).get (LINK_LAT_ARRIVAL d j) = min 65535 (s.arrivalOcts d j s.now) := by
  obtain ⟨fill, word, h⟩ := State.linkData_eq (s := s) (d := d) (j := j) (ls := ls) (firsts := firsts)
  rw [h, State.get_emit_ing (by exact ne_PKC_DROP rfl (by omega)), State.get_put_apart,
    State.get_put_fits (by exact RF.fits rfl (by omega))]
  exact Nat.mod_eq_of_lt (by simp only [LINK_LAT_ARRIVAL]; omega)
  all_goals exact RF.apart rfl rfl (by omega)

theorem State.linkData_now : (s.linkData d j ls firsts).now = s.now := by
  obtain ⟨fill, word, h⟩ := State.linkData_eq (s := s) (d := d) (j := j) (ls := ls) (firsts := firsts)
  rw [h, State.emit_now, State.put_now, State.put_now, State.lanesAligned_now, State.dataEntered_now]

theorem State.linkData_ings : (s.linkData d j ls firsts).ings = ((s.dataEntered d j).lanesAligned d (ls.zip firsts)).ings := by
  obtain ⟨fill, word, h⟩ := State.linkData_eq (s := s) (d := d) (j := j) (ls := ls) (firsts := firsts)
  rw [h, State.emit_ings, State.put_ings, State.put_ings]

end

/-! ### ILAS fails (R71, R82) -/

/-- A failed link before its lanes' buckets are charged. -/
def State.ilasFailed (s : State) (d j fld : Nat) : State :=
  let s1 := ((s.setLink d j lkFAIL).put (LINK_STATUS_FAIL_FIELD d j) fld).raise (ING_EVENTS_ILAS_FAIL d)
  ((s1.setLinkSt d j { s1.linkSt d j with failAt := s.now }).bump (LINK_COUNT_ILAS_FAILS d j)).emit 0x41 d 0 0 j fld

section
variable {s : State} {d j fld : Nat}

theorem State.ilasFail_eq : s.ilasFail d j fld = forAll (s.linkLanes d j) (s.ilasFailed d j fld) fun s n => s.realBucket d n := rfl

/-- Buckets of different lanes, each below the threshold, gain one each and no more comes of it. -/
theorem State.forAll_realBucket_of_below {ns : List Nat} (hnd : ns.Nodup) (hlt : ∀ n ∈ ns, n < 16)
    (hb : ∀ n ∈ ns, s.RealBelow d n) :
    (forAll ns s fun s n => s.realBucket d n) = forAll ns s fun s n => s.charge ⟨d, 1, n⟩ 1 (LANE_ALIGNCNT_REAL_BKT d n) := by
  induction ns generalizing s with
  | nil => rw [forAll, List.foldl_nil, forAll, List.foldl_nil]
  | cons n ns ih =>
    obtain ⟨hn, hns⟩ := List.nodup_cons.mp hnd
    have hn16 := hlt n List.mem_cons_self
    rw [forAll, List.foldl_cons, State.realBucket_of_below (hb n List.mem_cons_self), forAll, List.foldl_cons]
    refine ih hns (fun m hm => hlt m (List.mem_cons_of_mem n hm)) fun m hm => ?_
    have hm16 := hlt m (List.mem_cons_of_mem n hm)
    have hne : m ≠ n := fun e => hn (e ▸ hm)
    rw [State.RealBelow, State.get_charge_apart, State.get_charge_apart]
    exact hb m (List.mem_cons_of_mem n hm)
    all_goals exact RF.apart rfl rfl (by omega)

theorem State.linkState_ilasFailed (hj : j < 8) : (s.ilasFailed d j fld).linkState d j = lkFAIL := by
  simp only [State.linkState, State.ilasFailed]
  rw [State.get_emit_ing (by exact ne_PKC_DROP rfl (by omega)), State.get_bump_apart, State.get_setLinkSt, State.get_raise_apart,
    State.get_put_apart]
  exact State.linkState_setLink
  all_goals exact RF.apart rfl rfl (by omega)

theorem State.syncAsserted_ilasFailed (hj : j < 8) : (s.ilasFailed d j fld).get (LINK_STATUS_SYNC_ASSERTED d j) = 1 := by
  simp only [State.ilasFailed]
  rw [State.get_emit_ing (by exact ne_PKC_DROP rfl (by omega)), State.get_bump_apart, State.get_setLinkSt, State.get_raise_apart,
    State.get_put_apart, State.syncAsserted_setLink]
  rfl
  all_goals exact RF.apart rfl rfl (by omega)

theorem State.failField_ilasFailed (hj : j < 8) : (s.ilasFailed d j fld).get (LINK_STATUS_FAIL_FIELD d j) = fld % 32 := by
  simp only [State.ilasFailed]
  rw [State.get_emit_ing (by exact ne_PKC_DROP rfl (by omega)), State.get_bump_apart, State.get_setLinkSt, State.get_raise_apart,
    State.get_put_fits (by exact RF.fits rfl (by omega))]
  rfl
  all_goals exact RF.apart rfl rfl (by omega)

theorem State.failCount_ilasFailed (hj : j < 8) : (s.ilasFailed d j fld).get (LINK_COUNT_ILAS_FAILS d j) =
    min (2 ^ 24 - 1) (s.get (LINK_COUNT_ILAS_FAILS d j) + 1) := by
  simp only [State.ilasFailed]
  rw [State.get_emit_ing (by exact ne_PKC_DROP rfl (by omega)), State.get_bump_fits (by exact RF.fits rfl (by omega)),
    State.get_setLinkSt, State.get_raise_apart, State.get_put_apart, State.get_setLink_apart]
  rfl
  all_goals exact RF.apart rfl rfl (by omega)

/-- A failed link's registers but for its states, its count and the event. -/
theorem State.get_ilasFailed {o l w : Nat} {f : RF} (hf : f = ⟨spanSlot d 0x10 o, l, w⟩) (ho : o < 0x2000 ∧ 0x20 < o) :
    (s.ilasFailed d j fld).get f = s.get f := by
  subst hf
  simp only [State.ilasFailed]
  rw [State.get_emit_ing (by exact ne_PKC_DROP rfl (by omega)), State.get_bump_apart, State.get_setLinkSt, State.get_raise_apart,
    State.get_put_apart, State.get_setLink_apart]
  all_goals exact RF.apart rfl rfl (by omega)

theorem State.failAt_ilasFailed : ((s.ilasFailed d j fld).linkSt d j).failAt = s.now := by
  simp only [State.ilasFailed]
  rw [State.linkSt_of_ings d j (State.emit_ings _ _ _ _ _ _ _), State.linkSt_of_ings d j (State.bump_ings _ _), State.linkSt_setLinkSt_same]

end

end Sys2Proof.Machine

namespace Sys2Proof.Machine

open Reg

/-! ### A link that fails its ILAS, once its lanes' buckets are charged -/

section
variable {s : State} {d j fld t : Nat} {ls : List IlasLane}

/-- Where every lane's bucket is below the threshold, the failure charges each and does no more. -/
theorem State.ilasFail_of_below (hb : ∀ n ∈ s.linkLanes d j, s.RealBelow d n) :
    s.ilasFail d j fld = forAll (s.linkLanes d j) (s.ilasFailed d j fld) fun s n =>
      s.charge ⟨d, 1, n⟩ 1 (LANE_ALIGNCNT_REAL_BKT d n) := by
  rw [State.ilasFail_eq]
  refine State.forAll_realBucket_of_below (s.linkLanes_nodup d j) (fun n hn => State.linkLanes_lt hn) fun n hn => ?_
  have hn16 := State.linkLanes_lt hn
  rw [State.RealBelow, State.get_ilasFailed (f := LANE_ALIGNCNT_REAL_BKT d n) rfl (by omega),
    State.get_ilasFailed (f := ING_BUCKET_CFG_REAL_THRESH d) rfl (by omega)]
  exact hb n hn

/-- A field outside the lanes' registers. -/
theorem State.get_ilasFail {o l w : Nat} {f : RF}
    (hb : ∀ n ∈ s.linkLanes d j, s.RealBelow d n)
    (hf : f = ⟨spanSlot d 0x10 o, l, w⟩) (ho : 0x2000 ≤ o) : (s.ilasFail d j fld).get f = (s.ilasFailed d j fld).get f := by
  rw [State.ilasFail_of_below hb]
  refine foldl_leaves (State.get · f) (fun s n hn => ?_) (s.ilasFailed d j fld)
  have hn16 := State.linkLanes_lt hn
  exact State.get_charge_apart (RF.apart rfl hf (.inl (by omega)))

theorem State.linkSt_ilasFail
    (hb : ∀ n ∈ s.linkLanes d j, s.RealBelow d n) :
    (s.ilasFail d j fld).linkSt d j = (s.ilasFailed d j fld).linkSt d j := by
  rw [State.ilasFail_of_below hb]
  exact foldl_leaves (State.linkSt · d j) (fun s n _ => State.linkSt_of_ings d j (State.charge_ings _ _ _)) _

/-- What was received in ILAS leaves the lanes' buckets and their threshold. -/
theorem State.realBelow_ilasRead (hj : j < 8) (hls : ∀ l ∈ ls, l.lane < 16)
    (hb : ∀ n ∈ s.linkLanes d j, s.RealBelow d n) :
    ∀ n ∈ (s.ilasRead d j ls t).linkLanes d j, (s.ilasRead d j ls t).RealBelow d n := by
  rw [(State.sameClock_ilasRead hj hls).linkLanes]
  intro n hn
  have hn16 := State.linkLanes_lt hn
  rw [State.RealBelow, State.get_ilasRead hls (offIlas_of_off (o := 0x1030 + 0x100 * n) rfl (fun m _ => by omega) (by omega)),
    State.get_ilasRead hls (offIlas_of_config (o := 0x30) rfl (by omega))]
  exact hb n hn

end

/-- Settles O28. The state that each command answers is given by the lemmas about `exec` above; ILAS adds what the lanes received
(`State.ilasRead`), which the link's clock does not rest on (`State.SameClock`). -/
theorem linksInitialise : Obligations.LinksInitialise := by
  unfold Obligations.LinksInitialise
  intro s d j hd hj
  refine ⟨fun hst hne hcgs hsub => ?start, fun ls firsts at0 hst hlanes hlen => ?ilas, fun hst => ?retry,
    fun hacc hen hw hdata hdead => ?wait⟩
  case start =>
    refine ⟨_, exec_ilasStart_of_sync hd hj hst hne hcgs hsub, State.linkState_setLink, State.syncAsserted_setLink, ?_⟩
    rw [State.setLink_now, State.advance]
  case ilas =>
    have hls : ∀ l ∈ ls, l.lane < 16 := fun l hl => State.linkLanes_lt (hlanes ▸ List.mem_map_of_mem hl)
    refine ⟨fun hpass => ?pass, fun f hfield hb => ?fail⟩
    case pass =>
      have hnow := State.ilasRead_now (s := s) (d := d) (j := j) (t := at0) (ls := ls)
      have hlink : ((s.ilasRead d j ls at0).linkData d j ls firsts).linkSt d j = ((s.ilasRead d j ls at0).dataEntered d j).linkSt d j :=
        (State.linkSt_of_ings d j State.linkData_ings).trans State.linkSt_lanesAligned
      obtain ⟨hfirst, harr, hmf⟩ := State.linkSt_dataEntered (s := s.ilasRead d j ls at0) (d := d) (j := j)
      have hnd : ((ls.zip firsts).map fun e => e.1.lane).Nodup := by
        have hmap : (ls.zip firsts).map (fun e => e.1.lane) = s.linkLanes d j := by
          rw [← hlanes, ← congrArg (List.map IlasLane.lane) (List.map_fst_zip hlen.ge), List.map_map]; rfl
        exact hmap ▸ s.linkLanes_nodup d j
      refine ⟨_, exec_ilasComplete_of_pass hd hj hst hlanes hlen hpass, ?_, ?_, ?_, ?_, ?_, ?_, ?_, ?_, fun e he => ?_⟩
      · rw [State.linkState, State.get_linkData hj (by exact rfl)]; exact State.linkState_dataEntered
      · rw [State.get_linkData hj (by exact rfl), State.syncAsserted_dataEntered]
      · rw [State.get_linkData hj (by exact rfl), State.failField_dataEntered]
      · rw [State.linkData_now, hnow]
      · rw [State.arrival_linkData hj, (State.sameClock_ilasRead hj hls).arrivalOcts, hnow]
      · rw [hlink, hfirst]
      · rw [hlink, harr, hnow]
      · rw [hlink, hmf]
      · rw [State.laneSt_of_ings d e.1.lane State.linkData_ings]
        exact State.laneSt_lanesAligned hnd he
    case fail =>
      have hbelow := State.realBelow_ilasRead (t := at0) hj hls hb
      refine ⟨_, exec_ilasComplete_of_field hd hj hst hlanes hlen hfield, ?_, ?_, ?_, ?_, ?_⟩
      · rw [State.linkState, State.get_ilasFail hbelow (f := LINK_STATUS_STATE d j) rfl (by omega)]
        exact State.linkState_ilasFailed hj
      · rw [State.get_ilasFail hbelow (f := LINK_STATUS_SYNC_ASSERTED d j) rfl (by omega), State.syncAsserted_ilasFailed hj]
      · rw [State.linkSt_ilasFail hbelow, State.failAt_ilasFailed, State.ilasRead_now]
      · rw [State.get_ilasFail hbelow (f := LINK_STATUS_FAIL_FIELD d j) rfl (by omega), State.failField_ilasFailed hj]
      · rw [State.get_ilasFail hbelow (f := LINK_COUNT_ILAS_FAILS d j) rfl (by omega), State.failCount_ilasFailed hj,
          State.get_ilasRead hls (offIlas_of_off (o := 0x2040 + 0x100 * j) rfl (fun n _ => by omega) (by omega))]
  case retry =>
    refine ⟨_, exec_ilasRetry_of_fail hd hj hst, ?_, ?_, ?_⟩
    · rw [State.linkState, State.get_toSync]; exact State.linkState_setLink
    · rw [State.get_toSync, State.syncAsserted_setLink]; rfl
    · rw [State.toSync_now, State.advance]
  case wait =>
    refine ⟨_, exec_linkWait_of_limit hd hj hacc hen hw hdata hdead, State.linkState_deaccLink, ?_, fun i hi hin => ?_⟩
    · rw [State.deaccLink_now, State.waited_now]
    · have hi128 : i < 128 := List.mem_range.mp (List.mem_filter.mp (List.mem_filter.mp hi).1).1
      refine State.mem_leaving_deaccLink (by rwa [State.inputsOfLink_waited]) ?_
      rwa [State.get_waited_inputMap hi128 (f := INPUT_MAP_DEACC d i) rfl]

end Sys2Proof.Machine

namespace Sys2Proof.Machine

open Reg

/-! ### Samples read from a delay line (R97, R99) -/

section
variable {s t : State} {d b x y val : Nat} {flag : Bool}

theorem State.lineRead_eq : s.lineRead d b x =
    (signed 16 (bitsOf (s.get (lineField d b x)) 0 16), bit (s.get (lineField d b x)) 16) := rfl

theorem State.lineRead_congr (h : t.get (lineField d b x) = s.get (lineField d b x)) : t.lineRead d b x = s.lineRead d b x := by
  rw [State.lineRead_eq, h, State.lineRead_eq]

theorem signed_mod (w v : Nat) : signed w (v % 2 ^ w) = signed w v := by simp only [signed, Nat.mod_mod]

/-- A sample reads back as written; a flagged one reads 0. -/
theorem State.lineRead_lineWrite_same : (s.lineWrite d b x val flag).lineRead d b x = if flag then (0, true) else
    (signed 16 val, false) := by
  have hfit : (lineField d b x).lo + (lineField d b x).wid ≤ 72 := by simp only [lineField]; omega
  rw [State.lineRead_eq, State.lineWrite_eq_put, State.get_put_same _ _ hfit]
  cases flag
  · have hv : val % 65536 % 2 ^ (lineField d b x).wid = val % 2 ^ 16 := by simp only [lineField]; omega
    have hbits : bitsOf (val % 2 ^ 16) 0 16 = val % 2 ^ 16 := by simp only [bitsOf]; omega
    have hbit : bit (val % 2 ^ 16) 16 = false := by simp only [bit]; simp
    simp only [Bool.false_eq_true, if_false, hv, hbits, hbit, signed_mod]
  · change (signed 16 (bitsOf (65536 % 2 ^ 18) 0 16), bit (65536 % 2 ^ 18) 16) = (0, true)
    decide

theorem State.lineRead_lineWrite_other (h : y % 65536 ≠ x % 65536) : (s.lineWrite d b y val flag).lineRead d b x = s.lineRead d b x := by
  refine State.lineRead_congr ?_
  rw [State.lineWrite_eq_put]
  exact State.get_put_apart (RF.apart rfl rfl (by omega))

/-- Samples written one after the other at places that differ, from values that the samples do not change. -/
theorem State.lineRead_forAll_lineWrite {xs : List Nat} {place : Nat → Nat} {value : State → Nat → Nat} {flagOf : Nat → Bool}
    (hplace : ∀ x ∈ xs, ∀ y ∈ xs, place x % 65536 = place y % 65536 → x = y)
    (hvalue : ∀ s x y v f, value (s.lineWrite d b y v f) x = value s x) (hx : x ∈ xs) (s : State) :
    (forAll xs s fun s x => s.lineWrite d b (place x) (value s x) (flagOf x)).lineRead d b (place x) =
      if flagOf x then (0, true) else (signed 16 (value s x), false) := by
  induction xs generalizing s with
  | nil => exact absurd hx List.not_mem_nil
  | cons z zs ih =>
    rw [forAll, List.foldl_cons]
    by_cases hzs : x ∈ zs
    · have h := ih (fun a ha c hc => hplace a (List.mem_cons_of_mem z ha) c (List.mem_cons_of_mem z hc)) hzs
        (s.lineWrite d b (place z) (value s z) (flagOf z))
      rwa [hvalue] at h
    · obtain rfl : x = z := (List.mem_cons.mp hx).resolve_right hzs
      have hother : ∀ y ∈ zs, place y % 65536 ≠ place x % 65536 := fun y hy e =>
        hzs (hplace y (List.mem_cons_of_mem x hy) x List.mem_cons_self e ▸ hy)
      have hleaves := foldl_leaves (l := zs) (State.lineRead · d b (place x))
        (f := fun s y => s.lineWrite d b (place y) (value s y) (flagOf y)) (fun s y hy => State.lineRead_lineWrite_other (hother y hy))
        (s.lineWrite d b (place x) (value s x) (flagOf x))
      exact hleaves.trans State.lineRead_lineWrite_same

end

/-! ### Counting what leaves changes counters only -/

theorem State.count_ings (s : State) (d k n : Nat) : (s.count d k n).ings = s.ings := by
  rw [State.count]; split <;> simp

theorem State.count_now (s : State) (d k n : Nat) : (s.count d k n).now = s.now := by
  rw [State.count]; split <;> simp

section
variable {s : State} {d ev i n : Nat}

theorem State.pm_ings : (s.pm d ev i n).ings = s.ings := by
  rw [State.pm]
  split
  · rfl
  · exact foldl_leaves State.ings (fun s k _ => State.count_ings s d k n) s

theorem State.pm_now : (s.pm d ev i n).now = s.now := by
  rw [State.pm]
  split
  · rfl
  · exact foldl_leaves State.now (fun s k _ => State.count_now s d k n) s

theorem State.lineRead_pm {b x : Nat} (hb : b < 258) : (s.pm d ev i n).lineRead d b x = s.lineRead d b x :=
  State.lineRead_congr (State.get_pm s d ev i n (by rw [addrBlock_lineField d x hb]; omega))

end

/-! ### Links as their configuration has them -/

section
variable {s t : State} {d j : Nat}

theorem State.linkStreams_congr (h : ∀ f, t.get f = s.get f) : t.linkStreams d j = s.linkStreams d j := by
  simp only [State.linkStreams, State.inputsOfLink, State.enabledSlots, State.streamBase, h]

theorem State.lkK_le : s.lkK d j ≤ 32 := State.get_lt s (LINK_CFG_K_M1 d j)

theorem State.lkS_le : s.lkS d j ≤ 32 := State.get_lt s (LINK_CFG_S_M1 d j)

/-- The samples of a multiframe are far fewer than a delay line holds. -/
theorem State.mfSamples_le : s.lkK d j * s.lkS d j ≤ 1024 := Nat.mul_le_mul State.lkK_le State.lkS_le

theorem State.lineFlag_now {a b : Nat} : (s.lineFlag d j a b).now = s.now := by
  have hlines : (s.flagLines d j a b).now = s.now :=
    foldl_leaves State.now (fun s _ _ => foldl_leaves State.now (fun s _ _ => by rw [State.lineWrite_eq_put, State.put_now]) s) s
  by_cases h : a < b
  · rw [State.lineFlag_of_lt h, State.setLinkSt, State.setIng_now, hlines]
  · rw [State.lineFlag_of_not_lt h, hlines]

/-- The one stream of a link reads flagged zeros where they were set. -/
theorem State.lineRead_lineFlag {a m x b c : Nat} (hs : s.linkStreams d j = [(b, c)]) (hm : m ≤ 1024) (hx : x < m) :
    (s.lineFlag d j a (a + m)).lineRead d b (a + x) = (0, true) := by
  have hline : (s.flagLines d j a (a + m)).lineRead d b (a + x) = (0, true) := by
    rw [State.flagLines, hs, forAll, List.foldl_cons, List.foldl_nil, Nat.add_sub_cancel_left]
    refine State.lineRead_forAll_lineWrite (place := fun x => a + x) (value := fun _ _ => 0) (flagOf := fun _ => true)
      (fun y hy z hz h => ?_) (fun _ _ _ _ _ => rfl) (List.mem_range.mpr hx) s
    have := List.mem_range.mp hy
    have := List.mem_range.mp hz
    omega
  rw [State.lineFlag_of_lt (by omega), ← hline]
  exact State.lineRead_congr (State.get_setLinkSt _ d j _ _)

end

/-! ### A link out of DATA (R68) -/

/-- A multiframe's time of a running stream passes, its samples flagged zeros. -/
def State.flaggedOn (s : State) (d j : Nat) : State :=
  (s.advance ((s.linkSt d j).relT + s.mfTime d j)).lineFlag d j (s.linkSt d j).next ((s.linkSt d j).next + s.lkK d j * s.lkS d j)

section
variable {s : State} {d j : Nat}

theorem State.releaseFlagged_of_live (h : (s.linkSt d j).live = true) : ∃ dirty, s.releaseFlagged d j =
    ((s.flaggedOn d j).setLinkSt d j { (s.flaggedOn d j).linkSt d j with
      next := (s.linkSt d j).next + s.lkK d j * s.lkS d j, live := true, relT := (s.linkSt d j).relT + s.mfTime d j, dirty := dirty }).pm
        d 0x10 j (s.lkK d j) := by
  simp only [State.releaseFlagged, h, if_true, State.flaggedOn]
  exact ⟨_, rfl⟩

theorem exec_frameRelease_of_out (hd : s.present d = true) (hj : j < 8) (hen : s.get (LINK_CFG_EN d j) = 1) (hmode : s.ingestMode = true)
    (hst : s.linkState d j ≠ lkDATA) (q0 q1 q2 q3 : List (List Nat)) :
    exec (.frameRelease d j q0 q1 q2 q3) s = .next (s.releaseFlagged d j) := by
  change execFrameRelease d j q0 q1 q2 q3 s = _
  rw [execFrameRelease, if_pos ⟨hd, hj, hen, hmode⟩, if_neg hst, ok]

end

end Sys2Proof.Machine

namespace Sys2Proof.Machine

open Reg

/-! ### A lane gives up a multiframe of plain data (R65, R74, R79) -/

/-- Data characters give their own octets where nothing is scrambled. -/
theorem restoreAll_dChr (f : Nat) : ∀ {octs : List Nat}, (∀ o ∈ octs, o < 256) → ∀ p last h,
    (restoreAll f false p (octs.map dChr) last h).1 = octs
  | [], _, _, _, _ => rfl
  | o :: os, ho, p, last, h => by
    have hrest := restoreAll_dChr f (fun x hx => ho x (List.mem_cons_of_mem o hx)) (p + 1)
      (restoreOct f false p (dChr o) last h).2.1 (restoreOct f false p (dChr o) last h).2.2
    have hoct : (restoreOct f false p (dChr o) last h).1 = o := Nat.mod_eq_of_lt (ho o List.mem_cons_self)
    rw [List.map_cons, restoreAll, hoct, hrest]

section
variable {s : State} {d j n : Nat} {gs octs : List Nat}

theorem State.laneTake_octets (hscr : s.get (LINK_CFG_SCR d j) = 0) (hbuf : (s.laneSt d n).buf = [])
    (hlen : octs.length = s.lkF d j * s.lkK d j)
    (ho : ∀ o ∈ octs, o < 256) (hgs : gs.map (fun g => dec10 (s.groupOf d n g)) = octs.map fun o => some (dChr o)) :
    (s.laneTake d j n gs).1 = octs := by
  have hchars : (gs.map fun g => (dec10 (s.groupOf d n g)).getD (dChr 0)) = octs.map dChr := by
    have h := congrArg (List.map fun c : Option Chr => c.getD (dChr 0)) hgs
    rwa [List.map_map, List.map_map] at h
  have htake : (octs.map dChr).take (s.lkF d j * s.lkK d j) = octs.map dChr := List.take_of_length_le (by rw [List.length_map, hlen])
  simp only [State.laneTake, hbuf, List.nil_append, hchars, htake, hscr]
  exact restoreAll_dChr _ ho _ _ _

/-- Time that passes changes nothing of what a lane gives up. -/
theorem State.laneTake_octets_advance {t : Nat} (hscr : s.get (LINK_CFG_SCR d j) = 0) (hbuf : (s.laneSt d n).buf = [])
    (hlen : octs.length = s.lkF d j * s.lkK d j) (ho : ∀ o ∈ octs, o < 256)
    (hgs : gs.map (fun g => dec10 (s.groupOf d n g)) = octs.map fun o => some (dChr o)) :
    ((s.advance t).laneTake d j n gs).1 = octs := by
  refine State.laneTake_octets ((State.get_advance s t _).trans hscr) ?_ ?_ ho ?_
  · rw [State.laneSt_of_ings d n (State.advance_ings s t), hbuf]
  · simpa only [State.lkF, State.lkK, State.get_advance] using hlen
  · simpa only [State.groupOf, State.get_advance] using hgs

theorem State.get_laneTake {f : RF} : (s.laneTake d j n gs).2.get f = s.get f := rfl

theorem State.laneTake_now : (s.laneTake d j n gs).2.now = s.now := rfl

theorem State.lanesTake_singleton :
    s.lanesTake d j [(n, gs)] = ([(s.get (LANE_CFG_LOGICAL d n), (s.laneTake d j n gs).1)], (s.laneTake d j n gs).2) := rfl

/-! ### Words of a frame on one lane (R80) -/

/-- Word w of a frame on one logical lane: its two octets, the first the higher. -/
theorem State.frameWord_singleton {x w : Nat} (hnp : s.lkNP d j = 16) (hw : 2 * w + 1 < s.lkF d j) :
    s.frameWord d j [(0, octs)] x w = octs.getD (x * s.lkF d j + 2 * w) 0 * 256 + octs.getD (x * s.lkF d j + 2 * w + 1) 0 := by
  have hoctet : ∀ k < s.lkF d j, (([(0, octs)].find? fun e : Nat × List Nat => e.1 == k / s.lkF d j).map
      fun e => e.2.getD (x * s.lkF d j + k % s.lkF d j) 0).getD 0 = octs.getD (x * s.lkF d j + k) 0 := fun k hk => by
    simp [Nat.div_eq_of_lt hk, Nat.mod_eq_of_lt hk]
  simp only [State.frameWord, hnp]
  rw [show List.range (16 / 8) = [0, 1] from rfl, List.foldl_cons, List.foldl_cons, List.foldl_nil, hoctet _ (by omega),
    hoctet _ (by omega)]
  rw [Nat.zero_mul, Nat.zero_add, Nat.mul_comm w 2, Nat.add_zero, Nat.add_assoc]

end

/-! ### A multiframe of DATA is released (R76 to R80, R96) -/

/-- The place on the input-rate grid of the release of a link's next multiframe, and the remainder. -/
def State.releasePlace (s : State) (d j : Nat) : Int × Nat :=
  let t := s.releaseAt d j (s.linkSt d j).mf
  if s.get (LINK_CFG_SUBCLASS d j) == 0 then s.rateIndex d j t
  else s.rateIndex d j (t + (s.mfTime d j / (2 * s.lkK d j * s.lkS d j) : Nat))

/-- The index of the first sample of DATA. -/
def State.dataBase (s : State) (d j : Nat) : Int := if (s.linkSt d j).first then (s.releasePlace d j).1 else (s.linkSt d j).base

/-- The offset of R96 once the next multiframe is released. -/
def State.dataRest (s : State) (d j : Nat) : Nat :=
  if (s.linkSt d j).first then (if s.get (LINK_CFG_SUBCLASS d j) == 0 then (s.releasePlace d j).2 else 0) else (s.linkSt d j).r

/-- The time of the release has come; before the first of DATA a running stream goes on flagged up to its new place. -/
def State.releaseTime (s : State) (d j : Nat) : State :=
  (if (s.linkSt d j).first && (s.linkSt d j).live then
    (s.setLinkSt d j { s.linkSt d j with dirty := clipDirty (s.dataBase d j) (s.linkSt d j).dirty }).lineFlag d j
      (max (s.linkSt d j).next ((s.dataBase d j).toNat - 65536)) (s.dataBase d j).toNat
  else s).advance (s.releaseAt d j (s.linkSt d j).mf)

/-- The samples of the multiframe enter the delay lines. -/
def State.samplesWritten (s : State) (d j : Nat) (groups : List (List Nat)) : State :=
  let idx := s.dataBase d j + ((s.linkSt d j).mf * s.lkK d j * s.lkS d j : Nat)
  let tk := (s.releaseTime d j).lanesTake d j ((s.linkLanes d j).zip groups)
  forAll (s.linkStreams d j) tk.2 fun v e =>
    forAll ((List.range (s.lkK d j * s.lkS d j)).filter fun x => decide (0 ≤ idx + (x : Nat))) v fun v x =>
      v.lineWrite d e.1 (idx + (x : Nat)).toNat
        (convValue (v.lkN d j) (v.lkNP d j) (v.frameWord d j tk.1 (x / s.lkS d j) (e.2 * s.lkS d j + x % s.lkS d j)))
        ((s.linkSt d j).flagged.contains ((s.linkSt d j).mf * s.lkK d j + x / s.lkS d j) ||
          ((s.linkSt d j).first && s.get (LINK_CFG_SCR d j) == 1 &&
            scrFlag (v.lkF d j) (s.lkS d j) (v.lkNP d j) (x / s.lkS d j) e.2 (x % s.lkS d j)))

/-- The frames of the multiframe that are flagged. -/
def State.badFrames (s : State) (d j : Nat) : List Nat :=
  (List.range (s.lkK d j)).filter fun f => (s.linkSt d j).flagged.contains ((s.linkSt d j).mf * s.lkK d j + f * s.lkS d j / s.lkS d j)

/-- Flagged frames are kept with those that were not clean. -/
def State.badNoted (s : State) (d j : Nat) (idx : Int) (fs : List Nat) (sz : Nat) : State :=
  forAll fs s fun s f => s.setLinkSt d j { s.linkSt d j with
    dirty := (s.linkSt d j).dirty ++ [((idx + (f * sz : Nat)).toNat, (idx + (f * sz + sz - 1 : Nat)).toNat)] }

/-- What a release leaves: the samples, and the link's place, time and offset. -/
theorem State.releaseData_eq (s : State) (d j : Nat) (groups : List (List Nat)) : ∃ idx nxt tags dirty n m,
    let u := (s.samplesWritten d j groups).badNoted d j idx (s.badFrames d j) (s.lkS d j)
    s.releaseData d j groups = ((u.setLinkSt d j { u.linkSt d j with
      next := nxt, live := true, base := s.dataBase d j, mf := (s.linkSt d j).mf + 1, first := false,
      relT := s.releaseAt d j (s.linkSt d j).mf, r := s.dataRest d j, tags := tags, dirty := dirty }).pm d 0x10 j n).pm d 0x11 j m :=
  ⟨_, _, _, _, _, _, rfl⟩

end Sys2Proof.Machine

namespace Sys2Proof.Machine

open Reg

section
variable {s : State} {d j : Nat} {groups : List (List Nat)}

theorem State.badNoted_now {idx : Int} {fs : List Nat} {sz : Nat} : (s.badNoted d j idx fs sz).now = s.now :=
  foldl_leaves State.now (fun s _ _ => State.setIng_now s d _) s

theorem State.lineRead_badNoted {idx : Int} {fs : List Nat} {sz b x : Nat} : (s.badNoted d j idx fs sz).lineRead d b x = s.lineRead d b x :=
  foldl_leaves (State.lineRead · d b x) (fun s _ _ => State.lineRead_congr (State.get_setLinkSt s d j _ _)) s

/-- The link's own record after a release. -/
theorem State.linkSt_releaseData : let q := (s.releaseData d j groups).linkSt d j
    q.mf = (s.linkSt d j).mf + 1 ∧ q.relT = s.releaseAt d j (s.linkSt d j).mf ∧ q.base = s.dataBase d j ∧
      q.first = false ∧ q.r = s.dataRest d j := by
  obtain ⟨idx, nxt, tags, dirty, n, m, h⟩ := State.releaseData_eq s d j groups
  simp only [h, State.linkSt_of_ings d j State.pm_ings, State.linkSt_setLinkSt_same, and_self]

theorem State.releaseData_now : (s.releaseData d j groups).now = (s.samplesWritten d j groups).now := by
  obtain ⟨idx, nxt, tags, dirty, n, m, h⟩ := State.releaseData_eq s d j groups
  rw [h, State.pm_now, State.pm_now, State.setLinkSt, State.setIng_now, State.badNoted_now]

theorem State.lineRead_releaseData {b x : Nat} (hb : b < 258) :
    (s.releaseData d j groups).lineRead d b x = (s.samplesWritten d j groups).lineRead d b x := by
  obtain ⟨idx, nxt, tags, dirty, n, m, h⟩ := State.releaseData_eq s d j groups
  rw [h, State.lineRead_pm hb, State.lineRead_pm hb, State.lineRead_congr (State.get_setLinkSt _ d j _ _), State.lineRead_badNoted]

theorem State.dataBase_of_later (h : (s.linkSt d j).first = false) : s.dataBase d j = (s.linkSt d j).base := by
  rw [State.dataBase, h, if_neg Bool.false_ne_true]

/-- In subclass 0 the release time sets the first release's place. -/
theorem State.releasePlace_of_subclass0 (h : s.get (LINK_CFG_SUBCLASS d j) = 0) :
    s.releasePlace d j = s.rateIndex d j (s.releaseAt d j (s.linkSt d j).mf) := by
  simp only [State.releasePlace, h, beq_self_eq_true, if_true]

theorem State.dataBase_of_first (h : (s.linkSt d j).first = true) (hsub : s.get (LINK_CFG_SUBCLASS d j) = 0) :
    s.dataBase d j = (s.rateIndex d j (s.releaseAt d j (s.linkSt d j).mf)).1 := by
  rw [State.dataBase, if_pos h, State.releasePlace_of_subclass0 hsub]

theorem State.dataRest_of_first (h : (s.linkSt d j).first = true) (hsub : s.get (LINK_CFG_SUBCLASS d j) = 0) :
    s.dataRest d j = (s.rateIndex d j (s.releaseAt d j (s.linkSt d j).mf)).2 := by
  simp only [State.dataRest, h, hsub, beq_self_eq_true, if_true, State.releasePlace_of_subclass0 hsub]

/-- A multiframe that every lane has received is released. -/
theorem exec_frameRelease_of_data {q0 q1 q2 q3 : List (List Nat)} (hd : s.present d = true) (hj : j < 8) (hen : s.get (LINK_CFG_EN d j) = 1)
    (hmode : s.ingestMode = true) (hst : s.linkState d j = lkDATA) (hfit : s.quadsFit d j [q0, q1, q2, q3] = true)
    (hall : (((s.linkLanes d j).zip (q0 ++ q1 ++ q2 ++ q3)).all fun e =>
      decide (s.lkF d j * s.lkK d j ≤ (s.laneSt d e.1).buf.length + e.2.length)) = true) :
    exec (.frameRelease d j q0 q1 q2 q3) s = .next (s.releaseData d j (q0 ++ q1 ++ q2 ++ q3)) := by
  change execFrameRelease d j q0 q1 q2 q3 s = _
  simp only [execFrameRelease, ok]
  rw [if_pos ⟨hd, hj, hen, hmode⟩, if_pos hst, if_pos ⟨hfit, hall⟩]

end

/-! ### Plain data on one lane for one stream -/

/-- The value of sample x of converter c in a multiframe's octets. -/
def State.plainSample (s : State) (d j c sz : Nat) (octs : List Nat) (x : Nat) : Nat :=
  convValue (s.lkN d j) (s.lkNP d j) (s.frameWord d j [(0, octs)] (x / sz) (c * sz + x % sz))

theorem State.plainSample_congr {s t : State} {d j c sz : Nat} {octs : List Nat} {x : Nat}
    (hN : t.get (LINK_CFG_N_M1 d j) = s.get (LINK_CFG_N_M1 d j))
    (hNP : t.get (LINK_CFG_NP d j) = s.get (LINK_CFG_NP d j)) (hF : t.get (LINK_CFG_F_M1 d j) = s.get (LINK_CFG_F_M1 d j)) :
    t.plainSample d j c sz octs x = s.plainSample d j c sz octs x := by
  simp only [State.plainSample, State.frameWord, State.lkN, State.lkNP, State.lkF, hN, hNP, hF]

theorem State.plainSample_lineWrite {s : State} {d j c sz b y v : Nat} {octs : List Nat} {x : Nat} {fl : Bool} (hj : j < 8) (hb : b < 258) :
    (s.lineWrite d b y v fl).plainSample d j c sz octs x = s.plainSample d j c sz octs x := by
  have hblock : addrBlock (LINK_CFG d j) ≠ 0x11 := by rw [LINK_CFG, addrBlock_spanSlot d (by omega) (by omega)]; omega
  exact State.plainSample_congr (State.get_lineWrite hb hblock) (State.get_lineWrite hb hblock) (State.get_lineWrite hb hblock)

section
variable {s : State} {d j n b c : Nat} {gs octs : List Nat} (hfirst : (s.linkSt d j).first = false) (hflag : (s.linkSt d j).flagged = [])
  (hstream : s.linkStreams d j = [(b, c)]) (hlane : s.linkLanes d j = [n]) (hlogical : s.get (LANE_CFG_LOGICAL d n) = 0)
  (hocts : ((s.advance (s.releaseAt d j (s.linkSt d j).mf)).laneTake d j n gs).1 = octs)
include hfirst hflag hstream hlane hlogical hocts

/-- What enters the delay lines: each sample of the multiframe at its index, none flagged. -/
theorem State.samplesWritten_of_plain : s.samplesWritten d j [gs] =
    forAll ((List.range (s.lkK d j * s.lkS d j)).filter fun x =>
        decide (0 ≤ (s.linkSt d j).base + ((s.linkSt d j).mf * s.lkK d j * s.lkS d j : Nat) + (x : Nat)))
      ((s.advance (s.releaseAt d j (s.linkSt d j).mf)).laneTake d j n gs).2 fun v x =>
        v.lineWrite d b ((s.linkSt d j).base + ((s.linkSt d j).mf * s.lkK d j * s.lkS d j : Nat) + (x : Nat)).toNat
          (v.plainSample d j c (s.lkS d j) octs x) false := by
  have hbase : s.dataBase d j = (s.linkSt d j).base := State.dataBase_of_later hfirst
  have htime : s.releaseTime d j = s.advance (s.releaseAt d j (s.linkSt d j).mf) := by
    rw [State.releaseTime, hfirst, Bool.false_and, if_neg Bool.false_ne_true]
  simp only [State.samplesWritten, hbase, htime, hstream, hlane, hfirst, hflag, List.zip_cons_cons, List.zip_nil_right,
    State.lanesTake_singleton, State.get_advance, hlogical, hocts, forAll, List.foldl_cons, List.foldl_nil, List.contains_nil,
    Bool.false_and, Bool.or_false, State.plainSample]

theorem State.samplesWritten_now_of_plain : (s.samplesWritten d j [gs]).now = max s.now (s.releaseAt d j (s.linkSt d j).mf) := by
  rw [State.samplesWritten_of_plain hfirst hflag hstream hlane hlogical hocts]
  refine (foldl_leaves State.now (fun s _ _ => ?_) _).trans ?_
  · rw [State.lineWrite_eq_put, State.put_now]
  · rw [State.laneTake_now, State.advance]

/-- Each sample of the multiframe reads back at its index. -/
theorem State.lineRead_samplesWritten {x : Nat} (hj : j < 8) (hb : b < 258) (hx : x < s.lkK d j * s.lkS d j)
    (hidx : 0 ≤ (s.linkSt d j).base + ((s.linkSt d j).mf * s.lkK d j * s.lkS d j : Nat) + (x : Nat)) :
    (s.samplesWritten d j [gs]).lineRead d b ((s.linkSt d j).base + ((s.linkSt d j).mf * s.lkK d j * s.lkS d j : Nat) + (x : Nat)).toNat =
      (signed 16 (s.plainSample d j c (s.lkS d j) octs x), false) := by
  have hle := State.mfSamples_le (s := s) (d := d) (j := j)
  rw [State.samplesWritten_of_plain hfirst hflag hstream hlane hlogical hocts]
  generalize (s.linkSt d j).base + ((s.linkSt d j).mf * s.lkK d j * s.lkS d j : Nat) = idx at hidx ⊢
  have hread := State.lineRead_forAll_lineWrite (d := d) (b := b)
    (xs := (List.range (s.lkK d j * s.lkS d j)).filter fun x => decide (0 ≤ idx + (x : Nat)))
    (place := fun x => (idx + (x : Nat)).toNat) (value := fun v x => v.plainSample d j c (s.lkS d j) octs x) (flagOf := fun _ => false)
    (fun y hy z hz h => ?_) (fun _ _ _ _ _ => State.plainSample_lineWrite hj hb)
    (List.mem_filter.mpr ⟨List.mem_range.mpr hx, decide_eq_true hidx⟩)
    ((s.advance (s.releaseAt d j (s.linkSt d j).mf)).laneTake d j n gs).2
  · have hget : ∀ f, (((s.advance (s.releaseAt d j (s.linkSt d j).mf)).laneTake d j n gs).2).get f = s.get f := fun f =>
      State.get_laneTake.trans (State.get_advance s _ f)
    rw [hread, if_neg Bool.false_ne_true, State.plainSample_congr (hget _) (hget _) (hget _)]
  · obtain ⟨hy, hy0⟩ := List.mem_filter.mp hy
    obtain ⟨hz, hz0⟩ := List.mem_filter.mp hz
    have := List.mem_range.mp hy
    have := List.mem_range.mp hz
    have := of_decide_eq_true hy0
    have := of_decide_eq_true hz0
    omega

end

/-! ### Frames enter the delay line -/

/-- Settles O29. Out of DATA the flagged zeros are `State.lineRead_lineFlag`; in DATA the link's record is
`State.linkSt_releaseData`, and the samples are those of `State.samplesWritten` for the octets that the lane gives up. -/
theorem framesEnterTheDelayLine : Obligations.FramesEnterTheDelayLine := by
  unfold Obligations.FramesEnterTheDelayLine
  intro s d j b c x hd hj hen hmode hstream hb hx q cnt
  have hb258 : b < 258 := by omega
  refine ⟨fun q0 q1 q2 q3 hst hlive => ?out,
    fun n gs octs q0 q1 q2 q3 hfit hgroups hst hscr hflag hlane hlogical hbuf hnp hword hlen ho hdec => ?data⟩
  case out =>
    obtain ⟨dirty, hrel⟩ := State.releaseFlagged_of_live hlive
    have hon : (s.flaggedOn d j).lineRead d b (q.next + x) = (0, true) := by
      refine State.lineRead_lineFlag (c := c) ?_ State.mfSamples_le hx
      rw [State.linkStreams_congr (fun f => State.get_advance s _ f), hstream]
    refine ⟨_, exec_frameRelease_of_out hd hj hen hmode hst q0 q1 q2 q3, ?_, ?_, ?_, ?_⟩ <;> rw [hrel]
    · rw [State.linkSt_of_ings d j State.pm_ings, State.linkSt_setLinkSt_same]
    · rw [State.linkSt_of_ings d j State.pm_ings, State.linkSt_setLinkSt_same]
    · rw [State.pm_now, State.setLinkSt, State.setIng_now, State.flaggedOn, State.lineFlag_now, State.advance]
    · rw [State.lineRead_pm hb258, ← hon]
      exact State.lineRead_congr (State.get_setLinkSt _ d j _ _)
  case data =>
    have hgs : gs.length = octs.length := by simpa using congrArg List.length hdec
    have hexec := exec_frameRelease_of_data hd hj hen hmode hst hfit (by
      rw [hgroups, hlane]; simp [hbuf, hgs, hlen])
    rw [hgroups] at hexec
    obtain ⟨hmf, hrelT, hbase, hfirst', hr⟩ := State.linkSt_releaseData (s := s) (d := d) (j := j) (groups := [gs])
    refine ⟨fun hfirst hidx => ?next, fun hfirst hsub => ?firstOne⟩
    case next =>
      have hocts : ((s.advance (s.releaseAt d j q.mf)).laneTake d j n gs).1 = octs :=
        State.laneTake_octets_advance hscr hbuf hlen ho hdec
      have hplace : q.base + (q.mf * s.lkK d j * s.lkS d j : Nat) + (x : Nat) = q.base + (q.mf * cnt + x : Nat) := by
        simp only [cnt]
        push_cast
        ring
      have hdata : s.dataBase d j = q.base := State.dataBase_of_later hfirst
      refine ⟨_, hexec, hmf, hrelT, hbase.trans hdata, ?_, ?_⟩
      · rw [State.releaseData_now, State.samplesWritten_now_of_plain hfirst hflag hstream hlane hlogical hocts]
      · rw [← hplace, State.lineRead_releaseData hb258,
          State.lineRead_samplesWritten hfirst hflag hstream hlane hlogical hocts hj hb258 hx (by rw [hplace]; exact hidx),
          State.plainSample, hnp, State.frameWord_singleton hnp hword]
    case firstOne =>
      exact ⟨_, hexec, hfirst', hbase.trans (State.dataBase_of_first hfirst hsub), hr.trans (State.dataRest_of_first hfirst hsub)⟩

end Sys2Proof.Machine

namespace Sys2Proof.Machine

open Reg

/-! ### What the DFU holds beside its registers -/

section
variable (s : State) (d i : Nat)

@[simp] theorem State.get_setDfuIn (v : DfuIn) (f : RF) : (s.setDfuIn d i v).get f = s.get f := rfl
@[simp] theorem State.rd_setDfuIn (v : DfuIn) (a : Nat) : (s.setDfuIn d i v).rd a = s.rd a := rfl
@[simp] theorem State.setDfuIn_queue (v : DfuIn) : ((s.setDfuIn d i v).dfu d).queue = (s.dfu d).queue := by
  rw [State.setDfuIn, State.dfu_set_same]

@[simp] theorem State.dfuIn_setDfuIn_same (v : DfuIn) : (s.setDfuIn d i v).dfuIn d i = v := by
  rw [State.dfuIn, State.setDfuIn, State.dfu_set_same]
  exact Store.get_put_same _ _ _ _

theorem State.dfuIn_setDfuIn_other {k : Nat} (v : DfuIn) (h : k ≠ i) : (s.setDfuIn d i v).dfuIn d k = s.dfuIn d k := by
  rw [State.dfuIn, State.setDfuIn, State.dfu_set_same]
  exact Store.get_put_other _ _ _ h

variable {s} {t : State}

theorem State.dfuIn_of_dfus (h : t.dfus = s.dfus) : t.dfuIn d i = s.dfuIn d i := by
  rw [State.dfuIn, State.dfu, h, State.dfuIn, State.dfu]

end

theorem State.get_of_rd {s t : State} {f : RF} (h : t.rd f.addr = s.rd f.addr) : t.get f = s.get f := by
  rw [State.get, h, State.get]

/-! ### Only registers and what the DFU holds change -/

/-- From `s` to `t` only registers and the DFU's own state change, and of the registers only the slots of the list. -/
def State.OnlyDfu (s t : State) (as : List Nat) : Prop :=
  t = { s with regs := t.regs, dfus := t.dfus } ∧ ∀ a, a ∉ as → t.rd a = s.rd a

theorem State.onlyDfu_refl (s : State) (as : List Nat) : s.OnlyDfu s as := ⟨rfl, fun _ _ => rfl⟩

namespace State.OnlyDfu

variable {s t u : State} {as : List Nat} (h : s.OnlyDfu t as)
include h

theorem of_eq (hu : u = { t with regs := u.regs, dfus := u.dfus }) (hrd : ∀ a, a ∉ as → u.rd a = t.rd a) : s.OnlyDfu u as := by
  obtain ⟨ht, htrd⟩ := h
  refine ⟨?_, fun a ha => (hrd a ha).trans (htrd a ha)⟩
  rw [ht] at hu
  exact hu

/-- One more slot written, of those that may change. -/
theorem wr {a : Nat} {w : Word} (ha : a ∈ as) : s.OnlyDfu (t.wr a w) as :=
  h.of_eq rfl fun _ hb => State.rd_wr_other t w (ne_of_mem_of_not_mem ha hb).symm

theorem put {f : RF} {v : Nat} (hf : f.addr ∈ as) : s.OnlyDfu (t.put f v) as := h.wr hf

theorem raise {f : RF} (hf : f.addr ∈ as) : s.OnlyDfu (t.raise f) as := h.put hf

theorem setDfu {d : Nat} {v : DfuSt} : s.OnlyDfu (t.setDfu d v) as := h.of_eq rfl fun _ _ => rfl

theorem setDfuIn {d i : Nat} {v : DfuIn} : s.OnlyDfu (t.setDfuIn d i v) as := h.setDfu

theorem trans (hu : t.OnlyDfu u as) : s.OnlyDfu u as := h.of_eq hu.1 hu.2

theorem mono {bs : List Nat} (hs : as ⊆ bs) : s.OnlyDfu t bs := ⟨h.1, fun a ha => h.2 a fun hm => ha (hs hm)⟩

theorem inputRuns {d i : Nat} (hmap : INPUT_MAP d i ∉ as) : t.inputRuns d i = s.inputRuns d i := by
  obtain ⟨heq, hrd⟩ := h
  have hpart : t.part = s.part := by rw [heq]
  have hflt : t.flt = s.flt := by rw [heq]
  have hget : t.rd (INPUT_MAP d i) = s.rd (INPUT_MAP d i) := hrd _ hmap
  simp only [State.inputRuns, State.present, hpart, hflt, State.get_of_rd (f := INPUT_MAP_EN d i) hget,
    State.get_of_rd (f := INPUT_MAP_DEACC d i) hget]

end State.OnlyDfu

/-! ### One input at an update point (R91, R93 to R95) -/

/-- The slots that a delay polynomial is evaluated from. -/
def polySlots (d i : Nat) : List Nat := [GRID_T0 d, GRID_RATE d, POLY_T0 d i, POLY_C d i 0, POLY_C d i 1, POLY_C d i 2, POLY_C d i 3]

/-- The slots of a polynomial that wait for its effect. -/
def pendSlots (d i : Nat) : List Nat := [POLY_CTRL d i, PEND_T0 d i, PEND_C d i 0, PEND_C d i 1, PEND_C d i 2, PEND_C d i 3]

/-- The slots that an update point writes for one input. -/
def updateSlots (d i : Nat) : List Nat :=
  [IN_STATUS d i, DFU_EVENTS d, POLY_CTRL d i, POLY_T0 d i, POLY_C d i 0, POLY_C d i 1, POLY_C d i 2, POLY_C d i 3]

section
variable {s t : State} {d i n k : Nat}

/-- A die's grid is read from two slots. -/
theorem State.grid_congr (hT : t.rd (GRID_T0 d) = s.rd (GRID_T0 d)) (hR : t.rd (GRID_RATE d) = s.rd (GRID_RATE d)) :
    t.gridT0 d = s.gridT0 d ∧ t.fsNum d = s.fsNum d ∧ t.fsDen d = s.fsDen d := by
  simp only [State.gridT0, State.fsNum, State.fsDen, State.get, GRID_T0_SEC, GRID_T0_NS, GRID_RATE_FS_NUM, GRID_RATE_FS_DEN, hT, hR,
    and_self]

theorem State.polyAt_congr (h : ∀ a ∈ polySlots d i, t.rd a = s.rd a) : t.polyAt d i k = s.polyAt d i k := by
  simp only [polySlots, List.forall_mem_cons] at h
  obtain ⟨hT, hR, hT0, hC0, hC1, hC2, hC3, -⟩ := h
  obtain ⟨hgrid, hnum, hden⟩ := State.grid_congr hT hR
  simp only [State.polyAt, State.polyU, State.getI, State.get, POLY_T0_SEC, POLY_T0_NS, POLY_C_COEF, hgrid, hnum, hden, hT0, hC0, hC1,
    hC2, hC3]

/-- A pending set takes effect at update point n. -/
def State.setDue (s : State) (d i n : Nat) : Bool :=
  s.get (POLY_CTRL_PENDING d i) == 1 && grainCome (grainOf (s.gridTime d (1024 * n))) (s.get (POLY_CTRL_EFF_GRAIN d i))

/-- The segment that begins at update point n, and the delay shown for it. -/
def State.beginSegment (s : State) (d i n : Nat) : State :=
  let g : DlySeg := ⟨n, s.polyAt d i (1024 * n), s.polyAt d i (1024 * (n + 1))⟩
  let v := clampDelay (g.d0 + s.linkOfs d i)
  when v.2 (·.raise (DFU_EVENTS_DELAY_CLAMP d))
    ((((s.setDfuIn d i { s.dfuIn d i with segA := (s.dfuIn d i).segB, segB := g }).put (IN_STATUS_DLY_COARSE d i) (v.1 / 2 ^ 32)).put
      (IN_STATUS_DLY_PHASE d i) (v.1 % 2 ^ 32 / 2 ^ 22)).put (IN_STATUS_CLAMPED d i) (b2n v.2))

theorem State.updateInput_of_due (h : s.setDue d i n = true) : s.updateInput d i n = (s.takePending d i).beginSegment d i n := by
  rw [State.setDue] at h
  simp only [State.updateInput, h, if_true, State.beginSegment]

theorem State.updateInput_of_not_due (h : s.setDue d i n = false) : s.updateInput d i n = s.beginSegment d i n := by
  rw [State.setDue] at h
  simp only [State.updateInput, h, Bool.false_eq_true, if_false, State.beginSegment]

theorem State.onlyDfu_beginSegment : s.OnlyDfu (s.beginSegment d i n) [IN_STATUS d i, DFU_EVENTS d] := by
  have hstatus : ∀ {t : State} {lo wid v : Nat}, s.OnlyDfu t [IN_STATUS d i, DFU_EVENTS d] →
      s.OnlyDfu (t.put ⟨IN_STATUS d i, lo, wid⟩ v) [IN_STATUS d i, DFU_EVENTS d] := fun h => h.put (by simp)
  simp only [State.beginSegment, when]
  split
  · exact (hstatus (hstatus (hstatus (s.onlyDfu_refl _).setDfuIn))).raise (by simp [DFU_EVENTS_DELAY_CLAMP])
  · exact hstatus (hstatus (hstatus (s.onlyDfu_refl _).setDfuIn))

theorem State.beginSegment_dfus : (s.beginSegment d i n).dfus = (s.setDfuIn d i { s.dfuIn d i with
    segA := (s.dfuIn d i).segB, segB := ⟨n, s.polyAt d i (1024 * n), s.polyAt d i (1024 * (n + 1))⟩ }).dfus := by
  simp only [State.beginSegment, when]
  split <;> rfl

theorem State.takePending_dfus : (s.takePending d i).dfus = s.dfus := by
  simp only [State.takePending, forAll, List.foldl_cons, List.foldl_nil, State.wr_dfus, State.put_dfus]

theorem State.onlyDfu_takePending : s.OnlyDfu (s.takePending d i) (updateSlots d i) := by
  have hctrl : s.OnlyDfu ((s.wr (POLY_T0 d i) (s.rd (PEND_T0 d i))).put (POLY_CTRL_PENDING d i) 0) (updateSlots d i) :=
    ((s.onlyDfu_refl _).wr (by simp [updateSlots])).put (by simp [updateSlots, POLY_CTRL_PENDING])
  simp only [State.takePending, forAll, List.foldl_cons, List.foldl_nil]
  exact (((hctrl.wr (by simp [updateSlots])).wr (by simp [updateSlots])).wr (by simp [updateSlots])).wr (by simp [updateSlots])

theorem State.onlyDfu_updateInput : s.OnlyDfu (s.updateInput d i n) (updateSlots d i) := by
  have hsub : [IN_STATUS d i, DFU_EVENTS d] ⊆ updateSlots d i := by simp [updateSlots]
  cases hdue : s.setDue d i n
  · rw [State.updateInput_of_not_due hdue]
    exact State.onlyDfu_beginSegment.mono hsub
  · rw [State.updateInput_of_due hdue]
    exact State.onlyDfu_takePending.trans (State.onlyDfu_beginSegment.mono hsub)

theorem State.dfuIn_updateInput_other (h : k ≠ i) : (s.updateInput d i n).dfuIn d k = s.dfuIn d k := by
  cases hdue : s.setDue d i n
  · rw [State.updateInput_of_not_due hdue, State.dfuIn_of_dfus d k State.beginSegment_dfus, State.dfuIn_setDfuIn_other s d i _ h]
  · rw [State.updateInput_of_due hdue, State.dfuIn_of_dfus d k State.beginSegment_dfus, State.dfuIn_setDfuIn_other _ d i _ h,
      State.dfuIn_of_dfus d k State.takePending_dfus]

/-- What one input's polynomials are read from is not written for another. -/
theorem not_mem_updateSlots_of_other {a : Nat} (hk : k < 128) (hne : k ≠ i) (ha : a ∈ polySlots d i ++ pendSlots d i) :
    a ∉ updateSlots d k := by
  simp only [polySlots, pendSlots, updateSlots, GRID_T0, GRID_RATE, POLY_T0, POLY_C, POLY_CTRL, PEND_T0, PEND_C, IN_STATUS, DFU_EVENTS,
    spanSlot, List.cons_append, List.nil_append, List.mem_cons, List.not_mem_nil, or_false] at ha ⊢
  omega

theorem INPUT_MAP_not_mem_updateSlots (hi : i < 128) : INPUT_MAP d i ∉ updateSlots d k := by
  simp only [INPUT_MAP, updateSlots, IN_STATUS, DFU_EVENTS, POLY_CTRL, POLY_T0, POLY_C, spanSlot, List.mem_cons, List.not_mem_nil,
    or_false]
  omega

end

/-! ### All inputs at an update point -/

/-- Two states have the same input with the same polynomials. -/
structure State.SameInput (s t : State) (d i : Nat) : Prop where
  runs : t.inputRuns d i = s.inputRuns d i
  own : t.dfuIn d i = s.dfuIn d i
  rd : ∀ a ∈ polySlots d i ++ pendSlots d i, t.rd a = s.rd a

/-- The inputs of a list are brought to update point n in turn. -/
def State.updatedInputs (s : State) (d n : Nat) (l : List Nat) : State :=
  forAll l s fun s i => if s.inputRuns d i then s.updateInput d i n else s

theorem exec_updatePoint (s : State) (d n : Nat) : exec (.updatePoint d n) s = .next (s.updatedInputs d n (List.range 128)) := rfl

section
variable {s : State} {d i n k : Nat}

theorem State.SameInput.refl (s : State) (d i : Nat) : s.SameInput s d i := ⟨rfl, rfl, fun _ _ => rfl⟩

theorem State.SameInput.trans {t u : State} (h : s.SameInput t d i) (h' : t.SameInput u d i) : s.SameInput u d i :=
  ⟨h'.runs.trans h.runs, h'.own.trans h.own, fun a ha => (h'.rd a ha).trans (h.rd a ha)⟩

theorem State.sameInput_updateInput (hk : k < 128) (hi : i < 128) (hne : k ≠ i) : s.SameInput (s.updateInput d k n) d i where
  runs := State.onlyDfu_updateInput.inputRuns (INPUT_MAP_not_mem_updateSlots hi)
  own := State.dfuIn_updateInput_other hne.symm
  rd _ ha := State.onlyDfu_updateInput.2 _ (not_mem_updateSlots_of_other hk hne ha)

theorem State.sameInput_updatedInputs (hi : i < 128) : ∀ {l : List Nat} (s : State), (∀ k ∈ l, k < 128) → i ∉ l →
    s.SameInput (s.updatedInputs d n l) d i
  | [], s, _, _ => .refl s d i
  | k :: l, s, hl, hni => by
    obtain ⟨hk, hl⟩ := List.forall_mem_cons.mp hl
    rw [List.mem_cons, not_or] at hni
    obtain ⟨hne, hni⟩ := hni
    have hstep : s.SameInput (if s.inputRuns d k then s.updateInput d k n else s) d i := by
      split
      · exact State.sameInput_updateInput hk hi (Ne.symm hne)
      · exact .refl s d i
    exact hstep.trans (State.sameInput_updatedInputs hi _ hl hni)

theorem State.input_lt (hruns : s.inputRuns d i = true) : i < 128 := by
  simp only [State.inputRuns, Bool.and_eq_true, decide_eq_true_eq] at hruns
  obtain ⟨⟨⟨-, hi⟩, -⟩, -⟩ := hruns
  exact hi

/-- An update point brings a running input on once, and the other inputs do not touch what is its own. -/
theorem State.updatePoint_input (hruns : s.inputRuns d i = true) (n : Nat) : ∃ u, s.SameInput u d i ∧
    (u.updateInput d i n).SameInput (s.updatedInputs d n (List.range 128)) d i := by
  have hi : i < 128 := State.input_lt hruns
  obtain ⟨before, after, hsplit⟩ := List.append_of_mem (List.mem_range.mpr hi)
  have hlt : ∀ k ∈ before ++ i :: after, k < 128 := fun k hk => List.mem_range.mp (hsplit ▸ hk)
  obtain ⟨hbefore, hafter⟩ : i ∉ before ∧ i ∉ after := by
    have hnd : (before ++ i :: after).Nodup := hsplit ▸ List.nodup_range
    obtain ⟨-, hnd', hdisj⟩ := List.nodup_append.mp hnd
    exact ⟨fun h => hdisj i h i List.mem_cons_self rfl, (List.nodup_cons.mp hnd').1⟩
  have hfirst := State.sameInput_updatedInputs (d := d) (n := n) hi s (fun k hk => hlt k (List.mem_append_left _ hk)) hbefore
  refine ⟨_, hfirst, ?_⟩
  have hrest := State.sameInput_updatedInputs (d := d) (n := n) hi ((s.updatedInputs d n before).updateInput d i n)
    (fun k hk => hlt k (List.mem_append_right _ (List.mem_cons_of_mem i hk))) hafter
  have hall : s.updatedInputs d n (List.range 128) = ((s.updatedInputs d n before).updateInput d i n).updatedInputs d n after := by
    rw [hsplit, State.updatedInputs, forAll, List.foldl_append, List.foldl_cons, if_pos]
    · rfl
    · exact hfirst.runs.trans hruns
  rw [hall]
  exact hrest

end

end Sys2Proof.Machine

namespace Sys2Proof.Machine

open Reg

/-! ### A pending set takes effect (R95) -/

/-- Slots copied to others, none of which is copied itself. -/
theorem State.rd_copied {src dst : Nat → Nat} {l : List Nat} {j : Nat} (hdst : ∀ x ∈ l, ∀ y ∈ l, dst x = dst y → x = y)
    (hsrc : ∀ x ∈ l, ∀ y ∈ l, src x ≠ dst y) (hj : j ∈ l) (s : State) :
    (forAll l s fun s j => s.wr (dst j) (s.rd (src j))).rd (dst j) = s.rd (src j) := by
  induction l generalizing s with
  | nil => exact absurd hj List.not_mem_nil
  | cons k l ih =>
    rw [forAll, List.foldl_cons]
    by_cases hl : j ∈ l
    · have h := ih (fun x hx y hy => hdst x (List.mem_cons_of_mem k hx) y (List.mem_cons_of_mem k hy))
        (fun x hx y hy => hsrc x (List.mem_cons_of_mem k hx) y (List.mem_cons_of_mem k hy)) hl (s.wr (dst k) (s.rd (src k)))
      rwa [State.rd_wr_other _ _ (hsrc j hj k List.mem_cons_self)] at h
    · obtain rfl : j = k := (List.mem_cons.mp hj).resolve_right hl
      have hother : ∀ y ∈ l, dst j ≠ dst y := fun y hy e => hl (hdst j hj y (List.mem_cons_of_mem j hy) e ▸ hy)
      exact (foldl_leaves (State.rd · (dst j)) (fun s y hy => State.rd_wr_other s _ (hother y hy)) _).trans (State.rd_wr_same _ _ _)

section
variable {s t : State} {d i n j : Nat}

/-- What a set that takes effect writes beside its coefficients. -/
theorem State.rd_takePending_other {a : Nat} (h : ∀ j < 4, a ≠ POLY_C d i j) :
    (s.takePending d i).rd a = ((s.wr (POLY_T0 d i) (s.rd (PEND_T0 d i))).put (POLY_CTRL_PENDING d i) 0).rd a :=
  foldl_leaves (State.rd · a) (fun s j hj => State.rd_wr_other s _ (h j (by simp at hj; omega))) _

theorem State.rd_takePending_T0 : (s.takePending d i).rd (POLY_T0 d i) = s.rd (PEND_T0 d i) := by
  rw [State.rd_takePending_other (by exact fun j hj => spanSlot_ne rfl rfl (by omega)),
    State.rd_put_other (by exact spanSlot_ne rfl rfl (by omega)), State.rd_wr_same]

theorem State.rd_takePending_C (hj : j < 4) : (s.takePending d i).rd (POLY_C d i j) = s.rd (PEND_C d i j) := by
  have hlt : ∀ x ∈ [0, 1, 2, 3], x < 4 := by simp
  have hcopied := State.rd_copied (src := PEND_C d i) (dst := POLY_C d i) (l := [0, 1, 2, 3]) (j := j)
    (fun x _ y _ h => by simp only [POLY_C, spanSlot] at h; omega)
    (fun x hx y hy => spanSlot_ne rfl rfl (by have := hlt x hx; have := hlt y hy; omega)) (by simp; omega)
    ((s.wr (POLY_T0 d i) (s.rd (PEND_T0 d i))).put (POLY_CTRL_PENDING d i) 0)
  rwa [State.rd_put_other (by exact spanSlot_ne rfl rfl (by omega)),
    State.rd_wr_other _ _ (by exact spanSlot_ne rfl rfl (by omega))] at hcopied

theorem State.pending_takePending : (s.takePending d i).get (POLY_CTRL_PENDING d i) = 0 := by
  rw [State.get_of_rd (State.rd_takePending_other fun j hj => spanSlot_ne rfl rfl (by omega)),
    State.get_put_fits (by exact RF.fits rfl (by omega)), Nat.zero_mod]

theorem State.rd_beginSegment {a o : Nat} (ha : a = spanSlot d 0x11 o) (ho : o ≠ 0x20 ∧ o ≠ 0x10010 + 0x100 * i) :
    (s.beginSegment d i n).rd a = s.rd a := by
  refine State.onlyDfu_beginSegment.2 a ?_
  subst ha
  simp only [IN_STATUS, DFU_EVENTS, spanSlot, List.mem_cons, List.not_mem_nil, or_false]
  omega

namespace State.SameInput

variable (h : s.SameInput t d i)
include h

theorem polyAt (k : Nat) : t.polyAt d i k = s.polyAt d i k :=
  State.polyAt_congr fun a ha => h.rd a (List.mem_append_left _ ha)

theorem setDue : t.setDue d i n = s.setDue d i n := by
  obtain ⟨hgrid, hnum, hden⟩ := State.grid_congr (h.rd (GRID_T0 d) (by simp [polySlots])) (h.rd (GRID_RATE d) (by simp [polySlots]))
  simp only [State.setDue, State.gridTime, State.get, POLY_CTRL_PENDING, POLY_CTRL_EFF_GRAIN, hgrid, hnum, hden,
    h.rd (POLY_CTRL d i) (by simp [pendSlots])]

theorem rd_T0 : t.rd (POLY_T0 d i) = s.rd (POLY_T0 d i) := h.rd _ (by simp [polySlots])

theorem rd_C (hj : j < 4) : t.rd (POLY_C d i j) = s.rd (POLY_C d i j) := by
  refine h.rd _ (List.mem_append_left _ ?_)
  interval_cases j <;> simp [polySlots]

theorem rd_pendT0 : t.rd (PEND_T0 d i) = s.rd (PEND_T0 d i) := h.rd _ (by simp [pendSlots])

theorem rd_pendC (hj : j < 4) : t.rd (PEND_C d i j) = s.rd (PEND_C d i j) := by
  refine h.rd _ (List.mem_append_right _ ?_)
  interval_cases j <;> simp [pendSlots]

theorem pending : t.get (POLY_CTRL_PENDING d i) = s.get (POLY_CTRL_PENDING d i) :=
  State.get_of_rd (h.rd _ (by simp [pendSlots, POLY_CTRL_PENDING]))

end State.SameInput

/-! ### What an update point leaves of a running input -/

section
variable (hruns : s.inputRuns d i = true)
include hruns

/-- Without a set that takes effect, the segments move on. -/
theorem State.segments_updatePoint (hdue : s.setDue d i n = false) : (s.updatedInputs d n (List.range 128)).dfuIn d i = { s.dfuIn d i with
    segA := (s.dfuIn d i).segB, segB := ⟨n, s.polyAt d i (1024 * n), s.polyAt d i (1024 * (n + 1))⟩ } := by
  obtain ⟨u, hbefore, hafter⟩ := State.updatePoint_input hruns n
  rw [hafter.own, State.updateInput_of_not_due (hbefore.setDue.trans hdue), State.dfuIn_of_dfus d i State.beginSegment_dfus,
    State.dfuIn_setDfuIn_same, hbefore.own, hbefore.polyAt, hbefore.polyAt]

/-- A set that is due takes effect. -/
theorem State.polynomial_updatePoint_of_due (hdue : s.setDue d i n = true) : let t := s.updatedInputs d n (List.range 128)
    t.rd (POLY_T0 d i) = s.rd (PEND_T0 d i) ∧ (∀ j, j < 4 → t.rd (POLY_C d i j) = s.rd (PEND_C d i j)) ∧
      t.get (POLY_CTRL_PENDING d i) = 0 := by
  obtain ⟨u, hbefore, hafter⟩ := State.updatePoint_input hruns n
  rw [State.updateInput_of_due (hbefore.setDue.trans hdue)] at hafter
  refine ⟨?_, fun j hj => ?_, ?_⟩
  · rw [hafter.rd_T0, State.rd_beginSegment (by rfl) (by omega), State.rd_takePending_T0, hbefore.rd_pendT0]
  · rw [hafter.rd_C hj, State.rd_beginSegment (by rfl) (by omega),
      State.rd_takePending_C hj, hbefore.rd_pendC hj]
  · rw [hafter.pending, State.get_of_rd (State.rd_beginSegment (by rfl) (by omega)), State.pending_takePending]

/-- A set whose grain has not come waits, and the active set stays. -/
theorem State.polynomial_updatePoint_of_not_due (hdue : s.setDue d i n = false) : let t := s.updatedInputs d n (List.range 128)
    t.rd (POLY_T0 d i) = s.rd (POLY_T0 d i) ∧ (∀ j, j < 4 → t.rd (POLY_C d i j) = s.rd (POLY_C d i j)) ∧
      t.get (POLY_CTRL_PENDING d i) = s.get (POLY_CTRL_PENDING d i) := by
  obtain ⟨u, hbefore, hafter⟩ := State.updatePoint_input hruns n
  rw [State.updateInput_of_not_due (hbefore.setDue.trans hdue)] at hafter
  refine ⟨?_, fun j hj => ?_, ?_⟩
  · rw [hafter.rd_T0, State.rd_beginSegment (by rfl) (by omega), hbefore.rd_T0]
  · rw [hafter.rd_C hj, State.rd_beginSegment (by rfl) (by omega), hbefore.rd_C hj]
  · rw [hafter.pending, State.get_of_rd (State.rd_beginSegment (by rfl) (by omega)), hbefore.pending]

end

end

end Sys2Proof.Machine

namespace Sys2Proof.Machine

open Reg

/-! ### An output sample enters its record (R113, R131) -/

/-- The DFU's registers and state, and the samples of the words being packed, stay as they are. -/
structure State.KeepsFilters (s t : State) : Prop where
  get : ∀ f : RF, addrBlock f.addr = 0x11 → t.get f = s.get f
  dfus : t.dfus = s.dfus
  parts : ∀ d, (t.acu d).parts = (s.acu d).parts

namespace State.KeepsFilters

variable {s t : State}

theorem refl (s : State) : s.KeepsFilters s := ⟨fun _ _ => rfl, rfl, fun _ => rfl⟩

theorem trans {u : State} (h : s.KeepsFilters t) (h' : t.KeepsFilters u) : s.KeepsFilters u :=
  ⟨fun f hf => (h'.get f hf).trans (h.get f hf), h'.dfus.trans h.dfus, fun d => (h'.parts d).trans (h.parts d)⟩

theorem ite {u : State} {c : Prop} [Decidable c] (h : s.KeepsFilters t) (h' : s.KeepsFilters u) : s.KeepsFilters (if c then t else u) := by
  split
  · exact h
  · exact h'

theorem put {f : RF} {v : Nat} (h : s.KeepsFilters t) (hf : addrBlock f.addr ≠ 0x11) : s.KeepsFilters (t.put f v) :=
  h.trans ⟨fun g hg => State.get_put_of_block t v (by rw [hg]; exact hf.symm), rfl, fun _ => rfl⟩

theorem raise {f : RF} (h : s.KeepsFilters t) (hf : addrBlock f.addr ≠ 0x11) : s.KeepsFilters (t.raise f) := h.put hf

theorem bump {f : RF} (h : s.KeepsFilters t) (hf : addrBlock f.addr ≠ 0x11) : s.KeepsFilters (t.bump f) := h.put hf

theorem modRec {k d : Nat} {g : RecSt → RecSt} (h : s.KeepsFilters t) : s.KeepsFilters (t.modRec k d g) :=
  h.trans ⟨fun _ _ => rfl, rfl, fun _ => rfl⟩

/-- The ACU's own state changes but for the words being packed. -/
theorem setAcu {d : Nat} {v : AcuSt} (h : s.KeepsFilters t) (hv : v.parts = (t.acu d).parts) : s.KeepsFilters (t.setAcu d v) := by
  refine h.trans ⟨fun _ _ => rfl, rfl, fun j => ?_⟩
  by_cases hj : j = d
  · rw [hj, State.acu_set_same, hv]
  · rw [State.acu_set_other t v hj]

end State.KeepsFilters

theorem addrBlock_PKC_DROP : addrBlock PKC_DROP = 0x0B := by decide

section
variable {s : State} {d i k ev n : Nat}

/-- Counting what leaves changes the performance counters' slots and the list of wraps only. -/
theorem State.pmU_leaves {γ : Type} {π : State → γ} (hput : ∀ s f v, π (s.put f v) = π s)
    (hwraps : ∀ (s : State) w, π { s with wraps := w } = π s) (s : State) : π (s.pmU d ev n) = π s := by
  rw [State.pmU]
  split
  · rfl
  · refine foldl_leaves π (fun s k _ => ?_) s
    rw [State.count]
    split
    · exact hput _ _ _
    · rw [State.raise, hput, State.putBit, hput, hput, hwraps, hput]

theorem State.get_pmU {f : RF} (hf : addrBlock f.addr ≠ 0x1D) : (s.pmU d ev n).get f = s.get f := by
  rw [State.pmU]
  split
  · rfl
  · exact foldl_leaves (State.get · f) (fun s k hk => State.get_count s d n (List.mem_range.mp (List.mem_filter.mp hk).1) hf) s

theorem State.keepsFilters_pmU : s.KeepsFilters (s.pmU d ev n) where
  get f hf := State.get_pmU (by omega)
  dfus := State.pmU_leaves State.put_dfus (fun _ _ => rfl) s
  parts j := State.pmU_leaves (π := fun s => (s.acu j).parts) (fun _ _ _ => rfl) (fun _ _ => rfl) s

theorem State.keepsFilters_emit {code die kind unit a b : Nat} : s.KeepsFilters (s.emit code die kind unit a b) := by
  simp only [State.emit, State.emitC, State.queueEvt]
  split
  · exact ⟨fun _ _ => rfl, rfl, fun _ => rfl⟩
  · refine State.KeepsFilters.bump ⟨fun _ _ => rfl, rfl, fun _ => rfl⟩ ?_
    rw [PKC_DROP_EVT_DROPPED, addrBlock_PKC_DROP]; omega

theorem State.keepsFilters_failFolio {code : Nat} : s.KeepsFilters (s.failFolio k d i code) := by
  have hrec := fun g => (State.KeepsFilters.refl s).modRec (k := k) (d := d) (g := g)
  rw [State.failFolio]
  exact .ite ((hrec _).trans State.keepsFilters_pmU) (hrec _)

theorem addrBlock_DRC_STATUS (d : Nat) : addrBlock (DRC_STATUS d) = 0x19 := addrBlock_spanSlot d (by omega) (by omega)

theorem addrBlock_DRC_COUNT (d : Nat) : addrBlock (DRC_COUNT d) = 0x19 := addrBlock_spanSlot d (by omega) (by omega)

theorem State.keepsFilters_panicOn (s : State) (d : Nat) : s.KeepsFilters (s.panicOn d) := by
  simp only [State.panicOn]
  split
  · have hpanic : s.KeepsFilters (s.setAcu d { s.acu d with panic := true }) := (State.KeepsFilters.refl s).setAcu rfl
    refine ((hpanic.put ?_).raise ?_).bump ?_
    · rw [DRC_STATUS_PANIC, addrBlock_DRC_STATUS]; omega
    · rw [DRC_EVENTS_PANIC, addrBlock_DRC_EVENTS]; omega
    · rw [DRC_COUNT_PANICS, addrBlock_DRC_COUNT]; omega
  · exact .refl s

theorem State.keepsFilters_portWord {addr : Nat} {w : Word} : s.KeepsFilters (s.portWord k d i addr w) := by
  simp only [State.portWord]
  split
  · have hbuf : s.KeepsFilters (s.setAcu d { s.acu d with jbuf := (s.acu d).jbuf ++ [(addr, w)] }) :=
      (State.KeepsFilters.refl s).setAcu rfl
    refine (hbuf.put ?_).trans (State.keepsFilters_panicOn _ d)
    rw [DRC_STATUS_JBUF_FILL, addrBlock_DRC_STATUS]; omega
  · have hfail : ∀ g, s.KeepsFilters ((s.failFolio k d i rsJOURNAL).modRec k d g) := fun g => State.keepsFilters_failFolio.modRec
    refine .ite ((((hfail _).bump ?_).raise ?_).trans State.keepsFilters_emit) (hfail _)
    · rw [DRC_COUNT_OVERRUNS, addrBlock_DRC_COUNT]; omega
    · rw [DRC_EVENTS_JNL_OVERRUN, addrBlock_DRC_EVENTS]; omega

theorem State.keepsFilters_journalWord {addr : Nat} {w : Word} : s.KeepsFilters (s.journalWord k d i addr w) := by
  rw [State.journalWord]
  exact .ite (State.KeepsFilters.refl s).modRec State.keepsFilters_portWord

end

/-! ### The word that a sample joins -/

/-- The samples of input i's word once x has joined it. -/
def State.joined (s : State) (d i m : Nat) (x : Samp) : List (Int × Int × Bool) :=
  (if m % fmtQ (s.get (IN_CFG_FMT d i) + 1) = 0 then [] else Store.get (fun _ => []) (s.acu d).parts i) ++ [(x.re, x.im, x.flag)]

/-- The word is full with x. -/
def State.wordFull (s : State) (d i m : Nat) (x : Samp) : Bool :=
  decide (fmtQ (s.get (IN_CFG_FMT d i) + 1) ≤ (s.joined d i m x).length)

/-- The word being packed once x has come: empty after the last sample of a word. -/
def State.packed (s : State) (d i m : Nat) (x : Samp) : State :=
  s.setAcu d { s.acu d with
    parts := Store.put (fun _ => []) (s.acu d).parts i (if s.wordFull d i m x then [] else s.joined d i m x) }

/-- A sample's report once its word is served: its folio fails where a frame was not clean, and the interval's last is noted. -/
def State.sampleNoted (s : State) (d i m : Nat) (dirty : Bool) : State :=
  let t := if dirty then s.failFolio (m / 4096) d i rsLANE else s
  if m % 4096 = 4095 then t.modRec (m / 4096) d fun r => { r with done := r.done ++ [i] } else t

section
variable {s : State} {d i m : Nat} {x : Samp} {dirty : Bool} {r : RecSt}

theorem State.keepsFilters_sampleNoted : s.KeepsFilters (s.sampleNoted d i m dirty) := by
  have hfail : s.KeepsFilters (if dirty then s.failFolio (m / 4096) d i rsLANE else s) := .ite State.keepsFilters_failFolio (.refl s)
  rw [State.sampleNoted]
  exact .ite hfail.modRec hfail

/-- A sample of a recorded input joins its word, which goes to the journal where it is full and the record has a slot. -/
theorem State.acceptSample_of_recorded (hr : s.consRec (m / 4096) d = some r) (hi : r.inputs.contains i = true) :
    ∃ (full : Bool) (addr : Nat) (w : Word), s.acceptSample d i m x dirty =
      (if full then (s.packed d i m x).journalWord (m / 4096) d i addr w else s.packed d i m x).sampleNoted d i m dirty := by
  simp only [State.acceptSample, hr, hi, Bool.true_eq_false, if_false]
  cases r.slot with
  | none => exact ⟨false, 0, 0, rfl⟩
  | some sl => exact ⟨s.wordFull d i m x, _, _, rfl⟩

/-- What follows on a sample's joining its word leaves the filters and the words being packed. -/
theorem State.keepsFilters_acceptSample (hr : s.consRec (m / 4096) d = some r) (hi : r.inputs.contains i = true) :
    (s.packed d i m x).KeepsFilters (s.acceptSample d i m x dirty) := by
  obtain ⟨full, addr, w, heq⟩ := State.acceptSample_of_recorded (x := x) (dirty := dirty) hr hi
  rw [heq]
  exact (State.KeepsFilters.ite State.keepsFilters_journalWord (.refl _)).trans State.keepsFilters_sampleNoted

/-- Where no record takes it, the sample goes nowhere. -/
theorem State.acceptSample_of_unrecorded (h : ∀ r, s.consRec (m / 4096) d = some r → r.inputs.contains i = false) :
    s.acceptSample d i m x dirty = s := by
  cases hr : s.consRec (m / 4096) d with
  | none => simp only [State.acceptSample, hr]
  | some r => simp only [State.acceptSample, hr, h r hr, if_true]

theorem State.acceptSample_cases :
    s.acceptSample d i m x dirty = s ∨ (s.packed d i m x).KeepsFilters (s.acceptSample d i m x dirty) := by
  by_cases h : ∃ r, s.consRec (m / 4096) d = some r ∧ r.inputs.contains i = true
  · obtain ⟨r, hr, hi⟩ := h
    exact .inr (State.keepsFilters_acceptSample hr hi)
  · exact .inl (State.acceptSample_of_unrecorded fun r hr => Bool.eq_false_iff.mpr fun hi => h ⟨r, hr, hi⟩)

theorem State.get_acceptSample {f : RF} (hf : addrBlock f.addr = 0x11) : (s.acceptSample d i m x dirty).get f = s.get f := by
  rcases State.acceptSample_cases (s := s) (d := d) (i := i) (m := m) (x := x) (dirty := dirty) with h | h
  · rw [h]
  · exact h.get f hf

theorem State.acceptSample_dfus : (s.acceptSample d i m x dirty).dfus = s.dfus := by
  rcases State.acceptSample_cases (s := s) (d := d) (i := i) (m := m) (x := x) (dirty := dirty) with h | h
  · rw [h]
  · exact h.dfus

theorem two_le_fmtQ (n : Nat) : 2 ≤ fmtQ (n + 1) := by
  rw [fmtQ, if_neg (by omega)]
  split <;> omega

/-- The first sample of a word of its record stands in it alone. -/
theorem State.parts_acceptSample_of_first (hr : s.consRec (m / 4096) d = some r) (hi : r.inputs.contains i = true)
    (hm : m % fmtQ (s.get (IN_CFG_FMT d i) + 1) = 0) :
    Store.get (fun _ => []) ((s.acceptSample d i m x dirty).acu d).parts i = [(x.re, x.im, x.flag)] := by
  have hjoined : s.joined d i m x = [(x.re, x.im, x.flag)] := by rw [State.joined, if_pos hm, List.nil_append]
  have hfull : s.wordFull d i m x = false := by
    have := two_le_fmtQ (s.get (IN_CFG_FMT d i))
    rw [State.wordFull, hjoined, List.length_singleton]
    exact decide_eq_false (by omega)
  rw [(State.keepsFilters_acceptSample hr hi).parts, State.packed, State.acu_set_same, hfull, if_neg Bool.false_ne_true, hjoined]
  dsimp only
  exact Store.get_put_same (fun _ => []) _ _ _

end

/-! ### An output leaves the requantiser (R112, R113) -/

/-- An output that is flagged for itself, or for the history discarded before it. -/
def State.outputFlag (s : State) (d i : Nat) (a : ZSamp) : Bool :=
  a.flag || a.clamp || decide (0 < s.get (IN_STATUS_HIST_FLAG d i))

/-- The parts of an output, or the flagged zero. -/
def State.outputSamp (s : State) (d i : Nat) (a : ZSamp) : Samp :=
  if s.outputFlag d i a then .stale else ⟨(s.requantIn d i a.re).1, (s.requantIn d i a.im).1, false⟩

/-- One output fewer to flag, and the output counted. -/
def State.outputCounted (s : State) (d i : Nat) (a : ZSamp) : State :=
  let flag := s.outputFlag d i a
  let re := s.requantIn d i a.re
  let im := s.requantIn d i a.im
  let s1 := s.put (IN_STATUS_HIST_FLAG d i) (s.get (IN_STATUS_HIST_FLAG d i) - 1)
  let s2 := if flag then (s1.bump (IN_COUNT_FLAGGED d i)).pmU d 0x18 1 else s1.bumpBy (IN_COUNT_SAT_CNT d i) (b2n re.2 + b2n im.2)
  let s3 := if flag = false ∧ (re.2 || im.2) = true then s2.raise (DFU_EVENTS_REQ_SAT d) else s2
  if a.clamp then (s3.bump (IN_COUNT_CLAMP_CNT d i)).raise (DFU_EVENTS_DELAY_CLAMP d) else s3

section
variable {s : State} {d i m : Nat} {a : ZSamp}

theorem State.finishOutput_eq : s.finishOutput d i m a = (s.outputCounted d i a).acceptSample d i m (s.outputSamp d i a) a.dirty := rfl

theorem State.outputCounted_leaves {γ : Type} {π : State → γ} (hput : ∀ s f v, π (s.put f v) = π s)
    (hwraps : ∀ (s : State) w, π { s with wraps := w } = π s) : π (s.outputCounted d i a) = π s := by
  simp only [State.outputCounted, apply_ite π, State.raise, State.bump, State.bumpBy, hput, State.pmU_leaves hput hwraps, ite_self]

/-- The counting of an output writes its counters and events, beside the history it would flag. -/
theorem State.get_outputCounted {f : RF} (hf : addrBlock f.addr = 0x11) (hcount : f.addr ≠ IN_COUNT d i)
    (hevents : f.addr ≠ DFU_EVENTS d) :
    (s.outputCounted d i a).get f = (s.put (IN_STATUS_HIST_FLAG d i) (s.get (IN_STATUS_HIST_FLAG d i) - 1)).get f := by
  have hbump : ∀ (t : State) (g : RF) (n : Nat), g.addr = IN_COUNT d i → (t.bumpBy g n).get f = t.get f :=
    fun t g n hg => State.get_put_other t _ (by rw [hg]; exact hcount)
  have hraise : ∀ (t : State) (g : RF), g.addr = DFU_EVENTS d → (t.raise g).get f = t.get f :=
    fun t g hg => State.get_put_other t _ (by rw [hg]; exact hevents)
  have hpm : ∀ (t : State) (ev n : Nat), (t.pmU d ev n).get f = t.get f := fun t ev n => State.get_pmU (by omega)
  simp only [State.outputCounted, apply_ite (State.get · f), State.bump]
  rw [hraise _ _ rfl, hbump _ _ _ rfl]
  simp only [apply_ite (State.get · f), hraise _ (DFU_EVENTS_REQ_SAT d) rfl, hpm, hbump _ (IN_COUNT_FLAGGED d i) _ rfl,
    hbump _ (IN_COUNT_SAT_CNT d i) _ rfl, ite_self]

theorem addrBlock_IN_STATUS (d : Nat) {i : Nat} (hi : i < 128) : addrBlock (IN_STATUS d i) = 0x11 :=
  addrBlock_spanSlot d (by omega) (by omega)

theorem addrBlock_IN_CFG (d : Nat) {i : Nat} (hi : i < 128) : addrBlock (IN_CFG d i) = 0x11 :=
  addrBlock_spanSlot d (by omega) (by omega)

theorem State.finishOutput_dfus : (s.finishOutput d i m a).dfus = s.dfus := by
  rw [State.finishOutput_eq, State.acceptSample_dfus]
  exact State.outputCounted_leaves State.put_dfus fun _ _ => rfl

theorem State.histFlag_finishOutput (hi : i < 128) :
    (s.finishOutput d i m a).get (IN_STATUS_HIST_FLAG d i) = s.get (IN_STATUS_HIST_FLAG d i) - 1 := by
  have hlt := State.get_lt s (IN_STATUS_HIST_FLAG d i)
  have hblock : addrBlock (IN_STATUS_HIST_FLAG d i).addr = 0x11 := addrBlock_IN_STATUS d hi
  rw [State.finishOutput_eq, State.get_acceptSample hblock,
    State.get_outputCounted hblock (spanSlot_ne rfl rfl (by omega)) (spanSlot_ne rfl rfl (by omega)),
    State.get_put_fits (by exact RF.fits rfl (by omega)), Nat.mod_eq_of_lt (by omega)]

/-- A clean output is the first sample of its word of the record, where the DFU's own state `u` has moved on from `s`. -/
theorem State.parts_finishOutput_of_clean {u : State} {r : RecSt} (hget : ∀ f, u.get f = s.get f) (hacc : u.acc = s.acc) (hi : i < 128)
    (hhist : s.get (IN_STATUS_HIST_FLAG d i) = 0) (hr : s.consRec (m / 4096) d = some r) (hin : r.inputs.contains i = true)
    (hm : m % fmtQ (s.get (IN_CFG_FMT d i) + 1) = 0) (hflag : a.flag = false) (hclamp : a.clamp = false) :
    Store.get (fun _ => []) ((u.finishOutput d i m a).acu d).parts i = [((s.requantIn d i a.re).1, (s.requantIn d i a.im).1, false)] := by
  have hrequant : ∀ x, u.requantIn d i x = s.requantIn d i x := fun x => by simp only [State.requantIn, hget]
  have hsamp : u.outputSamp d i a = ⟨(s.requantIn d i a.re).1, (s.requantIn d i a.im).1, false⟩ := by
    rw [State.outputSamp, State.outputFlag, hflag, hclamp, hget, hhist, hrequant, hrequant]; rfl
  have hrec : (u.outputCounted d i a).consRec (m / 4096) d = some r := by
    have hcounted : (u.outputCounted d i a).acc = s.acc := (State.outputCounted_leaves State.put_acc fun _ _ => rfl).trans hacc
    rw [State.consRec, hcounted, ← State.consRec, hr]
  have hfmt : (u.outputCounted d i a).get (IN_CFG_FMT d i) = s.get (IN_CFG_FMT d i) := by
    rw [State.get_outputCounted (addrBlock_IN_CFG d hi) (spanSlot_ne rfl rfl (by omega)) (spanSlot_ne rfl rfl (by omega)),
      State.get_put_apart (by exact RF.apart rfl rfl (by omega)), hget]
  rw [State.finishOutput_eq, State.parts_acceptSample_of_first hrec hin (by rw [hfmt]; exact hm), hsamp]

end

end Sys2Proof.Machine

namespace Sys2Proof.Machine

open Reg

/-! ### An output moves its input on (R89, R101, R110) -/

/-- The input expects the output after m. -/
def State.movedOn (s : State) (d i m : Nat) : State := s.setDfuIn d i { s.dfuIn d i with next := some (m + 1), low := m + 1 }

/-- The FIR history at output m: the new interpolated samples before those of the outputs before. -/
def State.history (s : State) (d i m : Nat) : List ZSamp :=
  ((List.range (s.inD d i)).map (fun x => s.zAt d i (m * s.inD d i - x)) ++ (s.dfuIn d i).hist).take 320

/-- The sample of the input's first stream at the delay of output m. -/
def State.delayedSample (s : State) (d i m : Nat) : Int × Bool :=
  s.sampleAt d (s.streamBase d i) (((m * s.inD d i : Nat) : Int) - ((s.delayAt d i (m * s.inD d i)).1 / 2 ^ 32 : Nat))

section
variable {s : State} {d i m : Nat}

theorem State.delayAt_movedOn (n : Nat) : (s.movedOn d i m).delayAt d i n = s.delayAt d i n := by
  simp only [State.delayAt, State.movedOn, State.dfuIn_setDfuIn_same]
  rfl

theorem State.zAt_movedOn (n : Nat) : (s.movedOn d i m).zAt d i n = s.zAt d i n := by
  simp only [State.zAt, State.delayAt_movedOn]
  rfl

theorem State.history_movedOn : (s.movedOn d i m).history d i m = s.history d i m := by
  simp only [State.history, State.zAt_movedOn]
  rw [State.movedOn, State.dfuIn_setDfuIn_same]
  rfl

theorem State.delayedSample_movedOn : (s.movedOn d i m).delayedSample d i m = s.delayedSample d i m := by
  simp only [State.delayedSample, State.delayAt_movedOn]
  rfl

/-- In FIR mode an output is finished on a state with the same flags to give and the same index. -/
theorem State.firOutput_finishes : ∃ (u : State) (a : ZSamp), s.firOutput d i m = u.finishOutput d i m a ∧
    u.get (IN_STATUS_HIST_FLAG d i) = s.get (IN_STATUS_HIST_FLAG d i) ∧ (u.dfuIn d i).next = (s.dfuIn d i).next := by
  simp only [State.firOutput]
  split
  · exact ⟨_, _, rfl, rfl, by rw [State.dfuIn_setDfuIn_same]⟩
  · refine ⟨_, _, rfl, ?_, ?_⟩
    · rw [State.get_put_apart (by exact RF.apart rfl rfl (by omega)), State.get_setDfuIn, State.get_setDfuIn]
    · rw [State.dfuIn_of_dfus d i (State.put_dfus _ _ _), State.dfuIn_setDfuIn_same, State.dfuIn_setDfuIn_same]

theorem State.firOutput_of_unfaded (h : (s.dfuIn d i).fadeLen = 0) : s.firOutput d i m =
    (s.setDfuIn d i { s.dfuIn d i with hist := s.history d i m }).finishOutput d i m
      (s.fir d i (s.get (IN_CFG_LIVE d i)) (s.liveTaps d i) (s.history d i m)) := if_pos (.inl h)

section
variable (hruns : s.inputRuns d i = true) (hdue : s.outputDue d i m = true)
include hruns hdue

theorem exec_dfuOutput_of_due : exec (.dfuOutput d i m) s =
    if s.get (IN_CFG_MODE d i) = 1 then .next ((s.movedOn d i m).firOutput d i m)
    else if s.get (IN_CFG_MODE d i) = 2 then .next ((s.movedOn d i m).gainOutput d i m)
    else .next ((s.movedOn d i m).finishOutput d i m ⟨0, 0, true, false, false⟩) := by
  change execDfuOutput d i m s = _
  rw [execDfuOutput, if_pos ⟨hruns, hdue⟩]
  rfl

/-- In every mode the output is finished with the history's flags as they were and the next index set. -/
theorem exec_dfuOutput_finishes : ∃ (u : State) (a : ZSamp), exec (.dfuOutput d i m) s = .next (u.finishOutput d i m a) ∧
    u.get (IN_STATUS_HIST_FLAG d i) = s.get (IN_STATUS_HIST_FLAG d i) ∧ (u.dfuIn d i).next = some (m + 1) := by
  have hnext : ((s.movedOn d i m).dfuIn d i).next = some (m + 1) := by rw [State.movedOn, State.dfuIn_setDfuIn_same]
  rw [exec_dfuOutput_of_due hruns hdue]
  split
  · obtain ⟨u, a, heq, hhist, hu⟩ := State.firOutput_finishes (s := s.movedOn d i m) (d := d) (i := i) (m := m)
    exact ⟨u, a, by rw [heq], hhist, hu.trans hnext⟩
  · split
    · exact ⟨_, _, rfl, rfl, hnext⟩
    · exact ⟨_, _, rfl, rfl, hnext⟩

/-- In settle-free mode a real input delivers the gain times its delayed sample (R110). -/
theorem exec_dfuOutput_of_gain (hmode : s.get (IN_CFG_MODE d i) = 2) (hreal : s.get (INPUT_MAP_CPLX d i) = 0) : ∃ dirty,
    exec (.dfuOutput d i m) s = .next ((s.movedOn d i m).finishOutput d i m
      ⟨s.getI (IN_CFG_GAIN d i) * (s.delayedSample d i m).1, 0, (s.delayedSample d i m).2,
        (s.delayAt d i (m * s.inD d i)).2, dirty⟩) := by
  have hcplx : (s.movedOn d i m).get (INPUT_MAP_CPLX d i) ≠ 1 := by
    rw [State.movedOn, State.get_setDfuIn, hreal]; omega
  rw [exec_dfuOutput_of_due hruns hdue, hmode, if_neg (by omega), if_pos rfl, ← State.delayedSample_movedOn,
    ← State.delayAt_movedOn (m := m)]
  simp only [State.gainOutput, if_neg hcplx, Int.mul_zero, Bool.or_false]
  exact ⟨_, rfl⟩

/-- In FIR mode, with no fade, an input delivers the sum of its live filter (R101). -/
theorem exec_dfuOutput_of_fir (hmode : s.get (IN_CFG_MODE d i) = 1) (hfade : (s.dfuIn d i).fadeLen = 0) : ∃ q,
    exec (.dfuOutput d i m) s = .next (((s.movedOn d i m).setDfuIn d i q).finishOutput d i m
      (s.fir d i (s.get (IN_CFG_LIVE d i)) (s.liveTaps d i) (s.history d i m))) := by
  have hfade' : ((s.movedOn d i m).dfuIn d i).fadeLen = 0 := by rw [State.movedOn, State.dfuIn_setDfuIn_same]; exact hfade
  rw [exec_dfuOutput_of_due hruns hdue, if_pos hmode, State.firOutput_of_unfaded hfade', State.history_movedOn]
  exact ⟨_, rfl⟩

end

end

/-! ### A change of configuration (R106, R109) -/

/-- The input with its new configuration and its history discarded. -/
def State.reconfigured (s : State) (d i cfg cplx : Nat) : State :=
  ((s.softWrite (IN_CFG d i) cfg).put (INPUT_MAP_CPLX d i) cplx).discardHist d i

section
variable {s : State} {d i cfg cplx : Nat} {c : Option CmdHdr}

theorem exec_dfuChange_of_busy (hd : s.present d = true) (hi : i < 128) (hbusy : s.fadeBusy d i = true) :
    exec (.dfuChange d i cfg cplx c) s = .next (s.completeOpt c ccBUSY) := by
  change execDfuChange d i cfg s cplx c = _
  rw [execDfuChange, if_pos ⟨hd, hi⟩, if_pos hbusy, ok]

theorem exec_dfuChange_of_boundary (hd : s.present d = true) (hi : i < 128) (hfree : s.fadeBusy d i = false)
    (hat : (s.dfuIn d i).next.getD 0 % 4096 = 0) :
    exec (.dfuChange d i cfg cplx c) s = .next ((s.reconfigured d i cfg cplx).completeOpt c ccDONE) := by
  have hboundary : s.atBoundary d i = true := by rw [State.atBoundary, hat]; rfl
  change execDfuChange d i cfg s cplx c = _
  rw [execDfuChange, if_pos ⟨hd, hi⟩, hfree, if_neg Bool.false_ne_true, if_pos hboundary, ok, State.reconfigured]

theorem State.onlyDfu_discardHist : s.OnlyDfu (s.discardHist d i) [IN_STATUS d i, DFU_EVENTS d] := by
  simp only [State.discardHist]
  exact ((s.onlyDfu_refl _).setDfuIn.put (by simp [IN_STATUS_HIST_FLAG])).raise (by simp [DFU_EVENTS_HIST_DISCARD])

theorem State.hist_discardHist : ((s.discardHist d i).dfuIn d i).hist = [] := by
  rw [State.discardHist, State.dfuIn_of_dfus d i (State.raise_dfus _ _), State.dfuIn_of_dfus d i (State.put_dfus _ _ _),
    State.dfuIn_setDfuIn_same]

theorem State.rd_discardHist_cfg : (s.discardHist d i).rd (IN_CFG d i) = s.rd (IN_CFG d i) := by
  refine State.onlyDfu_discardHist.2 _ ?_
  simp only [IN_CFG, IN_STATUS, DFU_EVENTS, spanSlot, List.mem_cons, List.not_mem_nil, or_false]
  omega

theorem State.liveTaps_congr {t : State} (h : t.rd (IN_CFG d i) = s.rd (IN_CFG d i)) : t.liveTaps d i = s.liveTaps d i := by
  simp only [State.liveTaps, State.get_of_rd (f := IN_CFG_LIVE d i) h, State.get_of_rd (f := IN_CFG_TAPS_A_M1 d i) h,
    State.get_of_rd (f := IN_CFG_TAPS_B_M1 d i) h]

/-- The outputs to flag after a discard, by the configuration then in force. -/
theorem State.histFlag_discardHist : let t := s.discardHist d i
    t.get (IN_STATUS_HIST_FLAG d i) = (if t.get (IN_CFG_MODE d i) = 1 then t.liveTaps d i - 1 else 0) % 2 ^ 9 := by
  have hcfg := State.rd_discardHist_cfg (s := s) (d := d) (i := i)
  simp only [State.liveTaps_congr hcfg, State.get_of_rd (f := IN_CFG_MODE d i) hcfg]
  rw [State.discardHist, State.get_raise_apart (by exact RF.apart rfl rfl (by omega)),
    State.get_put_fits (by exact RF.fits rfl (by omega))]
  rfl

theorem IN_CFG_ne_INPUT_MAP (d i : Nat) : IN_CFG d i ≠ INPUT_MAP d i := by
  simp only [IN_CFG, INPUT_MAP, spanSlot]; omega

theorem State.rd_reconfigured_cfg : (s.reconfigured d i cfg cplx).rd (IN_CFG d i) = (s.softWrite (IN_CFG d i) cfg).rd (IN_CFG d i) := by
  rw [State.reconfigured, State.rd_discardHist_cfg, State.rd_put_other (IN_CFG_ne_INPUT_MAP d i)]

theorem State.cplx_reconfigured (hi : i < 128) : (s.reconfigured d i cfg cplx).get (INPUT_MAP_CPLX d i) = cplx % 2 := by
  have hmap : INPUT_MAP d i ∉ [IN_STATUS d i, DFU_EVENTS d] := by
    simp only [INPUT_MAP, IN_STATUS, DFU_EVENTS, spanSlot, List.mem_cons, List.not_mem_nil, or_false]
    omega
  rw [State.reconfigured, State.get_of_rd (State.onlyDfu_discardHist.2 _ hmap), State.get_put_fits (by exact RF.fits rfl (by omega))]
  rfl

end

/-! ### Fades start and end (R104, R107, R108) -/

/-- The head of the queue, input i, has begun its fade. -/
def State.fadeBegun (s : State) (d i : Nat) (rest : List Nat) : State :=
  let u := s.setDfu d { s.dfu d with queue := rest }
  let s1 := u.setDfuIn d i { u.dfuIn d i with fadeLen := s.get (FADE_REQ_LEN_M1 d i) + 1, pos := 0 }
  let s2 := ((s1.put (IN_STATUS_QUEUED d i) 0).put (IN_STATUS_FADING d i) 1).put (IN_STATUS_FADE_POS d i) 0
  (s2.put (DFU_STATUS_UNITS_USED d) (s.get (DFU_STATUS_UNITS_USED d) + s.fadeUnits d i)).showFades d

/-- The last output of input i's fade has gone. -/
def State.fadeEnded (s : State) (d i : Nat) : State :=
  ((s.endFade d i).put (IN_CFG_LIVE d i) (1 - s.get (IN_CFG_LIVE d i))).raise (DFU_EVENTS_FADE_DONE d)

section
variable {s : State} {d i : Nat} {rest : List Nat}

theorem exec_fadeStart_of_free (hq : (s.dfu d).queue = i :: rest) (hunits : s.get (DFU_STATUS_UNITS_USED d) + s.fadeUnits d i ≤ 16)
    (hgrain : grainCome (grainOf (s.outputTime d i)) (s.get (FADE_REQ_GRAIN d i)) = true) :
    exec (.fadeStart d) s = .next (s.fadeBegun d i rest) := by
  change execFadeStart d s = _
  simp only [execFadeStart, hq]
  exact if_pos ⟨hunits, hgrain⟩

theorem exec_fadeEnd_of_last (hlen : (s.dfuIn d i).fadeLen ≠ 0) (hpos : (s.dfuIn d i).pos = (s.dfuIn d i).fadeLen) :
    exec (.fadeEnd d i) s = .next (s.fadeEnded d i) := by
  change execFadeEnd d i s = _
  exact if_pos ⟨hlen, hpos⟩

theorem State.showFades_dfus : (s.showFades d).dfus = s.dfus := by rw [State.showFades, State.put_dfus, State.put_dfus]

/-- DFU_STATUS's two fields of the queue are shown, and nothing else. -/
theorem State.get_showFades_apart {f : RF} (hq : RF.Apart (DFU_STATUS_QUEUED d) f) (hh : RF.Apart (DFU_STATUS_HEAD_INPUT d) f) :
    (s.showFades d).get f = s.get f := by
  rw [State.showFades, State.get_put_apart hh, State.get_put_apart hq]

theorem State.fadeBegun_dfus : (s.fadeBegun d i rest).dfus =
    ((s.setDfu d { s.dfu d with queue := rest }).setDfuIn d i { (s.setDfu d { s.dfu d with queue := rest }).dfuIn d i with
      fadeLen := s.get (FADE_REQ_LEN_M1 d i) + 1, pos := 0 }).dfus := by
  simp only [State.fadeBegun, State.showFades_dfus, State.put_dfus]

theorem State.fadeEnded_dfus : (s.fadeEnded d i).dfus = (s.setDfuIn d i { s.dfuIn d i with fadeLen := 0, pos := 0 }).dfus := by
  rw [State.fadeEnded, State.endFade, State.raise_dfus, State.put_dfus, State.put_dfus, State.put_dfus, State.put_dfus]

theorem State.onlyDfu_fadeBegun : s.OnlyDfu (s.fadeBegun d i rest) [IN_STATUS d i, DFU_STATUS d] := by
  have hstatus : ∀ {t : State} {lo wid v : Nat}, s.OnlyDfu t [IN_STATUS d i, DFU_STATUS d] →
      s.OnlyDfu (t.put ⟨IN_STATUS d i, lo, wid⟩ v) [IN_STATUS d i, DFU_STATUS d] := fun h => h.put (by simp)
  have hunit : ∀ {t : State} {lo wid v : Nat}, s.OnlyDfu t [IN_STATUS d i, DFU_STATUS d] →
      s.OnlyDfu (t.put ⟨DFU_STATUS d, lo, wid⟩ v) [IN_STATUS d i, DFU_STATUS d] := fun h => h.put (by simp)
  rw [State.fadeBegun, State.showFades]
  exact hunit (hunit (hunit (hstatus (hstatus (hstatus (s.onlyDfu_refl _).setDfu.setDfuIn)))))

theorem State.onlyDfu_fadeEnded : s.OnlyDfu (s.fadeEnded d i) [IN_STATUS d i, DFU_STATUS d, IN_CFG d i, DFU_EVENTS d] := by
  rw [State.fadeEnded, State.endFade]
  refine (((((s.onlyDfu_refl _).setDfuIn.put ?_).put ?_).put ?_).put ?_).raise ?_
  · simp [IN_STATUS_FADING]
  · simp [IN_STATUS_FADE_POS]
  · simp [DFU_STATUS_UNITS_USED]
  · simp [IN_CFG_LIVE]
  · simp [DFU_EVENTS_FADE_DONE]

/-- What the registers show of a fade that has begun. -/
theorem State.shown_fadeBegun (hunits : s.get (DFU_STATUS_UNITS_USED d) + s.fadeUnits d i ≤ 16) : let t := s.fadeBegun d i rest
    t.get (IN_STATUS_FADING d i) = 1 ∧ t.get (IN_STATUS_QUEUED d i) = 0 ∧
      t.get (DFU_STATUS_UNITS_USED d) = s.get (DFU_STATUS_UNITS_USED d) + s.fadeUnits d i := by
  simp only [State.fadeBegun]
  refine ⟨?fading, ?queued, ?units⟩
  case fading =>
    rw [State.get_showFades_apart, State.get_put_apart, State.get_put_apart, State.get_put_fits (by exact RF.fits rfl (by omega))]; rfl
    all_goals exact RF.apart rfl rfl (by omega)
  case queued =>
    rw [State.get_showFades_apart, State.get_put_apart, State.get_put_apart, State.get_put_apart,
      State.get_put_fits (by exact RF.fits rfl (by omega))]; rfl
    all_goals exact RF.apart rfl rfl (by omega)
  case units =>
    rw [State.get_showFades_apart (by exact RF.apart rfl rfl (by omega)) (by exact RF.apart rfl rfl (by omega)),
      State.get_put_fits (by exact RF.fits rfl (by omega))]
    exact Nat.mod_eq_of_lt (by simp only [DFU_STATUS_UNITS_USED] at *; omega)

/-- What the registers show of a fade that has ended. -/
theorem State.shown_fadeEnded : let t := s.fadeEnded d i
    t.get (IN_CFG_LIVE d i) = 1 - s.get (IN_CFG_LIVE d i) ∧ t.get (IN_STATUS_FADING d i) = 0 ∧
      t.get (DFU_STATUS_UNITS_USED d) = s.get (DFU_STATUS_UNITS_USED d) - s.fadeUnits d i ∧ t.get (DFU_EVENTS_FADE_DONE d) = 1 := by
  simp only [State.fadeEnded, State.endFade]
  refine ⟨?live, ?fading, ?units, ?event⟩
  case live =>
    rw [State.get_raise_apart (by exact RF.apart rfl rfl (by omega)), State.get_put_fits (by exact RF.fits rfl (by omega))]
    exact Nat.mod_eq_of_lt (Nat.lt_succ_of_le (Nat.sub_le 1 _))
  case fading =>
    rw [State.get_raise_apart, State.get_put_apart, State.get_put_apart, State.get_put_apart,
      State.get_put_fits (by exact RF.fits rfl (by omega))]; rfl
    all_goals exact RF.apart rfl rfl (by omega)
  case units =>
    rw [State.get_raise_apart (by exact RF.apart rfl rfl (by omega)), State.get_put_apart (by exact RF.apart rfl rfl (by omega)),
      State.get_put_fits (by exact RF.fits rfl (by omega))]
    exact Nat.mod_eq_of_lt ((Nat.sub_le _ _).trans_lt (State.get_lt s _))
  case event =>
    rw [State.raise, State.get_put_fits (by exact RF.fits rfl (by omega))]; rfl

end

/-! ### The obligation -/

/-- Settles O30. An update point touches each input once (`State.updatePoint_input`); what an output leaves is read from
`State.finishOutput`, on the state and the value that `exec` gives it in each mode; a change and a fade are frames of
`State.OnlyDfu` with the fields they show. -/
theorem outputsOfTheFilters : Obligations.OutputsOfTheFilters := by
  unfold Obligations.OutputsOfTheFilters
  refine ⟨fun s d i => ⟨fun n hruns hnone => ?segment, fun n hruns hpend => ?pending, fun m hruns hdue => ⟨?moves, ?values⟩,
    fun c cfg cplx hd hi => ⟨exec_dfuChange_of_busy hd hi, fun hfree hat => ?change⟩⟩,
    fun s d i _ _ => ⟨fun rest hq hunits hgrain => ?fadeStart, fun hlen hpos => ?fadeEnd⟩⟩
  case segment =>
    have hdue : s.setDue d i n = false := by rw [State.setDue, hnone]; rfl
    have hseg := State.segments_updatePoint hruns hdue
    exact ⟨_, exec_updatePoint s d n, by rw [hseg], by rw [hseg]⟩
  case pending =>
    refine ⟨_, exec_updatePoint s d n, fun hcome => ?_, fun hwait => ?_⟩
    · exact State.polynomial_updatePoint_of_due hruns (by rw [State.setDue, hpend, hcome]; rfl)
    · rw [← hpend]
      exact State.polynomial_updatePoint_of_not_due hruns (by rw [State.setDue, hwait, Bool.and_false])
  case moves =>
    obtain ⟨u, a, hexec, hhist, hnext⟩ := exec_dfuOutput_finishes hruns hdue
    refine ⟨_, hexec, ?_, ?_⟩
    · rw [State.histFlag_finishOutput (State.input_lt hruns), hhist]
    · rw [State.dfuIn_of_dfus d i State.finishOutput_dfus, hnext]
  case values =>
    intro r hhist hreal hr hin hm
    refine ⟨fun hmode hclamp hflag => ?gain, fun z hmode hfade hz hflag hclamp => ?fir⟩
    case gain =>
      obtain ⟨dirty, hexec⟩ := exec_dfuOutput_of_gain hruns hdue hmode hreal
      exact ⟨_, hexec, State.parts_finishOutput_of_clean (fun _ => rfl) rfl (State.input_lt hruns) hhist hr hin hm hflag hclamp⟩
    case fir =>
      obtain ⟨q, hexec⟩ := exec_dfuOutput_of_fir hruns hdue hmode hfade
      rw [State.history, hz] at hexec
      exact ⟨_, hexec, State.parts_finishOutput_of_clean (fun _ => rfl) rfl (State.input_lt hruns) hhist hr hin hm hflag hclamp⟩
  case change =>
    exact ⟨_, exec_dfuChange_of_boundary hd hi hfree hat, State.hist_discardHist, State.rd_reconfigured_cfg, State.cplx_reconfigured hi,
      State.histFlag_discardHist⟩
  case fadeStart =>
    obtain ⟨hfading, hqueued, hused⟩ := State.shown_fadeBegun (rest := rest) hunits
    obtain ⟨honly, hrd⟩ := State.onlyDfu_fadeBegun (s := s) (d := d) (i := i) (rest := rest)
    refine ⟨_, exec_fadeStart_of_free hq hunits hgrain, ?_, ?_, ?_, hfading, hqueued, hused, honly, hrd⟩
    · rw [State.dfu, State.fadeBegun_dfus, ← State.dfu, State.setDfuIn_queue, State.dfu_set_same]
    · rw [State.dfuIn_of_dfus d i State.fadeBegun_dfus, State.dfuIn_setDfuIn_same]
    · rw [State.dfuIn_of_dfus d i State.fadeBegun_dfus, State.dfuIn_setDfuIn_same]
  case fadeEnd =>
    obtain ⟨hlive, hfading, hunits, hevent⟩ := State.shown_fadeEnded (s := s) (d := d) (i := i)
    obtain ⟨honly, hrd⟩ := State.onlyDfu_fadeEnded (s := s) (d := d) (i := i)
    refine ⟨_, exec_fadeEnd_of_last hlen hpos, hlive, hfading, ?_, hunits, hevent, honly, hrd⟩
    rw [State.dfuIn_of_dfus d i State.fadeEnded_dfus, State.dfuIn_setDfuIn_same]

end Sys2Proof.Machine

namespace Sys2Proof.Machine

open Reg

/-! ### What a consignment boundary leaves of the time and of the breaks (R118, R119) -/

/-- The same device time, and the same word on whether the mode or a large step broke the running interval. -/
def State.SameBreaks (s t : State) : Prop :=
  t.now = s.now ∧ t.acc.modeBroke = s.acc.modeBroke ∧ t.acc.timeBroke = s.acc.timeBroke

namespace State.SameBreaks

theorem refl (s : State) : s.SameBreaks s := ⟨rfl, rfl, rfl⟩

section
variable {s₀ s t : State} {β : Type} {c : Prop} [Decidable c] {b : Bool} {l : List β}
  {f : State → State} {g : State → β → State}

theorem ite (h : s₀.SameBreaks s) (h' : s₀.SameBreaks t) : s₀.SameBreaks (if c then s else t) := by
  split
  · exact h
  · exact h'

theorem when (h : s₀.SameBreaks s) (hf : s₀.SameBreaks (f s)) : s₀.SameBreaks (when b f s) := ite hf h

theorem foldl (h : s₀.SameBreaks s) (hg : ∀ t x, s₀.SameBreaks t → s₀.SameBreaks (g t x)) : s₀.SameBreaks (l.foldl g s) := by
  induction l generalizing s with
  | nil => exact h
  | cons x l ih => exact ih (hg s x h)

theorem forAll (h : s₀.SameBreaks s) (hg : ∀ t x, s₀.SameBreaks t → s₀.SameBreaks (g t x)) : s₀.SameBreaks (forAll l s g) :=
  foldl h hg

end

section
variable {s₀ s : State} {d i j k n p v a : Nat} (h : s₀.SameBreaks s)
include h

/-! Single writes -/

theorem wr {w : Word} : s₀.SameBreaks (s.wr a w) := h
theorem put {f : RF} : s₀.SameBreaks (s.put f v) := h.wr
theorem putBit {f : RF} {b : Bool} : s₀.SameBreaks (s.putBit f i b) := h.put
theorem raise {f : RF} : s₀.SameBreaks (s.raise f) := h.put
theorem bumpBy {f : RF} : s₀.SameBreaks (s.bumpBy f n) := h.put
theorem bump {f : RF} : s₀.SameBreaks (s.bump f) := h.bumpBy
theorem wrMem {w : Word} : s₀.SameBreaks (s.wrMem d a w) := h
theorem wrMems {ws : List Word} : s₀.SameBreaks (s.wrMems d a ws) := h
theorem emitOut {o : Output} : s₀.SameBreaks (s.emitOut o) := h
theorem setTimer : s₀.SameBreaks (s.setTimer k v) := h
theorem setPort {q : PortSt} : s₀.SameBreaks (s.setPort p q) := h
theorem setChain {q : ChainSt} : s₀.SameBreaks (s.setChain k q) := h
theorem setIng {q : IngSt} : s₀.SameBreaks (s.setIng d q) := h
theorem setDfu {q : DfuSt} : s₀.SameBreaks (s.setDfu d q) := h
theorem setDfuIn {q : DfuIn} : s₀.SameBreaks (s.setDfuIn d i q) := h.setDfu
theorem setAcu {q : AcuSt} : s₀.SameBreaks (s.setAcu d q) := h
theorem setFc {q : FcSt} : s₀.SameBreaks (s.setFc d q) := h
theorem setCore {q : CoreSt} : s₀.SameBreaks (s.setCore d i q) := h.setFc
theorem setSave {q : CoreSt} : s₀.SameBreaks (s.setSave d i q) := h.setFc
theorem setCte {q : CteSt} : s₀.SameBreaks (s.setCte d q) := h
theorem setStream {q : StreamSt} : s₀.SameBreaks (s.setStream d i q) := h.setCte.put
theorem setDest {q : DestSt} : s₀.SameBreaks (s.setDest d q) := h.setCte
theorem setGal {q : GalSt} : s₀.SameBreaks (s.setGal d q) := h
theorem setLed {q : LedSt} : s₀.SameBreaks (s.setLed d q) := h
theorem setBe {q : BeSt} : s₀.SameBreaks (s.setBe d q) := h
theorem flt {x : FltSt} : s₀.SameBreaks { s with flt := x } := h
theorem nvm {x : NvmSt} : s₀.SameBreaks { s with nvm := x } := h
theorem rg {x : RgSt} : s₀.SameBreaks { s with rg := x } := h
theorem sec {x : SecSt} : s₀.SameBreaks { s with sec := x } := h
theorem pkf {x : PkfSt} : s₀.SameBreaks { s with pkf := x } := h
theorem inbox {x : List (Nat × Pkt)} : s₀.SameBreaks { s with inbox := x } := h
theorem wraps {x : List (Nat × Nat)} : s₀.SameBreaks { s with wraps := x } := h
theorem evts {x : List Evt} : s₀.SameBreaks { s with evts := x } := h
theorem evtLost : s₀.SameBreaks { s with evtLost := n } := h
theorem workAt : s₀.SameBreaks { s with workAt := n } := h
theorem cons {x : List Cons} : s₀.SameBreaks { s with acc := { s.acc with cons := x } } := h
theorem setMarkOf {m : FolMark} : s₀.SameBreaks (s.setMarkOf k m) := h
theorem modCons {f : Cons → Cons} : s₀.SameBreaks (s.modCons k f) := h

/-! Counters, events, interrupts and the mode -/

theorem count : s₀.SameBreaks (s.count d k n) := by
  simp only [State.count]
  exact ite h.put h.put.wraps.put.putBit.raise

theorem pmU {ev : Nat} : s₀.SameBreaks (s.pmU d ev n) := by
  rw [State.pmU]
  exact ite h (foldl h fun _ _ ht => ht.count)

theorem queueEvt {e : Evt} : s₀.SameBreaks (s.queueEvt e) := by
  rw [State.queueEvt]
  exact ite h.evts h.evtLost.bump

theorem emit {code die kind unit a b : Nat} : s₀.SameBreaks (s.emit code die kind unit a b) := h.queueEvt

theorem msix : s₀.SameBreaks (s.msix p v) := by
  rw [State.msix]
  exact ite h (ite (ite h h.setPort) (ite h.emitOut h.emitOut.setPort.setTimer))

theorem msixChange : s₀.SameBreaks s.msixChange := h.msix.msix

theorem markNow {bits : Nat} : s₀.SameBreaks (s.markNow bits) := by
  rw [State.markNow]
  split
  · exact h
  · exact h.setMarkOf

/-- A mode in which work is accepted breaks no interval. -/
theorem setMode {m : Nat} (hm : m = mOBSERVE ∨ m = mCURTAILED) : s₀.SameBreaks (s.setMode m) := by
  simp only [State.setMode, if_pos hm]
  exact h.workAt.put.put.put.raise.emit.msixChange.markNow

theorem appendRec {magic body : List Nat} : s₀.SameBreaks (s.appendRec magic body) := by
  simp only [State.appendRec]
  exact ite (ite h h) (ite h h)

/-! Replacement and faults (R538, R553 to R555) -/

theorem evalRepl : s₀.SameBreaks s.evalRepl := by
  unfold State.evalRepl
  extract_lets conds adv lvl mask s1 s2 s3 s4
  have h2 : s₀.SameBreaks s2 := h.put.put.put.put
  have h3 : s₀.SameBreaks s3 := ite h2 h2.put.msixChange
  have h4 : s₀.SameBreaks s4 := h3.forAll fun _ _ ht => ht.put
  exact ite (h4.setMode (.inr rfl)) h4

theorem unrequest {code die : Nat} : s₀.SameBreaks (s.unrequest code die) := h.flt.evalRepl

theorem recoverFault {u : UnitId} : s₀.SameBreaks (s.recoverFault u) := by
  rw [State.recoverFault]
  split
  · exact h
  · simp only []
    split
    · exact h.flt.emit
    · exact ite h.flt.emit h.flt.emit.flt.emit.unrequest

/-! Packets and completions (R18, R250, R251, R458) -/

theorem enqueue {q : Pkt} : s₀.SameBreaks (s.enqueue k q) := by
  simp only [State.enqueue]
  split <;> exact h.setChain

theorem deliver {q : Pkt} : s₀.SameBreaks (s.deliver d q) := by
  rw [State.deliver]
  exact ite h.inbox h

theorem cross {x : Option Nat} {q : Pkt} : s₀.SameBreaks (s.cross d i x q) := by
  unfold State.cross
  refine ite ?_ ?_
  · split
    · exact h.enqueue
    · exact h.deliver
  · split
    · exact h.pkf
    · exact h

theorem sendUni {q : Pkt} {b : Bool} : s₀.SameBreaks (s.sendUni d q b) := by
  simp only [State.sendUni]
  refine ite h.cross ?_
  split
  · exact (when h h.raise).put.cross
  · exact h.pkf.raise.emit

theorem originate {vc dst dstDie sub : Nat} {ws : List Word} : s₀.SameBreaks (s.originate d vc dst dstDie sub ws) := h.sendUni

theorem flushCpl : s₀.SameBreaks (s.flushCpl p n) := by
  induction n generalizing s with
  | zero => exact h
  | succ n ih =>
    rw [State.flushCpl]
    split
    · exact h
    · exact ite (ih h.emitOut.put.setPort.msix) h

theorem completeAt {c : CmdHdr} {code result grain : Nat} : s₀.SameBreaks (s.completeAt c code result grain) := by
  simp only [State.completeAt]
  exact ite h (ite h.put.put.setPort.flushCpl h.put.put.originate)

theorem finish {f : RunKind → Bool} {code result : Nat} : s₀.SameBreaks (s.finish f code result) :=
  h.rg.forAll fun _ _ ht => ht.completeAt

/-! Inputs that leave, return or are removed -/

theorem endFade : s₀.SameBreaks (s.endFade d i) := h.setDfuIn.put.put.put

theorem showFades : s₀.SameBreaks (s.showFades d) := h.put.put

theorem abandonFade : s₀.SameBreaks (s.abandonFade d i) := by
  simp only [State.abandonFade]
  exact ite (ite h.setDfu.put.endFade h.setDfu.put).showFades.raise.emit h

theorem discardHist : s₀.SameBreaks (s.discardHist d i) := h.setDfuIn.put.raise

theorem beDrop : s₀.SameBreaks (s.beDrop d i k) := by
  rw [State.beDrop]
  exact h.forAll fun _ _ ht => ht.forAll fun _ _ ht => ite ht (when ht.setBe ht.setBe.raise)

theorem beJoin : s₀.SameBreaks (s.beJoin d i k) := h.forAll fun _ _ ht => ht.setBe

theorem narrow : s₀.SameBreaks (s.narrow k d) := by
  unfold State.narrow
  extract_lets want old s1 more s2 s3
  have h2 : s₀.SameBreaks s2 := h.put.put.put.forAll fun _ _ ht => ht.beDrop
  have h3 : s₀.SameBreaks s3 := h2.forAll fun _ _ ht => ht.beJoin
  exact ite h (ite h3 h3.raise.emit)

theorem leaveInput : s₀.SameBreaks (s.leaveInput k d i) := by
  unfold State.leaveInput
  exact h.flt.appendRec.put.raise.abandonFade.beDrop

theorem leaveInputs : s₀.SameBreaks (s.leaveInputs k d) := by
  unfold State.leaveInputs
  exact (h.forAll fun _ _ ht => ht.leaveInput).setIng.forAll fun _ _ ht => ht.recoverFault

theorem rejoinInputs : s₀.SameBreaks (s.rejoinInputs k) := by
  unfold State.rejoinInputs
  exact h.flt.forAll fun _ _ ht => ite ht.put.discardHist ht.put.discardHist.beJoin

/-! Units start and resume (R242, R268, R293, R332) -/

theorem showCte : s₀.SameBreaks (s.showCte d) := h.put.put.put.put

theorem showAsm : s₀.SameBreaks (s.showAsm d) := h.put.put.put

theorem evict : s₀.SameBreaks (s.evict d n) := by
  induction n generalizing s with
  | zero => exact h
  | succ n ih =>
    rw [State.evict]
    exact ite (ih h.setCte.bump.raise.raise.pmU) h

theorem fitAsm : s₀.SameBreaks (s.fitAsm d) := h.put.evict.showAsm

theorem openStint : s₀.SameBreaks (s.openStint d n) := by
  rw [State.openStint]
  exact ite h (h.setCte.forAll fun _ _ ht => ht.wrMem)

theorem commitFolio {x : Option (List Word)} : s₀.SameBreaks (s.commitFolio d i k x) := by
  unfold State.commitFolio
  exact (h.openStint.forAll fun _ _ ht => ht.wrMems).wrMem.bumpBy.pmU.showCte

theorem advanceSegs : s₀.SameBreaks (s.advanceSegs d n) := by
  induction n generalizing s with
  | zero => exact h
  | succ n ih =>
    rw [State.advanceSegs]
    exact ite (ih (h.forAll fun _ _ ht => ht.commitFolio).setCte) h

theorem segments : s₀.SameBreaks (s.segments d) := h.advanceSegs.fitAsm

theorem cteStart : s₀.SameBreaks (s.cteStart d k) := by
  unfold State.cteStart
  exact (h.setCte.forAll fun _ _ ht => ht.setStream.put.put).put.showCte.showAsm

theorem cteResume : s₀.SameBreaks (s.cteResume d k n) := by
  unfold State.cteResume
  exact (h.setCte.setCte.forAll fun _ _ ht => ht.setStream).put.showCte.segments.showAsm

theorem showBank {q : Bank} : s₀.SameBreaks (s.showBank d i n q) := by
  rw [State.showBank]
  split
  · exact h.put
  · exact h.put.put.put.put.put

theorem setTile {q : TileSt} : s₀.SameBreaks (s.setTile d i q) := by
  simp only [State.setTile]
  exact ite h.setGal.showBank.showBank.put.put h.setGal.showBank.showBank.put

theorem galStart : s₀.SameBreaks (s.galStart d n) := by
  unfold State.galStart
  exact h.setGal.forAll fun _ _ ht => (ite ht.put ht).setTile

theorem galResume : s₀.SameBreaks (s.galResume d) := h.setGal

theorem ledStart {b : Bool} : s₀.SameBreaks (s.ledStart d n b) := by
  unfold State.ledStart
  exact ite (h.put.forAll fun _ _ ht => ht.put.put) h.put

theorem beStart : s₀.SameBreaks (s.beStart d k) := by
  unfold State.beStart
  exact (h.forAll fun _ _ ht => ht.put.put.put.put).setBe.setBe

theorem beResume : s₀.SameBreaks (s.beResume d) := h.setBe

theorem firstStart : s₀.SameBreaks (s.firstStart k d) := by
  unfold State.firstStart
  exact h.cteStart.galStart.ledStart.beStart.forAll fun _ _ ht => ht.setCore.setSave

theorem goOn : s₀.SameBreaks (s.goOn k d n) := h.cteResume.galResume.ledStart.beResume

theorem beginRun : s₀.SameBreaks (s.beginRun k) := by
  unfold State.beginRun
  refine ite h (forAll h fun _ _ ht => ?_).nvm
  split
  · exact ht.firstStart
  · exact ht.goOn

/-! Records and vitrines (R131, R141, R143) -/

theorem showAcu : s₀.SameBreaks (s.showAcu d) := h.put.put.put.put

theorem takeSlot {r : RecSt} : s₀.SameBreaks (s.takeSlot r) := by
  rw [State.takeSlot]
  split
  · exact h.raise
  · exact h.setAcu.put

theorem recorded : s₀.SameBreaks (s.recorded k) := h.forAll fun _ _ ht => ht.setAcu

theorem dropCons {c : Cons} : s₀.SameBreaks (s.dropCons c) := by
  unfold State.dropCons
  exact h.cons.setMarkOf.forAll fun _ _ ht => ht.showAcu

theorem keepCons {c : Cons} : s₀.SameBreaks (s.keepCons c) := by
  unfold State.keepCons
  exact (h.forAll fun _ _ ht => ht.takeSlot.forAll fun _ _ ht => ht.wrMem).modCons

theorem closeInterval : s₀.SameBreaks s.closeInterval := by
  rw [State.closeInterval]
  split
  · exact h
  · split
    · exact h
    · exact ite h.dropCons (ite h.beginRun.keepCons.recorded h).modCons

theorem openCons : s₀.SameBreaks (s.openCons k) := by
  unfold State.openCons
  exact (ite (h.forAll fun _ _ ht => ht.takeSlot) h).cons.setMarkOf.forAll fun _ _ ht => ht.showAcu

theorem truncVit : s₀.SameBreaks (s.truncVit d v n) := by
  unfold State.truncVit
  exact (ite h.setAcu h).put.raise.raise.showAcu

/-! A stop, and the end of CURTAILED (R256, R307, R500, R516) -/

theorem closeVits : s₀.SameBreaks (s.closeVits d) := h.forAll fun _ _ ht => ht.truncVit

theorem showDumps : s₀.SameBreaks (s.showDumps d) := h.forAll fun _ _ ht => ht.putBit.put

theorem closeSet : s₀.SameBreaks (s.closeSet d i n) := by
  simp only [State.closeSet]
  split
  · exact h.setLed.put.showDumps
  · exact ite h h.setLed

theorem dumpOnSwitch : s₀.SameBreaks (s.dumpOnSwitch d n) := by
  rw [State.dumpOnSwitch]
  exact ite h (h.forAll fun _ _ ht => ite ht.closeSet ht)

theorem leaveProg : s₀.SameBreaks (s.leaveProg n) := h.nvm.forAll fun _ _ ht => ht.closeVits.dumpOnSwitch

theorem endStreams : s₀.SameBreaks (s.endStreams d) := by
  unfold State.endStreams
  exact (h.forAll fun _ _ ht => ht.originate.setDest).put

theorem suspend : s₀.SameBreaks (s.suspend n) := by
  unfold State.suspend
  exact (h.leaveProg.forAll fun _ _ ht => ht.endStreams).nvm.putBit.finish

theorem stopHere : s₀.SameBreaks (s.stopHere n) := by
  rw [State.stopHere]
  exact ite h.suspend h

theorem lockDebug : s₀.SameBreaks s.lockDebug := by
  unfold State.lockDebug
  exact (when h h.emitOut).sec.put.put

theorem putOctets32 {os : List Nat} : s₀.SameBreaks (s.putOctets32 a os) := h.wr.wr.wr.wr

theorem burnOwner : s₀.SameBreaks (s.burnOwner []) := by
  rw [State.burnOwner]
  split
  · exact h
  · have hburnt {os c d' k' u x y} : s₀.SameBreaks
        ((((s.burnSlot os).showOwner.showPending).raise SEC_EVENTS_OWNER_BURNED).emit c d' k' u x y) :=
      h.sec.put.put.putOctets32.put.putOctets32.raise.emit
    exact ite h (ite (ite hburnt hburnt.lockDebug) hburnt)

theorem uncurtail : s₀.SameBreaks s.uncurtail := by
  rw [State.uncurtail]
  exact ite (h.setMode (.inl rfl)).burnOwner h

end
end State.SameBreaks

theorem exec_intervalStart_of_next {s : State} {k : Nat} (hruns : s.runs = true) (hnext : s.nextInterval k = true) :
    exec (.intervalStart k) s = .next (s.startInterval k) := by
  change execIntervalStart k s = _
  exact if_pos ⟨hruns, hnext⟩

/-- The interval that starts is the running one, at its start or now where that has passed, and nothing has broken it. -/
theorem State.startInterval_runs (s : State) (k : Nat) : let t := s.startInterval k
    t.acc.cur = some k ∧ t.now = max s.now (s.gridTime 0 (4096 * k)) ∧ t.acc.modeBroke = false ∧ t.acc.timeBroke = false := by
  unfold State.startInterval
  extract_lets s0 last s1 open2 s2 s3 s4 s5 run5 t
  have h1 : s0.SameBreaks s1 := (SameBreaks.refl s0).closeInterval
  have h3 : s2.SameBreaks s3 := ((SameBreaks.refl s2).forAll fun _ _ ht => ht.leaveInputs).rejoinInputs
  have h4 : s2.SameBreaks s4 := (h3.forAll fun _ _ ht => ht.narrow).uncurtail.stopHere
  have h5 : s2.SameBreaks s5 := .ite (.ite h4.beginRun.openCons.recorded h4.openCons) h4
  obtain ⟨hnow, hmode, htime⟩ := h5
  exact ⟨rfl, hnow.trans h1.1, hmode, htime⟩

end Sys2Proof.Machine

namespace Sys2Proof.Machine

open Reg

/-! ### Records of a consignment (R120 to R124) -/

section
variable {s t : State} {k d i j code : Nat} {r : RecSt} {f : RecSt → RecSt}

theorem bit_eq_testBit (x i : Nat) : bit x i = x.testBit i := by
  rw [bit, Nat.testBit_eq_decide_div_mod_eq]; rfl

theorem bit_or_two_pow (x i : Nat) : bit (x ||| 2 ^ i) i = true := by
  rw [bit_eq_testBit, Nat.testBit_or, Nat.testBit_two_pow_self, Bool.or_true]

theorem State.consRec_eq (s : State) (k d : Nat) :
    s.consRec k d = (s.acc.cons.find? fun c => c.k == k).bind fun c => c.recs.find? fun r => r.die == d := by
  rw [State.consRec]
  cases s.acc.cons.find? fun c => c.k == k <;> rfl

theorem State.consRec_of_acc (h : t.acc = s.acc) (k d : Nat) : t.consRec k d = s.consRec k d := by
  rw [State.consRec_eq, h, State.consRec_eq]

/-- A change to a consignment that is not one of its records. -/
theorem State.consRec_modCons {g : Cons → Cons} (hk : ∀ c, (g c).k = c.k) (hrecs : ∀ c, (g c).recs = c.recs) :
    (s.modCons k g).consRec j d = s.consRec j d := by
  rw [State.consRec_eq, State.consRec_eq, State.modCons, List.find?_map]
  have hsame : ((fun c : Cons => c.k == j) ∘ fun c => if c.k = k then g c else c) = fun c => c.k == j := by
    funext c
    by_cases h : c.k = k <;> simp [h, hk]
  rw [hsame]
  cases s.acc.cons.find? fun c => c.k == j with
  | none => rfl
  | some c => by_cases h : c.k = k <;> simp [h, hrecs]

theorem State.consRec_modRec (hr : s.consRec k d = some r) (hdie : ∀ r, (f r).die = r.die) :
    (s.modRec k d f).consRec k d = some (f r) := by
  rw [State.consRec_eq, Option.bind_eq_some_iff] at hr
  obtain ⟨c, hc, hr⟩ := hr
  have hck : c.k = k := by simpa using List.find?_some hc
  have hrd : r.die = d := by simpa using List.find?_some hr
  have hcons : ((fun c : Cons => c.k == k) ∘ fun c =>
      if c.k = k then { c with recs := c.recs.map fun r => if r.die = d then f r else r } else c) = fun c => c.k == k := by
    funext c
    by_cases h : c.k = k <;> simp [h]
  have hrec : ((fun r : RecSt => r.die == d) ∘ fun r => if r.die = d then f r else r) = fun r => r.die == d := by
    funext r
    by_cases h : r.die = d <;> simp [h, hdie]
  rw [State.consRec_eq, State.modRec, List.find?_map, hcons, hc, Option.map_some, Option.bind_some, if_pos hck, List.find?_map, hrec,
    hr, Option.map_some, if_pos hrd]

theorem State.consRec_checkPassed : (s.checkPassed k).consRec j d = s.consRec j d :=
  State.consRec_modCons (fun c => by split <;> rfl) fun c => by split <;> rfl

/-- A record in which input i's folio has failed. -/
def RecSt.folioFailed (r : RecSt) (i code : Nat) : RecSt :=
  { r with reasons := r.reasons ||| 2 ^ code, failed := if r.failed.contains i then r.failed else r.failed ++ [i] }

/-- A folio's failure is noted in its record; beside the consignments only performance counters change. -/
theorem State.failFolio_leaves {γ : Type} {π : State → γ} (hput : ∀ s f v, π (s.put f v) = π s)
    (hwraps : ∀ (s : State) w, π { s with wraps := w } = π s) :
    π (s.failFolio k d i code) = π (s.modRec k d (·.folioFailed i code)) := by
  simp only [State.failFolio]
  split
  · exact State.pmU_leaves hput hwraps _
  · rfl

theorem State.failFolio_dram : (s.failFolio k d i code).dram = s.dram :=
  State.failFolio_leaves State.put_dram fun _ _ => rfl

theorem State.consRec_failFolio (hr : s.consRec k d = some r) :
    (s.failFolio k d i code).consRec k d = some (r.folioFailed i code) := by
  rw [State.consRec_of_acc (State.failFolio_leaves State.put_acc fun _ _ => rfl),
    State.consRec_modRec (f := (·.folioFailed i code)) hr fun _ => rfl]

end

/-! ### Read-back of a folio (R120) -/

/-- A record in which input i's folio has been read back, from the partner's copy or its own. -/
def RecSt.readBack (r : RecSt) (mir : Bool) (i : Nat) : RecSt :=
  if mir then { r with paired := r.paired ++ [i] } else { r with backed := r.backed ++ [i] }

theorem RecSt.readBack_die (r : RecSt) (mir : Bool) (i : Nat) : (r.readBack mir i).die = r.die := by
  cases mir <;> rfl

theorem RecSt.mem_readBack (r : RecSt) (mir : Bool) (i : Nat) :
    i ∈ if mir then (r.readBack mir i).paired else (r.readBack mir i).backed := by
  cases mir <;> simp [RecSt.readBack]

/-- An event changes the queue of events, and a register where that is full. -/
theorem State.emit_leaves {γ : Type} {π : State → γ} (hput : ∀ s f v, π (s.put f v) = π s)
    (hevts : ∀ (s : State) x, π { s with evts := x } = π s) (hlost : ∀ (s : State) n, π { s with evtLost := n } = π s)
    (s : State) (code die kind unit a b : Nat) : π (s.emit code die kind unit a b) = π s := by
  rw [State.emit, State.emitC, State.queueEvt]
  split
  · exact hevts _ _
  · exact (hput _ _ _).trans (hlost _ _)

section
variable {s : State} {d i k sl : Nat} {r : RecSt} {mir : Bool} {data : List Word}

/-- The words that a clean read-back of the folio's last burst brings. -/
def State.lastBurst (s : State) (d i sl : Nat) (mir : Bool) : List Word :=
  let a := s.slotAddr d sl + s.recOffset d i + s.folioWords d i - 8
  if mir then Store.getList (fun _ => (0 : Word)) (s.acu (partner d)).mirror (a - s.get (JNL_REGION_BASE d) * 8) 8
  else s.rdMems d a 8

/-- An uncorrectable read-back as it is counted and reported. -/
def State.readFailed (s : State) (d i sl : Nat) (mir : Bool) : State :=
  let a := s.slotAddr d sl + s.recOffset d i + s.folioWords d i - 8
  ((s.bump (ACU_RB_UNCORR d)).uncorr (if mir then partner d else d) a 0x12 0).raise (ACU_EVENTS_RB_FAIL d)

theorem State.readFailed_acc : (s.readFailed d i sl mir).acc = s.acc := by
  rw [State.readFailed, State.raise_acc, State.uncorr, State.emit_leaves State.put_acc (fun _ _ => rfl) fun _ _ => rfl,
    State.raise_acc, State.bump_acc]

theorem State.readFailed_dram : (s.readFailed d i sl mir).dram = s.dram := by
  rw [State.readFailed, State.raise_dram, State.uncorr, State.emit_leaves State.put_dram (fun _ _ => rfl) fun _ _ => rfl,
    State.raise_dram, State.bump_dram]

variable (hr : s.consRec k d = some r) (hsl : r.slot = some sl) (hdone : i ∈ r.done) (hin : i ∈ r.inputs)
  (hwait : s.folioPending d i sl = false)
include hdone hin hwait

/-- Every word of the folio has come and has left the port's buffer. -/
theorem folioWritten : r.done.contains i = true ∧ r.inputs.contains i = true ∧ s.folioPending d i sl = false :=
  ⟨List.contains_iff_mem.mpr hdone, List.contains_iff_mem.mpr hin, hwait⟩

include hr hsl

/-- A clean read-back is noted in the record; beside it only performance counters change. -/
theorem exec_folioReadBack_of_clean (hdata : data = s.lastBurst d i sl mir) : ∃ u : State,
    exec (.folioReadBack d i k mir 0 data) s = .next (u.checkPassed k) ∧ u.acc = (s.modRec k d (·.readBack mir i)).acc ∧
      u.dram = s.dram := by
  have hexec : exec (.folioReadBack d i k mir 0 data) s = .next
      ((if mir then s.modRec k d (·.readBack mir i) else
        when (!r.failed.contains i) (·.pmU d 0x20 1) (s.modRec k d (·.readBack mir i))).checkPassed k) := by
    change execFolioReadBack d i k mir 0 data s = _
    simp only [execFolioReadBack, hr, hsl, if_pos (folioWritten hdone hin hwait), hdata, State.lastBurst]
    cases mir <;> simp [ok, RecSt.readBack]
  refine ⟨_, hexec, ?_, ?_⟩
  all_goals
    rw [when]
    split
    · rfl
    · split
      · exact State.pmU_leaves (by simp) (fun _ _ => rfl) _
      · rfl

/-- An uncorrectable read-back is counted and reported, and the folio fails. -/
theorem exec_folioReadBack_of_uncorr : exec (.folioReadBack d i k mir 2 data) s =
    .next ((s.readFailed d i sl mir).failFolio k d i (if mir then rsPAIR else rsJOURNAL)) := by
  change execFolioReadBack d i k mir 2 data s = _
  simp only [execFolioReadBack, hr, hsl, if_pos (folioWritten hdone hin hwait), decide_true, Bool.true_or, if_true, ok,
    State.readFailed]

end

/-! ### Intervals that have ended (R122) -/

/-- SETTLING, once every input's last output has come. -/
def Cons.settled (c : Cons) : Cons :=
  if c.state = 0 ∧ (c.recs.all fun r => r.inputs.all r.done.contains) = true then { c with state := 1 } else c

section
variable {s : State} {c : Cons} {k : Nat}

theorem State.mem_modCons {f : Cons → Cons} (hc : c ∈ s.acc.cons) : f c ∈ (s.modCons c.k f).acc.cons :=
  List.mem_map.mpr ⟨c, hc, if_pos rfl⟩

theorem exec_settling (hcur : s.acc.cur ≠ some k) : exec (.settling k) s = .next ((s.modCons k Cons.settled).checkPassed k) := by
  change execSettling k s = _
  rw [execSettling, if_neg hcur, ok]
  rfl

theorem Cons.settled_of_done (hopen : c.state = 0) (hdone : ∀ r ∈ c.recs, ∀ i ∈ r.inputs, i ∈ r.done) :
    c.settled = { c with state := 1 } := by
  have hall : (c.recs.all fun r => r.inputs.all r.done.contains) = true := by simpa using hdone
  exact if_pos ⟨hopen, hall⟩

/-- A consignment keeps its index and its records when it passes; it is then PASSED or what it was. -/
theorem State.mem_checkPassed (hc : c ∈ s.acc.cons) : ∃ c' ∈ (s.checkPassed c.k).acc.cons, c'.k = c.k ∧ c'.recs = c.recs ∧
    (c'.state = c.state ∨ c'.state = 2) := by
  refine ⟨_, State.mem_modCons hc, ?_⟩
  split
  · exact ⟨rfl, rfl, .inr rfl⟩
  · exact ⟨rfl, rfl, .inl rfl⟩

end

/-! ### The deadline of the read-backs (R122) -/

section
variable {s : State} {d k : Nat}

/-- Every record of die d in consignment k is late. -/
def State.Late (s : State) (k d : Nat) : Prop :=
  ∀ c ∈ s.acc.cons, c.k = k → ∀ r ∈ c.recs, r.die = d → bit r.reasons rsLATE = true

/-- Beside the consignments nothing changes. -/
def State.OnlyCons (s t : State) : Prop := t = { s with acc := { s.acc with cons := t.acc.cons } }

/-- Die d's records are late once they have failed, and those of another die stay late. -/
theorem State.late_failRec {e : Nat} (h : e = d ∨ s.Late k e) : (s.failRec k d rsLATE).Late k e := by
  intro c' hc' hk r' hr' he
  obtain ⟨c, hc, rfl⟩ := List.mem_map.mp hc'
  split at hk
  case isFalse hne => exact absurd hk hne
  case isTrue hck =>
    rw [if_pos hck] at hr'
    obtain ⟨r, hr, rfl⟩ := List.mem_map.mp hr'
    by_cases hd : r.die = d
    · rw [if_pos hd]
      exact bit_or_two_pow _ _
    · rw [if_neg hd] at he ⊢
      exact h.elim (fun hed => absurd (he.trans hed) hd) fun h => h c hc hck r hr he

theorem State.forAll_failRec (rs : List RecSt) (s : State) : let t := forAll rs s fun s r => s.failRec k r.die rsLATE
    s.OnlyCons t ∧ ∀ d, (∃ r ∈ rs, r.die = d) ∨ s.Late k d → t.Late k d := by
  induction rs generalizing s with
  | nil => exact ⟨rfl, fun d h => h.elim (fun ⟨_, hr, _⟩ => absurd hr List.not_mem_nil) id⟩
  | cons r rs ih =>
    obtain ⟨honly, hlate⟩ := ih (s.failRec k r.die rsLATE)
    refine ⟨honly.trans rfl, fun d h => hlate d ?_⟩
    rcases h with ⟨x, hx, rfl⟩ | h
    · rcases List.mem_cons.mp hx with rfl | hx
      · exact .inr (State.late_failRec (.inl rfl))
      · exact .inl ⟨x, hx, rfl⟩
    · exact .inr (State.late_failRec (.inr h))

/-- The time has come, and every record that lacks a read-back and whose deadline has then passed has failed. -/
def State.deadlinePassed (s : State) (k time : Nat) : State :=
  forAll ((s.unread k).filter fun r => decide (s.accDeadline k r.die ≤ max s.now time)) (s.advance time)
    fun s r => s.failRec k r.die rsLATE

theorem exec_accWindowExpiry_of_unread {x : Nat} {xs : List Nat} (h : (s.unread k).map (fun r => s.accDeadline k r.die) = x :: xs) :
    exec (.accWindowExpiry k) s = .next (s.deadlinePassed k (xs.foldl min x)) := by
  change execAccWindowExpiry k s = _
  rw [execAccWindowExpiry, h]
  rfl

theorem State.onlyCons_deadlinePassed (s : State) (k time : Nat) : (s.advance time).OnlyCons (s.deadlinePassed k time) :=
  (State.forAll_failRec _ _).1

theorem State.deadlinePassed_now (s : State) (k time : Nat) : (s.deadlinePassed k time).now = max s.now time :=
  congrArg State.now (s.onlyCons_deadlinePassed k time)

theorem State.late_deadlinePassed {time : Nat} {r : RecSt} (hr : r ∈ s.unread k)
    (hcome : s.accDeadline k r.die ≤ max s.now time) : (s.deadlinePassed k time).Late k r.die :=
  (State.forAll_failRec _ _).2 r.die (.inl ⟨r, List.mem_filter.mpr ⟨hr, decide_eq_true hcome⟩, rfl⟩)

end

/-! ### Decision of the oldest consignment (R123, R128, R130, R132) -/

section
variable {γ : Type} {π : State → γ} (hwr : ∀ s a w, π (s.wr a w) = π s) (hacu : ∀ s d q, π (s.setAcu d q) = π s)
include hwr

theorem State.showAcu_leaves (s : State) (d : Nat) : π (s.showAcu d) = π s := by
  simp only [State.showAcu, State.put, hwr]

include hacu

theorem State.truncVit_leaves (s : State) (d v last : Nat) : π (s.truncVit d v last) = π s := by
  simp only [State.truncVit, State.showAcu_leaves hwr, State.raise, State.put, hwr]
  split
  · exact hacu _ _ _
  · rfl

theorem State.limitVit_leaves (s : State) (d v : Nat) : π (s.limitVit d v) = π s := by
  rw [State.limitVit]
  split
  · exact State.showAcu_leaves hwr _ _
  · exact State.truncVit_leaves hwr hacu _ _ _ _

variable (hmem : ∀ s d a ws, π (State.wrMems s d a ws) = π s)
include hmem

theorem State.writeDir_leaves (s : State) (d : Nat) (r : JRec) : π (s.writeDir d r) = π s := by
  simp only [State.writeDir, hmem, hwr, hacu]

/-- Entries of the directory, the registers that show a decision and the vitrines of each die follow it; nothing else does. -/
theorem State.decided_leaves (s : State) (c : Cons) (st reason seq : Nat) : ∃ t : State, s.decide1 c st reason seq =
    t.setMarkOf c.k { t.mark c.k with state := st, seq := seq } ∧
      π t = π { s with acc := { s.acc with cons := s.acc.cons.filter fun x => x.k != c.k } } := by
  refine ⟨_, rfl, foldl_leaves π (fun s r _ => ?_) _⟩
  rw [State.showAcu_leaves hwr, forAll, foldl_leaves π fun s v _ => State.limitVit_leaves hwr hacu s _ _]
  split
  · simp only [State.bump, State.bumpBy, State.put, hwr, State.writeDir_leaves hwr hacu hmem]
  · simp only [State.raise, State.bump, State.bumpBy, State.put, hwr, State.writeDir_leaves hwr hacu hmem]

end

section
variable {s t : State} {c : Cons} {cs : List Cons}

theorem State.decide1_spec (s : State) (c : Cons) (st reason seq : Nat) : let t := s.decide1 c st reason seq
    (t.mark c.k).state = st ∧ (t.mark c.k).seq = seq ∧ t.nvm = s.nvm ∧
      t.acc.cons = s.acc.cons.filter fun x => x.k != c.k := by
  obtain ⟨u, hu, hkept⟩ := State.decided_leaves (π := fun s => (s.acc, s.nvm)) (fun _ _ _ => rfl) (fun _ _ _ => rfl)
    (fun _ _ _ _ => rfl) s c st reason seq
  obtain ⟨hacc, hnvm⟩ := Prod.mk.injEq .. ▸ hkept
  have hmark : ∀ m, (u.setMarkOf c.k m).mark c.k = m := fun m => Store.get_put_same _ _ _ _
  simp only [hu, hmark, true_and]
  exact ⟨hnvm, congrArg AccSt.cons hacc⟩

theorem State.mark_of_acc (h : t.acc = s.acc) (k : Nat) : t.mark k = s.mark k := by
  rw [State.mark, h, State.mark]

variable (hcons : s.acc.cons = c :: cs) (hfail : s.rg.failover = false) (hcur : s.acc.cur ≠ some c.k)
include hfail hcur

theorem numberingGoesOn : ¬ (s.rg.failover = true ∨ s.acc.cur = some c.k) :=
  not_or.mpr ⟨Bool.eq_false_iff.mp hfail, hcur⟩

include hcons

theorem exec_canNumbering_of_refused (h : c.allReasons ≠ 0 ∨ 2 ^ 48 ≤ s.nvm.nextCan) :
    ∃ reason, exec .canNumbering s = .next (s.decide1 c 2 reason 0) := by
  change ∃ reason, execCanNumbering s = _
  simp only [execCanNumbering, hcons, if_neg (numberingGoesOn hfail hcur)]
  by_cases hreason : c.allReasons = 0
  · have hused := h.resolve_left (not_not_intro hreason)
    exact ⟨rsEXHAUSTED, by rw [if_neg (not_not_intro hreason), if_pos hused, ok]⟩
  · exact ⟨lowBit c.allReasons, if_pos hreason⟩

/-- The last sequence of an epoch is reported, beside the decision and the count of sequences. -/
theorem exec_canNumbering_of_passed (hreason : c.allReasons = 0) (hpassed : c.state = 2) (hleft : s.nvm.nextCan < 2 ^ 48) :
    ∃ t : State, exec .canNumbering s = .next t ∧ t.acc = (s.decide1 c 1 0 s.nvm.nextCan).acc ∧
      t.nvm.nextCan = s.nvm.nextCan + 1 := by
  change ∃ t : State, execCanNumbering s = _ ∧ _
  simp only [execCanNumbering, hcons, if_neg (numberingGoesOn hfail hcur), if_neg (not_not_intro hreason),
    if_neg (not_le_of_gt hleft), if_pos hpassed]
  split
  · refine ⟨_, rfl, ?_, ?_⟩
    · rw [State.emit_leaves State.put_acc (fun _ _ => rfl) fun _ _ => rfl, forAll,
        foldl_leaves State.acc fun _ _ _ => State.raise_acc _ _]
    · rw [State.emit_leaves State.put_nvm (fun _ _ => rfl) fun _ _ => rfl, forAll,
        foldl_leaves State.nvm fun _ _ _ => State.raise_nvm _ _]
  · exact ⟨_, rfl, rfl, rfl⟩

end

/-! ### A vitrine hands a record over (R143) -/

section
variable {s : State} {d v : Nat} {r : JRec} {b : Bool}

/-- The product units of record r for vitrine v: one for each sample format among its slots. -/
def State.handedUnits (s : State) (d v : Nat) (r : JRec) (last : Bool) : List PUnit :=
  let sl := s.vitSlots d v
  let c8 := sl.filter fun i => s.get (IN_CFG_FMT d i) == 0
  let c16 := sl.filter fun i => s.get (IN_CFG_FMT d i) == 1
  (if c8 = [] then [] else [s.vtrUnit d v 0 r c8 last]) ++ (if c16 = [] then [] else [s.vtrUnit d v 1 r c16 last])

/-- Vitrine v has handed record r over, as its last one or not. -/
def State.handedOver (s : State) (d v : Nat) (r : JRec) (last : Bool) : State :=
  let a := s.acu d
  let q := Store.get (fun _ => VitSt.reset) a.vits v
  let s1 := s.setAcu d { a with vits := Store.put (fun _ => VitSt.reset) a.vits v ⟨r.folio + 1, q.held ++ [r.folio]⟩ }
  let s2 := { s1 with units := s1.units ++ s.handedUnits d v r last }
  ((s2.bump (VIT_STATE_DONE d v)).put (VIT_STATE_STATE d v) (if last then 0 else 2)).showAcu d

theorem exec_vitrineHandover_of_turn (hd : s.present d = true) (hv : v < 16) (hnext : s.vitNext d v = some r)
    (hturn : s.vitTurn d v r.folio = true) : ∃ last, exec (.vitrineHandover d v) s = .next (s.handedOver d v r last) ∧
      (s.get (VIT_LAST_FOLIO d v) ≤ r.folio → last = true) := by
  have hopen : s.vitOpen d v = true := by
    rw [State.vitNext] at hnext
    split at hnext
    · assumption
    · exact absurd hnext (Option.some_ne_none r).symm
  refine ⟨?last, ?exec, ?_⟩
  case exec =>
    change execVitrineHandover d v s = _
    rw [execVitrineHandover, if_pos ⟨hd, hv⟩, ok, State.handOver]
    simp only [hopen, hnext, hturn, Bool.true_eq_false, if_false]
    rfl
  · exact fun h => by rw [decide_eq_true h, Bool.true_or]

theorem State.handedOver_units : (s.handedOver d v r b).units = s.units ++ s.handedUnits d v r b := rfl

theorem State.handedOver_vit : Store.get (fun _ => VitSt.reset) ((s.handedOver d v r b).acu d).vits v =
    ⟨r.folio + 1, (Store.get (fun _ => VitSt.reset) (s.acu d).vits v).held ++ [r.folio]⟩ := by
  rw [State.handedOver, State.showAcu_leaves (π := (State.acu · d)) fun _ _ _ => rfl, State.acu_put, State.bump, State.bumpBy,
    State.acu_put, State.acu, State.setAcu, Store.get_put_same, Store.get_put_same]

theorem State.mem_held_handedOver : r.folio ∈ (Store.get (fun _ => VitSt.reset) ((s.handedOver d v r b).acu d).vits v).held := by
  rw [State.handedOver_vit]
  exact List.mem_append_right _ (List.mem_singleton_self _)

theorem State.handedOver_closed : (s.handedOver d v r true).get (VIT_STATE_STATE d v) = 0 := by
  simp only [State.handedOver, State.showAcu]
  rw [State.get_put_apart, State.get_put_apart, State.get_put_apart, State.get_put_apart,
    State.get_put_fits (by exact RF.fits rfl (by omega))]; rfl
  all_goals exact RF.apart rfl rfl (by omega)

theorem State.mem_handedUnits {u : PUnit} (hu : u ∈ s.handedUnits d v r b) :
    u.typ = 4 ∧ u.keyA = r.folio ∧ u.keyB = s.get (VIT_STATE_NUMBER d v) := by
  have hunit : ∃ fmt sl, u = s.vtrUnit d v fmt r sl b := by
    rcases List.mem_append.mp hu with h | h <;> split at h
    · exact absurd h List.not_mem_nil
    · exact ⟨_, _, List.mem_singleton.mp h⟩
    · exact absurd h List.not_mem_nil
    · exact ⟨_, _, List.mem_singleton.mp h⟩
  obtain ⟨fmt, sl, rfl⟩ := hunit
  exact ⟨rfl, rfl, rfl⟩

/-- Every chosen slot has one of the two formats. -/
theorem State.handedUnits_ne_nil (h : s.vitSlots d v ≠ []) : s.handedUnits d v r b ≠ [] := by
  obtain ⟨i, hi⟩ := List.exists_mem_of_ne_nil _ h
  have hfmt : s.get (IN_CFG_FMT d i) < 2 := State.get_lt s _
  have hone : (s.vitSlots d v).filter (fun i => s.get (IN_CFG_FMT d i) == 0) ≠ [] ∨
      (s.vitSlots d v).filter (fun i => s.get (IN_CFG_FMT d i) == 1) ≠ [] := by
    rcases (by omega : s.get (IN_CFG_FMT d i) = 0 ∨ s.get (IN_CFG_FMT d i) = 1) with h0 | h1
    · exact .inl (List.ne_nil_of_mem (List.mem_filter.mpr ⟨hi, beq_iff_eq.mpr h0⟩))
    · exact .inr (List.ne_nil_of_mem (List.mem_filter.mpr ⟨hi, beq_iff_eq.mpr h1⟩))
  rw [State.handedUnits]
  rcases hone with h | h <;> simp [h]

end

/-! ### The obligation -/

/-- Settles O31. Each command is taken to the state it answers (the `exec_` lemmas); what the boundary leaves of the breaks is
`State.startInterval_runs`, what a read-back notes is read from `State.consRec_modRec`, the fold over the late dies is
`State.late_deadlinePassed`, and the decision `State.decide1_spec`. -/
theorem consignmentsAreDecided : Obligations.ConsignmentsAreDecided := by
  unfold Obligations.ConsignmentsAreDecided
  intro s
  refine ⟨fun k hruns hnext => ?start, fun c hc hcur hopen hdone => ?settles,
    fun d i k sl r mir data hr hsl hdone hin hwait => ⟨fun hdata => ?clean, ?uncorr⟩, fun k x xs hunread => ?late,
    fun c cs hcons hfail hcur => ⟨fun hreason hpassed hleft => ?accepted, fun hno => ?refused⟩, fun d v r hd hv hnext hturn => ?handover⟩
  case start =>
    obtain ⟨hcur, hnow, hmode, htime⟩ := s.startInterval_runs k
    exact ⟨_, exec_intervalStart_of_next hruns hnext, rfl, hcur, hnow, hmode, htime⟩
  case settles =>
    obtain ⟨c', hc', hk, hrecs, hstate⟩ := State.mem_checkPassed (State.mem_modCons (f := Cons.settled) hc)
    rw [Cons.settled_of_done hopen hdone] at hc' hk hrecs hstate
    exact ⟨_, exec_settling hcur, rfl, c', hc', hk, hrecs, hstate⟩
  case clean =>
    obtain ⟨u, hexec, hacc, hdram⟩ := exec_folioReadBack_of_clean hr hsl hdone hin hwait hdata
    refine ⟨_, hexec, hdram, r.readBack mir i, ?_, r.mem_readBack mir i⟩
    rw [State.consRec_checkPassed, State.consRec_of_acc hacc,
      State.consRec_modRec (f := (·.readBack mir i)) hr fun r => r.readBack_die mir i]
  case uncorr =>
    refine ⟨_, exec_folioReadBack_of_uncorr hr hsl hdone hin hwait, State.failFolio_dram.trans State.readFailed_dram, _,
      State.consRec_failFolio ((State.consRec_of_acc State.readFailed_acc k d).trans hr), bit_or_two_pow _ _⟩
  case late =>
    have hnow := s.deadlinePassed_now k (xs.foldl min x)
    refine ⟨_, exec_accWindowExpiry_of_unread hunread, ?_, hnow,
      fun r hr hcome => State.late_deadlinePassed hr (hcome.trans_eq hnow)⟩
    rw [hnow]
    exact s.onlyCons_deadlinePassed k (xs.foldl min x)
  case accepted =>
    obtain ⟨t, hexec, hacc, hnvm⟩ := exec_canNumbering_of_passed hcons hfail hcur hreason hpassed hleft
    obtain ⟨hstate, hseq, -, hrest⟩ := s.decide1_spec c 1 0 s.nvm.nextCan
    have hmark := State.mark_of_acc hacc c.k
    exact ⟨t, hexec, by rw [hmark, hstate], by rw [hmark, hseq], hnvm, by rw [hacc, hrest, hcons]⟩
  case refused =>
    obtain ⟨reason, hexec⟩ := exec_canNumbering_of_refused hcons hfail hcur hno
    obtain ⟨hstate, -, hnvm, hrest⟩ := s.decide1_spec c 2 reason 0
    exact ⟨_, hexec, hstate, hnvm, by rw [hrest, hcons]⟩
  case handover =>
    obtain ⟨last, hexec, hlast⟩ := exec_vitrineHandover_of_turn hd hv hnext hturn
    refine ⟨_, hexec, fun h => ?_, State.mem_held_handedOver, _, State.handedOver_units, State.handedUnits_ne_nil,
      fun u => State.mem_handedUnits⟩
    rw [hlast h, State.handedOver_closed]

end Sys2Proof.Machine

namespace Sys2Proof.Machine

open Reg

/-! ### Cores and saves of a die -/

section
variable {s t : State} {d c l : Nat} {v : CoreSt} {x : FcSt}

@[simp] theorem State.core_setCore_same : (s.setCore d c v).core d c = v := by
  rw [State.core, State.setCore, State.fc_set_same]
  exact Store.get_put_same _ _ _ _

@[simp] theorem State.core_setSave : (s.setSave d l v).core d c = s.core d c := by
  rw [State.core, State.setSave, State.fc_set_same, State.core]

@[simp] theorem State.saveOf_setSave_same : (s.setSave d l v).saveOf d l = v := by
  rw [State.saveOf, State.setSave, State.fc_set_same]
  exact Store.get_put_same _ _ _ _

@[simp] theorem State.fc_setCore_loans : ((s.setCore d c v).fc d).loans = (s.fc d).loans := by
  rw [State.setCore, State.fc_set_same]

@[simp] theorem State.fc_setCore_hosts : ((s.setCore d c v).fc d).hosts = (s.fc d).hosts := by
  rw [State.setCore, State.fc_set_same]

@[simp] theorem State.fc_setSave_loans : ((s.setSave d l v).fc d).loans = (s.fc d).loans := by
  rw [State.setSave, State.fc_set_same]

@[simp] theorem State.fc_setSave_hosts : ((s.setSave d l v).fc d).hosts = (s.fc d).hosts := by
  rw [State.setSave, State.fc_set_same]

@[simp] theorem State.get_setCore (f : RF) : (s.setCore d c v).get f = s.get f := (rfl)
@[simp] theorem State.get_restoreCore (f : RF) : (s.restoreCore d c l).get f = s.get f := (rfl)

/-- A change to a die's F-cores that leaves the cores themselves. -/
theorem State.core_setFc_of_cores (h : x.cores = (s.fc d).cores) : (s.setFc d x).core d c = s.core d c := by
  rw [State.core, State.fc_set_same, h, State.core]

theorem State.fc_of_fcs (h : t.fcs = s.fcs) : t.fc d = s.fc d := by rw [State.fc, h, State.fc]

theorem State.core_of_fcs (h : t.fcs = s.fcs) : t.core d c = s.core d c := by
  rw [State.core, State.fc_of_fcs h, State.core]

theorem State.saveOf_of_fcs (h : t.fcs = s.fcs) : t.saveOf d l = s.saveOf d l := by
  rw [State.saveOf, State.fc_of_fcs h, State.saveOf]

end

/-! ### Sources of a core (R157) -/

theorem bit_withBit_same (x i : Nat) (b : Bool) : bit (withBit x i b) i = b := by
  rw [bit_eq_testBit, withBit, withBits_testBit, if_neg (Nat.lt_irrefl i), if_pos (Nat.lt_succ_self i), Nat.sub_self]
  cases b <;> rfl

theorem CoreSt.bit_raiseIrq_pend (q : CoreSt) (n : Nat) : bit (q.raiseIrq n).pend n = true := bit_withBit_same _ _ _

/-! ### What the fault record, the events and the mode leave of the F-cores -/

theorem addrBlock_FLT_STATUS (d : Nat) : addrBlock (FLT_STATUS d) = 0x1E := addrBlock_spanSlot d (by omega) (by omega)

theorem addrBlock_FLT_EVENTS (d : Nat) : addrBlock (FLT_EVENTS d) = 0x1E := addrBlock_spanSlot d (by omega) (by omega)

/-- The F-cores' state and the slots of their block 0x13 stay as they are. -/
structure State.KeepsCores (s t : State) : Prop where
  fcs : t.fcs = s.fcs
  get : ∀ f : RF, addrBlock f.addr = 0x13 → t.get f = s.get f

namespace State.KeepsCores

variable {s t u : State} {f : RF} {v code die kind unit a b days n m p : Nat} {x : UnitId} {e : Evt} {perm : Bool}

theorem refl (s : State) : s.KeepsCores s := ⟨rfl, fun _ _ => rfl⟩

theorem trans (h : s.KeepsCores t) (h' : t.KeepsCores u) : s.KeepsCores u :=
  ⟨h'.fcs.trans h.fcs, fun f hf => (h'.get f hf).trans (h.get f hf)⟩

theorem ite {c : Prop} [Decidable c] (h : s.KeepsCores t) (h' : s.KeepsCores u) : s.KeepsCores (if c then t else u) := by
  split
  · exact h
  · exact h'

theorem when {c : Bool} {g : State → State} (h : s.KeepsCores t) (hg : s.KeepsCores (g t)) : s.KeepsCores (when c g t) := ite hg h

theorem foldl {β : Type} {l : List β} {g : State → β → State} (h : s.KeepsCores t)
    (hg : ∀ u, ∀ y ∈ l, s.KeepsCores u → s.KeepsCores (g u y)) : s.KeepsCores (l.foldl g t) := by
  induction l generalizing t with
  | nil => exact h
  | cons y l ih => exact ih (hg t y List.mem_cons_self h) fun u z hz => hg u z (List.mem_cons_of_mem y hz)

/-- A change beside the F-cores and the registers. -/
theorem beside (h : s.KeepsCores t) (hfcs : u.fcs = t.fcs) (hget : u.get = t.get) : s.KeepsCores u :=
  h.trans ⟨hfcs, fun f _ => congrFun hget f⟩

theorem put (h : s.KeepsCores t) (hf : addrBlock f.addr ≠ 0x13) : s.KeepsCores (t.put f v) :=
  h.trans ⟨State.put_fcs _ _ _, fun g hg => State.get_put_of_block t v (by rw [hg]; exact hf.symm)⟩

theorem raise (h : s.KeepsCores t) (hf : addrBlock f.addr ≠ 0x13) : s.KeepsCores (t.raise f) := h.put hf

theorem queueEvt (h : s.KeepsCores t) : s.KeepsCores (t.queueEvt e) :=
  ite (h.beside rfl rfl) ((h.beside (u := { t with evtLost := t.evtLost + 1 }) rfl rfl).put (f := PKC_DROP_EVT_DROPPED) (by decide))

theorem emitC (h : s.KeepsCores t) : s.KeepsCores (t.emitC perm code die kind unit a b) := h.queueEvt

theorem emit (h : s.KeepsCores t) : s.KeepsCores (t.emit code die kind unit a b) := h.emitC

theorem msix (h : s.KeepsCores t) : s.KeepsCores (t.msix p n) := by
  rw [State.msix]
  exact ite h (ite (ite h (h.beside rfl rfl)) (ite (h.beside rfl rfl) (h.beside rfl rfl)))

theorem msixChange (h : s.KeepsCores t) : s.KeepsCores t.msixChange := h.msix.msix

theorem markNow (h : s.KeepsCores t) : s.KeepsCores (t.markNow n) := by
  rw [State.markNow]
  split
  · exact h
  · exact h.beside rfl rfl

theorem setMode (h : s.KeepsCores t) : s.KeepsCores (t.setMode m) := by
  rw [State.setMode]
  refine markNow (msixChange (emit (raise (put (put (put ?_ ?_) ?_) ?_) ?_)))
  · exact ite (h.beside rfl rfl) (h.beside rfl rfl)
  all_goals decide

theorem evalRepl (h : s.KeepsCores t) : s.KeepsCores t.evalRepl := by
  have hlevel : ∀ d, addrBlock (FLT_STATUS_LEVEL d).addr ≠ 0x13 := fun d => (addrBlock_FLT_STATUS d).trans_ne (by omega)
  unfold State.evalRepl
  extract_lets conds adv lvl mask s1 s2 s3 s4
  have h2 : s.KeepsCores s2 := (((h.put (by decide)).put (by decide)).put (by decide)).put (by decide)
  have h3 : s.KeepsCores s3 := ite h2 (h2.put (by decide)).msixChange
  have h4 : s.KeepsCores s4 := foldl h3 fun u d _ hu => hu.put (hlevel d)
  exact ite h4.setMode h4

theorem request (h : s.KeepsCores t) : s.KeepsCores (t.request code die days) := by
  have hreq : addrBlock (FLT_EVENTS_REQUESTED die).addr ≠ 0x13 := (addrBlock_FLT_EVENTS die).trans_ne (by omega)
  have hemit : s.KeepsCores (({ t with flt := { t.flt with conds := t.flt.conds ++ [(code, die)] } } : State).emit 0x07 die 0 0 code days) :=
    emit (h.beside rfl rfl)
  exact ite h (evalRepl (hemit.when (hemit.raise hreq)))

theorem unrequest (h : s.KeepsCores t) : s.KeepsCores (t.unrequest code die) := evalRepl (h.beside rfl rfl)

theorem advise (h : s.KeepsCores t) : s.KeepsCores (t.advise code die) := by
  have hadv : addrBlock (FLT_EVENTS_ADVISED die).addr ≠ 0x13 := (addrBlock_FLT_EVENTS die).trans_ne (by omega)
  have hemit : s.KeepsCores (({ t with flt := { t.flt with advised := t.flt.advised ++ [(code, die)] } } : State).emit 0x06 die 0 0 code 0) :=
    emit (h.beside rfl rfl)
  exact evalRepl (hemit.when (hemit.raise hadv))

theorem recoverFault (h : s.KeepsCores t) : s.KeepsCores (t.recoverFault x) := by
  rw [State.recoverFault]
  split
  · exact h
  · have hemit := fun c : OpenFault =>
      (h.beside (u := { t with flt := { t.flt with opened := t.flt.opened.erase c } }) rfl rfl).emit (code := 0x08) (die := x.die)
        (kind := x.kind) (unit := x.idx) (a := c.code) (b := 0)
    dsimp only
    split
    · exact hemit _
    · exact ite (hemit _) (unrequest (emit ((hemit _).beside rfl rfl)))

theorem beginFault (h : s.KeepsCores t) : s.KeepsCores (t.beginFault x code) :=
  ite (request (emit (h.beside rfl rfl))) (h.beside rfl rfl)

theorem appendRec (h : s.KeepsCores t) {magic body : List Nat} : s.KeepsCores (t.appendRec magic body) := by
  unfold State.appendRec
  extract_lets g r r' put
  have hput : ∀ u dev, s.KeepsCores u → s.KeepsCores (put u dev) := fun u dev hu => ite (hu.beside rfl rfl) hu
  exact hput _ 1 (hput t 0 h)

section
variable {d c : Nat} (hc : c < 18)
include hc

theorem setUnitState (h : s.KeepsCores t) : s.KeepsCores (t.setUnitState ⟨d, 4, c⟩ v) :=
  h.put ((addrBlock_UNIT_BKT d (by omega : 17 + c < 76)).trans_ne (by omega))

theorem charge (h : s.KeepsCores t) : s.KeepsCores (t.charge ⟨d, 4, c⟩ n (UNIT_BKT_BKT_B d (17 + c))) :=
  put (ite (h.beside rfl rfl) h) ((addrBlock_UNIT_BKT d (by omega : 17 + c < 76)).trans_ne (by omega))

theorem deaccUnit (h : s.KeepsCores t) : s.KeepsCores (t.deaccUnit ⟨d, 4, c⟩ code a b n) := by
  have hdeacc : addrBlock (FLT_EVENTS_DEACC d).addr ≠ 0x13 := (addrBlock_FLT_EVENTS d).trans_ne (by omega)
  have hstate := setUnitState (v := 2) (d := d) hc (appendRec (h.beside (u := { t with flt := { t.flt with
    dead := if t.flt.dead.contains ⟨d, 4, c⟩ then t.flt.dead else t.flt.dead ++ [⟨d, 4, c⟩] } }) rfl rfl)
    (magic := [0x5A, 0x4E, 0x46, 0x52]) (body := [4, d] ++ toOctets 2 c ++ [1] ++ toOctets 4 n ++ List.replicate 11 0))
  exact emit (hstate.when (hstate.raise hdeacc))

end

end State.KeepsCores

end Sys2Proof.Machine

namespace Sys2Proof.Machine

open Reg

/-! ### A core that gives up its work keeps its CORE_FAULT (R156, R174, R543)

Loans and give-ups write the CORE_CFG of cores, FC_STATUS and FC_EVENTS, whose offsets in block 0x13 are never those of a CORE_FAULT. -/

section
variable {s : State} {d c h l x : Nat}

theorem addrBlock_CORE_FAULT (d : Nat) (hc : c < 18) : addrBlock (CORE_FAULT d c) = 0x13 := addrBlock_spanSlot d (by omega) (by omega)

theorem addrBlock_CORE_CFG (d : Nat) (hc : c < 18) : addrBlock (CORE_CFG d c) = 0x13 := addrBlock_spanSlot d (by omega) (by omega)

theorem CORE_FAULT_ne_CORE_CFG : CORE_FAULT d c ≠ CORE_CFG d x := spanSlot_ne rfl rfl (by omega)

theorem CORE_FAULT_ne_FC_STATUS : CORE_FAULT d c ≠ FC_STATUS d := spanSlot_ne rfl rfl (by omega)

theorem CORE_FAULT_ne_FC_EVENTS : CORE_FAULT d c ≠ FC_EVENTS d := spanSlot_ne rfl rfl (by omega)

/-- The loans are shown in FC_STATUS and FLT_STATUS. -/
theorem State.get_showLoans {f : RF} (hf : addrBlock f.addr = 0x13) (hne : f.addr ≠ FC_STATUS d) : (s.showLoans d).get f = s.get f := by
  rw [State.showLoans, State.get_put_of_block _ _ (by rw [FLT_STATUS_FC_SPARES, addrBlock_FLT_STATUS]; omega),
    State.get_put_other _ _ (f := FC_STATUS_LOAN17 d) hne, State.get_put_other _ _ (f := FC_STATUS_LOAN16 d) hne]

theorem State.get_copyCfg {f : RF} (hne : f.addr ≠ CORE_CFG d h) : (s.copyCfg d c h).get f = s.get f := by
  rw [State.copyCfg, State.get_put_other _ _ (f := CORE_CFG_EN d h) hne, State.get, State.rd_wr_other _ _ hne, State.get]

variable (hc : c < 18)
include hc

theorem State.KeepsCores.cause {t : State} (hk : s.KeepsCores t) : t.get (CORE_FAULT_CAUSE d c) = s.get (CORE_FAULT_CAUSE d c) :=
  hk.get _ (addrBlock_CORE_FAULT d hc)

theorem State.cause_showLoans : (s.showLoans d).get (CORE_FAULT_CAUSE d c) = s.get (CORE_FAULT_CAUSE d c) :=
  State.get_showLoans (addrBlock_CORE_FAULT d hc) CORE_FAULT_ne_FC_STATUS

theorem State.cause_spareless : (s.spareless d x l).get (CORE_FAULT_CAUSE d c) = s.get (CORE_FAULT_CAUSE d c) := by
  have hreq : (s.request 1 d 0).get (CORE_FAULT_CAUSE d c) = s.get (CORE_FAULT_CAUSE d c) := (State.KeepsCores.refl s).request.cause hc
  rw [State.spareless]
  dsimp only
  split
  · rw [State.get_setFc, hreq]
  · rw [State.get_setCore, State.get_setFc, State.get_setFc, hreq]

theorem State.cause_lend : (s.lend d x l).get (CORE_FAULT_CAUSE d c) = s.get (CORE_FAULT_CAUSE d c) := by
  have hloan : addrBlock (FLT_EVENTS_LOAN d).addr ≠ 0x13 := (addrBlock_FLT_EVENTS d).trans_ne (by omega)
  rw [State.lend]
  split
  · exact State.cause_spareless hc
  · rw [((State.KeepsCores.refl _).raise hloan).emit.cause hc, State.raise, State.get_put_other _ _ (f := FC_EVENTS_LOAN d) CORE_FAULT_ne_FC_EVENTS,
      State.get_put_other _ _ (f := CORE_CFG_EN d x) CORE_FAULT_ne_CORE_CFG, State.cause_showLoans hc, State.get_restoreCore,
      State.get_setCore, State.get_copyCfg CORE_FAULT_ne_CORE_CFG, State.get_setFc]

theorem State.cause_coreGivesUp : (s.coreGivesUp d c).get (CORE_FAULT_CAUSE d c) = s.get (CORE_FAULT_CAUSE d c) := by
  unfold State.coreGivesUp
  extract_lets l u mine failed s1 f1 s2 q s3 s4 s5 f5 s6 f6 s7
  have h1 : s1.get (CORE_FAULT_CAUSE d c) = s.get (CORE_FAULT_CAUSE d c) :=
    (((State.KeepsCores.refl s).charge hc).setUnitState hc).beginFault.cause hc
  have h3 : s3.get (CORE_FAULT_CAUSE d c) = s1.get (CORE_FAULT_CAUSE d c) := by
    simp only [s3, s2, State.get_setTimer, State.get_setCore, State.get_setFc]
  have h4 : s4.get (CORE_FAULT_CAUSE d c) = s3.get (CORE_FAULT_CAUSE d c) := by
    simp only [s4]
    split
    · rw [(State.KeepsCores.refl _).advise.cause hc, State.putBit, State.get_put_other _ _ (f := FC_STATUS_DEACC d) CORE_FAULT_ne_FC_STATUS,
        ((State.KeepsCores.refl s3).deaccUnit hc).cause hc]
    · rfl
  have h5 : s5.get (CORE_FAULT_CAUSE d c) = s4.get (CORE_FAULT_CAUSE d c) :=
    (State.get_put_other _ _ (f := CORE_CFG_EN d failed) CORE_FAULT_ne_CORE_CFG).trans (State.get_copyCfg CORE_FAULT_ne_CORE_CFG)
  have h6 : s6.get (CORE_FAULT_CAUSE d c) = s5.get (CORE_FAULT_CAUSE d c) := by
    simp only [s6]
    split
    · exact State.get_setFc _ _ _ _
    · exact State.cause_lend hc
  rw [State.cause_showLoans hc, State.get_put_other _ _ (f := CORE_CFG_EN d c) CORE_FAULT_ne_CORE_CFG, State.get_setFc, h6, h5, h4, h3, h1]

theorem State.en_coreGivesUp : (s.coreGivesUp d c).get (CORE_CFG_EN d c) = 0 := by
  have hne : CORE_CFG d c ≠ FC_STATUS d := spanSlot_ne rfl rfl (by omega)
  rw [State.coreGivesUp, State.get_showLoans (addrBlock_CORE_CFG d hc) hne]
  exact State.get_put_fits (RF.fits rfl (by omega))

/-- The fault of a watchdog (cause 5) is recorded before the core gives up its work. -/
theorem State.cause_coreFault_watchdog : (s.coreFault d c 5).get (CORE_FAULT_CAUSE d c) = 5 := by
  rw [State.coreFault]
  dsimp only
  rw [if_pos (by decide), State.cause_coreGivesUp hc, (State.KeepsCores.refl _).emitC.cause hc,
    State.raise, State.get_put_other _ _ (f := FC_EVENTS_FAULT d) CORE_FAULT_ne_FC_EVENTS,
    State.get_put_apart (RF.apart (f := CORE_FAULT_FOLIO d c) (g := CORE_FAULT_CAUSE d c) rfl rfl (by omega)),
    State.get_put_apart (RF.apart (f := CORE_FAULT_PC d c) (g := CORE_FAULT_CAUSE d c) rfl rfl (by omega))]
  exact State.get_put_fits (RF.fits rfl (by omega))

theorem State.en_coreFault_watchdog : (s.coreFault d c 5).get (CORE_CFG_EN d c) = 0 := by
  rw [State.coreFault]
  dsimp only
  rw [if_pos (by decide), State.en_coreGivesUp hc]

end

end Sys2Proof.Machine

namespace Sys2Proof.Machine

open Reg

/-! ### What serving a core leaves of the other F-core state -/

@[simp] theorem State.count_fcs (s : State) (d k n : Nat) : (s.count d k n).fcs = s.fcs := by
  rw [State.count]; split <;> simp

@[simp] theorem State.pm_fcs (s : State) (d ev i n : Nat) : (s.pm d ev i n).fcs = s.fcs := by
  rw [State.pm]
  split
  · rfl
  · exact foldl_leaves State.fcs (fun s k _ => State.count_fcs s d k n) s

section
variable {s : State} {d c us : Nat}

/-- Catching up ends loans and hosted work; the cores stay. -/
theorem State.core_caughtUp : (s.caughtUp d c).core d c = s.core d c := by
  have hrecover : ∀ (t : State) (u : UnitId), (t.recoverFault u).core d c = t.core d c := fun t _ =>
    State.core_of_fcs (State.KeepsCores.refl t).recoverFault.fcs
  rw [State.caughtUp]
  split
  · rfl
  extract_lets f s1
  have hloan : s1.core d c = s.core d c := by
    simp only [s1]
    split
    · rfl
    · exact (hrecover _ _).trans (State.core_setFc_of_cores rfl)
  split
  · exact hloan
  · rw [hrecover, ← hloan]
    exact State.core_setFc_of_cores rfl

theorem State.hostBack_of_no_hosts (h : (s.fc d).hosts = []) : s.hostBack d c = s := by
  rw [State.hostBack, h, List.find?_nil]

theorem State.takeBack_of_no_loans (h : (s.fc d).loans = []) : s.takeBack d c = s := by
  rw [State.takeBack, h, List.find?_nil]

theorem State.hostStart_of_no_hosts (h : (s.fc d).hosts = []) : s.hostStart d c = s := by
  rw [State.hostStart, h, List.find?_nil]

/-- A core whose request for a save has been served. -/
def CoreSt.saved (q : CoreSt) : CoreSt := { q with pend := withBit q.pend 0 false }

/-- A save copies the core and counts its time. -/
theorem State.saveCore_fcs : (s.saveCore d c us).fcs =
    ((s.setCore d c (s.core d c).saved).setSave d (s.logicalOf d c) (s.core d c).saved).fcs := by
  have htd : ∀ t : State, ∀ n, (t.td d c 3 n).fcs = t.fcs := fun t n => by
    rw [State.td]; split <;> simp
  rw [State.saveCore, when]
  split
  · exact (State.raise_fcs _ _).trans (htd _ _)
  · exact htd _ _

end

/-! ### The commands of sources, rings, saves and retests (R156 to R175) -/

/-- The core in the handler of source `n`: what was issued has completed, and the shadow registers hold what it left (R158). -/
def CoreSt.handling (q : CoreSt) (n : Nat) : CoreSt :=
  { q.drain with
    handler := some ⟨q.drain.pc, q.drain.win, q.drain.sit, q.drain.bsh, (List.range 4).map q.drain.lreg, q.drain.loops⟩,
    loops := [], rc := [], pend := withBit q.drain.pend n false, st := 4, pc := Config.handlerEntry n % 8192 }

section
variable {s : State} {d c : Nat} (hd : s.present d = true) (hc : c < 18)
include hd hc

theorem exec_fcRetest_of_gaveUp (hst : s.get (UNIT_BKT_STATE d (17 + c)) = 1) (pass : Bool) : exec (.fcRetest d c pass) s =
    .next ((s.tick (tkFcTest d c) (s.get (FLT_LIMITS2_FC_RETEST_S d) * tSec)).setFc d { s.fc d with
      passes := Store.put zeroNat (s.fc d).passes c (if pass then Store.get zeroNat (s.fc d).passes c + 1 else 0) }) := by
  change execFcRetest d c pass s = _
  rw [execFcRetest, if_pos ⟨hd, hc, hst⟩]; rfl

variable (hen : s.get (CORE_CFG_EN d c) = 1)
include hen

theorem exec_interruptTake_of_source {n : Nat} (hr : s.runs = true) (hst : (s.core d c).st = 1 ∨ (s.core d c).st = 2 ∨ (s.core d c).st = 3)
    (hh : (s.core d c).handler = none) (ht : (s.core d c).takePoint = true) (hn : (s.core d c).source = some n) :
    exec (.interruptTake d c) s = .next ((s.setCore d c ((s.core d c).handling n)).pm d 0x2B c 1) := by
  change execInterruptTake d c s = _
  simp only [execInterruptTake, hd, hc, hr, hen, hst, hh, ht, hn, and_self, if_true]; rfl

theorem exec_inputBufferComplete_of_room {r : JRec} {i : Nat} (hroom : (s.core d c).ins.length < s.get (CORE_CFG_IN_BUFS d c))
    (hr : s.nextRecord d c = some r) (hi : (s.dealt d (s.logicalOf d c))[(s.core d c).feedIn]? = some i) :
    ∃ q : CoreSt, exec (.inputBufferComplete d c) s = .next ((s.setCore d c (q.raiseIrq 1)).caughtUp d c) ∧
      q.ins = (s.core d c).ins ++ [⟨r.folio, (s.core d c).feedIn, (s.core d c).inSlot⟩] := by
  refine ⟨?fed, ?exec, ?ins⟩
  case exec =>
    change execInputBufferComplete d c s = _
    simp only [execInputBufferComplete, hd, hc, hen, hroom, hr, hi, and_self, if_true]; rfl
  case ins => rfl

theorem exec_doorbellMessage_of_read {code : Nat} (arg : Nat) (hread : (s.core d c).dbUnread = false) (h1 : 1 ≤ code) (h4 : code ≤ 4) :
    ∃ t : State, exec (.doorbellMessage d c code arg) s = .next t ∧
      t.core d c = { s.core d c with dbmsg := code + arg % 2 ^ 48 * 2 ^ 16, dbUnread := true }.raiseIrq 3 := by
  refine ⟨?posted, ?exec, ?core⟩
  case exec =>
    change execDoorbellMessage d c code arg s = _
    rw [execDoorbellMessage, if_pos ⟨hd, hc, hen, hread, h1, h4⟩]; rfl
  case core =>
    split
    · exact (State.core_of_fcs (State.put_fcs _ _ _)).trans State.core_setCore_same
    · exact State.core_setCore_same

theorem exec_coreTimer_of_on (hon : (s.core d c).timerOn = true) : exec (.coreTimer d c) s =
    .next ((s.advance (nearLater 48 (grainOf s.now) (s.core d c).timer * tUs)).setCore d c
      ({ s.core d c with timerOn := false }.raiseIrq 4)) := by
  change execCoreTimer d c s = _
  rw [execCoreTimer, if_pos ⟨hd, hc, hen, hon⟩]; rfl

theorem exec_ckptSave_of_alone {us : Nat} (hreq : bit (s.core d c).pend 0 = true) (hh : (s.core d c).handler = none)
    (ht : (s.core d c).takePoint = true) (hl : (s.fc d).loans = []) (hhosts : (s.fc d).hosts = []) :
    exec (.ckptSave d c us) s = .next (s.saveCore d c us) := by
  have hfc := State.fc_of_fcs (d := d) (State.saveCore_fcs (s := s) (d := d) (c := c) (us := us))
  change execCkptSave d c us s = _
  rw [execCkptSave, if_pos ⟨hd, hc, hen, hreq, hh, ht⟩, State.takeBack_of_no_loans (by rw [hfc, State.fc_setSave_loans, State.fc_setCore_loans, hl]),
    State.hostStart_of_no_hosts (by rw [hfc, State.fc_setSave_hosts, State.fc_setCore_hosts, hhosts]), ok]

theorem exec_coreWatchdog_of_active (hst : (s.core d c).st ≠ 0) : exec (.coreWatchdog d c) s = .next (s.coreFault d c 5) := by
  change execCoreWatchdog d c s = _
  rw [execCoreWatchdog, if_pos ⟨hd, hc, hen, hst⟩, ok]

end

theorem exec_outputFrameFreed_of_read {s : State} {d c : Nat} {fr : OutFrame} {rest : List OutFrame} (houts : (s.core d c).outs = fr :: rest)
    (hread : fr.read = true) (hhosts : (s.fc d).hosts = []) :
    ∃ q : CoreSt, exec (.outputFrameFreed d c) s = .next (s.setCore d c (q.raiseIrq 2)) ∧ q.outs = rest ∧ q.st ≠ 3 := by
  have hback : ∀ q, (s.setCore d c q).hostBack d c = s.setCore d c q := fun q =>
    State.hostBack_of_no_hosts (State.fc_setCore_hosts.trans hhosts)
  refine ⟨?freed, ?exec, ?outs, ?state⟩
  case exec =>
    change execOutputFrameFreed d c s = _
    simp only [execOutputFrameFreed, houts, hread, true_or, if_true, hback]; rfl
  case outs => rfl
  case state =>
    dsimp only
    split
    · split <;> omega
    · assumption

/-- Settles O36. Each command is taken to the state it answers by the `exec_` lemmas; that catching up and the counters leave the
core is `State.core_caughtUp` and `State.pm_fcs`, and that giving up leaves the recorded cause is `State.cause_coreFault_watchdog`. -/
theorem coresServeTheirSources : Obligations.CoresServeTheirSources := by
  unfold Obligations.CoresServeTheirSources
  intro s d c hd hc
  refine ⟨fun hst => ⟨⟨_, exec_fcRetest_of_gaveUp hd hc hst true, ?pass, rfl, State.timer_setTimer_same _ _ _, rfl⟩,
    ⟨_, exec_fcRetest_of_gaveUp hd hc hst false, ?fail, rfl, rfl⟩⟩, fun hen => ?_⟩
  case pass => simp only [State.fc_set_same, Store.get_put_same, if_true]
  case fail => simp only [State.fc_set_same, Store.get_put_same, Bool.false_eq_true, if_false]
  intro q
  refine ⟨?interrupt, ?input, ?output, ?doorbell, ?timer, ?save, ?watchdog⟩
  case interrupt =>
    intro n hr hst hh ht hn
    refine ⟨_, exec_interruptTake_of_source hd hc hen hr hst hh ht hn, ?_⟩
    rw [State.core_of_fcs (State.pm_fcs _ _ _ _ _), State.core_setCore_same]
    exact ⟨rfl, rfl, bit_withBit_same _ _ _, rfl, rfl⟩
  case input =>
    intro r i hroom hr hi
    obtain ⟨q', hexec, hins⟩ := exec_inputBufferComplete_of_room hd hc hen hroom hr hi
    refine ⟨_, hexec, ?_⟩
    rw [State.core_caughtUp, State.core_setCore_same]
    exact ⟨hins, q'.bit_raiseIrq_pend 1⟩
  case output =>
    intro fr rest houts hread hhosts
    obtain ⟨q', hexec, hrest, hst⟩ := exec_outputFrameFreed_of_read houts hread hhosts
    refine ⟨_, hexec, ?_⟩
    rw [State.core_setCore_same]
    exact ⟨hrest, q'.bit_raiseIrq_pend 2, hst⟩
  case doorbell =>
    intro code arg hread h1 h4
    obtain ⟨t, hexec, hcore⟩ := exec_doorbellMessage_of_read hd hc hen arg hread h1 h4
    refine ⟨t, hexec, ?_⟩
    rw [hcore]
    exact ⟨rfl, rfl, CoreSt.bit_raiseIrq_pend _ 3⟩
  case timer =>
    intro hon
    refine ⟨_, exec_coreTimer_of_on hd hc hen hon, rfl, ?_⟩
    rw [State.core_setCore_same]
    exact ⟨rfl, CoreSt.bit_raiseIrq_pend _ 4⟩
  case save =>
    intro us hreq hh ht hl hhosts
    have hcore : (s.saveCore d c us).core d c = q.saved := by
      rw [State.core_of_fcs State.saveCore_fcs, State.core_setSave, State.core_setCore_same]
    refine ⟨_, exec_ckptSave_of_alone hd hc hen hreq hh ht hl hhosts, hcore, ?_⟩
    rw [hcore, State.saveOf_of_fcs State.saveCore_fcs, State.saveOf_setSave_same]
  case watchdog =>
    intro hst
    exact ⟨_, exec_coreWatchdog_of_active hd hc hen hst, State.en_coreFault_watchdog hc, State.cause_coreFault_watchdog hc⟩

end Sys2Proof.Machine

namespace Sys2Proof.Machine

open Reg

/-! ### Counting slots and bundles leaves the rest of the device (R583) -/

/-- The device beside its F-cores, its state map and the list of wrapped counters. -/
def State.besideCores (s : State) : State := { s with fcs := [], regs := [], wraps := [] }

theorem State.eq_of_besideCores {s t : State} (h : t.besideCores = s.besideCores) :
    t = { s with fcs := t.fcs, regs := t.regs, wraps := t.wraps } :=
  calc t = { t.besideCores with fcs := t.fcs, regs := t.regs, wraps := t.wraps } := rfl
    _ = { s with fcs := t.fcs, regs := t.regs, wraps := t.wraps } := by rw [h]; rfl

section
variable {s : State} {d c e x k n ev i : Nat} {q : CoreSt} {γ : Type} {π : State → γ}

theorem State.td_leaves (hput : ∀ s f v, π (s.put f v) = π s) (s : State) : π (s.td d c k n) = π s := by
  rw [State.td]
  split
  · exact hput _ _ _
  · rw [hput, hput]

theorem State.pm_leaves (hput : ∀ s f v, π (s.put f v) = π s) (hwraps : ∀ (s : State) w, π { s with wraps := w } = π s) (s : State) :
    π (s.pm d ev i n) = π s := by
  rw [State.pm]
  split
  · rfl
  · refine foldl_leaves π (fun s k _ => ?_) s
    rw [State.count]
    split
    · exact hput _ _ _
    · rw [State.raise, hput, State.putBit, hput, hput, hwraps, hput]

/-- A slot counter changes its own slot only. -/
theorem State.rd_td {a : Nat} (h : a ≠ TD d c k) : (s.td d c k n).rd a = s.rd a := by
  rw [State.td]
  split
  · exact State.rd_put_other h
  · exact (State.rd_put_other h).trans (State.rd_put_other h)

theorem State.core_setCore_other (h : (e, x) ≠ (d, c)) : (s.setCore d c q).core e x = s.core e x := by
  by_cases hd : e = d
  · subst hd
    rw [State.core, State.setCore, State.fc_set_same, Store.get_put_other _ _ _ fun hx => h (by rw [hx]), State.core]
  · rw [State.core, State.fc, State.setCore, State.setFc, Store.get_put_other _ _ _ hd, State.core, State.fc]

/-- A core set to `q`, and one of its slot counters raised. -/
theorem State.slotIssued_td (hk : k < 4) : s.SlotIssued ((s.setCore d c q).td d c k n) d c q := by
  have hcore : ∀ e x, ((s.setCore d c q).td d c k n).core e x = (s.setCore d c q).core e x := fun e x =>
    State.td_leaves (π := (·.core e x)) (fun _ _ _ => rfl) _
  have hwraps : ((s.setCore d c q).td d c k n).wraps = s.wraps := State.td_leaves (π := State.wraps) (fun _ _ _ => rfl) _
  refine ⟨?_, (hcore d c).trans State.core_setCore_same, fun e x h => (hcore e x).trans (State.core_setCore_other h),
    fun a ha => State.rd_td (ha k hk)⟩
  have hbeside := State.eq_of_besideCores (s := s) (State.td_leaves (d := d) (c := c) (k := k) (n := n) (π := State.besideCores)
    (fun _ _ _ => rfl) (s.setCore d c q))
  rwa [hwraps] at hbeside

end

/-! ### A hardware fault takes its core out of service (R152, R543) -/

section
variable {s : State} {d c n : Nat} (hc : c < 18) (hn : n = 4 ∨ n = 5 ∨ n = 6)
include hc hn

/-- A hardware fault is recorded before the core gives up its work. -/
theorem State.cause_coreFault_hardware : (s.coreFault d c n).get (CORE_FAULT_CAUSE d c) = n := by
  rw [State.coreFault]
  dsimp only
  rw [if_pos (by simpa [or_assoc] using hn), State.cause_coreGivesUp hc, (State.KeepsCores.refl _).emitC.cause hc,
    State.raise, State.get_put_other _ _ (f := FC_EVENTS_FAULT d) CORE_FAULT_ne_FC_EVENTS,
    State.get_put_apart (RF.apart (f := CORE_FAULT_FOLIO d c) (g := CORE_FAULT_CAUSE d c) rfl rfl (by omega)),
    State.get_put_apart (RF.apart (f := CORE_FAULT_PC d c) (g := CORE_FAULT_CAUSE d c) rfl rfl (by omega))]
  have hlt : n < 2 ^ 4 := by omega
  exact (State.get_put_fits (f := CORE_FAULT_CAUSE d c) (RF.fits rfl (by omega))).trans (Nat.mod_eq_of_lt hlt)

theorem State.en_coreFault_hardware : (s.coreFault d c n).get (CORE_CFG_EN d c) = 0 := by
  rw [State.coreFault]
  dsimp only
  rw [if_pos (by simpa [or_assoc] using hn), State.en_coreGivesUp hc]

end

theorem State.lt_of_coreRuns {s : State} {d c : Nat} (h : s.coreRuns d c = true) : c < 18 := by
  simp only [State.coreRuns, Bool.and_eq_true, decide_eq_true_eq] at h
  obtain ⟨⟨⟨⟨-, hc⟩, -⟩, -⟩, -⟩ := h
  exact hc

/-! ### Where a slot's command issues (R177, R182) -/

section
variable {s : State} {d c : Nat} {f : State → State}

theorem State.withFetch_clean : s.withFetch d c 0 f = f s := by
  rw [State.withFetch, if_pos (Or.inl rfl)]

theorem State.withEcc_clean {op : Nat} : s.withEcc d c 0 op f = f s := by
  rw [State.withEcc, if_pos (Or.inl rfl)]

/-- A legal slot whose turn it is issues, as the command that it spells. -/
theorem State.issue_of_turn {slot : Nat} {f : CoreSt → State} (hruns : s.coreRuns d c = true) (hdue : (s.core d c).iterDue = false)
    (hphase : (s.core d c).phase = slot) (hstall : slot = 0 → s.stallOf d c (s.core d c) = 0) :
    s.issue d c slot false true f = f (s.core d c) := by
  rw [State.issue, if_neg (by simp [hruns, hdue]), if_neg fun h => h.2 (hstall (hphase ▸ h.1)), if_neg (not_not_intro hphase),
    if_neg (by decide), if_neg (by decide)]

end

end Sys2Proof.Machine

namespace Sys2Proof.Machine

open Reg

/-! ### C18 words and their guards (R42, R163, R183) -/

theorem narrow18_bounds (x : Int) : -(2 ^ 17) ≤ narrow18 x ∧ narrow18 x ≤ 2 ^ 17 - 1 := by
  rw [narrow18, clampInt]
  split
  · omega
  · split <;> omega

theorem narrow18_of_bounds {x : Int} (h : -(2 ^ 17) ≤ x ∧ x ≤ 2 ^ 17 - 1) : narrow18 x = x := by
  rw [narrow18, clampInt, if_neg (by omega), if_neg (by omega)]

@[simp] theorem narrowC_narrowC (z : Int × Int) : narrowC (narrowC z) = narrowC z :=
  Prod.ext (narrow18_of_bounds (narrow18_bounds _)) (narrow18_of_bounds (narrow18_bounds _))

theorem signed_unsigned {x : Int} (h : narrow18 x = x) : signed 18 (unsigned 18 x) = x := by
  have hx := narrow18_bounds x
  rw [h] at hx
  rw [signed, unsigned]
  split <;> omega

theorem unsigned_lt (x : Int) : unsigned 18 x < 2 ^ 18 := by
  rw [unsigned]; omega

/-- The four parts of a C18 word, as their fields. -/
theorem bits_c18 (a b : Int × Int) : (c18 a b).bits 0 18 = unsigned 18 a.1 ∧ (c18 a b).bits 18 18 = unsigned 18 a.2 ∧
    (c18 a b).bits 36 18 = unsigned 18 b.1 ∧ (c18 a b).bits 54 18 = unsigned 18 b.2 := by
  have h1 := unsigned_lt a.1
  have h2 := unsigned_lt a.2
  have h3 := unsigned_lt b.1
  have h4 := unsigned_lt b.2
  simp only [Word.bits, bitsOf, c18, BitVec.toNat_ofNat]
  omega

/-- A lane of parts that need no narrowing reads back. -/
theorem laneOf_c18 {a b : Int × Int} (ha : narrowC a = a) (hb : narrowC b = b) : laneOf (c18 a b) 0 = a ∧ laneOf (c18 a b) 1 = b := by
  obtain ⟨h0, h1, h2, h3⟩ := bits_c18 a b
  refine ⟨Prod.ext ?_ ?_, Prod.ext ?_ ?_⟩
  · exact (congrArg (signed 18) h0).trans (signed_unsigned (congrArg Prod.fst ha))
  · exact (congrArg (signed 18) h1).trans (signed_unsigned (congrArg Prod.snd ha))
  · exact (congrArg (signed 18) h2).trans (signed_unsigned (congrArg Prod.fst hb))
  · exact (congrArg (signed 18) h3).trans (signed_unsigned (congrArg Prod.snd hb))

/-- The guards of the C18 words that a list of results writes, each with the position of its result. -/
def guardsPosted (ws : List PWrite) : List (Nat × Nat) :=
  ws.flatMap fun w => match w.w with
    | .vec _ _ x => [laneOf x 0, laneOf x 1].flatMap fun z => [(w.due, guard18 z.1), (w.due, guard18 z.2)]
    | _ => []

theorem guardsPosted_cons_vec {a b : Int × Int} (ha : narrowC a = a) (hb : narrowC b = b) (due p mask : Nat) (ws : List PWrite) :
    guardsPosted (⟨due, .vec p mask (c18 a b)⟩ :: ws) =
      [guard18 a.1, guard18 a.2, guard18 b.1, guard18 b.2].map (Prod.mk due) ++ guardsPosted ws := by
  obtain ⟨h0, h1⟩ := laneOf_c18 ha hb
  rw [guardsPosted, List.flatMap_cons]
  dsimp only
  rw [h0, h1]
  rfl

/-- The guards that a full lane guard lets through are those of the words written. -/
theorem guardsPosted_vecs (q : CoreSt) (st mask due : Nat) : ∀ (r : Nat) (zs : List (Int × Int)), (∀ z ∈ zs, narrowC z = z) →
    guardsPosted ((q.vecs r st mask zs).map (PWrite.mk due)) = (guardsOf 3 zs).map (Prod.mk due)
  | r, a :: b :: zs, h => by
    have ih := guardsPosted_vecs q st mask due (r + st) zs fun z hz => h z (by simp [hz])
    rw [CoreSt.vecs, List.map_cons, guardsPosted_cons_vec (h a (by simp)) (h b (by simp)), ih]
    rfl
  | _, [_], _ => rfl
  | _, [], _ => rfl

/-! ### Results and the guards of tracked parts (R155, R163, R181) -/

/-- `q'` is `q` with the results `ws` posted, and with the guards of `tr` where the operation is tracked under the full guard `g`. -/
structure CoreSt.Posts (q q' : CoreSt) (track : Bool) (g : Nat) (ws tr : List PWrite) : Prop where
  core : q' = { q with writes := q.writes ++ ws, tracks := q'.tracks }
  untracked : track = false → q'.tracks = q.tracks
  tracked : track = true → g = 3 → q'.tracks = q.tracks ++ guardsPosted tr

/-- Samples written from Vr on with a latency, under a lane guard, tracked or not: what `mWrite` and `aWrite` share. -/
def CoreSt.writeTracked (q : CoreSt) (track : Bool) (g lat r st : Nat) (zs : List (Int × Int)) : CoreSt :=
  if track then (q.post lat (q.vecs r st g zs)).postTrack lat (guardsOf g zs) else q.post lat (q.vecs r st g zs)

section
variable {q q' : CoreSt} {track : Bool} {g lat r st : Nat} {zs : List (Int × Int)} {ws tr : List PWrite}

theorem CoreSt.mWrite_eq (f : MF) : q.mWrite f lat r zs = q.writeTracked f.t (q.pget f.pg) lat r 1 zs := rfl

theorem CoreSt.aWrite_eq (f : AF) : q.aWrite f lat r st zs = q.writeTracked f.trk (q.pget f.pg) lat r st zs := rfl

theorem CoreSt.posts_writeTracked (hz : ∀ z ∈ zs, narrowC z = z) (hws : (q.vecs r st g zs).map (PWrite.mk (q.pos + lat)) = ws) :
    q.Posts (q.writeTracked track g lat r st zs) track g ws ws := by
  subst hws
  cases track with
  | false => exact ⟨rfl, fun _ => rfl, nofun⟩
  | true =>
    refine ⟨rfl, nofun, fun _ hg => ?_⟩
    rw [hg, guardsPosted_vecs q st 3 _ r zs hz]
    rfl

/-- Untracked results posted after tracked ones. -/
theorem CoreSt.Posts.post (h : q.Posts q' track g ws tr) (ws' : List CoreWr) :
    q.Posts (q'.post lat ws') track g (ws ++ ws'.map (PWrite.mk (q.pos + lat))) tr := by
  obtain ⟨hcore, huntracked, htracked⟩ := h
  refine ⟨?_, huntracked, htracked⟩
  rw [hcore]
  simp only [CoreSt.post, List.append_assoc]

@[simp] theorem CoreSt.post_nil : q.post lat [] = q := by
  rw [CoreSt.post, List.map_nil, List.append_nil]

/-- A result under a scalar guard. -/
theorem CoreSt.ite_post (b : Bool) (w : CoreWr) : (if b then q.post lat [w] else q) =
    { q with writes := q.writes ++ if b then [⟨q.pos + lat, w⟩] else [] } := by
  cases b with
  | false => simp
  | true => rfl

end

end Sys2Proof.Machine

namespace Sys2Proof.Machine

open Reg

/-! ### The M slot (R178, R186) -/

section
variable {q : CoreSt} {f : MF} {op sub w : Nat}

theorem mIs_of_op (h : (mFields w).op = op) (hop : op ≠ 7) : mIs op 0 w = true := by
  simp [mIs, h, hop]

theorem mIs_of_macc (h : (mFields w).op = 7) (hsub : (mFields w).d / 8 = sub) : mIs 7 sub w = true := by
  simp [mIs, h, hsub]

/-- An exact zero added. -/
@[simp] theorem cAdd_zero_left (z : Int × Int) : cAdd (0, 0) z = z := Prod.ext (Int.zero_add _) (Int.zero_add _)

/-- The multiplies post the products of the two pairs, sample by sample. -/
theorem CoreSt.posts_mulOp (tr : Int × Int → Int × Int) (n : Nat) {ws : List PWrite}
    (hws : [0, 1].map (fun i => PWrite.mk (q.pos + 3) (.vec (q.phys (f.d + i)) (q.pget f.pg)
      (c18 (narrowC (cShr n (cMul (laneOf (q.vget (f.s + i)) 0) (tr (laneOf (q.vget (f.tt + i)) 0)))))
        (narrowC (cShr n (cMul (laneOf (q.vget (f.s + i)) 1) (tr (laneOf (q.vget (f.tt + i)) 1)))))))) = ws) :
    q.Posts (q.mulOp f tr n) f.t (q.pget f.pg) ws ws := by
  rw [CoreSt.mulOp, CoreSt.mWrite_eq]
  refine CoreSt.posts_writeTracked ?narrowed (hws ▸ rfl)
  simp only [List.forall_mem_map, narrowC_narrowC, implies_true]

/-- The sum of a multiply-accumulate, product by product. -/
theorem CoreSt.macSum_eq (tr : Int × Int → Int × Int) : q.macSum f tr =
    cAdd (cAdd (cAdd (cMul (laneOf (q.vget f.s) 0) (tr (laneOf (q.vget f.tt) 0))) (cMul (laneOf (q.vget f.s) 1) (tr (laneOf (q.vget f.tt) 1))))
      (cMul (laneOf (q.vget (f.s + 1)) 0) (tr (laneOf (q.vget (f.tt + 1)) 0)))) (cMul (laneOf (q.vget (f.s + 1)) 1) (tr (laneOf (q.vget (f.tt + 1)) 1))) := by
  rw [← cAdd_zero_left (cMul (laneOf (q.vget f.s) 0) _)]
  rfl

end

section
variable {s : State} {d c op sub : Nat} {i : Instr} {f : CoreSt → MF → CoreSt}
  (hruns : s.coreRuns d c = true) (hdue : (s.core d c).iterDue = false) (hphase : (s.core d c).phase = 0)
  (hstall : s.stallOf d c (s.core d c) = 0)
include hruns hdue hphase hstall

/-- An M slot that spells its command issues: the core has the command's results, and the A slot is next. -/
theorem exec_mSlot {q : CoreSt} (hlegal : mIllegal (s.core d c).mSlot = false) (hi : exec i s = ok (s.mOp d c 0 op sub f))
    (hop : mIs op sub (s.core d c).mSlot = true) (hq : { f (s.core d c) (mFields (s.core d c).mSlot) with phase := 1 } = q) :
    ∃ t : State, exec i s = .next t ∧ s.SlotIssued t d c q := by
  subst hq
  refine ⟨_, hi, ?_⟩
  rw [State.mOp, State.withFetch_clean]
  dsimp only
  rw [hlegal, hop, State.issue_of_turn hruns hdue hphase fun _ => hstall]
  exact State.slotIssued_td (by cases op == 0 <;> decide)

/-- The same with the results, and the guards of the tracked ones, named. -/
theorem exec_mSlot_of_posts {track : Bool} {g : Nat} {ws tr : List PWrite} (hlegal : mIllegal (s.core d c).mSlot = false)
    (hi : exec i s = ok (s.mOp d c 0 op sub f)) (hop : mIs op sub (s.core d c).mSlot = true)
    (hposts : (s.core d c).Posts (f (s.core d c) (mFields (s.core d c).mSlot)) track g ws tr) :
    ∃ t : State, exec i s = .next t ∧
      s.SlotIssued t d c { s.core d c with phase := 1, writes := (s.core d c).writes ++ ws, tracks := (t.core d c).tracks } ∧
      (track = false → (t.core d c).tracks = (s.core d c).tracks) ∧
      (track = true → g = 3 → (t.core d c).tracks = (s.core d c).tracks ++ guardsPosted tr) := by
  obtain ⟨t, hexec, hissued⟩ := exec_mSlot hruns hdue hphase hstall hlegal hi hop rfl
  obtain ⟨hcore, huntracked, htracked⟩ := hposts
  have ht : (t.core d c).tracks = (f (s.core d c) (mFields (s.core d c).mSlot)).tracks := by rw [hissued.2.1]
  refine ⟨t, hexec, ?_, fun h => ht.trans (huntracked h), fun h hg => ht.trans (htracked h hg)⟩
  rw [hcore] at hissued
  rwa [ht]

/-- The same with one result under a scalar guard. -/
theorem exec_mSlot_guarded {g : Bool} {lat : Nat} {w : CoreWr} (hlegal : mIllegal (s.core d c).mSlot = false)
    (hi : exec i s = ok (s.mOp d c 0 op sub f)) (hop : mIs op sub (s.core d c).mSlot = true)
    (hf : f (s.core d c) (mFields (s.core d c).mSlot) = if g then (s.core d c).post lat [w] else s.core d c) :
    ∃ t : State, exec i s = .next t ∧ s.SlotIssued t d c { s.core d c with
      phase := 1, writes := (s.core d c).writes ++ if g then [⟨(s.core d c).pos + lat, w⟩] else [] } :=
  exec_mSlot hruns hdue hphase hstall hlegal hi hop (by rw [hf, CoreSt.ite_post])

/-- A memory error of the bundle's fetch: a corrected one is counted before the same effect, an uncorrectable one is a hardware
fault (R152). -/
theorem exec_mSlot_ecc {i : Nat → Instr} (hi : ∀ e s, exec (i e) s = ok (s.mOp d c e op sub f)) (hcached : (s.core d c).cached = none) :
    exec (i 1) s = exec (i 0) (s.corrected d c) ∧
      ∃ t : State, exec (i 2) s = .next t ∧ t.get (CORE_FAULT_CAUSE d c) = 4 ∧ t.get (CORE_CFG_EN d c) = 0 := by
  have hfetch : ∀ e g, e ≠ 0 → s.withFetch d c e g = if e = 1 then g (s.corrected d c) else s.coreFault d c 4 := fun e g he => by
    rw [State.withFetch, if_neg (by simp [he, hruns, hphase, hdue, hstall, hcached])]
  have hc := State.lt_of_coreRuns hruns
  refine ⟨?corrected, s.coreFault d c 4, ?fault, State.cause_coreFault_hardware hc (.inl rfl), State.en_coreFault_hardware hc (.inl rfl)⟩
  case corrected => rw [hi, hi, State.mOp, State.mOp, hfetch 1 _ (by decide), if_pos rfl, State.withFetch_clean]
  case fault => rw [hi, State.mOp, hfetch 2 _ (by decide), if_neg (by decide), ok]

end

/-- Settles O32. Each operation is its `State.mOp`; what it posts is read off from `CoreSt.Posts` where the results are samples
under a lane guard, and from `CoreSt.ite_post` where a scalar guard decides. -/
theorem multiplySlotResults : Obligations.MultiplySlotResults := by
  unfold Obligations.MultiplySlotResults
  intro s d c hruns hdue hphase hstall hlegal q f v h out guards issued prods taps sum g
  have hsum : ∀ tr, sum tr = q.macSum f tr := fun tr => (CoreSt.macSum_eq tr).symm
  refine ⟨?mnop, ?cmul, ?cmulj, ?cmulw, ?rmul, ?ftap, ?crot, ?cmac, ?cmacj, ?accrd, ?accclr, ?ecc⟩
  case mnop => exact fun hop => exec_mSlot hruns hdue hphase hstall hlegal rfl (mIs_of_op hop (by decide)) rfl
  case cmul =>
    exact fun hop => exec_mSlot_of_posts hruns hdue hphase hstall hlegal rfl (mIs_of_op hop (by decide)) (CoreSt.posts_mulOp id 17 rfl)
  case cmulj =>
    exact fun hop => exec_mSlot_of_posts hruns hdue hphase hstall hlegal rfl (mIs_of_op hop (by decide)) (CoreSt.posts_mulOp cConj 17 rfl)
  case cmulw =>
    exact fun hop => exec_mSlot_of_posts hruns hdue hphase hstall hlegal rfl (mIs_of_op hop (by decide)) (CoreSt.posts_mulOp id 16 rfl)
  case rmul =>
    refine fun hop => exec_mSlot_of_posts hruns hdue hphase hstall hlegal rfl (mIs_of_op hop (by decide))
      (CoreSt.posts_writeTracked ?_ ?_)
    · simp only [List.forall_mem_map, narrowC_narrowC, implies_true]
    · simp only [taps, cAdd_zero_left]
      rfl
  case ftap =>
    refine fun hop => exec_mSlot_of_posts hruns hdue hphase hstall hlegal rfl (mIs_of_op hop (by decide))
      (CoreSt.posts_writeTracked ?_ rfl)
    simp only [List.forall_mem_map, narrowC_narrowC, implies_true]
  case crot =>
    exact fun hop => exec_mSlot_of_posts hruns hdue hphase hstall hlegal rfl (mIs_of_op hop (by decide))
      ((CoreSt.posts_mulOp id 17 rfl).post _)
  case cmac =>
    rw [hsum]
    exact fun hop hsub => exec_mSlot_guarded hruns hdue hphase hstall hlegal rfl (mIs_of_macc hop hsub) rfl
  case cmacj =>
    rw [hsum]
    exact fun hop hsub => exec_mSlot_guarded hruns hdue hphase hstall hlegal rfl (mIs_of_macc hop hsub) rfl
  case accrd => exact fun hop hsub => exec_mSlot_guarded hruns hdue hphase hstall hlegal rfl (mIs_of_macc hop hsub) rfl
  case accclr => exact fun hop hsub => exec_mSlot_guarded hruns hdue hphase hstall hlegal rfl (mIs_of_macc hop hsub) rfl
  case ecc =>
    intro i hi hcached
    have hexec : ∃ op sub f, ∀ e s, exec (i e) s = ok (s.mOp d c e op sub f) := by
      simp only [List.mem_cons, List.not_mem_nil, or_false] at hi
      rcases hi with rfl | rfl | rfl | rfl | rfl | rfl | rfl | rfl | rfl | rfl | rfl <;> exact ⟨_, _, _, fun _ _ => rfl⟩
    obtain ⟨op, sub, f, hexec⟩ := hexec
    exact exec_mSlot_ecc hruns hdue hphase hstall hexec hcached

end Sys2Proof.Machine

namespace Sys2Proof.Machine

open Reg

/-! ### The A slot (R178, R187) -/

section
variable {s : State} {d c : Nat} {i : Instr} {want : Nat → Bool} {f : CoreSt → AF → CoreSt}
  (hruns : s.coreRuns d c = true) (hdue : (s.core d c).iterDue = false) (hphase : (s.core d c).phase = 1)
  (hloop : (s.core d c).isLoop = false) (hlegal : aIllegal (s.core d c).aSlot = false)
include hruns hdue hphase hloop hlegal

/-- An A slot that spells its command issues: the core has the command's results, and the C slot is next. -/
theorem exec_aSlot {q : CoreSt} (hi : exec i s = ok (s.aOp d c want f)) (hop : want (s.core d c).aSlot = true)
    (hq : { f (s.core d c) (aFields (s.core d c).aSlot) with phase := 2 } = q) :
    ∃ t : State, exec i s = .next t ∧ s.SlotIssued t d c q := by
  subst hq
  refine ⟨_, hi, ?_⟩
  rw [State.aOp]
  dsimp only
  rw [hloop, hlegal, hop, Bool.not_false, Bool.true_and, Bool.true_and, State.issue_of_turn hruns hdue hphase nofun]
  exact State.slotIssued_td (by cases (aFields (s.core d c).aSlot).op == 0 <;> decide)

/-- The same with the results, and the guards of the tracked ones, named. -/
theorem exec_aSlot_of_posts {track : Bool} {g : Nat} {ws tr : List PWrite} (hi : exec i s = ok (s.aOp d c want f))
    (hop : want (s.core d c).aSlot = true)
    (hposts : (s.core d c).Posts (f (s.core d c) (aFields (s.core d c).aSlot)) track g ws tr) :
    ∃ t : State, exec i s = .next t ∧
      s.SlotIssued t d c { s.core d c with phase := 2, writes := (s.core d c).writes ++ ws, tracks := (t.core d c).tracks } ∧
      (track = false → (t.core d c).tracks = (s.core d c).tracks) ∧
      (track = true → g = 3 → (t.core d c).tracks = (s.core d c).tracks ++ guardsPosted tr) := by
  obtain ⟨t, hexec, hissued⟩ := exec_aSlot hruns hdue hphase hloop hlegal hi hop rfl
  obtain ⟨hcore, huntracked, htracked⟩ := hposts
  have ht : (t.core d c).tracks = (f (s.core d c) (aFields (s.core d c).aSlot)).tracks := by rw [hissued.2.1]
  refine ⟨t, hexec, ?_, fun h => ht.trans (huntracked h), fun h hg => ht.trans (htracked h hg)⟩
  rw [hcore] at hissued
  rwa [ht]

/-- The same with one result under a scalar guard. -/
theorem exec_aSlot_guarded {g : Bool} {lat : Nat} {w : CoreWr} (hi : exec i s = ok (s.aOp d c want f))
    (hop : want (s.core d c).aSlot = true)
    (hf : f (s.core d c) (aFields (s.core d c).aSlot) = if g then (s.core d c).post lat [w] else s.core d c) :
    ∃ t : State, exec i s = .next t ∧ s.SlotIssued t d c { s.core d c with
      phase := 2, writes := (s.core d c).writes ++ if g then [⟨(s.core d c).pos + lat, w⟩] else [] } :=
  exec_aSlot hruns hdue hphase hloop hlegal hi hop (by rw [hf, CoreSt.ite_post])

/-- The same with results of one latency, none of them tracked. -/
theorem exec_aSlot_of_post {lat : Nat} {ws : List CoreWr} {ps : List PWrite} (hi : exec i s = ok (s.aOp d c want f))
    (hop : want (s.core d c).aSlot = true)
    (hf : f (s.core d c) (aFields (s.core d c).aSlot) = (s.core d c).post lat ws)
    (hps : ws.map (PWrite.mk ((s.core d c).pos + lat)) = ps) :
    ∃ t : State, exec i s = .next t ∧
      s.SlotIssued t d c { s.core d c with phase := 2, writes := (s.core d c).writes ++ ps } :=
  exec_aSlot hruns hdue hphase hloop hlegal hi hop (by rw [hf, ← hps]; rfl)

end

section
variable {w n : Nat}

theorem aIs_of_op (h : (aFields w).op = n) : aIs n w = true := by rw [aIs, h, beq_self_eq_true]

theorem and_beq_of_op {m : Nat} (h : (aFields w).op = n) (hx : (aFields w).x = m) : (aIs n w && (aFields w).x == m) = true := by
  rw [aIs_of_op h, hx, beq_self_eq_true, Bool.and_self]

theorem aFields_x_lt : (aFields w).x < 16 := bitsOf_lt w 0 4

/-- LOGIC has five operations (R182). -/
theorem aFields_x_of_logic (hlegal : aIllegal w = false) (hop : (aFields w).op = 5) : (aFields w).x ≤ 4 := by
  simpa [aIllegal, hop] using hlegal

theorem bit_zero_of_mod {x r : Nat} (h : x % 2 = r) : bit x 0 = (r == 1) := by simp [bit, h]

theorem cSub_neg (a b : Int × Int) : cSub a (cSub (0, 0) b) = cAdd a b := Prod.ext (by simp [cSub, cAdd]) (by simp [cSub, cAdd])

theorem cAdd_neg (a b : Int × Int) : cAdd a (cSub (0, 0) b) = cSub a b :=
  Prod.ext (by simp [cSub, cAdd, Int.sub_eq_add_neg]) (by simp [cSub, cAdd, Int.sub_eq_add_neg])

/-- +j and -j exchanged: the outputs of the inverse butterfly are those of the other one, in the opposite order. -/
theorem bf4Out_inv (a b e g : Int × Int) {r : Nat} (hr : r < 4) : bf4Out true a b e g r = bf4Out false a b e g ((4 - r) % 4) := by
  interval_cases r
  · rfl
  · simp only [bf4Out, if_true, cSub_neg, cAdd_neg]; rfl
  · rfl
  · simp only [bf4Out, if_true, cSub_neg, cAdd_neg]; rfl

/-- The result of LOGIC on two registers. -/
def logicWord (x : Nat) (a b : Word) : Word :=
  match x with
  | 0 => a &&& b
  | 1 => a ||| b
  | 2 => a ^^^ b
  | 3 => a &&& ~~~b
  | _ => ~~~b

theorem logicWord_eq {x : Nat} (hx : x ≤ 4) (a b : Word) : logicWord x a b = [a &&& b, a ||| b, a ^^^ b, a &&& ~~~b, ~~~b].getD x 0 := by
  interval_cases x <;> rfl

/-- SHL's distance by its field. -/
theorem CoreSt.shlBy_eq (q : CoreSt) {x : Nat} (hx : x < 16) : q.shlBy x = if x = 15 then min (max q.bex 0).toNat 17 else x := by
  rw [CoreSt.shlBy]
  split <;> split <;> omega

end

theorem narrowC_of_mem_flatMap (l : List Nat) (z : Nat → Nat → Int × Int) :
    ∀ y ∈ l.flatMap fun r => [0, 1].map fun k => narrowC (z r k), narrowC y = y := by
  simp only [List.forall_mem_flatMap, List.forall_mem_map, narrowC_narrowC, implies_true]

/-- Settles O33. Each operation is its `State.aOp`; the tracked ones are read off from `CoreSt.Posts`. -/
theorem arithmeticSlotResults : Obligations.ArithmeticSlotResults := by
  unfold Obligations.ArithmeticSlotResults
  intro s d c hruns hdue hphase hloop hlegal q f v x out guards issued tracked g
  refine ⟨?anop, ?add, ?bf2, ?bf4, ?bf4inv, ?mov, ?logic, ?shl, ?rq4, ?rq8, ?pred, ?bexp, ?bclr⟩
  case anop => exact fun hop => exec_aSlot_of_post hruns hdue hphase hloop hlegal rfl (aIs_of_op hop) (CoreSt.post_nil (lat := 1)).symm rfl
  case add =>
    refine fun hop => exec_aSlot_of_posts hruns hdue hphase hloop hlegal rfl (aIs_of_op hop) (CoreSt.posts_writeTracked ?_ rfl)
    simp only [List.forall_mem_map, narrowC_narrowC, implies_true]
  case bf2 =>
    refine fun hop => exec_aSlot_of_posts hruns hdue hphase hloop hlegal rfl (aIs_of_op hop) (CoreSt.posts_writeTracked ?_ rfl)
    simp only [List.forall_mem_append, List.forall_mem_map, narrowC_narrowC, implies_true, and_self]
  case mov =>
    exact fun hop => exec_aSlot_of_post hruns hdue hphase hloop hlegal rfl (aIs_of_op hop) rfl List.map_map
  case logic =>
    refine fun hop => exec_aSlot_of_post hruns hdue hphase hloop hlegal rfl (aIs_of_op hop)
      (ws := [.vec (q.phys f.d) (q.pget f.pg) (logicWord f.x (q.vget f.d) (q.vget f.s))]) rfl ?_
    rw [logicWord_eq (aFields_x_of_logic hlegal hop)]
    rfl
  case bf4 =>
    refine fun hop hx => exec_aSlot_of_posts hruns hdue hphase hloop hlegal rfl (aIs_of_op hop)
      (CoreSt.posts_writeTracked (narrowC_of_mem_flatMap _ _) ?_)
    have hfwd : bit (aFields (s.core d c).aSlot).x 0 = false := bit_zero_of_mod hx
    rw [hfwd]
    rfl
  case bf4inv =>
    refine fun hop hx => exec_aSlot_of_posts hruns hdue hphase hloop hlegal rfl (aIs_of_op hop)
      (CoreSt.posts_writeTracked (narrowC_of_mem_flatMap _ _) ?_)
    have hinv : bit (aFields (s.core d c).aSlot).x 0 = true := bit_zero_of_mod hx
    rw [hinv, List.flatMap_congr fun r hr => List.map_congr_left fun k _ =>
      congrArg narrowC (bf4Out_inv _ _ _ _ (List.mem_range.mp hr))]
    rfl
  case shl =>
    refine fun hop => exec_aSlot_of_post hruns hdue hphase hloop hlegal rfl (aIs_of_op hop) rfl ?_
    rw [CoreSt.shlBy_eq q aFields_x_lt]
    rfl
  case rq4 => exact fun hop => exec_aSlot_of_post hruns hdue hphase hloop hlegal rfl (aIs_of_op hop) rfl rfl
  case rq8 => exact fun hop => exec_aSlot_of_post hruns hdue hphase hloop hlegal rfl (aIs_of_op hop) rfl rfl
  case pred => exact fun hop => exec_aSlot_guarded hruns hdue hphase hloop hlegal rfl (aIs_of_op hop) rfl
  case bexp =>
    exact fun hop hx hg => exec_aSlot_of_post hruns hdue hphase hloop hlegal rfl (and_beq_of_op hop hx) (if_pos hg) rfl
  case bclr =>
    exact fun hop hx hg => exec_aSlot_of_post hruns hdue hphase hloop hlegal rfl (and_beq_of_op hop hx) (if_pos hg) rfl

end Sys2Proof.Machine

namespace Sys2Proof.Machine

open Reg

/-! ### What the end of a bundle leaves of its core (R155, R166, R192) -/

/-- Whether the core gives up its work, and its output ring: what the end of a bundle never changes. -/
def CoreSt.held (q : CoreSt) : Bool × List OutFrame × Nat := (q.giveDue, q.outs, q.outCur)

section
variable {q : CoreSt} {e : BundleEnd} {b : BrWait}

theorem CoreSt.held_set_v (x : Store Word) : ({ q with v := x } : CoreSt).held = q.held := rfl

theorem CoreSt.held_apply (w : CoreWr) : (q.apply w).held = q.held := by
  cases w with
  | vec p mask x => rw [CoreSt.apply]; exact CoreSt.held_set_v _
  | pred n mask x => rw [CoreSt.apply]; split <;> rfl
  | mem y n x => rw [CoreSt.apply]; split <;> rfl
  | _ => rfl

theorem CoreSt.held_settle (p : Nat) : (q.settle p).held = q.held := by
  rw [CoreSt.settle, foldl_leaves CoreSt.held fun q w _ => q.held_apply w.w, foldl_leaves CoreSt.held fun q w _ => q.held_apply w.w]
  rfl

theorem CoreSt.held_fillRc : q.fillRc.held = q.held := by
  rw [CoreSt.fillRc]; split <;> rfl

theorem CoreSt.held_land : (q.land b).held = q.held := by
  rw [CoreSt.land]
  split
  · rw [CoreSt.rtiLand]; split <;> rfl
  · rfl

theorem CoreSt.held_endBundle : (q.endBundle e).held = q.held := by
  unfold CoreSt.endBundle
  extract_lets c0 c1 c2
  have h0 : c0.held = q.held := (CoreSt.held_settle _).trans CoreSt.held_fillRc
  have h2 : c2.held = q.held := by
    simp only [c2]
    split <;> exact h0
  split
  · exact CoreSt.held_land.trans h2
  · split
    · split <;> exact h2
    · exact h2

theorem CoreSt.giveDue_endBundle : (q.endBundle e).giveDue = q.giveDue := congrArg Prod.fst CoreSt.held_endBundle

theorem CoreSt.outs_endBundle : (q.endBundle e).outs = q.outs := congrArg (·.2.1) CoreSt.held_endBundle

theorem CoreSt.outCur_endBundle : (q.endBundle e).outCur = q.outCur := congrArg (·.2.2) CoreSt.held_endBundle

/-- Outside loops and the end of the delay slots the program goes on at the next bundle. -/
theorem CoreSt.pc_endBundle_of_next (hdelay : q.delay ≠ 1) (hloops : q.loops = []) : (q.endBundle .plain).pc = (q.pc + 1) % 8192 := by
  rw [CoreSt.endBundle, if_neg hdelay, hloops]
  rfl

/-- At the end of the second delay slot of a branch the program goes on at its target. -/
theorem CoreSt.pc_endBundle_of_branch (hdelay : q.delay = 1) (hbr : q.br = some b) (hkind : b.kind ≠ 2) :
    (q.endBundle e).pc = b.target % 8192 := by
  rw [CoreSt.endBundle, if_pos hdelay, hbr]
  dsimp only
  rw [CoreSt.land, if_neg hkind]

end

/-! ### The end of a bundle in its device (R155, R583) -/

section
variable {s : State} {d c : Nat} {q q0 : CoreSt} {e : BundleEnd} {w : CF} {γ : Type} {π : State → γ}

theorem State.keepCore_of_not_due (h : q.giveDue = false) :
    s.keepCore d c q = when (q.sata && !(s.core d c).sata) (·.raise (FC_EVENTS_SATA d)) (s.setCore d c q) := by
  rw [State.keepCore]
  exact if_neg (by simp [h])

/-- A core kept changes nothing but itself and, in the state map, the report of SATA. -/
theorem State.keepCore_leaves (hput : ∀ s f v, π (s.put f v) = π s) (h : q.giveDue = false) :
    π (s.keepCore d c q) = π (s.setCore d c q) := by
  rw [State.keepCore_of_not_due h, when]
  split
  · exact hput _ _ _
  · rfl

/-- A bundle that ends without a fault changes its core, counters of slots and events, and the report of SATA. -/
theorem State.take_leaves (hput : ∀ s f v, π (s.put f v) = π s) (hwraps : ∀ (s : State) w, π { s with wraps := w } = π s)
    (h : q.giveDue = false) :
    π ((s.take d c (.done q e)).countC d c q0 w (.done q e)) = π (s.setCore d c (q.endBundle e)) := by
  rw [State.countC, State.pm_leaves hput hwraps, State.td_leaves hput, State.take]
  exact State.keepCore_leaves hput (CoreSt.giveDue_endBundle.trans h)

theorem State.bundleEnded_take (h : q.giveDue = false) :
    s.BundleEnded ((s.take d c (.done q e)).countC d c q0 w (.done q e)) d c q e := by
  have hcore : ∀ x y, ((s.take d c (.done q e)).countC d c q0 w (.done q e)).core x y = (s.setCore d c (q.endBundle e)).core x y :=
    fun x y => State.take_leaves (π := (·.core x y)) (fun _ _ _ => rfl) (fun _ _ => rfl) h
  exact ⟨State.eq_of_besideCores (State.take_leaves (π := State.besideCores) (fun _ _ _ => rfl) (fun _ _ => rfl) h),
    (hcore d c).trans State.core_setCore_same, fun x y hne => (hcore x y).trans (State.core_setCore_other hne)⟩

end

/-! ### The C slot (R178, R188) -/

section
variable {s s₀ : State} {d c op : Nat} {i : Instr} {want : CF → Bool} {f : CoreSt → CF → CRes} {q : CoreSt} {e : BundleEnd}
  (hruns : s.coreRuns d c = true) (hdue : (s.core d c).iterDue = false) (hlegal : cIllegal (s.core d c).bundle = false)
include hruns hdue hlegal

/-- A C slot that spells its command issues, and its bundle ends on what the operation comes to. -/
theorem exec_cSlot_of_turn (hphase : (s.core d c).phase = if (s.core d c).isLoop then 1 else 2)
    (hi : exec i s₀ = ok (s.cOp d c op want f)) (hop : (s.core d c).cOp = op) (hwant : want (cFields (s.core d c).cSlot) = true)
    (hf : f (s.core d c) (cFields (s.core d c).cSlot) = .done q e) (hgive : q.giveDue = false) :
    ∃ t : State, exec i s₀ = .next t ∧ s.BundleEnded t d c q e := by
  have hspelt : ((cFields (s.core d c).cSlot).op == op && want (cFields (s.core d c).cSlot)) = true := by
    rw [hwant, Bool.and_true]
    exact beq_iff_eq.mpr hop
  refine ⟨_, hi, ?_⟩
  rw [State.cOp, hlegal, hspelt, State.issue_of_turn hruns hdue hphase (by split <;> nofun), hf]
  exact State.bundleEnded_take hgive

/-- The same for an operation other than LOOP and REP. -/
theorem exec_cSlot (hphase : (s.core d c).phase = 2) (hi : exec i s₀ = ok (s.cOp d c op want f)) (hop : (s.core d c).cOp = op)
    (hlt : op < 13) (hwant : want (cFields (s.core d c).cSlot) = true)
    (hf : f (s.core d c) (cFields (s.core d c).cSlot) = .done q e) (hgive : q.giveDue = false) :
    ∃ t : State, exec i s₀ = .next t ∧ s.BundleEnded t d c q e := by
  have hloop : (s.core d c).isLoop = false := by
    simp only [CoreSt.isLoop, hop, Bool.or_eq_false_iff, beq_eq_false_iff_ne]
    omega
  exact exec_cSlot_of_turn hruns hdue hlegal (by rw [hphase, hloop]; rfl) hi hop hwant hf hgive

/-- A memory error of an access: a corrected one is counted before the same effect, an uncorrectable one is a hardware fault (R152). -/
theorem exec_cSlot_ecc {i : Nat → Instr} {g : State → State} (hphase : (s.core d c).phase = 2) (hop : (s.core d c).cOp = op)
    (hi : ∀ e s, exec (i e) s = ok (s.withEcc d c e op g)) : exec (i 1) s = exec (i 0) (s.corrected d c) ∧
      ∃ t : State, exec (i 2) s = .next t ∧ t.get (CORE_FAULT_CAUSE d c) = 4 ∧ t.get (CORE_CFG_EN d c) = 0 := by
  have hecc : ∀ e, e ≠ 0 → s.withEcc d c e op g = if e = 1 then g (s.corrected d c) else s.coreFault d c cECC := fun e he => by
    rw [State.withEcc, if_neg (by simp [he, hruns, hphase, hdue, hop, hlegal])]
  have hc := State.lt_of_coreRuns hruns
  refine ⟨?corrected, s.coreFault d c 4, ?fault, State.cause_coreFault_hardware hc (.inl rfl), State.en_coreFault_hardware hc (.inl rfl)⟩
  case corrected => rw [hi, hi, hecc 1 (by decide), if_pos rfl, State.withEcc_clean]
  case fault => rw [hi, hecc 2 (by decide), if_neg (by decide), ok, cECC]

end

section
variable {q : CoreSt} {r : CRes}

theorem CoreSt.cDo_of_guard (h : q.cGuard = true) : q.cDo (cFields q.cSlot) r = r := if_pos h

/-- The core with results posted beside those under way. -/
def CoreSt.posting (q : CoreSt) (ws : List PWrite) : CoreSt := { q with writes := q.writes ++ ws }

/-- An access that passes the range check posts its results, then the post-modified address (R184). -/
theorem CoreSt.through_of_access {n k lat a : Nat} {ws : List CoreWr} {ps : List PWrite}
    (h : access (q.areg n) (q.mreg n) k = some a) (hps : ws.map (PWrite.mk (q.pos + lat)) = ps) :
    q.through n k lat ws = some (q.posting (ps ++ [⟨q.pos + 1, .adr n a⟩])) := by
  rw [CoreSt.through, h, CoreSt.posting, ← List.append_assoc, ← hps]
  rfl

/-- A dual access posts what its two accesses post, XM's first. -/
theorem CoreSt.dual_of_access {x a b : Nat} {stX stY : Bool} {px py : List PWrite}
    (ha : access (q.areg (dxX x).2) (q.mreg (dxX x).2) 4 = some a) (hb : access (q.areg (dxY x).2) (q.mreg (dxY x).2) 4 = some b)
    (hpx : (if stX then q.stores false (q.areg (dxX x).2) (dxX x).1 4 else q.loads false (q.areg (dxX x).2) (dxX x).1 4).map
      (PWrite.mk (q.pos + if stX then 2 else 3)) = px)
    (hpy : (if stY then q.stores true (q.areg (dxY x).2) (dxY x).1 4 else q.loads true (q.areg (dxY x).2) (dxY x).1 4).map
      (PWrite.mk (q.pos + if stY then 2 else 3)) = py) :
    q.dual x stX stY = .plain (q.posting (px ++ [⟨q.pos + 1, .adr (dxX x).2 a⟩] ++ py ++ [⟨q.pos + 1, .adr (dxY x).2 b⟩])) := by
  have hy := CoreSt.through_of_access (q := q.posting (px ++ [⟨q.pos + 1, .adr (dxX x).2 a⟩])) hb hpy
  rw [CoreSt.dual, CoreSt.through_of_access ha hpx]
  dsimp only
  rw [hy, orRange, CoreSt.posting, CoreSt.posting, CoreSt.posting]
  simp only [List.append_assoc]

end

section
variable {s : State} {d c op : Nat} {i : Instr} {want : CF → Bool} {f : CoreSt → CF → CRes} {g : State → State} {r : CRes} {ps : List PWrite}
  (hruns : s.coreRuns d c = true) (hdue : (s.core d c).iterDue = false) (hphase : (s.core d c).phase = 2)
  (hlegal : cIllegal (s.core d c).bundle = false) (hgive : (s.core d c).giveDue = false)
include hruns hdue hphase hlegal hgive

/-- A C slot whose operation posts results and lets the program go on ends its bundle with them. -/
theorem exec_cSlot_of_posting (hi : exec i s = ok (s.cOp d c op anyC f)) (hop : (s.core d c).cOp = op) (hlt : op < 13)
    (hf : f (s.core d c) (cFields (s.core d c).cSlot) = .plain ((s.core d c).posting ps)) :
    ∃ t : State, exec i s = .next t ∧
      s.BundleEnded t d c { s.core d c with writes := (s.core d c).writes ++ ps } .plain :=
  exec_cSlot hruns hdue hlegal hphase hi hop hlt rfl hf hgive

end

/-- Settles O34. Each operation is its `State.cOp`, whose guard holds; an access posts by `CoreSt.through_of_access`. -/
theorem controlSlotMovesData : Obligations.ControlSlotMovesData := by
  unfold Obligations.ControlSlotMovesData
  intro s d c hruns hdue hphase hlegal hgive hguard q x n r y k ends load store
  refine ⟨fun a ha => ⟨?ld, ?st⟩, fun a hop ha (hpg' : (cFields (s.core d c).cSlot).pg = 0) => ⟨?ldu8, ?ldu4⟩, fun a b ha hb => ⟨?dxlys, ?dxsyl, ?dxlyl⟩, ?aadd, ?ali, ?mvts,
    ?mvfs, ?dbmsg, ?ctrval, ?ecc⟩
  case ld =>
    exact fun hop => exec_cSlot_of_posting hruns hdue hphase hlegal hgive (congrArg ok State.withEcc_clean) hop (by decide)
      ((CoreSt.cDo_of_guard hguard).trans (congrArg orRange (CoreSt.through_of_access ha List.map_map)))
  case st =>
    exact fun hop => exec_cSlot_of_posting hruns hdue hphase hlegal hgive (congrArg ok State.withEcc_clean) hop (by decide)
      ((CoreSt.cDo_of_guard hguard).trans (congrArg orRange (CoreSt.through_of_access ha List.map_map)))
  case ldu8 =>
    intro hfmt
    refine exec_cSlot_of_posting hruns hdue hphase hlegal hgive (congrArg ok State.withEcc_clean) hop (by decide) ?_
    simp only [hfmt, hpg', if_true, List.append_nil]
    exact congrArg orRange (CoreSt.through_of_access ha rfl)
  case ldu4 =>
    intro hfmt hr
    refine exec_cSlot_of_posting hruns hdue hphase hlegal hgive (congrArg ok State.withEcc_clean) hop (by decide) ?_
    have hr' : ¬ 59 < bitsOf (cFields (s.core d c).cSlot).x 5 6 := not_lt.mpr hr
    simp only [hfmt, hpg', hr', Nat.not_lt_zero, or_self, and_false, if_false, if_true, List.append_nil]
    exact congrArg orRange (CoreSt.through_of_access ha rfl)
  case dxlys =>
    exact fun hop => exec_cSlot_of_posting hruns hdue hphase hlegal hgive (congrArg ok State.withEcc_clean) hop (by decide)
      ((CoreSt.cDo_of_guard hguard).trans (CoreSt.dual_of_access ha hb List.map_map List.map_map))
  case dxsyl =>
    exact fun hop => exec_cSlot_of_posting hruns hdue hphase hlegal hgive (congrArg ok State.withEcc_clean) hop (by decide)
      ((CoreSt.cDo_of_guard hguard).trans (CoreSt.dual_of_access ha hb List.map_map List.map_map))
  case dxlyl =>
    exact fun hop => exec_cSlot_of_posting hruns hdue hphase hlegal hgive (congrArg ok State.withEcc_clean) hop (by decide)
      ((CoreSt.cDo_of_guard hguard).trans (CoreSt.dual_of_access ha hb List.map_map List.map_map))
  case aadd =>
    exact fun hop => exec_cSlot_of_posting hruns hdue hphase hlegal hgive rfl hop (by decide) (CoreSt.cDo_of_guard hguard)
  case ali =>
    exact fun hop => exec_cSlot_of_posting hruns hdue hphase hlegal hgive rfl hop (by decide) (CoreSt.cDo_of_guard hguard)
  case mvts =>
    exact fun hop => exec_cSlot_of_posting hruns hdue hphase hlegal hgive rfl hop (by decide) (CoreSt.cDo_of_guard hguard)
  case mvfs =>
    intro hop (h45 : bitsOf (cFields (s.core d c).cSlot).x 8 6 ≠ 45) (h46 : bitsOf (cFields (s.core d c).cSlot).x 8 6 ≠ 46)
    refine exec_cSlot_of_posting hruns hdue hphase hlegal hgive rfl hop (by decide) ((CoreSt.cDo_of_guard hguard).trans ?_)
    simp only [h45, h46, false_and, if_false]
    rfl
  case dbmsg =>
    intro hop (h46 : bitsOf (cFields (s.core d c).cSlot).x 8 6 = 46)
    refine exec_cSlot hruns hdue hlegal hphase rfl hop (by decide) rfl ((CoreSt.cDo_of_guard hguard).trans ?_) hgive
    simp only [h46, Nat.reduceEqDiff, false_and, if_false, if_true]
    rfl
  case ctrval =>
    intro hop (h45 : bitsOf (cFields (s.core d c).cSlot).x 8 6 = 45) hacc
    refine exec_cSlot_of_posting hruns hdue hphase hlegal hgive rfl hop (by decide) ((CoreSt.cDo_of_guard hguard).trans ?_)
    simp only [h45, hacc, Nat.one_ne_zero, and_false, if_false, if_true]
    rfl
  case ecc =>
    intro i hi hop
    have hexec : ∃ g, ∀ e s, exec (i.1 e) s = ok (s.withEcc d c e i.2 g) := by
      simp only [List.mem_cons, List.not_mem_nil, or_false] at hi
      rcases hi with rfl | rfl | rfl | rfl | rfl | rfl <;> exact ⟨_, fun _ _ => rfl⟩
    obtain ⟨g, hexec⟩ := hexec
    exact exec_cSlot_ecc hruns hdue hlegal hphase hop hexec

end Sys2Proof.Machine

namespace Sys2Proof.Machine

open Reg

/-! ### What the steering operations come to (R188 to R193) -/

section
variable {q : CoreSt} {r : CRes}

theorem CoreSt.placed_of_free (hrep : q.inRep = false) (hdelay : q.delay = 0) (hatom : q.atom = 0) : q.placed r = r := by
  rw [CoreSt.placed, hrep, hdelay, hatom]
  rfl

theorem CoreSt.branch_of_free {b : BrWait} {ws : List CoreWr} (hrep : q.inRep = false) (hdelay : q.delay = 0)
    (hlate : q.lateInLoop = false) (hguard : q.cGuard = true) :
    q.branch (cFields q.cSlot) b ws = .done (q.post 1 ws) ⟨true, some b, none, none, 0⟩ := by
  rw [CoreSt.branch, hrep, hdelay, hlate, if_neg nofun, if_neg (by simp)]
  exact if_pos hguard

theorem CoreSt.branch_of_free_nil {b : BrWait} (hrep : q.inRep = false) (hdelay : q.delay = 0)
    (hlate : q.lateInLoop = false) (hguard : q.cGuard = true) :
    q.branch (cFields q.cSlot) b [] = .done q ⟨true, some b, none, none, 0⟩ := by
  rw [CoreSt.branch_of_free hrep hdelay hlate hguard, CoreSt.post_nil]

/-- The count of a loop's iterations, by its immediate N (R191). -/
def CoreSt.loopCount (q : CoreSt) : Nat := bitsOf q.bundle 27 24 + bitsOf q.bundle 62 3

/-- The loop that an outermost LOOP or REP begins (R191). -/
def CoreSt.outerLoop (q : CoreSt) (rep : Bool) : LoopSt :=
  ⟨bitsOf q.bundle 66 2, q.pc + 1, q.pc + (bitsOf q.bundle 52 10 + 1), bit q.bundle 65, bitsOf q.bundle 27 24, bitsOf q.bundle 62 3, rep⟩

/-- An outermost LOOP or REP with an immediate count skips its body or begins its loop. -/
theorem CoreSt.loopOp_of_outermost (rep : Bool) (hrep : q.inRep = false) (hloops : q.loops = []) (himm : bit q.bundle 51 = false)
    (hcount : q.loopCount < 2 ^ 24) : q.loopOp rep =
      if q.loopCount = 0 then .done q ⟨false, none, none, none, bitsOf q.bundle 52 10 + 1⟩
      else .done (q.post 1 [.lc (bitsOf q.bundle 66 2) q.loopCount]) ⟨false, none, none, some (q.outerLoop rep), 0⟩ := by
  have hstaged : q.staged = none := by rw [CoreSt.staged, hloops, List.find?_nil]
  have hfits : ¬ 2 ^ 24 - 1 < q.loopCount := by omega
  rw [CoreSt.loopOp]
  simp only [hrep, hloops, himm, hstaged, List.any_nil, Option.isSome_none, Bool.false_eq_true, if_false, and_false, or_false, false_or]
  exact if_neg hfits

/-- The core with the count of loop `l` at `x`, and its stage slid where the loop is staged (R166). -/
def CoreSt.counted (q : CoreSt) (l : LoopSt) (x : Nat) : CoreSt :=
  if l.stg then { q with lc := Store.put zeroNat q.lc l.level x, win := (q.win + 1) % 32, sit := (q.sit + 1) % 2 ^ 24 }
  else { q with lc := Store.put zeroNat q.lc l.level x }

section
variable {l : LoopSt} {rest : List LoopSt} {x : Nat}

theorem CoreSt.loops_counted : (q.counted l x).loops = q.loops := by
  rw [CoreSt.counted]; split <;> rfl

theorem CoreSt.giveDue_counted : (q.counted l x).giveDue = q.giveDue := by
  rw [CoreSt.counted]; split <;> rfl

theorem CoreSt.lreg_counted : (q.counted l x).lreg l.level = x := by
  rw [CoreSt.counted]
  split <;> exact Store.get_put_same _ _ _ _

/-- The core out of its innermost loop `l`, the others being `rest`; a body that ends at the same bundle ends its iteration next (R192). -/
def CoreSt.leave (q : CoreSt) (l : LoopSt) (rest : List LoopSt) : CoreSt :=
  match rest with
  | o :: _ => if o.last = l.last then { q with loops := rest } else { q with loops := rest, pc := (l.last + 1) % 8192, iterDue := false }
  | [] => { q with loops := rest, pc := (l.last + 1) % 8192, iterDue := false }

theorem CoreSt.leave_eq (q : CoreSt) : ∃ pc due, q.leave l rest = { q with loops := rest, pc := pc, iterDue := due } := by
  cases rest with
  | nil => exact ⟨_, _, rfl⟩
  | cons o rest =>
    rw [CoreSt.leave]
    split
    · exact ⟨q.pc, q.iterDue, rfl⟩
    · exact ⟨_, _, rfl⟩

/-- The iteration end of a core in a loop: the count falls by 1, and the body starts again or the loop is left (R192). -/
theorem CoreSt.iterEnd_of_loop (hloops : q.loops = l :: rest) (hpos : 0 < q.lreg l.level) (hlt : q.lreg l.level < 2 ^ 24) :
    q.iterEnd = if 0 < q.lreg l.level - 1 then { q.counted l (q.lreg l.level - 1) with pc := l.first, iterDue := false }
      else (q.counted l (q.lreg l.level - 1)).leave l rest := by
  have hx : (q.lreg l.level + 2 ^ 24 - 1) % 2 ^ 24 = q.lreg l.level - 1 := by omega
  unfold CoreSt.iterEnd
  split
  case h_1 h => exact absurd (hloops.symm.trans h) nofun
  case h_2 l' rest' h =>
    obtain ⟨rfl, rfl⟩ := List.cons.inj (hloops.symm.trans h)
    rw [hx]
    rfl

end

end

section
variable {s : State} {d c : Nat}

/-- LOOP and REP issue after the M slot (R178). -/
theorem exec_loop_of_turn {q : CoreSt} {e : BundleEnd} (hruns : s.coreRuns d c = true) (hdue : (s.core d c).iterDue = false)
    (hlegal : cIllegal (s.core d c).bundle = false) (hphase : (s.core d c).phase = 1) (rep : Bool)
    (hop : (s.core d c).cOp = if rep then 14 else 13) (hf : (s.core d c).loopOp rep = .done q e) (hgive : q.giveDue = false) :
    ∃ t : State, exec (if rep then .rep d c else .loop d c) s = .next t ∧ s.BundleEnded t d c q e := by
  have hloop : (s.core d c).isLoop = true := by
    rw [CoreSt.isLoop, hop]
    cases rep <;> rfl
  have hslot : (s.core d c).phase = if (s.core d c).isLoop then 1 else 2 := by rw [hloop]; exact hphase
  cases rep with
  | false => exact exec_cSlot_of_turn hruns hdue hlegal hslot rfl hop rfl hf hgive
  | true => exact exec_cSlot_of_turn hruns hdue hlegal hslot rfl hop rfl hf hgive

theorem State.core_keepCore {q : CoreSt} (h : q.giveDue = false) : (s.keepCore d c q).core d c = q :=
  (State.keepCore_leaves (π := (·.core d c)) (fun _ _ _ => rfl) h).trans State.core_setCore_same

theorem exec_iterationEnd_of_due (hruns : s.coreRuns d c = true) (hdue : (s.core d c).iterDue = true) :
    exec (.iterationEnd d c) s = .next (s.keepCore d c (s.core d c).iterEnd) := by
  change execIterationEnd d c s = _
  rw [execIterationEnd, if_pos ⟨hruns, hdue⟩, ok]

end

/-- Settles O35. The steering operations are `State.cOp`s of the C slot, whose bundle ends on what `CoreSt.branch_of_free`,
`CoreSt.placed_of_free` and `CoreSt.loopOp_of_outermost` give; OPUT marks its folio's
products first (R347). An iteration end is `CoreSt.iterEnd_of_loop`. -/
theorem controlSlotSteersTheProgram : Obligations.ControlSlotSteersTheProgram := by
  unfold Obligations.ControlSlotSteersTheProgram
  intro s d c hruns hgive q x sub post
  refine ⟨fun hdue hphase hlegal hguard hrep hdelay hatom hlate => ?free, fun hdue hphase hlegal hop hsub => ?nop,
    fun rep hdue hphase hlegal hrep hop hloops himm => ?loop, fun l rest hdue hloops hpos hlt => ?iteration⟩
  case free =>
    have hbranch := fun b => CoreSt.branch_of_free_nil (b := b) hrep hdelay hlate hguard
    have hplaced := fun r => (CoreSt.placed_of_free (r := (s.core d c).cDo _ r) hrep hdelay hatom).trans (CoreSt.cDo_of_guard hguard)
    refine ⟨?br, ?call, ?ret, ?rti, ?halt, ?atom, ?iwait, ?irel, ?oput, ?ei, ?di, ?soft⟩
    case br => exact fun hop => exec_cSlot hruns hdue hlegal hphase rfl hop (by decide) rfl (hbranch _) hgive
    case call =>
      exact fun hop => exec_cSlot hruns hdue hlegal hphase rfl hop (by decide) rfl
        (CoreSt.branch_of_free hrep hdelay hlate hguard) hgive
    case ret =>
      exact fun hop hsub => exec_cSlot hruns hdue hlegal hphase rfl hop (by decide) (beq_iff_eq.mpr hsub) (hbranch _) hgive
    case rti =>
      exact fun hop hsub hhandler => exec_cSlot hruns hdue hlegal hphase rfl hop (by decide) (beq_iff_eq.mpr hsub)
        ((if_neg fun h => hhandler h.1).trans (hbranch _)) hgive
    case halt =>
      exact fun hop hsub => exec_cSlot hruns hdue hlegal hphase rfl hop (by decide) (beq_iff_eq.mpr hsub) (hplaced _) hgive
    case atom =>
      refine fun hop hsub => exec_cSlot hruns hdue hlegal hphase rfl hop (by decide) (beq_iff_eq.mpr hsub) ?_ hgive
      exact (if_neg (by rw [hrep]; decide)).trans (CoreSt.cDo_of_guard hguard)
    case iwait =>
      intro b hop hsub (hb : (s.core d c).ins[(s.core d c).taken]? = some b)
      refine exec_cSlot hruns hdue hlegal hphase rfl hop (by decide) (beq_iff_eq.mpr hsub) ((hplaced _).trans ?_) hgive
      rw [hb]
      rfl
    case irel =>
      exact fun hop hsub htaken => exec_cSlot hruns hdue hlegal hphase rfl hop (by decide) (beq_iff_eq.mpr hsub)
        ((CoreSt.cDo_of_guard hguard).trans (if_neg htaken.ne')) hgive
    case oput =>
      intro hop hsub hmarked hinput
      have hsub' : isSub 5 (cFields (s.core d c).cSlot) = true := beq_iff_eq.mpr hsub
      obtain ⟨t, hexec, hstate, hcore, -⟩ := exec_cSlot (i := .oput d c) (s₀ := s) (s := s.markFolio d c (s.core d c)) hruns hdue hlegal
        hphase (congrArg (fun s₀ : State => ok (s₀.cOp d c 0 (isSub 5) _)) (if_pos ⟨hop, hsub', hruns, hphase, hguard⟩)) hop (by decide) hsub' ((hplaced _).trans (if_neg (not_le.mpr hinput))) hgive
      have hacc : t.acc = (s.markFolio d c (s.core d c)).acc := by rw [hstate]
      refine ⟨t, hexec, ?_, ?_, ?_⟩
      · rw [hacc]
        exact hstate
      · rw [hcore, CoreSt.outs_endBundle]
        exact if_neg (ne_true_of_eq_false hmarked)
      · rw [hcore, CoreSt.outCur_endBundle]
        rfl
    case ei =>
      exact fun hop hsub => exec_cSlot hruns hdue hlegal hphase rfl hop (by decide) (beq_iff_eq.mpr hsub) (CoreSt.cDo_of_guard hguard) hgive
    case di =>
      exact fun hop hsub => exec_cSlot hruns hdue hlegal hphase rfl hop (by decide) (beq_iff_eq.mpr hsub) (CoreSt.cDo_of_guard hguard) hgive
    case soft =>
      exact fun hop hsub => exec_cSlot hruns hdue hlegal hphase rfl hop (by decide) (beq_iff_eq.mpr hsub) (CoreSt.cDo_of_guard hguard) hgive
  case nop =>
    obtain ⟨t, hexec, hended⟩ := exec_cSlot (e := .plain) hruns hdue hlegal hphase (i := .miscNop d c) rfl hop (by decide)
      (beq_iff_eq.mpr hsub) rfl hgive
    refine ⟨t, hexec, hended, fun hdelay hloops => ?_, fun b hdelay hbr hkind => ?_⟩
    · rw [hended.2.1, CoreSt.pc_endBundle_of_next hdelay hloops]
    · rw [hended.2.1, CoreSt.pc_endBundle_of_branch hdelay hbr hkind]
  case loop =>
    intro n m len hcount
    have hloop := fun b => CoreSt.loopOp_of_outermost b hrep hloops himm hcount
    have hexec := fun q' e => exec_loop_of_turn (q := q') (e := e) hruns hdue hlegal hphase rep hop
    by_cases hzero : n + m = 0
    · obtain ⟨t, hnext, hended⟩ := hexec _ _ ((hloop rep).trans (if_pos hzero)) hgive
      exact ⟨t, hnext, by rwa [if_pos hzero]⟩
    · obtain ⟨t, hnext, hended⟩ := hexec _ _ ((hloop rep).trans (if_neg hzero)) hgive
      exact ⟨t, hnext, by rwa [if_neg hzero]⟩
  case iteration =>
    have hend : ∀ q', (s.core d c).iterEnd = q' → q'.giveDue = (s.core d c).giveDue →
        (s.keepCore d c (s.core d c).iterEnd).core d c = q' := fun q' h hg => by rw [h, State.core_keepCore (hg.trans hgive)]
    have hiter := CoreSt.iterEnd_of_loop (q := s.core d c) hloops hpos hlt
    refine ⟨_, exec_iterationEnd_of_due hruns hdue, ?_⟩
    by_cases hmore : 0 < (s.core d c).lreg l.level - 1
    · rw [hend _ (hiter.trans (if_pos hmore)) CoreSt.giveDue_counted]
      exact ⟨CoreSt.lreg_counted, fun _ => ⟨rfl, CoreSt.loops_counted⟩, fun h => absurd hmore (by rw [h]; decide)⟩
    · obtain ⟨pc, due, hleave⟩ := CoreSt.leave_eq (l := l) (rest := rest) ((s.core d c).counted l ((s.core d c).lreg l.level - 1))
      rw [hend _ ((hiter.trans (if_neg hmore)).trans hleave) CoreSt.giveDue_counted]
      exact ⟨CoreSt.lreg_counted, fun h => absurd (Nat.sub_pos_of_lt h) hmore, fun _ => rfl⟩

end Sys2Proof.Machine

namespace Sys2Proof.Machine

open Reg

/-! ### What clocks, events and faults leave of the links -/

/-- A slot that is neither of the links' block 0x15 nor the REF_STATUS of a reference. -/
abbrev farSlot (a : Nat) : Prop := addrBlock a ≠ 0x15 ∧ ∀ r < 20, a ≠ REF_STATUS r

theorem addrBlock_REF_STATUS {r : Nat} (hr : r < 20) : addrBlock (REF_STATUS r) = 6 := by
  simp only [addrBlock, REF_STATUS, keepSlot, bitsOf]; omega

theorem farSlot_of_block {a b : Nat} (h : addrBlock a = b) (hlink : b ≠ 0x15) (href : b ≠ 6) : farSlot a :=
  ⟨h.trans_ne hlink, fun _ hr e => href (h.symm.trans (e ▸ addrBlock_REF_STATUS hr))⟩

/-- A state without what clocks, events, interrupts and the fault record hold beside the registers. -/
def State.linkPart (s : State) : State :=
  { s with out := [], evts := [], evtLost := 0, ports := [], rsc := .reset, te := .reset, acc := .reset, flt := .reset, flash := [],
           timers := [], workT := 0, workAt := 0 }

/-- What `π` reads of a state is neither that nor a far slot. -/
structure LinkView {γ : Type} (π : State → γ) : Prop where
  put : ∀ (s : State) (f : RF) (v : Nat), farSlot f.addr → π (s.put f v) = π s
  beside : ∀ s t : State, t.linkPart = s.linkPart → π t = π s

theorem linkView_chains : LinkView State.chains := ⟨fun _ _ _ _ => rfl, fun s t h => (congrArg State.chains h : t.linkPart.chains = s.linkPart.chains)⟩

theorem linkView_inbox : LinkView State.inbox := ⟨fun _ _ _ _ => rfl, fun s t h => (congrArg State.inbox h : t.linkPart.inbox = s.linkPart.inbox)⟩

theorem linkView_get {f : RF} (hf : addrBlock f.addr = 0x15) : LinkView (State.get · f) :=
  ⟨fun s _ v hg => State.get_put_of_block s v (by rw [hf]; exact hg.1.symm), fun s t h => (congrArg (State.get · f) h : t.linkPart.get f = s.linkPart.get f)⟩

theorem linkView_refState {r : Nat} (hr : r < 20) : LinkView (State.refState · r) :=
  ⟨fun s _ v hg => State.get_put_other s v (hg.2 r hr).symm, fun s t h => (congrArg (State.refState · r) h : t.linkPart.refState r = s.linkPart.refState r)⟩

theorem view_ite {γ : Type} {π : State → γ} {c : Prop} [Decidable c] {s t u : State} (ht : π t = π s) (hu : π u = π s) :
    π (if c then t else u) = π s := by
  split
  · exact ht
  · exact hu

namespace LinkView

variable {γ : Type} {π : State → γ} (h : LinkView π) (s : State)
include h

theorem raise {f : RF} (hf : farSlot f.addr) : π (s.raise f) = π s := h.put s f 1 hf

theorem putI {f : RF} (v : Int) (hf : farSlot f.addr) : π (s.putI f v) = π s := h.put s f _ hf

theorem emitOut (o : Output) : π (s.emitOut o) = π s := h.beside _ _ rfl

theorem setTimer (k v : Nat) : π (s.setTimer k v) = π s := h.beside _ _ rfl

theorem setPort (p : Nat) (v : PortSt) : π (s.setPort p v) = π s := h.beside _ _ rfl

theorem setRef (r : Nat) (v : RefSt) : π (s.setRef r v) = π s := h.beside _ _ rfl

theorem emit (code die kind unit a b : Nat) : π (s.emit code die kind unit a b) = π s := by
  rw [State.emit, State.emitC, State.queueEvt]
  refine view_ite (h.beside _ _ rfl) ((h.put _ _ _ (by decide)).trans (h.beside _ _ rfl))

theorem markNow (bits : Nat) : π (s.markNow bits) = π s := by
  rw [State.markNow]
  split
  · rfl
  · exact h.beside _ _ rfl

/-! Interrupts, the mode, replacement and faults -/

theorem msix (p v : Nat) : π (s.msix p v) = π s := by
  rw [State.msix]
  exact view_ite rfl (view_ite (view_ite rfl (h.setPort s _ _)) (view_ite (h.emitOut s _) (h.beside _ _ rfl)))

theorem msixChange : π s.msixChange = π s := (h.msix _ 1 1).trans (h.msix s 0 1)

theorem setMode (m : Nat) : π (s.setMode m) = π s := by
  rw [State.setMode, h.markNow, h.msixChange, h.emit, h.raise _ (by decide), h.put _ _ _ (by decide), h.put _ _ _ (by decide),
    h.put _ _ _ (by decide)]
  exact view_ite (h.beside _ _ rfl) (h.beside _ _ rfl)

theorem evalRepl : π s.evalRepl = π s := by
  have hlevel : ∀ d, farSlot (FLT_STATUS_LEVEL d).addr := fun d => farSlot_of_block (addrBlock_FLT_STATUS d) (by decide) (by decide)
  unfold State.evalRepl
  extract_lets conds adv lvl mask s1 s2 s3 s4
  have h2 : π s2 = π s := by
    rw [h.put _ _ _ (by decide), h.put _ _ _ (by decide), h.put _ _ _ (by decide), h.put _ _ _ (by decide)]
  have h3 : π s3 = π s2 := view_ite rfl ((h.msixChange _).trans (h.put _ _ _ (by decide)))
  have h4 : π s4 = π s3 := foldl_leaves π (fun t d _ => h.put t _ _ (hlevel d)) s3
  rw [← h2, ← h3, ← h4]
  exact view_ite (h.setMode s4 _) rfl

theorem request (code die days : Nat) : π (s.request code die days) = π s := by
  have hreq : farSlot (FLT_EVENTS_REQUESTED die).addr := farSlot_of_block (addrBlock_FLT_EVENTS die) (by decide) (by decide)
  rw [State.request]
  refine view_ite rfl ((h.evalRepl _).trans ((view_ite (h.raise _ hreq) rfl).trans ((h.emit _ _ _ _ _ _ _).trans (h.beside _ _ rfl))))

theorem unrequest (code die : Nat) : π (s.unrequest code die) = π s := (h.evalRepl _).trans (h.beside _ _ rfl)

theorem beginFault (u : UnitId) (code : Nat) : π (s.beginFault u code) = π s :=
  view_ite ((h.request _ _ _ _).trans ((h.emit _ _ _ _ _ _ _).trans (h.beside _ _ rfl))) (h.beside _ _ rfl)

theorem recoverFault (u : UnitId) : π (s.recoverFault u) = π s := by
  rw [State.recoverFault]
  split
  · rfl
  · extract_lets _ s1
    have h1 : π s1 = π s := (h.emit _ _ _ _ _ _ _).trans (h.beside _ _ rfl)
    split
    · exact h1
    · exact view_ite h1 ((h.unrequest _ _ _).trans ((h.emit _ _ _ _ _ _ _).trans ((h.beside s1 _ (by rfl)).trans h1)))

theorem appendFault (u : UnitId) (dead serial : Nat) : π (s.appendFault u dead serial) = π s := by
  unfold State.appendFault State.appendRec
  extract_lets g r r' put
  have hput : ∀ t dev, π (put t dev) = π t := fun t dev => view_ite (h.beside _ _ rfl) rfl
  exact (hput _ 1).trans (hput s 0)

/-- A chain has no state in UNIT_BKT. -/
theorem deaccUnit (d c code a b serial : Nat) : π (s.deaccUnit ⟨d, 3, c⟩ code a b serial) = π s := by
  have hdeacc : farSlot (FLT_EVENTS_DEACC d).addr := farSlot_of_block (addrBlock_FLT_EVENTS d) (by decide) (by decide)
  exact (h.emit _ _ _ _ _ _ _).trans ((view_ite (h.raise _ hdeacc) rfl).trans ((h.appendFault _ _ _ _).trans (h.beside _ _ rfl)))

/-! References and the DPLL -/

theorem setAlignT : π s.setAlignT = π s := by
  have hrun : ∀ t k, π (State.runOutput t k) = π t := fun t k => by
    have hclock : π (when (t.get (CLK_CFG_EN k) == 1) (·.emitOut (.clock k t.alignAt (t.get (CLK_CFG_DIV k) * tSec) (t.get TE_SYNTH_FVCO_HZ))) t) = π t :=
      view_ite (h.emitOut t _) rfl
    rw [State.runOutput]
    exact view_ite ((h.emitOut _ _).trans hclock) (view_ite ((h.emitOut _ _).trans hclock) hclock)
  rw [State.setAlignT]
  exact (foldl_leaves π (fun t k _ => hrun t k) _).trans ((h.raise _ (by decide)).trans ((h.put _ _ _ (by decide)).trans (h.beside _ _ rfl)))

theorem refreshQual : π s.refreshQual = π s := by
  unfold State.refreshQual
  extract_lets q was s1 _ s2 s3
  have h1 : π s1 = π s := by rw [h.put _ _ _ (by decide), h.put _ _ _ (by decide), h.put _ _ _ (by decide)]
  have h2 : π s2 = π s1 := view_ite (h.raise _ (by decide))
    (view_ite ((h.markNow _ _).trans ((h.raise _ (by decide)).trans (h.beside _ _ rfl))) rfl)
  have h3 : π s3 = π s2 := view_ite (h.markNow _ _) rfl
  rw [← h1, ← h2, ← h3]
  exact view_ite (h.setAlignT _) rfl

theorem checkDisagree : π s.checkDisagree = π s := by
  rw [State.checkDisagree]
  split
  · exact h.put _ _ _ (by decide)
  · exact view_ite rfl ((h.emit _ _ _ _ _ _ _).trans ((h.raise _ (by decide)).trans (h.raise _ (by decide))))

theorem enterHoldover : π s.enterHoldover = π s := by
  unfold State.enterHoldover
  extract_lets l hi w n c q _ s1 s2 s3
  have h3 : π s3 = π s := by
    rw [h.raise _ (by decide), h.put _ _ _ (by decide), h.put _ _ _ (by decide), h.put _ _ _ (by decide), h.put _ _ _ (by decide),
      h.put _ _ _ (by decide), h.putI _ _ (by decide)]
    exact h.beside _ _ rfl
  rw [h.refreshQual, ← h3]
  exact view_ite rfl ((h.emit _ _ _ _ _ _ _).trans (h.raise _ (by decide)))

theorem choose : π s.choose = π s := by
  have hacquire : ∀ r, π (s.acquire r) = π s := fun r => by
    rw [State.acquire, h.setTimer, h.put _ _ _ (by decide), h.put _ _ _ (by decide), h.put _ _ _ (by decide)]
  have hswitch : ∀ r, π (s.startSwitch r) = π s := fun r => (h.raise _ (by decide)).trans (h.beside _ _ rfl)
  rw [State.choose]
  refine view_ite rfl ?_
  split
  · exact view_ite (view_ite (hacquire _) rfl) (view_ite rfl (hswitch _))
  · exact view_ite (h.enterHoldover s) rfl

theorem timeHold : π s.timeHold = π s := by
  rw [State.timeHold]
  refine view_ite rfl ((h.refreshQual _).trans ((view_ite (h.raise _ (by decide)) rfl).trans ((h.raise _ (by decide)).trans
    ((h.put _ _ _ (by decide)).trans ((h.putI _ _ (by decide)).trans (h.beside _ _ rfl))))))

theorem upstreamLost (k : Nat) : π (s.upstreamLost k) = π s := by
  rw [State.upstreamLost]
  refine view_ite (view_ite ?_ (h.timeHold s)) rfl
  rw [h.timeHold, h.emit, h.raise _ (by decide), h.put _ _ _ (by decide)]
  exact h.beside _ _ rfl

end LinkView

end Sys2Proof.Machine

namespace Sys2Proof.Machine

open Reg

/-! ### A line reference that loses its activity (R374, R376) -/

section
variable {γ : Type} {π : State → γ} {s : State} {r k : Nat}

theorem LinkView.refInvalid (h : LinkView π) (href : ∀ (s : State) (f : RF) (v : Nat), f.addr = REF_STATUS r → π (s.put f v) = π s) :
    π (s.refInvalid r) = π s := by
  unfold State.refInvalid
  extract_lets was s1 _ s2 s3
  have h1 : π s1 = π s := (href _ (REF_STATUS_QUAL_LEFT_S r) _ rfl).trans (href _ (REF_STATUS_STATE r) _ rfl)
  have h2 : π s2 = π s := (h.setRef s1 _ _).trans h1
  have h3 : π s3 = π s := (h.checkDisagree _).trans ((h.raise _ (by decide)).trans h2)
  exact view_ite (view_ite ((h.refreshQual _).trans ((h.choose _).trans h3)) h3) h2

theorem LinkView.lineFail (h : LinkView π) (href : ∀ (s : State) (f : RF) (v : Nat), f.addr = REF_STATUS (4 + k) → π (s.put f v) = π s) :
    π (s.lineFail k) = π s := by
  rw [State.lineFail]
  exact view_ite ((h.refInvalid href).trans ((h.setRef _ _ _).trans (href s (REF_STATUS_ACTIVE (4 + k)) 0 rfl))) rfl

@[simp] theorem State.lineFail_chains : (s.lineFail k).chains = s.chains := linkView_chains.lineFail fun _ _ _ _ => rfl

@[simp] theorem State.lineFail_inbox : (s.lineFail k).inbox = s.inbox := linkView_inbox.lineFail fun _ _ _ _ => rfl

theorem State.get_lineFail {f : RF} (hk : k < 16) (hf : addrBlock f.addr = 0x15) : (s.lineFail k).get f = s.get f :=
  (linkView_get hf).lineFail fun t g v hg => State.get_put_of_block t v (by rw [hf, hg, addrBlock_REF_STATUS (by omega)]; decide)

theorem State.refState_refInvalid (hr : r < 20) : (s.refInvalid r).refState r = rfINVALID := by
  have hview := linkView_refState hr
  unfold State.refInvalid
  extract_lets was s1 _ s2 s3
  have h2 : s2.refState r = rfINVALID := by
    simp only [State.refState, s2, s1]
    rw [show ∀ (t : State) (v : RefSt), (t.setRef r v).get (REF_STATUS_STATE r) = t.get (REF_STATUS_STATE r) from fun _ _ => rfl,
      State.get_put_disjoint, State.get_put_same] <;> simp [REF_STATUS_STATE, REF_STATUS_QUAL_LEFT_S, rfINVALID]
  have h3 : s3.refState r = rfINVALID := (hview.checkDisagree _).trans ((hview.raise _ (by decide)).trans h2)
  split
  · split
    · exact (hview.refreshQual _).trans ((hview.choose _).trans h3)
    · exact h3
  · exact h2

theorem State.refState_lineFail (hk : k < 16) (hoff : s.refState (4 + k) ≠ rfOFF) : (s.lineFail k).refState (4 + k) = rfINVALID := by
  rw [State.lineFail, if_pos hoff]
  exact State.refState_refInvalid (by omega)

end

/-! ### A chain's transmitter puts characters on the lanes (R197 to R199) -/

/-- A chain without its place in the stream, its markers and the running disparities. -/
def ChainSt.offLine (q : ChainSt) : ChainSt := { q with rd := [], mc := 0, pos := 0, aosNext := 0, actAt := 0 }

/-- A state without its chains and what has left it. -/
def State.besideLines (s : State) : State := { s with chains := [], out := [] }

/-- From `s` to `t` chain `k` only puts characters on its lanes. -/
structure State.Speaks (s : State) (k : Nat) (t : State) : Prop where
  beside : t.besideLines = s.besideLines
  others : ∀ j, j ≠ k → t.chain j = s.chain j
  own : (t.chain k).offLine = (s.chain k).offLine
  out : s.out <:+ t.out

namespace State.Speaks

variable {s t u : State} {k : Nat}

theorem refl (s : State) (k : Nat) : s.Speaks k s := ⟨rfl, fun _ _ => rfl, rfl, List.suffix_refl _⟩

theorem trans (h : s.Speaks k t) (h' : t.Speaks k u) : s.Speaks k u :=
  ⟨h'.beside.trans h.beside, fun j hj => (h'.others j hj).trans (h.others j hj), h'.own.trans h.own, h.out.trans h'.out⟩

theorem emitOut (h : s.Speaks k t) (o : Output) : s.Speaks k (t.emitOut o) :=
  h.trans ⟨rfl, fun _ _ => rfl, rfl, List.suffix_cons _ _⟩

theorem setChain (h : s.Speaks k t) {q : ChainSt} (hq : q.offLine = (t.chain k).offLine) : s.Speaks k (t.setChain k q) :=
  h.trans ⟨rfl, fun _ hj => State.chain_set_other t q hj, (congrArg _ (State.chain_set_same t k q)).trans hq, List.suffix_refl _⟩

theorem regs (h : s.Speaks k t) : t.regs = s.regs := (congrArg State.regs h.beside : t.besideLines.regs = s.besideLines.regs)
theorem now (h : s.Speaks k t) : t.now = s.now := (congrArg State.now h.beside : t.besideLines.now = s.besideLines.now)
theorem inbox (h : s.Speaks k t) : t.inbox = s.inbox := (congrArg State.inbox h.beside : t.besideLines.inbox = s.besideLines.inbox)
theorem pkf (h : s.Speaks k t) : t.pkf = s.pkf := (congrArg State.pkf h.beside : t.besideLines.pkf = s.besideLines.pkf)
theorem rd (h : s.Speaks k t) (a : Nat) : t.rd a = s.rd a := (congrArg (State.rd · a) h.beside : t.besideLines.rd a = s.besideLines.rd a)
theorem get (h : s.Speaks k t) (f : RF) : t.get f = s.get f := (congrArg (State.get · f) h.beside : t.besideLines.get f = s.besideLines.get f)
theorem chState (h : s.Speaks k t) (j : Nat) : t.chState j = s.chState j := h.get _
theorem ownDev (h : s.Speaks k t) : t.ownDev = s.ownDev := (congrArg State.ownDev h.beside : t.besideLines.ownDev = s.besideLines.ownDev)

/-- What is read of a chain off its line is as before. -/
theorem of_offLine {γ : Type} (h : s.Speaks k t) (g : ChainSt → γ) (hg : ∀ q : ChainSt, g q.offLine = g q := by intro; rfl) (j : Nat) :
    g (t.chain j) = g (s.chain j) := by
  by_cases hj : j = k
  · rw [hj, ← hg, h.own, hg]
  · rw [h.others j hj]

end State.Speaks

section
variable {s : State} {k : Nat}

theorem ChainSt.offLine_onLane (q : ChainSt) (l : Nat) (cs : List Chr) : (q.onLane l cs).2.offLine = q.offLine := rfl

theorem ChainSt.offLine_onLanes (q : ChainSt) (n : Nat) (f : Nat → List Chr) : (q.onLanes n f).2.offLine = q.offLine :=
  foldl_leaves (l := [0, 1, 2, 3]) (f := fun r l => (r.1 ++ [(r.2.onLane l (f l)).1], (r.2.onLane l (f l)).2))
    (fun r : List (List (Nat × Nat)) × ChainSt => r.2.offLine) (fun r l _ => r.2.offLine_onLane l (f l)) ([], q)

theorem ChainSt.offLine_aosSet (q : ChainSt) : q.aosSet.2.offLine = q.offLine := q.offLine_onLanes 8 (aosChars q.mc)

/-- The AOS that falls due before the next character. -/
def ChainSt.aosDue (q : ChainSt) : List (Nat × Nat) × ChainSt := if q.pos % 4 = 0 ∧ q.aosNext ≤ q.pos then q.aosSet else ([], q)

/-- The chain after one more character of the stream. -/
def ChainSt.charSent (q : ChainSt) (c : Chr) : ChainSt :=
  { (q.aosDue.2.onLane (q.aosDue.2.pos % 4) [c]).2 with pos := q.aosDue.2.pos + 1 }

theorem ChainSt.stream_cons (q : ChainSt) (c : Chr) (cs : List Chr) : q.stream (c :: cs) =
    (q.aosDue.1 ++ (q.aosDue.2.onLane (q.aosDue.2.pos % 4) [c]).1 ++ ((q.charSent c).stream cs).1, ((q.charSent c).stream cs).2) := by
  rw [ChainSt.stream]; rfl

theorem ChainSt.offLine_charSent (q : ChainSt) (c : Chr) : (q.charSent c).offLine = q.offLine := by
  have hdue : q.aosDue.2.offLine = q.offLine := by
    rw [ChainSt.aosDue, apply_ite Prod.snd, apply_ite ChainSt.offLine, ChainSt.offLine_aosSet, ite_self]
  have hchar : ∀ a : ChainSt, ({ (a.onLane (a.pos % 4) [c]).2 with pos := a.pos + 1 } : ChainSt).offLine = a.offLine := fun _ => rfl
  exact (hchar _).trans hdue

theorem ChainSt.offLine_stream (cs : List Chr) : ∀ q : ChainSt, (q.stream cs).2.offLine = q.offLine := by
  induction cs with
  | nil => intro q; rfl
  | cons c cs ih => intro q; rw [ChainSt.stream_cons, ih, ChainSt.offLine_charSent]

theorem State.speaks_fillTo (dest : Nat) : s.Speaks k (s.fillTo k dest) := by
  rw [State.fillTo]
  split
  · exact .refl s k
  · exact ((State.Speaks.refl s k).setChain (by rfl)).emitOut _

theorem State.speaks_sendAosSet : s.Speaks k (s.sendAosSet k) :=
  (((State.speaks_fillTo _).setChain (by exact ChainSt.offLine_aosSet _)).emitOut _).emitOut _

theorem State.speaks_sendStream (cs : List Chr) : s.Speaks k (s.sendStream k cs) :=
  ((State.Speaks.refl s k).setChain (by exact ChainSt.offLine_stream cs _)).emitOut _

theorem State.speaks_sendTos (l : Nat) : s.Speaks k (s.sendTos k l) :=
  (((State.Speaks.refl s k).setChain (by exact ChainSt.offLine_onLane _ _ _)).emitOut _).emitOut _

theorem State.speaks_sendTosAll : s.Speaks k (s.sendTosAll k) :=
  (((State.speaks_sendTos 0).trans (State.speaks_sendTos 1)).trans (State.speaks_sendTos 2)).trans (State.speaks_sendTos 3)

end

end Sys2Proof.Machine

namespace Sys2Proof.Machine

open Reg

/-! ### Registers of a chain and its lanes

A field of a chain's die is given by its offset and bits in block 0x15. -/

theorem kIdx_lt (k : Nat) : kIdx k < 2 := Nat.mod_lt _ (by omega)

section
variable (s : State) (f : RF) (k i n : Nat)

@[simp] theorem State.chain_bump : (s.bump f).chain k = s.chain k := State.chain_put _ _ _ _
@[simp] theorem State.chain_raise : (s.raise f).chain k = s.chain k := State.chain_put _ _ _ _
@[simp] theorem State.chain_putBit (b : Bool) : (s.putBit f i b).chain k = s.chain k := State.chain_put _ _ _ _
@[simp] theorem State.chain_setCh (st : Nat) : (s.setCh i st).chain k = s.chain k := State.chain_put _ _ _ _
@[simp] theorem State.setCh_inbox (st : Nat) : (s.setCh i st).inbox = s.inbox := State.put_inbox _ _ _
@[simp] theorem State.setCh_now (st : Nat) : (s.setCh i st).now = s.now := State.put_now _ _ _
@[simp] theorem State.chain_advance : (s.advance n).chain k = s.chain k := (rfl)
@[simp] theorem State.chain_setTimer : (s.setTimer i n).chain k = s.chain k := (rfl)
@[simp] theorem State.chState_setChain (q : ChainSt) (j : Nat) : (s.setChain k q).chState j = s.chState j := (rfl)

end

/-- What a fold sets at one element and leaves at the others. -/
theorem foldl_sets {σ β γ : Type} (π : σ → γ) {f : σ → β → σ} {l : List β} {x : β} {v : γ} (hset : ∀ s, π (f s x) = v)
    (hkeep : ∀ s, ∀ y ∈ l, y ≠ x → π (f s y) = π s) (hx : x ∈ l) (s : σ) : π (l.foldl f s) = v := by
  induction l generalizing s with
  | nil => cases hx
  | cons y l ih =>
    have hrest : ∀ s, ∀ z ∈ l, z ≠ x → π (f s z) = π s := fun s z hz => hkeep s z (List.mem_cons_of_mem y hz)
    by_cases hl : x ∈ l
    · exact ih hrest hl _
    · obtain rfl : x = y := (List.mem_cons.mp hx).resolve_right hl
      exact (foldl_leaves π (fun s z hz => hrest s z hz (ne_of_mem_of_not_mem hz hl)) _).trans (hset s)

namespace State.OnlyRegs

variable {s t : State} {as : List Nat} (h : s.OnlyRegs t as)
include h

theorem forAll {β : Type} {l : List β} {g : State → β → State} (hg : ∀ u, ∀ x ∈ l, s.OnlyRegs u as → s.OnlyRegs (g u x) as) :
    s.OnlyRegs (forAll l t g) as := by
  induction l generalizing t with
  | nil => exact h
  | cons x l ih => exact ih (hg t x List.mem_cons_self h) fun u y hy => hg u y (List.mem_cons_of_mem x hy)

theorem putBit {f : RF} {i : Nat} {b : Bool} (hf : f.addr ∈ as) : s.OnlyRegs (t.putBit f i b) as := h.put hf

theorem get {f : RF} (hf : f.addr ∉ as) : t.get f = s.get f := State.get_of_rd (h.2 _ hf)

/-- What is read beside the registers is as before. -/
theorem leaves {γ : Type} (π : State → γ) (hπ : ∀ (s : State) (r : Store Word), π { s with regs := r } = π s) : π t = π s :=
  (congrArg π h.1).trans (hπ _ _)

theorem chain (k : Nat) : t.chain k = s.chain k := h.leaves (State.chain · k) fun _ _ => rfl
theorem inbox : t.inbox = s.inbox := h.leaves State.inbox fun _ _ => rfl
theorem pkf : t.pkf = s.pkf := h.leaves State.pkf fun _ _ => rfl

end State.OnlyRegs

section
variable {s : State} {k st l lo w o : Nat} {free : Bool} {f : RF}

theorem addrBlock_of_link {d : Nat} (hf : f = ⟨spanSlot d 0x15 o, lo, w⟩) (ho : o < 2 ^ 36) : addrBlock f.addr = 0x15 := by
  rw [hf]; exact addrBlock_spanSlot d (by omega) ho

/-! ### Lanes enter a state -/

theorem State.get_lanesTo (hf : f = ⟨spanSlot (kDie k) 0x15 o, lo, w⟩) (hst : o ≠ 0x10)
    (hln : ∀ n, o = 0x2000 + 0x100 * n → 3 ≤ lo ∧ lo + w ≤ 16) : (s.lanesTo k st free).get f = s.get f := by
  have hlane : ∀ n, RF.Apart (LN_STATUS_STATE (kDie k) n) f ∧ RF.Apart (LN_STATUS_REQS (kDie k) n) f := fun n => by
    constructor <;> refine RF.apart rfl hf ?_ <;> have := hln n <;> omega
  refine foldl_leaves (State.get · f) (fun t n _ => ?_) s
  have hput : ((t.put (LN_STATUS_STATE (kDie k) (kLane k n)) st).putBit (GWL_STATUS_LANE_TRAINED (kDie k)) (kLane k n) false).get f =
      t.get f := by
    rw [State.get_putBit_apart (by exact RF.apart rfl hf (by omega)), State.get_put_apart (hlane _).1]
  simp only [when]
  split
  · rw [State.get_put_apart (hlane _).2, hput]
  · exact hput

theorem State.laneState_lanesTo (hl : l < 4) (hst : st < 8) : (s.lanesTo k st free).get (LN_STATUS_STATE (kDie k) (kLane k l)) = st := by
  have hown : ∀ t : State, ((t.put (LN_STATUS_STATE (kDie k) (kLane k l)) st).putBit (GWL_STATUS_LANE_TRAINED (kDie k)) (kLane k l) false).get
      (LN_STATUS_STATE (kDie k) (kLane k l)) = st := fun t => by
    rw [State.get_putBit_apart (by exact RF.apart rfl rfl (by omega)), State.get_put_fits (by exact RF.fits rfl (by omega))]
    exact Nat.mod_eq_of_lt hst
  refine foldl_sets (l := [0, 1, 2, 3]) (x := l) (State.get · (LN_STATUS_STATE (kDie k) (kLane k l))) (fun t => ?_) (fun t n _ hn => ?_)
    (by simp; omega) s
  · simp only [when]
    split
    · rw [State.get_put_apart (by exact RF.apart rfl rfl (by omega)), hown]
    · exact hown t
  · have hne : kLane k n ≠ kLane k l := by simp only [kLane]; omega
    have hother : ((t.put (LN_STATUS_STATE (kDie k) (kLane k n)) st).putBit (GWL_STATUS_LANE_TRAINED (kDie k)) (kLane k n) false).get
        (LN_STATUS_STATE (kDie k) (kLane k l)) = t.get (LN_STATUS_STATE (kDie k) (kLane k l)) := by
      rw [State.get_putBit_apart (by exact RF.apart rfl rfl (by omega)), State.get_put_apart (by exact RF.apart rfl rfl (by omega))]
    simp only [when]
    split
    · rw [State.get_put_apart (by exact RF.apart rfl rfl (by omega)), hother]
    · exact hother

/-- The chain with its lanes' training begun anew. -/
def ChainSt.lanesAnew (q : ChainSt) (free : Bool) (now : Nat) : ChainSt :=
  { q with lanes := q.lanes.map fun l => { LaneTrain.reset with rseq := l.rseq, applied := l.applied, echoed := free, echoAt := now } }

/-- The lanes' registers as they enter a state. -/
def State.lanesBegun (s : State) (k st : Nat) : State :=
  forAll [0, 1, 2, 3] s fun s l =>
    when (st == 2) (·.put (LN_STATUS_REQS (kDie k) (kLane k l)) 0)
      ((s.put (LN_STATUS_STATE (kDie k) (kLane k l)) st).putBit (GWL_STATUS_LANE_TRAINED (kDie k)) (kLane k l) false)

/-- The slots of the lanes' states. -/
def laneSlots (k : Nat) : List Nat := GWL_STATUS (kDie k) :: (List.range 4).map fun l => LN_STATUS (kDie k) (kLane k l)

theorem State.onlyRegs_lanesBegun : s.OnlyRegs (s.lanesBegun k st) (laneSlots k) := by
  refine State.OnlyRegs.forAll (s.onlyRegs_refl _) fun t n hn ht => ?_
  have hlane : LN_STATUS (kDie k) (kLane k n) ∈ laneSlots k :=
    List.mem_cons_of_mem _ (List.mem_map.mpr ⟨n, List.mem_range.mpr (by simp at hn; omega), rfl⟩)
  have hput := (ht.put (f := LN_STATUS_STATE (kDie k) (kLane k n)) (v := st) hlane).putBit
    (f := GWL_STATUS_LANE_TRAINED (kDie k)) (i := kLane k n) (b := false) List.mem_cons_self
  simp only [when]
  split
  · exact hput.put hlane
  · exact hput

theorem State.lanesTo_eq : s.lanesTo k st free = (s.lanesBegun k st).setChain k ((s.chain k).lanesAnew free s.now) := by
  have h := (State.onlyRegs_lanesBegun (s := s) (k := k) (st := st))
  rw [← h.chain]
  rfl

theorem State.lanesTo_leaves {γ : Type} (π : State → γ) (hregs : ∀ (s : State) (r : Store Word), π { s with regs := r } = π s)
    (hset : ∀ (s : State) (q : ChainSt), π (s.setChain k q) = π s) : π (s.lanesTo k st free) = π s := by
  rw [State.lanesTo_eq, hset]; exact State.onlyRegs_lanesBegun.leaves π hregs

@[simp] theorem State.chain_lanesTo_same : (s.lanesTo k st free).chain k = (s.chain k).lanesAnew free s.now := by
  rw [State.lanesTo_eq, State.chain_set_same]

theorem State.chain_lanesTo_other {j : Nat} (hj : j ≠ k) : (s.lanesTo k st free).chain j = s.chain j :=
  State.lanesTo_leaves (State.chain · j) (fun _ _ => rfl) fun t q => State.chain_set_other t q hj

@[simp] theorem State.lanesTo_inbox : (s.lanesTo k st free).inbox = s.inbox :=
  State.lanesTo_leaves State.inbox (fun _ _ => rfl) fun _ _ => rfl

@[simp] theorem State.lanesTo_now : (s.lanesTo k st free).now = s.now :=
  State.lanesTo_leaves State.now (fun _ _ => rfl) fun _ _ => rfl

end

end Sys2Proof.Machine

namespace Sys2Proof.Machine

open Reg

section
variable {s : State} {k ns lo w o : Nat} {f : RF}

/-! ### The chain's buckets (R221) -/

@[simp] theorem State.charge_chains (u : UnitId) (b : Nat) (f : RF) : (s.charge u b f).chains = s.chains := by
  rw [State.charge, State.chargeBy]; split <;> rfl

@[simp] theorem State.chain_charge (u : UnitId) (b : Nat) (f : RF) : (s.charge u b f).chain k = s.chain k := by
  rw [State.chain, State.charge_chains, State.chain]

@[simp] theorem State.charge_inbox (u : UnitId) (b : Nat) (f : RF) : (s.charge u b f).inbox = s.inbox := by
  rw [State.charge, State.chargeBy]; split <;> rfl

/-- The RETRAIN bucket of chain k takes one more charge. -/
def State.RtBelow (s : State) (k : Nat) : Prop :=
  s.get (GWL_CH_STATUS_RT_BKT (kDie k) (kIdx k)) + 1 ≤ s.get (GWL_BUCKET_CFG_RT_THRESH (kDie k))

theorem State.RtBelow.congr {t : State} (h : s.RtBelow k)
    (hb : t.get (GWL_CH_STATUS_RT_BKT (kDie k) (kIdx k)) = s.get (GWL_CH_STATUS_RT_BKT (kDie k) (kIdx k)))
    (ht : t.get (GWL_BUCKET_CFG_RT_THRESH (kDie k)) = s.get (GWL_BUCKET_CFG_RT_THRESH (kDie k))) : t.RtBelow k := by
  rw [State.RtBelow, hb, ht]; exact h

/-- A chain's bucket below its threshold, whose field is as wide as the bucket's, gains 1. -/
theorem State.get_charge_of_below {u : UnitId} {b : Nat} {thresh : RF} (hb : s.get f + 1 ≤ s.get thresh) (hwid : thresh.wid = f.wid)
    (hfits : f.lo + f.wid ≤ 72) : (s.charge u b f).get f = s.get f + 1 :=
  State.get_charge_of_lt hb (hwid ▸ State.get_lt s thresh) hfits

theorem State.get_charge_rt (hb : s.RtBelow k) : (s.charge ⟨kDie k, 3, kIdx k⟩ 1 (GWL_CH_STATUS_RT_BKT (kDie k) (kIdx k))).get
    (GWL_CH_STATUS_RT_BKT (kDie k) (kIdx k)) = s.get (GWL_CH_STATUS_RT_BKT (kDie k) (kIdx k)) + 1 :=
  State.get_charge_of_below hb rfl (RF.fits rfl (by omega))

theorem State.rtBucket_of_below (hb : s.RtBelow k) :
    s.rtBucket k = s.charge ⟨kDie k, 3, kIdx k⟩ 1 (GWL_CH_STATUS_RT_BKT (kDie k) (kIdx k)) := by
  rw [State.rtBucket, if_neg]
  rw [State.get_charge_rt hb]
  exact Nat.not_lt.mpr hb

theorem State.get_charge_crc (hb : s.get (GWL_CH_STATUS_CRC_BKT (kDie k) (kIdx k)) + 1 ≤ s.get (GWL_BUCKET_CFG_CRC_THRESH (kDie k))) :
    (s.charge ⟨kDie k, 3, kIdx k⟩ 0 (GWL_CH_STATUS_CRC_BKT (kDie k) (kIdx k))).get (GWL_CH_STATUS_CRC_BKT (kDie k) (kIdx k)) =
      s.get (GWL_CH_STATUS_CRC_BKT (kDie k) (kIdx k)) + 1 :=
  State.get_charge_of_below hb rfl (RF.fits rfl (by omega))

theorem State.crcBucket_of_below (hb : s.get (GWL_CH_STATUS_CRC_BKT (kDie k) (kIdx k)) + 1 ≤ s.get (GWL_BUCKET_CFG_CRC_THRESH (kDie k))) :
    s.crcBucket k = s.charge ⟨kDie k, 3, kIdx k⟩ 0 (GWL_CH_STATUS_CRC_BKT (kDie k) (kIdx k)) := by
  rw [State.crcBucket, if_neg]
  rw [State.get_charge_crc hb]
  exact Nat.not_lt.mpr hb

/-! ### A sleeping direction wakes (R223) -/

/-- What a waking direction sends: its driver, the COMs and one AOS. -/
def State.wakeSent (s : State) (k : Nat) : State := ((s.emitOut (.wake k)).emitOut (.fill k 4096)).sendAosSet k

theorem State.speaks_wakeSent : s.Speaks k (s.wakeSent k) :=
  (((State.Speaks.refl s k).emitOut _).emitOut _).trans State.speaks_sendAosSet

theorem State.chainTxAwake_leaves {γ : Type} (π : State → γ) (hput : ∀ s f v, π (s.put f v) = π s) : π (s.chainTxAwake k) = π s := by
  rw [State.chainTxAwake, State.putBit, hput, hput]
  split
  · exact hput _ _ _
  · rfl

theorem State.wakeTx_leaves {γ : Type} (π : State → γ) (hput : ∀ s f v, π (s.put f v) = π s)
    (hnow : ∀ s t, π (State.advance s t) = π s) : π (s.wakeTx k ns) = π (s.wakeSent k) := by
  rw [State.wakeTx]
  exact (hput _ _ _).trans ((State.chainTxAwake_leaves π hput).trans (hnow _ _))

@[simp] theorem State.chain_wakeTx (j : Nat) : (s.wakeTx k ns).chain j = (s.wakeSent k).chain j :=
  State.wakeTx_leaves (State.chain · j) (fun _ _ _ => rfl) fun _ _ => rfl

@[simp] theorem State.wakeTx_inbox : (s.wakeTx k ns).inbox = s.inbox :=
  (State.wakeTx_leaves State.inbox (fun _ _ _ => rfl) fun _ _ => rfl).trans State.speaks_wakeSent.inbox

theorem State.get_wakeTx (hf : f = ⟨spanSlot (kDie k) 0x15 o, lo, w⟩) (hst : o ≠ 0x10) (hslp : o ≠ 0x1070 + 0x400 * kIdx k)
    (hch : o = 0x1020 + 0x400 * kIdx k → lo + w ≤ 3 ∨ 5 ≤ lo) : (s.wakeTx k ns).get f = s.get f := by
  unfold State.wakeTx
  extract_lets d c n s1 s2
  have h1 : s1.get f = s.get f := State.speaks_wakeSent.get f
  have h2 : s2.get f = s1.get f := by
    simp only [s2, State.chainTxAwake]
    rw [State.get_putBit_apart (by exact RF.apart rfl hf (by omega)), State.get_put_apart (by exact RF.apart rfl hf (by omega))]
    split
    · exact State.get_put_apart (by exact RF.apart rfl hf (by omega))
    · rfl
  rw [State.get_put_apart (by exact RF.apart rfl hf (by omega)), h2, h1]

/-! ### Retraining (R202, R221) -/

/-- The chain with its transmit direction awake. -/
def State.roused (s : State) (k : Nat) : State :=
  if s.get (GWL_CH_STATUS_TX_SLEEP (kDie k) (kIdx k)) = 0 then s else (s.draw 16).2.wakeTx k (s.draw 16).1

/-- An awake chain in TRAIN again, before its reference is told and its ordered sets go out. -/
def State.backToTrain (s : State) (k : Nat) : State :=
  let d := kDie k
  let c := kIdx k
  let s1 := ((s.setCh k csTRAIN).putBit (GWL_STATUS_CH_ACTIVE d) c false).raise (GWL_EVENTS_RETRAIN d)
  let s2 := ((s1.bump (CH_COUNT1_RETRAINS d c)).put (GWL_CH_STATUS_REPLAYS d c) 0).lanesTo k 2 true
  let s3 := (s2.put (GWL_CH_STATUS_RX_SLEEP d c) 0).putBit (GWL_STATUS_RX_ASLEEP d) c false
  s3.setChain k { s3.chain k with aosBad := 0, resend := [] }

theorem State.retrainFree_eq : s.retrainFree k = (((s.roused k).backToTrain k).lineFail k).sendTosAll k := rfl

theorem State.get_backToTrain (hf : f = ⟨spanSlot (kDie k) 0x15 o, lo, w⟩) (hst : o ≠ 0x10) (hev : o = 0x20 → lo + w ≤ 2 ∨ 3 ≤ lo)
    (hcnt : o ≠ 0x1090 + 0x400 * kIdx k) (hch : o = 0x1020 + 0x400 * kIdx k → 12 ≤ lo)
    (hln : ∀ n, o = 0x2000 + 0x100 * n → 3 ≤ lo ∧ lo + w ≤ 16) : (s.backToTrain k).get f = s.get f := by
  simp only [State.backToTrain]
  rw [State.get_setChain, State.get_putBit_apart (by exact RF.apart rfl hf (by omega)),
    State.get_put_apart (by exact RF.apart rfl hf (by omega)), State.get_lanesTo hf hst hln,
    State.get_put_apart (by exact RF.apart rfl hf (by omega)), State.get_bump_apart (by exact RF.apart rfl hf (by omega)),
    State.get_raise_apart (by exact RF.apart rfl hf (by omega)), State.get_putBit_apart (by exact RF.apart rfl hf (by omega)),
    State.setCh, State.get_put_apart (by exact RF.apart rfl hf (by omega))]

theorem State.chState_setCh {st : Nat} (hst : st < 8) : (s.setCh k st).chState k = st := by
  rw [State.chState, State.setCh, State.get_put_fits (by exact RF.fits rfl (by omega))]
  exact Nat.mod_eq_of_lt hst

theorem State.chState_backToTrain : (s.backToTrain k).chState k = csTRAIN := by
  have hc := kIdx_lt k
  simp only [State.backToTrain, State.chState]
  rw [State.get_setChain, State.get_putBit_apart (by exact RF.apart rfl rfl (by omega)),
    State.get_put_apart (by exact RF.apart rfl rfl (by omega)), State.get_lanesTo (by exact rfl) (by omega) (by omega),
    State.get_put_apart (by exact RF.apart rfl rfl (by omega)), State.get_bump_apart (by exact RF.apart rfl rfl (by omega)),
    State.get_raise_apart (by exact RF.apart rfl rfl (by omega)), State.get_putBit_apart (by exact RF.apart rfl rfl (by omega))]
  exact State.chState_setCh (by decide)

theorem State.replay_backToTrain (j : Nat) : ((s.backToTrain k).chain j).replay = (s.chain j).replay := by
  simp only [State.backToTrain]
  by_cases hj : j = k
  · subst hj
    rw [State.chain_set_same, State.chain_putBit, State.chain_put, State.chain_lanesTo_same]
    simp [ChainSt.lanesAnew]
  · rw [State.chain_set_other _ _ hj, State.chain_putBit, State.chain_put, State.chain_lanesTo_other hj]
    simp

theorem State.backToTrain_inbox : (s.backToTrain k).inbox = s.inbox := by
  simp [State.backToTrain]

theorem State.get_roused (hf : f = ⟨spanSlot (kDie k) 0x15 o, lo, w⟩) (hst : o ≠ 0x10) (hslp : o ≠ 0x1070 + 0x400 * kIdx k)
    (hch : o = 0x1020 + 0x400 * kIdx k → lo + w ≤ 3 ∨ 5 ≤ lo) : (s.roused k).get f = s.get f := by
  rw [State.roused]
  split
  · rfl
  · exact (State.get_wakeTx hf hst hslp hch).trans (State.get_draw 16 f)

theorem State.replay_roused (j : Nat) : ((s.roused k).chain j).replay = (s.chain j).replay := by
  rw [State.roused]
  split
  · rfl
  · rw [State.chain_wakeTx]
    exact State.speaks_wakeSent.of_offLine ChainSt.replay (j := j)

theorem State.roused_inbox : (s.roused k).inbox = s.inbox := by
  rw [State.roused]
  split
  · rfl
  · exact State.wakeTx_inbox

/-- What a retrain below the bucket's threshold leaves of a field of its die. -/
theorem State.get_retrainFree (hk : k < 16) (hf : f = ⟨spanSlot (kDie k) 0x15 o, lo, w⟩) (ho : o < 2 ^ 36) (hst : o ≠ 0x10)
    (hev : o = 0x20 → lo + w ≤ 2 ∨ 3 ≤ lo) (hslp : o ≠ 0x1070 + 0x400 * kIdx k)
    (hcnt : o ≠ 0x1090 + 0x400 * kIdx k) (hch : o = 0x1020 + 0x400 * kIdx k → 12 ≤ lo)
    (hln : ∀ n, o = 0x2000 + 0x100 * n → 3 ≤ lo ∧ lo + w ≤ 16) : (s.retrainFree k).get f = s.get f := by
  rw [State.retrainFree_eq, State.speaks_sendTosAll.get, State.get_lineFail hk (addrBlock_of_link hf ho),
    State.get_backToTrain hf hst hev hcnt hch hln, State.get_roused hf hst hslp (by omega)]

theorem State.chState_retrainFree (hk : k < 16) : (s.retrainFree k).chState k = csTRAIN := by
  have hc := kIdx_lt k
  rw [State.retrainFree_eq, State.speaks_sendTosAll.chState]
  exact (State.get_lineFail hk (addrBlock_of_link rfl (by omega))).trans State.chState_backToTrain

theorem State.replay_retrainFree (j : Nat) : ((s.retrainFree k).chain j).replay = (s.chain j).replay := by
  rw [State.retrainFree_eq, State.speaks_sendTosAll.of_offLine ChainSt.replay]
  rw [State.chain, State.lineFail_chains]
  exact (State.replay_backToTrain j).trans (State.replay_roused j)

theorem State.retrainFree_inbox : (s.retrainFree k).inbox = s.inbox := by
  rw [State.retrainFree_eq, State.speaks_sendTosAll.inbox, State.lineFail_inbox, State.backToTrain_inbox, State.roused_inbox]

section
variable (hk : k < 16) (hb : s.RtBelow k)
include hk hb

theorem State.retrain_of_below :
    s.retrain k = (s.retrainFree k).charge ⟨kDie k, 3, kIdx k⟩ 1 (GWL_CH_STATUS_RT_BKT (kDie k) (kIdx k)) := by
  have hc := kIdx_lt k
  refine State.rtBucket_of_below (hb.congr ?_ ?_) <;> refine State.get_retrainFree hk rfl ?_ ?_ ?_ ?_ ?_ ?_ ?_ <;> omega

theorem State.chState_retrain : (s.retrain k).chState k = csTRAIN := by
  rw [State.retrain_of_below hk hb, State.chState, State.get_charge_apart (by exact RF.apart rfl rfl (by omega))]
  exact State.chState_retrainFree hk

theorem State.get_retrain (hf : f = ⟨spanSlot (kDie k) 0x15 o, lo, w⟩) (ho : o < 2 ^ 36) (hst : o ≠ 0x10)
    (hev : o = 0x20 → lo + w ≤ 2 ∨ 3 ≤ lo) (hslp : o ≠ 0x1070 + 0x400 * kIdx k) (hcnt : o ≠ 0x1090 + 0x400 * kIdx k)
    (hch : o ≠ 0x1020 + 0x400 * kIdx k) (hln : ∀ n, o = 0x2000 + 0x100 * n → 3 ≤ lo ∧ lo + w ≤ 16) :
    (s.retrain k).get f = s.get f := by
  rw [State.retrain_of_below hk hb, State.get_charge_apart (by exact RF.apart rfl hf (by omega)),
    State.get_retrainFree hk hf ho hst hev hslp hcnt (by omega) hln]

theorem State.replay_retrain (j : Nat) : ((s.retrain k).chain j).replay = (s.chain j).replay := by
  rw [State.retrain_of_below hk hb, State.chain_charge, State.replay_retrainFree]

theorem State.retrain_inbox : (s.retrain k).inbox = s.inbox := by
  rw [State.retrain_of_below hk hb, State.charge_inbox, State.retrainFree_inbox]

end

end

end Sys2Proof.Machine

namespace Sys2Proof.Machine

open Reg

/-! ### A deaccession leaves the training of lanes as it was (R220, R221) -/

/-- The training of every chain's lanes. -/
def State.laneTrainings (s : State) (k : Nat) : List LaneTrain := (s.chain k).lanes

theorem linkView_laneTrainings : LinkView State.laneTrainings :=
  ⟨fun _ _ _ _ => rfl, fun s t h => (congrArg State.laneTrainings h : t.linkPart.laneTrainings = s.linkPart.laneTrainings)⟩

section
variable {s : State} {k : Nat}

theorem State.laneTrainings_put (f : RF) (v : Nat) : (s.put f v).laneTrainings = s.laneTrainings := (rfl)

theorem State.laneTrainings_setChain {q : ChainSt} (hq : q.lanes = (s.chain k).lanes) : (s.setChain k q).laneTrainings = s.laneTrainings := by
  funext j
  by_cases hj : j = k
  · rw [State.laneTrainings, hj, State.chain_set_same, hq, State.laneTrainings]
  · rw [State.laneTrainings, State.chain_set_other _ _ hj, State.laneTrainings]

theorem State.laneTrainings_enqueue (p : Pkt) : (s.enqueue k p).laneTrainings = s.laneTrainings := by
  rw [State.enqueue]
  split <;> exact State.laneTrainings_setChain rfl

theorem State.laneTrainings_cross (d e : Nat) (c : Option Nat) (p : Pkt) : (s.cross d e c p).laneTrainings = s.laneTrainings := by
  unfold State.cross
  split
  · split
    · exact State.laneTrainings_enqueue p
    · exact view_ite rfl rfl
  · split <;> rfl

theorem State.laneTrainings_sendUni (d : Nat) (p : Pkt) (orig : Bool) : (s.sendUni d p orig).laneTrainings = s.laneTrainings := by
  have hview := linkView_laneTrainings
  unfold State.sendUni
  extract_lets t
  refine view_ite (State.laneTrainings_cross _ _ _ _) ?_
  split
  · rw [State.laneTrainings_cross, State.laneTrainings_put]
    exact view_ite (State.laneTrainings_put _ _) rfl
  · rw [hview.emit, State.raise, State.laneTrainings_put]
    rfl

theorem State.laneTrainings_showChain : (s.showChain k).laneTrainings = s.laneTrainings := by
  simp only [State.showChain, State.laneTrainings_put]
  exact State.laneTrainings_setChain rfl

theorem State.laneTrainings_resend (r t : Nat) : (s.resend r t).laneTrainings = s.laneTrainings := by
  have hshow : ∀ u : State, (u.showTarget r t).laneTrainings = u.laneTrainings := fun u => by
    unfold State.showTarget
    extract_lets q a infl s1
    exact view_ite (by simp only [State.laneTrainings_put, s1]) (by simp only [State.laneTrainings_put, s1])
  rw [State.resend]
  refine view_ite rfl ?_
  rw [State.raise, State.laneTrainings_put, State.bump, State.bumpBy, State.laneTrainings_put, hshow]
  rfl

theorem State.laneTrainings_deaccChain (b : Nat) : (s.deaccChain k b).laneTrainings = s.laneTrainings := by
  have hview := linkView_laneTrainings
  unfold State.deaccChain
  refine view_ite rfl ?_
  extract_lets d c via q back s1 s2 s3 s4
  have h1 : s1.laneTrainings = s.laneTrainings := by
    simp only [s1, State.putBit, State.setCh, State.laneTrainings_put]
  have h2 : s2.laneTrainings = s1.laneTrainings := by
    refine (hview.beginFault _ _ _).trans ((State.laneTrainings_setChain ?_).trans (State.laneTrainings_put _ _))
    rw [State.chain_raise]
    exact (congrFun h1 k).symm
  have h3 : s3.laneTrainings = s2.laneTrainings := hview.deaccUnit _ _ _ _ _ _ _
  have h4 : s4.laneTrainings = s3.laneTrainings := foldl_leaves State.laneTrainings (fun t p _ => State.laneTrainings_sendUni _ _ _) s3
  have hline : ∀ t : State, (t.lineFail k).laneTrainings = t.laneTrainings := fun t => hview.lineFail fun _ _ _ _ => rfl
  have hresend : ∀ (t : State) l, (t.resendAll l).laneTrainings = t.laneTrainings := fun t l =>
    foldl_leaves State.laneTrainings (fun t e _ => State.laneTrainings_resend e.1 e.2) t
  rw [hview.recoverFault, hresend, hview.upstreamLost, hline, State.laneTrainings_showChain, h4, h3, h2, h1]

end

end Sys2Proof.Machine

namespace Sys2Proof.Machine

open Reg

/-! ### Signal and symbol lock (R202, R204, R205) -/

/-- Lanes in TRAIN with their symbol lock. -/
def State.lanesLocked (s : State) (k : Nat) (free : Bool) : State :=
  forAll [0, 1, 2, 3] ((s.setCh k csTRAIN).lanesTo k 2 free) fun s l => s.put (LN_STATUS_SYMLOCK (kDie k) (kLane k l)) 1

/-- The preset taps on every lane. -/
def State.tapsPreset (s : State) (k : Nat) : State :=
  forAll [0, 1, 2, 3] s fun s l => ((s.put (LN_TAPS_PRE (kDie k) (kLane k l)) 0).put (LN_TAPS_MAIN (kDie k) (kLane k l)) 52).put
    (LN_TAPS_POST (kDie k) (kLane k l)) 8

/-- A chain whose first TRAIN after OFF begins asks for the PRESET. -/
def ChainSt.firstTrained (q : ChainSt) : ChainSt :=
  { q with firstTrain := false, lanes := q.lanes.map fun l => { l with req := 64, rseq := (l.rseq + 1) % 256 } }

section
variable {s : State} {k l : Nat} {free : Bool}

theorem exec_signalDetect_of_first (hst : s.chState k = csDETECT) (hfirst : (s.chain k).firstTrain = true) :
    exec (.signalDetect k) s = .next ((((s.lanesLocked k false).tapsPreset k).setChain k
      (((s.lanesLocked k false).tapsPreset k).chain k).firstTrained).sendTosAll k) := by
  change execSignalDetect k s = _
  rw [execSignalDetect, if_pos hst]
  simp only [hfirst, if_true]
  rfl

theorem exec_signalDetect_of_again (hst : s.chState k = csDETECT) (hfirst : (s.chain k).firstTrain = false) :
    exec (.signalDetect k) s = .next ((s.lanesLocked k true).sendTosAll k) := by
  change execSignalDetect k s = _
  rw [execSignalDetect, if_pos hst]
  simp only [hfirst]
  rfl

theorem mem_lanes (hl : l < 4) : l ∈ [0, 1, 2, 3] := by simp; omega

theorem kLane_ne {n : Nat} (h : n ≠ l) : kLane k n ≠ kLane k l := by simp only [kLane]; omega

theorem State.chain_lanesLocked (j : Nat) : (s.lanesLocked k free).chain j = ((s.setCh k csTRAIN).lanesTo k 2 free).chain j :=
  foldl_leaves (State.chain · j) (fun _ _ _ => State.chain_put _ _ _ _) _

theorem State.chain_tapsPreset (j : Nat) : (s.tapsPreset k).chain j = s.chain j :=
  foldl_leaves (State.chain · j) (fun _ _ _ => by simp only [State.chain_put]) s

theorem State.get_tapsPreset {f : RF} {o lo w : Nat} (hf : f = ⟨spanSlot (kDie k) 0x15 o, lo, w⟩)
    (ho : ∀ n, o ≠ 0x2010 + 0x100 * n) : (s.tapsPreset k).get f = s.get f :=
  foldl_leaves (State.get · f) (fun t n _ => by
    have := ho (kLane k n)
    rw [State.get_put_apart (by exact RF.apart rfl hf (by omega)), State.get_put_apart (by exact RF.apart rfl hf (by omega)),
      State.get_put_apart (by exact RF.apart rfl hf (by omega))]) s

theorem State.chState_lanesLocked : (s.lanesLocked k free).chState k = csTRAIN := by
  have hc := kIdx_lt k
  refine (foldl_leaves (State.chState · k) (fun t n _ => State.get_put_apart (by exact RF.apart rfl rfl (by omega))) _).trans ?_
  rw [State.chState, State.get_lanesTo (by exact rfl) (by omega) (by omega)]
  exact State.chState_setCh (by decide)

theorem State.laneState_lanesLocked (hl : l < 4) : (s.lanesLocked k free).get (LN_STATUS_STATE (kDie k) (kLane k l)) = 2 :=
by
  refine (foldl_leaves (State.get · (LN_STATUS_STATE (kDie k) (kLane k l)))
    (fun t n _ => State.get_put_apart (by exact RF.apart rfl rfl (by omega))) _).trans ?_
  exact State.laneState_lanesTo hl (by omega)

theorem State.symlock_lanesLocked (hl : l < 4) : (s.lanesLocked k free).get (LN_STATUS_SYMLOCK (kDie k) (kLane k l)) = 1 := by
  rw [State.lanesLocked, forAll]
  refine foldl_sets (State.get · (LN_STATUS_SYMLOCK (kDie k) (kLane k l))) (fun t => ?_) (fun t n _ hn => ?_) (mem_lanes hl) _
  · exact State.get_put_fits (by exact RF.fits rfl (by omega))
  · have := kLane_ne (k := k) hn
    exact State.get_put_apart (by exact RF.apart rfl rfl (by omega))

theorem State.rd_lanesTo {a st : Nat} (ha : a ∉ laneSlots k) : (s.lanesTo k st free).rd a = s.rd a := by
  rw [State.lanesTo_eq, State.rd_setChain]
  exact State.onlyRegs_lanesBegun.2 a ha

theorem LN_TAPS_notMem_laneSlots : LN_TAPS (kDie k) (kLane k l) ∉ laneSlots k := by
  simp only [laneSlots, List.mem_cons, List.mem_map, not_or, not_exists, not_and]
  exact ⟨spanSlot_ne rfl rfl (by omega), fun n _ => spanSlot_ne rfl rfl (by omega)⟩

theorem State.rd_taps_lanesLocked : (s.lanesLocked k free).rd (LN_TAPS (kDie k) (kLane k l)) = s.rd (LN_TAPS (kDie k) (kLane k l)) := by
  have hc := kIdx_lt k
  refine (foldl_leaves (State.rd · (LN_TAPS (kDie k) (kLane k l)))
    (fun t n _ => State.rd_put_other (spanSlot_ne rfl rfl (by omega))) _).trans ?_
  exact (State.rd_lanesTo LN_TAPS_notMem_laneSlots).trans (State.rd_put_other (spanSlot_ne rfl rfl (by omega)))

/-- The taps of a lane. -/
def State.tapsOf (s : State) (d n : Nat) : Nat × Nat × Nat := (s.get (LN_TAPS_PRE d n), s.get (LN_TAPS_MAIN d n), s.get (LN_TAPS_POST d n))

theorem State.taps_put {d n p m q : Nat} :
    (((s.put (LN_TAPS_PRE d n) p).put (LN_TAPS_MAIN d n) m).put (LN_TAPS_POST d n) q).tapsOf d n = (p % 2 ^ 4, m % 2 ^ 6, q % 2 ^ 5) := by
  simp only [State.tapsOf, Prod.mk.injEq]
  refine ⟨?_, ?_, ?_⟩
  · rw [State.get_put_apart (by exact RF.apart rfl rfl (by omega)), State.get_put_apart (by exact RF.apart rfl rfl (by omega))]
    exact State.get_put_fits (RF.fits rfl (by omega))
  · rw [State.get_put_apart (by exact RF.apart rfl rfl (by omega))]
    exact State.get_put_fits (RF.fits rfl (by omega))
  · exact State.get_put_fits (RF.fits rfl (by omega))

theorem State.tapsOf_of_rd {t : State} {d n : Nat} (h : t.rd (LN_TAPS d n) = s.rd (LN_TAPS d n)) : t.tapsOf d n = s.tapsOf d n := by
  rw [State.tapsOf, State.get_of_rd h, State.get_of_rd (f := LN_TAPS_MAIN d n) h, State.get_of_rd (f := LN_TAPS_POST d n) h, State.tapsOf]

theorem State.tapsOf_tapsPreset (hl : l < 4) : (s.tapsPreset k).tapsOf (kDie k) (kLane k l) = (0, 52, 8) := by
  rw [State.tapsPreset, forAll]
  refine foldl_sets (State.tapsOf · (kDie k) (kLane k l)) (fun t => ?_) (fun t n _ hn => State.tapsOf_of_rd ?_) (mem_lanes hl) _
  · simp only [State.taps_put]
    norm_num
  · have := kLane_ne (k := k) hn
    rw [State.rd_put_other (by exact spanSlot_ne rfl rfl (by omega)), State.rd_put_other (by exact spanSlot_ne rfl rfl (by omega)),
      State.rd_put_other (by exact spanSlot_ne rfl rfl (by omega))]

/-- Signal and symbol lock in DETECT: TRAIN, and the first time the preset. -/
theorem signalDetect_trains (hst : s.chState k = csDETECT) :
    ∃ t : State, exec (.signalDetect k) s = .next t ∧ t.chState k = csTRAIN ∧ (∀ j, j ≠ k → t.chain j = s.chain j) ∧ ∀ l, l < 4 →
      t.get (LN_STATUS_STATE (kDie k) (kLane k l)) = 2 ∧ t.get (LN_STATUS_SYMLOCK (kDie k) (kLane k l)) = 1 ∧
      ((s.chain k).firstTrain = true → (t.chain k).firstTrain = false ∧ t.tapsOf (kDie k) (kLane k l) = (0, 52, 8)) ∧
      ((s.chain k).firstTrain = false → t.rd (LN_TAPS (kDie k) (kLane k l)) = s.rd (LN_TAPS (kDie k) (kLane k l))) := by
  have hothers : ∀ (free : Bool) (j : Nat), j ≠ k → (s.lanesLocked k free).chain j = s.chain j := fun free j hj => by
    rw [State.chain_lanesLocked, State.chain_lanesTo_other hj, State.chain_setCh]
  by_cases hfirst : (s.chain k).firstTrain = true
  · set t := ((s.lanesLocked k false).tapsPreset k).setChain k (((s.lanesLocked k false).tapsPreset k).chain k).firstTrained with ht
    have hspeak : t.Speaks k (t.sendTosAll k) := State.speaks_sendTosAll
    have hkeep : ∀ {f : RF} {o lo w : Nat}, f = ⟨spanSlot (kDie k) 0x15 o, lo, w⟩ → (∀ n, o ≠ 0x2010 + 0x100 * n) →
        (t.sendTosAll k).get f = (s.lanesLocked k false).get f := fun hf ho => by
      rw [hspeak.get, ht, State.get_setChain, State.get_tapsPreset hf ho]
    refine ⟨_, exec_signalDetect_of_first hst hfirst, ?_, fun j hj => ?_, fun l hl => ⟨?_, ?_, fun _ => ⟨?_, ?_⟩, fun h => ?_⟩⟩
    · exact (hkeep rfl (by have := kIdx_lt k; omega)).trans State.chState_lanesLocked
    · rw [hspeak.others j hj, ht, State.chain_set_other _ _ hj, State.chain_tapsPreset, hothers _ j hj]
    · exact (hkeep rfl (by omega)).trans (State.laneState_lanesLocked hl)
    · exact (hkeep rfl (by omega)).trans (State.symlock_lanesLocked hl)
    · rw [hspeak.of_offLine ChainSt.firstTrain, ht, State.chain_set_same, ChainSt.firstTrained]
    · rw [State.tapsOf_of_rd (hspeak.rd _), ht, State.tapsOf_of_rd (State.rd_setChain _ _ _ _), State.tapsOf_tapsPreset hl]
    · simp [hfirst] at h
  · have hagain := Bool.eq_false_iff.mpr hfirst
    have hspeak : (s.lanesLocked k true).Speaks k ((s.lanesLocked k true).sendTosAll k) := State.speaks_sendTosAll
    refine ⟨_, exec_signalDetect_of_again hst hagain, ?_, fun j hj => ?_, fun l hl => ⟨?_, ?_, fun h => absurd h hfirst, fun _ => ?_⟩⟩
    · exact (hspeak.chState k).trans State.chState_lanesLocked
    · exact (hspeak.others j hj).trans (hothers _ j hj)
    · exact (hspeak.get _).trans (State.laneState_lanesLocked hl)
    · exact (hspeak.get _).trans (State.symlock_lanesLocked hl)
    · exact (hspeak.rd _).trans State.rd_taps_lanesLocked

end

end Sys2Proof.Machine

namespace Sys2Proof.Machine

open Reg

section
variable {s : State} {k lane : Nat}

/-! ### A lane's training fails (R202, R221) -/

theorem State.onlyRegs_laneErrs {code disp : Nat} : s.OnlyRegs (s.laneErrs k lane code disp) [LN_ERRCNT (kDie k) (kLane k lane)] :=
  ((s.onlyRegs_refl _).put (by exact List.mem_singleton.mpr rfl)).put (by exact List.mem_singleton.mpr rfl)

theorem State.get_laneErrs {f : RF} {code disp o lo w : Nat} (hf : f = ⟨spanSlot (kDie k) 0x15 o, lo, w⟩) (ho : o ≠ 0x2030 + 0x100 * kLane k lane) :
    (s.laneErrs k lane code disp).get f = s.get f :=
  State.onlyRegs_laneErrs.get (by rw [List.mem_singleton, hf]; exact spanSlot_ne rfl rfl ho)

/-- The training of one lane marked failed. -/
def LaneTrain.lost (l : LaneTrain) : LaneTrain := { l with failed := true }

/-- A lane marked failed, before its attempt is counted. -/
def State.laneLost (s : State) (k lane : Nat) : State :=
  (s.put (LN_STATUS_STATE (kDie k) (kLane k lane)) 4).setChain k { s.chain k with lanes := (s.chain k).lanes.modify lane .lost }

/-- The failed attempt counted, its bucket not yet charged. -/
def State.attemptLost (s : State) (k lane : Nat) : State :=
  (s.laneLost k lane).setChain k { (s.laneLost k lane).chain k with tries := ((s.laneLost k lane).chain k).tries + 1, failAt := s.now }

theorem State.laneFailed_eq : s.laneFailed k lane =
    if ((s.chain k).lanes.all fun l => !l.failed) = true then
      if s.get (GWL_TIMERS_TRAIN_TRIES (kDie k)) ≤ ((s.laneLost k lane).chain k).tries + 1 then ((s.attemptLost k lane).rtBucket k).deaccChain k 2
      else (s.attemptLost k lane).rtBucket k
    else s.laneLost k lane := by
  unfold State.laneFailed State.attemptLost
  extract_lets q first s1
  have h1 : s1 = s.laneLost k lane := rfl
  clear_value s1
  subst h1
  rfl

theorem State.chain_attemptLost : (s.attemptLost k lane).chain k =
    { s.chain k with lanes := (s.chain k).lanes.modify lane .lost, tries := (s.chain k).tries + 1, failAt := s.now } := by
  have hlost : (s.laneLost k lane).chain k = { s.chain k with lanes := (s.chain k).lanes.modify lane .lost } := State.chain_set_same _ _ _
  rw [State.attemptLost, State.chain_set_same, hlost]

theorem State.get_attemptLost {f : RF} : (s.attemptLost k lane).get f = (s.put (LN_STATUS_STATE (kDie k) (kLane k lane)) 4).get f := by
  rw [State.attemptLost, State.get_setChain, State.laneLost, State.get_setChain]

theorem State.laneTrainings_rtBucket : (s.rtBucket k).laneTrainings = s.laneTrainings := by
  have hcharge : ∀ u b f, (s.charge u b f).laneTrainings = s.laneTrainings := fun u b f => by
    funext j
    rw [State.laneTrainings, State.chain_charge, State.laneTrainings]
  rw [State.rtBucket]
  split
  · rw [State.laneTrainings_deaccChain, hcharge]
  · exact hcharge _ _ _

/-- Whatever follows a failed attempt, its lane is the one marked. -/
theorem State.laneTrainings_laneFailed : (s.laneFailed k lane).laneTrainings k = (s.chain k).lanes.modify lane .lost := by
  have hlost : (s.laneLost k lane).laneTrainings k = (s.chain k).lanes.modify lane .lost := by
    rw [State.laneTrainings, State.laneLost, State.chain_set_same]
  have hattempt : (s.attemptLost k lane).laneTrainings k = (s.chain k).lanes.modify lane .lost := by
    rw [State.laneTrainings, State.chain_attemptLost]
  rw [State.laneFailed_eq]
  split
  · split
    · rw [State.laneTrainings_deaccChain, State.laneTrainings_rtBucket, hattempt]
    · rw [State.laneTrainings_rtBucket, hattempt]
  · exact hlost

theorem State.laneFailed_of_first (hfirst : ((s.chain k).lanes.all fun l => !l.failed) = true) (hb : s.RtBelow k)
    (htries : (s.chain k).tries + 1 < s.get (GWL_TIMERS_TRAIN_TRIES (kDie k))) : s.laneFailed k lane =
      (s.attemptLost k lane).charge ⟨kDie k, 3, kIdx k⟩ 1 (GWL_CH_STATUS_RT_BKT (kDie k) (kIdx k)) ∧ (s.attemptLost k lane).RtBelow k := by
  have hc := kIdx_lt k
  have hb' : (s.attemptLost k lane).RtBelow k := by
    refine hb.congr ?_ ?_ <;> rw [State.get_attemptLost] <;> exact State.get_put_apart (by exact RF.apart rfl rfl (by omega))
  refine ⟨?_, hb'⟩
  rw [State.laneFailed_eq, if_pos hfirst, if_neg, State.rtBucket_of_below hb']
  rw [State.laneLost, State.chain_set_same]
  exact Nat.not_le.mpr htries

/-! ### A training ordered set is read (R203, R204) -/

theorem exec_tosReceived_of_read {groups : List Nat} {pos inv : Bool} {o : Tos} (hst : s.chState k = csTRAIN) (hlane : lane < 4)
    (hread : readTos (readLane pos (groups.map fun g => if inv then 1023 - g else g)).1 = some o) :
    exec (.tosReceived k lane groups pos inv) s = .next ((s.laneErrs k lane
      (readLane pos (groups.map fun g => if inv then 1023 - g else g)).2.1
      (readLane pos (groups.map fun g => if inv then 1023 - g else g)).2.2).takeTos k lane o) := by
  change execTosReceived k lane groups s pos inv = _
  rw [execTosReceived, if_pos ⟨.inl hst, hlane⟩]
  simp only [hread]
  rfl

/-- The partner's identity noted. -/
def State.peerNoted (s : State) (k : Nat) (o : Tos) : State :=
  (s.put (CH_PEER_RX_DEV (kDie k) (kIdx k)) o.dev).put (CH_PEER_RX_CHAIN (kDie k) (kIdx k)) o.chain

theorem State.get_peerNoted {o : Tos} {f : RF} {a lo w : Nat} (hf : f = ⟨spanSlot (kDie k) 0x15 a, lo, w⟩) (ha : a ≠ 0x1010 + 0x400 * kIdx k) :
    (s.peerNoted k o).get f = s.get f := by
  rw [State.peerNoted, State.get_put_apart (by exact RF.apart rfl hf (by omega)), State.get_put_apart (by exact RF.apart rfl hf (by omega))]

theorem State.chain_peerNoted {o : Tos} (j : Nat) : (s.peerNoted k o).chain j = s.chain j := by
  rw [State.peerNoted, State.chain_put, State.chain_put]

theorem State.takeTos_of_rate {o : Tos} (hst : s.chState k = csTRAIN) (hrate : o.rate ≠ s.get (GWL_CH_CFG_RATE (kDie k) (kIdx k))) :
    s.takeTos k lane o = (s.peerNoted k o).laneFailed k lane := by
  rw [State.takeTos, if_neg (not_not.mpr hst), if_pos hrate]
  rfl

theorem getD_modify_same {α : Type} {l : List α} {i : Nat} {f : α → α} {d : α} (h : i < l.length) : (l.modify i f).getD i d = f (l.getD i d) := by
  simp [List.getD_eq_getElem?_getD, h]

/-- A training ordered set of another rate fails its lane and charges one attempt. -/
theorem tosReceived_otherRate {groups : List Nat} {pos inv : Bool} {o : Tos} (hst : s.chState k = csTRAIN) (hlane : lane < 4)
    (hlen : (s.chain k).lanes.length = 4) (hread : readTos (readLane pos (groups.map fun g => if inv then 1023 - g else g)).1 = some o)
    (hrate : o.rate ≠ s.get (GWL_CH_CFG_RATE (kDie k) (kIdx k))) (hfirst : ((s.chain k).lanes.all fun l => !l.failed) = true)
    (hb : s.RtBelow k) (htries : (s.chain k).tries + 1 < s.get (GWL_TIMERS_TRAIN_TRIES (kDie k))) :
    ∃ t : State, exec (.tosReceived k lane groups pos inv) s = .next t ∧ t.chState k = csTRAIN ∧ (t.chain k).tries = (s.chain k).tries + 1 ∧
      ((t.chain k).lanes.getD lane .reset).failed = true ∧ t.get (LN_STATUS_STATE (kDie k) (kLane k lane)) = 4 ∧
      t.get (GWL_CH_STATUS_RT_BKT (kDie k) (kIdx k)) = s.get (GWL_CH_STATUS_RT_BKT (kDie k) (kIdx k)) + 1 := by
  have hc := kIdx_lt k
  have hexec := exec_tosReceived_of_read hst hlane hread
  generalize (readLane pos (groups.map fun g => if inv then 1023 - g else g)).2.1 = code at hexec
  generalize (readLane pos (groups.map fun g => if inv then 1023 - g else g)).2.2 = disp at hexec
  obtain ⟨u, hu⟩ : ∃ u, u = (s.laneErrs k lane code disp).peerNoted k o := ⟨_, rfl⟩
  have hget : ∀ {f : RF} {a lo w : Nat}, f = ⟨spanSlot (kDie k) 0x15 a, lo, w⟩ → a ≠ 0x1010 + 0x400 * kIdx k →
      a ≠ 0x2030 + 0x100 * kLane k lane → u.get f = s.get f := fun hf h1 h2 => by
    rw [hu, State.get_peerNoted hf h1, State.get_laneErrs hf h2]
  have hchain : u.chain k = s.chain k := by rw [hu, State.chain_peerNoted, State.onlyRegs_laneErrs.chain]
  have hbu : u.RtBelow k := hb.congr (hget rfl (by omega) (by omega)) (hget rfl (by omega) (by omega))
  obtain ⟨hfail, hbl⟩ := State.laneFailed_of_first (lane := lane) (hchain.symm ▸ hfirst) hbu
    (hchain.symm ▸ htries.trans_eq (hget rfl (by omega) (by omega)).symm)
  have hput : ∀ {f : RF} {a lo w : Nat}, f = ⟨spanSlot (kDie k) 0x15 a, lo, w⟩ → a ≠ 0x1010 + 0x400 * kIdx k →
      a ≠ 0x2030 + 0x100 * kLane k lane → a ≠ 0x2000 + 0x100 * kLane k lane → (u.attemptLost k lane).get f = s.get f := fun hf h1 h2 h3 => by
    rw [State.get_attemptLost, State.get_put_apart (by exact RF.apart rfl hf (by omega)), hget hf h1 h2]
  have hst' : (s.laneErrs k lane code disp).chState k = csTRAIN := (State.get_laneErrs rfl (by omega)).trans hst
  have hrate' : o.rate ≠ (s.laneErrs k lane code disp).get (GWL_CH_CFG_RATE (kDie k) (kIdx k)) := by
    rw [State.get_laneErrs (by exact rfl) (by omega)]; exact hrate
  rw [State.takeTos_of_rate hst' hrate', ← hu, hfail] at hexec
  refine ⟨_, hexec, ?_, ?_, ?_, ?_, ?_⟩
  · rw [State.chState, State.get_charge_apart (by exact RF.apart rfl rfl (by omega)),
      hput (by exact rfl) (by omega) (by omega) (by omega)]
    exact hst
  · rw [State.chain_charge, State.chain_attemptLost, hchain]
  · rw [State.chain_charge, State.chain_attemptLost, hchain, getD_modify_same (by omega)]
    rfl
  · rw [State.get_charge_apart (by exact RF.apart rfl rfl (by omega)), State.get_attemptLost]
    exact State.get_put_fits (RF.fits rfl (by omega))
  · rw [State.get_charge_rt hbl, hput (by exact rfl) (by omega) (by omega) (by omega)]

end

end Sys2Proof.Machine

namespace Sys2Proof.Machine

open Reg

section
variable {s : State} {k lane : Nat} {o : Tos}

/-! ### Every lane trained takes the chain to ALIGN (R202) -/

theorem State.checkTrained_leaves {γ : Type} (π : State → γ) (hset : ∀ t : State, π (t.setCh k csALIGN) = π t)
    (hchain : ∀ t : State, ∀ q : ChainSt, q.lanes = (t.chain k).lanes → π (t.setChain k q) = π t) : π (s.checkTrained k) = π s := by
  rw [State.checkTrained]
  split
  · rw [hchain _ _ (by rw [State.chain_setCh]), hset]
  · rfl

theorem State.laneTrainings_checkTrained : (s.checkTrained k).laneTrainings = s.laneTrainings :=
  State.checkTrained_leaves State.laneTrainings (fun _ => State.laneTrainings_put _ _) fun _ _ hq => State.laneTrainings_setChain hq

theorem State.get_checkTrained {f : RF} {a lo w : Nat} (hf : f = ⟨spanSlot (kDie k) 0x15 a, lo, w⟩) (ha : a ≠ 0x1020 + 0x400 * kIdx k) :
    (s.checkTrained k).get f = s.get f :=
  State.checkTrained_leaves (State.get · f) (fun _ => State.get_put_apart (by exact RF.apart rfl hf (by omega))) fun _ _ _ => rfl

theorem State.chState_checkTrained (hst : s.chState k = csTRAIN) : (s.checkTrained k).chState k =
    if ((s.chain k).lanes.all fun l => l.trained && l.ready) = true then csALIGN else csTRAIN := by
  rw [State.checkTrained]
  by_cases hall : ((s.chain k).lanes.all fun l => l.trained && l.ready) = true
  · rw [if_pos ⟨hst, hall⟩, if_pos hall, State.chState_setChain, State.chState_setCh (by decide)]
  · rw [if_neg fun h => hall h.2, if_neg hall, hst]

/-! ### A training ordered set of the chain's rate (R203, R204) -/

/-- A request the lane has not applied. -/
def LaneTrain.newRequest (l : LaneTrain) (o : Tos) : Bool := decide (l.applied ≠ some o.rseq) && (bitsOf o.req 0 7 != 0)

/-- The lane's training with the partner's request and READY noted. -/
def LaneTrain.asked (l : LaneTrain) (o : Tos) (stat : Nat) : LaneTrain :=
  let l1 := if l.newRequest o then { l with applied := some o.rseq, statOut := stat } else l
  { l1 with ready := l1.ready || bit o.stat 6 }

/-- The lane's training with the partner's answer noted too. -/
def LaneTrain.heard (l : LaneTrain) (o : Tos) (stat now : Nat) : LaneTrain :=
  if o.echo = (l.asked o stat).rseq ∧ (l.asked o stat).echoed = false then { l.asked o stat with stat := o.stat % 64, echoed := true, echoAt := now }
  else l.asked o stat

theorem LaneTrain.asked_ready (l : LaneTrain) (stat : Nat) : (l.asked o stat).ready = (l.ready || bit o.stat 6) := by
  simp only [LaneTrain.asked]; split <;> rfl

theorem LaneTrain.asked_applied (l : LaneTrain) (stat : Nat) :
    (l.asked o stat).applied = if l.newRequest o then some o.rseq else l.applied := by
  simp only [LaneTrain.asked]; split <;> rfl

theorem LaneTrain.asked_rseq (l : LaneTrain) (stat : Nat) : (l.asked o stat).rseq = l.rseq := by
  simp only [LaneTrain.asked]; split <;> rfl

theorem LaneTrain.asked_echoed (l : LaneTrain) (stat : Nat) : (l.asked o stat).echoed = l.echoed := by
  simp only [LaneTrain.asked]; split <;> rfl

theorem LaneTrain.heard_ready (l : LaneTrain) (stat now : Nat) : (l.heard o stat now).ready = (l.ready || bit o.stat 6) := by
  rw [LaneTrain.heard, apply_ite LaneTrain.ready, ite_self, LaneTrain.asked_ready]

theorem LaneTrain.heard_applied (l : LaneTrain) (stat now : Nat) :
    (l.heard o stat now).applied = if l.newRequest o then some o.rseq else l.applied := by
  rw [LaneTrain.heard, apply_ite LaneTrain.applied, ite_self, LaneTrain.asked_applied]

theorem LaneTrain.heard_echoed (l : LaneTrain) (stat now : Nat) : (l.heard o stat now).echoed = (l.echoed || o.echo == l.rseq) := by
  rw [LaneTrain.heard, apply_ite LaneTrain.echoed, LaneTrain.asked_rseq, LaneTrain.asked_echoed]
  by_cases he : o.echo = l.rseq <;> by_cases hq : l.echoed = true <;> simp [he, hq]

/-- What a request makes of a lane's taps. -/
def State.tapsAsked (s : State) (k lane : Nat) (o : Tos) : (Int × Int × Int) × Nat :=
  applyReq o.req (s.get (LN_TAPS_PRE (kDie k) (kLane k lane))) (s.get (LN_TAPS_MAIN (kDie k) (kLane k lane)))
    (s.get (LN_TAPS_POST (kDie k) (kLane k lane)))

/-- The lane's training after the training ordered set. -/
def State.laneHeard (s : State) (k lane : Nat) (o : Tos) : LaneTrain :=
  ((s.chain k).lanes.getD lane .reset).heard o (s.tapsAsked k lane o).2 s.now

/-- What the training ordered set says is noted. -/
def State.tosNoted (s : State) (k lane : Nat) (o : Tos) : State :=
  (s.peerNoted k o).setChain k
    { (s.peerNoted k o).chain k with lanes := ((s.peerNoted k o).chain k).lanes.set lane (s.laneHeard k lane o) }

/-- The taps in use as the request asks. -/
def State.tapsSet (s : State) (d n : Nat) (r : Int × Int × Int) : State :=
  ((s.put (LN_TAPS_PRE d n) r.1.toNat).put (LN_TAPS_MAIN d n) r.2.1.toNat).put (LN_TAPS_POST d n) r.2.2.toNat

/-- The request carried out and answered. -/
def State.tosAnswered (s : State) (k lane : Nat) (o : Tos) : State :=
  if ((s.chain k).lanes.getD lane .reset).newRequest o then
    ((s.tosNoted k lane o).tapsSet (kDie k) (kLane k lane) (s.tapsAsked k lane o).1).sendTos k lane
  else s.tosNoted k lane o

theorem State.takeTos_of_sameRate (hst : s.chState k = csTRAIN) (hrate : o.rate = s.get (GWL_CH_CFG_RATE (kDie k) (kIdx k))) :
    s.takeTos k lane o = (s.tosAnswered k lane o).checkTrained k := by
  rw [State.takeTos, if_neg (not_not.mpr hst), if_neg (not_not.mpr hrate)]
  rfl

theorem State.laneTrainings_tosAnswered :
    (s.tosAnswered k lane o).laneTrainings k = (s.chain k).lanes.set lane (s.laneHeard k lane o) := by
  have hnoted : (s.tosNoted k lane o).laneTrainings k = (s.chain k).lanes.set lane (s.laneHeard k lane o) := by
    rw [State.laneTrainings, State.tosNoted, State.chain_set_same, State.chain_peerNoted]
  have htaps : ∀ (t : State) d n r, (t.tapsSet d n r).laneTrainings = t.laneTrainings := fun _ _ _ _ => by
    simp only [State.tapsSet, State.laneTrainings_put]
  rw [State.tosAnswered]
  split
  · rw [State.laneTrainings, State.Speaks.of_offLine (State.speaks_sendTos lane) ChainSt.lanes]
    exact (congrFun (htaps _ _ _ _) k).trans hnoted
  · exact hnoted

theorem State.get_tosNoted {f : RF} {a lo w : Nat} (hf : f = ⟨spanSlot (kDie k) 0x15 a, lo, w⟩) (ha : a ≠ 0x1010 + 0x400 * kIdx k) :
    (s.tosNoted k lane o).get f = s.get f := by
  rw [State.tosNoted, State.get_setChain, State.get_peerNoted hf ha]

theorem State.get_tosAnswered {f : RF} {a lo w : Nat} (hf : f = ⟨spanSlot (kDie k) 0x15 a, lo, w⟩) (ha : a ≠ 0x1010 + 0x400 * kIdx k)
    (ht : a ≠ 0x2010 + 0x100 * kLane k lane) : (s.tosAnswered k lane o).get f = s.get f := by
  rw [State.tosAnswered]
  split
  · rw [(State.speaks_sendTos lane).get, State.tapsSet, State.get_put_apart (by exact RF.apart rfl hf (by omega)),
      State.get_put_apart (by exact RF.apart rfl hf (by omega)), State.get_put_apart (by exact RF.apart rfl hf (by omega)),
      State.get_tosNoted hf ha]
  · exact State.get_tosNoted hf ha

theorem State.tapsOf_tosAnswered : (s.tosAnswered k lane o).tapsOf (kDie k) (kLane k lane) =
    if ((s.chain k).lanes.getD lane .reset).newRequest o then
      ((s.tapsAsked k lane o).1.1.toNat % 2 ^ 4, (s.tapsAsked k lane o).1.2.1.toNat % 2 ^ 6, (s.tapsAsked k lane o).1.2.2.toNat % 2 ^ 5)
    else s.tapsOf (kDie k) (kLane k lane) := by
  have hc := kIdx_lt k
  have hnoted : (s.tosNoted k lane o).rd (LN_TAPS (kDie k) (kLane k lane)) = s.rd (LN_TAPS (kDie k) (kLane k lane)) := by
    rw [State.tosNoted, State.rd_setChain, State.peerNoted, State.rd_put_other (by exact spanSlot_ne rfl rfl (by omega)),
      State.rd_put_other (by exact spanSlot_ne rfl rfl (by omega))]
  rw [State.tosAnswered]
  split
  · rw [State.tapsOf_of_rd (State.Speaks.rd (State.speaks_sendTos lane) _), State.tapsSet, State.taps_put]
  · exact State.tapsOf_of_rd hnoted

/-- A training ordered set of the chain's rate: READY, the request and the answer are noted, and every lane trained ends TRAIN. -/
theorem tosReceived_sameRate {groups : List Nat} {pos inv : Bool} (hst : s.chState k = csTRAIN) (hlane : lane < 4)
    (hread : readTos (readLane pos (groups.map fun g => if inv then 1023 - g else g)).1 = some o)
    (hrate : o.rate = s.get (GWL_CH_CFG_RATE (kDie k) (kIdx k))) :
    ∃ (t : State) (stat now : Nat), exec (.tosReceived k lane groups pos inv) s = .next t ∧
      (t.chain k).lanes = (s.chain k).lanes.set lane (((s.chain k).lanes.getD lane .reset).heard o stat now) ∧
      t.tapsOf (kDie k) (kLane k lane) = (if ((s.chain k).lanes.getD lane .reset).newRequest o then
        ((s.tapsAsked k lane o).1.1.toNat % 2 ^ 4, (s.tapsAsked k lane o).1.2.1.toNat % 2 ^ 6, (s.tapsAsked k lane o).1.2.2.toNat % 2 ^ 5)
        else s.tapsOf (kDie k) (kLane k lane)) ∧
      t.chState k = if ((t.chain k).lanes.all fun l => l.trained && l.ready) = true then csALIGN else csTRAIN := by
  have hc := kIdx_lt k
  have hexec := exec_tosReceived_of_read hst hlane hread
  generalize (readLane pos (groups.map fun g => if inv then 1023 - g else g)).2.1 = code at hexec
  generalize (readLane pos (groups.map fun g => if inv then 1023 - g else g)).2.2 = disp at hexec
  obtain ⟨u, hu⟩ : ∃ u, u = s.laneErrs k lane code disp := ⟨_, rfl⟩
  have hget : ∀ {f : RF} {a lo w : Nat}, f = ⟨spanSlot (kDie k) 0x15 a, lo, w⟩ → a ≠ 0x2030 + 0x100 * kLane k lane → u.get f = s.get f :=
    fun hf h => hu ▸ State.get_laneErrs hf h
  have hchain : u.chain k = s.chain k := hu ▸ State.onlyRegs_laneErrs.chain k
  have hust : u.chState k = csTRAIN := (hget rfl (by omega)).trans hst
  have htaps : u.tapsAsked k lane o = s.tapsAsked k lane o := by
    rw [State.tapsAsked, hget (by exact rfl) (by omega), hget (by exact rfl) (by omega), hget (by exact rfl) (by omega), State.tapsAsked]
  have htapsOf : u.tapsOf (kDie k) (kLane k lane) = s.tapsOf (kDie k) (kLane k lane) := by
    rw [State.tapsOf, hget (by exact rfl) (by omega), hget (by exact rfl) (by omega), hget (by exact rfl) (by omega), State.tapsOf]
  rw [← hu, State.takeTos_of_sameRate hust (hrate.trans (hget rfl (by omega)).symm)] at hexec
  have hlanes : (((u.tosAnswered k lane o).checkTrained k).chain k).lanes = (u.tosAnswered k lane o).laneTrainings k :=
    congrFun State.laneTrainings_checkTrained k
  have hrd : ((u.tosAnswered k lane o).checkTrained k).rd (LN_TAPS (kDie k) (kLane k lane)) =
      (u.tosAnswered k lane o).rd (LN_TAPS (kDie k) (kLane k lane)) :=
    State.checkTrained_leaves (State.rd · (LN_TAPS (kDie k) (kLane k lane)))
      (fun _ => State.rd_put_other (spanSlot_ne rfl rfl (by omega))) fun _ _ _ => rfl
  refine ⟨_, (s.tapsAsked k lane o).2, u.now, hexec, hlanes.trans (State.laneTrainings_tosAnswered.trans ?_), ?_, ?_⟩
  · rw [State.laneHeard, hchain, htaps]
  · rw [State.tapsOf_of_rd hrd, State.tapsOf_tosAnswered, hchain, htaps, htapsOf]
  · rw [hlanes]
    exact State.chState_checkTrained ((State.get_tosAnswered rfl (by omega) (by omega)).trans hust)

end

end Sys2Proof.Machine

namespace Sys2Proof.Machine

open Reg

section
variable {s t : State} {k lane h w : Nat}

/-! ### The search for a lane's taps (R205) -/

theorem State.Speaks.tosNow (hs : s.Speaks k t) (j : Nat) : t.tosNow k j = s.tosNow k j := by
  simp only [State.tosNow, hs.get, hs.ownDev, hs.of_offLine ChainSt.lanes]

theorem State.out_sendTos : (s.sendTos k lane).out =
    .line k ((s.chain k).onLane lane (tosChars (s.tosNow k lane))).1 :: .tos k lane (s.tosNow k lane) :: s.out := (rfl)

/-- The eye measured, 4 µs after the answer. -/
def State.eyeMeasured (s : State) (k lane h w : Nat) : State :=
  (((s.advance (((s.chain k).lanes.getD lane .reset).echoAt + 4 * tUs)).put (LN_EYE_HEIGHT_MV (kDie k) (kLane k lane)) h).put
    (LN_EYE_WIDTH (kDie k) (kLane k lane)) w).setTimer (tkEye (kDie k) (16 + kLane k lane))
      (max s.now (((s.chain k).lanes.getD lane .reset).echoAt + 4 * tUs))

theorem State.chain_eyeMeasured (j : Nat) : (s.eyeMeasured k lane h w).chain j = s.chain j := by
  rw [State.eyeMeasured, State.chain_setTimer, State.chain_put, State.chain_put, State.chain_advance]

theorem State.eyeMeasured_out : (s.eyeMeasured k lane h w).out = s.out := by
  rw [State.eyeMeasured, State.setTimer_out, State.put_out, State.put_out, State.advance_out]

theorem State.eyeMeasured_now : (s.eyeMeasured k lane h w).now = max s.now (((s.chain k).lanes.getD lane .reset).echoAt + 4 * tUs) := by
  rw [State.eyeMeasured, State.setTimer_now, State.put_now, State.put_now]
  rfl

theorem State.get_eyeMeasured {f : RF} {a lo wid : Nat} (hf : f = ⟨spanSlot (kDie k) 0x15 a, lo, wid⟩) (ha : a ≠ 0x2020 + 0x100 * kLane k lane) :
    (s.eyeMeasured k lane h w).get f = s.get f := by
  rw [State.eyeMeasured, State.get_setTimer, State.get_put_apart (by exact RF.apart rfl hf (by omega)), State.get_put_apart (by exact RF.apart rfl hf (by omega)),
    State.get_advance]

/-- The search's next request on its lane. -/
def State.eyeAsked (s : State) (k lane : Nat) (l : LaneTrain) : State :=
  ((s.setChain k { s.chain k with lanes := (s.chain k).lanes.set lane l }).put (LN_STATUS_REQS (kDie k) (kLane k lane)) l.reqs).sendTos k lane

/-- The search ended without a lane on target. -/
def State.eyeMarginal (s : State) (k lane : Nat) : State :=
  let s2 := (s.raise (LN_STATUS_MARGINAL (kDie k) (kLane k lane))).raise (GWL_EVENTS_MARGINAL (kDie k))
  s2.emit 0x58 (kDie k) 3 (kIdx k) (kLane k lane) (s2.rd (LN_EYE (kDie k) (kLane k lane))).toNat

/-- The search is ended by its last measurement. -/
def State.eyeEnded (s : State) (k lane h w : Nat) : State :=
  if 6120 ≤ eyeMetric h w then (s.put (LN_STATUS_MARGINAL (kDie k) (kLane k lane)) 0).laneTrained k lane
  else if 30 ≤ h ∧ 77 ≤ w then (s.eyeMarginal k lane).laneTrained k lane
  else s.laneFailed k lane

section
variable (hst : s.chState k = csTRAIN) (hlane : lane < 4) (htrained : ((s.chain k).lanes.getD lane .reset).trained = false)
  (hfailed : ((s.chain k).lanes.getD lane .reset).failed = false) (hechoed : ((s.chain k).lanes.getD lane .reset).echoed = true)
include hst hlane htrained hfailed hechoed

theorem exec_eyeMeasure_of_request {l : LaneTrain} {req : Nat}
    (hstep : eyeStep ((s.chain k).lanes.getD lane .reset) (eyeMetric h w) = .request l req) : exec (.eyeMeasure k lane h w) s =
      .next ((s.eyeMeasured k lane h w).eyeAsked k lane { l with req := req, rseq := (l.rseq + 1) % 256, echoed := false }) := by
  change execEyeMeasure k lane h w s = _
  rw [execEyeMeasure, if_pos ⟨hst, hlane, htrained, hfailed, hechoed⟩]
  simp only [hstep]
  rfl

theorem exec_eyeMeasure_of_done (hstep : eyeStep ((s.chain k).lanes.getD lane .reset) (eyeMetric h w) = .done) :
    exec (.eyeMeasure k lane h w) s = .next ((s.eyeMeasured k lane h w).eyeEnded k lane h w) := by
  change execEyeMeasure k lane h w s = _
  rw [execEyeMeasure, if_pos ⟨hst, hlane, htrained, hfailed, hechoed⟩]
  simp only [hstep, State.eyeEnded]
  split
  · rfl
  · split <;> rfl

/-- 4 µs after its answer the measurement makes the search's next request. -/
theorem eyeMeasure_requests (hlen : lane < (s.chain k).lanes.length) {l : LaneTrain} {req : Nat}
    (hstep : eyeStep ((s.chain k).lanes.getD lane .reset) (eyeMetric h w) = .request l req) :
    ∃ t : State, exec (.eyeMeasure k lane h w) s = .next t ∧ t.chState k = csTRAIN ∧
      (t.chain k).lanes.getD lane .reset = { l with req := req, rseq := (l.rseq + 1) % 256, echoed := false } ∧
      (∃ gs, t.out = .line k gs :: .tos k lane (t.tosNow k lane) :: s.out) ∧
      t.now = max s.now (((s.chain k).lanes.getD lane .reset).echoAt + 4 * tUs) := by
  have hc := kIdx_lt k
  refine ⟨_, exec_eyeMeasure_of_request hst hlane htrained hfailed hechoed hstep, ?_, ?_, ?_, ?_⟩
  · rw [State.eyeAsked, (State.speaks_sendTos lane).chState, State.chState, State.get_put_apart (by exact RF.apart rfl rfl (by omega)),
      State.get_setChain, State.get_eyeMeasured (by exact rfl) (by omega)]
    exact hst
  · rw [State.eyeAsked, (State.speaks_sendTos lane).of_offLine ChainSt.lanes, State.chain_put, State.chain_set_same, State.chain_eyeMeasured]
    simp [List.getD_eq_getElem?_getD, hlen]
  · rw [State.eyeAsked, (State.speaks_sendTos lane).tosNow, State.out_sendTos, State.put_out, State.setChain_out, State.eyeMeasured_out]
    exact ⟨_, rfl⟩
  · rw [State.eyeAsked, (State.speaks_sendTos lane).now, State.put_now, State.setChain_now, State.eyeMeasured_now]

end

/-- The training of one lane marked done. -/
def LaneTrain.done (l : LaneTrain) : LaneTrain := { l with trained := true }

/-- A lane TRAINED, before its training ordered set goes out. -/
def State.laneDone (s : State) (k lane : Nat) : State :=
  ((s.put (LN_STATUS_STATE (kDie k) (kLane k lane)) 3).putBit (GWL_STATUS_LANE_TRAINED (kDie k)) (kLane k lane) true).setChain k
    { s.chain k with lanes := (s.chain k).lanes.modify lane .done }

theorem State.laneTrained_eq : s.laneTrained k lane = ((s.laneDone k lane).sendTos k lane).checkTrained k := rfl

theorem State.laneTrainings_laneTrained : (s.laneTrained k lane).laneTrainings k = (s.chain k).lanes.modify lane .done := by
  rw [State.laneTrained_eq, State.laneTrainings_checkTrained, State.laneTrainings, (State.speaks_sendTos lane).of_offLine ChainSt.lanes,
    State.laneDone, State.chain_set_same]

theorem State.laneState_laneTrained : (s.laneTrained k lane).get (LN_STATUS_STATE (kDie k) (kLane k lane)) = 3 := by
  have hc := kIdx_lt k
  rw [State.laneTrained_eq, State.get_checkTrained (by exact rfl) (by omega), (State.speaks_sendTos lane).get, State.laneDone, State.get_setChain,
    State.get_putBit_apart (by exact RF.apart rfl rfl (by omega))]
  exact State.get_put_fits (RF.fits rfl (by omega))

theorem State.laneTrainings_eyeMarginal : (s.eyeMarginal k lane).laneTrainings = s.laneTrainings := by
  simp only [State.eyeMarginal]
  rw [linkView_laneTrainings.emit, State.raise, State.laneTrainings_put, State.raise, State.laneTrainings_put]

theorem State.laneTrainings_eyeEnded : (s.eyeEnded k lane h w).laneTrainings k = (s.chain k).lanes.modify lane
    (if 6120 ≤ eyeMetric h w ∨ (30 ≤ h ∧ 77 ≤ w) then .done else .lost) := by
  rw [State.eyeEnded]
  split
  case isTrue hmet => rw [State.laneTrainings_laneTrained, State.chain_put, if_pos (.inl hmet)]
  case isFalse hmet =>
    split
    case isTrue hfloor =>
      have hkeep : ((s.eyeMarginal k lane).chain k).lanes = (s.chain k).lanes := congrFun State.laneTrainings_eyeMarginal k
      rw [State.laneTrainings_laneTrained, hkeep, if_pos (.inr hfloor)]
    case isFalse hfloor => rw [State.laneTrainings_laneFailed, if_neg (not_or.mpr ⟨hmet, hfloor⟩)]

theorem State.laneState_eyeEnded (hgood : 6120 ≤ eyeMetric h w ∨ (30 ≤ h ∧ 77 ≤ w)) :
    (s.eyeEnded k lane h w).get (LN_STATUS_STATE (kDie k) (kLane k lane)) = 3 := by
  rw [State.eyeEnded]
  by_cases hmet : 6120 ≤ eyeMetric h w
  · rw [if_pos hmet, State.laneState_laneTrained]
  · rw [if_neg hmet, if_pos (hgood.resolve_left hmet), State.laneState_laneTrained]

/-- A lane whose search has ended is TRAINED on target and above the floors, else FAILED. -/
theorem eyeMeasure_ends (hst : s.chState k = csTRAIN) (hlane : lane < 4) (hlen : lane < (s.chain k).lanes.length)
    (htrained : ((s.chain k).lanes.getD lane .reset).trained = false) (hfailed : ((s.chain k).lanes.getD lane .reset).failed = false)
    (hechoed : ((s.chain k).lanes.getD lane .reset).echoed = true) (hstep : eyeStep ((s.chain k).lanes.getD lane .reset) (eyeMetric h w) = .done) :
    ∃ t : State, exec (.eyeMeasure k lane h w) s = .next t ∧
      (6120 ≤ eyeMetric h w ∨ (30 ≤ h ∧ 77 ≤ w) → t.get (LN_STATUS_STATE (kDie k) (kLane k lane)) = 3) ∧
      ((t.chain k).lanes.getD lane .reset).trained = decide (6120 ≤ eyeMetric h w ∨ (30 ≤ h ∧ 77 ≤ w)) ∧
      ((t.chain k).lanes.getD lane .reset).failed = !decide (6120 ≤ eyeMetric h w ∨ (30 ≤ h ∧ 77 ≤ w)) := by
  have hlanes : (((s.eyeMeasured k lane h w).eyeEnded k lane h w).chain k).lanes.getD lane .reset =
      (if 6120 ≤ eyeMetric h w ∨ (30 ≤ h ∧ 77 ≤ w) then LaneTrain.done else .lost) ((s.chain k).lanes.getD lane .reset) := by
    refine (congrArg (List.getD · lane _) State.laneTrainings_eyeEnded).trans ?_
    rw [State.chain_eyeMeasured]
    exact getD_modify_same hlen
  refine ⟨_, exec_eyeMeasure_of_done hst hlane htrained hfailed hechoed hstep, State.laneState_eyeEnded, ?_, ?_⟩ <;> rw [hlanes]
  · by_cases hgood : 6120 ≤ eyeMetric h w ∨ (30 ≤ h ∧ 77 ≤ w)
    · rw [if_pos hgood, decide_eq_true hgood, LaneTrain.done]
    · rw [if_neg hgood, decide_eq_false hgood, LaneTrain.lost, htrained]
  · by_cases hgood : 6120 ≤ eyeMetric h w ∨ (30 ≤ h ∧ 77 ≤ w)
    · rw [if_pos hgood, decide_eq_true hgood, LaneTrain.done, hfailed]; rfl
    · rw [if_neg hgood, decide_eq_false hgood, LaneTrain.lost]; rfl

/-! ### A failed attempt begins again (R202) -/

/-- 10 ms after a failed attempt the chain is in DETECT. -/
theorem trainRetry_detects (hst : s.chState k = csTRAIN) (hfailed : ((s.chain k).lanes.any LaneTrain.failed) = true) :
    ∃ t : State, exec (.trainRetry k) s = .next t ∧ t.chState k = csDETECT ∧
      (∀ l ∈ (t.chain k).lanes, l.failed = false ∧ l.trained = false ∧ l.ready = false) ∧
      (t.chain k).tries = (s.chain k).tries ∧ t.now = max s.now ((s.chain k).failAt + 10 * tMs) ∧ ∀ j, j ≠ k → t.chain j = s.chain j := by
  have hc := kIdx_lt k
  have hexec : exec (.trainRetry k) s = .next (((s.advance ((s.chain k).failAt + 10 * tMs)).setCh k csDETECT).lanesTo k 1 false) := by
    change execTrainRetry k s = _
    rw [execTrainRetry, if_pos ⟨hst, hfailed⟩]
    rfl
  refine ⟨_, hexec, ?_, fun l hl => ?_, ?_, ?_, fun j hj => ?_⟩
  · rw [State.chState, State.get_lanesTo (by exact rfl) (by omega) (by omega)]
    exact State.chState_setCh (by decide)
  · rw [State.chain_lanesTo_same, ChainSt.lanesAnew] at hl
    obtain ⟨l', _, rfl⟩ := List.mem_map.mp hl
    exact ⟨rfl, rfl, rfl⟩
  · rw [State.chain_lanesTo_same, State.chain_setCh, State.chain_advance, ChainSt.lanesAnew]
  · rw [State.lanesTo_now, State.setCh_now]
    rfl
  · rw [State.chain_lanesTo_other hj, State.chain_setCh, State.chain_advance]

end

end Sys2Proof.Machine

namespace Sys2Proof.Machine

open Reg

/-! ### Alignment ordered sets go out (R199) -/

theorem length_encAll (cs : List Chr) : ∀ rd : Bool, (encAll rd cs).1.length = cs.length := by
  induction cs with
  | nil => intro rd; rfl
  | cons c cs ih => intro rd; simp [encAll, ih]

/-- A column of lanes that all carry `n` characters has one from each. -/
theorem length_columns {α : Type} {n m : Nat} {lanes : List (List α)} (hlen : lanes.length = m) (hall : ∀ x ∈ lanes, x.length = n) :
    ((List.range n).flatMap fun i => lanes.filterMap (·[i]?)).length = n * m := by
  have hcol : ∀ i ∈ List.range n, (lanes.filterMap (·[i]?)).length = m := fun i hi => by
    rw [← hlen, List.filterMap_length_eq_length]
    intro x hx
    simp [hall x hx, List.mem_range.mp hi]
  rw [List.length_flatMap, List.map_congr_left hcol]
  simp

theorem ChainSt.length_onLanes {q : ChainSt} {n : Nat} {f : Nat → List Chr} (hf : ∀ l, (f l).length = n) : (q.onLanes n f).1.length = n * 4 := by
  unfold ChainSt.onLanes
  refine length_columns rfl fun x hx => ?_
  simp only [List.foldl, List.nil_append, List.cons_append, List.mem_cons, List.not_mem_nil, or_false] at hx
  rcases hx with rfl | rfl | rfl | rfl <;> simp [ChainSt.onLane, length_encAll, hf]

theorem length_aosChars (mc lane : Nat) : (aosChars mc lane).length = 8 := by
  simp [aosChars, toOctets_length]

theorem ChainSt.length_aosSet (q : ChainSt) : q.aosSet.1.length = 32 := ChainSt.length_onLanes (n := 8) (length_aosChars q.mc)

section
variable {s : State} {k lane : Nat}

theorem State.regs_sendAosSet : (s.sendAosSet k).regs = s.regs := State.speaks_sendAosSet.regs

theorem State.mc_fillTo (dest : Nat) : ((s.fillTo k dest).chain k).mc = (s.chain k).mc := by
  have hset : ∀ (q : ChainSt) (o : Output), q.mc = (s.chain k).mc → (((s.setChain k q).emitOut o).chain k).mc = (s.chain k).mc :=
    fun q _ hq => (congrArg ChainSt.mc (State.chain_set_same s k q)).trans hq
  rw [State.fillTo]
  split
  · rfl
  · exact hset _ _ rfl

theorem State.mc_sendAosSet : ((s.sendAosSet k).chain k).mc = ((s.chain k).mc + 1) % 2 ^ 24 := by
  have haos : ∀ q : ChainSt, q.aosSet.2.mc = (q.mc + 1) % 2 ^ 24 := fun _ => rfl
  refine (congrArg ChainSt.mc (State.chain_set_same _ _ _)).trans ?_
  rw [haos, State.mc_fillTo]

theorem State.out_sendAosSet : ∃ gs out, gs.length = 32 ∧ (s.sendAosSet k).out = .line k gs :: .aos k (s.chain k).mc :: out := by
  obtain ⟨u, hu⟩ : ∃ u, u = s.fillTo k ((s.chain k).pos + (4 - (s.chain k).pos % 4) % 4) := ⟨_, rfl⟩
  have hout : (s.sendAosSet k).out = .line k (u.chain k).aosSet.1 :: .aos k (u.chain k).mc :: u.out := hu ▸ rfl
  have hmc : (u.chain k).mc = (s.chain k).mc := by rw [hu, State.mc_fillTo]
  exact ⟨_, _, (u.chain k).length_aosSet, hmc ▸ hout⟩

/-- An AOS goes out on every lane with the next MC. -/
theorem aosSend_sends (hlo : csALIGN ≤ s.chState k) (hhi : s.chState k ≤ csACTIVE) (hsleep : s.get (GWL_CH_STATUS_TX_SLEEP (kDie k) (kIdx k)) = 0) :
    ∃ t : State, exec (.aosSend k) s = .next t ∧ (∃ gs, gs.length = 32 ∧ [.line k gs, .aos k (s.chain k).mc] <+: t.out) ∧
      (t.chain k).mc = ((s.chain k).mc + 1) % 2 ^ 24 ∧ t.regs = s.regs := by
  have hexec : exec (.aosSend k) s = .next ((s.fillTo k (s.chain k).aosNext).sendAosSet k) := by
    change execAosSend k s = _
    rw [execAosSend, if_pos ⟨hlo, hhi, hsleep⟩]
    rfl
  obtain ⟨gs, out, hlen, hout⟩ := (State.out_sendAosSet (s := s.fillTo k (s.chain k).aosNext) (k := k))
  refine ⟨_, hexec, ⟨gs, hlen, ?_⟩, ?_, ?_⟩
  · rw [hout, State.mc_fillTo]
    exact ⟨out, rfl⟩
  · rw [State.mc_sendAosSet, State.mc_fillTo]
  · rw [State.regs_sendAosSet, (State.speaks_fillTo _).regs]

/-! ### A lane loses its symbol lock (R202) -/

/-- A loss of symbol lock retrains an ACTIVE chain and leaves another in its state. -/
theorem symbolLockLoss_retrains (hk : k < 16) (hlane : lane < 4) (hoff : s.chState k ≠ csOFF) (hdeacc : s.chState k ≠ csDEACC) (hb : s.RtBelow k) :
    ∃ t : State, exec (.symbolLockLoss k lane) s = .next t ∧ t.get (LN_STATUS_SYMLOCK (kDie k) (kLane k lane)) = 0 ∧
      t.chState k = if s.chState k = csACTIVE then csTRAIN else s.chState k := by
  have hc := kIdx_lt k
  have hln : kLane k lane < 8 := by simp only [kLane]; omega
  obtain ⟨u, hu⟩ : ∃ u, u = (s.put (LN_STATUS_SYMLOCK (kDie k) (kLane k lane)) 0).lineFail k := ⟨_, rfl⟩
  have hexec : exec (.symbolLockLoss k lane) s = .next (if s.chState k = csACTIVE then u.retrain k else u) := by
    change execSymbolLockLoss k lane s = _
    rw [execSymbolLockLoss, if_neg (by rintro (h | h | h) <;> [exact hoff h; exact hdeacc h; omega]), hu]
    rfl
  have hget : ∀ {f : RF} {a lo w : Nat}, f = ⟨spanSlot (kDie k) 0x15 a, lo, w⟩ → a < 2 ^ 36 → a ≠ 0x2000 + 0x100 * kLane k lane → u.get f = s.get f :=
    fun hf ho ha => by
      rw [hu, State.get_lineFail hk (addrBlock_of_link hf ho), State.get_put_apart (by exact RF.apart rfl hf (by omega))]
  have hlock : u.get (LN_STATUS_SYMLOCK (kDie k) (kLane k lane)) = 0 := by
    rw [hu, State.get_lineFail hk (by exact addrBlock_of_link rfl (by omega))]
    exact State.get_put_fits (RF.fits rfl (by omega))
  have hbu : u.RtBelow k := hb.congr (hget rfl (by omega) (by omega)) (hget rfl (by omega) (by omega))
  refine ⟨_, hexec, ?_, ?_⟩
  · split
    · rw [State.get_retrain hk hbu (by exact rfl) (by omega) (by omega) (by omega) (by omega) (by omega) (by omega) (by omega)]
      exact hlock
    · exact hlock
  · split
    · exact State.chState_retrain hk hbu
    · exact hget rfl (by omega) (by omega)

end

end Sys2Proof.Machine

namespace Sys2Proof.Machine

open Reg

section
variable {s : State} {k lane : Nat}

/-! ### The chain's counts are shown (R213, R216) -/

/-- A chain without the times its virtual channels began to wait. -/
def ChainSt.offStall (q : ChainSt) : ChainSt := { q with stallAt := [] }

theorem State.showChain_leaves {γ : Type} (π : State → γ) (hput : ∀ t f v, π (State.put t f v) = π t)
    (hset : ∀ q : ChainSt, q.offStall = (s.chain k).offStall → π (s.setChain k q) = π s) : π (s.showChain k) = π s := by
  simp only [State.showChain, hput]
  exact hset _ rfl

/-- What is read of a chain beside those times is as before. -/
theorem State.of_showChain {γ : Type} (g : ChainSt → γ) (hg : ∀ q : ChainSt, g q.offStall = g q := by intro; rfl) (j : Nat) :
    g ((s.showChain k).chain j) = g (s.chain j) := by
  refine State.showChain_leaves (fun t => g (t.chain j)) (fun _ _ _ => congrArg g (State.chain_put _ _ _ _)) fun q hq => ?_
  by_cases hj : j = k
  · rw [hj, State.chain_set_same, ← hg, hq, hg]
  · rw [State.chain_set_other _ _ hj]

theorem State.get_showChain {f : RF} {a lo w : Nat} (hf : f = ⟨spanSlot (kDie k) 0x15 a, lo, w⟩) (hseq : a = 0x1030 + 0x400 * kIdx k → lo + w ≤ 48)
    (hlo : a ≠ 0x1050 + 0x400 * kIdx k) (hhi : a ≠ 0x1060 + 0x400 * kIdx k) : (s.showChain k).get f = s.get f := by
  simp only [State.showChain]
  rw [State.get_put_apart (by exact RF.apart rfl hf (by omega)), State.get_put_apart (by exact RF.apart rfl hf (by omega)),
    State.get_put_apart (by exact RF.apart rfl hf (by omega)), State.get_put_apart (by exact RF.apart rfl hf (by omega)),
    State.get_put_apart (by exact RF.apart rfl hf (by omega)), State.get_put_apart (by exact RF.apart rfl hf (by omega)),
    State.get_put_apart (by exact RF.apart rfl hf (by omega)), State.get_setChain]

/-! ### INIT begins, and link state lost is sent anew (R219) -/

/-- The chain in INIT. -/
def State.initBegun (s : State) (k : Nat) : State :=
  ((s.setCh k csINIT).put (GWL_CH_STATUS_FRESH_SEEN (kDie k) (kIdx k)) 0).setChain k { s.chain k with initSent := 0, initRcvd := 0, lcbDue := true }

theorem State.enterInit_eq : s.enterInit k = if (s.chain k).fresh = true then (s.initBegun k).freshLink k else s.initBegun k := rfl

/-- The sequence numbers begin again. -/
def State.seqsReset (s : State) (k : Nat) : State :=
  ((s.put (CH_SEQ_TX_NEXT (kDie k) (kIdx k)) 0).put (CH_SEQ_TX_ACKED (kDie k) (kIdx k)) 65535).put (CH_SEQ_RX_EXPECT (kDie k) (kIdx k)) 0

/-- A chain with its link state lost. -/
def ChainSt.freshed (q : ChainSt) (buf : List Nat) : ChainSt :=
  { q with replay := [], resend := [], used := [0, 0, 0, 0], released := [0, 0, 0, 0], rx := [], got := [0, 0, 0, 0], granted := buf, limit := buf }

theorem State.freshLink_eq : s.freshLink k =
    ((s.seqsReset k).setChain k ((s.chain k).freshed [s.vcBuf k 0, s.vcBuf k 1, s.vcBuf k 2, s.vcBuf k 3])).showChain k := rfl

theorem State.of_freshLink {γ : Type} (g : ChainSt → γ) (hstall : ∀ q : ChainSt, g q.offStall = g q := by intro; rfl)
    (hfresh : ∀ (q : ChainSt) b, g (q.freshed b) = g q := by intros; rfl) : g ((s.freshLink k).chain k) = g (s.chain k) := by
  rw [State.freshLink_eq, State.of_showChain g hstall, State.chain_set_same, hfresh]

theorem State.replay_freshLink : ((s.freshLink k).chain k).replay = [] := by
  rw [State.freshLink_eq, State.of_showChain ChainSt.replay, State.chain_set_same, ChainSt.freshed]

theorem State.get_freshLink {f : RF} {a lo w : Nat} (hf : f = ⟨spanSlot (kDie k) 0x15 a, lo, w⟩) (hseq : a ≠ 0x1030 + 0x400 * kIdx k)
    (hlo : a ≠ 0x1050 + 0x400 * kIdx k) (hhi : a ≠ 0x1060 + 0x400 * kIdx k) : (s.freshLink k).get f = s.get f := by
  rw [State.freshLink_eq, State.get_showChain hf (by omega) hlo hhi, State.get_setChain, State.seqsReset,
    State.get_put_apart (by exact RF.apart rfl hf (by omega)), State.get_put_apart (by exact RF.apart rfl hf (by omega)),
    State.get_put_apart (by exact RF.apart rfl hf (by omega))]

theorem State.seqs_freshLink : (s.freshLink k).get (CH_SEQ_TX_NEXT (kDie k) (kIdx k)) = 0 ∧
    (s.freshLink k).get (CH_SEQ_RX_EXPECT (kDie k) (kIdx k)) = 0 := by
  constructor
  · rw [State.freshLink_eq, State.get_showChain (by exact rfl) (by omega) (by omega) (by omega), State.get_setChain, State.seqsReset,
      State.get_put_apart (by exact RF.apart rfl rfl (by omega)), State.get_put_apart (by exact RF.apart rfl rfl (by omega))]
    exact State.get_put_fits (RF.fits rfl (by omega))
  · rw [State.freshLink_eq, State.get_showChain (by exact rfl) (by omega) (by omega) (by omega), State.get_setChain, State.seqsReset]
    exact State.get_put_fits (RF.fits rfl (by omega))

theorem State.chain_initBegun : (s.initBegun k).chain k = { s.chain k with initSent := 0, initRcvd := 0, lcbDue := true } := State.chain_set_same _ _ _

theorem State.chState_initBegun : (s.initBegun k).chState k = csINIT := by
  rw [State.chState, State.initBegun, State.get_setChain, State.get_put_apart (by exact RF.apart rfl rfl (by omega))]
  exact State.chState_setCh (by decide)

theorem State.chState_enterInit : (s.enterInit k).chState k = csINIT := by
  have hc := kIdx_lt k
  rw [State.enterInit_eq]
  split
  · rw [State.chState, State.get_freshLink (by exact rfl) (by omega) (by omega) (by omega)]
    exact State.chState_initBegun
  · exact State.chState_initBegun

/-- What INIT begins with. -/
theorem State.enterInit_begins : ((s.enterInit k).chain k).initSent = 0 ∧ ((s.enterInit k).chain k).initRcvd = 0 ∧ ((s.enterInit k).chain k).lcbDue = true := by
  rw [State.enterInit_eq]
  split
  · rw [State.of_freshLink ChainSt.initSent, State.of_freshLink ChainSt.initRcvd, State.of_freshLink ChainSt.lcbDue, State.chain_initBegun]
    exact ⟨rfl, rfl, rfl⟩
  · rw [State.chain_initBegun]
    exact ⟨rfl, rfl, rfl⟩

theorem State.rd_initBegun {a o : Nat} (ha : a = spanSlot (kDie k) 0x15 o) (ho : o ≠ 0x1020 + 0x400 * kIdx k) : (s.initBegun k).rd a = s.rd a := by
  rw [State.initBegun, State.rd_setChain, State.rd_put_other (by exact spanSlot_ne ha rfl (by omega)), State.setCh,
    State.rd_put_other (by exact spanSlot_ne ha rfl (by omega))]

end

end Sys2Proof.Machine

namespace Sys2Proof.Machine

open Reg

namespace State.OnlyRegs

variable {s t : State} {as : List Nat} (h : s.OnlyRegs t as) {f : RF} {n : Nat}
include h

theorem bumpBy (hf : f.addr ∈ as) : s.OnlyRegs (t.bumpBy f n) as := h.put hf

theorem laneErrs {k lane code disp : Nat} (hmem : LN_ERRCNT (kDie k) (kLane k lane) ∈ as) : s.OnlyRegs (t.laneErrs k lane code disp) as :=
  (h.bumpBy (by exact hmem)).bumpBy (by exact hmem)

end State.OnlyRegs

section
variable {s : State} {k : Nat} {ls : List AosLane} {ms : List (Nat × Nat)}

/-! ### Alignment ordered sets are received (R199 to R201, R207) -/

/-- The lanes' error counters. -/
def errSlots (k : Nat) : List Nat := (List.range 4).map fun l => LN_ERRCNT (kDie k) (kLane k l)

theorem mem_errSlots {l : Nat} (hl : l ∈ List.range 4) : LN_ERRCNT (kDie k) (kLane k l) ∈ errSlots k := List.mem_map.mpr ⟨l, hl, rfl⟩

theorem notMem_errSlots {a o : Nat} (ha : a = spanSlot (kDie k) 0x15 o) (ho : ∀ n, o ≠ 0x2030 + 0x100 * n) : a ∉ errSlots k := by
  simp only [errSlots, List.mem_map, not_exists, not_and]
  exact fun l _ h => spanSlot_ne ha rfl (ho (kLane k l)) h.symm

/-- The errors of the received lanes counted. -/
def State.aosErrs (s : State) (k : Nat) (ls : List AosLane) : State :=
  forAll (List.range 4) s fun s i =>
    match ls[i]? with
    | none => s
    | some l => when (readAos l == none || !mcAgree (ls.filterMap readAos)) (·.bump (LN_ERRCNT_AOS_ERR (kDie k) (kLane k i)))
        (s.laneErrs k i (l.groups.filter fun g => gChar (if l.inv then 1023 - g else g) == none).length 0)

theorem State.onlyRegs_aosErrs : s.OnlyRegs (s.aosErrs k ls) (errSlots k) := by
  refine State.OnlyRegs.forAll (s.onlyRegs_refl _) fun t i hi ht => ?_
  have hmem := mem_errSlots (k := k) hi
  split
  · exact ht
  · simp only [when]
    split
    · exact (ht.laneErrs hmem).bumpBy hmem
    · exact ht.laneErrs hmem

theorem State.get_aosErrs {f : RF} {a lo w : Nat} (hf : f = ⟨spanSlot (kDie k) 0x15 a, lo, w⟩) (ha : ∀ n, a ≠ 0x2030 + 0x100 * n) :
    (s.aosErrs k ls).get f = s.get f := State.onlyRegs_aosErrs.get (notMem_errSlots (by rw [hf]) ha)

theorem exec_aosReceived_of_align (hst : s.chState k = csALIGN) :
    exec (.aosReceived k ls) s = .next ((s.aosErrs k ls).alignCheck k ls (ls.filterMap readAos)) := by
  change execAosReceived k ls s = _
  rw [execAosReceived]
  simp only [hst, true_or, if_true]
  rfl

theorem exec_aosReceived_of_active (hst : s.chState k = csACTIVE) (hms : 2 ≤ (ls.filterMap readAos).length) :
    exec (.aosReceived k ls) s = .next ((s.aosErrs k ls).aosCheck k (ls.filterMap readAos)) := by
  have hne : csACTIVE ≠ csALIGN := by decide
  change execAosReceived k ls s = _
  rw [execAosReceived]
  simp only [hst, or_true, if_true, if_neg hne, if_neg (Nat.not_lt.mpr hms)]
  rfl

/-- The slots that hold what alignment finds. -/
def alignSlots (k : Nat) : List Nat := CH_PEER (kDie k) (kIdx k) :: (List.range 4).map fun l => LN_STATUS (kDie k) (kLane k l)

theorem notMem_alignSlots {a o : Nat} (ha : a = spanSlot (kDie k) 0x15 o) (hpeer : o ≠ 0x1010 + 0x400 * kIdx k)
    (ho : ∀ n, o ≠ 0x2000 + 0x100 * n) : a ∉ alignSlots k := by
  simp only [alignSlots, List.mem_cons, List.mem_map, not_or, not_exists, not_and]
  exact ⟨spanSlot_ne ha rfl hpeer, fun l _ h => spanSlot_ne ha rfl (ho (kLane k l)) h.symm⟩

theorem State.onlyRegs_noteLanes : s.OnlyRegs (s.noteLanes k ls ms) (alignSlots k) := by
  refine State.OnlyRegs.forAll (s.onlyRegs_refl _) fun t i hi ht => ?_
  have hpeer : CH_PEER (kDie k) (kIdx k) ∈ alignSlots k := List.mem_cons_self
  have hlane : LN_STATUS (kDie k) (kLane k i) ∈ alignSlots k := List.mem_cons_of_mem _ (List.mem_map.mpr ⟨i, hi, rfl⟩)
  split
  · exact ((((ht.put (by exact hlane)).put (by exact hlane)).put (by exact hlane)).put (by exact hpeer)).putBit (by exact hpeer)
  · exact ht

/-- Aligned lanes from the configured peer take the chain to INIT. -/
theorem aosReceived_aligns (hst : s.chState k = csALIGN) (hal : lanesAligned ls (ls.filterMap readAos) = true)
    (hdev : s.get (CH_PEER_RX_DEV (kDie k) (kIdx k)) = s.get (CH_PEER_PEER_DEV (kDie k) (kIdx k)))
    (hchain : s.get (CH_PEER_RX_CHAIN (kDie k) (kIdx k)) = s.get (CH_PEER_PEER_CHAIN (kDie k) (kIdx k))) :
    ∃ t : State, exec (.aosReceived k ls) s = .next t ∧ t.chState k = csINIT ∧ (t.chain k).initSent = 0 ∧ (t.chain k).initRcvd = 0 ∧
      (t.chain k).lcbDue = true ∧
      ((s.chain k).fresh = true → (t.chain k).replay = [] ∧ t.get (CH_SEQ_TX_NEXT (kDie k) (kIdx k)) = 0 ∧ t.get (CH_SEQ_RX_EXPECT (kDie k) (kIdx k)) = 0) ∧
      ((s.chain k).fresh = false → (t.chain k).replay = (s.chain k).replay ∧ t.rd (CH_SEQ (kDie k) (kIdx k)) = s.rd (CH_SEQ (kDie k) (kIdx k))) := by
  have hc := kIdx_lt k
  obtain ⟨u, hu⟩ : ∃ u, u = (s.aosErrs k ls).noteLanes k ls (ls.filterMap readAos) := ⟨_, rfl⟩
  have hexec : exec (.aosReceived k ls) s = .next (u.enterInit k) := by
    rw [exec_aosReceived_of_align hst, State.alignCheck, if_pos hal, ← hu, if_pos]
    rw [State.get_aosErrs (by exact rfl) (by omega), State.get_aosErrs (by exact rfl) (by omega), State.get_aosErrs (by exact rfl) (by omega),
      State.get_aosErrs (by exact rfl) (by omega)]
    exact ⟨hdev, hchain⟩
  have huc : u.chain k = s.chain k := by rw [hu, State.onlyRegs_noteLanes.chain, State.onlyRegs_aosErrs.chain]
  obtain ⟨hsent, hrcvd, hdue⟩ := u.enterInit_begins (k := k)
  refine ⟨_, hexec, State.chState_enterInit, hsent, hrcvd, hdue, fun hfresh => ?_, fun hfresh => ?_⟩ <;> rw [← huc] at hfresh
  · rw [State.enterInit_eq, if_pos hfresh]
    exact ⟨State.replay_freshLink, State.seqs_freshLink⟩
  · rw [State.enterInit_eq, if_neg (by rw [hfresh]; decide), State.chain_initBegun, huc, State.rd_initBegun (by exact rfl) (by omega), hu,
      State.onlyRegs_noteLanes.2 _ (by exact notMem_alignSlots rfl (by omega) (by omega)),
      State.onlyRegs_aosErrs.2 _ (by exact notMem_errSlots rfl (by omega))]
    exact ⟨rfl, rfl⟩

/-- Aligned lanes from another peer are reported once. -/
theorem aosReceived_mismatches (hst : s.chState k = csALIGN) (hal : lanesAligned ls (ls.filterMap readAos) = true)
    (hdev : s.get (CH_PEER_RX_DEV (kDie k) (kIdx k)) ≠ s.get (CH_PEER_PEER_DEV (kDie k) (kIdx k))) (hnew : (s.chain k).mismatchSent = false) :
    ∃ t : State, exec (.aosReceived k ls) s = .next t ∧ t.chState k = csALIGN ∧ (t.chain k).mismatchSent = true ∧
      t.get (GWL_EVENTS_PEER_MISMATCH (kDie k)) = 1 := by
  have hc := kIdx_lt k
  obtain ⟨u, hu⟩ : ∃ u, u = (s.aosErrs k ls).noteLanes k ls (ls.filterMap readAos) := ⟨_, rfl⟩
  have hexec : exec (.aosReceived k ls) s = .next
      (((u.raise (GWL_EVENTS_PEER_MISMATCH (kDie k))).setChain k { u.chain k with mismatchSent := true }).emit 0x59 (kDie k) 3 (kIdx k) k
        ((s.aosErrs k ls).get (CH_PEER_RX_DEV (kDie k) (kIdx k)) + (s.aosErrs k ls).get (CH_PEER_RX_CHAIN (kDie k) (kIdx k)) * 2 ^ 16)) := by
    rw [exec_aosReceived_of_align hst, State.alignCheck, if_pos hal, ← hu, if_neg, if_neg]
    · rw [State.onlyRegs_aosErrs.chain, hnew]; decide
    · rw [State.get_aosErrs (by exact rfl) (by omega), State.get_aosErrs (by exact rfl) (by omega)]
      exact fun h => hdev h.1
  have hust : u.chState k = csALIGN := by
    rw [hu, State.chState, State.onlyRegs_noteLanes.get (by exact notMem_alignSlots rfl (by omega) (by omega)), State.get_aosErrs (by exact rfl) (by omega)]
    exact hst
  have hdrop : ∀ {f : RF} {o lo w : Nat}, f = ⟨spanSlot (kDie k) 0x15 o, lo, w⟩ → o < 2 ^ 36 → f.addr ≠ PKC_DROP := fun hf ho h => by
    have := addrBlock_of_link hf ho
    rw [h] at this
    exact absurd this (by decide)
  refine ⟨_, hexec, ?_, ?_, ?_⟩
  · rw [State.chState, State.get_emit _ _ _ _ _ _ _ (by exact hdrop rfl (by omega)), State.get_setChain, State.get_raise_apart (by exact RF.apart rfl rfl (by omega))]
    exact hust
  · refine (congrArg ChainSt.mismatchSent (State.emit_leaves (π := (State.chain · k)) (fun _ _ _ => rfl) (fun _ _ => rfl) (fun _ _ => rfl) _ _ _ _ _ _ _)).trans ?_
    rw [State.chain_set_same]
  · rw [State.get_emit _ _ _ _ _ _ _ (by exact hdrop rfl (by omega)), State.get_setChain]
    exact State.get_raise_same _ (RF.fits rfl (by omega)) Nat.one_pos

theorem two_le_length_of_mcAgree (h : mcAgree ms = false) : 2 ≤ ms.length := by
  match ms, h with
  | _ :: _ :: _, _ => simp

/-- The receive direction noted awake by an alignment ordered set. -/
def State.rxAwoken (s : State) (k : Nat) : State :=
  (s.put (GWL_CH_STATUS_RX_SLEEP (kDie k) (kIdx k)) 0).putBit (GWL_STATUS_RX_ASLEEP (kDie k)) (kIdx k) false

theorem State.chain_rxAwoken (j : Nat) : (s.rxAwoken k).chain j = s.chain j := by rw [State.rxAwoken, State.chain_putBit, State.chain_put]

theorem State.get_rxAwoken {f : RF} {a lo w : Nat} (hf : f = ⟨spanSlot (kDie k) 0x15 a, lo, w⟩) (hst : a ≠ 0x10)
    (hch : a = 0x1020 + 0x400 * kIdx k → lo + w ≤ 5 ∨ 7 ≤ lo) : (s.rxAwoken k).get f = s.get f := by
  rw [State.rxAwoken, State.get_putBit_apart (by exact RF.apart rfl hf (by omega)), State.get_put_apart (by exact RF.apart rfl hf (by omega))]

section
variable (hst : s.chState k = csACTIVE) (hms : mcAgree (ls.filterMap readAos) = false)
include hst hms

/-- The first disagreement is noted. -/
theorem aosReceived_disagrees (hsleep : s.get (GWL_CH_STATUS_RX_SLEEP (kDie k) (kIdx k)) = 0) (hbad : (s.chain k).aosBad = 0) :
    ∃ t : State, exec (.aosReceived k ls) s = .next t ∧ t.chState k = csACTIVE ∧ (t.chain k).aosBad = 1 := by
  have hc := kIdx_lt k
  have hexec : exec (.aosReceived k ls) s = .next (((s.aosErrs k ls).rxAwoken k).setChain k { ((s.aosErrs k ls).rxAwoken k).chain k with aosBad := 1 }) := by
    rw [exec_aosReceived_of_active hst (two_le_length_of_mcAgree hms), State.aosCheck, if_neg (by rw [hms]; decide), if_neg]
    · rfl
    · rw [State.get_aosErrs (by exact rfl) (by omega), hsleep, State.onlyRegs_aosErrs.chain, hbad]
      decide
  refine ⟨_, hexec, ?_, ?_⟩
  · rw [State.chState, State.get_setChain, State.get_rxAwoken (by exact rfl) (by omega) (by omega), State.get_aosErrs (by exact rfl) (by omega)]
    exact hst
  · rw [State.chain_set_same]

/-- The second retrains. -/
theorem aosReceived_retrains (hk : k < 16) (hbad : 1 ≤ (s.chain k).aosBad) (hb : s.RtBelow k) :
    ∃ t : State, exec (.aosReceived k ls) s = .next t ∧ t.chState k = csTRAIN ∧ (t.chain k).replay = (s.chain k).replay := by
  have hc := kIdx_lt k
  have hexec : exec (.aosReceived k ls) s = .next (((s.aosErrs k ls).rxAwoken k).retrain k) := by
    rw [exec_aosReceived_of_active hst (two_le_length_of_mcAgree hms), State.aosCheck, if_neg (by rw [hms]; decide), if_pos]
    · rfl
    · rw [State.onlyRegs_aosErrs.chain]
      exact .inr hbad
  have hbu : ((s.aosErrs k ls).rxAwoken k).RtBelow k := by
    refine hb.congr ?_ ?_ <;> rw [State.get_rxAwoken (by exact rfl) (by omega) (by omega), State.get_aosErrs (by exact rfl) (by omega)]
  refine ⟨_, hexec, State.chState_retrain hk hbu, ?_⟩
  rw [State.replay_retrain hk hbu, State.chain_rxAwoken, State.onlyRegs_aosErrs.chain]

end

end

end Sys2Proof.Machine

namespace Sys2Proof.Machine

open Reg

/-- Settles O48: clause by clause from the lemmas about signal lock, training ordered sets, the search, the failed attempt, alignment and the
loss of symbol lock. -/
theorem chainsTrainAndAlign : Obligations.ChainsTrainAndAlign := by
  unfold Obligations.ChainsTrainAndAlign
  intro s k hk
  refine ⟨fun hst => ?detect, fun lane pos inv groups o hst hlane hlen hread => ⟨?otherRate, ?sameRate⟩,
    fun lane h w hst hlane hlen htrained hfailed hechoed => ⟨fun l req hstep => ?request, fun hstep => ?ends⟩,
    trainRetry_detects, aosSend_sends, fun ls => ⟨aosReceived_aligns, aosReceived_mismatches, fun hst hms => aosReceived_disagrees hst hms,
      fun hst hms => aosReceived_retrains hst hms hk⟩,
    fun lane hlane => symbolLockLoss_retrains hk hlane⟩
  case detect =>
    obtain ⟨t, hexec, htrain, hothers, hlanes⟩ := signalDetect_trains hst
    refine ⟨t, hexec, htrain, hothers, fun l hl => ?_⟩
    obtain ⟨hstate, hlock, hfirst, hagain⟩ := hlanes l hl
    refine ⟨hstate, hlock, fun h => ?_, hagain⟩
    obtain ⟨hdone, htaps⟩ := hfirst h
    simp only [State.tapsOf, Prod.mk.injEq] at htaps
    exact ⟨hdone, htaps⟩
  case otherRate =>
    intro hrate hfirst hb htries
    exact tosReceived_otherRate hst hlane hlen hread hrate hfirst hb htries
  case sameRate =>
    intro hrate l new r
    obtain ⟨t, stat, now, hexec, hlanes, htaps, halign⟩ := tosReceived_sameRate hst hlane hread hrate
    have hown : (t.chain k).lanes.getD lane .reset = l.heard o stat now := by
      rw [hlanes]
      simp [List.getD_eq_getElem?_getD, hlen, hlane, l]
    have hnew : new = l.newRequest o := rfl
    have hr : r = s.tapsAsked k lane o := rfl
    refine ⟨t, hexec, ?_, ?_, ?_, fun j _ hj => ?_, ?_⟩
    · rw [hown, LaneTrain.heard_ready]
    · rw [hown, LaneTrain.heard_applied, hnew]
    · rw [hown, LaneTrain.heard_echoed]
    · rw [hlanes]
      simp [List.getD_eq_getElem?_getD, hj.symm]
    · rw [hnew, hr, ← and_assoc, ← and_assoc]
      refine ⟨?_, halign⟩
      by_cases h : l.newRequest o = true
      · rw [if_pos h, if_pos h, if_pos h]
        rw [if_pos h] at htaps
        simp only [State.tapsOf, Prod.mk.injEq] at htaps
        exact and_assoc.mpr htaps
      · rw [if_neg h, if_neg h, if_neg h]
        rw [if_neg h] at htaps
        simp only [State.tapsOf, Prod.mk.injEq] at htaps
        exact and_assoc.mpr htaps
  case request => exact eyeMeasure_requests hst hlane htrained hfailed hechoed hlen hstep
  case ends => exact eyeMeasure_ends hst hlane hlen htrained hfailed hechoed hstep

end Sys2Proof.Machine

namespace Sys2Proof.Machine

open Reg

section
variable {s t u : State} {k start : Nat} {x : RxLine} {p : Pkt}

/-! ### Characters are read (R197, R198, R211) -/

theorem State.onlyRegs_readStream : s.OnlyRegs (s.readStream k start x).2 (errSlots k) := by
  refine State.OnlyRegs.forAll (s.onlyRegs_refl _) fun t i _ ht => ht.laneErrs ?_
  exact mem_errSlots (List.mem_range.mpr (bitsOf_lt _ _ 2))

theorem State.OnlyRegs.get_errs (h : s.OnlyRegs t (errSlots k)) {f : RF} {a lo w : Nat} (hf : f = ⟨spanSlot (kDie k) 0x15 a, lo, w⟩)
    (ha : ∀ n, a ≠ 0x2030 + 0x100 * n) : t.get f = s.get f := h.get (notMem_errSlots (by rw [hf]) ha)

/-- What the characters after SOP are, of a stream that begins with SOP. -/
def State.seenPacket (s : State) (k start : Nat) (x : RxLine) : PktSeen :=
  readPacket (dropAos (s.readStream k start x).1.length ((s.readStream k start x).1.drop 1))

/-! ### Nothing waits for room (R17, R18) -/

theorem State.pumpPkf_of_empty (h : s.pkf.transit = []) : s.pumpPkf = s := by
  rw [State.pumpPkf, h]; rfl

theorem State.pump_of_empty (hpkf : s.pkf.transit = []) (hrx : ∀ j, (s.chain j).rx = []) : s.pump = s := by
  have hnone : (s.chainsOf.filter fun k => (s.chain k).rx != []) = [] := List.filter_eq_nil_iff.mpr fun j _ => by simp [hrx j]
  rw [State.pump, State.pumpPkf_of_empty hpkf, hnone]
  rfl

theorem State.pump_of_single (hk : k < 2 * s.part.dies) (hpkf : s.pkf.transit = []) (hrx : ∀ j, j ≠ k → (s.chain j).rx = [])
    (hown : (s.chain k).rx ≠ []) : s.pump = s.drainRx k := by
  have hone : (s.chainsOf.filter fun k => (s.chain k).rx != []) = [k] := by
    have heq : ∀ j ∈ s.chainsOf, ((s.chain j).rx != []) = (j == k) := fun j _ => by
      by_cases hj : j = k
      · subst hj; simp [hown]
      · simp [hrx j hj, hj]
    rw [List.filter_congr heq, List.filter_beq, State.chainsOf, List.count_eq_one_of_mem List.nodup_range (List.mem_range.mpr hk)]
    rfl
  rw [State.pump, State.pumpPkf_of_empty hpkf]
  simp only [hone]
  rfl

/-! ### A packet is received (R211, R215 to R218) -/

section
variable (hst : s.chState k = csACTIVE) (hsop : (s.readStream k start x).1.head? = some (some gSOP))
include hst hsop

theorem exec_packetReceived_of_bad {o : List Nat} (hseen : s.seenPacket k start x = .bad o) :
    exec (.packetReceived k start x false) s = .next ((s.readStream k start x).2.discardPkt k) := by
  change execPacketReceived k start x false s = _
  rw [execPacketReceived, if_neg (not_not.mpr hst), if_neg (not_not.mpr hsop)]
  rw [State.seenPacket] at hseen
  simp only [hseen]
  rfl

theorem exec_packetReceived_of_whole {begun : Bool} (hseen : s.seenPacket k start x = .whole p) :
    exec (.packetReceived k start x begun) s = .next (
      if p.typ = 0 ∨ 4 ≤ p.typ then (s.readStream k start x).2.discardPkt k
      else if p.seq = s.get (CH_SEQ_RX_EXPECT (kDie k) (kIdx k)) then
        if (s.chain k).overdrawn p = true then (s.readStream k start x).2.protoError k
        else ((s.readStream k start x).2.acceptPkt k (start % 4) p).pump
      else if (s.get (CH_SEQ_RX_EXPECT (kDie k) (kIdx k)) + 65535 - p.seq) % 65536 < 32768 then
        (s.readStream k start x).2.setChain k { (s.readStream k start x).2.chain k with lcbDue := true }
      else (s.readStream k start x).2.discardPkt k) := by
  change execPacketReceived k start x begun s = _
  rw [execPacketReceived, if_neg (not_not.mpr hst), if_neg (not_not.mpr hsop)]
  rw [State.seenPacket] at hseen
  simp only [hseen]
  split
  · rfl
  · split
    · split <;> rfl
    · split <;> rfl

end

/-! A packet with the expected SEQ is accepted -/

/-- The chain with an accepted packet in its receive buffer. -/
def ChainSt.accepted (q : ChainSt) (lane : Nat) (p : Pkt) : ChainSt :=
  { q with naked := false, accSince := q.accSince + 1, lcbDue := q.lcbDue || decide (64 ≤ q.accSince + 1),
           got := q.got.modify p.vc fun x => (x + pktCost p) % 2 ^ 24, rx := q.rx ++ [(lane, p)] }

theorem State.acceptPkt_eq (lane : Nat) : s.acceptPkt k lane p =
    ((s.put (CH_SEQ_RX_EXPECT (kDie k) (kIdx k)) ((s.get (CH_SEQ_RX_EXPECT (kDie k) (kIdx k)) + 1) % 65536)).bump
      (CH_COUNT0_RX_PKTS (kDie k) (kIdx k))).setChain k ((s.chain k).accepted lane p) := rfl

/-- The receive buffer without a packet that has left it. -/
def ChainSt.left (q : ChainSt) (e : Nat × Pkt) : ChainSt :=
  { q with rx := q.rx.erase e, released := q.released.modify e.2.vc fun x => (x + pktCost e.2) % 2 ^ 24 }

theorem State.actRoom_neighbour {lane : Nat} (htyp : p.typ = 3) : s.actRoom k lane p = s.inboxRoom (teKey k lane) p.vc := by
  simp [State.actRoom, State.onward, htyp]

theorem State.leaveRx_neighbour {lane : Nat} (htyp : p.typ = 3) (hvc : p.vc = 1) : s.leaveRx k (lane, p) =
    { s.setChain k ((s.chain k).left (lane, p)) with inbox := s.inbox ++ [(teKey k lane, p)] } := by
  have htakes : unitTakes p = true := by simp [unitTakes, hvc]
  rw [State.leaveRx]
  simp only [State.actPacket, if_pos htyp, State.deliver, if_pos htakes]
  rfl

theorem State.drainRx_of_single {e : Nat × Pkt} (hrx : (s.chain k).rx = [e]) :
    s.drainRx k = if s.actRoom k e.1 e.2 = true then s.leaveRx k e else s := by
  rw [State.drainRx, hrx]
  simp only [List.foldl, List.contains_nil, Bool.false_eq_true, if_false, apply_ite Prod.fst]

/-- A NEIGHBOUR with the expected SEQ reaches the timing engine when there is room, and else stays in the receive buffer. -/
theorem packetReceived_accepts {begun : Bool} (hst : s.chState k = csACTIVE) (hsop : (s.readStream k start x).1.head? = some (some gSOP))
    (hseen : s.seenPacket k start x = .whole p) (htyp : p.typ = 3) (hvc : p.vc = 1) (hseq : p.seq = s.get (CH_SEQ_RX_EXPECT (kDie k) (kIdx k)))
    (hdraw : (s.chain k).overdrawn p = false) (hk : k < 2 * s.part.dies) (hpkf : s.pkf.transit = []) (hrx : ∀ j, (s.chain j).rx = []) :
    ∃ t : State, exec (.packetReceived k start x begun) s = .next t ∧
      t.inbox = (if s.inboxRoom (teKey k (start % 4)) 1 then s.inbox ++ [(teKey k (start % 4), p)] else s.inbox) ∧
      (t.chain k).rx = (if s.inboxRoom (teKey k (start % 4)) 1 then [] else [(start % 4, p)]) ∧ (t.chain k).naked = false ∧
      (t.chain k).replay = (s.chain k).replay ∧ t.get (CH_SEQ_RX_EXPECT (kDie k) (kIdx k)) = (p.seq + 1) % 65536 ∧
      ∀ j, j ≠ k → t.chain j = s.chain j := by
  have hread := State.onlyRegs_readStream (s := s) (k := k) (start := start) (x := x)
  obtain ⟨v, hv⟩ : ∃ v, v = (s.readStream k start x).2.acceptPkt k (start % 4) p := ⟨_, rfl⟩
  have hown : v.chain k = (s.chain k).accepted (start % 4) p := by rw [hv, State.acceptPkt_eq, State.chain_set_same, hread.chain]
  have hothers : ∀ j, j ≠ k → v.chain j = s.chain j := fun j hj => by
    rw [hv, State.acceptPkt_eq, State.chain_set_other _ _ hj, State.chain_bump, State.chain_put, hread.chain]
  have hvrx : (v.chain k).rx = [(start % 4, p)] := by rw [hown, ChainSt.accepted, hrx k]; rfl
  have hinbox : v.inbox = s.inbox := by rw [hv, State.acceptPkt_eq, State.setChain_inbox, State.bump_inbox, State.put_inbox, hread.inbox]
  have hexpect : v.get (CH_SEQ_RX_EXPECT (kDie k) (kIdx k)) = (p.seq + 1) % 65536 := by
    have hc := kIdx_lt k
    rw [hv, State.acceptPkt_eq, State.get_setChain, State.get_bump_apart (by exact RF.apart rfl rfl (by omega)), hseq, hread.get_errs (by exact rfl) (by omega)]
    exact (State.get_put_fits (RF.fits rfl (by omega))).trans (Nat.mod_mod _ _)
  have hroom : v.actRoom k (start % 4) p = s.inboxRoom (teKey k (start % 4)) 1 := by
    rw [State.actRoom_neighbour htyp, hvc, State.inboxRoom, hinbox, State.inboxRoom]
  have hexec : exec (.packetReceived k start x begun) s = .next (if s.inboxRoom (teKey k (start % 4)) 1 then v.leaveRx k (start % 4, p) else v) := by
    have hpump : v.pump = v.drainRx k := by
      refine State.pump_of_single ?_ ?_ (fun j hj => by rw [hothers j hj, hrx j]) (by rw [hvrx]; simp)
      · rw [hv, State.acceptPkt_eq, State.setChain_part, State.bump_part, State.put_part, hread.leaves State.part fun _ _ => rfl]
        exact hk
      · rw [hv, State.acceptPkt_eq, State.setChain_pkf, State.bump_pkf, State.put_pkf, hread.pkf, hpkf]
    rw [exec_packetReceived_of_whole hst hsop hseen, if_neg (by omega), if_pos hseq, if_neg (by rw [hdraw]; decide), ← hv, hpump,
      State.drainRx_of_single hvrx, hroom]
  refine ⟨_, hexec, ?_⟩
  by_cases hr : s.inboxRoom (teKey k (start % 4)) 1 = true
  · rw [if_pos hr, if_pos hr, if_pos hr, State.leaveRx_neighbour htyp hvc]
    refine ⟨by rw [hinbox], ?_, ?_, ?_, hexpect, fun j hj => ?_⟩
    · refine (congrArg ChainSt.rx (State.chain_set_same _ _ _)).trans ?_
      rw [ChainSt.left, hvrx]; simp
    · refine (congrArg ChainSt.naked (State.chain_set_same _ _ _)).trans ?_
      rw [ChainSt.left, hown, ChainSt.accepted]
    · refine (congrArg ChainSt.replay (State.chain_set_same _ _ _)).trans ?_
      rw [ChainSt.left, hown, ChainSt.accepted]
    · exact (State.chain_set_other _ _ hj).trans (hothers j hj)
  · rw [if_neg hr, if_neg hr, if_neg hr]
    exact ⟨hinbox, hvrx, by rw [hown, ChainSt.accepted], by rw [hown, ChainSt.accepted], hexpect, hothers⟩

end

end Sys2Proof.Machine

namespace Sys2Proof.Machine

open Reg

section
variable {s t u : State} {k start : Nat} {x : RxLine} {p : Pkt}

/-! ### Protocol errors and discarded packets (R211, R215, R216) -/

theorem State.RtBelow.of_errs (h : s.RtBelow k) (ht : s.OnlyRegs t (errSlots k)) : t.RtBelow k :=
  h.congr (ht.get_errs rfl (by omega)) (ht.get_errs rfl (by omega))

theorem State.RtBelow.raise_proto (h : s.RtBelow k) : (s.raise (GWL_EVENTS_PROTO (kDie k))).RtBelow k := by
  refine h.congr ?_ ?_ <;> exact State.get_raise_apart (by exact RF.apart rfl rfl (by omega))

/-- A packet beyond the credit granted is a protocol error. -/
theorem packetReceived_overdraws {begun : Bool} (hk : k < 16) (hst : s.chState k = csACTIVE)
    (hsop : (s.readStream k start x).1.head? = some (some gSOP)) (hseen : s.seenPacket k start x = .whole p) (hlo : 1 ≤ p.typ) (hhi : p.typ ≤ 3)
    (hseq : p.seq = s.get (CH_SEQ_RX_EXPECT (kDie k) (kIdx k))) (hdraw : (s.chain k).overdrawn p = true) (hb : s.RtBelow k) :
    ∃ t : State, exec (.packetReceived k start x begun) s = .next t ∧ t.chState k = csTRAIN ∧ t.get (GWL_EVENTS_PROTO (kDie k)) = 1 ∧
      t.inbox = s.inbox ∧ t.get (CH_SEQ_RX_EXPECT (kDie k) (kIdx k)) = s.get (CH_SEQ_RX_EXPECT (kDie k) (kIdx k)) := by
  have hc := kIdx_lt k
  have hread := State.onlyRegs_readStream (s := s) (k := k) (start := start) (x := x)
  obtain ⟨v, hv⟩ : ∃ v, v = (s.readStream k start x).2.raise (GWL_EVENTS_PROTO (kDie k)) := ⟨_, rfl⟩
  have hbv : v.RtBelow k := hv ▸ (hb.of_errs hread).raise_proto
  have hexec : exec (.packetReceived k start x begun) s = .next (v.retrain k) := by
    rw [exec_packetReceived_of_whole hst hsop hseen, if_neg (by omega), if_pos hseq, if_pos hdraw, hv]
    rfl
  refine ⟨_, hexec, State.chState_retrain hk hbv, ?_, ?_, ?_⟩
  · rw [State.get_retrain hk hbv (by exact rfl) (by omega) (by omega) (by omega) (by omega) (by omega) (by omega) (by omega), hv]
    exact State.get_raise_same _ (RF.fits rfl (by omega)) Nat.one_pos
  · rw [State.retrain_inbox hk hbv, hv, State.raise_inbox, hread.inbox]
  · rw [State.get_retrain hk hbv (by exact rfl) (by omega) (by omega) (by omega) (by omega) (by omega) (by omega) (by omega), hv,
      State.get_raise_apart (by exact RF.apart rfl rfl (by omega)), hread.get_errs (by exact rfl) (by omega)]

/-- The CRC bucket of chain k takes one more charge. -/
def State.CrcBelow (s : State) (k : Nat) : Prop :=
  s.get (GWL_CH_STATUS_CRC_BKT (kDie k) (kIdx k)) + 1 ≤ s.get (GWL_BUCKET_CFG_CRC_THRESH (kDie k))

/-- The chain whose first discarded packet asks for a NAK. -/
def ChainSt.nakAsked (q : ChainSt) : ChainSt := if q.naked then q else { q with naked := true, nakDue := true, lcbDue := true }

/-- A discarded packet counted. -/
def State.pktCounted (s : State) (k : Nat) : State := (s.raise (GWL_EVENTS_CRC_ERR (kDie k))).bump (CH_COUNT1_CRC_ERR (kDie k) (kIdx k))

/-- A discarded packet noted, its bucket not yet charged. -/
def State.pktLost (s : State) (k : Nat) : State :=
  if (s.chain k).naked then s.pktCounted k
  else (s.pktCounted k).setChain k { s.chain k with naked := true, nakDue := true, lcbDue := true }

theorem State.discardPkt_eq : s.discardPkt k = (s.pktLost k).crcBucket k := rfl

theorem State.chain_pktLost : (s.pktLost k).chain k = (s.chain k).nakAsked := by
  rw [State.pktLost, ChainSt.nakAsked]
  split
  · rw [State.pktCounted, State.chain_bump, State.chain_raise]
  · exact State.chain_set_same _ _ _

theorem State.pktLost_leaves {γ : Type} (π : State → γ) (hset : ∀ (t : State) q, π (t.setChain k q) = π t) :
    π (s.pktLost k) = π (s.pktCounted k) := by
  rw [State.pktLost]
  split
  · rfl
  · exact hset _ _

theorem State.get_pktLost {f : RF} {a lo w : Nat} (hf : f = ⟨spanSlot (kDie k) 0x15 a, lo, w⟩) (hev : a ≠ 0x20) (hcnt : a ≠ 0x1090 + 0x400 * kIdx k) :
    (s.pktLost k).get f = s.get f := by
  refine (State.pktLost_leaves (State.get · f) fun _ _ => rfl).trans ?_
  rw [State.pktCounted, State.get_bump_apart (by exact RF.apart rfl hf (by omega)), State.get_raise_apart (by exact RF.apart rfl hf (by omega))]

/-- What a discarded packet does while its bucket is below the threshold. -/
structure State.Discards (s t : State) (k : Nat) : Prop where
  inbox : t.inbox = s.inbox
  naked : (t.chain k).naked = true
  chState : t.chState k = s.chState k
  asks : (s.chain k).naked = false → (t.chain k).nakDue = true ∧ (t.chain k).lcbDue = true
  keeps : (s.chain k).naked = true → t.chain k = s.chain k
  expect : t.get (CH_SEQ_RX_EXPECT (kDie k) (kIdx k)) = s.get (CH_SEQ_RX_EXPECT (kDie k) (kIdx k))
  bucket : t.get (GWL_CH_STATUS_CRC_BKT (kDie k) (kIdx k)) = s.get (GWL_CH_STATUS_CRC_BKT (kDie k) (kIdx k)) + 1

theorem State.discards_discardPkt (hb : s.CrcBelow k) : s.Discards (s.discardPkt k) k := by
  have hc := kIdx_lt k
  have hget : ∀ {f : RF} {a lo w : Nat}, f = ⟨spanSlot (kDie k) 0x15 a, lo, w⟩ → a ≠ 0x20 → a ≠ 0x1090 + 0x400 * kIdx k →
      (s.pktLost k).get f = s.get f := State.get_pktLost
  have hb' : (s.pktLost k).get (GWL_CH_STATUS_CRC_BKT (kDie k) (kIdx k)) + 1 ≤ (s.pktLost k).get (GWL_BUCKET_CFG_CRC_THRESH (kDie k)) := by
    rw [hget (by exact rfl) (by omega) (by omega), hget (by exact rfl) (by omega) (by omega)]
    exact hb
  have hchain : (s.discardPkt k).chain k = (s.chain k).nakAsked := by
    rw [State.discardPkt_eq, State.crcBucket_of_below hb', State.chain_charge, State.chain_pktLost]
  have hkeep : ∀ {f : RF} {a lo w : Nat}, f = ⟨spanSlot (kDie k) 0x15 a, lo, w⟩ → a ≠ 0x20 → a ≠ 0x1090 + 0x400 * kIdx k →
      (a = 0x1020 + 0x400 * kIdx k → lo + w ≤ 12) → (s.discardPkt k).get f = s.get f := fun hf h1 h2 h3 => by
    rw [State.discardPkt_eq, State.crcBucket_of_below hb', State.get_charge_apart (by exact RF.apart rfl hf (by omega)), hget hf h1 h2]
  refine ⟨?_, ?_, hkeep rfl (by omega) (by omega) (by omega), fun h => ?_, fun h => ?_, hkeep rfl (by omega) (by omega) (by omega), ?_⟩
  · rw [State.discardPkt_eq, State.crcBucket_of_below hb', State.charge_inbox]
    exact (State.pktLost_leaves State.inbox fun _ _ => rfl).trans (by rw [State.pktCounted, State.bump_inbox, State.raise_inbox])
  · rw [hchain, ChainSt.nakAsked]
    split <;> [assumption; rfl]
  · rw [hchain, ChainSt.nakAsked, if_neg (by rw [h]; decide)]
    exact ⟨rfl, rfl⟩
  · rw [hchain, ChainSt.nakAsked, if_pos h]
  · rw [State.discardPkt_eq, State.crcBucket_of_below hb', State.get_charge_crc hb', hget (by exact rfl) (by omega) (by omega)]

/-- The stream's characters do not matter to what a discard does. -/
theorem State.Discards.of_errs (ht : s.OnlyRegs t (errSlots k)) (h : t.Discards u k) : s.Discards u k := by
  have hc := kIdx_lt k
  obtain ⟨hinbox, hnaked, hst, hasks, hkeeps, hexpect, hbucket⟩ := h
  rw [ht.chain] at hasks hkeeps
  exact ⟨hinbox.trans ht.inbox, hnaked, hst.trans (ht.get_errs rfl (by omega)), hasks, hkeeps, hexpect.trans (ht.get_errs rfl (by omega)),
    hbucket.trans (congrArg (· + 1) (ht.get_errs rfl (by omega)))⟩

/-- A packet that is no packet, of no type, or ahead of its turn. -/
def State.unfit (s : State) (k : Nat) (seen : PktSeen) : Prop :=
  (∃ o, seen = .bad o) ∨ (∃ p, seen = .whole p ∧ (p.typ = 0 ∨ 4 ≤ p.typ)) ∨
    (∃ p, seen = .whole p ∧ 1 ≤ p.typ ∧ p.typ ≤ 3 ∧ p.seq ≠ s.get (CH_SEQ_RX_EXPECT (kDie k) (kIdx k)) ∧
      32768 ≤ (s.get (CH_SEQ_RX_EXPECT (kDie k) (kIdx k)) + 65535 - p.seq) % 65536)

theorem exec_packetReceived_of_unfit (hst : s.chState k = csACTIVE) (hsop : (s.readStream k start x).1.head? = some (some gSOP))
    (hunfit : s.unfit k (s.seenPacket k start x)) : exec (.packetReceived k start x false) s = .next ((s.readStream k start x).2.discardPkt k) := by
  obtain ⟨o, hseen⟩ | ⟨p, hseen, htyp⟩ | ⟨p, hseen, hlo, hhi, hseq, hahead⟩ := hunfit
  · exact exec_packetReceived_of_bad hst hsop hseen
  · rw [exec_packetReceived_of_whole hst hsop hseen, if_pos htyp]
  · rw [exec_packetReceived_of_whole hst hsop hseen, if_neg (by omega), if_neg hseq, if_neg (Nat.not_lt.mpr hahead)]

/-- A bad packet, or one ahead of its turn, is counted and NAKed. -/
theorem packetReceived_discards (hst : s.chState k = csACTIVE) (hsop : (s.readStream k start x).1.head? = some (some gSOP))
    (hunfit : s.unfit k (s.seenPacket k start x)) (hb : s.CrcBelow k) :
    ∃ t : State, exec (.packetReceived k start x false) s = .next t ∧ s.Discards t k := by
  have hread := State.onlyRegs_readStream (s := s) (k := k) (start := start) (x := x)
  have hc := kIdx_lt k
  have hbr : (s.readStream k start x).2.CrcBelow k := by
    rw [State.CrcBelow, hread.get_errs (by exact rfl) (by omega), hread.get_errs (by exact rfl) (by omega)]
    exact hb
  exact ⟨_, exec_packetReceived_of_unfit hst hsop hunfit, (State.discards_discardPkt hbr).of_errs hread⟩

/-- An earlier packet only makes a block due. -/
theorem packetReceived_repeats {begun : Bool} (hst : s.chState k = csACTIVE) (hsop : (s.readStream k start x).1.head? = some (some gSOP))
    (hseen : s.seenPacket k start x = .whole p) (hlo : 1 ≤ p.typ) (hhi : p.typ ≤ 3) (hseq : p.seq ≠ s.get (CH_SEQ_RX_EXPECT (kDie k) (kIdx k)))
    (hearlier : (s.get (CH_SEQ_RX_EXPECT (kDie k) (kIdx k)) + 65535 - p.seq) % 65536 < 32768) :
    ∃ t : State, exec (.packetReceived k start x begun) s = .next t ∧ t = { s with chains := t.chains, regs := (s.readStream k start x).2.regs } ∧
      t.chain k = { s.chain k with lcbDue := true } := by
  have hread := State.onlyRegs_readStream (s := s) (k := k) (start := start) (x := x)
  obtain ⟨v, hv⟩ : ∃ v, v = (s.readStream k start x).2 := ⟨_, rfl⟩
  have hexec := exec_packetReceived_of_whole hst hsop hseen (begun := begun)
  rw [if_neg (by omega), if_neg hseq, if_pos hearlier] at hexec
  rw [← hv] at hexec hread ⊢
  refine ⟨_, hexec, ?_, ?_⟩
  · have heq := hread.1
    generalize v.regs = r at heq ⊢
    subst heq
    rfl
  · rw [State.chain_set_same, hread.chain]

end

end Sys2Proof.Machine

namespace Sys2Proof.Machine

open Reg

section
variable {s t : State} {k start : Nat} {x : RxLine} {l : Lcb}

/-! ### Link-control blocks are received (R212 to R216) -/

/-- The limits and requests of a block outside the INIT exchange noted. -/
def ChainSt.lcbNoted (q : ChainSt) (l : Lcb) (now : Nat) : ChainSt :=
  { q with limit := (q.limit.set (2 * l.pair) (l.creditLo % 2 ^ 24)).set (2 * l.pair + 1) (l.creditHi % 2 ^ 24),
           holdAwake := l.holdAwake, actAt := if l.holdAwake ∨ q.holdAwake = true then now else q.actAt,
           creditReq := q.creditReq && ([0, 1, 2, 3].any fun v => q.stalled v),
           lcbDue := q.lcbDue || l.creditReq }

/-- The packets that the acknowledgement of `ack` covers. -/
def State.ackedBy (s : State) (k ack : Nat) : Nat :=
  (ack + 1 + 65536 - (s.get (CH_SEQ_TX_NEXT (kDie k) (kIdx k)) + 65536 - (s.chain k).replay.length) % 65536) % 65536

/-- The chain without its acknowledged packets. -/
def ChainSt.acked (q : ChainSt) (m now : Nat) : ChainSt :=
  { q with replay := q.replay.drop m, resend := q.resend.filter fun p => (q.replay.drop m).contains p,
           ackAt := if 0 < m then now else q.ackAt, actAt := if 0 < m then now else q.actAt }

/-- An acknowledgement of packets that were sent frees them, and begins the count of replays again. -/
theorem State.takeAck_of_le {ack : Nat} (hm : s.ackedBy k ack ≤ (s.chain k).replay.length) : s.takeAck k ack false =
    if 0 < s.ackedBy k ack then
      ((s.setChain k ((s.chain k).acked (s.ackedBy k ack) s.now)).put (CH_SEQ_TX_ACKED (kDie k) (kIdx k)) ack).put (GWL_CH_STATUS_REPLAYS (kDie k) (kIdx k)) 0
    else (s.setChain k ((s.chain k).acked (s.ackedBy k ack) s.now)).put (CH_SEQ_TX_ACKED (kDie k) (kIdx k)) ack := by
  unfold State.ackedBy at hm ⊢
  rw [State.takeAck, if_pos hm, if_neg (by simp)]
  rfl

theorem State.checkInit_of_active (hst : s.chState k = csACTIVE) : s.checkInit k = s := by
  rw [State.checkInit, if_neg]
  rw [hst]
  exact fun h => absurd h.1 (by decide)

theorem State.takeLcb_of_active (hst : s.chState k = csACTIVE) (hinit : l.init = false) (hnak : l.nak = false)
    (hst' : ((s.setChain k ((s.chain k).lcbNoted l s.now)).takeAck k l.ackSeq false).chState k = csACTIVE) : s.takeLcb k l =
      ((s.setChain k ((s.chain k).lcbNoted l s.now)).takeAck k l.ackSeq false).showChain k := by
  have hnoted : s.takeLcb k l = (((if (s.setChain k ((s.chain k).lcbNoted l s.now)).chState k = csACTIVE then
      (s.setChain k ((s.chain k).lcbNoted l s.now)).takeAck k l.ackSeq l.nak else s.setChain k ((s.chain k).lcbNoted l s.now)).checkInit k).showChain k) := by
    rw [State.takeLcb]
    simp only [hinit, Bool.false_and, Bool.false_eq_true, if_false]
    rfl
  rw [hnoted, State.chState_setChain, if_pos hst, hnak, State.checkInit_of_active hst']

theorem State.chain_takeAck_of_le {ack : Nat} (hm : s.ackedBy k ack ≤ (s.chain k).replay.length) :
    (s.takeAck k ack false).chain k = (s.chain k).acked (s.ackedBy k ack) s.now := by
  rw [State.takeAck_of_le hm]
  split
  · rw [State.chain_put, State.chain_put, State.chain_set_same]
  · rw [State.chain_put, State.chain_set_same]

theorem State.get_takeAck_of_le {ack a lo w : Nat} {f : RF} (hm : s.ackedBy k ack ≤ (s.chain k).replay.length) (hf : f = ⟨spanSlot (kDie k) 0x15 a, lo, w⟩)
    (hch : a = 0x1020 + 0x400 * kIdx k → lo + w ≤ 8 ∨ 12 ≤ lo) :
    (s.takeAck k ack false).get f = (s.put (CH_SEQ_TX_ACKED (kDie k) (kIdx k)) ack).get f := by
  have hset : ∀ q : ChainSt, ((s.setChain k q).put (CH_SEQ_TX_ACKED (kDie k) (kIdx k)) ack).get f =
      (s.put (CH_SEQ_TX_ACKED (kDie k) (kIdx k)) ack).get f := fun _ => rfl
  rw [State.takeAck_of_le hm]
  split
  · rw [State.get_put_apart (by exact RF.apart rfl hf (by omega))]
    exact hset _
  · exact hset _

theorem exec_lcbReceived_of_read (hst : s.chState k = csACTIVE) (hread : readLcb (s.readStream k start x).1 = some l) :
    exec (.lcbReceived k start x) s = .next ((s.readStream k start x).2.takeLcb k l) := by
  change execLcbReceived k start x s = _
  rw [execLcbReceived, if_pos (.inr hst)]
  simp only [hread]
  rfl

/-- A block with a bad check has no effect but its code errors. -/
theorem exec_lcbReceived_of_bad (hst : s.chState k = csACTIVE) (hread : readLcb (s.readStream k start x).1 = none) :
    exec (.lcbReceived k start x) s = .next (s.readStream k start x).2 := by
  change execLcbReceived k start x s = _
  rw [execLcbReceived, if_pos (.inr hst)]
  simp only [hread]
  rfl

/-- A block with a right check sets the limits of its pair and frees what it acknowledges. -/
theorem lcbReceived_acknowledges (hst : s.chState k = csACTIVE) (hread : readLcb (s.readStream k start x).1 = some l) (hinit : l.init = false)
    (hm : s.ackedBy k l.ackSeq ≤ (s.chain k).replay.length) (hnak : l.nak = false) :
    ∃ t : State, exec (.lcbReceived k start x) s = .next t ∧ (t.chain k).replay = (s.chain k).replay.drop (s.ackedBy k l.ackSeq) ∧
      (t.chain k).holdAwake = l.holdAwake ∧
      (t.chain k).limit = ((s.chain k).limit.set (2 * l.pair) (l.creditLo % 2 ^ 24)).set (2 * l.pair + 1) (l.creditHi % 2 ^ 24) ∧
      t.get (CH_SEQ_TX_ACKED (kDie k) (kIdx k)) = l.ackSeq % 2 ^ 16 ∧ t.chState k = csACTIVE := by
  have hc := kIdx_lt k
  have hreg := State.onlyRegs_readStream (s := s) (k := k) (start := start) (x := x)
  obtain ⟨u, hu⟩ : ∃ u, u = (s.readStream k start x).2 := ⟨_, rfl⟩
  rw [← hu] at hreg
  obtain ⟨v, hv⟩ : ∃ v, v = u.setChain k ((u.chain k).lcbNoted l u.now) := ⟨_, rfl⟩
  have hget : ∀ {f : RF} {a lo w : Nat}, f = ⟨spanSlot (kDie k) 0x15 a, lo, w⟩ → (∀ n, a ≠ 0x2030 + 0x100 * n) → v.get f = s.get f :=
    fun hf ha => by rw [hv, State.get_setChain, hreg.get_errs hf ha]
  have hvc : v.chain k = (s.chain k).lcbNoted l u.now := by rw [hv, State.chain_set_same, hreg.chain]
  have hacked : v.ackedBy k l.ackSeq = s.ackedBy k l.ackSeq := by
    rw [State.ackedBy, hget (by exact rfl) (by omega), hvc, ChainSt.lcbNoted, State.ackedBy]
  have hmv : v.ackedBy k l.ackSeq ≤ (v.chain k).replay.length := by
    rw [hacked, hvc, ChainSt.lcbNoted]; exact hm
  have hactive : (v.takeAck k l.ackSeq false).chState k = csACTIVE := by
    rw [State.chState, State.get_takeAck_of_le hmv (by exact rfl) (by omega), State.get_put_apart (by exact RF.apart rfl rfl (by omega)),
      hget (by exact rfl) (by omega)]
    exact hst
  have hexec : exec (.lcbReceived k start x) s = .next ((v.takeAck k l.ackSeq false).showChain k) := by
    have hust : u.chState k = csACTIVE := (hreg.get_errs rfl (by omega)).trans hst
    rw [exec_lcbReceived_of_read hst hread, ← hu, State.takeLcb_of_active hust hinit hnak (hv ▸ hactive), ← hv]
  refine ⟨_, hexec, ?_, ?_, ?_, ?_, ?_⟩
  · rw [State.of_showChain ChainSt.replay, State.chain_takeAck_of_le hmv, hacked, hvc, ChainSt.acked, ChainSt.lcbNoted]
  · rw [State.of_showChain ChainSt.holdAwake, State.chain_takeAck_of_le hmv, hvc, ChainSt.acked, ChainSt.lcbNoted]
  · rw [State.of_showChain ChainSt.limit, State.chain_takeAck_of_le hmv, hvc, ChainSt.acked, ChainSt.lcbNoted]
  · rw [State.get_showChain (by exact rfl) (by omega) (by omega) (by omega), State.get_takeAck_of_le hmv (by exact rfl) (by omega)]
    exact State.get_put_fits (RF.fits rfl (by omega))
  · rw [State.chState, State.get_showChain (by exact rfl) (by omega) (by omega) (by omega)]
    exact hactive

end

end Sys2Proof.Machine

namespace Sys2Proof.Machine

open Reg

section
variable {s t : State} {k : Nat} {p : Pkt}

/-! ### Link-control blocks are sent (R213, R217) -/

theorem State.Speaks.lcbNow (h : s.Speaks k t) (j pair : Nat) : t.lcbNow j pair = s.lcbNow j pair := by
  have hbuf : ∀ v, t.vcBuf j v = s.vcBuf j v := fun v => by simp only [State.vcBuf, h.get]
  simp only [State.lcbNow, State.rxLimit, hbuf, h.get, h.chState, h.of_offLine ChainSt.nakDue, h.of_offLine ChainSt.creditReq,
    h.of_offLine ChainSt.released, h.of_offLine ChainSt.fresh]

/-- The alignment ordered set that goes ahead of a block. -/
def State.aosAhead (s : State) (k : Nat) : State :=
  if (s.chain k).aosNext ≤ (s.chain k).pos + 12 then (s.fillTo k (s.chain k).aosNext).sendAosSet k else s

theorem State.speaks_aosAhead : s.Speaks k (s.aosAhead k) := by
  rw [State.aosAhead]
  split
  · exact (State.speaks_fillTo _).trans State.speaks_sendAosSet
  · exact .refl s k

/-- The chain once a block has gone out. -/
def ChainSt.lcbSent (q : ChainSt) (b : Lcb) (now : Nat) : ChainSt :=
  { q with pairNext := 1 - q.pairNext, nakDue := false, lcbDue := false, accSince := 0, lcbAt := now,
           lcb0 := if q.pairNext = 0 then some b else q.lcb0,
           lcb1 := if q.pairNext = 0 then q.lcb1 else some b,
           granted := (q.granted.set (2 * q.pairNext) b.creditLo).set (2 * q.pairNext + 1) b.creditHi,
           initSent := if b.init then q.initSent ||| 2 ^ q.pairNext else q.initSent }

/-- The block noted, before its characters go out. -/
def State.lcbNoted (s : State) (k : Nat) : State :=
  ((s.aosAhead k).emitOut (.lcb k ((s.aosAhead k).lcbNow k ((s.aosAhead k).chain k).pairNext))).setChain k
    (((s.aosAhead k).chain k).lcbSent ((s.aosAhead k).lcbNow k ((s.aosAhead k).chain k).pairNext) s.now)

theorem State.sendLcb_eq : s.sendLcb k =
    ((s.lcbNoted k).sendStream k (lcbChars ((s.aosAhead k).lcbNow k ((s.aosAhead k).chain k).pairNext))).checkInit k := rfl

/-- What a block that goes out on an ACTIVE chain leaves behind. -/
structure State.LcbGone (s t : State) (k : Nat) : Prop where
  out : .lcb k (s.lcbNow k (s.chain k).pairNext) ∈ t.out
  pair : (t.chain k).pairNext = 1 - (s.chain k).pairNext
  due : (t.chain k).lcbDue = false
  nak : (t.chain k).nakDue = false
  pkf : t.pkf = s.pkf
  rx : ∀ j, (t.chain j).rx = (s.chain j).rx
  now : t.now = s.now

theorem State.lcbGone_sendLcb (hst : s.chState k = csACTIVE) : s.LcbGone (s.sendLcb k) k := by
  have hahead : s.Speaks k (s.aosAhead k) := State.speaks_aosAhead
  have hpair := hahead.of_offLine ChainSt.pairNext (j := k)
  have hspeak : (s.lcbNoted k).Speaks k ((s.lcbNoted k).sendStream k (lcbChars ((s.aosAhead k).lcbNow k ((s.aosAhead k).chain k).pairNext))) :=
    State.speaks_sendStream _
  have hactive : ((s.lcbNoted k).sendStream k (lcbChars ((s.aosAhead k).lcbNow k ((s.aosAhead k).chain k).pairNext))).chState k = csACTIVE :=
    (hspeak.chState k).trans ((hahead.chState k).trans hst)
  rw [State.sendLcb_eq, State.checkInit_of_active hactive]
  have hown : (s.lcbNoted k).chain k = ((s.aosAhead k).chain k).lcbSent ((s.aosAhead k).lcbNow k ((s.aosAhead k).chain k).pairNext) s.now :=
    State.chain_set_same _ _ _
  refine ⟨hspeak.out.mem ?_, ?_, ?_, ?_, hspeak.pkf.trans hahead.pkf, fun j => ?_, hspeak.now.trans hahead.now⟩
  · rw [← hahead.lcbNow, ← hpair]
    exact List.mem_cons_self
  · rw [hspeak.of_offLine ChainSt.pairNext, hown, ChainSt.lcbSent, hpair]
  · rw [hspeak.of_offLine ChainSt.lcbDue, hown, ChainSt.lcbSent]
  · rw [hspeak.of_offLine ChainSt.nakDue, hown, ChainSt.lcbSent]
  · rw [hspeak.of_offLine ChainSt.rx, ← hahead.of_offLine ChainSt.rx]
    by_cases hj : j = k
    · rw [hj, hown, ChainSt.lcbSent]
    · exact congrArg ChainSt.rx (State.chain_set_other _ _ hj)

/-- Nothing waits anywhere for room. -/
def State.NoneWait (s : State) : Prop := s.pkf.transit = [] ∧ ∀ j, (s.chain j).rx = []

theorem State.NoneWait.pump (h : s.NoneWait) : s.pump = s := State.pump_of_empty h.1 h.2

theorem State.NoneWait.of_eq (h : s.NoneWait) (hpkf : t.pkf = s.pkf) (hrx : ∀ j, (t.chain j).rx = (s.chain j).rx) : t.NoneWait :=
  ⟨by rw [hpkf, h.1], fun j => by rw [hrx j, h.2 j]⟩

/-- A due block goes first. -/
theorem transmitChoice_lcb (hawake : s.txAwake k = true) (hst : s.chState k = csACTIVE) (hquiet : s.NoneWait) (hdue : (s.chain k).lcbDue = true) :
    ∃ t : State, exec (.transmitChoice k) s = .next t ∧ s.LcbGone t k := by
  have hgone := State.lcbGone_sendLcb hst
  refine ⟨s.sendLcb k, ?_, hgone⟩
  change execTransmitChoice k s = _
  rw [execTransmitChoice, if_pos hawake]
  simp only [hdue, if_true]
  rw [(hquiet.of_eq hgone.pkf hgone.rx).pump]
  rfl

/-- A block with changed values goes out. -/
theorem lcbSendTimer_sends (hawake : s.txAwake k = true) (hst : s.chState k = csACTIVE) (hchanged : s.lcbChanged k = true) :
    ∃ t : State, exec (.lcbSendTimer k) s = .next t ∧ .lcb k (s.lcbNow k (s.chain k).pairNext) ∈ t.out ∧
      (t.chain k).pairNext = 1 - (s.chain k).pairNext ∧
      t.now = max s.now ((s.chain k).lcbAt + min 1 (s.get (GWL_TIMERS_LC_REFRESH_US (kDie k))) * tUs) := by
  have hexec : exec (.lcbSendTimer k) s = .next ((s.advance ((s.chain k).lcbAt + min 1 (s.get (GWL_TIMERS_LC_REFRESH_US (kDie k))) * tUs)).sendLcb k) := by
    change execLcbSendTimer k s = _
    rw [execLcbSendTimer, if_pos ⟨hawake, hchanged⟩]
    rfl
  obtain ⟨hout, hpair, _, _, _, _, hnow⟩ := State.lcbGone_sendLcb
    (s := s.advance ((s.chain k).lcbAt + min 1 (s.get (GWL_TIMERS_LC_REFRESH_US (kDie k))) * tUs)) hst
  exact ⟨_, hexec, hout, hpair, hnow⟩

end

end Sys2Proof.Machine

namespace Sys2Proof.Machine

open Reg

section
variable {s t : State} {k v : Nat} {p : Pkt}

/-! ### Packets go out (R198, R214, R216, R217) -/

/-- Until an alignment ordered set falls due, character n of the stream is on logical lane n mod 4. -/
theorem ChainSt.lanes_stream (cs : List Chr) : ∀ q : ChainSt, q.pos + cs.length ≤ q.aosNext →
    (q.stream cs).1.map Prod.fst = (List.range cs.length).map fun i => (q.pos + i) % 4 := by
  induction cs with
  | nil => intro q _; rfl
  | cons c cs ih =>
    intro q hdue
    rw [List.length_cons] at hdue ⊢
    have hnone : q.aosDue = ([], q) := if_neg fun h => by omega
    have hchar : (q.onLane (q.pos % 4) [c]).1.map Prod.fst = [q.pos % 4] := rfl
    have hpos : (q.charSent c).pos = q.pos + 1 := by rw [ChainSt.charSent, hnone]
    have hnext : (q.charSent c).aosNext = q.aosNext := by rw [ChainSt.charSent, hnone]; rfl
    rw [ChainSt.stream_cons, hnone, List.nil_append, List.map_append, hchar, ih _ (by rw [hpos, hnext]; omega), hpos, List.range_succ_eq_map,
      List.map_cons, List.map_map]
    simp only [List.singleton_append, Nat.add_zero, Function.comp_def, Nat.succ_eq_add_one, Nat.add_comm, Nat.add_left_comm]

theorem State.speaks_sendPkt : s.Speaks k (s.sendPkt k p) := ((State.Speaks.refl s k).emitOut _).trans (State.speaks_sendStream _)

theorem State.out_sendPkt : (s.sendPkt k p).out = .line k ((s.chain k).stream (packetChars p)).1 :: .packet k p :: s.out := (rfl)

theorem State.pm_chains {d ev i n : Nat} : (s.pm d ev i n).chains = s.chains := State.pm_leaves (fun _ _ _ => rfl) (fun _ _ => rfl) s
theorem State.pm_pkf {d ev i n : Nat} : (s.pm d ev i n).pkf = s.pkf := State.pm_leaves (fun _ _ _ => rfl) (fun _ _ => rfl) s
theorem State.pm_out {d ev i n : Nat} : (s.pm d ev i n).out = s.out := State.pm_leaves (fun _ _ _ => rfl) (fun _ _ => rfl) s

theorem State.chain_pm {d ev i n : Nat} (j : Nat) : (s.pm d ev i n).chain j = s.chain j := by
  rw [State.chain, State.pm_chains, State.chain]

/-- A retransmission, before it is counted. -/
def State.resent (s : State) (k : Nat) (p : Pkt) (r : List Pkt) : State := (s.setChain k { s.chain k with resend := r }).sendPkt k p

/-- Retransmissions go in order, character n on logical lane n mod 4. -/
theorem transmitChoice_resends {r : List Pkt} (hawake : s.txAwake k = true) (hst : s.chState k = csACTIVE) (hwait : s.NoneWait)
    (hdue : (s.chain k).lcbDue = false) (hresend : (s.chain k).resend = p :: r) :
    ∃ t : State, exec (.transmitChoice k) s = .next t ∧ (t.chain k).resend = r ∧ (t.chain k).replay = (s.chain k).replay ∧
      ∃ gs, t.out = .line k gs :: .packet k p :: s.out ∧
        ((s.chain k).pos + (packetChars p).length ≤ (s.chain k).aosNext →
          gs.map Prod.fst = (List.range (packetChars p).length).map fun i => ((s.chain k).pos + i) % 4) := by
  have hset : (s.setChain k { s.chain k with resend := r }).chain k = { s.chain k with resend := r } := State.chain_set_same _ _ _
  have hspeak : (s.setChain k { s.chain k with resend := r }).Speaks k (s.resent k p r) := State.speaks_sendPkt
  have hrx : ∀ j, ((s.resent k p r).chain j).rx = (s.chain j).rx := fun j => by
    rw [hspeak.of_offLine ChainSt.rx]
    by_cases hj : j = k
    · rw [hj, hset]
    · rw [State.chain_set_other _ _ hj]
  have hnone : ((s.resent k p r).pm (kDie k) 0x39 (kIdx k) 1).NoneWait := hwait.of_eq
    (by rw [State.pm_pkf, hspeak.pkf, State.setChain_pkf]) fun j => by rw [State.chain_pm, hrx j]
  have hexec : exec (.transmitChoice k) s = .next ((s.resent k p r).pm (kDie k) 0x39 (kIdx k) 1) := by
    change execTransmitChoice k s = _
    rw [execTransmitChoice, if_pos hawake, if_neg (by rw [hdue]; decide), if_neg (not_not.mpr hst)]
    simp only [hresend]
    exact congrArg Host.Outcome.next hnone.pump
  refine ⟨_, hexec, ?_, ?_, ((s.setChain k { s.chain k with resend := r }).chain k).stream (packetChars p) |>.1, ?_, fun hpos => ?_⟩
  · rw [State.chain_pm, hspeak.of_offLine ChainSt.resend, hset]
  · rw [State.chain_pm, hspeak.of_offLine ChainSt.replay, hset]
  · rw [State.pm_out, State.resent, State.out_sendPkt, State.setChain_out]
  · rw [hset]
    exact ChainSt.lanes_stream _ _ hpos

/-! New packets -/

/-- The chain with the first packet of a virtual channel in its replay buffer. -/
def ChainSt.sentNew (q : ChainSt) (v : Nat) (p : Pkt) (n now : Nat) : ChainSt :=
  { q.popVc v with replay := q.replay ++ [{ p with seq := n }], used := q.used.modify v fun x => (x + pktCost p) % 2 ^ 24,
                   ackAt := if q.replay = [] then now else q.ackAt }

theorem ChainSt.vc_sentNew (q : ChainSt) (n now : Nat) : (q.sentNew v p n now).vc v = (q.vc v).tail := by
  match v with
  | 0 | 1 | 2 | _ + 3 => rfl

theorem ChainSt.rx_sentNew (q : ChainSt) (n now : Nat) : (q.sentNew v p n now).rx = q.rx := by
  have hpop : (q.popVc v).rx = q.rx := by
    match v with
    | 0 | 1 | 2 | _ + 3 => rfl
  exact hpop

theorem ChainSt.vc_offStall (q : ChainSt) : q.offStall.vc v = q.vc v := by
  match v with
  | 0 | 1 | 2 | _ + 3 => rfl

theorem ChainSt.vc_offLine (q : ChainSt) : q.offLine.vc v = q.vc v := by
  match v with
  | 0 | 1 | 2 | _ + 3 => rfl

/-- A new packet on the lanes and in the replay buffer. -/
def State.packetSent (s : State) (k v : Nat) (p : Pkt) : State :=
  (s.setChain k ((s.chain k).sentNew v p (s.get (CH_SEQ_TX_NEXT (kDie k) (kIdx k))) s.now)).sendPkt k
    { p with seq := s.get (CH_SEQ_TX_NEXT (kDie k) (kIdx k)) }

/-- The packet counted. -/
def State.packetCounted (s : State) (k n : Nat) : State :=
  ((s.put (CH_SEQ_TX_NEXT (kDie k) (kIdx k)) ((n + 1) % 65536)).bump (CH_COUNT0_TX_PKTS (kDie k) (kIdx k))).pm (kDie k) 0x38 (kIdx k) 1

theorem State.sendNew_eq (hp : ((s.chain k).vc v).head? = some p) :
    s.sendNew k v = (((s.packetSent k v p).packetCounted k (s.get (CH_SEQ_TX_NEXT (kDie k) (kIdx k)))).showChain k) := by
  obtain ⟨ps, hvc⟩ := List.head?_eq_some_iff.mp hp
  rw [State.sendNew]
  simp only [hvc]
  rfl

theorem State.chain_packetCounted {n : Nat} (j : Nat) : (s.packetCounted k n).chain j = s.chain j := by
  rw [State.packetCounted, State.chain_pm, State.chain_bump, State.chain_put]

/-- What a new packet leaves behind. -/
structure State.PacketGone (s t : State) (k v : Nat) (p : Pkt) : Prop where
  vc : (t.chain k).vc v = ((s.chain k).vc v).tail
  replay : (t.chain k).replay = (s.chain k).replay ++ [{ p with seq := s.get (CH_SEQ_TX_NEXT (kDie k) (kIdx k)) }]
  out : ∃ gs, t.out = .line k gs :: .packet k { p with seq := s.get (CH_SEQ_TX_NEXT (kDie k) (kIdx k)) } :: s.out
  next : t.get (CH_SEQ_TX_NEXT (kDie k) (kIdx k)) = (s.get (CH_SEQ_TX_NEXT (kDie k) (kIdx k)) + 1) % 65536
  pkf : t.pkf = s.pkf
  rx : ∀ j, (t.chain j).rx = (s.chain j).rx

theorem State.packetGone_sendNew (hp : ((s.chain k).vc v).head? = some p) : s.PacketGone (s.sendNew k v) k v p := by
  have hc := kIdx_lt k
  obtain ⟨q, hq⟩ : ∃ q, q = (s.chain k).sentNew v p (s.get (CH_SEQ_TX_NEXT (kDie k) (kIdx k))) s.now := ⟨_, rfl⟩
  have hspeak : (s.setChain k q).Speaks k (s.packetSent k v p) := hq ▸ State.speaks_sendPkt
  have hof : ∀ {γ : Type} (g : ChainSt → γ), (∀ q : ChainSt, g q.offStall = g q) → (∀ q : ChainSt, g q.offLine = g q) → ∀ j,
      g ((s.sendNew k v).chain j) = g ((s.setChain k q).chain j) := fun g hstall hline j => by
    rw [State.sendNew_eq hp, State.of_showChain g hstall, State.chain_packetCounted, hspeak.of_offLine g hline]
  refine ⟨?_, ?_, ?_, ?_, ?_, fun j => ?_⟩
  · rw [hof (ChainSt.vc · v) (fun q => q.vc_offStall) (fun q => q.vc_offLine), State.chain_set_same, hq, ChainSt.vc_sentNew]
  · rw [hof ChainSt.replay (fun _ => rfl) fun _ => rfl, State.chain_set_same, hq, ChainSt.sentNew]
  · have hshow : ∀ t : State, (t.showChain k).out = t.out := fun t => State.showChain_leaves State.out (fun _ _ _ => rfl) fun _ _ => rfl
    rw [State.sendNew_eq hp, hshow, State.packetCounted, State.pm_out, State.bump_out, State.put_out, State.packetSent, State.out_sendPkt,
      State.setChain_out]
    exact ⟨_, rfl⟩
  · rw [State.sendNew_eq hp, State.get_showChain (by exact rfl) (by omega) (by omega) (by omega), State.packetCounted,
      State.get_pm _ _ _ _ _ (by rw [addrBlock_of_link (by exact rfl) (by omega)]; decide), State.get_bump_apart (by exact RF.apart rfl rfl (by omega))]
    exact (State.get_put_fits (RF.fits rfl (by omega))).trans (Nat.mod_mod _ _)
  · have hshow : ∀ t : State, (t.showChain k).pkf = t.pkf := fun t => State.showChain_leaves State.pkf (fun _ _ _ => rfl) fun _ _ => rfl
    rw [State.sendNew_eq hp, hshow, State.packetCounted, State.pm_pkf, State.bump_pkf, State.put_pkf, hspeak.pkf, State.setChain_pkf]
  · rw [hof ChainSt.rx (fun _ => rfl) fun _ => rfl]
    by_cases hj : j = k
    · rw [hj, State.chain_set_same, hq, ChainSt.rx_sentNew]
    · rw [State.chain_set_other _ _ hj]

end

end Sys2Proof.Machine

namespace Sys2Proof.Machine

open Reg

section
variable {s t : State} {k v : Nat} {p : Pkt}

/-! ### The transmitter's choice (R217) -/

/-- The chain with the weights left. -/
def ChainSt.weighed (q : ChainSt) (r : Nat × Nat × Nat) : ChainSt := { q with rr0 := r.2.1, rr3 := r.2.2 }

theorem ChainSt.vc_weighed (q : ChainSt) (r : Nat × Nat × Nat) : (q.weighed r).vc v = q.vc v := by
  match v with
  | 0 | 1 | 2 | _ + 3 => rfl

/-- The weights do not matter to what a new packet leaves behind. -/
theorem State.PacketGone.of_weighed {r : Nat × Nat × Nat} (h : (s.setChain k ((s.chain k).weighed r)).PacketGone t k v p) : s.PacketGone t k v p := by
  obtain ⟨hvc, hreplay, hout, hnext, hpkf, hrx⟩ := h
  rw [State.chain_set_same] at hvc hreplay
  refine ⟨hvc.trans (by rw [ChainSt.vc_weighed]), hreplay, hout, hnext, hpkf, fun j => (hrx j).trans ?_⟩
  by_cases hj : j = k
  · rw [hj, State.chain_set_same, ChainSt.weighed]
  · rw [State.chain_set_other _ _ hj]

/-- The round robin is between VC 0 and VC 3. -/
theorem ChainSt.roundRobin_fst (q : ChainSt) (w0 w3 : Nat) : (q.roundRobin w0 w3).1 = 0 ∨ (q.roundRobin w0 w3).1 = 3 := by
  unfold ChainSt.roundRobin
  extract_lets reload a b
  rw [apply_ite Prod.fst]
  split
  · exact .inl rfl
  · exact .inr rfl

/-- The virtual channel whose first packet goes next. -/
def State.nextVc (s : State) (k : Nat) : Nat :=
  if (s.chain k).canSend 1 then 1 else if (s.chain k).canSend 2 then 2 else
    ((s.chain k).roundRobin (s.get (GWL_CH_CFG_W_VC0 (kDie k) (kIdx k))) (s.get (GWL_CH_CFG_W_VC3 (kDie k) (kIdx k)))).1

section
variable (hawake : s.txAwake k = true) (hst : s.chState k = csACTIVE) (hdue : (s.chain k).lcbDue = false) (hresend : (s.chain k).resend = [])
include hawake hst hdue hresend

theorem exec_transmitChoice_of_new (hsend : (s.chain k).canSend (s.nextVc k) = true) : ∃ u : State, (u = s ∨ ∃ r, u = s.setChain k ((s.chain k).weighed r)) ∧
    exec (.transmitChoice k) s = .next (u.sendNew k (s.nextVc k)).pump := by
  have hexec : exec (.transmitChoice k) s = .next (if (s.chain k).canSend 1 then (s.sendNew k 1).pump
      else if (s.chain k).canSend 2 then (s.sendNew k 2).pump
      else if (s.chain k).canSend 0 = true ∨ (s.chain k).canSend 3 = true then
        ((s.setChain k ((s.chain k).weighed ((s.chain k).roundRobin (s.get (GWL_CH_CFG_W_VC0 (kDie k) (kIdx k))) (s.get (GWL_CH_CFG_W_VC3 (kDie k) (kIdx k)))))).sendNew k
          ((s.chain k).roundRobin (s.get (GWL_CH_CFG_W_VC0 (kDie k) (kIdx k))) (s.get (GWL_CH_CFG_W_VC3 (kDie k) (kIdx k)))).1).pump
      else (s.showChain k).pump) := by
    change execTransmitChoice k s = _
    rw [execTransmitChoice, if_pos hawake, if_neg (by rw [hdue]; decide), if_neg (not_not.mpr hst)]
    split
    case h_1 _ _ h => exact absurd (hresend.symm.trans h) (by simp)
    case h_2 =>
      split
      · rfl
      · split
        · rfl
        · split <;> rfl
  by_cases h1 : (s.chain k).canSend 1 = true
  · rw [if_pos h1] at hexec
    rw [State.nextVc, if_pos h1]
    exact ⟨s, .inl rfl, hexec⟩
  · by_cases h2 : (s.chain k).canSend 2 = true
    · rw [if_neg h1, if_pos h2] at hexec
      rw [State.nextVc, if_neg h1, if_pos h2]
      exact ⟨s, .inl rfl, hexec⟩
    · rw [State.nextVc, if_neg h1, if_neg h2] at hsend ⊢
      rw [if_neg h1, if_neg h2, if_pos] at hexec
      · exact ⟨_, .inr ⟨_, rfl⟩, hexec⟩
      · obtain h | h := (s.chain k).roundRobin_fst (s.get (GWL_CH_CFG_W_VC0 (kDie k) (kIdx k))) (s.get (GWL_CH_CFG_W_VC3 (kDie k) (kIdx k)))
        · exact .inl (h ▸ hsend)
        · exact .inr (h ▸ hsend)

/-- The first packet of the chosen virtual channel goes out with the next SEQ and into the replay buffer. -/
theorem transmitChoice_new (hwait : s.NoneWait) (hsend : (s.chain k).canSend (s.nextVc k) = true) (hp : ((s.chain k).vc (s.nextVc k)).head? = some p) :
    ∃ t : State, exec (.transmitChoice k) s = .next t ∧ s.PacketGone t k (s.nextVc k) p := by
  obtain ⟨u, hu, hexec⟩ := exec_transmitChoice_of_new hawake hst hdue hresend hsend
  have hgone : s.PacketGone (u.sendNew k (s.nextVc k)) k (s.nextVc k) p := by
    obtain rfl | ⟨r, rfl⟩ := hu
    · exact State.packetGone_sendNew hp
    · exact (State.packetGone_sendNew (by rw [State.chain_set_same, ChainSt.vc_weighed]; exact hp)).of_weighed
  rw [(hwait.of_eq hgone.pkf hgone.rx).pump] at hexec
  exact ⟨_, hexec, hgone⟩

end

/-! ### Retries and credit (R215, R216) -/

/-- Every unacknowledged packet put to be sent again. -/
def State.replayed (s : State) (k : Nat) : State :=
  (((s.setChain k { s.chain k with resend := (s.chain k).replay, ackAt := s.now }).bump (GWL_CH_STATUS_REPLAYS (kDie k) (kIdx k))).bump
    (CH_COUNT1_REPLAYS (kDie k) (kIdx k))).raise (GWL_EVENTS_REPLAY (kDie k))

theorem State.replayAll_eq : s.replayAll k =
    if s.get (GWL_TIMERS_REPLAY_NUM (kDie k)) ≤ s.get (GWL_CH_STATUS_REPLAYS (kDie k) (kIdx k)) then s.retrain k else s.replayed k := rfl

theorem State.chain_replayed : (s.replayed k).chain k = { s.chain k with resend := (s.chain k).replay, ackAt := s.now } := by
  rw [State.replayed, State.chain_raise, State.chain_bump, State.chain_bump, State.chain_set_same]

theorem exec_replayTimeout_of_active (hst : s.chState k = csACTIVE) (hreplay : (s.chain k).replay ≠ []) : exec (.replayTimeout k) s =
    .next ((s.advance ((s.chain k).ackAt + s.get (GWL_TIMERS_REPLAY_TO_US (kDie k)) * tUs)).replayAll k) := by
  change execReplayTimeout k s = _
  rw [execReplayTimeout, if_pos ⟨hst, hreplay⟩]
  rfl

/-- Without progress every unacknowledged packet is sent again. -/
theorem replayTimeout_resends (hst : s.chState k = csACTIVE) (hreplay : (s.chain k).replay ≠ [])
    (hnum : s.get (GWL_CH_STATUS_REPLAYS (kDie k) (kIdx k)) < s.get (GWL_TIMERS_REPLAY_NUM (kDie k))) :
    ∃ t : State, exec (.replayTimeout k) s = .next t ∧ (t.chain k).resend = (s.chain k).replay ∧ (t.chain k).replay = (s.chain k).replay ∧
      t.chState k = csACTIVE ∧ t.get (GWL_CH_STATUS_REPLAYS (kDie k) (kIdx k)) = s.get (GWL_CH_STATUS_REPLAYS (kDie k) (kIdx k)) + 1 := by
  have hc := kIdx_lt k
  obtain ⟨u, hu⟩ : ∃ u, u = s.advance ((s.chain k).ackAt + s.get (GWL_TIMERS_REPLAY_TO_US (kDie k)) * tUs) := ⟨_, rfl⟩
  have hget : ∀ f, u.get f = s.get f := fun f => by rw [hu, State.get_advance]
  have hchain : u.chain k = s.chain k := by rw [hu, State.chain_advance]
  have hexec := exec_replayTimeout_of_active hst hreplay
  rw [← hu, State.replayAll_eq, hget, hget, if_neg (Nat.not_le.mpr hnum)] at hexec
  have hwidth : s.get (GWL_TIMERS_REPLAY_NUM (kDie k)) < 16 := State.get_lt s _
  refine ⟨_, hexec, ?_, ?_, ?_, ?_⟩
  · rw [State.chain_replayed, hchain]
  · rw [State.chain_replayed, hchain]
  · rw [State.chState, State.replayed, State.get_raise_apart (by exact RF.apart rfl rfl (by omega)),
      State.get_bump_apart (by exact RF.apart rfl rfl (by omega)), State.get_bump_apart (by exact RF.apart rfl rfl (by omega)), State.get_setChain, hget]
    exact hst
  · rw [State.replayed, State.get_raise_apart (by exact RF.apart rfl rfl (by omega)), State.get_bump_apart (by exact RF.apart rfl rfl (by omega)),
      State.get_bump_fits (by exact RF.fits rfl (by omega)), State.get_setChain, hget]
    exact Nat.min_eq_right (Nat.le_sub_one_of_lt (Nat.lt_of_le_of_lt hnum hwidth))

/-- The retry count used up retrains the chain with its link state kept. -/
theorem replayTimeout_retrains (hk : k < 16) (hst : s.chState k = csACTIVE) (hreplay : (s.chain k).replay ≠ [])
    (hnum : s.get (GWL_TIMERS_REPLAY_NUM (kDie k)) ≤ s.get (GWL_CH_STATUS_REPLAYS (kDie k) (kIdx k))) (hb : s.RtBelow k) :
    ∃ t : State, exec (.replayTimeout k) s = .next t ∧ t.chState k = csTRAIN ∧ (t.chain k).replay = (s.chain k).replay := by
  have hexec := exec_replayTimeout_of_active hst hreplay
  rw [State.replayAll_eq, State.get_advance, State.get_advance, if_pos hnum] at hexec
  have hb' : (s.advance ((s.chain k).ackAt + s.get (GWL_TIMERS_REPLAY_TO_US (kDie k)) * tUs)).RtBelow k := hb.congr (State.get_advance _ _ _) (State.get_advance _ _ _)
  refine ⟨_, hexec, State.chState_retrain hk hb', ?_⟩
  rw [State.replay_retrain hk hb', State.chain_advance]

/-- Want of credit asks for it. -/
theorem creditTimeout_asks (hst : s.chState k = csACTIVE) (hstall : (s.chain k).stalled v = true) :
    ∃ t : State, exec (.creditTimeout k v) s = .next t ∧ (t.chain k).creditReq = true ∧ (t.chain k).lcbDue = true ∧
      t.get (GWL_EVENTS_CREDIT_STALL (kDie k)) = 1 := by
  have hc := kIdx_lt k
  have hexec : exec (.creditTimeout k v) s = .next ((((s.advance ((s.chain k).stallAt.getD v 0 +
      s.get (GWL_TIMERS_CREDIT_TO_US (kDie k)) * tUs)).raise (GWL_EVENTS_CREDIT_STALL (kDie k))).setChain k
        { s.chain k with creditReq := true, lcbDue := true }).showChain k) := by
    change execCreditTimeout k v s = _
    rw [execCreditTimeout, if_pos ⟨hst, hstall⟩]
    rfl
  refine ⟨_, hexec, ?_, ?_, ?_⟩
  · rw [State.of_showChain ChainSt.creditReq, State.chain_set_same]
  · rw [State.of_showChain ChainSt.lcbDue, State.chain_set_same]
  · rw [State.get_showChain (by exact rfl) (by omega) (by omega) (by omega), State.get_setChain]
    exact State.get_raise_same _ (RF.fits rfl (by omega)) Nat.one_pos

end

end Sys2Proof.Machine

namespace Sys2Proof.Machine

open Reg

section
variable {s t : State} {k lv ns : Nat}

/-! ### Sleep and wake (R222, R223) -/

/-- The state with SLP on its way. -/
def State.slpSent (s : State) (k lv : Nat) : State :=
  ((s.advance ((s.chain k).actAt + s.get (GWL_CH_CFG_SLEEP_IDLE_US (kDie k) (kIdx k)) * tUs)).emitOut (.sleep k lv)).sendSlp k lv

/-- A direction asleep. -/
def State.txSlept (s : State) (k lv : Nat) : State :=
  ((s.put (GWL_CH_STATUS_TX_SLEEP (kDie k) (kIdx k)) lv).putBit (GWL_STATUS_TX_ASLEEP (kDie k)) (kIdx k) true).bump (CH_SLEEP_ENTRIES (kDie k) (kIdx k))

theorem State.now_sendSlp : (s.sendSlp k lv).now = s.now :=
  (State.speaks_fillTo ((s.chain k).pos + (4 - (s.chain k).pos % 4) % 4)).now

theorem State.mem_out_sendSlp {o : Output} (h : o ∈ s.out) : o ∈ (s.sendSlp k lv).out :=
  List.mem_cons_of_mem _ ((State.speaks_fillTo ((s.chain k).pos + (4 - (s.chain k).pos % 4) % 4)).out.mem h)

theorem State.sleptAt_sendSlp : ((s.sendSlp k lv).chain k).sleptAt = s.now := congrArg ChainSt.sleptAt (State.chain_set_same _ _ _)

/-- An idle direction sleeps at its level. -/
theorem sleepIdle_sleeps (hst : s.chState k = csACTIVE) (hawake : s.get (GWL_CH_STATUS_TX_SLEEP (kDie k) (kIdx k)) = 0)
    (hlv : s.get (GWL_CH_CFG_SLEEP_TX (kDie k) (kIdx k)) = 1 ∨ s.get (GWL_CH_CFG_SLEEP_TX (kDie k) (kIdx k)) = 2)
    (hwait : (s.chain k).waiting = false) (hreplay : (s.chain k).replay = []) (hhold : (s.chain k).holdAwake = false) :
    ∃ t : State, exec (.sleepIdle k) s = .next t ∧
      t.get (GWL_CH_STATUS_TX_SLEEP (kDie k) (kIdx k)) = s.get (GWL_CH_CFG_SLEEP_TX (kDie k) (kIdx k)) ∧
      .sleep k (s.get (GWL_CH_CFG_SLEEP_TX (kDie k) (kIdx k))) ∈ t.out ∧ (t.chain k).sleptAt = t.now ∧
      t.now = max s.now ((s.chain k).actAt + s.get (GWL_CH_CFG_SLEEP_IDLE_US (kDie k) (kIdx k)) * tUs) := by
  obtain ⟨lv, hlevel⟩ : ∃ lv, lv = s.get (GWL_CH_CFG_SLEEP_TX (kDie k) (kIdx k)) := ⟨_, rfl⟩
  rw [← hlevel] at hlv ⊢
  have hexec : exec (.sleepIdle k) s = .next ((s.slpSent k lv).txSlept k lv) := by
    change execSleepIdle k s = _
    rw [execSleepIdle, ← hlevel, if_pos ⟨hst, hawake, hlv, hwait, hreplay, hhold⟩]
    rfl
  have hnow : ((s.slpSent k lv).txSlept k lv).now = max s.now ((s.chain k).actAt + s.get (GWL_CH_CFG_SLEEP_IDLE_US (kDie k) (kIdx k)) * tUs) := by
    rw [State.txSlept, State.bump_now, State.putBit_now, State.put_now, State.slpSent, State.now_sendSlp]
    rfl
  refine ⟨_, hexec, ?_, ?_, ?_, hnow⟩
  · rw [State.txSlept, State.get_bump_apart (by exact RF.apart rfl rfl (by omega)), State.get_putBit_apart (by exact RF.apart rfl rfl (by omega)),
      State.get_put_fits (by exact RF.fits rfl (by omega))]
    exact Nat.mod_eq_of_lt (by change lv < 4; omega)
  · rw [State.txSlept, State.bump_out, State.putBit_out, State.put_out, State.slpSent]
    exact State.mem_out_sendSlp List.mem_cons_self
  · rw [hnow, State.txSlept, State.chain_bump, State.chain_putBit, State.chain_put, State.slpSent, State.sleptAt_sendSlp]
    rfl

/-- The partner's sleep is noted, a loss of activity of the line's reference. -/
theorem sleepReceived_notes (hk : k < 16) (hst : s.chState k = csACTIVE) (hlv : lv = 1 ∨ lv = 2) :
    ∃ t : State, exec (.sleepReceived k lv) s = .next t ∧ t.get (GWL_CH_STATUS_RX_SLEEP (kDie k) (kIdx k)) = lv ∧ t.chains = s.chains ∧
      (s.refState (4 + k) ≠ rfOFF → t.refState (4 + k) = rfINVALID) := by
  have hc := kIdx_lt k
  obtain ⟨u, hu⟩ : ∃ u, u = (s.put (GWL_CH_STATUS_RX_SLEEP (kDie k) (kIdx k)) lv).putBit (GWL_STATUS_RX_ASLEEP (kDie k)) (kIdx k) true := ⟨_, rfl⟩
  have hexec : exec (.sleepReceived k lv) s = .next (u.lineFail k) := by
    change execSleepReceived k lv s = _
    rw [execSleepReceived, if_pos ⟨hst, hlv⟩, hu]
    rfl
  refine ⟨_, hexec, ?_, ?_, fun hoff => State.refState_lineFail hk ?_⟩
  · rw [State.get_lineFail hk (by exact addrBlock_of_link rfl (by omega)), hu, State.get_putBit_apart (by exact RF.apart rfl rfl (by omega)),
      State.get_put_fits (by exact RF.fits rfl (by omega))]
    exact Nat.mod_eq_of_lt (by change lv < 4; omega)
  · rw [State.lineFail_chains, hu, State.putBit_chains, State.put_chains]
  · have hkeep : ∀ (t : State) (f : RF) (v : Nat), addrBlock f.addr = 0x15 → (t.put f v).refState (4 + k) = t.refState (4 + k) := fun t f v hf =>
      State.get_put_of_block t v (by rw [hf]; exact (addrBlock_REF_STATUS (by omega)).trans_ne (by decide))
    rw [hu, State.putBit, hkeep _ _ _ (by exact addrBlock_of_link (f := GWL_STATUS_RX_ASLEEP (kDie k)) rfl (by omega)),
      hkeep _ _ _ (by exact addrBlock_of_link (f := GWL_CH_STATUS_RX_SLEEP (kDie k) (kIdx k)) rfl (by omega))]
    exact hoff

/-- Something to send wakes a sleeping direction. -/
theorem directionWake_wakes (hst : s.chState k = csACTIVE) (hslept : s.get (GWL_CH_STATUS_TX_SLEEP (kDie k) (kIdx k)) ≠ 0)
    (hwant : (s.chain k).waiting = true ∨ (s.chain k).holdAwake = true) :
    ∃ t : State, exec (.directionWake k ns) s = .next t ∧ t.get (GWL_CH_STATUS_TX_SLEEP (kDie k) (kIdx k)) = 0 ∧ .aos k (s.chain k).mc ∈ t.out ∧
      .wake k ∈ t.out ∧ t.now = s.now + min ns (s.wakeBound k) * 65536 := by
  have hexec : exec (.directionWake k ns) s = .next (s.wakeTx k ns) := by
    change execDirectionWake k ns s = _
    rw [execDirectionWake, if_pos ⟨hst, hslept, hwant⟩]
    rfl
  have hout : (s.wakeTx k ns).out = (s.wakeSent k).out := State.wakeTx_leaves State.out (fun _ _ _ => rfl) fun _ _ => rfl
  refine ⟨_, hexec, ?_, ?_, ?_, ?_⟩
  · unfold State.wakeTx
    extract_lets d c n s1 s2
    rw [State.get_put_apart (by exact RF.apart rfl rfl (by omega))]
    simp only [s2, State.chainTxAwake]
    rw [State.get_putBit_apart (by exact RF.apart rfl rfl (by omega)), State.get_put_fits (by exact RF.fits rfl (by omega))]
    rfl
  · obtain ⟨gs, out, _, haos⟩ := (State.out_sendAosSet (s := (s.emitOut (.wake k)).emitOut (.fill k 4096)) (k := k))
    rw [hout, State.wakeSent, haos]
    exact List.mem_cons_of_mem _ List.mem_cons_self
  · have hsent := (State.speaks_sendAosSet (s := (s.emitOut (.wake k)).emitOut (.fill k 4096)) (k := k)).out
    rw [hout, State.wakeSent]
    exact hsent.mem (List.mem_cons_of_mem _ List.mem_cons_self)
  · have hnow : ∀ t : State, (t.chainTxAwake k).now = t.now := fun t => State.chainTxAwake_leaves State.now fun _ _ _ => rfl
    have hadv : ∀ (t : State) n, (t.advance n).now = max t.now n := fun _ _ => rfl
    have hsent : (((s.emitOut (.wake k)).emitOut (.fill k 4096)).sendAosSet k).now = s.now := State.speaks_sendAosSet.now
    simp only [State.wakeTx]
    rw [State.put_now, hnow, hadv, hsent]
    omega

end

end Sys2Proof.Machine

namespace Sys2Proof.Machine

open Reg

section
variable {s t : State} {k hop toDie : Nat} {x y : PkfPkt}

/-! ### The package fabric (R20 to R22) -/

/-- Packets on their way between dies. -/
def State.onWay (s : State) (l : List PkfPkt) : State := { s with pkf := { s.pkf with transit := l } }

/-- A packet's next place on the ring. -/
def State.nextPos (s : State) (x : PkfPkt) : Nat := if x.up then (x.pos + 1) % s.ringLen else (x.pos + s.ringLen - 1) % s.ringLen

theorem State.mayArrive_of_single (hpkf : s.pkf.transit = [y]) (hunit : y.egress = none) :
    s.mayArrive y = (y.pos == y.dest && s.inboxRoom (dieAt y.dest) y.pkt.vc) := by
  simp [State.mayArrive, hpkf, hunit]

theorem State.pumpPkf_of_single (hpkf : s.pkf.transit = [y]) : s.pumpPkf = if s.mayArrive y = true then (s.onWay []).arrive y else s := by
  rw [State.pumpPkf, hpkf]
  simp only [forAll, List.foldl, hpkf, List.erase_cons_head]
  rfl

theorem State.pump_of_noRx (hrx : ∀ j, (s.pumpPkf.chain j).rx = []) : s.pump = s.pumpPkf := by
  have hnone : (s.pumpPkf.chainsOf.filter fun k => (s.pumpPkf.chain k).rx != []) = [] := List.filter_eq_nil_iff.mpr fun j _ => by simp [hrx j]
  rw [State.pump]
  simp only [hnone]
  rfl

theorem State.arrive_of_unit (hunit : y.egress = none) (htakes : unitTakes y.pkt = true) :
    s.arrive y = { s with inbox := s.inbox ++ [(dieAt y.dest, y.pkt)] } := by
  rw [State.arrive]
  simp only [hunit, State.deliver, if_pos htakes]

/-- The packet that waits at its hop is found there. -/
theorem find_transit (hpkf : s.pkf.transit = [x]) (hhop : s.nextHop x = hop) (hdest : x.dest = ringPos toDie) :
    (s.pkf.transit.find? fun y => s.nextHop y == hop && y.dest == ringPos toDie && y.pkt.vc == x.pkt.vc) = some x := by
  rw [hpkf]
  exact List.find?_cons_of_pos (by simp [hhop, hdest])

section
variable (hpkf : s.pkf.transit = [x]) (hhop : s.nextHop x = hop) (hdest : x.dest = ringPos toDie) (hmode : mMUSTER ≤ s.mode)
include hpkf hhop hdest hmode

theorem exec_pkfPacket_of_good : exec (.pkfPacket hop x.pkt toDie true) s = .next (s.onWay [{ x with pos := s.nextPos x }]).pump := by
  change execPkfPacket hop x.pkt toDie true s = _
  rw [execPkfPacket, find_transit hpkf hhop hdest]
  simp only [ne_eq, not_true, false_or, if_neg (Nat.not_lt.mpr hmode), if_true, hpkf]
  simp [State.onWay, State.nextPos, ok]

/-- A packet that fails its check is retried and counted on its hop. -/
theorem pkfPacket_retries (hbkt : Store.get (fun _ => 0) s.pkf.bkt hop < 1000) :
    ∃ t : State, exec (.pkfPacket hop x.pkt toDie false) s = .next t ∧ t = { s with pkf := t.pkf, timers := t.timers } ∧
      t.pkf.transit = s.pkf.transit ∧ Store.get (fun _ => 0) t.pkf.bkt hop = Store.get (fun _ => 0) s.pkf.bkt hop + 1 := by
  obtain ⟨n, hn⟩ : ∃ n, n = Store.get (fun _ => 0) s.pkf.bkt hop + 1 := ⟨_, rfl⟩
  have hexec : ∃ timers, exec (.pkfPacket hop x.pkt toDie false) s =
      .next { s with timers := timers, pkf := { s.pkf with bkt := Store.put (fun _ => 0) s.pkf.bkt hop n } } := by
    change ∃ timers, execPkfPacket hop x.pkt toDie false s = _
    rw [execPkfPacket, find_transit hpkf hhop hdest]
    simp only [ne_eq, not_true, false_or, if_neg (Nat.not_lt.mpr hmode), Bool.false_eq_true, if_false, ← hn, if_neg (show ¬ 1000 < n by omega)]
    by_cases hfirst : n = 1
    · exact ⟨(s.setTimer (bktKey ⟨dcPACKAGE, 10, hop⟩ 0) s.now).timers, by rw [if_pos hfirst]; rfl⟩
    · exact ⟨s.timers, by rw [if_neg hfirst]; rfl⟩
  obtain ⟨timers, hexec⟩ := hexec
  exact ⟨_, hexec, rfl, rfl, (Store.get_put_same _ _ _ _).trans hn⟩

/-- A hop carries the packet on, and hands it over at the end of its way when there is room. -/
theorem pkfPacket_arrives (hrx : ∀ j, (s.chain j).rx = []) (hend : s.nextPos x = x.dest) (hunit : x.egress = none) (htakes : unitTakes x.pkt = true) :
    ∃ t : State, exec (.pkfPacket hop x.pkt toDie true) s = .next t ∧
      t.inbox = (if s.inboxRoom (dieAt x.dest) x.pkt.vc then s.inbox ++ [(dieAt x.dest, x.pkt)] else s.inbox) ∧
      t.pkf.transit = (if s.inboxRoom (dieAt x.dest) x.pkt.vc then [] else [{ x with pos := s.nextPos x }]) := by
  obtain ⟨y, hy⟩ : ∃ y, y = ({ x with pos := s.nextPos x } : PkfPkt) := ⟨_, rfl⟩
  have hmay : (s.onWay [y]).mayArrive y = s.inboxRoom (dieAt x.dest) x.pkt.vc := by
    rw [State.mayArrive_of_single rfl (by rw [hy]; exact hunit), hy, hend]
    simp only [beq_self_eq_true, Bool.true_and]
    rfl
  have hfabric : (s.onWay [y]).pumpPkf = if s.inboxRoom (dieAt x.dest) x.pkt.vc = true then
      { s.onWay [] with inbox := s.inbox ++ [(dieAt x.dest, x.pkt)] } else s.onWay [y] := by
    rw [State.pumpPkf_of_single rfl, hmay, State.arrive_of_unit (by rw [hy]; exact hunit) (by rw [hy]; exact htakes), hy]
    rfl
  have hpump : (s.onWay [y]).pump = (s.onWay [y]).pumpPkf := State.pump_of_noRx fun j => by
    rw [hfabric]
    split <;> exact hrx j
  refine ⟨_, exec_pkfPacket_of_good hpkf hhop hdest hmode, ?_, ?_⟩ <;> rw [← hy, hpump, hfabric] <;> split <;> rfl

theorem pkfPacket_goesOn (hrx : ∀ j, (s.chain j).rx = []) (hway : s.nextPos x ≠ x.dest) :
    ∃ t : State, exec (.pkfPacket hop x.pkt toDie true) s = .next t ∧ t.inbox = s.inbox ∧ t.pkf.transit = [{ x with pos := s.nextPos x }] := by
  have hmay : (s.onWay [{ x with pos := s.nextPos x }]).mayArrive { x with pos := s.nextPos x } = false := by
    simp [State.mayArrive, hway]
  have hfabric : (s.onWay [{ x with pos := s.nextPos x }]).pumpPkf = s.onWay [{ x with pos := s.nextPos x }] := by
    rw [State.pumpPkf_of_single rfl, hmay]
    rfl
  refine ⟨_, exec_pkfPacket_of_good hpkf hhop hdest hmode, ?_⟩
  rw [State.pump_of_noRx (by rw [hfabric]; exact hrx), hfabric]
  exact ⟨rfl, rfl⟩

end

end

end Sys2Proof.Machine

namespace Sys2Proof.Machine

open Reg

/-- Settles O49: clause by clause from the lemmas about received packets and blocks, the transmitter's choice, retries, sleep and the package
fabric. -/
theorem linksCarryPackets : Obligations.LinksCarryPackets := by
  unfold Obligations.LinksCarryPackets
  intro s k hk
  refine ⟨fun start x hst hsop => ⟨fun p begun hseen htyp hvc hseq hdraw hdie hpkf hrx => ?accepts,
      fun p begun hseen hlo hhi hseq hdraw hb => ?overdraws, fun hunfit hb => ?discards, fun p begun hseen hlo hhi hseq hearlier => ?earlier⟩,
    fun start x hst => ⟨fun l hread hinit hm hnak => ?acknowledges, exec_lcbReceived_of_bad hst⟩,
    fun hawake hst hpkf hrx => ⟨fun hdue => ?block, lcbSendTimer_sends hawake hst, fun p r hdue hresend => ?resends,
      fun p v hdue hresend hsend hp hv => ?new⟩,
    fun hst => ⟨fun hreplay hnum => replayTimeout_resends hst hreplay hnum, fun hreplay hnum hb => replayTimeout_retrains hk hst hreplay hnum hb,
      fun v hstall => creditTimeout_asks hst hstall, fun hawake hlv hwait hreplay hhold => sleepIdle_sleeps hst hawake hlv hwait hreplay hhold,
      fun lv hlv => sleepReceived_notes hk hst hlv, fun ns hslept hwant => directionWake_wakes hst hslept hwant⟩,
    fun hop toDie x hpkf hrx hhop hdest hmode => ⟨fun hend hunit htakes => pkfPacket_arrives hpkf hhop hdest hmode hrx hend hunit htakes,
      fun hway => pkfPacket_goesOn hpkf hhop hdest hmode hrx hway, fun hbkt => pkfPacket_retries hpkf hhop hdest hmode hbkt⟩⟩
  case accepts => exact packetReceived_accepts hst hsop hseen htyp hvc hseq hdraw hdie hpkf hrx
  case overdraws => exact packetReceived_overdraws hk hst hsop hseen hlo hhi hseq hdraw hb
  case discards =>
    obtain ⟨t, hexec, hinbox, hnaked, hch, hasks, hkeeps, hexpect, hbucket⟩ := packetReceived_discards hst hsop hunfit hb
    exact ⟨t, hexec, hinbox, hnaked, hch.trans hst, hasks, hkeeps, hexpect, hbucket⟩
  case earlier => exact packetReceived_repeats hst hsop hseen hlo hhi hseq hearlier
  case acknowledges => exact lcbReceived_acknowledges hst hread hinit hm hnak
  case block =>
    obtain ⟨t, hexec, hgone⟩ := transmitChoice_lcb hawake hst ⟨hpkf, hrx⟩ hdue
    exact ⟨t, hexec, hgone.out, hgone.pair, hgone.due, hgone.nak⟩
  case resends => exact transmitChoice_resends hawake hst ⟨hpkf, hrx⟩ hdue hresend
  case new =>
    obtain rfl : v = s.nextVc k := hv
    obtain ⟨t, hexec, hgone⟩ := transmitChoice_new hawake hst hdue hresend ⟨hpkf, hrx⟩ hsend hp
    exact ⟨t, hexec, hgone.vc, hgone.replay, hgone.out, hgone.next⟩

end Sys2Proof.Machine

namespace Sys2Proof.Machine

open Reg

/-! ### What sending and counting leave (R250, R251) -/

/-- A state without what counting and the sending of packets change. -/
def State.besideSending (s : State) : State :=
  { s with regs := [], chains := [], inbox := [], pkf := .reset, evts := [], evtLost := 0, wraps := [] }

/-- What is read beside that is as before. -/
theorem State.eq_of_besideSending {γ : Type} (π : State → γ) (hπ : ∀ s : State, π s.besideSending = π s) {s t : State}
    (h : t.besideSending = s.besideSending) : π t = π s := by
  rw [← hπ t, h, hπ]

section
variable {s : State}

theorem State.besideSending_put (f : RF) (v : Nat) : (s.put f v).besideSending = s.besideSending := rfl

theorem State.besideSending_enqueue (k : Nat) (p : Pkt) : (s.enqueue k p).besideSending = s.besideSending := by
  rw [State.enqueue]
  split <;> rfl

theorem State.besideSending_cross (d e : Nat) (k : Option Nat) (p : Pkt) : (s.cross d e k p).besideSending = s.besideSending := by
  unfold State.cross
  split
  · split
    · exact State.besideSending_enqueue _ p
    · exact view_ite rfl rfl
  · split <;> rfl

theorem State.besideSending_emit (code die kind unit a b : Nat) : (s.emit code die kind unit a b).besideSending = s.besideSending :=
  State.emit_leaves (fun _ _ _ => rfl) (fun _ _ => rfl) (fun _ _ => rfl) s code die kind unit a b

theorem State.besideSending_pmU (d ev n : Nat) : (s.pmU d ev n).besideSending = s.besideSending :=
  State.pmU_leaves (fun _ _ _ => rfl) (fun _ _ => rfl) s

theorem State.besideSending_originate (d vc dst dstDie sub : Nat) (ws : List Word) :
    (s.originate d vc dst dstDie sub ws).besideSending = s.besideSending := by
  unfold State.originate State.sendUni
  extract_lets t
  refine view_ite (State.besideSending_cross _ _ _ _) ?_
  split
  · rw [State.besideSending_cross, State.besideSending_put]
    exact view_ite (State.besideSending_put _ _) rfl
  · rw [State.besideSending_emit, State.raise, State.besideSending_put]
    rfl

end

section
variable (s : State) (d vc dst dstDie sub : Nat) (ws : List Word)

@[simp] theorem State.cte_originate (j : Nat) : (s.originate d vc dst dstDie sub ws).cte j = s.cte j :=
  State.eq_of_besideSending (State.cte · j) (fun _ => rfl) (State.besideSending_originate d vc dst dstDie sub ws)

@[simp] theorem State.originate_now : (s.originate d vc dst dstDie sub ws).now = s.now :=
  State.eq_of_besideSending State.now (fun _ => rfl) (State.besideSending_originate d vc dst dstDie sub ws)

@[simp] theorem State.originate_dram : (s.originate d vc dst dstDie sub ws).dram = s.dram :=
  State.eq_of_besideSending State.dram (fun _ => rfl) (State.besideSending_originate d vc dst dstDie sub ws)

theorem State.cte_pmU (ev n j : Nat) : (s.pmU d ev n).cte j = s.cte j :=
  State.eq_of_besideSending (State.cte · j) (fun _ => rfl) (State.besideSending_pmU d ev n)

theorem State.cte_emit (code die kind unit a b j : Nat) : (s.emit code die kind unit a b).cte j = s.cte j :=
  State.eq_of_besideSending (State.cte · j) (fun _ => rfl) (State.besideSending_emit code die kind unit a b)

end

/-! ### Destinations (R242 to R245) -/

/-- The CTE with what it holds of one destination replaced. -/
def CteSt.withDest (q : CteSt) (v : DestSt) : CteSt :=
  { q with dests := q.dests.map fun x => if x.dev = v.dev ∧ x.die = v.die then v else x }

/-- The CTE without what it holds of its destinations. -/
def CteSt.besideDests (q : CteSt) : CteSt := { q with dests := [] }

theorem CteSt.besideDests_withDest (q : CteSt) (v : DestSt) : (q.withDest v).besideDests = q.besideDests := rfl

theorem CteSt.eq_of_besideDests {γ : Type} (π : CteSt → γ) (hπ : ∀ q : CteSt, π q.besideDests = π q) {p q : CteSt}
    (h : p.besideDests = q.besideDests) : π p = π q := by
  rw [← hπ p, h, hπ]

theorem CteSt.eq_of_mem_withDest {q : CteSt} {v y : DestSt} (hy : y ∈ (q.withDest v).dests) (hdev : y.dev = v.dev) (hdie : y.die = v.die) :
    y = v := by
  obtain ⟨x, _, rfl⟩ := List.mem_map.mp hy
  by_cases hx : x.dev = v.dev ∧ x.die = v.die
  · exact if_pos hx
  · rw [if_neg hx] at hdev hdie
    exact absurd ⟨hdev, hdie⟩ hx

theorem State.cte_setDest (s : State) (d : Nat) (v : DestSt) : (s.setDest d v).cte d = (s.cte d).withDest v := State.cte_set_same _ _ _

/-- What a die keeps of a destination once a marker has gone to it. -/
def State.marked (s : State) (d : Nat) (x : DestSt) (folio flags : Nat) : DestSt :=
  let cur := ((s.cte d).dests.find? fun y => y.dev == x.dev && y.die == x.die).getD x
  { cur with lastMark := s.now, prev := if flags / mkSYNC % 2 = 1 then cur.prev else folio }

section
variable (s : State) (d : Nat) (x : DestSt) (folio flags crc pkts : Nat)

theorem State.cte_sendMarker : (s.sendMarker d x folio flags crc pkts).cte d = (s.cte d).withDest (s.marked d x folio flags) := by
  simp only [State.sendMarker, State.cte_setDest, State.cte_originate, State.marked]

@[simp] theorem State.sendMarker_now : (s.sendMarker d x folio flags crc pkts).now = s.now := State.originate_now _ _ _ _ _ _ _

theorem State.besideDests_sendMarker : ((s.sendMarker d x folio flags crc pkts).cte d).besideDests = (s.cte d).besideDests := by
  rw [State.cte_sendMarker, CteSt.besideDests_withDest]

theorem State.besideDests_sendTo (k : Nat) (refused : Bool) : ((s.sendTo d k refused x).cte d).besideDests = (s.cte d).besideDests := by
  unfold State.sendTo
  extract_lets rp ws ps s1
  have hpackets : s1.cte d = s.cte d := foldl_leaves (State.cte · d) (fun s p _ => State.cte_originate s _ _ _ _ _ p d) s
  split
  · rw [State.cte_setDest, CteSt.besideDests_withDest]
  · split
    · rw [State.besideDests_sendMarker]
    · rw [State.besideDests_sendMarker, State.cte_pmU, State.bumpBy, State.cte_put, hpackets]

end

/-! ### Folios are sent (R233, R242) -/

theorem State.cte_framesRead (s : State) (d k j : Nat) : (s.framesRead d k).cte j = s.cte j := by
  refine foldl_leaves (State.cte · j) (fun s o _ => ?_) s
  split <;> rfl

/-- Folio `k`, refused or with its data, is on its way to every destination, and its frames are read. -/
def State.folioOut (s : State) (d k : Nat) (refused : Bool) : State :=
  (forAll (s.cte d).dests s fun s x => s.sendTo d k refused x).framesRead d k

/-- The CTE after folio `k`: the next follows it, and a rewind has ended that it was the last to be replayed of. -/
def CteSt.sent (q : CteSt) (k : Nat) : CteSt :=
  { q with sentNext := k + 1, rewind := if q.replayTo ≤ k + 1 then none else q.rewind }

/-- The engine shows its state and how many destinations hold. -/
def State.showEngine (s : State) (d st holders : Nat) : State := (s.put (CTE_STATUS_STATE d) st).put (CTE_STATUS_HELD_DEST d) holders

section
variable (s : State) (d k : Nat) (refused : Bool)

theorem State.replayTo_folioOut : ((s.folioOut d k refused).cte d).replayTo = (s.cte d).replayTo := by
  refine CteSt.eq_of_besideDests CteSt.replayTo (fun _ => rfl) ?_
  rw [State.folioOut, State.cte_framesRead]
  exact foldl_leaves (fun s => (State.cte s d).besideDests) (fun s x _ => State.besideDests_sendTo s d x k refused) s

theorem State.cte_showEngine (st n : Nat) : (s.showEngine d st n).cte d = s.cte d := by
  rw [State.showEngine, State.cte_put, State.cte_put]

theorem State.engine_showEngine (st n : Nat) : (s.showEngine d st n).get (CTE_STATUS_STATE d) = st % 4 :=
  (State.get_put_apart (RF.apart rfl rfl (by omega))).trans (State.get_put_fits (RF.fits rfl (by omega)))

theorem State.holders_showEngine (st n : Nat) : (s.showEngine d st n).get (CTE_STATUS_HELD_DEST d) = n % 2 ^ 13 :=
  State.get_put_fits (RF.fits rfl (by omega))

theorem State.onlyRegs_showEngine (st n : Nat) : s.OnlyRegs (s.showEngine d st n) [CTE_STATUS d] :=
  ((State.onlyRegs_refl s _).put (List.mem_singleton.mpr rfl)).put (List.mem_singleton.mpr rfl)

end

section
variable {s : State} {d : Nat} {r : JRec} (hd : s.present d = true)
  (hr : ((s.acu d).dir.find? fun r => decide ((s.cte d).sentNext ≤ r.folio)) = some r)
  (hsync : (s.cte d).synced = true) (hdone : s.framesDone d r.folio = true)
include hd hr hsync hdone

/-- The lowest unsent record of an engine in step, with its frames complete, is held or goes out. -/
theorem exec_sendFolio_of_ready : exec (.sendFolio d r.folio) s =
    if s.holding d r.folio ≠ [] then .next (s.showEngine d 3 (s.holding d r.folio).length)
    else
      let u := s.folioOut d r.folio (decide (r.state ≠ 1))
      .next ((u.setCte d ((u.cte d).sent r.folio)).showEngine d (if (u.cte d).replayTo ≤ r.folio + 1 then 1 else 2) 0) := by
  have hready : ¬ (r.folio ≠ r.folio ∨ s.present d = false ∨ (s.cte d).synced = false ∨ s.framesDone d r.folio = false) := by
    simp [hd, hsync, hdone]
  change execSendFolio d r.folio s = _
  simp only [execSendFolio, hr]
  exact if_neg hready

end

/-! ### Idle markers (R235) -/

theorem State.idleFlags_not_sync (s : State) (d f : Nat) : (mkIDLE + s.replayFlag d f) / mkSYNC % 2 ≠ 1 := by
  rw [State.replayFlag]
  split <;> decide

/-- The time has come for an idle marker to a destination. -/
def State.idleDue (s : State) (d : Nat) (x : DestSt) : State := s.advance (x.lastMark + s.get (CTE_TIMERS_IDLE_MARK_US d) * tUs)

section
variable {s : State} {d f : Nat} {x : DestSt} (hone : (s.cte d).dests = [x])
include hone

theorem exec_idleMarkerTimer_of_one (hd : s.present d = true) (hx : x.lost = false) (hsync : (s.cte d).synced = true)
    (hprog : s.nvm.progOn = true) (hf : (s.idleDue d x).idleFolio d = some f) : exec (.idleMarkerTimer d) s =
      .next ((s.idleDue d x).sendMarker d x f (mkIDLE + (s.idleDue d x).replayFlag d f) 0 0) := by
  have hready : s.present d = true ∧ [x] ≠ [] ∧ (s.cte d).synced = true ∧ s.nvm.progOn = true :=
    ⟨hd, List.cons_ne_nil _ _, hsync, hprog⟩
  have hpast : x.lastMark + s.get (CTE_TIMERS_IDLE_MARK_US d) * tUs ≤ (s.idleDue d x).now := le_max_right _ _
  have hsilent : (!x.lost && decide (x.lastMark + s.get (CTE_TIMERS_IDLE_MARK_US d) * tUs ≤ (s.idleDue d x).now)) = true := by
    rw [hx, decide_eq_true hpast]
    rfl
  change execIdleMarkerTimer d s = _
  simp only [execIdleMarkerTimer, hone, if_pos hready, List.map_cons, List.map_nil, List.foldl_cons, List.foldl_nil, List.headD_cons, min_self,
    ← State.idleDue.eq_def, hf, List.filter_cons, hsilent, List.filter_nil, if_true, forAll, ok]

theorem State.dests_sendMarker_of_one {flags crc pkts : Nat} (hflags : flags / mkSYNC % 2 ≠ 1) :
    ((s.sendMarker d x f flags crc pkts).cte d).dests = [{ x with prev := f, lastMark := s.now }] := by
  have hmarked : s.marked d x f flags = { x with prev := f, lastMark := s.now } := by
    simp [State.marked, hone, hflags]
  rw [State.cte_sendMarker, CteSt.withDest, hmarked, hone]
  simp

end

/-! ### Rewinds (R245) -/

section
variable (s : State) (d : Nat) (k : Option Nat)

theorem State.setCore_inbox (c : Nat) (q : CoreSt) : (s.setCore d c q).inbox = s.inbox := rfl

theorem State.cte_takeInbox (p : Pkt) (j : Nat) : (s.takeInbox d p).cte j = s.cte j := rfl

theorem State.cte_rewindDie : ((s.rewindDie d k).cte d).rewind = k ∧ ((s.rewindDie d k).cte d).sentNext = (s.acu d).replay ∧
    ((s.rewindDie d k).cte d).synced = false := by
  have hgroups : ∀ (l : List Nat) (t : State), (forAll l t fun s g => s.put (GROUP_LOST d g) 0).cte d = t.cte d :=
    fun _ => foldl_leaves (State.cte · d) fun _ _ _ => State.cte_put _ _ _ _
  simp only [State.rewindDie, State.cte_put, hgroups, State.cte_set_same, and_self]

theorem State.rewindDie_inbox : (s.rewindDie d k).inbox = s.inbox := by
  have hgroups : ∀ (l : List Nat) (t : State), (forAll l t fun s g => s.put (GROUP_LOST d g) 0).inbox = t.inbox :=
    fun _ => foldl_leaves State.inbox fun _ _ _ => State.put_inbox _ _ _
  simp only [State.rewindDie, State.put_inbox, hgroups, State.setCte_inbox, State.setFc_inbox]
  refine foldl_leaves State.inbox (fun s c _ => view_ite ?_ rfl) s
  rw [State.setCore_inbox, State.restoreCore, State.setCore_inbox]

end

/-- The folio that a REWIND asks for. -/
def pktFolio (p : Pkt) : Nat := (p.payload.getD 0 0).bits 0 48

section
variable {s : State} {d : Nat}

theorem exec_rewindReceived_of_new {p : Pkt} (hin : s.inboxHead d p = true) (hvc : p.vc = 2) (hsub : p.sub = 0xD)
    (hnew : ∀ r, (s.cte d).rewind = some r → pktFolio p < r) (hreach : (s.acu d).replay ≤ pktFolio p) :
    exec (.rewindReceived d p) s =
      .next ((((s.takeInbox d p).rewindDie d (some (pktFolio p))).raise (CTE_EVENTS_REWIND_RUN d)).bump (CTE_COUNT1_REWINDS d)) := by
  have hlow : ¬ (p.payload.getD 0 0).bits 0 48 < ((s.takeInbox d p).acu d).replay := Nat.not_lt.mpr hreach
  change execRewindReceived d p s = _
  simp only [execRewindReceived, if_pos (And.intro hin (And.intro hvc hsub)), State.cte_takeInbox, if_neg hlow, ok]
  cases hr : (s.cte d).rewind with
  | none => exact if_neg Bool.false_ne_true
  | some r =>
    have hlater : ¬ decide (r ≤ pktFolio p) = true := by simpa using hnew r hr
    exact if_neg hlater

theorem exec_quietExpiry_of_unsynced (hd : s.present d = true) (hq : (s.cte d).synced = false) :
    exec (.quietExpiry d) s = .next ((s.advance (s.cte d).quietAt).syncStreams d) := by
  change execQuietExpiry d s = _
  rw [execQuietExpiry, if_pos ⟨hd, hq⟩, ok]

end

section
variable (s : State) (d : Nat)

/-- Markers to a list of destinations. -/
theorem State.forAll_sendMarker (l : List DestSt) (folio : State → Nat) (flags : Nat) :
    let t := forAll l s fun s x => s.sendMarker d x (folio s) flags 0 0
    t.now = s.now ∧ (t.cte d).besideDests = (s.cte d).besideDests :=
  ⟨foldl_leaves State.now (fun s x _ => State.sendMarker_now s d x (folio s) flags 0 0) s,
    foldl_leaves (fun s => (State.cte s d).besideDests) (fun s x _ => State.besideDests_sendMarker s d x (folio s) flags 0 0) s⟩

theorem State.cte_syncStreams : ((s.syncStreams d).cte d).synced = true ∧ ((s.syncStreams d).cte d).gap = false ∧
    ((s.syncStreams d).cte d).sentNext = (s.cte d).sentNext ∧ (s.syncStreams d).now = s.now := by
  unfold State.syncStreams
  extract_lets s1 s2
  obtain ⟨hnow, hcte⟩ := State.forAll_sendMarker s d (s.cte d).dests (fun _ => 0) mkSYNC
  obtain ⟨hnow', hcte'⟩ := State.forAll_sendMarker s1 d (s1.cte d).dests (fun s => (s.acu d).replay - 1) (mkIDLE + mkREPLAY)
  have hsynced : s2.now = s1.now ∧ (s2.cte d).besideDests = (s1.cte d).besideDests := by
    by_cases hgap : (s.cte d).gap = true
    · rw [show s2 = _ from if_pos hgap]
      exact ⟨hnow', hcte'⟩
    · rw [show s2 = _ from if_neg hgap]
      exact ⟨rfl, rfl⟩
  rw [State.cte_set_same]
  have hnext : (s2.cte d).sentNext = (s.cte d).sentNext := CteSt.eq_of_besideDests CteSt.sentNext (fun _ => rfl) (hsynced.2.trans hcte)
  exact ⟨rfl, rfl, hnext, hsynced.1.trans hnow⟩

end

/-! ### Slots are released, and reports go out (R241, R243) -/

section
variable (s : State) (d : Nat)

/-- Reports change of the CTE the time of the last ones. -/
theorem State.cte_sendReports : (s.sendReports d).cte d = { s.cte d with lastRep := s.now } := by
  unfold State.sendReports
  extract_lets s1
  have hcte : s1.cte d = s.cte d := foldl_leaves (State.cte · d) (fun s _ _ => State.cte_originate s _ _ _ _ _ _ d) s
  rw [State.cte_set_same]
  change { s1.cte d with lastRep := s.now } = _
  rw [hcte]

theorem State.cte_releaseStint (n : Nat) : ((s.releaseStint d n).cte d).relNext = s.siSkip d (n + 1) ∧ n ∉ ((s.releaseStint d n).cte d).stints ∧
    ((s.releaseStint d n).cte d).lastRep = s.now := by
  have hcte : (s.releaseStint d n).cte d = { s.cte d with
      stints := (s.cte d).stints.filter (· != n), relNext := s.siSkip d (n + 1),
      gaps := (s.cte d).gaps.filter fun g => decide (n < s.siOf d g.2),
      resident := (s.cte d).resident.filter fun e => decide (n < s.siOf d e.1), lastRep := s.now } := by
    simp only [State.releaseStint, State.cte_sendReports, State.showAsm, State.showCte, State.cte_put, State.cte_set_same,
      State.put_now, State.setCte_now]
  rw [hcte]
  exact ⟨rfl, by simp, rfl⟩

end

section
variable {s : State} {d : Nat} (hd : s.present d = true) (hruns : s.runs = true)
include hd hruns

theorem exec_stintSlotRelease_of_free (hfree : s.stintFree d (s.cte d).relNext = true) :
    exec (.stintSlotRelease d (s.cte d).relNext) s = .next (s.releaseStint d (s.cte d).relNext) := by
  change execStintSlotRelease d _ s = _
  rw [execStintSlotRelease, if_pos ⟨hd, hruns, rfl, hfree⟩, ok]

theorem exec_commitReportTimer_of_runs : exec (.commitReportTimer d) s =
    .next ((s.advance ((s.cte d).lastRep + s.get (CTE_TIMERS_CM_PERIOD_US d) * tUs)).sendReports d) := by
  change execCommitReportTimer d s = _
  rw [execCommitReportTimer, if_pos ⟨hd, hruns⟩, ok]

end

/-- Settles O37: clause by clause from the engine's commands and what markers and reports leave of the CTE. -/
theorem streamsAreSentAndReplayed : Obligations.StreamsAreSentAndReplayed := by
  unfold Obligations.StreamsAreSentAndReplayed
  intro s d hd
  refine ⟨fun r hr hsync hdone => ⟨fun hfree => ?sent, fun hheld => ?held⟩, fun x f hone hx hsync hprog hf => ?idle,
    fun p hin hvc hsub hnew hreach => ?rewind, fun hq => ?quiet, fun hruns hfree => ?release, fun hruns => ?report⟩
  case sent =>
    refine ⟨_, (exec_sendFolio_of_ready hd hr hsync hdone).trans (if_neg (not_not.mpr hfree)), ?_, ?_, State.holders_showEngine _ d _ 0⟩
    · rw [State.cte_showEngine, State.cte_set_same]
      rfl
    · rw [State.engine_showEngine, State.replayTo_folioOut]
      split <;> rfl
  case held =>
    exact ⟨_, (exec_sendFolio_of_ready hd hr hsync hdone).trans (if_pos hheld), State.engine_showEngine s d 3 _,
      State.onlyRegs_showEngine s d 3 _⟩
  case idle =>
    refine ⟨_, exec_idleMarkerTimer_of_one hone hd hx hsync hprog hf, State.sendMarker_now _ _ _ _ _ _ _, ?_⟩
    rw [State.sendMarker_now]
    exact State.dests_sendMarker_of_one (s := s.idleDue d x) hone (State.idleFlags_not_sync _ d f)
  case rewind =>
    obtain ⟨hrewind, hnext, hsync⟩ := State.cte_rewindDie (s.takeInbox d p) d (some (pktFolio p))
    refine ⟨_, exec_rewindReceived_of_new hin hvc hsub hnew hreach, ?_⟩
    simp only [State.bump, State.bumpBy, State.raise, State.cte_put, State.put_inbox, State.rewindDie_inbox]
    exact ⟨hrewind, hnext, hsync, rfl⟩
  case quiet =>
    obtain ⟨hsync, hgap, hnext, hnow⟩ := State.cte_syncStreams (s.advance (s.cte d).quietAt) d
    exact ⟨_, exec_quietExpiry_of_unsynced hd hq, hsync, hgap, hnow, hnext⟩
  case release => exact ⟨_, exec_stintSlotRelease_of_free hd hruns hfree, State.cte_releaseStint s d _⟩
  case report =>
    refine ⟨_, exec_commitReportTimer_of_runs hd hruns, ?_⟩
    rw [State.cte_sendReports]
    exact ⟨rfl, rfl⟩

end Sys2Proof.Machine

namespace Sys2Proof.Machine

open Reg

/-! ### What the receiving side keeps of its peers

The streams and destinations, the inbox, and the slots of the GROUP and CTE_SRC tables stay through what shows, counts, commits and hands
over. -/

/-- A slot of a die's GROUP or CTE_SRC table. -/
def peerSlot (d a : Nat) : Prop := ∃ o, a = spanSlot d 0x14 o ∧ 0x10000 ≤ o ∧ o < 0x30000

theorem peerSlot_GROUP (d : Nat) {g : Nat} (hg : g < 4096) : peerSlot d (GROUP d g) := ⟨0x10000 + 0x10 * g, by rw [GROUP], by omega, by omega⟩

theorem peerSlot_CTE_SRC (d : Nat) {e : Nat} (he : e < 4096) : peerSlot d (CTE_SRC d e) :=
  ⟨0x20000 + 0x10 * e, by rw [CTE_SRC], by omega, by omega⟩

theorem addrBlock_of_peerSlot {d a : Nat} (h : peerSlot d a) : addrBlock a = 0x14 := by
  obtain ⟨o, rfl, _, ho⟩ := h
  exact addrBlock_spanSlot d (by omega) (by omega)

theorem ne_of_peerSlot {d a b o : Nat} (h : peerSlot d a) (hb : b = spanSlot d 0x14 o) (ho : o < 0x10000) : a ≠ b := by
  obtain ⟨p, ha, hp, _⟩ := h
  exact spanSlot_ne ha hb (by omega)

/-- What die `d` holds of its streams and destinations, and the packets that wait, are in `t` as in `s`. -/
structure State.KeepsPeers (s t : State) (d : Nat) : Prop where
  streams : (t.cte d).streams = (s.cte d).streams
  dests : (t.cte d).dests = (s.cte d).dests
  inbox : t.inbox = s.inbox
  get : ∀ f : RF, peerSlot d f.addr → t.get f = s.get f

namespace State.KeepsPeers

theorem refl (s : State) (d : Nat) : s.KeepsPeers s d := ⟨rfl, rfl, rfl, fun _ _ => rfl⟩

section
variable {s₀ s t : State} {d : Nat}

theorem trans (h : s₀.KeepsPeers s d) (h' : s.KeepsPeers t d) : s₀.KeepsPeers t d :=
  ⟨h'.streams.trans h.streams, h'.dests.trans h.dests, h'.inbox.trans h.inbox, fun f hf => (h'.get f hf).trans (h.get f hf)⟩

theorem ite {c : Prop} [Decidable c] (h : s₀.KeepsPeers s d) (h' : s₀.KeepsPeers t d) : s₀.KeepsPeers (if c then s else t) d := by
  split
  · exact h
  · exact h'

theorem forAll {β : Type} {l : List β} {g : State → β → State} (h : s₀.KeepsPeers s d)
    (hg : ∀ t x, s₀.KeepsPeers t d → s₀.KeepsPeers (g t x) d) : s₀.KeepsPeers (forAll l s g) d := by
  induction l generalizing s with
  | nil => exact h
  | cons x l ih => exact ih (hg s x h)

variable (h : s₀.KeepsPeers s d)
include h

theorem stream (e : Nat) : s.stream d e = s₀.stream d e := by rw [State.stream, h.streams, State.stream]

/-- A register of the CTE's own, below the tables. -/
theorem put {f : RF} {v o : Nat} (hf : f.addr = spanSlot d 0x14 o) (ho : o < 0x10000) : s₀.KeepsPeers (s.put f v) d :=
  h.trans ⟨by rw [State.cte_put], by rw [State.cte_put], State.put_inbox _ _ _, fun _ hg => State.get_put_other s v (ne_of_peerSlot hg hf ho)⟩

theorem raise {f : RF} {o : Nat} (hf : f.addr = spanSlot d 0x14 o) (ho : o < 0x10000) : s₀.KeepsPeers (s.raise f) d := h.put hf ho

theorem bump {f : RF} {o : Nat} (hf : f.addr = spanSlot d 0x14 o) (ho : o < 0x10000) : s₀.KeepsPeers (s.bump f) d := h.put hf ho

theorem bumpBy {f : RF} {n o : Nat} (hf : f.addr = spanSlot d 0x14 o) (ho : o < 0x10000) : s₀.KeepsPeers (s.bumpBy f n) d := h.put hf ho

/-- The CTE changed beside its streams and destinations. -/
theorem setCte {q : CteSt} (hs : q.streams = (s.cte d).streams) (hd : q.dests = (s.cte d).dests) : s₀.KeepsPeers (s.setCte d q) d :=
  h.trans ⟨by rw [State.cte_set_same, hs], by rw [State.cte_set_same, hd], State.setCte_inbox _ _ _, fun f _ => State.get_setCte s d q f⟩

theorem wrMem {j a : Nat} {w : Word} : s₀.KeepsPeers (s.wrMem j a w) d := h.trans ⟨rfl, rfl, rfl, fun _ _ => rfl⟩

theorem wrMems {j a : Nat} {ws : List Word} : s₀.KeepsPeers (s.wrMems j a ws) d := h.trans ⟨rfl, rfl, rfl, fun _ _ => rfl⟩

theorem pmU {j ev n : Nat} : s₀.KeepsPeers (s.pmU j ev n) d :=
  h.trans ⟨by rw [State.cte_pmU], by rw [State.cte_pmU], State.pmU_leaves State.put_inbox (fun _ _ => rfl) s,
    fun _ hf => State.get_pmU (by rw [addrBlock_of_peerSlot hf]; omega)⟩

theorem emit {code die kind unit a b : Nat} : s₀.KeepsPeers (s.emit code die kind unit a b) d :=
  h.trans ⟨by rw [State.cte_emit], by rw [State.cte_emit],
    State.emit_leaves State.put_inbox (fun _ _ => rfl) (fun _ _ => rfl) s code die kind unit a b,
    fun _ hf => State.get_emit s code die kind unit a b fun hdrop => by
      have hblock := addrBlock_of_peerSlot hf
      rw [hdrop, addrBlock_PKC_DROP] at hblock
      omega⟩

theorem showCte : s₀.KeepsPeers (s.showCte d) d :=
  (((h.put (CTE_STATUS.eq_def d) (by omega)).put (CTE_STATUS.eq_def d) (by omega)).put (STINT_STATE.eq_def d) (by omega)).put
    (STINT_STATE.eq_def d) (by omega)

theorem showAsm : s₀.KeepsPeers (s.showAsm d) d :=
  ((h.put (ASM_STATUS.eq_def d) (by omega)).put (ASM_STATUS.eq_def d) (by omega)).put (ASM_STATUS.eq_def d) (by omega)

theorem evict (n : Nat) : s₀.KeepsPeers (s.evict d n) d := by
  induction n generalizing s with
  | zero => exact h
  | succ n ih =>
    rw [State.evict]
    refine ite (ih (pmU ?_)) h
    exact (((h.setCte (by rfl) (by rfl)).bump (ASM_STATUS.eq_def d) (by omega)).raise (CTE_EVENTS.eq_def d) (by omega)).raise
      (CTE_STATUS.eq_def d) (by omega)

theorem fitAsm : s₀.KeepsPeers (s.fitAsm d) d := ((h.put (CTE_STATUS.eq_def d) (by omega)).evict _).showAsm

theorem openStint {n : Nat} : s₀.KeepsPeers (s.openStint d n) d := by
  rw [State.openStint]
  exact ite h ((h.setCte (by rfl) (by rfl)).forAll fun _ _ ht => ht.wrMem)

theorem commitFolio {e k : Nat} {data : Option (List Word)} : s₀.KeepsPeers (s.commitFolio d e k data) d := by
  unfold State.commitFolio
  exact (((h.openStint.forAll fun _ _ ht => ht.wrMems).wrMem).bumpBy (CTE_COUNT0.eq_def d) (by omega)).pmU.showCte

theorem advanceSegs (n : Nat) : s₀.KeepsPeers (s.advanceSegs d n) d := by
  induction n generalizing s with
  | zero => exact h
  | succ n ih =>
    rw [State.advanceSegs]
    exact ite (ih ((h.forAll fun _ _ ht => ht.commitFolio).setCte (by dsimp only) (by dsimp only))) h

theorem segments : s₀.KeepsPeers (s.segments d) d := (h.advanceSegs _).fitAsm

end

end State.KeepsPeers

/-! ### What a stream holds, and its register -/

section
variable (s : State) (d e : Nat)

theorem State.stream_put (f : RF) (v : Nat) : (s.put f v).stream d e = s.stream d e := by
  rw [State.stream, State.cte_put, State.stream]

theorem State.stream_setStream (q : StreamSt) : (s.setStream d e q).stream d e = q := by
  rw [State.stream, State.setStream, State.cte_put, State.cte_set_same]
  exact Store.get_put_same _ _ _ _

theorem State.setStream_dram (q : StreamSt) : (s.setStream d e q).dram = s.dram := by
  rw [State.setStream, State.put_dram, State.setCte_dram]

theorem State.setStream_inbox (q : StreamSt) : (s.setStream d e q).inbox = s.inbox := by
  rw [State.setStream, State.put_inbox, State.setCte_inbox]

theorem State.showAsm_dram : (s.showAsm d).dram = s.dram := by
  simp only [State.showAsm, State.put_dram]

theorem State.stream_sendRewind (k : Nat) : (s.sendRewind d e k).stream d e = s.stream d e := by
  rw [State.sendRewind, State.raise, State.stream_put, State.stream, State.cte_originate, State.stream]

theorem State.sendRewind_dram (k : Nat) : (s.sendRewind d e k).dram = s.dram := by
  rw [State.sendRewind, State.raise, State.put_dram, State.originate_dram]

theorem State.quiet_put_lost (v : Nat) : (s.put (CTE_SRC_LOST d e) v).get (CTE_SRC_QUIET d e) = s.get (CTE_SRC_QUIET d e) :=
  State.get_put_apart (RF.apart rfl rfl (by omega))

theorem State.quiet_put_quiet (v : Nat) : (s.put (CTE_SRC_QUIET d e) v).get (CTE_SRC_QUIET d e) = v % 2 :=
  State.get_put_fits (RF.fits rfl (by omega))

theorem State.lost_put_lost (v : Nat) : (s.put (CTE_SRC_LOST d e) v).get (CTE_SRC_LOST d e) = v % 2 :=
  State.get_put_fits (RF.fits rfl (by omega))

end

/-! ### Data packets (R236) -/

theorem State.lt_of_srcOf {s : State} {d e : Nat} {p : Pkt} (h : s.srcOf d p = some e) : e < 4096 :=
  List.mem_range.mp (List.mem_filter.mp (List.mem_of_find?_eq_some h)).1

theorem exec_dataPacket_of_stream {s : State} {d e : Nat} {p : Pkt} (hin : s.inboxHead d p = true)
    (hsrc : (s.takeInbox d p).srcOf d p = some e) (hvc : p.vc = 0) (hsub : p.sub < 8) (hquiet : s.get (CTE_SRC_QUIET d e) = 0)
    (hlost : s.get (CTE_SRC_LOST d e) = 0) : exec (.dataPacket d p) s =
      .next (((s.takeInbox d p).setStream d e { s.stream d e with
        pend := (s.stream d e).pend ++ p.payload, pkts := (s.stream d e).pkts + 1 }).fitAsm d) := by
  have hheard : ¬ (s.get (CTE_SRC_QUIET d e) = 1 ∨ s.get (CTE_SRC_LOST d e) = 1) := by omega
  change execDataPacket d p s = _
  simp only [execDataPacket, if_pos (And.intro hin (And.intro hvc hsub)), hsrc]
  exact if_neg hheard

/-! ### Markers (R236, R237) -/

/-- The flags of a marker: bit 1 is SYNC. -/
def markerFlags (m : List Word) : Nat := (m.getD 0 0).bits 48 5

/-- The folio that a marker ends. -/
def markerFolio (m : List Word) : Nat := (m.getD 0 0).bits 0 48

/-- The marker continues the stream: without a gap before it, and with the packets and the CRC of what is pending. -/
def StreamSt.Continues (q : StreamSt) (m : List Word) : Prop :=
  (m.getD 2 0).bits 0 48 < max q.next 1 ∧ q.pkts = (m.getD 1 0).bits 32 16 ∧
    (if q.pend = [] then 0 else crc32 (q.pend.flatMap Word.octets)) = (m.getD 1 0).bits 0 32

/-- The stream at a marker: nothing pending. -/
def State.clearedStream (s : State) (d e : Nat) : StreamSt := { s.stream d e with pend := [], pkts := 0, lastMark := s.now }

theorem exec_marker_of_stream {s : State} {d e : Nat} {p : Pkt} (hin : s.inboxHead d p = true)
    (hsrc : (s.takeInbox d p).srcOf d p = some e) (hvc : p.vc = 0) (hsub : 8 ≤ p.sub) :
    exec (.marker d p) s = .next (((s.takeInbox d p).onMarker d e p.payload).showAsm d) := by
  change execMarker d p s = _
  simp only [execMarker, if_pos (And.intro hin (And.intro hvc hsub)), hsrc, ok]

section
variable {s : State} {d e : Nat} {m : List Word}

theorem State.onMarker_of_sync (he : e < 4096) (hsync : bit (markerFlags m) 1 = true) : ((s.onMarker d e m).stream d e).pend = [] ∧
    (s.onMarker d e m).get (CTE_SRC_QUIET d e) = 0 ∧ (s.onMarker d e m).get (CTE_SRC_LOST d e) = 0 := by
  obtain ⟨next, hmark⟩ : ∃ next, s.onMarker d e m =
      (((s.setStream d e { s.clearedStream d e with next := next }).put (CTE_SRC_QUIET d e) 0).put (CTE_SRC_LOST d e) 0).showCte d :=
    ⟨_, if_pos hsync⟩
  have hkeeps := (State.KeepsPeers.refl
    (((s.setStream d e { s.clearedStream d e with next := next }).put (CTE_SRC_QUIET d e) 0).put (CTE_SRC_LOST d e) 0) d).showCte
  have hsrc := peerSlot_CTE_SRC d he
  rw [hmark, hkeeps.stream, hkeeps.get _ hsrc, hkeeps.get _ hsrc, State.stream_put, State.stream_put, State.stream_setStream,
    State.quiet_put_lost, State.quiet_put_quiet, State.lost_put_lost]
  exact ⟨rfl, rfl, rfl⟩

section
variable (hsync : bit (markerFlags m) 1 = false) (hquiet : s.get (CTE_SRC_QUIET d e) = 0) (hlost : s.get (CTE_SRC_LOST d e) = 0)
include hsync hquiet hlost

theorem State.onMarker_of_below (hnext : markerFolio m < (s.stream d e).next) : ((s.onMarker d e m).stream d e).pend = [] ∧
    ((s.onMarker d e m).stream d e).next = (s.stream d e).next ∧ (s.onMarker d e m).dram = s.dram := by
  obtain ⟨ended, hmark⟩ : ∃ ended, s.onMarker d e m = (s.setStream d e { s.clearedStream d e with ended := ended }).bump (CTE_COUNT1_DUP d) :=
    ⟨_, (if_neg (by rw [← markerFlags, hsync]; exact Bool.false_ne_true)).trans
      ((if_neg (by omega)).trans ((if_neg (by omega)).trans (if_pos hnext)))⟩
  rw [hmark, State.bump, State.bumpBy, State.stream_put, State.stream_setStream, State.put_dram, State.setStream_dram]
  exact ⟨rfl, rfl, rfl⟩

theorem State.onMarker_of_broken (hnext : (s.stream d e).next ≤ markerFolio m) (hbad : ¬ (s.stream d e).Continues m) :
    ((s.onMarker d e m).stream d e).pend = [] ∧ ((s.onMarker d e m).stream d e).next = (s.stream d e).next ∧
      (s.onMarker d e m).get (CTE_SRC_QUIET d e) = 1 ∧ (s.onMarker d e m).dram = s.dram := by
  have hchecks : max (s.stream d e).next 1 ≤ (m.getD 2 0).bits 0 48 ∨ (s.stream d e).pkts ≠ (m.getD 1 0).bits 32 16 ∨
      (if (s.stream d e).pend = [] then 0 else crc32 ((s.stream d e).pend.flatMap Word.octets)) ≠ (m.getD 1 0).bits 0 32 := by
    rw [← not_lt, ← not_and_or, ← not_and_or]
    exact hbad
  have hmark : s.onMarker d e m = ((((s.setStream d e (s.clearedStream d e)).bump (CTE_COUNT1_CHECK_FAIL d)).raise
      (CTE_EVENTS_CHECK_FAIL d)).sendRewind d e (s.stream d e).next).put (CTE_SRC_QUIET d e) 1 :=
    (if_neg (by rw [← markerFlags, hsync]; exact Bool.false_ne_true)).trans
      ((if_neg (by omega)).trans ((if_neg (by omega)).trans ((if_neg (Nat.not_lt.mpr hnext)).trans (if_pos hchecks))))
  rw [hmark, State.quiet_put_quiet, State.stream_put, State.stream_sendRewind, State.raise, State.stream_put, State.bump, State.bumpBy,
    State.stream_put, State.stream_setStream, State.put_dram, State.sendRewind_dram, State.put_dram, State.put_dram, State.setStream_dram]
  exact ⟨rfl, rfl, rfl, rfl⟩

theorem State.onMarker_of_next (hnext : (s.stream d e).next ≤ markerFolio m) (hgood : (s.stream d e).Continues m) :
    ((s.onMarker d e m).stream d e).pend = [] ∧ ((s.onMarker d e m).stream d e).next = markerFolio m + 1 := by
  have hchecks : ¬ (max (s.stream d e).next 1 ≤ (m.getD 2 0).bits 0 48 ∨ (s.stream d e).pkts ≠ (m.getD 1 0).bits 32 16 ∨
      (if (s.stream d e).pend = [] then 0 else crc32 ((s.stream d e).pend.flatMap Word.octets)) ≠ (m.getD 1 0).bits 0 32) := by
    rw [← not_lt, ← not_and_or, ← not_and_or, not_not]
    exact hgood
  obtain ⟨u, ended, hmark⟩ : ∃ (u : State) (ended : Bool), s.onMarker d e m =
      (u.setStream d e { s.clearedStream d e with next := markerFolio m + 1, ended := ended }).segments d :=
    ⟨_, _, (if_neg (by rw [← markerFlags, hsync]; exact Bool.false_ne_true)).trans
      ((if_neg (by omega)).trans ((if_neg (by omega)).trans ((if_neg (Nat.not_lt.mpr hnext)).trans (if_neg hchecks))))⟩
  rw [hmark, (State.KeepsPeers.refl _ d).segments.stream, State.stream_setStream]
  exact ⟨rfl, rfl⟩

end

end

/-! ### Reports (R243) -/

theorem State.get_setDest (s : State) (d : Nat) (v : DestSt) (f : RF) : (s.setDest d v).get f = s.get f := State.get_setCte _ _ _ f

/-- The die whose COMMIT report this is. -/
def reportDie (p : Pkt) : Nat := (p.payload.getD 0 0).bits 51 3

/-- The folio after the last that it has committed. -/
def reportNext (p : Pkt) : Nat := ((p.payload.getD 0 0).bits 0 48 + 1) % 2 ^ 48

/-- The short integration after the last that it has released. -/
def reportRel (p : Pkt) : Nat := ((p.payload.getD 1 0).bits 0 48 + 1) % 2 ^ 48

theorem reportReceived_moves {s : State} {d : Nat} {p : Pkt} {x : DestSt} (hx : x ∈ (s.cte d).dests) (hin : s.inboxHead d p = true)
    (hvc : p.vc = 2) (hsub : p.sub = 0xC) (hdev : x.dev = p.src) (hdie : x.die = reportDie p) :
    ∃ t : State, exec (.reportReceived d p) s = .next t ∧ ∀ y ∈ (t.cte d).dests, y.dev = p.src → y.die = reportDie p →
      y.comNext = reportNext p ∧ y.relNext = reportRel p := by
  obtain ⟨v, hfind⟩ : ∃ v, ((s.cte d).dests.find? fun x => x.dev == p.src && x.die == reportDie p) = some v :=
    Option.isSome_iff_exists.mp (List.find?_isSome.mpr ⟨x, hx, by simp [hdev, hdie]⟩)
  obtain ⟨hvdev, hvdie⟩ : v.dev = p.src ∧ v.die = reportDie p := by simpa using List.find?_some hfind
  have hexec : exec (.reportReceived d p) s =
      let u := (s.takeInbox d p).setDest d { v with comNext := reportNext p, relNext := reportRel p, lastRep := s.now }
      .next (forAll (u.groupsOf d v.dev v.die) u fun s g => s.put (GROUP_REL_SI d g) (reportRel p - 1)) := by
    change execReportReceived d p s = _
    rw [reportDie] at hfind
    simp only [execReportReceived, if_pos (And.intro hin (And.intro hvc hsub)), State.cte_takeInbox, hfind, ok]
    rfl
  refine ⟨_, hexec, fun y hy hydev hydie => ?_⟩
  have hgroups : ∀ (l : List Nat) (u : State), (forAll l u fun s g => s.put (GROUP_REL_SI d g) (reportRel p - 1)).cte d = u.cte d :=
    fun _ => foldl_leaves (State.cte · d) fun _ _ _ => State.cte_put _ _ _ _
  rw [hgroups, State.cte_setDest] at hy
  rw [CteSt.eq_of_mem_withDest hy (hydev.trans hvdev.symm) (hydie.trans hvdie.symm)]
  exact ⟨rfl, rfl⟩

/-! ### Losses (R247) -/

/-- A stream that has sent no marker for LOST_MS is LOST, with nothing pending. -/
def State.streamDropped (s : State) (d e : Nat) : State :=
  ((s.advance ((s.stream d e).lastMark + s.get (CTE_TIMERS_LOST_MS d) * tMs)).setStream d e { s.stream d e with pend := [], pkts := 0 }).put
    (CTE_SRC_LOST d e) 1

/-- A destination that has sent no report for LOST_MS is LOST, with its groups. -/
def State.destDropped (s : State) (d : Nat) (x : DestSt) : State :=
  forAll (s.groupsOf d x.dev x.die)
    ((s.advance (x.lastRep + s.get (CTE_TIMERS_LOST_MS d) * tMs)).setDest d { x with lost := true }) fun s g => s.put (GROUP_LOST d g) 1

section
variable {s : State} {d : Nat}

theorem exec_streamLost_of_silent {e : Nat} (hd : s.present d = true) (he : e < 4096) (hvalid : s.get (CTE_SRC_VALID d e) = 1)
    (hlost : s.get (CTE_SRC_LOST d e) = 0) (hended : (s.stream d e).ended = false) : exec (.streamLost d e) s =
      .next (((((s.streamDropped d e).raise (CTE_EVENTS_SRC_LOST d)).emit 0x5C d 0 0
        (s.get (CTE_SRC_DEV d e) + s.get (CTE_SRC_DIE d e) * 2 ^ 16) (s.get (CTE_SRC_HIGH d e))).showCte d).segments d) := by
  change execStreamLost d e s = _
  exact if_pos ⟨hd, he, hvalid, hlost, hended⟩

theorem streamLost_shows {e : Nat} (hd : s.present d = true) (he : e < 4096) (hvalid : s.get (CTE_SRC_VALID d e) = 1)
    (hlost : s.get (CTE_SRC_LOST d e) = 0) (hended : (s.stream d e).ended = false) : ∃ t : State, exec (.streamLost d e) s = .next t ∧
      t.get (CTE_SRC_LOST d e) = 1 ∧ (t.stream d e).pend = [] ∧ (t.stream d e).next = (s.stream d e).next := by
  refine ⟨_, exec_streamLost_of_silent hd he hvalid hlost hended, ?_⟩
  have hkeeps := (((State.KeepsPeers.refl (s.streamDropped d e) d).raise (f := CTE_EVENTS_SRC_LOST d) (CTE_EVENTS.eq_def d) (by omega)).emit
    (code := 0x5C) (die := d) (kind := 0) (unit := 0) (a := s.get (CTE_SRC_DEV d e) + s.get (CTE_SRC_DIE d e) * 2 ^ 16)
    (b := s.get (CTE_SRC_HIGH d e))).showCte.segments
  rw [hkeeps.get _ (peerSlot_CTE_SRC d he), hkeeps.stream, State.streamDropped, State.lost_put_lost, State.stream_put, State.stream_setStream]
  exact ⟨rfl, rfl, rfl⟩

theorem State.groupsOf_advance_setDest (t : Nat) (v : DestSt) (dev die : Nat) :
    ((s.advance t).setDest d v).groupsOf d dev die = s.groupsOf d dev die := by
  simp only [State.groupsOf, State.groupList, State.nch, State.grp, State.get_setDest, State.get_advance]

theorem exec_destLost_of_silent {x : DestSt} {dev die : Nat}
    (hfind : ((s.cte d).dests.find? fun x => x.dev == dev && x.die == die && !x.lost) = some x) (hdev : x.dev = dev) (hdie : x.die = die) :
    exec (.destLost d dev die) s =
      .next ((((s.destDropped d x).raise (CTE_EVENTS_DEST_LOST d)).emit 0x5D d 0 0 (dev + die * 2 ^ 16) 0).showCte d) := by
  change execDestLost d dev die s = _
  simp only [execDestLost, hfind, State.groupsOf_advance_setDest, ok, State.destDropped, hdev, hdie]

theorem State.lt_of_groupsOf {dev die g : Nat} (hg : g ∈ s.groupsOf d dev die) : g < 4096 := by
  have hrange := List.mem_range.mp (List.mem_filter.mp (List.mem_filter.mp hg).1).1
  omega

theorem State.groupLost_destDropped {x : DestSt} {g : Nat} (hg : g ∈ s.groupsOf d x.dev x.die) :
    (s.destDropped d x).get (GROUP_LOST d g) = 1 := by
  refine foldl_sets (State.get · (GROUP_LOST d g)) (fun u => ?_) (fun u y _ hy => ?_) hg _
  · exact State.get_put_fits (RF.fits rfl (by omega))
  · exact State.get_put_apart (RF.apart rfl rfl (.inl (by omega)))

theorem State.cte_destDropped (x : DestSt) : (s.destDropped d x).cte d = (s.cte d).withDest { x with lost := true } := by
  have hgroups : ∀ (l : List Nat) (u : State), (forAll l u fun s g => s.put (GROUP_LOST d g) 1).cte d = u.cte d :=
    fun _ => foldl_leaves (State.cte · d) fun _ _ _ => State.cte_put _ _ _ _
  rw [State.destDropped, hgroups, State.cte_setDest]
  rfl

theorem destLost_shows {x : DestSt} (hx : x ∈ (s.cte d).dests) (hlost : x.lost = false) :
    ∃ t : State, exec (.destLost d x.dev x.die) s = .next t ∧ (∀ y ∈ (t.cte d).dests, y.dev = x.dev → y.die = x.die → y.lost = true) ∧
      ∀ g ∈ s.groupsOf d x.dev x.die, t.get (GROUP_LOST d g) = 1 := by
  obtain ⟨v, hfind⟩ : ∃ v, ((s.cte d).dests.find? fun y => y.dev == x.dev && y.die == x.die && !y.lost) = some v :=
    Option.isSome_iff_exists.mp (List.find?_isSome.mpr ⟨x, hx, by simp [hlost]⟩)
  obtain ⟨⟨hdev, hdie⟩, -⟩ : (v.dev = x.dev ∧ v.die = x.die) ∧ v.lost = false := by simpa using List.find?_some hfind
  have hkeeps := (((State.KeepsPeers.refl (s.destDropped d v) d).raise (f := CTE_EVENTS_DEST_LOST d) (CTE_EVENTS.eq_def d) (by omega)).emit
    (code := 0x5D) (die := d) (kind := 0) (unit := 0) (a := x.dev + x.die * 2 ^ 16) (b := 0)).showCte
  refine ⟨_, exec_destLost_of_silent hfind hdev hdie, fun y hy hydev hydie => ?_, fun g hg => ?_⟩
  · rw [hkeeps.dests, State.cte_destDropped] at hy
    rw [CteSt.eq_of_mem_withDest hy (hydev.trans hdev.symm) (hydie.trans hdie.symm)]
  · rw [← hdev, ← hdie] at hg
    rw [hkeeps.get _ (peerSlot_GROUP d (State.lt_of_groupsOf hg)), State.groupLost_destDropped hg]

end

/-- Settles O38: clause by clause from what the receiving side keeps of its peers, and from the cases of a marker. -/
theorem streamsAreReceived : Obligations.StreamsAreReceived := by
  unfold Obligations.StreamsAreReceived
  intro s d p _
  refine ⟨fun e hin hsrc hvc => ⟨fun hsub hquiet hlost => ?data, fun hsub => ?marker⟩,
    fun x hx hin hvc hsub hdev hdie => reportReceived_moves hx hin hvc hsub hdev hdie,
    fun e hd he hvalid hlost hended => streamLost_shows hd he hvalid hlost hended, fun x hx hlost => destLost_shows hx hlost⟩
  case data =>
    have hkeeps := (State.KeepsPeers.refl ((s.takeInbox d p).setStream d e { s.stream d e with
      pend := (s.stream d e).pend ++ p.payload, pkts := (s.stream d e).pkts + 1 }) d).fitAsm
    refine ⟨_, exec_dataPacket_of_stream hin hsrc hvc hsub hquiet hlost, ?_⟩
    rw [hkeeps.stream, State.stream_setStream, hkeeps.inbox, State.setStream_inbox]
    exact ⟨rfl, rfl, rfl, rfl⟩
  case marker =>
    have he := State.lt_of_srcOf hsrc
    have hexec := exec_marker_of_stream hin hsrc hvc hsub
    have hkeeps := (State.KeepsPeers.refl ((s.takeInbox d p).onMarker d e p.payload) d).showAsm
    intro w0 w1 prev k q good
    refine ⟨fun hsync => ⟨_, hexec, ?_⟩, fun hsync hquiet hlost => ⟨fun hnext => ⟨_, hexec, ?_⟩, fun hnext hbad => ⟨_, hexec, ?_⟩,
      fun hnext hgood => ⟨_, hexec, ?_⟩⟩⟩
    · rw [hkeeps.stream, hkeeps.get _ (peerSlot_CTE_SRC d he), hkeeps.get _ (peerSlot_CTE_SRC d he)]
      exact State.onMarker_of_sync he hsync
    · rw [hkeeps.stream, State.showAsm_dram]
      exact State.onMarker_of_below hsync hquiet hlost hnext
    · rw [hkeeps.stream, hkeeps.get _ (peerSlot_CTE_SRC d he), State.showAsm_dram]
      exact State.onMarker_of_broken hsync hquiet hlost hnext hbad
    · rw [hkeeps.stream]
      exact State.onMarker_of_next hsync hquiet hlost hnext hgood

end Sys2Proof.Machine

namespace Sys2Proof.Machine

open Reg

/-! ### Banks of a tile (R268) -/

section
variable (q : TileSt) {b : Nat}

theorem TileSt.bank_setBank_same (b : Nat) (k : Bank) : (q.setBank b k).bank b = k := by
  by_cases hb : b = 0 <;> simp [TileSt.setBank, TileSt.bank, hb]

theorem TileSt.bank_setBank_opposite (hb : b < 2) (k : Bank) : (q.setBank b k).bank (1 - b) = q.bank (1 - b) := by
  by_cases h0 : b = 0
  · simp [TileSt.setBank, TileSt.bank, h0]
  · have h1 : b = 1 := by omega
    simp [TileSt.setBank, TileSt.bank, h1]

variable {q}

theorem TileSt.accum_eq_some (h : q.accum = some b) : b < 2 ∧ (q.bank b).st = bkACCUM := by
  rw [TileSt.accum] at h
  split at h
  · cases h
    exact ⟨by omega, ‹_›⟩
  · split at h
    · cases h
      exact ⟨by omega, ‹_›⟩
    · cases h

end

theorem woBank_lt (e : Nat) : woBank e < 2 := bitsOf_lt e 46 1

/-! ### What a tile holds beside its registers -/

section
variable (s : State) (d t : Nat) (q : TileSt)

theorem State.gal_of_gals {s u : State} (h : u.gals = s.gals) : u.gal d = s.gal d := by rw [State.gal, h, State.gal]

theorem State.tile_of_gals {s u : State} (h : u.gals = s.gals) : u.tile d t = s.tile d t := by
  rw [State.tile, State.gal_of_gals d h, State.tile]

@[simp] theorem State.tile_put (f : RF) (v : Nat) : (s.put f v).tile d t = s.tile d t := (rfl)

theorem State.tile_advance (n : Nat) : (s.advance n).tile d t = s.tile d t := (rfl)

/-- A change to the gallery beside its tiles. -/
theorem State.tile_setGal {g : GalSt} (h : g.tiles = (s.gal d).tiles) : (s.setGal d g).tile d t = s.tile d t := by
  rw [State.tile, State.gal_set_same, h, State.tile]

section
variable {γ : Type} {π : State → γ} (hput : ∀ s f v, π (s.put f v) = π s)
include hput

theorem State.showBank_leaves (b : Nat) (k : Bank) : π (s.showBank d t b k) = π s := by
  rw [State.showBank]
  split
  · exact hput _ _ _
  · rw [hput, hput, hput, hput, hput]

/-- Beside the registers, a tile's new state is the gallery's. -/
theorem State.setTile_leaves :
    π (s.setTile d t q) = π (s.setGal d { s.gal d with tiles := Store.put (fun _ => TileSt.reset) (s.gal d).tiles t q }) := by
  unfold State.setTile
  extract_lets g s1 s2 st
  have h1 : π s1 = π (s.setGal d { g with tiles := Store.put (fun _ => TileSt.reset) g.tiles t q }) := by
    rw [State.showBank_leaves _ _ _ hput, State.showBank_leaves _ _ _ hput]
  have h2 : π s2 = π s1 := hput _ _ _
  rw [← h1, ← h2]
  exact view_ite (hput _ _ _) rfl

end

theorem State.gal_setTile :
    (s.setTile d t q).gal d = { s.gal d with tiles := Store.put (fun _ => TileSt.reset) (s.gal d).tiles t q } :=
  (State.setTile_leaves (π := fun s => s.gal d) s d t q fun _ _ _ => rfl).trans (State.gal_set_same _ _ _)

@[simp] theorem State.tile_setTile_same : (s.setTile d t q).tile d t = q := by
  rw [State.tile, State.gal_setTile]
  exact Store.get_put_same _ _ _ _

@[simp] theorem State.setTile_now : (s.setTile d t q).now = s.now := State.setTile_leaves (π := State.now) s d t q fun _ _ _ => rfl

@[simp] theorem State.setTile_dram : (s.setTile d t q).dram = s.dram := State.setTile_leaves (π := State.dram) s d t q fun _ _ _ => rfl

theorem State.pm_gals (ev i n : Nat) : (s.pm d ev i n).gals = s.gals :=
  State.pm_leaves (π := State.gals) (fun _ _ _ => rfl) (fun _ _ => rfl) s

theorem State.emitC_gals (perm : Bool) (code die kind unit a b : Nat) : (s.emitC perm code die kind unit a b).gals = s.gals := by
  rw [State.emitC, State.queueEvt]
  refine view_ite (π := State.gals) rfl ?_
  rw [State.bump, State.bumpBy, State.put_gals]

theorem State.emit_gals (code die kind unit a b : Nat) : (s.emit code die kind unit a b).gals = s.gals := State.emitC_gals s _ _ _ _ _ _ _

end

/-! ### The slots that show a tile -/

/-- A slot of tile `t` of die `d` from TILE_STATUS to the second TILE_POS, which show its state, banks and orders. -/
def tileSlot (d t a : Nat) : Prop := ∃ o, a = spanSlot d 0x16 o ∧ 0x10010 + 0x100 * t ≤ o ∧ o < 0x10080 + 0x100 * t

theorem not_tileSlot_of_span {d t a b o : Nat} (ha : a = spanSlot d b o) (ho : o < 2 ^ 36)
    (h : b ≠ 0x16 ∨ o < 0x10010 + 0x100 * t ∨ 0x10080 + 0x100 * t ≤ o) (ht : t < 17) : ¬ tileSlot d t a := by
  rintro ⟨p, hp, hlo, hhi⟩
  rw [ha] at hp
  simp only [spanSlot] at hp
  omega

section
variable {s : State} {d t b : Nat} {f : RF} {k : Bank} {q : TileSt}

/-- The registers of a bank, but for its state, lie within the tile's slots after TILE_STATUS. -/
theorem State.get_showBank (hb : b < 2) (h0 : RF.Apart (TILE_STATUS_BANK0 d t) f) (h1 : RF.Apart (TILE_STATUS_BANK1 d t) f)
    (hf : ∀ o, 0x10020 + 0x100 * t ≤ o → o < 0x10080 + 0x100 * t → f.addr ≠ spanSlot d 0x16 o) :
    (s.showBank d t b k).get f = s.get f := by
  have hst : RF.Apart (if b = 0 then TILE_STATUS_BANK0 d t else TILE_STATUS_BANK1 d t) f := by
    split
    · exact h0
    · exact h1
  rw [State.showBank]
  split
  · exact State.get_put_apart hst
  · rw [State.get_put_other _ _ (hf (0x10040 + 0x30 * b + 0x100 * t) (by omega) (by omega)),
      State.get_put_other _ _ (hf (0x10030 + 0x30 * b + 0x100 * t) (by omega) (by omega)),
      State.get_put_other _ _ (hf (0x10020 + 0x30 * b + 0x100 * t) (by omega) (by omega)),
      State.get_put_other _ _ (hf (0x10020 + 0x30 * b + 0x100 * t) (by omega) (by omega)), State.get_put_apart hst]

theorem State.get_setTile_of_apart (h0 : RF.Apart (TILE_STATUS_BANK0 d t) f) (h1 : RF.Apart (TILE_STATUS_BANK1 d t) f)
    (hqueued : RF.Apart (TILE_STATUS_QUEUED d t) f)
    (hf : ∀ o, 0x10020 + 0x100 * t ≤ o → o < 0x10080 + 0x100 * t → f.addr ≠ spanSlot d 0x16 o)
    (hstate : RF.Apart (TILE_STATUS_STATE d t) f ∨ f = TILE_STATUS_STATE d t ∧ s.get f ≠ tsIDLE ∧ s.get f ≠ tsRUN) :
    (s.setTile d t q).get f = s.get f := by
  unfold State.setTile
  extract_lets g s1 s2 st
  have h2 : s2.get f = s.get f := by
    rw [State.get_put_apart hqueued, State.get_showBank (by omega) h0 h1 hf, State.get_showBank (by omega) h0 h1 hf, State.get_setGal]
  split
  case isTrue hshown =>
    rcases hstate with hstate | ⟨rfl, hidle, hrun⟩
    · rw [State.get_put_apart hstate, h2]
    · have hst : st = s.get (TILE_STATUS_STATE d t) := h2
      omega
  case isFalse => exact h2

/-- A field outside the tile's slots. -/
theorem State.get_setTile (h : ¬ tileSlot d t f.addr) : (s.setTile d t q).get f = s.get f := by
  have hne : ∀ o, 0x10010 + 0x100 * t ≤ o → o < 0x10080 + 0x100 * t → f.addr ≠ spanSlot d 0x16 o :=
    fun o hlo hhi e => h ⟨o, e, hlo, hhi⟩
  have hstatus : TILE_STATUS d t ≠ f.addr := (hne _ (by omega) (by omega)).symm
  exact State.get_setTile_of_apart (.inl hstatus) (.inl hstatus) (.inl hstatus) (fun o hlo => hne o (by omega)) (.inl (.inl hstatus))

/-- A tile that neither waits nor runs keeps its state. -/
theorem State.state_setTile (hidle : s.get (TILE_STATUS_STATE d t) ≠ tsIDLE) (hrun : s.get (TILE_STATUS_STATE d t) ≠ tsRUN) :
    (s.setTile d t q).get (TILE_STATUS_STATE d t) = s.get (TILE_STATUS_STATE d t) :=
  State.get_setTile_of_apart (RF.apart rfl rfl (by omega)) (RF.apart rfl rfl (by omega)) (RF.apart rfl rfl (by omega))
    (fun _ hlo _ => spanSlot_ne (TILE_STATUS.eq_def d t) rfl (by omega)) (.inr ⟨rfl, hidle, hrun⟩)

end

/-! ### Orders put back at the head of a queue (R266) -/

section
variable (s : State) (d t lt : Nat) (os : List WOrder)

theorem State.tile_setGal_movedQ (l : List (Nat × WOrder)) : (s.setGal d { s.gal d with movedQ := l }).tile d t = s.tile d t :=
  State.tile_setGal s d t rfl

theorem State.tile_requeue :
    (s.requeue d t lt os).tile d t = { s.tile d t with queue := (os ++ (s.tile d t).queue).take 4 } := by
  rw [State.requeue, State.tile_setGal_movedQ, State.tile_setTile_same]

theorem State.get_requeue {f : RF} (h : ¬ tileSlot d t f.addr) : (s.requeue d t lt os).get f = s.get f := by
  rw [State.requeue, State.get_setGal, State.get_setTile h]

end

/-! ### One bit of a field -/

theorem State.getBit_putBit_same {s : State} {f : RF} {i : Nat} (b : Bool) (hi : i < f.wid) (h : f.lo + f.wid ≤ 72) :
    (s.putBit f i b).getBit f i = b := by
  have hlt : withBit (s.get f) i b < 2 ^ f.wid := withBits_lt (State.get_lt s f) (by omega)
  rw [State.getBit, State.putBit, State.get_put_same s _ h, Nat.mod_eq_of_lt hlt, bit_withBit_same]

end Sys2Proof.Machine

namespace Sys2Proof

/-- A fold over elements of which only one moves `π`. -/
theorem foldl_once {σ β γ : Type} (π : σ → γ) {f : σ → β → σ} {h : γ → γ} {l : List β} {x : β} (hstep : ∀ s, π (f s x) = h (π s))
    (hkeep : ∀ s, ∀ y ∈ l, y ≠ x → π (f s y) = π s) (hl : l.Nodup) (hx : x ∈ l) (s : σ) : π (l.foldl f s) = h (π s) := by
  induction l generalizing s with
  | nil => cases hx
  | cons y l ih =>
    obtain ⟨hy, hl⟩ := List.nodup_cons.mp hl
    have hrest : ∀ s, ∀ z ∈ l, z ≠ x → π (f s z) = π s := fun s z hz => hkeep s z (List.mem_cons_of_mem y hz)
    rw [List.foldl_cons]
    by_cases hyx : y = x
    · subst hyx
      rw [foldl_leaves π (fun s z hz => hrest s z hz (ne_of_mem_of_not_mem hz hy)), hstep]
    · rw [ih hrest hl ((List.mem_cons.mp hx).resolve_left (Ne.symm hyx)), hkeep s y List.mem_cons_self hyx]

end Sys2Proof

namespace Sys2Proof.Machine

open Reg

/-! ### One active cycle's cells (R258, R263, R272) -/

section
variable (c : Store Acc3) (xr xi yr yi : Int) (n : Nat)

theorem get_addCell_same (k : Nat) : Store.get (fun _ => Acc3.zero) (addCell c k xr xi yr yi n) k =
    (Store.get (fun _ => Acc3.zero) c k).mac xr xi yr yi n := Store.get_put_same _ _ _ _

theorem get_addCell_other {k j : Nat} (h : j ≠ k) : Store.get (fun _ => Acc3.zero) (addCell c k xr xi yr yi n) j =
    Store.get (fun _ => Acc3.zero) c j := Store.get_put_other _ _ _ h

end

/-- A cell's value once a row's sample has met a column's: a flagged sample adds nothing. -/
def Acc3.meet (a : Acc3) (u v : Samp) : Acc3 := if u.flag || v.flag then a else a.mac u.re u.im v.re v.im 1

/-- A fold over a block's valid samples of which only position `r`'s moves `π`. -/
theorem State.foldl_blockSamples {σ γ : Type} (π : σ → γ) {g : σ → Nat × Samp → σ} {h : Samp → γ → γ} (s : State) (d k blk l t : Nat)
    {r : Nat} (hr : r < 32) (hstep : ∀ a x, π (g a (r, x)) = h x (π a)) (hkeep : ∀ a y, y.1 ≠ r → π (g a y) = π a) (a : σ) :
    π ((s.blockSamples d k blk l t).foldl g a) =
      if (s.segSample d k (32 * blk + r) l t).flag then π a else h (s.segSample d k (32 * blk + r) l t) (π a) := by
  rw [State.blockSamples, List.foldl_filterMap]
  refine foldl_once π (h := fun v => if (s.segSample d k (32 * blk + r) l t).flag then v else h (s.segSample d k (32 * blk + r) l t) v)
    (fun a => ?_) (fun a y _ hy => ?_) List.nodup_range (List.mem_range.mpr hr) a
  · dsimp only
    by_cases hflag : (s.segSample d k (32 * blk + r) l t).flag = true
    · simp only [hflag, if_true]
    · simp only [hflag, Bool.false_eq_true, if_false, hstep]
  · dsimp only
    by_cases hflag : (s.segSample d k (32 * blk + y) l t).flag = true
    · simp only [hflag, if_true]
    · simp only [hflag, Bool.false_eq_true, if_false]
      exact hkeep a _ hy

theorem State.lt_of_blockSamples {s : State} {d k blk l t : Nat} {z : Nat × Samp} (hz : z ∈ s.blockSamples d k blk l t) : z.1 < 32 := by
  obtain ⟨r, hr, hsome⟩ := List.mem_filterMap.mp hz
  dsimp only at hsome
  split at hsome
  · cases hsome
  · cases hsome
    exact List.mem_range.mp hr

/-- The checksum cells are no visibility cells. -/
theorem get_cycleCells (c : Store Acc3) (j : Nat) (rows cols : List (Nat × Samp)) {i : Nat} (hi : i < 1024) :
    Store.get (fun _ => Acc3.zero) (cycleCells c j rows cols) (1088 * j + i) = Store.get (fun _ => Acc3.zero)
      (rows.foldl (fun c x => cols.foldl (fun c y => addCell c (1088 * j + 32 * x.1 + y.1) x.2.re x.2.im y.2.re y.2.im 1) c) c)
      (1088 * j + i) := by
  have hrow : ∀ (c : Store Acc3) (x : Nat) (xr xi yr yi : Int) (n : Nat), Store.get (fun _ => Acc3.zero)
      (addCell c (1088 * j + 1024 + x) xr xi yr yi n) (1088 * j + i) = Store.get (fun _ => Acc3.zero) c (1088 * j + i) :=
    fun c x _ _ _ _ _ => get_addCell_other c _ _ _ _ _ (by omega)
  have hcol : ∀ (c : Store Acc3) (x : Nat) (xr xi yr yi : Int) (n : Nat), Store.get (fun _ => Acc3.zero)
      (addCell c (1088 * j + 1056 + x) xr xi yr yi n) (1088 * j + i) = Store.get (fun _ => Acc3.zero) c (1088 * j + i) :=
    fun c x _ _ _ _ _ => get_addCell_other c _ _ _ _ _ (by omega)
  unfold cycleCells
  extract_lets c1 sum ys xs c2
  exact (foldl_leaves (fun c => Store.get (fun _ => Acc3.zero) c (1088 * j + i)) (fun c y _ => hcol c y.1 _ _ _ _ _) c2).trans
    (foldl_leaves (fun c => Store.get (fun _ => Acc3.zero) c (1088 * j + i)) (fun c x _ => hrow c x.1 _ _ _ _ _) c1)

section
variable (s : State) (c : Store Acc3) (d k blk l t j : Nat) {r x : Nat}

/-- A row's sample against the samples of the columns. -/
def State.meetColumns (u : Nat × Samp) : Store Acc3 := (s.blockSamples d k blk l t).foldl
  (fun c v => addCell c (1088 * j + 32 * u.1 + v.1) u.2.re u.2.im v.2.re v.2.im 1) c

theorem State.get_meetColumns_same (u : Samp) (hx : x < 32) :
    Store.get (fun _ => Acc3.zero) (s.meetColumns c d k blk l t j (r, u)) (1088 * j + 32 * r + x) =
      if (s.segSample d k (32 * blk + x) l t).flag then Store.get (fun _ => Acc3.zero) c (1088 * j + 32 * r + x) else
        (Store.get (fun _ => Acc3.zero) c (1088 * j + 32 * r + x)).mac u.re u.im (s.segSample d k (32 * blk + x) l t).re
          (s.segSample d k (32 * blk + x) l t).im 1 :=
  State.foldl_blockSamples (Store.get (fun _ => Acc3.zero) · (1088 * j + 32 * r + x)) (h := fun v a => a.mac u.re u.im v.re v.im 1)
    s d k blk l t hx (fun a v => get_addCell_same a _ _ _ _ _ _) (fun a y hy => get_addCell_other a _ _ _ _ _ (by omega)) c

theorem State.get_meetColumns_other {u : Nat × Samp} (hu : u.1 ≠ r) (hx : x < 32) :
    Store.get (fun _ => Acc3.zero) (s.meetColumns c d k blk l t j u) (1088 * j + 32 * r + x) =
      Store.get (fun _ => Acc3.zero) c (1088 * j + 32 * r + x) := by
  refine foldl_leaves (Store.get (fun _ => Acc3.zero) · (1088 * j + 32 * r + x)) (fun a z hz => get_addCell_other a _ _ _ _ _ ?_) c
  have hz32 := State.lt_of_blockSamples hz
  omega

end

/-- A cycle adds the product of its row's and its column's sample to each visibility cell. -/
theorem State.get_cycleCells_blockSamples (s : State) (c : Store Acc3) (d k b1 b2 l t j : Nat) {r x : Nat} (hr : r < 32) (hx : x < 32) :
    Store.get (fun _ => Acc3.zero) (cycleCells c j (s.blockSamples d k b1 l t) (s.blockSamples d k b2 l t)) (1088 * j + 32 * r + x) =
      (Store.get (fun _ => Acc3.zero) c (1088 * j + 32 * r + x)).meet (s.segSample d k (32 * b1 + r) l t)
        (s.segSample d k (32 * b2 + x) l t) := by
  have hrows := State.foldl_blockSamples (Store.get (fun _ => Acc3.zero) · (1088 * j + 32 * r + x))
    (g := fun c u => s.meetColumns c d k b2 l t j u)
    (h := fun u a => if (s.segSample d k (32 * b2 + x) l t).flag then a else a.mac u.re u.im (s.segSample d k (32 * b2 + x) l t).re
      (s.segSample d k (32 * b2 + x) l t).im 1)
    s d k b1 l t hr (fun a u => s.get_meetColumns_same a d k b2 l t j u hx) (fun a y hy => s.get_meetColumns_other a d k b2 l t j hy hx) c
  rw [Nat.add_assoc, get_cycleCells c j _ _ (by omega), ← Nat.add_assoc]
  refine hrows.trans ?_
  simp only [Acc3.meet]
  cases (s.segSample d k (32 * b1 + r) l t).flag
  · simp only [Bool.false_or, Bool.false_eq_true, if_false]
  · simp only [Bool.true_or, if_true]

end Sys2Proof.Machine

namespace Sys2Proof.Machine

open Reg

/-! ### Orders are issued and start (R266, R268, R269) -/

theorem State.lt_of_tileServes {s : State} {d t : Nat} (h : s.tileServes d t = true) : t < 17 := by
  simp only [State.tileServes, Bool.and_eq_true, decide_eq_true_eq] at h
  exact h.1.1.2

theorem State.issueTo_of_room {s : State} {d lt t : Nat} {o : WOrder} (hserver : s.server d lt o.si = some t)
    (hroom : (s.tile d t).queue.length < 4) :
    s.issueTo d lt o = some (s.setTile d t { s.tile d t with queue := (s.tile d t).queue ++ [o] }) := by
  simp only [State.issueTo, hserver, hroom, if_true]

/-- The short integration of the next order to issue of a logical tile, and its place in its list. -/
def State.issueSi (s : State) (d lt : Nat) : Nat := Store.get (fun _ => 0) (s.gal d).nextSi lt
def State.issueIdx (s : State) (d lt : Nat) : Nat := Store.get (fun _ => 0) (s.gal d).nextIdx lt

/-- The scheduler's next order of a logical tile becomes place `i` of short integration `n`. -/
def State.issueNext (s : State) (d lt n i : Nat) : State :=
  s.setGal d { s.gal d with nextSi := Store.put (fun _ => 0) (s.gal d).nextSi lt n, nextIdx := Store.put (fun _ => 0) (s.gal d).nextIdx lt i }

section
variable (s : State) (d lt n i : Nat)

theorem State.tile_issueNext (t : Nat) : (s.issueNext d lt n i).tile d t = s.tile d t := State.tile_setGal s d t rfl

theorem State.issueSi_issueNext : (s.issueNext d lt n i).issueSi d lt = n := by
  rw [State.issueSi, State.issueNext, State.gal_set_same]
  exact Store.get_put_same _ _ _ _

theorem State.issueIdx_issueNext : (s.issueNext d lt n i).issueIdx d lt = i := by
  rw [State.issueIdx, State.issueNext, State.gal_set_same]
  exact Store.get_put_same _ _ _ _

end

theorem exec_workOrderIssue_of_next {s : State} {d lt y : Nat} {e : Nat × Nat} (hd : s.present d = true) (hruns : s.runs = true)
    (hlt : lt < 16) (hlost : s.ltLost d lt = false) (hgap : (s.gal d).gapWait = []) (hmoved : (s.gal d).movedQ = [])
    (he : (s.workList d (s.gal d).moves lt (s.issueSi d lt))[s.issueIdx d lt]? = some e)
    (hserver : s.server d lt (s.issueSi d lt) = some y) (hroom : (s.tile d y).queue.length < 4) :
    let l := s.workList d (s.gal d).moves lt (s.issueSi d lt)
    exec (.workOrderIssue d lt) s = .next ((s.setTile d y
      { s.tile d y with queue := (s.tile d y).queue ++ [⟨e.1, s.issueSi d lt, 0, e.2⟩] }).issueNext d lt
        (if l.length ≤ s.issueIdx d lt + 1 then s.siSkip d (s.issueSi d lt + 1) else s.issueSi d lt)
        (if l.length ≤ s.issueIdx d lt + 1 then 0 else s.issueIdx d lt + 1)) := by
  have hguard : ¬ (s.present d = false ∨ s.runs = false ∨ 16 ≤ lt ∨ s.ltLost d lt = true) := by simp [hd, hruns, hlost, hlt]
  have hissue := State.issueTo_of_room (o := ⟨e.1, s.issueSi d lt, 0, e.2⟩) hserver hroom
  change execWorkOrderIssue d lt s = _
  rw [State.issueSi] at *
  rw [State.issueIdx] at *
  simp only [execWorkOrderIssue, if_neg hguard, hgap, hmoved, List.find?_nil, he, hissue, ok, State.issueNext, decide_eq_true_eq]

section
variable {s : State} {d x : Nat} {o : WOrder} {rest : List WOrder} (hserves : s.tileServes d x = true) (hswitch : s.nvm.switching = false)
  (hqueue : (s.tile d x).queue = o :: rest)
include hserves hswitch hqueue

theorem exec_workOrderStart_of_free (hfree : ((s.tile d x).bank (woBank o.entry)).st = bkFREE)
    (hother : ((s.tile d x).bank (1 - woBank o.entry)).st ≠ bkACCUM) : exec (.workOrderStart d x) s =
      .next ((s.setTile d x { (s.tile d x).setBank (woBank o.entry) ⟨bkACCUM, some o, s.siFirst d o.si, 0, 0, [], 0⟩ with
        queue := rest, progAt := s.now }).putBit (GAL_STATUS_STALLED d) x false) := by
  have hguard : ¬ (s.tileServes d x = false ∨ s.nvm.switching = true) := by simp [hserves, hswitch]
  change execWorkOrderStart d x s = _
  simp only [execWorkOrderStart, if_neg hguard, hqueue, hfree, ne_eq, not_true_eq_false, if_false, if_neg hother, ok]

theorem exec_workOrderStart_of_busy (hbusy : ((s.tile d x).bank (woBank o.entry)).st ≠ bkFREE) : exec (.workOrderStart d x) s =
    .next ((s.putBit (GAL_STATUS_STALLED d) x true).raise (GAL_EVENTS_STALL d)) := by
  have hguard : ¬ (s.tileServes d x = false ∨ s.nvm.switching = true) := by simp [hserves, hswitch]
  change execWorkOrderStart d x s = _
  simp only [execWorkOrderStart, if_neg hguard, hqueue, if_pos hbusy, ok]

end

/-! ### An active cycle (R258, R269) -/

theorem State.bankNext_cells (s : State) (d : Nat) (o : WOrder) (k : Bank) : (s.bankNext d o k).cells = k.cells := by
  rw [State.bankNext]
  split
  · rfl
  · split <;> rfl

section
variable (s : State) (d t cyc : Nat)

theorem State.tile_countBusy :
    (s.countBusy d t cyc).tile d t = { s.tile d t with cycles := ((s.tile d t).cycles + cyc) % 2 ^ 20 } := by
  rw [State.countBusy, State.tile_of_gals d t (State.pm_gals _ _ _ _ _), State.bumpBy, State.tile_put, State.tile_setTile_same]

theorem State.countBusy_dram : (s.countBusy d t cyc).dram = s.dram := by
  rw [State.countBusy, State.pm_dram, State.bumpBy, State.put_dram, State.setTile_dram]

end

/-- The cells of a bank after the next cycle of its order. -/
def State.nextCells (s : State) (d : Nat) (o : WOrder) (k : Bank) : Store Acc3 :=
  let l := s.get (CHMAP_LCH d (woC0 o.entry + k.chan))
  cycleCells k.cells k.chan (s.blockSamples d k.folio (woB1 o.entry) l k.time) (s.blockSamples d k.folio (woB2 o.entry) l k.time)

theorem exec_tileCycle_of_ready {s : State} {d x b : Nat} {o : WOrder} (hserves : s.tileServes d x = true)
    (haccum : (s.tile d x).accum = some b) (horder : ((s.tile d x).bank b).order = some o)
    (hready : s.segReady d ((s.tile d x).bank b).folio = true) : exec (.tileCycle d x none) s =
      let k := (s.tile d x).bank b
      .next ((s.setTile d x { (s.tile d x).setBank b (s.bankNext d o { k with cells := s.nextCells d o k }) with progAt := s.now }).countBusy
        d x (if s.get (CTE_CFG_FMT d) = 0 then 1 else 4)) := by
  change execTileCycle d x none s = _
  simp only [execTileCycle, hserves, haccum, horder, hready, Bool.true_eq_false, if_false, ok, State.nextCells]

/-! ### Seals (R273, R275) -/

theorem exec_sealBank_of_seal {s : State} {d x b : Nat} (hserves : s.tileServes d x = true) (hb : b < 2)
    (hst : ((s.tile d x).bank b).st = bkSEAL) : exec (.sealBank d x b) s = .next (s.sealBank d x b) := by
  change execSealBank d x b s = _
  rw [execSealBank, if_pos ⟨hserves, hb, hst⟩, ok]

/-- A tile whose work is discarded: what has not passed its seal runs again. -/
def State.discarded (s : State) (d t : Nat) : TileSt :=
  let q := s.tile d t
  { q with b0 := q.b0.discard, b1 := q.b1.discard, redo := q.redo ++ s.unsealed d q }

section
variable {s : State} {d x b : Nat} {o : WOrder}

theorem State.bank_discarded (s : State) (d x b : Nat) : (s.discarded d x).bank b = ((s.tile d x).bank b).discard := by
  by_cases hb : b = 0 <;> simp [State.discarded, TileSt.bank, hb]

theorem Bank.discard_of_seal {k : Bank} (h : k.st = bkSEAL) : k.discard = { k with st := bkDISCARD, cells := [] } := by
  have hu : k.unsealed = true := by rw [Bank.unsealed, h]; rfl
  rw [Bank.discard, if_pos hu]

/-- The order of a bank that has not passed its seal is among those that run again. -/
theorem State.mem_unsealed {q : TileSt} (hu : (q.bank b).unsealed = true) (ho : (q.bank b).order = some o) :
    o ∈ s.unsealed d q := by
  have hmem : o ∈ (if q.b0.unsealed then q.b0.order.toList else []) ∨ o ∈ (if q.b1.unsealed then q.b1.order.toList else []) := by
    by_cases h0 : b = 0
    · simp only [TileSt.bank, if_pos h0] at hu ho
      exact .inl (by simp [hu, ho])
    · simp only [TileSt.bank, if_neg h0] at hu ho
      exact .inr (by simp [hu, ho])
  unfold State.unsealed
  split
  next o' p' h0 h1 =>
    rw [h0, h1, List.mem_singleton, List.mem_singleton] at hmem
    split <;> simpa [or_comm] using hmem
  next => exact List.mem_append.mpr hmem

theorem State.sealBank_of_match (ho : ((s.tile d x).bank b).order = some o)
    (hbad : firstBad ((s.tile d x).bank b).cells (woNc o.entry) = none) : s.sealBank d x b =
      s.setTile d x ((s.tile d x).setBank b { (s.tile d x).bank b with st := bkDRAIN, acked := 0 }) := by
  simp only [State.sealBank, ho, hbad]

end

/-- A mismatch of order `o` at channel `j`, row `r` and column `c`, recorded, with the tile's work discarded. -/
def State.mismatched (s : State) (d t : Nat) (o : WOrder) (j r c : Nat) : State :=
  let s1 := (s.setTile d t { s.discarded d t with lastMis := some s.now }).bump (TILE_FAULT_MISMATCHES d t)
  let s2 := (((s1.put (TILE_FAULT_LAST_CH d t) (woC0 o.entry + j)).put (TILE_FAULT_LAST_ROW d t) r).put (TILE_FAULT_LAST_COL d t) c).put
    (TILE_FAULT_AGE_H d t) 0
  ((s2.bump (GAL_COUNT_MISMATCHES d)).raise (GAL_EVENTS_MISMATCH d)).emitC false 0x60 d 5 t (s2.rd (TILE_FAULT d t)).toNat o.si

theorem State.tile_mismatched (s : State) (d t : Nat) (o : WOrder) (j r c : Nat) :
    (s.mismatched d t o j r c).tile d t = { s.discarded d t with lastMis := some s.now } := by
  rw [State.mismatched, State.tile_of_gals d t (State.emitC_gals _ _ _ _ _ _ _ _)]
  simp only [State.raise, State.bump, State.bumpBy, State.tile_put, State.tile_setTile_same]

/-- A tile's first mismatch starts BIST. -/
theorem State.sealBank_of_mismatch {s : State} {d x b j r c : Nat} {o : WOrder} (ho : ((s.tile d x).bank b).order = some o)
    (hbad : firstBad ((s.tile d x).bank b).cells (woNc o.entry) = some (j, r, c)) (hmis : (s.tile d x).lastMis = none) :
    s.sealBank d x b = (s.mismatched d x o j r c).put (TILE_STATUS_STATE d x) tsBIST := by
  simp only [State.sealBank, ho, hbad, hmis, Bool.false_eq_true, if_false, State.mismatched, State.discarded]

/-! ### Drains (R266, R268) -/

section
variable (s : State) (d t : Nat)

theorem State.showGt_gals : (s.showGt d).gals = s.gals := by rw [State.showGt, State.put_gals, State.put_gals]

theorem State.tile_endReturn : (s.endReturn d).tile d t = s.tile d t := by
  rw [State.endReturn]
  split
  · rfl
  · split
    · rfl
    · refine view_ite (π := (State.tile · d t)) ?_ rfl
      rw [State.tile_of_gals d t (State.showGt_gals _ d), State.tile_of_gals d t (State.emit_gals _ _ _ _ _ _ _),
        State.raise, State.raise, State.tile_put, State.tile_put, State.tile_put, State.tile_put, State.tile_setGal s d t (by rfl)]

theorem State.tile_showDone (n : Nat) : (s.showDone d n).tile d t = s.tile d t := by
  induction n generalizing s with
  | zero => rfl
  | succ n ih =>
    rw [State.showDone]
    refine view_ite (π := (State.tile · d t)) ?_ rfl
    rw [ih, State.tile_put, State.tile_setGal s d t (by rfl)]

end

theorem exec_drainAck_of_acked {s : State} {d x b : Nat} {o : WOrder} (hx : x < 16) (hb : b < 2) (hst : ((s.tile d x).bank b).st = bkDRAIN)
    (ho : ((s.tile d x).bank b).order = some o) (hacked : woNc o.entry ≤ ((s.tile d x).bank b).acked) : exec (.drainAck d x b) s =
      .next (((((s.setTile d x ((s.tile d x).setBank b .reset)).bump (TILE_COUNT_ORDERS d x)).pm d 0x41 x 1).endReturn d).showDone d 64) := by
  have hspare : ¬ (x = 16 ∧ o.kind = 1) := by omega
  change execDrainAck d x b s = _
  simp only [execDrainAck, ho, if_pos (And.intro hst (And.intro hb hacked)), if_neg hspare, ok]

/-- Settles O39: clause by clause from the answers of the gallery's commands and the laws of tiles, banks and cells. -/
theorem galleryRunsOrders : Obligations.GalleryRunsOrders := by
  unfold Obligations.GalleryRunsOrders
  intro s d x b
  refine ⟨fun lt y e => ?issue, fun o rest hserves hswitch hqueue => ⟨?start, ?stall⟩, fun o hserves haccum ho hready => ?cycle,
    fun o hserves hb hst ho => ⟨?drain, ?mismatch⟩, fun o hx hb hst ho hacked => ?free⟩
  case issue =>
    intro g n i l hd hruns hlt hlost hgap hmoved he hserver hroom
    refine ⟨_, exec_workOrderIssue_of_next hd hruns hlt hlost hgap hmoved he hserver hroom, ?_, State.issueIdx_issueNext _ _ _ _ _,
      State.issueSi_issueNext _ _ _ _ _⟩
    rw [State.tile_issueNext, State.tile_setTile_same]
    rfl
  case start =>
    intro hfree hother
    have hx := State.lt_of_tileServes hserves
    refine ⟨_, exec_workOrderStart_of_free hserves hswitch hqueue hfree hother, ?_, ?_, ?_,
      State.getBit_putBit_same false hx (RF.fits rfl (by omega))⟩ <;>
      rw [State.putBit, State.tile_put, State.tile_setTile_same]
    · exact TileSt.bank_setBank_same _ _ _
    · exact TileSt.bank_setBank_opposite _ (woBank_lt _) _
  case stall =>
    intro hbusy
    have hx := State.lt_of_tileServes hserves
    refine ⟨_, exec_workOrderStart_of_busy hserves hswitch hqueue hbusy, ?_, ?_⟩
    · rw [State.getBit, State.get_raise_apart (RF.apart (GAL_EVENTS_STALL.eq_def d) (GAL_STATUS_STALLED.eq_def d) (by omega))]
      exact State.getBit_putBit_same true hx (RF.fits rfl (by omega))
    · exact ((State.onlyRegs_refl s _).putBit (by simp [GAL_STATUS_STALLED])).put (by simp [GAL_EVENTS_STALL])
  case cycle =>
    refine ⟨_, exec_tileCycle_of_ready hserves haccum ho hready, ?_, fun r c hr hc => ?_⟩
    · rw [State.countBusy_dram, State.setTile_dram]
    · intro k ch u v old
      rw [State.tile_countBusy, State.tile_setTile_same]
      have hcells : (((s.tile d x).setBank b (s.bankNext d o { k with cells := s.nextCells d o k })).bank b).cells =
          s.nextCells d o k := by
        rw [TileSt.bank_setBank_same, State.bankNext_cells]
      change Store.get (fun _ => Acc3.zero) (((s.tile d x).setBank b (s.bankNext d o { k with cells := s.nextCells d o k })).bank b).cells
        _ = _
      rw [hcells, State.nextCells, State.get_cycleCells_blockSamples _ _ _ _ _ _ _ _ _ hr hc]
      rfl
  case drain =>
    intro hbad
    refine ⟨_, exec_sealBank_of_seal hserves hb hst, ?_⟩
    rw [State.sealBank_of_match ho hbad, State.tile_setTile_same, TileSt.bank_setBank_same]
  case mismatch =>
    intro j r c hbad hmis
    refine ⟨_, exec_sealBank_of_seal hserves hb hst, ?_⟩
    have htile : (s.sealBank d x b).tile d x = { s.discarded d x with lastMis := some s.now } := by
      rw [State.sealBank_of_mismatch ho hbad hmis, State.tile_put, State.tile_mismatched]
    have hbank : ((s.sealBank d x b).tile d x).bank b = { (s.tile d x).bank b with st := bkDISCARD, cells := [] } := by
      rw [htile]
      exact (s.bank_discarded d x b).trans (Bank.discard_of_seal hst)
    have hu : ((s.tile d x).bank b).unsealed = true := by rw [Bank.unsealed, hst]; rfl
    rw [hbank, htile, State.sealBank_of_mismatch ho hbad hmis]
    exact ⟨rfl, rfl, List.mem_append_right _ (State.mem_unsealed hu ho), rfl, State.get_put_fits (RF.fits rfl (by omega))⟩
  case free =>
    refine ⟨_, exec_drainAck_of_acked hx hb hst ho hacked, ?_, ?_⟩ <;>
      rw [State.tile_showDone, State.tile_endReturn, State.tile_of_gals d x (State.pm_gals _ _ _ _ _), State.bump, State.bumpBy,
        State.tile_put, State.tile_setTile_same]
    · exact TileSt.bank_setBank_same _ _ _
    · exact TileSt.bank_setBank_opposite _ hb _

end Sys2Proof.Machine

namespace Sys2Proof.Machine

open Reg

/-! ### What events, the mode and the fault record leave of the gallery's slots and of the time -/

/-- Blocks of the state map in which the mode, replacement, dropped events and the fault record are shown. -/
def faultBlocks : List Nat := [0x02, 0x0A, 0x0B, 0x1E]

/-- What `π` reads of a state is neither a slot of those blocks, nor what events, interrupts and the fault record hold beside the
registers, nor the gallery's state. (`LinkView` leaves every slot outside the links' block, so it sees no slot of the gallery.) -/
structure GiveUpView {γ : Type} (π : State → γ) : Prop where
  put : ∀ (s : State) (f : RF) (v : Nat), addrBlock f.addr ∈ faultBlocks → π (s.put f v) = π s
  beside : ∀ s t : State, t.linkPart = s.linkPart → π t = π s
  setGal : ∀ (s : State) (d : Nat) (g : GalSt), π (s.setGal d g) = π s

theorem giveUpView_now : GiveUpView State.now :=
  ⟨fun _ _ _ _ => rfl, fun s t h => (congrArg State.now h : t.linkPart.now = s.linkPart.now), fun _ _ _ => rfl⟩

theorem giveUpView_get {f : RF} (hf : addrBlock f.addr ∉ faultBlocks) : GiveUpView (State.get · f) :=
  ⟨fun s _ v hg => State.get_put_of_block s v (ne_of_mem_of_not_mem hg hf).symm,
    fun s t h => (congrArg (State.get · f) h : t.linkPart.get f = s.linkPart.get f), fun s d g => State.get_setGal s d g f⟩

theorem addrBlock_FLT_STATUS_mem (d : Nat) : addrBlock (FLT_STATUS d) ∈ faultBlocks := by
  rw [addrBlock_FLT_STATUS]; decide

theorem addrBlock_FLT_EVENTS_mem (d : Nat) : addrBlock (FLT_EVENTS d) ∈ faultBlocks := by
  rw [addrBlock_FLT_EVENTS]; decide

theorem addrBlock_UNIT_BKT_mem (d : Nat) {u : Nat} (hu : u < 76) : addrBlock (UNIT_BKT d u) ∈ faultBlocks := by
  rw [addrBlock_UNIT_BKT d hu]; decide

namespace GiveUpView

variable {γ : Type} {π : State → γ} (h : GiveUpView π) (s : State)
include h

theorem emit (code die kind unit a b : Nat) : π (s.emit code die kind unit a b) = π s := by
  rw [State.emit, State.emitC, State.queueEvt]
  exact view_ite (h.beside _ _ rfl) ((h.put _ _ _ (by decide)).trans (h.beside _ _ rfl))

theorem msix (p v : Nat) : π (s.msix p v) = π s := by
  rw [State.msix]
  exact view_ite rfl (view_ite (view_ite rfl (h.beside _ _ rfl)) (view_ite (h.beside _ _ rfl) (h.beside _ _ rfl)))

theorem msixChange : π s.msixChange = π s := (h.msix _ 1 1).trans (h.msix s 0 1)

theorem markNow (bits : Nat) : π (s.markNow bits) = π s := by
  rw [State.markNow]
  split
  · rfl
  · exact h.beside _ _ rfl

theorem setMode (m : Nat) : π (s.setMode m) = π s := by
  rw [State.setMode, h.markNow, h.msixChange, h.emit, State.raise, h.put _ _ _ (by decide), h.put _ _ _ (by decide),
    h.put _ _ _ (by decide), h.put _ _ _ (by decide)]
  exact view_ite (h.beside _ _ rfl) (h.beside _ _ rfl)

theorem evalRepl : π s.evalRepl = π s := by
  unfold State.evalRepl
  extract_lets conds adv lvl mask s1 s2 s3 s4
  have h2 : π s2 = π s := by
    rw [h.put _ _ _ (by decide), h.put _ _ _ (by decide), h.put _ _ _ (by decide), h.put _ _ _ (by decide)]
  have h3 : π s3 = π s2 := view_ite rfl ((h.msixChange _).trans (h.put _ _ _ (by decide)))
  have h4 : π s4 = π s3 := foldl_leaves π (fun t d _ => h.put t _ _ (addrBlock_FLT_STATUS_mem d)) s3
  rw [← h2, ← h3, ← h4]
  exact view_ite (h.setMode s4 _) rfl

theorem request (code die days : Nat) : π (s.request code die days) = π s := by
  rw [State.request]
  exact view_ite rfl ((h.evalRepl _).trans ((view_ite (h.put _ _ _ (addrBlock_FLT_EVENTS_mem die)) rfl).trans
    ((h.emit _ _ _ _ _ _ _).trans (h.beside _ _ rfl))))

theorem beginFault (u : UnitId) (code : Nat) : π (s.beginFault u code) = π s :=
  view_ite ((h.request _ _ _ _).trans ((h.emit _ _ _ _ _ _ _).trans (h.beside _ _ rfl))) (h.beside _ _ rfl)

theorem charge (u : UnitId) (b d : Nat) {n : Nat} (hn : n < 76) : π (s.charge u b (UNIT_BKT_BKT_B d n)) = π s :=
  (h.put _ _ _ (addrBlock_UNIT_BKT_mem d hn)).trans (view_ite (h.beside _ _ rfl) rfl)

/-- A tile's state in UNIT_BKT. -/
theorem setUnitState (d v : Nat) {t : Nat} (ht : t < 76) : π (s.setUnitState ⟨d, 5, t⟩ v) = π s :=
  h.put _ _ _ (addrBlock_UNIT_BKT_mem d ht)

end GiveUpView

/-! ### A tile gives up its work (R277, R542) -/

/-- The bucket of a tile's give-ups is below its threshold. -/
def State.GiveUpBelow (s : State) (d t : Nat) : Prop := s.get (UNIT_BKT_BKT_B d t) < s.get (FLT_LIMITS_GIVEUP_THRESH d)

/-- A tile stops: what has not passed its seal is discarded, and its retests count from 0. -/
def State.stopped (s : State) (d t : Nat) : State :=
  ((s.put (TILE_STATUS_STATE d t) tsGAVEUP).setTile d t { s.discarded d t with gaveUp := s.now, tested := s.now }).put
    (TILE_FAULT_PASSES d t) 0

/-- A stopped tile's bucket is charged, it is out of service, and its fault is open. -/
def State.gaveUp (s : State) (d t code : Nat) : State :=
  (((s.stopped d t).charge ⟨d, 5, t⟩ 1 (UNIT_BKT_BKT_B d t)).setUnitState ⟨d, 5, t⟩ 1).beginFault ⟨d, 5, t⟩ code

section
variable {s : State} {d t code : Nat}

theorem State.get_stopped {f : RF} (hst : TILE_STATUS d t ≠ f.addr) (hpass : RF.Apart (TILE_FAULT_PASSES d t) f)
    (hf : ¬ tileSlot d t f.addr) : (s.stopped d t).get f = s.get f := by
  rw [State.stopped, State.get_put_apart hpass, State.get_setTile hf, State.get_put_apart (.inl hst)]

theorem State.state_stopped : (s.stopped d t).get (TILE_STATUS_STATE d t) = tsGAVEUP := by
  have hput : (s.put (TILE_STATUS_STATE d t) tsGAVEUP).get (TILE_STATUS_STATE d t) = tsGAVEUP :=
    State.get_put_fits (RF.fits rfl (by omega))
  have hset := fun q => State.state_setTile (q := q) (hput.trans_ne (by decide)) (hput.trans_ne (by decide))
  rw [State.stopped, State.get_put_apart (RF.apart (TILE_FAULT_PASSES.eq_def d t) (TILE_STATUS_STATE.eq_def d t) (by omega)), hset, hput]

theorem State.stopped_now : (s.stopped d t).now = s.now := by
  rw [State.stopped, State.put_now, State.setTile_now, State.put_now]

variable (ht : t < 16)
include ht

/-- A charge below the threshold does not pass it. -/
theorem State.bucket_stopped_le (hb : s.GiveUpBelow d t) :
    ((s.stopped d t).charge ⟨d, 5, t⟩ 1 (UNIT_BKT_BKT_B d t)).get (UNIT_BKT_BKT_B d t) ≤ s.get (FLT_LIMITS_GIVEUP_THRESH d) := by
  have hstatus : TILE_STATUS d t ≠ UNIT_BKT d t := by
    simp only [TILE_STATUS, UNIT_BKT, spanSlot]; omega
  have hfault : TILE_FAULT d t ≠ UNIT_BKT d t := by
    simp only [TILE_FAULT, UNIT_BKT, spanSlot]; omega
  have hkept : (s.stopped d t).get (UNIT_BKT_BKT_B d t) = s.get (UNIT_BKT_BKT_B d t) :=
    State.get_stopped hstatus (.inl hfault) (not_tileSlot_of_span (UNIT_BKT.eq_def d t) (by omega) (by omega) (by omega))
  have hlt : (s.stopped d t).get (UNIT_BKT_BKT_B d t) < s.get (FLT_LIMITS_GIVEUP_THRESH d) := by
    rw [hkept]
    exact hb
  rw [State.get_charge_of_lt hlt (State.get_lt s (FLT_LIMITS_GIVEUP_THRESH d)) (RF.fits rfl (by omega))]
  exact hlt

/-- Below its threshold, a tile that gives up its work is not deaccessioned; its work is lent. -/
theorem State.tileGivesUp_of_below (hb : s.GiveUpBelow d t) : s.tileGivesUp d t code =
    (s.gaveUp d t code).lendTile d t (s.get (TILE_CFG_LOGICAL d t)) := by
  have hspare : ¬ t = 16 := by omega
  have hdead := Nat.not_lt.mpr (State.bucket_stopped_le ht hb)
  simp only [State.stopped, State.discarded] at hdead
  simp only [State.tileGivesUp, hspare, hdead, decide_false, Bool.false_eq_true, false_and, if_false, State.gaveUp, State.stopped,
    State.discarded]

end

section
variable {γ : Type} {π : State → γ} (h : GiveUpView π) (s : State) (d : Nat) {t : Nat}
include h

theorem GiveUpView.gaveUp (code : Nat) (ht : t < 16) : π (s.gaveUp d t code) = π (s.stopped d t) := by
  rw [State.gaveUp, h.beginFault, h.setUnitState _ _ _ (by omega), h.charge _ _ _ _ (by omega)]

/-- What a loan, or its want, leaves: the spare's state, LOAN and the event of a move aside. -/
theorem GiveUpView.lendTile (hset : ∀ q, π (s.setTile d t q) = π s) (hstate : ∀ s v, π (State.put s (TILE_STATUS_STATE d 16) v) = π s)
    (hloan : ∀ s v, π (State.put s (GAL_STATUS_LOAN d) v) = π s) (hmove : ∀ s, π (State.raise s (GAL_EVENTS_MOVE d)) = π s) (lt : Nat) :
    π (s.lendTile d t lt) = π s := by
  have hlost : ∀ (u : State) (os : List WOrder), π (u.loseLt d lt t os) = π u := fun u os => by
    unfold State.loseLt
    extract_lets s1 fits _ s2
    have h2 : π s2 = π u := (h.setGal _ _ _).trans (h.request u 1 d 0)
    refine view_ite ?_ h2
    rw [h.emit, hmove, h2]
  rw [State.lendTile]
  refine view_ite (h.setGal _ _ _) (view_ite ?_ ((hlost _ _).trans (hset _)))
  rw [State.showGt, h.put _ _ _ (addrBlock_FLT_STATUS_mem d), hloan, hstate, h.setGal]

end

end Sys2Proof.Machine

namespace Sys2Proof.Machine

open Reg

theorem addrBlock_GAL_EVENTS (d : Nat) : addrBlock (GAL_EVENTS d) = 0x16 := addrBlock_spanSlot d (by omega) (by omega)

theorem addrBlock_TILE_STATUS (d : Nat) {t : Nat} (ht : t < 17) : addrBlock (TILE_STATUS d t) = 0x16 :=
  addrBlock_spanSlot d (by omega) (by omega)

theorem addrBlock_TILE_FAULT (d : Nat) {t : Nat} (ht : t < 17) : addrBlock (TILE_FAULT d t) = 0x16 :=
  addrBlock_spanSlot d (by omega) (by omega)

theorem addrBlock_of_tileSlot {d t a : Nat} (ht : t < 17) (h : tileSlot d t a) : addrBlock a = 0x16 := by
  obtain ⟨o, rfl, _, ho⟩ := h
  exact addrBlock_spanSlot d (by omega) (by omega)

theorem not_tileSlot_GAL_EVENTS (d t : Nat) : ¬ tileSlot d t (GAL_EVENTS d) := by
  rintro ⟨o, ho, hlo, _⟩
  exact spanSlot_ne (GAL_EVENTS.eq_def d) rfl (by omega) ho

theorem not_tileSlot_TILE_FAULT (d t : Nat) : ¬ tileSlot d t (TILE_FAULT d t) := by
  rintro ⟨o, ho, hlo, hhi⟩
  exact spanSlot_ne (TILE_FAULT.eq_def d t) rfl (by omega) ho

/-! ### What giving up leaves and sets -/

section
variable {s : State} {d t code : Nat} (ht : t < 16) (hb : s.GiveUpBelow d t)
include ht hb

theorem State.state_tileGivesUp : (s.tileGivesUp d t code).get (TILE_STATUS_STATE d t) = tsGAVEUP := by
  have hview : GiveUpView (State.get · (TILE_STATUS_STATE d t)) :=
    giveUpView_get (by rw [TILE_STATUS_STATE, addrBlock_TILE_STATUS d (by omega)]; decide)
  have hspare : TILE_STATUS d 16 ≠ TILE_STATUS d t := spanSlot_ne rfl rfl (by omega)
  have hgave : (s.gaveUp d t code).get (TILE_STATUS_STATE d t) = tsGAVEUP := (hview.gaveUp s d code ht).trans State.state_stopped
  rw [State.tileGivesUp_of_below ht hb]
  refine (hview.lendTile (s.gaveUp d t code) d (fun q => State.state_setTile (hgave.trans_ne (by decide)) (hgave.trans_ne (by decide)))
    (fun u v => State.get_put_apart (.inl hspare))
    (fun u v => State.get_put_apart (RF.apart (GAL_STATUS_LOAN.eq_def d) (TILE_STATUS_STATE.eq_def d t) (by omega)))
    (fun u => State.get_raise_apart (RF.apart (GAL_EVENTS_MOVE.eq_def d) (TILE_STATUS_STATE.eq_def d t) (by omega))) _).trans hgave

/-- The gallery's events, but for that of a move. -/
theorem State.event_tileGivesUp {f : RF} (hf : f.addr = GAL_EVENTS d) (hmove : RF.Apart (GAL_EVENTS_MOVE d) f) :
    (s.tileGivesUp d t code).get f = s.get f := by
  have hview : GiveUpView (State.get · f) := giveUpView_get (by rw [hf, addrBlock_GAL_EVENTS]; decide)
  have hslot : ¬ tileSlot d t f.addr := hf ▸ not_tileSlot_GAL_EVENTS d t
  have hne : ∀ {a o : Nat}, a = spanSlot d 0x16 o → o ≠ 0x20 → a ≠ f.addr := fun ha ho => hf ▸ spanSlot_ne ha (GAL_EVENTS.eq_def d) ho
  rw [State.tileGivesUp_of_below ht hb]
  refine (hview.lendTile (s.gaveUp d t code) d (fun q => State.get_setTile hslot)
    (fun u v => State.get_put_apart (.inl (hne (TILE_STATUS.eq_def d 16) (by omega))))
    (fun u v => State.get_put_apart (.inl (hne (GAL_STATUS.eq_def d) (by omega)))) (fun u => State.get_raise_apart hmove) _).trans ?_
  exact (hview.gaveUp s d code ht).trans (State.get_stopped (hne (TILE_STATUS.eq_def d t) (by omega))
    (.inl (hne (TILE_FAULT.eq_def d t) (by omega))) hslot)

theorem State.tileGivesUp_now : (s.tileGivesUp d t code).now = s.now := by
  rw [State.tileGivesUp_of_below ht hb]
  refine (giveUpView_now.lendTile (s.gaveUp d t code) d (fun q => State.setTile_now _ _ _ _) (fun u v => State.put_now _ _ _)
    (fun u v => State.put_now _ _ _) (fun u => State.raise_now _ _) _).trans ?_
  exact (giveUpView_now.gaveUp s d code ht).trans State.stopped_now

end

/-- The bucket of a tile and its threshold lie in another block than the gallery's slots. -/
theorem State.GiveUpBelow.of_get {s u : State} {d t : Nat} (h : s.GiveUpBelow d t) (ht : t < 16)
    (hget : ∀ f : RF, addrBlock f.addr = 0x1E → u.get f = s.get f) : u.GiveUpBelow d t := by
  rw [State.GiveUpBelow, hget _ (addrBlock_UNIT_BKT d (by omega)), hget _ (addrBlock_spanSlot d (by omega) (by omega))]
  exact h

/-! ### BIST and retests (R275, R276, R279) -/

theorem TileSt.st_cleared (q : TileSt) : q.cleared.b0.st ≠ bkDISCARD ∧ q.cleared.b1.st ≠ bkDISCARD := by
  have hbank : ∀ k : Bank, (if k.st = bkDISCARD then Bank.reset else k).st ≠ bkDISCARD := fun k => by
    split
    · decide
    · assumption
  exact ⟨hbank q.b0, hbank q.b1⟩

/-- The result of a tile's test, with its discarded banks cleared. -/
def State.bistShown (s : State) (d t : Nat) (pass : Bool) : State :=
  when (!pass) (·.raise (GAL_EVENTS_BIST_FAIL d)) ((s.setTile d t (s.tile d t).cleared).put (TILE_FAULT_LAST_BIST d t) (b2n pass))

/-- The orders that a tile's discarded work runs again as. -/
def TileSt.reruns (q : TileSt) : List WOrder := q.redo.map fun o => { o with kind := 1 }

/-- A tile that passed its BIST, idle, with what was discarded at the head of its queue. -/
def State.rerun (s : State) (d t : Nat) : State :=
  let q := s.tile d t
  let s2 := ((s.bistShown d t true).put (TILE_STATUS_STATE d t) tsIDLE).setTile d t { q.cleared with redo := [] }
  let s3 := ((s2.requeue d t (s.get (TILE_CFG_LOGICAL d t)) q.reruns).bumpBy (GAL_COUNT_RERUNS d) q.reruns.length).raise (GAL_EVENTS_RERUN d)
  forAll q.reruns s3 fun u o => u.emit 0x61 d 5 t (s.get (TILE_CFG_LOGICAL d t)) o.si

section
variable {s : State} {d t : Nat} (hd : s.present d = true) (ht : t < 16)

section
variable (hst : s.get (TILE_STATUS_STATE d t) = tsBIST) (hloan : (s.gal d).loan = none)
include hd ht hst hloan

theorem exec_tileBistDone_of_pass : exec (.tileBistDone d t true) s = .next (s.rerun d t) := by
  have hguard : ¬ (s.present d = false ∨ 17 ≤ t) := by simp [hd]; omega
  have hgone : ¬ (tsBIST = tsGAVEUP ∨ tsBIST = tsDEACC) := by decide
  change execTileBistDone d t true s = _
  simp only [execTileBistDone, if_neg hguard, hst, if_neg hgone, ne_eq, not_true_eq_false, if_false, if_true, hloan, ok, State.rerun,
    State.bistShown, TileSt.reruns]

theorem exec_tileBistDone_of_fail :
    exec (.tileBistDone d t false) s = .next ((s.bistShown d t false).tileGivesUp d t 0x60) := by
  have hguard : ¬ (s.present d = false ∨ 17 ≤ t) := by simp [hd]; omega
  have hgone : ¬ (tsBIST = tsGAVEUP ∨ tsBIST = tsDEACC) := by decide
  change execTileBistDone d t false s = _
  simp only [execTileBistDone, if_neg hguard, hst, if_neg hgone, ne_eq, not_true_eq_false, if_false, Bool.false_eq_true, hloan, ok,
    State.bistShown]

end

theorem State.get_bistShown_of_block (pass : Bool) (ht : t < 17) {f : RF} (hf : addrBlock f.addr ≠ 0x16) :
    (s.bistShown d t pass).get f = s.get f := by
  have hput : ((s.setTile d t (s.tile d t).cleared).put (TILE_FAULT_LAST_BIST d t) (b2n pass)).get f = s.get f := by
    rw [State.get_put_of_block _ _ (by rw [TILE_FAULT_LAST_BIST, addrBlock_TILE_FAULT d ht]; exact hf),
      State.get_setTile fun h => hf (addrBlock_of_tileSlot ht h)]
  refine view_ite (π := (State.get · f)) ?_ rfl |>.trans hput
  exact State.get_put_of_block _ _ (by rw [GAL_EVENTS_BIST_FAIL, addrBlock_GAL_EVENTS]; exact hf)

theorem State.bistFail_bistShown : (s.bistShown d t false).get (GAL_EVENTS_BIST_FAIL d) = 1 :=
  State.get_raise_same _ (RF.fits rfl (by omega)) Nat.one_pos

theorem State.tile_rerun : (s.rerun d t).tile d t =
    { (s.tile d t).cleared with redo := [], queue := ((s.tile d t).reruns ++ (s.tile d t).queue).take 4 } := by
  rw [State.rerun]
  refine (foldl_leaves (State.tile · d t) (fun u o _ => State.tile_of_gals d t (State.emit_gals _ _ _ _ _ _ _)) _).trans ?_
  rw [State.raise, State.tile_put, State.bumpBy, State.tile_put, State.tile_requeue, State.tile_setTile_same]
  rfl

theorem State.lastBist_rerun (ht : t < 16) : (s.rerun d t).get (TILE_FAULT_LAST_BIST d t) = 1 := by
  have hview : GiveUpView (State.get · (TILE_FAULT_LAST_BIST d t)) :=
    giveUpView_get (by rw [TILE_FAULT_LAST_BIST, addrBlock_TILE_FAULT d (by omega)]; decide)
  have hslot := not_tileSlot_TILE_FAULT d t
  rw [State.rerun]
  refine (foldl_leaves (State.get · (TILE_FAULT_LAST_BIST d t)) (fun u o _ => hview.emit u _ _ _ _ _ _) _).trans ?_
  rw [State.get_raise_apart (RF.apart (GAL_EVENTS_RERUN.eq_def d) (TILE_FAULT_LAST_BIST.eq_def d t) (by omega)), State.bumpBy,
    State.get_put_apart (RF.apart (GAL_COUNT_RERUNS.eq_def d) (TILE_FAULT_LAST_BIST.eq_def d t) (by omega)), State.get_requeue _ _ _ _ _ hslot,
    State.get_setTile hslot, State.get_put_apart (RF.apart (TILE_STATUS_STATE.eq_def d t) (TILE_FAULT_LAST_BIST.eq_def d t) (by omega))]
  exact State.get_put_fits (RF.fits rfl (by omega))

/-- A retest at its time clears the tile's banks and shows its result. -/
def State.retested (s : State) (d t : Nat) (pass : Bool) : State :=
  let s0 := s.advance ((s.tile d t).tested + s.get (GAL_CFG_RETEST_S d) * tSec)
  (s0.setTile d t { (s.tile d t).cleared with tested := s0.now }).put (TILE_FAULT_LAST_BIST d t) (b2n pass)

section
variable (s) (pass : Bool)

theorem State.retested_now : (s.retested d t pass).now = max s.now ((s.tile d t).tested + s.get (GAL_CFG_RETEST_S d) * tSec) := by
  rw [State.retested, State.put_now, State.setTile_now, State.advance_now]

theorem State.passes_retested : (s.retested d t pass).get (TILE_FAULT_PASSES d t) = s.get (TILE_FAULT_PASSES d t) := by
  rw [State.retested, State.get_put_apart (RF.apart (TILE_FAULT_LAST_BIST.eq_def d t) (TILE_FAULT_PASSES.eq_def d t) (by omega)),
    State.get_setTile (not_tileSlot_TILE_FAULT d t), State.get_advance]

variable {s}
include hd ht

theorem exec_tileRetest_of_gaveUp (hst : s.get (UNIT_BKT_STATE d t) = 1) : exec (.tileRetest d t pass) s =
    .next (if pass then (s.retested d t pass).bump (TILE_FAULT_PASSES d t)
      else ((s.retested d t pass).put (TILE_FAULT_PASSES d t) 0).raise (GAL_EVENTS_BIST_FAIL d)) := by
  have hspare : t < 17 := by omega
  change execTileRetest d t pass s = _
  rw [execTileRetest, if_pos ⟨hd, hspare, hst⟩]
  cases pass <;> rfl

end

end

end Sys2Proof.Machine

namespace Sys2Proof.Machine

open Reg

/-! ### The watchdog of a tile (R277, R284) -/

/-- A watchdog comes WD_US after a tile's last progress. -/
def State.watched (s : State) (d t : Nat) : State :=
  (s.advance ((s.tile d t).progAt + s.get (GAL_CFG_WD_US d) * tUs)).raise (GAL_EVENTS_WATCHDOG d)

section
variable {s : State} {d t : Nat}

theorem State.watched_now : (s.watched d t).now = max s.now ((s.tile d t).progAt + s.get (GAL_CFG_WD_US d) * tUs) := by
  rw [State.watched, State.raise_now, State.advance_now]

theorem State.tile_watched : (s.watched d t).tile d t = s.tile d t := by
  rw [State.watched, State.raise, State.tile_put, State.tile_advance]

theorem State.get_watched_of_block {f : RF} (hf : addrBlock f.addr ≠ 0x16) : (s.watched d t).get f = s.get f := by
  rw [State.watched, State.raise, State.get_put_of_block _ _ (by rw [GAL_EVENTS_WATCHDOG, addrBlock_GAL_EVENTS]; exact hf), State.get_advance]

variable (hserves : s.tileServes d t = true) (hstate : s.get (UNIT_BKT_STATE d t) = 0)
include hserves hstate

theorem exec_tileWatchdog_of_off : exec (.tileWatchdog d t true) s = .next (s.tileGivesUp d t 0x62) := by
  have hon : (s.get (UNIT_BKT_STATE d t) == 0) = true := beq_iff_eq.mpr hstate
  change execTileWatchdog d t s true = _
  simp only [execTileWatchdog, hserves, Bool.true_eq_false, if_false, if_true, hon, when, ok]

/-- With no seal due, the watchdog's seals leave the tile as it is. -/
theorem exec_tileWatchdog_of_stuck (ht : t < 17) (hdue : (s.bankReady d (s.tile d t).b0 || s.bankReady d (s.tile d t).b1) = true)
    (hseal : ∀ b, ((s.tile d t).bank b).st ≠ bkSEAL) :
    exec (.tileWatchdog d t false) s = .next ((s.watched d t).tileGivesUp d t 0x62) := by
  have hnone : ∀ b, (((s.watched d t).tile d t).bank b).st ≠ bkSEAL := fun b => State.tile_watched (s := s) ▸ hseal b
  have hseals : (forAll [0, 1] (s.watched d t) fun u b => when (((u.tile d t).bank b).st == bkSEAL) (·.sealBank d t b) u) = s.watched d t := by
    simp only [forAll, List.foldl_cons, List.foldl_nil, when, beq_iff_eq, hnone, if_false]
  have hon : ((s.watched d t).get (UNIT_BKT_STATE d t) == 0) = true := by
    rw [State.get_watched_of_block (by rw [UNIT_BKT_STATE, addrBlock_UNIT_BKT d (by omega)]; omega), hstate]; rfl
  change execTileWatchdog d t s false = _
  simp only [State.watched] at hseals hon ⊢
  simp only [execTileWatchdog, hserves, Bool.true_eq_false, Bool.false_eq_true, if_false, if_pos hdue, hseals, ok]
  rw [when, if_pos hon]

end

theorem TileSt.bank_eq_or_opposite (q : TileSt) {b : Nat} (hb : b < 2) (a : Nat) : q.bank a = q.bank b ∨ q.bank a = q.bank (1 - b) := by
  obtain rfl | rfl : b = 0 ∨ b = 1 := by omega
  · by_cases ha : a = 0 <;> simp [TileSt.bank, ha]
  · by_cases ha : a = 0 <;> simp [TileSt.bank, ha]

section
variable {s : State} {d t b : Nat} (haccum : (s.tile d t).accum = some b)
include haccum

/-- The bank of a complete segment may go on. -/
theorem State.bankReady_of_accum (hready : s.segReady d ((s.tile d t).bank b).folio = true) :
    (s.bankReady d (s.tile d t).b0 || s.bankReady d (s.tile d t).b1) = true := by
  have hk : s.bankReady d ((s.tile d t).bank b) = true := by simp [State.bankReady, TileSt.accum_eq_some haccum, hready]
  by_cases h0 : b = 0
  · rw [TileSt.bank, if_pos h0] at hk
    rw [hk, Bool.true_or]
  · rw [TileSt.bank, if_neg h0] at hk
    rw [hk, Bool.or_true]

theorem State.st_ne_seal_of_accum (hother : ((s.tile d t).bank (1 - b)).st ≠ bkSEAL) (a : Nat) : ((s.tile d t).bank a).st ≠ bkSEAL := by
  obtain ⟨hb, hst⟩ := TileSt.accum_eq_some haccum
  rcases (s.tile d t).bank_eq_or_opposite hb a with h | h <;> rw [h]
  · exact hst.trans_ne (by decide)
  · exact hother

end

/-! ### Boundaries of short integrations (R266, R325, R337) -/

section
variable (s : State) (d n : Nat)

theorem State.bound_showDone (k : Nat) : ((s.showDone d k).gal d).bound = (s.gal d).bound := by
  induction k generalizing s with
  | zero => rfl
  | succ k ih =>
    rw [State.showDone]
    refine view_ite (π := fun s : State => (s.gal d).bound) ?_ rfl
    rw [ih, State.gal_put, State.gal_set_same]

theorem State.bound_galBoundary : ((s.galBoundary d n).gal d).bound = s.siSkip d (n + 1) := by
  rw [State.galBoundary, State.bound_showDone, State.gal_of_gals d (State.showGt_gals _ d), State.gal_set_same]

theorem State.ledBoundary_gals : (s.ledBoundary d n).gals = s.gals := by
  have hdumps : ∀ u : State, (u.showDumps d).gals = u.gals := fun u =>
    foldl_leaves State.gals (fun u x _ => by dsimp only; rw [State.put_gals, State.putBit, State.put_gals]) u
  refine foldl_leaves State.gals (fun u x _ => view_ite (π := State.gals) ?_ rfl) s
  rw [State.closeSet]
  split
  · rw [hdumps, State.put_gals, State.setLed_gals]
  · exact view_ite (π := State.gals) rfl (State.setLed_gals _ _ _)

theorem State.siSkip_advance (k : Nat) : (s.advance k).siSkip d n = s.siSkip d n := rfl

/-- The beam engine past short integration `n`, whose records the ledger has and whose detectors are saved. -/
def State.beClosed (s : State) (d n : Nat) : State :=
  let q := s.be d
  let low := s.beFirst d (s.siSkip d (n + 1)) / max 1 (s.get (BE_CFG_UPD_FOLIOS d))
  (((s.setLed d { s.led d with
    beamQ := (s.led d).beamQ ++ s.beRecords d,
    beamStale := (s.led d).beamStale ++ q.flagged.map fun j => (s.get (LED_GEOM_VIS_BLOCKS d) + j, n) }).setBe d { q with
    sums := [], pos := [], flagged := [], si := s.siSkip d (n + 1), again := none, ints := q.ints.filter fun x => decide (low ≤ x.k) }).put
    (BE_STATUS_SI_DONE d) n).beSave d

theorem State.beSave_gals : (s.beSave d).gals = s.gals := by rw [State.beSave, State.setBe_gals]

theorem State.si_beSave : ((s.beSave d).be d).si = (s.be d).si := by rw [State.beSave, State.be_set_same]

theorem State.beBoundary_gals : (s.beBoundary d n).gals = s.gals := by
  unfold State.beBoundary
  extract_lets q _ s1 low s2 s3
  have h3 : s3.gals = s.gals := by rw [State.beSave_gals, State.put_gals, State.setBe_gals, State.setLed_gals]
  exact view_ite (π := State.gals) (State.setBe_gals _ _ _)
    (view_ite (π := State.gals) (view_ite (π := State.gals) ((State.put_gals _ _ _).trans h3) h3) rfl)

section
variable {s} {d n}

theorem State.beBoundary_of_done (hsi : (s.be d).si = n) (hdone : s.passesDone d = true) (hst : s.get (BE_STATUS_STATE d) ≠ 3) :
    s.beBoundary d n = if (s.beClosed d n).get (BE_STATUS_STATE d) = 2 then (s.beClosed d n).put (BE_STATUS_STATE d) 1 else s.beClosed d n :=
  (if_neg hst).trans (if_pos ⟨hsi, hdone⟩)

/-- The state that the beam engine shows does not change what it hands over. -/
theorem State.beBoundary_leaves {γ : Type} {π : State → γ} (hπ : ∀ s v, π (State.put s (BE_STATUS_STATE d) v) = π s)
    (hsi : (s.be d).si = n) (hdone : s.passesDone d = true) (hst : s.get (BE_STATUS_STATE d) ≠ 3) :
    π (s.beBoundary d n) = π (s.beClosed d n) := by
  rw [State.beBoundary_of_done hsi hdone hst]
  exact view_ite (hπ _ _) rfl

variable (hd : s.present d = true) (hruns : s.runs = true)
include hd hruns

theorem exec_shortIntegrationBoundary_of_bound (hn : n = (s.gal d).bound) (hprog : s.nvm.progOn = true) :
    exec (.shortIntegrationBoundary d n) s =
      .next ((((s.advance (s.gridTime d (4096 * s.siFirst d (n + 1)))).galBoundary d n).ledBoundary d n).beBoundary d n) := by
  have hguard : ¬ (s.present d = false ∨ s.runs = false) := by simp [hd, hruns]
  change execShortIntegrationBoundary d n s = _
  rw [execShortIntegrationBoundary, if_neg hguard]
  simp only [if_pos (And.intro hn hprog), ok]

theorem exec_shortIntegrationBoundary_of_other (hn : n ≠ (s.gal d).bound) :
    exec (.shortIntegrationBoundary d n) s = .next (s.beBoundary d n) := by
  have hguard : ¬ (s.present d = false ∨ s.runs = false) := by simp [hd, hruns]
  have hbound : ¬ (n = (s.gal d).bound ∧ s.nvm.progOn = true) := fun h => hn h.1
  change execShortIntegrationBoundary d n s = _
  rw [execShortIntegrationBoundary, if_neg hguard]
  simp only [if_neg hbound, ok]

end

theorem State.si_beClosed : ((s.beClosed d n).be d).si = s.siSkip d (n + 1) := by
  rw [State.beClosed, State.si_beSave, State.be_put, State.be_set_same]

theorem State.siDone_beClosed : (s.beClosed d n).get (BE_STATUS_SI_DONE d) = n % 2 ^ 48 := by
  rw [State.beClosed, State.beSave, State.get_setBe]
  exact State.get_put_fits (RF.fits rfl (by omega))

theorem State.beamQ_beClosed : ((s.beClosed d n).led d).beamQ = (s.led d).beamQ ++ s.beRecords d := by
  have hled : ∀ {u v : State}, u.leds = v.leds → u.led d = v.led d := fun h => by rw [State.led, h, State.led]
  rw [State.beClosed, State.beSave, hled (State.setBe_leds _ _ _), State.led_put, hled (State.setBe_leds _ _ _), State.led_set_same]

end

/-- Settles O40: clause by clause from what giving up leaves and sets, from the answers of a tile's tests, and from the gallery's and the beam
engine's parts of a boundary. -/
theorem gallerySurvivesFaults : Obligations.GallerySurvivesFaults := by
  unfold Obligations.GallerySurvivesFaults
  intro s d x hd hx
  refine ⟨fun hst hloan => ⟨?pass, fun hb => ?fail⟩, fun b hserves haccum hready hother hstate hb => ?stuck,
    fun hserves hstate hb => ?off, fun hst => ⟨?retestPass, ?retestFail⟩, fun n hruns => ⟨fun hn hprog => ?bound,
      fun hn hsi hdone hst => ?beam⟩⟩
  case pass =>
    obtain ⟨h0, h1⟩ := (s.tile d x).st_cleared
    refine ⟨_, exec_tileBistDone_of_pass hd hx hst hloan, ?_⟩
    rw [State.tile_rerun]
    exact ⟨rfl, State.lastBist_rerun hx, rfl, h0, h1⟩
  case fail =>
    have hbelow : (s.bistShown d x false).GiveUpBelow d x := State.GiveUpBelow.of_get hb hx fun f hf =>
      State.get_bistShown_of_block false (by omega) (by omega)
    refine ⟨_, exec_tileBistDone_of_fail hd hx hst hloan, State.state_tileGivesUp hx hbelow, ?_⟩
    exact (State.event_tileGivesUp hx hbelow rfl (RF.apart (GAL_EVENTS_MOVE.eq_def d) (GAL_EVENTS_BIST_FAIL.eq_def d) (by omega))).trans
      State.bistFail_bistShown
  case stuck =>
    have hbelow : (s.watched d x).GiveUpBelow d x := State.GiveUpBelow.of_get hb hx fun f hf => State.get_watched_of_block (by omega)
    refine ⟨_, exec_tileWatchdog_of_stuck hserves hstate (by omega) (State.bankReady_of_accum haccum hready)
      (State.st_ne_seal_of_accum haccum hother), State.state_tileGivesUp hx hbelow, ?_, ?_⟩
    · exact (State.event_tileGivesUp hx hbelow rfl (RF.apart (GAL_EVENTS_MOVE.eq_def d) (GAL_EVENTS_WATCHDOG.eq_def d) (by omega))).trans
        (State.get_raise_same _ (RF.fits rfl (by omega)) Nat.one_pos)
    · rw [State.tileGivesUp_now hx hbelow, State.watched_now]
  case off =>
    exact ⟨_, exec_tileWatchdog_of_off hserves hstate, State.state_tileGivesUp hx hb, State.tileGivesUp_now hx hb⟩
  case retestPass =>
    refine ⟨_, exec_tileRetest_of_gaveUp hd hx true hst, ?_, ?_⟩
    · rw [if_pos rfl, State.get_bump_same _ (RF.fits (TILE_FAULT_PASSES.eq_def d x) (by omega)), State.passes_retested]
      rfl
    · rw [if_pos rfl, State.bump_now, State.retested_now]
  case retestFail =>
    refine ⟨_, exec_tileRetest_of_gaveUp hd hx false hst, ?_, ?_⟩ <;> rw [if_neg Bool.false_ne_true]
    · rw [State.get_raise_apart (RF.apart (GAL_EVENTS_BIST_FAIL.eq_def d) (TILE_FAULT_PASSES.eq_def d x) (by omega))]
      exact State.get_put_fits (RF.fits rfl (by omega))
    · exact State.get_raise_same _ (RF.fits rfl (by omega)) Nat.one_pos
  case bound =>
    refine ⟨_, exec_shortIntegrationBoundary_of_bound hd hruns hn hprog, ?_⟩
    rw [State.gal_of_gals d (State.beBoundary_gals _ d n), State.gal_of_gals d (State.ledBoundary_gals _ d n), State.bound_galBoundary,
      State.siSkip_advance]
  case beam =>
    refine ⟨_, exec_shortIntegrationBoundary_of_other hd hruns hn, ?_, ?_, ?_, State.beBoundary_gals s d n⟩
    · rw [State.beBoundary_leaves (π := fun s => (s.be d).si) (fun _ _ => by rw [State.be_put]) hsi hdone hst, State.si_beClosed]
    · rw [State.beBoundary_leaves (π := (State.get · (BE_STATUS_SI_DONE d))) (fun _ _ => State.get_put_apart (RF.apart rfl rfl (by omega)))
        hsi hdone hst, State.siDone_beClosed]
    · rw [State.beBoundary_leaves (π := fun s => (s.led d).beamQ) (fun _ _ => by rw [State.led_put]) hsi hdone hst, State.beamQ_beClosed]

end Sys2Proof.Machine

namespace Sys2Proof.Machine

open Reg

/-! ### A set number beyond a die's sixteen dump sets (R302, R303, R458)

The slots that the register table's formula gives to set numbers from 16 on run on through the state map. `clogSet` is the number
whose DSET_LAST on die 0 is the GRAIN slot of entry 1 of the command ledger: the end of its dump sets LAST_SI, and then the
completion of the DUMP command logged in that entry writes its grain over it. -/

def clogSet : Nat := (CLOG1 1 - DSET_LAST 0 0) / 0x100

theorem DSET_LAST_clogSet : DSET_LAST 0 clogSet = CLOG1 1 := by decide

/-- A DUMP command of host port A for grain 5, in entry 1 of the command ledger. -/
def clogSetCmd : CmdHdr := { src := 0, tag := 0, opcode := 0x12, seq := 0, grain := 5, log := 1 }

/-- The dump of the set at the end of short integration 0, no block handed over yet. -/
def clogSetRun : DumpRun := { set := clogSet, first := 0, n := 0, next := 0 }

/-- Die 0 in OBSERVE dumps the set, of one block, for the command. -/
def clogSetDumps : State :=
  { ((inM mOBSERVE).put (DSET_CFG_NBLK 0 clogSet) 1).setLed 0 { LedSt.reset with runs := [clogSetRun] } with
    rg := { RgSt.reset with running := [⟨clogSetCmd, .dump clogSet [0]⟩] } }

/-- The dump is at the last block of the set, and the block's header shows its short integration. -/
theorem clogSetDumps_at_last_block : clogSetDumps.dumpRun 0 clogSet = some clogSetRun ∧
    clogSetRun.next + 1 = clogSetDumps.get (DSET_CFG_NBLK 0 clogSet) ∧
    (let h := clogSetDumps.ledHdr 0 (clogSetDumps.get (DSET_CFG_FIRST_BLK 0 clogSet) + clogSetRun.next)
     hdLAST h = clogSetRun.n ∧ hdBit h hbFRESH = false) := by
  decide +kernel

/-- After that block LAST_SI shows the grain of the command, which the completion wrote into the slot the two share. -/
theorem lastSi_after_clogSetDumps :
    after (exec (.dumpUnit 0 clogSet false []) clogSetDumps) (fun t => t.get (DSET_LAST_LAST_SI 0 clogSet) == clogSetCmd.grain) =
      true := by
  simp only [DSET_LAST_LAST_SI, DSET_LAST_clogSet]
  decide +kernel

/-- What is evaluated after a step holds of the state that the step answers. -/
theorem of_after_next {o : Host.Outcome State Fault Refusal} {p : State → Bool} {t : State} (h : after o p = true) (ho : o = .next t) :
    p t = true := by
  subst ho
  exact h

/-- Refutes O41: its clause on a dump's last block bounds neither the set number nor the headers of the commands that wait. In
`clogSetDumps` that block ends the dump of short integration 0, but the completion of the DUMP command leaves grain 5 in the slot
of LAST_SI (`DSET_LAST_clogSet`). -/
theorem not_ledgerAppliesRecords : ¬ Obligations.LedgerAppliesRecords := by
  unfold Obligations.LedgerAppliesRecords
  intro h
  obtain ⟨-, -, hdump, -⟩ := h clogSetDumps 0 0 0
  obtain ⟨hrun, hblock, hlast, hfresh⟩ := clogSetDumps_at_last_block
  obtain ⟨-, hend, -⟩ := hdump clogSet clogSetRun hrun
  obtain ⟨t, hexec, -, hshown, -⟩ := hend hblock hlast hfresh
  have hgrain : t.get (DSET_LAST_LAST_SI 0 clogSet) = clogSetCmd.grain :=
    beq_iff_eq.mp (of_after_next lastSi_after_clogSetDumps hexec)
  have hne : clogSetCmd.grain ≠ clogSetRun.n % 2 ^ 48 := by decide
  exact hne (hgrain.symm.trans hshown)

end Sys2Proof.Machine
